-- ==== Sys2Proof/Word.lean ====
section
/-! DEFINITION. The word types of the Falerator 8 and the plain operand types of its commands (the contents of a packet,
a codeword, a training frame, a reading): data that arrives from outside with a command. -/

namespace Sys2Proof

/-- One byte of memory or of a packet. -/
abbrev Byte := BitVec 8

/-- One 32-bit word: a register, a time-base value, a Knathal instruction field group (R11, R100). -/
abbrev Word := BitVec 32

/-- The signed 32-bit difference `a − b` by which every time comparison reads (R137). -/
def sdiff (a b : Word) : Int := (a - b).toInt

/-- How an access from outside reaches the register space (R13, R378, R387, R390). -/
inductive Path where
  | bar0 | jtag | fabric
deriving DecidableEq, Repr

/-- The supplies that an under-voltage monitor watches (R407). -/
inductive Supply where
  | vcore | vsram | vpll | vsd075
deriving DecidableEq, Repr

/-- The fuse fields of R385. -/
inductive FuseField where
  | grade | authEn | jtagLock | keyHash | rollback | pciVid | user | tvedveram
deriving DecidableEq, Repr

/-- Who issues a Knathal instruction: one of the 48 presses or one of the 16 sequencer threads (R103, R130). -/
inductive Issuer where
  | press (n : Fin 48)
  | thread (t : Fin 16)
deriving DecidableEq, Repr

/-- The fields of a Knathal word that its row leaves open (R100): three register fields, the predicate field, the low
byte where it is an operand, and the immediate of a long form (R101). -/
structure Opnd where
  dst  : BitVec 5
  srcA : BitVec 5
  srcB : BitVec 5
  pred : BitVec 3
  low  : BitVec 8
  long : Option Word
deriving DecidableEq, Repr

/-- The three encodings of a vector operation: VOP, VOPS and the long form (R101, R109). -/
inductive VForm where
  | vv | vs | imm (w : Word)
deriving DecidableEq, Repr

/-- A training frame as received on one lane, its FILL left out (R198). -/
structure TrainFrame where
  marker    : Word
  cap       : Word
  capCrc    : BitVec 16
  ident     : Word
  identCrc  : BitVec 16
  status    : BitVec 16
  statusCrc : BitVec 16
deriving DecidableEq, Repr

/-- A cell: its 2-byte header and its payload bytes (R193). -/
structure Cell where
  hdr     : BitVec 16
  payload : List Byte
deriving DecidableEq, Repr

/-- The message of a codeword: its header fields and its ten cells (R192). -/
structure Codeword where
  seq   : BitVec 8
  ack   : BitVec 8
  nak   : Bool
  rpl   : Bool
  echo  : Bool
  retx  : Bool
  cells : List Cell
deriving DecidableEq, Repr

/-- An alignment block, its FILL left out (R196). -/
structure AlignBlock where
  am      : Word
  lane    : BitVec 2
  txMask  : BitVec 4
  rxMask  : BitVec 4
  oot     : Bool
  cwCount : BitVec 16
  crc     : BitVec 16
deriving DecidableEq, Repr

/-- A packet: the TYPE and CLASS of its cells and its payload bytes from FIRST to LAST (R208, R209). -/
structure Packet where
  ty   : BitVec 4
  up   : Bool
  data : List Byte
deriving DecidableEq, Repr

/-- A time token and whether its codeword had RETX set (R221, R222). -/
structure TimeToken where
  txNs    : Word
  txFrac  : BitVec 16
  id      : BitVec 8
  echoId  : BitVec 8
  rxNs    : Word
  rxFrac  : BitVec 16
  credits : BitVec 16
  retx    : Bool
deriving DecidableEq, Repr

/-- A management request (R218). -/
structure MgmtReq where
  srcX    : Byte
  srcY    : Byte
  route   : Bool
  countM1 : BitVec 3
  tag     : BitVec 10
  epoch   : BitVec 6
  session : BitVec 64
  addr    : Word
  data    : List Word
deriving DecidableEq, Repr

/-- The four rail faults of R299. -/
inductive RailFaultKind where
  | uv | ov | oc | noStart
deriving DecidableEq, Repr

/-- What a DRAM request asks for (R328). -/
inductive DramOp where
  | read (n : Nat)
  | write (data : List Byte)
deriving DecidableEq, Repr

/-- An error that a read meets: an address in the failing 64-byte burst of DRAM (R337) or 64-bit word of on-chip memory (R322),
and whether its code corrects it. -/
structure EccHit where
  addr  : Nat
  fixed : Bool
deriving DecidableEq, Repr

/-- The sources of DRAM requests (R329). -/
inductive DramSource where
  | spill (n : Fin 48) | lane (n : Fin 32) | racking | rawRing | recorder | panelCmd | calReload | hostDma (r : Fin 4)
deriving DecidableEq, Repr

/-- One sample of a temperature sensor (R363): a reading in 1/128 °C, or how the conversion failed. -/
inductive Reading where
  | temp (t : BitVec 16) | opened | shorted | timeout
deriving DecidableEq, Repr

/-- A change of the PCI Express link (R391). -/
inductive PcieChange where
  | up | down | reduced
deriving DecidableEq, Repr

end Sys2Proof
end

