-- ==== Sys2Proof/Syntax.lean ====
section
/-! DEFINITION. The commands of the Falerator 8: one constructor for each row of the table of operations and events,
in the table's order, each with the rule that governs it. A register write that has a row of its own carries only what that
row acts on; a happening carries the instance it happens to and the values that come from outside the device. -/

namespace Sys2Proof

/-- The commands, one constructor for each row of spec/opcode_table.json. -/
inductive Instr where
  /-- A write through any access path to a register that has no row of its own takes effect under its fields' access codes (R11). -/
  | registerWrite (path : Path) (addr : Word) (value : Word)
  /-- RESET_N held low for at least 1 µs, or the first rise of VDDAO, resets the registers and then starts the fuse sense, the PLL lock and the loader (R379). -/
  | reset (vddaoRise : Bool)
  /-- A monitored supply below its threshold for 1 µs resets the device as RESET_N does, and the high-voltage die settles the outputs and turns the rails off (R407). -/
  | undervoltageReset (supply : Supply)
  /-- Removal of VDDAO clears the WOS fields, a latched shutdown and the ledgers (R406). -/
  | vddaoRemoval
  /-- A complete staged container is checked and authenticated, and its segments are copied into place (R382). -/
  | bootContainerReceived (bytes : List Byte)
  /-- No container arrives within 10 s, so the boot fails with cause 1 (R382). -/
  | bootTimeout
  /-- A write of TOP_BOOT_CTL.DOORBELL marks a PCIe-loaded container complete; it is ignored while a load or check runs (R384). -/
  | bootDoorbell
  /-- Fuse bits are programmed from 0 to 1 through JTAG while JTAG_LOCK is clear, and take effect at the next reset (R385). -/
  | fuseProgram (field : FuseField) (bit : Nat)
  /-- A JTAG debug attach, allowed only while JTAG_LOCK is clear, raises boot event 5 (R390). -/
  | jtagAttach
  /-- An armed comparator whose signed difference to the time base reaches 0 fires: it drives its launch line, sets FIRED and disarms (R139). -/
  | comparatorFire (c : Fin 64)
  /-- The tile sends its Updraft readiness report for a decoded frame within 1 µs (R23). -/
  | readinessReportSend
  /-- A write that sets SEQ_FRM_FORMAT.HOLD requests HOLD; it applies at once if no frame's slots are running (R29). -/
  | holdSet
  /-- HOLD applies at the end of the current frame's last slot, drops pending selections and relights bands through slot 0 (R29). -/
  | holdApply
  /-- A write that clears HOLD takes effect at the next launch, or at the following one if it lands late (R29). -/
  | holdClear
  /-- SEQ_FRM_CTL.COMMIT checks the shadow set and schedules it for a launch, or refuses it whole (R28). -/
  | frameCommit
  /-- Writing SEQ_FRM_CTL.CLR_COUNT clears SEQ_FRM_COUNT (R27). -/
  | clrCount
  /-- The distributor issues the next bundle of the band with the earliest streaming opening to a free press (R75). -/
  | bundleIssue (n : Fin 48)
  /-- The angle-row and frame-constant copies complete, and bundles of the frame may be issued (R76). -/
  | angleCopyDone
  /-- Once the band is synthesised and its window is open, each lane streams the band line as a BAND block, data blocks and an END block (R257). -/
  | bandLineSend (p : Fin 4) (l : Fin 8) (n : Nat)
  /-- At the end of a measurement window every unit's RATE and minimum are updated (R32). -/
  | rmonWindowEnd
  /-- Writing TOP_RMON_CTL.CLR_MIN resets every unit's minimum (R32). -/
  | rmonClrMin
  /-- TRL_GEOM_CTL.APPLY checks the shadow geometry, band table, lane maps and GOA timing, and activates them during HOLD or refuses them (R43). -/
  | geomApply
  /-- A TRL_SAT_BASE write that places the table outside the on-chip range is ignored and sets BASE_BAD (R46). -/
  | trlSatBaseWrite (value : Word)
  /-- A reassembled stripe enters the stripe queue, or is discarded as unmatched, repeated or queue-full (R174). -/
  | stripeArrival (bytes : List Byte)
  /-- Decode of an accepted frame begins once a store half is released, and DP, K0 and K1 are computed (R25). -/
  | frameDecodeStart
  /-- A stream decoder takes the next stripe from the queue, checks it and decodes it into the key-view store (R161). -/
  | stripeDecode (n : Fin 32) (stall : Bool)
  /-- A suspended decoder resumes when input, a referenced check or write room becomes available (R176). -/
  | decoderResume (n : Fin 32)
  /-- A changed codec lane MODE takes effect once the lane has finished its current stripe or job (R154). -/
  | laneModeApply (n : Fin 32)
  /-- Writing CODEC_LANE_CFG_n.FLUSH requests an early end of the stripe being encoded (R183). -/
  | flush (n : Fin 32)
  /-- At the end of the line in progress the stripe is emitted with FLUSHED set and a new stripe starts (R183). -/
  | flushApply (n : Fin 32) (lines : Nat) (ecc : List EccHit)
  /-- A write of CODEC_SRC.SEL discards the queue and abandons incomplete frames (R188). -/
  | codecSrcSelect (sel : Bool)
  /-- Writing CODEC_STRIPE_ERR.CLR clears the stripe error and drop counters (R186). -/
  | codecStripeClr
  /-- Writing CODEC_TDV_REJECT.CLR clears COUNT and CAUSE (R72). -/
  | tdvRejectClr
  /-- Writing 1 to CODEC_REC_CTL.EN starts recording again at offset 0 (R189). -/
  | recEnable
  /-- A job lane encodes a plane into stripes, choosing a predictor per block (R181). -/
  | encodePlane (n : Fin 32) (blocked : Bool) (ecc : List EccHit)
  /-- A job lane copies a frame header into a TYPE 1 stripe (R181). -/
  | encodeHeader (n : Fin 32) (ecc : List EccHit)
  /-- A job lane reads a clip from DRAM in class C0 and places its stripes in the stripe queue (R187). -/
  | playClip (n : Fin 32) (ecc : List EccHit)
  /-- A suspended encoder resumes when its output is accepted again (R184). -/
  | encoderResume (n : Fin 32) (ecc : List EccHit)
  /-- A codec job ends: STATUS is written and event 2 is raised if NOTIFY is set, or event 3 on error (R185). -/
  | codecJobDone (n : Fin 32)
  /-- A training frame with correct CRCs advances lock, capability acceptance and adaptation of a Zhevlum Link port (R197). -/
  | trainingFrameRx (p : Fin 4) (lane : Fin 4) (frame : TrainFrame)
  /-- At the 64th marker after mutual acceptance, the port switches to the resolved rate (R197). -/
  | linkRateSwitch (p : Fin 4)
  /-- A port that failed to train retries every RETRY_MS (R202). -/
  | trainingRetry (p : Fin 4)
  /-- The transmitter forms a codeword from waiting cells, link-control cells with time tokens, or empty cells (R194). -/
  | codewordTx (p : Fin 4)
  /-- A received codeword is decoded, accepted if in order, or answered with NAK; its ACK and NAK fields drive the replay (R205). -/
  | codewordRx (p : Fin 4) (line : List (List (BitVec 2)))
  /-- A codeword unacknowledged for 2 µs, or sent 4 times, takes the port down to retrain (R206). -/
  | ackTimeout (p : Fin 4)
  /-- Each lane inserts an alignment block after 304,640 bits of symbols (R191). -/
  | alignmentBlockTx (p : Fin 4) (lane : Fin 4)
  /-- An accepted alignment block deskews the lanes; an out-of-turn block starts a remap onto the new lane mask (R196). -/
  | alignmentBlockRx (p : Fin 4) (lane : Fin 4) (blk : AlignBlock)
  /-- A lane losing alignment lock or exceeding LANE_LIMIT is declared failed, and an out-of-turn block is sent (R207). -/
  | laneFail (p : Fin 4) (lane : Fin 4)
  /-- Restriping onto the remaining lanes completes and traffic resumes with a replay (R207). -/
  | remapComplete (p : Fin 4) (receive : Bool)
  /-- A remap not complete within 8 µs takes the port down (R207). -/
  | remapTimeout (p : Fin 4)
  /-- A port goes down on lock loss; its queued packets are discarded and counted, and it retrains (R207). -/
  | portDown (p : Fin 4)
  /-- Writing ZL_p_CFG.EN 1 starts training (R224). -/
  | portEnable (p : Fin 4)
  /-- Writing ZL_p_CFG.EN 0 takes the port down at once and discards its queues (R224). -/
  | portDisable (p : Fin 4)
  /-- Writing ZL_p_CFG.RETRAIN takes the port down and retrains it (R224). -/
  | portRetrain (p : Fin 4)
  /-- Writing ZL_p_CFG.WAKE sends WAKE_REQ in the next training exchange (R204). -/
  | portWake (p : Fin 4)
  /-- Writing ZL_p_CLR clears the port's error, drop and time-token counters (R224). -/
  | zlPortClr (p : Fin 4)
  /-- A whole received packet is checked, forwarded by the stream table or tile address, or delivered locally (R210). -/
  | packetRx (p : Fin 4) (pkt : Packet)
  /-- An accepted launch token is stored and, by its lead, marks MISSED, is dropped, or arms comparator 0 (R146). -/
  | launchTokenRx (time : Word) (fseq : Word) (transition : Bool)
  /-- A readiness report from a member sets its bit in GOT or NEXT, updates LAST and may set ALL (R149). -/
  | readinessReportRx (x : Byte) (y : Byte) (fseq : Word) (tb : Word)
  /-- An event packet at the hub is written to the Updraft ring, or dropped as duplicate or overflow (R396). -/
  | eventPacketRx (x : Byte) (y : Byte) (source : BitVec 10) (lost : Byte) (tb : Word)
  /-- On a raw-mode port, a type 6 packet's data is written to the raw ring, or dropped when the ring is full (R223). -/
  | rawPacketRx (p : Fin 4) (data : List Byte)
  /-- Advancing ZL_RAW_RPTR frees ring space and returns credits (R223). -/
  | rawRptrWrite (value : Word)
  /-- A time token that echoes a recent token updates TT_DELAY and TT_OFFSET (R222). -/
  | timeTokenRx (p : Fin 4) (tok : TimeToken)
  /-- An accepted management read request performs its reads and answers along ROUTE (R219). -/
  | mgmtRead (p : Fin 4) (req : MgmtReq)
  /-- An accepted management write request performs its writes without a response (R219). -/
  | mgmtWrite (p : Fin 4) (req : MgmtReq)
  /-- An accepted write-with-response request performs its writes and answers along ROUTE (R219). -/
  | mgmtWriteResp (p : Fin 4) (req : MgmtReq)
  /-- A response of the current epoch is written to the response ring; other responses are counted stale (R220). -/
  | mgmtResponseRx (bytes : List Byte)
  /-- Writing ZL_MTX_CTL.SEND sends the request image with SRC and EPOCH filled in (R220). -/
  | mgmtSend
  /-- Writing ZL_TXS_k.SYNC makes the next packet start a new session (R213). -/
  | txsSync (k : Fin 64)
  /-- A transmitted stripe is cut into packets, each given the next SSN and sent on its paths (R213). -/
  | streamTxPacket (k : Fin 64)
  /-- Any write of ZL_LSTREAM_k restarts the entry with no session (R214). -/
  | lstreamWrite (k : Fin 8) (value : Word)
  /-- A read or write of ZL_STAB_DATA accesses entry INDEX and advances INDEX (R225). -/
  | stabDataAccess (value : Option Word)
  /-- A write of TB_SW_ERR_NS delivers a software measurement (R230). -/
  | tbSwErrWrite (value : Word)
  /-- Loss of the selected source raises event 1 and enters DOLDRUMS from FOLLOW (R234). -/
  | tbSourceLoss
  /-- Writing TB_CTL.FORCE makes the next measurement a step (R235). -/
  | tbForce
  /-- A TB_CTL write that changes SRC keeps I, sets RATE = I and enters DOLDRUMS except from ACQUIRE (R233). -/
  | tbSrcWrite (value : Word)
  /-- With SRC 0, a write of TB_RATE sets RATE and I, clamped (R250). -/
  | tbRateWrite (value : Word)
  /-- A write of TB_RATE_LIMIT sets the limit and clamps RATE and the integrator at once (R229). -/
  | tbRateLimitWrite (value : Word)
  /-- A read of TB_NOW_NS returns NS and latches the matching fraction into TB_NOW_FRAC (R228). -/
  | tbNowRead
  /-- An edge on TB_IN[k] captures the time base and raises capture or overrun events; for genlock it gives a measurement (R241). -/
  | tbInCapture (k : Fin 4) (rising : Bool) (sixteenth : BitVec 4) (width : Nat)
  /-- A read of TB_IN_k_NS marks the capture as read for overrun detection (R241). -/
  | tbInRead (k : Fin 4)
  /-- An expected genlock edge passes half a period without a capture; X advances and a missing edge is counted (R242). -/
  | genlockEdgeMissing
  /-- A write of TB_GL_PHASE with SRC 2 resets the expected edge X (R242). -/
  | glPhaseWrite (value : Word)
  /-- A TB_OUT pulse starts at its grid point (R243). -/
  | tbOutEdge (k : Fin 4)
  /-- A TB_OUT pulse ends after WIDTH (R243). -/
  | tbOutPulseEnd (k : Fin 4)
  /-- Enabling TB_OUT places the first edge on the grid at or after the present (R243). -/
  | tbOutEnable (k : Fin 4)
  /-- A write of TB_OUT_k_STEP moves the grid from the next edge and raises event 16 + k (R243). -/
  | tbOutStep (k : Fin 4) (value : BitVec 16)
  /-- A received Ethernet frame is written to the receive ring with a PTP stamp, or dropped with the ring full (R246). -/
  | ethFrameRx (p : Fin 2) (bytes : List Byte) (fcsOk : Bool) (ns : Word) (frac : BitVec 16)
  /-- A posted transmit descriptor's frame is sent, with one-step fields written and a stamp queued if requested (R246). -/
  | ethFrameTx (p : Fin 2) (ns : Word) (frac : BitVec 16)
  /-- Writing ETH_p_TSQ_CTL.POP removes the oldest timestamp entry (R248). -/
  | tsqPop (p : Fin 2)
  /-- A write of ETH_PTP_MAP_TB commits the PTP mapping (R247). -/
  | ptpMapCommit (value : Word)
  /-- The Ethernet PCS gains or loses lock and raises link up or down (R251). -/
  | ethLinkChange (p : Fin 2) (up : Bool)
  /-- A CAP message from a driver feeds the port's version and rate resolution (R254). -/
  | panelCapRx (p : Fin 4) (msg : List Byte)
  /-- After the TRAIN countdown reaches 0, all lanes of the port switch rate at one block boundary (R262). -/
  | panelRateSwitch (p : Fin 4)
  /-- A LOCK message updates a lane's lock and completes the port's bring-up (R263). -/
  | panelLockRx (p : Fin 4) (msg : List Byte)
  /-- A CRC_ERR message increments PANEL_p_ERR.CRC and raises port event 5 (R261). -/
  | panelCrcErrRx (p : Fin 4) (msg : List Byte)
  /-- A lane reporting lock lost, or silent for 1.5 µs, starts a retrain of that lane alone (R269). -/
  | panelLaneLockLoss (p : Fin 4) (l : Fin 8)
  /-- A retrained lane returns and the port sends catch-up LATCH blocks first (R270). -/
  | panelLaneRetrainDone (p : Fin 4) (l : Fin 8)
  /-- No comma or message for 2 µs declares the back channel lost and raises port event 4 (R263). -/
  | backChannelLoss (p : Fin 4)
  /-- Writing PANEL_p_CFG.RETRAIN brings the port up again under R254 (R277). -/
  | panelRetrain (p : Fin 4)
  /-- Writing PANEL_p_CLR clears the port's counters (R277). -/
  | panelClr (p : Fin 4)
  /-- At L(s, b) − 1.2 µs the dark register turns band b's emission off (R265). -/
  | darkShift (b : Fin 64)
  /-- At E − R·t_r − 200 ns the lanes send SCAN for the band (R265). -/
  | scanSend (b : Fin 64)
  /-- A scan pulse writes one row of the band from the driver latches (R265). -/
  | scanPulse (b : Fin 64)
  /-- At E the light register turns band b's emission on, unless the slot is dark from settle (R265). -/
  | lightShift (b : Fin 64)
  /-- After the last slot of a frame each band gets one further dark pass (R265). -/
  | finalDarkPass (b : Fin 64)
  /-- A write of PANEL_GOA_CTL.DIS darkens every band or relights set bands at once (R267). -/
  | goaDisWrite (dis : Bool)
  /-- In HOLD, MAX_NS after the last launch or tick, a tick advances the blink count and runs a rescan if a region changes (R274). -/
  | holdTick
  /-- Writing PANEL_CMD_CTL.GO pushes one rectangle on port 3 in command mode, at once or at the next launch (R275). -/
  | cmdPush (ecc : List EccHit)
  /-- An ACK or NAK from the auxiliary panel completes the push (R275). -/
  | cmdAckRx (msg : List Byte)
  /-- No answer within 10 µs fails the push with CAUSE 3 (R275). -/
  | cmdAckTimeout
  /-- A waveform phase ends after its DUR and the next phase starts, or the output rests (R283). -/
  | trellisPhaseEnd (b : Fin 64) (l : Fin 6) (charge : Nat) (limited : Bool)
  /-- An output leaves compensation when |ledger| falls to LEDGER_LIMIT / 2 (R290). -/
  | compensationEnd (b : Fin 64) (l : Fin 6)
  /-- Clearing an output fault bit readmits the output with a balanced pair in its next long blank (R300). -/
  | trlFaultClear (b : Fin 64) (value : Word)
  /-- TRL_CTL.INIT, or auto-init after power-on, runs the two initialisation passes; a write is held while the rails are off (R292). -/
  | trellisInit
  /-- The second initialisation pass ends, INIT_DONE is set and Trellis event 13 is raised (R292). -/
  | trellisInitDone
  /-- TRL_WAVE_CTL.APPLY checks the shadow waveform set and activates it at the next launch, or refuses it (R285). -/
  | waveApply
  /-- Writing TRL_CLR clears TRL_STAT and OVER (R301). -/
  | trlClr
  /-- VHV below 9.5 V starts the settle sequence: GOA_DIS high and outputs driven against their ledgers (R294). -/
  | vhvBrownout
  /-- At 2 ms, or when every output has settled, the outputs go to high impedance and the rails turn off (R294). -/
  | brownoutSettleEnd
  /-- VHV above 10.8 V for 10 ms after a brown-out restarts the rails and initialises the Trellis (R296). -/
  | vhvRecovered
  /-- VHV above 14.5 V runs the power-off sequence and raises HVPS event 20 (R299). -/
  | vhvOvervoltage
  /-- HVPS_CTL.ON, or reset, starts the power-on rail sequence (R298). -/
  | hvpsOn
  /-- HVPS_CTL.OFF runs the settle and power-off sequences (R298). -/
  | hvpsOff
  /-- A timed instant of the power-on or power-off table arrives: the next rail starts or is checked (R298). -/
  | railSeqStep (reached : BitVec 4)
  /-- A UV, OV, OC or NOSTART fault sets HVPS_FAULT and runs the power-off sequence (R299). -/
  | railFault (kind : RailFaultKind) (k : Fin 4)
  /-- With AUTO_RESTART, 100 ms after power-off the power-on sequence is retried, up to 3 times (R299). -/
  | railRestart
  /-- A WPTR write, or KICK class 2, commits descriptors to a Racking ring (R304). -/
  | rackCommit (r : Fin 4) (value : Word)
  /-- The engine latches a committed descriptor into the ring's queue and advances RPTR (R305). -/
  | rackDescLatch (r : Fin 4) (ecc : List EccHit)
  /-- A native descriptor blends a constant colour over the destination (R314). -/
  | blendConst (r : Fin 4) (ecc : List EccHit)
  /-- A native descriptor blends a straight-alpha source over the destination (R314). -/
  | blendPixel (r : Fin 4) (ecc : List EccHit)
  /-- A native descriptor blends a premultiplied source over the destination (R314). -/
  | blendPremul (r : Fin 4) (ecc : List EccHit)
  /-- A native descriptor stamps an overlay into every front layer of a frame with disparity (R315). -/
  | viewstamp (r : Fin 4) (ecc : List EccHit)
  /-- A Falerator 4 descriptor fills the destination with a packed value (R317). -/
  | fill (r : Fin 4) (ecc : List EccHit)
  /-- A Falerator 4 descriptor copies bytes from source to destination (R317). -/
  | copy (r : Fin 4) (ecc : List EccHit)
  /-- A Falerator 4 descriptor converts pixels between formats (R317). -/
  | convert (r : Fin 4) (ecc : List EccHit)
  /-- Once a RETIRE descriptor and all earlier ones are complete, its TAG is written and event 4r is raised (R307). -/
  | rackRetire (r : Fin 4)
  /-- Writing RACK_RING_r_CFG.EN 0 completes the running descriptor, discards those latched and rewinds RPTR (R318). -/
  | rackRingDisable (r : Fin 4)
  /-- Writing RESUME clears STOPPED and continues from RPTR (R310). -/
  | rackResume (r : Fin 4)
  /-- Writing RACK_ERR.CLR clears COUNT and CAUSE (R318). -/
  | rackErrClr
  /-- DRAMC_CTL.INIT runs power-up initialisation, training, ECC zeroing and sentinel writes (R325). -/
  | dramInit
  /-- Initialisation completes and sets READY, or fails and raises event 11 (R325). -/
  | dramInitDone (ok : Bool)
  /-- A hash mask write is accepted only while EN is 0 and the masks remain legal; otherwise CFG_BAD is set (R327). -/
  | dramcHashWrite (k : Fin 7) (value : Word)
  /-- A source issues a DRAM request, which is served by class and age on its channel (R328). -/
  | dramRequest (src : DramSource) (addr : BitVec 40) (op : DramOp) (ecc : List EccHit)
  /-- A request older than its class's AGE_NS is promoted (R328). -/
  | agePromote (ch : Fin 8)
  /-- A bank's open row closes after PAGE_IDLE with no access (R331). -/
  | pageIdleClose (ch : Fin 8) (bank : Fin 16)
  /-- Every tREFI / 16 a per-bank refresh is issued, postponed, or replaced by an all-bank fallback at 8 postponed (R332). -/
  | perBankRefresh (ch : Fin 8) (busy : BitVec 16)
  /-- Every 1 ms MR4 is read and refresh derating is changed if asked (R332). -/
  | mr4Poll (ch : Fin 8) (derate : BitVec 2)
  /-- After SR_IDLE with no request, all channels enter self-refresh with sentinels written (R333). -/
  | selfRefreshEntry (issued : Bool)
  /-- A request or wake exits self-refresh and the sentinels are checked (R338). -/
  | selfRefreshExit (bad : List Nat)
  /-- Writing DRAMC_FREQ_CTL.GO starts a change to the inactive timing set, or sets PENDING (R335). -/
  | freqChange (target : Bool)
  /-- The change completes at 13.5 µs, ACTIVE becomes TARGET and event 4 is raised (R335). -/
  | freqChangeDone (bad : List Nat)
  /-- A periodic training gathering step holds one channel for up to 2 µs (R336). -/
  | dramTrainingStep (ch : Fin 8)
  /-- Every PERIOD_S the controller reads and corrects every burst of the ECC regions (R337). -/
  | scrubPass (corrected : Nat) (uncorrectable : List Nat)
  /-- Each 1 ms the page-miss count updates and event 8 is raised above the limit (R330). -/
  | conflictWindow
  /-- Writing DRAMC_STAT_CLR clears the DRAM statistics counters (R339). -/
  | dramcStatClr
  /-- PLL_n_CTL.COMMIT applies the pending divider and spread settings, slewing or relocking (R343). -/
  | pllCommit (n : Fin 6)
  /-- A PLL that loses lock gates its output and relocks; its domain falls back (R348). -/
  | pllLockLoss (n : Fin 6)
  /-- A PLL relocks from a stored band or after a band search, and event 1 is raised (R344). -/
  | pllRelock (n : Fin 6) (storedFailed : Bool) (code : BitVec 7)
  /-- A write of PLL_n_PHASE.STEP adds steps to those outstanding (R346). -/
  | pllPhaseStep (n : Fin 6) (value : Word)
  /-- The last outstanding phase step is applied and event 6 is raised (R346). -/
  | pllPhaseDone (n : Fin 6)
  /-- Writing PLL_n_STAT.CLR clears LOSSES (R350). -/
  | pllStatClr (n : Fin 6)
  /-- No REFCLK25 edge for 200 ns sets LOST, every PLL loses lock and the time base runs on the internal oscillator (R349). -/
  | refclkLoss
  /-- When REFCLK25 returns, every PLL relocks from its stored band (R349). -/
  | refclkReturn
  /-- The idle timer reaches PWR_IDLE.S, raises power event 0 and begins Cellar entry (R353). -/
  | idleTimeout
  /-- Writing PWR_CTL.SLEEP begins Cellar entry, or is dropped during a wake (R353). -/
  | sleep
  /-- At the end of the last slot, HOLD applies and the entry sequence stops work, settles the Trellis and powers down (R354). -/
  | cellarEntry
  /-- VCORE reaches 0.55 V and the core domains are gated (R354). -/
  | cellarEntryComplete
  /-- A falling edge on WAKE_N held low for 1 µs starts a wake (R355). -/
  | wakePin
  /-- The time base reaching PWR_WAKE_AT starts a wake (R355). -/
  | wakeAlarm
  /-- A periodic patrol samples the sensors and may declare a breach wake or latch a shutdown (R356). -/
  | breezePatrol (die : List Reading) (panel : List Reading) (lux : BitVec 16)
  /-- A wake step's interval ends and the next step starts, or waits and sets SLIP (R357). -/
  | wakeStepEnd (complete : Bool) (ecc : List EccHit)
  /-- Final checks pass, READY is set, power event 1 is raised and thread 0 starts at the wake vector (R357). -/
  | wakeComplete
  /-- A write of PWR_OP_SEL.TARGET runs the cap, voltage and cap legs, or sets PENDING (R361). -/
  | opPointChange (target : BitVec 4)
  /-- Every 10 µs VCORE is read back, and two reads within tolerance confirm the voltage (R360). -/
  | avsReadback (mv : Nat)
  /-- A voltage not confirmed within TIMEOUT_US ends the transition with VFAIL (R362). -/
  | avsTimeout
  /-- Every 100 µs the on-die sensors are sampled and the thresholds, Lull and calibration triggers are evaluated (R363). -/
  | sensorSample (readings : List Reading)
  /-- An external sensor is read over I3C every EXT_PERIOD_MS, or marked failed (R364). -/
  | extSensorPoll (k : Fin 8) (raw : Option (BitVec 16))
  /-- Writing 1 to a sensor's FAILED retries it (R363). -/
  | sensorRetry (ext : Bool) (k : Fin 32)
  /-- A threshold write that breaks the ordering is ignored and sets TMON_CFG.BAD (R365). -/
  | tmonThrWrite (m : Fin 3) (value : Word)
  /-- Writing TMON_CFG.LOCK locks the threshold, HYST and DEBOUNCE fields until reset (R370). -/
  | tmonLock (value : Word)
  /-- CAL_d_CFG.RUN, or a temperature trigger, starts a calibration run and sets T_REF (R373). -/
  | calRun (d : Fin 5) (p : Fin 4)
  /-- A calibration measurement completes and its result is accepted, refused, or fails (R374). -/
  | calMeasureDone (d : Fin 5) (result : Option (List Int))
  /-- An accepted result is applied one step per interval, with event 4d + 3 at the end (R372). -/
  | calApplyStep (d : Fin 5)
  /-- Writing CAL_d_CLR clears the domain's counts (R377). -/
  | calClr (d : Fin 5)
  /-- CAL_MODEL_CTL.LOAD copies the ray model from DRAM into the calibration store during HOLD (R376). -/
  | calModelLoad
  /-- The copied model's CRC is checked: VALID and event 20, or the store filled DEAD and event 21 (R376). -/
  | calModelLoadDone (ecc : List EccHit)
  /-- The PCIe link comes up, goes down or reduces width or rate (R391). -/
  | pcieLinkChange (kind : PcieChange)
  /-- An ingest ring processes a posted descriptor by pulling host data to its destination (R388). -/
  | hostDmaDescriptor (r : Fin 4) (desc : List Byte) (data : List Byte) (ok : Bool) (ecc : List EccHit)
  /-- Writing HOST_DMA_r_CFG.EN 0 completes the current descriptor and stops the ring (R389). -/
  | hostDmaDisable (r : Fin 4)
  /-- A block raises a source: its status bit sets, and if it becomes active it is delivered along its route (R393). -/
  | eventRaise (source : BitVec 10)
  /-- Writing 1 to a status bit clears the source unless a raise lands together (R393). -/
  | evtStatClear (g : Fin 32) (value : Word) (together : Word)
  /-- Enabling a source whose status is 1 makes it active and delivers it (R394). -/
  | evtEnableWrite (g : Fin 32) (value : Word)
  /-- Unmasking a vector with its PBA bit set sends the pending message (R394). -/
  | msixUnmask (v : Fin 64)
  /-- EVENT_N is released within 300 ns once no PIN-routed source is active (R394). -/
  | eventNRelease
  /-- Writing PRESS_CTL_n.FENCE 1 fences and power-gates the press and reruns its in-flight bundle, as does an uncorrectable error in
  its local store or register file (R96). -/
  | pressFence (n : Fin 48) (error : Bool)
  /-- A bundle not DONE within PRESS_TIMEOUT fences its press with cause 1 (R96). -/
  | bundleTimeout (n : Fin 48)
  /-- Writing FENCE 0 readmits the press after the frame constant copy (R98). -/
  | pressUnfence (n : Fin 48)
  /-- Writing PRESS_CTL_n.GATE 1 requests gating of the press after its current bundle (R97). -/
  | pressGate (n : Fin 48)
  /-- The press's current bundle ends and the press is power-gated (R97). -/
  | pressGated (n : Fin 48)
  /-- Writing GATE 0 starts the press's wake and frame constant copy (R97). -/
  | pressUngate (n : Fin 48)
  /-- Within 2 µs the ungated press takes bundles again (R98). -/
  | pressWakeDone (n : Fin 48)
  /-- Writing PRESS_LUT_CTL.SWAP makes the inactive bank active at the next angle latch (R99). -/
  | pressLutSwap
  /-- A PRESS_LUT_ADDR write sets INDEX, and writes above 12,287 are ignored (R99). -/
  | pressLutAddrWrite (value : Word)
  /-- A PRESS_LUT_DATA write stores an entry of the inactive bank and advances INDEX, or is refused while SWAP is pending (R99). -/
  | pressLutDataWrite (value : Word)
  /-- A PRESS_LUT_DATA read returns entry INDEX and advances INDEX (R99). -/
  | pressLutDataRead
  /-- A PRESS_VSEL_BASE write outside the on-chip range is ignored and raises press event 50 (R99). -/
  | pressVselBaseWrite (value : Word)
  /-- Writing PRESS_STAT_CLR clears the late, exception and exception-info registers (R99). -/
  | pressStatClr
  /-- PRESS_IMG_CTL.INSTALL checks a press image header and starts copying it, or refuses it (R127). -/
  | pressInstall
  /-- The copy completes, the broadcast cache is invalidated and INSTALL clears (R127). -/
  | pressInstallDone
  /-- SEQ_IMG_CTL.INSTALL checks a sequencer image and starts copying it, or refuses it (R152). -/
  | seqInstall
  /-- The sequencer image copy completes and INSTALL clears (R152). -/
  | seqInstallDone
  /-- A kicked press job starts on its press after that press's current bundle (R145). -/
  | pressJobStart (n : Fin 48)
  /-- A thread waiting in AT or WAITEV becomes ready when its condition holds (R132). -/
  | threadWake (t : Fin 16)
  /-- CTL NOP does nothing (R109). -/
  | nop (n : Fin 48) (o : Opnd)
  /-- CTL DONE ends the bundle, zero-fills unwritten valid lanes, or ends a job and writes its STATUS (R90). -/
  | done (n : Fin 48) (o : Opnd)
  /-- CTL RET sets PC to s15 (R109). -/
  | ret (n : Fin 48) (o : Opnd)
  /-- BR with condition 0 branches unconditionally (R112). -/
  | brAlways (n : Fin 48) (off : BitVec 15) (pred : BitVec 3)
  /-- BR branches if pn AND VALID is non-zero (R112). -/
  | brAny (n : Fin 48) (off : BitVec 15) (pred : BitVec 3)
  /-- BR branches if pn AND VALID equals VALID (R112). -/
  | brAll (n : Fin 48) (off : BitVec 15) (pred : BitVec 3)
  /-- BR branches if pn AND VALID is zero (R112). -/
  | brNone (n : Fin 48) (off : BitVec 15) (pred : BitVec 3)
  /-- CALL writes the return address to s15 and branches (R109). -/
  | call (n : Fin 48) (off : BitVec 15) (pred : BitVec 3)
  /-- Scalar MOV copies sA (R110). -/
  | sopMov (u : Issuer) (o : Opnd)
  /-- Scalar ADD (R110). -/
  | sopAdd (u : Issuer) (o : Opnd)
  /-- Scalar SUB (R110). -/
  | sopSub (u : Issuer) (o : Opnd)
  /-- Scalar MUL, low 32 bits (R110). -/
  | sopMul (u : Issuer) (o : Opnd)
  /-- Scalar unsigned MUL, high 32 bits (R110). -/
  | sopMulhu (u : Issuer) (o : Opnd)
  /-- Scalar AND (R110). -/
  | sopAnd (u : Issuer) (o : Opnd)
  /-- Scalar OR (R110). -/
  | sopOr (u : Issuer) (o : Opnd)
  /-- Scalar XOR (R110). -/
  | sopXor (u : Issuer) (o : Opnd)
  /-- Scalar shift left by sB[4:0] (R110). -/
  | sopShl (u : Issuer) (o : Opnd)
  /-- Scalar logical shift right (R110). -/
  | sopShr (u : Issuer) (o : Opnd)
  /-- Scalar arithmetic shift right (R110). -/
  | sopSra (u : Issuer) (o : Opnd)
  /-- Scalar signed set-less-than (R110). -/
  | sopSlt (u : Issuer) (o : Opnd)
  /-- Scalar unsigned set-less-than (R110). -/
  | sopSltu (u : Issuer) (o : Opnd)
  /-- Scalar signed MIN (R110). -/
  | sopMin (u : Issuer) (o : Opnd)
  /-- Scalar signed MAX (R110). -/
  | sopMax (u : Issuer) (o : Opnd)
  /-- Scalar f32 add (R110). -/
  | sopFadd (u : Issuer) (o : Opnd)
  /-- Scalar f32 subtract (R110). -/
  | sopFsub (u : Issuer) (o : Opnd)
  /-- Scalar f32 multiply (R110). -/
  | sopFmul (u : Issuer) (o : Opnd)
  /-- Scalar f32 to i32 conversion (R110). -/
  | sopFtoi (u : Issuer) (o : Opnd)
  /-- Scalar i32 to f32 conversion (R110). -/
  | sopItof (u : Issuer) (o : Opnd)
  /-- SADDI adds a sign-extended imm8 to sA (R109). -/
  | saddi (u : Issuer) (o : Opnd)
  /-- PTOS copies a predicate into a scalar, zero-extended (R109). -/
  | spmovPtos (n : Fin 48) (o : Opnd)
  /-- STOP copies sA[15:0] into a predicate (R109). -/
  | spmovStop (n : Fin 48) (o : Opnd)
  /-- Vector MOV (VOP, VOPS or long form) (R111). -/
  | vopMov (n : Fin 48) (form : VForm) (ty : BitVec 3) (o : Opnd)
  /-- Vector ADD by type (R111). -/
  | vopAdd (n : Fin 48) (form : VForm) (ty : BitVec 3) (o : Opnd)
  /-- Vector SUB vA − vB by type (R111). -/
  | vopSub (n : Fin 48) (form : VForm) (ty : BitVec 3) (o : Opnd)
  /-- Vector reverse SUB vB − vA by type (R111). -/
  | vopRsub (n : Fin 48) (form : VForm) (ty : BitVec 3) (o : Opnd)
  /-- Vector MUL by type (R111). -/
  | vopMul (n : Fin 48) (form : VForm) (ty : BitVec 3) (o : Opnd)
  /-- Vector multiply-add into vD by type (R111). -/
  | vopMad (n : Fin 48) (form : VForm) (ty : BitVec 3) (o : Opnd)
  /-- Vector MIN by type (R111). -/
  | vopMin (n : Fin 48) (form : VForm) (ty : BitVec 3) (o : Opnd)
  /-- Vector MAX by type (R111). -/
  | vopMax (n : Fin 48) (form : VForm) (ty : BitVec 3) (o : Opnd)
  /-- Vector ABS by type (R111). -/
  | vopAbs (n : Fin 48) (form : VForm) (ty : BitVec 3) (o : Opnd)
  /-- Vector NEG by type (R111). -/
  | vopNeg (n : Fin 48) (form : VForm) (ty : BitVec 3) (o : Opnd)
  /-- Vector bitwise AND (R111). -/
  | vopAnd (n : Fin 48) (form : VForm) (ty : BitVec 3) (o : Opnd)
  /-- Vector bitwise OR (R111). -/
  | vopOr (n : Fin 48) (form : VForm) (ty : BitVec 3) (o : Opnd)
  /-- Vector bitwise XOR (R111). -/
  | vopXor (n : Fin 48) (form : VForm) (ty : BitVec 3) (o : Opnd)
  /-- Vector vA AND NOT vB (R111). -/
  | vopAndn (n : Fin 48) (form : VForm) (ty : BitVec 3) (o : Opnd)
  /-- Vector shift left (R111). -/
  | vopShl (n : Fin 48) (form : VForm) (ty : BitVec 3) (o : Opnd)
  /-- Vector logical shift right (R111). -/
  | vopShr (n : Fin 48) (form : VForm) (ty : BitVec 3) (o : Opnd)
  /-- Vector arithmetic shift right (R111). -/
  | vopSra (n : Fin 48) (form : VForm) (ty : BitVec 3) (o : Opnd)
  /-- Vector floating-point floor (R111). -/
  | vopFloor (n : Fin 48) (form : VForm) (ty : BitVec 3) (o : Opnd)
  /-- Vector correctly rounded reciprocal (R111). -/
  | vopRcp (n : Fin 48) (form : VForm) (ty : BitVec 3) (o : Opnd)
  /-- Vector correctly rounded reciprocal square root (R111). -/
  | vopRsq (n : Fin 48) (form : VForm) (ty : BitVec 3) (o : Opnd)
  /-- Vector numeric conversion between types (R111). -/
  | vopCvt (n : Fin 48) (form : VForm) (ty : BitVec 3) (o : Opnd)
  /-- Vector exchange of 16-bit halves (R111). -/
  | vopSwaph (n : Fin 48) (form : VForm) (ty : BitVec 3) (o : Opnd)
  /-- Vector compare equal into a predicate (R112). -/
  | vcmpEq (n : Fin 48) (form : VForm) (ty : BitVec 3) (o : Opnd)
  /-- Vector compare not equal (R112). -/
  | vcmpNe (n : Fin 48) (form : VForm) (ty : BitVec 3) (o : Opnd)
  /-- Vector compare less than (R112). -/
  | vcmpLt (n : Fin 48) (form : VForm) (ty : BitVec 3) (o : Opnd)
  /-- Vector compare less or equal (R112). -/
  | vcmpLe (n : Fin 48) (form : VForm) (ty : BitVec 3) (o : Opnd)
  /-- Vector compare greater than (R112). -/
  | vcmpGt (n : Fin 48) (form : VForm) (ty : BitVec 3) (o : Opnd)
  /-- Vector compare greater or equal (R112). -/
  | vcmpGe (n : Fin 48) (form : VForm) (ty : BitVec 3) (o : Opnd)
  /-- Vector unsigned less than, i32 only (R112). -/
  | vcmpLtu (n : Fin 48) (form : VForm) (ty : BitVec 3) (o : Opnd)
  /-- Vector unsigned greater or equal, i32 only (R112). -/
  | vcmpGeu (n : Fin 48) (form : VForm) (ty : BitVec 3) (o : Opnd)
  /-- Predicate AND (R108). -/
  | plogAnd (n : Fin 48) (o : Opnd)
  /-- Predicate OR (R108). -/
  | plogOr (n : Fin 48) (o : Opnd)
  /-- Predicate XOR (R108). -/
  | plogXor (n : Fin 48) (o : Opnd)
  /-- Predicate pA AND NOT pB (R108). -/
  | plogAndnot (n : Fin 48) (o : Opnd)
  /-- Predicate NOT pA (R108). -/
  | plogNot (n : Fin 48) (o : Opnd)
  /-- Predicate set to all ones (R108). -/
  | plogOnes (n : Fin 48) (o : Opnd)
  /-- Predicate set to all zeros (R108). -/
  | plogZeros (n : Fin 48) (o : Opnd)
  /-- Predicate set to VALID (R108). -/
  | plogValid (n : Fin 48) (o : Opnd)
  /-- Broadcast a scalar into every executing lane (R109). -/
  | vbcast (n : Fin 48) (o : Opnd)
  /-- Copy one vector lane to a scalar (R109). -/
  | vlane (n : Fin 48) (o : Opnd)
  /-- Scalar load from the local store (R109). -/
  | lds (n : Fin 48) (o : Opnd) (ecc : List EccHit)
  /-- Scalar store to the local store (R109). -/
  | sts (n : Fin 48) (o : Opnd)
  /-- Vector load of 16 consecutive words (R109). -/
  | ldv (n : Fin 48) (o : Opnd) (ecc : List EccHit)
  /-- Vector store of 16 consecutive words (R109). -/
  | stv (n : Fin 48) (o : Opnd)
  /-- Vector gather of one word per lane (R109). -/
  | gath (n : Fin 48) (o : Opnd) (ecc : List EccHit)
  /-- Vector gather of two words per lane into a pair (R109). -/
  | gath2 (n : Fin 48) (o : Opnd) (ecc : List EccHit)
  /-- Vector scatter; the highest lane wins on a shared word (R115). -/
  | scat (n : Fin 48) (o : Opnd)
  /-- Copies local store blocks to the press's DRAM spill window (R119). -/
  | xferOut (n : Fin 48) (o : Opnd) (ecc : List EccHit)
  /-- Copies spill window blocks into the local store (R119). -/
  | xferIn (n : Fin 48) (o : Opnd) (ecc : List EccHit)
  /-- RAYGEN sel 0 writes the ray origin x in key-view coordinates (R82). -/
  | raygenOrgX (n : Fin 48) (o : Opnd)
  /-- RAYGEN sel 1 writes the ray origin y (R82). -/
  | raygenOrgY (n : Fin 48) (o : Opnd)
  /-- RAYGEN sel 2 writes the tangent of the ray azimuth (R82). -/
  | raygenTanU (n : Fin 48) (o : Opnd)
  /-- RAYGEN sel 3 writes the tangent of the ray elevation (R82). -/
  | raygenTanW (n : Fin 48) (o : Opnd)
  /-- RAYGEN sel 4 writes the gain, DEAD and emitter code word (R82). -/
  | raygenGain (n : Fin 48) (o : Opnd)
  /-- RAYGEN sel 5 writes the direction index and tier (R82). -/
  | raygenDir (n : Fin 48) (o : Opnd)
  /-- One depth search step at (X, Y) in a key view (R85). -/
  | dsearch (n : Fin 48) (o : Opnd) (ecc : List EccHit)
  /-- Bilinear fetch of colour and alpha from a key view into a pair (R86). -/
  | fetchk (n : Fin 48) (o : Opnd) (ecc : List EccHit)
  /-- Weighted blend of n pairs (R88). -/
  | wblend (n : Fin 48) (o : Opnd)
  /-- Composites a front pair over a back pair (R87). -/
  | comp (n : Fin 48) (o : Opnd)
  /-- Applies alpha, gain and the transfer curve to a pair (R89). -/
  | lut (n : Fin 48) (o : Opnd)
  /-- Writes clamped R, G and B to the lane's slot buffer entry (R90). -/
  | emit (n : Fin 48) (o : Opnd)
  /-- Long form: load a 32-bit immediate into a scalar (R101). -/
  | sli (n : Fin 48) (o : Opnd) (imm : Word)
  /-- Long form: load a 32-bit immediate into every executing lane (R101). -/
  | vli (n : Fin 48) (o : Opnd) (imm : Word)
  /-- Long form: jump to an absolute kernel-store address (R101). -/
  | jmp (n : Fin 48) (o : Opnd) (imm : Word)
  /-- Long form: absolute call with the return address in s15 (R101). -/
  | calla (n : Fin 48) (o : Opnd) (imm : Word)
  /-- Sequencer unconditional branch (R133). -/
  | flowB (t : Fin 16) (sA : BitVec 5) (off : BitVec 16)
  /-- Sequencer branch if sA is zero (R133). -/
  | flowBz (t : Fin 16) (sA : BitVec 5) (off : BitVec 16)
  /-- Sequencer branch if sA is non-zero (R133). -/
  | flowBnz (t : Fin 16) (sA : BitVec 5) (off : BitVec 16)
  /-- Sequencer branch if sA is negative (R133). -/
  | flowBltz (t : Fin 16) (sA : BitVec 5) (off : BitVec 16)
  /-- Sequencer branch if sA is zero or positive (R133). -/
  | flowBgez (t : Fin 16) (sA : BitVec 5) (off : BitVec 16)
  /-- Sequencer call with the return address in s15 (R133). -/
  | flowCall (t : Fin 16) (sA : BitVec 5) (off : BitVec 16)
  /-- Sequencer return to s15 (R133). -/
  | flowRet (t : Fin 16) (sA : BitVec 5) (off : BitVec 16)
  /-- The thread stops (R133). -/
  | flowHalt (t : Fin 16) (sA : BitVec 5) (off : BitVec 16)
  /-- SIMM with H 0 sets sD to a zero-extended imm16 (R133). -/
  | simmLow (t : Fin 16) (sD : BitVec 5) (zero : BitVec 4) (imm : BitVec 16)
  /-- SIMM with H 1 sets sD[31:16] to imm16 (R133). -/
  | simmHigh (t : Fin 16) (sD : BitVec 5) (zero : BitVec 4) (imm : BitVec 16)
  /-- The thread waits until the time base reaches sA (R137). -/
  | atTime (t : Fin 16) (o : Opnd)
  /-- Reads the time base nanosecond field into sD (R137). -/
  | rdtb (t : Fin 16) (o : Opnd)
  /-- ARM, or a SEQ_LC_CFG.ARM write, arms a comparator or marks it LATE; arming comparator 0 is checked against MIN_FRAME (R140). -/
  | arm (t : Fin 16) (o : Opnd)
  /-- DISARM, or a SEQ_LC_CFG.DISARM write, disarms a comparator (R140). -/
  | disarm (t : Fin 16) (o : Opnd)
  /-- The thread waits for an active routed event source and returns its number (R138). -/
  | waitev (t : Fin 16) (o : Opnd)
  /-- WAITEV with a deadline that returns 0xFFFF_FFFF if the time is reached first (R138). -/
  | waitevDeadline (t : Fin 16) (o : Opnd)
  /-- Raises sequencer source sA[3:0] (R138). -/
  | signal (t : Fin 16) (o : Opnd)
  /-- Ends the thread's turn (R138). -/
  | yield (t : Fin 16) (o : Opnd)
  /-- Sequencer load from on-chip memory (R135). -/
  | ld (t : Fin 16) (o : Opnd) (ecc : List EccHit)
  /-- Sequencer store to on-chip memory (R135). -/
  | st (t : Fin 16) (o : Opnd)
  /-- Register write from a thread; an unmapped address sets BADREG (R136). -/
  | wr (t : Fin 16) (o : Opnd)
  /-- Register read into a thread (R136). -/
  | rd (t : Fin 16) (o : Opnd)
  /-- Atomic swap of sD with a memory word (R135). -/
  | xchg (t : Fin 16) (o : Opnd) (ecc : List EccHit)
  /-- KICK class 0 hands a press job descriptor to a press, at once or held for a release line (R145). -/
  | kickPressJob (t : Fin 16) (o : Opnd)
  /-- KICK class 1 queues a codec job on a job lane (R180). -/
  | kickCodecJob (t : Fin 16) (o : Opnd)
  /-- KICK class 2 commits a Racking ring's WPTR (R304). -/
  | kickRackList (t : Fin 16) (o : Opnd)
  /-- TSTART, or a SEQ_THR_START write, starts a stopped or faulted thread at an address (R130). -/
  | tstart (t : Fin 16) (o : Opnd)
  /-- TSTOP, or a SEQ_THR_START write with STOP, stops a thread after its current instruction (R130). -/
  | tstop (t : Fin 16) (o : Opnd)
  /-- SEQ_LTOK_TX_CTL.SEND sends a launch token over the Downdraft routes, or is refused below MINLEAD (R148). -/
  | ltokSend
  /-- SEQ_RDY_CTL.ADVANCE moves the readiness collector to the next frame (R149). -/
  | rdyAdvance
  /-- Release of reset (RESET_N rising, or a monitor reset ending with all logic supplies in range) senses the fuses, locks PLL_TB and PLL_AUX, samples BOOTSEL and starts the loader (R379). -/
  | resetRelease
  /-- The panel back channel regains comma lock, BK_UP sets and lock detection from LOCK messages resumes (R263). -/
  | backChannelRelock (p : Fin 4)
  /-- When HOLD applies, band b goes through the slot 0 Trellis layer change at L(N, b), or at the apply instant plus b × P/64, without a LATCH (R272). -/
  | holdSlot0Transition (b : Fin 64)
  /-- During Trellis initialisation, band b receives the into-1 waveform (first pass) or the into-0 waveform (second pass) on all six layers at t0 + 4b µs, the second pass starting after band 63's SETTLE (R292). -/
  | initPassWaveform (b : Fin 64)
  /-- A compensation stretch ends 0.5 µs before the output's next waveform starts (R290). -/
  | compensationGuard (b : Fin 64) (l : Fin 6)
  /-- Every 10 µs while the converters run, HVPS_MEAS_k is updated from the measured rail, and the DC ledger uses these readings for its ±VSP levels (R302). -/
  | hvpsMeasUpdate (k : Fin 4) (mv : BitVec 16) (vhv : BitVec 16)
  /-- The VCORE regulator signals an AVSBus status alert, which raises host interface event 3 (R391). -/
  | avsbusStatusAlert
  /-- A QSPI transfer that a sequencer program started completes and raises host interface event 4 (R391). -/
  | qspiTransferDone
  /-- The PCIe endpoint detects or receives an uncorrectable error report and raises PCIe event 3 (R391). -/
  | pcieUncorrectableError
  /-- A Zhevlum Link port gives up a training or retrain (no common version, no lane locked, or time exceeded), stays down, raises port event 2 and schedules its retry (R202). -/
  | trainingFailed (p : Fin 4)
  /-- A panel port's negotiation fails, or a driver does not report in time, so the lane is left out and panel port event 2 is raised (R254). -/
  | panelNegotiationFailed (p : Fin 4) (l : Option (Fin 8))
deriving DecidableEq, Repr

end Sys2Proof
end

