-- ==== Sys2Proof/Config.lean ====
section
/-! DEFINITION. The values that the manual leaves open, as constants without a body: nothing can be proved of a value of
theirs, so a statement that holds, holds for every one. -/

namespace Sys2Proof.Config

/-- The `n`-th free word drawn: a register or predicate whose content the manual calls undefined (R80, R145). -/
opaque freeWord : Nat → Word

/-- The byte at an address of a region whose contents became undefined in the `n`-th such happening (R118, R321). -/
opaque freeByte : Nat → Nat → Byte

/-- The temporal reference of a view, plane and position that lies outside the previous frame's grid, where the grids differ
and R71 does not forbid it. -/
opaque offGrid : Nat → Nat → Nat → Nat → BitVec 16

end Sys2Proof.Config
end

