-- ==== Sys2Proof/Machine/Store.lean ====
section
/-! DEFINITION. Finite maps as plain data: a list of (key, value) pairs in one canonical form, keys strictly rising and no
value equal to what an unlisted key reads as; and memory over it, with the regions whose contents the manual calls
undefined (R118, R145, R321). -/

namespace Sys2Proof.Machine

/-- What key `k` reads as: its listed value, else the default `d`. -/
def assocGet {α : Type} (d : α) (k : Nat) : List (Nat × α) → α
  | [] => d
  | (j, v) :: l => if j = k then v else assocGet d k l

/-- The list without any entry of key `k`. -/
def assocErase {α : Type} (k : Nat) : List (Nat × α) → List (Nat × α)
  | [] => []
  | (j, v) :: l => if j = k then assocErase k l else (j, v) :: assocErase k l

/-- The list with the entry `(k, v)` before the first greater key. -/
def assocInsert {α : Type} (k : Nat) (v : α) : List (Nat × α) → List (Nat × α)
  | [] => [(k, v)]
  | (j, w) :: l => if k < j then (k, v) :: (j, w) :: l else (j, w) :: assocInsert k v l

/-- The list in which key `k` reads `v`, where an unlisted `k` reads `d`. -/
def assocSet {α : Type} [DecidableEq α] (d : α) (k : Nat) (v : α) (l : List (Nat × α)) : List (Nat × α) :=
  if v = d then assocErase k l else assocInsert k v (assocErase k l)

/-- The keys rise strictly. -/
def keysRise {α : Type} : List (Nat × α) → Bool
  | [] => true
  | [_] => true
  | (j, _) :: (k, w) :: l => decide (j < k) && keysRise ((k, w) :: l)

/-- A region `[lo, hi)` of memory whose contents are undefined since happening number `epoch`. -/
structure Gap where
  lo    : Nat
  hi    : Nat
  epoch : Nat
deriving DecidableEq, Repr

/-- Memory: the bytes that differ from 0, and the regions whose contents are undefined. -/
structure Mem where
  cells : List Host.Cell
  gaps  : List Gap
deriving DecidableEq, Repr

/-- What is left of a gap when the bytes `[lo, hi)` are no longer in it. -/
def Gap.cut (lo hi : Nat) (g : Gap) : List Gap :=
  (if g.lo < min g.hi lo then [{ g with hi := min g.hi lo }] else []) ++
  (if max g.lo hi < g.hi then [{ g with lo := max g.lo hi }] else [])

/-- Memory in which no byte is listed and none is undefined. -/
def Mem.empty : Mem := ⟨[], []⟩

/-- The canonical form: listed addresses rise strictly and no listed byte is 0. -/
def Mem.wf (m : Mem) : Bool := keysRise m.cells && m.cells.all fun c => c.2 != 0

/-- One byte: a free byte in an undefined region, else the listed byte, else 0. -/
def Mem.readByte (m : Mem) (a : Nat) : Byte :=
  match m.gaps.find? fun g => decide (g.lo ≤ a ∧ a < g.hi) with
  | some g => Config.freeByte g.epoch a
  | none => assocGet 0 a m.cells

/-- Memory with byte `a` written. -/
def Mem.writeByte (m : Mem) (a : Nat) (b : Byte) : Mem :=
  ⟨assocSet 0 a b m.cells, m.gaps.flatMap (Gap.cut a (a + 1))⟩

/-- `n` bytes from address `a` upward. -/
def Mem.readBytes (m : Mem) (a n : Nat) : List Byte := (List.range n).map fun i => m.readByte (a + i)

/-- Memory with the bytes written from address `a` upward. -/
def Mem.writeBytes (m : Mem) (a : Nat) : List Byte → Mem
  | [] => m
  | b :: bs => (m.writeByte a b).writeBytes (a + 1) bs

/-- Memory with the bytes `[lo, hi)` at 0. -/
def Mem.zero (m : Mem) (lo hi : Nat) : Mem :=
  ⟨m.cells.filter fun c => decide (c.1 < lo ∨ hi ≤ c.1), m.gaps.flatMap (Gap.cut lo hi)⟩

/-- Memory in which the bytes `[lo, hi)` are undefined, as happening `epoch`. -/
def Mem.undefine (m : Mem) (lo hi epoch : Nat) : Mem :=
  ⟨(m.zero lo hi).cells, ⟨lo, hi, epoch⟩ :: (m.zero lo hi).gaps⟩

/-- The number that bytes spell, least significant byte first (R14). -/
def natOfBytes : List Byte → Nat
  | [] => 0
  | b :: bs => b.toNat + 256 * natOfBytes bs

/-- The 32-bit word at an offset in a list of bytes (R14). -/
def bytesWord (l : List Byte) (off : Nat) : Word := BitVec.ofNat 32 (natOfBytes ((l.drop off).take 4))

/-- The `n` bytes of a number, least significant first (R14). -/
def bytesOfNat : Nat → Nat → List Byte
  | 0, _ => []
  | n + 1, v => BitVec.ofNat 8 v :: bytesOfNat n (v / 256)

/-- A little-endian number of `n` bytes (R14). -/
def Mem.readNat (m : Mem) (a n : Nat) : Nat := natOfBytes (m.readBytes a n)

/-- A 32-bit word (R14). -/
def Mem.readWord (m : Mem) (a : Nat) : Word := BitVec.ofNat 32 (m.readNat a 4)

/-- Memory with a 32-bit word written (R14). -/
def Mem.writeWord (m : Mem) (a : Nat) (w : Word) : Mem := m.writeBytes a (bytesOfNat 4 w.toNat)

/-- Memory with a number of `n` bytes written (R14). -/
def Mem.writeNat (m : Mem) (a n v : Nat) : Mem := m.writeBytes a (bytesOfNat n v)

/-- Memory with `n` bytes copied from `src` to `dst`, all read before any is written. -/
def Mem.copy (m : Mem) (src dst n : Nat) : Mem := m.writeBytes dst (m.readBytes src n)

end Sys2Proof.Machine
end

