-- ==== Sys2Proof/Machine/Crypto.lean ====
section
/-! DEFINITION. The cryptography that R385 names: SHA-384 (FIPS 180-4) and ECDSA over P-384 (FIPS 186-4). The manual names
the algorithms and gives no steps of them: the standards' own are taken (PRESUMED, log 23). -/

namespace Sys2Proof.Machine

/-! ## SHA-384 -/

/-- The round constants: the first 64 fraction bits of the cube roots of the first 80 primes. -/
def shaK : List (BitVec 64) :=
  [0x428a2f98d728ae22, 0x7137449123ef65cd, 0xb5c0fbcfec4d3b2f, 0xe9b5dba58189dbbc,
   0x3956c25bf348b538, 0x59f111f1b605d019, 0x923f82a4af194f9b, 0xab1c5ed5da6d8118,
   0xd807aa98a3030242, 0x12835b0145706fbe, 0x243185be4ee4b28c, 0x550c7dc3d5ffb4e2,
   0x72be5d74f27b896f, 0x80deb1fe3b1696b1, 0x9bdc06a725c71235, 0xc19bf174cf692694] ++
  [0xe49b69c19ef14ad2, 0xefbe4786384f25e3, 0x0fc19dc68b8cd5b5, 0x240ca1cc77ac9c65,
   0x2de92c6f592b0275, 0x4a7484aa6ea6e483, 0x5cb0a9dcbd41fbd4, 0x76f988da831153b5,
   0x983e5152ee66dfab, 0xa831c66d2db43210, 0xb00327c898fb213f, 0xbf597fc7beef0ee4,
   0xc6e00bf33da88fc2, 0xd5a79147930aa725, 0x06ca6351e003826f, 0x142929670a0e6e70] ++
  [0x27b70a8546d22ffc, 0x2e1b21385c26c926, 0x4d2c6dfc5ac42aed, 0x53380d139d95b3df,
   0x650a73548baf63de, 0x766a0abb3c77b2a8, 0x81c2c92e47edaee6, 0x92722c851482353b,
   0xa2bfe8a14cf10364, 0xa81a664bbc423001, 0xc24b8b70d0f89791, 0xc76c51a30654be30,
   0xd192e819d6ef5218, 0xd69906245565a910, 0xf40e35855771202a, 0x106aa07032bbd1b8] ++
  [0x19a4c116b8d2d0c8, 0x1e376c085141ab53, 0x2748774cdf8eeb99, 0x34b0bcb5e19b48a8,
   0x391c0cb3c5c95a63, 0x4ed8aa4ae3418acb, 0x5b9cca4f7763e373, 0x682e6ff3d6b2b8a3,
   0x748f82ee5defb2fc, 0x78a5636f43172f60, 0x84c87814a1f0ab72, 0x8cc702081a6439ec,
   0x90befffa23631e28, 0xa4506cebde82bde9, 0xbef9a3f7b2c67915, 0xc67178f2e372532b] ++
  [0xca273eceea26619c, 0xd186b8c721c0c207, 0xeada7dd6cde0eb1e, 0xf57d4f7fee6ed178,
   0x06f067aa72176fba, 0x0a637dc5a2c898a6, 0x113f9804bef90dae, 0x1b710b35131c471b,
   0x28db77f523047d84, 0x32caab7b40c72493, 0x3c9ebe0a15c9bebc, 0x431d67c49c100d4c,
   0x4cc5d4becb3e42b6, 0x597f299cfc657e2a, 0x5fcb6fab3ad6faec, 0x6c44198c4a475817]

/-- The initial hash value of SHA-384. -/
def shaIV : List (BitVec 64) :=
  [0xcbbb9d5dc1059ed8, 0x629a292a367cd507, 0x9159015a3070dd17, 0x152fecd8f70e5939,
   0x67332667ffc00b31, 0x8eb44a8768581511, 0xdb0c2e0d64f98fa7, 0x47b5481dbefa4fa4]

/-- Rotation to the right. -/
def rotr (x : BitVec 64) (n : Nat) : BitVec 64 := x.rotateRight n

/-- The number that bytes spell, most significant byte first. -/
def natBE (l : List Byte) : Nat := l.foldl (fun n b => 256 * n + b.toNat) 0

/-- A block of 128 bytes as 16 words, most significant byte first. -/
def blockWords (l : List Byte) : List (BitVec 64) :=
  (List.range 16).map fun i => BitVec.ofNat 64 (natBE ((l.drop (8 * i)).take 8))

/-- The message schedule, `n` words further; the latest word comes first. -/
def schedule : Nat → List (BitVec 64) → List (BitVec 64)
  | 0, w => w
  | n + 1, w =>
    let g (i : Nat) : BitVec 64 := w.getD i 0
    let s0 := rotr (g 14) 1 ^^^ rotr (g 14) 8 ^^^ (g 14 >>> 7)
    let s1 := rotr (g 1) 19 ^^^ rotr (g 1) 61 ^^^ (g 1 >>> 6)
    schedule n ((g 15 + s0 + g 6 + s1) :: w)

/-- One round on the working variables a to h. -/
def shaRound (v : List (BitVec 64)) (kw : BitVec 64) : List (BitVec 64) :=
  let g (i : Nat) : BitVec 64 := v.getD i 0
  let s1 := rotr (g 4) 14 ^^^ rotr (g 4) 18 ^^^ rotr (g 4) 41
  let t1 := g 7 + s1 + ((g 4 &&& g 5) ^^^ (~~~(g 4) &&& g 6)) + kw
  let s0 := rotr (g 0) 28 ^^^ rotr (g 0) 34 ^^^ rotr (g 0) 39
  let t2 := s0 + ((g 0 &&& g 1) ^^^ (g 0 &&& g 2) ^^^ (g 1 &&& g 2))
  [t1 + t2, g 0, g 1, g 2, g 3 + t1, g 4, g 5, g 6]

/-- The hash value after one block. -/
def shaBlock (h : List (BitVec 64)) (block : List Byte) : List (BitVec 64) :=
  let w := (schedule 64 (blockWords block).reverse).reverse
  let v := (List.zipWith (· + ·) shaK w).foldl shaRound h
  List.zipWith (· + ·) h v

/-- The hash value after `n` blocks of a padded message. -/
def shaBlocks : Nat → List (BitVec 64) → List Byte → List (BitVec 64)
  | 0, h, _ => h
  | n + 1, h, l => shaBlocks n (shaBlock h (l.take 128)) (l.drop 128)

/-- The `n` bytes of a number, most significant first. -/
def bytesBE (n v : Nat) : List Byte := (bytesOfNat n v).reverse

/-- The padded message: 0x80, zeros, and its length in bits in 16 bytes. -/
def shaPad (l : List Byte) : List Byte :=
  l ++ [0x80] ++ List.replicate ((239 - l.length % 128) % 128) 0 ++ bytesBE 16 (8 * l.length)

/-- The digest of a message: 48 bytes. -/
def sha384 (l : List Byte) : List Byte :=
  let m := shaPad l
  ((shaBlocks (m.length / 128) shaIV m).take 6).flatMap fun w => bytesBE 8 w.toNat

/-! ## ECDSA over P-384 -/

/-- The field prime, the curve's b, the order of the base point and its coordinates. -/
def p384 : Nat := 2 ^ 384 - 2 ^ 128 - 2 ^ 96 + 2 ^ 32 - 1
def curveB : Nat := 0xb3312fa7e23ee7e4988e056be3f82d19181d9c6efe8141120314088f5013875ac656398d8a2ed19d2a85c8edd3ec2aef
def curveN : Nat := 0xffffffffffffffffffffffffffffffffffffffffffffffffc7634d81f4372ddf581a0db248b0a77aecec196accc52973
def baseX : Nat := 0xaa87ca22be8b05378eb1c71ef320ad746e1d3b628ba79b9859f741e082542a385502f25dbf55296c3a545e3872760ab7
def baseY : Nat := 0x3617de4a96262c6f5d9e98bf9292dc29f8f41dbd289a147ce9da3113b5f0b8c00a60b1ce1d7e819d7a431d7c90ea0e5f

/-- Differences and products modulo the field prime. -/
def fsub (a b : Nat) : Nat := (a + p384 - b) % p384
def fmul (a b : Nat) : Nat := a * b % p384

/-- The bits of a number below 2³⁸⁴, most significant first. -/
def bits384 (n : Nat) : List Bool := (List.range 384).map fun i => n.testBit (383 - i)

/-- A power modulo m. -/
def powMod (m b : Nat) (e : Nat) : Nat :=
  (bits384 e).foldl (fun x bit => let y := x * x % m; if bit then y * b % m else y) (1 % m)

/-- A curve point in Jacobian coordinates; Z = 0 is the point at infinity. -/
structure Point where
  x : Nat
  y : Nat
  z : Nat
deriving DecidableEq, Repr

/-- Twice a point, with the curve's a = −3. -/
def Point.double (q : Point) : Point :=
  let zz := fmul q.z q.z
  let m := fmul 3 (fmul (fsub q.x zz) ((q.x + zz) % p384))
  let yy := fmul q.y q.y
  let s := fmul 4 (fmul q.x yy)
  let x := fsub (fmul m m) (2 * s % p384)
  ⟨x, fsub (fmul m (fsub s x)) (fmul 8 (fmul yy yy)), fmul 2 (fmul q.y q.z)⟩

/-- The sum of two points. -/
def Point.add (q r : Point) : Point :=
  if q.z = 0 then r else if r.z = 0 then q
  else
    let qz := fmul q.z q.z
    let rz := fmul r.z r.z
    let u1 := fmul q.x rz
    let u2 := fmul r.x qz
    let s1 := fmul q.y (fmul r.z rz)
    let s2 := fmul r.y (fmul q.z qz)
    let h := fsub u2 u1
    let d := fsub s2 s1
    if h = 0 then (if d = 0 then q.double else ⟨1, 1, 0⟩)
    else
      let hh := fmul h h
      let hhh := fmul h hh
      let v := fmul u1 hh
      let x := fsub (fsub (fmul d d) hhh) (2 * v % p384)
      ⟨x, fsub (fmul d (fsub v x)) (fmul s1 hhh), fmul h (fmul q.z r.z)⟩

/-- A multiple of a point. -/
def Point.times (k : Nat) (q : Point) : Point :=
  (bits384 k).foldl (fun a bit => let d := a.double; if bit then d.add q else d) ⟨1, 1, 0⟩

/-- The point lies on the curve, with coordinates in range. -/
def onCurve (x y : Nat) : Bool :=
  decide (x < p384 ∧ y < p384) && fmul y y == (fmul x (fmul x x) + fmul (p384 - 3) x + curveB) % p384

/-- The signature (r, s) of a digest under the public key (x, y) is valid. -/
def ecdsaValid (x y r s digest : Nat) : Bool :=
  let w := powMod curveN s (curveN - 2)
  let q := (Point.times (digest * w % curveN) ⟨baseX, baseY, 1⟩).add (Point.times (r * w % curveN) ⟨x, y, 1⟩)
  let i := powMod p384 q.z (p384 - 2)
  onCurve x y && decide (0 < r ∧ r < curveN ∧ 0 < s ∧ s < curveN) && q.z != 0 && fmul q.x (fmul i i) % curveN == r

end Sys2Proof.Machine
end

