-- ==== Sys2Proof/Machine/RegTypes.lean ====
section
/-! DEFINITION. The shapes of the register map: access codes (R11), fields and registers. -/

namespace Sys2Proof.Machine

/-- The access codes of R11. -/
inductive Acc where
  | rw | ro | wo | w1c | w1s | rwl | wos
deriving DecidableEq, Repr

/-- A field of a register table: its name, place, access code and reset value by instance. -/
structure FieldRow where
  name  : String
  lo    : Nat
  w     : Nat
  acc   : Acc
  reset : List Nat → Nat

/-- A register of a table: its name, the address of its first instance, its instance counts and strides, its fields. -/
structure RegRow where
  name   : String
  base   : Nat
  dims   : List (Nat × Nat)
  fields : List FieldRow

/-- Where a field lies: its register's address, its lowest bit and its width. -/
structure Field where
  addr : Nat
  lo   : Nat
  w    : Nat
deriving DecidableEq, Repr

end Sys2Proof.Machine
end

