-- ==== Sys2Proof/Machine/Fields.lean ====
section
/-! DEFINITION. The fields of the register map by the manual's own names (BLOCK_NAME.FIELD written with an underscore;
the instance indexes of a register array are its arguments), each as the place that holds it: the register's address, the
lowest bit and the width. -/

namespace Sys2Proof.Machine.F

/-! Block TOP (R2, R32, R389). -/

/-- The address of TOP_ID. -/
abbrev TOP_ID_addr : Nat := 0x0
abbrev TOP_ID_PART : Field := ⟨0x0, 16, 16⟩
abbrev TOP_ID_STEPPING : Field := ⟨0x0, 8, 8⟩
abbrev TOP_ID_MASKREV : Field := ⟨0x0, 0, 8⟩
/-- The address of TOP_GRADE. -/
abbrev TOP_GRADE_addr : Nat := 0x4
abbrev TOP_GRADE_GRADE : Field := ⟨0x4, 0, 2⟩
/-- The address of TOP_RMON_CTL. -/
abbrev TOP_RMON_CTL_addr : Nat := 0x100
abbrev TOP_RMON_CTL_WINDOW_US : Field := ⟨0x100, 0, 11⟩
abbrev TOP_RMON_CTL_CLR_MIN : Field := ⟨0x100, 30, 1⟩
abbrev TOP_RMON_CTL_EN : Field := ⟨0x100, 31, 1⟩
/-- The address of TOP_RMON_SEL. -/
abbrev TOP_RMON_SEL_addr : Nat := 0x104
abbrev TOP_RMON_SEL_UNIT : Field := ⟨0x104, 0, 8⟩
/-- The address of TOP_RMON_RATE. -/
abbrev TOP_RMON_RATE_addr : Nat := 0x108
abbrev TOP_RMON_RATE_RATE : Field := ⟨0x108, 0, 24⟩
/-- The address of TOP_RMON_MIN. -/
abbrev TOP_RMON_MIN_addr : Nat := 0x10C
abbrev TOP_RMON_MIN_MIN : Field := ⟨0x10C, 0, 24⟩
/-- The address of TOP_BOOT_STAT. -/
abbrev TOP_BOOT_STAT_addr : Nat := 0x10
abbrev TOP_BOOT_STAT_BOOTSEL : Field := ⟨0x10, 0, 3⟩
abbrev TOP_BOOT_STAT_CAUSE : Field := ⟨0x10, 3, 4⟩
abbrev TOP_BOOT_STAT_SEG : Field := ⟨0x10, 7, 5⟩
abbrev TOP_BOOT_STAT_IMG_CAUSE : Field := ⟨0x10, 12, 3⟩
abbrev TOP_BOOT_STAT_ROLE : Field := ⟨0x10, 15, 2⟩
abbrev TOP_BOOT_STAT_DONE : Field := ⟨0x10, 17, 1⟩
abbrev TOP_BOOT_STAT_AUTH : Field := ⟨0x10, 18, 1⟩
/-- The address of TOP_BOOT_CTL. -/
abbrev TOP_BOOT_CTL_addr : Nat := 0x14
abbrev TOP_BOOT_CTL_DOORBELL : Field := ⟨0x14, 0, 1⟩
abbrev TOP_BOOT_CTL_FLOOD : Field := ⟨0x14, 1, 1⟩
/-! Block EVT (R397). -/

/-- The address of EVT_STAT. -/
abbrev EVT_STAT_addr (i : Nat) : Nat := 0x10000 + 4 * i
abbrev EVT_STAT_STATUS (i : Nat) : Field := ⟨0x10000 + 4 * i, 0, 32⟩
/-- The address of EVT_EN. -/
abbrev EVT_EN_addr (i : Nat) : Nat := 0x10080 + 4 * i
abbrev EVT_EN_EN (i : Nat) : Field := ⟨0x10080 + 4 * i, 0, 32⟩
/-- The address of EVT_AGAIN. -/
abbrev EVT_AGAIN_addr (i : Nat) : Nat := 0x10100 + 4 * i
abbrev EVT_AGAIN_AGAIN (i : Nat) : Field := ⟨0x10100 + 4 * i, 0, 32⟩
/-- The address of EVT_PEND. -/
abbrev EVT_PEND_addr : Nat := 0x10180
abbrev EVT_PEND_GROUP : Field := ⟨0x10180, 0, 32⟩
/-- The address of EVT_UPD_BASE. -/
abbrev EVT_UPD_BASE_addr : Nat := 0x10200
abbrev EVT_UPD_BASE_BASE : Field := ⟨0x10200, 10, 22⟩
/-- The address of EVT_UPD_PTR. -/
abbrev EVT_UPD_PTR_addr : Nat := 0x10204
abbrev EVT_UPD_PTR_WR : Field := ⟨0x10204, 0, 6⟩
abbrev EVT_UPD_PTR_RD : Field := ⟨0x10204, 8, 6⟩
abbrev EVT_UPD_PTR_OVERFLOW : Field := ⟨0x10204, 16, 1⟩
/-- The address of EVT_ROUTE. -/
abbrev EVT_ROUTE_addr (i : Nat) : Nat := 0x11000 + 4 * i
abbrev EVT_ROUTE_THREADS (i : Nat) : Field := ⟨0x11000 + 4 * i, 0, 16⟩
abbrev EVT_ROUTE_UPDRAFT (i : Nat) : Field := ⟨0x11000 + 4 * i, 16, 1⟩
abbrev EVT_ROUTE_VECTOR (i : Nat) : Field := ⟨0x11000 + 4 * i, 17, 6⟩
abbrev EVT_ROUTE_MSIX (i : Nat) : Field := ⟨0x11000 + 4 * i, 23, 1⟩
abbrev EVT_ROUTE_PIN (i : Nat) : Field := ⟨0x11000 + 4 * i, 24, 1⟩
/-! Block TB (R250). -/

/-- The address of TB_NOW_NS. -/
abbrev TB_NOW_NS_addr : Nat := 0x20000
abbrev TB_NOW_NS_NS : Field := ⟨0x20000, 0, 32⟩
/-- The address of TB_NOW_FRAC. -/
abbrev TB_NOW_FRAC_addr : Nat := 0x20004
abbrev TB_NOW_FRAC_FRAC : Field := ⟨0x20004, 0, 16⟩
/-- The address of TB_CTL. -/
abbrev TB_CTL_addr : Nat := 0x20008
abbrev TB_CTL_SRC : Field := ⟨0x20008, 0, 2⟩
abbrev TB_CTL_GL_IN : Field := ⟨0x20008, 2, 2⟩
abbrev TB_CTL_FORCE : Field := ⟨0x20008, 4, 1⟩
abbrev TB_CTL_WAKE_STEP : Field := ⟨0x20008, 5, 1⟩
/-- The address of TB_STATE. -/
abbrev TB_STATE_addr : Nat := 0x2000C
abbrev TB_STATE_STATE : Field := ⟨0x2000C, 0, 2⟩
abbrev TB_STATE_BACKUP : Field := ⟨0x2000C, 2, 1⟩
abbrev TB_STATE_PORT : Field := ⟨0x2000C, 3, 2⟩
abbrev TB_STATE_SATURATED : Field := ⟨0x2000C, 5, 1⟩
/-- The address of TB_RATE. -/
abbrev TB_RATE_addr : Nat := 0x20010
abbrev TB_RATE_RATE : Field := ⟨0x20010, 0, 32⟩
/-- The address of TB_RATE_LIMIT. -/
abbrev TB_RATE_LIMIT_addr : Nat := 0x20014
abbrev TB_RATE_LIMIT_LIM : Field := ⟨0x20014, 0, 19⟩
/-- The address of TB_JUMP_LIMIT. -/
abbrev TB_JUMP_LIMIT_addr : Nat := 0x20018
abbrev TB_JUMP_LIMIT_NS : Field := ⟨0x20018, 0, 20⟩
/-- The address of TB_GAIN. -/
abbrev TB_GAIN_addr : Nat := 0x2001C
abbrev TB_GAIN_KP : Field := ⟨0x2001C, 0, 6⟩
abbrev TB_GAIN_KI : Field := ⟨0x2001C, 8, 6⟩
/-- The address of TB_ERR_NS. -/
abbrev TB_ERR_NS_addr : Nat := 0x20020
abbrev TB_ERR_NS_NS : Field := ⟨0x20020, 0, 32⟩
/-- The address of TB_ERR_FRAC. -/
abbrev TB_ERR_FRAC_addr : Nat := 0x20024
abbrev TB_ERR_FRAC_FRAC : Field := ⟨0x20024, 0, 16⟩
/-- The address of TB_SW_ERR_NS. -/
abbrev TB_SW_ERR_NS_addr : Nat := 0x20028
abbrev TB_SW_ERR_NS_NS : Field := ⟨0x20028, 0, 32⟩
/-- The address of TB_SW_ERR_FRAC. -/
abbrev TB_SW_ERR_FRAC_addr : Nat := 0x2002C
abbrev TB_SW_ERR_FRAC_FRAC : Field := ⟨0x2002C, 0, 16⟩
/-- The address of TB_STEP_NS. -/
abbrev TB_STEP_NS_addr : Nat := 0x20030
abbrev TB_STEP_NS_NS : Field := ⟨0x20030, 0, 32⟩
/-- The address of TB_STEP_AT. -/
abbrev TB_STEP_AT_addr : Nat := 0x20034
abbrev TB_STEP_AT_NS : Field := ⟨0x20034, 0, 32⟩
/-- The address of TB_GUST. -/
abbrev TB_GUST_addr : Nat := 0x20038
abbrev TB_GUST_COUNT : Field := ⟨0x20038, 0, 16⟩
abbrev TB_GUST_MISSING : Field := ⟨0x20038, 16, 16⟩
/-- The address of TB_SW_TIMEOUT. -/
abbrev TB_SW_TIMEOUT_addr : Nat := 0x2003C
abbrev TB_SW_TIMEOUT_MS : Field := ⟨0x2003C, 0, 16⟩
/-- The address of TB_GL_PERIOD_NS. -/
abbrev TB_GL_PERIOD_NS_addr : Nat := 0x20040
abbrev TB_GL_PERIOD_NS_NS : Field := ⟨0x20040, 0, 32⟩
/-- The address of TB_GL_PERIOD_FRAC. -/
abbrev TB_GL_PERIOD_FRAC_addr : Nat := 0x20044
abbrev TB_GL_PERIOD_FRAC_FRAC : Field := ⟨0x20044, 0, 16⟩
/-- The address of TB_GL_PHASE. -/
abbrev TB_GL_PHASE_addr : Nat := 0x20048
abbrev TB_GL_PHASE_NS : Field := ⟨0x20048, 0, 32⟩
/-- The address of TB_IN_CFG. -/
abbrev TB_IN_CFG_addr (i : Nat) : Nat := 0x20100 + 16 * i
abbrev TB_IN_CFG_EDGE (i : Nat) : Field := ⟨0x20100 + 16 * i, 0, 2⟩
abbrev TB_IN_CFG_OVERRUN (i : Nat) : Field := ⟨0x20100 + 16 * i, 2, 1⟩
/-- The address of TB_IN_NS. -/
abbrev TB_IN_NS_addr (i : Nat) : Nat := 0x20104 + 16 * i
abbrev TB_IN_NS_NS (i : Nat) : Field := ⟨0x20104 + 16 * i, 0, 32⟩
/-- The address of TB_IN_FRAC. -/
abbrev TB_IN_FRAC_addr (i : Nat) : Nat := 0x20108 + 16 * i
abbrev TB_IN_FRAC_FRAC (i : Nat) : Field := ⟨0x20108 + 16 * i, 0, 16⟩
abbrev TB_IN_FRAC_COUNT (i : Nat) : Field := ⟨0x20108 + 16 * i, 16, 16⟩
/-- The address of TB_OUT_CFG. -/
abbrev TB_OUT_CFG_addr (i : Nat) : Nat := 0x20200 + 32 * i
abbrev TB_OUT_CFG_EN (i : Nat) : Field := ⟨0x20200 + 32 * i, 0, 1⟩
abbrev TB_OUT_CFG_POL (i : Nat) : Field := ⟨0x20200 + 32 * i, 1, 1⟩
/-- The address of TB_OUT_START. -/
abbrev TB_OUT_START_addr (i : Nat) : Nat := 0x20204 + 32 * i
abbrev TB_OUT_START_NS (i : Nat) : Field := ⟨0x20204 + 32 * i, 0, 32⟩
/-- The address of TB_OUT_PERIOD. -/
abbrev TB_OUT_PERIOD_addr (i : Nat) : Nat := 0x20208 + 32 * i
abbrev TB_OUT_PERIOD_NS (i : Nat) : Field := ⟨0x20208 + 32 * i, 0, 32⟩
/-- The address of TB_OUT_PFRAC. -/
abbrev TB_OUT_PFRAC_addr (i : Nat) : Nat := 0x2020C + 32 * i
abbrev TB_OUT_PFRAC_FRAC (i : Nat) : Field := ⟨0x2020C + 32 * i, 0, 16⟩
/-- The address of TB_OUT_WIDTH. -/
abbrev TB_OUT_WIDTH_addr (i : Nat) : Nat := 0x20210 + 32 * i
abbrev TB_OUT_WIDTH_NS (i : Nat) : Field := ⟨0x20210 + 32 * i, 0, 32⟩
/-- The address of TB_OUT_STEP. -/
abbrev TB_OUT_STEP_addr (i : Nat) : Nat := 0x20214 + 32 * i
abbrev TB_OUT_STEP_STEP (i : Nat) : Field := ⟨0x20214 + 32 * i, 0, 16⟩
/-! Block ETH (R251). -/

/-- The address of ETH_CFG. -/
abbrev ETH_CFG_addr (i : Nat) : Nat := 0x30000 + 4096 * i
abbrev ETH_CFG_EN (i : Nat) : Field := ⟨0x30000 + 4096 * i, 0, 1⟩
abbrev ETH_CFG_FEC (i : Nat) : Field := ⟨0x30000 + 4096 * i, 1, 2⟩
/-- The address of ETH_STATUS. -/
abbrev ETH_STATUS_addr (i : Nat) : Nat := 0x30004 + 4096 * i
abbrev ETH_STATUS_LINK (i : Nat) : Field := ⟨0x30004 + 4096 * i, 0, 1⟩
/-- The address of ETH_MAC_LO. -/
abbrev ETH_MAC_LO_addr (i : Nat) : Nat := 0x30008 + 4096 * i
abbrev ETH_MAC_LO_MAC (i : Nat) : Field := ⟨0x30008 + 4096 * i, 0, 32⟩
/-- The address of ETH_MAC_HI. -/
abbrev ETH_MAC_HI_addr (i : Nat) : Nat := 0x3000C + 4096 * i
abbrev ETH_MAC_HI_MAC (i : Nat) : Field := ⟨0x3000C + 4096 * i, 0, 16⟩
/-- The address of ETH_RXR_BASE. -/
abbrev ETH_RXR_BASE_addr (i : Nat) : Nat := 0x30010 + 4096 * i
abbrev ETH_RXR_BASE_BASE (i : Nat) : Field := ⟨0x30010 + 4096 * i, 6, 26⟩
/-- The address of ETH_TXR_BASE. -/
abbrev ETH_TXR_BASE_addr (i : Nat) : Nat := 0x30020 + 4096 * i
abbrev ETH_TXR_BASE_BASE (i : Nat) : Field := ⟨0x30020 + 4096 * i, 6, 26⟩
/-- The address of ETH_RXR_SIZE. -/
abbrev ETH_RXR_SIZE_addr (i : Nat) : Nat := 0x30014 + 4096 * i
abbrev ETH_RXR_SIZE_N (i : Nat) : Field := ⟨0x30014 + 4096 * i, 0, 9⟩
/-- The address of ETH_TXR_SIZE. -/
abbrev ETH_TXR_SIZE_addr (i : Nat) : Nat := 0x30024 + 4096 * i
abbrev ETH_TXR_SIZE_N (i : Nat) : Field := ⟨0x30024 + 4096 * i, 0, 9⟩
/-- The address of ETH_RXR_PTR. -/
abbrev ETH_RXR_PTR_addr (i : Nat) : Nat := 0x30018 + 4096 * i
abbrev ETH_RXR_PTR_DEV (i : Nat) : Field := ⟨0x30018 + 4096 * i, 0, 8⟩
abbrev ETH_RXR_PTR_SW (i : Nat) : Field := ⟨0x30018 + 4096 * i, 8, 8⟩
/-- The address of ETH_TXR_PTR. -/
abbrev ETH_TXR_PTR_addr (i : Nat) : Nat := 0x30028 + 4096 * i
abbrev ETH_TXR_PTR_DEV (i : Nat) : Field := ⟨0x30028 + 4096 * i, 0, 8⟩
abbrev ETH_TXR_PTR_SW (i : Nat) : Field := ⟨0x30028 + 4096 * i, 8, 8⟩
/-- The address of ETH_TX_LAT. -/
abbrev ETH_TX_LAT_addr (i : Nat) : Nat := 0x30030 + 4096 * i
abbrev ETH_TX_LAT_LAT (i : Nat) : Field := ⟨0x30030 + 4096 * i, 0, 32⟩
/-- The address of ETH_RX_LAT. -/
abbrev ETH_RX_LAT_addr (i : Nat) : Nat := 0x30034 + 4096 * i
abbrev ETH_RX_LAT_LAT (i : Nat) : Field := ⟨0x30034 + 4096 * i, 0, 32⟩
/-- The address of ETH_TSQ_ID. -/
abbrev ETH_TSQ_ID_addr (i : Nat) : Nat := 0x30040 + 4096 * i
abbrev ETH_TSQ_ID_TS_ID (i : Nat) : Field := ⟨0x30040 + 4096 * i, 0, 12⟩
abbrev ETH_TSQ_ID_GEN (i : Nat) : Field := ⟨0x30040 + 4096 * i, 12, 4⟩
abbrev ETH_TSQ_ID_PORT (i : Nat) : Field := ⟨0x30040 + 4096 * i, 16, 1⟩
abbrev ETH_TSQ_ID_SUPERSEDED (i : Nat) : Field := ⟨0x30040 + 4096 * i, 17, 1⟩
abbrev ETH_TSQ_ID_VALID (i : Nat) : Field := ⟨0x30040 + 4096 * i, 31, 1⟩
/-- The address of ETH_TSQ_NS. -/
abbrev ETH_TSQ_NS_addr (i : Nat) : Nat := 0x30044 + 4096 * i
abbrev ETH_TSQ_NS_NS (i : Nat) : Field := ⟨0x30044 + 4096 * i, 0, 32⟩
/-- The address of ETH_TSQ_FRAC. -/
abbrev ETH_TSQ_FRAC_addr (i : Nat) : Nat := 0x30048 + 4096 * i
abbrev ETH_TSQ_FRAC_FRAC (i : Nat) : Field := ⟨0x30048 + 4096 * i, 0, 16⟩
/-- The address of ETH_TSQ_CTL. -/
abbrev ETH_TSQ_CTL_addr (i : Nat) : Nat := 0x3004C + 4096 * i
abbrev ETH_TSQ_CTL_POP (i : Nat) : Field := ⟨0x3004C + 4096 * i, 0, 1⟩
abbrev ETH_TSQ_CTL_OVERFLOW (i : Nat) : Field := ⟨0x3004C + 4096 * i, 1, 1⟩
abbrev ETH_TSQ_CTL_LEVEL (i : Nat) : Field := ⟨0x3004C + 4096 * i, 2, 5⟩
abbrev ETH_TSQ_CTL_DROPS (i : Nat) : Field := ⟨0x3004C + 4096 * i, 16, 16⟩
/-- The address of ETH_PTP_MAP_NS. -/
abbrev ETH_PTP_MAP_NS_addr : Nat := 0x32000
abbrev ETH_PTP_MAP_NS_NS : Field := ⟨0x32000, 0, 30⟩
/-- The address of ETH_PTP_MAP_SEC_LO. -/
abbrev ETH_PTP_MAP_SEC_LO_addr : Nat := 0x32004
abbrev ETH_PTP_MAP_SEC_LO_SEC : Field := ⟨0x32004, 0, 32⟩
/-- The address of ETH_PTP_MAP_SEC_HI. -/
abbrev ETH_PTP_MAP_SEC_HI_addr : Nat := 0x32008
abbrev ETH_PTP_MAP_SEC_HI_SEC : Field := ⟨0x32008, 0, 16⟩
/-- The address of ETH_PTP_MAP_TB. -/
abbrev ETH_PTP_MAP_TB_addr : Nat := 0x3200C
abbrev ETH_PTP_MAP_TB_M : Field := ⟨0x3200C, 0, 32⟩
/-! Block ZL (R224, R225). -/

/-- The address of ZL_CFG. -/
abbrev ZL_CFG_addr (i : Nat) : Nat := 0x40000 + 16384 * i
abbrev ZL_CFG_EN (i : Nat) : Field := ⟨0x40000 + 16384 * i, 0, 1⟩
abbrev ZL_CFG_MAXVER (i : Nat) : Field := ⟨0x40000 + 16384 * i, 1, 2⟩
abbrev ZL_CFG_LANE_EN (i : Nat) : Field := ⟨0x40000 + 16384 * i, 3, 4⟩
abbrev ZL_CFG_RAW (i : Nat) : Field := ⟨0x40000 + 16384 * i, 7, 1⟩
abbrev ZL_CFG_TIME_UP (i : Nat) : Field := ⟨0x40000 + 16384 * i, 8, 1⟩
abbrev ZL_CFG_WAKE (i : Nat) : Field := ⟨0x40000 + 16384 * i, 9, 1⟩
abbrev ZL_CFG_RETRAIN (i : Nat) : Field := ⟨0x40000 + 16384 * i, 10, 1⟩
abbrev ZL_CFG_RETRY_MS (i : Nat) : Field := ⟨0x40000 + 16384 * i, 16, 8⟩
/-- The address of ZL_STATUS. -/
abbrev ZL_STATUS_addr (i : Nat) : Nat := 0x40004 + 16384 * i
abbrev ZL_STATUS_STATE (i : Nat) : Field := ⟨0x40004 + 16384 * i, 0, 3⟩
abbrev ZL_STATUS_VER (i : Nat) : Field := ⟨0x40004 + 16384 * i, 3, 2⟩
abbrev ZL_STATUS_RX_LANES (i : Nat) : Field := ⟨0x40004 + 16384 * i, 5, 4⟩
abbrev ZL_STATUS_TX_LANES (i : Nat) : Field := ⟨0x40004 + 16384 * i, 9, 4⟩
/-- The address of ZL_LCAP. -/
abbrev ZL_LCAP_addr (i : Nat) : Nat := 0x40008 + 16384 * i
abbrev ZL_LCAP_CAP (i : Nat) : Field := ⟨0x40008 + 16384 * i, 0, 32⟩
/-- The address of ZL_PCAP. -/
abbrev ZL_PCAP_addr (i : Nat) : Nat := 0x4000C + 16384 * i
abbrev ZL_PCAP_CAP (i : Nat) : Field := ⟨0x4000C + 16384 * i, 0, 32⟩
/-- The address of ZL_PID. -/
abbrev ZL_PID_addr (i : Nat) : Nat := 0x40010 + 16384 * i
abbrev ZL_PID_IDENT (i : Nat) : Field := ⟨0x40010 + 16384 * i, 0, 32⟩
/-- The address of ZL_ERR. -/
abbrev ZL_ERR_addr (i : Nat) : Nat := 0x40014 + 16384 * i
abbrev ZL_ERR_REPLAYS (i : Nat) : Field := ⟨0x40014 + 16384 * i, 0, 16⟩
abbrev ZL_ERR_RETRAINS (i : Nat) : Field := ⟨0x40014 + 16384 * i, 16, 8⟩
abbrev ZL_ERR_REMAPS (i : Nat) : Field := ⟨0x40014 + 16384 * i, 24, 8⟩
/-- The address of ZL_DROP. -/
abbrev ZL_DROP_addr (i : Nat) : Nat := 0x40018 + 16384 * i
abbrev ZL_DROP_QFULL (i : Nat) : Field := ⟨0x40018 + 16384 * i, 0, 16⟩
abbrev ZL_DROP_BADPKT (i : Nat) : Field := ⟨0x40018 + 16384 * i, 16, 16⟩
/-- The address of ZL_LANE_LIMIT. -/
abbrev ZL_LANE_LIMIT_addr (i : Nat) : Nat := 0x4001C + 16384 * i
abbrev ZL_LANE_LIMIT_LIMIT (i : Nat) : Field := ⟨0x4001C + 16384 * i, 0, 16⟩
/-- The address of ZL_TT_DELAY. -/
abbrev ZL_TT_DELAY_addr (i : Nat) : Nat := 0x40020 + 16384 * i
abbrev ZL_TT_DELAY_DELAY (i : Nat) : Field := ⟨0x40020 + 16384 * i, 0, 32⟩
/-- The address of ZL_TT_OFFSET. -/
abbrev ZL_TT_OFFSET_addr (i : Nat) : Nat := 0x40024 + 16384 * i
abbrev ZL_TT_OFFSET_OFFSET (i : Nat) : Field := ⟨0x40024 + 16384 * i, 0, 32⟩
/-- The address of ZL_TT_ASYM. -/
abbrev ZL_TT_ASYM_addr (i : Nat) : Nat := 0x40028 + 16384 * i
abbrev ZL_TT_ASYM_ASYM (i : Nat) : Field := ⟨0x40028 + 16384 * i, 0, 16⟩
/-- The address of ZL_TT_COUNT. -/
abbrev ZL_TT_COUNT_addr (i : Nat) : Nat := 0x4002C + 16384 * i
abbrev ZL_TT_COUNT_GOOD (i : Nat) : Field := ⟨0x4002C + 16384 * i, 0, 16⟩
abbrev ZL_TT_COUNT_BAD (i : Nat) : Field := ⟨0x4002C + 16384 * i, 16, 16⟩
/-- The address of ZL_CLR. -/
abbrev ZL_CLR_addr (i : Nat) : Nat := 0x40030 + 16384 * i
abbrev ZL_CLR_CLR (i : Nat) : Field := ⟨0x40030 + 16384 * i, 0, 1⟩
/-- The address of ZL_ADDR. -/
abbrev ZL_ADDR_addr : Nat := 0x43000
abbrev ZL_ADDR_X : Field := ⟨0x43000, 0, 8⟩
abbrev ZL_ADDR_Y : Field := ⟨0x43000, 8, 8⟩
abbrev ZL_ADDR_HUB : Field := ⟨0x43000, 16, 1⟩
/-- The address of ZL_UP. -/
abbrev ZL_UP_addr : Nat := 0x43004
abbrev ZL_UP_HUB : Field := ⟨0x43004, 0, 16⟩
abbrev ZL_UP_DUAL : Field := ⟨0x43004, 16, 1⟩
/-- The address of ZL_STAB_ADDR. -/
abbrev ZL_STAB_ADDR_addr : Nat := 0x43008
abbrev ZL_STAB_ADDR_INDEX : Field := ⟨0x43008, 0, 12⟩
/-- The address of ZL_STAB_DATA. -/
abbrev ZL_STAB_DATA_addr : Nat := 0x4300C
abbrev ZL_STAB_DATA_ENTRY : Field := ⟨0x4300C, 0, 8⟩
/-- The address of ZL_LSTREAM. -/
abbrev ZL_LSTREAM_addr (i : Nat) : Nat := 0x43010 + 4 * i
abbrev ZL_LSTREAM_STREAM (i : Nat) : Field := ⟨0x43010 + 4 * i, 0, 12⟩
abbrev ZL_LSTREAM_EN (i : Nat) : Field := ⟨0x43010 + 4 * i, 12, 1⟩
abbrev ZL_LSTREAM_SESSION (i : Nat) : Field := ⟨0x43010 + 4 * i, 16, 8⟩
/-- The address of ZL_DEDUP. -/
abbrev ZL_DEDUP_addr : Nat := 0x43030
abbrev ZL_DEDUP_DUP : Field := ⟨0x43030, 0, 16⟩
abbrev ZL_DEDUP_LOST : Field := ⟨0x43030, 16, 16⟩
/-- The address of ZL_DEDUP_STALE. -/
abbrev ZL_DEDUP_STALE_addr : Nat := 0x43034
abbrev ZL_DEDUP_STALE_STALE : Field := ⟨0x43034, 0, 16⟩
abbrev ZL_DEDUP_STALE_REASM : Field := ⟨0x43034, 16, 16⟩
/-- The address of ZL_MGMT_EPOCH. -/
abbrev ZL_MGMT_EPOCH_addr : Nat := 0x43040
abbrev ZL_MGMT_EPOCH_EPOCH : Field := ⟨0x43040, 0, 6⟩
/-- The address of ZL_MTX_ADDR. -/
abbrev ZL_MTX_ADDR_addr : Nat := 0x43044
abbrev ZL_MTX_ADDR_ADDR : Field := ⟨0x43044, 6, 26⟩
/-- The address of ZL_MTX_CTL. -/
abbrev ZL_MTX_CTL_addr : Nat := 0x43048
abbrev ZL_MTX_CTL_SEND : Field := ⟨0x43048, 0, 1⟩
/-- The address of ZL_MRX_BASE. -/
abbrev ZL_MRX_BASE_addr : Nat := 0x4304C
abbrev ZL_MRX_BASE_BASE : Field := ⟨0x4304C, 12, 20⟩
/-- The address of ZL_MRX_PTR. -/
abbrev ZL_MRX_PTR_addr : Nat := 0x43050
abbrev ZL_MRX_PTR_WR : Field := ⟨0x43050, 0, 6⟩
abbrev ZL_MRX_PTR_RD : Field := ⟨0x43050, 8, 6⟩
abbrev ZL_MRX_PTR_OVERFLOW : Field := ⟨0x43050, 16, 1⟩
/-- The address of ZL_MGMT_STAT. -/
abbrev ZL_MGMT_STAT_addr : Nat := 0x43054
abbrev ZL_MGMT_STAT_STALE : Field := ⟨0x43054, 0, 16⟩
abbrev ZL_MGMT_STAT_REFUSED : Field := ⟨0x43054, 16, 16⟩
/-- The address of ZL_EVT_RATE. -/
abbrev ZL_EVT_RATE_addr : Nat := 0x43058
abbrev ZL_EVT_RATE_PER_MS : Field := ⟨0x43058, 0, 16⟩
/-- The address of ZL_ROUTE_DROP. -/
abbrev ZL_ROUTE_DROP_addr : Nat := 0x4305C
abbrev ZL_ROUTE_DROP_COUNT : Field := ⟨0x4305C, 0, 16⟩
/-- The address of ZL_RAW_BASE. -/
abbrev ZL_RAW_BASE_addr : Nat := 0x43060
abbrev ZL_RAW_BASE_BASE : Field := ⟨0x43060, 0, 28⟩
/-- The address of ZL_RAW_SIZE. -/
abbrev ZL_RAW_SIZE_addr : Nat := 0x43064
abbrev ZL_RAW_SIZE_SIZE_4K : Field := ⟨0x43064, 0, 20⟩
/-- The address of ZL_RAW_WPTR. -/
abbrev ZL_RAW_WPTR_addr : Nat := 0x43068
abbrev ZL_RAW_WPTR_WR_64B : Field := ⟨0x43068, 0, 26⟩
/-- The address of ZL_RAW_RPTR. -/
abbrev ZL_RAW_RPTR_addr : Nat := 0x4306C
abbrev ZL_RAW_RPTR_RD_64B : Field := ⟨0x4306C, 0, 26⟩
/-- The address of ZL_TXS. -/
abbrev ZL_TXS_addr (i : Nat) : Nat := 0x43100 + 8 * i
abbrev ZL_TXS_STREAM (i : Nat) : Field := ⟨0x43100 + 8 * i, 0, 12⟩
abbrev ZL_TXS_EN (i : Nat) : Field := ⟨0x43100 + 8 * i, 12, 1⟩
abbrev ZL_TXS_SYNC (i : Nat) : Field := ⟨0x43100 + 8 * i, 13, 1⟩
abbrev ZL_TXS_SESSION (i : Nat) : Field := ⟨0x43100 + 8 * i, 16, 8⟩
/-- The address of ZL_TXSSN. -/
abbrev ZL_TXSSN_addr (i : Nat) : Nat := 0x43104 + 8 * i
abbrev ZL_TXSSN_NEXT (i : Nat) : Field := ⟨0x43104 + 8 * i, 0, 32⟩
/-! Block CODEC (R186, R72). -/

/-- The address of CODEC_TDV_FRAME. -/
abbrev CODEC_TDV_FRAME_addr : Nat := 0x50E00
abbrev CODEC_TDV_FRAME_FRAME_SEQ : Field := ⟨0x50E00, 0, 32⟩
/-- The address of CODEC_TDV_REJECT. -/
abbrev CODEC_TDV_REJECT_addr : Nat := 0x50E04
abbrev CODEC_TDV_REJECT_COUNT : Field := ⟨0x50E04, 0, 16⟩
abbrev CODEC_TDV_REJECT_CAUSE : Field := ⟨0x50E04, 16, 4⟩
abbrev CODEC_TDV_REJECT_CLR : Field := ⟨0x50E04, 31, 1⟩
/-- The address of CODEC_TDV_HALF. -/
abbrev CODEC_TDV_HALF_addr : Nat := 0x50E08
abbrev CODEC_TDV_HALF_HALF : Field := ⟨0x50E08, 0, 1⟩
abbrev CODEC_TDV_HALF_USED_64B : Field := ⟨0x50E08, 8, 19⟩
/-- The address of CODEC_LANE_CFG. -/
abbrev CODEC_LANE_CFG_addr (i : Nat) : Nat := 0x50000 + 4 * i
abbrev CODEC_LANE_CFG_MODE (i : Nat) : Field := ⟨0x50000 + 4 * i, 0, 2⟩
abbrev CODEC_LANE_CFG_BUSY (i : Nat) : Field := ⟨0x50000 + 4 * i, 2, 1⟩
abbrev CODEC_LANE_CFG_FLUSH (i : Nat) : Field := ⟨0x50000 + 4 * i, 3, 1⟩
/-- The address of CODEC_SRC. -/
abbrev CODEC_SRC_addr : Nat := 0x50100
abbrev CODEC_SRC_SEL : Field := ⟨0x50100, 0, 1⟩
/-- The address of CODEC_SQ_FILL. -/
abbrev CODEC_SQ_FILL_addr : Nat := 0x50104
abbrev CODEC_SQ_FILL_FILL_64B : Field := ⟨0x50104, 0, 17⟩
/-- The address of CODEC_STRIPE_ERR. -/
abbrev CODEC_STRIPE_ERR_addr : Nat := 0x50108
abbrev CODEC_STRIPE_ERR_COUNT : Field := ⟨0x50108, 0, 16⟩
abbrev CODEC_STRIPE_ERR_CAUSE : Field := ⟨0x50108, 16, 4⟩
abbrev CODEC_STRIPE_ERR_VIEW : Field := ⟨0x50108, 20, 4⟩
abbrev CODEC_STRIPE_ERR_PLANE : Field := ⟨0x50108, 24, 4⟩
abbrev CODEC_STRIPE_ERR_CLR : Field := ⟨0x50108, 31, 1⟩
/-- The address of CODEC_STRIPE_DROP. -/
abbrev CODEC_STRIPE_DROP_addr : Nat := 0x5010C
abbrev CODEC_STRIPE_DROP_STALE : Field := ⟨0x5010C, 0, 16⟩
abbrev CODEC_STRIPE_DROP_FULL : Field := ⟨0x5010C, 16, 16⟩
/-- The address of CODEC_TAINT. -/
abbrev CODEC_TAINT_addr : Nat := 0x50110
abbrev CODEC_TAINT_ROWS : Field := ⟨0x50110, 0, 14⟩
/-- The address of CODEC_REC_BASE. -/
abbrev CODEC_REC_BASE_addr : Nat := 0x50120
abbrev CODEC_REC_BASE_BASE : Field := ⟨0x50120, 0, 32⟩
/-- The address of CODEC_REC_SIZE. -/
abbrev CODEC_REC_SIZE_addr : Nat := 0x50124
abbrev CODEC_REC_SIZE_SIZE_64K : Field := ⟨0x50124, 0, 21⟩
/-- The address of CODEC_REC_CTL. -/
abbrev CODEC_REC_CTL_addr : Nat := 0x50128
abbrev CODEC_REC_CTL_EN : Field := ⟨0x50128, 0, 1⟩
abbrev CODEC_REC_CTL_FULL : Field := ⟨0x50128, 1, 1⟩
/-- The address of CODEC_REC_PTR. -/
abbrev CODEC_REC_PTR_addr : Nat := 0x5012C
abbrev CODEC_REC_PTR_OFFSET_64B : Field := ⟨0x5012C, 0, 31⟩
/-! Block PRESS (R129, R99). -/

/-- The address of PRESS_CTL. -/
abbrev PRESS_CTL_addr (i : Nat) : Nat := 0x60000 + 4 * i
abbrev PRESS_CTL_GATE (i : Nat) : Field := ⟨0x60000 + 4 * i, 0, 1⟩
abbrev PRESS_CTL_FENCE (i : Nat) : Field := ⟨0x60000 + 4 * i, 1, 1⟩
abbrev PRESS_CTL_FENCED (i : Nat) : Field := ⟨0x60000 + 4 * i, 2, 1⟩
abbrev PRESS_CTL_FENCE_CAUSE (i : Nat) : Field := ⟨0x60000 + 4 * i, 3, 2⟩
/-- The address of PRESS_SYN_ENTRY. -/
abbrev PRESS_SYN_ENTRY_addr : Nat := 0x60100
abbrev PRESS_SYN_ENTRY_ENTRY : Field := ⟨0x60100, 2, 18⟩
/-- The address of PRESS_VSEL_BASE. -/
abbrev PRESS_VSEL_BASE_addr : Nat := 0x60104
abbrev PRESS_VSEL_BASE_BASE : Field := ⟨0x60104, 12, 20⟩
/-- The address of PRESS_TIMEOUT. -/
abbrev PRESS_TIMEOUT_addr : Nat := 0x60108
abbrev PRESS_TIMEOUT_TIMEOUT_NS : Field := ⟨0x60108, 0, 16⟩
/-- The address of PRESS_LUT_CTL. -/
abbrev PRESS_LUT_CTL_addr : Nat := 0x6010C
abbrev PRESS_LUT_CTL_SWAP : Field := ⟨0x6010C, 0, 1⟩
abbrev PRESS_LUT_CTL_ACTIVE : Field := ⟨0x6010C, 1, 1⟩
abbrev PRESS_LUT_CTL_WR_REFUSED : Field := ⟨0x6010C, 2, 1⟩
/-- The address of PRESS_LUT_ADDR. -/
abbrev PRESS_LUT_ADDR_addr : Nat := 0x60110
abbrev PRESS_LUT_ADDR_INDEX : Field := ⟨0x60110, 0, 14⟩
/-- The address of PRESS_LUT_DATA. -/
abbrev PRESS_LUT_DATA_addr : Nat := 0x60114
abbrev PRESS_LUT_DATA_VALUE : Field := ⟨0x60114, 0, 12⟩
/-- The address of PRESS_LATE. -/
abbrev PRESS_LATE_addr : Nat := 0x60120
abbrev PRESS_LATE_BUNDLES : Field := ⟨0x60120, 0, 32⟩
/-- The address of PRESS_LATE_BANDS. -/
abbrev PRESS_LATE_BANDS_addr : Nat := 0x60124
abbrev PRESS_LATE_BANDS_BANDS : Field := ⟨0x60124, 0, 16⟩
abbrev PRESS_LATE_BANDS_LAST_BAND : Field := ⟨0x60124, 16, 6⟩
abbrev PRESS_LATE_BANDS_LAST_SLOT : Field := ⟨0x60124, 22, 6⟩
/-- The address of PRESS_EXC. -/
abbrev PRESS_EXC_addr : Nat := 0x60128
abbrev PRESS_EXC_COUNT : Field := ⟨0x60128, 0, 16⟩
abbrev PRESS_EXC_LAST_PRESS : Field := ⟨0x60128, 16, 6⟩
/-- The address of PRESS_STAT_CLR. -/
abbrev PRESS_STAT_CLR_addr : Nat := 0x6012C
abbrev PRESS_STAT_CLR_CLR : Field := ⟨0x6012C, 0, 1⟩
/-- The address of PRESS_EXC_INFO. -/
abbrev PRESS_EXC_INFO_addr : Nat := 0x60130
abbrev PRESS_EXC_INFO_PC : Field := ⟨0x60130, 2, 18⟩
abbrev PRESS_EXC_INFO_CAUSE : Field := ⟨0x60130, 20, 4⟩
abbrev PRESS_EXC_INFO_JOB : Field := ⟨0x60130, 24, 1⟩
/-- The address of PRESS_ISA. -/
abbrev PRESS_ISA_addr : Nat := 0x60140
abbrev PRESS_ISA_REV : Field := ⟨0x60140, 0, 8⟩
/-- The address of PRESS_ISA_FEAT. -/
abbrev PRESS_ISA_FEAT_addr : Nat := 0x60144
abbrev PRESS_ISA_FEAT_FEAT : Field := ⟨0x60144, 0, 32⟩
/-- The address of PRESS_IMG_ADDR. -/
abbrev PRESS_IMG_ADDR_addr : Nat := 0x60148
abbrev PRESS_IMG_ADDR_ADDR : Field := ⟨0x60148, 6, 26⟩
/-- The address of PRESS_IMG_CTL. -/
abbrev PRESS_IMG_CTL_addr : Nat := 0x6014C
abbrev PRESS_IMG_CTL_INSTALL : Field := ⟨0x6014C, 0, 1⟩
abbrev PRESS_IMG_CTL_REJECTED : Field := ⟨0x6014C, 1, 1⟩
abbrev PRESS_IMG_CTL_CAUSE : Field := ⟨0x6014C, 2, 3⟩
/-- The address of PRESS_IMG_MISSING. -/
abbrev PRESS_IMG_MISSING_addr : Nat := 0x60150
abbrev PRESS_IMG_MISSING_MISSING : Field := ⟨0x60150, 0, 32⟩
/-- The address of PRESS_SPILL_BASE. -/
abbrev PRESS_SPILL_BASE_addr : Nat := 0x60158
abbrev PRESS_SPILL_BASE_BASE : Field := ⟨0x60158, 0, 24⟩
/-- The address of PRESS_SPILL_WIN. -/
abbrev PRESS_SPILL_WIN_addr : Nat := 0x6015C
abbrev PRESS_SPILL_WIN_WIN_64K : Field := ⟨0x6015C, 0, 8⟩
/-! Block SEQ (R142, R150, R151, R152, R27). -/

/-- The address of SEQ_FRM_FORMAT. -/
abbrev SEQ_FRM_FORMAT_addr : Nat := 0x70800
abbrev SEQ_FRM_FORMAT_SLOTS : Field := ⟨0x70800, 0, 7⟩
abbrev SEQ_FRM_FORMAT_LAYER_MASK : Field := ⟨0x70800, 8, 6⟩
abbrev SEQ_FRM_FORMAT_HOLD : Field := ⟨0x70800, 16, 1⟩
abbrev SEQ_FRM_FORMAT_KV4 : Field := ⟨0x70800, 17, 1⟩
/-- The address of SEQ_FRM_SLOT_PERIOD. -/
abbrev SEQ_FRM_SLOT_PERIOD_addr : Nat := 0x70804
abbrev SEQ_FRM_SLOT_PERIOD_PERIOD_NS : Field := ⟨0x70804, 0, 23⟩
/-- The address of SEQ_FRM_MIN_FRAME. -/
abbrev SEQ_FRM_MIN_FRAME_addr : Nat := 0x70808
abbrev SEQ_FRM_MIN_FRAME_MIN_NS : Field := ⟨0x70808, 0, 32⟩
/-- The address of SEQ_FRM_MAX_FRAME. -/
abbrev SEQ_FRM_MAX_FRAME_addr : Nat := 0x7080C
abbrev SEQ_FRM_MAX_FRAME_MAX_NS : Field := ⟨0x7080C, 0, 32⟩
/-- The address of SEQ_FRM_CUTOFF. -/
abbrev SEQ_FRM_CUTOFF_addr : Nat := 0x70810
abbrev SEQ_FRM_CUTOFF_CUTOFF_NS : Field := ⟨0x70810, 0, 20⟩
/-- The address of SEQ_FRM_CTL. -/
abbrev SEQ_FRM_CTL_addr : Nat := 0x70814
abbrev SEQ_FRM_CTL_COMMIT : Field := ⟨0x70814, 0, 1⟩
abbrev SEQ_FRM_CTL_WAIT_TRANSITION : Field := ⟨0x70814, 1, 1⟩
abbrev SEQ_FRM_CTL_COMMIT_LATE : Field := ⟨0x70814, 2, 1⟩
abbrev SEQ_FRM_CTL_REFUSED : Field := ⟨0x70814, 3, 1⟩
abbrev SEQ_FRM_CTL_MISSED : Field := ⟨0x70814, 4, 1⟩
abbrev SEQ_FRM_CTL_CLR_COUNT : Field := ⟨0x70814, 5, 1⟩
/-- The address of SEQ_FRM_COUNT. -/
abbrev SEQ_FRM_COUNT_addr : Nat := 0x70818
abbrev SEQ_FRM_COUNT_REPEATS : Field := ⟨0x70818, 0, 16⟩
abbrev SEQ_FRM_COUNT_LATE_COMMITS : Field := ⟨0x70818, 16, 16⟩
/-- The address of SEQ_LC_TIME. -/
abbrev SEQ_LC_TIME_addr (i : Nat) : Nat := 0x70400 + 8 * i
abbrev SEQ_LC_TIME_TARGET (i : Nat) : Field := ⟨0x70400 + 8 * i, 0, 32⟩
/-- The address of SEQ_LC_CFG. -/
abbrev SEQ_LC_CFG_addr (i : Nat) : Nat := 0x70404 + 8 * i
abbrev SEQ_LC_CFG_LINE (i : Nat) : Field := ⟨0x70404 + 8 * i, 0, 5⟩
abbrev SEQ_LC_CFG_ARM (i : Nat) : Field := ⟨0x70404 + 8 * i, 5, 1⟩
abbrev SEQ_LC_CFG_DISARM (i : Nat) : Field := ⟨0x70404 + 8 * i, 6, 1⟩
abbrev SEQ_LC_CFG_FIRED (i : Nat) : Field := ⟨0x70404 + 8 * i, 7, 1⟩
abbrev SEQ_LC_CFG_LATE (i : Nat) : Field := ⟨0x70404 + 8 * i, 8, 1⟩
abbrev SEQ_LC_CFG_EARLY (i : Nat) : Field := ⟨0x70404 + 8 * i, 9, 1⟩
/-- The address of SEQ_RDY_FRAME. -/
abbrev SEQ_RDY_FRAME_addr : Nat := 0x70900
abbrev SEQ_RDY_FRAME_FRAME : Field := ⟨0x70900, 0, 32⟩
/-- The address of SEQ_RDY_MEMBER_LO. -/
abbrev SEQ_RDY_MEMBER_LO_addr : Nat := 0x70904
abbrev SEQ_RDY_MEMBER_LO_MEMBER : Field := ⟨0x70904, 0, 32⟩
/-- The address of SEQ_RDY_MEMBER_HI. -/
abbrev SEQ_RDY_MEMBER_HI_addr : Nat := 0x70908
abbrev SEQ_RDY_MEMBER_HI_MEMBER : Field := ⟨0x70908, 0, 32⟩
/-- The address of SEQ_RDY_GOT_LO. -/
abbrev SEQ_RDY_GOT_LO_addr : Nat := 0x7090C
abbrev SEQ_RDY_GOT_LO_GOT : Field := ⟨0x7090C, 0, 32⟩
/-- The address of SEQ_RDY_GOT_HI. -/
abbrev SEQ_RDY_GOT_HI_addr : Nat := 0x70910
abbrev SEQ_RDY_GOT_HI_GOT : Field := ⟨0x70910, 0, 32⟩
/-- The address of SEQ_RDY_LAST. -/
abbrev SEQ_RDY_LAST_addr : Nat := 0x70914
abbrev SEQ_RDY_LAST_LAST : Field := ⟨0x70914, 0, 32⟩
/-- The address of SEQ_RDY_CTL. -/
abbrev SEQ_RDY_CTL_addr : Nat := 0x70918
abbrev SEQ_RDY_CTL_ADVANCE : Field := ⟨0x70918, 0, 1⟩
abbrev SEQ_RDY_CTL_ALL : Field := ⟨0x70918, 1, 1⟩
abbrev SEQ_RDY_CTL_DROPPED : Field := ⟨0x70918, 16, 16⟩
/-- The address of SEQ_RDY_NEXT_LO. -/
abbrev SEQ_RDY_NEXT_LO_addr : Nat := 0x7091C
abbrev SEQ_RDY_NEXT_LO_NEXT : Field := ⟨0x7091C, 0, 32⟩
/-- The address of SEQ_RDY_NEXT_HI. -/
abbrev SEQ_RDY_NEXT_HI_addr : Nat := 0x70920
abbrev SEQ_RDY_NEXT_HI_NEXT : Field := ⟨0x70920, 0, 32⟩
/-- The address of SEQ_LTOK_TX_TIME. -/
abbrev SEQ_LTOK_TX_TIME_addr : Nat := 0x70940
abbrev SEQ_LTOK_TX_TIME_TIME : Field := ⟨0x70940, 0, 32⟩
/-- The address of SEQ_LTOK_TX_SEQ. -/
abbrev SEQ_LTOK_TX_SEQ_addr : Nat := 0x70944
abbrev SEQ_LTOK_TX_SEQ_FSEQ : Field := ⟨0x70944, 0, 32⟩
/-- The address of SEQ_LTOK_TX_CTL. -/
abbrev SEQ_LTOK_TX_CTL_addr : Nat := 0x70948
abbrev SEQ_LTOK_TX_CTL_SEND : Field := ⟨0x70948, 0, 1⟩
abbrev SEQ_LTOK_TX_CTL_TRANSITION : Field := ⟨0x70948, 1, 1⟩
abbrev SEQ_LTOK_TX_CTL_REFUSED : Field := ⟨0x70948, 2, 1⟩
abbrev SEQ_LTOK_TX_CTL_LOCAL : Field := ⟨0x70948, 3, 1⟩
/-- The address of SEQ_LTOK_MINLEAD. -/
abbrev SEQ_LTOK_MINLEAD_addr : Nat := 0x7094C
abbrev SEQ_LTOK_MINLEAD_MINLEAD_NS : Field := ⟨0x7094C, 0, 20⟩
/-- The address of SEQ_LTOK_RX_TIME. -/
abbrev SEQ_LTOK_RX_TIME_addr : Nat := 0x70950
abbrev SEQ_LTOK_RX_TIME_TIME : Field := ⟨0x70950, 0, 32⟩
/-- The address of SEQ_LTOK_RX_SEQ. -/
abbrev SEQ_LTOK_RX_SEQ_addr : Nat := 0x70954
abbrev SEQ_LTOK_RX_SEQ_FSEQ : Field := ⟨0x70954, 0, 32⟩
/-- The address of SEQ_LTOK_RX_ARRIVAL. -/
abbrev SEQ_LTOK_RX_ARRIVAL_addr : Nat := 0x70958
abbrev SEQ_LTOK_RX_ARRIVAL_ARRIVAL : Field := ⟨0x70958, 0, 32⟩
/-- The address of SEQ_LTOK_RX_STAT. -/
abbrev SEQ_LTOK_RX_STAT_addr : Nat := 0x7095C
abbrev SEQ_LTOK_RX_STAT_TRANSITION : Field := ⟨0x7095C, 0, 1⟩
abbrev SEQ_LTOK_RX_STAT_SHORT : Field := ⟨0x7095C, 1, 1⟩
abbrev SEQ_LTOK_RX_STAT_AUTO_ARM : Field := ⟨0x7095C, 2, 1⟩
abbrev SEQ_LTOK_RX_STAT_DROPPED : Field := ⟨0x7095C, 16, 16⟩
/-- The address of SEQ_RDY_TILE. -/
abbrev SEQ_RDY_TILE_addr (i : Nat) : Nat := 0x70A00 + 4 * i
abbrev SEQ_RDY_TILE_X (i : Nat) : Field := ⟨0x70A00 + 4 * i, 0, 8⟩
abbrev SEQ_RDY_TILE_Y (i : Nat) : Field := ⟨0x70A00 + 4 * i, 8, 8⟩
/-- The address of SEQ_THR_CTL. -/
abbrev SEQ_THR_CTL_addr (i : Nat) : Nat := 0x70000 + 4 * i
abbrev SEQ_THR_CTL_PRIO (i : Nat) : Field := ⟨0x70000 + 4 * i, 0, 2⟩
/-- The address of SEQ_THR_STAT. -/
abbrev SEQ_THR_STAT_addr (i : Nat) : Nat := 0x70040 + 4 * i
abbrev SEQ_THR_STAT_PC (i : Nat) : Field := ⟨0x70040 + 4 * i, 2, 16⟩
abbrev SEQ_THR_STAT_STATE (i : Nat) : Field := ⟨0x70040 + 4 * i, 18, 2⟩
abbrev SEQ_THR_STAT_CAUSE (i : Nat) : Field := ⟨0x70040 + 4 * i, 20, 2⟩
abbrev SEQ_THR_STAT_BADREG (i : Nat) : Field := ⟨0x70040 + 4 * i, 22, 1⟩
/-- The address of SEQ_THR_START. -/
abbrev SEQ_THR_START_addr : Nat := 0x70080
abbrev SEQ_THR_START_THREAD : Field := ⟨0x70080, 0, 4⟩
abbrev SEQ_THR_START_STOP : Field := ⟨0x70080, 4, 1⟩
abbrev SEQ_THR_START_ENTRY : Field := ⟨0x70080, 16, 16⟩
/-- The address of SEQ_IMG_ADDR. -/
abbrev SEQ_IMG_ADDR_addr : Nat := 0x70C00
abbrev SEQ_IMG_ADDR_ADDR : Field := ⟨0x70C00, 6, 26⟩
/-- The address of SEQ_IMG_CTL. -/
abbrev SEQ_IMG_CTL_addr : Nat := 0x70C04
abbrev SEQ_IMG_CTL_INSTALL : Field := ⟨0x70C04, 0, 1⟩
abbrev SEQ_IMG_CTL_REJECTED : Field := ⟨0x70C04, 1, 1⟩
abbrev SEQ_IMG_CTL_CAUSE : Field := ⟨0x70C04, 2, 3⟩
/-- The address of SEQ_IMG_MISSING. -/
abbrev SEQ_IMG_MISSING_addr : Nat := 0x70C08
abbrev SEQ_IMG_MISSING_MISSING : Field := ⟨0x70C08, 0, 32⟩
/-- The address of SEQ_ISA. -/
abbrev SEQ_ISA_addr : Nat := 0x70C10
abbrev SEQ_ISA_REV : Field := ⟨0x70C10, 0, 8⟩
/-- The address of SEQ_ISA_FEAT. -/
abbrev SEQ_ISA_FEAT_addr : Nat := 0x70C14
abbrev SEQ_ISA_FEAT_FEAT : Field := ⟨0x70C14, 0, 32⟩
/-! Block PANEL (R277, R278). -/

/-- The address of PANEL_CFG. -/
abbrev PANEL_CFG_addr (i : Nat) : Nat := 0x80000 + 4096 * i
abbrev PANEL_CFG_EN (i : Nat) : Field := ⟨0x80000 + 4096 * i, 0, 1⟩
abbrev PANEL_CFG_MAXVER (i : Nat) : Field := ⟨0x80000 + 4096 * i, 1, 1⟩
abbrev PANEL_CFG_MAXRATE (i : Nat) : Field := ⟨0x80000 + 4096 * i, 2, 2⟩
abbrev PANEL_CFG_LANE_EN (i : Nat) : Field := ⟨0x80000 + 4096 * i, 4, 8⟩
abbrev PANEL_CFG_CMD (i : Nat) : Field := ⟨0x80000 + 4096 * i, 12, 1⟩
abbrev PANEL_CFG_RETRAIN (i : Nat) : Field := ⟨0x80000 + 4096 * i, 13, 1⟩
/-- The address of PANEL_STATUS. -/
abbrev PANEL_STATUS_addr (i : Nat) : Nat := 0x80004 + 4096 * i
abbrev PANEL_STATUS_STATE (i : Nat) : Field := ⟨0x80004 + 4096 * i, 0, 2⟩
abbrev PANEL_STATUS_VER (i : Nat) : Field := ⟨0x80004 + 4096 * i, 2, 1⟩
abbrev PANEL_STATUS_RATE (i : Nat) : Field := ⟨0x80004 + 4096 * i, 3, 2⟩
abbrev PANEL_STATUS_LANES_UP (i : Nat) : Field := ⟨0x80004 + 4096 * i, 5, 8⟩
abbrev PANEL_STATUS_BK_UP (i : Nat) : Field := ⟨0x80004 + 4096 * i, 13, 1⟩
/-- The address of PANEL_DRVCAP. -/
abbrev PANEL_DRVCAP_addr (i : Nat) : Nat := 0x80008 + 4096 * i
abbrev PANEL_DRVCAP_CAP (i : Nat) : Field := ⟨0x80008 + 4096 * i, 0, 13⟩
/-- The address of PANEL_UNDERRUN. -/
abbrev PANEL_UNDERRUN_addr (i : Nat) : Nat := 0x8000C + 4096 * i
abbrev PANEL_UNDERRUN_COUNT (i : Nat) : Field := ⟨0x8000C + 4096 * i, 0, 32⟩
/-- The address of PANEL_CATCHUP. -/
abbrev PANEL_CATCHUP_addr (i : Nat) : Nat := 0x80010 + 4096 * i
abbrev PANEL_CATCHUP_SENT (i : Nat) : Field := ⟨0x80010 + 4096 * i, 0, 16⟩
abbrev PANEL_CATCHUP_MISS (i : Nat) : Field := ⟨0x80010 + 4096 * i, 16, 16⟩
/-- The address of PANEL_ERR. -/
abbrev PANEL_ERR_addr (i : Nat) : Nat := 0x80014 + 4096 * i
abbrev PANEL_ERR_CRC (i : Nat) : Field := ⟨0x80014 + 4096 * i, 0, 16⟩
abbrev PANEL_ERR_DOWNS (i : Nat) : Field := ⟨0x80014 + 4096 * i, 16, 16⟩
/-- The address of PANEL_CLR. -/
abbrev PANEL_CLR_addr (i : Nat) : Nat := 0x80018 + 4096 * i
abbrev PANEL_CLR_CLR (i : Nat) : Field := ⟨0x80018 + 4096 * i, 0, 1⟩
/-- The address of PANEL_LANE_MAP. -/
abbrev PANEL_LANE_MAP_addr (i j : Nat) : Nat := 0x80040 + 4096 * i + 4 * j
abbrev PANEL_LANE_MAP_COL0 (i j : Nat) : Field := ⟨0x80040 + 4096 * i + 4 * j, 0, 10⟩
abbrev PANEL_LANE_MAP_NCOL_M1 (i j : Nat) : Field := ⟨0x80040 + 4096 * i + 4 * j, 10, 6⟩
/-- The address of PANEL_GOA_TIMING. -/
abbrev PANEL_GOA_TIMING_addr : Nat := 0x84000
abbrev PANEL_GOA_TIMING_ROW_NS : Field := ⟨0x84000, 0, 10⟩
abbrev PANEL_GOA_TIMING_GAP_NS : Field := ⟨0x84000, 10, 6⟩
/-- The address of PANEL_GOA_CTL. -/
abbrev PANEL_GOA_CTL_addr : Nat := 0x84004
abbrev PANEL_GOA_CTL_DIS : Field := ⟨0x84004, 0, 1⟩
/-- The address of PANEL_BLINK_CNT. -/
abbrev PANEL_BLINK_CNT_addr : Nat := 0x84008
abbrev PANEL_BLINK_CNT_COUNT : Field := ⟨0x84008, 0, 32⟩
/-- The address of PANEL_HOLD_TICKS. -/
abbrev PANEL_HOLD_TICKS_addr : Nat := 0x8400C
abbrev PANEL_HOLD_TICKS_COUNT : Field := ⟨0x8400C, 0, 32⟩
/-- The address of PANEL_COMMIT_ERR. -/
abbrev PANEL_COMMIT_ERR_addr : Nat := 0x84010
abbrev PANEL_COMMIT_ERR_CAUSE : Field := ⟨0x84010, 0, 2⟩
/-- The address of PANEL_BLINK_X. -/
abbrev PANEL_BLINK_X_addr (i : Nat) : Nat := 0x84100 + 16 * i
abbrev PANEL_BLINK_X_X0 (i : Nat) : Field := ⟨0x84100 + 16 * i, 0, 10⟩
abbrev PANEL_BLINK_X_X1 (i : Nat) : Field := ⟨0x84100 + 16 * i, 16, 10⟩
/-- The address of PANEL_BLINK_Y. -/
abbrev PANEL_BLINK_Y_addr (i : Nat) : Nat := 0x84104 + 16 * i
abbrev PANEL_BLINK_Y_Y0 (i : Nat) : Field := ⟨0x84104 + 16 * i, 0, 9⟩
abbrev PANEL_BLINK_Y_Y1 (i : Nat) : Field := ⟨0x84104 + 16 * i, 16, 9⟩
/-- The address of PANEL_BLINK_T. -/
abbrev PANEL_BLINK_T_addr (i : Nat) : Nat := 0x84108 + 16 * i
abbrev PANEL_BLINK_T_PERIOD (i : Nat) : Field := ⟨0x84108 + 16 * i, 0, 8⟩
abbrev PANEL_BLINK_T_ON (i : Nat) : Field := ⟨0x84108 + 16 * i, 8, 8⟩
abbrev PANEL_BLINK_T_PHASE (i : Nat) : Field := ⟨0x84108 + 16 * i, 16, 8⟩
abbrev PANEL_BLINK_T_EN (i : Nat) : Field := ⟨0x84108 + 16 * i, 24, 1⟩
/-- The address of PANEL_CMD_SRC. -/
abbrev PANEL_CMD_SRC_addr : Nat := 0x84200
abbrev PANEL_CMD_SRC_ADDR : Field := ⟨0x84200, 0, 32⟩
/-- The address of PANEL_CMD_PITCH. -/
abbrev PANEL_CMD_PITCH_addr : Nat := 0x84204
abbrev PANEL_CMD_PITCH_PITCH : Field := ⟨0x84204, 0, 18⟩
/-- The address of PANEL_CMD_RECT. -/
abbrev PANEL_CMD_RECT_addr : Nat := 0x84208
abbrev PANEL_CMD_RECT_X : Field := ⟨0x84208, 0, 12⟩
abbrev PANEL_CMD_RECT_Y : Field := ⟨0x84208, 16, 12⟩
/-- The address of PANEL_CMD_SIZE. -/
abbrev PANEL_CMD_SIZE_addr : Nat := 0x8420C
abbrev PANEL_CMD_SIZE_W : Field := ⟨0x8420C, 0, 13⟩
abbrev PANEL_CMD_SIZE_H : Field := ⟨0x8420C, 16, 13⟩
/-- The address of PANEL_CMD_CTL. -/
abbrev PANEL_CMD_CTL_addr : Nat := 0x84210
abbrev PANEL_CMD_CTL_GO : Field := ⟨0x84210, 0, 1⟩
abbrev PANEL_CMD_CTL_AT_LAUNCH : Field := ⟨0x84210, 1, 1⟩
abbrev PANEL_CMD_CTL_FMT : Field := ⟨0x84210, 2, 2⟩
abbrev PANEL_CMD_CTL_BUSY : Field := ⟨0x84210, 4, 1⟩
abbrev PANEL_CMD_CTL_DONE : Field := ⟨0x84210, 5, 1⟩
abbrev PANEL_CMD_CTL_ERR : Field := ⟨0x84210, 6, 1⟩
abbrev PANEL_CMD_CTL_CAUSE : Field := ⟨0x84210, 7, 2⟩
/-! Block TRL (R301, R40, R42, R45). -/

/-- The address of TRL_SLOT_DIR. -/
abbrev TRL_SLOT_DIR_addr (i : Nat) : Nat := 0x90F80 + 4 * i
abbrev TRL_SLOT_DIR_DIR0 (i : Nat) : Field := ⟨0x90F80 + 4 * i, 0, 6⟩
abbrev TRL_SLOT_DIR_DIR1 (i : Nat) : Field := ⟨0x90F80 + 4 * i, 8, 6⟩
abbrev TRL_SLOT_DIR_DIR2 (i : Nat) : Field := ⟨0x90F80 + 4 * i, 16, 6⟩
abbrev TRL_SLOT_DIR_DIR3 (i : Nat) : Field := ⟨0x90F80 + 4 * i, 24, 6⟩
/-- The address of TRL_BAND. -/
abbrev TRL_BAND_addr (i : Nat) : Nat := 0x90E00 + 4 * i
abbrev TRL_BAND_FIRST_ROW (i : Nat) : Field := ⟨0x90E00 + 4 * i, 0, 9⟩
abbrev TRL_BAND_ROWS (i : Nat) : Field := ⟨0x90E00 + 4 * i, 16, 4⟩
/-- The address of TRL_TILE_GEOM. -/
abbrev TRL_TILE_GEOM_addr : Nat := 0x90F00
abbrev TRL_TILE_GEOM_WIDTH_M1 : Field := ⟨0x90F00, 0, 10⟩
abbrev TRL_TILE_GEOM_HEIGHT_M1 : Field := ⟨0x90F00, 10, 9⟩
abbrev TRL_TILE_GEOM_EM_COLS : Field := ⟨0x90F00, 20, 2⟩
abbrev TRL_TILE_GEOM_EM_ROWS : Field := ⟨0x90F00, 22, 1⟩
/-- The address of TRL_GEOM_CTL. -/
abbrev TRL_GEOM_CTL_addr : Nat := 0x90F04
abbrev TRL_GEOM_CTL_APPLY : Field := ⟨0x90F04, 0, 1⟩
abbrev TRL_GEOM_CTL_BAD : Field := ⟨0x90F04, 1, 1⟩
abbrev TRL_GEOM_CTL_CAUSE : Field := ⟨0x90F04, 2, 2⟩
abbrev TRL_GEOM_CTL_BASE_BAD : Field := ⟨0x90F04, 4, 1⟩
abbrev TRL_GEOM_CTL_WEIGHT_CLAMP : Field := ⟨0x90F04, 5, 1⟩
abbrev TRL_GEOM_CTL_PANEL_CAUSE : Field := ⟨0x90F04, 6, 2⟩
/-- The address of TRL_SAT_BASE. -/
abbrev TRL_SAT_BASE_addr : Nat := 0x90F08
abbrev TRL_SAT_BASE_BASE : Field := ⟨0x90F08, 12, 20⟩
/-- The address of TRL_ANG_WEIGHT. -/
abbrev TRL_ANG_WEIGHT_addr : Nat := 0x90F0C
abbrev TRL_ANG_WEIGHT_LO_BAND : Field := ⟨0x90F0C, 0, 4⟩
abbrev TRL_ANG_WEIGHT_WEIGHT : Field := ⟨0x90F0C, 8, 9⟩
/-- The address of TRL_ANG_TEMP. -/
abbrev TRL_ANG_TEMP_addr (i : Nat) : Nat := 0x90F40 + 4 * i
abbrev TRL_ANG_TEMP_CENTRE (i : Nat) : Field := ⟨0x90F40 + 4 * i, 0, 16⟩
/-- The address of TRL_CTL. -/
abbrev TRL_CTL_addr : Nat := 0x90000
abbrev TRL_CTL_AUTO_INIT : Field := ⟨0x90000, 0, 1⟩
abbrev TRL_CTL_INIT : Field := ⟨0x90000, 1, 1⟩
abbrev TRL_CTL_INIT_DONE : Field := ⟨0x90000, 2, 1⟩
/-- The address of TRL_TSEL. -/
abbrev TRL_TSEL_addr : Nat := 0x90004
abbrev TRL_TSEL_SENSORS : Field := ⟨0x90004, 0, 8⟩
abbrev TRL_TSEL_HYST : Field := ⟨0x90004, 8, 8⟩
abbrev TRL_TSEL_MANUAL : Field := ⟨0x90004, 16, 1⟩
abbrev TRL_TSEL_MANUAL_BAND : Field := ⟨0x90004, 17, 4⟩
/-- The address of TRL_TSEL_STAT. -/
abbrev TRL_TSEL_STAT_addr : Nat := 0x90008
abbrev TRL_TSEL_STAT_TEMP : Field := ⟨0x90008, 0, 16⟩
abbrev TRL_TSEL_STAT_BAND : Field := ⟨0x90008, 16, 4⟩
abbrev TRL_TSEL_STAT_NO_SENSOR : Field := ⟨0x90008, 20, 1⟩
/-- The address of TRL_LEDGER_LIMIT. -/
abbrev TRL_LEDGER_LIMIT_addr : Nat := 0x9000C
abbrev TRL_LEDGER_LIMIT_LIMIT : Field := ⟨0x9000C, 0, 31⟩
/-- The address of TRL_COMP. -/
abbrev TRL_COMP_addr : Nat := 0x90010
abbrev TRL_COMP_VCOMP : Field := ⟨0x90010, 0, 6⟩
/-- The address of TRL_STAT. -/
abbrev TRL_STAT_addr : Nat := 0x90014
abbrev TRL_STAT_TRUNC : Field := ⟨0x90014, 0, 16⟩
abbrev TRL_STAT_NOLIGHT : Field := ⟨0x90014, 16, 16⟩
/-- The address of TRL_STAT2. -/
abbrev TRL_STAT2_addr : Nat := 0x90018
abbrev TRL_STAT2_OVER : Field := ⟨0x90018, 0, 16⟩
abbrev TRL_STAT2_BAND_CHANGES : Field := ⟨0x90018, 16, 16⟩
/-- The address of TRL_CLR. -/
abbrev TRL_CLR_addr : Nat := 0x9001C
abbrev TRL_CLR_CLR : Field := ⟨0x9001C, 0, 1⟩
/-- The address of TRL_FAULT_CTL. -/
abbrev TRL_FAULT_CTL_addr : Nat := 0x90020
abbrev TRL_FAULT_CTL_FAULT_COUNT : Field := ⟨0x90020, 0, 4⟩
abbrev TRL_FAULT_CTL_OPEN_PCT : Field := ⟨0x90020, 4, 8⟩
abbrev TRL_FAULT_CTL_SHORT_PCT : Field := ⟨0x90020, 12, 8⟩
abbrev TRL_FAULT_CTL_C_NOM : Field := ⟨0x90020, 20, 9⟩
abbrev TRL_FAULT_CTL_BLANK_ON_FAULT : Field := ⟨0x90020, 29, 1⟩
/-- The address of TRL_WAVE_CTL. -/
abbrev TRL_WAVE_CTL_addr : Nat := 0x90024
abbrev TRL_WAVE_CTL_APPLY : Field := ⟨0x90024, 0, 1⟩
abbrev TRL_WAVE_CTL_BAD : Field := ⟨0x90024, 1, 1⟩
abbrev TRL_WAVE_CTL_CAUSE : Field := ⟨0x90024, 2, 2⟩
abbrev TRL_WAVE_CTL_FMT_BAD : Field := ⟨0x90024, 4, 1⟩
/-- The address of TRL_STATE. -/
abbrev TRL_STATE_addr : Nat := 0x90028
abbrev TRL_STATE_WORD_B0 : Field := ⟨0x90028, 0, 6⟩
abbrev TRL_STATE_WORD_B63 : Field := ⟨0x90028, 8, 6⟩
/-- The address of TRL_FAULT. -/
abbrev TRL_FAULT_addr (i : Nat) : Nat := 0x90100 + 4 * i
abbrev TRL_FAULT_OPEN (i : Nat) : Field := ⟨0x90100 + 4 * i, 0, 6⟩
abbrev TRL_FAULT_SHORT (i : Nat) : Field := ⟨0x90100 + 4 * i, 8, 6⟩
/-- The address of TRL_WHDR. -/
abbrev TRL_WHDR_addr (i : Nat) : Nat := 0x90200 + 4 * i
abbrev TRL_WHDR_SETTLE (i : Nat) : Field := ⟨0x90200 + 4 * i, 0, 12⟩
abbrev TRL_WHDR_EN (i : Nat) : Field := ⟨0x90200 + 4 * i, 12, 1⟩
abbrev TRL_WHDR_TLOW (i : Nat) : Field := ⟨0x90200 + 4 * i, 16, 16⟩
/-- The address of TRL_WAVE. -/
abbrev TRL_WAVE_addr (i j k : Nat) : Nat := 0x91000 + 64 * i + 32 * j + 4 * k
abbrev TRL_WAVE_LEVEL (i j k : Nat) : Field := ⟨0x91000 + 64 * i + 32 * j + 4 * k, 0, 2⟩
abbrev TRL_WAVE_DUR (i j k : Nat) : Field := ⟨0x91000 + 64 * i + 32 * j + 4 * k, 4, 12⟩
/-- The address of TRL_LEDGER. -/
abbrev TRL_LEDGER_addr (i j : Nat) : Nat := 0x92000 + 24 * i + 4 * j
abbrev TRL_LEDGER_LEDGER (i j : Nat) : Field := ⟨0x92000 + 24 * i + 4 * j, 0, 32⟩
/-! Block HVPS (R302). -/

/-- The address of HVPS_CTL. -/
abbrev HVPS_CTL_addr : Nat := 0xA0000
abbrev HVPS_CTL_ON : Field := ⟨0xA0000, 0, 1⟩
abbrev HVPS_CTL_OFF : Field := ⟨0xA0000, 1, 1⟩
abbrev HVPS_CTL_STATE : Field := ⟨0xA0000, 2, 3⟩
abbrev HVPS_CTL_AUTO_RESTART : Field := ⟨0xA0000, 5, 1⟩
/-- The address of HVPS_SET. -/
abbrev HVPS_SET_addr (i : Nat) : Nat := 0xA0010 + 4 * i
abbrev HVPS_SET_CODE (i : Nat) : Field := ⟨0xA0010 + 4 * i, 0, 10⟩
abbrev HVPS_SET_TRIM (i : Nat) : Field := ⟨0xA0010 + 4 * i, 16, 8⟩
/-- The address of HVPS_MEAS. -/
abbrev HVPS_MEAS_addr (i : Nat) : Nat := 0xA0020 + 4 * i
abbrev HVPS_MEAS_MV (i : Nat) : Field := ⟨0xA0020 + 4 * i, 0, 16⟩
/-- The address of HVPS_FAULT. -/
abbrev HVPS_FAULT_addr : Nat := 0xA0030
abbrev HVPS_FAULT_UV : Field := ⟨0xA0030, 0, 4⟩
abbrev HVPS_FAULT_OV : Field := ⟨0xA0030, 4, 4⟩
abbrev HVPS_FAULT_OC : Field := ⟨0xA0030, 8, 4⟩
abbrev HVPS_FAULT_NOSTART : Field := ⟨0xA0030, 12, 4⟩
abbrev HVPS_FAULT_BROWNOUT : Field := ⟨0xA0030, 16, 1⟩
abbrev HVPS_FAULT_VHV_OV : Field := ⟨0xA0030, 17, 1⟩
/-- The address of HVPS_VHV. -/
abbrev HVPS_VHV_addr : Nat := 0xA0034
abbrev HVPS_VHV_MV : Field := ⟨0xA0034, 0, 16⟩
/-! Block RACK (R318). -/

/-- The address of RACK_RING_BASE. -/
abbrev RACK_RING_BASE_addr (i : Nat) : Nat := 0xB0000 + 32 * i
abbrev RACK_RING_BASE_BASE (i : Nat) : Field := ⟨0xB0000 + 32 * i, 0, 32⟩
/-- The address of RACK_RING_SIZE. -/
abbrev RACK_RING_SIZE_addr (i : Nat) : Nat := 0xB0004 + 32 * i
abbrev RACK_RING_SIZE_N (i : Nat) : Field := ⟨0xB0004 + 32 * i, 0, 16⟩
/-- The address of RACK_RING_WPTR. -/
abbrev RACK_RING_WPTR_addr (i : Nat) : Nat := 0xB0008 + 32 * i
abbrev RACK_RING_WPTR_WPTR (i : Nat) : Field := ⟨0xB0008 + 32 * i, 0, 16⟩
/-- The address of RACK_RING_RPTR. -/
abbrev RACK_RING_RPTR_addr (i : Nat) : Nat := 0xB000C + 32 * i
abbrev RACK_RING_RPTR_RPTR (i : Nat) : Field := ⟨0xB000C + 32 * i, 0, 16⟩
/-- The address of RACK_RING_CFG. -/
abbrev RACK_RING_CFG_addr (i : Nat) : Nat := 0xB0010 + 32 * i
abbrev RACK_RING_CFG_EN (i : Nat) : Field := ⟨0xB0010 + 32 * i, 0, 1⟩
abbrev RACK_RING_CFG_LIST_TYPE (i : Nat) : Field := ⟨0xB0010 + 32 * i, 1, 1⟩
abbrev RACK_RING_CFG_STOP_ON_ERR (i : Nat) : Field := ⟨0xB0010 + 32 * i, 2, 1⟩
abbrev RACK_RING_CFG_STOPPED (i : Nat) : Field := ⟨0xB0010 + 32 * i, 3, 1⟩
abbrev RACK_RING_CFG_RESUME (i : Nat) : Field := ⟨0xB0010 + 32 * i, 4, 1⟩
abbrev RACK_RING_CFG_BUSY (i : Nat) : Field := ⟨0xB0010 + 32 * i, 5, 1⟩
/-- The address of RACK_RING_RETIRE. -/
abbrev RACK_RING_RETIRE_addr (i : Nat) : Nat := 0xB0014 + 32 * i
abbrev RACK_RING_RETIRE_TAG (i : Nat) : Field := ⟨0xB0014 + 32 * i, 0, 16⟩
abbrev RACK_RING_RETIRE_COUNT (i : Nat) : Field := ⟨0xB0014 + 32 * i, 16, 16⟩
/-- The address of RACK_ERR. -/
abbrev RACK_ERR_addr : Nat := 0xB0100
abbrev RACK_ERR_COUNT : Field := ⟨0xB0100, 0, 16⟩
abbrev RACK_ERR_CAUSE : Field := ⟨0xB0100, 16, 3⟩
abbrev RACK_ERR_RING : Field := ⟨0xB0100, 19, 2⟩
abbrev RACK_ERR_CLR : Field := ⟨0xB0100, 31, 1⟩
/-- The address of RACK_ERR_DESC. -/
abbrev RACK_ERR_DESC_addr : Nat := 0xB0104
abbrev RACK_ERR_DESC_INDEX : Field := ⟨0xB0104, 0, 16⟩
/-! Block DRAMC (R339). -/

/-- The address of DRAMC_CTL. -/
abbrev DRAMC_CTL_addr : Nat := 0xC0000
abbrev DRAMC_CTL_EN : Field := ⟨0xC0000, 0, 1⟩
abbrev DRAMC_CTL_INIT : Field := ⟨0xC0000, 1, 1⟩
abbrev DRAMC_CTL_READY : Field := ⟨0xC0000, 2, 1⟩
abbrev DRAMC_CTL_CFG_BAD : Field := ⟨0xC0000, 3, 1⟩
/-- The address of DRAMC_CFG. -/
abbrev DRAMC_CFG_addr : Nat := 0xC0004
abbrev DRAMC_CFG_CAP : Field := ⟨0xC0004, 0, 3⟩
/-- The address of DRAMC_HASH. -/
abbrev DRAMC_HASH_addr (i : Nat) : Nat := 0xC0010 + 4 * i
abbrev DRAMC_HASH_MASK (i : Nat) : Field := ⟨0xC0010 + 4 * i, 0, 31⟩
/-- The address of DRAMC_AGE. -/
abbrev DRAMC_AGE_addr (i : Nat) : Nat := 0xC0030 + 4 * i
abbrev DRAMC_AGE_AGE_NS (i : Nat) : Field := ⟨0xC0030 + 4 * i, 0, 16⟩
/-- The address of DRAMC_PAGE_IDLE. -/
abbrev DRAMC_PAGE_IDLE_addr : Nat := 0xC0040
abbrev DRAMC_PAGE_IDLE_NS : Field := ⟨0xC0040, 0, 12⟩
/-- The address of DRAMC_SR_IDLE. -/
abbrev DRAMC_SR_IDLE_addr : Nat := 0xC0044
abbrev DRAMC_SR_IDLE_US : Field := ⟨0xC0044, 0, 16⟩
/-- The address of DRAMC_FREQ_CTL. -/
abbrev DRAMC_FREQ_CTL_addr : Nat := 0xC0050
abbrev DRAMC_FREQ_CTL_TARGET : Field := ⟨0xC0050, 0, 1⟩
abbrev DRAMC_FREQ_CTL_GO : Field := ⟨0xC0050, 1, 1⟩
abbrev DRAMC_FREQ_CTL_ACTIVE : Field := ⟨0xC0050, 2, 1⟩
abbrev DRAMC_FREQ_CTL_BUSY : Field := ⟨0xC0050, 3, 1⟩
abbrev DRAMC_FREQ_CTL_PENDING : Field := ⟨0xC0050, 4, 1⟩
/-- The address of DRAMC_REFRESH_STAT. -/
abbrev DRAMC_REFRESH_STAT_addr : Nat := 0xC0060
abbrev DRAMC_REFRESH_STAT_FALLBACK : Field := ⟨0xC0060, 0, 16⟩
abbrev DRAMC_REFRESH_STAT_MAXPOST : Field := ⟨0xC0060, 16, 4⟩
abbrev DRAMC_REFRESH_STAT_DERATE : Field := ⟨0xC0060, 20, 2⟩
/-- The address of DRAMC_CONFLICT. -/
abbrev DRAMC_CONFLICT_addr : Nat := 0xC0064
abbrev DRAMC_CONFLICT_LAST_MS : Field := ⟨0xC0064, 0, 24⟩
abbrev DRAMC_CONFLICT_WORST_CH : Field := ⟨0xC0064, 24, 3⟩
/-- The address of DRAMC_CONFLICT_LIM. -/
abbrev DRAMC_CONFLICT_LIM_addr : Nat := 0xC0068
abbrev DRAMC_CONFLICT_LIM_LIM : Field := ⟨0xC0068, 0, 24⟩
/-- The address of DRAMC_TRAIN_STAT. -/
abbrev DRAMC_TRAIN_STAT_addr : Nat := 0xC006C
abbrev DRAMC_TRAIN_STAT_DISCARDS : Field := ⟨0xC006C, 0, 16⟩
/-- The address of DRAMC_ECC_STAT. -/
abbrev DRAMC_ECC_STAT_addr : Nat := 0xC0070
abbrev DRAMC_ECC_STAT_CORR : Field := ⟨0xC0070, 0, 16⟩
abbrev DRAMC_ECC_STAT_UNCORR : Field := ⟨0xC0070, 16, 16⟩
/-- The address of DRAMC_ECC_ADDR. -/
abbrev DRAMC_ECC_ADDR_addr : Nat := 0xC0074
abbrev DRAMC_ECC_ADDR_BURST : Field := ⟨0xC0074, 0, 31⟩
/-- The address of DRAMC_SCRUB. -/
abbrev DRAMC_SCRUB_addr : Nat := 0xC0078
abbrev DRAMC_SCRUB_PERIOD_S : Field := ⟨0xC0078, 0, 16⟩
/-- The address of DRAMC_OCM_ECC. -/
abbrev DRAMC_OCM_ECC_addr : Nat := 0xC007C
abbrev DRAMC_OCM_ECC_CORR : Field := ⟨0xC007C, 0, 8⟩
abbrev DRAMC_OCM_ECC_ADDR : Field := ⟨0xC007C, 8, 24⟩
/-- The address of DRAMC_BANK_SUSPECT. -/
abbrev DRAMC_BANK_SUSPECT_addr (i : Nat) : Nat := 0xC0080 + 4 * i
abbrev DRAMC_BANK_SUSPECT_SUSPECT (i : Nat) : Field := ⟨0xC0080 + 4 * i, 0, 32⟩
/-- The address of DRAMC_STAT_CLR. -/
abbrev DRAMC_STAT_CLR_addr : Nat := 0xC0090
abbrev DRAMC_STAT_CLR_CLR : Field := ⟨0xC0090, 0, 1⟩
/-- The address of DRAMC_ECC_BASE. -/
abbrev DRAMC_ECC_BASE_addr (i : Nat) : Nat := 0xC0100 + 8 * i
abbrev DRAMC_ECC_BASE_BASE_MB (i : Nat) : Field := ⟨0xC0100 + 8 * i, 0, 17⟩
abbrev DRAMC_ECC_BASE_EN (i : Nat) : Field := ⟨0xC0100 + 8 * i, 31, 1⟩
/-- The address of DRAMC_ECC_SIZE. -/
abbrev DRAMC_ECC_SIZE_addr (i : Nat) : Nat := 0xC0104 + 8 * i
abbrev DRAMC_ECC_SIZE_SIZE_MB (i : Nat) : Field := ⟨0xC0104 + 8 * i, 0, 18⟩
/-- The address of DRAMC_TSET_0. -/
abbrev DRAMC_TSET_0_addr (i : Nat) : Nat := 0xC0200 + 32 * i
abbrev DRAMC_TSET_0_RATE (i : Nat) : Field := ⟨0xC0200 + 32 * i, 0, 3⟩
abbrev DRAMC_TSET_0_RL (i : Nat) : Field := ⟨0xC0200 + 32 * i, 8, 6⟩
abbrev DRAMC_TSET_0_WL (i : Nat) : Field := ⟨0xC0200 + 32 * i, 14, 6⟩
/-- The address of DRAMC_TSET_1. -/
abbrev DRAMC_TSET_1_addr (i : Nat) : Nat := 0xC0204 + 32 * i
abbrev DRAMC_TSET_1_tRCD (i : Nat) : Field := ⟨0xC0204 + 32 * i, 0, 8⟩
abbrev DRAMC_TSET_1_tRPpb (i : Nat) : Field := ⟨0xC0204 + 32 * i, 8, 8⟩
abbrev DRAMC_TSET_1_tRAS (i : Nat) : Field := ⟨0xC0204 + 32 * i, 16, 8⟩
abbrev DRAMC_TSET_1_tWR (i : Nat) : Field := ⟨0xC0204 + 32 * i, 24, 8⟩
/-- The address of DRAMC_TSET_2. -/
abbrev DRAMC_TSET_2_addr (i : Nat) : Nat := 0xC0208 + 32 * i
abbrev DRAMC_TSET_2_tRRD (i : Nat) : Field := ⟨0xC0208 + 32 * i, 0, 8⟩
abbrev DRAMC_TSET_2_tFAW (i : Nat) : Field := ⟨0xC0208 + 32 * i, 8, 8⟩
abbrev DRAMC_TSET_2_tRFCpb (i : Nat) : Field := ⟨0xC0208 + 32 * i, 16, 8⟩
abbrev DRAMC_TSET_2_tWTR (i : Nat) : Field := ⟨0xC0208 + 32 * i, 24, 8⟩
/-- The address of DRAMC_TSET_3. -/
abbrev DRAMC_TSET_3_addr (i : Nat) : Nat := 0xC020C + 32 * i
abbrev DRAMC_TSET_3_tRFCab (i : Nat) : Field := ⟨0xC020C + 32 * i, 0, 10⟩
abbrev DRAMC_TSET_3_tREFI (i : Nat) : Field := ⟨0xC020C + 32 * i, 16, 12⟩
/-! Block PLL (R350). -/

/-- The address of PLL_CTL. -/
abbrev PLL_CTL_addr (i : Nat) : Nat := 0xD0000 + 256 * i
abbrev PLL_CTL_EN (i : Nat) : Field := ⟨0xD0000 + 256 * i, 0, 1⟩
abbrev PLL_CTL_COMMIT (i : Nat) : Field := ⟨0xD0000 + 256 * i, 1, 1⟩
abbrev PLL_CTL_LOCK (i : Nat) : Field := ⟨0xD0000 + 256 * i, 2, 1⟩
abbrev PLL_CTL_GATED (i : Nat) : Field := ⟨0xD0000 + 256 * i, 3, 1⟩
abbrev PLL_CTL_PENDING (i : Nat) : Field := ⟨0xD0000 + 256 * i, 4, 1⟩
abbrev PLL_CTL_REFUSED (i : Nat) : Field := ⟨0xD0000 + 256 * i, 5, 1⟩
/-- The address of PLL_DIV. -/
abbrev PLL_DIV_addr (i j : Nat) : Nat := 0xD0010 + 256 * i + 8 * j
abbrev PLL_DIV_R_M1 (i j : Nat) : Field := ⟨0xD0010 + 256 * i + 8 * j, 0, 2⟩
abbrev PLL_DIV_N (i j : Nat) : Field := ⟨0xD0010 + 256 * i + 8 * j, 2, 9⟩
abbrev PLL_DIV_P_M1 (i j : Nat) : Field := ⟨0xD0010 + 256 * i + 8 * j, 12, 12⟩
/-- The address of PLL_FRAC. -/
abbrev PLL_FRAC_addr (i j : Nat) : Nat := 0xD0014 + 256 * i + 8 * j
abbrev PLL_FRAC_F (i j : Nat) : Field := ⟨0xD0014 + 256 * i + 8 * j, 0, 24⟩
/-- The address of PLL_SSC. -/
abbrev PLL_SSC_addr (i : Nat) : Nat := 0xD0020 + 256 * i
abbrev PLL_SSC_MODE (i : Nat) : Field := ⟨0xD0020 + 256 * i, 0, 2⟩
abbrev PLL_SSC_DEPTH (i : Nat) : Field := ⟨0xD0020 + 256 * i, 2, 7⟩
abbrev PLL_SSC_FMOD (i : Nat) : Field := ⟨0xD0020 + 256 * i, 9, 9⟩
/-- The address of PLL_PHASE. -/
abbrev PLL_PHASE_addr (i : Nat) : Nat := 0xD0024 + 256 * i
abbrev PLL_PHASE_STEP (i : Nat) : Field := ⟨0xD0024 + 256 * i, 0, 13⟩
/-- The address of PLL_STAT. -/
abbrev PLL_STAT_addr (i : Nat) : Nat := 0xD0028 + 256 * i
abbrev PLL_STAT_LOSSES (i : Nat) : Field := ⟨0xD0028 + 256 * i, 0, 16⟩
abbrev PLL_STAT_SLOT (i : Nat) : Field := ⟨0xD0028 + 256 * i, 16, 3⟩
abbrev PLL_STAT_CLR (i : Nat) : Field := ⟨0xD0028 + 256 * i, 31, 1⟩
/-- The address of PLL_BAND. -/
abbrev PLL_BAND_addr (i j : Nat) : Nat := 0xD0040 + 256 * i + 4 * j
abbrev PLL_BAND_FREQ_MHZ (i j : Nat) : Field := ⟨0xD0040 + 256 * i + 4 * j, 0, 13⟩
abbrev PLL_BAND_BAND (i j : Nat) : Field := ⟨0xD0040 + 256 * i + 4 * j, 13, 7⟩
abbrev PLL_BAND_VALID (i j : Nat) : Field := ⟨0xD0040 + 256 * i + 4 * j, 31, 1⟩
/-- The address of PLL_REF_STAT. -/
abbrev PLL_REF_STAT_addr : Nat := 0xD0800
abbrev PLL_REF_STAT_OK : Field := ⟨0xD0800, 0, 1⟩
abbrev PLL_REF_STAT_LOST : Field := ⟨0xD0800, 1, 1⟩
/-! Block PWR (R369). -/

/-- The address of PWR_CTL. -/
abbrev PWR_CTL_addr : Nat := 0xE0000
abbrev PWR_CTL_SLEEP : Field := ⟨0xE0000, 0, 1⟩
/-- The address of PWR_STAT. -/
abbrev PWR_STAT_addr : Nat := 0xE0004
abbrev PWR_STAT_READY : Field := ⟨0xE0004, 0, 1⟩
abbrev PWR_STAT_SLIP : Field := ⟨0xE0004, 1, 1⟩
abbrev PWR_STAT_SLIP_STEP : Field := ⟨0xE0004, 2, 3⟩
abbrev PWR_STAT_SLEEP_DROPPED : Field := ⟨0xE0004, 5, 1⟩
/-- The address of PWR_IDLE. -/
abbrev PWR_IDLE_addr : Nat := 0xE0008
abbrev PWR_IDLE_S : Field := ⟨0xE0008, 0, 12⟩
/-- The address of PWR_WAKE_EN. -/
abbrev PWR_WAKE_EN_addr : Nat := 0xE000C
abbrev PWR_WAKE_EN_EN : Field := ⟨0xE000C, 0, 4⟩
/-- The address of PWR_WAKE_CAUSE. -/
abbrev PWR_WAKE_CAUSE_addr : Nat := 0xE0010
abbrev PWR_WAKE_CAUSE_CAUSE : Field := ⟨0xE0010, 0, 4⟩
abbrev PWR_WAKE_CAUSE_PORT : Field := ⟨0xE0010, 4, 2⟩
/-- The address of PWR_WAKE_AT. -/
abbrev PWR_WAKE_AT_addr : Nat := 0xE0014
abbrev PWR_WAKE_AT_TIME : Field := ⟨0xE0014, 0, 32⟩
/-- The address of PWR_WAKE_VEC. -/
abbrev PWR_WAKE_VEC_addr : Nat := 0xE0018
abbrev PWR_WAKE_VEC_ENTRY : Field := ⟨0xE0018, 2, 16⟩
/-- The address of PWR_BRZ_CFG. -/
abbrev PWR_BRZ_CFG_addr : Nat := 0xE0020
abbrev PWR_BRZ_CFG_PERIOD_MS : Field := ⟨0xE0020, 0, 10⟩
abbrev PWR_BRZ_CFG_CONFIRM_M1 : Field := ⟨0xE0020, 10, 2⟩
abbrev PWR_BRZ_CFG_PANEL_MASK : Field := ⟨0xE0020, 12, 8⟩
abbrev PWR_BRZ_CFG_LUX_EN : Field := ⟨0xE0020, 20, 1⟩
/-- The address of PWR_BRZ_TWIN. -/
abbrev PWR_BRZ_TWIN_addr : Nat := 0xE0024
abbrev PWR_BRZ_TWIN_LO : Field := ⟨0xE0024, 0, 16⟩
abbrev PWR_BRZ_TWIN_HI : Field := ⟨0xE0024, 16, 16⟩
/-- The address of PWR_BRZ_PWIN. -/
abbrev PWR_BRZ_PWIN_addr : Nat := 0xE0028
abbrev PWR_BRZ_PWIN_LO : Field := ⟨0xE0028, 0, 16⟩
abbrev PWR_BRZ_PWIN_HI : Field := ⟨0xE0028, 16, 16⟩
/-- The address of PWR_BRZ_LUX. -/
abbrev PWR_BRZ_LUX_addr : Nat := 0xE002C
abbrev PWR_BRZ_LUX_ADDR : Field := ⟨0xE002C, 0, 7⟩
abbrev PWR_BRZ_LUX_BUS : Field := ⟨0xE002C, 7, 1⟩
abbrev PWR_BRZ_LUX_REG : Field := ⟨0xE002C, 8, 8⟩
/-- The address of PWR_BRZ_LWIN. -/
abbrev PWR_BRZ_LWIN_addr : Nat := 0xE0030
abbrev PWR_BRZ_LWIN_LO : Field := ⟨0xE0030, 0, 16⟩
abbrev PWR_BRZ_LWIN_HI : Field := ⟨0xE0030, 16, 16⟩
/-- The address of PWR_OP. -/
abbrev PWR_OP_addr (i : Nat) : Nat := 0xE0100 + 4 * i
abbrev PWR_OP_VCODE (i : Nat) : Field := ⟨0xE0100 + 4 * i, 0, 6⟩
abbrev PWR_OP_CAP (i : Nat) : Field := ⟨0xE0100 + 4 * i, 8, 9⟩
/-- The address of PWR_OP_SEL. -/
abbrev PWR_OP_SEL_addr : Nat := 0xE0140
abbrev PWR_OP_SEL_TARGET : Field := ⟨0xE0140, 0, 4⟩
abbrev PWR_OP_SEL_ACTIVE : Field := ⟨0xE0140, 4, 4⟩
abbrev PWR_OP_SEL_BUSY : Field := ⟨0xE0140, 8, 1⟩
abbrev PWR_OP_SEL_LEG : Field := ⟨0xE0140, 9, 2⟩
abbrev PWR_OP_SEL_VFAIL : Field := ⟨0xE0140, 11, 1⟩
abbrev PWR_OP_SEL_PENDING : Field := ⟨0xE0140, 12, 1⟩
/-- The address of PWR_AVS_CFG. -/
abbrev PWR_AVS_CFG_addr : Nat := 0xE0144
abbrev PWR_AVS_CFG_TOL_MV : Field := ⟨0xE0144, 0, 8⟩
abbrev PWR_AVS_CFG_TIMEOUT_US : Field := ⟨0xE0144, 8, 10⟩
/-! Block TMON (R370). -/

/-- The address of TMON_S. -/
abbrev TMON_S_addr (i : Nat) : Nat := 0xF0000 + 4 * i
abbrev TMON_S_TEMP (i : Nat) : Field := ⟨0xF0000 + 4 * i, 0, 16⟩
abbrev TMON_S_FAILED (i : Nat) : Field := ⟨0xF0000 + 4 * i, 16, 1⟩
abbrev TMON_S_FAIL_KIND (i : Nat) : Field := ⟨0xF0000 + 4 * i, 17, 2⟩
/-- The address of TMON_EXT_CFG. -/
abbrev TMON_EXT_CFG_addr (i : Nat) : Nat := 0xF0100 + 8 * i
abbrev TMON_EXT_CFG_ADDR (i : Nat) : Field := ⟨0xF0100 + 8 * i, 0, 7⟩
abbrev TMON_EXT_CFG_BUS (i : Nat) : Field := ⟨0xF0100 + 8 * i, 7, 1⟩
abbrev TMON_EXT_CFG_REG (i : Nat) : Field := ⟨0xF0100 + 8 * i, 8, 8⟩
abbrev TMON_EXT_CFG_SHIFT (i : Nat) : Field := ⟨0xF0100 + 8 * i, 16, 4⟩
abbrev TMON_EXT_CFG_EN (i : Nat) : Field := ⟨0xF0100 + 8 * i, 20, 1⟩
/-- The address of TMON_EXT. -/
abbrev TMON_EXT_addr (i : Nat) : Nat := 0xF0104 + 8 * i
abbrev TMON_EXT_TEMP (i : Nat) : Field := ⟨0xF0104 + 8 * i, 0, 16⟩
abbrev TMON_EXT_FAILED (i : Nat) : Field := ⟨0xF0104 + 8 * i, 16, 1⟩
/-- The address of TMON_THR_0. -/
abbrev TMON_THR_0_addr : Nat := 0xF0200
abbrev TMON_THR_0_WARN : Field := ⟨0xF0200, 0, 16⟩
abbrev TMON_THR_0_LULL1 : Field := ⟨0xF0200, 16, 16⟩
/-- The address of TMON_THR_1. -/
abbrev TMON_THR_1_addr : Nat := 0xF0204
abbrev TMON_THR_1_LULL2 : Field := ⟨0xF0204, 0, 16⟩
abbrev TMON_THR_1_LULL3 : Field := ⟨0xF0204, 16, 16⟩
/-- The address of TMON_THR_2. -/
abbrev TMON_THR_2_addr : Nat := 0xF0208
abbrev TMON_THR_2_LULL4 : Field := ⟨0xF0208, 0, 16⟩
abbrev TMON_THR_2_CRIT : Field := ⟨0xF0208, 16, 16⟩
/-- The address of TMON_CFG. -/
abbrev TMON_CFG_addr : Nat := 0xF020C
abbrev TMON_CFG_HYST : Field := ⟨0xF020C, 0, 12⟩
abbrev TMON_CFG_DEBOUNCE : Field := ⟨0xF020C, 12, 4⟩
abbrev TMON_CFG_EXT_PERIOD_MS : Field := ⟨0xF020C, 16, 10⟩
abbrev TMON_CFG_BAD : Field := ⟨0xF020C, 30, 1⟩
abbrev TMON_CFG_LOCK : Field := ⟨0xF020C, 31, 1⟩
/-- The address of TMON_STAT. -/
abbrev TMON_STAT_addr : Nat := 0xF0210
abbrev TMON_STAT_LULL : Field := ⟨0xF0210, 0, 3⟩
abbrev TMON_STAT_WARN : Field := ⟨0xF0210, 3, 1⟩
abbrev TMON_STAT_HOTTEST : Field := ⟨0xF0210, 4, 5⟩
abbrev TMON_STAT_T : Field := ⟨0xF0210, 16, 16⟩
/-- The address of TMON_SD_MASK. -/
abbrev TMON_SD_MASK_addr : Nat := 0xF0214
abbrev TMON_SD_MASK_MASK : Field := ⟨0xF0214, 0, 32⟩
/-- The address of TMON_SD_CAUSE. -/
abbrev TMON_SD_CAUSE_addr : Nat := 0xF0218
abbrev TMON_SD_CAUSE_SENSOR : Field := ⟨0xF0218, 0, 5⟩
abbrev TMON_SD_CAUSE_VALID : Field := ⟨0xF0218, 5, 1⟩
abbrev TMON_SD_CAUSE_FAILED : Field := ⟨0xF0218, 6, 1⟩
/-! Block CAL (R377). -/

/-- The address of CAL_MODEL_BASE. -/
abbrev CAL_MODEL_BASE_addr : Nat := 0x100000
abbrev CAL_MODEL_BASE_BASE : Field := ⟨0x100000, 0, 28⟩
/-- The address of CAL_MODEL_CRC. -/
abbrev CAL_MODEL_CRC_addr : Nat := 0x100004
abbrev CAL_MODEL_CRC_CRC : Field := ⟨0x100004, 0, 32⟩
/-- The address of CAL_MODEL_CTL. -/
abbrev CAL_MODEL_CTL_addr : Nat := 0x100008
abbrev CAL_MODEL_CTL_LOAD : Field := ⟨0x100008, 0, 1⟩
abbrev CAL_MODEL_CTL_VALID : Field := ⟨0x100008, 1, 1⟩
/-- The address of CAL_CFG. -/
abbrev CAL_CFG_addr (i : Nat) : Nat := 0x100100 + 32 * i
abbrev CAL_CFG_DELTA (i : Nat) : Field := ⟨0x100100 + 32 * i, 0, 12⟩
abbrev CAL_CFG_AUTO (i : Nat) : Field := ⟨0x100100 + 32 * i, 12, 1⟩
abbrev CAL_CFG_RUN (i : Nat) : Field := ⟨0x100100 + 32 * i, 13, 1⟩
/-- The address of CAL_WIN. -/
abbrev CAL_WIN_addr (i : Nat) : Nat := 0x100104 + 32 * i
abbrev CAL_WIN_MIN (i : Nat) : Field := ⟨0x100104 + 32 * i, 0, 16⟩
abbrev CAL_WIN_MAX (i : Nat) : Field := ⟨0x100104 + 32 * i, 16, 16⟩
/-- The address of CAL_STEP. -/
abbrev CAL_STEP_addr (i : Nat) : Nat := 0x100108 + 32 * i
abbrev CAL_STEP_STEP (i : Nat) : Field := ⟨0x100108 + 32 * i, 0, 16⟩
/-- The address of CAL_STAT. -/
abbrev CAL_STAT_addr (i : Nat) : Nat := 0x10010C + 32 * i
abbrev CAL_STAT_STATE (i : Nat) : Field := ⟨0x10010C + 32 * i, 0, 2⟩
abbrev CAL_STAT_REFUSED (i : Nat) : Field := ⟨0x10010C + 32 * i, 2, 1⟩
abbrev CAL_STAT_PORT (i : Nat) : Field := ⟨0x10010C + 32 * i, 3, 2⟩
abbrev CAL_STAT_T_REF (i : Nat) : Field := ⟨0x10010C + 32 * i, 16, 16⟩
/-- The address of CAL_COUNT. -/
abbrev CAL_COUNT_addr (i : Nat) : Nat := 0x100110 + 32 * i
abbrev CAL_COUNT_ACCEPTS (i : Nat) : Field := ⟨0x100110 + 32 * i, 0, 16⟩
abbrev CAL_COUNT_REFUSALS (i : Nat) : Field := ⟨0x100110 + 32 * i, 16, 16⟩
/-- The address of CAL_CLR. -/
abbrev CAL_CLR_addr (i : Nat) : Nat := 0x100114 + 32 * i
abbrev CAL_CLR_CLR (i : Nat) : Field := ⟨0x100114 + 32 * i, 0, 1⟩
/-! Block HOST (R389). -/

/-- The address of HOST_SESSION_LO. -/
abbrev HOST_SESSION_LO_addr : Nat := 0x110000
abbrev HOST_SESSION_LO_TAG : Field := ⟨0x110000, 0, 32⟩
/-- The address of HOST_SESSION_HI. -/
abbrev HOST_SESSION_HI_addr : Nat := 0x110004
abbrev HOST_SESSION_HI_TAG : Field := ⟨0x110004, 0, 32⟩
/-- The address of HOST_SESSION_STAT. -/
abbrev HOST_SESSION_STAT_addr : Nat := 0x110008
abbrev HOST_SESSION_STAT_SET : Field := ⟨0x110008, 0, 1⟩
/-- The address of HOST_DMA_BASE_LO. -/
abbrev HOST_DMA_BASE_LO_addr (i : Nat) : Nat := 0x110100 + 32 * i
abbrev HOST_DMA_BASE_LO_BASE (i : Nat) : Field := ⟨0x110100 + 32 * i, 0, 32⟩
/-- The address of HOST_DMA_BASE_HI. -/
abbrev HOST_DMA_BASE_HI_addr (i : Nat) : Nat := 0x110104 + 32 * i
abbrev HOST_DMA_BASE_HI_BASE (i : Nat) : Field := ⟨0x110104 + 32 * i, 0, 32⟩
/-- The address of HOST_DMA_SIZE. -/
abbrev HOST_DMA_SIZE_addr (i : Nat) : Nat := 0x110108 + 32 * i
abbrev HOST_DMA_SIZE_N (i : Nat) : Field := ⟨0x110108 + 32 * i, 0, 16⟩
/-- The address of HOST_DMA_PTR. -/
abbrev HOST_DMA_PTR_addr (i : Nat) : Nat := 0x11010C + 32 * i
abbrev HOST_DMA_PTR_WPTR (i : Nat) : Field := ⟨0x11010C + 32 * i, 0, 16⟩
abbrev HOST_DMA_PTR_RPTR (i : Nat) : Field := ⟨0x11010C + 32 * i, 16, 16⟩
/-- The address of HOST_DMA_CFG. -/
abbrev HOST_DMA_CFG_addr (i : Nat) : Nat := 0x110110 + 32 * i
abbrev HOST_DMA_CFG_EN (i : Nat) : Field := ⟨0x110110 + 32 * i, 0, 1⟩
abbrev HOST_DMA_CFG_CLASS (i : Nat) : Field := ⟨0x110110 + 32 * i, 1, 2⟩
abbrev HOST_DMA_CFG_ERR (i : Nat) : Field := ⟨0x110110 + 32 * i, 3, 1⟩

end Sys2Proof.Machine.F
end

