-- ==== Sys2Proof/Machine/RegMap.lean ====
section
/-! DEFINITION. The register map: every register of the manual's tables with its block address, its instances, and its
fields with their access codes (R11) and reset values. One list per block of R378. Bits that no field takes are reserved
and read 0 (R12). -/

namespace Sys2Proof.Machine.RegMap

/-- An instance index of a register array. -/
def ix (i : List Nat) (k : Nat) : Nat := i.getD k 0

/-- A constant reset value. -/
def c (n : Nat) : List Nat → Nat := fun _ => n

/-- A reset value that differs by the first instance index. -/
def pick (l : List Nat) : List Nat → Nat := fun i => l.getD (ix i 0) 0

/-- The direction index of slot `s` with LAYER_MASK 0b111111: the Gray code of R38. -/
def slotDirReset (s : Nat) : Nat := s ^^^ (s >>> 1)

/-- The reference phases of R285: 0 V 0.8 µs, ±10 V 2.0 µs, 0 V 0.1 µs; level in [1:0], duration in [15:4]. -/
def wavePhaseReset (x k : Nat) : Nat :=
  if k = 0 then 8 * 16 else if k = 1 then 20 * 16 + (if x = 0 then 1 else 2) else if k = 2 then 16 else 0

/-- The registers of block TOP. -/
def rowsTop : List RegRow := [
  ⟨"TOP_ID", 0x0, [], [⟨"PART", 16, 16, .ro, c 32520⟩,
    ⟨"STEPPING", 8, 8, .ro, c 161⟩,
    ⟨"MASKREV", 0, 8, .ro, c 1⟩]⟩,
  ⟨"TOP_GRADE", 0x4, [], [⟨"GRADE", 0, 2, .ro, c 1⟩]⟩,
  ⟨"TOP_RMON_CTL", 0x100, [], [⟨"WINDOW_US", 0, 11, .rw, c 100⟩,
    ⟨"CLR_MIN", 30, 1, .wo, c 0⟩,
    ⟨"EN", 31, 1, .rw, c 1⟩]⟩,
  ⟨"TOP_RMON_SEL", 0x104, [], [⟨"UNIT", 0, 8, .rw, c 0⟩]⟩,
  ⟨"TOP_RMON_RATE", 0x108, [], [⟨"RATE", 0, 24, .ro, c 0⟩]⟩,
  ⟨"TOP_RMON_MIN", 0x10C, [], [⟨"MIN", 0, 24, .ro, c 16777215⟩]⟩,
  ⟨"TOP_BOOT_STAT", 0x10, [], [⟨"BOOTSEL", 0, 3, .ro, c 0⟩,
    ⟨"CAUSE", 3, 4, .ro, c 0⟩,
    ⟨"SEG", 7, 5, .ro, c 0⟩,
    ⟨"IMG_CAUSE", 12, 3, .ro, c 0⟩,
    ⟨"ROLE", 15, 2, .ro, c 0⟩,
    ⟨"DONE", 17, 1, .ro, c 0⟩,
    ⟨"AUTH", 18, 1, .ro, c 0⟩]⟩,
  ⟨"TOP_BOOT_CTL", 0x14, [], [⟨"DOORBELL", 0, 1, .w1s, c 0⟩,
    ⟨"FLOOD", 1, 1, .rw, c 1⟩]⟩]

/-- The registers of block EVT. -/
def rowsEvt : List RegRow := [
  ⟨"EVT_STAT", 0x10000, [(32, 4)], [⟨"STATUS", 0, 32, .w1c, c 0⟩]⟩,
  ⟨"EVT_EN", 0x10080, [(32, 4)], [⟨"EN", 0, 32, .rw, fun i => if ix i 0 = 21 then 0x8000 else if ix i 0 = 31 then 2 else 0⟩]⟩,
  ⟨"EVT_AGAIN", 0x10100, [(32, 4)], [⟨"AGAIN", 0, 32, .w1c, c 0⟩]⟩,
  ⟨"EVT_PEND", 0x10180, [], [⟨"GROUP", 0, 32, .ro, c 0⟩]⟩,
  ⟨"EVT_UPD_BASE", 0x10200, [], [⟨"BASE", 10, 22, .rw, c 0⟩]⟩,
  ⟨"EVT_UPD_PTR", 0x10204, [], [⟨"WR", 0, 6, .ro, c 0⟩,
    ⟨"RD", 8, 6, .rw, c 0⟩,
    ⟨"OVERFLOW", 16, 1, .w1c, c 0⟩]⟩,
  ⟨"EVT_ROUTE", 0x11000, [(1024, 4)], [⟨"THREADS", 0, 16, .rw, c 0⟩,
    ⟨"UPDRAFT", 16, 1, .rw, c 0⟩,
    ⟨"VECTOR", 17, 6, .rw, c 0⟩,
    ⟨"MSIX", 23, 1, .rw, c 0⟩,
    ⟨"PIN", 24, 1, .rw, fun i => if ix i 0 = 687 ∨ ix i 0 = 993 then 1 else 0⟩]⟩]

/-- The registers of block TB. -/
def rowsTb : List RegRow := [
  ⟨"TB_NOW_NS", 0x20000, [], [⟨"NS", 0, 32, .ro, c 0⟩]⟩,
  ⟨"TB_NOW_FRAC", 0x20004, [], [⟨"FRAC", 0, 16, .ro, c 0⟩]⟩,
  ⟨"TB_CTL", 0x20008, [], [⟨"SRC", 0, 2, .rw, c 0⟩,
    ⟨"GL_IN", 2, 2, .rw, c 0⟩,
    ⟨"FORCE", 4, 1, .w1s, c 0⟩,
    ⟨"WAKE_STEP", 5, 1, .rw, c 1⟩]⟩,
  ⟨"TB_STATE", 0x2000C, [], [⟨"STATE", 0, 2, .ro, c 0⟩,
    ⟨"BACKUP", 2, 1, .ro, c 0⟩,
    ⟨"PORT", 3, 2, .ro, c 0⟩,
    ⟨"SATURATED", 5, 1, .ro, c 0⟩]⟩,
  ⟨"TB_RATE", 0x20010, [], [⟨"RATE", 0, 32, .rw, c 0⟩]⟩,
  ⟨"TB_RATE_LIMIT", 0x20014, [], [⟨"LIM", 0, 19, .rw, c 85899⟩]⟩,
  ⟨"TB_JUMP_LIMIT", 0x20018, [], [⟨"NS", 0, 20, .rw, c 1000⟩]⟩,
  ⟨"TB_GAIN", 0x2001C, [], [⟨"KP", 0, 6, .rw, c 18⟩,
    ⟨"KI", 8, 6, .rw, c 29⟩]⟩,
  ⟨"TB_ERR_NS", 0x20020, [], [⟨"NS", 0, 32, .ro, c 0⟩]⟩,
  ⟨"TB_ERR_FRAC", 0x20024, [], [⟨"FRAC", 0, 16, .ro, c 0⟩]⟩,
  ⟨"TB_SW_ERR_NS", 0x20028, [], [⟨"NS", 0, 32, .wo, c 0⟩]⟩,
  ⟨"TB_SW_ERR_FRAC", 0x2002C, [], [⟨"FRAC", 0, 16, .wo, c 0⟩]⟩,
  ⟨"TB_STEP_NS", 0x20030, [], [⟨"NS", 0, 32, .ro, c 0⟩]⟩,
  ⟨"TB_STEP_AT", 0x20034, [], [⟨"NS", 0, 32, .ro, c 0⟩]⟩,
  ⟨"TB_GUST", 0x20038, [], [⟨"COUNT", 0, 16, .ro, c 0⟩,
    ⟨"MISSING", 16, 16, .ro, c 0⟩]⟩,
  ⟨"TB_SW_TIMEOUT", 0x2003C, [], [⟨"MS", 0, 16, .rw, c 2000⟩]⟩,
  ⟨"TB_GL_PERIOD_NS", 0x20040, [], [⟨"NS", 0, 32, .rw, c 20000000⟩]⟩,
  ⟨"TB_GL_PERIOD_FRAC", 0x20044, [], [⟨"FRAC", 0, 16, .rw, c 0⟩]⟩,
  ⟨"TB_GL_PHASE", 0x20048, [], [⟨"NS", 0, 32, .rw, c 0⟩]⟩,
  ⟨"TB_IN_CFG", 0x20100, [(4, 16)], [⟨"EDGE", 0, 2, .rw, c 0⟩,
    ⟨"OVERRUN", 2, 1, .w1c, c 0⟩]⟩,
  ⟨"TB_IN_NS", 0x20104, [(4, 16)], [⟨"NS", 0, 32, .ro, c 0⟩]⟩,
  ⟨"TB_IN_FRAC", 0x20108, [(4, 16)], [⟨"FRAC", 0, 16, .ro, c 0⟩,
    ⟨"COUNT", 16, 16, .ro, c 0⟩]⟩,
  ⟨"TB_OUT_CFG", 0x20200, [(4, 32)], [⟨"EN", 0, 1, .rw, c 0⟩,
    ⟨"POL", 1, 1, .rw, c 0⟩]⟩,
  ⟨"TB_OUT_START", 0x20204, [(4, 32)], [⟨"NS", 0, 32, .rw, c 0⟩]⟩,
  ⟨"TB_OUT_PERIOD", 0x20208, [(4, 32)], [⟨"NS", 0, 32, .rw, c 0⟩]⟩,
  ⟨"TB_OUT_PFRAC", 0x2020C, [(4, 32)], [⟨"FRAC", 0, 16, .rw, c 0⟩]⟩,
  ⟨"TB_OUT_WIDTH", 0x20210, [(4, 32)], [⟨"NS", 0, 32, .rw, c 100⟩]⟩,
  ⟨"TB_OUT_STEP", 0x20214, [(4, 32)], [⟨"STEP", 0, 16, .rw, c 0⟩]⟩]

/-- The registers of block ETH. -/
def rowsEth : List RegRow := [
  ⟨"ETH_CFG", 0x30000, [(2, 4096)], [⟨"EN", 0, 1, .rw, c 0⟩,
    ⟨"FEC", 1, 2, .rw, c 0⟩]⟩,
  ⟨"ETH_STATUS", 0x30004, [(2, 4096)], [⟨"LINK", 0, 1, .ro, c 0⟩]⟩,
  ⟨"ETH_MAC_LO", 0x30008, [(2, 4096)], [⟨"MAC", 0, 32, .rw, c 0⟩]⟩,
  ⟨"ETH_MAC_HI", 0x3000C, [(2, 4096)], [⟨"MAC", 0, 16, .rw, c 0⟩]⟩,
  ⟨"ETH_RXR_BASE", 0x30010, [(2, 4096)], [⟨"BASE", 6, 26, .rw, c 0⟩]⟩,
  ⟨"ETH_TXR_BASE", 0x30020, [(2, 4096)], [⟨"BASE", 6, 26, .rw, c 0⟩]⟩,
  ⟨"ETH_RXR_SIZE", 0x30014, [(2, 4096)], [⟨"N", 0, 9, .rw, c 0⟩]⟩,
  ⟨"ETH_TXR_SIZE", 0x30024, [(2, 4096)], [⟨"N", 0, 9, .rw, c 0⟩]⟩,
  ⟨"ETH_RXR_PTR", 0x30018, [(2, 4096)], [⟨"DEV", 0, 8, .ro, c 0⟩,
    ⟨"SW", 8, 8, .rw, c 0⟩]⟩,
  ⟨"ETH_TXR_PTR", 0x30028, [(2, 4096)], [⟨"DEV", 0, 8, .ro, c 0⟩,
    ⟨"SW", 8, 8, .rw, c 0⟩]⟩,
  ⟨"ETH_TX_LAT", 0x30030, [(2, 4096)], [⟨"LAT", 0, 32, .rw, c 0⟩]⟩,
  ⟨"ETH_RX_LAT", 0x30034, [(2, 4096)], [⟨"LAT", 0, 32, .rw, c 0⟩]⟩,
  ⟨"ETH_TSQ_ID", 0x30040, [(2, 4096)], [⟨"TS_ID", 0, 12, .ro, c 0⟩,
    ⟨"GEN", 12, 4, .ro, c 0⟩,
    ⟨"PORT", 16, 1, .ro, c 0⟩,
    ⟨"SUPERSEDED", 17, 1, .ro, c 0⟩,
    ⟨"VALID", 31, 1, .ro, c 0⟩]⟩,
  ⟨"ETH_TSQ_NS", 0x30044, [(2, 4096)], [⟨"NS", 0, 32, .ro, c 0⟩]⟩,
  ⟨"ETH_TSQ_FRAC", 0x30048, [(2, 4096)], [⟨"FRAC", 0, 16, .ro, c 0⟩]⟩,
  ⟨"ETH_TSQ_CTL", 0x3004C, [(2, 4096)], [⟨"POP", 0, 1, .w1s, c 0⟩,
    ⟨"OVERFLOW", 1, 1, .w1c, c 0⟩,
    ⟨"LEVEL", 2, 5, .ro, c 0⟩,
    ⟨"DROPS", 16, 16, .ro, c 0⟩]⟩,
  ⟨"ETH_PTP_MAP_NS", 0x32000, [], [⟨"NS", 0, 30, .rw, c 0⟩]⟩,
  ⟨"ETH_PTP_MAP_SEC_LO", 0x32004, [], [⟨"SEC", 0, 32, .rw, c 0⟩]⟩,
  ⟨"ETH_PTP_MAP_SEC_HI", 0x32008, [], [⟨"SEC", 0, 16, .rw, c 0⟩]⟩,
  ⟨"ETH_PTP_MAP_TB", 0x3200C, [], [⟨"M", 0, 32, .rw, c 0⟩]⟩]

/-- The registers of block ZL. -/
def rowsZl : List RegRow := [
  ⟨"ZL_CFG", 0x40000, [(4, 16384)], [⟨"EN", 0, 1, .rw, c 1⟩,
    ⟨"MAXVER", 1, 2, .rw, c 2⟩,
    ⟨"LANE_EN", 3, 4, .rw, c 15⟩,
    ⟨"RAW", 7, 1, .rw, c 0⟩,
    ⟨"TIME_UP", 8, 1, .rw, c 0⟩,
    ⟨"WAKE", 9, 1, .w1s, c 0⟩,
    ⟨"RETRAIN", 10, 1, .w1s, c 0⟩,
    ⟨"RETRY_MS", 16, 8, .rw, c 10⟩]⟩,
  ⟨"ZL_STATUS", 0x40004, [(4, 16384)], [⟨"STATE", 0, 3, .ro, c 0⟩,
    ⟨"VER", 3, 2, .ro, c 0⟩,
    ⟨"RX_LANES", 5, 4, .ro, c 0⟩,
    ⟨"TX_LANES", 9, 4, .ro, c 0⟩]⟩,
  ⟨"ZL_LCAP", 0x40008, [(4, 16384)], [⟨"CAP", 0, 32, .ro, c 531447⟩]⟩,
  ⟨"ZL_PCAP", 0x4000C, [(4, 16384)], [⟨"CAP", 0, 32, .ro, c 0⟩]⟩,
  ⟨"ZL_PID", 0x40010, [(4, 16384)], [⟨"IDENT", 0, 32, .ro, c 0⟩]⟩,
  ⟨"ZL_ERR", 0x40014, [(4, 16384)], [⟨"REPLAYS", 0, 16, .ro, c 0⟩,
    ⟨"RETRAINS", 16, 8, .ro, c 0⟩,
    ⟨"REMAPS", 24, 8, .ro, c 0⟩]⟩,
  ⟨"ZL_DROP", 0x40018, [(4, 16384)], [⟨"QFULL", 0, 16, .ro, c 0⟩,
    ⟨"BADPKT", 16, 16, .ro, c 0⟩]⟩,
  ⟨"ZL_LANE_LIMIT", 0x4001C, [(4, 16384)], [⟨"LIMIT", 0, 16, .rw, c 2048⟩]⟩,
  ⟨"ZL_TT_DELAY", 0x40020, [(4, 16384)], [⟨"DELAY", 0, 32, .ro, c 0⟩]⟩,
  ⟨"ZL_TT_OFFSET", 0x40024, [(4, 16384)], [⟨"OFFSET", 0, 32, .ro, c 0⟩]⟩,
  ⟨"ZL_TT_ASYM", 0x40028, [(4, 16384)], [⟨"ASYM", 0, 16, .rw, c 0⟩]⟩,
  ⟨"ZL_TT_COUNT", 0x4002C, [(4, 16384)], [⟨"GOOD", 0, 16, .ro, c 0⟩,
    ⟨"BAD", 16, 16, .ro, c 0⟩]⟩,
  ⟨"ZL_CLR", 0x40030, [(4, 16384)], [⟨"CLR", 0, 1, .wo, c 0⟩]⟩,
  ⟨"ZL_ADDR", 0x43000, [], [⟨"X", 0, 8, .rw, c 0⟩,
    ⟨"Y", 8, 8, .rw, c 0⟩,
    ⟨"HUB", 16, 1, .rw, c 0⟩]⟩,
  ⟨"ZL_UP", 0x43004, [], [⟨"HUB", 0, 16, .rw, c 0⟩,
    ⟨"DUAL", 16, 1, .rw, c 1⟩]⟩,
  ⟨"ZL_STAB_ADDR", 0x43008, [], [⟨"INDEX", 0, 12, .rw, c 0⟩]⟩,
  ⟨"ZL_STAB_DATA", 0x4300C, [], [⟨"ENTRY", 0, 8, .rw, c 0⟩]⟩,
  ⟨"ZL_LSTREAM", 0x43010, [(8, 4)], [⟨"STREAM", 0, 12, .rw, c 0⟩,
    ⟨"EN", 12, 1, .rw, c 0⟩,
    ⟨"SESSION", 16, 8, .ro, c 0⟩]⟩,
  ⟨"ZL_DEDUP", 0x43030, [], [⟨"DUP", 0, 16, .ro, c 0⟩,
    ⟨"LOST", 16, 16, .ro, c 0⟩]⟩,
  ⟨"ZL_DEDUP_STALE", 0x43034, [], [⟨"STALE", 0, 16, .ro, c 0⟩,
    ⟨"REASM", 16, 16, .ro, c 0⟩]⟩,
  ⟨"ZL_MGMT_EPOCH", 0x43040, [], [⟨"EPOCH", 0, 6, .rw, c 0⟩]⟩,
  ⟨"ZL_MTX_ADDR", 0x43044, [], [⟨"ADDR", 6, 26, .rw, c 0⟩]⟩,
  ⟨"ZL_MTX_CTL", 0x43048, [], [⟨"SEND", 0, 1, .w1s, c 0⟩]⟩,
  ⟨"ZL_MRX_BASE", 0x4304C, [], [⟨"BASE", 12, 20, .rw, c 0⟩]⟩,
  ⟨"ZL_MRX_PTR", 0x43050, [], [⟨"WR", 0, 6, .ro, c 0⟩,
    ⟨"RD", 8, 6, .rw, c 0⟩,
    ⟨"OVERFLOW", 16, 1, .w1c, c 0⟩]⟩,
  ⟨"ZL_MGMT_STAT", 0x43054, [], [⟨"STALE", 0, 16, .ro, c 0⟩,
    ⟨"REFUSED", 16, 16, .ro, c 0⟩]⟩,
  ⟨"ZL_EVT_RATE", 0x43058, [], [⟨"PER_MS", 0, 16, .rw, c 100⟩]⟩,
  ⟨"ZL_ROUTE_DROP", 0x4305C, [], [⟨"COUNT", 0, 16, .ro, c 0⟩]⟩,
  ⟨"ZL_RAW_BASE", 0x43060, [], [⟨"BASE", 0, 28, .rw, c 0⟩]⟩,
  ⟨"ZL_RAW_SIZE", 0x43064, [], [⟨"SIZE_4K", 0, 20, .rw, c 0⟩]⟩,
  ⟨"ZL_RAW_WPTR", 0x43068, [], [⟨"WR_64B", 0, 26, .ro, c 0⟩]⟩,
  ⟨"ZL_RAW_RPTR", 0x4306C, [], [⟨"RD_64B", 0, 26, .rw, c 0⟩]⟩,
  ⟨"ZL_TXS", 0x43100, [(64, 8)], [⟨"STREAM", 0, 12, .rw, c 0⟩,
    ⟨"EN", 12, 1, .rw, c 0⟩,
    ⟨"SYNC", 13, 1, .w1s, c 0⟩,
    ⟨"SESSION", 16, 8, .rw, c 0⟩]⟩,
  ⟨"ZL_TXSSN", 0x43104, [(64, 8)], [⟨"NEXT", 0, 32, .rw, c 0⟩]⟩]

/-- The registers of block CODEC. -/
def rowsCodec : List RegRow := [
  ⟨"CODEC_TDV_FRAME", 0x50E00, [], [⟨"FRAME_SEQ", 0, 32, .ro, c 0⟩]⟩,
  ⟨"CODEC_TDV_REJECT", 0x50E04, [], [⟨"COUNT", 0, 16, .ro, c 0⟩,
    ⟨"CAUSE", 16, 4, .ro, c 0⟩,
    ⟨"CLR", 31, 1, .wo, c 0⟩]⟩,
  ⟨"CODEC_TDV_HALF", 0x50E08, [], [⟨"HALF", 0, 1, .ro, c 0⟩,
    ⟨"USED_64B", 8, 19, .ro, c 0⟩]⟩,
  ⟨"CODEC_LANE_CFG", 0x50000, [(32, 4)], [⟨"MODE", 0, 2, .rw, c 0⟩,
    ⟨"BUSY", 2, 1, .ro, c 0⟩,
    ⟨"FLUSH", 3, 1, .w1s, c 0⟩]⟩,
  ⟨"CODEC_SRC", 0x50100, [], [⟨"SEL", 0, 1, .rw, c 0⟩]⟩,
  ⟨"CODEC_SQ_FILL", 0x50104, [], [⟨"FILL_64B", 0, 17, .ro, c 0⟩]⟩,
  ⟨"CODEC_STRIPE_ERR", 0x50108, [], [⟨"COUNT", 0, 16, .ro, c 0⟩,
    ⟨"CAUSE", 16, 4, .ro, c 0⟩,
    ⟨"VIEW", 20, 4, .ro, c 0⟩,
    ⟨"PLANE", 24, 4, .ro, c 0⟩,
    ⟨"CLR", 31, 1, .wo, c 0⟩]⟩,
  ⟨"CODEC_STRIPE_DROP", 0x5010C, [], [⟨"STALE", 0, 16, .ro, c 0⟩,
    ⟨"FULL", 16, 16, .ro, c 0⟩]⟩,
  ⟨"CODEC_TAINT", 0x50110, [], [⟨"ROWS", 0, 14, .ro, c 0⟩]⟩,
  ⟨"CODEC_REC_BASE", 0x50120, [], [⟨"BASE", 0, 32, .rw, c 0⟩]⟩,
  ⟨"CODEC_REC_SIZE", 0x50124, [], [⟨"SIZE_64K", 0, 21, .rw, c 0⟩]⟩,
  ⟨"CODEC_REC_CTL", 0x50128, [], [⟨"EN", 0, 1, .rw, c 0⟩,
    ⟨"FULL", 1, 1, .ro, c 0⟩]⟩,
  ⟨"CODEC_REC_PTR", 0x5012C, [], [⟨"OFFSET_64B", 0, 31, .ro, c 0⟩]⟩]

/-- The registers of block PRESS. -/
def rowsPress : List RegRow := [
  ⟨"PRESS_CTL", 0x60000, [(48, 4)], [⟨"GATE", 0, 1, .rw, c 0⟩,
    ⟨"FENCE", 1, 1, .rw, c 0⟩,
    ⟨"FENCED", 2, 1, .ro, c 0⟩,
    ⟨"FENCE_CAUSE", 3, 2, .ro, c 0⟩]⟩,
  ⟨"PRESS_SYN_ENTRY", 0x60100, [], [⟨"ENTRY", 2, 18, .rw, c 0⟩]⟩,
  ⟨"PRESS_VSEL_BASE", 0x60104, [], [⟨"BASE", 12, 20, .rw, c 0⟩]⟩,
  ⟨"PRESS_TIMEOUT", 0x60108, [], [⟨"TIMEOUT_NS", 0, 16, .rw, c 1000⟩]⟩,
  ⟨"PRESS_LUT_CTL", 0x6010C, [], [⟨"SWAP", 0, 1, .w1s, c 0⟩,
    ⟨"ACTIVE", 1, 1, .ro, c 0⟩,
    ⟨"WR_REFUSED", 2, 1, .w1c, c 0⟩]⟩,
  ⟨"PRESS_LUT_ADDR", 0x60110, [], [⟨"INDEX", 0, 14, .rw, c 0⟩]⟩,
  ⟨"PRESS_LUT_DATA", 0x60114, [], [⟨"VALUE", 0, 12, .rw, c 0⟩]⟩,
  ⟨"PRESS_LATE", 0x60120, [], [⟨"BUNDLES", 0, 32, .ro, c 0⟩]⟩,
  ⟨"PRESS_LATE_BANDS", 0x60124, [], [⟨"BANDS", 0, 16, .ro, c 0⟩,
    ⟨"LAST_BAND", 16, 6, .ro, c 0⟩,
    ⟨"LAST_SLOT", 22, 6, .ro, c 0⟩]⟩,
  ⟨"PRESS_EXC", 0x60128, [], [⟨"COUNT", 0, 16, .ro, c 0⟩,
    ⟨"LAST_PRESS", 16, 6, .ro, c 0⟩]⟩,
  ⟨"PRESS_STAT_CLR", 0x6012C, [], [⟨"CLR", 0, 1, .wo, c 0⟩]⟩,
  ⟨"PRESS_EXC_INFO", 0x60130, [], [⟨"PC", 2, 18, .ro, c 0⟩,
    ⟨"CAUSE", 20, 4, .ro, c 0⟩,
    ⟨"JOB", 24, 1, .ro, c 0⟩]⟩,
  ⟨"PRESS_ISA", 0x60140, [], [⟨"REV", 0, 8, .ro, c 3⟩]⟩,
  ⟨"PRESS_ISA_FEAT", 0x60144, [], [⟨"FEAT", 0, 32, .ro, c 255⟩]⟩,
  ⟨"PRESS_IMG_ADDR", 0x60148, [], [⟨"ADDR", 6, 26, .rw, c 0⟩]⟩,
  ⟨"PRESS_IMG_CTL", 0x6014C, [], [⟨"INSTALL", 0, 1, .w1s, c 0⟩,
    ⟨"REJECTED", 1, 1, .w1c, c 0⟩,
    ⟨"CAUSE", 2, 3, .ro, c 0⟩]⟩,
  ⟨"PRESS_IMG_MISSING", 0x60150, [], [⟨"MISSING", 0, 32, .ro, c 0⟩]⟩,
  ⟨"PRESS_SPILL_BASE", 0x60158, [], [⟨"BASE", 0, 24, .rw, c 0⟩]⟩,
  ⟨"PRESS_SPILL_WIN", 0x6015C, [], [⟨"WIN_64K", 0, 8, .rw, c 0⟩]⟩]

/-- The registers of block SEQ. -/
def rowsSeq : List RegRow := [
  ⟨"SEQ_FRM_FORMAT", 0x70800, [], [⟨"SLOTS", 0, 7, .rw, c 64⟩,
    ⟨"LAYER_MASK", 8, 6, .rw, c 63⟩,
    ⟨"HOLD", 16, 1, .rw, c 1⟩,
    ⟨"KV4", 17, 1, .rw, c 0⟩]⟩,
  ⟨"SEQ_FRM_SLOT_PERIOD", 0x70804, [], [⟨"PERIOD_NS", 0, 23, .rw, c 256000⟩]⟩,
  ⟨"SEQ_FRM_MIN_FRAME", 0x70808, [], [⟨"MIN_NS", 0, 32, .rw, c 16584000⟩]⟩,
  ⟨"SEQ_FRM_MAX_FRAME", 0x7080C, [], [⟨"MAX_NS", 0, 32, .rw, c 19984000⟩]⟩,
  ⟨"SEQ_FRM_CUTOFF", 0x70810, [], [⟨"CUTOFF_NS", 0, 20, .rw, c 24000⟩]⟩,
  ⟨"SEQ_FRM_CTL", 0x70814, [], [⟨"COMMIT", 0, 1, .w1s, c 0⟩,
    ⟨"WAIT_TRANSITION", 1, 1, .ro, c 0⟩,
    ⟨"COMMIT_LATE", 2, 1, .w1c, c 0⟩,
    ⟨"REFUSED", 3, 1, .w1c, c 0⟩,
    ⟨"MISSED", 4, 1, .w1c, c 0⟩,
    ⟨"CLR_COUNT", 5, 1, .wo, c 0⟩]⟩,
  ⟨"SEQ_FRM_COUNT", 0x70818, [], [⟨"REPEATS", 0, 16, .ro, c 0⟩,
    ⟨"LATE_COMMITS", 16, 16, .ro, c 0⟩]⟩,
  ⟨"SEQ_LC_TIME", 0x70400, [(64, 8)], [⟨"TARGET", 0, 32, .rw, c 0⟩]⟩,
  ⟨"SEQ_LC_CFG", 0x70404, [(64, 8)], [⟨"LINE", 0, 5, .rw, fun i => if ix i 0 < 4 then ix i 0 else 31⟩,
    ⟨"ARM", 5, 1, .w1s, c 0⟩,
    ⟨"DISARM", 6, 1, .wo, c 0⟩,
    ⟨"FIRED", 7, 1, .w1c, c 0⟩,
    ⟨"LATE", 8, 1, .w1c, c 0⟩,
    ⟨"EARLY", 9, 1, .w1c, c 0⟩]⟩,
  ⟨"SEQ_RDY_FRAME", 0x70900, [], [⟨"FRAME", 0, 32, .rw, c 0⟩]⟩,
  ⟨"SEQ_RDY_MEMBER_LO", 0x70904, [], [⟨"MEMBER", 0, 32, .rw, c 0⟩]⟩,
  ⟨"SEQ_RDY_MEMBER_HI", 0x70908, [], [⟨"MEMBER", 0, 32, .rw, c 0⟩]⟩,
  ⟨"SEQ_RDY_GOT_LO", 0x7090C, [], [⟨"GOT", 0, 32, .ro, c 0⟩]⟩,
  ⟨"SEQ_RDY_GOT_HI", 0x70910, [], [⟨"GOT", 0, 32, .ro, c 0⟩]⟩,
  ⟨"SEQ_RDY_LAST", 0x70914, [], [⟨"LAST", 0, 32, .ro, c 0⟩]⟩,
  ⟨"SEQ_RDY_CTL", 0x70918, [], [⟨"ADVANCE", 0, 1, .w1s, c 0⟩,
    ⟨"ALL", 1, 1, .ro, c 0⟩,
    ⟨"DROPPED", 16, 16, .ro, c 0⟩]⟩,
  ⟨"SEQ_RDY_NEXT_LO", 0x7091C, [], [⟨"NEXT", 0, 32, .ro, c 0⟩]⟩,
  ⟨"SEQ_RDY_NEXT_HI", 0x70920, [], [⟨"NEXT", 0, 32, .ro, c 0⟩]⟩,
  ⟨"SEQ_LTOK_TX_TIME", 0x70940, [], [⟨"TIME", 0, 32, .rw, c 0⟩]⟩,
  ⟨"SEQ_LTOK_TX_SEQ", 0x70944, [], [⟨"FSEQ", 0, 32, .rw, c 0⟩]⟩,
  ⟨"SEQ_LTOK_TX_CTL", 0x70948, [], [⟨"SEND", 0, 1, .w1s, c 0⟩,
    ⟨"TRANSITION", 1, 1, .rw, c 0⟩,
    ⟨"REFUSED", 2, 1, .w1c, c 0⟩,
    ⟨"LOCAL", 3, 1, .rw, c 0⟩]⟩,
  ⟨"SEQ_LTOK_MINLEAD", 0x7094C, [], [⟨"MINLEAD_NS", 0, 20, .rw, c 210000⟩]⟩,
  ⟨"SEQ_LTOK_RX_TIME", 0x70950, [], [⟨"TIME", 0, 32, .ro, c 0⟩]⟩,
  ⟨"SEQ_LTOK_RX_SEQ", 0x70954, [], [⟨"FSEQ", 0, 32, .ro, c 0⟩]⟩,
  ⟨"SEQ_LTOK_RX_ARRIVAL", 0x70958, [], [⟨"ARRIVAL", 0, 32, .ro, c 0⟩]⟩,
  ⟨"SEQ_LTOK_RX_STAT", 0x7095C, [], [⟨"TRANSITION", 0, 1, .ro, c 0⟩,
    ⟨"SHORT", 1, 1, .ro, c 0⟩,
    ⟨"AUTO_ARM", 2, 1, .rw, c 1⟩,
    ⟨"DROPPED", 16, 16, .ro, c 0⟩]⟩,
  ⟨"SEQ_RDY_TILE", 0x70A00, [(64, 4)], [⟨"X", 0, 8, .rw, c 0⟩,
    ⟨"Y", 8, 8, .rw, c 0⟩]⟩,
  ⟨"SEQ_THR_CTL", 0x70000, [(16, 4)], [⟨"PRIO", 0, 2, .rw, c 0⟩]⟩,
  ⟨"SEQ_THR_STAT", 0x70040, [(16, 4)], [⟨"PC", 2, 16, .ro, c 0⟩,
    ⟨"STATE", 18, 2, .ro, c 0⟩,
    ⟨"CAUSE", 20, 2, .ro, c 0⟩,
    ⟨"BADREG", 22, 1, .w1c, c 0⟩]⟩,
  ⟨"SEQ_THR_START", 0x70080, [], [⟨"THREAD", 0, 4, .wo, c 0⟩,
    ⟨"STOP", 4, 1, .wo, c 0⟩,
    ⟨"ENTRY", 16, 16, .wo, c 0⟩]⟩,
  ⟨"SEQ_IMG_ADDR", 0x70C00, [], [⟨"ADDR", 6, 26, .rw, c 0⟩]⟩,
  ⟨"SEQ_IMG_CTL", 0x70C04, [], [⟨"INSTALL", 0, 1, .w1s, c 0⟩,
    ⟨"REJECTED", 1, 1, .w1c, c 0⟩,
    ⟨"CAUSE", 2, 3, .ro, c 0⟩]⟩,
  ⟨"SEQ_IMG_MISSING", 0x70C08, [], [⟨"MISSING", 0, 32, .ro, c 0⟩]⟩,
  ⟨"SEQ_ISA", 0x70C10, [], [⟨"REV", 0, 8, .ro, c 3⟩]⟩,
  ⟨"SEQ_ISA_FEAT", 0x70C14, [], [⟨"FEAT", 0, 32, .ro, c 63⟩]⟩]

/-- The registers of block PANEL. -/
def rowsPanel : List RegRow := [
  ⟨"PANEL_CFG", 0x80000, [(4, 4096)], [⟨"EN", 0, 1, .rw, c 1⟩,
    ⟨"MAXVER", 1, 1, .rw, c 1⟩,
    ⟨"MAXRATE", 2, 2, .rw, c 2⟩,
    ⟨"LANE_EN", 4, 8, .rw, c 255⟩,
    ⟨"CMD", 12, 1, .rw, c 0⟩,
    ⟨"RETRAIN", 13, 1, .w1s, c 0⟩]⟩,
  ⟨"PANEL_STATUS", 0x80004, [(4, 4096)], [⟨"STATE", 0, 2, .ro, c 0⟩,
    ⟨"VER", 2, 1, .ro, c 0⟩,
    ⟨"RATE", 3, 2, .ro, c 0⟩,
    ⟨"LANES_UP", 5, 8, .ro, c 0⟩,
    ⟨"BK_UP", 13, 1, .ro, c 0⟩]⟩,
  ⟨"PANEL_DRVCAP", 0x80008, [(4, 4096)], [⟨"CAP", 0, 13, .ro, c 0⟩]⟩,
  ⟨"PANEL_UNDERRUN", 0x8000C, [(4, 4096)], [⟨"COUNT", 0, 32, .ro, c 0⟩]⟩,
  ⟨"PANEL_CATCHUP", 0x80010, [(4, 4096)], [⟨"SENT", 0, 16, .ro, c 0⟩,
    ⟨"MISS", 16, 16, .ro, c 0⟩]⟩,
  ⟨"PANEL_ERR", 0x80014, [(4, 4096)], [⟨"CRC", 0, 16, .ro, c 0⟩,
    ⟨"DOWNS", 16, 16, .ro, c 0⟩]⟩,
  ⟨"PANEL_CLR", 0x80018, [(4, 4096)], [⟨"CLR", 0, 1, .wo, c 0⟩]⟩,
  ⟨"PANEL_LANE_MAP", 0x80040, [(4, 4096), (8, 4)], [⟨"COL0", 0, 10, .rw, fun i => 20 * (8 * ix i 0 + ix i 1)⟩,
    ⟨"NCOL_M1", 10, 6, .rw, c 19⟩]⟩,
  ⟨"PANEL_GOA_TIMING", 0x84000, [], [⟨"ROW_NS", 0, 10, .rw, c 600⟩,
    ⟨"GAP_NS", 10, 6, .rw, c 50⟩]⟩,
  ⟨"PANEL_GOA_CTL", 0x84004, [], [⟨"DIS", 0, 1, .rw, c 1⟩]⟩,
  ⟨"PANEL_BLINK_CNT", 0x84008, [], [⟨"COUNT", 0, 32, .rw, c 0⟩]⟩,
  ⟨"PANEL_HOLD_TICKS", 0x8400C, [], [⟨"COUNT", 0, 32, .ro, c 0⟩]⟩,
  ⟨"PANEL_COMMIT_ERR", 0x84010, [], [⟨"CAUSE", 0, 2, .ro, c 0⟩]⟩,
  ⟨"PANEL_BLINK_X", 0x84100, [(16, 16)], [⟨"X0", 0, 10, .rw, c 0⟩,
    ⟨"X1", 16, 10, .rw, c 0⟩]⟩,
  ⟨"PANEL_BLINK_Y", 0x84104, [(16, 16)], [⟨"Y0", 0, 9, .rw, c 0⟩,
    ⟨"Y1", 16, 9, .rw, c 0⟩]⟩,
  ⟨"PANEL_BLINK_T", 0x84108, [(16, 16)], [⟨"PERIOD", 0, 8, .rw, c 1⟩,
    ⟨"ON", 8, 8, .rw, c 1⟩,
    ⟨"PHASE", 16, 8, .rw, c 0⟩,
    ⟨"EN", 24, 1, .rw, c 0⟩]⟩,
  ⟨"PANEL_CMD_SRC", 0x84200, [], [⟨"ADDR", 0, 32, .rw, c 0⟩]⟩,
  ⟨"PANEL_CMD_PITCH", 0x84204, [], [⟨"PITCH", 0, 18, .rw, c 0⟩]⟩,
  ⟨"PANEL_CMD_RECT", 0x84208, [], [⟨"X", 0, 12, .rw, c 0⟩,
    ⟨"Y", 16, 12, .rw, c 0⟩]⟩,
  ⟨"PANEL_CMD_SIZE", 0x8420C, [], [⟨"W", 0, 13, .rw, c 0⟩,
    ⟨"H", 16, 13, .rw, c 0⟩]⟩,
  ⟨"PANEL_CMD_CTL", 0x84210, [], [⟨"GO", 0, 1, .w1s, c 0⟩,
    ⟨"AT_LAUNCH", 1, 1, .rw, c 0⟩,
    ⟨"FMT", 2, 2, .rw, c 0⟩,
    ⟨"BUSY", 4, 1, .ro, c 0⟩,
    ⟨"DONE", 5, 1, .w1c, c 0⟩,
    ⟨"ERR", 6, 1, .w1c, c 0⟩,
    ⟨"CAUSE", 7, 2, .ro, c 0⟩]⟩]

/-- The registers of block TRL. -/
def rowsTrl : List RegRow := [
  ⟨"TRL_SLOT_DIR", 0x90F80, [(16, 4)], [⟨"DIR0", 0, 6, .ro, fun i => slotDirReset (4 * ix i 0)⟩,
    ⟨"DIR1", 8, 6, .ro, fun i => slotDirReset (4 * ix i 0 + 1)⟩,
    ⟨"DIR2", 16, 6, .ro, fun i => slotDirReset (4 * ix i 0 + 2)⟩,
    ⟨"DIR3", 24, 6, .ro, fun i => slotDirReset (4 * ix i 0 + 3)⟩]⟩,
  ⟨"TRL_BAND", 0x90E00, [(64, 4)], [⟨"FIRST_ROW", 0, 9, .rw, fun i => 45 * ix i 0 / 8⟩,
    ⟨"ROWS", 16, 4, .rw, fun i => 45 * (ix i 0 + 1) / 8 - 45 * ix i 0 / 8⟩]⟩,
  ⟨"TRL_TILE_GEOM", 0x90F00, [], [⟨"WIDTH_M1", 0, 10, .rw, c 639⟩,
    ⟨"HEIGHT_M1", 10, 9, .rw, c 359⟩,
    ⟨"EM_COLS", 20, 2, .rw, c 2⟩,
    ⟨"EM_ROWS", 22, 1, .rw, c 1⟩]⟩,
  ⟨"TRL_GEOM_CTL", 0x90F04, [], [⟨"APPLY", 0, 1, .w1s, c 0⟩,
    ⟨"BAD", 1, 1, .w1c, c 0⟩,
    ⟨"CAUSE", 2, 2, .ro, c 0⟩,
    ⟨"BASE_BAD", 4, 1, .w1c, c 0⟩,
    ⟨"WEIGHT_CLAMP", 5, 1, .w1c, c 0⟩,
    ⟨"PANEL_CAUSE", 6, 2, .ro, c 0⟩]⟩,
  ⟨"TRL_SAT_BASE", 0x90F08, [], [⟨"BASE", 12, 20, .rw, c 0⟩]⟩,
  ⟨"TRL_ANG_WEIGHT", 0x90F0C, [], [⟨"LO_BAND", 0, 4, .rw, c 0⟩,
    ⟨"WEIGHT", 8, 9, .rw, c 0⟩]⟩,
  ⟨"TRL_ANG_TEMP", 0x90F40, [(16, 4)], [⟨"CENTRE", 0, 16, .rw, c 0⟩]⟩,
  ⟨"TRL_CTL", 0x90000, [], [⟨"AUTO_INIT", 0, 1, .rw, c 1⟩,
    ⟨"INIT", 1, 1, .w1s, c 0⟩,
    ⟨"INIT_DONE", 2, 1, .ro, c 0⟩]⟩,
  ⟨"TRL_TSEL", 0x90004, [], [⟨"SENSORS", 0, 8, .rw, c 255⟩,
    ⟨"HYST", 8, 8, .rw, c 16⟩,
    ⟨"MANUAL", 16, 1, .rw, c 0⟩,
    ⟨"MANUAL_BAND", 17, 4, .rw, c 0⟩]⟩,
  ⟨"TRL_TSEL_STAT", 0x90008, [], [⟨"TEMP", 0, 16, .ro, c 0⟩,
    ⟨"BAND", 16, 4, .ro, c 0⟩,
    ⟨"NO_SENSOR", 20, 1, .ro, c 0⟩]⟩,
  ⟨"TRL_LEDGER_LIMIT", 0x9000C, [], [⟨"LIMIT", 0, 31, .rw, c 2000⟩]⟩,
  ⟨"TRL_COMP", 0x90010, [], [⟨"VCOMP", 0, 6, .rw, c 20⟩]⟩,
  ⟨"TRL_STAT", 0x90014, [], [⟨"TRUNC", 0, 16, .ro, c 0⟩,
    ⟨"NOLIGHT", 16, 16, .ro, c 0⟩]⟩,
  ⟨"TRL_STAT2", 0x90018, [], [⟨"OVER", 0, 16, .ro, c 0⟩,
    ⟨"BAND_CHANGES", 16, 16, .ro, c 0⟩]⟩,
  ⟨"TRL_CLR", 0x9001C, [], [⟨"CLR", 0, 1, .wo, c 0⟩]⟩,
  ⟨"TRL_FAULT_CTL", 0x90020, [], [⟨"FAULT_COUNT", 0, 4, .rw, c 4⟩,
    ⟨"OPEN_PCT", 4, 8, .rw, c 25⟩,
    ⟨"SHORT_PCT", 12, 8, .rw, c 200⟩,
    ⟨"C_NOM", 20, 9, .rw, c 124⟩,
    ⟨"BLANK_ON_FAULT", 29, 1, .rw, c 1⟩]⟩,
  ⟨"TRL_WAVE_CTL", 0x90024, [], [⟨"APPLY", 0, 1, .w1s, c 0⟩,
    ⟨"BAD", 1, 1, .w1c, c 0⟩,
    ⟨"CAUSE", 2, 2, .ro, c 0⟩,
    ⟨"FMT_BAD", 4, 1, .w1c, c 0⟩]⟩,
  ⟨"TRL_STATE", 0x90028, [], [⟨"WORD_B0", 0, 6, .ro, c 0⟩,
    ⟨"WORD_B63", 8, 6, .ro, c 0⟩]⟩,
  ⟨"TRL_FAULT", 0x90100, [(64, 4)], [⟨"OPEN", 0, 6, .w1c, c 0⟩,
    ⟨"SHORT", 8, 6, .w1c, c 0⟩]⟩,
  ⟨"TRL_WHDR", 0x90200, [(16, 4)], [⟨"SETTLE", 0, 12, .rw, fun i => if ix i 0 = 0 then 320 else 0⟩,
    ⟨"EN", 12, 1, .rw, fun i => if ix i 0 = 0 then 1 else 0⟩,
    ⟨"TLOW", 16, 16, .rw, fun i => if ix i 0 = 0 then 0x8000 else 0⟩]⟩,
  ⟨"TRL_WAVE", 0x91000, [(16, 64), (2, 32), (8, 4)], [
    ⟨"LEVEL", 0, 2, .rw, fun i => if ix i 0 = 0 then wavePhaseReset (ix i 1) (ix i 2) % 4 else 0⟩,
    ⟨"DUR", 4, 12, .rw, fun i => if ix i 0 = 0 then wavePhaseReset (ix i 1) (ix i 2) / 16 else 0⟩]⟩,
  ⟨"TRL_LEDGER", 0x92000, [(64, 24), (6, 4)], [⟨"LEDGER", 0, 32, .ro, c 0⟩]⟩]

/-- The registers of block HVPS. -/
def rowsHvps : List RegRow := [
  ⟨"HVPS_CTL", 0xA0000, [], [⟨"ON", 0, 1, .w1s, c 0⟩,
    ⟨"OFF", 1, 1, .w1s, c 0⟩,
    ⟨"STATE", 2, 3, .ro, c 0⟩,
    ⟨"AUTO_RESTART", 5, 1, .rw, c 1⟩]⟩,
  ⟨"HVPS_SET", 0xA0010, [(4, 4)], [⟨"CODE", 0, 10, .rw, pick [200, 480, 200, 200]⟩,
    ⟨"TRIM", 16, 8, .rw, c 0⟩]⟩,
  ⟨"HVPS_MEAS", 0xA0020, [(4, 4)], [⟨"MV", 0, 16, .ro, c 0⟩]⟩,
  ⟨"HVPS_FAULT", 0xA0030, [], [⟨"UV", 0, 4, .w1c, c 0⟩,
    ⟨"OV", 4, 4, .w1c, c 0⟩,
    ⟨"OC", 8, 4, .w1c, c 0⟩,
    ⟨"NOSTART", 12, 4, .w1c, c 0⟩,
    ⟨"BROWNOUT", 16, 1, .w1c, c 0⟩,
    ⟨"VHV_OV", 17, 1, .w1c, c 0⟩]⟩,
  ⟨"HVPS_VHV", 0xA0034, [], [⟨"MV", 0, 16, .ro, c 0⟩]⟩]

/-- The registers of block RACK. -/
def rowsRack : List RegRow := [
  ⟨"RACK_RING_BASE", 0xB0000, [(4, 32)], [⟨"BASE", 0, 32, .rw, c 0⟩]⟩,
  ⟨"RACK_RING_SIZE", 0xB0004, [(4, 32)], [⟨"N", 0, 16, .rw, c 0⟩]⟩,
  ⟨"RACK_RING_WPTR", 0xB0008, [(4, 32)], [⟨"WPTR", 0, 16, .rw, c 0⟩]⟩,
  ⟨"RACK_RING_RPTR", 0xB000C, [(4, 32)], [⟨"RPTR", 0, 16, .ro, c 0⟩]⟩,
  ⟨"RACK_RING_CFG", 0xB0010, [(4, 32)], [⟨"EN", 0, 1, .rw, c 0⟩,
    ⟨"LIST_TYPE", 1, 1, .rw, c 0⟩,
    ⟨"STOP_ON_ERR", 2, 1, .rw, c 0⟩,
    ⟨"STOPPED", 3, 1, .ro, c 0⟩,
    ⟨"RESUME", 4, 1, .w1s, c 0⟩,
    ⟨"BUSY", 5, 1, .ro, c 0⟩]⟩,
  ⟨"RACK_RING_RETIRE", 0xB0014, [(4, 32)], [⟨"TAG", 0, 16, .ro, c 0⟩,
    ⟨"COUNT", 16, 16, .ro, c 0⟩]⟩,
  ⟨"RACK_ERR", 0xB0100, [], [⟨"COUNT", 0, 16, .ro, c 0⟩,
    ⟨"CAUSE", 16, 3, .ro, c 0⟩,
    ⟨"RING", 19, 2, .ro, c 0⟩,
    ⟨"CLR", 31, 1, .wo, c 0⟩]⟩,
  ⟨"RACK_ERR_DESC", 0xB0104, [], [⟨"INDEX", 0, 16, .ro, c 0⟩]⟩]

/-- The registers of block DRAMC. -/
def rowsDramc : List RegRow := [
  ⟨"DRAMC_CTL", 0xC0000, [], [⟨"EN", 0, 1, .rw, c 0⟩,
    ⟨"INIT", 1, 1, .w1s, c 0⟩,
    ⟨"READY", 2, 1, .ro, c 0⟩,
    ⟨"CFG_BAD", 3, 1, .w1c, c 0⟩]⟩,
  ⟨"DRAMC_CFG", 0xC0004, [], [⟨"CAP", 0, 3, .rw, c 0⟩]⟩,
  ⟨"DRAMC_HASH", 0xC0010, [(7, 4)], [⟨"MASK", 0, 31, .rw, pick [0x00080804, 0x00101008, 0x00202010, 0x00404080, 0x00808100, 0x01010200, 0x02020400]⟩]⟩,
  ⟨"DRAMC_AGE", 0xC0030, [(4, 4)], [⟨"AGE_NS", 0, 16, .rw, pick [1000, 4000, 16000, 64000]⟩]⟩,
  ⟨"DRAMC_PAGE_IDLE", 0xC0040, [], [⟨"NS", 0, 12, .rw, c 200⟩]⟩,
  ⟨"DRAMC_SR_IDLE", 0xC0044, [], [⟨"US", 0, 16, .rw, c 0⟩]⟩,
  ⟨"DRAMC_FREQ_CTL", 0xC0050, [], [⟨"TARGET", 0, 1, .rw, c 0⟩,
    ⟨"GO", 1, 1, .w1s, c 0⟩,
    ⟨"ACTIVE", 2, 1, .ro, c 0⟩,
    ⟨"BUSY", 3, 1, .ro, c 0⟩,
    ⟨"PENDING", 4, 1, .ro, c 0⟩]⟩,
  ⟨"DRAMC_REFRESH_STAT", 0xC0060, [], [⟨"FALLBACK", 0, 16, .ro, c 0⟩,
    ⟨"MAXPOST", 16, 4, .ro, c 0⟩,
    ⟨"DERATE", 20, 2, .ro, c 0⟩]⟩,
  ⟨"DRAMC_CONFLICT", 0xC0064, [], [⟨"LAST_MS", 0, 24, .ro, c 0⟩,
    ⟨"WORST_CH", 24, 3, .ro, c 0⟩]⟩,
  ⟨"DRAMC_CONFLICT_LIM", 0xC0068, [], [⟨"LIM", 0, 24, .rw, c 16777215⟩]⟩,
  ⟨"DRAMC_TRAIN_STAT", 0xC006C, [], [⟨"DISCARDS", 0, 16, .ro, c 0⟩]⟩,
  ⟨"DRAMC_ECC_STAT", 0xC0070, [], [⟨"CORR", 0, 16, .ro, c 0⟩,
    ⟨"UNCORR", 16, 16, .ro, c 0⟩]⟩,
  ⟨"DRAMC_ECC_ADDR", 0xC0074, [], [⟨"BURST", 0, 31, .ro, c 0⟩]⟩,
  ⟨"DRAMC_SCRUB", 0xC0078, [], [⟨"PERIOD_S", 0, 16, .rw, c 0⟩]⟩,
  ⟨"DRAMC_OCM_ECC", 0xC007C, [], [⟨"CORR", 0, 8, .ro, c 0⟩,
    ⟨"ADDR", 8, 24, .ro, c 0⟩]⟩,
  ⟨"DRAMC_BANK_SUSPECT", 0xC0080, [(4, 4)], [⟨"SUSPECT", 0, 32, .w1c, c 0⟩]⟩,
  ⟨"DRAMC_STAT_CLR", 0xC0090, [], [⟨"CLR", 0, 1, .wo, c 0⟩]⟩,
  ⟨"DRAMC_ECC_BASE", 0xC0100, [(8, 8)], [⟨"BASE_MB", 0, 17, .rw, c 0⟩,
    ⟨"EN", 31, 1, .rw, c 0⟩]⟩,
  ⟨"DRAMC_ECC_SIZE", 0xC0104, [(8, 8)], [⟨"SIZE_MB", 0, 18, .rw, c 0⟩]⟩,
  ⟨"DRAMC_TSET_0", 0xC0200, [(2, 32)], [⟨"RATE", 0, 3, .rw, pick [6, 1]⟩,
    ⟨"RL", 8, 6, .rw, pick [40, 16]⟩,
    ⟨"WL", 14, 6, .rw, pick [20, 8]⟩]⟩,
  ⟨"DRAMC_TSET_1", 0xC0204, [(2, 32)], [⟨"tRCD", 0, 8, .rw, c 18⟩,
    ⟨"tRPpb", 8, 8, .rw, c 18⟩,
    ⟨"tRAS", 16, 8, .rw, c 42⟩,
    ⟨"tWR", 24, 8, .rw, c 34⟩]⟩,
  ⟨"DRAMC_TSET_2", 0xC0208, [(2, 32)], [⟨"tRRD", 0, 8, .rw, c 5⟩,
    ⟨"tFAW", 8, 8, .rw, c 20⟩,
    ⟨"tRFCpb", 16, 8, .rw, c 140⟩,
    ⟨"tWTR", 24, 8, .rw, c 12⟩]⟩,
  ⟨"DRAMC_TSET_3", 0xC020C, [(2, 32)], [⟨"tRFCab", 0, 10, .rw, c 280⟩,
    ⟨"tREFI", 16, 12, .rw, c 3904⟩]⟩]

/-- The registers of block PLL. -/
def rowsPll : List RegRow := [
  ⟨"PLL_CTL", 0xD0000, [(6, 256)], [⟨"EN", 0, 1, .rw, c 1⟩,
    ⟨"COMMIT", 1, 1, .w1s, c 0⟩,
    ⟨"LOCK", 2, 1, .ro, c 0⟩,
    ⟨"GATED", 3, 1, .ro, c 1⟩,
    ⟨"PENDING", 4, 1, .ro, c 0⟩,
    ⟨"REFUSED", 5, 1, .w1c, c 0⟩]⟩,
  ⟨"PLL_DIV", 0xD0010, [(6, 256), (2, 8)], [⟨"R_M1", 0, 2, .rw, c 0⟩,
    ⟨"N", 2, 9, .rw, fun i => if ix i 1 = 0 then pick [160, 200, 170, 170, 160, 200] i else if ix i 0 = 2 ∨ ix i 0 = 3 then 192 else 0⟩,
    ⟨"P_M1", 12, 12, .rw, fun i => if ix i 1 = 0 then pick [3, 19, 0, 0, 1999, 31] i else if ix i 0 = 2 ∨ ix i 0 = 3 then 2 else 0⟩]⟩,
  ⟨"PLL_FRAC", 0xD0014, [(6, 256), (2, 8)], [⟨"F", 0, 24, .rw, fun i => if ix i 1 = 0 ∧ (ix i 0 = 2 ∨ ix i 0 = 3) then 11184811 else 0⟩]⟩,
  ⟨"PLL_SSC", 0xD0020, [(6, 256)], [⟨"MODE", 0, 2, .rw, c 0⟩,
    ⟨"DEPTH", 2, 7, .rw, c 0⟩,
    ⟨"FMOD", 9, 9, .rw, c 315⟩]⟩,
  ⟨"PLL_PHASE", 0xD0024, [(6, 256)], [⟨"STEP", 0, 13, .rw, c 0⟩]⟩,
  ⟨"PLL_STAT", 0xD0028, [(6, 256)], [⟨"LOSSES", 0, 16, .ro, c 0⟩,
    ⟨"SLOT", 16, 3, .ro, c 0⟩,
    ⟨"CLR", 31, 1, .wo, c 0⟩]⟩,
  ⟨"PLL_BAND", 0xD0040, [(6, 256), (8, 4)], [⟨"FREQ_MHZ", 0, 13, .ro, c 0⟩,
    ⟨"BAND", 13, 7, .ro, c 0⟩,
    ⟨"VALID", 31, 1, .ro, c 0⟩]⟩,
  ⟨"PLL_REF_STAT", 0xD0800, [], [⟨"OK", 0, 1, .ro, c 0⟩,
    ⟨"LOST", 1, 1, .w1c, c 0⟩]⟩]

/-- The registers of block PWR. -/
def rowsPwr : List RegRow := [
  ⟨"PWR_CTL", 0xE0000, [], [⟨"SLEEP", 0, 1, .w1s, c 0⟩]⟩,
  ⟨"PWR_STAT", 0xE0004, [], [⟨"READY", 0, 1, .ro, c 0⟩,
    ⟨"SLIP", 1, 1, .w1c, c 0⟩,
    ⟨"SLIP_STEP", 2, 3, .ro, c 0⟩,
    ⟨"SLEEP_DROPPED", 5, 1, .w1c, c 0⟩]⟩,
  ⟨"PWR_IDLE", 0xE0008, [], [⟨"S", 0, 12, .rw, c 60⟩]⟩,
  ⟨"PWR_WAKE_EN", 0xE000C, [], [⟨"EN", 0, 4, .rw, c 7⟩]⟩,
  ⟨"PWR_WAKE_CAUSE", 0xE0010, [], [⟨"CAUSE", 0, 4, .ro, c 0⟩,
    ⟨"PORT", 4, 2, .ro, c 0⟩]⟩,
  ⟨"PWR_WAKE_AT", 0xE0014, [], [⟨"TIME", 0, 32, .rw, c 0⟩]⟩,
  ⟨"PWR_WAKE_VEC", 0xE0018, [], [⟨"ENTRY", 2, 16, .rw, c 0⟩]⟩,
  ⟨"PWR_BRZ_CFG", 0xE0020, [], [⟨"PERIOD_MS", 0, 10, .rw, c 100⟩,
    ⟨"CONFIRM_M1", 10, 2, .rw, c 1⟩,
    ⟨"PANEL_MASK", 12, 8, .rw, c 0⟩,
    ⟨"LUX_EN", 20, 1, .rw, c 0⟩]⟩,
  ⟨"PWR_BRZ_TWIN", 0xE0024, [], [⟨"LO", 0, 16, .rw, c 0x8000⟩,
    ⟨"HI", 16, 16, .rw, c 0x7FFE⟩]⟩,
  ⟨"PWR_BRZ_PWIN", 0xE0028, [], [⟨"LO", 0, 16, .rw, c 0x8000⟩,
    ⟨"HI", 16, 16, .rw, c 0x7FFE⟩]⟩,
  ⟨"PWR_BRZ_LUX", 0xE002C, [], [⟨"ADDR", 0, 7, .rw, c 0⟩,
    ⟨"BUS", 7, 1, .rw, c 0⟩,
    ⟨"REG", 8, 8, .rw, c 0⟩]⟩,
  ⟨"PWR_BRZ_LWIN", 0xE0030, [], [⟨"LO", 0, 16, .rw, c 0⟩,
    ⟨"HI", 16, 16, .rw, c 0xFFFF⟩]⟩,
  ⟨"PWR_OP", 0xE0100, [(16, 4)], [⟨"VCODE", 0, 6, .rw, fun i => 4 * ix i 0⟩,
    ⟨"CAP", 8, 9, .rw, c 256⟩]⟩,
  ⟨"PWR_OP_SEL", 0xE0140, [], [⟨"TARGET", 0, 4, .rw, c 10⟩,
    ⟨"ACTIVE", 4, 4, .ro, c 10⟩,
    ⟨"BUSY", 8, 1, .ro, c 0⟩,
    ⟨"LEG", 9, 2, .ro, c 0⟩,
    ⟨"VFAIL", 11, 1, .w1c, c 0⟩,
    ⟨"PENDING", 12, 1, .ro, c 0⟩]⟩,
  ⟨"PWR_AVS_CFG", 0xE0144, [], [⟨"TOL_MV", 0, 8, .rw, c 10⟩,
    ⟨"TIMEOUT_US", 8, 10, .rw, c 500⟩]⟩]

/-- The registers of block TMON. -/
def rowsTmon : List RegRow := [
  ⟨"TMON_S", 0xF0000, [(32, 4)], [⟨"TEMP", 0, 16, .ro, c 0⟩,
    ⟨"FAILED", 16, 1, .w1c, c 0⟩,
    ⟨"FAIL_KIND", 17, 2, .ro, c 0⟩]⟩,
  ⟨"TMON_EXT_CFG", 0xF0100, [(8, 8)], [⟨"ADDR", 0, 7, .rw, c 0⟩,
    ⟨"BUS", 7, 1, .rw, c 0⟩,
    ⟨"REG", 8, 8, .rw, c 0⟩,
    ⟨"SHIFT", 16, 4, .rw, c 0⟩,
    ⟨"EN", 20, 1, .rw, c 0⟩]⟩,
  ⟨"TMON_EXT", 0xF0104, [(8, 8)], [⟨"TEMP", 0, 16, .ro, c 0⟩,
    ⟨"FAILED", 16, 1, .w1c, c 0⟩]⟩,
  ⟨"TMON_THR_0", 0xF0200, [], [⟨"WARN", 0, 16, .rwl, c 12800⟩,
    ⟨"LULL1", 16, 16, .rwl, c 13568⟩]⟩,
  ⟨"TMON_THR_1", 0xF0204, [], [⟨"LULL2", 0, 16, .rwl, c 13952⟩,
    ⟨"LULL3", 16, 16, .rwl, c 14336⟩]⟩,
  ⟨"TMON_THR_2", 0xF0208, [], [⟨"LULL4", 0, 16, .rwl, c 14720⟩,
    ⟨"CRIT", 16, 16, .rwl, c 16000⟩]⟩,
  ⟨"TMON_CFG", 0xF020C, [], [⟨"HYST", 0, 12, .rwl, c 384⟩,
    ⟨"DEBOUNCE", 12, 4, .rwl, c 4⟩,
    ⟨"EXT_PERIOD_MS", 16, 10, .rw, c 100⟩,
    ⟨"BAD", 30, 1, .w1c, c 0⟩,
    ⟨"LOCK", 31, 1, .w1s, c 0⟩]⟩,
  ⟨"TMON_STAT", 0xF0210, [], [⟨"LULL", 0, 3, .ro, c 0⟩,
    ⟨"WARN", 3, 1, .ro, c 0⟩,
    ⟨"HOTTEST", 4, 5, .ro, c 0⟩,
    ⟨"T", 16, 16, .ro, c 0⟩]⟩,
  ⟨"TMON_SD_MASK", 0xF0214, [], [⟨"MASK", 0, 32, .wos, c 0⟩]⟩,
  ⟨"TMON_SD_CAUSE", 0xF0218, [], [⟨"SENSOR", 0, 5, .ro, c 0⟩,
    ⟨"VALID", 5, 1, .ro, c 0⟩,
    ⟨"FAILED", 6, 1, .ro, c 0⟩]⟩]

/-- The registers of block CAL. -/
def rowsCal : List RegRow := [
  ⟨"CAL_MODEL_BASE", 0x100000, [], [⟨"BASE", 0, 28, .rw, c 0⟩]⟩,
  ⟨"CAL_MODEL_CRC", 0x100004, [], [⟨"CRC", 0, 32, .rw, c 0⟩]⟩,
  ⟨"CAL_MODEL_CTL", 0x100008, [], [⟨"LOAD", 0, 1, .w1s, c 0⟩,
    ⟨"VALID", 1, 1, .ro, c 0⟩]⟩,
  ⟨"CAL_CFG", 0x100100, [(5, 32)], [⟨"DELTA", 0, 12, .rw, c 512⟩,
    ⟨"AUTO", 12, 1, .rw, c 1⟩,
    ⟨"RUN", 13, 1, .w1s, c 0⟩]⟩,
  ⟨"CAL_WIN", 0x100104, [(5, 32)], [⟨"MIN", 0, 16, .rw, pick [0, 0, 0, 0, 0xFFD8]⟩,
    ⟨"MAX", 16, 16, .rw, pick [63, 160, 511, 3840, 40]⟩]⟩,
  ⟨"CAL_STEP", 0x100108, [(5, 32)], [⟨"STEP", 0, 16, .rw, pick [8, 16, 12, 256, 10]⟩]⟩,
  ⟨"CAL_STAT", 0x10010C, [(5, 32)], [⟨"STATE", 0, 2, .ro, c 0⟩,
    ⟨"REFUSED", 2, 1, .ro, c 0⟩,
    ⟨"PORT", 3, 2, .ro, c 0⟩,
    ⟨"T_REF", 16, 16, .ro, c 0⟩]⟩,
  ⟨"CAL_COUNT", 0x100110, [(5, 32)], [⟨"ACCEPTS", 0, 16, .ro, c 0⟩,
    ⟨"REFUSALS", 16, 16, .ro, c 0⟩]⟩,
  ⟨"CAL_CLR", 0x100114, [(5, 32)], [⟨"CLR", 0, 1, .wo, c 0⟩]⟩]

/-- The registers of block HOST. -/
def rowsHost : List RegRow := [
  ⟨"HOST_SESSION_LO", 0x110000, [], [⟨"TAG", 0, 32, .wos, c 0⟩]⟩,
  ⟨"HOST_SESSION_HI", 0x110004, [], [⟨"TAG", 0, 32, .wos, c 0⟩]⟩,
  ⟨"HOST_SESSION_STAT", 0x110008, [], [⟨"SET", 0, 1, .ro, c 0⟩]⟩,
  ⟨"HOST_DMA_BASE_LO", 0x110100, [(4, 32)], [⟨"BASE", 0, 32, .rw, c 0⟩]⟩,
  ⟨"HOST_DMA_BASE_HI", 0x110104, [(4, 32)], [⟨"BASE", 0, 32, .rw, c 0⟩]⟩,
  ⟨"HOST_DMA_SIZE", 0x110108, [(4, 32)], [⟨"N", 0, 16, .rw, c 0⟩]⟩,
  ⟨"HOST_DMA_PTR", 0x11010C, [(4, 32)], [⟨"WPTR", 0, 16, .rw, c 0⟩,
    ⟨"RPTR", 16, 16, .ro, c 0⟩]⟩,
  ⟨"HOST_DMA_CFG", 0x110110, [(4, 32)], [⟨"EN", 0, 1, .rw, c 0⟩,
    ⟨"CLASS", 1, 2, .rw, c 3⟩,
    ⟨"ERR", 3, 1, .w1c, c 0⟩]⟩]

/-- The rows of the block that an address lies in (R378). -/
def blockRows : Nat → List RegRow
  | 0 => rowsTop
  | 1 => rowsEvt
  | 2 => rowsTb
  | 3 => rowsEth
  | 4 => rowsZl
  | 5 => rowsCodec
  | 6 => rowsPress
  | 7 => rowsSeq
  | 8 => rowsPanel
  | 9 => rowsTrl
  | 10 => rowsHvps
  | 11 => rowsRack
  | 12 => rowsDramc
  | 13 => rowsPll
  | 14 => rowsPwr
  | 15 => rowsTmon
  | 16 => rowsCal
  | 17 => rowsHost
  | _ => []

/-- The instance indexes of an offset in a register array, if it names an instance. -/
def instanceOf : List (Nat × Nat) → Nat → Option (List Nat)
  | [], 0 => some []
  | [], _ => none
  | (n, stride) :: rest, off =>
    if off / stride < n then (instanceOf rest (off % stride)).map (off / stride :: ·) else none

/-- The register at an address, with its instance indexes; none at an address that no register maps (R378). -/
def find (addr : Nat) : Option (RegRow × List Nat) :=
  (blockRows (addr >>> 16)).findSome? fun r =>
    if r.base ≤ addr then (instanceOf r.dims (addr - r.base)).map fun i => (r, i) else none

/-- The word with `v` in the bits of a field. -/
def place (lo w v : Nat) : Word := BitVec.ofNat 32 ((v % 2 ^ w) <<< lo)

/-- The reset value of the register at an address; 0 where no register is. -/
def reset (addr : Nat) : Word :=
  match find addr with
  | some (r, i) => r.fields.foldl (fun a f => a ||| place f.lo f.w (f.reset i)) 0
  | none => 0

/-- The bits of a register whose fields have one of the given access codes. -/
def mask (r : RegRow) (p : Acc → Bool) : Word :=
  r.fields.foldl (fun a f => if p f.acc then a ||| place f.lo f.w (2 ^ f.w - 1) else a) 0

end Sys2Proof.Machine.RegMap
end

