-- ==== Sys2Proof/Machine/Units.lean ====
section
/-! DEFINITION. The state of the device's units beyond their registers: plain data, one structure for each unit, with the
rules that name it. -/

namespace Sys2Proof.Machine

/-- What the device is doing: VDDAO removed (R406), held in reset (R379), loading its boot container (R380), running,
entering the Cellar, in it, in step `k` of the wake table (R352, R354, R357), or stopped by a latched shutdown (R367). -/
inductive Mode where
  | off | reset | boot | run | entry | cellar | wake (k : Nat) | shutdown
deriving DecidableEq, Repr

/-! ## Events (R392–R397) -/

/-- The event fabric beyond its registers: the MSI-X mask and PBA bits (R394), the Updraft rate budget in millionths of a
packet with the time it was last filled and the packets suppressed (R217), and the last 16 ring entries (R396). -/
structure EvtUnit where
  mask     : BitVec 64
  pba      : BitVec 64
  credit   : Nat
  creditAt : Nat
  lost     : Nat
  recent   : List (Byte × Byte × BitVec 10 × Word)
deriving DecidableEq, Repr

/-! ## Zhevlum Link (R190–R226) -/

/-- A packet waiting at an output, and how many of its cells have left (R208). -/
structure QPacket where
  ty   : BitVec 4
  up   : Bool
  data : List Byte
  sent : Nat
deriving DecidableEq, Repr

/-- A codeword of the replay buffer: when it was first sent, with the time that a remap took added, and how often
(R205, R206). -/
structure TxCodeword where
  cw      : Codeword
  firstAt : Nat
  sends   : Nat
deriving DecidableEq, Repr

/-- Training progress of one lane: locked, the last word pair with how often it came in a row, adapted (R197). -/
structure LaneTraining where
  locked  : Bool
  cap     : Word
  ident   : Word
  same    : Nat
  adapted : Bool
deriving DecidableEq, Repr

/-- Training progress of a port (R197, R198, R202, R204). `ver` is the version in force on the line and `mask` the lanes that
train; `quick` marks a retrain from kept results. `fill` is the history of the FILL sequence, `nextAt` when the next frame goes
out in 1/2,475 ns of the clock, and `markers` how many went out since mutual acceptance. -/
structure Training where
  quick       : Bool
  ver         : Nat
  mask        : Nat
  fill        : Nat
  nextAt      : Nat
  markers     : Nat
  lanes       : Vector LaneTraining 4
  accepted    : Bool
  gotAccepted : Bool
  gotAdapted  : Bool
  wakeReq     : Bool
deriving DecidableEq, Repr

/-- A time token of this port (R221): its ID and its departure. -/
structure SentToken where
  id : BitVec 8
  ns : Word
  frac : BitVec 16
deriving DecidableEq, Repr

/-- One direction of the codewords of a port: the place of the next codeword's symbol 0 among its lanes, the share of the
304,640 bits carried since the last scheduled blocks in 672nds, and the lanes whose scheduled block of this boundary has gone
or come (R191, R196). -/
structure Stripe where
  phase : Nat
  units : Nat
  blocks : Nat
deriving DecidableEq, Repr

/-- One Zhevlum Link port beyond its registers. -/
structure LinkPort where
  train    : Training
  /-- The resolved set of R201: version, dual feed, raw mode, time version. -/
  ver      : Nat
  dual     : Bool
  raw      : Bool
  timeVer  : Nat
  /-- The output queues of the three priorities, oldest first (R208, R210). -/
  q1       : List QPacket
  q2       : List QPacket
  q3       : List QPacket
  /-- Sequence number of the next new codeword, codewords begun since training, last codeword acknowledged (R192, R196). -/
  cwSeq    : BitVec 8
  cwCount  : Nat
  acked    : BitVec 8
  /-- Last codeword received in order, whether a NAK is being sent, replay parity sent and seen (R205). -/
  rxSeq    : BitVec 8
  nak      : Bool
  rpl      : Bool
  echo     : Bool
  /-- The replay buffer, oldest first, and the codewords still to be sent again (R205). -/
  replay   : List TxCodeword
  resend   : List (BitVec 8)
  /-- Cells of the packets being received, by priority, and whole packets received (R208). -/
  rx1      : Option Packet
  rx2      : Option Packet
  rx3      : Option Packet
  rxPkts   : List Packet
  /-- Corrected symbols of the last 10 µs: lane, time, count (R207). -/
  corr     : List (Nat × Nat × Nat)
  /-- Striping in either direction, the CW_COUNT of each lane's last scheduled block with its arrival, the scheduled blocks
  that each lane has missed in a row, and whether the lanes are deskewed (R191, R196). -/
  tx       : Stripe
  rx       : Stripe
  marks    : Vector (Option (BitVec 16 × Nat)) 4
  missed   : Vector Nat 4
  deskewed : Bool
  /-- A remap of the receive or transmit direction is in progress since this time; and since when any is (R206, R207). -/
  rxRemap  : Option Nat
  txRemap  : Option Nat
  paused   : Option Nat
  /-- When the last training failed; the version and lanes of the kept adaptation results (R202). -/
  failedAt : Nat
  kept     : Option (Nat × Nat)
  /-- The last 8 tokens sent, the next ID, the latest partner token with its arrival (R221, R222). -/
  tokens   : List SentToken
  tokenId  : BitVec 8
  gotToken : Option SentToken
  /-- Raw-mode credits to return (R223). -/
  credits  : Nat
deriving DecidableEq, Repr

/-- A packet held for the reassembly of a stripe (R215); `token` marks a launch token on the same stream, which takes an SSN
but carries no data of a stripe. -/
structure StripePkt where
  ssn  : Word
  token : Bool
  sos  : Bool
  eos  : Bool
  data : List Byte
deriving DecidableEq, Repr

/-- The de-duplication state of a local stream: no session, or its session, its first SSN, HIGH and the window whose bit `i`
marks SSN HIGH − i (R214); and its reassembly: packets held and SSNs lost (R215). -/
structure LocalStream where
  session : Option Byte
  first   : Word
  high    : Word
  window  : BitVec 256
  held    : List StripePkt
  lost    : List Word
deriving DecidableEq, Repr

/-- The link beyond its registers: four ports, the stream table (R211), eight local streams and that of network boot
(R214, R383), and stripes being cut into packets by a transmit entry (R213). -/
structure LinkUnit where
  port  : Vector LinkPort 4
  stab  : List (Nat × Byte)
  ls    : Vector LocalStream 8
  bootS : LocalStream
  tx    : List (Nat × List Byte × Bool)
deriving DecidableEq, Repr

/-! ## Time base (R227–R243) -/

/-- A pulse output: the first point of its grid and the next one in 1/65,536 ns, whether one is due, and the pulse in progress
with its start (R243). Its times are those of the time base with its wraps counted. -/
structure TbOut where
  origin : Int
  next  : Int
  armed : Bool
  high  : Bool
  since : Int
deriving DecidableEq, Repr

/-- The time base beyond its registers. `integ` is I of R232 in RATE units; `glNext` is X of R242; `lastMeas` is the clock of the
last measurement. `wraps` counts the wraps of NS for the model's own use: no register shows it (R240). `mapAt` is M of the committed
PTP mapping in ns, with its wraps (R247). -/
structure TimeBase where
  wraps    : Int
  ns       : Word
  frac     : Word
  integ    : Int
  swFrac   : BitVec 16
  glNext   : Int
  mapAt    : Int
  glMissed : Nat
  unread   : BitVec 4
  outs     : Vector TbOut 4
  srcLost  : Bool
  lastMeas : Nat
deriving DecidableEq, Repr

/-- An entry of a timestamp queue (R248). -/
structure Stamp where
  id         : BitVec 12
  gen        : BitVec 4
  superseded : Bool
  ns         : Word
  frac       : BitVec 16
deriving DecidableEq, Repr

/-! ## Frames (R18–R30, R139–R149) -/

/-- An entry of the view table of a frame header (R58). -/
structure ViewEntry where
  tanAz : BitVec 16
  tanEl : BitVec 16
  back  : Nat
deriving DecidableEq, Repr

/-- A frame header, its fields as R57 names them; `vw`, `vh` are the grid of R55. -/
structure FrameHeader where
  fseq   : Word
  near   : Nat
  premul : Bool
  mh     : Nat
  mv     : Nat
  w      : Nat
  h      : Nat
  base   : Nat
  shift  : Nat
  pitch  : Nat
  dist   : Nat
  invOff : Word
  invScl : Word
  views  : List ViewEntry
deriving DecidableEq, Repr

/-- Content selected for a launch (R22): the half and FRAME_SEQ of a decoded frame, or none for a dark frame; whether it has
been counted as a repeat. -/
structure Selection where
  content : Option (Bool × Word)
  hdr     : Option FrameHeader
  counted : Bool
deriving DecidableEq, Repr

/-- A frame whose slots run (R18): launch time, format in force, the next latch of the comparator 1 train (R141), whether its
last slot has ended, whether its emitters stay dark, as in a transition frame (R30, R147) or before INIT_DONE (R292), its content
(none for a dark frame), its number and the running slot number of its slot 0 (R78). -/
structure FrameRun where
  launch     : Word
  slots      : Nat
  period     : Nat
  mask       : BitVec 6
  next       : Nat
  ended      : Bool
  transition : Bool
  unlit      : Bool
  sel        : Selection
  number     : Nat
  base       : Nat
deriving DecidableEq, Repr

/-- When a commit or a clearing of HOLD landed, whether that is less than 50 µs before the launch that comparator 0 is armed for,
whether that has been counted, and whether a launch that it was late for has fired (R29, R141). -/
structure Landing where
  at_     : Word
  late    : Bool
  counted : Bool
  passed  : Bool
deriving DecidableEq, Repr

/-- A commit that waits for its launch: the staged registers, its landing, and whether HOLD was in force then (R28–R30). -/
structure Commit where
  set    : List (Nat × Word)
  land   : Landing
  inHold : Bool
deriving DecidableEq, Repr

/-- The frame engine beyond its registers. -/
structure FrameEngine where
  /-- Frames launched or dropped so far: the running frame has this number, the next one the number after it. -/
  count      : Nat
  /-- Time of the latest fire of line 0 (R22, R141). -/
  lastLaunch : Option Word
  /-- HOLD in force, a setting that waits for the end of a frame, a clearing with its landing (R29). -/
  hold       : Bool
  holdSet    : Bool
  holdClear  : Option Landing
  /-- A frame has run since reset or the last wake (R29). -/
  ranFrame   : Bool
  /-- The latest frame started since HOLD was cleared. -/
  run        : Option FrameRun
  /-- Content selected for the next launch (R22). -/
  sel        : Option Selection
  /-- FRAME_SEQ of the last frame shown (R22). -/
  shown      : Option Word
  /-- The launch of comparator 0 as armed by a token that marks a transition frame (R30, R147). -/
  transition : Bool
  commit     : Option Commit
  /-- The format in force at the latest launch: slots and layer mask (R40). -/
  mapSlots   : Nat
  mapMask    : BitVec 6
  /-- FRAME_SEQ of decoded frames whose readiness report is due (R23). -/
  reportDue  : List Word
  /-- Time of the latest report counted into NEXT (R149). -/
  nextLast   : Word
  /-- HOLD applied at this time with bands still to go through the slot 0 transition (R29, R272). -/
  holdAt     : Word
  holdBands  : BitVec 64
  /-- The last launch or HOLD tick (R274). -/
  tickBase   : Option Word
deriving DecidableEq, Repr

/-! ## Distributor and presses (R73–R123) -/

/-- What an angle latch fixed for a frame (R47, R76, R81, R99). -/
structure AngleLatch where
  number  : Nat
  hdr     : FrameHeader
  half    : Bool
  kv4     : Bool
  weight  : Nat
  rows    : List Word
  entry   : Nat
  lutBank : Bool
  vsel    : List Byte
deriving DecidableEq, Repr

/-- A band whose synthesis has begun: its running slot number, slot, frame number, the next bundle, bundles to run again
(R96), bundles finished, whether one was late (R77). -/
structure BandWork where
  run    : Nat
  band   : Nat
  frame  : Nat
  next   : Nat
  redo   : List Nat
  ended  : Nat
deriving DecidableEq, Repr

/-- The distributor: bands begun, the angle latches of the two latest frames, newest first, a copy in progress (R76). -/
structure Distributor where
  work    : List BandWork
  latches : List AngleLatch
  copying : Bool
  /-- Frames up to this number count as finished (R25). -/
  freed   : Nat
  /-- The latest band latch of each band: the running slot number that comes next (R19). -/
  latched : Vector Nat 64
  /-- Frames, by number, that have had a late band (R99, event 48). -/
  lateFrame : Option Nat
deriving DecidableEq, Repr

/-- The bundle a press runs (R73, R80): running slot, slot, its direction index, band, bundle of the band, its left hogel, its frame's number,
when it was issued, lanes written, whether its writes are discarded (R77). -/
structure Bundle where
  run     : Nat
  slot    : Nat
  dir     : Nat
  band    : Nat
  index   : Nat
  x       : Nat
  y       : Nat
  frame   : Nat
  issued  : Word
  written : BitVec 16
  discard : Bool
deriving DecidableEq, Repr

/-- A press job (R145). -/
structure PressJob where
  desc   : Nat
  entry  : Nat
  press  : Option Nat
  notify : Bool
  ticket : BitVec 16
  arg0   : Word
  arg1   : Word
deriving DecidableEq, Repr

/-- What a press does: nothing, a bundle, a job, power-gated (R97), waking (R97, R98), fenced (R96). -/
inductive PressDoes where
  | idle | bundle (b : Bundle) | job (j : PressJob) | gated | waking | fenced
deriving DecidableEq, Repr

/-- A press (R103). -/
structure Press where
  s     : Vector Word 16
  v     : Vector (Vector Word 16) 32
  p     : Vector (BitVec 16) 8
  valid : BitVec 16
  pc    : Word
  does  : PressDoes
deriving DecidableEq, Repr

/-! ## Sequencer (R130–R152) -/

/-- The state of a thread (R130, R137, R138). -/
inductive ThreadState where
  | stopped | ready | waitAt (t : Word) | waitEv (sD : BitVec 4) (deadline : Option Word) | faulted
deriving DecidableEq, Repr

/-- A sequencer thread (R130). -/
structure Thread where
  s  : Vector Word 16
  pc : Word
  st : ThreadState
deriving DecidableEq, Repr

/-- A KICK held for a release line (R144). -/
structure HeldKick where
  line   : Nat
  cls    : Nat
  arg    : Word
  ticket : BitVec 16
deriving DecidableEq, Repr

/-- The sequencer beyond its registers: threads, the thread of each priority that issued last (R131), the ticket counter (R143), held KICKs
in the order in which they landed, press jobs that wait for a press. -/
structure Sequencer where
  thr    : Vector Thread 16
  turn   : Vector Nat 4
  ticket : BitVec 16
  held   : List HeldKick
  jobs   : List PressJob
deriving DecidableEq, Repr

/-- An image being copied into place: the address of its code, its destination, its length (R127, R152). -/
structure ImageCopy where
  src : Nat
  dst : Nat
  len : Nat
deriving DecidableEq, Repr

/-- The rate monitors: each unit's operations of the window in progress, its rate and minimum, and the start of the window (R32). -/
structure RateMonitor where
  ops   : Vector Nat 83
  rate  : Vector Nat 83
  low   : Vector Nat 83
  since : Word
deriving DecidableEq, Repr

/-! ## Codec (R154–R189) and key-view store (R25, R68, R70) -/

/-- Lines of a plane of a view, or block rows times 8 for back planes (R174). -/
structure StripeRegion where
  view  : Nat
  plane : Nat
  first : Nat
  lines : Nat
deriving DecidableEq, Repr

/-- A frame whose decode has begun in a store half (R25, R70): the stripes it has taken and those decoded or substituted
(R174, R178), the coverage masks by view (R66), the views whose mask was substituted (R69), the tainted block rows as
view, plane and row (R179); `alone` marks a frame without a previous one (R180). -/
structure HalfFrame where
  hdr      : FrameHeader
  complete : Bool
  alone    : Bool
  taken    : List StripeRegion
  done     : List StripeRegion
  masks    : List (Nat × List Bool)
  lost     : List Nat
  taint    : List (Nat × Nat × Nat)
  subst    : List StripeRegion
deriving DecidableEq, Repr

/-- A stripe in the stripe queue; `clip` marks one that a play job fed, `alone` the FIRST frame of such a job (R187), `seq` is
the FRAME_SEQ that it joins, once a clip's plane stripe has one (R188). -/
structure QStripe where
  bytes : List Byte
  clip  : Bool
  alone : Bool
  seq   : Option Word
deriving DecidableEq, Repr

/-- A codec job of a lane (R180): its descriptor, lines or bytes done, output bytes written, error cause (R185). -/
structure CodecJob where
  desc    : Nat
  words   : List Word
  ticket  : BitVec 16
  line    : Nat
  out     : Nat
  cause   : Nat
  ended   : Bool
  blocked : Bool
deriving DecidableEq, Repr

/-- A codec lane: the mode in force, a stripe held while its decode is suspended (R176) with the regions that earlier stripes
of its frame had taken (R175), its jobs, first in first out; `fromNext`: the FLUSH that waits was written with no line in
progress (R183). -/
structure Lane where
  mode     : BitVec 2
  stripe   : Option QStripe
  earlier  : List StripeRegion
  jobs     : List CodecJob
  fromNext : Bool
deriving DecidableEq, Repr

/-- The codec beyond its registers: stripe queue (R174), FRAME_SEQ of the last accepted header, the header that waits for a
half (R60), the lanes, and the frames of the two store halves. -/
structure Codec where
  queue   : List QStripe
  lastSeq : Option Word
  /-- The next header passes R60 whatever its FRAME_SEQ (R188). -/
  anySeq  : Bool
  /-- The half in which a decode began last; none if that frame was abandoned (R60, R188). -/
  started : Option Bool
  /-- The tainted block rows: view, plane, row (R179). -/
  taint   : List (Nat × Nat × Nat)
  waiting : Option (FrameHeader × Bool)
  lanes   : Vector Lane 32
  halves  : Vector (Option HalfFrame) 2
  /-- The coverage of back-plane block rows that an encoder wrote to a reconstruction set, by their address (R165, R182). -/
  covers  : List (Nat × List Bool)
deriving DecidableEq, Repr

/-! ## Boot and host (R379–R391) -/

/-- The fuse array by field (R385). -/
structure Fuses where
  grade    : BitVec 2
  authEn   : Bool
  jtagLock : Bool
  keyHash  : BitVec 384
  rollback : BitVec 64
  pciVid   : BitVec 16
  user     : BitVec 1024
  trims    : BitVec 536
deriving DecidableEq, Repr

/-- The loader: BOOTSEL as sampled, whether it waits for a container and since when on the clock, whether the boot under
BOOTSEL 011 has fallen back to the network, the bytes that a network load has staged and the SSN that it appends next, and
whether a whole container is staged (R379–R384). -/
structure Loader where
  bootsel  : BitVec 3
  waiting  : Bool
  since    : Nat
  fallback : Bool
  staged   : Nat
  next     : Word
  whole    : Bool
deriving DecidableEq, Repr

/-! ## Trellis and gate-on-array (R264, R265, R280–R292) -/

/-- The level of a Trellis output: 0 V, +VSP, −VSN, high impedance, or the compensation stage at a signed mV (R280, R290). -/
inductive TrlLevel where
  | zero | vsp | vsn | hiz | comp (mv : Int)
deriving DecidableEq, Repr

/-- A Trellis output: its ledger in mV·ns with the time up to which it counts (R289), the level it drives and the one it rests
at, the phases of the waveform left, the one in progress first, with the end of that one, how many have ended (R283), the phases of the
first waveform where two make a balanced pair (R300), whether it is in compensation (R290), bad waveforms in a row (open, short) and a
balanced pair that is due (R300). -/
structure TrlOut where
  acc    : Int
  since  : Word
  level  : TrlLevel
  rest   : TrlLevel
  phases : List (TrlLevel × Nat)
  ends   : Word
  done   : Nat
  second : Nat
  inComp : Bool
  open_  : Nat
  short  : Nat
  pair   : Bool
deriving DecidableEq, Repr

/-- One of the three registers on glass (R264): whether its second clock pulses next, and the pulse in progress, with its clock
(the second of the pair), whether the start input is high with it, and its end. -/
structure GoaReg where
  second : Bool
  pulse  : Option (Bool × Bool × Word)
deriving DecidableEq, Repr

/-- The gate-on-array outputs but for GOA_DIS (R264, R298): whether GOA_CK stand at VGL and VGH and not at 0 V; the scan, the dark
and the light register. -/
structure Goa where
  on    : Bool
  scan  : GoaReg
  dark  : GoaReg
  light : GoaReg
deriving DecidableEq, Repr

/-- The gate-on-array timing of a band (R265, R272, R274): the light-register stage, whether the band is in its dark time,
the latest latch L with the slot period and settle that go with it, whether that slot is the frame's last; the dark shift,
the light shift E, the SCAN and the SCAN with RESCAN that are due, the dark shift before slot 0 already made; scan pulses left, the
next row and its instant. -/
structure BandDrive where
  lit     : Bool
  dark    : Bool
  latch   : Word
  period  : Nat
  settle  : Nat
  final   : Bool
  darkAt  : Option Word
  lightAt : Option Word
  scanAt  : Option Word
  rescanAt : Option Word
  dark0   : Option Word
  scanned : Word
  row     : Nat
  rows    : Nat
  rowAt   : Word
deriving DecidableEq, Repr

/-- The Trellis drive beyond its registers: outputs numbered 6b + l, state words, bands, the initialisation pass in progress
with its start, the bands still to come and its end once band 63 has started (R292), the events of R288 already raised in this frame, the bands that stay dark
for a fault (R300), the gate-on-array outputs (R264). -/
structure TrellisUnit where
  outs    : Vector TrlOut 384
  word    : Vector (BitVec 6) 64
  bands   : Vector BandDrive 64
  pass    : Nat
  passAt  : Word
  passDue : BitVec 64
  passEnd : Word
  truncEv : Bool
  darkEv  : Bool
  blanked : BitVec 64
  goa     : Goa
deriving DecidableEq, Repr

/-- The high-voltage supplies beyond their registers (R294–R299): the start of the sequence in progress, the next of its
instants, outputs being settled since a time, restarts used, whether a brown-out waits for recovery, whether a fault ends
the sequence in state 5, whether this power-on follows a wake, whether the supplies hold GOA_DIS high, the clock reading at the end of
the latest power-off. -/
structure Hvps where
  start    : Word
  step     : Nat
  settle   : Option Word
  restarts : Nat
  brown    : Bool
  faulted  : Bool
  noInit   : Bool
  dis      : Bool
  offAt    : Nat
deriving DecidableEq, Repr

/-! ## Panel (R253–R275) -/

/-- A lane of a panel port: its driver's capability word, lock at the rate in force, a retrain of this lane alone (R269),
the band line in progress (running slot, band, blocks sent), band lines sent whole, LATCH blocks missed with their FILL (R270);
control blocks that wait for a block boundary with their place in the order of R258, the next boundary in 1/1,000 ns of the clock,
the last 58 scrambled bits, oldest least significant (R262), the clock reading at its driver's latest LOCK message (R263). -/
structure PanelLane where
  cap    : Option (BitVec 13)
  locked : Bool
  down   : Bool
  line   : Option (Nat × Nat × Nat)
  whole  : List (Nat × Nat)
  missed : List (Nat × Bool)
  wait   : List (Nat × BitVec 64)
  freeAt : Nat
  scr    : BitVec 58
  lockAt : Nat
deriving DecidableEq, Repr

/-- A panel port: lanes left out of negotiation, the version and rate resolved, countdown groups still to be sent, the rate switched
(R254, R262); the PRBS31 history of its training pattern and the start of its next training group in 1/1,000 ns of the clock; the
clock reading at the latest back-channel message (R263). -/
structure PanelPort where
  lanes    : Vector PanelLane 8
  out_     : BitVec 8
  resolved : Option (Nat × Nat)
  left     : Nat
  switched : Bool
  fill     : Nat
  nextAt   : Nat
  heardAt  : Nat
deriving DecidableEq, Repr

/-- A command push (R275): source, pitch, X, Y, W, H as latched at GO, and the time its last block left; none before. -/
structure CmdPush where
  src   : Nat
  pitch : Nat
  x     : Nat
  y     : Nat
  w     : Nat
  h     : Nat
  ecc   : List EccHit
  held  : Bool
  sent  : Option Word
deriving DecidableEq, Repr

/-- The panel beyond its registers: ports, blink regions that are off, a BLINK_CNT write that waits for a launch (R273), the
command push. -/
structure PanelUnit where
  ports  : Vector PanelPort 4
  off    : BitVec 16
  blink  : Option Word
  push   : Option CmdPush
deriving DecidableEq, Repr

/-! ## Racking (R304–R319) -/

/-- A Racking ring: the latched descriptors with their ring indexes, oldest first (R305), and the tags of complete descriptors
whose RETIRE is due (R307). -/
structure RackRing where
  queue : List (Nat × List Word)
  due   : List Nat
deriving DecidableEq, Repr

/-- The Racking engine: its rings, and the ring from which it took a descriptor last (R305). -/
structure RackUnit where
  rings : Vector RackRing 4
  turn  : Nat
deriving DecidableEq, Repr

/-! ## DRAM controller (R324–R340) -/

/-- A request that waits at its unit (R325, R328): source, class, address, what it asks for, the errors its reads will meet, when
it was issued, whether it is promoted. -/
structure DramReq where
  src      : DramSource
  cls      : Nat
  addr     : Nat
  op       : DramOp
  ecc      : List EccHit
  issued   : Word
  promoted : Bool
deriving DecidableEq, Repr

/-- The DRAM controller beyond its registers: requests that wait, in the order of issue; per channel the requests served since a
promoted one (R328); open rows by 16·channel + bank with their last access (R331); page misses of the running millisecond by
channel and its start (R330); refreshes postponed and the next bank in rotation by channel, the derating each asks for (R332);
self-refresh and an entry into it whose command is not yet issued, the last request, the entry count of the sentinels (R333,
R338); the frequency change in progress with its start and its target (R335); training steps gathered and the latest by
channel (R336); the banks that are due a scrub (R338). -/
structure DramUnit where
  queue    : List DramReq
  served   : Vector Nat 8
  rows     : List (Nat × Nat × Word)
  misses   : Vector Nat 8
  missAt   : Word
  owed     : Vector Nat 8
  turn     : Vector Nat 8
  derate   : Vector Nat 8
  asleep   : Bool
  entering : Bool
  lastReq  : Word
  entries  : Word
  change   : Option (Word × Bool)
  steps    : Nat
  stepAt   : Vector (Option Word) 8
  scrubDue : List Nat
deriving DecidableEq, Repr

/-! ## PLLs (R341–R351) -/

/-- A PLL beyond its registers: its band slots, least recently used first; whether a relock is in progress and whether it ends
a commit (R343, R348); the phase steps outstanding (R346). -/
structure Pll where
  lru    : List Nat
  relock : Bool
  commit : Bool
  steps  : Int
deriving DecidableEq, Repr

/-! ## Power (R352–R362) -/

/-- The power control beyond its registers: the clock reading at which the idle timer restarted; a Cellar entry that waits for
the end of a frame (R354); wake sources of an entry, with the port (R359); an armed alarm (R355); patrols in a row that
breached a window or met CRIT (R356); the start of the entry or wake step in progress; the operating point to which a
transition goes, the cap and the voltage code in force, the code being set and since when, the reads in a row within
tolerance, whether the last transition failed (R361, R362), whether a TARGET waits for READY (R359), whether the wake step in progress
has overrun (R358). -/
structure PowerUnit where
  idleFrom : Nat
  entryDue : Bool
  sources  : BitVec 4
  port     : Nat
  alarm    : Bool
  breaches : Nat
  crits    : Nat
  start    : Nat
  goal     : Nat
  cap      : Nat
  vcode    : Nat
  vgoal    : Nat
  voltAt   : Nat
  good     : Nat
  failed   : Bool
  targetDue : Bool
  slipped  : Bool
deriving DecidableEq, Repr

/-! ## Calibration (R372–R377) -/

/-- A calibration domain beyond its registers, by port: measurements in progress, values accepted, values applied and the
targets toward which they move (R372–R375); the clock reading at which an application began or made its latest step, and for the
angle interpolation the frame of that step, by its number and its launch or tick (R49). -/
structure CalDomain where
  measuring : List Nat
  accepted  : List (Nat × List Int)
  applied   : List (Nat × List Int)
  target    : List (Nat × List Int)
  stepAt    : Nat
  stepFrame : Option (Nat × Option Word)
deriving DecidableEq, Repr

/-! ## What leaves the device -/

/-- Edges of the gate-on-array outputs (R264). -/
inductive GoaEdge where
  | dark | light | scan (row : Nat)
deriving DecidableEq, Repr

/-- What the device sends or drives outward; the model's own record of it, newest first. -/
inductive Out where
  /-- An MSI-X message (R394). -/
  | msi (vector : Nat)
  /-- Unit intervals on a lane of a link port: bits, or PAM4 levels at ZL3 (R195). -/
  | line (p : Nat) (lane : Nat) (levels : List (BitVec 2))
  /-- A frame on an Ethernet port, its FCS at the end (R246). -/
  | ethFrame (p : Nat) (bytes : List Byte)
  /-- A 64b/66b block on a lane of a panel port: control or data, its 64 payload bits, and those bits scrambled as they go out,
  bit 0 first (R256, R262). -/
  | panel (p : Nat) (lane : Nat) (control : Bool) (payload : BitVec 64) (scrambled : BitVec 64)
  /-- A gate-on-array edge for a band (R265). -/
  | goa (band : Nat) (edge : GoaEdge)
  /-- GOA_CK[7:0] and GOA_STV from now on, high at VGH and low at VGL; none while they stand at 0 V (R264, R298). -/
  | goaLines (high : Option (BitVec 8 × Bool))
deriving DecidableEq, Repr

end Sys2Proof.Machine
end

