-- ==== Sys2Proof/Machine/State.lean ====
section
/-! DEFINITION. The state of the Falerator 8 as plain data, the reasons a step can stop, and the state after reset. -/

namespace Sys2Proof.Machine

/-- The reasons for a fault. The manual gives every command of its table an effect and the block has no exception entry,
so no meaning raises one: what the manual calls a fault sets status bits and raises events, and the device goes on. -/
inductive Fault where
deriving DecidableEq, Repr

/-- The reasons for a refusal. -/
inductive Refusal where
  /-- Raised by an arm of `exec` whose command has no meaning yet. Safe: nothing can be proved of a next state. -/
  | notModelled (mnemonic : String)
deriving DecidableEq, Repr

/-- The state of the device. `regs` lists the registers that differ from their reset values (R11, R379), `act` the active
copies of shadowed and pending registers that differ from them (R27, R42, R247, R285, R343), `wos` the write-once
registers written since VDDAO rose (R11). `free` counts the free values drawn, `rdata` is the data of the last register
read and `out` records what left the device: these three are the model's own, as is
`clock`, the nanoseconds since VDDAO rose, by which timers longer than the time base run. -/
structure State where
  mode    : Mode
  regs    : List (Nat × Word)
  act     : List (Nat × Word)
  wos     : List Nat
  mem     : Mem
  free    : Nat
  rdata   : Word
  out     : List Out
  eventN  : Bool
  evt     : EvtUnit
  link    : LinkUnit
  tb      : TimeBase
  tsq     : Vector (List Stamp) 2
  frm     : FrameEngine
  dist    : Distributor
  press   : Vector Press 48
  imgP    : Option ImageCopy
  imgS    : Option ImageCopy
  lut     : Vector (List (Nat × Nat)) 2
  seq     : Sequencer
  rmon    : RateMonitor
  trl     : TrellisUnit
  hv      : Hvps
  panel   : PanelUnit
  rack    : RackUnit
  codec   : Codec
  fuses   : Fuses
  sensed  : Fuses
  pins    : BitVec 3
  loader  : Loader
  pcieUp  : Bool
  clock   : Nat
  dram    : DramUnit
  pll     : Vector Pll 6
  pwr     : PowerUnit
  therm   : Vector (Bool × Nat) 6
  cal     : Vector CalDomain 5
  pending : List Instr
deriving DecidableEq, Repr

/-- A lane before any training frame (R197). -/
def LaneTraining.reset : LaneTraining := ⟨false, 0, 0, 0, false⟩

/-- A port before training: its first training is a full one at ZL1 (R197, R202). -/
def Training.reset : Training := ⟨false, 0, 0, 2 ^ 31 - 1, 0, 0, Vector.replicate 4 LaneTraining.reset, false, false, false, false⟩

/-- A direction of codewords that starts on its lowest-numbered lane (R191). -/
def Stripe.reset : Stripe := ⟨0, 0, 0⟩

/-- A link port after reset: down, codeword 255 the last one in either direction, so that CW_SEQ starts at 0 (R197). -/
def LinkPort.reset : LinkPort where
  train := Training.reset
  ver := 0
  dual := false
  raw := false
  timeVer := 0
  q1 := []
  q2 := []
  q3 := []
  cwSeq := 0
  cwCount := 0
  acked := 255
  rxSeq := 255
  nak := false
  rpl := false
  echo := false
  replay := []
  resend := []
  rx1 := none
  rx2 := none
  rx3 := none
  rxPkts := []
  corr := []
  tx := Stripe.reset
  rx := Stripe.reset
  marks := Vector.replicate 4 none
  missed := Vector.replicate 4 0
  deskewed := false
  rxRemap := none
  txRemap := none
  paused := none
  failedAt := 0
  kept := none
  tokens := []
  tokenId := 0
  gotToken := none
  credits := 0

/-- A local stream that holds no session (R214). -/
def LocalStream.reset : LocalStream := ⟨none, 0, 0, 0, [], []⟩

/-- The frame engine after reset: HOLD in force (R27) and no frame yet. -/
def FrameEngine.reset : FrameEngine where
  count := 0
  lastLaunch := none
  hold := true
  holdSet := false
  holdClear := none
  ranFrame := false
  run := none
  sel := none
  shown := none
  transition := false
  commit := none
  mapSlots := 64
  mapMask := 0b111111
  reportDue := []
  nextLast := 0
  holdAt := 0
  holdBands := 0
  tickBase := none

/-- A press after reset: its registers at 0 (DESIGN CHOICE, log 4: the manual calls them undefined at power-up, R80). -/
def Press.reset : Press :=
  ⟨Vector.replicate 16 0, Vector.replicate 32 (Vector.replicate 16 0), Vector.replicate 8 0, 0, 0, .idle⟩

/-- A thread after reset: stopped (R130), its registers at 0 (DESIGN CHOICE, log 4). -/
def Thread.reset : Thread := ⟨Vector.replicate 16 0, 0, .stopped⟩

/-- A Trellis output at the first power-up: high impedance, ledger 0 (R292, R298). -/
def TrlOut.reset : TrlOut := ⟨0, 0, .hiz, .hiz, [], 0, 0, 0, false, 0, 0, false⟩

/-- A band after reset: not lit, dark, nothing due; the state of its light-register stage before a first dark pass is a
DESIGN CHOICE (log 4). -/
def BandDrive.reset : BandDrive := ⟨false, true, 0, 0, 0, false, none, none, none, none, none, 0, 0, 0, 0⟩

/-- A register on glass whose first clock pulses next. -/
def GoaReg.reset : GoaReg := ⟨false, none⟩

/-- The gate-on-array outputs after reset: at 0 V (R298); each pair starts with its lower clock (DESIGN CHOICE, log 4). -/
def Goa.reset : Goa := ⟨false, GoaReg.reset, GoaReg.reset, GoaReg.reset⟩

/-- The Trellis after reset: every layer in state 0 (DESIGN CHOICE, log 4: undefined until initialised, R292). -/
def TrellisUnit.reset : TrellisUnit :=
  ⟨Vector.replicate 384 TrlOut.reset, Vector.replicate 64 0, Vector.replicate 64 BandDrive.reset, 0, 0, 0, 0, false, false, 0,
    Goa.reset⟩

/-- A panel lane before its driver reports. -/
def PanelLane.reset : PanelLane := ⟨none, false, false, none, [], [], [], 0, 0, 0⟩

/-- A panel port before negotiation. -/
def PanelPort.reset : PanelPort := ⟨Vector.replicate 8 PanelLane.reset, 0, none, 0, false, 0, 0, 0⟩

/-- The fuse array of a part of grade E with every other fuse unprogrammed (DESIGN CHOICE, log 4). -/
def Fuses.blank : Fuses := ⟨1, false, false, 0, 0, 0, 0, 0⟩

/-- The DRAM controller before its initialisation. -/
def DramUnit.reset : DramUnit :=
  ⟨[], Vector.replicate 8 0, [], Vector.replicate 8 0, 0, Vector.replicate 8 0, Vector.replicate 8 0, Vector.replicate 8 0,
    false, false, 0, 0, none, 0, Vector.replicate 8 none, []⟩

/-- The power control after reset: operating point 10 (R360). -/
def PowerUnit.reset : PowerUnit := ⟨0, false, 0, 0, false, 0, 0, 0, 10, 256, 40, 40, 0, 0, false, false, false⟩

/-- The device right after reset, RESET_N not yet released (R379): registers at their reset values, HOLD in force, memory
with nothing listed, no command waiting. -/
def State.reset : State where
  mode := .reset
  regs := []
  act := []
  wos := []
  mem := Mem.empty
  free := 0
  rdata := 0
  out := []
  eventN := false
  evt := ⟨BitVec.allOnes 64, 0, 16000000, 0, 0, []⟩
  link := ⟨Vector.replicate 4 LinkPort.reset, [], Vector.replicate 8 LocalStream.reset, LocalStream.reset, []⟩
  tb := ⟨0, 0, 0, 0, 0, 0, 0, 0, 0, Vector.replicate 4 ⟨0, 0, false, false, 0⟩, false, 0⟩
  tsq := Vector.replicate 2 []
  frm := FrameEngine.reset
  dist := ⟨[], [], false, 0, Vector.replicate 64 0, none⟩
  press := Vector.replicate 48 Press.reset
  imgP := none
  imgS := none
  lut := Vector.replicate 2 []
  seq := ⟨Vector.replicate 16 Thread.reset, Vector.replicate 4 0, 0, [], []⟩
  rmon := ⟨Vector.replicate 83 0, Vector.replicate 83 0, Vector.replicate 83 0xFFFFFF, 0⟩
  trl := TrellisUnit.reset
  hv := ⟨0, 0, none, 0, false, false, false, true, 0⟩
  panel := ⟨Vector.replicate 4 PanelPort.reset, 0, none, none⟩
  rack := ⟨Vector.replicate 4 ⟨[], []⟩, 3⟩
  codec := ⟨[], none, false, none, [], none, Vector.replicate 32 ⟨0, none, [], [], false⟩, Vector.replicate 2 none, []⟩
  fuses := Fuses.blank
  sensed := Fuses.blank
  pins := 0
  loader := ⟨0, false, 0, false, 0, 0, false⟩
  pcieUp := false
  clock := 0
  dram := DramUnit.reset
  pll := Vector.replicate 6 ⟨List.range 8, false, false, 0⟩
  pwr := PowerUnit.reset
  therm := Vector.replicate 6 (false, 0)
  cal := Vector.replicate 5 ⟨[], [], [], [], 0, none⟩
  pending := []

end Sys2Proof.Machine
end

