-- ==== Sys2Proof/Machine/Ops.lean ====
section
/-! DEFINITION. The named operations over registers, memory, time and free values that every meaning uses. -/

namespace Sys2Proof.Machine

/-! ## Registers -/

/-- The mask of a field in its register. -/
def Field.mask (f : Field) : Word := BitVec.ofNat 32 ((2 ^ f.w - 1) <<< f.lo)

/-- The number that a field of a register word holds. -/
def Field.of (f : Field) (w : Word) : Nat := (w.toNat >>> f.lo) % 2 ^ f.w

/-- The register word with a number in a field, its other bits kept. -/
def Field.into (f : Field) (v : Nat) (w : Word) : Word := (w &&& ~~~f.mask) ||| (RegMap.place f.lo f.w v)

/-- The register word at an address (the reset value where nothing else is listed). -/
def State.reg (s : State) (a : Nat) : Word := assocGet (RegMap.reset a) a s.regs

/-- The state with a register word set. -/
def State.setReg (s : State) (a : Nat) (w : Word) : State := { s with regs := assocSet (RegMap.reset a) a w s.regs }

/-- The number a field holds. -/
def State.get (s : State) (f : Field) : Nat := f.of (s.reg f.addr)

/-- The signed number a field holds. -/
def State.getS (s : State) (f : Field) : Int := (BitVec.ofNat f.w (s.get f)).toInt

/-- Whether a field is not 0. -/
def State.bit (s : State) (f : Field) : Bool := s.get f != 0

/-- A field as a 32-bit word. -/
def State.getW (s : State) (f : Field) : Word := BitVec.ofNat 32 (s.get f)

/-- The state with a number put into a field. -/
def State.put (s : State) (f : Field) (v : Nat) : State := s.setReg f.addr (f.into v (s.reg f.addr))

/-- The state with a bit field set or cleared. -/
def State.putB (s : State) (f : Field) (b : Bool) : State := s.put f b.toNat

/-- The state with a signed number put into a field. -/
def State.putS (s : State) (f : Field) (v : Int) : State := s.put f (BitVec.ofInt f.w v).toNat

/-- A counter that saturates, `n` higher. -/
def State.countBy (s : State) (f : Field) (n : Nat) : State := s.put f (min (s.get f + n) (2 ^ f.w - 1))

/-- A counter that saturates, one higher. -/
def State.count (s : State) (f : Field) : State := s.countBy f 1

/-- A counter that wraps, one higher. -/
def State.wrapCount (s : State) (f : Field) : State := s.put f (s.get f + 1)

/-- The active copy of a shadowed register (R27, R42). -/
def State.actReg (s : State) (a : Nat) : Word := assocGet (RegMap.reset a) a s.act

/-- The state with the active copy of a shadowed register set. -/
def State.setAct (s : State) (a : Nat) (w : Word) : State := { s with act := assocSet (RegMap.reset a) a w s.act }

/-- The number that the active copy of a field holds. -/
def State.actGet (s : State) (f : Field) : Nat := f.of (s.actReg f.addr)

/-- The state with the active copies of the listed registers taken from their shadows. -/
def State.activate (s : State) (addrs : List Nat) : State := addrs.foldl (fun t a => t.setAct a (t.reg a)) s

/-- The target for which comparator `c` was armed (R139, R140): a write of TARGET alone does not move it (DEDUCED, log 17). -/
def State.target (s : State) (c : Nat) : Word := s.actReg (F.SEQ_LC_TIME_addr c)

/-! ## Time -/

/-- The nanosecond field of the time base (R137). -/
def State.now (s : State) : Word := s.tb.ns

/-- The signed difference (time base − `t`) is 0 or more (R137). -/
def State.reached (s : State) (t : Word) : Bool := decide (0 ≤ sdiff s.tb.ns t)

/-- Nanoseconds since `t`, on the wrapping time base. -/
def State.since (s : State) (t : Word) : Nat := (s.tb.ns - t).toNat

/-- The time base in 1/65,536 ns: the bits that registers, stamps and captures show (R227). -/
def State.now48 (s : State) : BitVec 48 := s.tb.ns ++ s.tb.frac.extractLsb' 16 16

/-- A value of nanoseconds with 16 fraction bits. -/
def ns48 (ns : Nat) (frac : Nat) : BitVec 48 := BitVec.ofNat 48 (ns * 65536 + frac)

/-- The time base in 1/65,536 ns with its wraps counted. -/
def State.nowWide (s : State) : Int := s.tb.wraps * 2 ^ 48 + s.now48.toNat

/-- The instant nearest to the present that `t` of the time base names, with its wraps counted. -/
def State.wide (s : State) (t : BitVec 48) : Int := s.nowWide + (t - s.now48).toInt

/-- The applied correction for the PHY of a link port 0–3 or an Ethernet port 4 or 5, in 1/65,536 ns: the result of domain 1 is in
1/16 ns (R221, R245, R372). -/
def State.phyDelay (s : State) (port : Nat) : Int := (assocGet [] port s.cal[1].applied).headD 0 * 4096

/-! ## Power -/

/-- The logic runs: loading, running, entering the Cellar or waking from it. -/
def State.up (s : State) : Bool :=
  match s.mode with
  | .boot | .run | .entry | .wake _ => true
  | _ => false

/-- The always-on island runs: also in the Cellar (R352). -/
def State.alwaysOn (s : State) : Bool := s.up || s.mode == .cellar

/-- A meaning of the logic: it acts while the logic runs, and the command passes without effect otherwise. -/
def State.ifUp (s : State) (f : State → State) : Host.Outcome State Fault Refusal := .next (if s.up then f s else s)

/-- A meaning of the always-on island. -/
def State.ifOn (s : State) (f : State → State) : Host.Outcome State Fault Refusal :=
  .next (if s.alwaysOn then f s else s)

/-- The state after a happening whose condition holds; unchanged where it does not hold. -/
def State.when (s : State) (c : Bool) (f : State → State) : State := if c then f s else s

/-! ## Memory -/

/-- The on-chip SRAM holds `n` bytes from address `a` (R320). -/
def onChip (a n : Nat) : Bool := decide (0x01000000 ≤ a ∧ a + n ≤ 0x07000000)

/-- A word of memory. -/
def State.word (s : State) (a : Nat) : Word := s.mem.readWord a

/-- `n` bytes from `a` meet the Trellis ledger region, which only the Trellis drive writes (R320, R321). -/
def meetsLedgers (a n : Nat) : Bool := decide (a < 0x06990000 ∧ 0x06980000 < a + n)

/-- Bytes written to memory one by one, those for the Trellis ledger region left out. -/
def State.storeOpen (s : State) (a : Nat) : List Byte → State
  | [] => s
  | b :: bs => State.storeOpen (if meetsLedgers a 1 then s else { s with mem := s.mem.writeByte a b }) (a + 1) bs

/-- The state with bytes written to memory, the Trellis ledger region kept (R321). -/
def State.store (s : State) (a : Nat) (bs : List Byte) : State :=
  if meetsLedgers a bs.length then s.storeOpen a bs else { s with mem := s.mem.writeBytes a bs }

/-- The state with a word written to memory. -/
def State.storeWord (s : State) (a : Nat) (w : Word) : State := s.store a (bytesOfNat 4 w.toNat)

/-- The state with a region of memory undefined. -/
def State.lose (s : State) (lo hi : Nat) : State := { s with mem := s.mem.undefine lo hi s.free, free := s.free + 1 }

/-! ## Free values and records -/

/-- A free word and the state that has drawn it. -/
def State.draw (s : State) : Word × State := (Config.freeWord s.free, { s with free := s.free + 1 })

/-- The state after something has left the device. -/
def State.emit (s : State) (o : Out) : State := { s with out := o :: s.out }

/-- The idle timer restarts (R353). -/
def State.restartIdle (s : State) : State := { s with pwr := { s.pwr with idleFrom := s.clock } }

/-- Unit `u` of the rate monitors completes `n` operations (R32, R33). -/
def State.countOps (s : State) (u : Fin 83) (n : Nat) : State :=
  { s with rmon := { s.rmon with ops := s.rmon.ops.set u (s.rmon.ops[u] + n) } }

/-! ## Units -/

/-- The state with one link port changed. -/
def State.onPort (s : State) (p : Fin 4) (f : LinkPort → LinkPort) : State :=
  { s with link := { s.link with port := s.link.port.set p (f s.link.port[p]) } }

/-- The state with one press changed. -/
def State.onPress (s : State) (n : Fin 48) (f : Press → Press) : State :=
  { s with press := s.press.set n (f s.press[n]) }

/-- The state with one thread changed. -/
def State.onThread (s : State) (t : Fin 16) (f : Thread → Thread) : State :=
  { s with seq := { s.seq with thr := s.seq.thr.set t (f s.seq.thr[t]) } }

/-- The state with one codec lane changed. -/
def State.onLane (s : State) (n : Fin 32) (f : Lane → Lane) : State :=
  { s with codec := { s.codec with lanes := s.codec.lanes.set n (f s.codec.lanes[n]) } }

/-- The state with a store half's frame changed. -/
def State.setHalf (s : State) (h : Bool) (x : Option HalfFrame) : State :=
  { s with codec := { s.codec with halves := s.codec.halves.set h.toNat x (by cases h <;> decide) } }

/-- The frame of a store half. -/
def State.half (s : State) (h : Bool) : Option HalfFrame := s.codec.halves[h.toNat]'(by cases h <;> decide)

end Sys2Proof.Machine
end

