-- ==== Sys2Proof/Machine/Events.lean ====
section
/-! DEFINITION. The event fabric (R392–R397): raising, clearing and delivering a source; the Updraft path of event packets
(R217) with the routing by tile address (R212) and the output queues of the link (R208, R210); the ring at the hub (R396). -/

namespace Sys2Proof.Machine

/-! ## Source numbers (R392) -/

/-- Source `k` of link port `p`. -/
def srcLink (p k : Nat) : Nat := 48 * p + k
/-- Source `k` of codec lane `n`. -/
def srcLane (n k : Nat) : Nat := 192 + 4 * n + k
/-- Press event `k`. -/
def srcPress (k : Nat) : Nat := 320 + k
/-- DRAM event `k`. -/
def srcDram (k : Nat) : Nat := 416 + k
/-- Trellis event `k`. -/
def srcTrl (k : Nat) : Nat := 512 + k
/-- Event `k` of panel port `p`. -/
def srcPanel (p k : Nat) : Nat := 576 + 16 * p + k
/-- Thermal event `k`. -/
def srcTherm (k : Nat) : Nat := 640 + k
/-- Event `k` of Ethernet port `p`. -/
def srcEth (p k : Nat) : Nat := 720 + 24 * p + k
/-- Event `k` of PLL `n`. -/
def srcPll (n k : Nat) : Nat := 768 + 8 * n + k
/-- PCIe event `k`. -/
def srcPcie (k : Nat) : Nat := 816 + k
/-- Sequencer event `k`. -/
def srcSeq (k : Nat) : Nat := 848 + k
/-- High-voltage supply event `k`. -/
def srcHvps (k : Nat) : Nat := 880 + k
/-- Time-base event `k`. -/
def srcTb (k : Nat) : Nat := 912 + k
/-- Calibration event `k`. -/
def srcCal (k : Nat) : Nat := 936 + k
/-- Racking event `k`. -/
def srcRack (k : Nat) : Nat := 960 + k
/-- Power event `k`. -/
def srcPwr (k : Nat) : Nat := 976 + k
/-- Boot and security event `k`. -/
def srcBoot (k : Nat) : Nat := 992 + k
/-- Host interface event `k`. -/
def srcHost (k : Nat) : Nat := 1008 + k

/-! ## Status, enable, active -/

/-- The bit of a source in its group's registers. -/
def evBit (n : Nat) : Word := 1#32 <<< (n % 32)

/-- The status bit of source `n`. -/
def State.evStatus (s : State) (n : Nat) : Bool := (s.reg (F.EVT_STAT_addr (n / 32))).getLsbD (n % 32)

/-- The enable bit of source `n`. -/
def State.evEnabled (s : State) (n : Nat) : Bool := (s.reg (F.EVT_EN_addr (n / 32))).getLsbD (n % 32)

/-- Source `n` is active (R394). -/
def State.evActive (s : State) (n : Nat) : Bool := s.evStatus n && s.evEnabled n

/-- The sources of a group that are active. -/
def State.evGroup (s : State) (g : Nat) : Word := s.reg (F.EVT_STAT_addr g) &&& s.reg (F.EVT_EN_addr g)

/-- A source whose route has PIN set is active (R394). -/
def State.pinActive (s : State) : Bool :=
  (List.range 32).any fun g => s.evGroup g != 0 &&
    (List.range 32).any fun i => (s.evGroup g).getLsbD i && s.bit (F.EVT_ROUTE_PIN (32 * g + i))

/-- The lowest active source routed to thread `t` (R138). -/
def State.evFor (s : State) (t : Nat) : Option Nat :=
  (List.range 32).findSome? fun g => if s.evGroup g = 0 then none else
    (List.range 32).findSome? fun i =>
      if (s.evGroup g).getLsbD i && (s.reg (F.EVT_ROUTE_addr (32 * g + i))).getLsbD t then some (32 * g + i) else none

/-- The status bit of source `n` set; its AGAIN bit instead if it was set already (R393). -/
def State.setStatus (s : State) (n : Nat) : State :=
  if s.evStatus n then s.setReg (F.EVT_AGAIN_addr (n / 32)) (s.reg (F.EVT_AGAIN_addr (n / 32)) ||| evBit n)
  else s.setReg (F.EVT_STAT_addr (n / 32)) (s.reg (F.EVT_STAT_addr (n / 32)) ||| evBit n)

/-! ## Link outputs (R208–R212) -/

/-- The priority of a packet type (R208). -/
def prioOf (ty : BitVec 4) : Nat :=
  if ty = 2 ∨ ty = 4 then 1 else if ty = 3 ∨ ty = 5 then 2 else 3

/-- The cells that a packet's payload takes: 62 bytes in each (R193, R209). -/
def cellsOf (n : Nat) : Nat := max 1 ((n + 61) / 62)

/-- The cells of a queue that have not left. -/
def queueCells (q : List QPacket) : Nat := (q.map fun k => cellsOf k.data.length - k.sent).sum

/-- Whether an output has room: 64 cells at priorities 1 and 2, 256 KiB at priority 3 (R210). -/
def LinkPort.room (l : LinkPort) (prio cells : Nat) : Bool :=
  match prio with
  | 1 => decide (queueCells l.q1 + cells ≤ 64)
  | 2 => decide (queueCells l.q2 + cells ≤ 64)
  | _ => decide ((queueCells l.q3 + cells) * 64 ≤ 262144)

/-- The port with a packet put into the queue of its priority. -/
def LinkPort.push (l : LinkPort) (k : QPacket) : LinkPort :=
  match prioOf k.ty with
  | 1 => { l with q1 := l.q1 ++ [k] }
  | 2 => { l with q2 := l.q2 ++ [k] }
  | _ => { l with q3 := l.q3 ++ [k] }

/-- The port carries traffic: up, or remapping (R207). -/
def State.portUp (s : State) (p : Fin 4) : Bool :=
  s.get (F.ZL_STATUS_STATE p) == 2 || s.get (F.ZL_STATUS_STATE p) == 3

/-- A packet dropped at the output of port `p`: QFULL and the port's event 7 (R203, R207, R210). -/
def State.qfull (raise : State → Nat → State) (s : State) (p : Fin 4) : State :=
  raise (s.count (F.ZL_DROP_QFULL p)) (srcLink p 7)

/-- A packet handed to the output of port `p`, or dropped there: the port is not up, its queue has no room, or it is a
path-1 packet toward a partner without DUAL_FEED (R203, R210, R211). -/
def State.enqueue (raise : State → Nat → State) (s : State) (p : Fin 4) (path1 : Bool) (k : Packet) : State :=
  if s.portUp p && (!path1 || s.link.port[p].dual) && s.link.port[p].room (prioOf k.ty) (cellsOf k.data.length) then
    s.onPort p fun l => l.push ⟨k.ty, k.up, k.data, 0⟩
  else s.qfull raise p

/-- Where a packet for a tile address goes (R212). -/
inductive Hop where
  | here | port (p : Fin 4) | nowhere
deriving DecidableEq, Repr

/-- The up port whose partner has the given tile address. -/
def State.portTo (s : State) (x y : Nat) : Option (Fin 4) :=
  (List.finRange 4).find? fun p =>
    s.portUp p && s.reg (F.ZL_PID_addr p) &&& 0xFFFF == BitVec.ofNat 32 (x % 256 + 256 * (y % 256))

/-- One step nearer from `a` to `b`. -/
def nearer (a b : Nat) : Nat := if a < b then a + 1 else a - 1

/-- The next hop for tile address (x, y): ROUTE 0 corrects x first, ROUTE 1 corrects y first (R212). -/
def State.hop (s : State) (x y : Nat) (route : Bool) : Hop :=
  let x0 := s.get F.ZL_ADDR_X
  let y0 := s.get F.ZL_ADDR_Y
  if x0 = x ∧ y0 = y then .here
  else
    let alongX := if route then y0 = y else x0 ≠ x
    match (if alongX then s.portTo (nearer x0 x) y0 else s.portTo x0 (nearer y0 y)) with
    | some p => .port p
    | none => .nowhere

/-- A packet with no route is counted, and common event 36 is raised (R212). -/
def State.routeDrop (raise : State → Nat → State) (s : State) : State :=
  raise (s.count F.ZL_ROUTE_DROP_COUNT) (srcLink 0 36)

/-! ## The Updraft ring (R396) -/

/-- An event packet at the hub: dropped as a second copy, dropped with the ring full, or written to the ring. -/
def State.eventRing (s : State) (x y : Byte) (source : BitVec 10) (lost : Byte) (tb : Word) : State :=
  let base := s.get F.EVT_UPD_BASE_BASE * 1024
  let wr := s.get F.EVT_UPD_PTR_WR
  if base = 0 ∨ (x, y, source, tb) ∈ s.evt.recent then s
  else if (wr + 1) % 64 = s.get F.EVT_UPD_PTR_RD then s.put F.EVT_UPD_PTR_OVERFLOW 1
  else
    let a := base + 16 * wr
    let t := (((s.storeWord a (BitVec.ofNat 32 (x.toNat + 256 * y.toNat + 65536 * source.toNat))).storeWord (a + 4)
      (lost.setWidth 32)).storeWord (a + 8) tb).storeWord (a + 12) s.now
    let t := { t with evt := { t.evt with recent := ((x, y, source, tb) :: t.evt.recent).take 16 } }
    t.put F.EVT_UPD_PTR_WR (wr + 1)

/-! ## Delivery (R394, R217) -/

/-- The payload of an Updraft packet of one cell: destination, source, route, then the 11 bytes from byte 5 (R217). -/
def State.updraftData (s : State) (x y : Nat) (route : Bool) (rest : List Byte) : List Byte :=
  [BitVec.ofNat 8 x, BitVec.ofNat 8 y, BitVec.ofNat 8 (s.get F.ZL_ADDR_X), BitVec.ofNat 8 (s.get F.ZL_ADDR_Y),
   BitVec.ofNat 8 route.toNat] ++ rest

/-- One copy of an event packet toward the hub (R212, R217). -/
def State.sendEventCopy (raise : State → Nat → State) (s : State) (n lost : Nat) (route : Bool) : State :=
  let x := s.get F.ZL_UP_HUB % 256
  let y := s.get F.ZL_UP_HUB / 256
  match s.hop x y route with
  | .here => s.eventRing (BitVec.ofNat 8 (s.get F.ZL_ADDR_X)) (BitVec.ofNat 8 (s.get F.ZL_ADDR_Y)) (BitVec.ofNat 10 n)
      (BitVec.ofNat 8 lost) s.now
  | .nowhere => s.routeDrop raise
  | .port p => s.enqueue raise p false ⟨5, true, s.updraftData x y route
      ([0, 0, 0] ++ bytesOfNat 2 n ++ [BitVec.ofNat 8 lost, 0] ++ bytesOfNat 4 s.now.toNat)⟩

/-- The rate budget at this instant: PER_MS packets per millisecond, at most 16 (R217); one packet counts 1,000,000. -/
def State.evtCredit (s : State) : Nat :=
  min 16000000 (s.evt.credit + (s.clock - s.evt.creditAt) * s.get F.ZL_EVT_RATE_PER_MS)

/-- An event packet, in both copies under ZL_UP.DUAL; or the rate limit suppresses the set, which is counted for the LOST of
the next packet and raises common event 40 (R217; DEDUCED, log 25). -/
def State.sendEvent (raise : State → Nat → State) (s : State) (n : Nat) : State :=
  if s.get F.ZL_EVT_RATE_PER_MS = 0 ∨ s.evtCredit < 1000000 then
    raise { s with evt := { s.evt with lost := min 255 (s.evt.lost + 1), credit := s.evtCredit, creditAt := s.clock } } (srcLink 0 40)
  else
    let t := { s with evt := { s.evt with lost := 0, credit := s.evtCredit - 1000000, creditAt := s.clock } }
    let t := t.sendEventCopy raise n s.evt.lost false
    if t.bit F.ZL_UP_DUAL then t.sendEventCopy raise n s.evt.lost true else t

/-- An MSI-X message, or the PBA bit of a masked vector; nothing while the PCIe link is down (R394). -/
def State.sendMsi (s : State) (v : Nat) : State :=
  if !s.pcieUp then s
  else if s.evt.mask.getLsbD v then { s with evt := { s.evt with pba := s.evt.pba ||| (1#64 <<< v) } }
  else s.emit (.msi v)

/-- What a source that has become active does along its route (R394). In the Cellar only the pin follows it. -/
def State.deliver (raise : State → Nat → State) (s : State) (n : Nat) : State :=
  let s := if s.bit (F.EVT_ROUTE_PIN n) then { s with eventN := true } else s
  if s.mode = .cellar then s else
  let s := if s.bit (F.EVT_ROUTE_MSIX n) then s.sendMsi (s.get (F.EVT_ROUTE_VECTOR n)) else s
  if s.bit (F.EVT_ROUTE_UPDRAFT n) then s.sendEvent raise n else s

/-- A raise, with a bound on the raises that delivery itself causes (a dropped packet, a suppressed set). -/
def State.raiseWithin : Nat → State → Nat → State
  | 0, s, n => s.setStatus n
  | k + 1, s, n =>
    let t := s.setStatus n
    if t.evActive n && !s.evActive n then t.deliver (State.raiseWithin k) n else t

/-- A block raises source `n` (R393, R394). A raise causes at most the raises of four QFULL sources, the route drop and the
suppression in turn, each of which finds its status bit set the second time. -/
def State.raise (s : State) (n : Nat) : State := State.raiseWithin 8 s n

/-- A raise on a condition. -/
def State.raiseIf (s : State) (c : Bool) (n : Nat) : State := if c then s.raise n else s

end Sys2Proof.Machine
end

