-- ==== Sys2Proof/Machine/Float.lean ====
section
/-! DEFINITION. Binary floating point by exact arithmetic and one rounding, to nearest with ties to even (R105): binary32
and binary16 values as bit patterns, and the tangent of R82. -/

namespace Sys2Proof.Machine

/-- A binary format: exponent bits and fraction bits. -/
structure Fmt where
  ew : Nat
  mw : Nat
deriving DecidableEq, Repr

def binary32 : Fmt := ⟨8, 23⟩
def binary16 : Fmt := ⟨5, 10⟩

/-- The exponent of the least subnormal. -/
def Fmt.emin (f : Fmt) : Int := 2 - 2 ^ (f.ew - 1) - f.mw

/-- The pattern of infinity. -/
def Fmt.inf (f : Fmt) : Nat := (2 ^ f.ew - 1) * 2 ^ f.mw

/-- The default quiet NaN: 0x7FC0_0000, 0x7E00 (R105). -/
def Fmt.nan (f : Fmt) : Nat := f.inf + 2 ^ (f.mw - 1)

/-- The sign bit. -/
def Fmt.signBit (f : Fmt) : Nat := 2 ^ (f.ew + f.mw)

/-- A value: not a number, an infinity, or (−1)^neg × m × 2^e. -/
inductive FVal where
  | nan | inf (neg : Bool) | fin (neg : Bool) (m : Nat) (e : Int)
deriving DecidableEq, Repr

/-- The value of a bit pattern. -/
def Fmt.val (f : Fmt) (b : Nat) : FVal :=
  let neg := decide (f.signBit ≤ b % (2 * f.signBit))
  let x := b % f.signBit
  let ex := x / 2 ^ f.mw
  let fr := x % 2 ^ f.mw
  if ex = 2 ^ f.ew - 1 then (if fr = 0 then .inf neg else .nan)
  else if ex = 0 then .fin neg fr f.emin
  else .fin neg (2 ^ f.mw + fr) (f.emin + ex - 1)

/-- A pattern with its sign. -/
def Fmt.signed (f : Fmt) (neg : Bool) (x : Nat) : Nat := if neg then f.signBit + x else x

/-- The quotient rounded to nearest, ties to even. -/
def divRound (n d : Nat) : Nat :=
  let q := n / d
  let r := n % d
  if 2 * r < d then q else if d < 2 * r then q + 1 else q + q % 2

/-- The pattern nearest to (−1)^neg × (n / d) × 2^e, ties to even, overflow to infinity (R105). -/
def Fmt.round (f : Fmt) (neg : Bool) (n d : Nat) (e : Int) : Nat :=
  if n = 0 then f.signed neg 0
  else
    let l : Int := (Nat.log2 n : Int) - Nat.log2 d
    let below := if 0 ≤ l then decide (n < d * 2 ^ l.toNat) else decide (n * 2 ^ (-l).toNat < d)
    let ex := e + l - (if below then 1 else 0)
    let u := max (ex - f.mw) f.emin
    let q := if u ≤ e then divRound (n * 2 ^ (e - u).toNat) d else divRound n (d * 2 ^ (u - e).toNat)
    f.signed neg (min f.inf ((u - f.emin).toNat * 2 ^ f.mw + q))

/-- The pattern of a value. -/
def Fmt.pack (f : Fmt) : FVal → Nat
  | .nan => f.nan
  | .inf neg => f.signed neg f.inf
  | .fin neg m e => f.round neg m 1 e

/-- The exact sum of two finite values; an exact zero of opposite signs is +0. -/
def addFin (n1 : Bool) (m1 : Nat) (e1 : Int) (n2 : Bool) (m2 : Nat) (e2 : Int) : FVal :=
  let e := min e1 e2
  let a : Int := (if n1 then -1 else 1) * (m1 * 2 ^ (e1 - e).toNat : Nat)
  let b : Int := (if n2 then -1 else 1) * (m2 * 2 ^ (e2 - e).toNat : Nat)
  let c := a + b
  .fin (if c = 0 then n1 && n2 else decide (c < 0)) c.natAbs e

/-- The exact sum. -/
def FVal.add : FVal → FVal → FVal
  | .nan, _ => .nan
  | _, .nan => .nan
  | .inf a, .inf b => if a = b then .inf a else .nan
  | .inf a, _ => .inf a
  | _, .inf b => .inf b
  | .fin a m e, .fin b n g => addFin a m e b n g

/-- The value with its sign changed. -/
def FVal.neg : FVal → FVal
  | .nan => .nan
  | .inf a => .inf (!a)
  | .fin a m e => .fin (!a) m e

/-- The exact product. -/
def FVal.mul : FVal → FVal → FVal
  | .nan, _ => .nan
  | _, .nan => .nan
  | .inf a, .inf b => .inf (a != b)
  | .inf a, .fin b n _ => if n = 0 then .nan else .inf (a != b)
  | .fin a m _, .inf b => if m = 0 then .nan else .inf (a != b)
  | .fin a m e, .fin b n g => .fin (a != b) (m * n) (e + g)

def Fmt.add (f : Fmt) (a b : Nat) : Nat := f.pack ((f.val a).add (f.val b))
def Fmt.sub (f : Fmt) (a b : Nat) : Nat := f.pack ((f.val a).add (f.val b).neg)
def Fmt.mul (f : Fmt) (a b : Nat) : Nat := f.pack ((f.val a).mul (f.val b))

/-- a × b + c with one rounding (R105, R111). -/
def Fmt.fma (f : Fmt) (a b c : Nat) : Nat := f.pack (((f.val a).mul (f.val b)).add (f.val c))

/-- Whether one finite value is less than another. -/
def ltFin (n1 : Bool) (m1 : Nat) (e1 : Int) (n2 : Bool) (m2 : Nat) (e2 : Int) : Bool :=
  match addFin n1 m1 e1 (!n2) m2 e2 with
  | .fin neg m _ => neg && m != 0
  | _ => false

/-- Less than, as IEEE 754 orders numbers; false with a NaN (R112). -/
def FVal.lt : FVal → FVal → Bool
  | .nan, _ => false
  | _, .nan => false
  | .inf a, .inf b => a && !b
  | .inf a, .fin _ _ _ => a
  | .fin _ _ _, .inf b => !b
  | .fin a m e, .fin b n g => ltFin a m e b n g

/-- Equal as numbers; false with a NaN (R112). -/
def FVal.eq : FVal → FVal → Bool
  | .nan, _ => false
  | _, .nan => false
  | a, b => !a.lt b && !b.lt a

/-- MIN or MAX: the non-NaN operand, −0 below +0 (R105). -/
def Fmt.minmax (f : Fmt) (max : Bool) (a b : Nat) : Nat :=
  match f.val a, f.val b with
  | .nan, .nan => f.nan
  | .nan, _ => b
  | _, .nan => a
  | x, y =>
    if x.lt y then (if max then b else a)
    else if y.lt x then (if max then a else b)
    else if decide (f.signBit ≤ a) == max then b else a

/-- The reciprocal, correctly rounded (R105). -/
def Fmt.rcp (f : Fmt) (a : Nat) : Nat :=
  match f.val a with
  | .nan => f.nan
  | .inf neg => f.signed neg 0
  | .fin neg m e => if m = 0 then f.signed neg f.inf else f.round neg 1 m (-e)

/-- The integer square root, bit by bit from bit `k`. -/
def isqrtFrom (n : Nat) : Nat → Nat → Nat
  | 0, r => if (r + 1) * (r + 1) ≤ n then r + 1 else r
  | k + 1, r => isqrtFrom n k (if (r + 2 ^ (k + 1)) * (r + 2 ^ (k + 1)) ≤ n then r + 2 ^ (k + 1) else r)

/-- The reciprocal square root, correctly rounded (R105). −0 gives −infinity, as IEEE 754 has it. -/
def Fmt.rsq (f : Fmt) (a : Nat) : Nat :=
  match f.val a with
  | .nan => f.nan
  | .inf neg => if neg then f.nan else 0
  | .fin neg m e =>
    if m = 0 then f.signed neg f.inf
    else if neg then f.nan
    else
      let odd := decide (e % 2 ≠ 0)
      let m' := if odd then 2 * m else m
      let e' := if odd then e - 1 else e
      let q := isqrtFrom (2 ^ 160 / m') 81 0
      f.round false (2 * q + (if q * q * m' = 2 ^ 160 then 0 else 1)) 1 (-(e' / 2) - 81)

/-- The largest integer not above a value, as a value (R111, roundToIntegralTowardNegative). -/
def FVal.floor : FVal → FVal
  | .fin neg m e =>
    if 0 ≤ e then .fin neg m e
    else
      let d := 2 ^ (-e).toNat
      .fin neg (if neg then (m + d - 1) / d else m / d) 0
  | v => v

def Fmt.floor (f : Fmt) (a : Nat) : Nat := f.pack (f.val a).floor

/-- The nearest integer to a value times 2^k, ties to even, held within bounds; NaN gives 0 (R111). -/
def FVal.toInt (v : FVal) (k : Int) (lo hi : Int) : Int :=
  match v with
  | .nan => 0
  | .inf neg => if neg then lo else hi
  | .fin neg m e =>
    let g := e + k
    let q := if 0 ≤ g then m * 2 ^ (min g 200).toNat else divRound m (2 ^ (-g).toNat)
    max lo (min hi (if neg then -(q : Int) else q))

/-- An integer times 2^e as a value. -/
def FVal.ofInt (n : Int) (e : Int) : FVal := .fin (decide (n < 0)) n.natAbs e

/-- The binary32 pattern nearest to (n / d) × 2^e (R81). -/
def ratF32 (n : Int) (d : Nat) (e : Int) : Nat := binary32.round (decide (n < 0)) n.natAbs d e

/-- The binary32 pattern of an integer times 2^e. -/
def intF32 (n : Int) (e : Int) : Word := BitVec.ofNat 32 (ratF32 n 1 e)

/-! ## The tangent of R82 -/

/-- π × 2^256, rounded down. -/
def pi256 : Nat :=
  363771576891766324280234942777729862653393377328392429958772151117938894466185

/-- Sine and cosine of `x` / 2^200 by their series, in units of 2^−200. -/
def sinCos (x : Nat) : Int × Int :=
  let x2 : Int := (x * x / 2 ^ 200 : Nat)
  let r := (List.range 40).foldl (fun (acc : Int × Int × Int × Int) (k : Nat) =>
    let (s, c, ts, tc) := acc
    (s + ts, c + tc, -(ts * x2 / 2 ^ 200) / ((2 * k + 2) * (2 * k + 3)), -(tc * x2 / 2 ^ 200) / ((2 * k + 1) * (2 * k + 2))))
    ((0 : Int), (0 : Int), (x : Int), (2 ^ 200 : Int))
  (r.1, r.2.1)

/-- tan(n / 2^k degrees) for an angle below 90° in magnitude, rounded to nearest-even binary32 (R82). -/
def tanF32 (n : Int) (k : Nat) : Word :=
  if n = 0 then 0
  else
    let x := n.natAbs * pi256 / (180 * 2 ^ (56 + k))
    let (s, c) := sinCos x
    BitVec.ofNat 32 (binary32.round (decide (n < 0)) s.toNat c.toNat 0)

end Sys2Proof.Machine
end

