-- ==== Sys2Proof/Machine/Views.lean ====
section
/-! DEFINITION. The key-view store, the calibration store and the slot buffers as the units address them (R50, R51, R55,
R65, R68, R83–R86, R91). -/

namespace Sys2Proof.Machine

/-! ## Frames in the key-view store (R55, R68) -/

/-- K. -/
def FrameHeader.k (h : FrameHeader) : Nat := h.views.length

/-- VW = W + 2·MARGIN_H. -/
def FrameHeader.vw (h : FrameHeader) : Nat := h.w + 2 * h.mh

/-- VH = H + 2·MARGIN_V. -/
def FrameHeader.vh (h : FrameHeader) : Nat := h.h + 2 * h.mv

/-- Bytes of a line of a front array. -/
def FrameHeader.line (h : FrameHeader) : Nat := (h.vw + 31) / 32 * 192

/-- Bytes of a front array, S_F. -/
def FrameHeader.frontSize (h : FrameHeader) : Nat := h.line * h.vh

/-- Blocks across and down. -/
def FrameHeader.bw (h : FrameHeader) : Nat := h.vw / 8
def FrameHeader.bh (h : FrameHeader) : Nat := h.vh / 8

/-- Bytes of a block index. -/
def FrameHeader.indexSize (h : FrameHeader) : Nat := (h.bw * h.bh * 2 + 63) / 64 * 64

/-- Covered blocks of view `v` by the header. -/
def FrameHeader.backBlocks (h : FrameHeader) (v : Nat) : Nat := ((h.views[v]?).map (·.back)).getD 0

/-- The pool number of the first block of view `v`. -/
def FrameHeader.poolFirst (h : FrameHeader) (v : Nat) : Nat := ((h.views.take v).map (·.back)).sum

/-- The offset of the back pool. -/
def FrameHeader.poolOff (h : FrameHeader) : Nat := h.k * (h.frontSize + h.indexSize)

/-- The frame fits a store half (R68). -/
def FrameHeader.fits (h : FrameHeader) : Bool :=
  let n := (h.views.map (·.back)).sum
  decide (h.poolOff + 384 * n ≤ 20971520 ∧ n ≤ 65535)

/-- HALF_BASE (R320). -/
def halfBase (b : Bool) : Nat := if b then 0x02400000 else 0x01000000

/-- The address of front sample (i, j) of view `v`. -/
def FrameHeader.frontAddr (h : FrameHeader) (half : Bool) (v i j : Nat) : Nat :=
  halfBase half + v * h.frontSize + j * h.line + 6 * i

/-- The address of the index entry of block (c, r) of view `v`. -/
def FrameHeader.indexAddr (h : FrameHeader) (half : Bool) (v c r : Nat) : Nat :=
  halfBase half + h.k * h.frontSize + v * h.indexSize + 2 * (r * h.bw + c)

/-- The address of sample (a, b) of pool block `n`. -/
def FrameHeader.poolAddr (h : FrameHeader) (half : Bool) (n a b : Nat) : Nat :=
  halfBase half + h.poolOff + 384 * n + 48 * b + 6 * a

/-- A TDV-48 sample (R65). -/
structure Sample where
  r   : Nat
  g   : Nat
  b   : Nat
  d12 : Nat
  a6  : Nat
deriving DecidableEq, Repr

/-- The sample in a 48-bit number. -/
def Sample.ofNat (n : Nat) : Sample :=
  ⟨n % 1024, n / 2 ^ 10 % 1024, n / 2 ^ 20 % 1024, n / 2 ^ 30 % 4096, n / 2 ^ 42 % 64⟩

/-- The 48-bit number of a sample. -/
def Sample.toNat (x : Sample) : Nat :=
  x.r % 1024 + 2 ^ 10 * (x.g % 1024) + 2 ^ 20 * (x.b % 1024) + 2 ^ 30 * (x.d12 % 4096) + 2 ^ 42 * (x.a6 % 64)

/-- The sample of a layer of a view; a back sample of an uncovered block reads all 0 (R84). -/
def State.viewSample (s : State) (h : FrameHeader) (half : Bool) (v : Nat) (back : Bool) (i j : Nat) : Sample :=
  if back then
    let e := s.mem.readNat (h.indexAddr half v (i / 8) (j / 8)) 2
    if e = 0xFFFF then ⟨0, 0, 0, 0, 0⟩ else Sample.ofNat (s.mem.readNat (h.poolAddr half e (i % 8) (j % 8)) 6)
  else Sample.ofNat (s.mem.readNat (h.frontAddr half v i j) 6)

/-! ## Taps (R83) -/

/-- floor(256·X − 127.5) of a binary32 coordinate below 2^20 in magnitude: the tap index times 256 plus the fraction, with
the fraction's ties rounded up. None for a value that is not finite or too large. -/
def tapPos (x : Word) : Option Int :=
  match binary32.val x.toNat with
  | .fin neg m e =>
    let big := if 0 ≤ e then decide (2 ^ 20 ≤ m * 2 ^ e.toNat) else decide (2 ^ 20 * 2 ^ (-e).toNat ≤ m)
    if big then none
    else
      let sm : Int := if neg then -(m : Int) else m
      if 0 ≤ e + 9 then some ((sm * 2 ^ (e + 9).toNat - 255) / 2)
      else some ((sm - 255 * 2 ^ (-(e + 9)).toNat) / 2 ^ ((-(e + 9)).toNat + 1))
  | _ => none

/-- A tap index held to the grid. -/
def clampTap (i : Int) (n : Nat) : Nat := (max 0 (min i ((n : Int) - 1))).toNat

/-- What a key view gives at a position: the four taps with their weights, and OUT (R83); none where OUT and EMPTY are set at
once. -/
def State.taps (s : State) (h : FrameHeader) (half : Bool) (v : Nat) (back : Bool) (x y : Word) :
    Option (List (Nat × Sample) × Bool) :=
  match tapPos x, tapPos y with
  | some px, some py =>
    if h.k ≤ v then none
    else
      let i := px / 256
      let j := py / 256
      let fx := (px % 256).toNat
      let fy := (py % 256).toNat
      let tap (di dj w : Nat) : (Nat × Sample) × Bool :=
        let a := i + di
        let b := j + dj
        ((w, s.viewSample h half v back (clampTap a h.vw) (clampTap b h.vh)),
          w != 0 && decide (a < 0 ∨ (h.vw : Int) ≤ a ∨ b < 0 ∨ (h.vh : Int) ≤ b))
      let l := [tap 0 0 ((256 - fx) * (256 - fy)), tap 1 0 (fx * (256 - fy)), tap 0 1 ((256 - fx) * fy),
        tap 1 1 (fx * fy)]
      some (l.map (·.1), l.any (·.2))
  | _, _ => none

/-- The taps that have alpha (R85). -/
def alphaTaps (l : List (Nat × Sample)) : List (Nat × Sample) := l.filter fun t => t.1 != 0 && t.2.a6 != 0

/-- The depth of a DSEARCH step over its taps; none where no tap has alpha (R85). -/
def tapDepth (l : List (Nat × Sample)) : Option Nat :=
  let a := alphaTaps l
  let den := (a.map (·.1)).sum
  if den = 0 then none else some (((a.map fun t => t.1 * 16 * t.2.d12).sum + den / 2) / den)

/-- A component over the four taps (R86). -/
def tapSum (l : List (Nat × Sample)) (f : Sample → Nat) : Nat := ((l.map fun t => t.1 * f t.2).sum + 32768) / 65536

/-- Colour and alpha in 16-bit unit scale (R86). -/
def unitColour (c : Nat) : Nat := c * 64 + c / 16
def unitAlpha (a : Nat) : Nat := a * 1024 + a * 16 + a / 4

/-! ## Calibration store (R50, R51) -/

/-- The calibration entry of emitter `e` of hogel (x, y) in a grid of the given width. -/
def State.calEntry (s : State) (width x y e : Nat) : BitVec 64 :=
  BitVec.ofNat 64 (s.mem.readNat (0x03800000 + ((y * width + x) * 8 + e) * 8) 8)

/-! ## Active geometry (R36, R42) -/

def State.gridW (s : State) : Nat := s.actGet F.TRL_TILE_GEOM_WIDTH_M1 + 1
def State.gridH (s : State) : Nat := s.actGet F.TRL_TILE_GEOM_HEIGHT_M1 + 1

/-- The columns of a code of EM_COLS. -/
def emCols (c : Nat) : Nat := if c = 0 then 1 else if c = 1 then 2 else 4

/-- The emitter code is present (R36). -/
def State.emitterPresent (s : State) (e : Nat) : Bool :=
  decide (e % 4 < emCols (s.actGet F.TRL_TILE_GEOM_EM_COLS) ∧ (e / 4 = 0 ∨ s.actGet F.TRL_TILE_GEOM_EM_ROWS = 1))

/-- Rows and first row of band `b` in the active table (R41). -/
def State.bandRows (s : State) (b : Nat) : Nat := s.actGet (F.TRL_BAND_ROWS b)
def State.bandFirst (s : State) (b : Nat) : Nat := s.actGet (F.TRL_BAND_FIRST_ROW b)

/-! ## Slot buffers (R78, R91) -/

/-- The address of slot buffer `p`. -/
def slotBuffer (p : Nat) : Nat := 0x04800000 + p % 2 * 9437184

/-- The slot buffer entry `n` of buffer `p`: R, G, B in 12 bits each; 0 for an absent emitter code. -/
def State.slotEntry (s : State) (p n : Nat) : Nat :=
  if s.emitterPresent (n % 8) then s.mem.readNat (slotBuffer p + 9 * (n / 2)) 9 / 2 ^ (36 * (n % 2)) % 2 ^ 36 else 0

/-- The state with a slot buffer entry written, beside the other entry of its group as it reads. -/
def State.setSlotEntry (s : State) (p n r g b : Nat) : State :=
  let v := r % 4096 + 4096 * (g % 4096) + 16777216 * (b % 4096)
  let new := if n % 2 = 0 then s.slotEntry p (n + 1) * 2 ^ 36 + v else s.slotEntry p (n - 1) + v * 2 ^ 36
  { s with mem := s.mem.writeNat (slotBuffer p + 9 * (n / 2)) 9 new }

/-- The entry number of emitter `e` of hogel (x, y). -/
def State.entryNo (s : State) (x y e : Nat) : Nat := (y * s.gridW + x) * 8 + e

/-- The state with the entries of the rows of band `b` at 0 in slot buffer `p`. -/
def State.zeroBand (s : State) (p b : Nat) : State :=
  let a := slotBuffer p + s.bandFirst b * s.gridW * 36
  { s with mem := s.mem.zero a (a + s.bandRows b * s.gridW * 36) }

end Sys2Proof.Machine
end

