-- ==== Sys2Proof/Machine/Trellis.lean ====
section
/-! DEFINITION. The Trellis drive (R280–R292, R300): waveform tables, the temperature band in force, waveforms with their DC
ledgers, compensation, initialisation, output faults. -/

namespace Sys2Proof.Machine

/-! ## Outputs and bands -/

/-- Output l of band b. -/
def outIx (b : Fin 64) (l : Fin 6) : Fin 384 := ⟨6 * b.val + l.val, by omega⟩

/-- The state with one Trellis output changed. -/
def State.onTrlOut (s : State) (o : Fin 384) (f : TrlOut → TrlOut) : State :=
  { s with trl := { s.trl with outs := s.trl.outs.set o (f s.trl.outs[o]) } }

/-- The state with one band's timing changed. -/
def State.onBand (s : State) (b : Fin 64) (f : BandDrive → BandDrive) : State :=
  { s with trl := { s.trl with bands := s.trl.bands.set b (f s.trl.bands[b]) } }

/-- The state with one band's state word changed. -/
def State.setWordBit (s : State) (b : Fin 64) (l : Nat) (v : Bool) : State :=
  let w := s.trl.word[b]
  let m := 1#6 <<< l
  { s with trl := { s.trl with word := s.trl.word.set b (if v then w ||| m else w &&& ~~~m) } }

/-- The rails are up: the power-on sequence has completed (R289, R298). -/
def State.railsOn (s : State) : Bool := s.get F.HVPS_CTL_STATE == 2

/-- A waveform may start: the rails are up, or a settle sequence runs that began without GOA_DIS, that of the entry to the Cellar (R289,
R293, R294). -/
def State.wavesRun (s : State) : Bool := s.railsOn || (s.get F.HVPS_CTL_STATE == 4 && !s.hv.dis)

/-- The instant at which an edge due at `t` really falls: on the backup the first tick at or after it (R281). -/
def State.edgeAt (s : State) (t : Word) : Word :=
  if s.bit F.TB_STATE_BACKUP && s.reached t then s.now - BitVec.ofNat 32 (s.since t / 40 * 40) else t

/-- Output l of band b is marked open or short (R300). -/
def State.outFaulted (s : State) (b : Fin 64) (l : Nat) : Bool :=
  (s.get (F.TRL_FAULT_OPEN b) ||| s.get (F.TRL_FAULT_SHORT b)).testBit l

/-! ## The DC ledger (R289) -/

/-- The magnitude of a rail's latest reading, in mV. -/
def State.railMv (s : State) (k : Nat) : Int := (s.getS (F.HVPS_MEAS_MV k)).natAbs

/-- A level in mV as the ledger counts it. -/
def State.levelMv (s : State) : TrlLevel → Int
  | .vsp => s.railMv 2
  | .vsn => -s.railMv 3
  | .comp mv => mv
  | _ => 0

/-- LEDGER_LIMIT in force. -/
def State.ledgerLimit (s : State) : Nat := s.actGet F.TRL_LEDGER_LIMIT_LIMIT

/-- The 100 ns steps after which compensation at `v` mV stops: at LEDGER_LIMIT / 2 or less (R290), or below one step in the
settle sequence (R294). -/
def State.compSteps (s : State) (acc : Int) (v : Nat) : Nat :=
  if s.hv.settle.isSome then acc.natAbs / (100 * v)
  else
    let bound := (s.ledgerLimit / 2 + 1) * 100000
    if acc.natAbs < bound then 0 else (acc.natAbs - bound) / (100 * v) + 1

/-- The whole steps of 100 ns since an output's ledger was brought up to date (R289). -/
def TrlOut.steps (x : TrlOut) (t : Word) : Nat := (sdiff t x.since).toNat / 100

/-- What an output has driven up to `t` since its ledger was last brought up to date, in mV·ns: for every 100 ns the level. -/
def State.driven (s : State) (x : TrlOut) (t : Word) : Int :=
  match x.level with
  | .comp mv => mv * 100 * (min (x.steps t) (s.compSteps x.acc mv.natAbs) : Nat)
  | l => s.levelMv l * 100 * (x.steps t : Nat)

/-- An output with its ledger brought up to `t`, where its level changes: what is left of a step is not counted (DESIGN CHOICE, log
13). -/
def State.upTo (s : State) (x : TrlOut) (t : Word) : TrlOut :=
  if 0 ≤ sdiff t x.since then { x with acc := x.acc + s.driven x t, since := t } else x

/-- A ledger in units of 0.1 V·µs, the remainder carried. -/
def ledgerUnits (acc : Int) : Int := acc.tdiv 100000

/-- The ledger of an output at the present (R289, R301). -/
def State.ledger (s : State) (o : Fin 384) : Int :=
  ledgerUnits (s.trl.outs[o].acc + s.driven s.trl.outs[o] s.now)

/-- The waveform of an output run up to `t`: phases that have ended by then, the present one up to `t`. -/
def State.runPhases (s : State) (t : Word) : List (TrlLevel × Nat) → TrlOut → TrlOut
  | [], x => { s.upTo x t with phases := [] }
  | [(l, d)], x =>
    if 0 ≤ sdiff t x.ends then s.upTo { s.upTo x (s.edgeAt x.ends) with level := l, rest := l, phases := [] } t
    else { s.upTo x t with phases := [(l, d)] }
  | (l, d) :: (l', d') :: more, x =>
    if 0 ≤ sdiff t x.ends then
      s.runPhases t ((l', d') :: more)
        { s.upTo x (s.edgeAt x.ends) with level := l', ends := x.ends + BitVec.ofNat 32 (100 * d'), done := x.done + 1 }
    else { s.upTo x t with phases := (l, d) :: (l', d') :: more }

/-- An output's ledger with its whole steps counted up to the present, its level going on. -/
def State.countSteps (s : State) (x : TrlOut) : TrlOut :=
  { x with acc := x.acc + s.driven x s.now, since := x.since + BitVec.ofNat 32 (100 * x.steps s.now) }

/-- All ledgers brought up to date, before a reading or a level that they count by changes. -/
def State.flushRails (s : State) : State := { s with trl := { s.trl with outs := s.trl.outs.map s.countSteps } }

/-! ## Waveform tables (R283–R285) -/

/-- A level code. -/
def levelOf (c : Nat) : TrlLevel := if c = 0 then .zero else if c = 1 then .vsp else if c = 2 then .vsn else .hiz

/-- The phases of table x of band j in a register set: level code and duration in 100 ns, up to the first duration 0. -/
def waveTable (g : Nat → Word) (j x : Nat) : List (Nat × Nat) :=
  ((List.range 8).map fun k =>
    let w := g (F.TRL_WAVE_addr j x k)
    ((F.TRL_WAVE_LEVEL j x k).of w, (F.TRL_WAVE_DUR j x k).of w)).takeWhile fun p => p.2 != 0

/-- The enabled bands of a register set. -/
def waveBands (g : Nat → Word) : List Nat := (List.range 16).filter fun j => (F.TRL_WHDR_EN j).of (g (F.TRL_WHDR_addr j)) == 1

/-- TLOW of a band. -/
def waveTlow (g : Nat → Word) (j : Nat) : Int := (BitVec.ofNat 16 ((F.TRL_WHDR_TLOW j).of (g (F.TRL_WHDR_addr j)))).toInt

/-- SETTLE of a band, in ns. -/
def waveSettle (g : Nat → Word) (j : Nat) : Nat := 100 * (F.TRL_WHDR_SETTLE j).of (g (F.TRL_WHDR_addr j))

/-- A list rises strictly. -/
def rises : List Int → Bool
  | [] => true
  | [_] => true
  | a :: b :: l => decide (a < b) && rises (b :: l)

/-- Phases 0 and 1 of every enabled table end inside the band step of a slot period (R284). -/
def wavesInStep (g : Nat → Word) (period : Nat) : Bool :=
  (waveBands g).all fun j => [0, 1].all fun x =>
    decide (100 * (((waveTable g j x).take 2).map (·.2)).sum + 400 ≤ period / 64)

/-- The area of a table in mV × 100 ns, by HVPS_SET without TRIM (R284). -/
def State.waveArea (s : State) (l : List (Nat × Nat)) : Int :=
  (l.map fun p => (if p.1 = 1 then 50 * (s.get (F.HVPS_SET_CODE 2) : Int)
    else if p.1 = 2 then -50 * (s.get (F.HVPS_SET_CODE 3) : Int) else 0) * p.2).sum

/-- The rule of R284 that a register set breaks, as its lowest cause (R301); 0 for none. -/
def State.waveCause (s : State) (g : Nat → Word) (period : Nat) : Nat :=
  let bands := waveBands g
  let tables := bands.flatMap fun j => [waveTable g j 0, waveTable g j 1]
  let ends (l : List (Nat × Nat)) : Bool :=
    (match l.head? with
     | some p => p.1 == 0
     | none => false) &&
    (match l.getLast? with
     | some p => p.1 == 0 || p.1 == 3
     | none => false)
  let area := (tables.map fun l => (s.waveArea l).natAbs).foldl max 0
  if bands.isEmpty || !(tables.all ends) || !(rises (bands.map (waveTlow g))) then 1
  else if !wavesInStep g period then 2
  else if 1000 * F.TRL_LEDGER_LIMIT_LIMIT.of (g F.TRL_LEDGER_LIMIT_addr) < 2 * area then 3 else 0

/-- The band in force. -/
def State.trlBand (s : State) : Nat := s.get F.TRL_TSEL_STAT_BAND

/-- t_settle of the band in force, in ns. -/
def State.settleNs (s : State) : Nat := waveSettle s.actReg s.trlBand

/-! ## The temperature band (R286) -/

/-- The lowest temperature of the usable selected sensors. -/
def State.panelTemp (s : State) : Option Int :=
  (((List.range 8).filter fun k => (s.get F.TRL_TSEL_SENSORS).testBit k && s.bit (F.TMON_EXT_CFG_EN k) &&
    !s.bit (F.TMON_EXT_FAILED k)).map fun k => s.getS (F.TMON_EXT_TEMP k)).min?

/-- The band that a selection gives: MANUAL_BAND, or by temperature with hysteresis; the lowest enabled band where the band in
force is no longer enabled and no sensor is usable. -/
def State.chooseBand (s : State) : Nat :=
  let en := waveBands s.actReg
  let j := s.trlBand
  let m := s.get F.TRL_TSEL_MANUAL_BAND
  if s.bit F.TRL_TSEL_MANUAL ∧ en.contains m then m
  else
    match s.panelTemp with
    | none => if en.contains j then j else en.headD j
    | some t =>
      let jn := ((en.filter fun k => decide (waveTlow s.actReg k ≤ t)).getLast?).getD (en.headD j)
      if !en.contains j || j < jn then jn
      else if jn < j ∧ t < waveTlow s.actReg j - 8 * s.get F.TRL_TSEL_HYST then jn else j

/-- A selection of the band in force, with its record: TEMP and NO_SENSOR, event 10 with no usable sensor, event 9 at a change. -/
def State.selectBand (s : State) : State :=
  let manual := s.bit F.TRL_TSEL_MANUAL && (waveBands s.actReg).contains (s.get F.TRL_TSEL_MANUAL_BAND)
  let j := s.chooseBand
  let t := if manual then s else match s.panelTemp with
    | none => (s.put F.TRL_TSEL_STAT_NO_SENSOR 1).raise (srcTrl 10)
    | some x => (s.put F.TRL_TSEL_STAT_NO_SENSOR 0).putS F.TRL_TSEL_STAT_TEMP x
  if j = s.trlBand then t
  else ((t.put F.TRL_TSEL_STAT_BAND j).wrapCount F.TRL_STAT2_BAND_CHANGES).raise (srcTrl 9)

/-! ## Compensation (R290) -/

/-- The compensation stage in mV. -/
def State.vcomp (s : State) : Nat := 50 * min 60 (s.get F.TRL_COMP_VCOMP)

/-- An output enters compensation above LEDGER_LIMIT and leaves it at half of it. -/
def State.judge (s : State) (x : TrlOut) : TrlOut :=
  let n := (ledgerUnits x.acc).natAbs
  if s.ledgerLimit < n then { x with inComp := true } else if 2 * n ≤ s.ledgerLimit then { x with inComp := false } else x

/-- The compensation level against a ledger. -/
def against (v : Nat) (acc : Int) : TrlLevel := .comp (if 0 < acc then -(v : Int) else v)

/-- The voltage of the settle sequence, in mV: VCOMP, or 1.0 V with VCOMP 0 (R294). -/
def State.settleMv (s : State) : Nat := if s.vcomp = 0 then 1000 else s.vcomp

/-- Outputs in compensation of dark band `b` that run no waveform are driven from `t` on. An output of a band with ROWS 0 stays at 0 V
(R280). -/
def State.startComp (s : State) (b : Fin 64) (t : Word) : State :=
  if !s.trl.bands[b].dark || s.vcomp = 0 || !s.railsOn || s.bandRows b = 0 then s
  else (List.finRange 6).foldl (fun (u : State) (l : Fin 6) =>
    let x := u.trl.outs[outIx b l]
    if x.inComp && x.phases.isEmpty && !u.outFaulted b l && x.level == x.rest then
      u.onTrlOut (outIx b l) fun x => let y := u.upTo x (u.edgeAt t); { y with level := against u.vcomp y.acc }
    else u) s

/-- Compensation starts in every dark band. -/
def State.startComps (s : State) : State := (List.finRange 64).foldl (fun (u : State) (b : Fin 64) => u.startComp b u.now) s

/-- An output's compensation stretch ends at `t`. -/
def State.stopComp (s : State) (o : Fin 384) (t : Word) : State :=
  match s.trl.outs[o].level with
  | .comp _ => s.onTrlOut o fun x => { s.judge (s.upTo x (s.edgeAt t)) with level := x.rest }
  | _ => s

/-- COMPENSATION_END: the output is driven and its |ledger| has come down to LEDGER_LIMIT / 2. -/
def State.compEnd (s : State) (o : Fin 384) : State :=
  s.when (s.trl.outs[o].inComp && decide (2 * (s.ledger o).natAbs ≤ s.ledgerLimit)) fun s =>
    let t := s.stopComp o s.now
    t.onTrlOut o fun x => { x with inComp := false }

/-- A write of TRL_COMP: in a dark stretch a driven output goes to the new level, or rests where it is 0, and one that a level of 0 kept
at rest is driven (R290). -/
def State.writeComp (s : State) (v : Nat) : State :=
  let t := s.flushRails.put F.TRL_COMP_VCOMP (min 60 v)
  let level (x : TrlOut) : TrlLevel :=
    if t.hv.settle.isSome then against t.settleMv x.acc else if t.vcomp = 0 then x.rest else against t.vcomp x.acc
  let turn (x : TrlOut) : TrlOut := match x.level with
    | .comp _ => { t.upTo x t.now with level := level x }
    | _ => x
  if t.vcomp = s.vcomp then t else ({ t with trl := { t.trl with outs := t.trl.outs.map turn } }).startComps

def execCompensationEnd (b : Fin 64) (l : Fin 6) (s : State) : Host.Outcome State Fault Refusal :=
  s.ifOn (·.compEnd (outIx b l))

/-! ## Waveforms (R281–R283, R287, R288, R291) -/

/-- Band `b`'s waveform that has not ended at `t` loses its remaining phases; whether there was one (R288). Its output then
rests at 0 V (DESIGN CHOICE, log 13). -/
def State.cutWave (s : State) (b : Fin 64) (t : Word) : Bool × State :=
  (List.finRange 6).foldl (fun (r : Bool × State) l =>
    let x := r.2.trl.outs[outIx b l]
    if x.phases.isEmpty then r
    else
      let y := r.2.runPhases t x.phases x
      let y := r.2.judge (if y.phases.isEmpty then y else { y with level := .zero, rest := .zero })
      (r.1 || !(r.2.runPhases t x.phases x).phases.isEmpty, r.2.onTrlOut (outIx b l) fun _ => { y with phases := [] })) (false, s)

/-- An output starts a list of phases at `t`. -/
def State.drivePhases (s : State) (o : Fin 384) (l : List (Nat × Nat)) (t : Word) : State :=
  match l with
  | [] => s
  | p :: _ => s.onTrlOut o fun x => { s.upTo x (s.edgeAt t) with
      level := levelOf p.1, phases := l.map fun q => (levelOf q.1, q.2), ends := t + BitVec.ofNat 32 (100 * p.2), done := 0, second := 0 }

/-- A waveform that starts at `t` over LEDGER_LIMIT is counted, with event 6 (R291). -/
def State.overCheck (s : State) (o : Fin 384) (t : Word) : State :=
  let x := s.trl.outs[o]
  if s.ledgerLimit < (ledgerUnits (x.acc + s.driven x t)).natAbs then (s.count F.TRL_STAT2_OVER).raise (srcTrl 6) else s

/-- A waveform starts at `t` on the given layers of band `b`: into state 1 with x = 0, into state 0 with x = 1. Nothing starts
while the rails are not up; a faulted output keeps high impedance while its layer counts as switched (DESIGN CHOICE, log 13). -/
def State.startWave (s : State) (b : Fin 64) (layers : List (Fin 6)) (x : Nat) (t : Word) : State :=
  if !s.wavesRun then s
  else
    let (cut, s) := s.cutWave b t
    let s := if !cut then s else
      let u := s.count F.TRL_STAT_TRUNC
      if u.trl.truncEv then u else { u with trl := { u.trl with truncEv := true } }.raise (srcTrl 7)
    layers.foldl (fun u l =>
      let o := outIx b l
      let u := u.setWordBit b l (x == 0)
      if u.outFaulted b l then u
      else
        let u := (u.stopComp o t).overCheck o t
        u.drivePhases o (waveTable u.actReg u.trlBand x) t) s

/-- No waveform runs. -/
def State.noWave (s : State) : Bool := s.trl.outs.toList.all fun x => x.phases.isEmpty

/-- The registers of a waveform set. -/
def waveRegs : List Nat :=
  F.TRL_LEDGER_LIMIT_addr :: (List.range 16).flatMap fun j =>
    F.TRL_WHDR_addr j :: (List.range 16).map fun i => F.TRL_WAVE_addr j (i / 8) (i % 8)

/-- A new LEDGER_LIMIT is in force: outputs enter or leave compensation, those that leave it rest, and those that enter it in a
dark band are driven at once (R290). -/
def State.judgeAllOuts (s : State) : State :=
  let t := { s with trl := { s.trl with outs := s.trl.outs.map fun x =>
    let y := s.judge x
    match y.level with
    | .comp _ => if y.inComp then y else { y with level := y.rest }
    | _ => y } }
  t.startComps

/-- A pending APPLY is checked at a slot period and made active or refused (R285). -/
def State.tryWave (s : State) (period : Nat) : State :=
  if !s.bit F.TRL_WAVE_CTL_APPLY then s
  else
    let c := s.waveCause s.reg period
    let t := s.put F.TRL_WAVE_CTL_APPLY 0
    if c = 0 then ((t.flushRails).activate waveRegs).judgeAllOuts
    else ((t.put F.TRL_WAVE_CTL_BAD 1).put F.TRL_WAVE_CTL_CAUSE c).raise (srcTrl 12)

/-- The active slot period. -/
def State.slotPeriod (s : State) : Nat := s.actGet F.SEQ_FRM_SLOT_PERIOD_PERIOD_NS

/-- A pending APPLY takes effect at once in HOLD with no waveform running (R285). -/
def State.tryWaveInHold (s : State) : State :=
  if s.frm.hold && s.noWave && s.trl.pass == 0 then s.tryWave s.slotPeriod else s

/-- TRL_WAVE_CTL.APPLY. -/
def execWaveApply (s : State) : Host.Outcome State Fault Refusal :=
  s.ifUp fun s => (s.put F.TRL_WAVE_CTL_APPLY 1).tryWaveInHold

/-! ## Phases and faults (R283, R300) -/

/-- The charge of phase 1 against C_NOM × |ΔV|, in pC: too little, too much. -/
def State.chargeBad (s : State) (x : TrlOut) (charge : Nat) (limited : Bool) : Bool × Bool :=
  match x.phases with
  | (l, _) :: _ =>
    let nominal := s.get F.TRL_FAULT_CTL_C_NOM * (s.levelMv l).natAbs
    (decide (100 * charge < s.get F.TRL_FAULT_CTL_OPEN_PCT * nominal),
     limited || decide (s.get F.TRL_FAULT_CTL_SHORT_PCT * nominal < 100 * charge))
  | [] => (false, false)

/-- Output l of band b is marked, set to high impedance and its waveform dropped; with BLANK_ON_FAULT its band goes dark (R300). -/
def State.outFault (s : State) (b : Fin 64) (l : Fin 6) (open_ short : Bool) : State :=
  let t := if open_ then s.put (F.TRL_FAULT_OPEN b) (s.get (F.TRL_FAULT_OPEN b) ||| 2 ^ l.val) else s
  let t := if short then t.put (F.TRL_FAULT_SHORT b) (t.get (F.TRL_FAULT_SHORT b) ||| 2 ^ l.val) else t
  let t := t.onTrlOut (outIx b l) fun x => { x with level := .hiz, rest := .hiz, phases := [], open_ := 0, short := 0, inComp := false }
  let t := if t.bit F.TRL_FAULT_CTL_BLANK_ON_FAULT then { t with trl := { t.trl with blanked := t.trl.blanked ||| (1#64 <<< b.val) } } else t
  t.raise (srcTrl l)

/-- The charge of a waveform's phase 1 counted: runs of bad waveforms, and a fault after FAULT_COUNT of them. -/
def State.measureCharge (s : State) (b : Fin 64) (l : Fin 6) (charge : Nat) (limited : Bool) : State :=
  let x := s.trl.outs[outIx b l]
  let (lo, hi) := s.chargeBad x charge limited
  let n := max 1 (s.get F.TRL_FAULT_CTL_FAULT_COUNT)
  let t := s.onTrlOut (outIx b l) fun x => { x with open_ := if lo then x.open_ + 1 else 0, short := if hi then x.short + 1 else 0 }
  let y := t.trl.outs[outIx b l]
  if n ≤ y.open_ ∨ n ≤ y.short then t.outFault b l (decide (n ≤ y.open_)) (decide (n ≤ y.short)) else t

/-- The next phase starts at the end of the present one, or the output rests at the level of the last (R283). -/
def State.nextPhase (s : State) (b : Fin 64) (l : Fin 6) : State :=
  let o := outIx b l
  let x := s.trl.outs[o]
  match x.phases with
  | [] => s
  | [(lv, _)] =>
    let t := s.onTrlOut o fun x => s.judge { s.upTo x (s.edgeAt x.ends) with level := lv, rest := lv, phases := [] }
    if t.hv.settle.isSome then t.onTrlOut o fun x => { x with level := against t.settleMv x.acc }
    else (t.startComp b x.ends).tryWaveInHold
  | _ :: (lv, d) :: more =>
    let t := s.onTrlOut o fun x => { s.upTo x (s.edgeAt x.ends) with
      level := lv, phases := (lv, d) :: more, ends := x.ends + BitVec.ofNat 32 (100 * d), done := x.done + 1 }
    if x.second ≠ 0 ∧ x.second = x.done + 1 then t.overCheck o x.ends else t

/-- The phase in progress is phase 1 of a waveform, of either one of a balanced pair (R300). -/
def TrlOut.inPhase1 (x : TrlOut) : Bool :=
  if x.second ≠ 0 ∧ x.second ≤ x.done then x.done == x.second + 1 else x.done == 1

/-- TRELLIS_PHASE_END. `charge` is what the output measured in phase 1, in pC; `limited` that its current limit was held. -/
def State.phaseEnd (s : State) (b : Fin 64) (l : Fin 6) (charge : Nat) (limited : Bool) : State :=
  let x := s.trl.outs[outIx b l]
  s.when (!x.phases.isEmpty && s.reached x.ends) fun s =>
    let t := if x.inPhase1 then s.measureCharge b l charge limited else s
    t.nextPhase b l

def execTrellisPhaseEnd (b : Fin 64) (l : Fin 6) (charge : Nat) (limited : Bool) (s : State) :
    Host.Outcome State Fault Refusal := s.ifOn (·.phaseEnd b l charge limited)

/-- TRL_FAULT_CLEAR: bits written 1 clear, and an output without a fault is due a balanced pair (R300). -/
def State.faultClear (s : State) (b : Fin 64) (value : Word) : State :=
  let t := s.setReg (F.TRL_FAULT_addr b) (s.reg (F.TRL_FAULT_addr b) &&& ~~~value)
  (List.finRange 6).foldl (fun (u : State) (l : Fin 6) =>
    if s.outFaulted b l && !t.outFaulted b l then u.onTrlOut (outIx b l) fun x => { x with pair := true } else u) t

def execTrlFaultClear (b : Fin 64) (value : Word) (s : State) : Host.Outcome State Fault Refusal :=
  s.ifUp (·.faultClear b value)

/-- Outputs due a balanced pair run it from `t`, where the blank is long enough: into the other state, then into the present one, two
waveforms that follow each other. -/
def State.startPairs (s : State) (b : Fin 64) (t : Word) (blank : Nat) : State :=
  (List.finRange 6).foldl (fun (u : State) (l : Fin 6) =>
    let o := outIx b l
    let x := if s.trl.word[b].getLsbD l then 0 else 1
    let first := waveTable u.actReg u.trlBand (1 - x)
    let pair := first ++ waveTable u.actReg u.trlBand x
    if u.trl.outs[o].pair && u.trl.outs[o].phases.isEmpty && u.railsOn && decide (100 * (pair.map (·.2)).sum ≤ blank) then
      let v := ((u.onTrlOut o fun x => { x with pair := false }).stopComp o t).overCheck o t
      (v.drivePhases o pair t).onTrlOut o fun x => { x with second := first.length }
    else u) s

/-- The bands that stay dark for a fault are chosen again at a launch (R300). -/
def State.reblank (s : State) : State :=
  let bad (b : Fin 64) : Bool := s.bit F.TRL_FAULT_CTL_BLANK_ON_FAULT && ((List.finRange 6).any fun l => s.outFaulted b l)
  let due (b : Fin 64) : Bool := (List.finRange 6).any fun l => s.trl.outs[outIx b l].pair
  { s with trl := { s.trl with blanked := (List.finRange 64).foldl (fun w b =>
      if bad b || (due b && w.getLsbD b) then w else w &&& ~~~(1#64 <<< b.val)) ((List.finRange 64).foldl (fun w b =>
      if bad b then w ||| (1#64 <<< b.val) else w) s.trl.blanked) } }

/-! ## Layers that change (R38, R39, R282) -/

/-- The set bit positions of a layer mask. -/
def maskLayers (mask : Nat) : List (Fin 6) := (List.finRange 6).filter fun l => mask.testBit l

/-- The number of trailing zeros of a slot number below 64. -/
def trailing (n : Nat) : Nat := ((List.range 6).find? fun k => n.testBit k).getD 0

/-- The layer that changes at a slot's latch of band `b`. -/
def State.changing (s : State) (b : Fin 64) (slot mask : Nat) : Option (Fin 6) :=
  if slot = 0 then (List.finRange 6).reverse.find? fun l => s.trl.word[b].getLsbD l
  else (maskLayers mask)[trailing slot]?

/-- The state word of a slot (R38): the bits of the Gray code in the set positions of the mask. -/
def slotWord (mask slot : Nat) : Nat :=
  let g := slot ^^^ (slot / 2)
  (((maskLayers mask).zipIdx).map fun x => if g.testBit x.2 then 2 ^ x.1.val else 0).sum

/-- The layer change of band `b` at `t`. -/
def State.changeLayer (s : State) (b : Fin 64) (slot mask : Nat) (t : Word) : State :=
  match s.changing b slot mask with
  | some l => s.startWave b [l] (if s.trl.word[b].getLsbD l then 1 else 0) t
  | none => s

/-- Every layer of every band is in state 0 (R30). -/
def State.allZero (s : State) : Bool := s.trl.word.toList.all (· == 0)

/-! ## Initialisation (R292) -/

/-- The initialisation starts: the band in force is selected, the first pass begins. Until its end the layers are not in a
known state (DEDUCED, log 13). -/
def State.startInit (s : State) : State :=
  let t := ((s.put F.TRL_CTL_INIT 1).put F.TRL_CTL_INIT_DONE 0).selectBand
  { t with trl := { t.trl with pass := 1, passAt := t.now, passDue := BitVec.allOnes 64 } }

/-- TRL_CTL.INIT: held while the rails are not up. -/
def State.requestInit (s : State) : State :=
  if s.trl.pass != 0 then s else if s.railsOn then s.startInit else s.put F.TRL_CTL_INIT 1

def execTrellisInit (s : State) : Host.Outcome State Fault Refusal := s.ifUp State.requestInit

/-- The end of band 63's waveform of the pass in progress, started at `t`, and its SETTLE: by the table and the band in force at that start
(R287). -/
def State.lastEnd (s : State) (t : Word) : Word :=
  t + BitVec.ofNat 32 (100 * ((waveTable s.actReg s.trlBand (s.trl.pass - 1)).map (·.2)).sum + s.settleNs)

/-- The end of the pass in progress. -/
def State.passEnd (s : State) : Word := s.trl.passEnd

/-- The second pass starts once the first has ended. -/
def State.nextPass (s : State) : State :=
  if s.trl.pass = 1 ∧ s.trl.passDue = 0 ∧ s.reached s.passEnd then
    { s with trl := { s.trl with pass := 2, passAt := s.passEnd, passDue := BitVec.allOnes 64 } }
  else s

/-- INIT_PASS_WAVEFORM: band b's waveform of the pass in progress, on all six layers. -/
def State.initWave (s : State) (b : Fin 64) : State :=
  let s := s.nextPass
  let t := s.trl.passAt + BitVec.ofNat 32 (4000 * b.val)
  s.when (s.trl.pass != 0 && s.trl.passDue.getLsbD b && s.reached t) fun s =>
    let u := { s with trl := { s.trl with passDue := s.trl.passDue &&& ~~~(1#64 <<< b.val)
                                          passEnd := if b.val = 63 then s.lastEnd t else s.trl.passEnd } }
    if u.bandRows b = 0 then u else u.startWave b (List.finRange 6) (u.trl.pass - 1) t

def execInitPassWaveform (b : Fin 64) (s : State) : Host.Outcome State Fault Refusal := s.ifUp (·.initWave b)

/-- TRELLIS_INIT_DONE: the second pass has ended. -/
def State.initDone (s : State) : State :=
  s.when (s.trl.pass == 2 && s.trl.passDue == 0 && s.reached s.passEnd) fun s =>
    let t := { s with trl := { s.trl with pass := 0 } }
    (((t.put F.TRL_CTL_INIT 0).put F.TRL_CTL_INIT_DONE 1).raise (srcTrl 13)).tryWaveInHold

def execTrellisInitDone (s : State) : Host.Outcome State Fault Refusal := s.ifUp State.initDone

/-- TRL_CLR: TRL_STAT and OVER (R301). -/
def State.trlClr (s : State) : State := (s.setReg F.TRL_STAT_addr 0).put F.TRL_STAT2_OVER 0

def execTrlClr (s : State) : Host.Outcome State Fault Refusal := s.ifUp State.trlClr

end Sys2Proof.Machine
end

