-- ==== Sys2Proof/Machine/Goa.lean ====
section
/-! DEFINITION. The levels of the gate-on-array outputs (R264, R265, R298). -/

namespace Sys2Proof.Machine

/-- The clock of a pair that a register's pulse drives, from the pair's place and that of the start input. -/
def GoaReg.lines (g : GoaReg) (clock input : Nat) : BitVec 8 :=
  match g.pulse with
  | some (second, start, _) => (1#8 <<< (clock + second.toNat)) ||| (if start then 1#8 <<< input else 0)
  | none => 0

/-- GOA_STV is high. -/
def GoaReg.start (g : GoaReg) : Bool :=
  match g.pulse with
  | some (_, start, _) => start
  | none => false

/-- The levels of GOA_CK[7:0] and GOA_STV; none at 0 V. -/
def Goa.lines (g : Goa) : Option (BitVec 8 × Bool) :=
  if g.on then some ((g.scan.lines 0 8 ||| g.dark.lines 2 4) ||| g.light.lines 5 7, g.scan.start) else none

/-- The outputs changed, and what they then drive. -/
def State.setGoa (s : State) (g : Goa) : State :=
  let t := { s with trl := { s.trl with goa := g } }
  if g.lines = s.trl.goa.lines then t else t.emit (.goaLines g.lines)

/-- A pulse of a register up to `ends`; the other clock of the pair pulses next. -/
def GoaReg.shift (g : GoaReg) (start : Bool) (ends : Word) : GoaReg := ⟨!g.second, some (g.second, start, ends)⟩

/-- A register after a pulse whose end is reached. -/
def GoaReg.settle (g : GoaReg) (s : State) : GoaReg :=
  match g.pulse with
  | some (_, _, t) => if s.reached t then { g with pulse := none } else g
  | none => g

/-- Pulses that have ended. -/
def State.endPulses (s : State) : State :=
  let g := s.trl.goa
  if g.scan.pulse.isNone && g.dark.pulse.isNone && g.light.pulse.isNone then s
  else s.setGoa { g with scan := g.scan.settle s, dark := g.dark.settle s, light := g.light.settle s }

/-- GOA_CK at VGL or at 0 V (R298). -/
def State.powerGoa (s : State) (on : Bool) : State :=
  s.setGoa { s.trl.goa with on := on, scan := { s.trl.goa.scan with pulse := none }, dark := { s.trl.goa.dark with pulse := none },
                            light := { s.trl.goa.light with pulse := none } }

/-- The end of a shift of the dark or light register that starts at `t`: its length is free, below a band step (R264, log 14). -/
def State.shiftEnd (s : State) (t : Word) : Word × State :=
  let (w, s) := s.draw
  (t + 1 + BitVec.ofNat 32 (w.toNat % max 1 (s.slotPeriod / 64 - 1)), s)

/-- The shift of the dark register that reaches band `b`. -/
def State.shiftDark (s : State) (b : Fin 64) (t : Word) : State :=
  if !s.trl.goa.on then s
  else
    let (e, s) := s.shiftEnd t
    s.setGoa { s.trl.goa with dark := s.trl.goa.dark.shift (b.val == 0) e }

/-- The shift of the light register that reaches band `b`. -/
def State.shiftLight (s : State) (b : Fin 64) (t : Word) : State :=
  if !s.trl.goa.on then s
  else
    let (e, s) := s.shiftEnd t
    s.setGoa { s.trl.goa with light := s.trl.goa.light.shift (b.val == 0) e }

/-- A pulse of the scan register, up to `ends`; `start` for the first of band 0. -/
def State.shiftScan (s : State) (start : Bool) (ends : Word) : State :=
  if !s.trl.goa.on then s else s.setGoa { s.trl.goa with scan := s.trl.goa.scan.shift start ends }

end Sys2Proof.Machine
end

