-- ==== Sys2Proof/Machine/Hvps.lean ====
section
/-! DEFINITION. The high-voltage supplies (R293–R299): the power-on and power-off sequences of the rails, the settle sequence,
brown-outs, rail faults and restarts. HVPS_CTL.STATE is the state of R302. -/

namespace Sys2Proof.Machine

/-- HVPS_CTL.STATE. -/
def State.hvState (s : State) : Nat := s.get F.HVPS_CTL_STATE

/-- The supplies changed beyond their registers. -/
def State.onHv (s : State) (f : Hvps → Hvps) : State := { s with hv := f s.hv }

/-- The state in which the high-voltage die carries out its sequences: not without VDDAO and not held in reset (R407 is
carried out whole by the reset). -/
def State.hvRuns (s : State) : Bool := s.mode != .off && s.mode != .reset && s.mode != .shutdown

/-- A converter runs. -/
def State.converting (s : State) : Bool := s.hvState == 1 || s.hvState == 2 || s.hvState == 4

/-! ## The settle sequence (R294) -/

/-- The band of an output. -/
def outBand (o : Fin 384) : Fin 64 := ⟨o.val / 6, by omega⟩

/-- An output takes part in a settle: it is not faulted, and its band has rows (R280, R294, R300). -/
def State.settles (s : State) (o : Fin 384) : Bool := !s.outFaulted (outBand o) (o.val % 6) && s.bandRows (outBand o) != 0

/-- An output is driven against its ledger from `t` on, where it runs no waveform and takes part. -/
def State.settleOut (s : State) (o : Fin 384) (t : Word) : State :=
  let x := s.trl.outs[o]
  if x.phases.isEmpty && s.settles o then
    s.onTrlOut o fun x => let y := s.upTo x t; { y with level := against s.settleMv y.acc }
  else s

/-- VSP and VSN are up, and TRL_COM[5:0] at 0 V with them (R280, R298): from their check in the power-on sequence until the power-off
sequence. The manual gives no other level of TRL_COM. -/
def State.comHeld (s : State) : Bool := s.hvState == 2 || s.hvState == 4 || (s.hvState == 1 && decide (3 ≤ s.hv.step))

/-- Step 2 of R294: all outputs together. -/
def State.startSettle (s : State) : State :=
  let t := (s.flushRails.put F.HVPS_CTL_STATE 4).onHv fun h => { h with settle := some s.now }
  (List.finRange 384).foldl (fun (u : State) (o : Fin 384) => u.settleOut o s.now) t

/-- What is left on a ledger is above one step of 100 ns. -/
def State.residue (s : State) (x : TrlOut) : Bool := decide (100 * s.settleMv < x.acc.natAbs)

/-- Every output has stopped. -/
def State.settled (s : State) : Bool :=
  (List.finRange 384).all fun o =>
    let x := s.trl.outs[o]
    x.phases.isEmpty && (!s.settles o || decide ((x.acc + s.driven x s.now).natAbs < 100 * s.settleMv))

/-! ## The sequences (R298) -/

/-- An output brought up to date and set to high impedance. -/
def State.toHiZ (s : State) (x : TrlOut) : TrlOut :=
  { s.runPhases s.now x.phases x with level := .hiz, rest := .hiz, phases := [] }

/-- The light-register stage of a band without emission. -/
def BandDrive.unlit (d : BandDrive) : BandDrive := { d with lit := false }

/-- The power-off sequence starts: outputs at high impedance, GOA_DIS high. A pass of the initialisation in progress ends (R299). -/
def State.powerOff (s : State) : State :=
  let t := { s with
    trl := { s.trl with outs := s.trl.outs.map s.toHiZ, bands := s.trl.bands.map BandDrive.unlit, pass := 0 } }
  (t.put F.HVPS_CTL_STATE 3).onHv fun h => { h with start := s.now, step := 0, settle := none, dis := true }

/-- The power-on sequence starts, with GOA_CK at 0 V. `noInit` marks the one of a wake (R293). -/
def State.powerOn (s : State) (noInit : Bool) : State :=
  ((s.powerGoa false).put F.HVPS_CTL_STATE 1).onHv fun h => { h with
    start := s.now, step := 0, settle := none, faulted := false, noInit := noInit, dis := true }

/-- A fault: GOA_DIS high, no new waveform, power-off (R299). -/
def State.faultOff (s : State) : State := (s.powerOff).onHv fun h => { h with faulted := true }

/-- The fault bit of a rail set, with its event (R299, R303). -/
def State.railBit (s : State) (kind : RailFaultKind) (k : Fin 4) : State :=
  let set (f : Field) (n : Nat) : State := (s.put f (s.get f ||| 2 ^ k.val)).raise (srcHvps (n + k))
  match kind with
  | .uv => set F.HVPS_FAULT_UV 0
  | .ov => set F.HVPS_FAULT_OV 4
  | .oc => set F.HVPS_FAULT_OC 8
  | .noStart => set F.HVPS_FAULT_NOSTART 12

/-- The power-on sequence is complete: event 16, outputs in compensation of dark bands are driven, and the initialisation where it is
due (R290, R292, R298). -/
def State.powerOnDone (s : State) : State :=
  let t := ((s.put F.HVPS_CTL_STATE 2).onHv fun h => { h with restarts := 0, dis := false }).startComps.raise (srcHvps 16)
  if t.bit F.TRL_CTL_INIT || (!t.hv.noInit && t.bit F.TRL_CTL_AUTO_INIT) then t.startInit else t

/-- The power-off sequence is complete: event 17; event 21 where a fault has used every restart. A latched shutdown stops
the logic now (R298, R299, R367). -/
def State.powerOffDone (s : State) : State :=
  let t := ((s.put F.HVPS_CTL_STATE (if s.hv.faulted then 5 else 0)).onHv fun h => { h with start := s.now, offAt := s.clock }).raise (srcHvps 17)
  let t := t.raiseIf (t.hv.faulted && t.bit F.HVPS_CTL_AUTO_RESTART && decide (3 ≤ t.hv.restarts)) (srcHvps 21)
  if t.bit F.TMON_SD_CAUSE_VALID then { t with mode := .shutdown } else t

/-- The instants of the power-on table, in ns, with the rails checked at each. -/
def onTable : List (Nat × List (Fin 4)) := [(500000, [0]), (1000000, [1]), (1800000, [2, 3]), (2000000, [])]

/-- The instants of the power-off table, in ns. -/
def offTable : List Nat := [1500000, 3000000, 4500000]

/-- The next instant of the power-on table: a rail below 90 % of its setting stops the sequence. GOA_CK stand at VGL from 500 µs. -/
def State.onStep (s : State) (reached : BitVec 4) : State :=
  match onTable[s.hv.step]? with
  | none => s
  | some x => s.when (s.reached (s.hv.start + BitVec.ofNat 32 x.1)) fun s =>
      let rails : List (Fin 4) := x.2
      let bad := rails.filter fun (k : Fin 4) => !reached.getLsbD k
      if !bad.isEmpty then (bad.foldl (fun (u : State) (k : Fin 4) => u.railBit .noStart k) s).faultOff
      else
        let t := s.onHv fun h => { h with step := h.step + 1 }
        if s.hv.step = 2 then
          (List.finRange 64).foldl (fun (u : State) (b : Fin 64) => (List.finRange 6).foldl (fun (u : State) (l : Fin 6) =>
            if u.outFaulted b l then u
            else u.onTrlOut (outIx b l) fun x => { x with since := s.now, level := .zero, rest := .zero }) u) t
        else if s.hv.step = 3 then t.powerOnDone else if s.hv.step = 0 then t.powerGoa true else t

/-- The next instant of the power-off table. GOA_CK fall with VGL (DEDUCED, log 15). -/
def State.offStep (s : State) : State :=
  match offTable[s.hv.step]? with
  | none => s
  | some ns => s.when (s.reached (s.hv.start + BitVec.ofNat 32 ns)) fun s =>
      if s.hv.step = 2 then s.powerOffDone
      else (if s.hv.step = 1 then s.powerGoa false else s).onHv fun h => { h with step := h.step + 1 }

/-- RAIL_SEQ_STEP. `reached` says which rails stand at 90 % of their setting or above. -/
def State.railStep (s : State) (reached : BitVec 4) : State :=
  if !s.hvRuns then s else if s.hvState = 1 then s.onStep reached else if s.hvState = 3 then s.offStep else s

def execRailSeqStep (reached : BitVec 4) (s : State) : Host.Outcome State Fault Refusal := .next (s.railStep reached)

/-- HVPS_CTL.ON. -/
def State.hvpsOn (s : State) : State :=
  s.when (s.hvState == 0 || s.hvState == 5) fun s => (s.onHv fun h => { h with restarts := 0 }).powerOn false

def execHvpsOn (s : State) : Host.Outcome State Fault Refusal := s.ifUp State.hvpsOn

/-- The settle sequence from its second step, then power-off (R293, R294); power-off at once while the outputs are not yet driven
(log 15). -/
def State.settleDown (s : State) : State :=
  if s.hvState = 2 ∨ (s.hvState = 1 ∧ 3 ≤ s.hv.step) then s.startSettle
  else if s.hvState = 1 then s.powerOff else s

/-- HVPS_CTL.OFF: settle with GOA_DIS high from its start, then power-off. -/
def State.hvpsOff (s : State) : State := ((s.when s.converting (·.onHv fun h => { h with dis := true }))).settleDown

def execHvpsOff (s : State) : Host.Outcome State Fault Refusal := s.ifUp State.hvpsOff

/-! ## Brown-outs and faults (R294, R296, R299) -/

/-- VHV_BROWNOUT: step 1 of R294, then the settle sequence, where the rails are not off or falling already. -/
def State.brownout (s : State) : State :=
  (((s.put F.HVPS_FAULT_BROWNOUT 1).raise (srcHvps 18)).onHv fun h => { h with brown := true, dis := true }).when
    (s.converting && s.hvState != 4) State.hvpsOff

def execVhvBrownout (s : State) : Host.Outcome State Fault Refusal := .next (if s.hvRuns then s.brownout else s)

/-- BROWNOUT_SETTLE_END: 2 ms have passed or every output has stopped; a residue raises Trellis event 14. -/
def State.settleEnd (s : State) : State :=
  match s.hv.settle with
  | none => s
  | some t => s.when (s.hvState == 4 && (s.reached (t + 2000000) || s.settled)) fun s =>
      let u := s.powerOff
      u.raiseIf (u.trl.outs.toList.any s.residue) (srcTrl 14)

def execBrownoutSettleEnd (s : State) : Host.Outcome State Fault Refusal := .next (if s.hvRuns then s.settleEnd else s)

/-- VHV_RECOVERED, once the rails are off. -/
def State.vhvRecovered (s : State) : State :=
  s.when (s.hv.brown && (s.hvState == 0 || s.hvState == 5) && s.bit F.HVPS_CTL_AUTO_RESTART) fun s =>
    ((s.onHv fun h => { h with brown := false }).powerOn false).raise (srcHvps 19)

def execVhvRecovered (s : State) : Host.Outcome State Fault Refusal := s.ifUp State.vhvRecovered

/-- A fault's effect: the power-off sequence, which one in progress goes on as (R299). -/
def State.faultNow (s : State) : State :=
  if s.converting then s.faultOff else s.when (s.hvState == 3) (·.onHv fun h => { h with faulted := true })

/-- VHV_OVERVOLTAGE. -/
def State.overvoltage (s : State) : State := ((s.put F.HVPS_FAULT_VHV_OV 1).raise (srcHvps 20)).faultNow

def execVhvOvervoltage (s : State) : Host.Outcome State Fault Refusal := s.ifOn State.overvoltage

/-- The instants of the power-on table that a rail has passed as it is watched for a fault: its soft start, or for a voltage below its
setting its check (R298, R299). -/
def railFrom (kind : RailFaultKind) (k : Fin 4) : Nat := min k.val 2 + (if kind = .uv then 1 else 0)

/-- A rail is on and can have a fault: VSP and VSN go off at the start of power-off, VGH at 1,500 µs, VGL at 3,000 µs (R298). -/
def State.railWatched (s : State) (kind : RailFaultKind) (k : Fin 4) : Bool :=
  if s.hvState = 1 then decide (railFrom kind k ≤ s.hv.step) || kind == .noStart
  else if s.hvState = 3 then decide (k.val + s.hv.step < 2) else s.converting

/-- RAIL_FAULT. -/
def State.railFault (s : State) (kind : RailFaultKind) (k : Fin 4) : State :=
  s.when (s.railWatched kind k) fun s => (s.railBit kind k).faultNow

def execRailFault (kind : RailFaultKind) (k : Fin 4) (s : State) : Host.Outcome State Fault Refusal :=
  s.ifUp (·.railFault kind k)

/-- RAIL_RESTART: 100 ms after the power-off of a fault, at most 3 times. -/
def State.railRestart (s : State) : State :=
  s.when (s.hvState == 5 && s.bit F.HVPS_CTL_AUTO_RESTART && decide (s.hv.restarts < 3) &&
      s.reached (s.hv.start + 100000000)) fun s => (s.onHv fun h => { h with restarts := h.restarts + 1 }).powerOn false

def execRailRestart (s : State) : Host.Outcome State Fault Refusal := s.ifUp State.railRestart

/-- HVPS_MEAS_UPDATE: the ledgers count by the old reading up to now (R289, R302). VHV is measured with the rails (DESIGN CHOICE, log
15: R302 gives no instants for it). -/
def State.measUpdate (s : State) (k : Fin 4) (mv vhv : BitVec 16) : State :=
  s.when (s.hvState != 0 && s.hvState != 5) fun s =>
    (s.flushRails.put (F.HVPS_MEAS_MV k) mv.toNat).put F.HVPS_VHV_MV vhv.toNat

def execHvpsMeasUpdate (k : Fin 4) (mv vhv : BitVec 16) (s : State) : Host.Outcome State Fault Refusal :=
  s.ifUp (·.measUpdate k mv vhv)

/-! ## Resets (R407) -/

/-- An output settled whole: its waveform completes, and it is driven against its ledger for at most 2 ms where it takes part. -/
def State.settleWhole (s : State) (o : Fin 384) (x : TrlOut) : TrlOut :=
  let y := if x.phases.isEmpty then s.upTo x s.now else s.runPhases (s.now + 10000000) x.phases x
  let moved : Int := 100 * s.settleMv * (min 20000 (y.acc.natAbs / (100 * s.settleMv)) : Nat)
  { y with acc := if !s.settles o then y.acc else if 0 < y.acc then y.acc - moved else y.acc + moved
           level := .hiz, rest := .hiz, phases := [] }

/-- Steps 1–3 of R294 on the high-voltage die alone, carried out whole: waveforms complete, each output is driven against its
ledger, the rails turn off, and GOA_CK fall to 0 V. -/
def State.settleInReset (s : State) : State :=
  (if s.comHeld then (List.finRange 384).foldl (fun (u : State) (o : Fin 384) => u.onTrlOut o (s.settleWhole o)) s else s).powerGoa false

end Sys2Proof.Machine
end

