-- ==== Sys2Proof/Machine/DramAccess.lean ====
section
/-! DEFINITION. Access to the external DRAM by the units (R324, R325, R337): what is populated, what reads 0, what the
inline code reports. -/

namespace Sys2Proof.Machine

/-- The first DRAM address (R324). -/
def dramBase : Nat := 0x8000000000

/-- Bytes populated: 8 channels of 512 MiB × 2^(CAP − 1), none with CAP 0 (R324, R339). -/
def State.dramSize (s : State) : Nat :=
  let cap := s.get F.DRAMC_CFG_CAP
  if cap = 0 ∨ cap = 7 then 0 else 8 * (536870912 * 2 ^ (cap - 1))

/-- The controller serves requests (R325). -/
def State.dramServes (s : State) : Bool := s.bit F.DRAMC_CTL_EN && s.bit F.DRAMC_CTL_READY

/-- The PLL of an interface runs: it is enabled and locked (R341, R348). -/
def State.dramClock (s : State) (interface : Nat) : Bool :=
  if interface = 0 then s.bit (F.PLL_CTL_LOCK 2) else s.bit (F.PLL_CTL_LOCK 3)

/-- It serves those of an interface now: it is awake, changes no frequency, and the interface's PLL runs (R333, R335, R348). -/
def State.dramAwake (s : State) (interface : Nat) : Bool :=
  s.dramServes && !s.dram.asleep && s.dram.change.isNone && s.dramClock interface && s.mode != .entry

/-- It serves requests now that spread over both interfaces, as those of every 2 KiB block do (R327). -/
def State.dramReady (s : State) : Bool := s.dramAwake 0 && s.dramAwake 1

/-! ## Channels, banks and rows (R326, R331) -/

/-- The hash bit of a mask at an offset. -/
def hashBit (mask : Word) (off : Nat) : Nat :=
  (((List.range 31).filter fun i => mask.getLsbD i && off.testBit (i + 6)).length) % 2

/-- Bit k of the channel and bank number: C0 to C2, then B0 to B3. -/
def State.hashOf (s : State) (k off : Nat) : Nat := hashBit (s.reg (F.DRAMC_HASH_addr k)) off

/-- The channel and bank of an offset. -/
def State.channelOf (s : State) (off : Nat) : Nat := s.hashOf 0 off + 2 * s.hashOf 1 off + 4 * s.hashOf 2 off
def State.bankOf (s : State) (off : Nat) : Nat :=
  s.hashOf 3 off + 2 * s.hashOf 4 off + 4 * s.hashOf 5 off + 8 * s.hashOf 6 off

/-- The home of a mask: its lowest selected offset bit. -/
def maskHome (mask : Word) : Nat := (((List.range 31).find? fun i => mask.getLsbD i).getD 31) + 6

/-- The row of an offset: the bits that are no mask's home, but for the lowest five, which give the column. -/
def State.rowOf (s : State) (off : Nat) : Nat :=
  let homes := (List.range 7).map fun k => maskHome (s.reg (F.DRAMC_HASH_addr k))
  let bits := (((List.range 34).map (· + 6)).filter fun i => !homes.contains i).drop 5
  (bits.zipIdx.map fun x => (off.testBit x.1).toNat * 2 ^ x.2).sum

/-- An access to the burst at an offset: a page miss where its bank has another row open; the row stays open unless PAGE_IDLE
is 0 (R331, R339). -/
def State.touchBurst (s : State) (off : Nat) : State :=
  let ch := s.channelOf off
  let key := 16 * ch + s.bankOf off
  let row := s.rowOf off
  let open_ := s.dram.rows.find? fun x => x.1 == key
  let missed := match open_ with
    | some x => x.2.1 != row
    | none => false
  let rest := s.dram.rows.filter fun x => x.1 != key
  let k : Fin 8 := Fin.ofNat 8 ch
  { s with dram := { s.dram with
    lastReq := s.now
    misses := if missed then s.dram.misses.set k (s.dram.misses[k] + 1) else s.dram.misses
    rows := if s.get F.DRAMC_PAGE_IDLE_NS = 0 then rest else (key, row, s.now) :: rest } }

/-- A request that comes before the self-refresh entry command aborts the entry, with event 9 (R333). -/
def State.abortEntry (s : State) : State :=
  s.when s.dram.entering fun s => { s with dram := { s.dram with entering := false } }.raise (srcDram 9)

/-- An access to a range of DRAM, burst by burst. -/
def State.touch (s : State) (a n : Nat) : State :=
  let lo := (a - dramBase) / 64
  (List.range ((a - dramBase + n + 63) / 64 - lo)).foldl (fun t i => t.touchBurst (64 * (lo + i))) s.abortEntry

/-- An offset lies in the check codes of an enabled ECC region: its last 1/16 (R337). -/
def State.inCodeArea (s : State) (off : Nat) : Bool :=
  (List.range 8).any fun r =>
    let lo := s.get (F.DRAMC_ECC_BASE_BASE_MB r) * 1048576
    let n := s.get (F.DRAMC_ECC_SIZE_SIZE_MB r) * 1048576
    s.bit (F.DRAMC_ECC_BASE_EN r) && decide (lo + n / 16 * 15 ≤ off ∧ off < lo + n)

/-- An address holds data: populated, outside the reserved 128 KiB and the check codes (R324). -/
def State.dramData (s : State) (a : Nat) : Bool :=
  decide (dramBase ≤ a ∧ a + 131072 < dramBase + s.dramSize) && !s.inCodeArea (a - dramBase)

/-- An offset lies in the data of an enabled ECC region: its first 15/16 (R337). -/
def State.inEccData (s : State) (off : Nat) : Bool :=
  (List.range 8).any fun r =>
    let lo := s.get (F.DRAMC_ECC_BASE_BASE_MB r) * 1048576
    let n := s.get (F.DRAMC_ECC_SIZE_SIZE_MB r) * 1048576
    s.bit (F.DRAMC_ECC_BASE_EN r) && decide (lo ≤ off ∧ off < lo + n / 16 * 15)

/-! ## What the codes of DRAM and on-chip memory report (R322, R337) -/

/-- Bytes under one code: a burst of DRAM, a word of on-chip memory. -/
def hitUnit (h : EccHit) : Nat := if dramBase ≤ h.addr then 64 else 8

/-- The error lies in the burst or word of an address. -/
def hitHolds (h : EccHit) (a : Nat) : Bool := a / hitUnit h == h.addr / hitUnit h

/-- The error lies in a burst or word that a range touches; one that it covers whole. -/
def hitMeets (h : EccHit) (a n : Nat) : Bool :=
  decide (0 < n ∧ a / hitUnit h ≤ h.addr / hitUnit h ∧ h.addr / hitUnit h ≤ (a + n - 1) / hitUnit h)
def hitInside (h : EccHit) (a n : Nat) : Bool :=
  decide (a ≤ h.addr / hitUnit h * hitUnit h ∧ h.addr / hitUnit h * hitUnit h + hitUnit h ≤ a + n)

/-- A code protects the address: on-chip memory always, DRAM in the data of an enabled region. -/
def State.eccCovers (s : State) (h : EccHit) : Bool :=
  if dramBase ≤ h.addr then s.dramData h.addr && s.inEccData (h.addr - dramBase) else onChip h.addr 1

/-- The errors that a read of a range meets; those that the read of a read-modify-write meets (R337). -/
def State.eccIn (s : State) (a n : Nat) (ecc : List EccHit) : List EccHit := ecc.filter fun h => hitMeets h a n && s.eccCovers h
def State.eccPartly (s : State) (a n : Nat) (ecc : List EccHit) : List EccHit :=
  (s.eccIn a n ecc).filter fun h => !hitInside h a n

/-- The report of an error: a corrected one is counted, an uncorrectable one is recorded with its burst or word. -/
def State.eccReport (s : State) (h : EccHit) : State :=
  if dramBase ≤ h.addr then
    if h.fixed then (s.count F.DRAMC_ECC_STAT_CORR).raise (srcDram 1)
    else ((s.count F.DRAMC_ECC_STAT_UNCORR).put F.DRAMC_ECC_ADDR_BURST ((h.addr - dramBase) / 64)).raise (srcDram 2)
  else if h.fixed then (s.count F.DRAMC_OCM_ECC_CORR).raise (srcDram 13)
  else (s.put F.DRAMC_OCM_ECC_ADDR (h.addr / 8)).raise (srcDram 14)

/-- The reports of errors, in order. -/
def State.eccReports (s : State) (ecc : List EccHit) : State := ecc.foldl State.eccReport s

/-- An uncorrectable error lies in a range. -/
def State.eccBad (s : State) (a n : Nat) (ecc : List EccHit) : Bool := (s.eccIn a n ecc).any fun h => !h.fixed

/-- The byte that a unit gets at an address: a free value under an uncorrectable error (the manual gives none; log 18). -/
def State.byteGot (s : State) (ecc : List EccHit) (a : Nat) (b : Byte) : Byte :=
  if s.eccBad a 1 ecc then Config.freeByte s.free a else b

/-- The state after a read of a range: its errors are reported, and the free values under them used up. -/
def State.readHits (s : State) (a n : Nat) (ecc : List EccHit) : State :=
  let t := s.eccReports (s.eccIn a n ecc)
  if s.eccBad a n ecc then { t with free := t.free + 1 } else t

/-! ## Reads and writes (R324, R329) -/

/-- One byte of DRAM: 0 where no data is held (R324). -/
def State.dramByte (s : State) (a : Nat) : Byte := if s.dramData a then s.mem.readByte a else 0

/-- `n` bytes read, with event 3 where an address holds no data (R324), and the errors met. -/
def State.dramRead (s : State) (a n : Nat) (ecc : List EccHit := []) : List Byte × State :=
  let t := (s.touch a n).raiseIf ((List.range n).any fun i => !s.dramData (a + i)) (srcDram 3)
  ((List.range n).map fun i => s.byteGot ecc (a + i) (s.dramByte (a + i)), t.readHits a n ecc)

/-- Bytes written where the addresses hold data, with event 3 where they do not (R324). -/
def State.dramPut (s : State) (a : Nat) : List Byte → State
  | [] => s
  | b :: bs => State.dramPut (if s.dramData a then { s with mem := s.mem.writeByte a b } else s) (a + 1) bs

/-- Bytes written; a burst written in part is read first, with the errors met (R337). -/
def State.dramWrite (s : State) (a : Nat) (bs : List Byte) (ecc : List EccHit := []) : State :=
  (((s.dramPut a bs).touch a bs.length).raiseIf ((List.range bs.length).any fun i => !s.dramData (a + i)) (srcDram 3)).eccReports
    (s.eccPartly a bs.length ecc)

/-- A memory range that a unit may name: on-chip, or in the populated DRAM (R320, R324). -/
def State.memRange (s : State) (a n : Nat) : Bool := onChip a n || decide (dramBase ≤ a ∧ a + n ≤ dramBase + s.dramSize)

/-- Bytes read from on-chip memory or DRAM. -/
def State.readAny (s : State) (a n : Nat) (ecc : List EccHit := []) : List Byte × State :=
  if dramBase ≤ a then s.dramRead a n ecc
  else ((List.range n).map fun i => s.byteGot ecc (a + i) (s.mem.readByte (a + i)), s.readHits a n ecc)

/-- The state after the reads of memory ranges, with what they report. -/
def State.readRanges (s : State) (l : List (Nat × Nat)) (ecc : List EccHit) : State :=
  l.foldl (fun t r => (t.readAny r.1 r.2 ecc).2) s

/-- A byte of on-chip memory or DRAM. -/
def State.byteAny (s : State) (a : Nat) : Byte := if dramBase ≤ a then s.dramByte a else s.mem.readByte a

/-- Bytes written to on-chip memory or DRAM. -/
def State.writeAny (s : State) (a : Nat) (bs : List Byte) (ecc : List EccHit := []) : State :=
  if dramBase ≤ a then s.dramWrite a bs ecc else s.store a bs

/-! ## Service by class and age (R328, R329) -/

/-- The job at the front of lane `n` plays a clip. -/
def State.playsClip (s : State) (n : Fin 32) : Bool :=
  match s.codec.lanes[n].jobs.head? with
  | some j => (if j.words.isEmpty then s.word j.desc else j.words.getD 0 0).toNat % 4 == 2
  | none => false

/-- The class in which a source's requests travel. -/
def State.srcClass (s : State) : DramSource → Nat
  | .calReload => 0
  | .lane n => if s.playsClip n then 0 else 1
  | .recorder => 1
  | .rawRing => 1
  | .racking => 2
  | .spill _ => 2
  | .panelCmd => 3
  | .hostDma r => if s.get (F.HOST_DMA_CFG_CLASS r) = 1 then 1 else 3

/-- A training step holds channel `ch`: for 2 µs, the longest it may (R336; DESIGN CHOICE, log 18). -/
def State.stepHolds (s : State) (ch : Fin 8) : Bool :=
  match s.dram.stepAt[ch] with
  | some t => decide (s.since t < 2000) && s.dram.steps != 0
  | none => false

/-- A channel serves requests now. -/
def State.chanServes (s : State) (ch : Fin 8) : Bool := s.dramAwake (ch / 4) && !s.stepHolds ch

/-- A source's own access of a command goes ahead of what waits: every channel serves, and no earlier request of the source, no
promoted one and none of its class or a higher one waits; in wake step 4 only class C0 goes (R323). -/
def State.dramGrants (s : State) (src : DramSource) : Bool :=
  (List.finRange 8).all (fun ch => s.chanServes ch) && (s.mode != .wake 4 || s.srcClass src == 0) &&
  s.dram.queue.all fun q => q.src != src && !q.promoted && decide (s.srcClass src < q.cls)

/-- The state with the controller changed. -/
def State.onDram (s : State) (f : DramUnit → DramUnit) : State := { s with dram := f s.dram }

/-- The channel of a request. -/
def State.reqChannel (s : State) (q : DramReq) : Nat := s.channelOf (q.addr - dramBase)

/-- Requests of a channel that may be served: each the oldest of its source; in wake step 4 those of class C0 (R323). -/
def State.waitingOn (s : State) (ch : Nat) : List DramReq :=
  let l := s.dram.queue
  ((l.zipIdx).filter fun x => s.reqChannel x.1 == ch && (s.mode != .wake 4 || x.1.cls == 0) &&
    !(l.take x.2).any fun q => q.src == x.1.src).map (·.1)

/-- The request that a channel serves next: a promoted one before all others, but while a C0 request waits one of C1 to C3 at
most once in four; then the highest class, oldest first. -/
def State.nextRequest (s : State) (ch : Fin 8) : Option DramReq :=
  let l := s.waitingOn ch
  let c0 := l.any fun q => q.cls == 0
  let held := c0 && decide (s.dram.served[ch] < 3)
  match l.find? fun q => q.promoted && !(held && q.cls != 0) with
  | some q => some q
  | none => (List.range 4).findSome? fun c => l.find? fun q => q.cls == c

/-- A request is served: its data read or written, with the reports of the inline code. -/
def State.serve (s : State) (ch : Fin 8) (q : DramReq) : State :=
  let n := if q.promoted && q.cls != 0 then 0 else s.dram.served[ch] + 1
  let t := s.onDram fun d => { d with queue := d.queue.erase q, served := d.served.set ch n }
  match q.op with
  | .read k =>
    let (bs, t) := t.dramRead q.addr k q.ecc
    { t with rdata := bytesWord bs 0 }
  | .write bs => t.dramWrite q.addr bs q.ecc

/-- Requests served as long as a channel has one that it serves now. -/
def State.drain : Nat → State → State
  | 0, s => s
  | n + 1, s =>
    match (List.finRange 8).findSome? fun (ch : Fin 8) =>
      if s.chanServes ch then (s.nextRequest ch).map fun q => (ch, q) else none with
    | some (ch, q) => State.drain n (s.serve ch q)
    | none => s

/-- The controller serves what waits. -/
def State.drainAll (s : State) : State := s.drain s.dram.queue.length

/-- A request in its source's class: held at its unit until the controller serves it (R325, R333, R335). -/
def State.request (s : State) (src : DramSource) (addr : Nat) (op : DramOp) (ecc : List EccHit := []) : State :=
  s.when (decide (dramBase ≤ addr)) fun s =>
    let t := s.abortEntry
    (t.onDram fun d =>
      { d with lastReq := t.now, queue := d.queue ++ [⟨src, t.srcClass src, addr, op, ecc, t.now, false⟩] }).drainAll

/-- A source's write: at once in on-chip memory, a request in DRAM. -/
def State.requestWrite (s : State) (src : DramSource) (addr : Nat) (bs : List Byte) : State :=
  if dramBase ≤ addr then s.request src addr (.write bs) else s.store addr bs

end Sys2Proof.Machine
end

