-- ==== Sys2Proof/Machine/Dram.lean ====
section
/-! DEFINITION. The DRAM controller (R322–R340): initialisation, hash masks, service by class and age, pages, refresh, self-refresh,
frequency change, training steps, scrub. -/

namespace Sys2Proof.Machine

/-- A configuration write is refused (R327, R334, R337). -/
def State.dramRefuse (s : State) : State := (s.put F.DRAMC_CTL_CFG_BAD 1).raise (srcDram 12)

/-! ## Requests (R328) -/

/-- DRAM_REQUEST: a source's request, in the class that R328 gives the source. -/
def execDramRequest (src : DramSource) (addr : BitVec 40) (op : DramOp) (ecc : List EccHit) (s : State) :
    Host.Outcome State Fault Refusal := s.ifUp (·.request src addr.toNat op ecc)

/-- A request of a channel is older than its class's AGE_NS. -/
def State.aged (s : State) (ch : Nat) (q : DramReq) : Bool :=
  let age := s.get (F.DRAMC_AGE_AGE_NS q.cls)
  decide (s.reqChannel q = ch ∧ age ≠ 0 ∧ age < s.since q.issued)

/-- AGE_PROMOTE. -/
def execAgePromote (ch : Fin 8) (s : State) : Host.Outcome State Fault Refusal :=
  s.ifUp fun s =>
    let queue := s.dram.queue.map fun q => if s.aged ch q then { q with promoted := true } else q
    (s.onDram fun d => { d with queue := queue }).drainAll

/-! ## Initialisation (R325, R327) -/

/-- DRAMC_CTL.INIT. -/
def execDramInit (s : State) : Host.Outcome State Fault Refusal :=
  s.ifUp fun s => s.when (!s.bit F.DRAMC_CTL_EN) fun s => (s.put F.DRAMC_CTL_INIT 1).put F.DRAMC_CTL_READY 0

/-- The enabled ECC regions as byte ranges. -/
def State.eccRegions (s : State) : List (Nat × Nat) :=
  (List.range 8).filterMap fun r =>
    let lo := dramBase + s.get (F.DRAMC_ECC_BASE_BASE_MB r) * 1048576
    if s.bit (F.DRAMC_ECC_BASE_EN r) then some (lo, lo + s.get (F.DRAMC_ECC_SIZE_SIZE_MB r) * 1048576) else none

/-- The VCO frequency of a PLL's divider set, in MHz, by its registers (R342). -/
def vcoMhz (get : Field → Nat) (n j : Nat) : Nat :=
  25 * (get (F.PLL_DIV_N n j) * 2 ^ 24 + get (F.PLL_FRAC_F n j)) / ((get (F.PLL_DIV_R_M1 n j) + 1) * 2 ^ 24)

/-- A band slot of a PLL holds a result; the code is what the search found. -/
def State.storeBand (s : State) (n k mhz code : Nat) : State :=
  ((s.put (F.PLL_BAND_FREQ_MHZ n k) mhz).put (F.PLL_BAND_BAND n k) code).put (F.PLL_BAND_VALID n k) 1

/-- The band search of both divider sets of a DRAM PLL, its codes free values; the PLL, where it is enabled, runs on set 0 (R341,
R345). -/
def State.searchBoth (s : State) (n : Fin 6) : State :=
  let t := [0, 1].foldl (fun (u : State) j =>
    let (w, v) := u.draw
    (v.storeBand n j (vcoMhz v.get n j) (w.toNat % 128)).raise (srcPll n 2)) s
  let on := t.bit (F.PLL_CTL_EN n)
  let u := (((t.put (F.PLL_STAT_SLOT n) 0).putB (F.PLL_CTL_LOCK n) on).putB (F.PLL_CTL_GATED n) !on)
  { u with pll := u.pll.set n { u.pll[n] with relock := false } }

/-- DRAM_INIT_DONE: ECC regions at zero, sentinels written, READY and event 10; a failure is event 11. -/
def State.dramInitDone (s : State) (ok : Bool) : State :=
  s.when (s.bit F.DRAMC_CTL_INIT) fun s =>
    let t := s.put F.DRAMC_CTL_INIT 0
    if !ok then t.raise (srcDram 11)
    else
      let t := t.eccRegions.foldl (fun (u : State) x => { u with mem := u.mem.zero x.1 x.2 }) t
      let t := ((t.searchBoth 2).searchBoth 3).put F.DRAMC_FREQ_CTL_ACTIVE 0
      let t := t.onDram fun d => { d with entries := d.entries + 1, asleep := false, entering := false, rows := [], lastReq := t.now, missAt := t.now }
      ((t.put F.DRAMC_CTL_READY 1).raise (srcDram 10)).drainAll

def execDramInitDone (ok : Bool) (s : State) : Host.Outcome State Fault Refusal := s.ifUp (·.dramInitDone ok)

/-- The masks obey R327. -/
def masksLegal (m : Nat → Word) : Bool :=
  let homes := (List.range 7).map fun k => maskHome (m k)
  ((List.range 7).all fun k =>
    let n := ((List.range 31).filter fun i => (m k).getLsbD i).length
    decide (1 ≤ n ∧ n ≤ 8) &&
    ((List.range 7).all fun j => j == k || (homes.getD j 0 != homes.getD k 0 && !(m k).getLsbD (homes.getD j 0 - 6))) &&
    decide (homes.getD k 0 ≤ (if k < 3 then 10 else 16)))

/-- DRAMC_HASH_WRITE. -/
def State.writeHash (s : State) (k : Nat) (value : Word) : State :=
  let v := F.DRAMC_HASH_MASK k |>.of value
  let m (j : Nat) : Word := if j = k then BitVec.ofNat 32 v else s.reg (F.DRAMC_HASH_addr j)
  if !s.bit F.DRAMC_CTL_EN && masksLegal m then s.put (F.DRAMC_HASH_MASK k) v else s.dramRefuse

def execDramcHashWrite (k : Fin 7) (value : Word) (s : State) : Host.Outcome State Fault Refusal := s.ifUp (·.writeHash k value)

/-! ## Pages and refresh (R330–R332) -/

/-- PAGE_IDLE_CLOSE. -/
def execPageIdleClose (ch : Fin 8) (bank : Fin 16) (s : State) : Host.Outcome State Fault Refusal :=
  s.ifUp fun s => s.onDram fun d => { d with rows := d.rows.filter fun x =>
    !(x.1 == 16 * ch.val + bank.val && decide (s.get F.DRAMC_PAGE_IDLE_NS ≤ s.since x.2.2)) }

/-- The pages of a channel are closed. -/
def DramUnit.closeAll (d : DramUnit) (ch : Nat) : DramUnit := { d with rows := d.rows.filter fun x => x.1 / 16 != ch }

/-- The DRAM devices are initialised and out of self-refresh: none sleeps, and a change is not past its first 2 µs (R325, R335;
DEDUCED, log 18). -/
def State.dramRuns (s : State) : Bool :=
  s.bit F.DRAMC_CTL_READY && !s.dram.asleep &&
  match s.dram.change with
  | some (t0, _) => decide (s.since t0 < 2000)
  | none => true

/-- PER_BANK_REFRESH: with no idle bank, or while the interface's PLL relocks, the refresh is postponed, at 8 with the all-bank
refresh; else it goes to the next idle bank, with as many postponed ones as there are idle banks (DEDUCED, log 18). -/
def State.refresh (s : State) (ch : Fin 8) (busy : BitVec 16) : State :=
  s.when s.dramRuns fun s =>
    let idle := (List.range 16).filter fun i => !busy.getLsbD ((s.dram.turn[ch] + i) % 16)
    if idle.isEmpty || !s.dramClock (ch / 4) then
      let n := s.dram.owed[ch] + 1
      let t := s.put F.DRAMC_REFRESH_STAT_MAXPOST (max n (s.get F.DRAMC_REFRESH_STAT_MAXPOST))
      if 8 ≤ n then
        ((t.onDram fun d => { d.closeAll ch with owed := d.owed.set ch 0 }).count F.DRAMC_REFRESH_STAT_FALLBACK).raise (srcDram 6)
      else t.onDram fun d => { d with owed := d.owed.set ch n }
    else
      let k := min idle.length (s.dram.owed[ch] + 1)
      let last := idle.getD (k - 1) 0
      s.onDram fun d => { d with owed := d.owed.set ch (d.owed[ch] - (k - 1)), turn := d.turn.set ch ((d.turn[ch] + last + 1) % 16) }

def execPerBankRefresh (ch : Fin 8) (busy : BitVec 16) (s : State) : Host.Outcome State Fault Refusal := s.ifUp (·.refresh ch busy)

/-- The derating in force: the fastest rate that any channel asks for. -/
def DramUnit.derating (d : DramUnit) : Nat := d.derate.toList.foldl max 0

/-- MR4_POLL: event 7 on each change of the derating. -/
def State.mr4 (s : State) (ch : Fin 8) (derate : BitVec 2) : State :=
  let t := s.onDram fun d => { d with derate := d.derate.set ch (min 2 derate.toNat) }
  (t.put F.DRAMC_REFRESH_STAT_DERATE t.dram.derating).raiseIf (t.dram.derating != s.dram.derating) (srcDram 7)

def execMr4Poll (ch : Fin 8) (derate : BitVec 2) (s : State) : Host.Outcome State Fault Refusal :=
  s.ifUp fun s => s.when s.dramRuns (·.mr4 ch derate)

/-- CONFLICT_WINDOW: each 1 ms. -/
def State.conflictWindow (s : State) : State :=
  s.when (decide (1000000 ≤ s.since s.dram.missAt)) fun s =>
    let m := s.dram.misses.toList
    let n := min m.sum (2 ^ 24 - 1)
    let t := (s.put F.DRAMC_CONFLICT_LAST_MS n).put F.DRAMC_CONFLICT_WORST_CH (m.idxOf (m.foldl max 0))
    let t := t.onDram fun d => { d with misses := Vector.replicate 8 0, missAt := d.missAt + 1000000 }
    t.raiseIf (decide (s.get F.DRAMC_CONFLICT_LIM_LIM < n)) (srcDram 8)

def execConflictWindow (s : State) : Host.Outcome State Fault Refusal := s.ifUp State.conflictWindow

/-- DRAMC_STAT_CLR: the counts, and DERATE with them; the derating in force goes on (DEDUCED, log 18). -/
def State.clearDramStat (s : State) : State :=
  (((s.setReg F.DRAMC_REFRESH_STAT_addr 0).setReg F.DRAMC_TRAIN_STAT_addr 0).setReg F.DRAMC_ECC_STAT_addr 0).put
    F.DRAMC_OCM_ECC_CORR 0

def execDramcStatClr (s : State) : Host.Outcome State Fault Refusal := s.ifUp State.clearDramStat

/-! ## Self-refresh (R333, R338) -/

/-- Self-refresh is entered, with the sentinels of a new entry count. -/
def State.dramSleep (s : State) : State :=
  s.onDram fun d => { d with asleep := true, entering := false, rows := [], entries := d.entries + 1 }

/-- SELF_REFRESH_ENTRY: after SR_IDLE without a request an entry begins; with `issued` the one that no request has aborted since
issues its command (R333). -/
def State.srEntry (s : State) (issued : Bool) : State :=
  let us := s.get F.DRAMC_SR_IDLE_US
  if issued then s.when s.dram.entering State.dramSleep
  else s.when (s.dramReady && us != 0 && decide (1000 * us ≤ s.since s.dram.lastReq) && s.dram.queue.isEmpty)
    (·.onDram fun d => { d with entering := true })

def execSelfRefreshEntry (issued : Bool) (s : State) : Host.Outcome State Fault Refusal := s.ifUp (·.srEntry issued)

/-- The sentinels are checked; a bank whose sentinel is wrong is marked, reported, and due a scrub. -/
def State.checkSentinels (s : State) (bad : List Nat) : State :=
  bad.foldl (fun (u : State) k =>
    let a := F.DRAMC_BANK_SUSPECT_addr (k / 32 % 4)
    let v := (u.setReg a (u.reg a ||| (1#32 <<< (k % 32)))).raise (srcDram 0)
    v.onDram fun d => { d with scrubDue := d.scrubDue ++ [k % 128] }) s

/-- SELF_REFRESH_EXIT: the indexes of the banks whose sentinels fail are 16 × channel + bank. -/
def State.srExit (s : State) (bad : List Nat) : State :=
  s.when (s.dram.asleep && (s.mode == .run || s.mode == .boot || s.mode == .wake 3)) fun s =>
    ((s.onDram fun d => { d with asleep := false, lastReq := s.now }).checkSentinels bad).drainAll

def execSelfRefreshExit (bad : List Nat) (s : State) : Host.Outcome State Fault Refusal := s.ifUp (·.srExit bad)

/-! ## Frequency change (R334, R335) -/

/-- A training step that runs now is discarded by a change (R335). -/
def State.discardStep (s : State) : State :=
  if s.dram.stepAt.toList.any fun x => match x with
    | some t => decide (s.since t < 2000)
    | none => false
  then ((s.count F.DRAMC_TRAIN_STAT_DISCARDS).onDram fun d => { d with steps := 0 }).raise (srcDram 5)
  else s

/-- The range of a PLL's output in MHz: of PLL_TB and PLL_AUX one frequency, of a DRAM PLL up to 4,266.67 (R341). -/
def outLegal (n x : Nat) (one : Nat) : Bool :=
  match n with
  | 0 => decide (x = 1000 * one)
  | 1 => decide (200 * one ≤ x ∧ x ≤ 250 * one)
  | 4 => decide (one ≤ x ∧ x ≤ 4 * one)
  | 5 => decide (4 * x = 625 * one)
  | _ => decide (800 * one ≤ x ∧ 100 * x ≤ 426667 * one)

/-- Divider set `j` of a PLL obeys R342. -/
def dividersLegal (get : Field → Nat) (n j : Nat) : Bool :=
  let x := 25 * (get (F.PLL_DIV_N n j) * 2 ^ 24 + get (F.PLL_FRAC_F n j))
  let one := (get (F.PLL_DIV_R_M1 n j) + 1) * 2 ^ 24
  decide (16 ≤ get (F.PLL_DIV_N n j) ∧ 3500 * one ≤ x ∧ x ≤ 7000 * one) && outLegal n x (one * (get (F.PLL_DIV_P_M1 n j) + 1))

/-- A change to a set starts; one whose divider set breaks R342 on a PLL is refused there, with REFUSED and event 5, and the
controller keeps its set (DESIGN CHOICE, log 18). -/
def State.startChange (s : State) (target : Bool) : State :=
  let bad := [2, 3].filter fun n => !dividersLegal s.get n target.toNat
  if bad.isEmpty then
    (s.discardStep.put F.DRAMC_FREQ_CTL_BUSY 1).onDram fun d =>
      { d with change := some (s.now, target), entering := false, rows := [] }
  else bad.foldl (fun (u : State) n => (u.put (F.PLL_CTL_REFUSED n) 1).raise (srcPll n 5)) s

/-- FREQ_CHANGE: a write of GO. -/
def State.freqGo (s : State) (target : Bool) : State :=
  let s := s.putB F.DRAMC_FREQ_CTL_TARGET target
  if s.dram.change.isSome then s.put F.DRAMC_FREQ_CTL_PENDING 1
  else if s.bit F.DRAMC_FREQ_CTL_ACTIVE = target then s
  else s.startChange target

def execFreqChange (target : Bool) (s : State) : Host.Outcome State Fault Refusal := s.ifUp (·.freqGo target)

/-- The target set is in force on the controller and on both PLLs. -/
def State.setActive (s : State) (target : Bool) : State :=
  [2, 3].foldl (fun (u : State) n => (u.put (F.PLL_STAT_SLOT n) target.toNat).activate [F.PLL_SSC_addr n])
    (s.putB F.DRAMC_FREQ_CTL_ACTIVE target)

/-- FREQ_CHANGE_DONE: 13.5 µs after the start, with the sentinels checked as on every exit; a further change that waits runs
where the latest TARGET written is not the set now active (R335, R338). -/
def State.freqDone (s : State) (bad : List Nat) : State :=
  match s.dram.change with
  | none => s
  | some (t0, target) =>
    s.when (decide (13500 ≤ s.since t0)) fun s =>
      let t := (s.setActive target).put F.DRAMC_FREQ_CTL_BUSY 0
      let t := (t.onDram fun d => { d with change := none, asleep := false, entries := d.entries + 1 }).checkSentinels bad
      let t := t.raise (srcDram 4)
      if t.bit F.DRAMC_FREQ_CTL_PENDING then
        let u := t.put F.DRAMC_FREQ_CTL_PENDING 0
        if u.bit F.DRAMC_FREQ_CTL_TARGET = target then u.drainAll else (u.startChange !target).drainAll
      else t.drainAll

def execFreqChangeDone (bad : List Nat) (s : State) : Host.Outcome State Fault Refusal := s.ifUp (·.freqDone bad)

/-! ## Training and scrub (R336, R337) -/

/-- DRAM_TRAINING_STEP: while domain 2 measures, at least 50 µs after the channel's last, not before a C0 request that has
waited 1 µs; it holds the channel. -/
def State.trainStep (s : State) (ch : Fin 8) : State :=
  let free := match s.dram.stepAt[ch] with
    | some t => decide (50000 ≤ s.since t)
    | none => true
  let c0 := s.dram.queue.any fun q => q.cls == 0 && s.reqChannel q == ch.val && decide (1000 < s.since q.issued)
  s.when (s.chanServes ch && !s.cal[2].measuring.isEmpty && free && !c0) fun s =>
    s.onDram fun d => { d with steps := d.steps + 1, stepAt := d.stepAt.set ch (some s.now) }

def execDramTrainingStep (ch : Fin 8) (s : State) : Host.Outcome State Fault Refusal := s.ifUp (·.trainStep ch)

/-- SCRUB_PASS: what a pass found: bursts corrected, and the numbers of those it could not correct. A scrub that suspect banks
are due comes first and is no whole pass. -/
def State.scrub (s : State) (corrected : Nat) (uncorrectable : List Nat) : State :=
  let due := !s.dram.scrubDue.isEmpty
  s.when (s.dramReady && (due || s.get F.DRAMC_SCRUB_PERIOD_S != 0)) fun s =>
    let t := (s.countBy F.DRAMC_ECC_STAT_CORR corrected).raiseIf (corrected != 0) (srcDram 1)
    let hits := (uncorrectable.map fun k => (⟨dramBase + 64 * k, false⟩ : EccHit)).filter s.eccCovers
    let t := t.eccReports hits
    let t := t.onDram fun d => { d with scrubDue := [] }
    t.raiseIf (!due) (srcDram 15)

def execScrubPass (corrected : Nat) (uncorrectable : List Nat) (s : State) : Host.Outcome State Fault Refusal :=
  s.ifUp (·.scrub corrected uncorrectable)

end Sys2Proof.Machine
end

