-- ==== Sys2Proof/Machine/Crc.lean ====
section
/-! DEFINITION. The checksums of the manual. -/

namespace Sys2Proof.Machine

/-- One byte of CRC-32C, reflected (R159). -/
def crc32cByte (c : Word) (b : Byte) : Word :=
  (List.range 8).foldl (fun x _ => if x.getLsbD 0 then (x >>> 1) ^^^ 0x82F63B78#32 else x >>> 1) (c ^^^ b.setWidth 32)

/-- CRC-32C: polynomial 0x1EDC_6F41 reflected, initial value and final XOR 0xFFFF_FFFF (R159). -/
def crc32c (bs : List Byte) : Word := bs.foldl crc32cByte 0xFFFFFFFF#32 ^^^ 0xFFFFFFFF#32

/-- One byte of the CRC-32 of IEEE 802.3, reflected. -/
def crc32Byte (c : Word) (b : Byte) : Word :=
  (List.range 8).foldl (fun x _ => if x.getLsbD 0 then (x >>> 1) ^^^ 0xEDB88320#32 else x >>> 1) (c ^^^ b.setWidth 32)

/-- The frame check sequence of an Ethernet frame: CRC-32, polynomial 0x04C1_1DB7 reflected, initial value and final XOR
0xFFFF_FFFF, least significant byte first (R246; of IEEE 802.3). -/
def fcs (bs : List Byte) : List Byte := bytesOfNat 4 (bs.foldl crc32Byte 0xFFFFFFFF#32 ^^^ 0xFFFFFFFF#32).toNat

/-- One byte of CRC-16, not reflected (R198). -/
def crc16Byte (c : BitVec 16) (b : Byte) : BitVec 16 :=
  (List.range 8).foldl (fun x _ => if x.getLsbD 15 then (x <<< 1) ^^^ 0x1021#16 else x <<< 1)
    (c ^^^ (b.setWidth 16 <<< 8))

/-- CRC-16: polynomial 0x1021, initial value 0xFFFF, no reflection, no final XOR (R198). -/
def crc16 (bs : List Byte) : BitVec 16 := bs.foldl crc16Byte 0xFFFF#16

/-- CRC-16 of a field of `n` bytes, taken in little-endian order (R198). -/
def crc16Of (n v : Nat) : BitVec 16 := crc16 (bytesOfNat n v)

end Sys2Proof.Machine
end

