-- ==== Sys2Proof/Machine/Ethernet.lean ====
section
/-! DEFINITION. The Ethernet ports (R244–R252): receive and transmit rings, time stamps, one-step Sync, timestamp queues. -/

namespace Sys2Proof.Machine

/-- The number that bytes spell, most significant byte first (frames of published standards, R14). -/
def natOfBytesBE (bs : List Byte) : Nat := natOfBytes bs.reverse

/-- The `n` bytes of a number, most significant first. -/
def bytesOfNatBE (n v : Nat) : List Byte := (bytesOfNat n v).reverse

/-- A byte of a frame. -/
def byteAt (bs : List Byte) (a : Nat) : Nat := (bs.getD a 0).toNat

/-- A 16-bit field of a frame. -/
def halfAt (bs : List Byte) (a : Nat) : Nat := 256 * byteAt bs a + byteAt bs (a + 1)

/-- Where the UDP header of a frame lies, if it carries UDP over IPv4 or IPv6. -/
def udpAt (f : List Byte) : Option Nat :=
  if halfAt f 12 = 0x0800 ∧ byteAt f 23 = 17 then some (14 + 4 * (byteAt f 14 % 16))
  else if halfAt f 12 = 0x86DD ∧ byteAt f 20 = 17 then some 54
  else none

/-- The frame is a PTP event message: messageType 0–3, layer 2 or UDP ports 319 and 320 (R244). -/
def ptpEvent (f : List Byte) : Bool :=
  if halfAt f 12 = 0x88F7 then decide (byteAt f 14 % 16 ≤ 3)
  else match udpAt f with
    | some u => (halfAt f (u + 2) == 319 || halfAt f (u + 2) == 320) && decide (byteAt f (u + 8) % 16 ≤ 3)
    | none => false

/-- The frame is for this port: its MAC address, broadcast or any multicast address (R246). Address byte 0 lies lowest in
ETH_p_MAC_HI and byte 2 lowest in ETH_p_MAC_LO (DEDUCED from R14, log 8). -/
def State.ethForUs (s : State) (p : Fin 2) (f : List Byte) : Bool :=
  byteAt f 0 % 2 == 1 ||
    f.take 6 == bytesOfNat 2 (s.get (F.ETH_MAC_HI_MAC p)) ++ bytesOfNat 4 (s.get (F.ETH_MAC_LO_MAC p))

/-- A ring of `n` entries works (R251). -/
def ringOk (n : Nat) : Bool := decide (2 ≤ n ∧ n ≤ 256)

/-- A stamp with a port's corrections added: its latency register, and the PHY delay, which a frame passes before an arrival's stamp and
after a departure's (R245). -/
def corrected (ns : Word) (frac : BitVec 16) (lat : Int) : BitVec 48 := (ns ++ frac) + BitVec.ofInt 48 lat

/-- A received frame: dropped with the ring full (event 3), or written to the ring with its descriptor (R246). -/
def State.ethRx (s : State) (p : Fin 2) (f : List Byte) (fcsOk : Bool) (ns : Word) (frac : BitVec 16) : State :=
  let n := s.get (F.ETH_RXR_SIZE_N p)
  let dev := s.get (F.ETH_RXR_PTR_DEV p)
  if !ringOk n || !s.ethForUs p f then s
  else if (dev + 1) % n = s.get (F.ETH_RXR_PTR_SW p) then s.raise (srcEth p 3)
  else
    let d := s.get (F.ETH_RXR_BASE_BASE p) * 64 + 16 * dev
    let room := (s.word (d + 4)).toNat % 16384
    let g := f.take room
    let t := s.store (s.word d).toNat g
    let w1 := g.length + 65536 + 2 ^ 17 * (ptpEvent f).toNat + 2 ^ 18 * (!fcsOk || decide (room < f.length)).toNat
    let t := t.storeWord (d + 4) (BitVec.ofNat 32 w1)
    let st := corrected ns frac (s.getS (F.ETH_RX_LAT_LAT p) - s.phyDelay (4 + p))
    let t := if ptpEvent f then (t.storeWord (d + 8) (st.extractLsb' 16 32)).storeWord (d + 12)
      (BitVec.ofNat 32 (st.toNat % 65536)) else t
    (t.put (F.ETH_RXR_PTR_DEV p) ((dev + 1) % n)).raise (srcEth p 2)

def execEthFrameRx (p : Fin 2) (bytes : List Byte) (fcsOk : Bool) (ns : Word) (frac : BitVec 16) (s : State) :
    Host.Outcome State Fault Refusal :=
  s.ifUp fun s => s.when (s.bit (F.ETH_CFG_EN p) && s.bit (F.ETH_STATUS_LINK p)) fun s => s.ethRx p bytes fcsOk ns frac

/-! ## Transmit -/

/-- Bytes put into a frame at an offset. -/
def splice (f : List Byte) (a : Nat) (bs : List Byte) : List Byte := f.take a ++ bs ++ f.drop (a + bs.length)

/-- The ones' complement sum of 16-bit words. -/
def onesSum : List Byte → Nat
  | [] => 0
  | [a] => 256 * a.toNat
  | a :: b :: l => 256 * a.toNat + b.toNat + onesSum l

/-- The checksum that a sum gives; 0 is sent as 0xFFFF. -/
def foldSum (n : Nat) : Nat :=
  let m := n % 65536 + n / 65536
  let m := m % 65536 + m / 65536
  let c := 65535 - m % 65536
  if c = 0 then 65535 else c

/-- The UDP checksum recomputed: for IPv6, and for IPv4 when it is not zero (R247). -/
def fixChecksum (f : List Byte) : List Byte :=
  match udpAt f with
  | none => f
  | some u =>
    let v4 := halfAt f 12 == 0x0800
    if v4 && halfAt f (u + 6) == 0 then f
    else
      let len := halfAt f (u + 4)
      let g := splice f (u + 6) [0, 0]
      let addrs := if v4 then (g.drop 26).take 8 else (g.drop 22).take 32
      let c := foldSum (onesSum addrs + 17 + len + onesSum ((g.drop u).take len))
      splice g (u + 6) (bytesOfNatBE 2 c)

/-- The committed mapping of R247 takes a stamp to PTP seconds and nanoseconds; none where the stamp is out of range of M. -/
def State.ptpTime (s : State) (ns : Word) : Option (Nat × Nat) :=
  let d := s.wide (ns48 ns.toNat 0) / 65536 - s.tb.mapAt
  let sec : Int := s.actGet F.ETH_PTP_MAP_SEC_LO_SEC + 2 ^ 32 * s.actGet F.ETH_PTP_MAP_SEC_HI_SEC
  let total : Int := s.actGet F.ETH_PTP_MAP_NS_NS + d
  if 2147483647 < d.natAbs then none
  else some (((sec + total / 1000000000) % 2 ^ 48).toNat, (total % 1000000000).toNat)

/-- One-step Sync: originTimestamp and correctionField written, the checksum recomputed (R247). -/
def State.oneStep (s : State) (f : List Byte) (o : Nat) (st : BitVec 48) : List Byte × Bool :=
  match s.ptpTime (st.extractLsb' 16 32) with
  | none => (fixChecksum (splice f (o + 34) (List.replicate 10 0)), true)
  | some (sec, ns) =>
    let c := natOfBytesBE ((f.drop (o + 8)).take 8) + st.toNat % 65536
    let g := splice (splice f (o + 34) (bytesOfNatBE 6 sec ++ bytesOfNatBE 4 ns)) (o + 8) (bytesOfNatBE 8 c)
    (fixChecksum g, false)

/-- A stamp appended to the port's queue; the older entries of its TS_ID are superseded; a seventeenth is dropped (R248). -/
def State.queueStamp (s : State) (p : Fin 2) (id : BitVec 12) (st : BitVec 48) : State :=
  let q := s.tsq[p]
  if 16 ≤ q.length then
    ((s.put (F.ETH_TSQ_CTL_OVERFLOW p) 1).count (F.ETH_TSQ_CTL_DROPS p)).raise (srcEth p 6)
  else
    let gen := match q.reverse.find? fun x => x.id == id with
      | some x => x.gen + 1
      | none => 0
    let older := q.map fun x => if x.id = id then { x with superseded := true } else x
    let t := { s with tsq := s.tsq.set p (older ++ [(⟨id, gen, false, st.extractLsb' 16 32, st.extractLsb' 0 16⟩ : Stamp)]) }
    (t.raise (srcEth p 5)).raiseIf (q.any fun x => x.id == id && !x.superseded) (srcEth p 7)

/-- The next posted transmit descriptor: its frame leaves, the descriptor is done, the stamp is queued (R246–R248). -/
def State.ethTx (s : State) (p : Fin 2) (ns : Word) (frac : BitVec 16) : State :=
  let n := s.get (F.ETH_TXR_SIZE_N p)
  let dev := s.get (F.ETH_TXR_PTR_DEV p)
  if !ringOk n || dev == s.get (F.ETH_TXR_PTR_SW p) then s
  else
    let d := s.get (F.ETH_TXR_BASE_BASE p) * 64 + 16 * dev
    let w1 := s.word (d + 4)
    let f := s.mem.readBytes (s.word d).toNat (w1.toNat % 16384)
    let st := corrected ns frac (s.getS (F.ETH_TX_LAT_LAT p) + s.phyDelay (4 + p))
    let (g, bad) := if w1.getLsbD 17 then s.oneStep f ((s.word (d + 8)).toNat % 16384) st else (f, false)
    let t := (s.emit (.ethFrame p (g ++ fcs g))).storeWord (d + 4) (w1 ||| 0x40000)
    let t := ((t.put (F.ETH_TXR_PTR_DEV p) ((dev + 1) % n)).raise (srcEth p 4)).raiseIf bad (srcEth p 8)
    if w1.getLsbD 16 then t.queueStamp p (w1.extractLsb' 20 12) st else t

def execEthFrameTx (p : Fin 2) (ns : Word) (frac : BitVec 16) (s : State) : Host.Outcome State Fault Refusal :=
  s.ifUp fun s => s.when (s.bit (F.ETH_CFG_EN p) && s.bit (F.ETH_STATUS_LINK p)) fun s => s.ethTx p ns frac

/-- TSQ_POP: the oldest entry leaves (R248). -/
def State.tsqPop (s : State) (p : Fin 2) : State := { s with tsq := s.tsq.set p (s.tsq[p].drop 1) }

def execTsqPop (p : Fin 2) (s : State) : Host.Outcome State Fault Refusal := s.ifUp (·.tsqPop p)

/-- PTP_MAP_COMMIT: a write of ETH_PTP_MAP_TB commits M, S and N together (R247). -/
def State.ptpCommit (s : State) (value : Word) : State :=
  let t := { s with tb := { s.tb with mapAt := s.wide (ns48 value.toNat 0) / 65536 } }
  (t.setReg F.ETH_PTP_MAP_TB_addr value).activate
    [F.ETH_PTP_MAP_NS_addr, F.ETH_PTP_MAP_SEC_LO_addr, F.ETH_PTP_MAP_SEC_HI_addr, F.ETH_PTP_MAP_TB_addr]

def execPtpMapCommit (value : Word) (s : State) : Host.Outcome State Fault Refusal := s.ifUp (·.ptpCommit value)

/-- ETH_LINK_CHANGE: the PCS gains or loses lock (R251, R252). -/
def State.ethLink (s : State) (p : Fin 2) (up : Bool) : State :=
  (s.putB (F.ETH_STATUS_LINK p) up).raise (srcEth p (if up then 0 else 1))

def execEthLinkChange (p : Fin 2) (up : Bool) (s : State) : Host.Outcome State Fault Refusal :=
  s.ifUp fun s => s.when (s.bit (F.ETH_CFG_EN p) && s.bit (F.ETH_STATUS_LINK p) != up) (·.ethLink p up)

end Sys2Proof.Machine
end

