-- ==== Sys2Proof/Machine/Dedup.lean ====
section
/-! DEFINITION. Stream packets (R209), their de-duplication (R214) and the reassembly of stripes (R215), and the transmit
streams (R213). -/

namespace Sys2Proof.Machine

/-! ## Packet headers (R209) -/

/-- A stream, launch-token or raw packet taken apart. -/
structure StreamPacket where
  stream  : Nat
  path1   : Bool
  sync    : Bool
  sos     : Bool
  eos     : Bool
  session : Byte
  ssn     : Word
  data    : List Byte
deriving DecidableEq, Repr


/-- The packet that payload bytes spell, if its header and PCRC are correct (R209, R210). -/
def parseStream (bs : List Byte) : Option StreamPacket :=
  let w0 := bytesWord bs 0
  let w2 := bytesWord bs 8
  let n := w2.toNat
  let d := bs.drop 16
  if 16 ≤ bs.length ∧ w0.toNat < 2 ^ 24 ∧ 1 ≤ n ∧ n ≤ 4096 ∧ d.length = n ∧
      bytesWord bs 12 = crc32c (bs.take 12 ++ d) then
    some ⟨w0.toNat % 4096, w0.getLsbD 12, w0.getLsbD 13, w0.getLsbD 14, w0.getLsbD 15, w0.extractLsb' 16 8, bytesWord bs 4, d⟩
  else none

/-- The payload bytes of a packet (R209). -/
def StreamPacket.bytes (k : StreamPacket) : List Byte :=
  let w0 := k.stream + 4096 * k.path1.toNat + 8192 * k.sync.toNat + 16384 * k.sos.toNat + 32768 * k.eos.toNat +
    65536 * k.session.toNat
  let h := bytesOfNat 4 w0 ++ bytesOfNat 4 k.ssn.toNat ++ bytesOfNat 4 k.data.length
  h ++ bytesOfNat 4 (crc32c (h ++ k.data)).toNat ++ k.data

/-! ## De-duplication (R214) -/

/-- What becomes of a delivered packet. -/
inductive Verdict where
  | accept | dup | stale
deriving DecidableEq, Repr

/-- The SSNs that leave the window unmarked when HIGH moves on by `d`: those within the window, and whether there are
others beyond it (R214; only SSNs of the session count, DEDUCED, log 7). -/
def LocalStream.passed (l : LocalStream) (d : Nat) : List Word :=
  (((List.range (min d 256)).map fun i => 255 - i).filter fun i =>
    !l.window.getLsbD i && decide (0 ≤ sdiff (l.high - BitVec.ofNat 32 i) l.first)).map fun i => l.high - BitVec.ofNat 32 i

/-- One delivered packet against the entry: the entry after it, the verdict, the SSNs of the window that are lost and how
many are lost beyond it (R214). -/
def LocalStream.take (l : LocalStream) (sync : Bool) (session : Byte) (ssn : Word) :
    LocalStream × Verdict × List Word × Nat :=
  let fresh : LocalStream := ⟨some session, ssn, ssn, 1, [], []⟩
  match l.session with
  | none => if sync then (fresh, .accept, [], 0) else (l, .stale, [], 0)
  | some cur =>
    if session ≠ cur then (if sync then (fresh, .accept, [], 0) else (l, .stale, [], 0))
    else
      let d := sdiff ssn l.high
      if 0 < d then
        let n := d.toNat
        ({ l with high := ssn, window := (l.window <<< n) ||| 1 }, .accept, l.passed n, n - 256)
      else if d > -256 then
        let i := (-d).toNat
        if l.window.getLsbD i then (l, .dup, [], 0)
        else ({ l with window := l.window ||| (1#256 <<< i) }, .accept, [], 0)
      else (l, .stale, [], 0)

/-! ## Reassembly (R215) -/

/-- Packets in the order of their SSNs with one more. -/
def insertPkt (k : StripePkt) : List StripePkt → List StripePkt
  | [] => [k]
  | j :: l => if sdiff k.ssn j.ssn < 0 then k :: j :: l else j :: insertPkt k l

/-- Held packets that follow, within their stripe, an SSN that is lost leave, and their SSNs join those (a stripe ends at its EOS). -/
def dropAfter : List Word → List StripePkt → List Word × List StripePkt
  | lost, [] => (lost, [])
  | lost, k :: l =>
    if !k.sos && lost.contains (k.ssn - 1) then dropAfter (if k.eos then lost else k.ssn :: lost) l
    else let (a, b) := dropAfter lost l; (a, k :: b)

/-- Held packets that precede such an SSN within their stripe leave; the newest comes first here. -/
def dropBefore : List Word → List StripePkt → List Word × List StripePkt
  | lost, [] => (lost, [])
  | lost, k :: l =>
    if !k.eos && lost.contains (k.ssn + 1) then dropBefore (if k.sos then lost else k.ssn :: lost) l
    else let (a, b) := dropBefore lost l; (a, k :: b)

/-- The packets that stay held beside the SSNs known as lost. -/
def dropBroken (lost : List Word) (held : List StripePkt) : List Word × List StripePkt :=
  let (lost, held) := dropAfter lost held
  let (lost, rest) := dropBefore lost held.reverse
  (lost, rest.reverse)

/-- One more SSN lost: held packets of its stripe leave, and those before it, whose stripe it ends; with whether this is another
stripe than that of the SSN lost before it (R215). -/
def loseSsn (x : List Word × List StripePkt × Nat) (ssn : Word) : List Word × List StripePkt × Nat :=
  let another := !x.1.contains (ssn - 1)
  let (lost, held) := dropBroken (ssn :: x.1) (x.2.1.filter fun k => decide (0 ≤ sdiff k.ssn ssn))
  (lost, held, x.2.2 + another.toNat)

/-- The stripes that held packets belong to: one begins at an SOS and after an EOS. -/
def heldStripes (held : List StripePkt) : Nat :=
  (held.foldl (fun (x : Bool × Nat) k =>
    if k.token then x else (k.eos, if x.1 || k.sos then x.2 + 1 else x.2)) (true, 0)).2

/-- What held packets come to: those that stay held, whole stripes, oldest first, and the stripes that an SOS cut off before
their EOS with the SSNs of theirs that leave. -/
structure Assembled where
  held  : List StripePkt
  whole : List (List Byte)
  early : Nat
  gone  : List Word
deriving DecidableEq, Repr

/-- Held packets taken in order; `run` is the part of a stripe being followed, newest packet first (R215). -/
def wholeStripes : List StripePkt → List StripePkt → Assembled
  | run, [] => ⟨run.reverse, [], 0, []⟩
  | run, k :: l =>
    let joins := match run with
      | j :: _ => decide (k.ssn = j.ssn + 1)
      | [] => false
    if k.sos then
      let r := if k.eos then (let r := wholeStripes [] l; { r with whole := k.data :: r.whole }) else wholeStripes [k] l
      if joins then { r with early := r.early + 1, gone := run.map (·.ssn) ++ r.gone } else { r with held := run.reverse ++ r.held }
    else if joins then
      if k.eos then
        let r := wholeStripes [] l
        if run.getLast?.any (·.sos) then { r with whole := ((k :: run).reverse.flatMap StripePkt.data) :: r.whole }
        else { r with held := (k :: run).reverse ++ r.held }
      else wholeStripes (k :: run) l
    else
      let r := if k.eos || k.token then (let r := wholeStripes [] l; { r with held := k :: r.held }) else wholeStripes [k] l
      { r with held := run.reverse ++ r.held }

/-- A packet joins those held, or overflows the space: then its stripe is lost, counted unless a neighbour in it is lost already. -/
def LocalStream.hold (l : LocalStream) (k : StripePkt) (fits : Bool) : List Word × List StripePkt × Nat :=
  if fits then (l.lost, insertPkt k l.held, 0)
  else
    let known := (!k.sos && l.lost.contains (k.ssn - 1)) || (!k.eos && l.lost.contains (k.ssn + 1))
    (k.ssn :: l.lost, l.held, (!known).toNat)

/-- The entry after accepted packet `k` and the loss of SSNs, oldest first, `run` where a run of them reaches beyond the window:
whole stripes that pass on, and stripes dropped (R215). -/
def LocalStream.assemble (l : LocalStream) (k : StripePkt) (lost : List Word) (run : Option (Word × Word)) (fits : Bool) :
    LocalStream × List (List Byte) × Nat :=
  let x := lost.foldl loseSsn (l.hold k fits)
  let (known, held, broken) := match run with
    | some (a, b) => let y := loseSsn x a; (b :: y.1, y.2)
    | none => x
  let (known, held) := dropBroken known held
  let held := held.filter fun j => !(j.token && decide (256 ≤ sdiff l.high j.ssn))
  let r := wholeStripes [] held
  ({ l with held := r.held, lost := (r.gone ++ known).take 512 }, r.whole, broken + r.early)

/-- Data bytes held for reassembly by all local streams; the space is 1 MiB (R215). -/
def State.reasmFill (s : State) : Nat :=
  ((s.link.ls.toList ++ [s.link.bootS]).map fun l => (l.held.map fun k => k.data.length).sum).sum

/-! ## Transmit streams (R213) and the stream table (R211) -/

/-- The stream table entry of a stream. -/
def State.stabEntry (s : State) (stream : Nat) : Byte := assocGet 0 stream s.link.stab

/-- The state with a stream table entry set. -/
def State.setStab (s : State) (stream : Nat) (v : Byte) : State :=
  { s with link := { s.link with stab := assocSet 0 stream v s.link.stab } }

/-- The ports that the stream table names for a stream and path (R211). -/
def State.tablePorts (s : State) (stream : Nat) (path1 : Bool) : List (Fin 4) :=
  (List.finRange 4).filter fun p => (s.stabEntry stream).getLsbD (p + 4 * path1.toNat)

/-- A packet copied to each port that the stream table names, except the port it came from (R211). -/
def State.forward (s : State) (src : Option (Fin 4)) (stream : Nat) (path1 : Bool) (k : Packet) : State :=
  (s.tablePorts stream path1).foldl (fun t p => if src = some p then t else t.enqueue State.raise p path1 k) s

/-- The header of the next packet of transmit entry `k`: its stream, session and SSN; SYNC starts a new session (R213). -/
def State.txHeader (s : State) (k : Nat) : StreamPacket × State :=
  let sync := s.bit (F.ZL_TXS_SYNC k)
  let session := (s.get (F.ZL_TXS_SESSION k) + sync.toNat) % 256
  let ssn := s.getW (F.ZL_TXSSN_NEXT k)
  (⟨s.get (F.ZL_TXS_STREAM k), false, sync, false, false, BitVec.ofNat 8 session, ssn, []⟩,
   ((s.put (F.ZL_TXS_SESSION k) session).put (F.ZL_TXS_SYNC k) 0).wrapCount (F.ZL_TXSSN_NEXT k))

/-- A packet of transmit entry `k`: a copy for every path whose ports are non-zero in the own stream table (R213). -/
def State.txPacket (s : State) (k : Nat) (ty : BitVec 4) (sos eos : Bool) (data : List Byte) : State :=
  let (h, s) := s.txHeader k
  [false, true].foldl (fun t path =>
    t.forward none h.stream path ⟨ty, false, ({ h with path1 := path, sos := sos, eos := eos, data := data }).bytes⟩) s

/-- STREAM_TX_PACKET: the oldest stripe waiting at entry `k` sends its next packet of at most 4,096 bytes (R213). -/
def State.streamTx (s : State) (k : Fin 64) : State :=
  match s.link.tx.find? fun e => e.1 == k.val with
  | none => s
  | some (i, bs, started) =>
    let last := decide (bs.length ≤ 4096)
    let t := s.txPacket k 1 (!started) last (bs.take 4096)
    let rest := t.link.tx.erase (i, bs, started)
    let after := if last then rest else (i, bs.drop 4096, true) :: rest
    { t with link := { t.link with tx := after } }

def execStreamTxPacket (k : Fin 64) (s : State) : Host.Outcome State Fault Refusal :=
  s.ifUp fun s => s.when (s.bit (F.ZL_TXS_EN k)) (·.streamTx k)

/-- TXS_SYNC: the next packet starts a new session (R213). -/
def execTxsSync (k : Fin 64) (s : State) : Host.Outcome State Fault Refusal := s.ifUp (·.put (F.ZL_TXS_SYNC k) 1)

/-- LSTREAM_WRITE: any write of ZL_LSTREAM_k restarts the entry, which then holds no session (R214, R225). -/
def State.lstreamWrite (s : State) (k : Fin 8) (value : Word) : State :=
  let t := ((s.put (F.ZL_LSTREAM_STREAM k) (F.ZL_LSTREAM_STREAM k |>.of value)).put (F.ZL_LSTREAM_EN k)
    (F.ZL_LSTREAM_EN k |>.of value)).put (F.ZL_LSTREAM_SESSION k) 0
  { t with link := { t.link with ls := t.link.ls.set k LocalStream.reset } }

def execLstreamWrite (k : Fin 8) (value : Word) (s : State) : Host.Outcome State Fault Refusal :=
  s.ifUp (·.lstreamWrite k value)

/-- The stream table index advances by 1 after each access, modulo 4,096 (R225). -/
def State.stabNext (s : State) : State := s.wrapCount F.ZL_STAB_ADDR_INDEX

/-- STAB_DATA_ACCESS: a write of entry INDEX, or a read of it (R225). -/
def State.stabAccess (s : State) (value : Option Word) : State :=
  let i := s.get F.ZL_STAB_ADDR_INDEX
  match value with
  | some v => (s.setStab i (v.setWidth 8)).stabNext
  | none => { s.stabNext with rdata := (s.stabEntry i).setWidth 32 }

def execStabDataAccess (value : Option Word) (s : State) : Host.Outcome State Fault Refusal := s.ifUp (·.stabAccess value)

end Sys2Proof.Machine
end

