-- ==== Sys2Proof/Machine/LinkLine.lean ====
section
/-! DEFINITION. What the lanes of the Zhevlum Link carry: the PRBS31 sequence, the RS(544,514) code with its encoder and
decoder, scrambling, striping and line levels (R191, R195), alignment blocks (R196) and training frames (R198). -/

namespace Sys2Proof.Machine

/-! ## PRBS31 (R195, R198)

The sequence x³¹ + x²⁸ + 1: each bit is the exclusive-or of those 31 and 28 places before it. A history is the last 31 bits,
the oldest least significant. -/

/-- The history that a 31-bit seed stands for: seed bit 0 is the latest bit (PRESUMED, log 27). -/
def prbsSeed (seed : Nat) : Nat :=
  (List.range 31).foldl (fun a i => 2 * a + (seed >>> i) % 2) 0

/-- The seed of all ones (R198). -/
def prbsOnes : Nat := 2 ^ 31 - 1

/-- `n` further bits, at most 28, the first least significant; and the history after them. -/
def prbsStep (n h : Nat) : Nat × Nat :=
  let b := (h ^^^ (h >>> 3)) % 2 ^ n
  (b, (h >>> n) ||| (b <<< (31 - n)))

/-- `k` times 28 further bits, placed from bit `at` of `acc` on. -/
def prbsRun : Nat → Nat → Nat → Nat → Nat × Nat
  | 0, h, acc, _ => (acc, h)
  | k + 1, h, acc, pos =>
    let (b, h) := prbsStep 28 h
    prbsRun k h (acc ||| (b <<< pos)) (pos + 28)

/-- `n` further bits and the history after them. -/
def prbs (n h : Nat) : Nat × Nat :=
  let (a, h) := prbsRun (n / 28) h 0 0
  let (b, h) := prbsStep (n % 28) h
  (a ||| (b <<< (n / 28 * 28)), h)

/-! ## The field GF(2¹⁰) (R195) -/

/-- One doubling in the field of x¹⁰ + x³ + 1. -/
def gfDouble (a : Nat) : Nat := if a < 512 then 2 * a else (2 * a) ^^^ 0x409

/-- The product of two elements. -/
def gfMul (a b : Nat) : Nat :=
  (List.range 10).foldl (fun r i => gfDouble r ^^^ (if b.testBit (9 - i) then a else 0)) 0

/-- α to a power. -/
def alpha : Nat → Nat
  | 0 => 1
  | n + 1 => gfDouble (alpha n)

/-- The inverse of an element other than 0: a to the power 1,022 = 2 + 4 + … + 512. -/
def gfInv (a : Nat) : Nat :=
  ((List.range 9).foldl (fun (x : Nat × Nat) (_ : Nat) => let q := gfMul x.1 x.1; (q, gfMul x.2 q)) (a, 1)).2

/-- A polynomial, lowest degree first, at a point. -/
def polyAt (f : List Nat) (x : Nat) : Nat := f.foldr (fun c r => gfMul r x ^^^ c) 0

/-- The sum of two polynomials. -/
def polyAdd : List Nat → List Nat → List Nat
  | [], g => g
  | f, [] => f
  | a :: f, b :: g => (a ^^^ b) :: polyAdd f g

/-- The product of two polynomials. -/
def polyMul (f g : List Nat) : List Nat := f.foldr (fun a r => polyAdd (g.map (gfMul a)) (0 :: r)) []

/-! ## RS(544,514) (R195)

A word of 544 symbols is a number, symbol 0 in its lowest ten bits; symbol 0 is the coefficient of the highest degree. -/

/-- Symbol `i` of a word. -/
def symbolAt (w i : Nat) : Nat := (w >>> (10 * i)) % 1024

/-- The generator polynomial (x − α⁰)(x − α¹) … (x − α²⁹), lowest degree first. -/
def genPoly : List Nat := (List.range 30).foldl (fun f i => polyMul f [alpha i, 1]) [1]

/-- The 30 low coefficients of g(x) times αⁱ, ten bits each, for i = 0 to 9 (`genRows_eq` in Laws shows that they are so). -/
def genRows : List Nat :=
  [0x8fe282ece68a0011b235468f99448417ad07bd81eb9f7dcd69c5262305881fcb927880d0a0b,
   0x1dc595d9cc16402360638d1f22ad082f1a9f7b02d57eebbed2884cd60b103f9724f100a341f,
   0x3b8b2bb3982c8046c0c6187e455a105e352ed60da8fd575dad12d9ac12297f2e49e20044c3e,
   0x771647473959008d818c30bc1ab029bc2add8c1353fa3ebb5a25b348045bfe1c13e4098987c,
   0xee2c8e8a7bb2010b27186138b544527a553b3c26a7b4fd56bd4b26102cb6fe7827c812114f8,
   0xde599d34ff6642066e39c231fa88a4f4aa665c4c4d697a8d73960cb0596cfef0df9024229f0,
   0xbef32a4dfecc840cd87b8663753548eb545cb8989a92753ee62e5960b2d8ffe13f0448453e0,
   0x7fe6d4bffc9b480994f60ec67a6a90d4e8a955303764ea79c55cb2c161b9fdc2fe2c908a3c9,
   0xff8d397bf134d0030dec1d8ce4f529abd1d28e606e8954d78ab92512c372f9c5ec7d201679b,
   0xfd5a62d7eb69a0061bd83b19c9ea5255e3a518c9dd12a9ab1d704ab582edf1cbc8de402cb3f]

/-- The 30 low coefficients of g(x) times an element. -/
def genTimes (a : Nat) : Nat :=
  (genRows.foldl (fun (x : Nat × Nat) r => (x.1 ^^^ (if x.2 % 2 = 1 then r else 0), x.2 / 2)) (0, a)).1

/-- One symbol into the division by g(x); the remainder holds the coefficient of x⁰ in its lowest ten bits. -/
def rsStep (r c : Nat) : Nat := ((r % 2 ^ 290) <<< 10) ^^^ genTimes (c ^^^ (r >>> 290))

/-- The remainder of the 514 message symbols times x³⁰. -/
def rsRemainder (w : Nat) : Nat := (List.range 514).foldl (fun r i => rsStep r (symbolAt w i)) 0

/-- The 30 parity symbols in the order in which they are sent. -/
def rsParity (w : Nat) : Nat := (List.range 30).foldl (fun a i => a ||| ((rsRemainder w >>> (10 * (29 - i))) % 1024) <<< (10 * i)) 0

/-- The codeword of a message of 5,140 bits: the parity after the message. -/
def rsEncode (m : Nat) : Nat := m ||| (rsParity m <<< 5140)

/-- The difference between the parity received and that of the message received, lowest degree first; [] where they agree. -/
def rsDifference (w : Nat) : List Nat :=
  let d := rsParity (w % 2 ^ 5140) ^^^ (w >>> 5140)
  if d = 0 then [] else (List.range 30).map fun i => symbolAt d (29 - i)

/-- The state of the Berlekamp–Massey iteration: the locator, the one before, its length, the shift and the discrepancy. -/
structure BmState where
  c : List Nat
  b : List Nat
  len : Nat
  m : Nat
  d : Nat
deriving DecidableEq, Repr

/-- One step of the iteration on syndrome `n`. -/
def bmStep (syn : List Nat) (x : BmState) (n : Nat) : BmState :=
  let d := (List.range (x.len + 1)).foldl (fun a i => a ^^^ gfMul (x.c.getD i 0) (syn.getD (n - i) 0)) 0
  if d = 0 then { x with m := x.m + 1 }
  else
    let f := gfMul d (gfInv x.d)
    let c := polyAdd x.c (List.replicate x.m 0 ++ x.b.map (gfMul f))
    if 2 * x.len ≤ n then ⟨c, x.c, n + 1 - x.len, 1, d⟩ else { x with c := c, m := x.m + 1 }

/-- The error locator of 30 syndromes, and its length. -/
def locator (syn : List Nat) : List Nat × Nat :=
  let x := (List.range 30).foldl (bmStep syn) ⟨[1], [1], 0, 1, 1⟩
  (x.c.take (x.len + 1), x.len)

/-- The formal derivative of a polynomial over the field: its odd coefficients, each one degree lower. -/
def derivative (f : List Nat) : List Nat := ((List.range f.length).drop 1).map fun i => if i % 2 = 1 then f.getD i 0 else 0

/-- The errors that the syndromes show: symbol numbers and values (R195). -/
def rsErrors (syn : List Nat) : List (Nat × Nat) :=
  let (loc, _) := locator syn
  let omega := (polyMul syn loc).take 30
  (List.range 544).filterMap fun i =>
    let inv := alpha (480 + i)
    if polyAt loc inv = 0 then
      some (i, gfMul (gfMul (alpha (543 - i)) (polyAt omega inv)) (gfInv (polyAt (derivative loc) inv)))
    else none

/-- The word with errors taken out. -/
def rsMend (w : Nat) (errs : List (Nat × Nat)) : Nat := errs.foldl (fun a e => a ^^^ (e.2 <<< (10 * e.1))) w

/-- A received word: its message and the symbols corrected, at most 15; none where no codeword lies within 15 symbols (R195). -/
def rsDecode (w : Nat) : Option (Nat × List Nat) :=
  match rsDifference w with
  | [] => some (w % 2 ^ 5140, [])
  | d =>
    let errs := rsErrors ((List.range 30).map fun j => polyAt d (alpha j))
    let v := rsMend w errs
    if errs.length ≤ 15 ∧ rsDifference v = [] then some (v % 2 ^ 5140, errs.map (·.1)) else none

/-! ## Codewords (R192, R193, R195) -/

/-- The 512 bits of a cell slot: the header, then the payload. -/
def cellBits (c : Cell) : Nat := c.hdr.toNat + 65536 * natOfBytes (c.payload.take 62)

/-- The cell that 512 bits spell. -/
def cellOf (v : Nat) : Cell := ⟨BitVec.ofNat 16 v, bytesOfNat 62 (v >>> 16)⟩

/-- The 20 bits of a codeword's header (R192). -/
def cwHeader (c : Codeword) : Nat :=
  c.seq.toNat + 2 ^ 8 * c.ack.toNat + 2 ^ 16 * c.nak.toNat + 2 ^ 17 * c.rpl.toNat + 2 ^ 18 * c.echo.toNat + 2 ^ 19 * c.retx.toNat

/-- The sequence that scrambles the 5,120 cell bits of codeword `seq`: its seed has bits [30:8] all 1 and CW_SEQ below (R195). -/
def scrambleOf (seq : BitVec 8) : Nat := (prbs 5120 (prbsSeed (0x7FFFFF00 + seq.toNat))).1

/-- The 5,140 message bits of a codeword: the header, then the cell slots, scrambled (R195). -/
def cwMessage (c : Codeword) : Nat :=
  let cells := (List.range 10).foldl (fun a k => a ||| ((cellBits (c.cells.getD k ⟨0, []⟩) % 2 ^ 512) <<< (512 * k))) 0
  cwHeader c ||| ((cells ^^^ scrambleOf c.seq) <<< 20)

/-- The codeword that 5,140 message bits spell. -/
def parseCodeword (m : Nat) : Codeword :=
  let seq := BitVec.ofNat 8 m
  let cells := (m >>> 20) ^^^ scrambleOf seq
  ⟨seq, BitVec.ofNat 8 (m >>> 8), m.testBit 16, m.testBit 17, m.testBit 18, m.testBit 19,
   (List.range 10).map fun k => cellOf ((cells >>> (512 * k)) % 2 ^ 512)⟩

/-! ## Lanes and levels (R191, R195) -/

/-- The lanes of a mask, lowest first. -/
def maskLanes (m : Nat) : List Nat := (List.range 4).filter m.testBit

/-- The bits of a number, lowest first. -/
def bitRow (n v : Nat) : List Bool := (List.range n).map v.testBit

/-- Gray mapping of two bits, the earlier less significant: 00, 01, 11 and 10 are levels 0, 1, 2 and 3; its own inverse (R195). -/
def gray (v : BitVec 2) : BitVec 2 := v ^^^ (v >>> 1)

/-- Unit intervals of a lane: one bit each at ZL1 and ZL2, a PAM4 level of two bits at ZL3 (R195). -/
def lineLevels (ver : Nat) : List Bool → List (BitVec 2)
  | [] => []
  | [a] => [BitVec.ofNat 2 a.toNat]
  | a :: b :: l =>
    if ver = 2 then gray (BitVec.ofNat 2 (a.toNat + 2 * b.toNat)) :: lineLevels ver l
    else BitVec.ofNat 2 a.toNat :: BitVec.ofNat 2 b.toNat :: lineLevels ver l

/-- The bits of a lane's unit intervals, read back. -/
def lineBits (ver : Nat) (l : List (BitVec 2)) : List Bool :=
  l.flatMap fun v => if ver = 2 then [(gray v).getLsbD 0, (gray v).getLsbD 1] else [v.getLsbD 0]

/-- The symbols that lane place `j` of `n` carries of a codeword whose symbol 0 goes to place `phase` (R191). -/
def laneSymbols (phase n j : Nat) : List Nat := (List.range 544).filter fun i => (phase + i) % n == j

/-- The bits that lane place `j` of `n` carries of a word. -/
def laneBits (w phase n j : Nat) : List Bool := (laneSymbols phase n j).flatMap fun i => bitRow 10 (symbolAt w i)

/-- The number that bits spell, lowest first. -/
def natOfBits : List Bool → Nat
  | [] => 0
  | b :: l => b.toNat + 2 * natOfBits l

/-- The word whose symbols the lanes carry, lane place by lane place; none where a lane carries another number of bits. -/
def gatherLanes (phase : Nat) (lanes : List (List Bool)) : Option Nat :=
  let n := lanes.length
  if n ≠ 0 ∧ (List.range n).all (fun j => (lanes.getD j []).length == 10 * (laneSymbols phase n j).length) then
    some ((List.range n).foldl (fun w j =>
      let v := natOfBits (lanes.getD j [])
      (laneSymbols phase n j).zipIdx.foldl (fun w x => w ||| (((v >>> (10 * x.2)) % 1024) <<< (10 * x.1))) w) 0)
  else none

/-! ## Alignment blocks (R196) -/

/-- The bits 0–63 of a block (R196). -/
def alignValue (b : AlignBlock) : Nat :=
  b.am.toNat + 2 ^ 32 * b.lane.toNat + 2 ^ 34 * b.txMask.toNat + 2 ^ 38 * b.rxMask.toNat + 2 ^ 42 * b.oot.toNat +
    2 ^ 48 * b.cwCount.toNat

/-- The 1,360 bits of a block: FILL is 20 copies of bits 0–63, alternately as sent and complemented (R196). -/
def alignBits (b : AlignBlock) : List Bool :=
  let v := alignValue b
  bitRow 64 v ++ bitRow 16 b.crc.toNat ++ (List.range 20).flatMap fun k => bitRow 64 (if k % 2 = 0 then v else 2 ^ 64 - 1 - v)

/-! ## Training frames (R198) -/

/-- The word pair, the STATUS and their CRC-16s in a frame. -/
def trainFrameOf (cap ident : Word) (status : BitVec 16) : TrainFrame :=
  ⟨0xE4B17A2C#32, cap, crc16Of 4 cap.toNat, ident, crc16Of 4 ident.toNat, status, crc16Of 2 status.toNat⟩

/-- The 2,048 bits of a frame with its FILL. -/
def trainBits (f : TrainFrame) (fill : Nat) : List Bool :=
  bitRow 32 f.marker.toNat ++ bitRow 32 f.cap.toNat ++ bitRow 16 f.capCrc.toNat ++ bitRow 32 f.ident.toNat ++
    bitRow 16 f.identCrc.toNat ++ bitRow 16 f.status.toNat ++ bitRow 16 f.statusCrc.toNat ++ bitRow 1888 fill

/-- The time of a training frame at a version, in 1/2,475 ns: 2,048 bits at 10.3125, 28.125 or 56.25 Gb/s (R190, R198). -/
def frameTime (ver : Nat) : Nat := if ver = 0 then 491520 else if ver = 1 then 180224 else 90112

end Sys2Proof.Machine
end

