-- ==== Sys2Proof/Machine/Content.lean ====
section
/-! DEFINITION. Content selection and the release of key-view store halves (R22, R24, R25). -/

namespace Sys2Proof.Machine

/-- The completely decoded frame of a half. -/
def State.decoded (s : State) (h : Bool) : Option (Bool × FrameHeader) :=
  match s.half h with
  | some f => if f.complete then some (h, f.hdr) else none
  | none => none

/-- The newest completely decoded frame (R22). -/
def State.newest (s : State) : Option (Bool × FrameHeader) :=
  match s.decoded false, s.decoded true with
  | some a, some b => if 0 < sdiff b.2.fseq a.2.fseq then some b else some a
  | some a, none => some a
  | none, o => o

/-- The selection of a decoded frame. -/
def selectionOf (x : Bool × FrameHeader) : Selection := ⟨some (x.1, x.2.fseq), some x.2, false⟩

/-- A frame is newer than the frame of the previous launch; before any frame has been shown every one is (R22). -/
def State.newerThanShown (s : State) (seq : Word) : Bool :=
  match s.frm.shown with
  | none => true
  | some w => decide (0 < sdiff seq w)

/-- Content may be selected: HOLD is not in force, or its clearing has landed (R25). -/
def State.maySelect (s : State) : Bool := !s.frm.hold || s.frm.holdClear.isSome

/-- Content is selected for the next launch where none is and a newer decoded frame exists (R22). -/
def State.selectContent (s : State) : State :=
  if s.frm.sel.isSome || !s.maySelect then s
  else
    match s.newest with
    | none => s
    | some x => if s.newerThanShown x.2.fseq then { s with frm := { s.frm with sel := some (selectionOf x) } } else s

/-- A repeat or a dark frame is counted, with sequencer event 27 (R22, R24, R153). -/
def State.countRepeat (s : State) : State := (s.count F.SEQ_FRM_COUNT_REPEATS).raise (srcSeq 27)

/-- The content cutoff: a repeat of the newest decoded frame where nothing is selected, or a dark frame where there is none
(R22). -/
def State.cutoff (s : State) : State :=
  if s.frm.sel.isSome || !s.maySelect then s
  else
    let sel := match s.newest with
      | some x => { selectionOf x with counted := true }
      | none => ⟨none, none, true⟩
    { s with frm := { s.frm with sel := some sel } }.countRepeat

/-! ## Bundles of a band (R73, R74) -/

/-- Bundles of a row. -/
def State.rowBundles (s : State) : Nat := (s.gridW + 1) / 2

/-- Bundles of band `b`. -/
def State.bandBundles (s : State) (b : Nat) : Nat := s.bandRows b * s.rowBundles

/-- The work entry of band `b` of running slot `r`. -/
def State.workOf (s : State) (r b : Nat) : Option BandWork := s.dist.work.find? fun w => w.run == r && w.band == b

/-- All bundles of the band have ended. -/
def State.workDone (s : State) (w : BandWork) : Bool :=
  w.redo.isEmpty && decide (s.bandBundles w.band ≤ w.next ∧ s.bandBundles w.band ≤ w.ended)

/-! ## Release of a half (R25) -/

/-- The content of a selection lies in half `h`. -/
def Selection.inHalf (x : Selection) (h : Bool) : Bool :=
  match x.content with
  | some (g, _) => g == h
  | none => false

/-- Whether bundles of a running frame are still to be finished: a band of its last slot is neither latched nor complete, or
an earlier band of it is not complete. -/
def State.runUnfinished (s : State) (r : FrameRun) : Bool :=
  let last := r.base + r.slots - 1
  ((List.finRange 64).any fun b => s.bandRows b != 0 && decide (s.dist.latched[b] ≤ last) &&
    match s.workOf last b with
    | none => true
    | some w => !s.workDone w) ||
  s.dist.work.any fun w => w.frame == r.number && !s.workDone w

/-- The distributor has not finished the last bundle of the last frame shown, or selected, from half `h`. -/
def State.halfBusy (s : State) (h : Bool) : Bool :=
  (match s.frm.sel with
   | some x => x.inHalf h
   | none => false) ||
  (match s.frm.run with
   | some r => r.sel.inHalf h && s.runUnfinished r
   | none => false) ||
  (List.finRange 48).any fun n =>
    match s.press[n].does with
    | .bundle b => decide (s.dist.freed < b.frame) && (s.dist.latches.any fun a => a.number == b.frame && a.half == h)
    | _ => false

/-- A half may take a new frame: it is empty, or its own last bundle is finished and the other half holds a completely
decoded newer frame. -/
def State.halfFree (s : State) (h : Bool) : Bool :=
  match s.half h with
  | none => true
  | some f =>
    !s.halfBusy h &&
    match s.decoded (!h) with
    | none => false
    | some x => decide (0 < sdiff x.2.fseq f.hdr.fseq)

/-- The half that the next decode takes: an empty one first, half 0 before half 1 (log 12). -/
def State.freeHalf (s : State) : Option Bool :=
  if (s.half false).isNone then some false
  else if (s.half true).isNone then some true
  else if s.halfFree false then some false
  else if s.halfFree true then some true else none

end Sys2Proof.Machine
end

