-- ==== Sys2Proof/Machine/PanelLine.lean ====
section
/-! DEFINITION. What the panel lanes and their back channel carry: control blocks (R256), the scrambler and the training pattern
(R262), back-channel messages (R263). -/

namespace Sys2Proof.Machine

/-! ## Blocks (R256) -/

/-- A number in a block, or a block from the sum of its fields. -/
def blockOf (fields : List (Nat × Nat)) : BitVec 64 := BitVec.ofNat 64 ((fields.map fun f => f.1 * 2 ^ f.2).sum)

def idleBlock : BitVec 64 := blockOf [(0x1E, 0)]
def bandBlock (b slot fseq : Nat) : BitVec 64 := blockOf [(0x2D, 0), (b, 8), (slot, 14), (fseq % 256, 20)]
def endBlock (crc : Word) : BitVec 64 := blockOf [(0x33, 0), (crc.toNat, 8)]
def latchBlock (b : Nat) (fill catchup : Bool) : BitVec 64 := blockOf [(0x4B, 0), (b, 8), (fill.toNat, 14), (catchup.toNat, 15)]
def scanBlock (b : Nat) (rescan : Bool) : BitVec 64 := blockOf [(0x55, 0), (b, 8), (rescan.toNat, 14)]
def trainBlock (countdown lane rate ver : Nat) : BitVec 64 :=
  blockOf [(0x99, 0), (countdown, 8), (lane, 12), (rate, 15), (ver, 17)]

/-- The time of a block at a rate, in 1/1,000 ns (R253). -/
def blockTime (rate : Nat) : Nat := if rate = 0 then 8250 else if rate = 1 then 5280 else 4125

/-! ## The scrambler and the training pattern (R262) -/

/-- The payload bits scrambled by x⁵⁸ + x³⁹ + 1 from the last 58 scrambled bits `h`, oldest least significant; and those after it.
The first 39 bits depend on `h` alone, the other 25 on the first ones too. -/
def scramble (h : BitVec 58) (d : BitVec 64) : BitVec 64 × BitVec 58 :=
  let a := d.setWidth 39 ^^^ (h.setWidth 39 ^^^ (h >>> 19).setWidth 39)
  let g : BitVec 58 := a ++ (h >>> 39).setWidth 19
  let b := (d >>> 39).setWidth 25 ^^^ (g.setWidth 25 ^^^ (g >>> 19).setWidth 25)
  (b ++ a, b ++ (g >>> 25).setWidth 33)

/-- The next `n` pieces of 64 bits of the PRBS31 sequence, and the history after them. -/
def prbsPieces : Nat → Nat → List (BitVec 64) × Nat
  | 0, h => ([], h)
  | n + 1, h =>
    let (v, h) := prbs 64 h
    let (l, h) := prbsPieces n h
    (BitVec.ofNat 64 v :: l, h)

/-! ## Back-channel messages (R263) -/

/-- A message of the back channel. -/
structure BackMessage where
  ty      : Nat
  src     : Nat
  payload : List Byte
deriving DecidableEq, Repr

/-- The payload bytes of a TYPE; none for a reserved one. -/
def backLength (ty : Nat) : Option Nat :=
  match ty with
  | 1 => some 2
  | 2 => some 1
  | 3 => some 3
  | 4 => some 0
  | 5 => some 1
  | _ => none

/-- The message that the data bytes between K27.7 and K29.7 spell; none where the CRC-16 is wrong, the TYPE reserved or the payload not
that of its TYPE. -/
def backMessage (bytes : List Byte) : Option BackMessage :=
  match bytes with
  | ty :: src :: rest =>
    let n := rest.length - 2
    let body := ty :: src :: rest.take n
    if backLength ty.toNat = some n ∧ rest.drop n = bytesOfNat 2 (crc16 body).toNat then
      some ⟨ty.toNat, src.toNat, rest.take n⟩ else none
  | _ => none

/-- The number that a message's payload holds, least significant byte first. -/
def BackMessage.value (m : BackMessage) : Nat := natOfBytes m.payload

end Sys2Proof.Machine
end

