-- ==== Sys2Proof/Machine/Panel.lean ====
section
/-! DEFINITION. The panel ports with their negotiation, blocks and back channel, and the gate-on-array timing (R253–R279). -/

namespace Sys2Proof.Machine

/-! ## Ports and lanes -/

/-- The state with one panel port changed. -/
def State.onPanel (s : State) (p : Fin 4) (f : PanelPort → PanelPort) : State :=
  { s with panel := { s.panel with ports := s.panel.ports.set p (f s.panel.ports[p]) } }

/-- The state with one panel lane changed. -/
def State.onPanelLane (s : State) (p : Fin 4) (l : Fin 8) (f : PanelLane → PanelLane) : State :=
  s.onPanel p fun q => { q with lanes := q.lanes.set l (f q.lanes[l]) }

/-- A lane. -/
def State.panelLane (s : State) (p : Fin 4) (l : Fin 8) : PanelLane := s.panel.ports[p].lanes[l]

/-- All lanes of all ports, in order. -/
def allLanes : List (Fin 4 × Fin 8) := (List.finRange 4).flatMap fun p => (List.finRange 8).map fun l => (p, l)

/-- The port is in command mode: CMD is set and PLP2 resolved (R275). -/
def State.cmdMode (s : State) (p : Fin 4) : Bool := p == 3 && s.bit (F.PANEL_CFG_CMD p) && s.bit (F.PANEL_STATUS_VER p)

/-- The port is up. -/
def State.panelUp (s : State) (p : Fin 4) : Bool := decide (2 ≤ s.get (F.PANEL_STATUS_STATE p))

/-- The lane carries the tile: its port is up and not in command mode, and it came up with its port. -/
def State.laneUsed (s : State) (p : Fin 4) (l : Fin 8) : Bool :=
  s.panelUp p && !s.cmdMode p && ((s.get (F.PANEL_STATUS_LANES_UP p)).testBit l || (s.panelLane p l).down)

/-- Columns of the lane within the tile (R255). -/
def State.laneCols (s : State) (p : Fin 4) (l : Fin 8) : Nat :=
  min (s.actGet (F.PANEL_LANE_MAP_NCOL_M1 p l) + 1) (s.gridW - s.actGet (F.PANEL_LANE_MAP_COL0 p l))

/-- A block sent on a lane, scrambled (R262). In a shutdown the lanes send IDLE only (R367). -/
def State.sendBlock (s : State) (p : Fin 4) (l : Fin 8) (control : Bool) (w : BitVec 64) : State :=
  if s.bit F.TMON_SD_CAUSE_VALID && w != idleBlock then s
  else
    let (line, scr) := scramble (s.panelLane p l).scr w
    (s.onPanelLane p l fun x => { x with scr := scr }).emit (.panel p l control w line)

/-- A control block waits on a lane for a block boundary, in the order of R258: LATCH 0, SCAN 1, RECT 2, CFG 3. -/
def State.queueBlock (s : State) (p : Fin 4) (l : Fin 8) (prio : Nat) (w : BitVec 64) : State :=
  s.onPanelLane p l fun x => { x with
    wait := (x.wait.filter fun y => decide (y.1 ≤ prio)) ++ (prio, w) :: x.wait.filter fun y => decide (prio < y.1) }

/-- The control blocks that wait on a lane go out. -/
def State.flushLane (s : State) (p : Fin 4) (l : Fin 8) : State :=
  (s.panelLane p l).wait.foldl (fun u y => u.sendBlock p l true y.2) (s.onPanelLane p l fun x => { x with wait := [] })

/-- The next block boundary of a lane after the present, its boundaries `step` apart. A tick of the backup spans up to ten. -/
def PanelLane.boundary (x : PanelLane) (now step : Nat) : Nat :=
  (if x.freeAt + 40000 ≤ now then x.freeAt + (now - x.freeAt) / step * step else x.freeAt) + step

/-- Control blocks of a lane go out at the block boundaries that have come. -/
def State.drainLane (p : Fin 4) (l : Fin 8) : Nat → State → State
  | 0, s => s
  | k + 1, s =>
    let x := s.panelLane p l
    match x.wait with
    | [] => s
    | y :: more =>
      if x.freeAt ≤ s.clock * 1000 then
        let t := s.onPanelLane p l fun x => { x with
          wait := more, freeAt := x.boundary (s.clock * 1000) (blockTime (s.get (F.PANEL_STATUS_RATE p))) }
        State.drainLane p l k (t.sendBlock p l true y.2)
      else s

/-- PLL_PNL has lock: the panel lanes run on it (R269, R348). -/
def State.panelClock (s : State) : Bool := s.bit (F.PLL_CTL_LOCK 1)

/-- The control blocks that wait on the lanes go out at their boundaries. -/
def State.drainLanes (s : State) : State :=
  s.when s.panelClock fun s => allLanes.foldl (fun u x => State.drainLane x.1 x.2 10 u) s

/-- A control block for every lane that carries the tile and has lock. -/
def State.sendAll (s : State) (prio : Nat) (w : BitVec 64) : State :=
  allLanes.foldl (fun u x =>
    if s.laneUsed x.1 x.2 && !(s.panelLane x.1 x.2).down then u.queueBlock x.1 x.2 prio w else u) s

/-- The CFG block of an index (R256, R268). -/
def State.cfgBlock (s : State) (i : Nat) : BitVec 64 :=
  if i < 32 then blockOf [(0x78, 0), (i, 8), (s.bandFirst (2 * i), 14), (s.bandRows (2 * i), 23), (s.bandFirst (2 * i + 1), 27),
    (s.bandRows (2 * i + 1), 36)]
  else blockOf [(0x78, 0), (32, 8), (s.actGet F.PANEL_GOA_TIMING_ROW_NS, 14), (s.slotPeriod / 64, 24),
    (s.actGet F.SEQ_FRM_FORMAT_SLOTS, 42)]

/-- The CFG blocks sent to the drivers (R268). -/
def State.sendCfg (s : State) : State := (List.range 33).foldl (fun u i => u.sendAll 3 (u.cfgBlock i)) s

/-- The CFG blocks sent on one port. -/
def State.sendCfgTo (s : State) (p : Fin 4) : State :=
  (List.range 33).foldl (fun u i => (List.finRange 8).foldl (fun (v : State) (l : Fin 8) =>
    if v.laneUsed p l && !(v.panelLane p l).down then v.sendBlock p l true (v.cfgBlock i) else v) u) s

/-! ## Bring-up (R254, R262, R263) -/

/-- A port leaves traffic: its lanes, its status and what it had negotiated are gone. -/
def State.panelDown (s : State) (p : Fin 4) (state : Nat) : State :=
  let t := s.onPanel p fun _ => PanelPort.reset
  ((((((t.put (F.PANEL_STATUS_STATE p) state).put (F.PANEL_STATUS_VER p) 0).put (F.PANEL_STATUS_RATE p) 0).put
    (F.PANEL_STATUS_LANES_UP p) 0).put (F.PANEL_STATUS_BK_UP p) 0).put (F.PANEL_DRVCAP_CAP p) 0)

/-- A lane as its port starts to send: the scrambler's last 58 bits are free (R262). -/
def State.seedLane (s : State) (p : Fin 4) (l : Fin 8) : State :=
  let (a, s) := s.draw
  let (b, s) := s.draw
  s.onPanelLane p l fun x => { x with scr := BitVec.ofNat 58 (a.toNat + 2 ^ 32 * b.toNat), freeAt := s.clock * 1000, lockAt := s.clock }

/-- Negotiation starts on an enabled port (R254). The PRBS31 sequence starts anywhere but at all zeros: R262 gives no seed, so it is
free. -/
def State.panelStart (s : State) (p : Fin 4) : State :=
  let s := s.panelDown p (if s.bit (F.PANEL_CFG_EN p) then 1 else 0)
  s.when (s.bit (F.PANEL_CFG_EN p)) fun s =>
    let (w, s) := s.draw
    let s := (List.finRange 8).foldl (fun (u : State) (l : Fin 8) => u.seedLane p l) s
    s.onPanel p fun q => { q with fill := 1 + w.toNat % (2 ^ 31 - 1), nextAt := s.clock * 1000, heardAt := s.clock }

/-- The lanes whose drivers report. -/
def State.reporting (s : State) (p : Fin 4) : List (BitVec 13) :=
  (List.finRange 8).filterMap fun (l : Fin 8) =>
    if (s.get (F.PANEL_CFG_LANE_EN p)).testBit l && !s.panel.ports[p].out_.getLsbD l then (s.panelLane p l).cap else none

/-- Every offered lane has reported or is left out. -/
def State.allReported (s : State) (p : Fin 4) : Bool :=
  (List.finRange 8).all fun l =>
    !(s.get (F.PANEL_CFG_LANE_EN p)).testBit l || s.panel.ports[p].out_.getLsbD l || (s.panelLane p l).cap.isSome

/-- A capability word while the port negotiates and has not resolved yet. -/
def State.panelCap (s : State) (p : Fin 4) (l : Fin 8) (cap : BitVec 13) : State :=
  s.when (s.get (F.PANEL_STATUS_STATE p) == 1 && s.panel.ports[p].resolved.isNone && (s.get (F.PANEL_CFG_LANE_EN p)).testBit l) fun s =>
    let t := (s.onPanelLane p l fun x => { x with cap := some cap }).put (F.PANEL_STATUS_BK_UP p) 1
    t.put (F.PANEL_DRVCAP_CAP p) ((t.reporting p).foldl (· &&& ·) (BitVec.allOnes 13)).toNat

/-- A message on a port's back channel: the bytes between K27.7 and K29.7 reach `f` where they are a message of TYPE `ty`, and the
time of the latest message is now (R263). A message of another TYPE is another command's. -/
def State.backRx (s : State) (p : Fin 4) (ty : Nat) (bytes : List Byte) (f : BackMessage → State → State) : State :=
  let s := s.onPanel p fun q => { q with heardAt := s.clock }
  match backMessage bytes with
  | some m => if m.ty = ty then f m s else s
  | none => s

/-- The lane of a driver's message; none where SRC is no lane number. -/
def BackMessage.lane (m : BackMessage) : Option (Fin 8) := if h : m.src < 8 then some ⟨m.src, h⟩ else none

/-- A driver's message on its lane. -/
def State.driverRx (s : State) (p : Fin 4) (ty : Nat) (bytes : List Byte) (f : Fin 8 → Nat → State → State) : State :=
  s.backRx p ty bytes fun m s => match m.lane with
    | some l => f l m.value s
    | none => s

/-- PANEL_CAP_RX. -/
def execPanelCapRx (p : Fin 4) (msg : List Byte) (s : State) : Host.Outcome State Fault Refusal :=
  s.ifUp (·.driverRx p 1 msg fun l v s => s.panelCap p l (BitVec.ofNat 13 v))

/-- The version and rate that every reporting driver offers and the port allows; none without a common version. -/
def State.panelResolve (s : State) (p : Fin 4) : Option (Nat × Nat) :=
  let caps := s.reporting p
  let both := caps.foldl (· &&& ·) (BitVec.allOnes 13)
  let ver := if both.getLsbD 1 && s.bit (F.PANEL_CFG_MAXVER p) then some 1 else if both.getLsbD 0 then some 0 else none
  let rate := (caps.map fun c => min 2 (c.toNat / 4 % 4)).foldl min (min 2 (s.get (F.PANEL_CFG_MAXRATE p)))
  if caps.isEmpty then none else ver.map fun v => (v, if v = 0 then min 1 rate else rate)

/-- Negotiation fails: event 2, and the port stays down (R254, R279). -/
def State.panelFails (s : State) (p : Fin 4) : State :=
  ((s.panelDown p 0).put (F.PANEL_CFG_RETRAIN p) 0).raise (srcPanel p 2)

/-! ### The training pattern (R262) -/

/-- A group of the training pattern on the given lanes: a TRAIN block with each lane's number, then 15 data blocks of the PRBS31
sequence. Its rate and version are those resolved; before, those in force (DEDUCED, log 14). -/
def State.sendGroup (s : State) (p : Fin 4) (lanes : List (Fin 8)) (countdown : Nat) : State :=
  let q := s.panel.ports[p]
  let rate := s.get (F.PANEL_STATUS_RATE p)
  let after := q.resolved.getD (s.get (F.PANEL_STATUS_VER p), rate)
  let (pieces, fill) := prbsPieces 15 q.fill
  let group (u : State) (l : Fin 8) : State :=
    pieces.foldl (fun v w => v.sendBlock p l false w) (u.sendBlock p l true (trainBlock countdown l after.2 after.1))
  let now := s.clock * 1000
  let step := 16 * blockTime rate
  (lanes.foldl group s).onPanel p fun q => { q with
    fill := fill, nextAt := (if q.nextAt + step ≤ now then now else q.nextAt) + step }

/-- Every offered lane is settled and the port resolves: the countdown starts (R254, R262). -/
def State.tryResolve (s : State) (p : Fin 4) : State :=
  if s.panel.ports[p].resolved.isNone && s.allReported p then
    match s.panelResolve p with
    | some x => s.onPanel p fun q => { q with resolved := some x, left := 16 }
    | none => s
  else s

/-- The group that a negotiating port sends next: of the countdown while groups of it are left, with COUNTDOWN 15 otherwise, none
between the countdown and the switch. -/
def State.trainPort (s : State) (p : Fin 4) : State :=
  let s := s.tryResolve p
  let q := s.panel.ports[p]
  let lanes := (List.finRange 8).filter fun (l : Fin 8) => (s.get (F.PANEL_CFG_LANE_EN p)).testBit l && !q.out_.getLsbD l
  if q.resolved.isNone || q.switched then s.sendGroup p lanes 15
  else if q.left = 0 then s
  else (s.sendGroup p lanes (q.left - 1)).onPanel p fun q => { q with left := q.left - 1 }

/-- The training pattern of a port at the present: while it negotiates, and on a lane that retrains alone (R269). -/
def State.trainPanel (s : State) (p : Fin 4) : State :=
  if !s.panelClock || decide (s.clock * 1000 < s.panel.ports[p].nextAt) then s
  else if s.get (F.PANEL_STATUS_STATE p) = 1 then s.trainPort p
  else
    let lanes := (List.finRange 8).filter fun l => (s.panelLane p l).down && !(s.panelLane p l).locked
    if s.panelUp p && !lanes.isEmpty then s.sendGroup p lanes 15 else s

/-- The panel ports send what time alone brings: training groups and control blocks that wait. -/
def State.sendPanels (s : State) : State :=
  ((List.finRange 4).foldl (fun (u : State) (p : Fin 4) => u.trainPanel p) s).drainLanes

/-- The group with COUNTDOWN 0 has gone out (R262). -/
def State.countdownOver (s : State) (p : Fin 4) : Bool :=
  s.panel.ports[p].resolved.isSome && s.panel.ports[p].left == 0 && decide (s.panel.ports[p].nextAt ≤ s.clock * 1000)

/-- PANEL_RATE_SWITCH: the countdown has ended, and every lane runs the resolved version and rate. Drivers without a common version
fail the negotiation. -/
def State.panelSwitch (s : State) (p : Fin 4) : State :=
  s.when (s.get (F.PANEL_STATUS_STATE p) == 1 && !s.panel.ports[p].switched) fun s =>
    match s.panel.ports[p].resolved with
    | some (v, r) => s.when (s.countdownOver p) fun s =>
        ((s.onPanel p fun q => { q with switched := true }).put (F.PANEL_STATUS_VER p) v).put (F.PANEL_STATUS_RATE p) r
    | none => s.when (s.allReported p && (s.panelResolve p).isNone) (·.panelFails p)

def execPanelRateSwitch (p : Fin 4) (s : State) : Host.Outcome State Fault Refusal := s.ifUp (·.panelSwitch p)

/-- PANEL_NEGOTIATION_FAILED: a driver does not report, so its lane is left out; or the port's negotiation fails. -/
def State.panelNegotiationFails (s : State) (p : Fin 4) (l : Option (Fin 8)) : State :=
  s.when (s.get (F.PANEL_STATUS_STATE p) == 1) fun s =>
    match l with
    | some l => if (s.get (F.PANEL_CFG_LANE_EN p)).testBit l && (s.panelLane p l).cap.isNone then
        (s.onPanel p fun q => { q with out_ := q.out_ ||| (1#8 <<< l.val) }).raise (srcPanel p 2) else s
    | none => s.panelFails p

def execPanelNegotiationFailed (p : Fin 4) (l : Option (Fin 8)) (s : State) : Host.Outcome State Fault Refusal :=
  s.ifUp (·.panelNegotiationFails p l)

/-- A lane of the port takes part: offered, reported, not left out. -/
def State.takesPart (s : State) (p : Fin 4) (l : Fin 8) : Bool :=
  (s.get (F.PANEL_CFG_LANE_EN p)).testBit l && !s.panel.ports[p].out_.getLsbD l && (s.panelLane p l).cap.isSome

/-- The lane's active map takes more columns than its driver reports (R255). -/
def State.tooWide (s : State) (p : Fin 4) (l : Fin 8) : Bool :=
  match (s.panelLane p l).cap with
  | some c => decide (c.toNat / 16 % 64 + 1 < s.actGet (F.PANEL_LANE_MAP_NCOL_M1 p l) + 1)
  | none => false

/-- Every driver has lock at the resolved rate: the port is up (R254, R255, R262). -/
def State.panelComesUp (s : State) (p : Fin 4) : State :=
  let wide := (List.finRange 8).filter fun l => s.takesPart p l && s.tooWide p l
  let s := s.raiseIf (!wide.isEmpty) (srcPanel p 2)
  let up := (List.finRange 8).filter fun l => s.takesPart p l && !wide.contains l
  let t := ((s.put (F.PANEL_STATUS_STATE p) 2).put (F.PANEL_STATUS_LANES_UP p) ((up.map fun l : Fin 8 => 2 ^ l.val).sum)).put
    (F.PANEL_CFG_RETRAIN p) 0
  let below := decide (s.get (F.PANEL_STATUS_VER p) < s.get (F.PANEL_CFG_MAXVER p)) ||
    decide (s.get (F.PANEL_STATUS_RATE p) < min 2 (s.get (F.PANEL_CFG_MAXRATE p)))
  (t.raiseIf below (srcPanel p 3)).sendCfgTo p

/-- A lane has lost lock: it alone retrains (R269). -/
def State.laneLost (s : State) (p : Fin 4) (l : Fin 8) : State :=
  s.when (s.panelUp p && (s.get (F.PANEL_STATUS_LANES_UP p)).testBit l) fun s =>
    let t := (s.flushLane p l).onPanelLane p l fun x => { x with locked := false, down := true, line := none }
    let t := (t.put (F.PANEL_STATUS_LANES_UP p) (t.get (F.PANEL_STATUS_LANES_UP p) - 2 ^ l.val)).put (F.PANEL_STATUS_STATE p) 3
    (t.count (F.PANEL_ERR_DOWNS p)).raise (srcPanel p 0)

/-- A LOCK message's payload from lane `l`: lock at the rate in force completes the bring-up, while PLL_PNL has lock; a lane of a port
that is up may be found without lock. -/
def State.panelLock (s : State) (p : Fin 4) (l : Fin 8) (msg : BitVec 8) : State :=
  let s := s.onPanelLane p l fun x => { x with lockAt := s.clock }
  let here := decide (msg.toNat / 2 % 4 = s.get (F.PANEL_STATUS_RATE p) ∧ msg.toNat / 8 % 2 = s.get (F.PANEL_STATUS_VER p))
  if s.get (F.PANEL_STATUS_STATE p) = 1 then
    if s.panel.ports[p].switched && s.takesPart p l then
      let t := s.onPanelLane p l fun x => { x with locked := msg.getLsbD 0 && here }
      if s.panelClock && (List.finRange 8).all fun k => !t.takesPart p k || (t.panelLane p k).locked then t.panelComesUp p else t
    else s
  else if s.bit (F.PANEL_STATUS_BK_UP p) && !msg.getLsbD 0 then s.laneLost p l else s

/-- PANEL_LOCK_RX. -/
def execPanelLockRx (p : Fin 4) (msg : List Byte) (s : State) : Host.Outcome State Fault Refusal :=
  s.ifUp (·.driverRx p 2 msg fun l v s => s.panelLock p l (BitVec.ofNat 8 v))

/-- A CRC error reported under PLP2 (R261). -/
def State.panelCrcErr (s : State) (p : Fin 4) : State :=
  s.when (s.panelUp p && s.bit (F.PANEL_STATUS_VER p)) fun s => (s.count (F.PANEL_ERR_CRC p)).raise (srcPanel p 5)

/-- PANEL_CRC_ERR_RX. -/
def execPanelCrcErrRx (p : Fin 4) (msg : List Byte) (s : State) : Host.Outcome State Fault Refusal :=
  s.ifUp (·.driverRx p 3 msg fun _ _ s => s.panelCrcErr p)

/-- No LOCK message from a lane's driver for 1.5 µs, while lock detection is not suspended: its lock is lost (R263). -/
def State.laneSilent (s : State) (p : Fin 4) (l : Fin 8) : State :=
  s.when (s.bit (F.PANEL_STATUS_BK_UP p) && decide ((s.panelLane p l).lockAt + 1500 ≤ s.clock)) (·.laneLost p l)

/-- PANEL_LANE_LOCK_LOSS by silence; a LOCK message that reports it is PANEL_LOCK_RX. -/
def execPanelLaneLockLoss (p : Fin 4) (l : Fin 8) (s : State) : Host.Outcome State Fault Refusal := s.ifUp (·.laneSilent p l)

/-- The catch-up LATCH blocks of a lane, in band order and before any other traffic, those late counted (R270). A band with ROWS 0 has
no scan to be late for. -/
def State.catchUp (s : State) (p : Fin 4) (l : Fin 8) : State :=
  let missed := (s.panelLane p l).missed
  let t := s.onPanelLane p l fun x => { x with missed := [] }
  (List.finRange 64).foldl (fun (u : State) (b : Fin 64) =>
    match missed.find? fun m => m.1 == b.val with
    | none => u
    | some m =>
      let v := (u.sendBlock p l true (latchBlock b m.2 true)).count (F.PANEL_CATCHUP_SENT p)
      let v := if m.2 then v.count (F.PANEL_UNDERRUN_COUNT p) else v
      if v.bandRows b != 0 && v.reached v.trl.bands[b].scanned then (v.count (F.PANEL_CATCHUP_MISS p)).raise (srcPanel p 6) else v) t

/-- PANEL_LANE_RETRAIN_DONE: a lane that lost lock has it again, while PLL_PNL has lock. -/
def State.laneReturns (s : State) (p : Fin 4) (l : Fin 8) : State :=
  s.when (s.panelUp p && s.panelClock && (s.panelLane p l).down && !(s.panelLane p l).locked) fun s =>
    let t := s.onPanelLane p l fun x => { x with locked := true, down := false, lockAt := s.clock }
    let t := t.put (F.PANEL_STATUS_LANES_UP p) (t.get (F.PANEL_STATUS_LANES_UP p) ||| 2 ^ l.val)
    let t := if (List.finRange 8).any fun k => (t.panelLane p k).down then t else t.put (F.PANEL_STATUS_STATE p) 2
    (t.catchUp p l).raise (srcPanel p 1)

def execPanelLaneRetrainDone (p : Fin 4) (l : Fin 8) (s : State) : Host.Outcome State Fault Refusal :=
  s.ifUp (·.laneReturns p l)

/-- BACK_CHANNEL_LOSS: no message for 2 µs (that no comma came either is the command); event 4; the lanes go on (R263). -/
def State.backLost (s : State) (p : Fin 4) : State :=
  s.when (s.bit (F.PANEL_STATUS_BK_UP p) && decide (s.panel.ports[p].heardAt + 2000 ≤ s.clock)) fun s =>
    (s.put (F.PANEL_STATUS_BK_UP p) 0).raise (srcPanel p 4)

def execBackChannelLoss (p : Fin 4) (s : State) : Host.Outcome State Fault Refusal := s.ifUp (·.backLost p)

/-- BACK_CHANNEL_RELOCK: lock detection from LOCK messages starts anew. -/
def State.backRelocks (s : State) (p : Fin 4) : State :=
  s.when (s.get (F.PANEL_STATUS_STATE p) != 0) fun s =>
    (s.onPanel p fun q => { q with heardAt := s.clock, lanes := q.lanes.map fun x => { x with lockAt := s.clock } }).put
      (F.PANEL_STATUS_BK_UP p) 1

def execBackChannelRelock (p : Fin 4) (s : State) : Host.Outcome State Fault Refusal := s.ifUp (·.backRelocks p)

/-- PANEL_RETRAIN: an enabled port is brought up again; RETRAIN reads 1 until done. -/
def State.panelRetrain (s : State) (p : Fin 4) : State :=
  s.when (s.bit (F.PANEL_CFG_EN p)) fun s => (s.panelStart p).put (F.PANEL_CFG_RETRAIN p) 1

def execPanelRetrain (p : Fin 4) (s : State) : Host.Outcome State Fault Refusal := s.ifUp (·.panelRetrain p)

/-- PANEL_CLR. -/
def State.panelClr (s : State) (p : Fin 4) : State :=
  ((s.setReg (F.PANEL_UNDERRUN_addr p) 0).setReg (F.PANEL_CATCHUP_addr p) 0).setReg (F.PANEL_ERR_addr p) 0

def execPanelClr (p : Fin 4) (s : State) : Host.Outcome State Fault Refusal := s.ifUp (·.panelClr p)

/-! ## Band lines (R19, R257–R260) -/

/-- The band line's entries: rows ascending, the lane's hogels ascending, emitters 0–7 (R257). -/
def State.lineEntries (s : State) (p : Fin 4) (l : Fin 8) (r b : Nat) : List Nat :=
  let x0 := s.actGet (F.PANEL_LANE_MAP_COL0 p l)
  (List.range (s.bandRows b)).flatMap fun dy => (List.range (s.laneCols p l)).flatMap fun dx => (List.range 8).map fun e =>
    s.slotEntry r (s.entryNo (x0 + dx) (s.bandFirst b + dy) e)

/-- Data blocks of 36-bit entries, packed from bit 0 upward, the last padded with zeros. -/
def packEntries (l : List Nat) : List (BitVec 64) :=
  let n := l.foldr (fun e a => a * 2 ^ 36 + e % 2 ^ 36) 0
  (List.range ((36 * l.length + 63) / 64)).map fun i => BitVec.ofNat 64 (n / 2 ^ (64 * i))

/-- The blocks of a band line, each with its kind. -/
def State.lineBlocks (s : State) (p : Fin 4) (l : Fin 8) (r b slot fseq : Nat) : List (Bool × BitVec 64) :=
  let data := packEntries (s.lineEntries p l r b)
  (true, bandBlock b slot fseq) :: data.map (fun w => (false, w)) ++
    [(true, endBlock (crc32c (data.flatMap fun w => bytesOfNat 8 w.toNat)))]

/-- The slot number and FRAME_SEQ of a running slot: of the running frame, or of the one selected next. A dark frame has no
FRAME_SEQ: 0 stands there (DESIGN CHOICE, log 14). -/
def State.slotName (s : State) (r : Nat) : Nat × Nat :=
  let seq (x : Option Selection) : Nat := match x.bind (·.content) with
    | some c => c.2.toNat
    | none => 0
  match s.frm.run with
  | some f => if r < f.base + f.slots then (r - f.base, seq (some f.sel)) else (r - (f.base + f.slots), seq s.frm.sel)
  | none => (r, seq s.frm.sel)

/-- The band whose line a lane sends next: synthesised, its streaming window open, not yet sent; the earliest of them (R19,
R75, R258). -/
def State.nextLine (s : State) (p : Fin 4) (l : Fin 8) : Option (Nat × Nat) :=
  let ready : List (Nat × Nat) := (List.finRange 64).filterMap fun (b : Fin 64) =>
    let r := s.dist.latched[b]
    match s.workOf r b with
    | some w => if s.bandRows b != 0 && s.workDone w && !(s.panelLane p l).whole.contains (r, b.val) then some (r, b.val) else none
    | none => none
  ready.foldl (fun (best : Option (Nat × Nat)) (x : Nat × Nat) => match best with
    | none => some x
    | some y => if x.1 < y.1 then some x else some y) none

/-- The band line that a lane sends on: the one in progress, or a new one; none in HOLD (R272), in a shutdown (R367) and on a lane
without columns (R255). -/
def State.frontLine (s : State) (p : Fin 4) (l : Fin 8) : Option (Nat × Nat × Nat) :=
  if s.laneCols p l = 0 || s.bit F.TMON_SD_CAUSE_VALID || s.frm.hold && s.frm.holdClear.isNone then none
  else match (s.panelLane p l).line with
    | some x => some x
    | none => (s.nextLine p l).map fun y => (y.1, y.2, 0)

/-- BAND_LINE_SEND: the lane sends the control blocks that wait, then the next `n` blocks of its band line, a new one where none is in
progress, or `n` IDLE blocks where it has none to send. -/
def State.bandLine (s : State) (p : Fin 4) (l : Fin 8) (n : Nat) : State :=
  if !s.panelClock || !s.laneUsed p l || (s.panelLane p l).down then s
  else
    let s := s.flushLane p l
    match s.frontLine p l with
    | none => (List.range n).foldl (fun (u : State) (_ : Nat) => u.sendBlock p l true idleBlock) s
    | some (r, b, sent) =>
      let (slot, fseq) := s.slotName r
      let blocks := s.lineBlocks p l r b slot fseq
      let t := ((blocks.drop sent).take n).foldl (fun (u : State) (k : Bool × BitVec 64) => u.sendBlock p l k.1 k.2) s
      t.onPanelLane p l fun x =>
        if blocks.length ≤ sent + n then { x with line := none, whole := (r, b) :: x.whole }
        else { x with line := some (r, b, sent + n) }

def execBandLineSend (p : Fin 4) (l : Fin 8) (n : Nat) (s : State) : Host.Outcome State Fault Refusal :=
  s.ifUp (·.bandLine p l n)

/-- LATCH of band `b` at running slot `r` on a lane: with FILL and counted where the band line is incomplete, its rest
dropped; missed on a lane without lock (R259, R260, R270). A band with ROWS 0 has no band line to be incomplete (R41). -/
def State.latchLane (s : State) (p : Fin 4) (l : Fin 8) (r b : Nat) : State :=
  if !s.laneUsed p l then s
  else
    let x := s.panelLane p l
    let fill := s.laneCols p l != 0 && s.bandRows b != 0 && !x.whole.contains (r, b)
    let t := s.onPanelLane p l fun x => { x with
      whole := x.whole.filter fun y => y != (r, b)
      line := match x.line with
        | some (r', b', k) => if r' = r ∧ b' = b then none else some (r', b', k)
        | none => none
      missed := if x.down then (x.missed.filter fun m => m.1 != b) ++ [(b, fill)] else x.missed }
    if x.down then t
    else
      let t := if fill then t.count (F.PANEL_UNDERRUN_COUNT p) else t
      t.queueBlock p l 0 (latchBlock b fill false)

/-- LATCH of band `b` on every lane. -/
def State.latchLanes (s : State) (r b : Nat) : State := allLanes.foldl (fun u x => u.latchLane x.1 x.2 r b) s

/-- HOLD: the lanes send no band lines (R272). -/
def State.dropLines (s : State) : State :=
  allLanes.foldl (fun u x => u.onPanelLane x.1 x.2 fun y => { y with line := none, whole := [] }) s

/-! ## Gate-on-array (R264–R267) -/

/-- The level of GOA_DIS: while DIS is 1, and while the supplies or a shutdown hold it high (R267, R294, R298, R299, R367). -/
def State.goaDis (s : State) : Bool := s.bit F.PANEL_GOA_CTL_DIS || s.hv.dis || s.mode == .shutdown

/-- The emitters of band `b` have their emission on (R264, R267). -/
def State.emitting (s : State) (b : Fin 64) : Bool := s.trl.bands[b].lit && !s.goaDis

/-- PANEL_GOA_CTL.DIS: emission follows at once. -/
def execGoaDisWrite (dis : Bool) (s : State) : Host.Outcome State Fault Refusal := s.ifUp (·.putB F.PANEL_GOA_CTL_DIS dis)

/-- E − R·t_r − 200 ns from a latch instant and a settle. -/
def State.scanInstant (s : State) (b : Fin 64) (t : Word) (settle : Nat) : Word :=
  t + BitVec.ofNat 32 (settle + 2000) - BitVec.ofNat 32 (s.bandRows b * s.actGet F.PANEL_GOA_TIMING_ROW_NS + 200)

/-- Band `b` latches a slot at `t`: the layer of R39 changes, and the scan, the light shift E and the next dark shift are due. A
light shift at or after the next dark shift leaves the slot dark and is counted (R265, R287, R288). -/
def State.gateLatch (s : State) (b : Fin 64) (slot mask period : Nat) (t : Word) (final light : Bool) : State :=
  if s.bandRows b = 0 then s
  else
    let s := s.changeLayer b slot mask t
    let settle := s.settleNs
    let late := decide (period ≤ settle + 3200)
    let s := if light && late then
        let u := s.count F.TRL_STAT_NOLIGHT
        if u.trl.darkEv then u else { u with trl := { u.trl with darkEv := true } }.raise (srcTrl 8)
      else s
    let scan := s.scanInstant b t settle
    (s.onBand b fun d => { d with
      lit := false, dark := true, latch := t, period := period, settle := settle, final := final
      darkAt := some (t + BitVec.ofNat 32 period - 1200)
      lightAt := if light && !late then some (t + BitVec.ofNat 32 (settle + 2000)) else none
      scanAt := some scan, rescanAt := none, dark0 := none, scanned := scan, rows := 0 }).startComp b t

/-- The slot 0 transition of a band in HOLD: dark, the layer change, the light shift; no LATCH and no scan (R272). -/
def State.holdTransition (s : State) (b : Fin 64) (period : Nat) (t : Word) : State :=
  if s.bandRows b = 0 then s
  else
    let s := s.changeLayer b 0 0 t
    let settle := s.settleNs
    (s.onBand b fun d => { d with
      lit := false, dark := true, latch := t, period := period, settle := settle, final := true
      darkAt := none, lightAt := some (t + BitVec.ofNat 32 (settle + 2000)), scanAt := none }).startComp b t

/-- A set of registers changes SLOTS or LAYER_MASK (R30). -/
def State.changesMode (s : State) (set : List (Nat × Word)) : Bool :=
  let f := assocGet (s.actReg F.SEQ_FRM_FORMAT_addr) F.SEQ_FRM_FORMAT_addr set
  F.SEQ_FRM_FORMAT_SLOTS.of f != s.actGet F.SEQ_FRM_FORMAT_SLOTS ||
  F.SEQ_FRM_FORMAT_LAYER_MASK.of f != s.actGet F.SEQ_FRM_FORMAT_LAYER_MASK

/-- What landed applies at the next launch: it is in time for it, or the launch that it was late for has fired (R29). -/
def Landing.applies (x : Landing) : Bool := !x.late || x.passed

/-- The set that takes effect at the next launch that starts a frame: a commit not deferred by it, which a change of SLOTS or
LAYER_MASK holds back but for a transition launch, or, for a commit made in HOLD, the end of HOLD with every layer in state 0
(R29, R30). -/
def State.nextSet (s : State) : Option (List (Nat × Word)) :=
  match s.frm.commit with
  | some c =>
    if c.land.applies ∧ (!s.changesMode c.set || s.frm.transition || (s.frm.hold && c.inHold && s.allZero)) then some c.set
    else none
  | none => none

/-- A field as it will be at the next launch that starts a frame. -/
def State.nextGet (s : State) (f : Field) : Nat := f.of (assocGet (s.actReg f.addr) f.addr (s.nextSet.getD []))

/-- The slot period that takes effect at the next launch (R29). -/
def State.nextPeriod (s : State) : Nat := s.nextGet F.SEQ_FRM_SLOT_PERIOD_PERIOD_NS

/-- The launch for which comparator 0 is armed starts a frame (R29). -/
def State.willStart (s : State) : Bool :=
  s.bit (F.SEQ_LC_CFG_ARM 0) && (!s.frm.hold || match s.frm.holdClear with
    | some x => x.applies
    | none => false)

/-- The dark shift before slot 0 of band `b`: of the running frame, or of the launch that comparator 0 is armed for. -/
def State.firstDark (s : State) (b : Fin 64) : Option Word :=
  let at_ (t : Word) (period : Nat) : Word := t + BitVec.ofNat 32 (b.val * (period / 64)) - 1200
  match s.frm.run with
  | some r => if s.dist.latched[b] = r.base then some (at_ r.launch r.period)
      else if s.willStart then some (at_ (s.target 0) s.nextPeriod) else none
  | none => if s.willStart then some (at_ (s.target 0) s.nextPeriod) else none

/-- Band `b` goes dark at `t`. -/
def State.goDark (s : State) (b : Fin 64) (t : Word) : State :=
  let u := (s.onBand b fun d => { d with lit := false, dark := true, darkAt := none, lightAt := none }).emit (.goa b .dark)
  (u.shiftDark b t).startComp b t

/-- DARK_SHIFT: 1.2 µs before the band's next latch; before slot 0 also for a band that is dark already (R265). -/
def State.darkShift (s : State) (b : Fin 64) : State :=
  let d := s.trl.bands[b]
  match d.darkAt with
  | some t => s.when (!d.final && s.reached t) (·.goDark b t)
  | none => match s.firstDark b with
    | some t => s.when (d.dark0 != some t && s.bandRows b != 0 && s.reached t) fun s =>
        (s.goDark b t).onBand b fun d => { d with dark0 := some t }
    | none => s

def execDarkShift (b : Fin 64) (s : State) : Host.Outcome State Fault Refusal := s.ifUp (·.darkShift b)

/-- FINAL_DARK_PASS: after the last slot of a frame, with the balanced pairs that the blank has room for (R265, R300). -/
def State.finalDark (s : State) (b : Fin 64) : State :=
  let d := s.trl.bands[b]
  match d.darkAt with
  | some t => s.when (d.final && s.reached t) fun s =>
      (s.goDark b t).startPairs b t (s.actGet F.SEQ_FRM_MIN_FRAME_MIN_NS - s.actGet F.SEQ_FRM_FORMAT_SLOTS * s.slotPeriod)
  | none => s

def execFinalDarkPass (b : Fin 64) (s : State) : Host.Outcome State Fault Refusal := s.ifUp (·.finalDark b)

/-- LIGHT_SHIFT: at E; a band that stays dark for a fault gets none (R265, R300). The register on glass shifts only while its clocks
stand at VGL and VGH (R298). -/
def State.lightShift (s : State) (b : Fin 64) : State :=
  match s.trl.bands[b].lightAt with
  | none => s
  | some t => s.when (s.reached t) fun s =>
      let u := (List.finRange 6).foldl (fun (u : State) (l : Fin 6) => u.stopComp (outIx b l) t) s
      let on := !s.trl.blanked.getLsbD b
      let u := u.onBand b fun d => { d with lit := on && s.trl.goa.on, dark := !on, lightAt := none }
      if on then (u.emit (.goa b .light)).shiftLight b t else u

def execLightShift (b : Fin 64) (s : State) : Host.Outcome State Fault Refusal := s.ifUp (·.lightShift b)

/-- The SCAN of a band that is due: that of its slot, or one with RESCAN (R274). -/
def BandDrive.nextScan (d : BandDrive) (s : State) : Option (Word × Bool) :=
  match d.scanAt.filter s.reached with
  | some t => some (t, false)
  | none => (d.rescanAt.filter s.reached).map fun t => (t, true)

/-- SCAN_SEND: SCAN on the lanes, 200 ns before the first scan pulse. -/
def State.scanSend (s : State) (b : Fin 64) : State :=
  match s.trl.bands[b].nextScan s with
  | none => s
  | some (t, rescan) =>
      (s.sendAll 1 (scanBlock b rescan)).onBand b fun d => { d with
        scanAt := if rescan then d.scanAt else none, rescanAt := if rescan then none else d.rescanAt
        row := 0, rows := s.bandRows b, rowAt := t + 200 }

def execScanSend (b : Fin 64) (s : State) : Host.Outcome State Fault Refusal := s.ifUp (·.scanSend b)

/-- SCAN_PULSE: the next row of the band, for t_r − GAP_NS. -/
def State.scanPulse (s : State) (b : Fin 64) : State :=
  let d := s.trl.bands[b]
  let row := s.actGet F.PANEL_GOA_TIMING_ROW_NS
  s.when (d.rows != 0 && s.reached d.rowAt) fun s =>
    ((s.emit (.goa b (.scan (s.bandFirst b + d.row)))).shiftScan (b.val == 0 && d.row == 0)
        (d.rowAt + BitVec.ofNat 32 (row - s.actGet F.PANEL_GOA_TIMING_GAP_NS))).onBand b fun d => { d with
      row := d.row + 1, rows := d.rows - 1, rowAt := d.rowAt + BitVec.ofNat 32 row }

def execScanPulse (b : Fin 64) (s : State) : Host.Outcome State Fault Refusal := s.ifUp (·.scanPulse b)

/-! ## The guard before a waveform (R290) -/

/-- The next latch of band `b` with its slot and mask: of the running frame, of a HOLD transition, of the armed launch. -/
def State.nextLatch (s : State) (b : Fin 64) : Option (Word × Nat × Nat) :=
  let armed := if s.willStart then
      some (s.target 0 + BitVec.ofNat 32 (b.val * (s.nextPeriod / 64)), 0, 0) else none
  if s.frm.holdBands.getLsbD b then some (s.frm.holdAt + BitVec.ofNat 32 (b.val * (s.slotPeriod / 64)), 0, 0)
  else match s.frm.run with
    | some r =>
      let k := s.dist.latched[b] - r.base
      if k < r.slots then some (r.launch + BitVec.ofNat 32 (k * r.period + b.val * (r.period / 64)), k, r.mask.toNat) else armed
    | none => armed

/-- The instant at which an output's next waveform starts by a latch, by the initialisation or as a balanced pair, of those that are
known. -/
def State.nextStarts (s : State) (b : Fin 64) (l : Fin 6) : List Word :=
  let d := s.trl.bands[b]
  let latch := match s.nextLatch b with
    | some (t, slot, mask) => if s.changing b slot mask == some l then [t] else []
    | none => []
  let init := if s.trl.pass = 0 then [] else if s.trl.passDue.getLsbD b then [s.trl.passAt + BitVec.ofNat 32 (4000 * b.val)]
    else if s.trl.pass = 1 ∧ s.trl.passDue.getLsbD 63 = false then [s.passEnd + BitVec.ofNat 32 (4000 * b.val)] else []
  let pair := if s.trl.outs[outIx b l].pair && d.final then d.darkAt.toList else []
  latch ++ init ++ pair

/-- COMPENSATION_GUARD: 0.5 µs before the output's next waveform. -/
def State.compGuard (s : State) (b : Fin 64) (l : Fin 6) : State :=
  match (s.nextStarts b l).find? fun t => s.reached (t - 500) with
  | some t => s.stopComp (outIx b l) (t - 500)
  | none => s

def execCompensationGuard (b : Fin 64) (l : Fin 6) (s : State) : Host.Outcome State Fault Refusal := s.ifOn (·.compGuard b l)

/-! ## Checks of lane maps and scan timing (R255, R266, R271) -/

/-- The lane is enabled on a port in tile use. -/
def State.laneInTile (s : State) (p : Fin 4) (l : Fin 8) : Bool :=
  s.bit (F.PANEL_CFG_EN p) && (s.get (F.PANEL_CFG_LANE_EN p)).testBit l && !s.cmdMode p

/-- The columns that a lane may take. -/
def State.laneMost (s : State) (p : Fin 4) (l : Fin 8) : Nat :=
  match (s.panelLane p l).cap with
  | some c => if s.panelUp p then c.toNat / 16 % 64 + 1 else 64
  | none => 64

/-- The lane maps written cover every column of a width once only, none beyond its driver (R255). -/
def State.mapsOk (s : State) (width : Nat) : Bool :=
  let lanes := allLanes.filter fun x => s.laneInTile x.1 x.2
  let map (x : Fin 4 × Fin 8) : Nat × Nat := (s.get (F.PANEL_LANE_MAP_COL0 x.1 x.2), s.get (F.PANEL_LANE_MAP_NCOL_M1 x.1 x.2) + 1)
  (lanes.all fun x => decide ((map x).2 ≤ s.laneMost x.1 x.2)) &&
  (List.range width).all fun c => (lanes.filter fun x => decide ((map x).1 ≤ c ∧ c < (map x).1 + (map x).2)).length == 1

/-- The bands of a row table meet R266 and ROW_NS as written its range; R278 names the commit alone as refused for the range, and
the model refuses an APPLY for it too, with PANEL_CAUSE 2 (DESIGN CHOICE, log 17). -/
def State.scanOk (s : State) (rows : Nat → Nat) (period : Nat) : Bool :=
  let t := s.get F.PANEL_GOA_TIMING_ROW_NS
  decide (100 ≤ t ∧ t ≤ 1000) && (List.range 64).all fun b =>
    decide (rows b * t + 200 ≤ period / 64) &&
    (waveBands s.actReg).all fun j => decide (rows b * t + 200 ≤ waveSettle s.actReg j + 2000)

/-- A blink region as written is not legal (R271). -/
def State.blinkBad (s : State) (r : Nat) : Bool :=
  decide (s.get (F.PANEL_BLINK_X_X1 r) < s.get (F.PANEL_BLINK_X_X0 r)) || decide (s.get (F.PANEL_BLINK_Y_Y1 r) < s.get (F.PANEL_BLINK_Y_Y0 r)) ||
  s.get (F.PANEL_BLINK_T_PERIOD r) == 0 || decide (s.get (F.PANEL_BLINK_T_PERIOD r) < s.get (F.PANEL_BLINK_T_ON r))

/-- The cause for which the panel refuses a commit at a slot period; 0 for none (R271). -/
def State.panelCause (s : State) (period : Nat) : Nat :=
  if !s.mapsOk s.gridW then 1 else if !s.scanOk s.bandRows period then 2
  else if (List.range 16).any s.blinkBad then 3 else 0

/-- The panel's shadowed registers. -/
def mapRegs : List Nat := F.PANEL_GOA_TIMING_addr :: allLanes.map fun x => F.PANEL_LANE_MAP_addr x.1 x.2
def blinkRegs : List Nat :=
  (List.range 16).flatMap fun r => [F.PANEL_BLINK_X_addr r, F.PANEL_BLINK_Y_addr r, F.PANEL_BLINK_T_addr r]

/-! ## Blink and HOLD ticks (R273, R274) -/

/-- Region `r` is off at a count. -/
def State.regionOff (s : State) (r : Nat) : Bool :=
  s.actGet (F.PANEL_BLINK_T_EN r) == 1 && decide (s.actGet (F.PANEL_BLINK_T_ON r) ≤
    (s.get F.PANEL_BLINK_CNT_COUNT + s.actGet (F.PANEL_BLINK_T_PHASE r)) % max 1 (s.actGet (F.PANEL_BLINK_T_PERIOD r)))

/-- The RECT block of region `r`. -/
def State.rectBlock (s : State) (r : Nat) (off : Bool) : BitVec 64 :=
  blockOf [(0x66, 0), (r, 8), (off.toNat, 12), (s.actGet (F.PANEL_BLINK_X_X0 r), 13), (s.actGet (F.PANEL_BLINK_X_X1 r), 23),
    (s.actGet (F.PANEL_BLINK_Y_Y0 r), 33), (s.actGet (F.PANEL_BLINK_Y_Y1 r), 42)]

/-- A rescan pass from instant `t` (R274). At a launch that starts a frame it falls together with slot 0's scan, which takes its place
as the band latches (DEDUCED, log 14). -/
def State.startRescan (s : State) (t : Word) : State :=
  (List.finRange 64).foldl (fun (u : State) (b : Fin 64) =>
    if u.bandRows b = 0 then u else u.onBand b fun d =>
      { d with rescanAt := some (s.scanInstant b (t + BitVec.ofNat 32 (b.val * (s.slotPeriod / 64))) s.settleNs) }) s

/-- The blink count advances at a launch or tick; a written count takes its place at a launch (log 14). Each region whose
state changes gets its RECT, and a rescan pass runs. -/
def State.blinkStep (s : State) (launch : Bool) (t : Word) : State :=
  let u := match launch, s.panel.blink with
    | true, some w => { s.setReg F.PANEL_BLINK_CNT_addr w with panel := { s.panel with blink := none } }
    | _, _ => s.wrapCount F.PANEL_BLINK_CNT_COUNT
  let changed := (List.range 16).filter fun r => u.regionOff r != u.panel.off.getLsbD r
  let v := changed.foldl (fun v r => v.sendAll 2 (v.rectBlock r (u.regionOff r))) u
  let v := { v with panel := { v.panel with off := changed.foldl (fun w r => w ^^^ (1#16 <<< r)) v.panel.off } }
  if changed.isEmpty then v else v.startRescan t

/-- HOLD_TICK: MAX_NS after the last launch or tick. -/
def State.holdTick (s : State) : State :=
  match s.frm.tickBase with
  | none => s
  | some base =>
    let t := base + BitVec.ofNat 32 (s.actGet F.SEQ_FRM_MAX_FRAME_MAX_NS)
    s.when (s.frm.hold && s.reached t) fun s =>
      let u := { s with frm := { s.frm with tickBase := some t } }
      (((u.wrapCount F.PANEL_HOLD_TICKS_COUNT).selectBand).blinkStep false t)

def execHoldTick (s : State) : Host.Outcome State Fault Refusal := s.ifUp State.holdTick

/-! ## Command mode (R275) -/

/-- The push breaks a rule of R275. -/
def State.pushBad (s : State) : Bool :=
  let w := s.get F.PANEL_CMD_SIZE_W
  let h := s.get F.PANEL_CMD_SIZE_H
  let pitch := s.get F.PANEL_CMD_PITCH_PITCH
  decide (w = 0 ∨ h = 0 ∨ 4096 < w ∨ 4096 < h ∨ pitch % 64 ≠ 0 ∨ pitch < 4 * w ∨ 1 < s.get F.PANEL_CMD_CTL_FMT ∨
    4096 < s.get F.PANEL_CMD_RECT_X + w ∨ 4096 < s.get F.PANEL_CMD_RECT_Y + h) ||
  !s.memRange (s.get F.PANEL_CMD_SRC_ADDR * 256) ((h - 1) * pitch + 4 * w)

/-- The lane on which the auxiliary panel listens: the lowest lane up. -/
def State.cmdLane (s : State) : Fin 8 :=
  ((List.finRange 8).find? fun l : Fin 8 => (s.get (F.PANEL_STATUS_LANES_UP 3)).testBit l).getD 0

/-- The source bytes of a push, row by row, and the state after their reads. -/
def State.pushBytes (s : State) (k : CmdPush) : List Byte × State :=
  (List.range k.h).foldl (fun (r : List Byte × State) j =>
    let (l, t) := r.2.readAny (k.src + j * k.pitch) (4 * k.w) k.ecc
    (r.1 ++ l, t)) ([], s)

/-- Bytes in data blocks, eight to a block. -/
def byteBlocks : Nat → List Byte → List (BitVec 64)
  | 0, _ => []
  | _ + 1, [] => []
  | n + 1, b :: l => BitVec.ofNat 64 (natOfBytes ((b :: l).take 8)) :: byteBlocks n ((b :: l).drop 8)

/-- A push goes out: the CMD block, the pixels, the final CMD block. It waits for the DRAM controller where it needs it. -/
def State.sendPush (s : State) (k : CmdPush) : State :=
  if dramBase ≤ k.src ∧ !s.dramGrants .panelCmd then s
  else
    let (l, t) := s.pushBytes k
    let n := s.cmdLane
    let t := t.sendBlock 3 n true (blockOf [(0x87, 0), (k.x, 8), (k.y, 20), (k.w, 32), (k.h, 45)])
    let t := (byteBlocks (l.length / 8 + 1) l).foldl (fun u w => u.sendBlock 3 n false w) t
    let t := t.sendBlock 3 n true (blockOf [(0x87, 0), ((crc32c l).toNat, 8), (63, 58)])
    { t with panel := { t.panel with push := some { k with sent := some t.now } } }

/-- CMD_PUSH: a push in command mode starts, is held for a launch, or is refused; a GO while BUSY is ignored. `ecc` holds the errors
that the push's reads will meet. -/
def State.cmdPush (s : State) (ecc : List EccHit) : State :=
  if s.bit F.PANEL_CMD_CTL_BUSY || !s.cmdMode 3 || !s.panelUp 3 then s
  else if s.pushBad then (s.put F.PANEL_CMD_CTL_ERR 1).put F.PANEL_CMD_CTL_CAUSE 1
  else
    let k : CmdPush := ⟨s.get F.PANEL_CMD_SRC_ADDR * 256, s.get F.PANEL_CMD_PITCH_PITCH, s.get F.PANEL_CMD_RECT_X,
      s.get F.PANEL_CMD_RECT_Y, s.get F.PANEL_CMD_SIZE_W, s.get F.PANEL_CMD_SIZE_H, ecc, s.bit F.PANEL_CMD_CTL_AT_LAUNCH, none⟩
    let t := { s.put F.PANEL_CMD_CTL_BUSY 1 with panel := { s.panel with push := some k } }
    if k.held then t else t.sendPush k

def execCmdPush (ecc : List EccHit) (s : State) : Host.Outcome State Fault Refusal := s.ifUp (·.cmdPush ecc)

/-- A push that no launch holds goes out once the controller serves it. -/
def State.tryPush (s : State) : State :=
  match s.panel.push with
  | some k => if k.held || k.sent.isSome then s else s.sendPush k
  | none => s

/-- A launch lets go the push that waits for it. -/
def State.launchPush (s : State) : State :=
  match s.panel.push with
  | some k => { s with panel := { s.panel with push := some { k with held := false } } }.tryPush
  | none => s

/-- The push in progress ends: acknowledged, or failed with a cause and event 7. -/
def State.endPush (s : State) (cause : Nat) : State :=
  let t := { s.put F.PANEL_CMD_CTL_BUSY 0 with panel := { s.panel with push := none } }
  if cause = 0 then t.put F.PANEL_CMD_CTL_DONE 1
  else ((t.put F.PANEL_CMD_CTL_ERR 1).put F.PANEL_CMD_CTL_CAUSE cause).raise (srcPanel 3 7)

/-- When the last block of the push in progress left. -/
def State.pushSent (s : State) : Option Word := s.panel.push.bind (·.sent)

/-- CMD_ACK_RX: an ACK or a NAK of the auxiliary panel, SRC 0xF (R263). -/
def State.cmdAck (s : State) (msg : List Byte) : State :=
  let answer (cause : Nat) (m : BackMessage) (s : State) : State := s.when (m.src == 15 && s.pushSent.isSome) (·.endPush cause)
  (s.backRx 3 4 msg (answer 0)).backRx 3 5 msg (answer 2)

def execCmdAckRx (msg : List Byte) (s : State) : Host.Outcome State Fault Refusal := s.ifUp (·.cmdAck msg)

/-- CMD_ACK_TIMEOUT: no answer within 10 µs. -/
def execCmdAckTimeout (s : State) : Host.Outcome State Fault Refusal :=
  s.ifUp fun s => match s.pushSent with
    | some t => s.when (decide (10000 ≤ s.since t)) (·.endPush 3)
    | none => s

end Sys2Proof.Machine
end

