-- ==== Sys2Proof/Machine/Alu.lean ====
section
/-! DEFINITION. The scalar and vector operations of Knathal K3 by type (R104, R105, R110–R112), and the arithmetic of the
primitives (R83–R90), on words alone. -/

namespace Sys2Proof.Machine

/-! ## Scalar operations (R110) -/

inductive SOp where
  | mov | add | sub | mul | mulhu | and | or | xor | shl | shr | sra | slt | sltu | min | max | fadd | fsub | fmul | ftoi | itof
deriving DecidableEq, Repr

/-- The operations with one source: SRCB must be 0 (R110). -/
def SOp.unary : SOp → Bool
  | .mov | .ftoi | .itof => true
  | _ => false

/-- An f32 operation on words. -/
def fop (f : Nat → Nat → Nat) (a b : Word) : Word := BitVec.ofNat 32 (f a.toNat b.toNat)

/-- f32 to i32: nearest even, saturating, NaN to 0 (R111). -/
def f32ToInt (a : Word) : Word := BitVec.ofInt 32 ((binary32.val a.toNat).toInt 0 (-2147483648) 2147483647)

/-- The result of a scalar operation (R110). -/
def SOp.eval (op : SOp) (a b : Word) : Word :=
  match op with
  | .mov => a
  | .add => a + b
  | .sub => a - b
  | .mul => a * b
  | .mulhu => BitVec.ofNat 32 (a.toNat * b.toNat / 2 ^ 32)
  | .and => a &&& b
  | .or => a ||| b
  | .xor => a ^^^ b
  | .shl => a <<< (b.toNat % 32)
  | .shr => a >>> (b.toNat % 32)
  | .sra => a.sshiftRight (b.toNat % 32)
  | .slt => if a.toInt < b.toInt then 1 else 0
  | .sltu => if a.toNat < b.toNat then 1 else 0
  | .min => if a.toInt ≤ b.toInt then a else b
  | .max => if a.toInt ≤ b.toInt then b else a
  | .fadd => fop binary32.add a b
  | .fsub => fop binary32.sub a b
  | .fmul => fop binary32.mul a b
  | .ftoi => f32ToInt a
  | .itof => intF32 a.toInt 0

/-! ## Vector operations (R111) -/

inductive VOp where
  | mov | add | sub | rsub | mul | mad | min | max | abs | neg | and | or | xor | andn | shl | shr | sra | floor | rcp | rsq
  | cvt | swaph
deriving DecidableEq, Repr

/-- The vector types by their code (R104). -/
inductive VTy where
  | i32 | u16 | fx16 | f16 | f32
deriving DecidableEq, Repr

def VTy.ofCode (c : BitVec 3) : Option VTy :=
  match c.toNat with
  | 0 => some .i32
  | 1 => some .u16
  | 2 => some .fx16
  | 3 => some .f16
  | 4 => some .f32
  | _ => none

/-- The type takes half a lane. -/
def VTy.half : VTy → Bool
  | .u16 | .fx16 | .f16 => true
  | _ => false

/-- The pairs of operation and type that the table of R111 does not mark "—". -/
def VOp.legal (op : VOp) (ty : VTy) : Bool :=
  match op with
  | .mov | .add | .sub | .rsub | .mul | .mad | .min | .max | .cvt => true
  | .abs | .neg => ty != .u16
  | .and | .or | .xor | .andn | .swaph => ty == .i32
  | .shl | .shr => ty == .i32 || ty == .u16
  | .sra => ty == .i32 || ty == .fx16
  | .floor | .rcp | .rsq => ty == .f16 || ty == .f32

/-- The operations whose SRCB names no register (R111). MOV reads vA alone, so its SRCB is unused (R102; DEDUCED, log 9). -/
def VOp.unary : VOp → Bool
  | .mov | .abs | .neg | .floor | .rcp | .rsq | .cvt | .swaph => true
  | _ => false

/-- The product of u16 values in unit scale (R86). -/
def mulU (x y : Nat) : Nat := (x * y + 32767) / 65535

/-- A signed number held to 16 bits, as fx16 (R104). -/
def satFx (v : Int) : Nat := (BitVec.ofInt 16 (max (-32768) (min 32767 v))).toNat

/-- The signed number of a half. -/
def sgn16 (x : Nat) : Int := (BitVec.ofNat 16 x).toInt

/-- The rounded product of fx16 (R104). -/
def mulFx (a b : Nat) : Int := (sgn16 a * sgn16 b + 16384) / 32768

/-- An operation on i32 lanes. -/
def evalI32 (op : VOp) (d a b : Word) : Word :=
  match op with
  | .add => a + b
  | .sub => a - b
  | .rsub => b - a
  | .mul => a * b
  | .mad => d + a * b
  | .min => if a.toInt ≤ b.toInt then a else b
  | .max => if a.toInt ≤ b.toInt then b else a
  | .abs => if a.toInt < 0 then -a else a
  | .neg => -a
  | .and => a &&& b
  | .or => a ||| b
  | .xor => a ^^^ b
  | .andn => a &&& ~~~b
  | .shl => a <<< (b.toNat % 32)
  | .shr => a >>> (b.toNat % 32)
  | .sra => a.sshiftRight (b.toNat % 32)
  | .swaph => (a >>> 16) ||| (a <<< 16)
  | _ => a

/-- An operation on u16 halves: ADD and SUB saturate, MUL and MAD in unit scale (R104, R111). -/
def evalU16 (op : VOp) (d a b : Nat) : Nat :=
  match op with
  | .add => min 65535 (a + b)
  | .sub => a - b
  | .rsub => b - a
  | .mul => mulU a b
  | .mad => min 65535 (d + mulU a b)
  | .min => min a b
  | .max => max a b
  | .shl => a * 2 ^ (b % 16) % 65536
  | .shr => a / 2 ^ (b % 16)
  | _ => a

/-- An operation on fx16 halves. MAD rounds the product, adds and saturates once (DEDUCED, log 9). -/
def evalFx (op : VOp) (d a b : Nat) : Nat :=
  match op with
  | .add => satFx (sgn16 a + sgn16 b)
  | .sub => satFx (sgn16 a - sgn16 b)
  | .rsub => satFx (sgn16 b - sgn16 a)
  | .mul => satFx (mulFx a b)
  | .mad => satFx (sgn16 d + mulFx a b)
  | .min => if sgn16 a ≤ sgn16 b then a else b
  | .max => if sgn16 a ≤ sgn16 b then b else a
  | .abs => satFx (sgn16 a).natAbs
  | .neg => satFx (-(sgn16 a))
  | .sra => (BitVec.ofInt 16 (sgn16 a / 2 ^ (b % 16))).toNat
  | _ => a

/-- A floating-point operation (R105). -/
def evalF (f : Fmt) (op : VOp) (d a b : Nat) : Nat :=
  match op with
  | .add => f.add a b
  | .sub => f.sub a b
  | .rsub => f.sub b a
  | .mul => f.mul a b
  | .mad => f.fma a b d
  | .min => f.minmax false a b
  | .max => f.minmax true a b
  | .abs => a % f.signBit
  | .neg => if a < f.signBit then a + f.signBit else a - f.signBit
  | .floor => f.floor a
  | .rcp => f.rcp a
  | .rsq => f.rsq a
  | _ => a

/-- The low and high halves of a word. -/
def lowHalf (w : Word) : Nat := w.toNat % 65536
def highHalf (w : Word) : Nat := w.toNat / 65536

/-- A word of two halves. -/
def halves (lo hi : Nat) : Word := BitVec.ofNat 32 (lo % 65536 + 65536 * (hi % 65536))

/-- An operation on each half of a lane. -/
def onHalves (f : Nat → Nat → Nat → Nat) (d a b : Word) : Word :=
  halves (f (lowHalf d) (lowHalf a) (lowHalf b)) (f (highHalf d) (highHalf a) (highHalf b))

/-- The result of a vector operation other than CVT on one lane: destination `d` as it was, sources `a` and `b` (R111). -/
def VOp.eval (op : VOp) (ty : VTy) (d a b : Word) : Word :=
  match ty with
  | .i32 => evalI32 op d a b
  | .u16 => onHalves (evalU16 op) d a b
  | .fx16 => onHalves (evalFx op) d a b
  | .f16 => onHalves (evalF binary16 op) d a b
  | .f32 => BitVec.ofNat 32 (evalF binary32 op d.toNat a.toNat b.toNat)

/-! ## CVT (R111) -/

/-- The number that a field of a type holds: u16 its integer, fx16 its value / 32,768. -/
def VTy.value (ty : VTy) (x : Nat) : FVal :=
  match ty with
  | .i32 => FVal.ofInt (BitVec.ofNat 32 x).toInt 0
  | .u16 => FVal.ofInt x 0
  | .fx16 => FVal.ofInt (sgn16 x) (-15)
  | .f16 => binary16.val x
  | .f32 => binary32.val x

/-- A number as a field of a type: nearest even, saturating, NaN to 0 for integers and fixed point. R111 says so of floating-point
sources; a CVT from i32, u16 or fx16 does the same (DESIGN CHOICE, log 9). -/
def VTy.ofValue (ty : VTy) (v : FVal) : Nat :=
  match ty with
  | .i32 => (BitVec.ofInt 32 (v.toInt 0 (-2147483648) 2147483647)).toNat
  | .u16 => (v.toInt 0 0 65535).toNat
  | .fx16 => (BitVec.ofInt 16 (v.toInt 15 (-32768) 32767)).toNat
  | .f16 => binary16.pack v
  | .f32 => binary32.pack v

/-- CVT of one lane; `hi` selects the half where the widths differ (R111). -/
def cvtLane (src dst : VTy) (hi : Bool) (d a : Word) : Word :=
  let one (x : Nat) := dst.ofValue (src.value x)
  match src.half, dst.half with
  | true, true => halves (one (lowHalf a)) (one (highHalf a))
  | true, false => BitVec.ofNat 32 (one (if hi then highHalf a else lowHalf a))
  | false, true => if hi then halves (lowHalf d) (one a.toNat) else halves (one a.toNat) (highHalf d)
  | false, false => BitVec.ofNat 32 (one a.toNat)

/-! ## Compares (R112) -/

inductive VCond where
  | eq | ne | lt | le | gt | ge | ltu | geu
deriving DecidableEq, Repr

/-- LTU and GEU are legal for i32 only. -/
def VCond.legal (c : VCond) (ty : VTy) : Bool :=
  match c with
  | .ltu | .geu => ty == .i32
  | _ => true

/-- A comparison by less-than and equality; `ord` says that neither operand is a NaN. -/
def VCond.decide (c : VCond) (ord lt eq : Bool) : Bool :=
  match c with
  | .eq => ord && eq
  | .ne => !(ord && eq)
  | .lt | .ltu => ord && lt
  | .le => ord && (lt || eq)
  | .gt => ord && !(lt || eq)
  | .ge | .geu => ord && !lt

/-- A floating-point comparison; false with a NaN, but for NE (R112). -/
def fcmp (f : Fmt) (c : VCond) (a b : Nat) : Bool :=
  let x := f.val a
  let y := f.val b
  c.decide (x.eq x && y.eq y) (x.lt y) (x.eq y)

/-- A comparison of two lanes; of 16-bit types only the low halves (R112). -/
def VCond.eval (c : VCond) (ty : VTy) (a b : Word) : Bool :=
  match ty with
  | .i32 => if c = .ltu ∨ c = .geu then c.decide true (a.toNat < b.toNat) (a == b)
            else c.decide true (a.toInt < b.toInt) (a == b)
  | .u16 => c.decide true (lowHalf a < lowHalf b) (lowHalf a == lowHalf b)
  | .fx16 => c.decide true (sgn16 (lowHalf a) < sgn16 (lowHalf b)) (lowHalf a == lowHalf b)
  | .f16 => fcmp binary16 c (lowHalf a) (lowHalf b)
  | .f32 => fcmp binary32 c a.toNat b.toNat

/-! ## Colour arithmetic of the primitives -/

/-- The pair of a lane: R, G, B, A in 16-bit unit scale (R86). -/
structure Rgba where
  r : Nat
  g : Nat
  b : Nat
  a : Nat
deriving DecidableEq, Repr

def Rgba.ofPair (lo hi : Word) : Rgba := ⟨lowHalf lo, highHalf lo, lowHalf hi, highHalf hi⟩
def Rgba.lo (c : Rgba) : Word := halves c.r c.g
def Rgba.hi (c : Rgba) : Word := halves c.b c.a

/-- COMP: `f` over `k`, premultiplied or straight (R87). -/
def compPair (premul : Bool) (f k : Rgba) : Rgba :=
  let ab := mulU k.a (65535 - f.a)
  let a := f.a + ab
  let one (cf cb : Nat) :=
    if premul then min 65535 (cf + mulU cb (65535 - f.a))
    else if a = 0 then 0 else (cf * f.a + cb * ab + a / 2) / a
  ⟨one f.r k.r, one f.g k.g, one f.b k.b, a⟩

/-- WBLEND: the weighted mean of pairs; all zeros with a weight sum of 0 (R88). -/
def blendPairs (l : List (Nat × Rgba)) : Rgba :=
  let s := (l.map (·.1)).sum
  let one (f : Rgba → Nat) := if s = 0 then 0 else ((l.map fun x => x.1 * f x.2).sum + s / 2) / s
  ⟨one Rgba.r, one Rgba.g, one Rgba.b, one Rgba.a⟩

end Sys2Proof.Machine
end

