-- ==== Sys2Proof/Machine/Knathal.lean ====
section
/-! DEFINITION. The words of Knathal K3 (R100, R101, R109–R112, R133): how the opcodes and fields of an instruction stand in
its words, and which words the two profiles define. -/

namespace Sys2Proof.Machine

/-- The words of an instruction: the first, and the immediate of a long form (R100, R101). -/
structure Code where
  first  : Word
  second : Option Word
deriving DecidableEq, Repr

/-- How many they are. -/
def Code.words (c : Code) : Nat := if c.second.isSome then 2 else 1

/-- A word by its fields (R100). -/
def opWord (major : BitVec 6) (d a b : BitVec 5) (pred : BitVec 3) (minor : BitVec 8) : Word :=
  major ++ d ++ a ++ b ++ pred ++ minor

/-! ## Operation codes (R110–R112) -/

/-- The scalar operations by their MINOR; 0x0F is none. -/
def sops : List (Option SOp) :=
  ([.mov, .add, .sub, .mul, .mulhu, .and, .or, .xor, .shl, .shr, .sra, .slt, .sltu, .min, .max].map some) ++
    none :: [.fadd, .fsub, .fmul, .ftoi, .itof].map some

/-- The vector operations by their code. -/
def vops : List VOp :=
  [.mov, .add, .sub, .rsub, .mul, .mad, .min, .max, .abs, .neg, .and, .or, .xor, .andn, .shl, .shr, .sra, .floor, .rcp, .rsq,
    .cvt, .swaph]

/-- The conditions of a compare by their code. -/
def vconds : List VCond := [.eq, .ne, .lt, .le, .gt, .ge, .ltu, .geu]

def SOp.code (op : SOp) : BitVec 8 := BitVec.ofNat 8 (sops.idxOf (some op))
def VOp.code (op : VOp) : BitVec 5 := BitVec.ofNat 5 (vops.idxOf op)
def VCond.code (c : VCond) : BitVec 5 := BitVec.ofNat 5 (vconds.idxOf c)

/-! ## Forms -/

/-- MINOR is an operand of the instruction. -/
def Code.low (major : BitVec 6) (o : Opnd) : Code := ⟨opWord major o.dst o.srcA o.srcB o.pred o.low, none⟩

/-- MINOR is part of the opcode. -/
def Code.op (major : BitVec 6) (minor : BitVec 8) (o : Opnd) : Code := ⟨opWord major o.dst o.srcA o.srcB o.pred minor, none⟩

/-- A long form: its class stands in SRCB (R101). -/
def Code.long (cls : BitVec 5) (minor : BitVec 8) (o : Opnd) (imm : Word) : Code :=
  ⟨opWord 0x3F o.dst o.srcA cls o.pred minor, some imm⟩

/-- BR and CALL: a word offset in bits [25:11]. -/
def Code.rel (major : BitVec 6) (minor : BitVec 8) (off : BitVec 15) (pred : BitVec 3) : Code := ⟨major ++ off ++ pred ++ minor, none⟩

/-- A vector operation or compare: type and code in MINOR; the major opcode of its form on vectors, the next one with a scalar
source, or a long-form class. -/
def Code.vec (major : BitVec 6) (cls : BitVec 5) (ty : BitVec 3) (code : BitVec 5) (form : VForm) (o : Opnd) : Code :=
  match form with
  | .vv => .op major (ty ++ code) o
  | .vs => .op (major + 1) (ty ++ code) o
  | .imm w => .long cls (ty ++ code) o w

/-- FLOW: the operation in bits [25:21], a signed word offset in [15:0] (R133). -/
def Code.flow (op sA : BitVec 5) (off : BitVec 16) : Code := ⟨0x38#6 ++ op ++ sA ++ off, none⟩

/-- SIMM: H in bit 16 (R133). -/
def Code.simm (sD : BitVec 5) (zero : BitVec 4) (high : BitVec 1) (imm : BitVec 16) : Code := ⟨0x39#6 ++ sD ++ zero ++ high ++ imm, none⟩

/-! ## Words that a profile defines (R101, R102, R109, R133) -/

/-- MINOR names a scalar operation. -/
def definedSop (minor : Nat) : Bool := (sops.getD minor none).isSome

/-- The press profile defines the MAJOR, MINOR and class of a word. -/
def definedPress (w : Word) : Bool :=
  let minor := w.toNat % 256
  let v := decide (minor % 32 < vops.length)
  let c := decide (minor % 32 < vconds.length)
  match w.toNat / 2 ^ 26 with
  | 0x00 => decide (minor < 3)
  | 0x01 => decide (minor < 4)
  | 0x02 | 0x15 | 0x31 | 0x32 | 0x36 => minor == 0
  | 0x08 => definedSop minor
  | 0x0A => decide (minor < 2)
  | 0x10 | 0x11 => v
  | 0x12 | 0x13 => c
  | 0x14 => decide (minor < 8)
  | 0x30 => decide (minor < 6)
  | 0x3F =>
    match w.toNat / 2 ^ 11 % 32 with
    | 4 => definedSop minor
    | 5 => v
    | 6 => c
    | k => decide (k < 4)
  | m => [0x09, 0x16, 0x20, 0x21, 0x22, 0x23, 0x24, 0x25, 0x26, 0x28, 0x29, 0x33, 0x34, 0x35].contains m

/-- The sequencer profile defines the MAJOR, MINOR and FLOW operation of a word. -/
def definedSeq (w : Word) : Bool :=
  let minor := w.toNat % 256
  match w.toNat / 2 ^ 26 with
  | 0x08 => definedSop minor
  | 0x38 => decide (w.toNat / 2 ^ 21 % 32 < 8)
  | 0x3A | 0x3B => decide (minor < 4)
  | 0x3E => decide (minor < 6)
  | m => [0x09, 0x39, 0x3C, 0x3D].contains m

end Sys2Proof.Machine
end

