-- ==== Sys2Proof/Machine/Operands.lean ====
section
/-! DEFINITION. The operand forms of Knathal K3 (R100–R108), the registers and local store of a press as an instruction
reaches them (R103, R106, R114–R118), and how an instruction ends: in order, by a jump, in an exception (R120) or with its
bundle or job. -/

namespace Sys2Proof.Machine

/-! ## Fields (R102, R103) -/

/-- What a field holds: nothing, the name of a scalar, a predicate, a vector, an even pair, or part of the opcode. -/
inductive Names where
  | nothing | scalar | predicate | vector | pair | code
deriving DecidableEq, Repr

/-- The field holds a legal value for what it names (R102, R103). -/
def Names.ok (k : Names) (f : BitVec 5) : Bool :=
  match k with
  | .nothing => f == 0
  | .scalar => decide (f.toNat < 16)
  | .predicate => decide (f.toNat < 8)
  | .vector => true
  | .pair => decide (f.toNat % 2 = 0)
  | .code => true

end Sys2Proof.Machine

namespace Sys2Proof

/-- The fields of an instruction are legal (R102, R108): `pred` where PRED is used. -/
def Opnd.legal (o : Opnd) (d a b : Machine.Names) (pred : Bool) : Bool :=
  d.ok o.dst && a.ok o.srcA && b.ok o.srcB && (pred || o.pred == 0)

/-- imm8, sign-extended (R109). -/
def Opnd.imm8 (o : Opnd) : Word := o.low.signExtend 32

end Sys2Proof

namespace Sys2Proof.Machine

/-! ## Registers (R103) -/

/-- A scalar register; its field is below 16 in a legal instruction. -/
def Press.sreg (p : Press) (f : BitVec 5) : Word := p.s[f.toNat % 16]'(Nat.mod_lt _ (by decide))
def Press.setS (p : Press) (f : BitVec 5) (w : Word) : Press := { p with s := p.s.set (f.toNat % 16) w (Nat.mod_lt _ (by decide)) }

/-- A vector register. -/
def Press.vreg (p : Press) (f : BitVec 5) : Vector Word 16 := p.v[f.toNat]'f.isLt
def Press.setV (p : Press) (f : BitVec 5) (x : Vector Word 16) : Press := { p with v := p.v.set f.toNat x f.isLt }

/-- A predicate register; its field is below 8 in a legal instruction. -/
def Press.preg (p : Press) (f : BitVec 5) : BitVec 16 := p.p[f.toNat % 8]'(Nat.mod_lt _ (by decide))
def Press.setP (p : Press) (f : BitVec 5) (x : BitVec 16) : Press := { p with p := p.p.set (f.toNat % 8) x (Nat.mod_lt _ (by decide)) }

/-- The lanes that execute under a predicate (R106). -/
def Press.lanes (p : Press) (pred : BitVec 3) : BitVec 16 := p.p[pred.toNat]'pred.isLt &&& p.valid

/-- A vector register with the executing lanes replaced (R106). -/
def byLane (ex : BitVec 16) (old : Vector Word 16) (f : Fin 16 → Word) : Vector Word 16 :=
  Vector.ofFn fun k => if ex.getLsbD k then f k else old[k]

/-- The executing lanes in ascending order. -/
def laneList (ex : BitVec 16) : List (Fin 16) := (List.finRange 16).filter fun k => ex.getLsbD k

/-! ## How an instruction ends -/

/-- The end of an instruction: the next in order, a jump to a computed address, an exception of a cause (R120; `excIn` after
the reports of a failed DRAM read), the fence of its press after the reports of a failed read of the local store (R96), the end of
its bundle or job, or an instruction that waits. -/
inductive Effect where
  | ok (s : State) | jump (s : State) (target : Int) | exc (cause : Nat) | excIn (s : State) (cause : Nat) | fence (s : State)
  | done (s : State) | wait (s : State)

/-- The bundle that press `n` runs. -/
def State.bundleOf (s : State) (n : Fin 48) : Option Bundle :=
  match s.press[n].does with
  | .bundle b => some b
  | _ => none

/-- What was latched for a frame (R47, R76). -/
def State.latchOf (s : State) (frame : Nat) : Option AngleLatch := s.dist.latches.find? fun a => a.number == frame

/-! ## Local store (R114–R118) -/

/-- The first byte of the local store of press `n` (R320). -/
def localBase (n : Fin 48) : Nat := 0x06200000 + n * 0x20000

/-- A binary32 code as an exact numerator and exponent. -/
def exactF32 (w : Word) : Int × Int :=
  match binary32.val w.toNat with
  | .fin neg m e => (if neg then -(m : Int) else m, e)
  | _ => (0, 0)

/-- K0 = 1 − D × (INVD_OFFSET + INVD_SCALE × DEPTH_BASE), correctly rounded (R81). -/
def FrameHeader.k0 (h : FrameHeader) : Word :=
  let (a, ea) := exactF32 h.invOff
  let (b, eb) := exactF32 h.invScl
  let e := min 0 (min ea eb)
  let x : Int := 1000 * 2 ^ (-e).toNat - h.dist * (a * 2 ^ (ea - e).toNat + b * h.base * 2 ^ (eb - e).toNat)
  BitVec.ofNat 32 (ratF32 x 1000 e)

/-- K1 = −D × INVD_SCALE × 2^DEPTH_SHIFT / 16, correctly rounded (R81). -/
def FrameHeader.k1 (h : FrameHeader) : Word :=
  let (b, eb) := exactF32 h.invScl
  BitVec.ofNat 32 (ratF32 (-(h.dist * b)) 1000 (eb + h.shift - 4))

/-- The word of the frame constant block at an offset from 0x1_E000 (R81). -/
def AngleLatch.const (a : AngleLatch) (off : Nat) : Word :=
  let h := a.hdr
  if off < 0x1000 then bytesWord a.vsel (off / 4 * 4)
  else if off = 0x1000 then BitVec.ofNat 32 (ratF32 (h.dist * 1000 : Nat) h.pitch 0)
  else if off = 0x1004 then intF32 (h.w + 2 * h.mh : Nat) (-1)
  else if off = 0x1008 then intF32 (h.h + 2 * h.mv : Nat) (-1)
  else if off = 0x100C then h.k0
  else if off = 0x1010 then h.k1
  else if off = 0x1014 then
    BitVec.ofNat 32 ((h.k - 1) % 16 + 128 * h.premul.toNat + 256 * a.kv4.toNat + 65536 * (h.mh % 64) + 4194304 * (h.mv % 64))
  else if off = 0x1018 then h.fseq
  else if 0x1040 ≤ off ∧ off < 0x10C0 then
    match h.views[(off - 0x1040) / 8]? with
    | none => 0
    | some v => intF32 (if off % 8 = 0 then v.tanAz.toInt else v.tanEl.toInt) (-12)
  else 0

/-- A word that press `n` loads from its local store: its frame's constants at 0x1_E000 and above (R81, R117), a free value
there in a job, which belongs to no frame (DESIGN CHOICE, log 9). -/
def State.lsWord (s : State) (n : Fin 48) (a : Nat) : Word × State :=
  if 0x1E000 ≤ a then
    match (s.bundleOf n).bind fun b => s.latchOf b.frame with
    | some l => (l.const (a - 0x1E000), s)
    | none => s.draw
  else (s.word (localBase n + a), s)

/-- Words loaded one after another. -/
def State.lsWords (s : State) (n : Fin 48) : List Nat → List Word × State
  | [] => ([], s)
  | a :: l =>
    let (w, t) := s.lsWord n a
    let (ws, u) := t.lsWords n l
    (w :: ws, u)

/-- An address breaks R116 for an access of `size` bytes aligned to `al`. -/
def badLoad (a size al : Nat) : Bool := decide (a % al ≠ 0 ∨ 0x20000 < a + size)

/-- A store must not touch the constants either. -/
def badStore (a size al : Nat) : Bool := decide (a % al ≠ 0 ∨ 0x1E000 < a + size)

/-- Loads of ranges of the local store of press `n`, each a first byte and a size: their errors are reported, and the press is
fenced where one of them cannot be corrected (R96, R322). -/
def State.loads (s : State) (n : Fin 48) (l : List (Nat × Nat)) (ecc : List EccHit) (f : State → State) : Effect :=
  let hits := ecc.filter fun h => l.any fun r => hitMeets h (localBase n + r.1) r.2
  let t := s.eccReports hits
  if hits.all (·.fixed) then .ok (f t) else .fence t

/-- Words stored one after another (R115). -/
def State.lsStore (s : State) (n : Fin 48) (l : List (Nat × Word)) : State :=
  l.foldl (fun t x => t.storeWord (localBase n + x.1) x.2) s

/-! ## Slot buffer writes (R90, R91) -/

/-- Hogel column and emitter code of a lane of a bundle (R73). -/
def Bundle.laneX (b : Bundle) (k : Nat) : Nat := b.x + k / 8

/-- Zeros for the valid lanes not yet written, unless the writes are discarded (R77, R90). -/
def State.zeroFill (s : State) (b : Bundle) (valid : BitVec 16) : State :=
  if b.discard then s
  else (laneList (valid &&& ~~~b.written)).foldl
    (fun (t : State) (k : Fin 16) => t.setSlotEntry b.run (t.entryNo (b.laneX k) b.y (k % 8)) 0 0 0) s

/-! ## The end of a bundle or job -/

/-- The work of a band with one more bundle finished. -/
def Distributor.ended (d : Distributor) (b : Bundle) : Distributor :=
  if b.discard then d
  else { d with work := d.work.map fun w => if w.run = b.run ∧ w.band = b.band then { w with ended := w.ended + 1 } else w }

/-- The bundle of press `n` has ended: zeros for the lanes it left, the press free (R90, R95). -/
def State.endBundle (s : State) (n : Fin 48) (b : Bundle) : State :=
  let t := s.zeroFill b s.press[n].valid
  { t.onPress n fun p => { p with does := .idle } with dist := t.dist.ended b }

/-- The job of press `n` has ended: STATUS is written, then event 16 raised with NOTIFY (R145). DONE marks the end in either
case (DEDUCED, log 9). -/
def State.endJob (s : State) (n : Fin 48) (j : PressJob) (cause : Nat) : State :=
  let status := 1 + (if cause = 0 then 0 else 2 + 4 * cause) + 65536 * j.ticket.toNat
  let t := s.storeWord (j.desc + 12) (BitVec.ofNat 32 status)
  (t.onPress n fun p => { p with does := .idle }).raiseIf j.notify (srcSeq 16)

/-- The work of a band with a bundle returned to the head of its queue. -/
def Distributor.again (d : Distributor) (b : Bundle) : Distributor :=
  if b.discard then d
  else { d with work := d.work.map fun w => if w.run = b.run ∧ w.band = b.band then { w with redo := b.index :: w.redo } else w }

/-- Press `n` is fenced with a cause: its bundle returns to the queue, the press loses power (R96). A job on it ends without
STATUS (DESIGN CHOICE, log 9). -/
def State.fence (s : State) (n : Fin 48) (cause : Nat) : State :=
  let d := match s.press[n].does with
    | .bundle b => s.dist.again b
    | _ => s.dist
  let t := { s with dist := d }.onPress n fun p => { p with does := .fenced }
  (((t.put (F.PRESS_CTL_FENCE n) 1).put (F.PRESS_CTL_FENCED n) 1).put (F.PRESS_CTL_FENCE_CAUSE n) cause).raise (srcPress n)

/-- The bundle of press `n` has run for PRESS_TIMEOUT, at least 200 ns (R96, R99). -/
def State.timedOut (s : State) (n : Fin 48) : Bool :=
  match s.bundleOf n with
  | some b => decide (max 200 (s.get F.PRESS_TIMEOUT_TIMEOUT_NS) ≤ s.since b.issued)
  | none => false

/-- A kernel exception of cause `c`, with the address that PRESS_EXC_INFO.PC records (R95, R120, R123); on a bundle that is due a
fence for its time the fence applies, and no exception is counted or recorded (R120). -/
def State.kernelException (s : State) (n : Fin 48) (c : Nat) (pc : Word) : State :=
  let info (t : State) (job : Bool) : State :=
    ((t.put F.PRESS_EXC_INFO_PC (pc.toNat / 4)).put F.PRESS_EXC_INFO_CAUSE c).putB F.PRESS_EXC_INFO_JOB job
  if s.timedOut n then s.fence n 1
  else match s.press[n].does with
  | .bundle b => (((info (s.endBundle n b) false).count F.PRESS_EXC_COUNT).put F.PRESS_EXC_LAST_PRESS n).raise (srcPress 49)
  | .job j => (info s true).endJob n j c
  | _ => s

/-- A press runs a bundle or a job. -/
def Press.busy (p : Press) : Bool :=
  match p.does with
  | .bundle _ => true
  | .job _ => true
  | _ => false

/-- The end of the kernel store's address range (R120). -/
def kernelEnd : Nat := 0x100000

/-- The first byte of the kernel store, and of the sequencer's instruction memory (R320). -/
def kernelBase : Nat := 0x06800000
def seqBase : Nat := 0x06900000

/-- An instruction of the words `c` issues on press `n` (R100–R102, R113, R120). The press fetches at its PC: a word that the
profile does not define is an exception of cause 1, whichever instruction comes; another instruction's words leave this one
without effect (log 26). Then a fetch fault where the second word lies past the store, an exception of cause 1 where a field is
illegal, else the effect and the next PC. Nothing happens on a press that runs neither a bundle nor a job. -/
def State.issue (s : State) (n : Fin 48) (c : Code) (legal : Bool) (f : Press → State → Effect) : State :=
  let p := s.press[n]
  let w := s.word (kernelBase + p.pc.toNat)
  if !p.busy then s
  else if w ≠ c.first then (if definedPress w then s else s.kernelException n 1 p.pc)
  else if c.second.isSome ∧ kernelEnd ≤ p.pc.toNat + 4 then s.kernelException n 3 p.pc
  else if c.second.any fun x => s.word (kernelBase + (p.pc.toNat + 4)) != x then s
  else if !legal then s.kernelException n 1 p.pc
  else
    let u : Fin 83 := n.castLE (by decide)
    match f p s with
    | .exc c => s.kernelException n c p.pc
    | .excIn t c => t.kernelException n c p.pc
    | .fence t => t.fence n 2
    | .wait t => t
    | .done t => t.countOps u 1
    | .jump t target =>
      if target < 0 ∨ (kernelEnd : Int) ≤ target ∨ target % 4 ≠ 0 then (t.countOps u 1).kernelException n 3 p.pc
      else (t.countOps u 1).onPress n fun q => { q with pc := BitVec.ofInt 32 target }
    | .ok t =>
      let pc := p.pc + BitVec.ofNat 32 (4 * c.words)
      if kernelEnd ≤ pc.toNat then (t.countOps u 1).kernelException n 3 0xFFFFC
      else (t.countOps u 1).onPress n fun q => { q with pc := pc }

/-- An effect that only changes the registers of the press. -/
def onRegs (n : Fin 48) (f : Press → Press) (_p : Press) (s : State) : Effect := .ok (s.onPress n f)

/-! ## Threads (R130–R134) -/

/-- A scalar register of a thread. -/
def Thread.sreg (h : Thread) (f : BitVec 5) : Word := h.s[f.toNat % 16]'(Nat.mod_lt _ (by decide))
def Thread.setS (h : Thread) (f : BitVec 5) (w : Word) : Thread := { h with s := h.s.set (f.toNat % 16) w (Nat.mod_lt _ (by decide)) }

/-- How a thread's instruction ends: the next in order, a jump, a fault of a cause (R134), the same PC again (HALT, AT, WAITEV). -/
inductive ThreadEffect where
  | ok (s : State) | jump (s : State) (target : Int) | fault (cause : Nat) | stay (s : State)

/-- The end of the instruction memory (R133). -/
def seqEnd : Nat := 0x40000

/-- Thread `t` faults (R134). -/
def State.threadFault (s : State) (t : Fin 16) (cause : Nat) : State :=
  ((s.onThread t fun h => { h with st := .faulted }).put (F.SEQ_THR_STAT_CAUSE t) cause).raise (srcSeq 18)

/-- The thread goes on at an address, or faults there: below 0, past the memory, or off a word boundary (R133, R134; the last
DEDUCED, log 10). A thread that its own instruction has stopped fetches no more. -/
def State.threadGoto (s : State) (t : Fin 16) (target : Int) : State :=
  let u := s.onThread t fun h => { h with pc := BitVec.ofInt 32 target }
  if u.seq.thr[t].st = .ready ∧ (target < 0 ∨ (seqEnd : Int) ≤ target ∨ target % 4 ≠ 0) then u.threadFault t 2 else u

/-- The priority of a thread. -/
def State.prioOfThread (s : State) (t : Fin 16) : Fin 4 := Fin.ofNat 4 (s.get (F.SEQ_THR_CTL_PRIO t))

/-- How far thread `t` stands behind the thread of its priority that issued last. -/
def State.turnDist (s : State) (t : Fin 16) : Nat := (t.val + 15 - s.seq.turn[s.prioOfThread t] % 16) % 16

/-- The scheduler takes thread `t`: it is ready, no ready thread has a higher priority, and of its own priority it is the next
in turn (R131). -/
def State.scheduled (s : State) (t : Fin 16) : Bool :=
  s.seq.thr[t].st == .ready &&
  (List.finRange 16).all fun u => s.seq.thr[u].st != .ready || u == t || decide (s.prioOfThread u < s.prioOfThread t) ||
    (s.prioOfThread u == s.prioOfThread t && decide (s.turnDist t < s.turnDist u))

/-- An instruction of the words `c` issues on thread `t` (R131, R133, R134). Nothing happens where the scheduler does not take the
thread, or where the word at its PC is another instruction's (log 26); a word that the profile does not define is a fault of
cause 1, whichever instruction comes. -/
def State.threadIssue (s : State) (t : Fin 16) (c : Code) (legal : Bool) (f : Thread → State → ThreadEffect) : State :=
  let h := s.seq.thr[t]
  let w := s.word (seqBase + h.pc.toNat)
  if !s.scheduled t ∨ (w ≠ c.first ∧ definedSeq w) then s
  else
    let s := { s with seq := { s.seq with turn := s.seq.turn.set (s.prioOfThread t) t } }
    if w ≠ c.first ∨ !legal then s.threadFault t 1
    else
      match f h s with
      | .fault c => s.threadFault t c
      | .stay u => u.countOps 82 1
      | .jump u target => (u.countOps 82 1).threadGoto t target
      | .ok u => (u.countOps 82 1).threadGoto t (h.pc.toNat + 4)

end Sys2Proof.Machine
end

