-- ==== Sys2Proof/Machine/PressBlock.lean ====
section
/-! DEFINITION. The press block around the presses: fence and power gating (R96–R98), transfer curves and tables (R99),
installation of images (R124–R128, R152), the start of press jobs (R145). -/

namespace Sys2Proof.Machine

/-! ## Fence and gate (R96–R98) -/

/-- FENCE written 1. -/
def State.writeFence1 (s : State) (n : Fin 48) : State := s.when (!s.bit (F.PRESS_CTL_FENCED n)) (·.fence n 3)

/-- An uncorrectable error is found in the local store or the register file of a press that has power (R96). -/
def State.pressError (s : State) (n : Fin 48) : State :=
  s.when (s.press[n].does != .fenced && s.press[n].does != .gated) (·.fence n 2)

/-- PRESS_FENCE: a write of FENCE, or with `error` the device's own fence for an error that no read of the press reports. -/
def execPressFence (n : Fin 48) (error : Bool) (s : State) : Host.Outcome State Fault Refusal :=
  s.ifUp fun s => if error then s.pressError n else s.writeFence1 n

def execBundleTimeout (n : Fin 48) (s : State) : Host.Outcome State Fault Refusal :=
  s.ifUp fun s => s.when (s.timedOut n) (·.fence n 1)

/-- FENCE written 0: the press waits for the copy of the constants, or stays gated (R96–R98). -/
def State.writeFence0 (s : State) (n : Fin 48) : State :=
  s.when (s.bit (F.PRESS_CTL_FENCED n)) fun s =>
    ((s.put (F.PRESS_CTL_FENCE n) 0).put (F.PRESS_CTL_FENCED n) 0).onPress n fun p =>
      { p with does := if s.bit (F.PRESS_CTL_GATE n) then .gated else .waking }

def execPressUnfence (n : Fin 48) (s : State) : Host.Outcome State Fault Refusal := s.ifUp (·.writeFence0 n)

/-- GATE written 1: a request that acts after the current bundle (R97). -/
def State.writeGate1 (s : State) (n : Fin 48) : State := s.put (F.PRESS_CTL_GATE n) 1

def execPressGate (n : Fin 48) (s : State) : Host.Outcome State Fault Refusal := s.ifUp (·.writeGate1 n)

/-- A gating request finds the press free. -/
def State.gateNow (s : State) (n : Fin 48) : State :=
  s.when (s.bit (F.PRESS_CTL_GATE n) && s.press[n].does == .idle) fun s => s.onPress n fun p => { p with does := .gated }

def execPressGated (n : Fin 48) (s : State) : Host.Outcome State Fault Refusal := s.ifUp (·.gateNow n)

/-- GATE written 0: a gated press starts its wake (R97). -/
def State.writeGate0 (s : State) (n : Fin 48) : State :=
  (s.put (F.PRESS_CTL_GATE n) 0).onPress n fun p => { p with does := if p.does = .gated then .waking else p.does }

def execPressUngate (n : Fin 48) (s : State) : Host.Outcome State Fault Refusal := s.ifUp (·.writeGate0 n)

/-- Free values in every register of a press, drawn from number `k` (R80). -/
def Press.undefined (p : Press) (k : Nat) : Press :=
  { p with
    s := Vector.ofFn fun i => Config.freeWord (k + i)
    v := Vector.ofFn fun j => Vector.ofFn fun i => Config.freeWord (k + 16 + 16 * j + i)
    p := Vector.ofFn fun i => (Config.freeWord (k + 528 + i)).setWidth 16 }

/-- The registers of press `n` undefined. -/
def State.losePressRegs (s : State) (n : Fin 48) : State :=
  { s.onPress n fun p => p.undefined s.free with free := s.free + 536 }

/-- A press that was ungated or readmitted takes bundles again, its registers and local store undefined (R80, R98, R118). -/
def State.pressAwake (s : State) (n : Fin 48) : State :=
  s.when (s.press[n].does == .waking) fun s =>
    ((s.losePressRegs n).lose (localBase n) (localBase n + 0x20000)).onPress n fun p => { p with does := .idle }

def execPressWakeDone (n : Fin 48) (s : State) : Host.Outcome State Fault Refusal := s.ifUp (·.pressAwake n)

/-! ## Transfer curves and tables (R99) -/

def execPressLutSwap (s : State) : Host.Outcome State Fault Refusal := s.ifUp (·.put F.PRESS_LUT_CTL_SWAP 1)

/-- A write of PRESS_LUT_ADDR: above 12,287 it is ignored. -/
def State.writeLutAddr (s : State) (value : Word) : State :=
  let i := F.PRESS_LUT_ADDR_INDEX.of value
  s.when (i ≤ 12287) (·.put F.PRESS_LUT_ADDR_INDEX i)

def execPressLutAddrWrite (value : Word) (s : State) : Host.Outcome State Fault Refusal := s.ifUp (·.writeLutAddr value)

/-- INDEX one further; 12,287 wraps to 0. -/
def State.nextLut (s : State) : State :=
  let i := s.get F.PRESS_LUT_ADDR_INDEX
  s.put F.PRESS_LUT_ADDR_INDEX (if 12287 ≤ i then 0 else i + 1)

/-- The state with an entry of a curve bank written. -/
def State.setLut (s : State) (bank : Bool) (i v : Nat) : State :=
  have h : bank.toNat < 2 := by cases bank <;> decide
  { s with lut := s.lut.set bank.toNat (assocSet 0 i v (s.lut[bank.toNat]'h)) h }

/-- A write of PRESS_LUT_DATA: refused while SWAP is pending. -/
def State.writeLutData (s : State) (value : Word) : State :=
  if s.bit F.PRESS_LUT_CTL_SWAP then s.put F.PRESS_LUT_CTL_WR_REFUSED 1
  else (s.setLut (!s.bit F.PRESS_LUT_CTL_ACTIVE) (s.get F.PRESS_LUT_ADDR_INDEX) (value.toNat % 4096)).nextLut

def execPressLutDataWrite (value : Word) (s : State) : Host.Outcome State Fault Refusal := s.ifUp (·.writeLutData value)

/-- A read of PRESS_LUT_DATA. -/
def State.readLutData (s : State) : State :=
  let bank := !s.bit F.PRESS_LUT_CTL_ACTIVE
  let v := assocGet 0 (s.get F.PRESS_LUT_ADDR_INDEX) (s.lut[bank.toNat]'(by cases bank <;> decide))
  { s.nextLut with rdata := BitVec.ofNat 32 v }

def execPressLutDataRead (s : State) : Host.Outcome State Fault Refusal := s.ifUp State.readLutData

/-- A write of PRESS_VSEL_BASE: outside the on-chip range it is ignored with press event 50. -/
def State.writeVselBase (s : State) (value : Word) : State :=
  let b := F.PRESS_VSEL_BASE_BASE.of value
  if b = 0 ∨ onChip (b * 4096) 4096 then s.put F.PRESS_VSEL_BASE_BASE b else s.raise (srcPress 50)

def execPressVselBaseWrite (value : Word) (s : State) : Host.Outcome State Fault Refusal := s.ifUp (·.writeVselBase value)

/-- PRESS_STAT_CLR (R99, R129). -/
def State.clearPressStat (s : State) : State :=
  (((s.setReg F.PRESS_LATE_addr 0).setReg F.PRESS_LATE_BANDS_addr 0).setReg F.PRESS_EXC_addr 0).setReg F.PRESS_EXC_INFO_addr 0

def execPressStatClr (s : State) : Host.Outcome State Fault Refusal := s.ifUp State.clearPressStat

/-! ## Images (R124–R128, R152) -/

/-- An image header as read from memory (R124). -/
structure ImageHeader where
  magic    : Word
  info     : Word
  length   : Nat
  entry    : Nat
  features : Word
  load     : Nat
  zero     : Word
  crc      : Word
deriving DecidableEq, Repr

/-- The header in a list of bytes. -/
def ImageHeader.ofBytes (l : List Byte) : ImageHeader :=
  ⟨bytesWord l 0, bytesWord l 4, (bytesWord l 8).toNat, (bytesWord l 12).toNat, bytesWord l 16, (bytesWord l 20).toNat,
    bytesWord l 24, bytesWord l 28⟩

/-- LENGTH, ENTRY, LOAD_ADDR and the reserved fields obey R124 for a memory of `size` bytes. -/
def ImageHeader.shape (h : ImageHeader) (size : Nat) : Bool :=
  decide (h.length ≠ 0 ∧ h.length % 4 = 0 ∧ h.entry % 4 = 0 ∧ h.entry < h.length ∧ h.load % 64 = 0 ∧
    h.load + h.length ≤ size ∧ h.info.toNat / 65536 = 0 ∧ h.zero = 0)

/-- The first of the checks of R127 that an image fails, in the order of its causes; 0 where none does. `inPlace` says that
its bytes lie where they may, `busy` that its range is in use. -/
def ImageHeader.cause (h : ImageHeader) (profile size : Nat) (feat : Word) (inPlace busy : Bool) (code : List Byte)
    (head : List Byte) : Nat :=
  if h.magic ≠ 0x4B4E5448 then 1
  else if h.info.toNat % 256 ≠ 3 then 2
  else if h.info.toNat / 256 % 256 ≠ profile then 3
  else if h.features &&& ~~~feat ≠ 0 then 4
  else if !h.shape size ∨ !inPlace then 5
  else if crc32c (head ++ code) ≠ h.crc then 6
  else if busy then 7 else 0

/-- The check of an image at a header address, the header and what would be copied. -/
def State.checkImage (s : State) (a profile size : Nat) (feat : Word) (busy : Nat → Nat → Bool) :
    Nat × ImageHeader :=
  let head := s.mem.readBytes a 28
  let h := ImageHeader.ofBytes (s.mem.readBytes a 32)
  let inPlace := onChip a (32 + h.length)
  (if !onChip a 32 then 5
   else h.cause profile size feat inPlace (busy h.load (h.load + h.length))
     (if inPlace && h.shape size then s.mem.readBytes (a + 32) h.length else []) head, h)

/-- A byte address lies in a range. -/
def inRange (lo hi a : Nat) : Bool := decide (lo ≤ a ∧ a < hi)

/-- A range of the kernel store is in use (R127 cause 7): HOLD is not in force, and a latched or pending synthesis entry or
the entry of a running job lies in it. -/
def State.kernelBusy (s : State) (lo hi : Nat) : Bool :=
  !s.frm.hold && (inRange lo hi (4 * s.get F.PRESS_SYN_ENTRY_ENTRY) || (s.dist.latches.any fun a => inRange lo hi a.entry) ||
    (List.finRange 48).any fun n => match s.press[n].does with
      | .job j => inRange lo hi j.entry
      | _ => false)

/-- PRESS_IMG_CTL.INSTALL (R127, R128). -/
def State.pressInstall (s : State) : State :=
  s.when (!s.bit F.PRESS_IMG_CTL_INSTALL) fun s =>
    let a := 64 * s.get F.PRESS_IMG_ADDR_ADDR
    let (c, h) := s.checkImage a 0 0x100000 (s.reg F.PRESS_ISA_FEAT_addr) s.kernelBusy
    if c = 0 then { s.put F.PRESS_IMG_CTL_INSTALL 1 with imgP := some ⟨a + 32, 0x06800000 + h.load, h.length⟩ }
    else ((s.put F.PRESS_IMG_CTL_REJECTED 1).put F.PRESS_IMG_CTL_CAUSE c).setReg F.PRESS_IMG_MISSING_addr
      (h.features &&& ~~~s.reg F.PRESS_ISA_FEAT_addr)

def execPressInstall (s : State) : Host.Outcome State Fault Refusal := s.ifUp State.pressInstall

/-- The code of the kernel store from `lo` up to `hi` is another one from now on: a press that runs in it goes on with undefined
registers, since the results of what it runs are undefined (R128). -/
def State.codeReplaced (s : State) (lo hi : Nat) : State :=
  (List.finRange 48).foldl (fun (u : State) n =>
    u.when (u.press[n].busy && inRange lo hi u.press[n].pc.toNat) fun u => u.losePressRegs n) s

/-- The copy of a press image completes; its words are all replaced at this instant (R127, R128; DESIGN CHOICE, log 9). -/
def State.pressInstalled (s : State) : State :=
  match s.imgP with
  | none => s
  | some i =>
    ({ s.put F.PRESS_IMG_CTL_INSTALL 0 with mem := s.mem.copy i.src i.dst i.len, imgP := none }).codeReplaced
      (i.dst - kernelBase) (i.dst - kernelBase + i.len)

def execPressInstallDone (s : State) : Host.Outcome State Fault Refusal := s.ifUp State.pressInstalled

/-- A thread that is neither stopped nor faulted has its PC in a range of the instruction memory (R152 cause 7). -/
def State.threadsBusy (s : State) (lo hi : Nat) : Bool :=
  (List.finRange 16).any fun t => s.seq.thr[t].st != .stopped && s.seq.thr[t].st != .faulted &&
    inRange lo hi s.seq.thr[t].pc.toNat

/-- SEQ_IMG_CTL.INSTALL (R152). -/
def State.seqInstall (s : State) : State :=
  s.when (!s.bit F.SEQ_IMG_CTL_INSTALL) fun s =>
    let a := 64 * s.get F.SEQ_IMG_ADDR_ADDR
    let (c, h) := s.checkImage a 1 0x40000 (s.reg F.SEQ_ISA_FEAT_addr) s.threadsBusy
    if c = 0 then { s.put F.SEQ_IMG_CTL_INSTALL 1 with imgS := some ⟨a + 32, 0x06900000 + h.load, h.length⟩ }
    else ((s.put F.SEQ_IMG_CTL_REJECTED 1).put F.SEQ_IMG_CTL_CAUSE c).setReg F.SEQ_IMG_MISSING_addr
      (h.features &&& ~~~s.reg F.SEQ_ISA_FEAT_addr)

def execSeqInstall (s : State) : Host.Outcome State Fault Refusal := s.ifUp State.seqInstall

/-- The copy of a sequencer image completes. -/
def State.seqInstalled (s : State) : State :=
  match s.imgS with
  | none => s
  | some i => { s.put F.SEQ_IMG_CTL_INSTALL 0 with mem := s.mem.copy i.src i.dst i.len, imgS := none }

def execSeqInstallDone (s : State) : Host.Outcome State Fault Refusal := s.ifUp State.seqInstalled

/-! ## Press jobs (R123, R145) -/

/-- Press `n` is free to take work. -/
def State.pressFree (s : State) (n : Fin 48) : Bool :=
  s.press[n].does == .idle && !s.bit (F.PRESS_CTL_GATE n) && !s.bit (F.PRESS_CTL_FENCED n)

/-- A job may run on press `n`. -/
def PressJob.fits (j : PressJob) (n : Fin 48) : Bool := j.press == none || j.press == some n.val

/-- The first waiting job that press `n` may take starts on it: s0 to s2 and p0 as given, every other register undefined. -/
def State.startJob (s : State) (n : Fin 48) : State :=
  match s.seq.jobs.find? (PressJob.fits · n) with
  | none => s
  | some j =>
    s.when (s.pressFree n) fun s =>
      let t := { s.losePressRegs n with seq := { s.seq with jobs := s.seq.jobs.erase j } }
      t.onPress n fun p => { p with
        s := ((p.s.set 0 (j.ticket.setWidth 32)).set 1 j.arg0).set 2 j.arg1
        p := p.p.set 0 0xFFFF
        valid := 0xFFFF
        pc := BitVec.ofNat 32 j.entry
        does := .job j }

def execPressJobStart (n : Fin 48) (s : State) : Host.Outcome State Fault Refusal := s.ifUp (·.startJob n)

end Sys2Proof.Machine
end

