-- ==== Sys2Proof/Machine/Distributor.lean ====
section
/-! DEFINITION. The distributor (R19, R73–R81): which band's bundle a free press takes, the angle latch of a frame, dark
frames, the drop of a band at its latch. -/

namespace Sys2Proof.Machine

/-! ## The frame of a running slot (R19, R78) -/

/-- A slot as the distributor sees it: its frame's number and content, its slot number and layer mask. -/
structure SlotView where
  number : Nat
  slot   : Nat
  mask   : Nat
  sel    : Selection
deriving DecidableEq, Repr

/-- The running slot number after the latest frame. -/
def State.nextBase (s : State) : Nat :=
  match s.frm.run with
  | some f => f.base + f.slots
  | none => 0

/-- The slot of a running slot number whose frame has content selected: of the running frame, or of the next launch. -/
def State.slotView (s : State) (r : Nat) : Option SlotView :=
  match s.frm.run with
  | some f =>
    if r < f.base + f.slots then some ⟨f.number, r - f.base, f.mask.toNat, f.sel⟩ else nextView s (r - (f.base + f.slots))
  | none => nextView s r
where
  nextView (s : State) (slot : Nat) : Option SlotView :=
    if slot < s.nextGet F.SEQ_FRM_FORMAT_SLOTS then
      s.frm.sel.map fun x => ⟨s.frm.count + 1, slot, s.nextGet F.SEQ_FRM_FORMAT_LAYER_MASK, x⟩
    else none

/-- The slots of band `b` whose synthesis window is open: the next to be latched and the one after it (R19). -/
def State.openSlots (s : State) (b : Fin 64) : List (Nat × SlotView) :=
  if s.bandRows b = 0 then []
  else [s.dist.latched[b], s.dist.latched[b] + 1].filterMap fun r => (s.slotView r).map fun v => (r, v)

/-! ## Dark frames (R79) -/

/-- The work entry of a band that is complete. -/
def State.doneWork (s : State) (r b frame : Nat) : BandWork := ⟨r, b, frame, s.bandBundles b, [], s.bandBundles b⟩

/-- Each open band of a dark frame is written with zeros, once. -/
def State.darkFill (s : State) : State :=
  (List.finRange 64).foldl (fun (u : State) (b : Fin 64) => (u.openSlots b).foldl (fun (t : State) x =>
    if x.2.sel.content.isNone && (t.workOf x.1 b).isNone then
      let z := t.zeroBand x.1 b
      { z with dist := { z.dist with work := z.dist.work ++ [z.doneWork x.1 b x.2.number] } }
    else t) u) s

/-! ## The angle latch (R47, R76, R81, R99) -/

/-- Row `j` of the slot angle table as latched: of the table, or the nominal one (R44, R46). -/
def State.angleRow (s : State) (j : Nat) : List Word :=
  let base := s.get F.TRL_SAT_BASE_BASE
  (List.range 64).map fun (d : Nat) =>
    if base = 0 then BitVec.setWidth 32 (BitVec.ofInt 16 ((2 * Int.ofNat d - 63) * 480)) else s.word (base * 4096 + 256 * j + 4 * d)

/-- The view selection table as latched. -/
def State.vselBytes (s : State) : List Byte :=
  let base := s.get F.PRESS_VSEL_BASE_BASE
  if base = 0 then List.replicate 4096 0 else s.mem.readBytes (base * 4096) 4096

/-- The angle latch of frame `number`: the curve banks swap if asked, and the copies start. The rows and the table are read
at this instant, and KV4 is the one that the frame's launch would put in force as things stand, which a commit that lands later
does not change for this frame (DESIGN CHOICE, log 17: the manual does not settle either, R29, R81). -/
def State.angleLatch (s : State) (number : Nat) (half : Bool) (h : FrameHeader) : State :=
  let lo := s.get F.TRL_ANG_WEIGHT_LO_BAND
  let w := min 256 (s.get F.TRL_ANG_WEIGHT_WEIGHT)
  let clamp := decide (lo = 15 ∧ 0 < w)
  let t := if clamp then s.put F.TRL_GEOM_CTL_WEIGHT_CLAMP 1 else s
  let weight := if clamp then 0 else w
  let t := if t.bit F.PRESS_LUT_CTL_SWAP then
      (t.put F.PRESS_LUT_CTL_SWAP 0).putB F.PRESS_LUT_CTL_ACTIVE (!t.bit F.PRESS_LUT_CTL_ACTIVE) else t
  let kv4 := match t.frm.run with
    | some f => if f.number = number then t.actGet F.SEQ_FRM_FORMAT_KV4 == 1 else t.nextGet F.SEQ_FRM_FORMAT_KV4 == 1
    | none => t.nextGet F.SEQ_FRM_FORMAT_KV4 == 1
  let a : AngleLatch :=
    { number := number, hdr := h, half := half, kv4 := kv4, weight := weight
      rows := t.angleRow lo ++ (if weight = 0 then t.angleRow lo else t.angleRow (lo + 1))
      entry := 4 * t.get F.PRESS_SYN_ENTRY_ENTRY, lutBank := t.bit F.PRESS_LUT_CTL_ACTIVE, vsel := t.vselBytes }
  { t with dist := { t.dist with latches := (a :: t.dist.latches).take 2, copying := true } }

/-- ANGLE_COPY_DONE. -/
def execAngleCopyDone (s : State) : Host.Outcome State Fault Refusal :=
  s.ifUp fun s => { s with dist := { s.dist with copying := false } }

/-! ## Issue (R73–R76, R80) -/

/-- The bundle of a band that goes out next: one to run again first, then in order. -/
def State.nextIndex (s : State) (w : BandWork) : Option Nat :=
  match w.redo with
  | i :: _ => some i
  | [] => if w.next < s.bandBundles w.band then some w.next else none

/-- The work of a band, begun or not. -/
def State.workOr (s : State) (r b frame : Nat) : BandWork := (s.workOf r b).getD ⟨r, b, frame, 0, [], 0⟩

/-- The bands with a bundle to issue. -/
def State.issuable (s : State) : List (BandWork × Nat × SlotView) :=
  (List.finRange 64).flatMap fun (b : Fin 64) => (s.openSlots b).filterMap fun x =>
    if x.2.sel.content.isNone then none
    else
      let w := s.workOr x.1 b x.2.number
      (s.nextIndex w).map fun i => (w, i, x.2)

/-- The one with the earliest streaming opening, L(s − 1, b) (R75). -/
def State.firstIssue (s : State) : Option (BandWork × Nat × SlotView) :=
  s.issuable.foldl (fun best x => match best with
    | none => some x
    | some y => if x.1.run < y.1.run then some x else some y) none

/-- The valid lanes of the bundle at (x, y) (R73, R74). -/
def State.validLanes (s : State) (x : Nat) : BitVec 16 :=
  (List.finRange 16).foldl (fun (m : BitVec 16) (k : Fin 16) =>
    if decide (x + k.val / 8 < s.gridW) && s.emitterPresent (k % 8) then m ||| (1#16 <<< k.val) else m) 0

/-- The bundles of a slot in the bands before `b`. -/
def State.bundlesBefore (s : State) (b : Nat) : Nat := ((List.range b).map s.bandBundles).sum

/-- Press `n` takes bundle `i` of a band. -/
def State.takeBundle (s : State) (n : Fin 48) (w : BandWork) (i : Nat) (v : SlotView) (a : AngleLatch) : State :=
  let x := 2 * (i % s.rowBundles)
  let y := s.bandFirst w.band + i / s.rowBundles
  let dir := slotWord v.mask v.slot
  let valid := s.validLanes x
  let w' := match w.redo with
    | _ :: l => { w with redo := l }
    | [] => { w with next := w.next + 1 }
  let work := if (s.workOf w.run w.band).isSome then
      s.dist.work.map fun z => if z.run = w.run ∧ z.band = w.band then w' else z
    else s.dist.work ++ [w']
  let b : Bundle := ⟨w.run, v.slot, dir, w.band, i, x, y, v.number, s.now, 0, false⟩
  let t := { s with dist := { s.dist with work := work } }
  t.onPress n fun p => { p with
    s := (p.s.set 0 (BitVec.ofNat 32 (x + 2 ^ 10 * y + 2 ^ 19 * v.slot + 2 ^ 25 * w.band + 2 ^ 31 * a.half.toNat))).set 1
      (BitVec.ofNat 32 (dir + 2 ^ 15 * (s.bundlesBefore w.band + i)))
    p := p.p.set 0 valid
    valid := valid
    pc := BitVec.ofNat 32 a.entry
    does := .bundle b }

/-- BUNDLE_ISSUE: a free press without a job waiting for it takes the next bundle; the first of a frame is its angle latch,
and waits for the copies. -/
def State.issueBundle (s : State) (n : Fin 48) : State :=
  s.when (s.pressFree n && !s.seq.jobs.any (PressJob.fits · n)) fun s =>
    match s.firstIssue with
    | none => s
    | some (w, i, v) =>
      match s.latchOf v.number with
      | some a =>
        if s.dist.copying && (s.dist.latches.head?.map (·.number)) == some v.number then s else s.takeBundle n w i v a
      | none =>
        match v.sel.content, v.sel.hdr with
        | some c, some h => if s.dist.copying then s else s.angleLatch v.number c.1 h
        | _, _ => s

def execBundleIssue (n : Fin 48) (s : State) : Host.Outcome State Fault Refusal := s.ifUp (·.issueBundle n)

/-! ## A band at its latch (R20, R77) -/

/-- A press runs a bundle of a band that still counts. -/
def Press.runs (p : Press) (r b : Nat) : Bool :=
  match p.does with
  | .bundle x => x.run == r && x.band == b && !x.discard
  | _ => false

/-- The press with its bundle's writes discarded. -/
def Press.discarded (p : Press) : Press :=
  match p.does with
  | .bundle x => { p with does := .bundle { x with discard := true } }
  | _ => p

/-- Late bundles counted, with press event 48 for the first late band of a frame (R99). -/
def State.countLate (s : State) (number slot b late : Nat) : State :=
  if late = 0 then s
  else
    let t := ((s.countBy F.PRESS_LATE_BUNDLES late).count F.PRESS_LATE_BANDS_BANDS).put F.PRESS_LATE_BANDS_LAST_BAND b
    let t := t.put F.PRESS_LATE_BANDS_LAST_SLOT slot
    if t.dist.lateFrame = some number then t
    else { t with dist := { t.dist with lateFrame := some number } }.raise (srcPress 48)

/-- Band `b` of running slot `r` is latched: what is not issued is dropped, what is in progress is discarded. -/
def State.bandDrop (s : State) (r : Nat) (b : Fin 64) : State :=
  let v := s.slotView r
  let w := s.workOr r b 0
  let unissued := s.bandBundles b - w.next + w.redo.length
  let running := (s.press.toList.filter fun p => p.runs r b).length
  let t := { s with
    press := s.press.map fun p => if p.runs r b then p.discarded else p
    dist := { s.dist with
      latched := s.dist.latched.set b (r + 1)
      work := s.dist.work.filter fun z => !(z.run == r && z.band == b.val) } }
  match v with
  | some v => if v.sel.content.isSome then t.countLate v.number v.slot b (unissued + running) else t
  | none => t

/-- What of the work lies at or after a running slot number is given up (R30: a new slot count). -/
def State.dropFrom (s : State) (r : Nat) : State :=
  { s with
    press := s.press.map fun p => match p.does with
      | .bundle x => if r ≤ x.run then p.discarded else p
      | _ => p
    dist := { s.dist with work := s.dist.work.filter fun z => decide (z.run < r) } }

end Sys2Proof.Machine
end

