-- ==== Sys2Proof/Machine/CodecCore.lean ====
section
/-! DEFINITION. The coding of one stripe's samples (R161–R163, R167–R173): neighbours, the spatial predictor, contexts, the
Golomb-Rice code and run mode, as decoder and as encoder over the same state. -/

namespace Sys2Proof.Machine

/-! ## Bits (R156) -/

/-- The bits of bytes, most significant first. -/
def bitsOf (l : List Byte) : List Bool := l.flatMap fun b => (List.range 8).map fun i => b.getLsbD (7 - i)

/-- The number that bits spell, most significant first. -/
def bitsNat (l : List Bool) : Nat := l.foldl (fun a b => 2 * a + b.toNat) 0

/-- The `n` low bits of a number, most significant first. -/
def natBits (n v : Nat) : List Bool := (List.range n).map fun i => v / 2 ^ (n - 1 - i) % 2 == 1

/-- `n` bits taken from the front; none where fewer are left. -/
def takeBits (n : Nat) (l : List Bool) : Option (Nat × List Bool) :=
  if l.length < n then none else some (bitsNat (l.take n), l.drop n)

/-- Bytes of bits, padded with zero bits, with a bound on the bytes. -/
def packBits : Nat → List Bool → List Byte
  | 0, _ => []
  | _ + 1, [] => []
  | n + 1, b :: l =>
    let eight := (b :: l).take 8
    BitVec.ofNat 8 (bitsNat eight * 2 ^ (8 - eight.length)) :: packBits n ((b :: l).drop 8)

/-! ## Parameters (R162, R169–R172) -/

/-- The precision of a plane and the error bound of a stripe. -/
structure CodePar where
  bits : Nat
  near : Nat
deriving DecidableEq, Repr

def bitLen (n : Nat) : Nat := if n = 0 then 0 else Nat.log2 n + 1

def CodePar.maxval (p : CodePar) : Nat := 2 ^ p.bits - 1
def CodePar.step (p : CodePar) : Nat := 2 * p.near + 1
def CodePar.range (p : CodePar) : Nat := (p.maxval + 2 * p.near) / p.step + 1
def CodePar.qbpp (p : CodePar) : Nat := bitLen (p.range - 1)
def CodePar.limit (p : CodePar) : Nat := 31 - p.qbpp
def CodePar.mid (p : CodePar) : Nat := 2 ^ (p.bits - 1)

/-- The contexts, each A and N, and the run index (R170, R173). -/
structure CodeState where
  ctx : List (Nat × Nat)
  ri  : Nat
deriving DecidableEq, Repr

/-- At the start of a stripe. -/
def CodePar.start (p : CodePar) : CodeState := ⟨List.replicate 64 (max 2 ((p.range + 32) / 64), 1), 0⟩

/-- The neighbours a, b, c, d of sample `x` of a line (R162): `up` is the line above, none on the first line. -/
def neighbours (mid w : Nat) (up : Option (Array Nat)) (cur : Array Nat) (x : Nat) : Nat × Nat × Nat × Nat :=
  match up with
  | none => let a := if x = 0 then mid else cur.getD (x - 1) mid; (a, a, a, a)
  | some u =>
    let b := u.getD x mid
    let d := if x + 1 < w then u.getD (x + 1) mid else b
    if x = 0 then (b, b, b, d) else (cur.getD (x - 1) mid, b, u.getD (x - 1) mid, d)

/-- The median edge predictor (R163). -/
def medianEdge (a b c : Nat) : Nat := if max a b ≤ c then min a b else if c ≤ min a b then max a b else a + b - c

def absDiff (a b : Nat) : Nat := (a - b) + (b - a)

/-- The context of a sample (R170). -/
def CodePar.context (p : CodePar) (a b c d : Nat) : Nat :=
  let act := absDiff d b + absDiff b c + absDiff c a
  4 * min 15 (bitLen (act / 2 ^ (p.bits - 10))) + 2 * (decide (a < c)).toNat + (decide (b < c)).toNat

/-- The Golomb-Rice parameter: the least k with N << k ≥ A, at most `cap` (R171). -/
def riceK (a n : Nat) : Nat → Nat → Nat
  | 0, k => k
  | cap + 1, k => if a ≤ n * 2 ^ k then k else riceK a n cap (k + 1)

/-- A context after a sample (R171). -/
def ctxStep (x : Nat × Nat) (q : Int) : Nat × Nat :=
  if x.2 + 1 = 64 then ((x.1 + q.natAbs) / 2, 32) else (x.1 + q.natAbs, x.2 + 1)

/-- The reconstructed sample (R169). -/
def CodePar.recon (p : CodePar) (pr : Nat) (q : Int) : Nat :=
  let x : Int := pr + q * p.step
  let x := if x < -(p.near : Int) then x + p.range * p.step
    else if (p.maxval + p.near : Int) < x then x - p.range * p.step else x
  (max 0 (min (p.maxval : Int) x)).toNat

/-- The quantised error of a source sample (R169). -/
def CodePar.quantise (p : CodePar) (x pr : Nat) : Int :=
  let e : Int := (x : Int) - pr
  let q : Int := if 0 ≤ e then (e + p.near) / p.step else -((p.near - e) / p.step)
  let q := if q < 0 then q + p.range else q
  if ((p.range : Int) + 1) / 2 ≤ q then q - p.range else q

/-- J[RI] (R173). -/
def runJ (ri : Nat) : Nat :=
  [0, 0, 0, 0, 1, 1, 1, 1, 2, 2, 2, 2, 3, 3, 3, 3, 4, 4, 5, 5, 6, 6, 7, 7, 8, 9, 10, 11, 12, 13, 14, 15].getD ri 15

/-- The run condition (R173). -/
def CodePar.flat (p : CodePar) (a b c d : Nat) : Bool :=
  decide (absDiff d b ≤ p.near ∧ absDiff b c ≤ p.near ∧ absDiff c a ≤ p.near)

/-- The end of a run segment: the rest of the line up to the first block that is not spatial (R173). -/
def segEnd (pm : List Nat) (w x : Nat) : Nat :=
  min w (8 * (x / 8 + ((pm.drop (x / 8)).takeWhile (· == 0)).length))

/-! ## Decoding -/

/-- A code word: the error q, and the bits left; none where the bits run out or no code word is there (R172). -/
def CodePar.readQ (p : CodePar) (k : Nat) (l : List Bool) : Option (Int × List Bool) :=
  let u := (l.takeWhile (! ·)).length
  if p.limit < u ∨ l.length ≤ u then none
  else
    let rest := l.drop (u + 1)
    let m := if u < p.limit then (takeBits k rest).map fun x => (u * 2 ^ k + x.1, x.2)
      else (takeBits p.qbpp rest).map fun x => (x.1 + 1, x.2)
    m.map fun x => (if x.1 % 2 = 0 then ((x.1 / 2 : Nat) : Int) else -(((x.1 + 1) / 2 : Nat) : Int), x.2)

/-- A run over a segment with `left` samples: its length, the run index, whether it was broken, the bits left (R173). -/
def readRun : Nat → Nat → Nat → Nat → List Bool → Option (Nat × Nat × Bool × List Bool)
  | 0, _, n, ri, l => some (n, ri, false, l)
  | fuel + 1, left, n, ri, l =>
    if left ≤ n then some (n, ri, false, l)
    else
      match l with
      | [] => none
      | true :: l =>
        if 2 ^ runJ ri ≤ left - n then readRun fuel left (n + 2 ^ runJ ri) (min 31 (ri + 1)) l
        else some (left, ri, false, l)
      | false :: l =>
        match takeBits (runJ ri) l with
        | none => none
        | some (r, l) => if left ≤ n + r then none else some (n + r, ri - 1, true, l)

/-- One line. `pm` is the predictor map in force, `pred` gives the temporal and inter-view predictions or the cause of a
corrupt stripe. `plain` marks the sample that broke a run. -/
def CodePar.readLine (p : CodePar) (pm : List Nat) (w : Nat) (up : Option (Array Nat)) (pred : Nat → Nat → Except Nat Nat) :
    Nat → Bool → Array Nat → CodeState → List Bool → Except Nat (Array Nat × CodeState × List Bool)
  | 0, _, cur, st, l => .ok (cur, st, l)
  | fuel + 1, plain, cur, st, l =>
    let x := cur.size
    if w ≤ x then .ok (cur, st, l)
    else
      let (a, b, c, d) := neighbours p.mid w up cur x
      let kind := pm.getD (x / 8) 0
      if kind = 0 ∧ !plain ∧ p.flat a b c d then
        match readRun (segEnd pm w x - x + 1) (segEnd pm w x - x) 0 st.ri l with
        | none => .error 3
        | some (n, ri, broken, l) => p.readLine pm w up pred fuel broken (cur ++ Array.replicate n a) { st with ri := ri } l
      else
        match (if kind = 0 then Except.ok (medianEdge a b c) else if kind = 3 then .ok p.mid else pred kind x) with
        | .error e => .error e
        | .ok pr =>
          let i := p.context a b c d
          let cx := st.ctx.getD i (0, 1)
          match p.readQ (riceK cx.1 cx.2 p.qbpp 0) l with
          | none => .error 3
          | some (q, l) =>
            p.readLine pm w up pred fuel false (cur.push (p.recon pr q)) { st with ctx := st.ctx.set i (ctxStep cx q) } l

/-- A predictor map of `nb` blocks (R161), each predictor allowed (R168). -/
def readMap (allowed : Nat → Bool) : Nat → List Bool → Except Nat (List Nat × List Bool)
  | 0, l => .ok ([], l)
  | n + 1, l =>
    match takeBits 2 l with
    | none => .error 3
    | some (k, l) =>
      if !allowed k then .error 3
      else (readMap allowed n l).map fun x => (k :: x.1, x.2)

/-- The lines of an image from its line `y` on: `nb` blocks wide, `n` lines left, the first at key-view line `line0` (R161). -/
def CodePar.readImage (p : CodePar) (allowed : Nat → Bool) (nb line0 : Nat) (pred : Nat → Nat → Nat → Except Nat Nat) :
    Nat → Nat → List Nat → Option (Array Nat) → CodeState → List Bool → Except Nat (List (Array Nat) × CodeState × List Bool)
  | 0, _, _, _, st, l => .ok ([], st, l)
  | n + 1, y, pm, up, st, l =>
    match (if y = 0 ∨ (line0 + y) % 8 = 0 then readMap allowed nb l else .ok (pm, l)) with
    | .error e => .error e
    | .ok (pm, l) =>
      match p.readLine pm (8 * nb) up (fun k x => pred k x y) (16 * nb + 2) false #[] st l with
      | .error e => .error e
      | .ok (row, st, l) =>
        (p.readImage allowed nb line0 pred n (y + 1) pm (some row) st l).map fun x => (row :: x.1, x.2)

/-- The images of a stripe: blocks across, lines and first key-view line of each; contexts and run index go on from one to
the next (R161, R170, R173). -/
def CodePar.readImages (p : CodePar) (allowed : Nat → Bool) (pred : Nat → Nat → Nat → Nat → Except Nat Nat) :
    List (Nat × Nat × Nat) → Nat → CodeState → List Bool → Except Nat (List (List (Array Nat)) × List Bool)
  | [], _, _, l => .ok ([], l)
  | (nb, lines, line0) :: rest, m, st, l =>
    match p.readImage allowed nb line0 (pred m) lines 0 [] none st l with
    | .error e => .error e
    | .ok (img, st, l) => (p.readImages allowed pred rest (m + 1) st l).map fun x => (img :: x.1, x.2)

/-! ## Encoding -/

/-- The code word of an error (R172). -/
def CodePar.writeQ (p : CodePar) (k : Nat) (q : Int) : List Bool :=
  let m := if 0 ≤ q then 2 * q.toNat else 2 * q.natAbs - 1
  let u := m / 2 ^ k
  if u < p.limit then List.replicate u false ++ true :: natBits k m
  else List.replicate p.limit false ++ true :: natBits p.qbpp (m - 1)

/-- The full run words of a run: the samples left, the run index, the bits (R173). -/
def writeRunWords : Nat → Nat → Nat → Nat × Nat × List Bool
  | 0, n, ri => (n, ri, [])
  | fuel + 1, n, ri =>
    if 2 ^ runJ ri ≤ n then
      let (m, r, l) := writeRunWords fuel (n - 2 ^ runJ ri) (min 31 (ri + 1))
      (m, r, true :: l)
    else (n, ri, [])

/-- A run of `n` samples in a segment of `left` (R173). -/
def writeRun (left n ri : Nat) : Nat × List Bool :=
  let (m, r, l) := writeRunWords (n + 1) n ri
  if n = left then (r, l ++ (if 0 < m then [true] else [])) else (r - 1, l ++ false :: natBits (runJ r) m)

/-- One line of source samples coded: its reconstruction, the state and the bits. -/
def CodePar.writeLine (p : CodePar) (pm : List Nat) (w : Nat) (src : Array Nat) (up : Option (Array Nat))
    (pred : Nat → Nat → Nat) : Nat → Bool → Array Nat → CodeState → Array Nat × CodeState × List Bool
  | 0, _, cur, st => (cur, st, [])
  | fuel + 1, plain, cur, st =>
    let x := cur.size
    if w ≤ x then (cur, st, [])
    else
      let (a, b, c, d) := neighbours p.mid w up cur x
      let kind := pm.getD (x / 8) 0
      if kind = 0 ∧ !plain ∧ p.flat a b c d then
        let left := segEnd pm w x - x
        let n := (((src.toList.drop x).take left).takeWhile fun v => decide (absDiff v a ≤ p.near)).length
        let (ri, bits) := writeRun left n st.ri
        let (row, st, rest) := p.writeLine pm w src up pred fuel (n != left) (cur ++ Array.replicate n a) { st with ri := ri }
        (row, st, bits ++ rest)
      else
        let pr := if kind = 0 then medianEdge a b c else if kind = 3 then p.mid else pred kind x
        let i := p.context a b c d
        let cx := st.ctx.getD i (0, 1)
        let q := p.quantise (src.getD x 0) pr
        let (row, st, rest) := p.writeLine pm w src up pred fuel false (cur.push (p.recon pr q))
          { st with ctx := st.ctx.set i (ctxStep cx q) }
        (row, st, p.writeQ (riceK cx.1 cx.2 p.qbpp 0) q ++ rest)

/-- The sum of absolute source-domain errors of predictor `kind` over block `bi` of lines `ys` (R181). -/
def CodePar.blockCost (p : CodePar) (nb bi : Nat) (src : List (Array Nat)) (ys : List Nat) (pred : Nat → Nat → Nat → Nat)
    (kind : Nat) : Nat :=
  (ys.map fun y => ((List.range 8).map fun i =>
    let x := 8 * bi + i
    let line := src.getD y #[]
    let pr :=
      if kind = 0 then
        let (a, b, c, _) := neighbours p.mid (8 * nb) (if y = 0 then none else src[y - 1]?) line x
        medianEdge a b c
      else if kind = 3 then p.mid else pred kind x y
    absDiff (line.getD x 0) pr).sum).sum

/-- The predictor of a block: the least cost, ties in the order spatial, inter-view, temporal, mid-value (R181). -/
def CodePar.choose (p : CodePar) (allowed : Nat → Bool) (nb bi : Nat) (src : List (Array Nat)) (ys : List Nat)
    (pred : Nat → Nat → Nat → Nat) : Nat :=
  ((([0, 1, 2, 3].filter allowed).map fun k => (k, p.blockCost nb bi src ys pred k)).foldl
    (fun best x => match best with
      | none => some x
      | some y => if x.2 < y.2 then some x else some y) (none : Option (Nat × Nat))).elim 3 Prod.fst

/-- The lines of an image coded from its line `y` on, with the predictor map where one is due. -/
def CodePar.writeImage (p : CodePar) (allowed : Nat → Bool) (nb line0 : Nat) (src : List (Array Nat))
    (pred : Nat → Nat → Nat → Nat) : Nat → Nat → List Nat → Option (Array Nat) → CodeState →
      List (Array Nat) × CodeState × List Bool
  | 0, _, _, _, st => ([], st, [])
  | n + 1, y, pm, up, st =>
    let due := decide (y = 0 ∨ (line0 + y) % 8 = 0)
    let ys := (List.range (min (n + 1) (8 - (line0 + y) % 8))).map (y + ·)
    let pm := if due then (List.range nb).map fun bi => p.choose allowed nb bi src ys pred else pm
    let (row, st, bits) := p.writeLine pm (8 * nb) (src.getD y #[]) up (fun k x => pred k x y) (16 * nb + 2) false #[] st
    let (rows, st, rest) := p.writeImage allowed nb line0 src pred n (y + 1) pm (some row) st
    (row :: rows, st, (if due then pm.flatMap (natBits 2) else []) ++ bits ++ rest)

/-- The images of a stripe coded: their reconstructions and the payload bits. -/
def CodePar.writeImages (p : CodePar) (allowed : Nat → Bool) (pred : Nat → Nat → Nat → Nat → Nat) :
    List (Nat × Nat × List (Array Nat)) → Nat → CodeState → List (List (Array Nat)) × List Bool
  | [], _, _ => ([], [])
  | (nb, line0, src) :: rest, m, st =>
    let (img, st, bits) := p.writeImage allowed nb line0 src (pred m) src.length 0 [] none st
    let (imgs, more) := p.writeImages allowed pred rest (m + 1) st
    (img :: imgs, bits ++ more)

end Sys2Proof.Machine
end

