-- ==== Sys2Proof/Machine/Codec.lean ====
section
/-! DEFINITION. The stripe queue, the stream decoders and the key-view store halves they fill (R54–R72, R154–R179, R186–R189). -/

namespace Sys2Proof.Machine

/-! ## Stripes (R156–R158) -/

/-- The fields of a stripe's header and trailer. -/
structure StripeHead where
  ty      : Nat
  plane   : Nat
  view    : Nat
  near    : Nat
  first   : Nat
  lines   : Nat
  fseq    : Word
  bytes   : Nat
  flushed : Bool
  noT     : Bool
  noI     : Bool
  /-- Reserved bits set, or a length that does not match PAYLOAD_BYTES. -/
  bad     : Bool
  bits    : Nat
  rcrc    : Word
deriving DecidableEq, Repr

/-- The header check of a stripe: 16 bytes are there and HCRC is right (R177 cause 1). -/
def stripeHcrc (l : List Byte) : Bool := decide (16 ≤ l.length) && bytesWord l 12 == crc32c (l.take 12)

/-- The fields of a stripe. -/
def StripeHead.ofBytes (l : List Byte) : StripeHead :=
  let w0 := (bytesWord l 0).toNat
  let w2 := (bytesWord l 8).toNat
  let n := w2 % 2 ^ 24
  let t := (bytesWord l (16 + n)).toNat
  { ty := w0 % 16, plane := w0 / 16 % 16, view := w0 / 256 % 16, near := w0 / 4096 % 8, first := w0 / 65536 % 1024
    lines := w0 / 2 ^ 26 + 1, fseq := bytesWord l 4, bytes := n, flushed := w2 / 2 ^ 24 % 2 == 1
    noT := w2 / 2 ^ 25 % 2 == 1, noI := w2 / 2 ^ 26 % 2 == 1
    bad := w0 / 32768 % 2 == 1 || w2 / 2 ^ 27 != 0 || l.length != n + 24 || t / 2 ^ 27 != 0
    bits := t % 2 ^ 27, rcrc := bytesWord l (20 + n) }

/-- The payload of a stripe. -/
def stripePayload (l : List Byte) : List Byte := (l.drop 16).take (l.length - 24)

/-- PAYLOAD_BITS obeys R158. -/
def StripeHead.bitsOk (h : StripeHead) : Bool := decide (8 * (h.bytes - 1) < h.bits ∧ h.bits ≤ 8 * h.bytes)

/-- A back plane. -/
def backPlane (p : Nat) : Bool := decide (8 ≤ p ∧ p ≤ 12)

/-- Precision of a plane (R56). -/
def planeBits (p : Nat) : Nat := if p % 8 = 3 then 8 else if p % 8 = 4 then 16 else 10

/-- Bytes of a view's mask (R66). -/
def FrameHeader.maskBytes (h : FrameHeader) : Nat := (h.bw + 7) / 8 * h.bh

/-- The region that a plane stripe carries. -/
def StripeHead.region (h : StripeHead) : StripeRegion := ⟨h.view, h.plane, h.first, h.lines⟩

/-- Two regions share a line of the same view and plane. -/
def StripeRegion.meets (a b : StripeRegion) : Bool :=
  a.view == b.view && a.plane == b.plane && decide (a.first < b.first + b.lines ∧ b.first < a.first + a.lines)

/-- A line of a view's plane lies in one of the regions. -/
def lineIn (l : List StripeRegion) (v pl j : Nat) : Bool :=
  l.any fun r => r.view == v && r.plane == pl && decide (r.first ≤ j ∧ j < r.first + r.lines)

/-- A stripe's fields break R157 or R160 for a frame (R177 cause 2). -/
def StripeHead.illegal (h : StripeHead) (f : FrameHeader) : Bool :=
  h.ty != 0 || h.bad || h.bytes == 0 || h.plane == 6 || h.plane == 7 || decide (12 < h.plane) || decide (f.k ≤ h.view) ||
  (if h.plane = 5 then h.near != 0 || h.first != 0 || h.lines != 1 || h.bytes != f.maskBytes
   else h.near != f.near || decide (f.vh < h.first + h.lines) ||
     (backPlane h.plane && (h.first % 8 != 0 || h.lines % 8 != 0)))

/-! ## Failures and drops (R174, R177, R72) -/

/-- A failed stripe: counted with its cause, view and plane, event 1 of the lane. -/
def State.stripeFail (s : State) (n : Fin 32) (cause view plane : Nat) : State :=
  ((((s.count F.CODEC_STRIPE_ERR_COUNT).put F.CODEC_STRIPE_ERR_CAUSE cause).put F.CODEC_STRIPE_ERR_VIEW view).put
    F.CODEC_STRIPE_ERR_PLANE plane).raise (srcLane n 1)

/-- A header rejected or discarded: counted with its cause, event 0 of the lane. -/
def State.headerReject (s : State) (n : Fin 32) (cause : Nat) : State :=
  ((s.count F.CODEC_TDV_REJECT_COUNT).put F.CODEC_TDV_REJECT_CAUSE cause).raise (srcLane n 0)

/-- A stripe discarded as unmatched or repeated. -/
def State.staleStripe (s : State) : State := s.count F.CODEC_STRIPE_DROP_STALE

/-- The taint register follows the tainted block rows. -/
def State.setTaint (s : State) (l : List (Nat × Nat × Nat)) : State :=
  { s with codec := { s.codec with taint := l } }.put F.CODEC_TAINT_ROWS (min 16383 l.length)

/-! ## The queue (R174, R188, R189) -/

/-- Bytes in the stripe queue, those of suspended decodes among them. -/
def State.queueFill (s : State) : Nat :=
  (s.codec.queue.map fun q => q.bytes.length).sum +
  (s.codec.lanes.toList.map fun l => match l.stripe with
    | some q => q.bytes.length
    | none => 0).sum

/-- A stripe of `n` bytes has room in the 7 MiB of the queue. -/
def State.queueRoom (s : State) (n : Nat) : Bool := decide (s.queueFill + n ≤ 7340032)

/-- A stripe at the end of the queue. -/
def State.enqueueStripe (s : State) (q : QStripe) : State :=
  { s with codec := { s.codec with queue := s.codec.queue ++ [q] } }

/-- Bytes up to a multiple of 64. -/
def pad64 (n : Nat) : Nat := (n + 63) / 64 * 64

/-- A stripe appended to the recording buffer, as a request of the recorder (R328), or the recording stopped at its end (R189). -/
def State.record (s : State) (l : List Byte) : State :=
  if !s.bit F.CODEC_REC_CTL_EN || s.bit F.CODEC_REC_CTL_FULL then s
  else
    let off := s.get F.CODEC_REC_PTR_OFFSET_64B * 64
    if s.get F.CODEC_REC_SIZE_SIZE_64K * 65536 < off + pad64 l.length then s.put F.CODEC_REC_CTL_FULL 1
    else (s.requestWrite .recorder (s.get F.CODEC_REC_BASE_BASE * 256 + off) (l ++ List.replicate (pad64 l.length - l.length) 0)).put
      F.CODEC_REC_PTR_OFFSET_64B ((off + pad64 l.length) / 64)

/-- The half whose frame has a FRAME_SEQ; an incomplete one before a complete one. -/
def State.halfOfSeq (s : State) (seq : Word) : Option Bool :=
  let has (h : Bool) (c : Bool) : Bool := match s.half h with
    | some f => f.hdr.fseq == seq && f.complete == c
    | none => false
  if has false false then some false else if has true false then some true
  else if has false true then some false else if has true true then some true else none

/-- A back-plane stripe of a view whose mask was substituted (R69). -/
def State.lostView (s : State) (h : StripeHead) (seq : Word) : Bool :=
  backPlane h.plane &&
  match s.halfOfSeq seq with
  | some b => match s.half b with
    | some f => f.lost.contains h.view
    | none => false
  | none => false

/-- The accepted header of a FRAME_SEQ, waiting or in a half, and the regions that its stripes have taken. -/
def State.frameOfSeq (s : State) (seq : Word) : Option (FrameHeader × List StripeRegion) :=
  match s.codec.waiting with
  | some (f, _) => if f.fseq == seq then some (f, []) else ((s.halfOfSeq seq).bind s.half).map fun g => (g.hdr, g.taken)
  | none => ((s.halfOfSeq seq).bind s.half).map fun g => (g.hdr, g.taken)

/-- A header stripe of a FRAME_SEQ waits in the queue. -/
def State.headerQueued (s : State) (seq : Word) : Bool :=
  s.codec.queue.any fun q => stripeHcrc q.bytes && (StripeHead.ofBytes q.bytes).ty == 1 && bytesWord q.bytes 20 == seq

/-- A stripe of the queue will take a region for certain: a legal one of a front plane, or of a mask, of the frame. -/
def QStripe.claims (q : QStripe) (f : FrameHeader) (r : StripeRegion) : Bool :=
  let h := StripeHead.ofBytes q.bytes
  stripeHcrc q.bytes && !q.clip && h.fseq == f.fseq && !backPlane h.plane && !h.illegal f &&
  (h.plane == 5 || decide (h.bytes ≤ 4 * (f.vw * h.lines) + 16 * ((h.first + h.lines - 1) / 8 + 1 - h.first / 8) + 4)) &&
  h.region.meets r

/-- A plane stripe that arrives matches no header, accepted or queued, or repeats a region that an earlier stripe has taken or
will take for certain; what the queue leaves open is seen when a decoder takes the stripe (R174; DEDUCED, log 12). -/
def State.staleArrival (s : State) (h : StripeHead) : Bool :=
  h.ty == 0 &&
  match s.frameOfSeq h.fseq with
  | none => !s.headerQueued h.fseq
  | some (f, taken) => s.lostView h h.fseq ||
      (!h.illegal f && (taken.any (fun r => r.meets h.region) || s.codec.queue.any fun q => q.claims f h.region))

/-- STRIPE_ARRIVAL: a stripe from the link enters the queue and the recording, or is discarded. -/
def State.stripeArrives (s : State) (l : List Byte) : State :=
  if s.bit F.CODEC_SRC_SEL then s.staleStripe
  else if stripeHcrc l && s.staleArrival (StripeHead.ofBytes l) then s.staleStripe
  else if !s.queueRoom l.length then s.count F.CODEC_STRIPE_DROP_FULL
  else (s.enqueueStripe ⟨l, false, false, none⟩).record l

def execStripeArrival (bytes : List Byte) (s : State) : Host.Outcome State Fault Refusal := s.ifUp (·.stripeArrives bytes)

/-! ## Headers (R57–R61) -/

/-- ρ at a Q code, as binary32: one fused multiply-add (R61). -/
def rhoAt (off scl : Word) (q : Nat) : Nat :=
  binary32.pack (((binary32.val scl.toNat).mul (FVal.ofInt q 0)).add (binary32.val off.toNat))

/-- A binary32 pattern is finite. -/
def finite32 (x : Nat) : Bool := decide (x % binary32.signBit < binary32.inf)

/-- A binary32 pattern is zero or more; zero. -/
def geZero32 (x : Nat) : Bool := decide (x < binary32.signBit ∨ x = binary32.signBit) && decide (x ≤ binary32.inf ∨ x = binary32.signBit)
def isZero32 (x : Nat) : Bool := x % binary32.signBit == 0

/-- The view entries of a header. -/
def viewEntries (l : List Byte) (k : Nat) : List ViewEntry :=
  (List.range k).map fun v =>
    let w := (bytesWord l (32 + 8 * v)).toNat
    ⟨BitVec.ofNat 16 w, BitVec.ofNat 16 (w / 65536), (bytesWord l (36 + 8 * v)).toNat % 65536⟩

/-- The header that bytes spell (R57, R58). -/
def FrameHeader.ofBytes (l : List Byte) : FrameHeader :=
  let w (i : Nat) := (bytesWord l (4 * i)).toNat
  { fseq := bytesWord l 4, near := w 2 / 16 % 8, premul := w 2 / 128 % 2 == 1, mh := w 2 / 65536 % 64
    mv := w 2 / 2 ^ 22 % 64, w := w 3 % 1024 + 1, h := w 3 / 1024 % 512 + 1, base := w 4 % 65536
    shift := w 4 / 65536 % 8, pitch := w 4 / 2 ^ 19, dist := w 5 % 2 ^ 20, invOff := bytesWord l 24, invScl := bytesWord l 28
    views := viewEntries l (w 2 % 16 + 1) }

/-- The first check of R59 that a header of a payload fails; 0 where none does. `all` asks for checks 4 and 8 too. -/
def headerCause (l : List Byte) (gw gh : Nat) (all : Bool) : Nat :=
  let h := FrameHeader.ofBytes l
  let w (i : Nat) := (bytesWord l (4 * i)).toNat
  let k := w 2 % 16 + 1
  let r0 := rhoAt h.invOff h.invScl 0
  let r1 := rhoAt h.invOff h.invScl 65535
  if bytesWord l 0 ≠ 0x54445631 then 1
  else if l.length ≠ 36 + 8 * k ∨ bytesWord l (32 + 8 * k) ≠ crc32c (l.take (32 + 8 * k)) then 2
  else if k < 2 ∨ w 2 / 256 % 256 ≠ 0 ∨ w 2 / 2 ^ 28 ≠ 0 ∨ w 3 / 2 ^ 19 ≠ 0 ∨ w 5 / 2 ^ 20 ≠ 0 ∨
      ((List.range k).any fun v => decide (w (9 + 2 * v) / 65536 ≠ 0)) then 3
  else if all ∧ (h.w ≠ gw ∨ h.h ≠ gh) then 4
  else if h.vw % 8 ≠ 0 ∨ h.vh % 8 ≠ 0 then 5
  else if 4 < h.shift ∨ !finite32 h.invOff.toNat ∨ !finite32 h.invScl.toNat ∨ !geZero32 r0 ∨ !geZero32 r1 ∨
      (isZero32 r0 ∧ isZero32 r1) then 6
  else if h.pitch = 0 ∨ h.dist = 0 then 7
  else if all ∧ !h.fits then 8 else 0

/-- A clip's plane stripe that stands in the queue before the header that is taken now joins the last accepted one (R188). -/
def State.stamp1 (s : State) (q : QStripe) : QStripe :=
  if q.clip && q.seq.isNone && (StripeHead.ofBytes q.bytes).ty == 0 then { q with seq := s.codec.lastSeq } else q

/-- A stripe of the queue belongs to the frame of a header: by its own FRAME_SEQ, or a clip's by the one it joined. -/
def QStripe.belongs (q : QStripe) (f : FrameHeader) : Bool :=
  let h := StripeHead.ofBytes q.bytes
  stripeHcrc q.bytes && h.ty == 0 &&
  match q.seq with
  | some w => w == f.fseq
  | none => !q.clip && h.fseq == f.fseq

/-- A waiting header is replaced: its stripes leave the queue, cause 10 (R60). -/
def State.replaceWaiting (s : State) (n : Fin 32) : State :=
  match s.codec.waiting with
  | none => s
  | some (w, _) =>
    { s with codec := { s.codec with
      waiting := none
      queue := s.codec.queue.filter fun q => !q.belongs w } }.headerReject n 10

/-- A header stripe on lane `n` (R59, R60, R177, R188). The first header after reset has no earlier one to be older than
(DESIGN CHOICE, log 12). -/
def State.takeHeader (s : State) (n : Fin 32) (q : QStripe) : State :=
  let h := StripeHead.ofBytes q.bytes
  let l := stripePayload q.bytes
  if h.bad || h.bytes == 0 || h.plane != 0 || h.view != 0 || h.near != 0 || h.first != 0 || h.lines != 1 then s.stripeFail n 2 0 0
  else if !h.bitsOk then s.stripeFail n 3 0 0
  else if h.rcrc ≠ crc32c l then s.stripeFail n 4 0 0
  else
    let c := headerCause l s.gridW s.gridH true
    let f := FrameHeader.ofBytes l
    let f := match q.clip, s.codec.lastSeq with
      | true, some w => { f with fseq := w + 1 }
      | _, _ => f
    let old := match s.codec.lastSeq with
      | some w => !s.codec.anySeq && decide (sdiff f.fseq w ≤ 0)
      | none => false
    if c ≠ 0 then s.headerReject n c
    else if old then s.headerReject n 9
    else
      let t := s.replaceWaiting n
      { t with codec := { t.codec with lastSeq := some f.fseq, anySeq := false, waiting := some (f, q.alone) } }

/-! ## The store (R63–R65, R68) -/

/-- A component of a stored sample: colours, A6, D12 by plane. -/
def Sample.comp (x : Sample) (pl : Nat) : Nat :=
  match pl % 8 with
  | 0 => x.r
  | 1 => x.g
  | 2 => x.b
  | 3 => x.a6
  | _ => x.d12

/-- The sample with a component replaced. -/
def Sample.setComp (x : Sample) (pl v : Nat) : Sample :=
  match pl % 8 with
  | 0 => { x with r := v }
  | 1 => { x with g := v }
  | 2 => { x with b := v }
  | 3 => { x with a6 := v }
  | _ => { x with d12 := v }

/-- The stored value of a reconstructed sample: A6 of R64, D12 of R63, colour unchanged. -/
def FrameHeader.stored (h : FrameHeader) (pl x : Nat) : Nat :=
  match pl % 8 with
  | 3 => min 63 ((x + 2) / 4)
  | 4 =>
    let round : Int := if h.shift = 0 then 0 else 2 ^ (h.shift - 1)
    (max 0 (min 4095 (((x : Int) - h.base + round) / 2 ^ h.shift))).toNat
  | _ => x

/-- ref(): a stored value expanded again (R164). -/
def FrameHeader.expand (h : FrameHeader) (pl v : Nat) : Nat :=
  match pl % 8 with
  | 3 => v * 4 + v / 16
  | 4 => min 65535 (h.base + v * 2 ^ h.shift)
  | _ => v

/-- The address of a sample of a layer; none for a back sample of an uncovered block. -/
def State.sampleAddr (s : State) (h : FrameHeader) (half : Bool) (v pl i j : Nat) : Option Nat :=
  if backPlane pl then
    let e := s.mem.readNat (h.indexAddr half v (i / 8) (j / 8)) 2
    if e = 0xFFFF then none else some (h.poolAddr half e (i % 8) (j % 8))
  else some (h.frontAddr half v i j)

/-- The state with a component of a stored sample written. -/
def State.putComp (s : State) (h : FrameHeader) (half : Bool) (v pl i j x : Nat) : State :=
  match s.sampleAddr h half v pl i j with
  | none => s
  | some a => { s with mem := s.mem.writeNat a 6 ((Sample.ofNat (s.mem.readNat a 6)).setComp pl x).toNat }

/-- A component of a stored sample. -/
def State.comp (s : State) (h : FrameHeader) (half : Bool) (v pl i j : Nat) : Nat :=
  (s.viewSample h half v (backPlane pl) i j).comp pl

/-! ## References (R60, R71, R164–R166, R175, R179) -/

/-- The previous accepted frame of the frame in half `b`. -/
def State.prevFrame (s : State) (b : Bool) : Option HalfFrame :=
  match s.half b with
  | some f => if f.alone then none else s.half (!b)
  | none => none

/-- A previous frame may serve as a temporal reference (R71). -/
def sameMapping (a b : FrameHeader) : Bool :=
  a.k == b.k && a.mh == b.mh && a.mv == b.mv && a.base == b.base && a.shift == b.shift && a.invOff == b.invOff &&
  a.invScl == b.invScl &&
  (a.views.map fun v => (v.tanAz, v.tanEl)) == (b.views.map fun v => (v.tanAz, v.tanEl))

/-- A previous frame serves for substitution: it has the view and the same grid (R178). -/
def State.prevFor (s : State) (b : Bool) (v : Nat) (h : FrameHeader) : Option HalfFrame :=
  match s.prevFrame b with
  | some p => if v < p.hdr.k ∧ p.hdr.vw = h.vw ∧ p.hdr.vh = h.vh then some p else none
  | none => none

/-- The coverage of block (c, r) in a frame's mask of a view. -/
def HalfFrame.covered (f : HalfFrame) (v c r : Nat) : Bool := (assocGet [] v f.masks).getD (r * f.hdr.bw + c) false

/-- The covered block columns of block row `r` (R67). -/
def HalfFrame.rowBlocks (f : HalfFrame) (v r : Nat) : List Nat := (List.range f.hdr.bw).filter fun c => f.covered v c r

/-- dx or dy of the inter-view predictor: floor(f × A + 0.5), clamped; 0 for a NaN (R166). -/
def viewOffset (f a : Nat) : Int :=
  let x := binary32.floor (binary32.add (binary32.mul f a) (ratF32 1 2 0))
  (binary32.val x).toInt 0 (-64) 63

/-- Where the inter-view predictor of sample (i, j) of view `v` with co-located depth code reads in view v − 1 (R166). -/
def FrameHeader.viewRef (h : FrameHeader) (v i j d12 : Nat) : Nat × Nat :=
  let dp := ratF32 (h.dist * 1000 : Nat) h.pitch 0
  let ta (k : Nat) : Nat := ratF32 (((h.views[k]?).map fun x => x.tanAz.toInt).getD 0) 4096 0
  let te (k : Nat) : Nat := ratF32 (((h.views[k]?).map fun x => x.tanEl.toInt).getD 0) 4096 0
  let av := binary32.mul dp (binary32.sub (ta (v - 1)) (ta v))
  let bv := binary32.mul dp (binary32.sub (te v) (te (v - 1)))
  let f := binary32.add h.k0.toNat (binary32.mul h.k1.toNat (ratF32 (16 * d12 : Nat) 1 0))
  (clampTap (i + viewOffset f av) h.vw, clampTap (j + viewOffset f bv) h.vh)

/-- The code by which a decode says that it waits for a check (R176); every other error is a cause of R177. -/
def waits : Nat := 100

/-- A referenced line, for a stripe before which the regions `earlier` were taken: an order breach where it is in none of them,
read where it is decoded, awaited otherwise (R175). -/
def HalfFrame.lineState (f : HalfFrame) (earlier : List StripeRegion) (v pl j : Nat) : Except Nat Unit :=
  if !lineIn earlier v pl j then .error 7 else if lineIn f.done v pl j then .ok () else .error waits

/-- The temporal prediction of sample (i, j) (R165, R177, R179); outside the previous frame's grid a free value (DESIGN CHOICE,
log 12). -/
def State.temporal (s : State) (b : Bool) (f : HalfFrame) (v pl i j : Nat) : Except Nat Nat :=
  match s.prevFrame b with
  | none => .error 5
  | some p =>
    if !sameMapping p.hdr f.hdr then .error 5
    else if p.taint.contains (v, pl, j / 8) then .error 6
    else if p.hdr.vw ≤ i ∨ p.hdr.vh ≤ j then .ok ((Config.offGrid v pl i j).toNat % 2 ^ planeBits pl)
    else if backPlane pl && !p.covered v (i / 8) (j / 8) then .ok (2 ^ (planeBits pl - 1))
    else .ok (p.hdr.expand pl (s.comp p.hdr (!b) v pl i j))

/-- A region of the view and plane. -/
def StripeRegion.isOf (r : StripeRegion) (v pl : Nat) : Bool := r.view == v && r.plane == pl

/-- A region touches the block row of a line. -/
def StripeRegion.inRow (r : StripeRegion) (j : Nat) : Bool :=
  decide (r.first / 8 ≤ j / 8 ∧ j / 8 ≤ (r.first + r.lines - 1) / 8)

/-- The inter-view prediction of sample (i, j) of a stripe before which the regions `earlier` were taken (R166, R175, R179).
Only those count, and what they taint is known once they are all checked (DEDUCED, log 12). -/
def State.interView (s : State) (b : Bool) (f : HalfFrame) (earlier : List StripeRegion) (v pl i j : Nat) : Except Nat Nat :=
  match f.lineState earlier v 4 j with
  | .error e => .error e
  | .ok _ =>
    let used := earlier.filter fun r => r.isOf (v - 1) pl || (r.isOf v 4 && r.inRow j)
    if used.any fun r => !f.done.contains r then .error waits
    else if used.any f.subst.contains then .error 6
    else
      let (x, y) := f.hdr.viewRef v i j (s.comp f.hdr b v 4 i j)
      if lineIn earlier (v - 1) pl y then .ok (f.hdr.expand pl (s.comp f.hdr b (v - 1) pl x y)) else .error 7

/-- The predictors allowed in a stripe (R168). -/
def StripeHead.allowed (h : StripeHead) (k : Nat) : Bool :=
  if k = 1 then decide (h.plane ≤ 3) && h.view != 0 && !h.noI else if k = 2 then !h.noT else true

/-! ## Frames (R25, R69, R70, R178) -/

/-- A frame of a half, changed. -/
def State.onHalf (s : State) (b : Bool) (g : HalfFrame → HalfFrame) : State := s.setHalf b ((s.half b).map g)

/-- The index of view `v` written from its mask: pool numbers in raster order, 0xFFFF elsewhere (R68). -/
def State.writeIndex (s : State) (b : Bool) (h : FrameHeader) (v : Nat) (mask : List Bool) : State :=
  ((List.range (h.bw * h.bh)).foldl (fun (t : State × Nat) i =>
    let a := h.indexAddr b v (i % h.bw) (i / h.bw)
    if mask.getD i false then ({ t.1 with mem := t.1.mem.writeNat a 2 t.2 }, t.2 + 1)
    else ({ t.1 with mem := t.1.mem.writeNat a 2 0xFFFF }, t.2)) (s, h.poolFirst v)).1

/-- FRAME_DECODE_START: the waiting header takes a free half (R25), in which no block is covered yet. -/
def State.startDecode (s : State) : State :=
  match s.codec.waiting, s.freeHalf with
  | some (h, first), some b =>
    let alone := first || s.codec.started != some (!b) || (s.half (!b)).isNone
    let t := s.setHalf b (some ⟨h, false, alone, [], [], [], [], [], []⟩)
    let t := { t with codec := { t.codec with waiting := none, started := some b } }
    (List.range h.k).foldl (fun t v => t.writeIndex b h v []) t
  | _, _ => s

def execFrameDecodeStart (s : State) : Host.Outcome State Fault Refusal := s.ifUp State.startDecode

/-- Every stripe of the frame has been decoded or substituted (R70). -/
def HalfFrame.allDone (f : HalfFrame) : Bool :=
  (List.range f.hdr.k).all fun v =>
    ([0, 1, 2, 3, 4].all fun pl => (List.range f.hdr.vh).all fun j => lineIn f.done v pl j) &&
    (f.hdr.backBlocks v == 0 || (lineIn f.done v 5 0 && (f.lost.contains v ||
      (List.range f.hdr.bh).all fun r => (f.rowBlocks v r).isEmpty ||
        [8, 9, 10, 11, 12].all fun pl => lineIn f.done v pl (8 * r))))

/-- The decode of the frame in half `b` is complete where its last stripe was (R22, R23, R70, R72). -/
def State.checkComplete (s : State) (b : Bool) : State :=
  match s.half b with
  | none => s
  | some f =>
    if f.complete || !f.allDone then s
    else
      let used := (f.hdr.poolOff + 384 * (f.hdr.views.map (·.back)).sum + 63) / 64
      let t := s.onHalf b fun g => { g with complete := true }
      let t := { t with frm := { t.frm with reportDue := t.frm.reportDue ++ [f.hdr.fseq] } }
      (((t.setReg F.CODEC_TDV_FRAME_addr f.hdr.fseq).putB F.CODEC_TDV_HALF_HALF b).put F.CODEC_TDV_HALF_USED_64B used).selectContent

/-- The block rows that a region touches. -/
def StripeRegion.rows (r : StripeRegion) : List Nat :=
  (List.range ((r.first + r.lines - 1) / 8 + 1 - r.first / 8)).map (r.first / 8 + ·)

/-- The block rows of a region tainted in the frame of half `b` (R179). -/
def State.taintRows (s : State) (b : Bool) (keys : List (Nat × Nat × Nat)) : State :=
  let t := s.onHalf b fun f => { f with taint := f.taint ++ keys.filter fun k => !f.taint.contains k }
  t.setTaint (t.codec.taint ++ keys.filter fun k => !t.codec.taint.contains k)

/-- A stripe decoded without failure ends the taint of its block rows, unless another stripe of the frame there was
substituted (R179; the exception DEDUCED, log 12). -/
def State.cleanRows (s : State) (b : Bool) (keys : List (Nat × Nat × Nat)) : State :=
  let own := match s.half b with
    | some f => f.taint
    | none => []
  s.setTaint (s.codec.taint.filter fun k => !keys.contains k || own.contains k)

/-- A region of a frame is decoded or substituted. -/
def State.regionDone (s : State) (b : Bool) (r : StripeRegion) : State :=
  (s.onHalf b fun f => { f with done := r :: f.done }).checkComplete b

/-- The samples of a region's lines of a front plane, or of a block row's covered blocks of a back plane, filled from the
previous frame, with zeros where it cannot serve (R178). -/
def State.fillRegion (s : State) (b : Bool) (f : HalfFrame) (r : StripeRegion) : State :=
  let prev := s.prevFor b r.view f.hdr
  let value (t : State) (i j : Nat) : Nat := match prev with
    | none => 0
    | some p => if backPlane r.plane && !p.covered r.view (i / 8) (j / 8) then 0 else t.comp p.hdr (!b) r.view r.plane i j
  (List.range r.lines).foldl (fun t dj => (List.range f.hdr.vw).foldl (fun t i =>
    t.putComp f.hdr b r.view r.plane i (r.first + dj) (value t i (r.first + dj))) t) s

/-- A corrupt stripe of lane `n` is substituted (R178). -/
def State.substitute (s : State) (n : Fin 32) (b : Bool) (f : HalfFrame) (h : StripeHead) (cause : Nat) : State :=
  let keys := h.region.rows.map fun r => (h.view, h.plane, r)
  let t := (s.fillRegion b f h.region).taintRows b keys
  let t := t.onHalf b fun g => { g with subst := h.region :: g.subst }
  (t.stripeFail n cause h.view h.plane).regionDone b h.region

/-! ## Masks (R66, R67, R69) -/

/-- The blocks that mask bytes mark. -/
def maskBits (h : FrameHeader) (l : List Byte) : List Bool :=
  (List.range (h.bw * h.bh)).map fun i =>
    let c := i % h.bw
    let r := i / h.bw
    (l.getD (r * ((h.bw + 7) / 8) + c / 8) 0).getLsbD (c % 8)

/-- The numbers of marked blocks. -/
def marked (l : List Bool) : List Nat := (List.range l.length).filter fun i => l.getD i false

/-- The substituted mask of view `v`: the previous frame's first BACK_BLOCKS covered blocks (R69). -/
def State.substMask (s : State) (b : Bool) (f : HalfFrame) (v : Nat) : List Nat :=
  match s.prevFor b v f.hdr with
  | none => []
  | some p => (marked (assocGet [] v p.masks)).take (f.hdr.backBlocks v)

/-- A mask in force: recorded, its index written, regions of back planes that were substituted before it filled. -/
def State.useMask (s : State) (b : Bool) (f : HalfFrame) (v : Nat) (mask : List Bool) : State :=
  let t := s.onHalf b fun g => { g with masks := assocSet [] v mask g.masks }
  let t := t.writeIndex b f.hdr v mask
  let g := (t.half b).getD f
  (f.done.filter fun r => r.view == v && backPlane r.plane).foldl (fun t r => t.fillRegion b g r) t

/-- A mask stripe of lane `n` for the frame in half `b`. -/
def State.decodeMask (s : State) (n : Fin 32) (b : Bool) (f : HalfFrame) (h : StripeHead) (l : List Byte) : State :=
  let bits := maskBits f.hdr l
  let cause := if !h.bitsOk then 3 else if h.rcrc ≠ crc32c l then 4
    else if (marked bits).length ≠ f.hdr.backBlocks h.view then 8 else 0
  if cause = 0 then ((s.useMask b f h.view bits).cleanRows b [(h.view, 5, 0)]).regionDone b h.region
  else
    let keep := s.substMask b f h.view
    let mask := (List.range (f.hdr.bw * f.hdr.bh)).map fun i => keep.contains i
    let t := s.useMask b f h.view mask
    let g := (t.half b).getD f
    let t := [8, 9, 10, 11, 12].foldl (fun t pl => t.fillRegion b g ⟨h.view, pl, 0, f.hdr.vh⟩) t
    let keys := (h.view, 5, 0) :: [8, 9, 10, 11, 12].flatMap fun pl => (List.range f.hdr.bh).map fun r => (h.view, pl, r)
    let t := (t.onHalf b fun g => { g with lost := h.view :: g.lost, subst := h.region :: g.subst }).taintRows b keys
    (t.stripeFail n cause h.view 5).regionDone b h.region

/-! ## Decoding a plane stripe (R160, R161, R175–R177) -/

/-- The images of a plane stripe: blocks across, lines, first line, and the block columns. -/
def StripeHead.images (h : StripeHead) (f : HalfFrame) : List (Nat × Nat × Nat × List Nat) :=
  if backPlane h.plane then
    ((List.range (h.lines / 8)).map fun k =>
      let r := h.first / 8 + k
      let cols := f.rowBlocks h.view r
      (cols.length, 8, 8 * r, cols)).filter fun x => x.1 != 0
  else [(f.hdr.bw, h.lines, h.first, List.range f.hdr.bw)]

/-- Samples of an image list. -/
def imageSamples (l : List (Nat × Nat × Nat × List Nat)) : Nat := (l.map fun x => 8 * x.1 * x.2.1).sum

/-- PAYLOAD_BYTES passes the limit 4 × samples + 16 × block rows + 4 (R177 cause 2). -/
def StripeHead.tooLong (h : StripeHead) (f : HalfFrame) : Bool :=
  decide (4 * imageSamples (h.images f) + 16 * h.region.rows.length + 4 < h.bytes)

/-- The key-view position of sample `x` of line `y` of an image. -/
def imagePos (img : Nat × Nat × Nat × List Nat) (x y : Nat) : Nat × Nat :=
  (8 * img.2.2.2.getD (x / 8) 0 + x % 8, img.2.2.1 + y)

/-- Samples as the bytes that RCRC covers (R159). -/
def sampleBytes (l : List (List (Array Nat))) : List Byte :=
  l.flatMap fun img => img.flatMap fun row => row.toList.flatMap fun v => bytesOfNat 2 v

/-- What the payload of a plane stripe decodes to, or why it does not (R161–R177). -/
def State.decodeSamples (s : State) (b : Bool) (f : HalfFrame) (earlier : List StripeRegion) (h : StripeHead) (l : List Byte) :
    Except Nat (List (List (Array Nat))) :=
  let imgs := h.images f
  let par : CodePar := ⟨planeBits h.plane, h.near⟩
  let pred (m k x y : Nat) : Except Nat Nat :=
    let (i, j) := imagePos (imgs.getD m (0, 0, 0, [])) x y
    if k = 2 then s.temporal b f h.view h.plane i j else s.interView b f earlier h.view h.plane i j
  if !h.bitsOk then .error 3
  else
    match par.readImages h.allowed pred (imgs.map fun x => (x.1, x.2.1, x.2.2.1)) 0 par.start ((bitsOf l).take h.bits) with
    | .error e => .error e
    | .ok (out, rest) =>
      if !rest.isEmpty then .error 3 else if crc32c (sampleBytes out) ≠ h.rcrc then .error 4 else .ok out

/-- Decoded samples written to the store. -/
def State.writeSamples (s : State) (b : Bool) (f : HalfFrame) (h : StripeHead) (out : List (List (Array Nat))) : State :=
  ((h.images f).zip out).foldl (fun t z => (z.2.zipIdx).foldl (fun t row => (row.1.toList.zipIdx).foldl (fun t v =>
    let (i, j) := imagePos z.1 v.2 row.2
    t.putComp f.hdr b h.view h.plane i j (f.hdr.stored h.plane v.1)) t) t) s

/-- Lane `n` without a held stripe; with one held, and the regions that earlier stripes of its frame had taken. -/
def State.freeLane (s : State) (n : Fin 32) : State := s.onLane n fun l => { l with stripe := none, earlier := [] }
def State.hold (s : State) (n : Fin 32) (q : QStripe) (earlier : List StripeRegion) : State :=
  s.onLane n fun l => { l with stripe := some q, earlier := earlier }

/-- A stripe dropped after all takes no lines: no stripe held counts its region as earlier (R174). -/
def State.untake (s : State) (b : Bool) (r : StripeRegion) : State :=
  let t := s.onHalf b fun g => { g with taken := g.taken.erase r }
  { t with codec := { t.codec with lanes := t.codec.lanes.map fun l =>
    match l.stripe with
    | some q => if (q.seq == (t.half b).map (·.hdr.fseq)) then { l with earlier := l.earlier.erase r } else l
    | none => l } }

/-- Lane `n` has coded or decoded samples, as its rate monitor counts them (R32). -/
def State.countSamples (s : State) (n : Fin 32) (k : Nat) : State := s.countOps (Fin.ofNat 83 (48 + n)) k

/-- A stripe that has taken its region, with the regions taken before it, decodes on lane `n`, or stays suspended there until a
check is made (R176). -/
def State.decodeStripe (s : State) (n : Fin 32) (b : Bool) (f : HalfFrame) (q : QStripe) (earlier : List StripeRegion) : State :=
  let h := StripeHead.ofBytes q.bytes
  let l := stripePayload q.bytes
  let s := s.freeLane n
  if h.plane = 5 then s.decodeMask n b f h l
  else
    match (if backPlane h.plane && f.hdr.backBlocks h.view != 0 then f.lineState earlier h.view 5 0 else .ok ()) with
    | .error e => if e = waits then s.hold n q earlier else s.substitute n b f h e
    | .ok _ =>
      if backPlane h.plane && f.lost.contains h.view then s.staleStripe
      else if h.tooLong f then (s.untake b h.region).stripeFail n 2 h.view h.plane
      else
        match s.decodeSamples b f earlier h l with
        | .error e => if e = waits then s.hold n q earlier else s.substitute n b f h e
        | .ok out =>
          let keys := h.region.rows.map fun r => (h.view, h.plane, r)
          (((s.writeSamples b f h out).countSamples n (imageSamples (h.images f))).cleanRows b keys).regionDone b h.region

/-- The FRAME_SEQ that a plane stripe joins: its own, or a clip's the one it has joined, else the last accepted header's (R188). -/
def State.joins (s : State) (q : QStripe) : Word :=
  match q.seq with
  | some w => w
  | none => if q.clip then s.codec.lastSeq.getD 0 else (StripeHead.ofBytes q.bytes).fseq

/-- A plane stripe of the frame whose header waits for a half stays in the queue. -/
def State.mustWait (s : State) (q : QStripe) : Bool :=
  stripeHcrc q.bytes && (StripeHead.ofBytes q.bytes).ty == 0 &&
  match s.codec.waiting with
  | some (f, _) => f.fseq == s.joins q
  | none => false

/-- A plane stripe on lane `n`: unmatched, illegal or repeated, or it takes its region and decodes, or is suspended (R174,
R177). -/
def State.takePlane (s : State) (n : Fin 32) (q : QStripe) (stall : Bool) : State :=
  let h := StripeHead.ofBytes q.bytes
  let q := { q with seq := some (s.joins q) }
  match s.halfOfSeq (s.joins q) with
  | none => s.staleStripe
  | some b =>
    match s.half b with
    | none => s.staleStripe
    | some f =>
      if backPlane h.plane && f.lost.contains h.view then s.staleStripe
      else if h.illegal f.hdr then s.stripeFail n 2 h.view h.plane
      else if f.taken.any fun r => r.meets h.region then s.staleStripe
      else
        let t := s.onHalf b fun g => { g with taken := h.region :: g.taken }
        if stall then t.hold n q f.taken else t.decodeStripe n b { f with taken := h.region :: f.taken } q f.taken

/-- STRIPE_DECODE on lane `n`: the first stripe of the queue that need not wait (R161, R174). -/
def State.stripeDecode (s : State) (n : Fin 32) (stall : Bool) : State :=
  match s.codec.queue.findIdx? fun q => !s.mustWait q with
  | none => s
  | some i =>
    match s.codec.queue[i]? with
    | none => s
    | some q =>
      let h := StripeHead.ofBytes q.bytes
      let before := s.codec.queue.take i
      let before := if stripeHcrc q.bytes && h.ty == 1 then before.map s.stamp1 else before
      let s := { s with codec := { s.codec with queue := before ++ s.codec.queue.drop (i + 1) } }
      if !stripeHcrc q.bytes then s.stripeFail n 1 (if h.ty = 1 then 0 else h.view) (if h.ty = 1 then 0 else h.plane)
      else if h.ty = 1 then s.takeHeader n q
      else if h.ty ≠ 0 then s.stripeFail n 2 h.view h.plane
      else s.takePlane n q stall

/-- Lane `n` is a stream decoder without a stripe. -/
def State.decoderFree (s : State) (n : Fin 32) : Bool :=
  s.codec.lanes[n].mode == 1 && s.codec.lanes[n].stripe.isNone

def execStripeDecode (n : Fin 32) (stall : Bool) (s : State) : Host.Outcome State Fault Refusal :=
  s.ifUp fun s => s.when (s.decoderFree n) (·.stripeDecode n stall)

/-- A suspended decode goes on. -/
def State.resumeDecode (s : State) (n : Fin 32) : State :=
  match s.codec.lanes[n].stripe with
  | none => s
  | some q =>
    match s.halfOfSeq (s.joins q) with
    | none => s.freeLane n
    | some b => match s.half b with
      | none => s.freeLane n
      | some f => s.decodeStripe n b f q s.codec.lanes[n].earlier

def execDecoderResume (n : Fin 32) (s : State) : Host.Outcome State Fault Refusal := s.ifUp (·.resumeDecode n)

/-! ## Lanes and registers (R154, R72, R186, R188, R189) -/

/-- A job has begun: its descriptor is latched, or it has ended. -/
def CodecJob.begun (j : CodecJob) : Bool := !j.words.isEmpty || j.ended || j.blocked

/-- A job of lane `n` is in progress. -/
def State.inJob (s : State) (n : Fin 32) : Bool := (s.codec.lanes[n].jobs.head?.map CodecJob.begun).getD false

/-- LANE_MODE_APPLY: a changed MODE takes effect on a lane that has finished its stripe or job; the jobs that it has not begun
stay queued until it is a job lane again (R154; DEDUCED, log 12). -/
def State.applyMode (s : State) (n : Fin 32) : State :=
  s.when (s.codec.lanes[n].stripe.isNone && !s.inJob n) fun s =>
    s.onLane n fun l => { l with mode := BitVec.ofNat 2 (s.get (F.CODEC_LANE_CFG_MODE n)) }

def execLaneModeApply (n : Fin 32) (s : State) : Host.Outcome State Fault Refusal := s.ifUp (·.applyMode n)

/-- A half without an incomplete frame (R188). -/
def State.abandon (s : State) (b : Bool) : State :=
  match s.half b with
  | none => s
  | some f =>
    if f.complete then s
    else
      let t := s.setHalf b none
      { t with codec := { t.codec with started := if t.codec.started = some b then none else t.codec.started } }

/-- A write of CODEC_SRC.SEL: the queue is discarded, incomplete frames are abandoned (R188). -/
def State.srcSelect (s : State) (sel : Bool) : State :=
  let t := ((s.putB F.CODEC_SRC_SEL sel).abandon false).abandon true
  { t with codec := { t.codec with
    queue := []
    waiting := none
    anySeq := true
    lanes := t.codec.lanes.map fun l => { l with stripe := none, earlier := [] } } }

def execCodecSrcSelect (sel : Bool) (s : State) : Host.Outcome State Fault Refusal := s.ifUp (·.srcSelect sel)

/-- CODEC_STRIPE_ERR.CLR (R186). -/
def State.stripeClr (s : State) : State := (s.setReg F.CODEC_STRIPE_ERR_addr 0).setReg F.CODEC_STRIPE_DROP_addr 0

def execCodecStripeClr (s : State) : Host.Outcome State Fault Refusal := s.ifUp State.stripeClr

/-- CODEC_TDV_REJECT.CLR (R72). -/
def State.rejectClr (s : State) : State := s.setReg F.CODEC_TDV_REJECT_addr 0

def execTdvRejectClr (s : State) : Host.Outcome State Fault Refusal := s.ifUp State.rejectClr

/-- CODEC_REC_CTL.EN written 1: recording starts again at offset 0 (R186, R189). -/
def State.recEnable (s : State) : State :=
  ((s.put F.CODEC_REC_CTL_EN 1).put F.CODEC_REC_CTL_FULL 0).put F.CODEC_REC_PTR_OFFSET_64B 0

def execRecEnable (s : State) : Host.Outcome State Fault Refusal := s.ifUp State.recEnable

end Sys2Proof.Machine
end

