-- ==== Sys2Proof/Machine/CodecJobs.lean ====
section
/-! DEFINITION. The jobs of codec lanes: encode plane, encode header, play clip (R180–R185, R187). -/

namespace Sys2Proof.Machine

/-! ## Descriptors and frame contexts (R180, R182) -/

/-- A codec job descriptor. -/
structure JobDesc where
  kind   : Nat
  lane   : Nat
  any    : Bool
  notify : Bool
  stop   : Bool
  noT    : Bool
  noI    : Bool
  first  : Bool
  toLink : Bool
  view   : Nat
  plane  : Nat
  line   : Nat
  lines  : Nat
  stripe : Nat
  /-- A reserved bit is set. -/
  extra  : Bool
  src    : Nat
  pitch  : Nat
  dst    : Nat
  len    : Nat
  ctx    : Nat
deriving DecidableEq, Repr

/-- The descriptor in eight words. -/
def JobDesc.ofWords (l : List Word) : JobDesc :=
  let w (i : Nat) := (l.getD i 0).toNat
  { kind := w 0 % 4, lane := w 0 / 4 % 32, any := (w 0).testBit 7, notify := (w 0).testBit 8, stop := (w 0).testBit 9
    noT := (w 0).testBit 10, noI := (w 0).testBit 11, first := (w 0).testBit 12, toLink := (w 0).testBit 13
    view := w 0 / 2 ^ 14 % 16, plane := w 0 / 2 ^ 18 % 16, line := w 1 % 1024, lines := w 1 / 1024 % 1024 + 1
    stripe := w 1 / 2 ^ 20 % 64 + 1, extra := w 0 / 2 ^ 22 != 0 || w 1 / 2 ^ 26 != 0, src := w 2 + 2 ^ 32 * (w 3 % 256)
    pitch := w 3 / 256, dst := w 4 + 2 ^ 32 * (w 5 % 256), len := w 5 / 256, ctx := w 6 }

/-- The descriptor that memory holds at an address. -/
def State.descWords (s : State) (a : Nat) : List Word := (List.range 8).map fun i => s.word (a + 4 * i)

/-- The descriptor of a job: as latched when it started. -/
def State.jobDesc (s : State) (j : CodecJob) : JobDesc :=
  JobDesc.ofWords (if j.words.isEmpty then s.descWords j.desc else j.words)

/-- A frame context. -/
structure EncodeCtx where
  header : Nat
  recon  : Nat
  prev   : Nat
  masks  : Nat
deriving DecidableEq, Repr

/-- The frame context at an address. -/
def State.encodeCtx (s : State) (a : Nat) : EncodeCtx :=
  let w (i : Nat) := (s.word (a + 4 * i)).toNat
  ⟨w 0, w 1 + 2 ^ 32 * (w 2 % 256), w 3 + 2 ^ 32 * (w 4 % 256), w 5⟩

/-- The frame header at an on-chip address: its bytes, 36 + 8K of them. -/
def State.headerBytes (s : State) (a : Nat) : List Byte := s.mem.readBytes a (36 + 8 * ((s.word (a + 8)).toNat % 16 + 1))

/-- RP. -/
def FrameHeader.rp (h : FrameHeader) : Nat := (2 * h.vw + 63) / 64 * 64

/-- The slot of a plane in a reconstruction set. -/
def planeSlot (p : Nat) : Nat := if p < 8 then p else p - 3

/-- The address of line `j` of a view's plane in a reconstruction set. -/
def FrameHeader.setLine (h : FrameHeader) (set v p j : Nat) : Nat :=
  set + (10 * v + planeSlot p) * h.vh * h.rp + j * h.rp

/-- Bytes of a reconstruction set. -/
def FrameHeader.setSize (h : FrameHeader) : Nat := 10 * h.k * h.vh * h.rp

/-! ## The front job of a lane -/

/-- The front job of lane `n`. -/
def State.frontJob (s : State) (n : Fin 32) : Option CodecJob := s.codec.lanes[n].jobs.head?

/-- The front job of lane `n` changed. -/
def State.onJob (s : State) (n : Fin 32) (f : CodecJob → CodecJob) : State :=
  s.onLane n fun l => { l with jobs := match l.jobs with
    | j :: t => f j :: t
    | [] => [] }

/-- The front job of lane `n` latches its descriptor when it begins (R187). -/
def State.latchJob (s : State) (n : Fin 32) : State :=
  s.onJob n fun j => { j with words := if j.words.isEmpty then s.descWords j.desc else j.words }

/-- The job has met an error that ends it (R185). -/
def State.jobFails (s : State) (n : Fin 32) (cause : Nat) : State :=
  s.onJob n fun j => { j with cause := cause, ended := true }

/-- The job has met the output limit: it ends with STOP_ON_ERR, else the stripe is skipped and event 3 raised (R185). -/
def State.jobLimit (s : State) (n : Fin 32) (d : JobDesc) : State :=
  if d.stop then s.jobFails n 3 else (s.onJob n fun j => { j with cause := 3 }).raise (srcLane n 3)

/-- The transmit entry of a link stream. -/
def State.txEntry (s : State) (stream : Nat) : Option (Fin 64) :=
  (List.finRange 64).find? fun k => s.bit (F.ZL_TXS_EN k) && s.get (F.ZL_TXS_STREAM k) == stream

/-- An encode job's destination is illegal (R180): a length of 0, or no transmit entry of the named stream (log 12). -/
def State.badDest (s : State) (d : JobDesc) : Bool :=
  if d.toLink then decide (65536 ≤ d.dst) || (s.txEntry d.dst).isNone else d.len == 0

/-- The destination of an encode job lies outside memory. -/
def State.badRange (s : State) (d : JobDesc) : Bool := !d.toLink && !s.memRange d.dst d.len

/-- The job of lane `n` touches the DRAM while its controller does not serve the lane's requests: it waits. -/
def State.dramWaits (s : State) (n : Fin 32) (l : List Nat) : Bool :=
  !s.dramGrants (.lane n) && l.any fun a => decide (dramBase ≤ a)

/-! ## Output (R157, R181, R184) -/

/-- The bytes of a stripe. -/
def stripeBytes (ty plane view near first lines : Nat) (fseq : Word) (flushed noT noI : Bool) (bits : Nat) (payload : List Byte)
    (rcrc : Word) : List Byte :=
  let w0 := ty + 16 * plane + 256 * view + 4096 * near + 65536 * first + 2 ^ 26 * (lines - 1)
  let w2 := payload.length + 2 ^ 24 * flushed.toNat + 2 ^ 25 * noT.toNat + 2 ^ 26 * noI.toNat
  let h := bytesOfNat 4 w0 ++ bytesOfNat 4 fseq.toNat ++ bytesOfNat 4 w2
  h ++ bytesOfNat 4 (crc32c h).toNat ++ payload ++ bytesOfNat 4 bits ++ bytesOfNat 4 rcrc.toNat

/-- A stripe goes to the link stream or to memory at the job's next output address, or breaks the output limit. -/
def State.putStripe (s : State) (n : Fin 32) (d : JobDesc) (out : Nat) (l : List Byte) (ecc : List EccHit) : State :=
  if d.toLink then
    match s.txEntry d.dst with
    | some k => { s with link := { s.link with tx := s.link.tx ++ [(k.val, l, false)] } }
    | none => s
  else if d.len < out + l.length then s.jobLimit n d
  else (s.writeAny (d.dst + out) l ecc).onJob n fun j => { j with out := j.out + l.length }

/-! ## Encoding a plane (R181–R183) -/

/-- The first error of an encode plane job: a cause of R185, 0 for none. -/
def State.encodeCause (s : State) (d : JobDesc) : Nat :=
  let c := s.encodeCtx d.ctx
  let l := s.headerBytes c.header
  let h := FrameHeader.ofBytes l
  let back := backPlane d.plane
  if d.kind = 3 ∨ d.extra ∨ s.badDest d ∨ d.plane = 6 ∨ d.plane = 7 ∨ 12 < d.plane then 1
  else if d.ctx % 64 ≠ 0 ∨ !onChip d.ctx 24 ∨ !onChip c.header 16 ∨ !onChip c.header l.length ∨ s.badRange d then 2
  else if headerCause l 0 0 false ≠ 0 then 4
  else if h.k ≤ d.view ∨ (if d.plane = 5 then d.line ≠ 0 ∨ d.lines ≠ 1
      else h.vh < d.line + d.lines ∨ (back ∧ (d.line % 8 ≠ 0 ∨ d.lines % 8 ≠ 0 ∨ d.stripe % 8 ≠ 0))) then 1
  else if (if d.plane = 5 then !s.memRange d.src h.maskBytes
      else !s.memRange d.src ((d.line + d.lines - 1) * d.pitch + 2 * h.vw) || !s.memRange c.recon h.setSize ||
        (c.prev != 0 && !s.memRange c.prev h.setSize)) ∨
      (back ∧ !onChip (c.masks + d.view * h.maskBytes) h.maskBytes) then 2
  else 0

/-- The 16-bit sample that an encoder gets at an address of on-chip memory or DRAM. -/
def State.sampleGot (s : State) (ecc : List EccHit) (a : Nat) : Nat :=
  natOfBytes [s.byteGot ecc a (s.byteAny a), s.byteGot ecc (a + 1) (s.byteAny (a + 1))]

/-- The stripe of an encode plane job that starts at its line `first`. -/
def JobDesc.head (d : JobDesc) (h : FrameHeader) (first lines : Nat) (flushed : Bool) : StripeHead :=
  { ty := 0, plane := d.plane, view := d.view, near := if d.plane = 5 then 0 else h.near, first := first, lines := lines
    fseq := h.fseq, bytes := 0, flushed := flushed, noT := d.noT, noI := d.noI, bad := false, bits := 0, rcrc := 0 }

/-- What an encoder reads of a reconstruction set: a sample as the encoder's memory gives it. -/
abbrev SampleAt := Nat → Nat

/-- ref() of a sample of a reconstruction set (R164). -/
def FrameHeader.setRef (h : FrameHeader) (get : SampleAt) (set v p i j : Nat) : Nat :=
  h.expand p (h.stored p (get (h.setLine set v p j + 2 * i)))

/-- All samples of the block of (i, j) are 0 in a reconstruction set. -/
def FrameHeader.zeroBlock (h : FrameHeader) (get : SampleAt) (set v p i j : Nat) : Bool :=
  (List.range 8).all fun b => (List.range 8).all fun a =>
    get (h.setLine set v p (j / 8 * 8 + b) + 2 * (i / 8 * 8 + a)) == 0

/-- The block of (i, j) of a back plane was not covered in the set: it holds zeros (R182), and by the coverage that the encoder
noted when it wrote the row, or, of a set that it did not write, by a free value for the block (DESIGN CHOICE, log 12). -/
def State.uncovered (s : State) (h : FrameHeader) (get : SampleAt) (set v p i j : Nat) : Bool :=
  h.zeroBlock get set v p i j &&
  match s.codec.covers.find? fun x => x.1 == h.setLine set v p (j / 8 * 8) with
  | some (_, l) => !l.getD (i / 8) false
  | none => (Config.freeWord (s.free + 1 + j / 8 * h.bw + i / 8)).getLsbD 0

/-- The predictions of an encoder (R164–R166). -/
def State.encodePred (s : State) (h : FrameHeader) (get : SampleAt) (c : EncodeCtx) (v p : Nat) (kind i j : Nat) : Nat :=
  if kind = 2 then
    if backPlane p && s.uncovered h get c.prev v p i j then 2 ^ (planeBits p - 1) else h.setRef get c.prev v p i j
  else
    let (x, y) := h.viewRef v i j (h.stored 4 (get (h.setLine c.recon v 4 j + 2 * i)))
    h.setRef get c.recon (v - 1) p x y

/-- A source sample. One past the plane's range is a free value (DESIGN CHOICE, log 12). -/
def JobDesc.source (d : JobDesc) (get : SampleAt) (free i j : Nat) : Nat :=
  let x := get (d.src + j * d.pitch + 2 * i)
  if x < 2 ^ planeBits d.plane then x else free % 2 ^ planeBits d.plane

/-- The coverage of a stripe's block rows noted for the set that they are written to (R165). -/
def State.noteCover (s : State) (h : FrameHeader) (set : Nat) (sh : StripeHead) (imgs : List (Nat × Nat × Nat × List Nat)) : State :=
  { s with codec := { s.codec with covers := sh.region.rows.foldl (fun l r =>
    let cols := (imgs.filter fun x => x.2.2.1 == 8 * r).flatMap fun x => x.2.2.2
    let a := h.setLine set sh.view sh.plane (8 * r)
    (a, (List.range h.bw).map cols.contains) :: l.filter fun x => x.1 != a) s.codec.covers } }

/-- The reconstruction of a stripe's lines written to RECON, with 0 in uncovered blocks (R182). -/
def State.writeRecon (s : State) (h : FrameHeader) (set : Nat) (sh : StripeHead) (imgs : List (Nat × Nat × Nat × List Nat))
    (out : List (List (Array Nat))) : State :=
  let s := if backPlane sh.plane then s.noteCover h set sh imgs else s
  let t := (List.range sh.lines).foldl (fun t dj =>
    t.writeAny (h.setLine set sh.view sh.plane (sh.first + dj)) (List.replicate (2 * h.vw) 0)) s
  (imgs.zip out).foldl (fun t z => (z.2.zipIdx).foldl (fun t row => (row.1.toList.zipIdx).foldl (fun t v =>
    let (i, j) := imagePos z.1 v.2 row.2
    t.writeAny (h.setLine set sh.view sh.plane j + 2 * i) (bytesOfNat 2 v.1)) t) t) t

/-- One stripe of `lines` lines coded from the job's next line and put out (R181). A stripe without covered blocks puts
nothing out. -/
def State.encodeStripe (s : State) (n : Fin 32) (d : JobDesc) (first lines out : Nat) (flushed : Bool) (ecc : List EccHit) : State :=
  let c := s.encodeCtx d.ctx
  let h := FrameHeader.ofBytes (s.headerBytes c.header)
  let sh := d.head h first lines flushed
  if d.plane = 5 then
    let (l, t) := s.readAny d.src h.maskBytes ecc
    (t.putStripe n d out (stripeBytes 0 5 d.view 0 0 1 h.fseq flushed d.noT d.noI (8 * l.length) l (crc32c l)) ecc).countSamples n
      l.length
  else
    let frame : HalfFrame :=
      ⟨h, false, false, [], [], [(d.view, maskBits h (s.mem.readBytes (c.masks + d.view * h.maskBytes) h.maskBytes))], [], [], []⟩
    let imgs := sh.images frame
    let temporal := !d.noT && c.prev != 0
    let allowed (k : Nat) : Bool := sh.allowed k && (k != 2 || temporal)
    let get := s.sampleGot ecc
    let par : CodePar := ⟨planeBits d.plane, h.near⟩
    let work := imgs.map fun img => (img.1, img.2.2.1, (List.range img.2.1).map fun y =>
      ((List.range (8 * img.1)).map fun x =>
        let (i, j) := imagePos img x y
        d.source get (Config.freeWord s.free).toNat i j).toArray)
    let pred (m k x y : Nat) : Nat :=
      let (i, j) := imagePos (imgs.getD m (0, 0, 0, [])) x y
      s.encodePred h get c d.view d.plane k i j
    let (recon, bits) := par.writeImages allowed pred work 0 par.start
    let payload := packBits (bits.length / 8 + 1) bits
    let t := s.readRanges ((List.range lines).flatMap fun dj =>
      (d.src + (first + dj) * d.pitch, 2 * h.vw) ::
        ((if temporal then [(h.setLine c.prev d.view d.plane (first + dj), 2 * h.vw)] else []) ++
         (if allowed 1 then [(h.setLine c.recon d.view 4 (first + dj), 2 * h.vw)] else []))) ecc
    let t := ({ t with free := t.free + 1 + h.bw * h.bh }.writeRecon h c.recon sh imgs recon).countSamples n (imageSamples imgs)
    if imgs.isEmpty then t
    else t.putStripe n d out (stripeBytes 0 d.plane d.view h.near first lines h.fseq flushed d.noT d.noI bits.length payload
      (crc32c (sampleBytes recon))) ecc

/-- The next stripe of the encode plane job at the front of lane `n`: whole, or cut short after `cut` lines by a flush. -/
def State.encodeStep (s : State) (n : Fin 32) (j : CodecJob) (cut : Option Nat) (ecc : List EccHit) : State :=
  let d := s.jobDesc j
  let s := s.latchJob n
  let cause := s.encodeCause d
  if cause ≠ 0 then s.jobFails n cause
  else if s.dramWaits n [d.src, (s.encodeCtx d.ctx).recon, (s.encodeCtx d.ctx).prev, if d.toLink then 0 else d.dst] then s
  else
    let left := d.lines - j.line
    let size := if d.plane = 5 then 1 else min d.stripe left
    let lines := match cut with
      | some k => min k size
      | none => size
    let t := s.encodeStripe n d (d.line + j.line) lines j.out cut.isSome ecc
    t.onJob n fun j => { j with line := j.line + lines, ended := j.ended || decide (d.lines ≤ j.line + lines) }

/-- The front job of job lane `n` where it is of a kind, has not ended and is not suspended; the reserved kind 3 ends as an encode
plane job, with cause 1. -/
def State.runningJob (s : State) (n : Fin 32) (kind : Nat) : Option CodecJob :=
  match s.frontJob n with
  | some j => if s.codec.lanes[n].mode = 2 ∧ kind = (if (s.jobDesc j).kind = 3 then 0 else (s.jobDesc j).kind) ∧ !j.ended ∧ !j.blocked then some j else none
  | none => none

/-- ENCODE_PLANE: a stripe is coded; with its output not accepted the encoder suspends (R184). While a FLUSH waits, FLUSH_APPLY
ends the stripe in its place (R183). -/
def State.encodePlane (s : State) (n : Fin 32) (blocked : Bool) (ecc : List EccHit) : State :=
  match s.runningJob n 0 with
  | none => s
  | some j =>
    if blocked then (s.latchJob n).onJob n fun j => { j with blocked := true }
    else if s.bit (F.CODEC_LANE_CFG_FLUSH n) then s
    else s.encodeStep n j none ecc

def execEncodePlane (n : Fin 32) (blocked : Bool) (ecc : List EccHit) (s : State) : Host.Outcome State Fault Refusal :=
  s.ifUp (·.encodePlane n blocked ecc)

/-- ENCODER_RESUME: the suspended encoder goes on (R184). -/
def State.resumeEncoder (s : State) (n : Fin 32) (ecc : List EccHit) : State :=
  match s.frontJob n with
  | none => s
  | some j => if j.blocked then (s.onJob n fun j => { j with blocked := false }).encodePlane n false ecc else s

def execEncoderResume (n : Fin 32) (ecc : List EccHit) (s : State) : Host.Outcome State Fault Refusal :=
  s.ifUp (·.resumeEncoder n ecc)

/-- An encode plane job is at the front of lane `n`, and has not ended: it has a line in progress. -/
def State.inLine (s : State) (n : Fin 32) : Bool :=
  match s.frontJob n with
  | some j => (s.jobDesc j).kind == 0 && !j.ended
  | none => false

/-- CODEC_LANE_CFG_n.FLUSH written 1: it waits on a job lane, and is ignored elsewhere; with no line in progress it applies after
the next line (R183). -/
def State.flush (s : State) (n : Fin 32) : State :=
  s.when (s.codec.lanes[n].mode == 2) fun s =>
    (s.put (F.CODEC_LANE_CFG_FLUSH n) 1).onLane n fun l => { l with fromNext := !s.inLine n }

def execFlush (n : Fin 32) (s : State) : Host.Outcome State Fault Refusal := s.ifUp (·.flush n)

/-- A flush may end the job's stripe after `lines` lines: whole block rows for back planes, a mask's one line, the next line where
none was in progress (R183). -/
def State.mayCut (s : State) (n : Fin 32) (j : CodecJob) (lines : Nat) : Bool :=
  let d := s.jobDesc j
  let one := if backPlane d.plane then 8 else 1
  d.kind == 0 && decide (0 < lines ∧ lines % one = 0 ∧ lines ≤ (if d.plane = 5 then 1 else min d.stripe (d.lines - j.line))) &&
  (!s.codec.lanes[n].fromNext || lines == one)

/-- FLUSH_APPLY: the stripe in progress ends after `lines` lines and is emitted with FLUSHED (R183). -/
def State.flushApply (s : State) (n : Fin 32) (lines : Nat) (ecc : List EccHit) : State :=
  match s.runningJob n 0 with
  | none => s
  | some j => s.when (s.bit (F.CODEC_LANE_CFG_FLUSH n) && s.mayCut n j lines) fun s =>
      ((s.put (F.CODEC_LANE_CFG_FLUSH n) 0).onLane n fun l => { l with fromNext := false }).encodeStep n j (some lines) ecc

def execFlushApply (n : Fin 32) (lines : Nat) (ecc : List EccHit) (s : State) : Host.Outcome State Fault Refusal :=
  s.ifUp (·.flushApply n lines ecc)

/-! ## Encoding a header (R181) -/

/-- The job's header stripe: 36 + 8K bytes from SRC. -/
def State.encodeHeader (s : State) (n : Fin 32) (ecc : List EccHit) : State :=
  match s.runningJob n 1 with
  | none => s
  | some j =>
    let d := s.jobDesc j
    let s := s.latchJob n
    if d.extra ∨ s.badDest d then s.jobFails n 1
    else if !s.memRange d.src 12 ∨ s.badRange d then s.jobFails n 2
    else if s.dramWaits n [d.src, if d.toLink then 0 else d.dst] then s
    else
      let k := (s.byteAny (d.src + 8)).toNat % 16 + 1
      if !s.memRange d.src (36 + 8 * k) then s.jobFails n 2
      else
        let (l, t) := s.readAny d.src (36 + 8 * k) ecc
        let t := t.putStripe n d j.out (stripeBytes 1 0 0 0 0 1 (bytesWord l 4) false d.noT d.noI (8 * l.length) l (crc32c l)) ecc
        (t.countSamples n l.length).onJob n fun j => { j with ended := true }

def execEncodeHeader (n : Fin 32) (ecc : List EccHit) (s : State) : Host.Outcome State Fault Refusal :=
  s.ifUp (·.encodeHeader n ecc)

/-! ## Playing a clip (R187) -/

/-- The next stripe of the clip enters the queue, where there is room; a malformed one, or one that runs past LEN, ends the
job with cause 5. -/
def State.playClip (s : State) (n : Fin 32) (ecc : List EccHit) : State :=
  match s.runningJob n 2 with
  | none => s
  | some j =>
    let d := s.jobDesc j
    let s := s.latchJob n
    if d.extra ∨ d.len = 0 then s.jobFails n 1
    else if d.src < dramBase ∨ !s.memRange d.src d.len then s.jobFails n 2
    else if !s.dramGrants (.lane n) then s
    else if d.len < j.line + 16 then s.jobFails n 5
    else
      let head := (s.dramRead (d.src + j.line) 16 ecc).1
      let size := (StripeHead.ofBytes head).bytes + 24
      if !stripeHcrc head ∨ d.len < j.line + size then ((s.dramRead (d.src + j.line) 16 ecc).2).jobFails n 5
      else if !s.queueRoom size then s
      else
        let (l, t) := s.dramRead (d.src + j.line) size ecc
        let header := (StripeHead.ofBytes head).ty == 1
        let t := t.enqueueStripe ⟨l, true, d.first && header && j.out == 0, none⟩
        t.onJob n fun j => { j with
          line := j.line + pad64 size, out := j.out + header.toNat, ended := decide (d.len ≤ j.line + pad64 size) }

def execPlayClip (n : Fin 32) (ecc : List EccHit) (s : State) : Host.Outcome State Fault Refusal := s.ifUp (·.playClip n ecc)

/-! ## The end of a job (R185) -/

/-- CODEC_JOB_DONE: STATUS is written, then event 3 of an error that ended the job, then event 2 with NOTIFY. -/
def State.codecJobDone (s : State) (n : Fin 32) : State :=
  match s.frontJob n with
  | none => s
  | some j => s.when j.ended fun s =>
      let d := s.jobDesc j
      let status := 1 + 2 * (decide (j.cause ≠ 0)).toNat + 4 * j.cause + 65536 * j.ticket.toNat
      let t := s.storeWord (j.desc + 28) (BitVec.ofNat 32 status)
      let t := t.onLane n fun l => { l with jobs := l.jobs.drop 1 }
      (t.raiseIf (j.cause != 0 && (j.cause != 3 || d.stop)) (srcLane n 3)).raiseIf d.notify (srcLane n 2)

def execCodecJobDone (n : Fin 32) (s : State) : Host.Outcome State Fault Refusal := s.ifUp (·.codecJobDone n)

end Sys2Proof.Machine
end

