-- ==== Sys2Proof/Machine/Racking.lean ====
section
/-! DEFINITION. The Racking engine (R304–R319): rings, descriptors and their checks, blends, VIEWSTAMP, and the Falerator 4
commands. The order of the components within RGBA8, RGB10A2 and RGBA16F is R, G, B, A from the least significant bits upward
(PRESUMED, log 16). -/

namespace Sys2Proof.Machine

/-! ## Rings (R304, R305, R307) -/

/-- The state with one ring changed; BUSY follows its queue. -/
def State.onRing (s : State) (r : Fin 4) (f : RackRing → RackRing) : State :=
  let x := f s.rack.rings[r]
  { s with rack := { s.rack with rings := s.rack.rings.set r x } }.putB (F.RACK_RING_CFG_BUSY r) (!x.queue.isEmpty)

/-- The ring is enabled. -/
def State.ringOn (s : State) (r : Fin 4) : Bool := s.bit (F.RACK_RING_CFG_EN r) && decide (2 ≤ s.get (F.RACK_RING_SIZE_N r))

/-- A commit: WPTR moves, unless it is N or more. -/
def State.rackCommit (s : State) (r : Fin 4) (value : Word) : State :=
  let w := value.toNat % 65536
  if w < s.get (F.RACK_RING_SIZE_N r) then s.put (F.RACK_RING_WPTR_WPTR r) w else s

def execRackCommit (r : Fin 4) (value : Word) (s : State) : Host.Outcome State Fault Refusal := s.ifUp (·.rackCommit r value)

/-- The ring index after `i`. -/
def State.ringNext (s : State) (r : Fin 4) (i : Nat) : Nat := if i + 1 < s.get (F.RACK_RING_SIZE_N r) then i + 1 else 0

/-- The engine latches the next committed descriptor while its queue of 16 has room; one that it reads with an uncorrectable
error stands in the queue without words, and is abandoned when its turn comes (R310). -/
def State.rackLatch (s : State) (r : Fin 4) (ecc : List EccHit) : State :=
  let i := s.get (F.RACK_RING_RPTR_RPTR r)
  let a := s.get (F.RACK_RING_BASE_BASE r) * 256 + 32 * i
  s.when (s.ringOn r && !s.bit (F.RACK_RING_CFG_STOPPED r) && i != s.get (F.RACK_RING_WPTR_WPTR r) &&
      decide (s.rack.rings[r].queue.length < 16) && s.dramGrants .racking) fun s =>
    let (l, t) := s.dramRead a 32 ecc
    let words := if s.eccBad a 32 ecc then [] else (List.range 8).map fun k => bytesWord l (4 * k)
    (t.onRing r fun x => { x with queue := x.queue ++ [(i, words)] }).put (F.RACK_RING_RPTR_RPTR r) (s.ringNext r i)

def execRackDescLatch (r : Fin 4) (ecc : List EccHit) (s : State) : Host.Outcome State Fault Refusal :=
  s.ifUp (·.rackLatch r ecc)

/-- The ring from which the engine takes its next descriptor: rotating among those with latched work. -/
def State.rackTurn (s : State) : Option (Fin 4) :=
  [1, 2, 3, 4].findSome? fun d =>
    let r : Fin 4 := Fin.ofNat 4 (s.rack.turn + d)
    if s.rack.rings[r].queue.isEmpty then none else some r

/-- RACK_RETIRE: the TAG of the oldest complete RETIRE descriptor, and event 4r. -/
def State.rackRetire (s : State) (r : Fin 4) : State :=
  match s.rack.rings[r].due with
  | [] => s
  | tag :: due => (((s.onRing r fun x => { x with due := due }).put (F.RACK_RING_RETIRE_TAG r) tag).wrapCount
      (F.RACK_RING_RETIRE_COUNT r)).raise (srcRack (4 * r))

def execRackRetire (r : Fin 4) (s : State) : Host.Outcome State Fault Refusal := s.ifUp (·.rackRetire r)

/-- The head of a ring leaves its queue; event 4r + 3 when every committed descriptor is complete (R319). -/
def State.rackPop (s : State) (r : Fin 4) : State :=
  let t := s.onRing r fun x => { x with queue := x.queue.drop 1 }
  t.raiseIf (t.rack.rings[r].queue.isEmpty && !t.bit (F.RACK_RING_CFG_STOPPED r) &&
    t.get (F.RACK_RING_RPTR_RPTR r) == t.get (F.RACK_RING_WPTR_WPTR r)) (srcRack (4 * r + 3))

/-- RACK_RING_r_CFG.EN written 0: the latched descriptors are discarded and RPTR goes back to the first of them (R318). -/
def State.rackDisable (s : State) (r : Fin 4) : State :=
  let t := s.put (F.RACK_RING_CFG_EN r) 0
  match s.rack.rings[r].queue with
  | [] => t
  | (i, _) :: _ => (t.put (F.RACK_RING_RPTR_RPTR r) i).onRing r fun x => { x with queue := [] }

def execRackRingDisable (r : Fin 4) (s : State) : Host.Outcome State Fault Refusal := s.ifUp (·.rackDisable r)

/-- RESUME: the ring continues from RPTR (R310). -/
def execRackResume (r : Fin 4) (s : State) : Host.Outcome State Fault Refusal := s.ifUp (·.put (F.RACK_RING_CFG_STOPPED r) 0)

/-- RACK_ERR.CLR: COUNT and CAUSE (R318). -/
def execRackErrClr (s : State) : Host.Outcome State Fault Refusal :=
  s.ifUp fun s => (s.put F.RACK_ERR_COUNT 0).put F.RACK_ERR_CAUSE 0

/-- A rejection or a read error of descriptor `i`: recorded and counted with event 4r + 1; STOP_ON_ERR stops the ring (R310). -/
def State.rackReject (s : State) (r : Fin 4) (i cause : Nat) : State :=
  let t := ((((s.put F.RACK_ERR_CAUSE cause).put F.RACK_ERR_RING r).put F.RACK_ERR_DESC_INDEX i).count F.RACK_ERR_COUNT).raise
    (srcRack (4 * r + 1))
  if t.bit (F.RACK_RING_CFG_STOP_ON_ERR r) then
    (((t.onRing r fun x => { x with queue := [] }).put (F.RACK_RING_RPTR_RPTR r) (t.ringNext r i)).put
      (F.RACK_RING_CFG_STOPPED r) 1).raise (srcRack (4 * r + 2))
  else t.rackPop r

/-! ## Formats (R308, R309) -/

/-- The surface formats by native code. -/
inductive RackFmt where
  | rgba8 | rgb10a2 | rgba16f | a8 | d16 | tdv48
deriving DecidableEq, Repr

def RackFmt.ofCode (c : Nat) : Option RackFmt := [.rgba8, .rgb10a2, .rgba16f, .a8, .d16, .tdv48][c]?

/-- The Falerator 4 codes (R317). -/
def RackFmt.ofOld (c : Nat) : RackFmt := [.rgba8, .rgb10a2, .a8, .d16].getD c .rgba8

/-- Bytes per pixel. -/
def RackFmt.bytes : RackFmt → Nat
  | .rgba8 => 4 | .rgb10a2 => 4 | .rgba16f => 8 | .a8 => 1 | .d16 => 2 | .tdv48 => 6

/-- Base alignment, which is the unit of the pitch too. -/
def RackFmt.align : RackFmt → Nat
  | .rgba8 => 64 | .rgb10a2 => 64 | .rgba16f => 128 | .a8 => 16 | .d16 => 32 | .tdv48 => 192

/-- A format that the blends take. -/
def RackFmt.colour (f : RackFmt) : Bool := f == .rgba8 || f == .rgb10a2 || f == .rgba16f

/-- An n-bit channel expanded to u16 unit scale, for 8 and 10 bits. -/
def expand8 (c : Nat) : Nat := c * 257
def expand10 (c : Nat) : Nat := c * 64 + c / 16

/-- A unit-scale value narrowed to n bits. -/
def narrowTo (n v : Nat) : Nat := (v * (2 ^ n - 1) + 32767) / 65535

/-- A binary16 value in unit scale: clamped to 0.0–1.0, NaN as 0, rounded to nearest even. -/
def unitOfHalf (x : Nat) : Nat :=
  match binary16.val x with
  | .nan => 0
  | .inf neg => if neg then 0 else 65535
  | .fin neg m e =>
    if neg then 0
    else if 0 ≤ e then (if m = 0 then 0 else 65535)
    else min 65535 (divRound (65535 * m) (2 ^ (-e).toNat))

/-- A pixel's number in unit scale. -/
def RackFmt.read (f : RackFmt) (n : Nat) : Rgba :=
  match f with
  | .rgba8 => ⟨expand8 (n % 256), expand8 (n / 256 % 256), expand8 (n / 65536 % 256), expand8 (n / 16777216 % 256)⟩
  | .rgb10a2 => ⟨expand10 (n % 1024), expand10 (n / 1024 % 1024), expand10 (n / 1048576 % 1024), n / 2 ^ 30 % 4 * 21845⟩
  | .rgba16f => ⟨unitOfHalf (n % 65536), unitOfHalf (n / 65536 % 65536), unitOfHalf (n / 2 ^ 32 % 65536),
      unitOfHalf (n / 2 ^ 48 % 65536)⟩
  | .a8 => ⟨0, 0, 0, expand8 (n % 256)⟩
  | .d16 => ⟨0, 0, 0, 0⟩
  | .tdv48 => let x := Sample.ofNat n; ⟨unitColour x.r, unitColour x.g, unitColour x.b, unitAlpha x.a6⟩

/-- A unit-scale colour as a pixel's number. -/
def RackFmt.write (f : RackFmt) (c : Rgba) : Nat :=
  match f with
  | .rgba8 => narrowTo 8 c.r + 256 * narrowTo 8 c.g + 65536 * narrowTo 8 c.b + 16777216 * narrowTo 8 c.a
  | .rgb10a2 => narrowTo 10 c.r + 1024 * narrowTo 10 c.g + 1048576 * narrowTo 10 c.b + 2 ^ 30 * narrowTo 2 c.a
  | .rgba16f => let h (v : Nat) : Nat := binary16.round false v 65535 0
    h c.r + 65536 * h c.g + 2 ^ 32 * h c.b + 2 ^ 48 * h c.a
  | .a8 => narrowTo 8 c.a
  | .d16 => 0
  | .tdv48 => 0

/-! ## Surfaces (R306, R310–R312) -/

/-- A rectangle of pixels in memory. -/
structure Surface where
  base  : Nat
  pitch : Nat
  fmt   : RackFmt
  w     : Nat
  h     : Nat

/-- Bytes of a row. -/
def Surface.row (x : Surface) : Nat := x.w * x.fmt.bytes

/-- The surface's base and pitch follow R308 and hold a row. -/
def Surface.aligned (x : Surface) : Bool :=
  decide (x.base % x.fmt.align = 0 ∧ x.pitch % x.fmt.align = 0 ∧ x.row ≤ x.pitch)

/-- The bytes from the first to the last of a surface. -/
def Surface.span (x : Surface) : Nat := (x.h - 1) * x.pitch + x.row

/-- A byte range meets a row of the surface. -/
def Surface.meets (x : Surface) (a n : Nat) : Bool :=
  let j := if a < x.base + x.row then 0 else (a - x.base - x.row) / x.pitch + 1
  decide (j < x.h ∧ x.base + j * x.pitch < a + n)

/-- Two surfaces share a byte. -/
def Surface.overlaps (x y : Surface) : Bool := (List.range x.h).any fun i => y.meets (x.base + i * x.pitch) x.row

/-- The overlap is permitted (R312). -/
def Surface.mayOverlap (x y : Surface) : Bool := x.fmt.bytes == y.fmt.bytes && x.pitch == y.pitch

/-- The surface lies in DRAM. -/
def Surface.dram (x : Surface) : Bool := decide (dramBase ≤ x.base)

/-- The pixels of row `j`, each as its number, as the engine gets them. -/
def State.rowPixels (s : State) (x : Surface) (j : Nat) (ecc : List EccHit) : List Nat :=
  let l := (s.readAny (x.base + j * x.pitch) x.row ecc).1
  (List.range x.w).map fun i => natOfBytes ((l.drop (i * x.fmt.bytes)).take x.fmt.bytes)

/-- Pixels written to a row of a surface from column `i` on, and counted (R32). -/
def State.writeRun (s : State) (x : Surface) (j i : Nat) (px : List Nat) (ecc : List EccHit) : State :=
  (s.writeAny (x.base + j * x.pitch + i * x.fmt.bytes) (px.flatMap (bytesOfNat x.fmt.bytes)) ecc).countOps 81 px.length

/-- A surface written, row by row from the top. -/
def State.writeRows (s : State) (x : Surface) (rows : List (List Nat)) (ecc : List EccHit) : State :=
  (rows.zipIdx).foldl (fun u r => u.writeRun x r.2 0 r.1 ecc) s

/-- The causes 2 to 4 of a surface. -/
def State.surfaceCause (s : State) (x : Surface) : Nat :=
  if x.w = 0 ∨ x.h = 0 then 2 else if !x.aligned then 3 else if !s.memRange x.base x.span then 4 else 0

/-! ## Descriptors (R313–R317) -/

/-- Word `i` of a descriptor as a number. -/
def dword (d : List Word) (i : Nat) : Nat := (d.getD i 0).toNat

/-- Bits of a descriptor word. -/
def dbits (d : List Word) (i lo w : Nat) : Nat := dword d i / 2 ^ lo % 2 ^ w

def descDst (d : List Word) : Nat := dword d 1 + 2 ^ 32 * dbits d 2 0 8
def descSrc (d : List Word) : Nat := dword d 3 + 2 ^ 32 * dbits d 4 0 8
def descW (d : List Word) : Nat := dbits d 5 0 16
def descH (d : List Word) : Nat := dbits d 5 16 16

/-- The surface of the destination, of the source, in a format. -/
def dstSurface (d : List Word) (f : RackFmt) : Surface := ⟨descDst d, dbits d 2 8 24, f, descW d, descH d⟩
def srcSurface (d : List Word) (f : RackFmt) : Surface := ⟨descSrc d, dbits d 4 8 24, f, descW d, descH d⟩

/-- The operations of both list types. -/
inductive RackOp where
  | blendConst | blendPixel | blendPremul | viewstamp | fill | copy | convert
deriving DecidableEq, Repr

/-- The operation that a descriptor names under its ring's LIST_TYPE; none for a reserved one. -/
def State.rackOp (s : State) (r : Fin 4) (d : List Word) : Option RackOp :=
  if s.bit (F.RACK_RING_CFG_LIST_TYPE r) then
    if dbits d 0 0 4 ≠ 0 ∨ dbits d 0 4 4 = 0 then none else [.fill, .copy, .convert][dbits d 0 4 4 - 1]?
  else if dbits d 0 0 4 = 0 then none
  else [.blendConst, .blendPixel, .blendPremul, .viewstamp][dbits d 0 0 4 - 1]?

/-- What a descriptor does: the cause for which it is rejected, its result, or what it has written when a read error abandons
it. -/
inductive RackAct where
  | reject (cause : Nat)
  | wait
  | done (t : State)
  | abandon (t : State)

/-- Causes 2–5 of a destination with a source. -/
def State.pairCause (s : State) (x : Surface) (y : Option Surface) : Nat :=
  let c := s.surfaceCause x
  match y with
  | none => c
  | some y =>
    let k := s.surfaceCause y
    let least := if c = 0 then k else if k = 0 then c else min c k
    if least ≠ 0 then least else if x.overlaps y && !x.mayOverlap y then 5 else 0

/-- The order in which an overlapping destination is written (R312): bottom-up where it lies below the source, right-to-left
where it lies to the right; its offset is so many rows, the nearest number, and the rest to the right or left. -/
structure Scan where
  up   : Bool
  left : Bool
deriving DecidableEq, Repr

def scanOf (dst : Surface) (src : Option Surface) : Scan :=
  match src with
  | none => ⟨false, false⟩
  | some y =>
    let d : Int := dst.base - y.base
    let rows := (2 * d + dst.pitch) / (2 * dst.pitch)
    if y.overlaps dst then ⟨decide (0 < rows), decide (0 < d - rows * dst.pitch)⟩ else ⟨false, false⟩

/-- The row that is scanned as number `k`, the column that is scanned as number `m`. -/
def Scan.row (c : Scan) (h k : Nat) : Nat := if c.up then h - 1 - k else k
def Scan.col (c : Scan) (w m : Nat) : Nat := if c.left then w - 1 - m else m

/-- The DRAM errors among those of a command: they alone abandon a descriptor (R310). -/
def dramHits (ecc : List EccHit) : List EccHit := ecc.filter fun h => decide (dramBase ≤ h.addr)

/-- The first pixel in scan order whose read meets an uncorrectable DRAM error. -/
def State.failAt (s : State) (c : Scan) (w h : Nat) (reads : List Surface) (ecc : List EccHit) : Option Nat :=
  (List.range h).findSome? fun k => ((List.range w).find? fun m => reads.any fun x =>
    s.eccBad (x.base + c.row h k * x.pitch + c.col w m * x.fmt.bytes) x.fmt.bytes (dramHits ecc)).map (k * w + ·)

/-- The first `n` pixels in scan order written. -/
def State.writeFirst (s : State) (x : Surface) (c : Scan) (rows : List (List Nat)) (n : Nat) (ecc : List EccHit) : State :=
  (List.range x.h).foldl (fun u k =>
    let m := min x.w (n - k * x.w)
    let row := rows.getD (c.row x.h k) []
    if m = 0 then u
    else if c.left then u.writeRun x (c.row x.h k) (x.w - m) (row.drop (x.w - m)) ecc
    else u.writeRun x (c.row x.h k) 0 (row.take m) ecc) s

/-- A descriptor that writes each destination pixel from the source pixel and itself; both are read whole before any write,
which is the result that R312 asks for. After an uncorrectable read as many pixels stand written as a free value says, at most
those scanned before it (log 16). -/
def State.pixelwise (s : State) (dst : Surface) (src : Option Surface) (readsDst : Bool) (ecc : List EccHit) (f : Nat → Nat → Nat) :
    RackAct :=
  let cause := s.pairCause dst src
  if cause ≠ 0 then .reject cause
  else if (dst.dram || src.any (·.dram)) && !s.dramGrants .racking then .wait
  else
    let rows := (List.range dst.h).map fun j =>
      let old := if readsDst then s.rowPixels dst j ecc else List.replicate dst.w 0
      let new := match src with
        | some y => s.rowPixels y j ecc
        | none => List.replicate dst.w 0
      List.zipWith f new old
    let reads := src.toList ++ if readsDst then [dst] else []
    let c := scanOf dst src
    let read (k : Nat) : State := s.readRanges ((List.range k).flatMap fun i => reads.map fun x =>
      (x.base + c.row dst.h i * x.pitch, x.row)) ecc
    match s.failAt c dst.w dst.h reads ecc with
    | none => .done ((read dst.h).writeRows dst rows ecc)
    | some m =>
      let t := read (m / dst.w + 1)
      .abandon ({ t with free := t.free + 1 }.writeFirst dst c rows (t.draw.1.toNat % (m + 1)) ecc)

/-- BLEND_PIXEL (R314). -/
def blendStraight (c d : Rgba) (g : Nat) : Rgba :=
  let a := mulU c.a g
  let one (x y : Nat) : Nat := mulU x a + mulU y (65535 - a)
  ⟨one c.r d.r, one c.g d.g, one c.b d.b, a + mulU d.a (65535 - a)⟩

/-- BLEND_PREMUL (R314). -/
def blendPremult (c d : Rgba) (g : Nat) : Rgba :=
  let a := mulU c.a g
  let one (x y : Nat) : Nat := min 65535 (mulU x g + mulU y (65535 - a))
  ⟨one c.r d.r, one c.g d.g, one c.b d.b, a + mulU d.a (65535 - a)⟩

/-- The blends. -/
def State.blend (s : State) (op : RackOp) (d : List Word) (ecc : List EccHit) : RackAct :=
  match RackFmt.ofCode (dbits d 0 4 4), RackFmt.ofCode (dbits d 0 8 4) with
  | some df, some sf =>
    if dbits d 0 13 3 ≠ 0 ∨ !df.colour ∨ !sf.colour then .reject 1
    else if op = .blendConst then
      if dbits d 0 8 4 ≠ 0 ∨ descSrc d ≠ 0 then .reject 1
      else
        let c : Rgba := ⟨dbits d 6 0 16, dbits d 6 16 16, dbits d 7 0 16, dbits d 7 16 16⟩
        s.pixelwise (dstSurface d df) none true ecc fun _ y => df.write (blendStraight c (df.read y) 65535)
    else if dbits d 6 16 16 ≠ 0 ∨ dword d 7 ≠ 0 then .reject 1
    else
      let g := dbits d 6 0 16
      let mix := if op = .blendPremul then blendPremult else blendStraight
      s.pixelwise (dstSurface d df) (some (srcSurface d sf)) true ecc fun x y => df.write (mix (sf.read x) (df.read y) g)
  | _, _ => .reject 1

/-- FILL, COPY and CONVERT (R317). -/
def State.oldCommand (s : State) (op : RackOp) (d : List Word) (ecc : List EccHit) : RackAct :=
  let df := RackFmt.ofOld (dbits d 0 8 2)
  let sf := RackFmt.ofOld (dbits d 0 10 2)
  if dbits d 0 13 3 ≠ 0 then .reject 1
  else if op = .fill then
    if dbits d 0 10 2 ≠ 0 ∨ descSrc d ≠ 0 ∨ dword d 7 ≠ 0 then .reject 1
    else s.pixelwise (dstSurface d df) none false ecc fun _ _ => dword d 6
  else if op = .copy then
    if df ≠ sf then .reject 1 else s.pixelwise (dstSurface d df) (some (srcSurface d sf)) false ecc fun x _ => x
  else if (df = .d16) ≠ (sf = .d16) then .reject 1
  else s.pixelwise (dstSurface d df) (some (srcSurface d sf)) false ecc fun x _ =>
    if df = .d16 then x else df.write (sf.read x)

/-! ## VIEWSTAMP (R315) -/

/-- floor(x + 0.5) of a binary32 as an integer; a free one where x is not a number. -/
def stampOffset (x : Nat) (free : Word) : Int :=
  match binary32.val (binary32.floor (binary32.add x (ratF32 1 2 0))) with
  | .nan => free.toInt
  | v => v.toInt 0 (-1000000) 1000000

/-- dx and dy of view `v` for stamp depth Q. -/
def FrameHeader.stampShift (h : FrameHeader) (q v : Nat) (free : Word) : Int × Int :=
  let dd := ratF32 (h.dist : Nat) 1000 0
  let dp := ratF32 (h.dist * 1000 : Nat) h.pitch 0
  let rho := binary32.add h.invOff.toNat (binary32.mul h.invScl.toNat (ratF32 (q : Nat) 1 0))
  let f := binary32.sub (ratF32 1 1 0) (binary32.mul dd rho)
  let fd := binary32.mul f dp
  let ta := ratF32 (((h.views[v]?).map fun x => x.tanAz.toInt).getD 0) 4096 0
  let te := ratF32 (((h.views[v]?).map fun x => x.tanEl.toInt).getD 0) 4096 0
  let neg := (fd + binary32.signBit) % (2 * binary32.signBit)
  (stampOffset (binary32.mul fd ta) free, stampOffset (binary32.mul neg te) free)

/-- RP: the pitch of a plane of a reconstruction set (R182). -/
def FrameHeader.reconPitch (h : FrameHeader) : Nat := (2 * h.vw + 63) / 64 * 64

/-- The bytes of a VIEWSTAMP target. -/
def FrameHeader.stampBytes (h : FrameHeader) (f : RackFmt) : Nat :=
  if f = .tdv48 then h.k * h.frontSize else (10 * (h.k - 1) + 5) * h.vh * h.reconPitch

/-- The overlay in front of a sample's colour. -/
def stampColour (h : FrameHeader) (c old : Rgba) : Rgba :=
  if h.premul then compPair true ⟨mulU c.r c.a, mulU c.g c.a, mulU c.b c.a, c.a⟩ old else compPair false c old

/-- One sample of view `v` of a TDV-48 target. -/
def State.stampTdv (s : State) (h : FrameHeader) (base q v i j : Nat) (c : Rgba) (ecc : List EccHit) : State :=
  let a := base + v * h.frontSize + j * h.line + 6 * i
  let old := Sample.ofNat (natOfBytes (s.readAny a 6 ecc).1)
  let d := h.stored 4 q
  if c.a = 0 ∨ d < old.d12 then s
  else
    let n := stampColour h c (RackFmt.tdv48.read old.toNat)
    let x : Sample := ⟨narrowTo 10 n.r, narrowTo 10 n.g, narrowTo 10 n.b, if 32768 ≤ c.a then d else old.d12, narrowTo 6 n.a⟩
    (s.writeAny a (bytesOfNat 6 x.toNat) ecc).countOps 81 1

/-- One sample of view `v` of a reconstruction set. -/
def State.stampSet (s : State) (h : FrameHeader) (base q v i j : Nat) (c : Rgba) (ecc : List EccHit) : State :=
  let a (sl : Nat) : Nat := base + (10 * v + sl) * h.vh * h.reconPitch + j * h.reconPitch + 2 * i
  let g (sl : Nat) : Nat := natOfBytes (s.readAny (a sl) 2 ecc).1
  if c.a = 0 ∨ q < g 4 then s
  else
    let n := stampColour h c ⟨expand10 (g 0 % 1024), expand10 (g 1 % 1024), expand10 (g 2 % 1024), expand8 (g 3 % 256)⟩
    let w (u : State) (sl v : Nat) : State := u.writeAny (a sl) (bytesOfNat 2 v) ecc
    w (w (w (w (w (s.countOps 81 1) 0 (narrowTo 10 n.r)) 1 (narrowTo 10 n.g)) 2 (narrowTo 10 n.b)) 3 (narrowTo 8 n.a)) 4
      (if 32768 ≤ c.a then q else g 4)

/-- Where the overlay's first pixel falls in view `v`. -/
def stampOrigin (h : FrameHeader) (d : List Word) (v : Nat) (free : Word) : Int × Int :=
  let (dx, dy) := h.stampShift (dbits d 2 8 16) v free
  ((BitVec.ofNat 16 (dbits d 6 0 16)).toInt + h.mh + dx, (BitVec.ofNat 16 (dbits d 6 16 16)).toInt + h.mv + dy)

/-- The overlay's pixels of a view, those that fall on its grid. -/
def State.stampView (s : State) (h : FrameHeader) (d : List Word) (f sf : RackFmt) (src : List (List Nat)) (ecc : List EccHit)
    (v : Nat) : State :=
  let q := dbits d 2 8 16
  let (x0, y0) := stampOrigin h d v s.draw.1
  (src.zipIdx).foldl (fun (u : State) (row : List Nat × Nat) => (row.1.zipIdx).foldl (fun (u : State) (p : Nat × Nat) =>
    let i := x0 + p.2
    let j := y0 + row.2
    if i < 0 ∨ (h.vw : Int) ≤ i ∨ j < 0 ∨ (h.vh : Int) ≤ j then u
    else if f = .tdv48 then u.stampTdv h (descDst d) q v i.toNat j.toNat (sf.read p.1) ecc
    else u.stampSet h (descDst d) q v i.toNat j.toNat (sf.read p.1) ecc) u) s.draw.2

/-- The target ranges that row `b` of the overlay reads in view `v`: the part of a line on its grid, in each plane it has. -/
def stampReads (h : FrameHeader) (d : List Word) (f : RackFmt) (free : Word) (b v : Nat) : List (Nat × Nat) :=
  let (x0, y0) := stampOrigin h d v free
  let lo := (max 0 (min x0 h.vw)).toNat
  let n := (max 0 (min (x0 + descW d) h.vw)).toNat - lo
  let j := y0 + b
  if j < 0 ∨ (h.vh : Int) ≤ j ∨ n = 0 then []
  else if f = .tdv48 then [(descDst d + v * h.frontSize + j.toNat * h.line + 6 * lo, 6 * n)]
  else (List.range 5).map fun sl => (descDst d + (10 * v + sl) * h.vh * h.reconPitch + j.toNat * h.reconPitch + 2 * lo, 2 * n)

/-- The header that word 7 names, and the cause for which it is refused. -/
def State.stampHeader (s : State) (d : List Word) : FrameHeader × Nat :=
  let a := dword d 7
  let k := (s.word (a + 8)).toNat % 16 + 1
  let l := s.mem.readBytes a (36 + 8 * k)
  (FrameHeader.ofBytes l, if headerCause l 0 0 false ≠ 0 then 6 else 0)

/-- VIEWSTAMP. After an uncorrectable read as many rows of the overlay stand written as a free value says, at most those before
the row that met it (log 16). -/
def State.stamp (s : State) (d : List Word) (ecc : List EccHit) : RackAct :=
  match RackFmt.ofCode (dbits d 0 4 4), RackFmt.ofCode (dbits d 0 8 4) with
  | some f, some sf =>
    if dbits d 0 13 3 ≠ 0 ∨ !(f = .tdv48 ∨ f = .d16) ∨ !sf.colour ∨ dbits d 2 24 8 ≠ 0 ∨ dword d 7 % 4 ≠ 0 ∨
        !onChip (dword d 7) (36 + 8 * ((s.word (dword d 7 + 8)).toNat % 16 + 1)) then .reject 1
    else
      let y := srcSurface d sf
      let c := s.surfaceCause y
      let (h, k) := s.stampHeader d
      if c = 2 then .reject 2
      else if c = 3 ∨ descDst d % f.align ≠ 0 then .reject 3
      else if c ≠ 0 then .reject c
      else if k ≠ 0 then .reject k
      else if !s.memRange (descDst d) (h.stampBytes f) then .reject 4
      else if y.meets (descDst d) (h.stampBytes f) then .reject 5
      else if (y.dram || decide (dramBase ≤ descDst d)) && !s.dramGrants .racking then .wait
      else
        let src := (List.range y.h).map fun j => s.rowPixels y j ecc
        let reads (b : Nat) : List (Nat × Nat) :=
          (y.base + b * y.pitch, y.row) :: (List.range h.k).flatMap fun v => stampReads h d f (Config.freeWord (s.free + v)) b v
        let go (n : Nat) : State := (List.range h.k).foldl (fun u v => u.stampView h d f sf (src.take n) ecc v) s
        match (List.range y.h).find? fun b => (reads b).any fun x => s.eccBad x.1 x.2 (dramHits ecc) with
        | none => .done ((go y.h).readRanges ((List.range y.h).flatMap reads) ecc)
        | some b =>
          let t := go ((Config.freeWord (s.free + h.k)).toNat % (b + 1))
          .abandon ({ t with free := t.free + 1 }.readRanges ((List.range (b + 1)).flatMap reads) ecc)
  | _, _ => .reject 1

/-! ## Execution (R305, R307, R310) -/

/-- What the descriptor at the head of a ring does. -/
def State.rackAct (s : State) (op : RackOp) (d : List Word) (ecc : List EccHit) : RackAct :=
  match op with
  | .viewstamp => s.stamp d ecc
  | .fill => s.oldCommand op d ecc
  | .copy => s.oldCommand op d ecc
  | .convert => s.oldCommand op d ecc
  | _ => s.blend op d ecc

/-- The engine carries out the descriptor at the head of ring `r`, whose turn it is and whose operation is `op`; one whose
operation is reserved, or that was read with an error, is dealt with by whichever command comes. -/
def State.rackRun (s : State) (op : RackOp) (r : Fin 4) (ecc : List EccHit) : State :=
  match s.rackTurn, s.rack.rings[r].queue with
  | some r', (i, d) :: _ =>
    if r' ≠ r then s
    else
      let s' := { s with rack := { s.rack with turn := r.val } }
      match s.rackOp r d with
      | none => s'.rackReject r i (if d.isEmpty then 7 else 1)
      | some o =>
        if o ≠ op then s
        else match s'.rackAct op d ecc with
          | .reject cause => s'.rackReject r i cause
          | .wait => s
          | .abandon t => t.rackReject r i 7
          | .done t =>
            (if dbits d 0 12 1 = 1 then t.onRing r fun x => { x with due := x.due ++ [dbits d 0 16 16] } else t).rackPop r
  | _, _ => s

def execBlendConst (r : Fin 4) (ecc : List EccHit) (s : State) : Host.Outcome State Fault Refusal :=
  s.ifUp (·.rackRun .blendConst r ecc)

def execBlendPixel (r : Fin 4) (ecc : List EccHit) (s : State) : Host.Outcome State Fault Refusal :=
  s.ifUp (·.rackRun .blendPixel r ecc)

def execBlendPremul (r : Fin 4) (ecc : List EccHit) (s : State) : Host.Outcome State Fault Refusal :=
  s.ifUp (·.rackRun .blendPremul r ecc)

def execViewstamp (r : Fin 4) (ecc : List EccHit) (s : State) : Host.Outcome State Fault Refusal :=
  s.ifUp (·.rackRun .viewstamp r ecc)

def execFill (r : Fin 4) (ecc : List EccHit) (s : State) : Host.Outcome State Fault Refusal := s.ifUp (·.rackRun .fill r ecc)

def execCopy (r : Fin 4) (ecc : List EccHit) (s : State) : Host.Outcome State Fault Refusal := s.ifUp (·.rackRun .copy r ecc)

def execConvert (r : Fin 4) (ecc : List EccHit) (s : State) : Host.Outcome State Fault Refusal :=
  s.ifUp (·.rackRun .convert r ecc)

end Sys2Proof.Machine
end

