-- ==== Sys2Proof/Machine/Kick.lean ====
section
/-! DEFINITION. KICK (R143–R145, R180, R304): what hands work to presses, codec lanes and Racking rings, at once or at the
fire of a release line. -/

namespace Sys2Proof.Machine

/-- The press job descriptor at an address (R145). -/
def State.pressJobAt (s : State) (a : Nat) (ticket : BitVec 16) : PressJob :=
  let w := (s.word a).toNat
  { desc := a, entry := 4 * (w / 4 % 2 ^ 18), press := if w.testBit 26 then none else some (w / 2 ^ 20 % 64)
    notify := w.testBit 27, ticket := ticket, arg0 := s.word (a + 4), arg1 := s.word (a + 8) }

/-- A press is gated or fenced; a number above 47 names no press and counts as one that is (DESIGN CHOICE, log 10). -/
def State.pressOut (s : State) (n : Nat) : Bool :=
  if h : n < 48 then s.press[n].does == .gated || s.press[n].does == .fenced else true

/-- Lane `n` takes codec jobs. -/
def State.jobLane (s : State) (n : Fin 32) : Bool := s.codec.lanes[n].mode == 2

/-- The lane that a codec job descriptor chooses, unless the KICK is refused (R180). -/
def State.laneFor (s : State) (d : JobDesc) : Option (Fin 32) :=
  let n : Option (Fin 32) :=
    if d.any then
      ((List.finRange 32).filter s.jobLane).foldl (fun (best : Option (Fin 32)) (n : Fin 32) => match best with
        | none => some n
        | some m => if s.codec.lanes[n].jobs.length < s.codec.lanes[m].jobs.length then some n else some m) none
    else
      let n : Fin 32 := Fin.ofNat 32 d.lane
      if s.jobLane n then some n else none
  match n with
  | some n => if s.codec.lanes[n].jobs.length < 16 then some n else none
  | none => none

/-- The lowest cause for which a KICK is refused; 0 for none (R143). -/
def State.kickCause (s : State) (cls : Nat) (arg : Word) (held : Bool) : Nat :=
  let a := arg.toNat
  if (cls = 0 ∧ (a % 16 ≠ 0 ∨ !onChip a 16)) ∨ (cls = 1 ∧ (a % 32 ≠ 0 ∨ !onChip a 32)) then 1
  else if cls = 3 then 2
  else if held ∧ 16 ≤ s.seq.held.length then 3
  else if cls = 0 then
    match (s.pressJobAt a 0).press with
    | some n => if s.pressOut n then 4 else 0
    | none => 0
  else if cls = 1 then (if (s.laneFor (JobDesc.ofWords (s.descWords a))).isNone then 5 else 0)
  else
    let r : Fin 4 := Fin.ofNat 4 a
    if !s.ringOn r ∨ s.get (F.RACK_RING_SIZE_N r) ≤ a / 65536 then 5 else 0

/-- Work is handed to its unit. A codec job that its lane no longer takes at its release is refused there (DESIGN CHOICE, log 10). -/
def State.startWork (s : State) (cls : Nat) (arg : Word) (ticket : BitVec 16) : State :=
  if cls = 0 then { s with seq := { s.seq with jobs := s.seq.jobs ++ [s.pressJobAt arg.toNat ticket] } }
  else if cls = 1 then
    match s.laneFor (JobDesc.ofWords (s.descWords arg.toNat)) with
    | some n => s.onLane n fun l => { l with jobs := l.jobs ++ [⟨arg.toNat, [], ticket, 0, 0, 0, false, false⟩] }
    | none => s.raise (srcSeq 17)
  else s.rackCommit (Fin.ofNat 4 arg.toNat) (arg >>> 16)

/-- A KICK: its result and the state after it. -/
def State.kick (s : State) (cls : Nat) (arg : Word) (rel : Nat) : Word × State :=
  let cause := s.kickCause cls arg (rel != 0)
  if cause ≠ 0 then
    (BitVec.ofNat 32 (s.seq.ticket.toNat + 2 ^ 28 * cause + 2 ^ 31), s.raise (srcSeq 17))
  else
    let ticket := s.seq.ticket + 1
    let t := { s with seq := { s.seq with ticket := ticket } }
    (ticket.setWidth 32,
     if rel = 0 then t.startWork cls arg ticket
     else { t with seq := { t.seq with held := t.seq.held ++ [⟨7 + rel, cls, arg, ticket⟩] } })

/-- A release line fires: the KICKs held on it start in the order in which they landed (R144). -/
def State.releaseLine (s : State) (line : Nat) : State :=
  let t := { s with seq := { s.seq with held := s.seq.held.filter fun k => k.line != line } }
  (s.seq.held.filter fun k => k.line == line).foldl (fun (u : State) (k : HeldKick) => u.startWork k.cls k.arg k.ticket) t

/-- A KICK instruction of a class; class 3 is refused whichever of the three it stands for. -/
def State.kickInstr (s : State) (cls : Nat) (t : Fin 16) (o : Opnd) : State :=
  let c := o.srcB.toNat % 4
  if c ≠ cls ∧ c ≠ 3 then s
  else s.threadIssue t (.op 0x3E 3 o) (o.legal .scalar .scalar .code false) fun h s =>
    let (w, u) := s.kick c (h.sreg o.srcA) (o.srcB.toNat / 4)
    .ok (u.onThread t fun h => h.setS o.dst w)

def execKickPressJob (t : Fin 16) (o : Opnd) (s : State) : Host.Outcome State Fault Refusal := s.ifUp (·.kickInstr 0 t o)
def execKickCodecJob (t : Fin 16) (o : Opnd) (s : State) : Host.Outcome State Fault Refusal := s.ifUp (·.kickInstr 1 t o)
def execKickRackList (t : Fin 16) (o : Opnd) (s : State) : Host.Outcome State Fault Refusal := s.ifUp (·.kickInstr 2 t o)

end Sys2Proof.Machine
end

