-- ==== Sys2Proof/Machine/Frame.lean ====
section
/-! DEFINITION. The frame engine (R18–R30, R42–R46, R139–R149, R272): launch comparators, frame launches and their latches, commits,
HOLD, geometry, launch tokens and readiness. -/

namespace Sys2Proof.Machine

/-- The slots of the running frame have not ended (R29). -/
def State.slotsRunning (s : State) : Bool :=
  match s.frm.run with
  | some f => !f.ended && !s.reached (f.launch + BitVec.ofNat 32 (f.slots * f.period))
  | none => false

/-! ## Commits (R27–R30, R271, R284) -/

/-- The registers of the frame format. -/
def frameRegs : List Nat :=
  [F.SEQ_FRM_FORMAT_addr, F.SEQ_FRM_SLOT_PERIOD_addr, F.SEQ_FRM_MIN_FRAME_addr, F.SEQ_FRM_MAX_FRAME_addr, F.SEQ_FRM_CUTOFF_addr]

/-- The registers that a commit transfers. -/
def commitRegs : List Nat := frameRegs ++ mapRegs ++ blinkRegs

/-- The frame format as written obeys R28. -/
def State.formatLegal (s : State) : Bool :=
  let slots := s.get F.SEQ_FRM_FORMAT_SLOTS
  let period := s.get F.SEQ_FRM_SLOT_PERIOD_PERIOD_NS
  let least := s.get F.SEQ_FRM_MIN_FRAME_MIN_NS
  let most := s.get F.SEQ_FRM_MAX_FRAME_MAX_NS
  let cut := s.get F.SEQ_FRM_CUTOFF_CUTOFF_NS
  decide (slots = 2 ^ (maskLayers (s.get F.SEQ_FRM_FORMAT_LAYER_MASK)).length ∧ period % 64 = 0 ∧ 128000 ≤ period ∧
    period ≤ 4000000 ∧ slots * period + 20000 ≤ least ∧ least ≤ most ∧ most ≤ 1000000000 ∧ 8000 ≤ cut ∧ cut ≤ 150000)

/-- Less than 50 µs are left before the launch that comparator 0 is armed for (R29, R141). -/
def State.afterDeadline (s : State) : Bool :=
  s.bit (F.SEQ_LC_CFG_ARM 0) && decide (sdiff (s.target 0) s.now < 50000)

/-- The landing of a commit or a clearing of HOLD at this instant (R29). -/
def State.landing (s : State) : Landing := ⟨s.now, s.afterDeadline, s.afterDeadline, false⟩

/-- A late commit or a late clearing of HOLD is counted (R29). -/
def State.countLateCommit (s : State) : State :=
  ((s.put F.SEQ_FRM_CTL_COMMIT_LATE 1).count F.SEQ_FRM_COUNT_LATE_COMMITS).raise (srcSeq 26)

/-- SEQ_FRM_CTL.COMMIT: the set as written is refused whole, or waits for its launch. A commit that waits already is replaced
by an accepted one and stands at a refusal (DEDUCED, log 17). -/
def State.commitFrame (s : State) : State :=
  let period := s.get F.SEQ_FRM_SLOT_PERIOD_PERIOD_NS
  let waves := wavesInStep s.actReg period
  let cause := s.panelCause period
  let s := if waves then s else s.put F.TRL_WAVE_CTL_FMT_BAD 1
  let s := if cause = 0 then s else s.put F.PANEL_COMMIT_ERR_CAUSE cause
  if !s.formatLegal || !waves || cause != 0 then
    ((s.put F.SEQ_FRM_CTL_REFUSED 1).putB F.SEQ_FRM_CTL_COMMIT s.frm.commit.isSome).raise (srcSeq 25)
  else
    let set := commitRegs.map fun a => (a, s.reg a)
    let t := (s.put F.SEQ_FRM_CTL_COMMIT 1).putB F.SEQ_FRM_CTL_WAIT_TRANSITION (s.changesMode set && !s.frm.hold)
    let t := { t with frm := { t.frm with commit := some ⟨set, s.landing, s.frm.hold⟩ } }
    if s.afterDeadline then t.countLateCommit else t

def execFrameCommit (s : State) : Host.Outcome State Fault Refusal := s.ifUp State.commitFrame

def execClrCount (s : State) : Host.Outcome State Fault Refusal := s.ifUp (·.setReg F.SEQ_FRM_COUNT_addr 0)

/-- The set takes effect. -/
def State.applySet (s : State) (set : List (Nat × Word)) : State :=
  let t := set.foldl (fun u x => u.setAct x.1 x.2) s
  { (t.put F.SEQ_FRM_CTL_COMMIT 0).put F.SEQ_FRM_CTL_WAIT_TRANSITION 0 with frm := { t.frm with commit := none } }

/-- The drivers get CFG blocks where ROW_NS, SLOTS or the slot period is another than in `old` (R268). -/
def State.cfgIfChanged (s old : State) : State :=
  if s.actGet F.PANEL_GOA_TIMING_ROW_NS = old.actGet F.PANEL_GOA_TIMING_ROW_NS ∧ s.slotPeriod = old.slotPeriod ∧
      s.actGet F.SEQ_FRM_FORMAT_SLOTS = old.actGet F.SEQ_FRM_FORMAT_SLOTS then s
  else s.sendCfg

/-- A launch fires: what was late for it applies at the next one (R29). -/
def Landing.pass (x : Landing) : Landing := { x with passed := true }

/-- At a launch that starts a frame, the commit that waits is applied, or waits for the next launch; a change of SLOTS or
LAYER_MASK waits for a transition launch (R29, R30). -/
def State.launchCommit (s : State) : State :=
  match s.nextSet with
  | some set => s.applySet set
  | none =>
    match s.frm.commit with
    | none => s
    | some c =>
      let t := { s with frm := { s.frm with commit := some { c with land := c.land.pass, inHold := false } } }
      t.putB F.SEQ_FRM_CTL_WAIT_TRANSITION (s.changesMode c.set)

/-! ## HOLD (R25, R29, R272) -/

/-- Selections and work are dropped, and every frame so far counts as finished (R25). -/
def State.dropFrames (s : State) : State :=
  let n := s.frm.count + 1
  { s with
    frm := { s.frm with count := n, holdSet := false, holdClear := none, run := none, sel := none }
    press := s.press.map Press.discarded
    dist := { s.dist with work := [], freed := n, latched := Vector.replicate 64 0 } }.dropLines

/-- HOLD applies at `t0`, and the bands go through slot 0 if a frame has run. -/
def State.enterHold (s : State) (t0 : Word) : State :=
  let t := s.dropFrames
  let t := { t with frm := { t.frm with
    hold := true, holdAt := t0, holdBands := if s.frm.ranFrame then BitVec.allOnes 64 else 0 } }
  (t.put (F.SEQ_LC_CFG_ARM 1) 0).tryWaveInHold

/-- A write that sets SEQ_FRM_FORMAT.HOLD. In HOLD it takes back a clearing that waits, with the selection made for it. -/
def State.setHold (s : State) : State :=
  s.when (!s.bit F.SEQ_FRM_FORMAT_HOLD) fun s =>
    let t := s.put F.SEQ_FRM_FORMAT_HOLD 1
    if t.frm.hold then t.dropFrames
    else if t.slotsRunning then { t with frm := { t.frm with holdSet := true } }
    else t.enterHold t.now

def execHoldSet (s : State) : Host.Outcome State Fault Refusal := s.ifUp State.setHold

/-- HOLD that waits applies at the end of the last slot. -/
def State.applyHold (s : State) : State :=
  s.when (s.frm.holdSet && !s.slotsRunning) fun s =>
    match s.frm.run with
    | some f => s.enterHold (f.launch + BitVec.ofNat 32 (f.slots * f.period))
    | none => s.enterHold s.now

def execHoldApply (s : State) : Host.Outcome State Fault Refusal := s.ifUp State.applyHold

/-- A write that clears SEQ_FRM_FORMAT.HOLD. A setting that has not applied yet is taken back. -/
def State.clearHold (s : State) : State :=
  s.when (s.bit F.SEQ_FRM_FORMAT_HOLD) fun s =>
    let t := s.put F.SEQ_FRM_FORMAT_HOLD 0
    if !t.frm.hold then { t with frm := { t.frm with holdSet := false } }
    else
      let u := { t with frm := { t.frm with holdClear := some t.landing } }
      (if t.afterDeadline then u.countLateCommit else u).selectContent

def execHoldClear (s : State) : Host.Outcome State Fault Refusal := s.ifUp State.clearHold

/-- HOLD_SLOT0_TRANSITION: band `b` at L(N, b) or its offset from the instant at which HOLD applied (R272). -/
def State.holdSlot0 (s : State) (b : Fin 64) : State :=
  let t := s.frm.holdAt + BitVec.ofNat 32 (b.val * (s.slotPeriod / 64))
  s.when (s.frm.holdBands.getLsbD b && s.reached t) fun s =>
    ({ s with frm := { s.frm with holdBands := s.frm.holdBands &&& ~~~(1#64 <<< b.val) } }).holdTransition b s.slotPeriod t

def execHoldSlot0Transition (b : Fin 64) (s : State) : Host.Outcome State Fault Refusal := s.ifUp (·.holdSlot0 b)

/-! ## Comparators (R139–R142) -/

/-- A comparator is armed and its target is reached. -/
def State.due (s : State) (c : Nat) : Bool := s.bit (F.SEQ_LC_CFG_ARM c) && s.reached (s.target c)

/-- A comparator has fired. -/
def State.fired (s : State) (c : Nat) : State := (s.put (F.SEQ_LC_CFG_ARM c) 0).put (F.SEQ_LC_CFG_FIRED c) 1

/-- A comparator's target is `t`, as the register shows it. -/
def State.setTarget (s : State) (c : Nat) (t : Word) : State :=
  (s.setReg (F.SEQ_LC_TIME_addr c) t).setAct (F.SEQ_LC_TIME_addr c) t

/-- A comparator is armed for `t`. -/
def State.armed (s : State) (c : Nat) (t : Word) : State := (s.setTarget c t).put (F.SEQ_LC_CFG_ARM c) 1

/-- The content cutoff acts on a launch that starts a frame. -/
def State.cutoffLine (s : State) : State := if s.willStart then s.cutoff.darkFill else s

/-- Line 1 at its `k`-th fire: band k mod 64 latches slot k / 64 (R18). -/
def State.bandLatch (s : State) (f : FrameRun) (k : Nat) (t : Word) : State :=
  let b : Fin 64 := Fin.ofNat 64 k
  let slot := k / 64
  let r := f.base + slot
  (((s.bandDrop r b).latchLanes r b).gateLatch b slot f.mask.toNat f.period t (slot + 1 == f.slots) (!f.unlit)).darkFill

/-- Comparator 1 fires: the latch, and the next instant of the train. -/
def State.trainLine (s : State) : State :=
  match s.frm.run with
  | none => s
  | some f =>
    let at_ (k : Nat) : Word := f.launch + BitVec.ofNat 32 (k * (f.period / 64))
    let k := f.next
    let t := { s with frm := { s.frm with run := some { f with next := k + 1 } } }
    let t := t.bandLatch f k (at_ k)
    if k + 1 < 64 * f.slots then t.armed 1 (at_ (k + 1)) else t

/-- A launch in HOLD that starts no frame (R29, R274). A late commit or clearing waits for the next launch. -/
def State.holdLaunch (s : State) (t : Word) : State :=
  let u := { s with frm := { s.frm with
    holdClear := s.frm.holdClear.map Landing.pass
    commit := s.frm.commit.map fun (c : Commit) => { c with land := c.land.pass } } }
  (u.selectBand.blinkStep true t).launchPush

/-- A launch that starts a frame: commits, content, the frame's slots from `t` on (R18, R22, R29, R30, R78, R292). -/
def State.startFrame (s : State) (t : Word) : State :=
  let base := s.nextBase
  let transition := s.frm.transition
  let old := s
  let s := s.launchCommit
  let s := { s with frm := { s.frm with hold := false, holdClear := none } }
  let s := s.selectContent.cutoff
  let sel := s.frm.sel.getD ⟨none, none, true⟩
  let dark := !s.bit F.TRL_CTL_INIT_DONE
  let s := if dark && !sel.counted then s.countRepeat else s
  let sel := if dark then ⟨none, none, true⟩ else sel
  let slots := s.actGet F.SEQ_FRM_FORMAT_SLOTS
  let mask := BitVec.ofNat 6 (s.actGet F.SEQ_FRM_FORMAT_LAYER_MASK)
  let n := s.frm.count + 1
  let run : FrameRun := ⟨t, slots, s.slotPeriod, mask, 0, false, transition, transition || dark, sel, n, base⟩
  let shown := match sel.content with
    | some c => if transition then s.frm.shown else some c.2
    | none => s.frm.shown
  let s := { s with
    frm := { s.frm with count := n, run := some run, sel := none, shown := shown, ranFrame := true, mapSlots := slots, mapMask := mask }
    trl := { s.trl with truncEv := false, darkEv := false } }
  let s := ((s.dropFrom (if dark then base else base + slots)).tryWave s.slotPeriod).selectBand.reblank
  let s := ((s.blinkStep true t).cfgIfChanged old).launchPush
  ((s.armed 1 t).selectContent).darkFill

/-- Line 0: the launch for which comparator 0 was armed (R139); the idle timer restarts (R353). A cutoff whose instant has come acts with
it. -/
def State.launchLine (s : State) (t : Word) : State :=
  let s := if s.due 2 then s.fired 2 else s
  let s := if s.due 3 then s.fired 3 else s
  let s := (s.put (F.SEQ_LC_CFG_ARM 2) 0).put (F.SEQ_LC_CFG_ARM 3) 0
  let s := s.applyHold
  let s := s.raise (srcSeq 24)
  let start := !s.frm.hold || (match s.frm.holdClear with
    | some x => x.applies
    | none => false)
  let s := { s with frm := { s.frm with lastLaunch := some t, tickBase := some t } }
  let s := if start then s.startFrame t else s.holdLaunch t
  { s with frm := { s.frm with transition := false } }.restartIdle

/-- What a comparator's fire drives (R139). The cutoff acts while comparator 0 is still armed. -/
def State.driveLine (s : State) (c : Nat) (t : Word) : State :=
  if c = 0 then s.launchLine t
  else if c = 1 then s.trainLine
  else if c = 2 then s.cutoffLine
  else if c = 3 then s
  else
    let line := s.get (F.SEQ_LC_CFG_LINE c)
    if 8 ≤ line ∧ line ≤ 14 then s.releaseLine line else s

/-- COMPARATOR_FIRE: an armed comparator reaches its target. -/
def State.fire (s : State) (c : Nat) : State :=
  s.when (s.due c) fun s => (s.fired c).driveLine c (s.target c)

def execComparatorFire (c : Fin 64) (s : State) : Host.Outcome State Fault Refusal := s.ifUp (·.fire c)

/-- A comparator is disarmed; one whose target is reached fires all the same. -/
def State.disarmComp (s : State) (c : Nat) : State :=
  if s.due c then s.fire c
  else
    let t := s.put (F.SEQ_LC_CFG_ARM c) 0
    if c = 0 then
      { (t.put (F.SEQ_LC_CFG_ARM 2) 0).put (F.SEQ_LC_CFG_ARM 3) 0 with frm := { t.frm with transition := false } }
    else t

/-- A landing judged against the launch time `t` now armed: in time with 50 µs or more between, late and to be counted once
otherwise, unless it has been late for a launch that has fired (R29, R141). -/
def Landing.judge (t : Word) (x : Landing) : Landing :=
  let late := !x.passed && decide (sdiff t x.at_ < 50000)
  { x with late := late, counted := x.counted || late }

/-- A landing that becomes late for the launch time `t` is counted then. -/
def State.countIfLate (s : State) (t : Word) (x : Option Landing) : State :=
  match x with
  | some x => s.when ((x.judge t).counted && !x.counted) State.countLateCommit
  | none => s

/-- A commit and a clearing of HOLD that wait are judged against the launch time `t` now armed (R29, R141). -/
def State.judgeLandings (s : State) (t : Word) : State :=
  let u := (s.countIfLate t (s.frm.commit.map (·.land))).countIfLate t s.frm.holdClear
  { u with frm := { u.frm with
    holdClear := s.frm.holdClear.map (Landing.judge t)
    commit := s.frm.commit.map fun (c : Commit) => { c with land := c.land.judge t } } }

/-- The frame engine loads comparators 2 and 3 for launch time `T`; an instant that is past counts as passed at once (R141). -/
def State.loadEngine (s : State) (t : Word) (transition : Bool) : State :=
  let cut := t - BitVec.ofNat 32 (s.actGet F.SEQ_FRM_CUTOFF_CUTOFF_NS)
  let dead := t - 50000
  let s := ({ s with frm := { s.frm with transition := transition } }).judgeLandings t
  let load (s : State) (c : Nat) (x : Word) : State :=
    (s.setTarget c x).putB (F.SEQ_LC_CFG_ARM c) (!s.reached x)
  let s := (load (load s 2 cut) 3 dead).selectContent
  if s.reached cut then s.cutoffLine else s

/-- The launch at `t` is the first after HOLD is cleared: a clearing that waits applies at it (R29, R141). -/
def State.firstAfterHold (s : State) (t : Word) : Bool :=
  s.frm.hold && match s.frm.holdClear with
    | some x => (x.judge t).applies
    | none => false

/-- The arm of comparator 0 for `t` is early (R141). -/
def State.tooEarly (s : State) (t : Word) : Bool :=
  !s.firstAfterHold t && match s.frm.lastLaunch with
    | some p => decide (sdiff t (p + BitVec.ofNat 32 (s.actGet F.SEQ_FRM_MIN_FRAME_MIN_NS)) < 0)
    | none => false

/-- A comparator is armed for `t` (R140, R141). The launch of comparator 0 is a transition launch where the latest token marks
one (DEDUCED for an arm by program, log 17). -/
def State.armComp (s : State) (c : Nat) (t : Word) : State :=
  let s := s.fire c
  if s.reached t then
    let u := ((s.disarmComp c).setTarget c t).put (F.SEQ_LC_CFG_LATE c) 1
    u.raise (srcSeq 19)
  else if c = 0 ∧ s.tooEarly t then (s.put (F.SEQ_LC_CFG_EARLY 0) 1).raise (srcSeq 19)
  else
    let u := s.armed c t
    if c = 0 then u.loadEngine t (u.bit F.SEQ_LTOK_RX_STAT_TRANSITION) else u

/-! ## Tile geometry (R41–R46) -/

/-- The band table as written obeys R41 for a tile height. -/
def State.bandsOk (s : State) (height : Nat) : Bool :=
  let rows (b : Nat) : Nat := s.get (F.TRL_BAND_ROWS b)
  let first (b : Nat) : Nat := s.get (F.TRL_BAND_FIRST_ROW b)
  first 0 == 0 && rows 0 != 0 &&
  ((List.range 63).all fun b => rows (b + 1) == 0 || (rows b != 0 && first (b + 1) == first b + rows b)) &&
  ((List.range 64).map rows).sum == height

/-- The registers of the geometry and band table. -/
def geomRegs : List Nat := F.TRL_TILE_GEOM_addr :: (List.range 64).map F.TRL_BAND_addr

/-- The reasons for which APPLY is refused: CAUSE and PANEL_CAUSE (R43). The lowest cause counts, HOLD first of all
(DESIGN CHOICE, log 17). -/
def State.geomCause (s : State) : Nat × Nat :=
  let w := s.get F.TRL_TILE_GEOM_WIDTH_M1 + 1
  let h := s.get F.TRL_TILE_GEOM_HEIGHT_M1 + 1
  if !s.frm.hold then (3, 0)
  else if 262144 < w * h ∨ s.get F.TRL_TILE_GEOM_EM_COLS = 3 then (1, 0)
  else if !s.bandsOk h then (2, 0)
  else if !s.mapsOk w then (0, 1)
  else if !s.scanOk (fun b => s.get (F.TRL_BAND_ROWS b)) s.slotPeriod then (0, 2)
  else (0, 0)

/-- TRL_GEOM_CTL.APPLY. An accepted APPLY leaves BAD of an earlier refusal, which software clears (DESIGN CHOICE, log 17: R42 gives
only the W1C). -/
def State.applyGeom (s : State) : State :=
  let (c, p) := s.geomCause
  if c = 0 ∧ p = 0 then (s.activate (geomRegs ++ mapRegs)).sendCfg
  else (((s.put F.TRL_GEOM_CTL_BAD 1).put F.TRL_GEOM_CTL_CAUSE c).put F.TRL_GEOM_CTL_PANEL_CAUSE p).raise (srcTrl 11)

def execGeomApply (s : State) : Host.Outcome State Fault Refusal := s.ifUp State.applyGeom

/-- A write of TRL_SAT_BASE (R46). -/
def State.writeSatBase (s : State) (value : Word) : State :=
  let b := F.TRL_SAT_BASE_BASE.of value
  if b = 0 ∨ onChip (b * 4096) 4096 then s.put F.TRL_SAT_BASE_BASE b else s.put F.TRL_GEOM_CTL_BASE_BAD 1

def execTrlSatBaseWrite (value : Word) (s : State) : Host.Outcome State Fault Refusal := s.ifUp (·.writeSatBase value)

/-! ## Launch tokens (R24, R146–R148) -/

/-- A launch token arrives. -/
def State.tokenArrives (s : State) (time fseq : Word) (transition : Bool) : State :=
  let s := ((s.setReg F.SEQ_LTOK_RX_TIME_addr time).setReg F.SEQ_LTOK_RX_SEQ_addr fseq).setReg F.SEQ_LTOK_RX_ARRIVAL_addr s.now
  let s := (s.putB F.SEQ_LTOK_RX_STAT_TRANSITION transition).raise (srcSeq 20)
  let cut := s.actGet F.SEQ_FRM_CUTOFF_CUTOFF_NS
  if sdiff time s.now ≤ 0 then (s.put F.SEQ_FRM_CTL_MISSED 1).raise (srcSeq 21)
  else if s.bit (F.SEQ_LC_CFG_ARM 0) && decide (sdiff (s.target 0) s.now < cut) then
    s.count F.SEQ_LTOK_RX_STAT_DROPPED
  else
    let t := s.putB F.SEQ_LTOK_RX_STAT_SHORT (decide (sdiff time s.now < cut))
    if t.bit F.SEQ_LTOK_RX_STAT_AUTO_ARM then t.armComp 0 time else t

def execLaunchTokenRx (time : Word) (fseq : Word) (transition : Bool) (s : State) : Host.Outcome State Fault Refusal :=
  s.ifUp (·.tokenArrives time fseq transition)

/-- SEQ_LTOK_TX_CTL.SEND: over transmit entry 0, and to the own tile with LOCAL (R148, R213). -/
def State.sendToken (s : State) : State :=
  let time := s.reg F.SEQ_LTOK_TX_TIME_addr
  let fseq := s.reg F.SEQ_LTOK_TX_SEQ_addr
  let tr := s.bit F.SEQ_LTOK_TX_CTL_TRANSITION
  if sdiff time s.now < s.get F.SEQ_LTOK_MINLEAD_MINLEAD_NS then s.put F.SEQ_LTOK_TX_CTL_REFUSED 1
  else
    let data := bytesOfNat 4 time.toNat ++ bytesOfNat 4 fseq.toNat ++ bytesOfNat 4 tr.toNat ++ bytesOfNat 4 0
    let t := if s.bit (F.ZL_TXS_EN 0) then s.txPacket 0 2 false false data else s
    if t.bit F.SEQ_LTOK_TX_CTL_LOCAL then t.tokenArrives time fseq tr else t

def execLtokSend (s : State) : Host.Outcome State Fault Refusal := s.ifUp State.sendToken

/-! ## Readiness (R23, R149, R217) -/

/-- A 64-bit set in a pair of registers. -/
def State.pair64 (s : State) (lo hi : Nat) : BitVec 64 := s.reg hi ++ s.reg lo
def State.setPair64 (s : State) (lo hi : Nat) (w : BitVec 64) : State :=
  (s.setReg lo (w.extractLsb' 0 32)).setReg hi (w.extractLsb' 32 32)

def State.members (s : State) : BitVec 64 := s.pair64 F.SEQ_RDY_MEMBER_LO_addr F.SEQ_RDY_MEMBER_HI_addr
def State.gotReady (s : State) : BitVec 64 := s.pair64 F.SEQ_RDY_GOT_LO_addr F.SEQ_RDY_GOT_HI_addr
def State.nextReady (s : State) : BitVec 64 := s.pair64 F.SEQ_RDY_NEXT_LO_addr F.SEQ_RDY_NEXT_HI_addr

/-- ALL is GOT equal to MEMBER, with event 22 where it becomes so. -/
def State.judgeAll (s : State) : State :=
  let all := s.gotReady == s.members
  (s.putB F.SEQ_RDY_CTL_ALL all).raiseIf (all && !s.bit F.SEQ_RDY_CTL_ALL) (srcSeq 22)

/-- The entries of a tile in the section. -/
def State.entriesOf (s : State) (x y : Byte) : BitVec 64 :=
  (List.finRange 64).foldl (fun (w : BitVec 64) (k : Fin 64) =>
    if s.members.getLsbD k && s.get (F.SEQ_RDY_TILE_X k) == x.toNat && s.get (F.SEQ_RDY_TILE_Y k) == y.toNat then w ||| (1#64 <<< k.val)
    else w) 0

/-- A readiness report arrives at the collector. -/
def State.reportArrives (s : State) (x y : Byte) (fseq : Word) : State :=
  let e := s.entriesOf x y
  let cur := s.reg F.SEQ_RDY_FRAME_addr
  let drop := s.count F.SEQ_RDY_CTL_DROPPED
  if e = 0 then drop
  else if fseq = cur then
    if e &&& ~~~s.gotReady = 0 then s
    else
      let t := (s.setPair64 F.SEQ_RDY_GOT_LO_addr F.SEQ_RDY_GOT_HI_addr (s.gotReady ||| e)).setReg F.SEQ_RDY_LAST_addr s.now
      t.judgeAll.raise (srcSeq 23)
  else if fseq = cur + 1 then
    if e &&& ~~~s.nextReady = 0 then s
    else
      let t := s.setPair64 F.SEQ_RDY_NEXT_LO_addr F.SEQ_RDY_NEXT_HI_addr (s.nextReady ||| e)
      { t with frm := { t.frm with nextLast := t.now } }.raise (srcSeq 23)
  else drop

/-- READINESS_REPORT_RX: the sender's time is for the program alone; the collector records the arrival (R149). -/
def execReadinessReportRx (x : Byte) (y : Byte) (fseq : Word) (_tb : Word) (s : State) : Host.Outcome State Fault Refusal :=
  s.ifUp (·.reportArrives x y fseq)

/-- SEQ_RDY_CTL.ADVANCE. LAST takes the latest time of NEXT where NEXT holds a report (DEDUCED, log 17). -/
def State.advanceReady (s : State) : State :=
  let t := s.setReg F.SEQ_RDY_FRAME_addr (s.reg F.SEQ_RDY_FRAME_addr + 1)
  let t := t.setPair64 F.SEQ_RDY_GOT_LO_addr F.SEQ_RDY_GOT_HI_addr s.nextReady
  let t := if s.nextReady = 0 then t else t.setReg F.SEQ_RDY_LAST_addr s.frm.nextLast
  let t := t.setPair64 F.SEQ_RDY_NEXT_LO_addr F.SEQ_RDY_NEXT_HI_addr 0
  (t.put F.SEQ_RDY_CTL_ALL 0).judgeAll

def execRdyAdvance (s : State) : Host.Outcome State Fault Refusal := s.ifUp State.advanceReady

/-- One copy of a readiness report toward the hub. -/
def State.sendReport (s : State) (fseq : Word) (route : Bool) : State :=
  let x := s.get F.ZL_UP_HUB % 256
  let y := s.get F.ZL_UP_HUB / 256
  match s.hop x y route with
  | .here => s.reportArrives (BitVec.ofNat 8 (s.get F.ZL_ADDR_X)) (BitVec.ofNat 8 (s.get F.ZL_ADDR_Y)) fseq
  | .nowhere => s.routeDrop State.raise
  | .port p => s.enqueue State.raise p false ⟨4, true, s.updraftData x y route
      ([0, 0, 0] ++ bytesOfNat 4 fseq.toNat ++ bytesOfNat 4 s.now.toNat)⟩

/-- READINESS_REPORT_SEND: the oldest decoded frame whose report is due. -/
def State.reportReady (s : State) : State :=
  match s.frm.reportDue with
  | [] => s
  | n :: l =>
    let t := ({ s with frm := { s.frm with reportDue := l } }).sendReport n false
    if t.bit F.ZL_UP_DUAL then t.sendReport n true else t

def execReadinessReportSend (s : State) : Host.Outcome State Fault Refusal := s.ifUp State.reportReady

end Sys2Proof.Machine
end

