-- ==== Sys2Proof/Machine/TimeBase.lean ====
section
/-! DEFINITION. The time base (R227–R243): the counter, the correction loop, genlock, capture inputs and pulse outputs. -/

namespace Sys2Proof.Machine

/-! ## The counter -/

/-- The time base moved by a signed number of 2⁻³² ns (R227, R235). -/
def TimeBase.add (t : TimeBase) (d : Int) : TimeBase :=
  let v : Int := t.wraps * 2 ^ 64 + (t.ns ++ t.frac).toNat + d
  let w := BitVec.ofInt 64 v
  { t with wraps := v / 2 ^ 64, ns := w.extractLsb' 32 32, frac := w.extractLsb' 0 32 }

/-- RATE in units of 2⁻³² (R227). -/
def State.rate (s : State) : Int := s.getS F.TB_RATE_RATE

/-- One cycle: 1 ns at 1 GHz (R227), or 40 ns on the REFCLK25 backup (R237, R238), each scaled by RATE. -/
def State.tick (s : State) : State :=
  let n : Int := if s.bit F.TB_STATE_BACKUP then 40 else 1
  { s with tb := s.tb.add (n * (2 ^ 32 + s.rate)) }

/-- A signed number of 1/65,536 ns in 48 bits. -/
def diff48 (a b : BitVec 48) : Int := (a - b).toInt

/-- The first point `start + n × period` that is not in the past; none if `start` is past and the period is 0 (R242, R243). -/
def gridFrom (start : Int) (period : Nat) (now : Int) : Option Int :=
  if now ≤ start then some start
  else if period = 0 then none
  else some (start + (now - start + period - 1) / period * period)

/-! ## Rate and state -/

/-- RATE set, clamped to ±TB_RATE_LIMIT (R229); SATURATED follows, and reaching the limit raises event 20. -/
def State.setRate (s : State) (r : Int) : State :=
  let lim : Int := s.get F.TB_RATE_LIMIT_LIM
  let v := max (-lim) (min lim r)
  let sat := decide (lim ≤ v.natAbs)
  let was := s.bit F.TB_STATE_SATURATED
  ((s.putS F.TB_RATE_RATE v).putB F.TB_STATE_SATURATED sat).raiseIf (sat && !was) (srcTb 20)

/-- The loop integrator set. -/
def State.setInteg (s : State) (i : Int) : State := { s with tb := { s.tb with integ := i } }

/-- A state other than FOLLOW entered: RATE = I (R233). -/
def State.enterTb (s : State) (st : Nat) : State := (s.put F.TB_STATE_STATE st).setRate s.tb.integ

/-- The states of TB_STATE.STATE (R250). -/
def tbAcquire : Nat := 0
def tbFollow : Nat := 1
def tbDoldrums : Nat := 2
def tbGust : Nat := 3

/-! ## Pulse outputs -/

/-- The period of TB_OUT[k] in 1/65,536 ns. -/
def State.outPeriod (s : State) (k : Fin 4) : Nat :=
  s.get (F.TB_OUT_PERIOD_NS k) * 65536 + s.get (F.TB_OUT_PFRAC_FRAC k)

/-- The state with one pulse output changed. -/
def State.onOut (s : State) (k : Fin 4) (f : TbOut → TbOut) : State :=
  { s with tb := { s.tb with outs := s.tb.outs.set k (f s.tb.outs[k]) } }

/-- TB_OUT[k] placed on its grid at or after the present (R236, R243). -/
def State.placeOut (s : State) (k : Fin 4) : State :=
  s.onOut k fun o => match gridFrom o.origin (s.outPeriod k) s.nowWide with
    | some t => { o with next := t, armed := s.bit (F.TB_OUT_CFG_EN k) }
    | none => { o with armed := false }

/-- TB_OUT[k] enabled: its grid starts at START, moved by a STEP that waits (R243). -/
def State.outEnable (s : State) (k : Fin 4) : State :=
  let step := s.getS (F.TB_OUT_STEP_STEP k)
  let t := (s.put (F.TB_OUT_CFG_EN k) 1).onOut k fun o =>
    { o with origin := s.wide (ns48 (s.get (F.TB_OUT_START_NS k)) 0) + step * 4096, high := false }
  let t := (t.placeOut k).put (F.TB_OUT_STEP_STEP k) 0
  t.raiseIf (step != 0) (srcTb (16 + k))

/-- TB_OUT[k] disabled: the inactive level. -/
def State.outDisable (s : State) (k : Fin 4) : State :=
  (s.put (F.TB_OUT_CFG_EN k) 0).onOut k fun o => { o with armed := false, high := false }

/-- The level of ball TB_OUT[k] (R243, R250, R410). -/
def State.outLevel (s : State) (k : Fin 4) : Bool :=
  (s.tb.outs[k].high && s.bit (F.TB_OUT_CFG_EN k)) != (s.bit (F.TB_OUT_CFG_POL k))

/-! ## Measurements -/

/-- Armed comparators whose target is reached fire (R236). -/
def State.fireReached (s : State) : State := (List.range 64).foldl (fun (u : State) c => u.fire c) s

/-- A step of the time base by `e` (1/65,536 ns), with its record; the outputs are placed again, and comparators that were stepped
over fire (R235, R236). -/
def State.stepTime (s : State) (e : Int) : State :=
  let forced := s.bit F.TB_CTL_FORCE
  let t := { s with tb := s.tb.add (e * 65536) }
  let t := (t.putS F.TB_STEP_NS_NS ((e + 32768) / 65536)).put F.TB_STEP_AT_NS t.tb.ns.toNat
  let t := (t.put F.TB_CTL_FORCE 0).enterTb tbFollow
  let t := (List.finRange 4).foldl (fun u k => if u.bit (F.TB_OUT_CFG_EN k) then u.placeOut k else u) t
  (t.raise (srcTb (if forced then 3 else 4))).fireReached

/-- The loop of R232 for a measurement within the jump limit: the new integrator and the loop output before clamping. -/
def loopOutput (integ e : Int) (kp ki lim : Nat) : Int × Int :=
  let p := (e * 65536) / 2 ^ kp
  let i := if (integ + p).natAbs < lim then integ + (e * 65536) / 2 ^ ki else integ
  (i, i + p)

/-- A measurement `e` in 1/65,536 ns (R232). -/
def State.measure (s : State) (e : Int) : State :=
  let w := BitVec.ofInt 48 e
  let s := (s.put F.TB_ERR_NS_NS (w.toNat / 65536)).put F.TB_ERR_FRAC_FRAC (w.toNat % 65536)
  let s := { s with tb := { s.tb with srcLost := false, lastMeas := s.clock } }
  let st := s.get F.TB_STATE_STATE
  if st = tbAcquire ∨ s.bit F.TB_CTL_FORCE then s.stepTime e
  else if s.get F.TB_JUMP_LIMIT_NS * 65536 < e.natAbs then
    ((s.enterTb tbGust).count F.TB_GUST_COUNT).raise (srcTb 0)
  else if st = tbGust then s
  else
    let (i, r) := loopOutput s.tb.integ e (s.get F.TB_GAIN_KP) (s.get F.TB_GAIN_KI) (s.get F.TB_RATE_LIMIT_LIM)
    let t := ((s.put F.TB_STATE_STATE tbFollow).setInteg i).setRate r
    t.raiseIf (st == tbDoldrums) (srcTb 2)

/-! ## Sources -/

/-- The port in use with SRC 1: the lowest-numbered port that is up and has TIME_UP set (R231). -/
def State.timePort (s : State) : Option (Fin 4) :=
  if s.get F.TB_CTL_SRC = 1 then (List.finRange 4).find? fun p => s.portUp p && s.bit (F.ZL_CFG_TIME_UP p) else none

/-- After ports have gone up or down: the port in use, and event 7 if another one took over (R231). -/
def State.retimePort (s : State) (before : Option (Fin 4)) : State :=
  match before, s.timePort with
  | some a, some b => if a = b then s else
      ({ s with tb := { s.tb with lastMeas := s.clock } }.put F.TB_STATE_PORT b).raise (srcTb 7)
  | none, some b => { s with tb := { s.tb with lastMeas := s.clock } }.put F.TB_STATE_PORT b
  | _, none => s

/-- The genlock period in 1/65,536 ns. -/
def State.glPeriod (s : State) : Nat := s.get F.TB_GL_PERIOD_NS_NS * 65536 + s.get F.TB_GL_PERIOD_FRAC_FRAC

/-- The expected edge set from TB_GL_PHASE: the first grid point not in the past (R242). -/
def State.glRestart (s : State) : State :=
  let start := s.wide (ns48 (s.get F.TB_GL_PHASE_NS) 0)
  { s with tb := { s.tb with glNext := (gridFrom start s.glPeriod s.nowWide).getD start, glMissed := 0 } }

/-- A write of TB_CTL: its fields by their access codes, and a write of SRC where it changes the source (R233). -/
def State.writeTbCtl (s : State) (v : Word) : State :=
  let old := s.get F.TB_CTL_SRC
  let src := F.TB_CTL_SRC.of v
  let t := ((s.put F.TB_CTL_SRC src).put F.TB_CTL_GL_IN (F.TB_CTL_GL_IN.of v)).put F.TB_CTL_WAKE_STEP
    (F.TB_CTL_WAKE_STEP.of v)
  let t := if F.TB_CTL_FORCE.of v = 1 then t.put F.TB_CTL_FORCE 1 else t
  if src = old then t
  else
    let t := { t with tb := { t.tb with srcLost := false, lastMeas := t.clock } }
    let t := if t.get F.TB_STATE_STATE = tbAcquire then t.enterTb tbAcquire else t.enterTb tbDoldrums
    let t := if src = 2 then t.glRestart else t
    match t.timePort with
    | some p => t.put F.TB_STATE_PORT p
    | none => t

/-- The source is lost (R234): a link port whose offset no token updated for 20 µs, two genlock edges missed in a row, or a program
that measured nothing for TB_SW_TIMEOUT.MS, 0 acting as 1 (R250). -/
def State.sourceGone (s : State) : Bool :=
  !s.tb.srcLost && match s.get F.TB_CTL_SRC with
    | 1 => s.timePort.isNone || decide (s.tb.lastMeas + 20000 ≤ s.clock)
    | 2 => decide (2 ≤ s.tb.glMissed)
    | 3 => decide (s.tb.lastMeas + max 1 (s.get F.TB_SW_TIMEOUT_MS) * 1000000 ≤ s.clock)
    | _ => false

/-! ## Commands -/

/-- TB_SW_ERR_WRITE: a write of TB_SW_ERR_NS gives a measurement with SRC 3 (R230). -/
def State.swErr (s : State) (value : Word) : State :=
  s.when (s.get F.TB_CTL_SRC == 3) fun s => s.measure (value.toInt * 65536 + s.tb.swFrac.toNat)

def execTbSwErrWrite (value : Word) (s : State) : Host.Outcome State Fault Refusal := s.ifUp (·.swErr value)

/-- TB_SOURCE_LOSS: event 1 in every state, DOLDRUMS from FOLLOW (R234). -/
def State.loseSource (s : State) : State :=
  let t := { s with tb := { s.tb with srcLost := true } }
  (if s.get F.TB_STATE_STATE = tbFollow then t.enterTb tbDoldrums else t).raise (srcTb 1)

def execTbSourceLoss (s : State) : Host.Outcome State Fault Refusal :=
  s.ifUp fun s => s.when s.sourceGone State.loseSource

/-- TB_FORCE: the next measurement is a step (R235). -/
def execTbForce (s : State) : Host.Outcome State Fault Refusal := s.ifUp (·.put F.TB_CTL_FORCE 1)

/-- TB_SRC_WRITE: a write of TB_CTL (R233). -/
def execTbSrcWrite (value : Word) (s : State) : Host.Outcome State Fault Refusal := s.ifUp (·.writeTbCtl value)

/-- A write of TB_RATE: with SRC 0 it sets RATE and I, clamped (R250). -/
def State.writeRate (s : State) (value : Word) : State :=
  s.when (s.get F.TB_CTL_SRC == 0) fun s => let t := s.setRate value.toInt; t.setInteg t.rate

def execTbRateWrite (value : Word) (s : State) : Host.Outcome State Fault Refusal := s.ifUp (·.writeRate value)

/-- A write of TB_RATE_LIMIT: at most 429,496; RATE and I are clamped at once (R229). -/
def State.writeRateLimit (s : State) (value : Word) : State :=
  let lim := min 429496 (F.TB_RATE_LIMIT_LIM.of value)
  let t := s.put F.TB_RATE_LIMIT_LIM lim
  (t.setInteg (max (-(lim : Int)) (min lim t.tb.integ))).setRate t.rate

def execTbRateLimitWrite (value : Word) (s : State) : Host.Outcome State Fault Refusal := s.ifUp (·.writeRateLimit value)

/-- A read of TB_NOW_NS: NS, with the fraction latched (R228). -/
def State.readNow (s : State) : State :=
  { s.put F.TB_NOW_FRAC_FRAC (s.tb.frac.toNat / 65536) with rdata := s.tb.ns }

def execTbNowRead (s : State) : Host.Outcome State Fault Refusal := s.ifUp State.readNow

/-- The instant of a capture: to 1/16 ns, or at the backup tick (R237, R241). -/
def State.captureTime (s : State) (sixteenth : BitVec 4) : BitVec 48 :=
  if s.bit F.TB_STATE_BACKUP then s.now48 else s.tb.ns ++ (sixteenth ++ 0#12)

/-- The edge is one that TB_IN[k] captures (R241, R250). -/
def State.captures (s : State) (k : Fin 4) (rising : Bool) : Bool :=
  match s.get (F.TB_IN_CFG_EDGE k) with
  | 1 => rising
  | 2 => !rising
  | 3 => true
  | _ => false

/-- A capture written to its registers, with its events (R241). -/
def State.capture (s : State) (k : Fin 4) (c : BitVec 48) : State :=
  let t := ((s.put (F.TB_IN_NS_NS k) (c.toNat / 65536)).put (F.TB_IN_FRAC_FRAC k) (c.toNat % 65536)).wrapCount
    (F.TB_IN_FRAC_COUNT k)
  let t := t.raise (srcTb (8 + k))
  let t := if s.tb.unread.getLsbD k then (t.put (F.TB_IN_CFG_OVERRUN k) 1).raise (srcTb (12 + k)) else t
  { t with tb := { t.tb with unread := t.tb.unread ||| (1#4 <<< k.val) } }

/-- TB_IN_CAPTURE: a capture, and with SRC 2 on input GL_IN a measurement e = X − c (R241, R242). -/
def State.captureIn (s : State) (k : Fin 4) (c : BitVec 48) : State :=
  let t := s.capture k c
  if t.get F.TB_CTL_SRC = 2 ∧ t.get F.TB_CTL_GL_IN = k then
    let e := t.tb.glNext - t.wide c
    ({ t with tb := { t.tb with glNext := t.tb.glNext + t.glPeriod, glMissed := 0 } }).measure e
  else t

/-- An edge of a pulse of `width` ns on TB_IN[k]; pulses shorter than 8 ns are ignored (R241). -/
def execTbInCapture (k : Fin 4) (rising : Bool) (sixteenth : BitVec 4) (width : Nat) (s : State) :
    Host.Outcome State Fault Refusal :=
  s.ifUp fun s => s.when (s.captures k rising && decide (8 ≤ width)) fun s => s.captureIn k (s.captureTime sixteenth)

/-- TB_IN_READ: a read of TB_IN_k_NS (R241). -/
def State.readIn (s : State) (k : Fin 4) : State :=
  { s with tb := { s.tb with unread := s.tb.unread &&& ~~~(1#4 <<< k.val) }, rdata := s.reg (F.TB_IN_NS_addr k) }

def execTbInRead (k : Fin 4) (s : State) : Host.Outcome State Fault Refusal := s.ifUp (·.readIn k)

/-- GENLOCK_EDGE_MISSING: X passed by more than half a period without a capture (R242). -/
def State.missEdge (s : State) : State :=
  { s.count F.TB_GUST_MISSING with
    tb := { s.tb with glNext := s.tb.glNext + s.glPeriod, glMissed := s.tb.glMissed + 1 } }

def execGenlockEdgeMissing (s : State) : Host.Outcome State Fault Refusal :=
  s.ifUp fun s => s.when (s.get F.TB_CTL_SRC == 2 && decide ((s.glPeriod : Int) < 2 * (s.nowWide - s.tb.glNext)))
    State.missEdge

/-- GL_PHASE_WRITE: with SRC 2 the expected edge starts again (R242). -/
def State.writeGlPhase (s : State) (value : Word) : State :=
  let t := s.put F.TB_GL_PHASE_NS value.toNat
  t.when (t.get F.TB_CTL_SRC == 2) State.glRestart

def execGlPhaseWrite (value : Word) (s : State) : Host.Outcome State Fault Refusal := s.ifUp (·.writeGlPhase value)

/-- A grid point placed to 1/16 ns (R243), the nearest (DESIGN CHOICE, log 8). -/
def sixteenths (t : Int) : Int := (t + 2048) / 4096 * 4096

/-- TB_OUT_EDGE: the pulse starts; the next grid point follows unless PERIOD is 0 (R243). -/
def State.outEdge (s : State) (k : Fin 4) : State :=
  s.onOut k fun o => { o with
    high := true, since := sixteenths o.next, next := o.next + s.outPeriod k, armed := s.outPeriod k != 0 }

def execTbOutEdge (k : Fin 4) (s : State) : Host.Outcome State Fault Refusal :=
  s.ifUp fun s => s.when (s.tb.outs[k].armed && decide (sixteenths s.tb.outs[k].next ≤ s.nowWide)) (·.outEdge k)

/-- TB_OUT_PULSE_END: WIDTH after its start the pulse ends (R243). -/
def execTbOutPulseEnd (k : Fin 4) (s : State) : Host.Outcome State Fault Refusal :=
  s.ifUp fun s => s.when (s.tb.outs[k].high &&
      decide (s.tb.outs[k].since + s.get (F.TB_OUT_WIDTH_NS k) * 65536 ≤ s.nowWide))
    fun s => s.onOut k fun o => { o with high := false }

/-- TB_OUT_ENABLE (R243). -/
def execTbOutEnable (k : Fin 4) (s : State) : Host.Outcome State Fault Refusal := s.ifUp (·.outEnable k)

/-- TB_OUT_STEP: an enabled output's grid moves from the first edge not yet begun, STEP clears and event 16 + k is raised;
on a disabled one the step waits (R243). -/
def State.outStep (s : State) (k : Fin 4) (value : BitVec 16) : State :=
  if s.bit (F.TB_OUT_CFG_EN k) then
    let d := value.toInt * 4096
    (s.onOut k fun o => { o with origin := o.origin + d, next := o.next + d }).raise (srcTb (16 + k))
  else s.put (F.TB_OUT_STEP_STEP k) value.toNat

def execTbOutStep (k : Fin 4) (value : BitVec 16) (s : State) : Host.Outcome State Fault Refusal :=
  s.ifUp (·.outStep k value)

end Sys2Proof.Machine
end

