-- ==== Sys2Proof/Machine/Link.lean ====
section
/-! DEFINITION. The ports of the Zhevlum Link (R190–R207): training and negotiation, codewords and replay, alignment
blocks, lane failure and remap, time tokens (R221, R222), and the commands of a port's registers (R224). -/

namespace Sys2Proof.Machine

/-! ## Words of training (R199–R201) -/

/-- The capability word that ZL_p_CFG asks for; MAXVER 0b11 acts as 0b10 (R199, R224). -/
def State.capOf (s : State) (p : Fin 4) : Word :=
  BitVec.ofNat 32 (0x00081B00 + 16 * s.get (F.ZL_CFG_LANE_EN p) + (2 ^ (min 2 (s.get (F.ZL_CFG_MAXVER p)) + 1) - 1))

/-- The capability word offered: ZL_p_LCAP, taken from ZL_p_CFG as a training starts (R224). -/
def State.lcap (s : State) (p : Fin 4) : Word := s.reg (F.ZL_LCAP_addr p)

/-- The lanes of a capability word, and its highest version (R199). -/
def capLanes (c : Word) : Nat := c.toNat / 16 % 16
def capVer (c : Word) : Nat := if c.getLsbD 2 then 2 else if c.getLsbD 1 then 1 else 0

/-- The IDENT word sent (R200). -/
def State.ident (s : State) (p : Fin 4) : Word :=
  BitVec.ofNat 32 (s.get F.ZL_ADDR_X + 256 * s.get F.ZL_ADDR_Y + 65536 * s.get F.ZL_ADDR_HUB +
    2 ^ 17 * (s.mode == .cellar).toNat + 2 ^ 18 * s.link.port[p].train.wakeReq.toNat + 2 ^ 19 * p.val)

/-- The highest version of both words (R201); none where they have no common one. -/
def commonVer (a b : Word) : Option Nat :=
  let v := (a &&& b).toNat % 8
  if 4 ≤ v then some 2 else if 2 ≤ v then some 1 else if v = 1 then some 0 else none

/-- The lanes of both words that have locked, as a mask (R201). -/
def State.lockedLanes (s : State) (p : Fin 4) : Nat :=
  let both := capLanes (s.lcap p &&& s.reg (F.ZL_PCAP_addr p)) &&& s.link.port[p].train.mask
  ((List.finRange 4).filter fun i : Fin 4 => both.testBit i && s.link.port[p].train.lanes[i].locked).foldl
    (fun (a : Nat) (i : Fin 4) => a + 2 ^ i.val) 0

/-- The version resolved (R201). -/
def State.resolved (s : State) (p : Fin 4) : Option Nat := commonVer (s.lcap p) (s.reg (F.ZL_PCAP_addr p))

/-! ## What the port puts on its lanes -/

/-- Bits on a lane, as unit intervals at a version (R195). -/
def State.sendBits (s : State) (p : Fin 4) (lane ver : Nat) (bits : List Bool) : State :=
  s.emit (.line p lane (lineLevels ver bits))

/-- The STATUS field of a frame on a lane (R198). -/
def Training.status (t : Training) (lane : Nat) : BitVec 16 :=
  BitVec.ofNat 16 ((t.lanes.toList.any (·.locked)).toNat + 2 * t.accepted.toNat + 4 * (t.lanes.toList.any (·.adapted)).toNat +
    8 * t.ver + 32 * lane)

/-- The frame that the port sends on a lane: CAP and IDENT are 0 until its receiver has locked (R198). -/
def State.frameOut (s : State) (p : Fin 4) (lane : Nat) : TrainFrame :=
  let t := s.link.port[p].train
  if t.lanes.toList.any (·.locked) then trainFrameOf (s.lcap p) (s.ident p) (t.status lane)
  else trainFrameOf 0 0 (t.status lane)

/-- One training frame on every lane that trains. A WAKE_REQ that it carries has been sent (R198, R204, R224). -/
def State.sendFrames (s : State) (p : Fin 4) : State :=
  let t := s.link.port[p].train
  let (fill, h) := prbs 1888 t.fill
  let u := (maskLanes t.mask).foldl (fun u i => u.sendBits p i t.ver (trainBits (s.frameOut p i) fill)) s
  let u := u.onPort p fun l => { l with train := { l.train with
    fill := h, markers := l.train.markers + (l.train.accepted && l.train.gotAccepted).toNat } }
  u.when (t.wakeReq && t.lanes.toList.any (·.locked)) fun u => u.put (F.ZL_CFG_WAKE p) 0

/-- The link's lanes run on PLL_AUX (R348). -/
def State.linkClock (s : State) : Bool := s.bit (F.PLL_CTL_LOCK 5)

/-- The frames whose time has come: they go out back to back (R198). A tick of the backup spans at most two. -/
def State.framesDue (p : Fin 4) : Nat → State → State
  | 0, s => s
  | k + 1, s =>
    let t := s.link.port[p].train
    if s.get (F.ZL_STATUS_STATE p) = 1 ∧ s.linkClock ∧ t.nextAt ≤ s.clock * 2475 then
      State.framesDue p k ((s.sendFrames p).onPort p fun l =>
        { l with train := { l.train with nextAt := t.nextAt + frameTime t.ver } })
    else s

/-- The training ports send their frames. -/
def State.sendTraining (s : State) : State := (List.finRange 4).foldl (fun (u : State) (p : Fin 4) => State.framesDue p 2 u) s

/-- An alignment block of a port for a lane (R196). -/
def State.alignBlock (s : State) (p : Fin 4) (lane : Nat) (oot : Bool) : AlignBlock :=
  let b : AlignBlock := ⟨0x3B5DC60E#32, BitVec.ofNat 2 lane, BitVec.ofNat 4 (s.get (F.ZL_STATUS_TX_LANES p)),
    BitVec.ofNat 4 (s.get (F.ZL_STATUS_RX_LANES p)), oot, BitVec.ofNat 16 s.link.port[p].cwCount, 0⟩
  { b with crc := crc16Of 8 (alignValue b) }

/-- An alignment block on a lane (R196). -/
def State.sendAlign (s : State) (p : Fin 4) (oot : Bool) (lane : Nat) : State :=
  s.sendBits p lane s.link.port[p].ver (alignBits (s.alignBlock p lane oot))

/-- An alignment block on each transmit lane. -/
def State.sendAligns (s : State) (p : Fin 4) (oot : Bool) : State :=
  (maskLanes (s.get (F.ZL_STATUS_TX_LANES p))).foldl (fun u i => u.sendAlign p oot i) s

/-! ## Going down and up -/

/-- Packets queued at a port. -/
def LinkPort.queued (l : LinkPort) : Nat := l.q1.length + l.q2.length + l.q3.length

/-- A partly received packet of the types that BADPKT counts (R210). -/
def partial1 (k : Option Packet) : Nat :=
  match k with
  | some x => (x.ty == 1 || x.ty == 2 || x.ty == 6).toNat
  | none => 0

/-- Packets of a port that are being received and never will be whole. -/
def LinkPort.broken (l : LinkPort) : Nat := partial1 l.rx1 + partial1 l.rx2 + partial1 l.rx3

/-- The port's queues, codeword exchange and reception cleared; the packets received whole, its token IDs and its adaptation
results stay. -/
def LinkPort.cleared (l : LinkPort) : LinkPort :=
  { LinkPort.reset with credits := l.credits, tokenId := l.tokenId, rxPkts := l.rxPkts, failedAt := l.failedAt, kept := l.kept }

/-- Packets dropped on receipt: counted, with event 8 (R210, R226). -/
def State.badPackets (s : State) (p : Fin 4) (n : Nat) : State :=
  if n = 0 then s else (s.countBy (F.ZL_DROP_BADPKT p) n).raise (srcLink p 8)

/-- Queued packets discarded and counted in QFULL of the port, packets received in part in BADPKT (R207, R210, R224). -/
def State.discardQueues (s : State) (p : Fin 4) : State :=
  let n := s.link.port[p].queued
  let t := (s.onPort p LinkPort.cleared).badPackets p s.link.port[p].broken
  if n = 0 then t else (t.countBy (F.ZL_DROP_QFULL p) n).raise (srcLink p 7)

/-- The state of a port and its active lanes. -/
def State.setLink (s : State) (p : Fin 4) (state lanes : Nat) : State :=
  ((s.put (F.ZL_STATUS_STATE p) state).put (F.ZL_STATUS_RX_LANES p) lanes).put (F.ZL_STATUS_TX_LANES p) lanes

/-- The kept results that a retrain can use: those of a version and lanes that are still offered (R202). -/
def State.keptFor (s : State) (p : Fin 4) : Option (Nat × Nat) :=
  s.link.port[p].kept.filter fun k => k.2 != 0 && decide (k.1 ≤ capVer (s.capOf p)) && k.2 &&& capLanes (s.capOf p) == k.2

/-- Training starts: with the kept results at their version and on their lanes (`quick`), or in full at ZL1 on every lane
offered. ZL_p_CFG acts from now on, and a waiting WAKE goes out with this exchange (R197, R202, R204, R224). -/
def State.startTraining (s : State) (p : Fin 4) (quick : Bool) : State :=
  let kept := if quick then s.keptFor p else none
  let fresh : LaneTraining := LaneTraining.reset
  let t := (s.setLink p 1 0).setReg (F.ZL_LCAP_addr p) (s.capOf p)
  t.onPort p fun l => { l with train := { Training.reset with
    quick := kept.isSome, nextAt := s.clock * 2475, wakeReq := s.bit (F.ZL_CFG_WAKE p)
    ver := match kept with | some k => k.1 | none => 0
    mask := match kept with | some k => k.2 | none => s.get (F.ZL_CFG_LANE_EN p)
    lanes := Vector.replicate 4 { fresh with adapted := kept.isSome } } }

/-- A port leaves the up state: its adaptation results are kept, queued packets discarded, RETRAINS counted, event 1, and the
time port chosen again (R202, R207). -/
def State.leaveUp (s : State) (p : Fin 4) (state : Nat) : State :=
  let before := s.timePort
  let lanes := s.get (F.ZL_STATUS_RX_LANES p) &&& s.get (F.ZL_STATUS_TX_LANES p)
  let t := s.onPort p fun l => { l with kept := some (l.ver, lanes) }
  let t := (t.setLink p state 0).discardQueues p
  (((t.count (F.ZL_ERR_RETRAINS p)).raise (srcLink p 1)).retimePort before)

/-- A port goes down and retrains at the version and lanes in force before (R202, R207). -/
def State.portDown (s : State) (p : Fin 4) : State := (s.leaveUp p 0).startTraining p true

/-- A port comes up: one more training frame and an alignment block on each active lane, the resolved set, codeword exchange
from CW_SEQ 0, event 0, and event 6 below what was offered (R197, R201, R226). -/
def State.portComesUp (s : State) (p : Fin 4) (v : Nat) : State :=
  let before := s.timePort
  let lanes := s.lockedLanes p
  let both := s.lcap p &&& s.reg (F.ZL_PCAP_addr p)
  let tv := min ((s.lcap p).toNat / 1024 % 4) ((s.reg (F.ZL_PCAP_addr p)).toNat / 1024 % 4)
  let t := ((s.sendFrames p).setLink p 2 lanes).put (F.ZL_STATUS_VER p) v
  let t := t.onPort p fun l => { l.cleared with
    train := l.train, ver := v, dual := both.getLsbD 8, raw := both.getLsbD 9, timeVer := tv }
  let t := (t.sendAligns p false).raise (srcLink p 0)
  let t := t.raiseIf (decide (v < capVer (s.lcap p)) || lanes != capLanes (s.lcap p)) (srcLink p 6)
  t.retimePort before

/-! ## Training (R197) -/

/-- The state of a lane after a frame: locked, its word pair counted (R197). -/
def LaneTraining.frame (l : LaneTraining) (f : TrainFrame) : LaneTraining :=
  let ok := f.capCrc == crc16Of 4 f.cap.toNat && f.identCrc == crc16Of 4 f.ident.toNat && f.cap != 0
  let same := if !ok then 0 else if l.cap = f.cap ∧ l.ident = f.ident then l.same + 1 else 1
  { l with locked := true, cap := f.cap, ident := f.ident, same := same }

/-- The partner's word pair accepted: its registers, and event 9 from a partner that sleeps or asks to be woken (R197, R226). -/
def State.acceptPair (s : State) (p : Fin 4) (cap ident : Word) : State :=
  let t := (s.setReg (F.ZL_PCAP_addr p) cap).setReg (F.ZL_PID_addr p) ident
  let t := t.onPort p fun l => { l with train := { l.train with accepted := true } }
  let t := if ident.getLsbD 17 then
      (t.put (F.ZL_STATUS_STATE p) 4).onPort p fun l => { l with failedAt := s.clock }
    else t
  t.raiseIf (ident.getLsbD 17 || ident.getLsbD 18) (srcLink p 9)

/-- The port is up once both ends have accepted and adapted at the resolved rate (R197 step 5). -/
def State.tryUp (s : State) (p : Fin 4) : State :=
  let t := s.link.port[p].train
  match s.resolved p with
  | some v => if t.accepted && t.gotAccepted && t.gotAdapted && t.ver == v && s.lockedLanes p != 0 &&
      t.lanes.toList.any (·.adapted) && s.get (F.ZL_STATUS_STATE p) == 1 then s.portComesUp p v else s
  | none => s

/-- A training frame at the version in force on a lane that trains (R197, R198). -/
def State.trainFrame (s : State) (p lane : Fin 4) (f : TrainFrame) : State :=
  let tr := s.link.port[p].train
  let statusOk := f.statusCrc == crc16Of 2 f.status.toNat
  if f.marker ≠ 0xE4B17A2C#32 ∨ !tr.mask.testBit lane ∨ (statusOk ∧ (f.status.toNat / 8 % 4) ≠ tr.ver) then s
  else
    let ln := tr.lanes[lane].frame f
    let atRate := s.resolved p == some tr.ver && tr.accepted
    let ln := { ln with adapted := ln.adapted || (atRate && statusOk) }
    let t := s.onPort p fun l => { l with train := { l.train with
      lanes := l.train.lanes.set lane ln
      gotAccepted := l.train.gotAccepted || (statusOk && f.status.getLsbD 1)
      gotAdapted := l.train.gotAdapted || (statusOk && f.status.getLsbD 2) } }
    let t := if 4 ≤ ln.same ∧ !tr.accepted then t.acceptPair p f.cap f.ident else t
    t.tryUp p

/-- The port listens for training frames: it trains, or its partner was found asleep (R197, R204). -/
def State.listens (s : State) (p : Fin 4) : Bool :=
  s.bit (F.ZL_CFG_EN p) && s.linkClock && (s.get (F.ZL_STATUS_STATE p) == 1 || s.get (F.ZL_STATUS_STATE p) == 4)

/-- After mutual acceptance and 64 markers sent since, the port switches to the resolved version and trains there (R197 step 4). -/
def State.rateSwitch (s : State) (p : Fin 4) : State :=
  let tr := s.link.port[p].train
  match s.resolved p with
  | some v => if s.get (F.ZL_STATUS_STATE p) = 1 ∧ tr.accepted ∧ tr.gotAccepted ∧ 64 ≤ tr.markers ∧ tr.ver = 0 ∧ 0 < v then
      s.onPort p fun l => { l with train := { l.train with
        ver := v, lanes := Vector.replicate 4 LaneTraining.reset, gotAdapted := false } }
    else s
  | none => s

/-- LINK_RATE_SWITCH. -/
def execLinkRateSwitch (p : Fin 4) (s : State) : Host.Outcome State Fault Refusal := s.ifUp (·.rateSwitch p)

/-- RETRY_MS have passed since the training failed, 0 acting as 1 (R202, R224). -/
def State.retryDue (s : State) (p : Fin 4) : Bool :=
  decide (s.link.port[p].failedAt + max 1 (s.get (F.ZL_CFG_RETRY_MS p)) * 1000000 ≤ s.clock)

/-- TRAINING_RETRY: a port that is down, or whose partner sleeps, trains again in full (R202, R204). -/
def execTrainingRetry (p : Fin 4) (s : State) : Host.Outcome State Fault Refusal :=
  s.ifUp fun s => s.when (s.bit (F.ZL_CFG_EN p) && (s.get (F.ZL_STATUS_STATE p) == 0 || s.get (F.ZL_STATUS_STATE p) == 4) &&
    s.retryDue p) (·.startTraining p false)

/-- TRAINING_FAILED: a retrain from kept results that fails becomes a full training; a full training that fails leaves the
port down, with event 2, until its retry (R202). -/
def State.trainingFails (s : State) (p : Fin 4) : State :=
  if s.link.port[p].train.quick then s.startTraining p false
  else ((s.put (F.ZL_STATUS_STATE p) 0).onPort p fun l => { l with failedAt := s.clock }).raise (srcLink p 2)

def execTrainingFailed (p : Fin 4) (s : State) : Host.Outcome State Fault Refusal :=
  s.ifUp fun s => s.when (s.get (F.ZL_STATUS_STATE p) == 1) (·.trainingFails p)

/-! ## Codewords out (R192–R194, R205) -/

/-- The next cell of the packet at the head of a queue, and the queue after it (R193, R208, R209). -/
def nextCell : List QPacket → Option (Cell × List QPacket)
  | [] => none
  | k :: q =>
    let n := cellsOf k.data.length
    let d := (k.data.drop (62 * k.sent)).take 62
    let h := k.ty.toNat + 16 * k.up.toNat + 32 * (decide (k.sent = 0)).toNat + 64 * (decide (k.sent + 1 = n)).toNat +
      128 * d.length
    some (⟨BitVec.ofNat 16 h, d⟩, if k.sent + 1 = n then q else { k with sent := k.sent + 1 } :: q)

/-- The next cell of waiting traffic, highest priority first (R208). -/
def LinkPort.takeCell (l : LinkPort) : Option (Cell × LinkPort) :=
  match nextCell l.q1 with
  | some (c, q) => some (c, { l with q1 := q })
  | none => match nextCell l.q2 with
    | some (c, q) => some (c, { l with q2 := q })
    | none => (nextCell l.q3).map fun (c, q) => (c, { l with q3 := q })

/-- The link-control cell with its time token, departing at `t` (R221). -/
def LinkPort.tokenCell (l : LinkPort) (t : BitVec 48) : Cell × LinkPort :=
  let frac := if l.timeVer = 1 then 0 else t.toNat % 65536
  let ns := t.toNat / 65536
  let (eid, rns, rfr) := match l.gotToken with
    | some g => (g.id.toNat, g.ns.toNat, if l.timeVer = 1 then 0 else g.frac.toNat)
    | none => (0, 0, 0)
  let back := min 65535 l.credits
  let d := bytesOfNat 4 ns ++ bytesOfNat 2 frac ++ [l.tokenId, BitVec.ofNat 8 eid] ++ bytesOfNat 4 rns ++ bytesOfNat 2 rfr ++
    bytesOfNat 2 back ++ List.replicate 46 0
  (⟨BitVec.ofNat 16 (7 + 32 + 64 + 128 * 62), d⟩,
   { l with tokenId := l.tokenId + 1, credits := l.credits - back,
            tokens := (⟨l.tokenId, BitVec.ofNat 32 ns, BitVec.ofNat 16 frac⟩ :: l.tokens).take 8 })

/-- The empty cell (R193). -/
def emptyCell : Cell := ⟨0, []⟩

/-- The cells of slots `k` upward of codeword `cw`: link control in every slot n with n mod 512 = 0 (R194). -/
def LinkPort.fill (t : BitVec 48) (cw : Nat) : List Nat → LinkPort → List Cell × LinkPort
  | [], l => ([], l)
  | k :: ks, l =>
    let (c, l) := if (10 * cw + k) % 512 = 0 then l.tokenCell t
      else match l.takeCell with
        | some r => r
        | none => (emptyCell, l)
    let (cs, l) := LinkPort.fill t cw ks l
    (c :: cs, l)

/-- A new codeword at clock `at'` and the port after it. -/
def LinkPort.newCodeword (l : LinkPort) (t : BitVec 48) (at' : Nat) : Codeword × LinkPort :=
  let (cs, m) := LinkPort.fill t l.cwSeq.toNat (List.range 10) l
  let cw : Codeword := ⟨l.cwSeq, l.rxSeq, l.nak, l.rpl, l.echo, false, cs⟩
  (cw, { m with cwSeq := l.cwSeq + 1, cwCount := l.cwCount + 1,
                replay := l.replay ++ [⟨cw, at', 1⟩] })

/-- The codeword `seq` of the replay buffer sent again: RETX set, the fields of the present in its header (R205). -/
def LinkPort.sendAgain (l : LinkPort) (seq : BitVec 8) (rest : List (BitVec 8)) : Option (Codeword × LinkPort) :=
  (l.replay.find? fun r => r.cw.seq == seq).map fun r =>
    let cw := { r.cw with ack := l.rxSeq, nak := l.nak, rpl := l.rpl, echo := l.echo, retx := true }
    (cw, { l with resend := rest, cwCount := l.cwCount + 1,
                  replay := l.replay.map fun q => if q.cw.seq = seq then { q with sends := q.sends + 1 } else q })

/-- The next codeword of a port: a replay first, else a new one while the 128 places of the replay buffer last (R205). -/
def LinkPort.send (l : LinkPort) (t : BitVec 48) (at' : Nat) : Option (Codeword × LinkPort) :=
  match l.resend with
  | seq :: rest => l.sendAgain seq rest
  | [] => if l.replay.length < 128 then some (l.newCodeword t at') else none

/-- A direction after one more codeword on `n` lanes (R191). -/
def Stripe.next (x : Stripe) (n : Nat) : Stripe := { x with phase := (x.phase + 544) % max 1 n, units := x.units + 12 / max 1 n }

/-- Scheduled alignment blocks are due: every active lane has carried 304,640 bits, 672 of these units (R191, R196). -/
def Stripe.due (x : Stripe) : Bool := decide (672 ≤ x.units)

/-- A codeword on the active lanes, its symbols striped round-robin (R191, R195). -/
def State.sendCodeword (s : State) (p : Fin 4) (cw : Codeword) : State :=
  let lanes := maskLanes (s.get (F.ZL_STATUS_TX_LANES p))
  let w := rsEncode (cwMessage cw)
  let l := s.link.port[p]
  let t := lanes.zipIdx.foldl (fun u x => u.sendBits p x.1 l.ver (laneBits w l.tx.phase lanes.length x.2)) s
  t.onPort p fun l => { l with tx := l.tx.next lanes.length }

/-- The departure time of a cell at the package ball: PHY delay added (R221). -/
def State.departure (s : State) (p : Fin 4) : BitVec 48 := s.now48 + BitVec.ofInt 48 (s.phyDelay p)

/-- CODEWORD_TX: a replay or a new codeword. None goes out while the transmitter is being remapped, or until the scheduled
alignment blocks of this codeword boundary have gone out on every active lane (R196, R207). -/
def State.codewordTx (s : State) (p : Fin 4) : State :=
  match s.link.port[p].send (s.departure p) s.clock with
  | some (cw, l) => (s.onPort p fun _ => l).sendCodeword p cw
  | none => s

/-- The transmitter carries codewords. -/
def State.mayTransmit (s : State) (p : Fin 4) : Bool :=
  s.portUp p && s.link.port[p].txRemap.isNone && !s.link.port[p].tx.due

def execCodewordTx (p : Fin 4) (s : State) : Host.Outcome State Fault Refusal :=
  s.ifUp fun s => s.when (s.mayTransmit p) (·.codewordTx p)

/-! ## Time tokens (R222) -/

/-- The four instants of an exchange give DELAY and OFFSET in 1/65,536 ns (R222). -/
def ttDelay (t1 t2 t3 t4 : BitVec 48) : Int := (diff48 t4 t1 - diff48 t3 t2) / 2
def ttOffset (t1 t2 t3 t4 : BitVec 48) (asym : Int) : Int := (diff48 t2 t1 - diff48 t4 t3 + asym) / 2

/-- The arrival time of a cell at the package ball: PHY delay taken off (R221). -/
def State.arrival (s : State) (p : Fin 4) : BitVec 48 := s.now48 - BitVec.ofInt 48 (s.phyDelay p)

/-- A time token received at `t4` (R222). With SRC 1 the offset of the port in use is a measurement (R230). -/
def State.timeToken (s : State) (p : Fin 4) (k : TimeToken) (t4 : BitVec 48) : State :=
  if k.retx then s.count (F.ZL_TT_COUNT_BAD p)
  else
    let t := s.onPort p fun l => { l with gotToken := some ⟨k.id, t4.extractLsb' 16 32, t4.extractLsb' 0 16⟩ }
    match s.link.port[p].tokens.find? fun x => x.id == k.echoId with
    | none => t.count (F.ZL_TT_COUNT_BAD p)
    | some x =>
      let t1 := x.ns ++ x.frac
      let t2 := k.rxNs ++ k.rxFrac
      let t3 := k.txNs ++ k.txFrac
      let off := ttOffset t1 t2 t3 t4 (s.getS (F.ZL_TT_ASYM_ASYM p) * 256)
      let t := ((t.putS (F.ZL_TT_DELAY_DELAY p) (ttDelay t1 t2 t3 t4)).putS (F.ZL_TT_OFFSET_OFFSET p) off).wrapCount
        (F.ZL_TT_COUNT_GOOD p)
      if t.timePort = some p then t.measure (t.getS (F.ZL_TT_OFFSET_OFFSET p)) else t

def execTimeTokenRx (p : Fin 4) (tok : TimeToken) (s : State) : Host.Outcome State Fault Refusal :=
  s.ifUp fun s => s.when (s.portUp p) fun s => s.timeToken p tok (s.arrival p)

/-- The time token that a link-control cell carries (R221). -/
def parseToken (bs : List Byte) (retx : Bool) : TimeToken :=
  let n a k := natOfBytes ((bs.drop a).take k)
  ⟨bytesWord bs 0, BitVec.ofNat 16 (n 4 2), BitVec.ofNat 8 (n 6 1), BitVec.ofNat 8 (n 7 1), bytesWord bs 8, BitVec.ofNat 16 (n 12 2),
   BitVec.ofNat 16 (n 14 2), retx⟩

/-! ## Lanes, remap (R207) -/

/-- A remap of one direction is in progress from now on; its time does not count for acknowledgement (R206, R207). -/
def State.startRemap (s : State) (p : Fin 4) (receive : Bool) : State :=
  (s.put (F.ZL_STATUS_STATE p) 3).onPort p fun l =>
    let l := { l with paused := some (l.paused.getD s.clock) }
    if receive then { l with rxRemap := some (l.rxRemap.getD s.clock) } else { l with txRemap := some (l.txRemap.getD s.clock) }

/-- The receiver declares a lane failed: the receive direction is remapped and its new mask goes out at once on every transmit
lane; without a lane left the port goes down (R207). -/
def State.failLane (s : State) (p lane : Fin 4) : State :=
  let rx := s.get (F.ZL_STATUS_RX_LANES p)
  if !rx.testBit lane then s
  else if rx - 2 ^ lane.val = 0 then s.portDown p
  else
    let t := (s.put (F.ZL_STATUS_RX_LANES p) (rx - 2 ^ lane.val)).startRemap p true
    (t.onPort p fun l => { l with rx := { l.rx with phase := 0 } }).sendAligns p true

def execLaneFail (p lane : Fin 4) (s : State) : Host.Outcome State Fault Refusal :=
  s.ifUp fun s => s.when (s.portUp p) (·.failLane p lane)

/-- A scheduled block on a lane; with those of every active lane out, a new count of 304,640 bits starts (R191, R196). -/
def State.scheduledAlign (s : State) (p lane : Fin 4) : State :=
  let tx := s.get (F.ZL_STATUS_TX_LANES p)
  (s.sendAlign p false lane).onPort p fun l =>
    let sent := l.tx.blocks ||| 2 ^ lane.val
    { l with tx := if sent &&& tx = tx then Stripe.reset else { l.tx with blocks := sent } }

/-- ALIGNMENT_BLOCK_TX: a lane's block at the boundary where the blocks are due, once (R191, R196). -/
def execAlignmentBlockTx (p lane : Fin 4) (s : State) : Host.Outcome State Fault Refusal :=
  s.ifUp fun s => s.when (s.portUp p && (s.get (F.ZL_STATUS_TX_LANES p)).testBit lane && s.link.port[p].tx.due &&
    !s.link.port[p].tx.blocks.testBit lane) (·.scheduledAlign p lane)

/-- A replay of every codeword not acknowledged (R205, R207). -/
def State.startReplay (s : State) (p : Fin 4) (toggle : Bool) : State :=
  (s.onPort p fun l => { l with resend := l.replay.map (·.cw.seq), rpl := l.rpl != toggle }).count (F.ZL_ERR_REPLAYS p)

/-- An out-of-turn block restripes the transmitter onto its lane mask, with a replay; the copies of the block on the other lanes
name lanes that are in force already (R196, R207). -/
def State.restripe (s : State) (p : Fin 4) (mask : Nat) : State :=
  let tx := s.get (F.ZL_STATUS_TX_LANES p)
  if tx &&& mask = tx then s
  else if tx &&& mask = 0 then s.portDown p
  else
    let t := (s.put (F.ZL_STATUS_TX_LANES p) (tx &&& mask)).startRemap p false
    (t.onPort p fun l => { l with tx := { l.tx with phase := 0, blocks := 0 } }).startReplay p false

/-- The lanes of a mask carry one CW_COUNT in their last blocks, with a skew of at most 40 ns; none where the counts differ
(R191, R196). -/
def aligned (marks : Vector (Option (BitVec 16 × Nat)) 4) (lanes : Nat) : Option Bool :=
  let l := (List.finRange 4).filter fun (i : Fin 4) => lanes.testBit i
  match (l.map fun i : Fin 4 => marks[i]).mapM id with
  | some (x :: xs) =>
    if xs.all (·.1 == x.1) then
      some ((x :: xs).all fun a => (x :: xs).all fun b => decide (a.2 ≤ b.2 + 40))
    else none
  | _ => none

/-- A scheduled block accepted on a lane: the lanes are deskewed on the blocks that carry the same CW_COUNT (R191, R196). -/
def State.markLane (s : State) (p lane : Fin 4) (count : BitVec 16) : State :=
  s.onPort p fun l =>
    let marks := l.marks.set lane (some (count, s.clock))
    { l with marks := marks, rx := { l.rx with units := 672, blocks := l.rx.blocks ||| 2 ^ lane.val }
             deskewed := (aligned marks (s.get (F.ZL_STATUS_RX_LANES p))).getD l.deskewed }

/-- ALIGNMENT_BLOCK_RX: a block is accepted when its AM and AM_CRC are correct (R196). -/
def State.alignRx (s : State) (p lane : Fin 4) (b : AlignBlock) : State :=
  if b.am ≠ 0x3B5DC60E#32 ∨ b.crc ≠ crc16Of 8 (alignValue b) then s
  else if b.oot then s.restripe p b.rxMask.toNat
  else s.markLane p lane b.cwCount

def execAlignmentBlockRx (p lane : Fin 4) (blk : AlignBlock) (s : State) : Host.Outcome State Fault Refusal :=
  s.ifUp fun s => s.when (s.portUp p) (·.alignRx p lane blk)

/-- The port after the remap of one direction; once none goes on, the time it took is taken off what the codewords of the replay
buffer have waited (R206). -/
def LinkPort.remapped (l : LinkPort) (receive : Bool) (now : Nat) : LinkPort :=
  let l := if receive then { l with rxRemap := none } else { l with txRemap := none }
  match l.rxRemap, l.txRemap, l.paused with
  | none, none, some t => { l with
      paused := none, replay := l.replay.map fun r => { r with firstAt := r.firstAt + (now - max t r.firstAt) } }
  | _, _, _ => l

/-- REMAP_COMPLETE: a direction is remapped; event 3, and event 6 with fewer lanes than offered (R207, R226). -/
def State.remapDone (s : State) (p : Fin 4) (receive : Bool) : State :=
  let t := s.onPort p fun l => l.remapped receive s.clock
  let t := t.put (F.ZL_STATUS_STATE p) (if t.link.port[p].paused.isNone then 2 else 3)
  let t := (t.count (F.ZL_ERR_REMAPS p)).raise (srcLink p 3)
  t.raiseIf (s.get (if receive then F.ZL_STATUS_RX_LANES p else F.ZL_STATUS_TX_LANES p) != capLanes (s.lcap p)) (srcLink p 6)

/-- When a direction's remap started, if one is in progress. -/
def LinkPort.remapAt (l : LinkPort) (receive : Bool) : Option Nat := if receive then l.rxRemap else l.txRemap

def execRemapComplete (p : Fin 4) (receive : Bool) (s : State) : Host.Outcome State Fault Refusal :=
  s.ifUp fun s => s.when (s.portUp p && (s.link.port[p].remapAt receive).isSome) (·.remapDone p receive)

/-- REMAP_TIMEOUT: a remap that is not complete within 8 µs takes the port down, with event 4 (R207, R226). -/
def State.remapLate (s : State) (p : Fin 4) : Bool :=
  s.portUp p && [true, false].any fun d => match s.link.port[p].remapAt d with
    | some t => decide (t + 8000 ≤ s.clock)
    | none => false

def execRemapTimeout (p : Fin 4) (s : State) : Host.Outcome State Fault Refusal :=
  s.ifUp fun s => s.when (s.remapLate p) fun s => (s.raise (srcLink p 4)).portDown p

/-- ACK_TIMEOUT: a codeword unacknowledged for 2 µs, not counting remaps, or sent 4 times (R206). -/
def State.ackLate (s : State) (p : Fin 4) : Bool :=
  s.portUp p && s.link.port[p].replay.any fun r =>
    (s.link.port[p].paused.isNone && decide (r.firstAt + 2000 ≤ s.clock)) || decide (4 ≤ r.sends)

def execAckTimeout (p : Fin 4) (s : State) : Host.Outcome State Fault Refusal :=
  s.ifUp fun s => s.when (s.ackLate p) fun s => (s.raise (srcLink p 5)).portDown p

/-- PORT_DOWN: the port loses lock (R207). -/
def execPortDown (p : Fin 4) (s : State) : Host.Outcome State Fault Refusal :=
  s.ifUp fun s => s.when (s.portUp p) (·.portDown p)

/-! ## Codewords in (R205) -/

/-- A cell into what a priority has received of a packet: what it holds then, a packet that is whole, and a packet that will
never be whole: one that a new FIRST cuts off, or one that ends without its first cell (R193, R210). -/
def growPacket (old : Option Packet) (c : Cell) : Option Packet × Option Packet × Option Packet :=
  let d := c.payload.take ((c.hdr.toNat / 128) % 64)
  let k : Packet := ⟨c.hdr.extractLsb' 0 4, c.hdr.getLsbD 4, d⟩
  let first := c.hdr.getLsbD 5
  let last := c.hdr.getLsbD 6
  match old with
  | none => if first then (if last then (none, some k, none) else (some k, none, none))
      else (none, none, if last then some k else none)
  | some x =>
    if first then (if last then (none, some k, some x) else (some k, none, some x))
    else
      let y := { x with data := x.data ++ d }
      if last then (none, some y, none) else (some y, none, none)

/-- A cell taken in order: a packet's bytes gather by priority, and a whole packet joins those received; with how many packets
are lost for BADPKT (R193, R208, R210). -/
def LinkPort.takeIn (l : LinkPort) (c : Cell) : LinkPort × Nat :=
  let ty := c.hdr.extractLsb' 0 4
  let put (l : LinkPort) (w : Option Packet) : LinkPort := { l with rxPkts := l.rxPkts ++ w.toList }
  if ty = 0 ∨ 7 ≤ ty then (l, 0)
  else match prioOf ty with
    | 1 => let (x, w, bad) := growPacket l.rx1 c; (put { l with rx1 := x } w, partial1 bad)
    | 2 => let (x, w, bad) := growPacket l.rx2 c; (put { l with rx2 := x } w, partial1 bad)
    | _ => let (x, w, bad) := growPacket l.rx3 c; (put { l with rx3 := x } w, partial1 bad)

/-- A cell of a codeword received in order: a time token acts at once, other cells gather. -/
def State.cellIn (s : State) (p : Fin 4) (retx : Bool) (c : Cell) : State :=
  if c.hdr.extractLsb' 0 4 = 7 then s.timeToken p (parseToken c.payload retx) (s.arrival p)
  else
    let r := s.link.port[p].takeIn c
    (s.onPort p fun _ => r.1).badPackets p r.2

/-- Acknowledgement: the codewords up to ACK_SEQ leave the replay buffer (R206). -/
def LinkPort.ackTo (l : LinkPort) (a : BitVec 8) : LinkPort :=
  if l.replay.any fun r => r.cw.seq == a then
    { l with acked := a, replay := (l.replay.dropWhile fun r => r.cw.seq != a).drop 1
             resend := l.resend.filter fun q => !(l.replay.takeWhile fun r => r.cw.seq != a).any (·.cw.seq == q) && q != a }
  else { l with acked := a }

/-- The ACK and NAK fields of a correctly decoded codeword (R205): a NAK whose ECHO is the present RPL starts a replay. -/
def State.ackNak (s : State) (p : Fin 4) (cw : Codeword) : State :=
  let t := s.onPort p (·.ackTo cw.ack)
  if cw.nak && cw.echo == s.link.port[p].rpl then t.startReplay p true else t

/-- Corrected symbols of the lanes noted, those older than 10 µs forgotten (R207). -/
def State.noteErrors (s : State) (p : Fin 4) (errs : List Nat) : State :=
  s.onPort p fun l => { l with
    corr := ((List.range 4).filterMap fun i => if errs.count i = 0 then none else some (i, s.clock, errs.count i)) ++
      l.corr.filter fun e => decide (s.clock ≤ e.2.1 + 10000) }

/-- A lane whose corrected symbols of the last 10 µs exceed LANE_LIMIT (R207). -/
def State.badLane (s : State) (p : Fin 4) : Option (Fin 4) :=
  (List.finRange 4).find? fun i => decide
    (s.get (F.ZL_LANE_LIMIT_LIMIT p) < ((s.link.port[p].corr.filter (·.1 == i.val)).map (·.2.2)).sum)

/-- A correctly decoded codeword, `errs` the lane of each symbol corrected. In order it is taken in, otherwise it is discarded and
NAK is sent from the next codeword on (R205). -/
def State.codewordRx (s : State) (p : Fin 4) (cw : Codeword) (errs : List Nat) : State :=
  let t := (s.noteErrors p errs).ackNak p cw
  let t := if cw.seq = t.link.port[p].rxSeq + 1 then
      cw.cells.foldl (fun u c => u.cellIn p cw.retx c)
        (t.onPort p fun l => { l with rxSeq := cw.seq, echo := cw.rpl, nak := false })
    else t.onPort p fun l => { l with nak := true }
  match t.badLane p with
  | some i => t.failLane p i
  | none => t

/-- What the active receive lanes of a deskewed port carry, reassembled and decoded, with the lane of each symbol corrected;
none where it is uncorrectable (R191, R195). -/
def State.decodeLine (s : State) (p : Fin 4) (line : List (List (BitVec 2))) : Option (Codeword × List Nat) :=
  let l := s.link.port[p]
  let lanes := maskLanes (s.get (F.ZL_STATUS_RX_LANES p))
  if l.deskewed ∧ line.length = lanes.length then
    (gatherLanes l.rx.phase (line.map (lineBits l.ver))).bind fun w => (rsDecode w).map fun r =>
      (parseCodeword r.1, r.2.map fun i => lanes.getD ((l.rx.phase + i) % lanes.length) 0)
  else none

/-- The receiver passes a boundary of scheduled blocks: each active lane has had its block, or has missed one more in a row
(R196). -/
def LinkPort.boundary (l : LinkPort) (lanes : Nat) : LinkPort :=
  if l.rx.due then { l with
    rx := Stripe.reset
    missed := Vector.ofFn fun i : Fin 4 =>
      if lanes.testBit i && !l.rx.blocks.testBit i then l.missed[i] + 1 else 0 }
  else l

/-- A lane that has missed two scheduled blocks in a row: it has lost alignment-block lock (R196). -/
def State.lostLane (s : State) (p : Fin 4) : Option (Fin 4) :=
  (List.finRange 4).find? fun i => decide (2 ≤ s.link.port[p].missed[i]) && (s.get (F.ZL_STATUS_RX_LANES p)).testBit i

/-- CODEWORD_RX: what the lanes carry for the time of one codeword. An uncorrectable codeword counts as not received (R205). -/
def State.lineIn (s : State) (p : Fin 4) (line : List (List (BitVec 2))) : State :=
  let lanes := s.get (F.ZL_STATUS_RX_LANES p)
  let t := s.onPort p (·.boundary lanes)
  match t.lostLane p with
  | some i => t.failLane p i
  | none =>
    let u := t.onPort p fun l => { l with rx := l.rx.next (maskLanes lanes).length }
    match t.decodeLine p line with
    | some (cw, errs) => u.codewordRx p cw errs
    | none => u

def execCodewordRx (p : Fin 4) (line : List (List (BitVec 2))) (s : State) : Host.Outcome State Fault Refusal :=
  s.ifUp fun s => s.when (s.portUp p) (·.lineIn p line)

/-! ## The port's registers (R224) -/

/-- PORT_ENABLE: writing EN 1 starts training. -/
def State.portEnable (s : State) (p : Fin 4) : State :=
  if s.bit (F.ZL_CFG_EN p) then s else (s.put (F.ZL_CFG_EN p) 1).startTraining p false

def execPortEnable (p : Fin 4) (s : State) : Host.Outcome State Fault Refusal := s.ifUp (·.portEnable p)

/-- PORT_DISABLE: writing EN 0 takes the port down at once; its queued packets are discarded and counted. -/
def State.portDisable (s : State) (p : Fin 4) : State :=
  let t := s.put (F.ZL_CFG_EN p) 0
  if s.portUp p then t.leaveUp p 0 else (t.setLink p 0 0).discardQueues p

def execPortDisable (p : Fin 4) (s : State) : Host.Outcome State Fault Refusal := s.ifUp (·.portDisable p)

/-- PORT_RETRAIN: the port goes down and trains again, in full. -/
def State.portRetrain (s : State) (p : Fin 4) : State :=
  if !s.bit (F.ZL_CFG_EN p) then s
  else (if s.portUp p then s.leaveUp p 0 else s).startTraining p false

def execPortRetrain (p : Fin 4) (s : State) : Host.Outcome State Fault Refusal := s.ifUp (·.portRetrain p)

/-- PORT_WAKE: WAKE_REQ goes out in the next training exchange; WAKE reads 1 until then (R204). -/
def execPortWake (p : Fin 4) (s : State) : Host.Outcome State Fault Refusal := s.ifUp (·.put (F.ZL_CFG_WAKE p) 1)

/-- ZL_PORT_CLR clears ZL_p_ERR, ZL_p_DROP and ZL_p_TT_COUNT. -/
def State.portClr (s : State) (p : Fin 4) : State :=
  ((s.setReg (F.ZL_ERR_addr p) 0).setReg (F.ZL_DROP_addr p) 0).setReg (F.ZL_TT_COUNT_addr p) 0

def execZlPortClr (p : Fin 4) (s : State) : Host.Outcome State Fault Refusal := s.ifUp (·.portClr p)

end Sys2Proof.Machine
end

