-- ==== Sys2Proof/Machine/Clock.lean ====
section
/-! DEFINITION. The six PLLs and the reference clock (R341–R351, R237): commits, relocks from band slots, phase steps, lock loss
and what each domain does in it. -/

namespace Sys2Proof.Machine

/-- The state with one PLL changed. -/
def State.onPll (s : State) (n : Fin 6) (f : Pll → Pll) : State := { s with pll := s.pll.set n (f s.pll[n]) }

/-- A DRAM PLL, whose dividers apply only with a frequency change (R343, R345). -/
def isDramPll (n : Fin 6) : Bool := n == 2 || n == 3

/-- A PLL that takes spread spectrum and phase steps (R341). -/
def isSteppable (n : Fin 6) : Bool := n != 0 && n != 5

/-- The divider set in force: that of the active timing set for a DRAM PLL. -/
def State.pllSet (s : State) (n : Fin 6) : Nat := if isDramPll n then s.get F.DRAMC_FREQ_CTL_ACTIVE else 0

/-- The VCO frequency to which a PLL locks, in MHz. -/
def State.pllVco (s : State) (n : Fin 6) : Nat :=
  if isDramPll n then vcoMhz s.get n (s.pllSet n) else vcoMhz s.actGet n 0

/-! ## The fall-back of each domain (R237, R269, R348) -/

/-- The time base runs on its backup, with event 5 at the start and event 6 at the end (R237, R252). -/
def State.setBackup (s : State) (on : Bool) : State :=
  if s.bit F.TB_STATE_BACKUP = on then s else (s.putB F.TB_STATE_BACKUP on).raise (srcTb (if on then 5 else 6))

/-- Every panel lane stops: blocks that fall in the gap are missed (R269, R348). -/
def State.stopPanels (s : State) : State :=
  allLanes.foldl (fun (u : State) x =>
    if u.panelUp x.1 && (u.get (F.PANEL_STATUS_LANES_UP x.1)).testBit x.2 then
      (u.flushLane x.1 x.2).onPanelLane x.1 x.2 fun y => { y with down := true, line := none } else u) s

/-- The lanes that stopped go on, with their catch-up LATCH blocks (R269, R270). -/
def State.resumePanels (s : State) : State :=
  allLanes.foldl (fun (u : State) x =>
    if u.panelUp x.1 && (u.get (F.PANEL_STATUS_LANES_UP x.1)).testBit x.2 && (u.panelLane x.1 x.2).down then
      (u.onPanelLane x.1 x.2 fun y => { y with down := false }).catchUp x.1 x.2 else u) s

/-- Every link and Ethernet port that is up goes down (R348). -/
def State.portsLost (s : State) : State :=
  let t := (List.finRange 4).foldl (fun (u : State) (p : Fin 4) =>
    if u.get (F.ZL_STATUS_STATE p) = 2 ∨ u.get (F.ZL_STATUS_STATE p) = 3 then u.portDown p else u) s
  (List.finRange 2).foldl (fun (u : State) (p : Fin 2) => if u.bit (F.ETH_STATUS_LINK p) then u.ethLink p false else u) t

/-- What a domain does while its PLL has no lock: the interface of a DRAM PLL holds its requests by the PLL's own state. -/
def State.domainLost (s : State) (n : Fin 6) : State :=
  match n with
  | 0 => s.setBackup true
  | 1 => s.stopPanels
  | 5 => s.portsLost
  | _ => s

/-- What it does once the PLL has locked again. -/
def State.domainBack (s : State) (n : Fin 6) : State :=
  match n with
  | 0 => s.setBackup false
  | 1 => s.resumePanels
  | 2 => s.drainAll
  | 3 => s.drainAll
  | _ => s

/-- The output is gated and a relock begins; outstanding phase steps are discarded (R346). -/
def State.unlock (s : State) (n : Fin 6) (commit : Bool) : State :=
  let t := (((s.put (F.PLL_CTL_LOCK n) 0).put (F.PLL_CTL_GATED n) 1).put (F.PLL_PHASE_STEP n) 0)
  (t.onPll n fun p => { p with relock := true, commit := commit, steps := 0 }).domainLost n

/-! ## Commits (R342, R343, R347) -/

/-- The registers with pending copies. -/
def pllRegs (n : Nat) : List Nat := [F.PLL_DIV_addr n 0, F.PLL_FRAC_addr n 0, F.PLL_SSC_addr n]

/-- The pending dividers and spread obey R341, R342 and R347. -/
def State.pllLegal (s : State) (n : Fin 6) : Bool :=
  let mode := s.get (F.PLL_SSC_MODE n)
  let depth := s.get (F.PLL_SSC_DEPTH n)
  let fmod := s.get (F.PLL_SSC_FMOD n)
  dividersLegal s.get n 0 &&
  (mode == 0 || (isSteppable n && mode != 3 && decide (depth ≤ (if mode = 1 then 100 else 50) ∧ 300 ≤ fmod ∧ fmod ≤ 330)))

/-- A commit needs no relock: at most F changes, by less than 0.1 % of f_VCO, and the spread. -/
def State.pllSlews (s : State) (n : Fin 6) : Bool :=
  let f := s.get (F.PLL_FRAC_F n 0)
  let g := s.actGet (F.PLL_FRAC_F n 0)
  s.reg (F.PLL_DIV_addr n 0) == s.actReg (F.PLL_DIV_addr n 0) &&
  decide (1000 * ((f : Int) - g).natAbs < s.actGet (F.PLL_DIV_N n 0) * 2 ^ 24 + g)

/-- A commit or write is refused, with event 5 (R343, R346). -/
def State.pllRefuse (s : State) (n : Fin 6) : State := (s.put (F.PLL_CTL_REFUSED n) 1).raise (srcPll n 5)

/-- The pending copies are applied or refused. A PLL that is not enabled takes them without a relock (DEDUCED, log 19). -/
def State.applyPll (s : State) (n : Fin 6) : State :=
  let t := s.put (F.PLL_CTL_COMMIT n) 0
  if isDramPll n || !s.pllLegal n then t.pllRefuse n
  else
    let slews := s.pllSlews n || !s.bit (F.PLL_CTL_EN n)
    let u := t.activate (pllRegs n)
    if slews then u.raise (srcPll n 4) else (u.put (F.PLL_CTL_COMMIT n) 1).unlock n true

/-- PLL_COMMIT. -/
def State.commitPll (s : State) (n : Fin 6) : State :=
  if s.pll[n].commit then s.put (F.PLL_CTL_PENDING n) 1 else s.applyPll n

def execPllCommit (n : Fin 6) (s : State) : Host.Outcome State Fault Refusal := s.ifUp (·.commitPll n)

/-! ## Lock loss and relock (R344, R348) -/

/-- A commit has ended; one that waits is applied next (R343). -/
def State.nextCommit (s : State) (n : Fin 6) : State :=
  s.when (s.bit (F.PLL_CTL_PENDING n)) fun s => (s.put (F.PLL_CTL_PENDING n) 0).applyPll n

/-- A PLL loses lock; a relocking commit in progress ends with it. -/
def State.loseLock (s : State) (n : Fin 6) : State :=
  s.when (s.bit (F.PLL_CTL_LOCK n) || s.pll[n].commit) fun s =>
    ((((s.put (F.PLL_CTL_COMMIT n) 0).count (F.PLL_STAT_LOSSES n)).raise (srcPll n 0)).unlock n false).nextCommit n

def execPllLockLoss (n : Fin 6) (s : State) : Host.Outcome State Fault Refusal := s.ifUp (·.loseLock n)

/-- The band slot that matches a VCO frequency within 25 MHz. -/
def State.matchSlot (s : State) (n : Fin 6) (mhz : Nat) : Option Nat :=
  (List.range 8).find? fun k => s.bit (F.PLL_BAND_VALID n k) &&
    decide (((s.get (F.PLL_BAND_FREQ_MHZ n k) : Int) - mhz).natAbs ≤ 25)

/-- The slot that a search replaces: the least recently used, not 0 or 1 of a DRAM PLL (R345). -/
def State.oldestSlot (s : State) (n : Fin 6) : Nat :=
  (s.pll[n].lru.find? fun k => !(isDramPll n && decide (k < 2))).getD 7

/-- The PLL locks on slot `k`. -/
def State.lockOn (s : State) (n : Fin 6) (k : Nat) : State :=
  let t := ((s.put (F.PLL_STAT_SLOT n) k).put (F.PLL_CTL_LOCK n) 1).put (F.PLL_CTL_GATED n) 0
  t.onPll n fun p => { p with relock := false, commit := false, lru := (p.lru.filter fun j => j != k) ++ [k] }

/-- The PLL locks from a stored band, or by a search whose result is stored (R344). -/
def State.lockPll (s : State) (n : Fin 6) (storedFailed : Bool) (code : Nat) : State :=
  let mhz := s.pllVco n
  match s.matchSlot n mhz, storedFailed with
  | some k, false => s.lockOn n k
  | m, _ =>
    let k := s.oldestSlot n
    let t := s.raiseIf m.isSome (srcPll n 3)
    ((t.storeBand n k mhz code).raise (srcPll n 2)).lockOn n k

/-- PLL_RELOCK: event 1; the end of a relocking commit is event 4, and one that waits is applied next. -/
def State.relock (s : State) (n : Fin 6) (storedFailed : Bool) (code : Nat) : State :=
  s.when (s.pll[n].relock && s.bit F.PLL_REF_STAT_OK) fun s =>
    let commit := s.pll[n].commit
    let t := ((s.lockPll n storedFailed code).raise (srcPll n 1)).domainBack n
    (t.when commit fun t => (t.put (F.PLL_CTL_COMMIT n) 0).raise (srcPll n 4)).nextCommit n

def execPllRelock (n : Fin 6) (storedFailed : Bool) (code : BitVec 7) (s : State) : Host.Outcome State Fault Refusal :=
  s.ifUp (·.relock n storedFailed code.toNat)

/-- A write of PLL_n_CTL.EN: a PLL that is switched off has its output held low; one that is switched on locks (R341). -/
def State.enablePll (s : State) (n : Fin 6) (on : Bool) : State :=
  if n = 0 ∨ n = 5 ∨ s.bit (F.PLL_CTL_EN n) = on then s
  else
    let t := s.putB (F.PLL_CTL_EN n) on
    if on then t.onPll n fun p => { p with relock := true }
    else ((((t.put (F.PLL_CTL_LOCK n) 0).put (F.PLL_CTL_GATED n) 1).put (F.PLL_CTL_COMMIT n) 0).onPll n fun p =>
      { p with relock := false, commit := false }).domainLost n

/-! ## Phase (R346) -/

/-- PLL_PHASE_STEP. -/
def State.phaseStep (s : State) (n : Fin 6) (value : Word) : State :=
  if !isSteppable n then s.pllRefuse n
  else
    let d := (BitVec.setWidth 13 value).toInt
    let x := max (-4095) (min 4095 (s.pll[n].steps + d))
    (s.putS (F.PLL_PHASE_STEP n) x).onPll n fun p => { p with steps := x }

def execPllPhaseStep (n : Fin 6) (value : Word) (s : State) : Host.Outcome State Fault Refusal := s.ifUp (·.phaseStep n value)

/-- One step of a PLL, where more than the last is outstanding: the last is PLL_PHASE_DONE. -/
def State.stepOnce (s : State) (n : Fin 6) : State :=
  let x := s.pll[n].steps
  s.when (decide (1 < x.natAbs)) fun s =>
    let y := if 0 < x then x - 1 else x + 1
    (s.putS (F.PLL_PHASE_STEP n) y).onPll n fun p => { p with steps := y }

/-- A cycle of REFCLK25 has begun since the clock read `old`: each PLL applies one step. -/
def State.stepPhases (s : State) (old : Nat) : State :=
  s.when (s.bit F.PLL_REF_STAT_OK && s.clock / 40 != old / 40) fun s =>
    (List.finRange 6).foldl (fun (u : State) (n : Fin 6) => u.stepOnce n) s

/-- PLL_PHASE_DONE: the last outstanding step. -/
def State.lastStep (s : State) (n : Fin 6) : State :=
  s.when (s.pll[n].steps.natAbs == 1) fun s =>
    ((s.put (F.PLL_PHASE_STEP n) 0).onPll n fun p => { p with steps := 0 }).raise (srcPll n 6)

def execPllPhaseDone (n : Fin 6) (s : State) : Host.Outcome State Fault Refusal := s.ifUp (·.lastStep n)

def execPllStatClr (n : Fin 6) (s : State) : Host.Outcome State Fault Refusal := s.ifUp (·.put (F.PLL_STAT_LOSSES n) 0)

/-! ## The reference (R349) -/

/-- REFCLK_LOSS: every enabled PLL loses lock, and the time base runs on the internal oscillator. -/
def State.refLost (s : State) : State :=
  s.when (s.bit F.PLL_REF_STAT_OK) fun s =>
    let t := ((s.put F.PLL_REF_STAT_OK 0).put F.PLL_REF_STAT_LOST 1).raise (srcPll 0 7)
    ((List.finRange 6).foldl (fun (u : State) n => u.loseLock n) t).setBackup true

def execRefclkLoss (s : State) : Host.Outcome State Fault Refusal := s.ifOn State.refLost

/-- REFCLK_RETURN: each PLL's relock may follow. -/
def execRefclkReturn (s : State) : Host.Outcome State Fault Refusal := s.ifOn (·.put F.PLL_REF_STAT_OK 1)

end Sys2Proof.Machine
end

