-- ==== Sys2Proof/Machine/Calib.lean ====
section
/-! DEFINITION. The five calibration domains (R372–R375) and the ray model (R376, R323). Domain 0 has the link ports as its ports, domain
1 the link ports and, as 4 and 5, the Ethernet ports; the others check and apply as a whole, as port 0. -/

namespace Sys2Proof.Machine

/-- The state with one domain changed. -/
def State.onCal (s : State) (d : Fin 5) (f : CalDomain → CalDomain) : State := { s with cal := s.cal.set d (f s.cal[d]) }

/-- The ports of a domain. -/
def calPorts (d : Fin 5) : List Nat := List.range (match d with
  | 0 => 4
  | 1 => 6
  | _ => 1)

/-- The steps of an application in the domain's unit: 1 ns is 16 codes of domain 1. -/
def calStep (d : Fin 5) : Int := if d = 1 ∨ d = 3 then 16 else 1

/-! ## Temperature inputs (R372, R373) -/

/-- The sensors of a domain. -/
def calSensors (d : Fin 5) : List Nat := match d with
  | 0 => [16, 17, 18, 19]
  | 1 => [16, 17, 18, 19]
  | 2 => [20, 21, 22, 23]
  | _ => [24, 25, 26, 27]

/-- T_d, where there is one. -/
def State.calTemp (s : State) (d : Fin 5) : Option Int :=
  if d = 3 then some (s.getS F.TRL_TSEL_STAT_TEMP)
  else (((calSensors d).filter fun k => !s.bit (F.TMON_S_FAILED k)).map fun k => s.getS (F.TMON_S_TEMP k)).max?

/-- The temperature has moved by more than DELTA from T_REF. -/
def State.calMoved (s : State) (d : Fin 5) : Bool :=
  !(d == 3 && s.bit F.TRL_TSEL_STAT_NO_SENSOR) && match s.calTemp d with
    | some t => decide (max 1 (s.get (F.CAL_CFG_DELTA d)) < (t - s.getS (F.CAL_STAT_T_REF d)).natAbs)
    | none => false

/-! ## Values -/

/-- The position of the angle interpolation. -/
def State.anglePos (s : State) : Int := 256 * s.get F.TRL_ANG_WEIGHT_LO_BAND + min 256 (s.get F.TRL_ANG_WEIGHT_WEIGHT)

/-- The values applied on a port. Those of domains 3 and 4 are the fields that they move. -/
def State.calApplied (s : State) (d : Fin 5) (p : Nat) : List Int := match d with
  | 3 => [s.anglePos]
  | 4 => (List.range 4).map fun k => s.getS (F.HVPS_SET_TRIM k)
  | _ => assocGet [] p s.cal[d].applied

/-- The values accepted before; for domains 3 and 4 those in force where none has been (DEDUCED, log 20). -/
def State.calPrev (s : State) (d : Fin 5) (p : Nat) : List Int :=
  match s.cal[d].accepted.find? fun x => x.1 == p with
  | some x => x.2
  | none => if d = 3 ∨ d = 4 then s.calApplied d p else []

/-- The row pair of a temperature: from the pair in force along ascending centres (DEDUCED, log 20). -/
def State.angleRowFor (s : State) (t : Int) : Nat → Nat → Nat
  | 0, lo => lo
  | n + 1, lo =>
    let c (j : Nat) : Int := s.getS (F.TRL_ANG_TEMP_CENTRE j)
    if lo < 14 ∧ c (lo + 1) ≤ t ∧ c lo < c (lo + 1) ∧ c (lo + 1) < c (lo + 2) then s.angleRowFor t n (lo + 1)
    else if 0 < lo ∧ t < c lo ∧ c (lo - 1) < c lo then s.angleRowFor t n (lo - 1) else lo

/-- The position for the panel temperature (R49), a weight halfway between two integers rounded up (DESIGN CHOICE, log 20: the
manual gives no rule for a tie); none where the row pair does not ascend. -/
def State.angleTarget (s : State) : Option Int :=
  let t := s.getS F.TRL_TSEL_STAT_TEMP
  let lo := s.angleRowFor t 15 (min 14 (s.get F.TRL_ANG_WEIGHT_LO_BAND))
  let a := s.getS (F.TRL_ANG_TEMP_CENTRE lo)
  let b := s.getS (F.TRL_ANG_TEMP_CENTRE (lo + 1))
  if b ≤ a then none else some (256 * lo + max 0 (min 256 ((512 * (t - a) + (b - a)) / (2 * (b - a)))))

/-! ## Runs (R373–R375) -/

/-- STATE of a domain: measuring before applying. -/
def State.calState (s : State) (d : Fin 5) : State :=
  s.put (F.CAL_STAT_STATE d) (if !s.cal[d].measuring.isEmpty then 1 else if !s.cal[d].target.isEmpty then 2 else 0)

/-- A run ends refused, or without a result. -/
def State.calFails (s : State) (d : Fin 5) (k : Nat) : State :=
  ((s.put (F.CAL_STAT_REFUSED d) 1).count (F.CAL_COUNT_REFUSALS d)).raise (srcCal (4 * d + k))

/-- Every value lies in its window, and within STEP of the one accepted before. -/
def State.calOk (s : State) (d : Fin 5) (p : Nat) (l : List Int) : Bool :=
  let prev := s.calPrev d p
  l.zipIdx.all fun x =>
    decide (s.getS (F.CAL_WIN_MIN d) ≤ x.1 ∧ x.1 ≤ s.getS (F.CAL_WIN_MAX d)) && match prev[x.2]? with
      | some y => decide ((x.1 - y).natAbs ≤ s.get (F.CAL_STEP_STEP d))
      | none => true

/-- A result is checked; an accepted one is applied from the values in force. -/
def State.calResult (s : State) (d : Fin 5) (p : Nat) (l : List Int) : State :=
  if s.calOk d p l then
    let t := (s.put (F.CAL_STAT_REFUSED d) 0).count (F.CAL_COUNT_ACCEPTS d)
    t.onCal d fun c => { c with
      accepted := assocSet [] p l c.accepted, target := assocSet [] p l c.target
      stepAt := if c.target.isEmpty then s.clock else c.stepAt }
  else s.calFails d 1

/-- A run starts on the ports named that measure nothing yet. Domain 3 measures at once. -/
def State.calStart (s : State) (d : Fin 5) (ports : List Nat) : State :=
  let new := ports.filter fun p => !s.cal[d].measuring.contains p
  s.when (!new.isEmpty && (s.mode == .run || s.mode == .boot) && !(d == 3 && s.get F.TRL_SAT_BASE_BASE == 0)) fun s =>
    let (w, s) := match s.calTemp d with
      | some t => (t, s)
      | none => let (x, u) := s.draw; (x.toInt, u)
    let t := (s.putS (F.CAL_STAT_T_REF d) w).put (F.CAL_STAT_PORT d) (if d = 0 ∨ d = 1 then new.getLastD 0 % 4 else 0)
    let t := if d = 3 then (match t.angleTarget with
        | some x => t.calResult 3 0 [x]
        | none => t.calFails 3 1)
      else t.onCal d fun c => { c with measuring := c.measuring ++ new }
    t.calState d

/-- CAL_RUN on a port. -/
def execCalRun (d : Fin 5) (p : Fin 4) (s : State) : Host.Outcome State Fault Refusal :=
  s.ifUp (·.calStart d (if d = 0 ∨ d = 1 then [p.val] else [0]))

/-- The temperature triggers of a sample. -/
def State.calTriggers (s : State) : State :=
  (List.finRange 5).foldl (fun (u : State) (d : Fin 5) =>
    u.when (u.bit (F.CAL_CFG_AUTO d) && u.calMoved d) fun v => v.calStart d (calPorts d)) s

/-- The measurement on the first port that measures ends. -/
def State.calMeasured (s : State) (d : Fin 5) (result : Option (List Int)) : State :=
  match s.cal[d].measuring with
  | [] => s
  | p :: rest =>
    let t := s.onCal d fun c => { c with measuring := rest }
    let t := if d = 2 then t.onDram fun x => { x with steps := 0, stepAt := Vector.replicate 8 none } else t
    let t := match result with
      | some l => t.calResult d p l
      | none => t.calFails d 2
    t.calState d

def execCalMeasureDone (d : Fin 5) (result : Option (List Int)) (s : State) : Host.Outcome State Fault Refusal :=
  s.ifUp (·.calMeasured d result)

/-! ## Application (R372, R49) -/

/-- A value moved toward its target. -/
def stepTo (n a b : Int) : Int := if a < b then min b (a + n) else max b (a - n)

/-- Values moved toward their targets; where none was applied before, the target applies at once (DEDUCED, log 20). -/
def stepAll (n : Int) (l target : List Int) : List Int :=
  target.zipIdx.map fun x => match l[x.2]? with
    | some a => stepTo n a x.1
    | none => x.1

/-- The angle interpolation moved toward a position: LO_BAND changes at WEIGHT 0 or 256 alone. The change of LO_BAND moves no
angle, so WEIGHT moves on in the same step (DESIGN CHOICE, log 20: R49 does not say whether the change takes a frame of its own). -/
def State.stepAngle (s : State) (target : Int) : State :=
  let lo := s.get F.TRL_ANG_WEIGHT_LO_BAND
  let w := min 256 (s.get F.TRL_ANG_WEIGHT_WEIGHT)
  let (lo, w) := if s.anglePos < target ∧ w = 256 ∧ lo < 15 then (lo + 1, 0)
    else if target < s.anglePos ∧ w = 0 ∧ 0 < lo then (lo - 1, 256) else (lo, w)
  let x := stepTo 16 w (max 0 (min 256 (target - 256 * lo)))
  (s.put F.TRL_ANG_WEIGHT_LO_BAND lo).put F.TRL_ANG_WEIGHT_WEIGHT x.toNat

/-- One step of a port's application. -/
def State.calStepPort (s : State) (d : Fin 5) (p : Nat) (target : List Int) : State :=
  let new := stepAll (calStep d) (s.calApplied d p) target
  let t : State := match d with
    | 3 => s.stepAngle (target.getD 0 0)
    | 4 => new.zipIdx.foldl (fun (u : State) x => if x.2 < 4 then u.putS (F.HVPS_SET_TRIM x.2) x.1 else u) s
    | _ => s.onCal d fun c => { c with applied := assocSet [] p new c.applied }
  if (t.calApplied d p).take target.length = target then
    (t.onCal d fun c => { c with target := assocErase p c.target }).raise (srcCal (4 * d + 3))
  else t

/-- The frame in which the angle interpolation steps: its number and the last launch or HOLD tick. -/
def State.angleFrame (s : State) : Nat × Option Word := (s.frm.count, s.frm.tickBase)

/-- The interval of a domain in ns; that of domain 2 is tREFI of the active timing set (R372). -/
def State.calEvery (s : State) (d : Fin 5) : Nat :=
  match d with
  | 0 => 10000
  | 2 => s.get (F.DRAMC_TSET_3_tREFI (s.get F.DRAMC_FREQ_CTL_ACTIVE))
  | 3 => 0
  | _ => 1000000

/-- The interval since the latest step has passed; the angle interpolation steps once a frame (R49, R372). -/
def State.calDue (s : State) (d : Fin 5) : Bool :=
  decide (s.cal[d].stepAt + s.calEvery d ≤ s.clock) && (d != 3 || s.cal[d].stepFrame != some s.angleFrame)

/-- CAL_APPLY_STEP: an interval of the domain has passed for every port that applies. -/
def State.calApply (s : State) (d : Fin 5) : State :=
  s.when (s.calDue d) fun s =>
    let t := s.onCal d fun c => { c with stepAt := s.clock, stepFrame := if d = 3 then some s.angleFrame else none }
    (s.cal[d].target.foldl (fun (u : State) x => u.calStepPort d x.1 x.2) t).calState d

def execCalApplyStep (d : Fin 5) (s : State) : Host.Outcome State Fault Refusal := s.ifUp (·.calApply d)

def execCalClr (d : Fin 5) (s : State) : Host.Outcome State Fault Refusal := s.ifUp (·.setReg (F.CAL_COUNT_addr d) 0)

/-- Cellar entry abandons measurements and stops applications where they are. -/
def State.calStop (s : State) : State :=
  (List.finRange 5).foldl (fun (u : State) (d : Fin 5) => (u.onCal d fun c => { c with measuring := [], target := [] }).calState d) s

/-! ## The ray model (R376, R323) -/

/-- The calibration store. -/
def calStore : Nat := 0x03800000
def calStoreSize : Nat := 0x01000000

/-- The model in DRAM and its size. -/
def State.modelBase (s : State) : Nat := s.get F.CAL_MODEL_BASE_BASE * 4096
def State.modelSize (s : State) : Nat :=
  (s.actGet F.TRL_TILE_GEOM_WIDTH_M1 + 1) * (s.actGet F.TRL_TILE_GEOM_HEIGHT_M1 + 1) * 64

/-- The range holds the model: populated, short of the reserved 128 KiB (R324). -/
def State.modelRange (s : State) : Bool :=
  decide (dramBase ≤ s.modelBase ∧ s.modelBase + s.modelSize + 131072 ≤ dramBase + s.dramSize)

/-- A refused load: every entry DEAD, VALID clear, event 21. -/
def State.modelRefused (s : State) : State :=
  let entry : List Byte := [0, 0, 0, 0, 0, 0, 0, 0x80]
  let t := s.store calStore ((List.replicate (calStoreSize / 8) entry).flatten)
  (t.put F.CAL_MODEL_CTL_VALID 0).raise (srcCal 21)

/-- The model copied into the store, its bytes with it. -/
def State.modelCopy (s : State) (ecc : List EccHit) : List Byte × State :=
  let (bs, t) := s.dramRead s.modelBase s.modelSize ecc
  (bs, t.store calStore bs)

/-- The bytes copied pass their check, or the load is refused. -/
def State.modelCheck (s : State) (bs : List Byte) : State :=
  if crc32c bs = s.reg F.CAL_MODEL_CRC_addr then (s.put F.CAL_MODEL_CTL_VALID 1).raise (srcCal 20) else s.modelRefused

/-- CAL_MODEL_CTL.LOAD. -/
def State.modelLoad (s : State) : State :=
  s.when (!s.bit F.CAL_MODEL_CTL_LOAD) fun s =>
    if s.frm.hold && s.modelRange then s.put F.CAL_MODEL_CTL_LOAD 1 else s.modelRefused

def execCalModelLoad (s : State) : Host.Outcome State Fault Refusal := s.ifUp State.modelLoad

/-- CAL_MODEL_LOAD_DONE: the copy stands once the controller has served it. -/
def State.modelLoaded (s : State) (ecc : List EccHit) : State :=
  s.when (s.bit F.CAL_MODEL_CTL_LOAD && s.dramGrants .calReload) fun s =>
    let (bs, t) := (s.put F.CAL_MODEL_CTL_LOAD 0).modelCopy ecc
    t.modelCheck bs

def execCalModelLoadDone (ecc : List EccHit) (s : State) : Host.Outcome State Fault Refusal := s.ifUp (·.modelLoaded ecc)

/-- The reload of a wake: checked where VALID was set; one that cannot read the model is then refused (DEDUCED, log 20). -/
def State.modelReload (s : State) (ecc : List EccHit) : State :=
  let valid := s.bit F.CAL_MODEL_CTL_VALID
  if s.dramGrants .calReload && s.modelRange then
    let (bs, t) := s.modelCopy ecc
    if valid then t.modelCheck bs else t
  else if valid then s.modelRefused else s

end Sys2Proof.Machine
end

