-- ==== Sys2Proof/Machine/EventCmd.lean ====
section
/-! DEFINITION. The commands of the event fabric: raise, clear, enable, unmask, release of EVENT_N (R393, R394). -/

namespace Sys2Proof.Machine

/-- EVENT_RAISE (R393). -/
def execEventRaise (source : BitVec 10) (s : State) : Host.Outcome State Fault Refusal := s.ifUp (·.raise source.toNat)

/-- The sources of group `g` whose bits are set in a word. -/
def groupSources (g : Nat) (w : Word) : List Nat := ((List.range 32).filter fun i => w.getLsbD i).map fun i => 32 * g + i

/-- A write of EVT_STAT_g, with the sources of the group that blocks raise together with it: a raised bit stays 1 (R393). -/
def State.clearStatus (s : State) (g : Nat) (value together : Word) : State :=
  let t := (groupSources g together).foldl State.raise s
  t.setReg (F.EVT_STAT_addr g) (t.reg (F.EVT_STAT_addr g) &&& ~~~(value &&& ~~~together))

def execEvtStatClear (g : Fin 32) (value : Word) (together : Word) (s : State) : Host.Outcome State Fault Refusal :=
  s.ifUp (·.clearStatus g value together)

/-- A write of EVT_EN_g: sources that become active are delivered (R394). -/
def State.writeEnable (s : State) (g : Nat) (value : Word) : State :=
  (groupSources g (s.reg (F.EVT_STAT_addr g) &&& value &&& ~~~s.reg (F.EVT_EN_addr g))).foldl (State.deliver State.raise)
    (s.setReg (F.EVT_EN_addr g) value)

def execEvtEnableWrite (g : Fin 32) (value : Word) (s : State) : Host.Outcome State Fault Refusal :=
  s.ifUp (·.writeEnable g value)

/-- A vector is unmasked; the message that its PBA bit keeps goes out (R394). -/
def State.unmask (s : State) (v : Fin 64) : State :=
  let keep := ~~~(1#64 <<< v.val)
  let t := { s with evt := { s.evt with mask := s.evt.mask &&& keep } }
  t.when (s.evt.pba.getLsbD v && s.pcieUp) fun t => { t with evt := { t.evt with pba := t.evt.pba &&& keep } }.emit (.msi v)

def execMsixUnmask (v : Fin 64) (s : State) : Host.Outcome State Fault Refusal := s.ifUp (·.unmask v)

/-- EVENT_N goes high once no source routed to it is active (R394); in the Cellar too, where the pin still works (R352). -/
def execEventNRelease (s : State) : Host.Outcome State Fault Refusal :=
  s.ifOn fun s => s.when (!s.pinActive) fun s => { s with eventN := false }

end Sys2Proof.Machine
end

