-- ==== Sys2Proof/WellFormed.lean ====
section
/-! DEFINITION. What a well-formed command is, beyond what the types of its operands say: an address on a word boundary, a
codeword on one to four lanes, a management request whose data fits its count. A meaning exists for every command, well-formed or not. -/

namespace Sys2Proof

/-- The bits of a fuse field (R385). -/
def FuseField.bits : FuseField → Nat
  | .grade => 2
  | .authEn => 1
  | .jtagLock => 1
  | .keyHash => 384
  | .rollback => 64
  | .pciVid => 16
  | .user => 1024
  | .tvedveram => 536

/-- A request carries no data or one word for each register (R218). -/
def MgmtReq.wf (r : MgmtReq) : Bool := r.data.isEmpty || r.data.length == r.countM1.toNat + 1

/-- Whether a command is well-formed. -/
def Instr.wf : Instr → Bool
  | .registerWrite _ a _ => a.toNat % 4 == 0
  | .fuseProgram f b => decide (b < f.bits)
  | .codewordRx _ line => decide (0 < line.length ∧ line.length ≤ 4)
  | .mgmtRead _ r => r.wf && r.data.isEmpty
  | .mgmtWrite _ r => r.wf && !r.data.isEmpty
  | .mgmtWriteResp _ r => r.wf && !r.data.isEmpty
  | .packetRx _ k => !k.data.isEmpty
  | .dramRequest _ _ op _ => match op with
      | .read n => decide (0 < n)
      | .write d => !d.isEmpty
  | _ => true

end Sys2Proof
end

