-- ==== Sys2Proof/Machine/HostIf.lean ====
section
/-! DEFINITION. The PCI Express endpoint and its ingest rings, the other host interfaces, the fuse array and JTAG (R385, R387, R388,
R390, R391). -/

namespace Sys2Proof.Machine

/-! ## The link (R387, R391) -/

/-- The link goes down: every ring stops with ERR set (R388). -/
def State.pcieDown (s : State) : State :=
  s.when s.pcieUp fun s =>
    let t := (List.range 4).foldl (fun (u : State) r => u.put (F.HOST_DMA_CFG_ERR r) 1) { s with pcieUp := false }
    t.raise (srcPcie 1)

/-- PCIE_LINK_CHANGE. -/
def State.pcieChange (s : State) (kind : PcieChange) : State :=
  match kind with
  | .up => s.when (!s.pcieUp) fun s => ({ s with pcieUp := true }).raise (srcPcie 0)
  | .down => s.pcieDown
  | .reduced => s.raiseIf s.pcieUp (srcPcie 2)

def execPcieLinkChange (kind : PcieChange) (s : State) : Host.Outcome State Fault Refusal := s.ifUp (·.pcieChange kind)

def execPcieUncorrectableError (s : State) : Host.Outcome State Fault Refusal := s.ifUp (·.raise (srcPcie 3))

/-! ## Ingest rings (R388) -/

/-- A number in a descriptor: `n` bytes from an offset. -/
def descNat (l : List Byte) (off n : Nat) : Nat := natOfBytes ((l.drop off).take n)

/-- The fields of an ingest descriptor obey R388. -/
def State.ingestOk (s : State) (d : List Byte) : Bool :=
  let len := descNat d 16 4
  decide (d.length = 32 ∧ 1 ≤ len ∧ len ≤ 16777216 ∧ descNat d 13 3 = 0 ∧ descNat d 22 1 ≤ 1 ∧ descNat d 23 9 = 0) &&
    s.memRange (descNat d 8 5) len

/-- The ring runs: enabled, without an error, a descriptor posted, the link up. -/
def State.ingestRuns (s : State) (r : Fin 4) : Bool :=
  s.bit (F.HOST_DMA_CFG_EN r) && !s.bit (F.HOST_DMA_CFG_ERR r) && decide (2 ≤ s.get (F.HOST_DMA_SIZE_N r)) && s.pcieUp &&
    s.get (F.HOST_DMA_PTR_RPTR r) != s.get (F.HOST_DMA_PTR_WPTR r)

/-- The ring stops on an error. -/
def State.ingestStop (s : State) (r : Fin 4) : State := (s.put (F.HOST_DMA_CFG_ERR r) 1).raise (srcPcie (8 + r))

/-- HOST_DMA_DESCRIPTOR: the ring's next descriptor, the data that its reads returned, and the errors that a write of a burst in part
meets; writes to DRAM wait for the controller. -/
def State.ingest (s : State) (r : Fin 4) (desc data : List Byte) (ok : Bool) (ecc : List EccHit) : State :=
  s.when (s.ingestRuns r) fun s =>
    let dst := descNat desc 8 5
    if !s.ingestOk desc then s.ingestStop r
    else if dramBase ≤ dst ∧ !s.dramGrants (.hostDma r) then s
    else
      let t := s.writeAny dst (data.take (descNat desc 16 4)) ecc
      if !ok then t.ingestStop r
      else
        let i := s.get (F.HOST_DMA_PTR_RPTR r)
        let u := t.put (F.HOST_DMA_PTR_RPTR r) (if i + 1 < s.get (F.HOST_DMA_SIZE_N r) then i + 1 else 0)
        u.raiseIf (descNat desc 22 1 == 1) (srcPcie (4 + r))

def execHostDmaDescriptor (r : Fin 4) (desc : List Byte) (data : List Byte) (ok : Bool) (ecc : List EccHit) (s : State) :
    Host.Outcome State Fault Refusal := s.ifUp (·.ingest r desc data ok ecc)

/-- HOST_DMA_DISABLE: the ring stops; a descriptor is one command, so that none is in progress. -/
def execHostDmaDisable (r : Fin 4) (s : State) : Host.Outcome State Fault Refusal := s.ifUp (·.put (F.HOST_DMA_CFG_EN r) 0)

/-! ## Other interfaces (R391) -/

def execAvsbusStatusAlert (s : State) : Host.Outcome State Fault Refusal := s.ifUp (·.raise (srcHost 3))
def execQspiTransferDone (s : State) : Host.Outcome State Fault Refusal := s.ifUp (·.raise (srcHost 4))

/-! ## Fuses and JTAG (R385, R390) -/

/-- A bit of a fuse field. -/
def Fuses.bit (f : Fuses) (field : FuseField) (i : Nat) : Bool :=
  match field with
  | .grade => f.grade.getLsbD i
  | .authEn => f.authEn
  | .jtagLock => f.jtagLock
  | .keyHash => f.keyHash.getLsbD i
  | .rollback => f.rollback.getLsbD i
  | .pciVid => f.pciVid.getLsbD i
  | .user => f.user.getLsbD i
  | .tvedveram => f.trims.getLsbD i

/-- The array with a bit of a field programmed. -/
def Fuses.program (f : Fuses) (field : FuseField) (i : Nat) : Fuses :=
  match field with
  | .grade => { f with grade := f.grade ||| (1 <<< i) }
  | .authEn => { f with authEn := true }
  | .jtagLock => { f with jtagLock := true }
  | .keyHash => { f with keyHash := f.keyHash ||| (1 <<< i) }
  | .rollback => { f with rollback := f.rollback ||| (1 <<< i) }
  | .pciVid => { f with pciVid := f.pciVid ||| (1 <<< i) }
  | .user => { f with user := f.user ||| (1 <<< i) }
  | .tvedveram => { f with trims := f.trims ||| (1 <<< i) }

/-- FUSE_PROGRAM: a bit goes from 0 to 1, once, while JTAG_LOCK as sensed is clear; it counts from the next reset on. -/
def State.programFuse (s : State) (field : FuseField) (i : Nat) : State :=
  s.when (!s.sensed.jtagLock && decide (i < field.bits) && !s.fuses.bit field i) fun s =>
    ({ s with fuses := s.fuses.program field i }).raise (srcBoot 4)

def execFuseProgram (field : FuseField) (bit : Nat) (s : State) : Host.Outcome State Fault Refusal :=
  s.ifUp (·.programFuse field bit)

/-- JTAG_ATTACH. -/
def execJtagAttach (s : State) : Host.Outcome State Fault Refusal := s.ifUp fun s => s.raiseIf (!s.sensed.jtagLock) (srcBoot 5)

end Sys2Proof.Machine
end

