-- ==== Sys2Proof/Machine/MgmtSend.lean ====
section
/-! DEFINITION. The sender of management requests (R218, R220) and the raw ring (R223). -/

namespace Sys2Proof.Machine

/-- The payload of the request image: 62 bytes of the 64 at ZL_MTX_ADDR, with SRC and EPOCH filled in (R218, R220). -/
def State.requestImage (s : State) : List Byte :=
  let m := s.mem.readBytes (64 * s.get F.ZL_MTX_ADDR_ADDR) 62
  let hi := (m.getD 6 0).toNat % 4 + 4 * s.get F.ZL_MGMT_EPOCH_EPOCH
  m.take 2 ++ [BitVec.ofNat 8 (s.get F.ZL_ADDR_X), BitVec.ofNat 8 (s.get F.ZL_ADDR_Y)] ++ (m.drop 4).take 2 ++
    [BitVec.ofNat 8 hi] ++ m.drop 7

/-- A management packet toward the tile that its first bytes name; `here` takes one for this tile (R212, R218). -/
def State.routeMgmt (s : State) (here : State → List Byte → State) (up : Bool) (bs : List Byte) : State :=
  match s.hop (bs.getD 0 0).toNat (bs.getD 1 0).toNat ((bs.getD 4 0).getLsbD 0) with
  | .here => here s bs
  | .nowhere => s.routeDrop State.raise
  | .port p => s.enqueue State.raise p false ⟨3, up, bs⟩

/-- ZL_MTX_CTL.SEND: the request goes out, and SEND reads 0 again (R220). -/
def State.sendRequest (here : State → List Byte → State) (s : State) : State :=
  (s.put F.ZL_MTX_CTL_SEND 0).routeMgmt here false s.requestImage

/-- A packet for this tile waits with the packets received on port 0 (DEDUCED, log 25). -/
def State.holdHere (s : State) (bs : List Byte) : State := s.onPort 0 fun l => { l with rxPkts := l.rxPkts ++ [⟨3, false, bs⟩] }

/-! ## The raw ring (R223) -/

/-- Port `p` is in raw mode: RAW is set, the partner resolves it, and the ring has a size. -/
def State.rawPort (s : State) (p : Fin 4) : Bool :=
  s.bit (F.ZL_CFG_RAW p) && s.link.port[p].raw && s.bit F.ZL_RAW_SIZE_SIZE_4K

/-- The ring's size, and what it holds, in 64-byte units. -/
def State.rawUnits (s : State) : Nat := 64 * s.get F.ZL_RAW_SIZE_SIZE_4K
def State.rawUsed (s : State) : Nat :=
  (s.get F.ZL_RAW_WPTR_WR_64B + s.rawUnits - s.get F.ZL_RAW_RPTR_RD_64B % s.rawUnits) % s.rawUnits

/-- The data of a raw packet at the write offset, round the ring's end, as requests of the raw ring; full where no unit would stay free
(DEDUCED, log 25). -/
def State.rawArrives (s : State) (data : List Byte) : State :=
  let n := (data.length + 63) / 64
  let wr := s.get F.ZL_RAW_WPTR_WR_64B
  if s.rawUnits ≤ s.rawUsed + n then s.raise (srcLink 0 41)
  else
    let base := 4096 * s.get F.ZL_RAW_BASE_BASE
    let first := 64 * (s.rawUnits - wr)
    let t := s.requestWrite .rawRing (base + 64 * wr) (data.take first)
    let t := t.when (decide (first < data.length)) (·.requestWrite .rawRing base (data.drop first))
    t.put F.ZL_RAW_WPTR_WR_64B ((wr + n) % s.rawUnits)

def execRawPacketRx (p : Fin 4) (data : List Byte) (s : State) : Host.Outcome State Fault Refusal :=
  s.ifUp fun s => s.when (s.rawPort p && s.portUp p) (·.rawArrives data)

/-- A write of ZL_RAW_RPTR: one credit for each 4 KiB that the read offset passes, to the first port in raw mode (R223; which
port where there are several is a DESIGN CHOICE, log 25). -/
def State.writeRawRptr (s : State) (value : Word) : State :=
  let old := s.get F.ZL_RAW_RPTR_RD_64B
  let new := F.ZL_RAW_RPTR_RD_64B.of value
  let freed := if s.rawUnits = 0 then 0 else (new + s.rawUnits - old % s.rawUnits) % s.rawUnits
  let credits := (old % 64 + freed) / 64
  let t := s.put F.ZL_RAW_RPTR_RD_64B new
  match (List.finRange 4).find? t.rawPort with
  | some p => t.onPort p fun l => { l with credits := l.credits + credits }
  | none => t

def execRawRptrWrite (value : Word) (s : State) : Host.Outcome State Fault Refusal := s.ifUp (·.writeRawRptr value)

end Sys2Proof.Machine
end

