-- ==== Sys2Proof/Machine/Sequencer.lean ====
section
/-! DEFINITION. The instructions of the sequencer profile, but for register access and KICK, and the waking of threads
(R130–R141). -/

namespace Sys2Proof.Machine

/-! ## Flow (R133) -/

/-- FLOW `op`: legal fields, and where it goes on. -/
def State.flow (s : State) (t : Fin 16) (op sA : BitVec 5) (off : BitVec 16) (legal : Bool) (f : Thread → State → ThreadEffect) :
    State := s.threadIssue t (.flow op sA off) legal f

/-- The target of a FLOW instruction, as a signed integer. -/
def flowTarget (h : Thread) (off : BitVec 16) : Int := h.pc.toNat + 4 * off.toInt

/-- A branch on a condition of sA. -/
def State.flowIf (s : State) (t : Fin 16) (op sA : BitVec 5) (off : BitVec 16) (c : Word → Bool) : State :=
  s.flow t op sA off (Names.ok .scalar sA) fun h s => if c (h.sreg sA) then .jump s (flowTarget h off) else .ok s

def execFlowB (t : Fin 16) (sA : BitVec 5) (off : BitVec 16) (s : State) : Host.Outcome State Fault Refusal :=
  s.ifUp fun s => s.flow t 0 sA off (sA == 0) fun h s => .jump s (flowTarget h off)
def execFlowBz (t : Fin 16) (sA : BitVec 5) (off : BitVec 16) (s : State) : Host.Outcome State Fault Refusal :=
  s.ifUp (·.flowIf t 1 sA off fun a => a == 0)
def execFlowBnz (t : Fin 16) (sA : BitVec 5) (off : BitVec 16) (s : State) : Host.Outcome State Fault Refusal :=
  s.ifUp (·.flowIf t 2 sA off fun a => a != 0)
def execFlowBltz (t : Fin 16) (sA : BitVec 5) (off : BitVec 16) (s : State) : Host.Outcome State Fault Refusal :=
  s.ifUp (·.flowIf t 3 sA off fun a => a.msb)
def execFlowBgez (t : Fin 16) (sA : BitVec 5) (off : BitVec 16) (s : State) : Host.Outcome State Fault Refusal :=
  s.ifUp (·.flowIf t 4 sA off fun a => !a.msb)
def execFlowCall (t : Fin 16) (sA : BitVec 5) (off : BitVec 16) (s : State) : Host.Outcome State Fault Refusal :=
  s.ifUp fun s => s.flow t 5 sA off (sA == 0) fun h s => .jump (s.onThread t fun g => g.setS 15 (h.pc + 4)) (flowTarget h off)
def execFlowRet (t : Fin 16) (sA : BitVec 5) (off : BitVec 16) (s : State) : Host.Outcome State Fault Refusal :=
  s.ifUp fun s => s.flow t 6 sA off (sA == 0 && off == 0) fun h s => .jump s (h.sreg 15).toNat
def execFlowHalt (t : Fin 16) (sA : BitVec 5) (off : BitVec 16) (s : State) : Host.Outcome State Fault Refusal :=
  s.ifUp fun s => s.flow t 7 sA off (sA == 0 && off == 0) fun _ s => .stay (s.onThread t fun g => { g with st := .stopped })

/-! ## SIMM (R133) -/

def execSimmLow (t : Fin 16) (sD : BitVec 5) (zero : BitVec 4) (imm : BitVec 16) (s : State) : Host.Outcome State Fault Refusal :=
  s.ifUp fun s => s.threadIssue t (.simm sD zero 0 imm) (Names.ok .scalar sD && zero == 0) fun _ s =>
    .ok (s.onThread t fun g => g.setS sD (imm.setWidth 32))
def execSimmHigh (t : Fin 16) (sD : BitVec 5) (zero : BitVec 4) (imm : BitVec 16) (s : State) : Host.Outcome State Fault Refusal :=
  s.ifUp fun s => s.threadIssue t (.simm sD zero 1 imm) (Names.ok .scalar sD && zero == 0) fun _ s =>
    .ok (s.onThread t fun g => g.setS sD (imm ++ (g.sreg sD).extractLsb' 0 16))

/-! ## Time (R137, R139–R141) -/

/-- The thread waits at its PC. -/
def State.waits (s : State) (t : Fin 16) (w : ThreadState) : State := s.onThread t fun g => { g with st := w }

def execAtTime (t : Fin 16) (o : Opnd) (s : State) : Host.Outcome State Fault Refusal :=
  s.ifUp fun s => s.threadIssue t (.op 0x3A 0 o) (o.legal .nothing .scalar .nothing false) fun h s =>
    if s.reached (h.sreg o.srcA) then .ok s else .stay (s.waits t (.waitAt (h.sreg o.srcA)))

def execRdtb (t : Fin 16) (o : Opnd) (s : State) : Host.Outcome State Fault Refusal :=
  s.ifUp fun s => s.threadIssue t (.op 0x3A 1 o) (o.legal .scalar .nothing .nothing false) fun _ s =>
    .ok (s.onThread t fun g => g.setS o.dst s.now)

/-- A comparator number that a program may name: not 1 to 3 (R140). -/
def compOk (c : Nat) : Bool := decide (c = 0 ∨ 4 ≤ c)

/-- ARM sA, sB. -/
def execArm (t : Fin 16) (o : Opnd) (s : State) : Host.Outcome State Fault Refusal :=
  s.ifUp fun s => s.threadIssue t (.op 0x3A 2 o) (o.legal .nothing .scalar .scalar false) fun h s =>
    let c := (h.sreg o.srcB).toNat % 64
    if compOk c then .ok (s.armComp c (h.sreg o.srcA)) else .fault 1

/-- DISARM sB. -/
def execDisarm (t : Fin 16) (o : Opnd) (s : State) : Host.Outcome State Fault Refusal :=
  s.ifUp fun s => s.threadIssue t (.op 0x3A 3 o) (o.legal .nothing .nothing .scalar false) fun h s =>
    let c := (h.sreg o.srcB).toNat % 64
    if compOk c then .ok (s.disarmComp c) else .fault 1

/-! ## Events (R138) -/

/-- What a WAITEV returns now: the lowest active source of the thread, or 0xFFFF_FFFF at its deadline. -/
def State.waitResult (s : State) (t : Fin 16) (deadline : Option Word) : Option Word :=
  match s.evFor t with
  | some n => some (BitVec.ofNat 32 n)
  | none =>
    match deadline with
    | some d => if s.reached d then some 0xFFFFFFFF else none
    | none => none

/-- WAITEV, with or without a deadline. -/
def State.waitFor (s : State) (t : Fin 16) (sD : BitVec 5) (deadline : Option Word) : ThreadEffect :=
  match s.waitResult t deadline with
  | some w => .ok (s.onThread t fun g => g.setS sD w)
  | none => .stay (s.waits t (.waitEv (sD.setWidth 4) deadline))

def execWaitev (t : Fin 16) (o : Opnd) (s : State) : Host.Outcome State Fault Refusal :=
  s.ifUp fun s => s.threadIssue t (.op 0x3B 0 o) (o.legal .scalar .nothing .nothing false) fun _ s => s.waitFor t o.dst none

def execWaitevDeadline (t : Fin 16) (o : Opnd) (s : State) : Host.Outcome State Fault Refusal :=
  s.ifUp fun s => s.threadIssue t (.op 0x3B 1 o) (o.legal .scalar .scalar .nothing false) fun h s =>
    s.waitFor t o.dst (some (h.sreg o.srcA))

def execSignal (t : Fin 16) (o : Opnd) (s : State) : Host.Outcome State Fault Refusal :=
  s.ifUp fun s => s.threadIssue t (.op 0x3B 2 o) (o.legal .nothing .scalar .nothing false) fun h s =>
    .ok (s.raise (srcSeq ((h.sreg o.srcA).toNat % 16)))

/-- YIELD: the turn ends with every instruction of its priority (R131), so that nothing more happens here. -/
def execYield (t : Fin 16) (o : Opnd) (s : State) : Host.Outcome State Fault Refusal :=
  s.ifUp fun s => s.threadIssue t (.op 0x3B 3 o) (o.legal .nothing .nothing .nothing false) fun _ s => .ok s

/-- THREAD_WAKE: a waiting thread whose condition holds is ready at the instruction after its wait (R132). -/
def State.wakeThread (s : State) (t : Fin 16) : State :=
  let h := s.seq.thr[t]
  let go (f : Thread → Thread) : State := (s.onThread t fun g => { f g with st := .ready }).threadGoto t (h.pc.toNat + 4)
  match h.st with
  | .waitAt w => s.when (s.reached w) fun _ => go id
  | .waitEv sD d =>
    match s.waitResult t d with
    | some w => go fun g => g.setS (sD.setWidth 5) w
    | none => s
  | _ => s

def execThreadWake (t : Fin 16) (s : State) : Host.Outcome State Fault Refusal := s.ifUp (·.wakeThread t)

/-! ## Memory (R135, R321) -/

/-- An address that LD, ST and XCHG reach: on chip, aligned, outside the kernel store and the press local stores. -/
def seqData (a : Nat) : Bool :=
  decide (a % 4 = 0) && onChip a 4 && !inRange 0x06200000 0x06900000 a

/-- The address of LD and ST. -/
def Thread.addr (h : Thread) (o : Opnd) : Nat := (h.sreg o.srcA + BitVec.ofNat 32 (4 * o.low.toNat)).toNat

/-- A word that a thread reads, with the errors met reported: a free value under one that cannot be corrected (DESIGN CHOICE, log 10). -/
def State.wordGot (s : State) (a : Nat) (ecc : List EccHit) : Word × State :=
  let t := s.eccReports (s.eccIn a 4 ecc)
  if s.eccBad a 4 ecc then t.draw else (t.word a, t)

def execLd (t : Fin 16) (o : Opnd) (ecc : List EccHit) (s : State) : Host.Outcome State Fault Refusal :=
  s.ifUp fun s => s.threadIssue t (.low 0x3C o) (o.legal .scalar .scalar .nothing false) fun h s =>
    if seqData (h.addr o) then
      let (w, s) := s.wordGot (h.addr o) ecc
      .ok (s.onThread t fun g => g.setS o.dst w)
    else .fault 3

def execSt (t : Fin 16) (o : Opnd) (s : State) : Host.Outcome State Fault Refusal :=
  s.ifUp fun s => s.threadIssue t (.low 0x3D o) (o.legal .scalar .scalar .nothing false) fun h s =>
    if seqData (h.addr o) then .ok (s.storeWord (h.addr o) (h.sreg o.dst)) else .fault 3

def execXchg (t : Fin 16) (o : Opnd) (ecc : List EccHit) (s : State) : Host.Outcome State Fault Refusal :=
  s.ifUp fun s => s.threadIssue t (.op 0x3E 2 o) (o.legal .scalar .scalar .nothing false) fun h s =>
    let a := (h.sreg o.srcA).toNat
    if seqData a then
      let (w, s) := s.wordGot a ecc
      .ok ((s.storeWord a (h.sreg o.dst)).onThread t fun g => g.setS o.dst w)
    else .fault 3

/-! ## Threads (R130) -/

/-- A stopped or faulted thread starts at an address with its own number in s0. -/
def State.startThread (s : State) (u : Fin 16) (pc : Word) : State :=
  let h := s.seq.thr[u]
  s.when (h.st == .stopped || h.st == .faulted) fun s =>
    ((s.onThread u fun g => { g.setS 0 (BitVec.ofNat 32 u) with st := .ready }).put (F.SEQ_THR_STAT_CAUSE u) 0).threadGoto u pc.toNat

/-- A thread stops. -/
def State.stopThread (s : State) (u : Fin 16) : State := s.onThread u fun g => { g with st := .stopped }

/-- TSTART sA, sB. -/
def execTstart (t : Fin 16) (o : Opnd) (s : State) : Host.Outcome State Fault Refusal :=
  s.ifUp fun s => s.threadIssue t (.op 0x3E 4 o) (o.legal .nothing .scalar .scalar false) fun h s =>
    .ok (s.startThread (Fin.ofNat 16 (h.sreg o.srcA).toNat) (h.sreg o.srcB))

/-- TSTOP sA. -/
def execTstop (t : Fin 16) (o : Opnd) (s : State) : Host.Outcome State Fault Refusal :=
  s.ifUp fun s => s.threadIssue t (.op 0x3E 5 o) (o.legal .nothing .scalar .nothing false) fun h s =>
    .ok (s.stopThread (Fin.ofNat 16 (h.sreg o.srcA).toNat))

end Sys2Proof.Machine
end

