-- ==== Sys2Proof/Machine/Thermal.lean ====
section
/-! DEFINITION. The temperature sensors (R363, R364), thresholds, Lull and the critical shutdown (R365–R368, R370). -/

namespace Sys2Proof.Machine

/-! ## Critical shutdown (R367) -/

/-- A shutdown is latched for a sensor: event 47, GOA_DIS high, rails off without a settle; the logic stops once they are. -/
def State.shutDown (s : State) (sensor : Nat) (failed : Bool) : State :=
  let t := (((s.put F.TMON_SD_CAUSE_SENSOR sensor).putB F.TMON_SD_CAUSE_FAILED failed).put F.TMON_SD_CAUSE_VALID 1).raise (srcTherm 47)
  let t := t.onHv fun h => { h with dis := true }
  if t.hvState = 0 ∨ t.hvState = 5 then { t with mode := .shutdown } else if t.hvState = 3 then t else t.powerOff

/-- SHDN_N is low: only while a shutdown is latched (R367, R410). -/
def State.shdnLow (s : State) : Bool := s.bit F.TMON_SD_CAUSE_VALID

/-! ## On-die sensors (R363) -/

/-- FAIL_KIND of a reading; 0 for a temperature. -/
def failKind : Reading → Nat
  | .temp _ => 0
  | .opened => 1
  | .shorted => 2
  | .timeout => 3

/-- TEMP of a reading; a failed one reads full scale. -/
def readingOf : Reading → Nat
  | .temp t => t.toNat
  | _ => 0x7FFF

/-- One sensor sampled. A sensor whose FAILED is set reads full scale whatever it samples. -/
def State.sampleOne (s : State) (k : Nat) (r : Reading) : State :=
  if s.bit (F.TMON_S_FAILED k) then s.put (F.TMON_S_TEMP k) 0x7FFF
  else
    let t := s.put (F.TMON_S_TEMP k) (readingOf r)
    if failKind r = 0 then t
    else ((t.put (F.TMON_S_FAILED k) 1).put (F.TMON_S_FAIL_KIND k) (failKind r)).raise (srcTherm k)

/-- The hottest of the sensors in a list: its number and its reading, the lowest number first. -/
def State.hottest (s : State) (l : List Nat) : Option (Nat × Int) :=
  l.foldl (fun best k =>
    let x := s.getS (F.TMON_S_TEMP k)
    match best with
    | some (j, y) => if y < x then some (k, x) else some (j, y)
    | none => some (k, x)) none

/-- The sensors that count for a shutdown. -/
def State.unmasked (s : State) : List Nat :=
  (List.range 32).filter fun k => !(s.reg F.TMON_SD_MASK_addr).getLsbD k

/-! ## Thresholds and Lull (R365, R366) -/

/-- The thresholds in the order WARN, LULL1 to LULL4, CRIT. -/
def thrFields : List Field :=
  [F.TMON_THR_0_WARN, F.TMON_THR_0_LULL1, F.TMON_THR_1_LULL2, F.TMON_THR_1_LULL3, F.TMON_THR_2_LULL4, F.TMON_THR_2_CRIT]

/-- A threshold's state after a sample: DEBOUNCE samples in a row at it set it, as many below it less HYST clear it. -/
def State.threshold (s : State) (i : Fin 6) (t : Option Int) : Bool × Nat :=
  let (on, n) := s.therm[i]
  let thr := s.getS (thrFields.getD i F.TMON_THR_2_CRIT)
  let turns := match t with
    | some x => if on then decide (x < thr - s.get F.TMON_CFG_HYST) else decide (thr ≤ x)
    | none => false
  if !turns then (on, 0)
  else if max 1 (s.get F.TMON_CFG_DEBOUNCE) ≤ n + 1 then (!on, 0) else (on, n + 1)

/-- The Lull level: the highest Lull threshold that is set. -/
def lullOf (th : Vector (Bool × Nat) 6) : Nat :=
  if th[4].1 then 4 else if th[3].1 then 3 else if th[2].1 then 2 else if th[1].1 then 1 else 0

/-- A change of the Lull level: the entry event of every level passed, or one event for a fall. -/
def State.setLull (s : State) (new : Nat) : State :=
  let old := s.get F.TMON_STAT_LULL
  let t := s.put F.TMON_STAT_LULL new
  if new < old then t.raise (srcTherm 46)
  else (List.range (new - old)).foldl (fun (u : State) i => u.raise (srcTherm (42 + old + i))) t

/-- The thresholds after a sample, with Warn, Lull and Critical. -/
def State.thresholds (s : State) : State :=
  let hot := s.hottest (List.range 32)
  let sd := s.hottest s.unmasked
  let old := s.therm
  let new : Vector (Bool × Nat) 6 := Vector.ofFn fun i => s.threshold i ((if i = 5 then sd else hot).map (·.2))
  let (k, x) := hot.getD (0, 0)
  let t := ({ s with therm := new }.put F.TMON_STAT_HOTTEST k).putS F.TMON_STAT_T x
  let t := (t.putB F.TMON_STAT_WARN new[0].1).raiseIf (new[0].1 != old[0].1) (srcTherm (if new[0].1 then 40 else 41))
  let t := t.setLull (lullOf new)
  if new[5].1 && !old[5].1 then
    let j := (sd.getD (0, 0)).1
    t.shutDown j (t.bit (F.TMON_S_FAILED j))
  else t

/-- SENSOR_SAMPLE: the 32 sensors, then the thresholds, then the calibration triggers (R373). -/
def State.sensorSample (s : State) (readings : List Reading) : State :=
  s.when (!s.bit F.TMON_SD_CAUSE_VALID) fun s =>
    let t := (List.range 32).foldl (fun (u : State) k => u.sampleOne k (readings.getD k .timeout)) s
    t.thresholds.calTriggers

def execSensorSample (readings : List Reading) (s : State) : Host.Outcome State Fault Refusal := s.ifUp (·.sensorSample readings)

/-! ## External sensors (R364) -/

/-- The reading of an external sensor in 1/128 °C: shifted and saturated. -/
def extReading (raw : BitVec 16) (shift : Int) : Int :=
  let v := raw.toInt
  let x := if shift < 0 then v / 2 ^ shift.natAbs else v * 2 ^ shift.natAbs
  max (-32768) (min 32767 x)

/-- EXT_SENSOR_POLL: a NACK or a timeout marks the sensor failed; it is also the event of its I3C controller (R391). -/
def State.extPoll (s : State) (k : Fin 8) (raw : Option (BitVec 16)) : State :=
  s.when (s.bit (F.TMON_EXT_CFG_EN k)) fun s =>
    let failed := s.bit (F.TMON_EXT_FAILED k)
    match raw with
    | some w => s.putS (F.TMON_EXT_TEMP k) (if failed then 0x7FFF else extReading w (s.getS (F.TMON_EXT_CFG_SHIFT k)))
    | none =>
      let t := (s.put (F.TMON_EXT_FAILED k) 1).put (F.TMON_EXT_TEMP k) 0x7FFF
      (t.raise (srcHost (s.get (F.TMON_EXT_CFG_BUS k)))).raiseIf (!failed) (srcTherm (32 + k))

def execExtSensorPoll (k : Fin 8) (raw : Option (BitVec 16)) (s : State) : Host.Outcome State Fault Refusal := s.ifUp (·.extPoll k raw)

/-- SENSOR_RETRY: FAILED is cleared, until the next sample or poll. -/
def State.retrySensor (s : State) (ext : Bool) (k : Fin 32) : State :=
  if !ext then s.put (F.TMON_S_FAILED k) 0 else if k.val < 8 then s.put (F.TMON_EXT_FAILED k) 0 else s

def execSensorRetry (ext : Bool) (k : Fin 32) (s : State) : Host.Outcome State Fault Refusal := s.ifUp (·.retrySensor ext k)

/-! ## Writes (R365, R370) -/

/-- WARN ≤ LULL1 < LULL2 < LULL3 < LULL4 < CRIT. -/
def thrOrdered (l : List Int) : Bool :=
  decide (l.getD 0 0 ≤ l.getD 1 0 ∧ l.getD 1 0 < l.getD 2 0 ∧ l.getD 2 0 < l.getD 3 0 ∧ l.getD 3 0 < l.getD 4 0 ∧
    l.getD 4 0 < l.getD 5 0)

/-- A write of TMON_THR_m. -/
def State.writeThr (s : State) (m : Fin 3) (value : Word) : State :=
  let a := F.TMON_THR_0_addr + 4 * m.val
  let t := s.setReg a value
  if s.bit F.TMON_CFG_LOCK then s.raiseIf (s.reg a != value) (srcBoot 3)
  else if thrOrdered (thrFields.map t.getS) then t else s.put F.TMON_CFG_BAD 1

def execTmonThrWrite (m : Fin 3) (value : Word) (s : State) : Host.Outcome State Fault Refusal := s.ifUp (·.writeThr m value)

/-- A write of TMON_CFG. -/
def State.writeTmonCfg (s : State) (value : Word) : State :=
  let t := s.put F.TMON_CFG_EXT_PERIOD_MS (F.TMON_CFG_EXT_PERIOD_MS.of value)
  let t := if F.TMON_CFG_BAD.of value = 1 then t.put F.TMON_CFG_BAD 0 else t
  let h := F.TMON_CFG_HYST.of value
  let d := F.TMON_CFG_DEBOUNCE.of value
  if s.bit F.TMON_CFG_LOCK then
    t.raiseIf (h != s.get F.TMON_CFG_HYST || d != s.get F.TMON_CFG_DEBOUNCE) (srcBoot 3)
  else
    let t := (t.put F.TMON_CFG_HYST h).put F.TMON_CFG_DEBOUNCE d
    if F.TMON_CFG_LOCK.of value = 1 then t.put F.TMON_CFG_LOCK 1 else t

def execTmonLock (value : Word) (s : State) : Host.Outcome State Fault Refusal := s.ifUp (·.writeTmonCfg value)

end Sys2Proof.Machine
end

