-- ==== Sys2Proof/Machine/Power.lean ====
section
/-! DEFINITION. The power states Run and Cellar, waking, and operating points (R352–R362). -/

namespace Sys2Proof.Machine

/-- The power control changed. -/
def State.onPwr (s : State) (f : PowerUnit → PowerUnit) : State := { s with pwr := f s.pwr }

/-- A blink region is enabled: the idle timer does not count (R353). -/
def State.blinking (s : State) : Bool := (List.range 16).any fun r => s.actGet (F.PANEL_BLINK_T_EN r) == 1

/-- Every index of a vector, its elements changed. -/
def overAll {n : Nat} (l : List (Fin n)) (f : State → Fin n → State) (s : State) : State := l.foldl f s

/-! ## Operating points (R360–R362) -/

/-- The transition is complete: cap and voltage of its goal in force, event 4. -/
def State.opDone (s : State) : State :=
  let b := s.pwr.goal
  let t := s.onPwr fun p => { p with cap := s.get (F.PWR_OP_CAP b), failed := false }
  ((((t.put F.PWR_OP_SEL_ACTIVE b).put F.PWR_OP_SEL_BUSY 0).put F.PWR_OP_SEL_LEG 0)).raise (srcPwr 4)

/-- Leg 1 toward the latest TARGET, then leg 2 where VCODE differs or the last transition failed, else leg 3. -/
def State.opStart (s : State) : State :=
  let b := s.get F.PWR_OP_SEL_TARGET
  let v := s.get (F.PWR_OP_VCODE b)
  let t := (s.put F.PWR_OP_SEL_PENDING 0).onPwr fun p => { p with
    goal := b, cap := min p.cap (s.get (F.PWR_OP_CAP b)), vgoal := v, voltAt := s.clock, good := 0 }
  if v = s.pwr.vcode ∧ !s.pwr.failed then t.opDone else (t.put F.PWR_OP_SEL_BUSY 1).put F.PWR_OP_SEL_LEG 2

/-- A TARGET waits for READY (R359). -/
def State.laterTarget (s : State) : State := s.onPwr fun p => { p with targetDue := true }

/-- OP_POINT_CHANGE: a write of TARGET. While READY is 0 it waits for READY (R359). -/
def State.writeTarget (s : State) (target : Nat) : State :=
  let t := s.put F.PWR_OP_SEL_TARGET target
  if s.mode != .run then t.laterTarget else if s.bit F.PWR_OP_SEL_BUSY then t.put F.PWR_OP_SEL_PENDING 1 else t.opStart

def execOpPointChange (target : BitVec 4) (s : State) : Host.Outcome State Fault Refusal := s.ifOn (·.writeTarget target.toNat)

/-- AVS_READBACK: the second read in a row within tolerance confirms the voltage; a further TARGET starts again from leg 1. -/
def State.avsRead (s : State) (mv : Nat) : State :=
  s.when (s.get F.PWR_OP_SEL_LEG == 2) fun s =>
    let near := decide (((mv : Int) - (550 + 5 * s.pwr.vgoal : Nat)).natAbs ≤ s.get F.PWR_AVS_CFG_TOL_MV)
    let t := s.onPwr fun p => { p with good := if near then p.good + 1 else 0 }
    if t.pwr.good < 2 then t
    else
      let u := t.onPwr fun p => { p with vcode := p.vgoal, failed := false }
      if u.bit F.PWR_OP_SEL_PENDING then u.opStart else u.opDone

def execAvsReadback (mv : Nat) (s : State) : Host.Outcome State Fault Refusal := s.ifUp (·.avsRead mv)

/-- The transition in progress ends. -/
def State.opEnd (s : State) : State := ((s.put F.PWR_OP_SEL_BUSY 0).put F.PWR_OP_SEL_LEG 0).put F.PWR_OP_SEL_PENDING 0

/-- AVS_TIMEOUT. -/
def State.avsTimeout (s : State) : State :=
  s.when (s.get F.PWR_OP_SEL_LEG == 2 && decide (s.pwr.voltAt + 1000 * s.get F.PWR_AVS_CFG_TIMEOUT_US ≤ s.clock)) fun s =>
    ((s.opEnd.onPwr fun p => { p with failed := true }).put F.PWR_OP_SEL_VFAIL 1).raise (srcPwr 5)

def execAvsTimeout (s : State) : Host.Outcome State Fault Refusal := s.ifUp State.avsTimeout

/-! ## Entry (R353, R354) -/

/-- Entry is asked for: event 0; it begins once no frame's slots run. -/
def State.askEntry (s : State) : State :=
  s.when (s.mode == .run && !s.pwr.entryDue) fun s => (s.onPwr fun p => { p with entryDue := true }).raise (srcPwr 0)

/-- IDLE_TIMEOUT. -/
def State.idleTimeout (s : State) : State :=
  let n := s.get F.PWR_IDLE_S
  s.when (n != 0 && !s.blinking && decide (s.pwr.idleFrom + n * 1000000000 ≤ s.clock)) State.askEntry

def execIdleTimeout (s : State) : Host.Outcome State Fault Refusal := s.ifUp State.idleTimeout

/-- SLEEP: dropped during a wake, ignored during an entry (R359). -/
def State.sleep (s : State) : State :=
  match s.mode with
  | .wake _ => (s.put F.PWR_STAT_SLEEP_DROPPED 1).raise (srcPwr 3)
  | _ => s.askEntry

def execSleep (s : State) : Host.Outcome State Fault Refusal := s.ifUp State.sleep

/-- HOLD as R29 applies it, at the end of the last slot or now. -/
def State.entryHold (s : State) : State :=
  ((if s.bit F.SEQ_FRM_FORMAT_HOLD then s else s.setHold).applyHold).put F.SEQ_FRM_FORMAT_HOLD 1

/-- A thread at the entry: stopped. -/
def Thread.halted (h : Thread) : Thread := { h with st := .stopped }

/-- A press at the entry: its work abandoned. -/
def Press.abandon (p : Press) : Press :=
  { p with does := match p.does with
      | .bundle _ => .idle
      | .job _ => .idle
      | x => x }

/-- Threads, work, held KICKs and comparators at the entry. -/
def State.stopWork (s : State) : State :=
  let s := { s with
    seq := { s.seq with thr := s.seq.thr.map Thread.halted, held := [], jobs := [] }
    press := s.press.map Press.abandon
    codec := { s.codec with lanes := s.codec.lanes.map fun n => { n with stripe := none, earlier := [], jobs := [] } }
    frm := { s.frm with transition := false }
    imgP := none
    imgS := none }
  let s := overAll (List.finRange 4) (fun (u : State) (r : Fin 4) => u.onRing r fun x => { x with queue := [], due := [] }) s
  let s := (List.range 64).foldl (fun (u : State) c => u.put (F.SEQ_LC_CFG_ARM c) 0) s
  if s.panel.push.isSome then s.endPush 3 else s

/-- The DRAM at the entry: at set 0, then in self-refresh. -/
def State.dramToCellar (s : State) : State :=
  s.when s.dramServes fun s =>
    let t := s.onDram fun d => { d with change := none, entering := false }
    let t := (t.put F.DRAMC_FREQ_CTL_BUSY 0).put F.DRAMC_FREQ_CTL_PENDING 0
    let t := if t.bit F.DRAMC_FREQ_CTL_ACTIVE then (t.discardStep.setActive false).raise (srcDram 4) else t
    if t.dram.asleep then t else t.dramSleep

/-- CELLAR_ENTRY. A transition in progress is abandoned, and its TARGET waits for READY (DEDUCED, log 22). -/
def State.enterCellar (s : State) : State :=
  s.when (s.mode == .run && s.pwr.entryDue && !s.slotsRunning) fun s =>
    let t := (s.when (s.bit F.PWR_OP_SEL_BUSY) State.laterTarget).entryHold.stopWork
    let t := ((t.calStop.dramToCellar).opEnd).put F.PWR_STAT_READY 0
    let t := { t with mode := .entry }.onPwr fun p => { p with entryDue := false, start := s.clock, sources := 0, port := 0 }
    t.settleDown

def execCellarEntry (s : State) : Host.Outcome State Fault Refusal := s.ifUp State.enterCellar

/-! ## In the Cellar (R352, R238, R320, R321) -/

/-- The ports go down. -/
def State.portsToCellar (s : State) : State :=
  let s := overAll (List.finRange 4) (fun (u : State) (p : Fin 4) =>
    let v := if u.portUp p then u.leaveUp p 0 else (u.setLink p 0 0).discardQueues p
    v.onPort p fun l => { l with train := Training.reset }) s
  let s := overAll (List.finRange 2) (fun (u : State) (p : Fin 2) => if u.bit (F.ETH_STATUS_LINK p) then u.ethLink p false else u) s
  let s := overAll (List.finRange 4) (fun (u : State) (p : Fin 4) => u.panelDown p 0) s
  s.pcieDown

/-- The PLLs stop. -/
def State.pllsStop (s : State) : State :=
  overAll (List.finRange 6) (fun (u : State) (n : Fin 6) =>
    (((u.put (F.PLL_CTL_LOCK n) 0).put (F.PLL_CTL_GATED n) 1).put (F.PLL_PHASE_STEP n) 0).onPll n fun p =>
      { p with relock := false, steps := 0 }) s

/-- The regions of on-chip memory that are not kept. -/
def lostRegions : List (Nat × Nat) := [(0x01000000, 0x06800000), (0x06990000, 0x07000000)]

/-- Registers of a thread undefined, drawn from number `k`. -/
def Thread.undefined (k : Nat) (h : Thread) : Thread :=
  { h with s := Vector.ofFn fun i => Config.freeWord (k + i), pc := Config.freeWord (k + 16) }

/-- Registers of every thread and press undefined. -/
def State.loseRegs (s : State) : State :=
  let s := overAll (List.finRange 16) (fun (u : State) (t : Fin 16) =>
    { u.onThread t (Thread.undefined u.free) with free := u.free + 17 }) s
  overAll (List.finRange 48) (fun (u : State) (n : Fin 48) => u.losePressRegs n) s

/-- The stripe queue, the frames of the store and what the reassembly holds are gone with their regions. -/
def State.loseStores (s : State) : State :=
  let s := lostRegions.foldl (fun (u : State) x => u.lose x.1 x.2) s
  { s with codec := { s.codec with queue := [], waiting := none, started := none, taint := [], halves := Vector.replicate 2 none }
           link := { s.link with ls := s.link.ls.map (fun l => { l with held := [] }), bootS := LocalStream.reset, tx := [] }
           frm := { s.frm with reportDue := [], holdBands := 0 } }

/-- The wake that the sources recorded so far start. -/
def State.startWake (s : State) : State :=
  let t := (s.put F.PWR_WAKE_CAUSE_CAUSE s.pwr.sources.toNat).put F.PWR_WAKE_CAUSE_PORT s.pwr.port
  { t with mode := .wake 1 }.onPwr fun p => { p with start := s.clock, sources := 0, port := 0, breaches := 0, crits := 0, slipped := false }

/-- The entry has run its table: 420 µs after the rails are off and the DRAM sleeps, 35 µs from the start (R354). -/
def State.entryOver (s : State) : Bool :=
  (s.hvState == 0 || s.hvState == 5) && decide (max (s.pwr.start + 35000) s.hv.offAt + 420000 ≤ s.clock)

/-- CELLAR_ENTRY_COMPLETE; VCORE stands at 0.55 V, VCODE 0. A wake source that came meanwhile wakes at once (R359). -/
def State.cellarDone (s : State) : State :=
  s.when (s.mode == .entry && s.entryOver) fun s =>
    let t := s.portsToCellar.pllsStop
    let t := (t.enterTb tbDoldrums).setBackup true
    let t := t.loseRegs.loseStores
    let t := { t with mode := .cellar }.onPwr fun p => { p with breaches := 0, crits := 0, vcode := 0 }
    t.when (s.pwr.sources != 0) State.startWake

def execCellarEntryComplete (s : State) : Host.Outcome State Fault Refusal := s.ifUp State.cellarDone

/-! ## Wake sources (R355, R356) -/

/-- Wake source `k` becomes active: it starts a wake in the Cellar, waits for the end of an entry, and means nothing
elsewhere. -/
def State.wakeBy (s : State) (k port : Nat) : State :=
  let note (u : State) : State := u.onPwr fun p => { p with sources := p.sources ||| (1#4 <<< k), port := if k = 0 then port else p.port }
  if (s.get F.PWR_WAKE_EN_EN).testBit k = false then s
  else match s.mode with
    | .cellar => (note s).startWake
    | .entry => note s
    | _ => s

def execWakePin (s : State) : Host.Outcome State Fault Refusal := s.ifOn (·.wakeBy 2 0)

/-- WAKE_ALARM: once for each write of PWR_WAKE_AT. -/
def State.alarm (s : State) : State :=
  s.when (s.pwr.alarm && s.reached (s.reg F.PWR_WAKE_AT_addr)) fun s => (s.onPwr fun p => { p with alarm := false }).wakeBy 3 0

def execWakeAlarm (s : State) : Host.Outcome State Fault Refusal := s.ifOn State.alarm

/-- The signed reading of a patrolled sensor. -/
def patrolTemp (r : Reading) : Int := (BitVec.ofNat 16 (readingOf r)).toInt

/-- The on-die readings of a patrol, masked sensors left out; a sensor whose FAILED is set reads full scale. -/
def State.patrolDie (s : State) (die : List Reading) : List (Nat × Int) :=
  s.unmasked.map fun k => (k, if s.bit (F.TMON_S_FAILED k) then 0x7FFF else patrolTemp (die.getD k .timeout))

/-- A reading lies outside a window. -/
def outside (lo hi : Int) (x : Option Int) : Bool := match x with
  | some v => decide (v < lo ∨ hi < v)
  | none => false

/-- A patrol finds a reading outside a window. -/
def State.patrolBreach (s : State) (die panel : List Reading) (lux : BitVec 16) : Bool :=
  let hot := ((s.patrolDie die).map (·.2)).max?
  let sel := ((List.range 8).filter fun k => (s.get F.PWR_BRZ_CFG_PANEL_MASK).testBit k).map fun k =>
    if s.bit (F.TMON_EXT_FAILED k) then 0x7FFF else patrolTemp (panel.getD k .timeout)
  let pwin (x : Option Int) : Bool := outside (s.getS F.PWR_BRZ_PWIN_LO) (s.getS F.PWR_BRZ_PWIN_HI) x
  outside (s.getS F.PWR_BRZ_TWIN_LO) (s.getS F.PWR_BRZ_TWIN_HI) hot || pwin sel.min? || pwin sel.max? ||
    (s.bit F.PWR_BRZ_CFG_LUX_EN && outside (s.get F.PWR_BRZ_LWIN_LO) (s.get F.PWR_BRZ_LWIN_HI) (some lux.toNat))

/-- BREEZE_PATROL: CRIT, confirmed, is a shutdown; a breach, confirmed, is wake source 1. -/
def State.patrol (s : State) (die panel : List Reading) (lux : BitVec 16) : State :=
  s.when (s.mode == .cellar && !s.bit F.TMON_SD_CAUSE_VALID) fun s =>
    let n := s.get F.PWR_BRZ_CFG_CONFIRM_M1 + 1
    let hot := (s.patrolDie die).foldl (fun (best : Option (Nat × Int)) x => match best with
      | some b => if b.2 < x.2 then some x else some b
      | none => some x) none
    let crit := match hot with
      | some b => decide (s.getS F.TMON_THR_2_CRIT ≤ b.2)
      | none => false
    let t := s.onPwr fun p => { p with
      breaches := if s.patrolBreach die panel lux then p.breaches + 1 else 0
      crits := if crit then p.crits + 1 else 0 }
    if n ≤ t.pwr.crits then
      let k := (hot.getD (0, 0)).1
      t.shutDown k (t.bit (F.TMON_S_FAILED k) || failKind (die.getD k .timeout) != 0)
    else if n ≤ t.pwr.breaches then t.wakeBy 1 0 else t

def execBreezePatrol (die : List Reading) (panel : List Reading) (lux : BitVec 16) (s : State) : Host.Outcome State Fault Refusal :=
  s.ifOn (·.patrol die panel lux)

/-! ## The wake table (R357, R358) -/

/-- The length of a wake step in ns. -/
def wakeNs (k : Nat) : Nat := [400000, 50000, 100000, 200000, 2000000, 250000].getD (k - 1) 0

/-- What must have ended for the step to be complete, beside what the command says. -/
def State.stepComplete (s : State) (k : Nat) : Bool :=
  match k with
  | 2 => (List.finRange 6).all fun n => !s.bit (F.PLL_CTL_EN n) || s.bit (F.PLL_CTL_LOCK n)
  | 3 => !s.dramServes || !s.dram.asleep
  | 5 => s.hvState != 1
  | 6 => s.hvState != 1 && (List.finRange 6).all fun n => !s.bit (F.PLL_CTL_EN n) || s.bit (F.PLL_CTL_LOCK n)
  | _ => true

/-- The work at the end of a step, and what the next step starts. -/
def State.stepWork (s : State) (k : Nat) (ecc : List EccHit) : State :=
  match k with
  | 1 =>
    let a := s.get F.PWR_OP_SEL_ACTIVE
    let t := s.onPwr fun p => { p with cap := s.get (F.PWR_OP_CAP a), vcode := s.get (F.PWR_OP_VCODE a), failed := false }
    overAll (List.finRange 6) (fun (u : State) (n : Fin 6) =>
      if u.bit (F.PLL_CTL_EN n) then u.onPll n fun p => { p with relock := true } else u) t
  | 2 =>
    let t := if s.bit F.TB_CTL_WAKE_STEP then s.enterTb tbAcquire else s
    overAll (List.finRange 4) (fun (u : State) (p : Fin 4) => if u.bit (F.ZL_CFG_EN p) then u.startTraining p true else u) t
  | 4 =>
    let t := s.modelReload ecc
    let t := overAll (List.finRange 4) (fun (u : State) (p : Fin 4) => u.panelStart p) t
    if t.hvState = 0 ∨ t.hvState = 5 then (t.onHv fun h => { h with restarts := 0 }).powerOn true else t
  | _ => s

/-- A wake step has overrun: SLIP with its number, and event 2 once (R358). -/
def State.slip (s : State) (k : Nat) : State :=
  s.when (!s.pwr.slipped) fun s =>
    (((s.put F.PWR_STAT_SLIP 1).put F.PWR_STAT_SLIP_STEP k).raise (srcPwr 2)).onPwr fun p => { p with slipped := true }

/-- WAKE_STEP_END: a step whose work is not complete holds the wake. The end of step 6 is WAKE_COMPLETE. -/
def State.wakeStep (s : State) (complete : Bool) (ecc : List EccHit) : State :=
  match s.mode with
  | .wake k => s.when (decide (s.pwr.start + wakeNs k ≤ s.clock)) fun s =>
      if !(complete && s.stepComplete k) then s.slip k
      else s.when (decide (k < 6)) fun s =>
        let t := s.stepWork k ecc
        { t with mode := .wake (k + 1) }.onPwr fun p => { p with start := s.clock, slipped := false }
  | _ => s

def execWakeStepEnd (complete : Bool) (ecc : List EccHit) (s : State) : Host.Outcome State Fault Refusal :=
  s.ifUp (·.wakeStep complete ecc)

/-- WAKE_COMPLETE: READY, event 1, thread 0 at the wake vector; a TARGET written meanwhile is applied (R359). -/
def State.wakeDone (s : State) : State :=
  s.when (s.mode == .wake 6 && s.stepComplete 6 && decide (s.pwr.start + wakeNs 6 ≤ s.clock)) fun s =>
    let t := ({ s with mode := .run, frm := { s.frm with ranFrame := false } }.put F.PWR_STAT_READY 1).raise (srcPwr 1)
    let t := t.startThread 0 (BitVec.ofNat 32 (4 * t.get F.PWR_WAKE_VEC_ENTRY))
    let t := (t.onThread 0 fun h => h.setS 1 (t.reg F.PWR_WAKE_CAUSE_addr)).restartIdle
    (t.onPwr fun p => { p with targetDue := false }).when s.pwr.targetDue State.opStart

def execWakeComplete (s : State) : Host.Outcome State Fault Refusal := s.ifUp State.wakeDone

end Sys2Proof.Machine
end

