-- ==== Sys2Proof/Machine/Rmon.lean ====
section
/-! DEFINITION. The rate monitors of block TOP (R32, R33): the end of a measurement window, the minima, the values read. -/

namespace Sys2Proof.Machine

/-- Unit `u` runs: it is neither a gated or fenced press nor a codec lane that is off (R33, R154). -/
def State.rmonRuns (s : State) (u : Fin 83) : Bool :=
  if h : u.val < 48 then
    match s.press[u.val].does with
    | .gated | .waking | .fenced => false
    | _ => true
  else if h2 : u.val < 80 then s.codec.lanes[u.val - 48].mode != 0
  else true

/-- The measurement window is over: measurement is enabled, WINDOW_US is not 0, and that many µs have passed (R32, R33). -/
def State.windowOver (s : State) : Bool :=
  s.bit F.TOP_RMON_CTL_EN && s.bit F.TOP_RMON_CTL_WINDOW_US &&
    s.reached (s.rmon.since + BitVec.ofNat 32 (1000 * s.get F.TOP_RMON_CTL_WINDOW_US))

/-- Operations per µs with 8 fraction bits, in 24 bits (R32), rounded down (DESIGN CHOICE, log 24); a greater rate shows as the
greatest (DEDUCED, log 24). -/
def rateOf (count window : Nat) : Nat := min (count * 256 / window) 0xFFFFFF

/-- The end of a window: every unit's RATE from its operations of the window, and its minimum; a unit that does not run reads 0
and leaves its minimum (R32, R33). The next window follows at once. -/
def State.windowEnd (s : State) : State :=
  let w := s.get F.TOP_RMON_CTL_WINDOW_US
  let rate (u : Fin 83) : Nat := if s.rmonRuns u then rateOf s.rmon.ops[u] w else 0
  let low (u : Fin 83) : Nat := if s.rmonRuns u then min s.rmon.low[u] (rate u) else s.rmon.low[u]
  { s with rmon := ⟨Vector.replicate 83 0, Vector.ofFn rate, Vector.ofFn low, s.rmon.since + BitVec.ofNat 32 (1000 * w)⟩ }

def execRmonWindowEnd (s : State) : Host.Outcome State Fault Refusal := s.ifUp fun s => s.when s.windowOver State.windowEnd

/-- CLR_MIN: every unit's minimum at its reset value (R32). -/
def State.clearMin (s : State) : State := { s with rmon := { s.rmon with low := Vector.replicate 83 0xFFFFFF } }

def execRmonClrMin (s : State) : Host.Outcome State Fault Refusal := s.ifUp State.clearMin

/-- A write of TOP_RMON_CTL; a new window starts with it (DEDUCED, log 24). WINDOW_US above 1,024 is stored and measured with
(DESIGN CHOICE, log 24: the manual states no effect for 1,025–2,047, R32). -/
def State.writeRmonCtl (s : State) (v : Word) : State :=
  let t := (s.put F.TOP_RMON_CTL_WINDOW_US (F.TOP_RMON_CTL_WINDOW_US.of v)).put F.TOP_RMON_CTL_EN (F.TOP_RMON_CTL_EN.of v)
  let u := { t with rmon := { t.rmon with ops := Vector.replicate 83 0, since := t.now } }
  u.when (F.TOP_RMON_CTL_CLR_MIN.of v == 1) State.clearMin

/-- The RATE that the selected unit reads (R32, R33): 0 for a reserved unit and for one that does not run. -/
def State.rmonRate (s : State) : Nat :=
  if h : s.get F.TOP_RMON_SEL_UNIT < 83 then
    (if s.rmonRuns ⟨_, h⟩ then s.rmon.rate[s.get F.TOP_RMON_SEL_UNIT] else 0) else 0

/-- The MIN that the selected unit reads; 0 for a reserved unit (R32). -/
def State.rmonMin (s : State) : Nat :=
  if h : s.get F.TOP_RMON_SEL_UNIT < 83 then s.rmon.low[s.get F.TOP_RMON_SEL_UNIT] else 0

end Sys2Proof.Machine
end

