-- ==== Sys2Proof/Machine/RegAccess.lean ====
section
/-! DEFINITION. A register access through any path (R11–R13, R378): the access codes, the registers whose writes act at once
or under a rule of their own, and the registers whose reads show something else than what was written. -/

namespace Sys2Proof.Machine

/-! ## Writes by access code (R11, R12) -/

/-- A write of value `v` to the register at address `a`: RW fields and write-once fields not yet written take it, ones clear
W1C fields, and nothing else changes; none where no register is. -/
def State.plainWrite (s : State) (a : Nat) (v : Word) : Option State :=
  (RegMap.find a).map fun x =>
    let once := RegMap.mask x.1 (· == .wos)
    let takes := RegMap.mask x.1 (· == .rw) ||| (if s.wos.contains a then 0 else once)
    let w := (s.reg a &&& ~~~takes ||| (v &&& takes)) &&& ~~~(v &&& RegMap.mask x.1 (· == .w1c))
    let t := s.setReg a w
    if once = 0 ∨ s.wos.contains a then t else { t with wos := a :: t.wos }

/-- The same, on a register that exists. -/
def State.plain (s : State) (a : Nat) (v : Word) : State := (s.plainWrite a v).getD s

/-- The same with a field kept. -/
def State.plainBut (s : State) (f : Field) (v : Word) : State := s.plain f.addr (f.into (s.get f) v)

/-- The write takes effect where the value obeys the register's rule, and is ignored elsewhere. -/
def State.plainIf (s : State) (c : Bool) (a : Nat) (v : Word) : State := s.when c (·.plain a v)

/-! ## Registers with a rule of their own -/

/-- A rule of some registers: the state after a write to one of them; none for every other address. -/
abbrev WriteRule := Nat → State → Word → Option State

/-- The rule of one register. -/
def at1 (a : Nat) (f : State → Word → State) : WriteRule := fun b s v => if b = a then some (f s v) else none

/-- The rule of the `n` registers of an array. -/
def atN (n : Nat) (a : Nat → Nat) (f : Fin n → State → Word → State) : WriteRule := fun b s v =>
  (List.finRange n).findSome? fun (i : Fin n) => if a i = b then some (f i s v) else none

/-- A field of a written word is 1. -/
def Field.on (f : Field) (v : Word) : Bool := f.of v == 1

/-! ### TOP, EVT, TB, ETH -/

/-- A doorbell: a container that the host has loaded is complete. A loader that failed under PCIe boot takes a new one (R384). -/
def State.doorbell (s : State) : State :=
  s.when (s.mode == .boot && s.loader.bootsel == 2) fun s => { s with loader := { s.loader with waiting := true, whole := true } }

def rulesTop : List WriteRule := [
  at1 F.TOP_RMON_CTL_addr State.writeRmonCtl,
  at1 F.TOP_BOOT_CTL_addr fun s v => (s.plain F.TOP_BOOT_CTL_addr v).when (F.TOP_BOOT_CTL_DOORBELL.on v) State.doorbell]

/-- A write of EVT_ROUTE: EVENT_N follows at once (R394). -/
def State.writeRoute (s : State) (n : Nat) (v : Word) : State :=
  let t := s.plain (F.EVT_ROUTE_addr n) v
  t.when t.pinActive fun t => { t with eventN := true }

def rulesEvt : List WriteRule := [
  atN 32 F.EVT_STAT_addr fun g s v => s.clearStatus g v 0,
  atN 32 F.EVT_EN_addr fun g s v => s.writeEnable g v,
  atN 1024 F.EVT_ROUTE_addr fun n s v => s.writeRoute n v]

/-- A write of TB_GAIN: each gain takes 8–47 (R250). -/
def State.writeGain (s : State) (v : Word) : State :=
  let ok (n : Nat) : Bool := decide (8 ≤ n ∧ n ≤ 47)
  (s.when (ok (F.TB_GAIN_KP.of v)) (·.put F.TB_GAIN_KP (F.TB_GAIN_KP.of v))).when (ok (F.TB_GAIN_KI.of v))
    (·.put F.TB_GAIN_KI (F.TB_GAIN_KI.of v))

/-- A write of TB_OUT_CFG_k (R243). -/
def State.writeOutCfg (s : State) (k : Fin 4) (v : Word) : State :=
  let t := s.put (F.TB_OUT_CFG_POL k) ((F.TB_OUT_CFG_POL k).of v)
  if (F.TB_OUT_CFG_EN k).on v then t.when (!t.bit (F.TB_OUT_CFG_EN k)) (·.outEnable k) else t.outDisable k

def rulesTb : List WriteRule := [
  at1 F.TB_CTL_addr State.writeTbCtl,
  at1 F.TB_RATE_addr State.writeRate,
  at1 F.TB_RATE_LIMIT_addr State.writeRateLimit,
  at1 F.TB_JUMP_LIMIT_addr fun s v =>
    s.plainIf (decide (50 ≤ F.TB_JUMP_LIMIT_NS.of v ∧ F.TB_JUMP_LIMIT_NS.of v ≤ 1000000)) F.TB_JUMP_LIMIT_addr v,
  at1 F.TB_GAIN_addr State.writeGain,
  at1 F.TB_SW_ERR_NS_addr State.swErr,
  at1 F.TB_SW_ERR_FRAC_addr fun s v => { s with tb := { s.tb with swFrac := v.setWidth 16 } },
  at1 F.TB_GL_PHASE_addr State.writeGlPhase,
  atN 4 F.TB_OUT_CFG_addr fun k s v => s.writeOutCfg k v,
  atN 4 F.TB_OUT_STEP_addr fun k s v => s.outStep k (v.setWidth 16)]

/-- A write of ETH_p_CFG: FEC 3 is ignored (R251); a port that is disabled loses its link (DEDUCED, log 24). -/
def State.writeEthCfg (s : State) (p : Fin 2) (v : Word) : State :=
  let t := if (F.ETH_CFG_FEC p).of v = 3 then s.plainBut (F.ETH_CFG_FEC p) v else s.plain (F.ETH_CFG_addr p) v
  t.when (!t.bit (F.ETH_CFG_EN p) && t.bit (F.ETH_STATUS_LINK p)) (·.ethLink p false)

def rulesEth : List WriteRule := [
  atN 2 F.ETH_CFG_addr fun p s v => s.writeEthCfg p v,
  atN 2 F.ETH_TSQ_CTL_addr fun p s v => (s.plain (F.ETH_TSQ_CTL_addr p) v).when ((F.ETH_TSQ_CTL_POP p).on v) (·.tsqPop p),
  at1 F.ETH_PTP_MAP_TB_addr State.ptpCommit]

/-! ### ZL -/

/-- A write of ZL_p_CFG (R224). -/
def State.writeZlCfg (s : State) (p : Fin 4) (v : Word) : State :=
  let t := (s.plainBut (F.ZL_CFG_EN p) v).retimePort s.timePort
  let t := t.when ((F.ZL_CFG_WAKE p).on v) (·.put (F.ZL_CFG_WAKE p) 1)
  if !(F.ZL_CFG_EN p).on v then t.when (t.bit (F.ZL_CFG_EN p)) (·.portDisable p)
  else (t.portEnable p).when (s.bit (F.ZL_CFG_EN p) && (F.ZL_CFG_RETRAIN p).on v) (·.portRetrain p)

def rulesZl (send : State → State) : List WriteRule := [
  atN 4 F.ZL_CFG_addr fun p s v => s.writeZlCfg p v,
  atN 4 F.ZL_CLR_addr fun p s v => s.when ((F.ZL_CLR_CLR p).on v) (·.portClr p),
  at1 F.ZL_STAB_DATA_addr fun s v => s.stabAccess (some v),
  atN 8 F.ZL_LSTREAM_addr fun k s v => s.lstreamWrite k v,
  at1 F.ZL_MTX_CTL_addr fun s v => s.when (F.ZL_MTX_CTL_SEND.on v) send,
  at1 F.ZL_RAW_RPTR_addr State.writeRawRptr,
  atN 64 F.ZL_TXS_addr fun k s v => (s.plain (F.ZL_TXS_addr k) v).when ((F.ZL_TXS_SYNC k).on v) (·.put (F.ZL_TXS_SYNC k) 1)]

/-! ### CODEC, PRESS, SEQ -/

def rulesCodec : List WriteRule := [
  atN 32 F.CODEC_LANE_CFG_addr fun n s v =>
    (if (F.CODEC_LANE_CFG_MODE n).of v = 3 then s else s.plain (F.CODEC_LANE_CFG_addr n) v).when ((F.CODEC_LANE_CFG_FLUSH n).on v)
      (·.flush n),
  at1 F.CODEC_SRC_addr fun s v => s.srcSelect (F.CODEC_SRC_SEL.on v),
  at1 F.CODEC_STRIPE_ERR_addr fun s v => s.when (F.CODEC_STRIPE_ERR_CLR.on v) State.stripeClr,
  at1 F.CODEC_TDV_REJECT_addr fun s v => s.when (F.CODEC_TDV_REJECT_CLR.on v) State.rejectClr,
  at1 F.CODEC_REC_CTL_addr fun s v => if F.CODEC_REC_CTL_EN.on v then s.recEnable else s.put F.CODEC_REC_CTL_EN 0]

/-- A write of PRESS_CTL_n: GATE and FENCE act where they change (R96, R97). -/
def State.writePressCtl (s : State) (n : Fin 48) (v : Word) : State :=
  let t := if (F.PRESS_CTL_GATE n).on v then s.when (!s.bit (F.PRESS_CTL_GATE n)) (·.writeGate1 n)
    else s.when (s.bit (F.PRESS_CTL_GATE n)) (·.writeGate0 n)
  if (F.PRESS_CTL_FENCE n).on v then t.writeFence1 n else t.writeFence0 n

/-- A spill window start: 0, or within the DRAM range (R129). -/
def spillBaseOk (b : Nat) : Bool := decide (b = 0 ∨ (0x800000 ≤ b ∧ b ≤ 0x9FFFFF))

def rulesPress : List WriteRule := [
  atN 48 F.PRESS_CTL_addr fun n s v => s.writePressCtl n v,
  at1 F.PRESS_VSEL_BASE_addr State.writeVselBase,
  at1 F.PRESS_LUT_CTL_addr fun s v => (s.plain F.PRESS_LUT_CTL_addr v).when (F.PRESS_LUT_CTL_SWAP.on v) (·.put F.PRESS_LUT_CTL_SWAP 1),
  at1 F.PRESS_LUT_ADDR_addr State.writeLutAddr,
  at1 F.PRESS_LUT_DATA_addr State.writeLutData,
  at1 F.PRESS_STAT_CLR_addr fun s v => s.when (F.PRESS_STAT_CLR_CLR.on v) State.clearPressStat,
  at1 F.PRESS_IMG_CTL_addr fun s v => (s.plain F.PRESS_IMG_CTL_addr v).when (F.PRESS_IMG_CTL_INSTALL.on v) State.pressInstall,
  at1 F.PRESS_SPILL_BASE_addr fun s v => s.plainIf (spillBaseOk (F.PRESS_SPILL_BASE_BASE.of v)) F.PRESS_SPILL_BASE_addr v]

/-- A write of SEQ_FRM_FORMAT: HOLD acts by itself, the other fields are shadows (R27, R29). -/
def State.writeFormat (s : State) (v : Word) : State :=
  let t := s.plainBut F.SEQ_FRM_FORMAT_HOLD v
  if F.SEQ_FRM_FORMAT_HOLD.on v then t.setHold else t.clearHold

/-- A write of SEQ_FRM_CTL (R27). -/
def State.writeFrmCtl (s : State) (v : Word) : State :=
  let t := (s.plain F.SEQ_FRM_CTL_addr v).when (F.SEQ_FRM_CTL_CLR_COUNT.on v) (·.setReg F.SEQ_FRM_COUNT_addr 0)
  t.when (F.SEQ_FRM_CTL_COMMIT.on v) State.commitFrame

/-- The LINE values that comparators 4–63 take (R139). -/
def lineOk (n : Nat) : Bool := decide ((8 ≤ n ∧ n ≤ 14) ∨ n = 31)

/-- A write of SEQ_LC_CFG_c: ones clear the status bits, then LINE, DISARM and ARM act; LINE is fixed for comparators 0–3, and
1–3 take neither ARM nor DISARM (R139–R142). -/
def State.writeLcCfg (s : State) (c : Fin 64) (v : Word) : State :=
  let line := (F.SEQ_LC_CFG_LINE c).of v
  let t := if 4 ≤ c.val ∧ lineOk line then s.plain (F.SEQ_LC_CFG_addr c) v else s.plainBut (F.SEQ_LC_CFG_LINE c) v
  if compOk c then
    (t.when ((F.SEQ_LC_CFG_DISARM c).on v) (·.disarmComp c)).when ((F.SEQ_LC_CFG_ARM c).on v) fun t =>
      t.armComp c (t.getW (F.SEQ_LC_TIME_TARGET c))
  else t

/-- A write of SEQ_THR_START (R151). -/
def State.writeThrStart (s : State) (v : Word) : State :=
  let u : Fin 16 := Fin.ofNat 16 (F.SEQ_THR_START_THREAD.of v)
  if F.SEQ_THR_START_STOP.on v then s.stopThread u
  else s.startThread u (BitVec.ofNat 32 (4 * F.SEQ_THR_START_ENTRY.of v))

def rulesSeq : List WriteRule := [
  at1 F.SEQ_FRM_FORMAT_addr State.writeFormat,
  at1 F.SEQ_FRM_CTL_addr State.writeFrmCtl,
  atN 64 F.SEQ_LC_TIME_addr fun c s v => s.plainIf (compOk c) (F.SEQ_LC_TIME_addr c) v,
  atN 64 F.SEQ_LC_CFG_addr fun c s v => s.writeLcCfg c v,
  at1 F.SEQ_RDY_MEMBER_LO_addr fun s v => (s.plain F.SEQ_RDY_MEMBER_LO_addr v).judgeAll,
  at1 F.SEQ_RDY_MEMBER_HI_addr fun s v => (s.plain F.SEQ_RDY_MEMBER_HI_addr v).judgeAll,
  at1 F.SEQ_RDY_CTL_addr fun s v => s.when (F.SEQ_RDY_CTL_ADVANCE.on v) State.advanceReady,
  at1 F.SEQ_LTOK_TX_CTL_addr fun s v => (s.plain F.SEQ_LTOK_TX_CTL_addr v).when (F.SEQ_LTOK_TX_CTL_SEND.on v) State.sendToken,
  at1 F.SEQ_LTOK_MINLEAD_addr fun s v => s.plainIf (decide (200000 ≤ F.SEQ_LTOK_MINLEAD_MINLEAD_NS.of v ∧
    F.SEQ_LTOK_MINLEAD_MINLEAD_NS.of v ≤ 1000000)) F.SEQ_LTOK_MINLEAD_addr v,
  at1 F.SEQ_THR_START_addr State.writeThrStart,
  at1 F.SEQ_IMG_CTL_addr fun s v => (s.plain F.SEQ_IMG_CTL_addr v).when (F.SEQ_IMG_CTL_INSTALL.on v) State.seqInstall]

/-! ### PANEL, TRL, HVPS, RACK -/

/-- A write of PANEL_p_CFG: CMD exists on port 3 alone; a change of EN starts or ends the port (R254, R277). -/
def State.writePanelCfg (s : State) (p : Fin 4) (v : Word) : State :=
  let t := if p = 3 then s.plain (F.PANEL_CFG_addr p) v else s.plainBut (F.PANEL_CFG_CMD p) v
  if !t.bit (F.PANEL_CFG_EN p) then t.when (s.bit (F.PANEL_CFG_EN p)) fun t => (t.put (F.PANEL_CFG_RETRAIN p) 0).panelDown p 0
  else (t.when (!s.bit (F.PANEL_CFG_EN p)) (·.panelStart p)).when ((F.PANEL_CFG_RETRAIN p).on v) (·.panelRetrain p)

def rulesPanel : List WriteRule := [
  atN 4 F.PANEL_CFG_addr fun p s v => s.writePanelCfg p v,
  atN 4 F.PANEL_CLR_addr fun p s v => s.when ((F.PANEL_CLR_CLR p).on v) (·.panelClr p),
  at1 F.PANEL_BLINK_CNT_addr fun s v => { s with panel := { s.panel with blink := some v } },
  at1 F.PANEL_CMD_CTL_addr fun s v => (s.plain F.PANEL_CMD_CTL_addr v).when (F.PANEL_CMD_CTL_GO.on v) (·.cmdPush [])]

def rulesTrl : List WriteRule := [
  at1 F.TRL_GEOM_CTL_addr fun s v => (s.plain F.TRL_GEOM_CTL_addr v).when (F.TRL_GEOM_CTL_APPLY.on v) State.applyGeom,
  at1 F.TRL_SAT_BASE_addr State.writeSatBase,
  at1 F.TRL_ANG_WEIGHT_addr fun s v =>
    s.plain F.TRL_ANG_WEIGHT_addr (F.TRL_ANG_WEIGHT_WEIGHT.into (min 256 (F.TRL_ANG_WEIGHT_WEIGHT.of v)) v),
  at1 F.TRL_CTL_addr fun s v => (s.plain F.TRL_CTL_addr v).when (F.TRL_CTL_INIT.on v) State.requestInit,
  at1 F.TRL_COMP_addr fun s v => s.writeComp (F.TRL_COMP_VCOMP.of v),
  at1 F.TRL_CLR_addr fun s v => s.when (F.TRL_CLR_CLR.on v) State.trlClr,
  at1 F.TRL_WAVE_CTL_addr fun s v => (s.plain F.TRL_WAVE_CTL_addr v).when (F.TRL_WAVE_CTL_APPLY.on v) fun s =>
    (s.put F.TRL_WAVE_CTL_APPLY 1).tryWaveInHold,
  atN 64 F.TRL_FAULT_addr fun b s v => s.faultClear b v]

/-- The settings of a rail: VGL, VGH, VSP and VSN in 50 mV (R297). -/
def railCodeOk (k : Fin 4) (n : Nat) : Bool :=
  match k with
  | 0 => decide (100 ≤ n ∧ n ≤ 300)
  | 1 => decide (300 ≤ n ∧ n ≤ 600)
  | _ => decide (100 ≤ n ∧ n ≤ 400)

def rulesHvps : List WriteRule := [
  at1 F.HVPS_CTL_addr fun s v =>
    ((s.plain F.HVPS_CTL_addr v).when (F.HVPS_CTL_ON.on v) State.hvpsOn).when (F.HVPS_CTL_OFF.on v) State.hvpsOff,
  atN 4 F.HVPS_SET_addr fun k s v =>
    if railCodeOk k ((F.HVPS_SET_CODE k).of v) then s.plain (F.HVPS_SET_addr k) v else s.plainBut (F.HVPS_SET_CODE k) v]

/-- A write of RACK_r_RING_CFG (R318). -/
def State.writeRackCfg (s : State) (r : Fin 4) (v : Word) : State :=
  let t := (s.plainBut (F.RACK_RING_CFG_EN r) v).when ((F.RACK_RING_CFG_RESUME r).on v) (·.put (F.RACK_RING_CFG_STOPPED r) 0)
  if (F.RACK_RING_CFG_EN r).on v then t.put (F.RACK_RING_CFG_EN r) 1 else t.when (t.bit (F.RACK_RING_CFG_EN r)) (·.rackDisable r)

def rulesRack : List WriteRule := [
  atN 4 F.RACK_RING_WPTR_addr fun r s v => s.rackCommit r v,
  atN 4 F.RACK_RING_CFG_addr fun r s v => s.writeRackCfg r v,
  at1 F.RACK_ERR_addr fun s v => s.when (F.RACK_ERR_CLR.on v) fun s => (s.put F.RACK_ERR_COUNT 0).put F.RACK_ERR_CAUSE 0]

/-! ### DRAMC, PLL -/

/-- A write of DRAMC_CTL: INIT while EN was 0, then EN; requests that waited are served (R325, R328). -/
def State.writeDramCtl (s : State) (v : Word) : State :=
  let t := s.when (F.DRAMC_CTL_INIT.on v && !s.bit F.DRAMC_CTL_EN) fun s => (s.put F.DRAMC_CTL_INIT 1).put F.DRAMC_CTL_READY 0
  (t.plain F.DRAMC_CTL_addr v).drainAll

/-- The ECC regions, as a write of region `r`'s registers would leave them, overlap nowhere, and none that is enabled is empty
(R337, R339). -/
def State.eccOk (s : State) (r : Nat) : Bool :=
  let on (k : Nat) : Bool := s.bit (F.DRAMC_ECC_BASE_EN k)
  let lo (k : Nat) : Nat := s.get (F.DRAMC_ECC_BASE_BASE_MB k)
  let n (k : Nat) : Nat := s.get (F.DRAMC_ECC_SIZE_SIZE_MB k)
  !on r || (n r != 0 && (List.range 8).all fun k => k == r || !on k || decide (lo k + n k ≤ lo r ∨ lo r + n r ≤ lo k))

/-- A write of a region register: only while EN is 0 (R337). -/
def State.writeEcc (s : State) (r : Nat) (a : Nat) (v : Word) : State :=
  let t := s.plain a v
  if !s.bit F.DRAMC_CTL_EN && t.eccOk r then t else s.dramRefuse

/-- A write of a timing-set register (R334, R339). -/
def State.writeTset (s : State) (i : Nat) (a : Nat) (v : Word) : State :=
  let rate := (F.DRAMC_TSET_0_RATE i).of v
  let slow := a == F.DRAMC_TSET_0_addr i && (rate == 7 || (i == 0 && decide (rate < 4)))
  let used := s.get F.DRAMC_FREQ_CTL_ACTIVE == i || (match s.dram.change with
    | some x => x.2.toNat == i
    | none => false)
  if slow || used then s.dramRefuse else s.plain a v

def rulesDram : List WriteRule := [
  at1 F.DRAMC_CTL_addr State.writeDramCtl,
  at1 F.DRAMC_CFG_addr fun s v => s.plainIf (!s.bit F.DRAMC_CTL_EN && F.DRAMC_CFG_CAP.of v != 7) F.DRAMC_CFG_addr v,
  atN 7 F.DRAMC_HASH_addr fun k s v => s.writeHash k v,
  at1 F.DRAMC_FREQ_CTL_addr fun s v => (s.plain F.DRAMC_FREQ_CTL_addr v).when (F.DRAMC_FREQ_CTL_GO.on v)
    (·.freqGo (F.DRAMC_FREQ_CTL_TARGET.on v)),
  atN 8 F.DRAMC_ECC_BASE_addr fun r s v => s.writeEcc r (F.DRAMC_ECC_BASE_addr r) v,
  atN 8 F.DRAMC_ECC_SIZE_addr fun r s v => s.writeEcc r (F.DRAMC_ECC_SIZE_addr r) v,
  atN 2 F.DRAMC_TSET_0_addr fun i s v => s.writeTset i (F.DRAMC_TSET_0_addr i) v,
  atN 2 F.DRAMC_TSET_1_addr fun i s v => s.writeTset i (F.DRAMC_TSET_1_addr i) v,
  atN 2 F.DRAMC_TSET_2_addr fun i s v => s.writeTset i (F.DRAMC_TSET_2_addr i) v,
  atN 2 F.DRAMC_TSET_3_addr fun i s v => s.writeTset i (F.DRAMC_TSET_3_addr i) v,
  at1 F.DRAMC_STAT_CLR_addr fun s v => s.when (F.DRAMC_STAT_CLR_CLR.on v) State.clearDramStat]

/-- A write of PLL_n_CTL: the status bit, EN, then COMMIT (R343, R350). -/
def State.writePllCtl (s : State) (n : Fin 6) (v : Word) : State :=
  let t := (s.plainBut (F.PLL_CTL_EN n) v).enablePll n ((F.PLL_CTL_EN n).on v)
  t.when ((F.PLL_CTL_COMMIT n).on v) (·.commitPll n)

/-- A write of a divider register: those of PLL_TB and PLL_AUX are read only (R342), those of the DRAM PLLs take writes only while
DRAMC_CTL.EN is 0 (R345). -/
def State.writePllDiv (s : State) (n : Fin 6) (a : Nat) (v : Word) : State :=
  if n = 0 ∨ n = 5 then s
  else if isDramPll n && s.bit F.DRAMC_CTL_EN then s.pllRefuse n else s.plain a v

/-- Divider set 1 exists on the DRAM PLLs alone (R350). -/
def divRule (a : Nat → Nat → Nat) : WriteRule := fun b s v =>
  (List.finRange 6).findSome? fun (n : Fin 6) => (List.range 2).findSome? fun k =>
    if a n k = b ∧ (k = 0 ∨ isDramPll n) then some (s.writePllDiv n b v) else none

/-- The places of a second divider set of the other PLLs, where no register is. -/
def noSet1 (b : Nat) : Bool :=
  (List.finRange 6).any fun n => !isDramPll n && (F.PLL_DIV_addr n 1 == b || F.PLL_FRAC_addr n 1 == b)

def rulesPll : List WriteRule := [
  atN 6 (F.PLL_CTL_addr ·) fun n s v => s.writePllCtl n v,
  divRule F.PLL_DIV_addr,
  divRule F.PLL_FRAC_addr,
  atN 6 (F.PLL_PHASE_addr ·) fun n s v => s.phaseStep n v,
  atN 6 (F.PLL_STAT_addr ·) fun n s v => s.when ((F.PLL_STAT_CLR n).on v) (·.put (F.PLL_STAT_LOSSES n) 0)]

/-! ### PWR, TMON, CAL, HOST -/

/-- A write of PWR_OP_k: each field within its range (R369). -/
def State.writeOp (s : State) (k : Nat) (v : Word) : State :=
  let c := (F.PWR_OP_CAP k).of v
  (s.when (decide ((F.PWR_OP_VCODE k).of v ≤ 60)) (·.put (F.PWR_OP_VCODE k) ((F.PWR_OP_VCODE k).of v))).when
    (decide (1 ≤ c ∧ c ≤ 256)) (·.put (F.PWR_OP_CAP k) c)

/-- A write of PWR_BRZ_CFG: PERIOD_MS takes 1–1,000 (R369). -/
def State.writeBreeze (s : State) (v : Word) : State :=
  let p := F.PWR_BRZ_CFG_PERIOD_MS.of v
  if 1 ≤ p ∧ p ≤ 1000 then s.plain F.PWR_BRZ_CFG_addr v else s.plainBut F.PWR_BRZ_CFG_PERIOD_MS v

def rulesPwr : List WriteRule := [
  at1 F.PWR_CTL_addr fun s v => s.when (F.PWR_CTL_SLEEP.on v) State.sleep,
  at1 F.PWR_IDLE_addr fun s v => s.plainIf (decide (F.PWR_IDLE_S.of v ≤ 3600)) F.PWR_IDLE_addr v,
  at1 F.PWR_WAKE_AT_addr fun s v => (s.plain F.PWR_WAKE_AT_addr v).onPwr fun p => { p with alarm := true },
  at1 F.PWR_BRZ_CFG_addr State.writeBreeze,
  atN 16 F.PWR_OP_addr fun k s v => s.writeOp k v,
  at1 F.PWR_OP_SEL_addr fun s v => (s.plain F.PWR_OP_SEL_addr v).writeTarget (F.PWR_OP_SEL_TARGET.of v)]

def rulesTmon : List WriteRule := [
  atN 3 (F.TMON_THR_0_addr + 4 * ·) fun m s v => s.writeThr m v,
  at1 F.TMON_CFG_addr State.writeTmonCfg]

def rulesCal : List WriteRule := [
  at1 F.CAL_MODEL_CTL_addr fun s v => s.when (F.CAL_MODEL_CTL_LOAD.on v) State.modelLoad,
  atN 5 F.CAL_CFG_addr fun d s v => (s.plain (F.CAL_CFG_addr d) v).when ((F.CAL_CFG_RUN d).on v) (·.calStart d (calPorts d)),
  atN 5 F.CAL_CLR_addr fun d s v => s.when ((F.CAL_CLR_CLR d).on v) (·.setReg (F.CAL_COUNT_addr d) 0)]

/-- A write of a half of the session tag: SET once both have been written (R386). -/
def State.writeSession (s : State) (a : Nat) (v : Word) : State :=
  let t := s.plain a v
  t.when (t.wos.contains F.HOST_SESSION_LO_addr && t.wos.contains F.HOST_SESSION_HI_addr) (·.put F.HOST_SESSION_STAT_SET 1)

def rulesHost : List WriteRule := [
  at1 F.HOST_SESSION_LO_addr fun s v => s.writeSession F.HOST_SESSION_LO_addr v,
  at1 F.HOST_SESSION_HI_addr fun s v => s.writeSession F.HOST_SESSION_HI_addr v,
  atN 4 F.HOST_DMA_BASE_LO_addr fun r s v => s.plain (F.HOST_DMA_BASE_LO_addr r) (v &&& ~~~0x1F#32)]

/-! ## The access -/

/-- The rules of a block (R378); `send` is what a request sent under ZL_MTX_CTL does. -/
def rulesOf (send : State → State) : Nat → List WriteRule
  | 0x00 => rulesTop | 0x01 => rulesEvt | 0x02 => rulesTb | 0x03 => rulesEth | 0x04 => rulesZl send | 0x05 => rulesCodec
  | 0x06 => rulesPress | 0x07 => rulesSeq | 0x08 => rulesPanel | 0x09 => rulesTrl | 0x0A => rulesHvps | 0x0B => rulesRack
  | 0x0C => rulesDram | 0x0D => rulesPll | 0x0E => rulesPwr | 0x0F => rulesTmon | 0x10 => rulesCal | 0x11 => rulesHost
  | _ => []

/-- A register is at the address (R378; an address of a block at which no register is, DEDUCED to be unmapped, log 24). -/
def mapped (a : Nat) : Bool := (RegMap.find a).isSome && !noSet1 a

/-- A write to a register address; none where it is unmapped. -/
def State.writeVia (send : State → State) (s : State) (a : Nat) (v : Word) : Option State :=
  if !mapped a then none
  else match (rulesOf send (a / 65536)).findSome? fun r => r a s v with
    | some t => some t
    | none => s.plainWrite a v

/-! ## Reads -/

/-- The word that a register shows where its place in `regs` does not hold it. -/
def State.entryOfQueue (s : State) (p : Fin 2) (f : Stamp → Word) : Word :=
  match s.tsq[p] with
  | [] => 0
  | e :: _ => f e

/-- ETH_p_TSQ_ID (R248). -/
def stampId (p : Fin 2) (e : Stamp) : Word :=
  BitVec.ofNat 32 (e.id.toNat + 4096 * e.gen.toNat + 65536 * p.val + 131072 * e.superseded.toNat + 2147483648)

/-- SEQ_THR_STAT_t: PC and STATE of the thread (R151). -/
def State.thrStat (s : State) (t : Fin 16) : Word :=
  let h := s.seq.thr[t]
  let st := match h.st with
    | .stopped => 0
    | .ready => 1
    | .waitAt _ | .waitEv _ _ => 2
    | .faulted => 3
  (F.SEQ_THR_STAT_STATE t).into st ((F.SEQ_THR_STAT_PC t).into (h.pc.toNat / 4) (s.reg (F.SEQ_THR_STAT_addr t)))

/-- The direction index of a slot at the most recent launch; 0 at or above its SLOTS (R38, R40). -/
def State.slotDir (s : State) (n : Nat) : Nat := if n < s.frm.mapSlots then slotWord s.frm.mapMask.toNat n else 0

/-- TRL_SLOT_DIR_k: the map of the slots and the layer mask in force (R39, R40). -/
def State.slotDirWord (s : State) (k : Nat) : Word :=
  BitVec.ofNat 32 (((List.range 4).map fun i => s.slotDir (4 * k + i) * 256 ^ i).sum)

/-- Bits of a lane, and of the entry that the raw ring and the reassembly hold. -/
def State.laneBusy (s : State) (n : Fin 32) : Bool := s.codec.lanes[n].stripe.isSome || !s.codec.lanes[n].jobs.isEmpty

/-- A rule of some registers: the word read there and the state after it; none for every other address. -/
abbrev ReadRule := Nat → State → Option (Word × State)

def see1 (a : Nat) (f : State → Word × State) : ReadRule := fun b s => if b = a then some (f s) else none
def seeN (n : Nat) (a : Nat → Nat) (f : Fin n → State → Word × State) : ReadRule := fun b s =>
  (List.finRange n).findSome? fun (i : Fin n) => if a i = b then some (f i s) else none

/-- A read that shows a word and changes nothing. -/
def shows {α : Type} (f : α → State → Word) : α → State → Word × State := fun x s => (f x s, s)

/-- A read that an operation performs, with its word in `rdata`. -/
def performs (f : State → State) (s : State) : Word × State := ((f s).rdata, f s)

/-- The registers that show something else than what `regs` holds. -/
def readRules : List ReadRule := [
  see1 F.TOP_RMON_RATE_addr fun s => (BitVec.ofNat 32 s.rmonRate, s),
  see1 F.TOP_RMON_MIN_addr fun s => (BitVec.ofNat 32 s.rmonMin, s),
  see1 F.EVT_PEND_addr fun s => (BitVec.ofNat 32 (((List.range 32).filter fun g => s.evGroup g != 0).map (2 ^ ·)).sum, s),
  see1 F.TB_NOW_NS_addr (performs State.readNow),
  seeN 4 F.TB_IN_NS_addr fun k => performs (·.readIn k),
  seeN 2 F.ETH_TSQ_ID_addr (shows fun p s => s.entryOfQueue p (stampId p)),
  seeN 2 F.ETH_TSQ_NS_addr (shows fun p s => s.entryOfQueue p Stamp.ns),
  seeN 2 F.ETH_TSQ_FRAC_addr (shows fun p s => s.entryOfQueue p fun e => e.frac.setWidth 32),
  seeN 2 F.ETH_TSQ_CTL_addr (shows fun p s => (F.ETH_TSQ_CTL_LEVEL p).into s.tsq[p].length (s.reg (F.ETH_TSQ_CTL_addr p))),
  see1 F.ZL_STAB_DATA_addr (performs (·.stabAccess none)),
  see1 F.CODEC_SQ_FILL_addr fun s => (BitVec.ofNat 32 (s.queueFill / 64), s),
  seeN 32 F.CODEC_LANE_CFG_addr (shows fun n s => (F.CODEC_LANE_CFG_BUSY n).into (s.laneBusy n).toNat (s.reg (F.CODEC_LANE_CFG_addr n))),
  see1 F.PRESS_LUT_DATA_addr (performs State.readLutData),
  seeN 16 F.SEQ_THR_STAT_addr (shows fun t s => s.thrStat t),
  seeN 4 (F.RACK_RING_CFG_addr ·) (shows fun r s => (F.RACK_RING_CFG_BUSY r).into (!s.rack.rings[r].queue.isEmpty).toNat (s.reg (F.RACK_RING_CFG_addr r))),
  seeN 16 F.TRL_SLOT_DIR_addr (shows fun k s => s.slotDirWord k),
  see1 F.TRL_STATE_addr fun s => (BitVec.ofNat 32 (s.trl.word[0].toNat + 256 * s.trl.word[63].toNat), s),
  (fun b s => (List.finRange 384).findSome? fun o =>
    if F.TRL_LEDGER_addr (o.val / 6) (o.val % 6) = b then some (BitVec.ofInt 32 (s.ledger o), s) else none),
  see1 F.HOST_SESSION_LO_addr fun s => (0, s),
  see1 F.HOST_SESSION_HI_addr fun s => (0, s)]

/-- A read of a register address: the word and the state after it; none where it is unmapped. Write-only fields read 0 (R11). -/
def State.readReg (s : State) (a : Nat) : Option (Word × State) :=
  if !mapped a then none
  else match readRules.findSome? fun r => r a s with
    | some x => some x
    | none => (RegMap.find a).map fun x => (s.reg a &&& ~~~RegMap.mask x.1 (· == .wo), s)

end Sys2Proof.Machine
end

