-- ==== Sys2Proof/Machine/Packets.lean ====
section
/-! DEFINITION. Received packets (R208–R220, R383): management, local streams, network boot, forwarding, event and raw
packets; and training frames, which in the Cellar can only wake (R204). -/

namespace Sys2Proof.Machine

/-! ## Management (R218–R220) -/

/-- A management request in the payload of its cell, and its OP (R218). -/
def parseMgmt (bs : List Byte) : Nat × MgmtReq :=
  let b (i : Nat) : Nat := (bs.getD i 0).toNat
  let n := b 4 / 16 % 8 + 1
  (b 4 / 2 % 8,
   { srcX := bs.getD 2 0, srcY := bs.getD 3 0, route := (bs.getD 4 0).getLsbD 0, countM1 := BitVec.ofNat 3 (b 4 / 16)
     tag := BitVec.ofNat 10 (b 5 + 256 * b 6), epoch := BitVec.ofNat 6 (b 6 / 4)
     session := BitVec.ofNat 64 (natOfBytes ((bs.drop 8).take 8)), addr := bytesWord bs 16
     data := (List.range n).map fun k => bytesWord bs (20 + 4 * k) })

/-- The words of a request read in address order: the data, and a bit for each unmapped address, which reads 0 (R219). -/
def State.mgmtReads (s : State) : List Nat → List Word × List Bool × State
  | [] => ([], [], s)
  | a :: l =>
    let (w, bad, t) := match s.readReg a with
      | some x => (x.1, false, x.2)
      | none => (0, true, s)
    let (ws, bads, u) := State.mgmtReads t l
    (w :: ws, bad :: bads, u)

/-- The words of a request written in address order; an unmapped write is ignored (R219). -/
def State.mgmtWrites (write : State → Nat → Word → Option State) (s : State) : List (Nat × Word) → List Bool × State
  | [] => ([], s)
  | (a, w) :: l =>
    let r := write s a w
    let (bads, u) := State.mgmtWrites write (r.getD s) l
    (r.isNone :: bads, u)

/-- A response of the present epoch goes to the ring; any other is stale (R220). -/
def State.mgmtResponse (s : State) (bs : List Byte) : State :=
  let base := 4096 * s.get F.ZL_MRX_BASE_BASE
  let wr := s.get F.ZL_MRX_PTR_WR
  if (bs.getD 6 0).toNat / 4 ≠ s.get F.ZL_MGMT_EPOCH_EPOCH then (s.count F.ZL_MGMT_STAT_STALE).raise (srcLink 0 34)
  else if base = 0 then s
  else if (wr + 1) % 64 = s.get F.ZL_MRX_PTR_RD then (s.put F.ZL_MRX_PTR_OVERFLOW 1).raise (srcLink 0 33)
  else ((s.store (base + 64 * wr) (bs.take 62)).put F.ZL_MRX_PTR_WR (wr + 1)).raise (srcLink 0 32)

/-- A response along ROUTE to SRC (R218, R219). Words that a response to a write carries are free values (log 25). -/
def State.mgmtAnswer (s : State) (r : MgmtReq) (bad : List Bool) (data : List Word) : State :=
  let bits (l : List Bool) : Nat := l.foldr (fun b n => b.toNat + 2 * n) 0
  let bs := [r.srcX, r.srcY, BitVec.ofNat 8 (s.get F.ZL_ADDR_X), BitVec.ofNat 8 (s.get F.ZL_ADDR_Y),
      BitVec.ofNat 8 (r.route.toNat + 6 + 16 * r.countM1.toNat)] ++ bytesOfNat 2 (r.tag.toNat + 1024 * r.epoch.toNat) ++
    [BitVec.ofNat 8 (bits bad)] ++ bytesOfNat 8 0 ++ bytesOfNat 4 r.addr.toNat ++
    data.flatMap (fun w => bytesOfNat 4 w.toNat) ++ List.replicate (32 - 4 * data.length) 0 ++ List.replicate 10 0
  s.routeMgmt State.mgmtResponse true bs

/-- The session tag is set, and the request carries it (R219, R386). -/
def State.sessionOk (s : State) (r : MgmtReq) : Bool :=
  s.bit F.HOST_SESSION_STAT_SET && r.session == s.reg F.HOST_SESSION_HI_addr ++ s.reg F.HOST_SESSION_LO_addr

/-- A refused request: counted, with event 35 (R219). -/
def State.mgmtRefused (s : State) : State := (s.count F.ZL_MGMT_STAT_REFUSED).raise (srcLink 0 35)

/-- The addresses of a request's words. -/
def mgmtAddrs (r : MgmtReq) : List Nat := (List.range (r.countM1.toNat + 1)).map fun k => r.addr.toNat + 4 * k

/-- A read request. -/
def State.mgmtRead (s : State) (r : MgmtReq) : State :=
  if !s.sessionOk r then s.mgmtRefused
  else
    let (ws, bad, t) := s.restartIdle.mgmtReads (mgmtAddrs r)
    t.mgmtAnswer r bad ws

/-- A write request, answered or not. -/
def State.mgmtWrite (write : State → Nat → Word → Option State) (answer : Bool) (s : State) (r : MgmtReq) : State :=
  if !s.sessionOk r then s.mgmtRefused
  else
    let (bad, t) := s.restartIdle.mgmtWrites write ((mgmtAddrs r).zip (r.data ++ List.replicate 8 0))
    if answer then
      { t with free := t.free + 8 }.mgmtAnswer r bad ((List.range (r.countM1.toNat + 1)).map fun k => Config.freeWord (t.free + k))
    else t

/-- A management packet for this tile (R212, R218). An OP above 3 is refused (DEDUCED, log 25). -/
def State.mgmtHere (write : State → Nat → Word → Option State) (s : State) (bs : List Byte) : State :=
  match parseMgmt bs with
  | (0, r) => s.mgmtRead r
  | (1, r) => s.mgmtWrite write false r
  | (2, r) => s.mgmtWrite write true r
  | (3, _) => s.mgmtResponse bs
  | _ => s.mgmtRefused

/-! ## The register access of every path

A request sent to the tile's own address is performed at once; one that such a request sends in turn waits with the received
packets (DEDUCED, log 25). -/

/-- A write while a request of this tile to itself runs. -/
def State.writeWithin (s : State) (a : Nat) (v : Word) : Option State := s.writeVia (State.sendRequest State.holdHere) a v

/-- A register write (R11–R13); none where the address is unmapped. -/
def State.writeReg (s : State) (a : Nat) (v : Word) : Option State :=
  s.writeVia (State.sendRequest (State.mgmtHere State.writeWithin)) a v

/-- A register write whose address, where unmapped, is ignored. -/
def State.access (s : State) (a : Nat) (v : Word) : State := (s.writeReg a v).getD s

/-- REGISTER_WRITE: BAR0 maps 4 MiB while the PCIe link is up; JTAG debug exists only while JTAG_LOCK is clear (R13, R387, R390). -/
def execRegisterWrite (path : Path) (addr : Word) (value : Word) (s : State) : Host.Outcome State Fault Refusal :=
  s.ifUp fun s => s.when (match path with
    | .bar0 => s.pcieUp && decide (addr.toNat < 0x400000)
    | .jtag => !s.sensed.jtagLock
    | .fabric => true) (·.access addr.toNat value)

/-- WR sA, sB: an unmapped address is ignored, with BADREG and event 28 (R136). -/
def execWr (t : Fin 16) (o : Opnd) (s : State) : Host.Outcome State Fault Refusal :=
  s.ifUp fun s => s.threadIssue t (.op 0x3E 0 o) (o.legal .nothing .scalar .scalar false) fun h s =>
    .ok (match s.writeReg (h.sreg o.srcA).toNat (h.sreg o.srcB) with
      | some u => u
      | none => (s.put (F.SEQ_THR_STAT_BADREG t) 1).raise (srcSeq 28))

/-- RD sD, sA: an unmapped address reads 0, with BADREG and event 28 (R136). -/
def execRd (t : Fin 16) (o : Opnd) (s : State) : Host.Outcome State Fault Refusal :=
  s.ifUp fun s => s.threadIssue t (.op 0x3E 1 o) (o.legal .scalar .scalar .nothing false) fun h s =>
    .ok (match s.readReg (h.sreg o.srcA).toNat with
      | some x => { x.2.onThread t fun g => g.setS o.dst x.1 with rdata := x.1 }
      | none => ((s.onThread t fun g => g.setS o.dst 0).put (F.SEQ_THR_STAT_BADREG t) 1).raise (srcSeq 28))

/-- MGMT_SEND (R220). -/
def execMgmtSend (s : State) : Host.Outcome State Fault Refusal :=
  s.ifUp (State.sendRequest (State.mgmtHere State.writeReg))

/-- MGMT_READ, MGMT_WRITE, MGMT_WRITE_RESP: a request that reaches this tile through a port (R219). -/
def execMgmtRead (p : Fin 4) (req : MgmtReq) (s : State) : Host.Outcome State Fault Refusal :=
  s.ifUp fun s => s.when (s.portUp p) (·.mgmtRead req)

def execMgmtWrite (p : Fin 4) (req : MgmtReq) (s : State) : Host.Outcome State Fault Refusal :=
  s.ifUp fun s => s.when (s.portUp p) (·.mgmtWrite State.writeReg false req)

def execMgmtWriteResp (p : Fin 4) (req : MgmtReq) (s : State) : Host.Outcome State Fault Refusal :=
  s.ifUp fun s => s.when (s.portUp p) (·.mgmtWrite State.writeReg true req)

/-- MGMT_RESPONSE_RX (R220). -/
def execMgmtResponseRx (bytes : List Byte) (s : State) : Host.Outcome State Fault Refusal := s.ifUp (·.mgmtResponse bytes)

/-! ## Local streams (R214–R216) -/

/-- The state with a local stream's entry changed. -/
def State.setStream (s : State) (k : Fin 8) (l : LocalStream) : State :=
  { s with link := { s.link with ls := s.link.ls.set k l } }

/-- What is reported of lost SSNs: the count, and event 37. -/
def State.noteLost (s : State) (n : Nat) : State := (s.countBy F.ZL_DEDUP_LOST n).raiseIf (n != 0) (srcLink 0 37)

/-- A packet of type 1 or 2 for local stream `k`: de-duplication, then reassembly or the token (R214–R216). A new session drops the
stripes that the one before left unfinished (R215; DEDUCED, log 7). -/
def State.deliverTo (s : State) (k : Fin 8) (ty : BitVec 4) (x : StreamPacket) : State :=
  let (l, verdict, lost, beyond) := s.link.ls[k].take x.sync x.session x.ssn
  match verdict with
  | .dup => s.wrapCount F.ZL_DEDUP_DUP
  | .stale => s.count F.ZL_DEDUP_STALE_STALE
  | .accept =>
    let fresh := s.link.ls[k].session != some x.session
    let s := (s.put (F.ZL_LSTREAM_SESSION k) x.session.toNat).raiseIf fresh (srcLink 0 38)
    let s := s.noteLost (lost.length + beyond)
    let token := ty == 2
    let fits := token || decide (s.reasmFill + x.data.length ≤ 1048576)
    let pkt : StripePkt := ⟨x.ssn, token, !token && x.sos, !token && x.eos, if token then [] else x.data⟩
    let run := if beyond = 0 then none else some (s.link.ls[k].high + 1, x.ssn - 256)
    let (l, stripes, dropped) := l.assemble pkt lost run fits
    let dropped := if fresh then dropped + heldStripes s.link.ls[k].held else dropped
    let t := s.setStream k l
    let t := if token then t.tokenArrives (bytesWord x.data 0) (bytesWord x.data 4) ((bytesWord x.data 8).getLsbD 0) else t
    let t := (t.countBy F.ZL_DEDUP_STALE_REASM dropped).raiseIf (dropped != 0) (srcLink 0 39)
    stripes.foldl State.stripeArrives t

/-- The local stream that takes a stream number: the first that matches (DEDUCED, log 25). -/
def State.streamFor (s : State) (stream : Nat) : Option (Fin 8) :=
  (List.finRange 8).find? fun k => s.bit (F.ZL_LSTREAM_EN k) && s.get (F.ZL_LSTREAM_STREAM k) == stream

/-! ## Network boot (R383, R384) -/

/-- The stream of network boot, and the most that a container holds (R380, R383). -/
def bootStream : Nat := 0xFFF
def stagingBase : Nat := 0x01000000
def stagingSize : Nat := 20971520

/-- The loader takes its container from the network (R379, R382, R384). -/
def State.netBoot (s : State) : Bool := s.mode == .boot && (s.loader.bootsel == 1 || (s.loader.bootsel == 3 && s.loader.fallback))

/-- Held packets appended to the staging half in SSN order, up to the first gap; the packet with EOS completes the container. -/
def State.stage (s : State) : List StripePkt → State
  | [] => s
  | k :: l =>
    if s.loader.whole ∨ k.ssn ≠ s.loader.next then { s with link := { s.link with bootS := { s.link.bootS with held := k :: l } } }
    else
      let room := stagingSize - s.loader.staged
      let t := s.store (stagingBase + s.loader.staged) (k.data.take room)
      State.stage { t with
        loader := { t.loader with staged := t.loader.staged + min room k.data.length, next := k.ssn + 1, whole := k.eos }
        link := { t.link with bootS := { t.link.bootS with held := [] } } } l

/-- An accepted packet joins the load; one with SYNC in a new session starts it again (R383, R384). -/
def State.netLoad (s : State) (fresh : Bool) (x : StreamPacket) : State :=
  let s := if fresh then { s with loader := { s.loader with
      waiting := true, since := s.clock, staged := 0, next := x.ssn, whole := false } } else s
  s.when (s.loader.waiting && !s.loader.whole) fun s =>
    s.stage (insertPkt ⟨x.ssn, false, x.sos, x.eos, x.data⟩ s.link.bootS.held)

/-- A packet of the boot stream: on first acceptance it goes to every other port that is up, and a waiting loader takes its
data (R383). -/
def State.bootPacket (s : State) (p : Fin 4) (k : Packet) (x : StreamPacket) : State :=
  let (l, verdict, _, _) := s.link.bootS.take x.sync x.session x.ssn
  if verdict != .accept then s
  else
    let fresh := s.link.bootS.session != some x.session
    let t := { s with link := { s.link with bootS := l } }
    let t := (List.finRange 4).foldl (fun (u : State) (q : Fin 4) =>
      if q = p ∨ !u.portUp q then u else u.enqueue State.raise q x.path1 k) t
    t.when t.netBoot (·.netLoad fresh x)

/-! ## A whole packet (R210–R212) -/

/-- A packet that is dropped on receipt (R210, R226). -/
def State.badPacket (s : State) (p : Fin 4) : State := s.badPackets p 1

/-- The header of a packet of type 1, 2 or 6 where it is correct; a launch token carries 16 data bytes (R210, R216). -/
def streamHead (k : Packet) : Option StreamPacket :=
  (parseStream k.data).bind fun x => if k.ty = 2 ∧ x.data.length ≠ 16 then none else some x

/-- A packet of type 1, 2 or 6 (R210, R211, R223). -/
def State.streamPacket (s : State) (p : Fin 4) (k : Packet) : State :=
  match streamHead k with
  | none => s.badPacket p
  | some x =>
    if k.ty = 6 ∧ s.rawPort p then s.rawArrives x.data
    else
      let t := if x.stream = bootStream ∧ k.ty = 1 ∧ (s.netBoot ∨ s.bit F.TOP_BOOT_CTL_FLOOD) then s.bootPacket p k x
        else s.forward (some p) x.stream x.path1 k
      if k.ty = 6 then t
      else match t.streamFor x.stream with
        | some j => t.deliverTo j k.ty x
        | none => t

/-- A readiness report or an event packet for this tile (R217, R396). -/
def State.updraftHere (s : State) (k : Packet) : State :=
  let b (i : Nat) : Byte := k.data.getD i 0
  if k.ty = 4 then s.reportArrives (b 2) (b 3) (bytesWord k.data 8)
  else s.eventRing (b 2) (b 3) (BitVec.ofNat 10 ((b 8).toNat + 256 * (b 9).toNat)) (b 10) (bytesWord k.data 12)

/-- A packet of type 3, 4 or 5 (R212). -/
def State.addressed (s : State) (k : Packet) : State :=
  match s.hop (k.data.getD 0 0).toNat (k.data.getD 1 0).toNat ((k.data.getD 4 0).getLsbD 0) with
  | .here => if k.ty = 3 then s.mgmtHere State.writeReg k.data else s.updraftHere k
  | .nowhere => s.routeDrop State.raise
  | .port q => s.enqueue State.raise q false k

/-- A whole packet received on a port, which then no longer waits there. Link-control and reserved types are no packets of
these rules, and are ignored (R193). -/
def State.packetIn (s : State) (p : Fin 4) (k : Packet) : State :=
  let s := s.onPort p fun l => { l with rxPkts := l.rxPkts.erase k }
  if k.ty = 1 ∨ k.ty = 2 ∨ k.ty = 6 then s.streamPacket p k
  else if k.ty = 3 ∨ k.ty = 4 ∨ k.ty = 5 then s.addressed k
  else s

/-- PACKET_RX: on a port that carries traffic, or one that waits inside the device already. -/
def execPacketRx (p : Fin 4) (pkt : Packet) (s : State) : Host.Outcome State Fault Refusal :=
  s.ifUp fun s => s.when (s.portUp p || s.link.port[p].rxPkts.contains pkt) (·.packetIn p pkt)

/-- EVENT_PACKET_RX: at the hub (R396). -/
def execEventPacketRx (x : Byte) (y : Byte) (source : BitVec 10) (lost : Byte) (tb : Word) (s : State) :
    Host.Outcome State Fault Refusal := s.ifUp (·.eventRing x y source lost tb)

/-! ## Training frames (R197, R204) -/

/-- A frame on lane 0 of an enabled port whose IDENT has WAKE_REQ is a wake event, with event 9 (R204, R226). -/
def State.wakeFrame (s : State) (p lane : Fin 4) (f : TrainFrame) : State :=
  s.when (lane == 0 && s.bit (F.ZL_CFG_EN p) && f.marker == 0xE4B17A2C#32 && f.identCrc == crc16Of 4 f.ident.toNat &&
    f.ident.getLsbD 18) fun s => (s.raise (srcLink p 9)).wakeBy 0 p

/-- A training frame in the Cellar: lane 0 of an enabled port listens at ZL1 and answers with a frame of its own, IDENT.ASLEEP set,
up to the capability exchange; the port does not come up (R204). -/
def State.cellarFrame (s : State) (p lane : Fin 4) (f : TrainFrame) : State :=
  let t := s.when (lane == 0 && s.bit (F.ZL_CFG_EN p) && f.marker == 0xE4B17A2C#32) fun s =>
    let ln := s.link.port[p].train.lanes[lane].frame f
    (s.onPort p fun l => { l with train := { Training.reset with
      mask := 1, fill := l.train.fill, lanes := Training.reset.lanes.set lane ln, accepted := decide (4 ≤ ln.same) } }).sendFrames p
  t.wakeFrame p lane f

/-- TRAINING_FRAME_RX. During the entry to the Cellar a wake request is kept as well (R359). -/
def execTrainingFrameRx (p : Fin 4) (lane : Fin 4) (frame : TrainFrame) (s : State) : Host.Outcome State Fault Refusal :=
  s.ifOn fun s =>
    if s.mode = .cellar then s.cellarFrame p lane frame
    else
      let t := s.when (s.listens p) (·.trainFrame p lane frame)
      t.when (t.mode == .entry) (·.wakeFrame p lane frame)

end Sys2Proof.Machine
end

