-- ==== Sys2Proof/Machine/Boot.lean ====
section
/-! DEFINITION. Reset, its release, the removal of VDDAO, and the loader (R379–R386, R406, R407). -/

namespace Sys2Proof.Machine

/-! ## Reset (R379, R406, R407) -/

/-- The registers whose values outlive a reset: the write-once fields with the flag that shows them, and the cause of a latched
shutdown (R11, R367, R379). -/
def keptRegs : List Nat :=
  [F.TMON_SD_MASK_addr, F.HOST_SESSION_LO_addr, F.HOST_SESSION_HI_addr, F.HOST_SESSION_STAT_addr, F.TMON_SD_CAUSE_addr]

/-- Memory after a reset: only the Trellis ledger region is said to be kept (R379); the rest of the SRAM and the DRAM, which
nothing refreshes, are free (DEDUCED, log 23). -/
def State.loseMemory (s : State) : State :=
  ((s.lose 0x01000000 0x06980000).lose 0x06990000 0x07000000).lose dramBase 0xA000000000

/-- The kernel store reads 0 after power-up (R122). -/
def State.zeroKernel (s : State) : State := { s with mem := s.mem.zero kernelBase (kernelBase + kernelEnd) }

/-- The Trellis after a reset: the ledgers and the layer states, which the layers hold by themselves, are kept (R292, R379). -/
def TrellisUnit.afterReset (t : TrellisUnit) : TrellisUnit :=
  { TrellisUnit.reset with outs := t.outs.map fun (x : TrlOut) => { TrlOut.reset with acc := x.acc }, word := t.word }

/-- Every register at its reset value, but for what R379 keeps; the high-voltage die first settles the outputs where the
rails are on (R407). A latched shutdown stays. -/
def State.resetAll (s : State) : State :=
  let t := s.settleInReset.loseMemory.when (s.mode == .off) State.zeroKernel
  { State.reset with
    mode := if t.mode = .shutdown then .shutdown else .reset
    regs := t.regs.filter fun x => keptRegs.contains x.1
    wos := t.wos, mem := t.mem, free := t.free, rdata := t.rdata, out := t.out
    trl := t.trl.afterReset
    fuses := t.fuses, pins := t.pins, clock := t.clock, pending := t.pending }

/-- RESET: by RESET_N while VDDAO is there, or by the first rise of VDDAO. -/
def execReset (vddaoRise : Bool) (s : State) : Host.Outcome State Fault Refusal :=
  .next (s.when (s.mode != .off || vddaoRise) State.resetAll)

/-- UNDERVOLTAGE_RESET: as RESET_N (R407). -/
def execUndervoltageReset (supply : Supply) (s : State) : Host.Outcome State Fault Refusal :=
  match supply with
  | .vcore | .vsram | .vpll | .vsd075 => .next (s.when (s.mode != .off) State.resetAll)

/-- Everything without VDDAO: only the fuses and the straps are left, and the next power-up starts every ledger at 0 (R292,
R406). -/
def State.removeVddao (s : State) : State :=
  let t := (s.lose 0x01000000 0x07000000).lose dramBase 0xA000000000
  { State.reset with
    mode := .off, mem := t.mem, free := t.free, rdata := t.rdata, out := t.out
    fuses := t.fuses, pins := t.pins, clock := t.clock, pending := t.pending }

def execVddaoRemoval (s : State) : Host.Outcome State Fault Refusal := .next s.removeVddao

/-- The temperature thresholds of the C grade (R365). -/
def State.gradeC (s : State) : State :=
  (((((s.put F.TMON_THR_0_WARN 12160).put F.TMON_THR_0_LULL1 12928).put F.TMON_THR_1_LULL2 13312).put F.TMON_THR_1_LULL3 13696).put
    F.TMON_THR_2_LULL4 14080).put F.TMON_THR_2_CRIT 15360

/-- A PLL locks by band search, with a free band code (R344, R379; the events of a search are those of R344). -/
def State.searchLock (s : State) (n : Fin 6) : State :=
  let d := s.draw
  d.2.lockPll n false (d.1.toNat % 128)

/-- Zhevlum Link ports start to train: for network boot, and with thread 0 (R380, R383). -/
def State.startPorts (s : State) : State :=
  overAll (List.finRange 4) (fun (u : State) (p : Fin 4) =>
    if u.bit (F.ZL_CFG_EN p) && u.get (F.ZL_STATUS_STATE p) == 0 then u.startTraining p false else u) s

/-! ## The loader (R380–R384) -/

/-- The state with the loader changed. -/
def State.onLoader (s : State) (f : Loader → Loader) : State := { s with loader := f s.loader }

/-- The loader waits for a container from now on. -/
def State.awaitBoot (s : State) : State := s.onLoader fun l => { l with waiting := true, since := s.clock, staged := 0, whole := false }

/-- A boot fails: CAUSE, SEG and the cause of a refused image, boot event 1, event 2 of a failed authentication, EVENT_N low.
Under BOOTSEL 011 the QSPI container gives way to the network (R382). -/
def State.bootFail (s : State) (cause seg img : Nat) : State :=
  let t := ((s.put F.TOP_BOOT_STAT_CAUSE cause).put F.TOP_BOOT_STAT_SEG seg).put F.TOP_BOOT_STAT_IMG_CAUSE img
  let t := (t.raise (srcBoot 1)).raiseIf (decide (5 ≤ cause ∧ cause ≤ 7)) (srcBoot 2)
  let t := { t with eventN := true }.onLoader fun l => { l with waiting := false, whole := false }
  if t.loader.bootsel = 3 ∧ !t.loader.fallback then
    ((t.onLoader fun l => { l with fallback := true }).awaitBoot).startPorts
  else t

/-- RESET_RELEASE: the fuses are sensed, PLL_TB and PLL_AUX lock, BOOTSEL is sampled and the loader starts; the converters run
their power-on sequence (R298, R379). PLL_PNL and PLL_HV lock as their relocks come (DEDUCED, log 23). -/
def State.release (s : State) : State :=
  let t := { s with mode := .boot, sensed := s.fuses }.put F.TOP_GRADE_GRADE s.fuses.grade.toNat
  let t := if s.fuses.grade = 2 then t.gradeC else t
  let t := ((t.put F.PLL_REF_STAT_OK 1).searchLock 0).searchLock 5
  let t := (t.onPll 1 fun p => { p with relock := true }).onPll 4 fun p => { p with relock := true }
  let t := (t.powerOn false).put F.TOP_BOOT_STAT_BOOTSEL s.pins.toNat
  let t := (t.onLoader fun l => { l with bootsel := s.pins, fallback := false }).awaitBoot
  if s.pins.toNat < 4 then (if s.pins = 1 then t.startPorts else t) else t.bootFail 1 0 0

def execResetRelease (s : State) : Host.Outcome State Fault Refusal := .next (s.when (s.mode == .reset) State.release)

/-- BOOT_TIMEOUT: no container within 10 s (R382). -/
def execBootTimeout (s : State) : Host.Outcome State Fault Refusal :=
  s.ifUp fun s => s.when (s.mode == .boot && s.loader.waiting && !s.loader.whole &&
    decide (s.loader.since + 10000000000 ≤ s.clock)) (·.bootFail 1 0 0)

/-- BOOT_DOORBELL (R384). -/
def execBootDoorbell (s : State) : Host.Outcome State Fault Refusal := s.ifUp State.doorbell

/-! ## The container (R381) -/

/-- A segment entry. -/
structure Segment where
  off  : Nat
  len  : Nat
  ty   : Nat
  dest : Nat
deriving DecidableEq, Repr

/-- Entry `i` of the segment table. -/
def segmentAt (l : List Byte) (i : Nat) : Segment :=
  let w (k : Nat) : Nat := (bytesWord l (64 + 16 * i + 4 * k)).toNat
  ⟨w 0, w 1, w 2, w 3⟩

/-- NSEG, ENTRY_SEG, SIGNED, TOTAL_LEN and VERSION of a container. -/
def bootNseg (l : List Byte) : Nat := (bytesWord l 4).toNat / 256 % 64
def bootEntry (l : List Byte) : Nat := (bytesWord l 4).toNat / 65536 % 32
def bootSigned (l : List Byte) : Bool := (bytesWord l 4).getLsbD 21
def bootTotal (l : List Byte) : Nat := (bytesWord l 8).toNat
def bootVersion (l : List Byte) : Nat := (bytesWord l 12).toNat

/-- The segments. -/
def bootSegs (l : List Byte) : List Segment := (List.range (bootNseg l)).map (segmentAt l)

/-- Cause 2: MAGIC, FORMAT, a reserved field of the header, HDR_CRC. ROLE 3 counts as a reserved value (DEDUCED, log 23). -/
def headerBad (l : List Byte) : Bool :=
  decide (l.length < 64 ∨ bytesWord l 0 ≠ 0x54464231 ∨ (bytesWord l 4).toNat % 256 ≠ 1 ∨ (bytesWord l 4).toNat / 2 ^ 14 % 4 = 3 ∨
    (bytesWord l 4).toNat / 2 ^ 22 ≠ 0 ∨ bytesWord l 60 ≠ crc32c (l.take 60)) || ((l.drop 24).take 36).any (· != 0)

/-- Two byte ranges share a byte. -/
def rangesMeet (a b : Nat × Nat) : Bool := decide (a.1 < b.1 + b.2 ∧ b.1 < a.1 + a.2)

/-- Where a segment of types 0–2 is copied to, and how many bytes: an image's code to its LOAD_ADDR (R124, R152, R381). -/
def Segment.target (l : List Byte) (g : Segment) : Option (Nat × Nat) :=
  let code := (bytesWord l (g.off + 8)).toNat
  let load := (bytesWord l (g.off + 20)).toNat
  match g.ty with
  | 0 => some (0x06900000 + load, code)
  | 1 => some (0x06800000 + load, code)
  | 2 => some (g.dest, g.len)
  | _ => none

/-- A segment entry obeys R381 for a container whose segments must end by `limit`. -/
def Segment.legal (g : Segment) (first limit : Nat) : Bool :=
  decide (g.off % 64 = 0 ∧ first ≤ g.off ∧ g.len ≠ 0 ∧ g.off + g.len ≤ limit) &&
  (match g.ty with
    | 0 | 1 => g.dest == 0
    | 2 => decide (0x02400000 ≤ g.dest ∧ g.dest + g.len ≤ 0x07000000) && !meetsLedgers g.dest g.len
    | 3 => g.len % 8 == 0
    | _ => false)

/-- Cause 3, with its segment: NSEG, ENTRY_SEG, TOTAL_LEN, then the entries in table order, each against those before it. -/
def tableBad (l : List Byte) : Option Nat :=
  let n := bootNseg l
  let first := 64 + 16 * n
  let tail := if bootSigned l then 208 else 0
  let segs := bootSegs l
  let total := bootTotal l
  if n = 0 ∨ 32 < n ∨ total % 8 ≠ 0 ∨ l.length < total ∨ total < first + tail then some 0
  else if n ≤ bootEntry l ∨ ((segs[bootEntry l]?).map (·.ty)) ≠ some 0 then some (bootEntry l)
  else (List.range n).find? fun i =>
    let g := segmentAt l i
    let prior := segs.take i
    !g.legal first (total - tail) || (prior.any fun h => rangesMeet (h.off, h.len) (g.off, g.len)) ||
    (match g.target l with
      | some x => prior.any fun h => match h.target l with
        | some y => rangesMeet x y
        | none => false
      | none => false)

/-- The set bits of the rollback fuses: the lowest VERSION accepted (R385). -/
def popCount (w : BitVec 64) : Nat := ((List.range 64).filter fun i => w.getLsbD i).length

/-- The signature block of a container. -/
def signBlock (l : List Byte) : List Byte := (l.drop (bootTotal l - 208)).take 208

/-- The digest of the public key as the fuses hold it: byte i at bits 8i (PRESUMED, log 23). -/
def keyDigest (l : List Byte) : BitVec 384 := BitVec.ofNat 384 (natOfBytes (sha384 ((signBlock l).take 97)))

/-- The signature over the container up to its block is valid (R385). The key's first byte is 0x04, and the padding is zero. -/
def signatureOk (l : List Byte) : Bool :=
  let b := signBlock l
  let n (a : Nat) : Nat := natBE ((b.drop a).take 48)
  b.getD 0 0 == 4 && ((b.drop 97).take 7).all (· == 0) && ((b.drop 200).take 8).all (· == 0) &&
    ecdsaValid (n 1) (n 49) (n 104) (n 152) (natBE (sha384 (l.take (bootTotal l - 208))))

/-- The first of the checks 2 to 7 that a container fails, with its segment (R382). A signature that is present is checked
whole whether or not AUTH_EN enforces it (R385). -/
def containerCause (f : Fuses) (l : List Byte) : Option (Nat × Nat) :=
  if headerBad l then some (2, 0)
  else match tableBad l with
    | some i => some (3, i)
    | none =>
      if bootVersion l < popCount f.rollback then some (4, 0)
      else if f.authEn && !bootSigned l then some (5, 0)
      else if bootSigned l && keyDigest l != f.keyHash then some (6, 0)
      else if bootSigned l && !signatureOk l then some (7, 0)
      else none

/-! ## The segments (R380, R382) -/

/-- The outcome of a segment: the state after it, and the cause, with an image's own, where it stopped the boot. -/
abbrev SegResult := State × Option (Nat × Nat)

/-- An image: checked as R127 and R152 say, but for cause 7, and copied into place. -/
def State.imageSeg (s : State) (g : Segment) (profile size base : Nat) (feat : Word) : SegResult :=
  let a := stagingBase + g.off
  let (c, h) := s.checkImage a profile size feat fun _ _ => false
  if c ≠ 0 then (s, some (8, c))
  else if g.len < 32 + h.length then (s, some (8, 5))
  else ({ s with mem := s.mem.copy (a + 32) (base + h.load) h.length }, none)

/-- A register list, pair by pair (R381, R382 cause 9). -/
def State.listSeg (s : State) : List (Nat × Word) → SegResult
  | [] => (s, none)
  | (a, v) :: l =>
    match s.writeReg a v with
    | some t => State.listSeg t l
    | none => (s, some (9, 0))

/-- The pairs of a register list. -/
def listPairs (l : List Byte) (g : Segment) : List (Nat × Word) :=
  (List.range (g.len / 8)).map fun i => ((bytesWord l (g.off + 8 * i)).toNat, bytesWord l (g.off + 8 * i + 4))

/-- One segment. -/
def State.doSegment (s : State) (l : List Byte) (g : Segment) : SegResult :=
  match g.ty with
  | 0 => s.imageSeg g 1 0x40000 0x06900000 (s.reg F.SEQ_ISA_FEAT_addr)
  | 1 => s.imageSeg g 0 0x100000 0x06800000 (s.reg F.PRESS_ISA_FEAT_addr)
  | 2 => ({ s with mem := s.mem.copy (stagingBase + g.off) g.dest g.len }, none)
  | _ => s.listSeg (listPairs l g)

/-- The segments in table order, up to the first that stops the boot. -/
def State.doSegments (s : State) (l : List Byte) : List (Segment × Nat) → State × Option (Nat × Nat × Nat)
  | [] => (s, none)
  | (g, i) :: rest =>
    match s.doSegment l g with
    | (t, some (c, img)) => (t, some (c, i, img))
    | (t, none) => State.doSegments t l rest

/-- Where thread 0 starts: LOAD_ADDR + ENTRY of the image that ENTRY_SEG names (R381). -/
def bootStart (l : List Byte) : Word :=
  let g := segmentAt l (bootEntry l)
  bytesWord l (g.off + 20) + bytesWord l (g.off + 12)

/-- The end of a boot: the session tag, READY, event 0, thread 0; every block leaves its reset state (R380, R386). -/
def State.bootDone (s : State) (l : List Byte) : State :=
  let t := if bytesWord l 16 = 0 ∧ bytesWord l 20 = 0 then s
    else (s.writeSession F.HOST_SESSION_LO_addr (bytesWord l 16)).writeSession F.HOST_SESSION_HI_addr (bytesWord l 20)
  let t := (((t.put F.TOP_BOOT_STAT_CAUSE 0).put F.TOP_BOOT_STAT_SEG 0).put F.TOP_BOOT_STAT_IMG_CAUSE 0).putB
    F.TOP_BOOT_STAT_AUTH (bootSigned l)
  let t := (t.put F.TOP_BOOT_STAT_ROLE ((bytesWord l 4).toNat / 2 ^ 14 % 4)).put F.PWR_STAT_READY 1
  let t := (t.raise (srcBoot 0)).onLoader fun x => { x with waiting := false, whole := false }
  let t := overAll (List.finRange 16) (fun (u : State) (k : Fin 16) => u.stopThread k) { t with mode := .run }
  let t := (t.startThread 0 (bootStart l)).put F.TOP_BOOT_STAT_DONE 1
  (overAll (List.finRange 4) (fun (u : State) (p : Fin 4) => u.panelStart p) t.startPorts).restartIdle

/-- A staged container is checked, and its segments are taken. -/
def State.loadContainer (s : State) (l : List Byte) : State :=
  match containerCause s.sensed l with
  | some (c, i) => s.bootFail c i 0
  | none =>
    match s.doSegments l (bootSegs l).zipIdx with
    | (t, some (c, i, img)) => t.bootFail c i img
    | (t, none) => t.bootDone l

/-- A container is complete: as read from the flash, or as the host has written it before its doorbell, the given bytes are
staged; a network load has staged it already (R379, R380, R383). -/
def State.containerIn (s : State) (bytes : List Byte) : State :=
  if s.netBoot then s.when s.loader.whole fun s => s.loadContainer (s.mem.readBytes stagingBase s.loader.staged)
  else s.when (s.loader.bootsel != 2 || s.loader.whole) fun s =>
    (s.store stagingBase (bytes.take stagingSize)).loadContainer (bytes.take stagingSize)

def execBootContainerReceived (bytes : List Byte) (s : State) : Host.Outcome State Fault Refusal :=
  s.ifUp fun s => s.when (s.mode == .boot && s.loader.waiting) (·.containerIn bytes)

end Sys2Proof.Machine
end

