-- ==== Sys2Proof/Machine/Press.lean ====
section
/-! DEFINITION. The press profile of Knathal K3 (R100–R123): every instruction that a press runs in a bundle or a job. Each
issues through `State.issue`, which takes the exceptions of R120. The scalar operations serve the sequencer's threads too. -/

namespace Sys2Proof.Machine

/-! ## Control (R109, R112, R101) -/

def execNop (n : Fin 48) (o : Opnd) (s : State) : Host.Outcome State Fault Refusal :=
  s.ifUp fun s => s.issue n (.op 0x00 0 o) (o.legal .nothing .nothing .nothing false) fun _ s => .ok s

/-- The end of a bundle or a job by DONE (R90, R145). -/
def State.finish (s : State) (n : Fin 48) : State :=
  match s.press[n].does with
  | .bundle b => s.endBundle n b
  | .job j => s.endJob n j 0
  | _ => s

def execDone (n : Fin 48) (o : Opnd) (s : State) : Host.Outcome State Fault Refusal :=
  s.ifUp fun s => s.issue n (.op 0x00 1 o) (o.legal .nothing .nothing .nothing false) fun _ s => .done (s.finish n)

def execRet (n : Fin 48) (o : Opnd) (s : State) : Host.Outcome State Fault Refusal :=
  s.ifUp fun s => s.issue n (.op 0x00 2 o) (o.legal .nothing .nothing .nothing false) fun p s => .jump s (p.sreg 15).toNat

/-- The target PC + 4 × offset, without wrapping (R112). -/
def branchTarget (pc : Word) (off : BitVec 15) : Int := pc.toNat + 4 * off.toInt

/-- BR: a branch on the condition of code `c` over the predicate and VALID (R112). -/
def State.branch (s : State) (n : Fin 48) (off : BitVec 15) (pred : BitVec 3) (c : BitVec 8) (legal : Bool)
    (cond : BitVec 16 → BitVec 16 → Bool) : State :=
  s.issue n (.rel 0x01 c off pred) legal fun p s =>
    if cond (p.p[pred.toNat]'pred.isLt) p.valid then .jump s (branchTarget p.pc off) else .ok s

def execBrAlways (n : Fin 48) (off : BitVec 15) (pred : BitVec 3) (s : State) : Host.Outcome State Fault Refusal :=
  s.ifUp fun s => s.branch n off pred 0 (pred == 0) fun _ _ => true

def execBrAny (n : Fin 48) (off : BitVec 15) (pred : BitVec 3) (s : State) : Host.Outcome State Fault Refusal :=
  s.ifUp fun s => s.branch n off pred 1 true fun q v => q &&& v != 0

def execBrAll (n : Fin 48) (off : BitVec 15) (pred : BitVec 3) (s : State) : Host.Outcome State Fault Refusal :=
  s.ifUp fun s => s.branch n off pred 2 true fun q v => q &&& v == v

def execBrNone (n : Fin 48) (off : BitVec 15) (pred : BitVec 3) (s : State) : Host.Outcome State Fault Refusal :=
  s.ifUp fun s => s.branch n off pred 3 true fun q v => q &&& v == 0

def execCall (n : Fin 48) (off : BitVec 15) (pred : BitVec 3) (s : State) : Host.Outcome State Fault Refusal :=
  s.ifUp fun s => s.issue n (.rel 0x02 0 off pred) (pred == 0) fun p s =>
    .jump (s.onPress n fun p => p.setS 15 (p.pc + 4)) (branchTarget p.pc off)

/-- The fields of long-form classes 0 to 3 are legal: SRCB holds the class, MINOR has no use (R101, R102). -/
def Opnd.longLegal (o : Opnd) (d : Names) (pred : Bool) : Bool := o.legal d .nothing .code pred && o.low == 0

def execJmp (n : Fin 48) (o : Opnd) (imm : Word) (s : State) : Host.Outcome State Fault Refusal :=
  s.ifUp fun s => s.issue n (.long 2 o.low o imm) (Opnd.longLegal o .nothing false) fun _ s => .jump s imm.toNat

def execCalla (n : Fin 48) (o : Opnd) (imm : Word) (s : State) : Host.Outcome State Fault Refusal :=
  s.ifUp fun s => s.issue n (.long 3 o.low o imm) (Opnd.longLegal o .nothing false) fun _ s =>
    .jump (s.onPress n fun p => p.setS 15 (p.pc + 8)) imm.toNat

def execSli (n : Fin 48) (o : Opnd) (imm : Word) (s : State) : Host.Outcome State Fault Refusal :=
  s.ifUp fun s => s.issue n (.long 0 o.low o imm) (Opnd.longLegal o .scalar false) (onRegs n fun p => p.setS o.dst imm)

def execVli (n : Fin 48) (o : Opnd) (imm : Word) (s : State) : Host.Outcome State Fault Refusal :=
  s.ifUp fun s => s.issue n (.long 1 o.low o imm) (Opnd.longLegal o .vector true)
    (onRegs n fun p => p.setV o.dst (byLane (p.lanes o.pred) (p.vreg o.dst) fun _ => imm))

/-! ## Scalar operations (R109, R110, R133) -/

/-- SOP on a press, in one word or as a long form of class 4, or on a thread, which has no long form. The long form of an
operation with one source is legal, and its immediate has no effect (DEDUCED, log 9). -/
def State.sop (s : State) (op : SOp) (u : Issuer) (o : Opnd) : State :=
  let b : Names := if op.unary then .nothing else .scalar
  match u with
  | .thread t => s.threadIssue t (.op 0x08 op.code o) (o.legal .scalar .scalar b false) fun h s =>
      .ok (s.onThread t fun g => g.setS o.dst (op.eval (h.sreg o.srcA) (h.sreg o.srcB)))
  | .press n =>
    match o.long with
    | none => s.issue n (.op 0x08 op.code o) (o.legal .scalar .scalar b false)
        (onRegs n fun p => p.setS o.dst (op.eval (p.sreg o.srcA) (p.sreg o.srcB)))
    | some imm => s.issue n (.long 4 op.code o imm) (o.legal .scalar .scalar .code false)
        (onRegs n fun p => p.setS o.dst (op.eval (p.sreg o.srcA) imm))

def execSopMov (u : Issuer) (o : Opnd) (s : State) : Host.Outcome State Fault Refusal := s.ifUp (·.sop .mov u o)
def execSopAdd (u : Issuer) (o : Opnd) (s : State) : Host.Outcome State Fault Refusal := s.ifUp (·.sop .add u o)
def execSopSub (u : Issuer) (o : Opnd) (s : State) : Host.Outcome State Fault Refusal := s.ifUp (·.sop .sub u o)
def execSopMul (u : Issuer) (o : Opnd) (s : State) : Host.Outcome State Fault Refusal := s.ifUp (·.sop .mul u o)
def execSopMulhu (u : Issuer) (o : Opnd) (s : State) : Host.Outcome State Fault Refusal := s.ifUp (·.sop .mulhu u o)
def execSopAnd (u : Issuer) (o : Opnd) (s : State) : Host.Outcome State Fault Refusal := s.ifUp (·.sop .and u o)
def execSopOr (u : Issuer) (o : Opnd) (s : State) : Host.Outcome State Fault Refusal := s.ifUp (·.sop .or u o)
def execSopXor (u : Issuer) (o : Opnd) (s : State) : Host.Outcome State Fault Refusal := s.ifUp (·.sop .xor u o)
def execSopShl (u : Issuer) (o : Opnd) (s : State) : Host.Outcome State Fault Refusal := s.ifUp (·.sop .shl u o)
def execSopShr (u : Issuer) (o : Opnd) (s : State) : Host.Outcome State Fault Refusal := s.ifUp (·.sop .shr u o)
def execSopSra (u : Issuer) (o : Opnd) (s : State) : Host.Outcome State Fault Refusal := s.ifUp (·.sop .sra u o)
def execSopSlt (u : Issuer) (o : Opnd) (s : State) : Host.Outcome State Fault Refusal := s.ifUp (·.sop .slt u o)
def execSopSltu (u : Issuer) (o : Opnd) (s : State) : Host.Outcome State Fault Refusal := s.ifUp (·.sop .sltu u o)
def execSopMin (u : Issuer) (o : Opnd) (s : State) : Host.Outcome State Fault Refusal := s.ifUp (·.sop .min u o)
def execSopMax (u : Issuer) (o : Opnd) (s : State) : Host.Outcome State Fault Refusal := s.ifUp (·.sop .max u o)
def execSopFadd (u : Issuer) (o : Opnd) (s : State) : Host.Outcome State Fault Refusal := s.ifUp (·.sop .fadd u o)
def execSopFsub (u : Issuer) (o : Opnd) (s : State) : Host.Outcome State Fault Refusal := s.ifUp (·.sop .fsub u o)
def execSopFmul (u : Issuer) (o : Opnd) (s : State) : Host.Outcome State Fault Refusal := s.ifUp (·.sop .fmul u o)
def execSopFtoi (u : Issuer) (o : Opnd) (s : State) : Host.Outcome State Fault Refusal := s.ifUp (·.sop .ftoi u o)
def execSopItof (u : Issuer) (o : Opnd) (s : State) : Host.Outcome State Fault Refusal := s.ifUp (·.sop .itof u o)

def execSaddi (u : Issuer) (o : Opnd) (s : State) : Host.Outcome State Fault Refusal :=
  s.ifUp fun s =>
    match u with
    | .thread t => s.threadIssue t (.low 0x09 o) (o.legal .scalar .scalar .nothing false) fun h s =>
        .ok (s.onThread t fun g => g.setS o.dst (h.sreg o.srcA + o.imm8))
    | .press n => s.issue n (.low 0x09 o) (o.legal .scalar .scalar .nothing false)
        (onRegs n fun p => p.setS o.dst (p.sreg o.srcA + o.imm8))

def execSpmovPtos (n : Fin 48) (o : Opnd) (s : State) : Host.Outcome State Fault Refusal :=
  s.ifUp fun s => s.issue n (.op 0x0A 0 o) (o.legal .scalar .predicate .nothing false)
    (onRegs n fun p => p.setS o.dst ((p.preg o.srcA).setWidth 32))

def execSpmovStop (n : Fin 48) (o : Opnd) (s : State) : Host.Outcome State Fault Refusal :=
  s.ifUp fun s => s.issue n (.op 0x0A 1 o) (o.legal .predicate .scalar .nothing false)
    (onRegs n fun p => p.setP o.dst ((p.sreg o.srcA).setWidth 16))

/-! ## Vector operations (R111) -/

/-- The target type of CVT in SRCB. -/
def cvtTarget (b : BitVec 5) : Option VTy := VTy.ofCode (b.setWidth 3)

/-- A vector operation is legal in its form and type (R102, R111). CVT has no long form; the long form of another operation with one
source is legal, and its immediate has no effect (DEDUCED, log 9). -/
def vopLegal (op : VOp) (form : VForm) (ty : BitVec 3) (o : Opnd) : Bool :=
  match VTy.ofCode ty with
  | none => false
  | some t =>
    op.legal t &&
    (if op = .cvt then
      (match form, cvtTarget o.srcB with
       | .vv, some d => o.srcB.toNat < 16 && (t.half != d.half || o.srcB.toNat < 8) &&
           o.legal .vector .vector .code true
       | _, _ => false)
     else
      (match form with
       | .vv => o.legal .vector .vector (if op.unary then .nothing else .vector) true
       | .vs => o.legal .vector .vector (if op.unary then .nothing else .scalar) true
       | .imm _ => o.legal .vector .vector .code true))

/-- Source B of lane `k`: a vector lane, a broadcast scalar, a broadcast immediate. -/
def Press.srcB (p : Press) (form : VForm) (o : Opnd) (k : Fin 16) : Word :=
  match form with
  | .vv => (p.vreg o.srcB)[k]
  | .vs => p.sreg o.srcB
  | .imm w => w

/-- The lane result of a vector operation. -/
def vopLane (op : VOp) (ty : BitVec 3) (o : Opnd) (d a b : Word) : Word :=
  match VTy.ofCode ty with
  | none => d
  | some t =>
    if op = .cvt then
      (match cvtTarget o.srcB with
       | some u => cvtLane t u (8 ≤ o.srcB.toNat) d a
       | none => d)
    else op.eval t d a b

/-- VOP, VOPS and long-form class 5 (R106, R111). -/
def State.vop (s : State) (op : VOp) (n : Fin 48) (form : VForm) (ty : BitVec 3) (o : Opnd) : State :=
  s.issue n (.vec 0x10 5 ty op.code form o) (vopLegal op form ty o) (onRegs n fun p =>
    p.setV o.dst (byLane (p.lanes o.pred) (p.vreg o.dst) fun k =>
      vopLane op ty o (p.vreg o.dst)[k] (p.vreg o.srcA)[k] (p.srcB form o k)))

def execVopMov (n : Fin 48) (form : VForm) (ty : BitVec 3) (o : Opnd) (s : State) : Host.Outcome State Fault Refusal :=
  s.ifUp (·.vop .mov n form ty o)
def execVopAdd (n : Fin 48) (form : VForm) (ty : BitVec 3) (o : Opnd) (s : State) : Host.Outcome State Fault Refusal :=
  s.ifUp (·.vop .add n form ty o)
def execVopSub (n : Fin 48) (form : VForm) (ty : BitVec 3) (o : Opnd) (s : State) : Host.Outcome State Fault Refusal :=
  s.ifUp (·.vop .sub n form ty o)
def execVopRsub (n : Fin 48) (form : VForm) (ty : BitVec 3) (o : Opnd) (s : State) : Host.Outcome State Fault Refusal :=
  s.ifUp (·.vop .rsub n form ty o)
def execVopMul (n : Fin 48) (form : VForm) (ty : BitVec 3) (o : Opnd) (s : State) : Host.Outcome State Fault Refusal :=
  s.ifUp (·.vop .mul n form ty o)
def execVopMad (n : Fin 48) (form : VForm) (ty : BitVec 3) (o : Opnd) (s : State) : Host.Outcome State Fault Refusal :=
  s.ifUp (·.vop .mad n form ty o)
def execVopMin (n : Fin 48) (form : VForm) (ty : BitVec 3) (o : Opnd) (s : State) : Host.Outcome State Fault Refusal :=
  s.ifUp (·.vop .min n form ty o)
def execVopMax (n : Fin 48) (form : VForm) (ty : BitVec 3) (o : Opnd) (s : State) : Host.Outcome State Fault Refusal :=
  s.ifUp (·.vop .max n form ty o)
def execVopAbs (n : Fin 48) (form : VForm) (ty : BitVec 3) (o : Opnd) (s : State) : Host.Outcome State Fault Refusal :=
  s.ifUp (·.vop .abs n form ty o)
def execVopNeg (n : Fin 48) (form : VForm) (ty : BitVec 3) (o : Opnd) (s : State) : Host.Outcome State Fault Refusal :=
  s.ifUp (·.vop .neg n form ty o)
def execVopAnd (n : Fin 48) (form : VForm) (ty : BitVec 3) (o : Opnd) (s : State) : Host.Outcome State Fault Refusal :=
  s.ifUp (·.vop .and n form ty o)
def execVopOr (n : Fin 48) (form : VForm) (ty : BitVec 3) (o : Opnd) (s : State) : Host.Outcome State Fault Refusal :=
  s.ifUp (·.vop .or n form ty o)
def execVopXor (n : Fin 48) (form : VForm) (ty : BitVec 3) (o : Opnd) (s : State) : Host.Outcome State Fault Refusal :=
  s.ifUp (·.vop .xor n form ty o)
def execVopAndn (n : Fin 48) (form : VForm) (ty : BitVec 3) (o : Opnd) (s : State) : Host.Outcome State Fault Refusal :=
  s.ifUp (·.vop .andn n form ty o)
def execVopShl (n : Fin 48) (form : VForm) (ty : BitVec 3) (o : Opnd) (s : State) : Host.Outcome State Fault Refusal :=
  s.ifUp (·.vop .shl n form ty o)
def execVopShr (n : Fin 48) (form : VForm) (ty : BitVec 3) (o : Opnd) (s : State) : Host.Outcome State Fault Refusal :=
  s.ifUp (·.vop .shr n form ty o)
def execVopSra (n : Fin 48) (form : VForm) (ty : BitVec 3) (o : Opnd) (s : State) : Host.Outcome State Fault Refusal :=
  s.ifUp (·.vop .sra n form ty o)
def execVopFloor (n : Fin 48) (form : VForm) (ty : BitVec 3) (o : Opnd) (s : State) : Host.Outcome State Fault Refusal :=
  s.ifUp (·.vop .floor n form ty o)
def execVopRcp (n : Fin 48) (form : VForm) (ty : BitVec 3) (o : Opnd) (s : State) : Host.Outcome State Fault Refusal :=
  s.ifUp (·.vop .rcp n form ty o)
def execVopRsq (n : Fin 48) (form : VForm) (ty : BitVec 3) (o : Opnd) (s : State) : Host.Outcome State Fault Refusal :=
  s.ifUp (·.vop .rsq n form ty o)
def execVopCvt (n : Fin 48) (form : VForm) (ty : BitVec 3) (o : Opnd) (s : State) : Host.Outcome State Fault Refusal :=
  s.ifUp (·.vop .cvt n form ty o)
def execVopSwaph (n : Fin 48) (form : VForm) (ty : BitVec 3) (o : Opnd) (s : State) : Host.Outcome State Fault Refusal :=
  s.ifUp (·.vop .swaph n form ty o)

/-! ## Compares (R107, R112) -/

/-- A compare is legal in its form and type. -/
def vcmpLegal (c : VCond) (form : VForm) (ty : BitVec 3) (o : Opnd) : Bool :=
  match VTy.ofCode ty with
  | none => false
  | some t => c.legal t && o.legal .predicate .vector
      (match form with | .vv => .vector | .vs => .scalar | .imm _ => .code) true

/-- The lane result of a compare. -/
def vcmpLane (c : VCond) (ty : BitVec 3) (a b : Word) : Bool :=
  match VTy.ofCode ty with
  | none => false
  | some t => c.eval t a b

/-- A predicate from a lane condition. -/
def maskOf (f : Fin 16 → Bool) : BitVec 16 := BitVec.ofNat 16 ((List.finRange 16).foldl (fun a k => a + (f k).toNat * 2 ^ k.val) 0)

/-- VCMP, VCMPS and long-form class 6: 0 in the lanes that do not execute (R107). -/
def State.vcmp (s : State) (c : VCond) (n : Fin 48) (form : VForm) (ty : BitVec 3) (o : Opnd) : State :=
  s.issue n (.vec 0x12 6 ty c.code form o) (vcmpLegal c form ty o) (onRegs n fun p =>
    p.setP o.dst (p.lanes o.pred &&& maskOf fun k => vcmpLane c ty (p.vreg o.srcA)[k] (p.srcB form o k)))

def execVcmpEq (n : Fin 48) (form : VForm) (ty : BitVec 3) (o : Opnd) (s : State) : Host.Outcome State Fault Refusal :=
  s.ifUp (·.vcmp .eq n form ty o)
def execVcmpNe (n : Fin 48) (form : VForm) (ty : BitVec 3) (o : Opnd) (s : State) : Host.Outcome State Fault Refusal :=
  s.ifUp (·.vcmp .ne n form ty o)
def execVcmpLt (n : Fin 48) (form : VForm) (ty : BitVec 3) (o : Opnd) (s : State) : Host.Outcome State Fault Refusal :=
  s.ifUp (·.vcmp .lt n form ty o)
def execVcmpLe (n : Fin 48) (form : VForm) (ty : BitVec 3) (o : Opnd) (s : State) : Host.Outcome State Fault Refusal :=
  s.ifUp (·.vcmp .le n form ty o)
def execVcmpGt (n : Fin 48) (form : VForm) (ty : BitVec 3) (o : Opnd) (s : State) : Host.Outcome State Fault Refusal :=
  s.ifUp (·.vcmp .gt n form ty o)
def execVcmpGe (n : Fin 48) (form : VForm) (ty : BitVec 3) (o : Opnd) (s : State) : Host.Outcome State Fault Refusal :=
  s.ifUp (·.vcmp .ge n form ty o)
def execVcmpLtu (n : Fin 48) (form : VForm) (ty : BitVec 3) (o : Opnd) (s : State) : Host.Outcome State Fault Refusal :=
  s.ifUp (·.vcmp .ltu n form ty o)
def execVcmpGeu (n : Fin 48) (form : VForm) (ty : BitVec 3) (o : Opnd) (s : State) : Host.Outcome State Fault Refusal :=
  s.ifUp (·.vcmp .geu n form ty o)

/-! ## Predicate logic and lane moves (R108, R109) -/

/-- PLOG of operation `c` (R108): `a` and `b` say which sources are used. -/
def State.plog (s : State) (n : Fin 48) (o : Opnd) (c : BitVec 8) (a b : Names) (f : BitVec 16 → BitVec 16 → BitVec 16 → BitVec 16) : State :=
  s.issue n (.op 0x14 c o) (o.legal .predicate a b false)
    (onRegs n fun p => p.setP o.dst (f (p.preg o.srcA) (p.preg o.srcB) p.valid))

def execPlogAnd (n : Fin 48) (o : Opnd) (s : State) : Host.Outcome State Fault Refusal := s.ifUp (·.plog n o 0 .predicate .predicate fun a b _ => a &&& b)
def execPlogOr (n : Fin 48) (o : Opnd) (s : State) : Host.Outcome State Fault Refusal := s.ifUp (·.plog n o 1 .predicate .predicate fun a b _ => a ||| b)
def execPlogXor (n : Fin 48) (o : Opnd) (s : State) : Host.Outcome State Fault Refusal := s.ifUp (·.plog n o 2 .predicate .predicate fun a b _ => a ^^^ b)
def execPlogAndnot (n : Fin 48) (o : Opnd) (s : State) : Host.Outcome State Fault Refusal := s.ifUp (·.plog n o 3 .predicate .predicate fun a b _ => a &&& ~~~b)
def execPlogNot (n : Fin 48) (o : Opnd) (s : State) : Host.Outcome State Fault Refusal := s.ifUp (·.plog n o 4 .predicate .nothing fun a _ _ => ~~~a)
def execPlogOnes (n : Fin 48) (o : Opnd) (s : State) : Host.Outcome State Fault Refusal := s.ifUp (·.plog n o 5 .nothing .nothing fun _ _ _ => 0xFFFF)
def execPlogZeros (n : Fin 48) (o : Opnd) (s : State) : Host.Outcome State Fault Refusal := s.ifUp (·.plog n o 6 .nothing .nothing fun _ _ _ => 0)
def execPlogValid (n : Fin 48) (o : Opnd) (s : State) : Host.Outcome State Fault Refusal := s.ifUp (·.plog n o 7 .nothing .nothing fun _ _ v => v)

def execVbcast (n : Fin 48) (o : Opnd) (s : State) : Host.Outcome State Fault Refusal :=
  s.ifUp fun s => s.issue n (.op 0x15 0 o) (o.legal .vector .scalar .nothing true) (onRegs n fun p =>
    p.setV o.dst (byLane (p.lanes o.pred) (p.vreg o.dst) fun _ => p.sreg o.srcA))

def execVlane (n : Fin 48) (o : Opnd) (s : State) : Host.Outcome State Fault Refusal :=
  s.ifUp fun s => s.issue n (.low 0x16 o) (o.legal .scalar .vector .nothing false && decide (o.low.toNat < 16)) (onRegs n fun p =>
    p.setS o.dst ((p.vreg o.srcA)[o.low.toNat % 16]'(Nat.mod_lt _ (by decide))))

/-! ## Local store (R109, R114–R116). Addresses wrap at 32 bits (DEDUCED, log 9). -/

/-- The address sA + `unit` × imm8. -/
def Press.addr (p : Press) (o : Opnd) (unit : Nat) : Nat := (p.sreg o.srcA + BitVec.ofNat 32 (unit * o.low.toNat)).toNat

/-- The lane address sA + vB[k] + 4 × imm8. -/
def Press.laneAddr (p : Press) (o : Opnd) (k : Fin 16) : Nat :=
  (p.sreg o.srcA + (p.vreg o.srcB)[k] + BitVec.ofNat 32 (4 * o.low.toNat)).toNat

def execLds (n : Fin 48) (o : Opnd) (ecc : List EccHit) (s : State) : Host.Outcome State Fault Refusal :=
  s.ifUp fun s => s.issue n (.low 0x20 o) (o.legal .scalar .scalar .nothing false) fun p s =>
    let a := p.addr o 4
    if badLoad a 4 4 then .exc 2 else s.loads n [(a, 4)] ecc fun s => (s.lsWord n a).2.onPress n fun q => q.setS o.dst (s.lsWord n a).1

def execSts (n : Fin 48) (o : Opnd) (s : State) : Host.Outcome State Fault Refusal :=
  s.ifUp fun s => s.issue n (.low 0x21 o) (o.legal .scalar .scalar .nothing false) fun p s =>
    let a := p.addr o 4
    if badStore a 4 4 then .exc 2 else .ok (s.lsStore n [(a, p.sreg o.dst)])

/-- The value that was loaded for lane `k` among the lanes that loaded. -/
def laneWord (ks : List (Fin 16)) (ws : List Word) (k : Fin 16) : Word := ws.getD (ks.idxOf k) 0

def execLdv (n : Fin 48) (o : Opnd) (ecc : List EccHit) (s : State) : Host.Outcome State Fault Refusal :=
  s.ifUp fun s => s.issue n (.low 0x22 o) (o.legal .vector .scalar .nothing true) fun p s =>
    let a := p.addr o 64
    let ks := laneList (p.lanes o.pred)
    if ks.any fun k => a % 64 != 0 || badLoad (a + 4 * k) 4 4 then .exc 2
    else s.loads n (ks.map fun k => (a + 4 * k.val, 4)) ecc fun s =>
      let (ws, t) := s.lsWords n (ks.map fun k => a + 4 * k.val)
      t.onPress n fun q => q.setV o.dst (byLane (p.lanes o.pred) (q.vreg o.dst) (laneWord ks ws))

def execStv (n : Fin 48) (o : Opnd) (s : State) : Host.Outcome State Fault Refusal :=
  s.ifUp fun s => s.issue n (.low 0x23 o) (o.legal .vector .scalar .nothing true) fun p s =>
    let a := p.addr o 64
    let ks := laneList (p.lanes o.pred)
    if ks.any fun k => a % 64 != 0 || badStore (a + 4 * k) 4 4 then .exc 2
    else .ok (s.lsStore n (ks.map fun k => (a + 4 * k.val, (p.vreg o.dst)[k])))

def execGath (n : Fin 48) (o : Opnd) (ecc : List EccHit) (s : State) : Host.Outcome State Fault Refusal :=
  s.ifUp fun s => s.issue n (.low 0x24 o) (o.legal .vector .scalar .vector true) fun p s =>
    let ks := laneList (p.lanes o.pred)
    if ks.any fun k => badLoad (p.laneAddr o k) 4 4 then .exc 2
    else s.loads n (ks.map fun k => (p.laneAddr o k, 4)) ecc fun s =>
      let (ws, t) := s.lsWords n (ks.map (p.laneAddr o))
      t.onPress n fun q => q.setV o.dst (byLane (p.lanes o.pred) (q.vreg o.dst) (laneWord ks ws))

/-- The second register of a pair. -/
def pairHigh (f : BitVec 5) : BitVec 5 := f + 1

/-- A pair with the executing lanes replaced. -/
def Press.setPair (p : Press) (f : BitVec 5) (ex : BitVec 16) (lo hi : Fin 16 → Word) : Press :=
  (p.setV f (byLane ex (p.vreg f) lo)).setV (pairHigh f) (byLane ex (p.vreg (pairHigh f)) hi)

def execGath2 (n : Fin 48) (o : Opnd) (ecc : List EccHit) (s : State) : Host.Outcome State Fault Refusal :=
  s.ifUp fun s => s.issue n (.low 0x25 o) (o.legal .pair .scalar .vector true) fun p s =>
    let ks := laneList (p.lanes o.pred)
    if ks.any fun k => badLoad (p.laneAddr o k) 8 8 then .exc 2
    else s.loads n (ks.map fun k => (p.laneAddr o k, 8)) ecc fun s =>
      let (ls, t) := s.lsWords n (ks.map (p.laneAddr o))
      let (hs, u) := t.lsWords n (ks.map fun k => p.laneAddr o k + 4)
      u.onPress n fun q => q.setPair o.dst (p.lanes o.pred) (laneWord ks ls) (laneWord ks hs)

def execScat (n : Fin 48) (o : Opnd) (s : State) : Host.Outcome State Fault Refusal :=
  s.ifUp fun s => s.issue n (.low 0x26 o) (o.legal .vector .scalar .vector true) fun p s =>
    let ks := laneList (p.lanes o.pred)
    if ks.any fun k => badStore (p.laneAddr o k) 4 4 then .exc 2
    else .ok (s.lsStore n (ks.map fun k => (p.laneAddr o k, (p.vreg o.dst)[k])))

/-! ## Spill (R119) -/

/-- The DRAM address of an offset in the spill window of press `n`. -/
def State.spillAddr (s : State) (n : Fin 48) (off : Nat) : Nat :=
  s.get F.PRESS_SPILL_BASE_BASE * 65536 + n * (s.get F.PRESS_SPILL_WIN_WIN_64K * 65536) + off

/-- The bytes lie in the window, and the window exists. -/
def State.spillOk (s : State) (off len : Nat) : Bool :=
  decide (s.get F.PRESS_SPILL_BASE_BASE ≠ 0 ∧ off + len ≤ s.get F.PRESS_SPILL_WIN_WIN_64K * 65536)

/-- XFER.OUT: while the controller does not serve requests the instruction does not complete (log 9). One that breaks both R116 and
the window takes cause 2 (DEDUCED, log 9), here as in XFER.IN. -/
def execXferOut (n : Fin 48) (o : Opnd) (ecc : List EccHit) (s : State) : Host.Outcome State Fault Refusal :=
  s.ifUp fun s => s.issue n (.low 0x28 o) (o.legal .nothing .scalar .scalar false && o.low != 0) fun p s =>
    let len := 64 * o.low.toNat
    let a := (p.sreg o.srcA).toNat
    let b := (p.sreg o.srcB).toNat
    if badLoad a len 64 ∨ b % 64 ≠ 0 then .exc 2
    else if !s.spillOk b len then .exc 4
    else if !s.dramGrants (.spill n) then .wait s
    else s.loads n [(a, len)] ecc fun s =>
      let (ws, t) := s.lsWords n ((List.range (16 * o.low.toNat)).map fun i => a + 4 * i)
      t.dramWrite (t.spillAddr n b) (ws.flatMap fun w => bytesOfNat 4 w.toNat) ecc

def execXferIn (n : Fin 48) (o : Opnd) (ecc : List EccHit) (s : State) : Host.Outcome State Fault Refusal :=
  s.ifUp fun s => s.issue n (.low 0x29 o) (o.legal .nothing .scalar .scalar false && o.low != 0) fun p s =>
    let len := 64 * o.low.toNat
    let a := (p.sreg o.srcA).toNat
    let b := (p.sreg o.srcB).toNat
    if badStore a len 64 ∨ b % 64 ≠ 0 then .exc 2
    else if !s.spillOk b len then .exc 4
    else if !s.dramGrants (.spill n) then .wait s
    else
      let (bs, t) := s.dramRead (s.spillAddr n b) len ecc
      if s.eccBad (s.spillAddr n b) len ecc then .excIn t 4 else .ok (t.store (localBase n + a) bs)

/-! ## RAYGEN (R82) -/

/-- The signed number in bits `lo` to `lo + w − 1` of a calibration entry (R51). -/
def entryS (e : BitVec 64) (lo w : Nat) : Int := (e.extractLsb' lo w).toInt

/-- The unsigned number in bits of a calibration entry. -/
def entryU (e : BitVec 64) (lo w : Nat) : Nat := (e.extractLsb' lo w).toNat

/-- N_H or N_V: the weighted deflection of a direction index, times 256 (R48). -/
def AngleLatch.deflection (a : AngleLatch) (d lo : Nat) : Int :=
  let at' (i : Nat) : Int := ((a.rows.getD i 0).extractLsb' lo 16).toInt
  (256 - a.weight) * at' d + a.weight * at' (64 + d)

/-- The value of RAYGEN `sel` for lane `k` of a bundle (R82). -/
def State.rayValue (s : State) (a : AngleLatch) (b : Bundle) (k sel : Nat) : Word :=
  let e := s.calEntry s.gridW (b.laneX k) b.y (k % 8)
  match sel with
  | 0 => intF32 (256 * (b.laneX k + a.hdr.mh) + 128 + entryS e 32 8) (-8)
  | 1 => intF32 (256 * (b.y + a.hdr.mv) + 128 + entryS e 40 8) (-8)
  | 2 => tanF32 (entryS e 0 14 * 2 ^ 20 + (256 + entryS e 26 6) * a.deflection b.dir 0) 27
  | 3 => tanF32 (entryS e 14 12 * 2 ^ 12 + a.deflection b.dir 16) 19
  | 4 => BitVec.ofNat 32 (entryU e 48 16 + 65536 * (k % 8))
  | _ => BitVec.ofNat 32 (64 * (k % 4) + b.dir + 256 * (k % 8 / 4))

/-- An instruction of a synthesis kernel alone: a context fault in a job (R123). -/
def State.inBundle (s : State) (n : Fin 48) (f : Bundle → AngleLatch → Effect) : Effect :=
  match s.bundleOf n with
  | none => .exc 5
  | some b =>
    match s.latchOf b.frame with
    | none => .exc 5
    | some a => f b a

/-- RAYGEN vD, #sel. -/
def State.raygen (s : State) (n : Fin 48) (o : Opnd) (sel : Nat) : State :=
  s.issue n (.op 0x30 (BitVec.ofNat 8 sel) o) (o.legal .vector .nothing .nothing true) fun p s => s.inBundle n fun b a =>
    .ok (s.onPress n fun q => q.setV o.dst (byLane (p.lanes o.pred) (p.vreg o.dst) fun k => s.rayValue a b k sel))

def execRaygenOrgX (n : Fin 48) (o : Opnd) (s : State) : Host.Outcome State Fault Refusal := s.ifUp (·.raygen n o 0)
def execRaygenOrgY (n : Fin 48) (o : Opnd) (s : State) : Host.Outcome State Fault Refusal := s.ifUp (·.raygen n o 1)
def execRaygenTanU (n : Fin 48) (o : Opnd) (s : State) : Host.Outcome State Fault Refusal := s.ifUp (·.raygen n o 2)
def execRaygenTanW (n : Fin 48) (o : Opnd) (s : State) : Host.Outcome State Fault Refusal := s.ifUp (·.raygen n o 3)
def execRaygenGain (n : Fin 48) (o : Opnd) (s : State) : Host.Outcome State Fault Refusal := s.ifUp (·.raygen n o 4)
def execRaygenDir (n : Fin 48) (o : Opnd) (s : State) : Host.Outcome State Fault Refusal := s.ifUp (·.raygen n o 5)

/-! ## DSEARCH and FETCHK (R83–R86) -/

/-- The taps that a selector word and a position name in the bundle's frame; none where OUT and EMPTY are set at once. -/
def State.selTaps (s : State) (a : AngleLatch) (sel x y : Word) : Option (List (Nat × Sample) × Bool) :=
  s.taps a.hdr a.half (sel.toNat % 16) (sel.getLsbD 4) x y

/-- OUT of the taps. -/
def tapsOut : Option (List (Nat × Sample) × Bool) → Bool
  | none => true
  | some t => t.2

/-- The selector word after a depth search step (R83, R85). -/
def dsearchWord (sel : Word) (t : Option (List (Nat × Sample) × Bool)) : Word :=
  let depth := t.bind fun x => tapDepth x.1
  BitVec.ofNat 32 (sel.toNat % 32 + 32 * (tapsOut t).toNat + 64 * depth.isNone.toNat +
    65536 * depth.getD (sel.toNat / 65536))

/-- The pair of a fetch: all zeros with EMPTY (R86). -/
def fetchPair (t : Option (List (Nat × Sample) × Bool)) : Rgba :=
  match t with
  | none => ⟨0, 0, 0, 0⟩
  | some (l, _) =>
    if (alphaTaps l).isEmpty then ⟨0, 0, 0, 0⟩
    else ⟨tapSum l fun x => unitColour x.r, tapSum l fun x => unitColour x.g, tapSum l fun x => unitColour x.b,
      tapSum l fun x => unitAlpha x.a6⟩

/-- p7 with OUT copied into the executing lanes (R83). -/
def Press.setOut (p : Press) (ex : BitVec 16) (f : Fin 16 → Bool) : Press :=
  p.setP 7 ((p.preg 7 &&& ~~~ex) ||| (ex &&& maskOf f))

/-- The errors that reads of a half of the key-view store may meet. -/
def halfHits (half : Bool) (ecc : List EccHit) : List EccHit := ecc.filter fun h => hitMeets h (halfBase half) 0x01400000

/-- The state as a search or fetch reads it: free values in the words whose errors cannot be corrected (DESIGN CHOICE, log 9). -/
def State.spoil (s : State) (hits : List EccHit) : State :=
  (hits.filter fun h => !h.fixed).foldl (fun (u : State) h => u.lose (h.addr / 8 * 8) (h.addr / 8 * 8 + 8)) s

/-- The state after those reads: the errors reported, the free values used up. -/
def State.spoiled (s : State) (hits : List EccHit) : State := { s.eccReports hits with free := (s.spoil hits).free }

def execDsearch (n : Fin 48) (o : Opnd) (ecc : List EccHit) (s : State) : Host.Outcome State Fault Refusal :=
  s.ifUp fun s => s.issue n (.op 0x31 0 o) (o.legal .vector .vector .vector true) fun p s => s.inBundle n fun _ a =>
    let ex := p.lanes o.pred
    let hits := halfHits a.half ecc
    let t (k : Fin 16) := (s.spoil hits).selTaps a (p.vreg o.dst)[k] (p.vreg o.srcA)[k] (p.vreg o.srcB)[k]
    .ok ((s.spoiled hits).onPress n fun q =>
      (q.setV o.dst (byLane ex (p.vreg o.dst) fun k => dsearchWord (p.vreg o.dst)[k] (t k))).setOut ex fun k => tapsOut (t k))

def execFetchk (n : Fin 48) (o : Opnd) (ecc : List EccHit) (s : State) : Host.Outcome State Fault Refusal :=
  s.ifUp fun s => s.issue n (.op 0x32 0 o) (o.legal .pair .vector .vector true) fun p s => s.inBundle n fun _ a =>
    let ex := p.lanes o.pred
    let hits := halfHits a.half ecc
    let t (k : Fin 16) := (s.spoil hits).selTaps a (p.vreg o.dst)[k] (p.vreg o.srcA)[k] (p.vreg o.srcB)[k]
    .ok ((s.spoiled hits).onPress n fun q =>
      (q.setPair o.dst ex (fun k => (fetchPair (t k)).lo) fun k => (fetchPair (t k)).hi).setOut ex fun k => tapsOut (t k))

/-! ## Colour (R87–R90) -/

/-- The pair of lane `k`. -/
def Press.pair (p : Press) (f : BitVec 5) (k : Fin 16) : Rgba := Rgba.ofPair (p.vreg f)[k] (p.vreg (pairHigh f))[k]

/-- An effect that writes a pair lane by lane. -/
def onPair (n : Fin 48) (o : Opnd) (f : Press → Fin 16 → Rgba) : Press → State → Effect :=
  onRegs n fun p => p.setPair o.dst (p.lanes o.pred) (fun k => (f p k).lo) fun k => (f p k).hi

/-- WBLEND of 1 to 4 pairs, none past v31 (R88). -/
def execWblend (n : Fin 48) (o : Opnd) (s : State) : Host.Outcome State Fault Refusal :=
  s.ifUp fun s => s.issue n (.low 0x33 o) (o.legal .pair .pair .vector true &&
      decide (1 ≤ o.low.toNat ∧ o.low.toNat ≤ 4 ∧ o.srcA.toNat + 2 * o.low.toNat ≤ 32))
    (onPair n o fun p k => blendPairs ((List.range o.low.toNat).map fun i =>
      ((p.vreg o.srcB)[k].toNat / 256 ^ i % 256, p.pair (o.srcA + BitVec.ofNat 5 (2 * i)) k)))

def execComp (n : Fin 48) (o : Opnd) (s : State) : Host.Outcome State Fault Refusal :=
  s.ifUp fun s => s.issue n (.low 0x34 o) (o.legal .pair .pair .pair true && decide (o.low.toNat < 2))
    (onPair n o fun p k => compPair (o.low.getLsbD 0) (p.pair o.srcA k) (p.pair o.srcB k))

/-- An entry of a transfer curve bank (R99). -/
def State.lutEntry (s : State) (bank : Bool) (i : Nat) : Nat := assocGet 0 i (s.lut[bank.toNat]'(by cases bank <;> decide))

/-- The bank in use: the bundle's latched one, the active one in a job (R89, R99). -/
def State.lutBank (s : State) (n : Fin 48) : Bool :=
  match (s.bundleOf n).bind fun b => s.latchOf b.frame with
  | some a => a.lutBank
  | none => s.bit F.PRESS_LUT_CTL_ACTIVE

/-- One colour through gain and curve (R89). -/
def State.curve (s : State) (bank : Bool) (colour : Nat) (cov : Bool) (a gain c : Nat) : Nat :=
  let c := if cov then mulU c a else c
  let c := (c * (64 - gain) + 32) / 64
  let i := c / 16
  let f := c % 16
  let t (j : Nat) := s.lutEntry bank (4096 * colour + j)
  (t i * (16 - f) + t (min (i + 1) 4095) * f + 8) / 16

def execLut (n : Fin 48) (o : Opnd) (s : State) : Host.Outcome State Fault Refusal :=
  s.ifUp fun s => s.issue n (.low 0x35 o) (o.legal .pair .pair .vector true && decide (o.low.toNat < 2))
    (onPair n o fun p k =>
      let c := p.pair o.srcA k
      let g := (p.vreg o.srcB)[k].toNat
      let one (colour v : Nat) := s.curve (s.lutBank n) colour (o.low.getLsbD 0) c.a (g / 32 ^ colour % 32) v % 4096
      ⟨one 0 c.r, one 1 c.g, one 2 c.b, 0⟩)

/-- EMIT of one lane: values above 4,095 held there, zeros for a dead emitter (R53, R90). -/
def State.emitLane (s : State) (b : Bundle) (k : Fin 16) (c : Rgba) : State :=
  let dead := entryU (s.calEntry s.gridW (b.laneX k) b.y (k % 8)) 63 1 = 1
  let v (x : Nat) := if dead then 0 else min 4095 x
  s.setSlotEntry b.run (s.entryNo (b.laneX k) b.y (k % 8)) (v c.r) (v c.g) (v c.b)

def execEmit (n : Fin 48) (o : Opnd) (s : State) : Host.Outcome State Fault Refusal :=
  s.ifUp fun s => s.issue n (.op 0x36 0 o) (o.legal .nothing .pair .nothing true) fun p s => s.inBundle n fun b _ =>
    let ex := p.lanes o.pred
    let t := if b.discard then s else (laneList ex).foldl (fun (t : State) (k : Fin 16) => t.emitLane b k (p.pair o.srcA k)) s
    .ok ((t.countOps 80 (laneList ex).length).onPress n fun q => { q with does := .bundle { b with written := b.written ||| ex } })

end Sys2Proof.Machine
end

