-- ==== Sys2Proof/Machine/Dispatch.lean ====
section
/-! DEFINITION. The one match over the commands: each constructor's meaning. -/

namespace Sys2Proof.Machine

/-- The effect of a command on everything but the queue. -/
def exec (i : Instr) (s : State) : Host.Outcome State Fault Refusal :=
  match i with
  | .registerWrite path addr value => Sys2Proof.Machine.execRegisterWrite path addr value s
  | .reset vddaoRise => Sys2Proof.Machine.execReset vddaoRise s
  | .undervoltageReset supply => Sys2Proof.Machine.execUndervoltageReset supply s
  | .vddaoRemoval => Sys2Proof.Machine.execVddaoRemoval s
  | .bootContainerReceived bytes => Sys2Proof.Machine.execBootContainerReceived bytes s
  | .bootTimeout => Sys2Proof.Machine.execBootTimeout s
  | .bootDoorbell => Sys2Proof.Machine.execBootDoorbell s
  | .fuseProgram field bit => Sys2Proof.Machine.execFuseProgram field bit s
  | .jtagAttach => Sys2Proof.Machine.execJtagAttach s
  | .comparatorFire c => Sys2Proof.Machine.execComparatorFire c s
  | .readinessReportSend => Sys2Proof.Machine.execReadinessReportSend s
  | .holdSet => Sys2Proof.Machine.execHoldSet s
  | .holdApply => Sys2Proof.Machine.execHoldApply s
  | .holdClear => Sys2Proof.Machine.execHoldClear s
  | .frameCommit => Sys2Proof.Machine.execFrameCommit s
  | .clrCount => Sys2Proof.Machine.execClrCount s
  | .bundleIssue n => Sys2Proof.Machine.execBundleIssue n s
  | .angleCopyDone => Sys2Proof.Machine.execAngleCopyDone s
  | .bandLineSend p l n => Sys2Proof.Machine.execBandLineSend p l n s
  | .rmonWindowEnd => Sys2Proof.Machine.execRmonWindowEnd s
  | .rmonClrMin => Sys2Proof.Machine.execRmonClrMin s
  | .geomApply => Sys2Proof.Machine.execGeomApply s
  | .trlSatBaseWrite value => Sys2Proof.Machine.execTrlSatBaseWrite value s
  | .stripeArrival bytes => Sys2Proof.Machine.execStripeArrival bytes s
  | .frameDecodeStart => Sys2Proof.Machine.execFrameDecodeStart s
  | .stripeDecode n stall => Sys2Proof.Machine.execStripeDecode n stall s
  | .decoderResume n => Sys2Proof.Machine.execDecoderResume n s
  | .laneModeApply n => Sys2Proof.Machine.execLaneModeApply n s
  | .flush n => Sys2Proof.Machine.execFlush n s
  | .flushApply n lines ecc => Sys2Proof.Machine.execFlushApply n lines ecc s
  | .codecSrcSelect sel => Sys2Proof.Machine.execCodecSrcSelect sel s
  | .codecStripeClr => Sys2Proof.Machine.execCodecStripeClr s
  | .tdvRejectClr => Sys2Proof.Machine.execTdvRejectClr s
  | .recEnable => Sys2Proof.Machine.execRecEnable s
  | .encodePlane n blocked ecc => Sys2Proof.Machine.execEncodePlane n blocked ecc s
  | .encodeHeader n ecc => Sys2Proof.Machine.execEncodeHeader n ecc s
  | .playClip n ecc => Sys2Proof.Machine.execPlayClip n ecc s
  | .encoderResume n ecc => Sys2Proof.Machine.execEncoderResume n ecc s
  | .codecJobDone n => Sys2Proof.Machine.execCodecJobDone n s
  | .trainingFrameRx p lane frame => Sys2Proof.Machine.execTrainingFrameRx p lane frame s
  | .linkRateSwitch p => Sys2Proof.Machine.execLinkRateSwitch p s
  | .trainingRetry p => Sys2Proof.Machine.execTrainingRetry p s
  | .codewordTx p => Sys2Proof.Machine.execCodewordTx p s
  | .codewordRx p line => Sys2Proof.Machine.execCodewordRx p line s
  | .ackTimeout p => Sys2Proof.Machine.execAckTimeout p s
  | .alignmentBlockTx p lane => Sys2Proof.Machine.execAlignmentBlockTx p lane s
  | .alignmentBlockRx p lane blk => Sys2Proof.Machine.execAlignmentBlockRx p lane blk s
  | .laneFail p lane => Sys2Proof.Machine.execLaneFail p lane s
  | .remapComplete p receive => Sys2Proof.Machine.execRemapComplete p receive s
  | .remapTimeout p => Sys2Proof.Machine.execRemapTimeout p s
  | .portDown p => Sys2Proof.Machine.execPortDown p s
  | .portEnable p => Sys2Proof.Machine.execPortEnable p s
  | .portDisable p => Sys2Proof.Machine.execPortDisable p s
  | .portRetrain p => Sys2Proof.Machine.execPortRetrain p s
  | .portWake p => Sys2Proof.Machine.execPortWake p s
  | .zlPortClr p => Sys2Proof.Machine.execZlPortClr p s
  | .packetRx p pkt => Sys2Proof.Machine.execPacketRx p pkt s
  | .launchTokenRx time fseq transition => Sys2Proof.Machine.execLaunchTokenRx time fseq transition s
  | .readinessReportRx x y fseq tb => Sys2Proof.Machine.execReadinessReportRx x y fseq tb s
  | .eventPacketRx x y source lost tb => Sys2Proof.Machine.execEventPacketRx x y source lost tb s
  | .rawPacketRx p data => Sys2Proof.Machine.execRawPacketRx p data s
  | .rawRptrWrite value => Sys2Proof.Machine.execRawRptrWrite value s
  | .timeTokenRx p tok => Sys2Proof.Machine.execTimeTokenRx p tok s
  | .mgmtRead p req => Sys2Proof.Machine.execMgmtRead p req s
  | .mgmtWrite p req => Sys2Proof.Machine.execMgmtWrite p req s
  | .mgmtWriteResp p req => Sys2Proof.Machine.execMgmtWriteResp p req s
  | .mgmtResponseRx bytes => Sys2Proof.Machine.execMgmtResponseRx bytes s
  | .mgmtSend => Sys2Proof.Machine.execMgmtSend s
  | .txsSync k => Sys2Proof.Machine.execTxsSync k s
  | .streamTxPacket k => Sys2Proof.Machine.execStreamTxPacket k s
  | .lstreamWrite k value => Sys2Proof.Machine.execLstreamWrite k value s
  | .stabDataAccess value => Sys2Proof.Machine.execStabDataAccess value s
  | .tbSwErrWrite value => Sys2Proof.Machine.execTbSwErrWrite value s
  | .tbSourceLoss => Sys2Proof.Machine.execTbSourceLoss s
  | .tbForce => Sys2Proof.Machine.execTbForce s
  | .tbSrcWrite value => Sys2Proof.Machine.execTbSrcWrite value s
  | .tbRateWrite value => Sys2Proof.Machine.execTbRateWrite value s
  | .tbRateLimitWrite value => Sys2Proof.Machine.execTbRateLimitWrite value s
  | .tbNowRead => Sys2Proof.Machine.execTbNowRead s
  | .tbInCapture k rising sixteenth width => Sys2Proof.Machine.execTbInCapture k rising sixteenth width s
  | .tbInRead k => Sys2Proof.Machine.execTbInRead k s
  | .genlockEdgeMissing => Sys2Proof.Machine.execGenlockEdgeMissing s
  | .glPhaseWrite value => Sys2Proof.Machine.execGlPhaseWrite value s
  | .tbOutEdge k => Sys2Proof.Machine.execTbOutEdge k s
  | .tbOutPulseEnd k => Sys2Proof.Machine.execTbOutPulseEnd k s
  | .tbOutEnable k => Sys2Proof.Machine.execTbOutEnable k s
  | .tbOutStep k value => Sys2Proof.Machine.execTbOutStep k value s
  | .ethFrameRx p bytes fcsOk ns frac => Sys2Proof.Machine.execEthFrameRx p bytes fcsOk ns frac s
  | .ethFrameTx p ns frac => Sys2Proof.Machine.execEthFrameTx p ns frac s
  | .tsqPop p => Sys2Proof.Machine.execTsqPop p s
  | .ptpMapCommit value => Sys2Proof.Machine.execPtpMapCommit value s
  | .ethLinkChange p up => Sys2Proof.Machine.execEthLinkChange p up s
  | .panelCapRx p msg => Sys2Proof.Machine.execPanelCapRx p msg s
  | .panelRateSwitch p => Sys2Proof.Machine.execPanelRateSwitch p s
  | .panelLockRx p msg => Sys2Proof.Machine.execPanelLockRx p msg s
  | .panelCrcErrRx p msg => Sys2Proof.Machine.execPanelCrcErrRx p msg s
  | .panelLaneLockLoss p l => Sys2Proof.Machine.execPanelLaneLockLoss p l s
  | .panelLaneRetrainDone p l => Sys2Proof.Machine.execPanelLaneRetrainDone p l s
  | .backChannelLoss p => Sys2Proof.Machine.execBackChannelLoss p s
  | .panelRetrain p => Sys2Proof.Machine.execPanelRetrain p s
  | .panelClr p => Sys2Proof.Machine.execPanelClr p s
  | .darkShift b => Sys2Proof.Machine.execDarkShift b s
  | .scanSend b => Sys2Proof.Machine.execScanSend b s
  | .scanPulse b => Sys2Proof.Machine.execScanPulse b s
  | .lightShift b => Sys2Proof.Machine.execLightShift b s
  | .finalDarkPass b => Sys2Proof.Machine.execFinalDarkPass b s
  | .goaDisWrite dis => Sys2Proof.Machine.execGoaDisWrite dis s
  | .holdTick => Sys2Proof.Machine.execHoldTick s
  | .cmdPush ecc => Sys2Proof.Machine.execCmdPush ecc s
  | .cmdAckRx msg => Sys2Proof.Machine.execCmdAckRx msg s
  | .cmdAckTimeout => Sys2Proof.Machine.execCmdAckTimeout s
  | .trellisPhaseEnd b l charge limited => Sys2Proof.Machine.execTrellisPhaseEnd b l charge limited s
  | .compensationEnd b l => Sys2Proof.Machine.execCompensationEnd b l s
  | .trlFaultClear b value => Sys2Proof.Machine.execTrlFaultClear b value s
  | .trellisInit => Sys2Proof.Machine.execTrellisInit s
  | .trellisInitDone => Sys2Proof.Machine.execTrellisInitDone s
  | .waveApply => Sys2Proof.Machine.execWaveApply s
  | .trlClr => Sys2Proof.Machine.execTrlClr s
  | .vhvBrownout => Sys2Proof.Machine.execVhvBrownout s
  | .brownoutSettleEnd => Sys2Proof.Machine.execBrownoutSettleEnd s
  | .vhvRecovered => Sys2Proof.Machine.execVhvRecovered s
  | .vhvOvervoltage => Sys2Proof.Machine.execVhvOvervoltage s
  | .hvpsOn => Sys2Proof.Machine.execHvpsOn s
  | .hvpsOff => Sys2Proof.Machine.execHvpsOff s
  | .railSeqStep reached => Sys2Proof.Machine.execRailSeqStep reached s
  | .railFault kind k => Sys2Proof.Machine.execRailFault kind k s
  | .railRestart => Sys2Proof.Machine.execRailRestart s
  | .rackCommit r value => Sys2Proof.Machine.execRackCommit r value s
  | .rackDescLatch r ecc => Sys2Proof.Machine.execRackDescLatch r ecc s
  | .blendConst r ecc => Sys2Proof.Machine.execBlendConst r ecc s
  | .blendPixel r ecc => Sys2Proof.Machine.execBlendPixel r ecc s
  | .blendPremul r ecc => Sys2Proof.Machine.execBlendPremul r ecc s
  | .viewstamp r ecc => Sys2Proof.Machine.execViewstamp r ecc s
  | .fill r ecc => Sys2Proof.Machine.execFill r ecc s
  | .copy r ecc => Sys2Proof.Machine.execCopy r ecc s
  | .convert r ecc => Sys2Proof.Machine.execConvert r ecc s
  | .rackRetire r => Sys2Proof.Machine.execRackRetire r s
  | .rackRingDisable r => Sys2Proof.Machine.execRackRingDisable r s
  | .rackResume r => Sys2Proof.Machine.execRackResume r s
  | .rackErrClr => Sys2Proof.Machine.execRackErrClr s
  | .dramInit => Sys2Proof.Machine.execDramInit s
  | .dramInitDone ok => Sys2Proof.Machine.execDramInitDone ok s
  | .dramcHashWrite k value => Sys2Proof.Machine.execDramcHashWrite k value s
  | .dramRequest src addr op ecc => Sys2Proof.Machine.execDramRequest src addr op ecc s
  | .agePromote ch => Sys2Proof.Machine.execAgePromote ch s
  | .pageIdleClose ch bank => Sys2Proof.Machine.execPageIdleClose ch bank s
  | .perBankRefresh ch busy => Sys2Proof.Machine.execPerBankRefresh ch busy s
  | .mr4Poll ch derate => Sys2Proof.Machine.execMr4Poll ch derate s
  | .selfRefreshEntry issued => Sys2Proof.Machine.execSelfRefreshEntry issued s
  | .selfRefreshExit bad => Sys2Proof.Machine.execSelfRefreshExit bad s
  | .freqChange target => Sys2Proof.Machine.execFreqChange target s
  | .freqChangeDone bad => Sys2Proof.Machine.execFreqChangeDone bad s
  | .dramTrainingStep ch => Sys2Proof.Machine.execDramTrainingStep ch s
  | .scrubPass corrected uncorrectable => Sys2Proof.Machine.execScrubPass corrected uncorrectable s
  | .conflictWindow => Sys2Proof.Machine.execConflictWindow s
  | .dramcStatClr => Sys2Proof.Machine.execDramcStatClr s
  | .pllCommit n => Sys2Proof.Machine.execPllCommit n s
  | .pllLockLoss n => Sys2Proof.Machine.execPllLockLoss n s
  | .pllRelock n storedFailed code => Sys2Proof.Machine.execPllRelock n storedFailed code s
  | .pllPhaseStep n value => Sys2Proof.Machine.execPllPhaseStep n value s
  | .pllPhaseDone n => Sys2Proof.Machine.execPllPhaseDone n s
  | .pllStatClr n => Sys2Proof.Machine.execPllStatClr n s
  | .refclkLoss => Sys2Proof.Machine.execRefclkLoss s
  | .refclkReturn => Sys2Proof.Machine.execRefclkReturn s
  | .idleTimeout => Sys2Proof.Machine.execIdleTimeout s
  | .sleep => Sys2Proof.Machine.execSleep s
  | .cellarEntry => Sys2Proof.Machine.execCellarEntry s
  | .cellarEntryComplete => Sys2Proof.Machine.execCellarEntryComplete s
  | .wakePin => Sys2Proof.Machine.execWakePin s
  | .wakeAlarm => Sys2Proof.Machine.execWakeAlarm s
  | .breezePatrol die panel lux => Sys2Proof.Machine.execBreezePatrol die panel lux s
  | .wakeStepEnd complete ecc => Sys2Proof.Machine.execWakeStepEnd complete ecc s
  | .wakeComplete => Sys2Proof.Machine.execWakeComplete s
  | .opPointChange target => Sys2Proof.Machine.execOpPointChange target s
  | .avsReadback mv => Sys2Proof.Machine.execAvsReadback mv s
  | .avsTimeout => Sys2Proof.Machine.execAvsTimeout s
  | .sensorSample readings => Sys2Proof.Machine.execSensorSample readings s
  | .extSensorPoll k raw => Sys2Proof.Machine.execExtSensorPoll k raw s
  | .sensorRetry ext k => Sys2Proof.Machine.execSensorRetry ext k s
  | .tmonThrWrite m value => Sys2Proof.Machine.execTmonThrWrite m value s
  | .tmonLock value => Sys2Proof.Machine.execTmonLock value s
  | .calRun d p => Sys2Proof.Machine.execCalRun d p s
  | .calMeasureDone d result => Sys2Proof.Machine.execCalMeasureDone d result s
  | .calApplyStep d => Sys2Proof.Machine.execCalApplyStep d s
  | .calClr d => Sys2Proof.Machine.execCalClr d s
  | .calModelLoad => Sys2Proof.Machine.execCalModelLoad s
  | .calModelLoadDone ecc => Sys2Proof.Machine.execCalModelLoadDone ecc s
  | .pcieLinkChange kind => Sys2Proof.Machine.execPcieLinkChange kind s
  | .hostDmaDescriptor r desc data ok ecc => Sys2Proof.Machine.execHostDmaDescriptor r desc data ok ecc s
  | .hostDmaDisable r => Sys2Proof.Machine.execHostDmaDisable r s
  | .eventRaise source => Sys2Proof.Machine.execEventRaise source s
  | .evtStatClear g value together => Sys2Proof.Machine.execEvtStatClear g value together s
  | .evtEnableWrite g value => Sys2Proof.Machine.execEvtEnableWrite g value s
  | .msixUnmask v => Sys2Proof.Machine.execMsixUnmask v s
  | .eventNRelease => Sys2Proof.Machine.execEventNRelease s
  | .pressFence n error => Sys2Proof.Machine.execPressFence n error s
  | .bundleTimeout n => Sys2Proof.Machine.execBundleTimeout n s
  | .pressUnfence n => Sys2Proof.Machine.execPressUnfence n s
  | .pressGate n => Sys2Proof.Machine.execPressGate n s
  | .pressGated n => Sys2Proof.Machine.execPressGated n s
  | .pressUngate n => Sys2Proof.Machine.execPressUngate n s
  | .pressWakeDone n => Sys2Proof.Machine.execPressWakeDone n s
  | .pressLutSwap => Sys2Proof.Machine.execPressLutSwap s
  | .pressLutAddrWrite value => Sys2Proof.Machine.execPressLutAddrWrite value s
  | .pressLutDataWrite value => Sys2Proof.Machine.execPressLutDataWrite value s
  | .pressLutDataRead => Sys2Proof.Machine.execPressLutDataRead s
  | .pressVselBaseWrite value => Sys2Proof.Machine.execPressVselBaseWrite value s
  | .pressStatClr => Sys2Proof.Machine.execPressStatClr s
  | .pressInstall => Sys2Proof.Machine.execPressInstall s
  | .pressInstallDone => Sys2Proof.Machine.execPressInstallDone s
  | .seqInstall => Sys2Proof.Machine.execSeqInstall s
  | .seqInstallDone => Sys2Proof.Machine.execSeqInstallDone s
  | .pressJobStart n => Sys2Proof.Machine.execPressJobStart n s
  | .threadWake t => Sys2Proof.Machine.execThreadWake t s
  | .nop n o => Sys2Proof.Machine.execNop n o s
  | .done n o => Sys2Proof.Machine.execDone n o s
  | .ret n o => Sys2Proof.Machine.execRet n o s
  | .brAlways n off pred => Sys2Proof.Machine.execBrAlways n off pred s
  | .brAny n off pred => Sys2Proof.Machine.execBrAny n off pred s
  | .brAll n off pred => Sys2Proof.Machine.execBrAll n off pred s
  | .brNone n off pred => Sys2Proof.Machine.execBrNone n off pred s
  | .call n off pred => Sys2Proof.Machine.execCall n off pred s
  | .sopMov u o => Sys2Proof.Machine.execSopMov u o s
  | .sopAdd u o => Sys2Proof.Machine.execSopAdd u o s
  | .sopSub u o => Sys2Proof.Machine.execSopSub u o s
  | .sopMul u o => Sys2Proof.Machine.execSopMul u o s
  | .sopMulhu u o => Sys2Proof.Machine.execSopMulhu u o s
  | .sopAnd u o => Sys2Proof.Machine.execSopAnd u o s
  | .sopOr u o => Sys2Proof.Machine.execSopOr u o s
  | .sopXor u o => Sys2Proof.Machine.execSopXor u o s
  | .sopShl u o => Sys2Proof.Machine.execSopShl u o s
  | .sopShr u o => Sys2Proof.Machine.execSopShr u o s
  | .sopSra u o => Sys2Proof.Machine.execSopSra u o s
  | .sopSlt u o => Sys2Proof.Machine.execSopSlt u o s
  | .sopSltu u o => Sys2Proof.Machine.execSopSltu u o s
  | .sopMin u o => Sys2Proof.Machine.execSopMin u o s
  | .sopMax u o => Sys2Proof.Machine.execSopMax u o s
  | .sopFadd u o => Sys2Proof.Machine.execSopFadd u o s
  | .sopFsub u o => Sys2Proof.Machine.execSopFsub u o s
  | .sopFmul u o => Sys2Proof.Machine.execSopFmul u o s
  | .sopFtoi u o => Sys2Proof.Machine.execSopFtoi u o s
  | .sopItof u o => Sys2Proof.Machine.execSopItof u o s
  | .saddi u o => Sys2Proof.Machine.execSaddi u o s
  | .spmovPtos n o => Sys2Proof.Machine.execSpmovPtos n o s
  | .spmovStop n o => Sys2Proof.Machine.execSpmovStop n o s
  | .vopMov n form ty o => Sys2Proof.Machine.execVopMov n form ty o s
  | .vopAdd n form ty o => Sys2Proof.Machine.execVopAdd n form ty o s
  | .vopSub n form ty o => Sys2Proof.Machine.execVopSub n form ty o s
  | .vopRsub n form ty o => Sys2Proof.Machine.execVopRsub n form ty o s
  | .vopMul n form ty o => Sys2Proof.Machine.execVopMul n form ty o s
  | .vopMad n form ty o => Sys2Proof.Machine.execVopMad n form ty o s
  | .vopMin n form ty o => Sys2Proof.Machine.execVopMin n form ty o s
  | .vopMax n form ty o => Sys2Proof.Machine.execVopMax n form ty o s
  | .vopAbs n form ty o => Sys2Proof.Machine.execVopAbs n form ty o s
  | .vopNeg n form ty o => Sys2Proof.Machine.execVopNeg n form ty o s
  | .vopAnd n form ty o => Sys2Proof.Machine.execVopAnd n form ty o s
  | .vopOr n form ty o => Sys2Proof.Machine.execVopOr n form ty o s
  | .vopXor n form ty o => Sys2Proof.Machine.execVopXor n form ty o s
  | .vopAndn n form ty o => Sys2Proof.Machine.execVopAndn n form ty o s
  | .vopShl n form ty o => Sys2Proof.Machine.execVopShl n form ty o s
  | .vopShr n form ty o => Sys2Proof.Machine.execVopShr n form ty o s
  | .vopSra n form ty o => Sys2Proof.Machine.execVopSra n form ty o s
  | .vopFloor n form ty o => Sys2Proof.Machine.execVopFloor n form ty o s
  | .vopRcp n form ty o => Sys2Proof.Machine.execVopRcp n form ty o s
  | .vopRsq n form ty o => Sys2Proof.Machine.execVopRsq n form ty o s
  | .vopCvt n form ty o => Sys2Proof.Machine.execVopCvt n form ty o s
  | .vopSwaph n form ty o => Sys2Proof.Machine.execVopSwaph n form ty o s
  | .vcmpEq n form ty o => Sys2Proof.Machine.execVcmpEq n form ty o s
  | .vcmpNe n form ty o => Sys2Proof.Machine.execVcmpNe n form ty o s
  | .vcmpLt n form ty o => Sys2Proof.Machine.execVcmpLt n form ty o s
  | .vcmpLe n form ty o => Sys2Proof.Machine.execVcmpLe n form ty o s
  | .vcmpGt n form ty o => Sys2Proof.Machine.execVcmpGt n form ty o s
  | .vcmpGe n form ty o => Sys2Proof.Machine.execVcmpGe n form ty o s
  | .vcmpLtu n form ty o => Sys2Proof.Machine.execVcmpLtu n form ty o s
  | .vcmpGeu n form ty o => Sys2Proof.Machine.execVcmpGeu n form ty o s
  | .plogAnd n o => Sys2Proof.Machine.execPlogAnd n o s
  | .plogOr n o => Sys2Proof.Machine.execPlogOr n o s
  | .plogXor n o => Sys2Proof.Machine.execPlogXor n o s
  | .plogAndnot n o => Sys2Proof.Machine.execPlogAndnot n o s
  | .plogNot n o => Sys2Proof.Machine.execPlogNot n o s
  | .plogOnes n o => Sys2Proof.Machine.execPlogOnes n o s
  | .plogZeros n o => Sys2Proof.Machine.execPlogZeros n o s
  | .plogValid n o => Sys2Proof.Machine.execPlogValid n o s
  | .vbcast n o => Sys2Proof.Machine.execVbcast n o s
  | .vlane n o => Sys2Proof.Machine.execVlane n o s
  | .lds n o ecc => Sys2Proof.Machine.execLds n o ecc s
  | .sts n o => Sys2Proof.Machine.execSts n o s
  | .ldv n o ecc => Sys2Proof.Machine.execLdv n o ecc s
  | .stv n o => Sys2Proof.Machine.execStv n o s
  | .gath n o ecc => Sys2Proof.Machine.execGath n o ecc s
  | .gath2 n o ecc => Sys2Proof.Machine.execGath2 n o ecc s
  | .scat n o => Sys2Proof.Machine.execScat n o s
  | .xferOut n o ecc => Sys2Proof.Machine.execXferOut n o ecc s
  | .xferIn n o ecc => Sys2Proof.Machine.execXferIn n o ecc s
  | .raygenOrgX n o => Sys2Proof.Machine.execRaygenOrgX n o s
  | .raygenOrgY n o => Sys2Proof.Machine.execRaygenOrgY n o s
  | .raygenTanU n o => Sys2Proof.Machine.execRaygenTanU n o s
  | .raygenTanW n o => Sys2Proof.Machine.execRaygenTanW n o s
  | .raygenGain n o => Sys2Proof.Machine.execRaygenGain n o s
  | .raygenDir n o => Sys2Proof.Machine.execRaygenDir n o s
  | .dsearch n o ecc => Sys2Proof.Machine.execDsearch n o ecc s
  | .fetchk n o ecc => Sys2Proof.Machine.execFetchk n o ecc s
  | .wblend n o => Sys2Proof.Machine.execWblend n o s
  | .comp n o => Sys2Proof.Machine.execComp n o s
  | .lut n o => Sys2Proof.Machine.execLut n o s
  | .emit n o => Sys2Proof.Machine.execEmit n o s
  | .sli n o imm => Sys2Proof.Machine.execSli n o imm s
  | .vli n o imm => Sys2Proof.Machine.execVli n o imm s
  | .jmp n o imm => Sys2Proof.Machine.execJmp n o imm s
  | .calla n o imm => Sys2Proof.Machine.execCalla n o imm s
  | .flowB t sA off => Sys2Proof.Machine.execFlowB t sA off s
  | .flowBz t sA off => Sys2Proof.Machine.execFlowBz t sA off s
  | .flowBnz t sA off => Sys2Proof.Machine.execFlowBnz t sA off s
  | .flowBltz t sA off => Sys2Proof.Machine.execFlowBltz t sA off s
  | .flowBgez t sA off => Sys2Proof.Machine.execFlowBgez t sA off s
  | .flowCall t sA off => Sys2Proof.Machine.execFlowCall t sA off s
  | .flowRet t sA off => Sys2Proof.Machine.execFlowRet t sA off s
  | .flowHalt t sA off => Sys2Proof.Machine.execFlowHalt t sA off s
  | .simmLow t sD zero imm => Sys2Proof.Machine.execSimmLow t sD zero imm s
  | .simmHigh t sD zero imm => Sys2Proof.Machine.execSimmHigh t sD zero imm s
  | .atTime t o => Sys2Proof.Machine.execAtTime t o s
  | .rdtb t o => Sys2Proof.Machine.execRdtb t o s
  | .arm t o => Sys2Proof.Machine.execArm t o s
  | .disarm t o => Sys2Proof.Machine.execDisarm t o s
  | .waitev t o => Sys2Proof.Machine.execWaitev t o s
  | .waitevDeadline t o => Sys2Proof.Machine.execWaitevDeadline t o s
  | .signal t o => Sys2Proof.Machine.execSignal t o s
  | .yield t o => Sys2Proof.Machine.execYield t o s
  | .ld t o ecc => Sys2Proof.Machine.execLd t o ecc s
  | .st t o => Sys2Proof.Machine.execSt t o s
  | .wr t o => Sys2Proof.Machine.execWr t o s
  | .rd t o => Sys2Proof.Machine.execRd t o s
  | .xchg t o ecc => Sys2Proof.Machine.execXchg t o ecc s
  | .kickPressJob t o => Sys2Proof.Machine.execKickPressJob t o s
  | .kickCodecJob t o => Sys2Proof.Machine.execKickCodecJob t o s
  | .kickRackList t o => Sys2Proof.Machine.execKickRackList t o s
  | .tstart t o => Sys2Proof.Machine.execTstart t o s
  | .tstop t o => Sys2Proof.Machine.execTstop t o s
  | .ltokSend => Sys2Proof.Machine.execLtokSend s
  | .rdyAdvance => Sys2Proof.Machine.execRdyAdvance s
  | .resetRelease => Sys2Proof.Machine.execResetRelease s
  | .backChannelRelock p => Sys2Proof.Machine.execBackChannelRelock p s
  | .holdSlot0Transition b => Sys2Proof.Machine.execHoldSlot0Transition b s
  | .initPassWaveform b => Sys2Proof.Machine.execInitPassWaveform b s
  | .compensationGuard b l => Sys2Proof.Machine.execCompensationGuard b l s
  | .hvpsMeasUpdate k mv vhv => Sys2Proof.Machine.execHvpsMeasUpdate k mv vhv s
  | .avsbusStatusAlert => Sys2Proof.Machine.execAvsbusStatusAlert s
  | .qspiTransferDone => Sys2Proof.Machine.execQspiTransferDone s
  | .pcieUncorrectableError => Sys2Proof.Machine.execPcieUncorrectableError s
  | .trainingFailed p => Sys2Proof.Machine.execTrainingFailed p s
  | .panelNegotiationFailed p l => Sys2Proof.Machine.execPanelNegotiationFailed p l s

end Sys2Proof.Machine
end

