-- ==== Sys2Proof/Machine/Tick.lean ====
section
/-! DEFINITION. One period of the time base: what passes with time alone, whatever is commanded (DESIGN CHOICE, log 1). -/

namespace Sys2Proof.Machine

/-- The frame whose last slot has ended is over (R18); it stays so when the time base wraps. -/
def State.endFrame (s : State) : State :=
  match s.frm.run with
  | some f => s.when (s.reached (f.launch + BitVec.ofNat 32 (f.slots * f.period))) fun s =>
      { s with frm := { s.frm with run := some { f with ended := true } } }
  | none => s

/-- One period: 1 ns of the time base and of the clock, or a 40 ns tick on the backup (R229, R237); the DRAM controller serves what
has come to wait no longer (R325, R336), training ports send their frames (R198), panel lanes their training groups and control blocks
(R258, R262), pulses of the gate-on-array end (R265), the PLLs apply phase steps (R346); the idle timer does not advance while a blink region is enabled (R353). -/
def State.advance (s : State) : State :=
  let t := { s with clock := s.clock + (if s.bit F.TB_STATE_BACKUP then 40 else 1) }.tick.endFrame
  let t := (t.when (!t.dram.queue.isEmpty) State.drainAll).tryPush.sendTraining.endPulses.sendPanels.stepPhases s.clock
  t.when t.blinking State.restartIdle

end Sys2Proof.Machine
end

