-- ==== Sys2Proof/Safety.lean ====
section
/-! DEFINITION. What the statements are about: the canonical form of the device's data, frames (what a command leaves as it
was), and the device at rest. -/

namespace Sys2Proof.Machine

/-- A finite map in canonical form over its defaults: keys rise strictly, and no entry equals what an unlisted key reads as. -/
def Canonical {α : Type} (d : Nat → α) (l : List (Nat × α)) : Prop := keysRise l = true ∧ ∀ e ∈ l, e.2 ≠ d e.1

/-- The state is canonical data: memory and both register maps are in their one form, so that equal contents are equal data. -/
def State.canonical (s : State) : Prop :=
  s.mem.wf = true ∧ Canonical RegMap.reset s.regs ∧ Canonical RegMap.reset s.act

/-- Every fuse bit programmed in the first array is programmed in the second (R385). -/
def Fuses.le (f g : Fuses) : Prop := ∀ field i, f.bit field i = true → g.bit field i = true

/-- A command answers a next state of which `Q` holds. -/
def Answers (c : Instr) (s : State) (Q : State → Prop) : Prop := ∃ t, exec c s = .next t ∧ Q t

/-- Only registers at the listed addresses changed; every other register and everything else is as it was. -/
def OnlyRegs (addrs : List Nat) (s t : State) : Prop :=
  t = { s with regs := t.regs } ∧ ∀ a, a ∉ addrs → t.reg a = s.reg a

/-- Only the listed fields, all of them of the registers they lie in, changed: those registers' other bits too are as they
were. -/
def OnlyField (f : Field) (s t : State) : Prop :=
  t = { s with regs := t.regs } ∧ (∀ a, a ≠ f.addr → t.reg a = s.reg a) ∧
    ∀ i, i < 32 → ¬(f.lo ≤ i ∧ i < f.lo + f.w) → (t.reg f.addr).getLsbD i = (s.reg f.addr).getLsbD i

/-- What a raise of an event may change (R393, R394, R217): registers, memory (the Updraft ring), what has left the device, the
pin, the event unit and the link's output queues; everything else is as it was. -/
def RaiseFrame (s t : State) : Prop :=
  t = { s with regs := t.regs, mem := t.mem, out := t.out, eventN := t.eventN, evt := t.evt, link := t.link }

/-- The registers that a raise of an event may change: status and AGAIN words, the drops at a full output and without a route,
and the pointers of the Updraft ring. -/
def raiseRegs : List Nat :=
  ((List.range 32).flatMap fun g => [F.EVT_STAT_addr g, F.EVT_AGAIN_addr g]) ++
  [F.ZL_DROP_addr 0, F.ZL_DROP_addr 1, F.ZL_DROP_addr 2, F.ZL_DROP_addr 3, F.ZL_ROUTE_DROP_addr, F.EVT_UPD_PTR_addr]

/-- A port's training starts in full (R197, R202, R224): state 1, no lanes in force, the capability word of ZL_p_CFG offered on the
lanes that it enables, frames from now on, a waiting WAKE to go out with them. -/
def trainsAnew (p : Fin 4) (s t : State) : Prop :=
  t.get (F.ZL_STATUS_STATE p) = 1 ∧ t.get (F.ZL_STATUS_RX_LANES p) = 0 ∧ t.get (F.ZL_STATUS_TX_LANES p) = 0 ∧
  t.reg (F.ZL_LCAP_addr p) = s.capOf p ∧ t.bit (F.ZL_CFG_WAKE p) = s.bit (F.ZL_CFG_WAKE p) ∧
  t.link.port[p].train = { Training.reset with
    mask := s.get (F.ZL_CFG_LANE_EN p), nextAt := s.clock * 2475, wakeReq := s.bit (F.ZL_CFG_WAKE p) }

/-- The number of the pixel at column `x` and row `y` of a surface. -/
def pixelAt (s : State) (z : Surface) (x y : Nat) : Nat := s.mem.readNat (z.base + y * z.pitch + x * z.fmt.bytes) z.fmt.bytes

/-- The command by which the Racking engine carries out an operation of ring `r`. -/
def rackCommand (r : Fin 4) (ecc : List EccHit) : RackOp → Instr
  | .blendConst => .blendConst r ecc
  | .blendPixel => .blendPixel r ecc
  | .blendPremul => .blendPremul r ecc
  | .viewstamp => .viewstamp r ecc
  | .fill => .fill r ecc
  | .copy => .copy r ecc
  | .convert => .convert r ecc

/-- Press `n` is busy with the instruction of words `c` at its PC (R100, R101), and what follows it still lies in the kernel
store. -/
abbrev State.pressAt (s : State) (n : Fin 48) (c : Code) : Prop :=
  s.up = true ∧ s.press[n].busy = true ∧ s.word (kernelBase + s.press[n].pc.toNat) = c.first ∧
  (∀ x, c.second = some x → s.word (kernelBase + (s.press[n].pc.toNat + 4)) = x) ∧
  s.press[n].pc.toNat + 4 * c.words < kernelEnd

/-- Press `n` at address `x`, by an instruction that left the state `t`: one more operation counted (R32). -/
def State.pressTo (n : Fin 48) (x : Word) (t : State) : State :=
  (t.countOps (n.castLE (by decide)) 1).onPress n fun p => { p with pc := x }

/-- Press `n` past an instruction of words `c` that left the state `t`: one more operation counted (R32), the PC moved on. -/
def State.pressPast (s : State) (n : Fin 48) (c : Code) (t : State) : State :=
  (t.countOps (n.castLE (by decide)) 1).onPress n fun p => { p with pc := s.press[n].pc + BitVec.ofNat 32 (4 * c.words) }

/-- Press `n` past an instruction of words `c` that changed it by `f` alone. -/
def State.pressNext (s : State) (n : Fin 48) (c : Code) (f : Press → Press) : State := s.pressPast n c (s.onPress n f)

/-- The scheduler takes thread `t`, whose next instruction has the words `c`, and the one after it still lies in the instruction
memory. -/
abbrev State.threadAt (s : State) (t : Fin 16) (c : Code) : Prop :=
  s.up = true ∧ s.scheduled t = true ∧ s.word (seqBase + s.seq.thr[t].pc.toNat) = c.first ∧
  s.seq.thr[t].pc.toNat % 4 = 0 ∧ s.seq.thr[t].pc.toNat + 4 < seqEnd

/-- The state once the scheduler has taken thread `t` (R131). -/
def State.taken (s : State) (t : Fin 16) : State :=
  { s with seq := { s.seq with turn := s.seq.turn.set (s.prioOfThread t) t } }

/-- Thread `t` at address `x`, by an instruction that left the state `u`: one more operation counted (R32). -/
def State.threadTo (t : Fin 16) (x : Word) (u : State) : State := (u.countOps 82 1).onThread t fun h => { h with pc := x }

/-- Thread `t` past an instruction that left the state `u`: one more operation counted (R32), the PC moved on. -/
def State.threadPast (s : State) (t : Fin 16) (u : State) : State :=
  (u.countOps 82 1).onThread t fun h => { h with pc := s.seq.thr[t].pc + 4 }

/-- Thread `t` past an instruction that changed it by `f` alone. -/
def State.threadNext (s : State) (t : Fin 16) (f : Thread → Thread) : State := s.threadPast t ((s.taken t).onThread t f)

end Sys2Proof.Machine
end

