-- ==== Sys2Proof/Certificates/Slice0/Obligations.lean ====
section
/-! DEFINITION. The statements about the model, each a rule of the manual or what follows from some of them. -/

open Sys2Proof Sys2Proof.Machine

/-! ## The whole machine -/

/-- A step runs the command at the front of the queue on the state with the queue's rest. -/
def Obligations.StepRunsFrontCommand : Prop :=
  ∀ (s : State) (c : Instr) (q : List Instr), s.pending = c :: q → step s = exec c { s with pending := q }

/-- On an empty queue one period of the time base passes where the always-on island runs, and nothing happens elsewhere (the
model's choice, log 1): the clock moves by 1 ns, or by 40 ns on the backup, and the queue stays empty. -/
def Obligations.IdleStepLetsTimePass : Prop :=
  ∀ s : State, s.pending = [] →
    (s.alwaysOn = false → step s = .next s) ∧
    (s.alwaysOn = true → ∃ t, step s = .next t ∧ t.clock = s.clock + (if s.bit F.TB_STATE_BACKUP then 40 else 1) ∧ t.pending = [])

/-- R395: after reset sources 687 and 993 alone are enabled, and each is routed to EVENT_N alone; every other route is 0. -/
def Obligations.ResetEnablesTwoSources : Prop :=
  ∀ n < 1024,
    (State.reset.evEnabled n = true ↔ n = 687 ∨ n = 993) ∧
    (n = 687 ∨ n = 993 → State.reset.bit (F.EVT_ROUTE_PIN n) = true ∧
      ∀ g : Field, g ∈ [F.EVT_ROUTE_THREADS n, F.EVT_ROUTE_UPDRAFT n, F.EVT_ROUTE_MSIX n, F.EVT_ROUTE_VECTOR n] → State.reset.get g = 0) ∧
    (n ≠ 687 → n ≠ 993 → State.reset.reg (F.EVT_ROUTE_addr n) = 0)

/-- The state after reset is canonical data with an empty queue. -/
def Obligations.ResetStateIsCanonical : Prop := State.reset.canonical ∧ State.reset.pending = []

/-- From any state in canonical form, not only those a run reaches, a step that answers a next state answers one in canonical
form: memory and both register maps keep their one form, so that equal contents stay equal data. -/
def Obligations.StepKeepsCanonicalForm : Prop :=
  ∀ s t : State, s.canonical → step s = .next t → t.canonical

/-- Every command answers a next state and leaves the queue of waiting commands as it is. -/
def Obligations.CommandsCompleteAndLeaveQueue : Prop :=
  ∀ (c : Instr) (s : State), s.canonical → ∃ t, exec c s = .next t ∧ t.pending = s.pending

/-- No command clears a fuse bit: over any step a programmed bit stays programmed (R385: each bit goes from 0 to 1 once). -/
def Obligations.FuseBitsNeverClear : Prop :=
  ∀ s t : State, s.canonical → step s = .next t → s.fuses.le t.fuses

/-- While the device has no VDDAO, is held in reset or has shut down for good, no command changes anything but the ones by
which it comes back or that the high-voltage die obeys by itself. -/
def Obligations.DownDeviceIgnoresCommands : Prop :=
  ∀ (c : Instr) (s : State), s.mode = .off ∨ s.mode = .reset ∨ s.mode = .shutdown →
    (∀ r, c ≠ .reset r) → (∀ v, c ≠ .undervoltageReset v) → c ≠ .vddaoRemoval → c ≠ .resetRelease → (∀ r, c ≠ .railSeqStep r) →
    c ≠ .vhvBrownout → c ≠ .brownoutSettleEnd →
    exec c s = .next s

/-- What putting a number into a register field does, for a field of 32 bits or fewer: the field reads the number cut to its
width, every field beside it in its register and every other register read as before, and nothing else changes. -/
def Obligations.FieldWriteChangesThatFieldAlone : Prop :=
  ∀ (s : State) (f : Field) (v : Nat), f.lo + f.w ≤ 32 →
    (s.put f v).get f = v % 2 ^ f.w ∧
    (∀ g : Field, g.lo + g.w ≤ 32 → g.addr ≠ f.addr ∨ f.lo + f.w ≤ g.lo ∨ g.lo + g.w ≤ f.lo → (s.put f v).get g = s.get g) ∧
    OnlyField f s (s.put f v)

/-- Bytes written to memory read back, and every other byte reads as before, also where a region was undefined. A store leaves
every byte of the Trellis ledger region as it was, and writes every other byte it names (R321). -/
def Obligations.MemoryReadsBackAndLedgersStand : Prop :=
  (∀ (m : Mem) (a : Nat) (bs : List Byte) (x : Nat),
     (m.writeBytes a bs).readByte x = if a ≤ x ∧ x < a + bs.length then bs.getD (x - a) 0 else m.readByte x) ∧
  (∀ (s : State) (a : Nat) (bs : List Byte) (x : Nat),
     (s.store a bs).mem.readByte x =
       if a ≤ x ∧ x < a + bs.length ∧ ¬(0x06980000 ≤ x ∧ x < 0x06990000) then bs.getD (x - a) 0 else s.mem.readByte x)

/-! ## Events -/

/-- R393, R394: a raise leaves its source's status bit set, and every status bit that was 1 and every enable as they were; it
changes nothing but status and AGAIN words, the drops and pointers of its delivery, memory, what has left the device, the pin,
the event unit and the link's queues; a source that is not enabled is delivered nowhere, and one whose status bit is set
already sets AGAIN alone. -/
def Obligations.RaiseRecordsTheSource : Prop :=
  ∀ (s : State) (source : BitVec 10), s.up = true →
    exec (.eventRaise source) s = .next (s.raise source.toNat) ∧ RaiseFrame s (s.raise source.toNat) ∧
    (s.raise source.toNat).evStatus source.toNat = true ∧
    (∀ n < 1024, s.evStatus n = true → (s.raise source.toNat).evStatus n = true) ∧
    (∀ n < 1024, (s.raise source.toNat).evEnabled n = s.evEnabled n) ∧
    (∀ a, a ∉ raiseRegs → (s.raise source.toNat).reg a = s.reg a) ∧
    (s.evEnabled source.toNat = false ∨ s.evStatus source.toNat = true →
      s.raise source.toNat =
        if s.evStatus source.toNat then
          s.setReg (F.EVT_AGAIN_addr (source.toNat / 32)) (s.reg (F.EVT_AGAIN_addr (source.toNat / 32)) ||| 1#32 <<< (source.toNat % 32))
        else s.setReg (F.EVT_STAT_addr (source.toNat / 32)) (s.reg (F.EVT_STAT_addr (source.toNat / 32)) ||| 1#32 <<< (source.toNat % 32)))

/-- R392: the happenings that only report themselves raise the source that the table of sources numbers. -/
def Obligations.ReportingHappeningsRaiseTheirSource : Prop :=
  ∀ s : State, s.up = true →
    exec .avsbusStatusAlert s = .next (s.raise 1011) ∧
    exec .qspiTransferDone s = .next (s.raise 1012) ∧
    exec .pcieUncorrectableError s = .next (s.raise 819) ∧
    (s.sensed.jtagLock = false → exec .jtagAttach s = .next (s.raise 997)) ∧
    (s.sensed.jtagLock = true → exec .jtagAttach s = .next s)

/-- R393: a write of EVT_STAT clears the status bits written with 1 and leaves every other register and everything else; where
a block raises sources together with it, those bits stay at 1 (one source of the group shown here). R394: a write of EVT_EN
that makes no source active takes the value and does nothing else; one that makes a source active whose route is the pin alone
also pulls EVENT_N low. R394: unmasking a vector sends the message that its PBA bit kept, once, and the pin is released when
no source routed to it is active. -/
def Obligations.StatusEnableAndMaskCommands : Prop :=
  ((∀ (s : State) (g : Fin 32) (value : Word), s.up = true →
     ∃ t, exec (.evtStatClear g value 0) s = .next t ∧ OnlyRegs [F.EVT_STAT_addr g] s t ∧
       t.reg (F.EVT_STAT_addr g) = s.reg (F.EVT_STAT_addr g) &&& ~~~value) ∧
   (∀ (s : State) (g : Fin 32) (i : Fin 32) (value : Word), s.up = true → s.evEnabled (32 * g + i) = false →
     ∃ t, exec (.evtStatClear g value (1#32 <<< i.val)) s = .next t ∧ t.evStatus (32 * g + i) = true)) ∧
  ((∀ (s : State) (g : Fin 32) (value : Word), s.up = true →
     s.reg (F.EVT_STAT_addr g) &&& value &&& ~~~s.reg (F.EVT_EN_addr g) = 0 →
     exec (.evtEnableWrite g value) s = .next (s.setReg (F.EVT_EN_addr g) value)) ∧
   (∀ (s : State) (g : Fin 32) (i : Fin 32) (value : Word), s.up = true →
     s.reg (F.EVT_STAT_addr g) &&& value &&& ~~~s.reg (F.EVT_EN_addr g) = 1#32 <<< i.val →
     s.bit (F.EVT_ROUTE_PIN (32 * g + i)) = true → s.bit (F.EVT_ROUTE_MSIX (32 * g + i)) = false →
     s.bit (F.EVT_ROUTE_UPDRAFT (32 * g + i)) = false →
     exec (.evtEnableWrite g value) s = .next { s.setReg (F.EVT_EN_addr g) value with eventN := true })) ∧
  ((∀ (s : State) (v : Fin 64), s.up = true → s.evt.pba.getLsbD v = true → s.pcieUp = true →
     ∃ t, exec (.msixUnmask v) s = .next t ∧ t.out = .msi v :: s.out ∧ t.evt.mask.getLsbD v = false ∧ t.evt.pba.getLsbD v = false ∧
       t = { s with evt := t.evt, out := t.out }) ∧
   (∀ (s : State) (v : Fin 64), s.up = true → s.evt.pba.getLsbD v = false ∨ s.pcieUp = false →
     exec (.msixUnmask v) s = .next { s with evt := { s.evt with mask := s.evt.mask &&& ~~~(1#64 <<< v.val) } }) ∧
   (∀ s : State, s.alwaysOn = true → s.pinActive = false → exec .eventNRelease s = .next { s with eventN := false }) ∧
   (∀ s : State, s.alwaysOn = true → s.pinActive = true → exec .eventNRelease s = .next s))

/-! ## Reset, boot, fuses and the host -/

/-- R379, R407: RESET_N, or an under-voltage, puts every register at its reset value but the write-once fields and the cause
of a latched shutdown; HOLD is in force, nothing runs, and the fuses, the Trellis ledger region of memory and, while the rails
are off or falling, the ledgers and layer states are kept. R406: without VDDAO the write-once fields, a latched shutdown and
the ledgers are lost, and only the fuses are kept; the first rise of VDDAO brings the device into reset. -/
def Obligations.ResetAndVddaoRemoval : Prop :=
  (∀ (c : Instr) (s : State), s.mode ≠ .off → c = .reset false ∨ c = .reset true ∨ (∃ v, c = .undervoltageReset v) →
     Answers c s fun t =>
       t.mode = (if s.mode = .shutdown then .shutdown else .reset) ∧
       (∀ a, t.reg a = if a ∈ keptRegs then s.reg a else RegMap.reset a) ∧ (∀ a, t.actReg a = RegMap.reset a) ∧
       t.wos = s.wos ∧ t.fuses = s.fuses ∧ t.eventN = false ∧ t.pcieUp = false ∧ t.frm = FrameEngine.reset ∧
       (∀ n : Fin 48, t.press[n] = Press.reset) ∧ (∀ n : Fin 16, t.seq.thr[n] = Thread.reset) ∧
       (∀ p : Fin 4, t.link.port[p] = LinkPort.reset) ∧ t.pll = State.reset.pll ∧
       (∀ a, 0x06980000 ≤ a → a < 0x06990000 → t.mem.readByte a = s.mem.readByte a) ∧
       t.trl.word = s.trl.word ∧
       (s.hvState = 0 ∨ s.hvState = 3 ∨ s.hvState = 5 → ∀ o : Fin 384, t.trl.outs[o].acc = s.trl.outs[o].acc)) ∧
  ((∀ s : State, Answers .vddaoRemoval s fun t =>
     t.mode = .off ∧ t.pll = State.reset.pll ∧ (∀ a, t.reg a = RegMap.reset a) ∧ t.wos = [] ∧ t.fuses = s.fuses ∧ ∀ o : Fin 384, t.trl.outs[o].acc = 0) ∧
   (∀ s : State, s.mode = .off → Answers (.reset true) s fun t => t.mode = .reset ∧ t.fuses = s.fuses))

/-- R379, R382: at the release of RESET_N the fuses are sensed, BOOTSEL is sampled into TOP_BOOT_STAT, the converters start
their power-on sequence, and the loader waits for a container where BOOTSEL names a source; elsewhere the boot fails with
cause 1. -/
def Obligations.ReleaseSensesFusesAndStartsLoader : Prop :=
  ∀ s : State, s.mode = .reset → s.pll = State.reset.pll → Answers .resetRelease s fun t =>
    t.mode = .boot ∧ t.sensed = s.fuses ∧ t.fuses = s.fuses ∧ t.loader.bootsel = s.pins ∧
    t.get F.TOP_BOOT_STAT_BOOTSEL = s.pins.toNat ∧ t.get F.TOP_GRADE_GRADE = s.fuses.grade.toNat ∧ t.hvState = 1 ∧
    t.hv.start = s.now ∧
    (s.pins.toNat < 4 → t.loader.waiting = true ∧ t.loader.since = s.clock) ∧
    (4 ≤ s.pins.toNat → t.loader.waiting = false ∧ t.get F.TOP_BOOT_STAT_CAUSE = 1 ∧ t.eventN = true) ∧
    (s.fuses.grade = 2 → t.get F.TMON_THR_2_CRIT = 15360 ∧ t.get F.TMON_THR_0_WARN = 12160)

/-- R380–R384: a container that fails a check stops the boot with the first cause in order and its segment, EVENT_N low; one
that passes, and whose segments are taken, starts thread 0 at the entry image's LOAD_ADDR + ENTRY, with READY and DONE set;
after 10 s without one the boot fails with cause 1; the doorbell completes a container that the host has written. -/
def Obligations.LoaderTakesOrRefusesContainer : Prop :=
  (∀ (s : State) (bytes : List Byte) (cause seg : Nat), s.mode = .boot → s.loader.waiting = true → s.loader.bootsel = 0 →
    containerCause s.sensed (bytes.take stagingSize) = some (cause, seg) →
    Answers (.bootContainerReceived bytes) s fun t =>
      t.mode = .boot ∧ t.get F.TOP_BOOT_STAT_CAUSE = cause % 16 ∧ t.get F.TOP_BOOT_STAT_SEG = seg % 32 ∧ t.eventN = true ∧
      t.evStatus 993 = true ∧ (5 ≤ cause ∧ cause ≤ 7 → t.evStatus 994 = true) ∧ t.loader.waiting = false ∧
      t.get F.TOP_BOOT_STAT_DONE = s.get F.TOP_BOOT_STAT_DONE ∧ t.seq = s.seq) ∧
  (∀ (s u : State) (bytes : List Byte), s.mode = .boot → s.loader.waiting = true → s.loader.bootsel = 0 →
    containerCause s.sensed (bytes.take stagingSize) = none →
    (s.store stagingBase (bytes.take stagingSize)).doSegments (bytes.take stagingSize)
      (bootSegs (bytes.take stagingSize)).zipIdx = (u, none) →
    u.seq.thr[(0 : Fin 16)].st = .stopped → (bootStart (bytes.take stagingSize)).toNat % 4 = 0 →
    (bootStart (bytes.take stagingSize)).toNat < seqEnd →
    Answers (.bootContainerReceived bytes) s fun t =>
      t.mode = .run ∧ t.get F.TOP_BOOT_STAT_DONE = 1 ∧ t.get F.TOP_BOOT_STAT_CAUSE = 0 ∧ t.get F.PWR_STAT_READY = 1 ∧
      t.evStatus 992 = true ∧ t.loader.waiting = false ∧ t.seq.thr[(0 : Fin 16)].st = .ready ∧
      t.seq.thr[(0 : Fin 16)].pc = bootStart (bytes.take stagingSize) ∧ t.seq.thr[(0 : Fin 16)].sreg 0 = 0) ∧
  (∀ s : State, s.mode = .boot → s.loader.waiting = true → s.loader.whole = false → s.loader.bootsel ≠ 3 →
    s.loader.since + 10000000000 ≤ s.clock →
    Answers .bootTimeout s fun t =>
      t.mode = .boot ∧ t.get F.TOP_BOOT_STAT_CAUSE = 1 ∧ t.evStatus 993 = true ∧ t.eventN = true ∧ t.loader.waiting = false) ∧
  (∀ s : State, s.mode = .boot → s.loader.bootsel = 2 →
    exec .bootDoorbell s = .next { s with loader := { s.loader with waiting := true, whole := true } }) ∧
  (∀ s : State, s.mode = .run → exec .bootDoorbell s = .next s)

/-- R385: a fuse bit goes from 0 to 1 while JTAG_LOCK as sensed is clear, every other bit stays, and boot event 4 is raised;
with JTAG_LOCK sensed, or on a programmed bit, nothing happens. -/
def Obligations.FuseProgramSetsOneBit : Prop :=
  (∀ (s : State) (field : FuseField) (i : Nat), s.up = true → s.sensed.jtagLock = false → i < field.bits →
    s.fuses.bit field i = false →
    Answers (.fuseProgram field i) s fun t =>
      t = ({ s with fuses := t.fuses } : State).raise 996 ∧
      ∀ (g : FuseField) (j : Nat), j < g.bits → t.fuses.bit g j = (s.fuses.bit g j || decide (g = field ∧ j = i))) ∧
  (∀ (s : State) (field : FuseField) (i : Nat), s.up = true → s.sensed.jtagLock = true ∨ s.fuses.bit field i = true →
    exec (.fuseProgram field i) s = .next s)

/-- R387, R388, R391: the link's changes raise PCIe events 0 to 2, and when it goes down every ingest ring stops with ERR set;
a ring is turned off by EN 0; a descriptor that breaks R388 stops its ring with its event, and a good one writes its data,
moves RPTR on and raises its event where it asks for it. -/
def Obligations.IngestRingsMoveData : Prop :=
  (∀ s : State, s.up = true → s.pcieUp = false → exec (.pcieLinkChange .up) s = .next (({ s with pcieUp := true } : State).raise 816)) ∧
  (∀ s : State, s.up = true → s.pcieUp = true →
    exec (.pcieLinkChange .reduced) s = .next (s.raise 818) ∧
    Answers (.pcieLinkChange .down) s fun t => t.pcieUp = false ∧ t.evStatus 817 = true ∧
      ∀ r : Fin 4, t.bit (F.HOST_DMA_CFG_ERR r) = true) ∧
  (∀ (s : State) (r : Fin 4), s.up = true → exec (.hostDmaDisable r) s = .next (s.put (F.HOST_DMA_CFG_EN r) 0)) ∧
  (∀ (s : State) (r : Fin 4) (desc data : List Byte) (ok : Bool) (ecc : List EccHit), s.up = true → s.ingestRuns r = true →
    desc.length = 32 → descNat desc 16 4 = 0 ∨ 16777216 < descNat desc 16 4 →
    exec (.hostDmaDescriptor r desc data ok ecc) s = .next ((s.put (F.HOST_DMA_CFG_ERR r) 1).raise (824 + r))) ∧
  (∀ (s : State) (r : Fin 4) (desc data : List Byte), s.up = true → s.ingestRuns r = true → s.ingestOk desc = true →
    onChip (descNat desc 8 5) (descNat desc 16 4) = true → data.length = descNat desc 16 4 →
    exec (.hostDmaDescriptor r desc data true []) s =
      .next (((s.store (descNat desc 8 5) data).put (F.HOST_DMA_PTR_RPTR r)
        (if s.get (F.HOST_DMA_PTR_RPTR r) + 1 < s.get (F.HOST_DMA_SIZE_N r) then s.get (F.HOST_DMA_PTR_RPTR r) + 1 else 0)).raiseIf
          (descNat desc 22 1 == 1) (820 + r)))

/-! ## Registers and rate monitors -/

/-- R11, R13: a write to a register that has no rule of its own changes that register alone, bit by bit under the access code
of the field: RW bits take the value, ones clear W1C bits, a write-once field takes its first value since VDDAO rose, and
every other bit stays; the fabric, JTAG while JTAG_LOCK is clear and BAR0 within 4 MiB while the link is up all do the same.
R11, R387, R390: a write to an address at which no register is, one by JTAG with JTAG_LOCK sensed, and one by BAR0 with the
link down or above 4 MiB change nothing. -/
def Obligations.RegisterWriteFollowsAccessCodes : Prop :=
  (∀ (s : State) (path : Path) (addr value : Word) (r : RegRow) (ix : List Nat), s.up = true →
     path = .fabric ∨ (path = .jtag ∧ s.sensed.jtagLock = false) ∨ (path = .bar0 ∧ s.pcieUp = true ∧ addr.toNat < 0x400000) →
     RegMap.find addr.toNat = some (r, ix) → noSet1 addr.toNat = false →
     (rulesOf id (addr.toNat / 65536)).findSome? (fun rule => rule addr.toNat s value) = none →
     Answers (.registerWrite path addr value) s fun t =>
       t = { s with regs := t.regs, wos := t.wos } ∧ (∀ b, b ≠ addr.toNat → t.reg b = s.reg b) ∧
       (∀ f ∈ r.fields, ∀ i, f.lo ≤ i → i < f.lo + f.w →
         (t.reg addr.toNat).getLsbD i = match f.acc with
           | .rw => value.getLsbD i
           | .w1c => (s.reg addr.toNat).getLsbD i && !value.getLsbD i
           | .wos => if addr.toNat ∈ s.wos then (s.reg addr.toNat).getLsbD i else value.getLsbD i
           | .ro | .wo | .w1s | .rwl => (s.reg addr.toNat).getLsbD i) ∧
       (∀ i, (∀ f ∈ r.fields, ¬(f.lo ≤ i ∧ i < f.lo + f.w)) → (t.reg addr.toNat).getLsbD i = (s.reg addr.toNat).getLsbD i) ∧
       ∀ b, b ∈ t.wos ↔ b ∈ s.wos ∨ (b = addr.toNat ∧ ∃ f ∈ r.fields, f.acc = .wos)) ∧
  (∀ (s : State) (addr value : Word), s.up = true →
     (∀ path, RegMap.find addr.toNat = none → exec (.registerWrite path addr value) s = .next s) ∧
     (s.sensed.jtagLock = true → exec (.registerWrite .jtag addr value) s = .next s) ∧
     (s.pcieUp = false ∨ 0x400000 ≤ addr.toNat → exec (.registerWrite .bar0 addr value) s = .next s))

/-- R32, R33: the end of a measurement window gives every unit that runs the operations that it completed in the window in
operations per µs with 8 fraction bits (rounded down and held at the greatest, the model's choices, log 24), lowers its minimum
to that rate, and starts the next window's count at 0; a gated, fenced or waking press and a lane that is off read 0 and
keep their minimum; CLR_MIN puts every minimum at its reset value and keeps the rates. -/
def Obligations.RateWindowUpdatesRatesAndMinima : Prop :=
  (∀ s : State, s.up = true → s.windowOver = true →
    Answers .rmonWindowEnd s fun t =>
      t = { s with rmon := t.rmon } ∧
      t.rmon.since = s.rmon.since + BitVec.ofNat 32 (1000 * s.get F.TOP_RMON_CTL_WINDOW_US) ∧
      ∀ u : Fin 83, t.rmon.ops[u] = 0 ∧
        (s.rmonRuns u = true →
          t.rmon.rate[u] = min (s.rmon.ops[u] * 256 / s.get F.TOP_RMON_CTL_WINDOW_US) 0xFFFFFF ∧
          t.rmon.low[u] = min s.rmon.low[u] t.rmon.rate[u]) ∧
        (s.rmonRuns u = false → t.rmon.rate[u] = 0 ∧ t.rmon.low[u] = s.rmon.low[u])) ∧
  (∀ s : State, s.up = true → Answers .rmonClrMin s fun t =>
    t = { s with rmon := t.rmon } ∧ t.rmon.rate = s.rmon.rate ∧ ∀ u : Fin 83, t.rmon.low[u] = 0xFFFFFF)

/-! ## Frames, commits, tokens and readiness -/

/-- R139: a comparator of 4–63 that is armed and whose target is reached disarms, sets FIRED and keeps its target, and drives
its LINE, which is nothing at 31; one that is not armed, or not yet at its target, does nothing. -/
def Obligations.ComparatorFiresAtItsTarget : Prop :=
  (∀ (s : State) (c : Fin 64), s.up = true → 4 ≤ c.val → s.bit (F.SEQ_LC_CFG_ARM c) = true →
    0 ≤ sdiff s.now (s.target c) → s.get (F.SEQ_LC_CFG_LINE c) = 31 →
    exec (.comparatorFire c) s = .next ((s.put (F.SEQ_LC_CFG_ARM c) 0).put (F.SEQ_LC_CFG_FIRED c) 1)) ∧
  (∀ (s : State) (c : Fin 64), s.up = true →
    s.bit (F.SEQ_LC_CFG_ARM c) = false ∨ sdiff s.now (s.target c) < 0 →
    exec (.comparatorFire c) s = .next s)

/-- R18, R22, R29, R139: the fire of comparator 0 is a launch at its target. With HOLD in force and not being cleared it
starts no frame; out of HOLD it starts the next frame, whose slot 0 begins there, and arms comparator 1. R25, R29: HOLD set
while a frame's slots run waits for the last slot's end, and applies at once elsewhere; where it applies, selections and
frames are dropped and, if a frame has run, all 64 bands are due for slot 0; its clearing waits for the next launch, or for
the one after it, counted as late, less than 50 µs before one. -/
def Obligations.FramesLaunchAndHold : Prop :=
  (∀ s : State, s.up = true → s.due 0 = true → s.frm.holdSet = false →
     Answers (.comparatorFire 0) s fun t =>
       t.frm.lastLaunch = some (s.target 0) ∧ t.frm.transition = false ∧
       (s.frm.hold = true → s.frm.holdClear = none → t.frm.run = s.frm.run ∧ t.frm.count = s.frm.count ∧ t.frm.hold = true) ∧
       (s.frm.hold = false →
         t.frm.count = s.frm.count + 1 ∧ t.frm.hold = false ∧ t.bit (F.SEQ_LC_CFG_ARM 1) = true ∧
         t.target 1 = s.target 0 ∧
         ∃ r, t.frm.run = some r ∧ r.launch = s.target 0 ∧ r.next = 0 ∧ r.ended = false ∧
           r.number = s.frm.count + 1 ∧ r.transition = s.frm.transition)) ∧
  ((∀ s : State, s.up = true → s.bit F.SEQ_FRM_FORMAT_HOLD = false → s.frm.hold = false →
     Answers .holdSet s fun t =>
       t.bit F.SEQ_FRM_FORMAT_HOLD = true ∧
       (s.slotsRunning = true → t = { s.put F.SEQ_FRM_FORMAT_HOLD 1 with frm := { s.frm with holdSet := true } }) ∧
       (s.slotsRunning = false → t.frm.hold = true ∧ t.frm.holdAt = s.now ∧ t.frm.run = none ∧ t.frm.sel = none ∧
         t.frm.holdBands = (if s.frm.ranFrame then BitVec.allOnes 64 else 0))) ∧
   (∀ (s : State) (f : FrameRun), s.up = true → s.frm.holdSet = true → s.frm.run = some f → s.slotsRunning = false →
     Answers .holdApply s fun t =>
       t.frm.hold = true ∧ t.frm.holdSet = false ∧ t.frm.holdAt = f.launch + BitVec.ofNat 32 (f.slots * f.period) ∧
       t.frm.run = none ∧ t.frm.sel = none) ∧
   (∀ s : State, s.up = true → s.frm.holdSet = false ∨ s.slotsRunning = true → exec .holdApply s = .next s) ∧
   (∀ s : State, s.up = true → s.bit F.SEQ_FRM_FORMAT_HOLD = true → s.frm.hold = true →
     Answers .holdClear s fun t =>
       t.bit F.SEQ_FRM_FORMAT_HOLD = false ∧ t.frm.hold = true ∧
       t.frm.holdClear = some ⟨s.now, s.afterDeadline, s.afterDeadline, false⟩ ∧
       (s.afterDeadline = true → t.bit F.SEQ_FRM_CTL_COMMIT_LATE = true ∧ t.evStatus 874 = true ∧
         t.get F.SEQ_FRM_COUNT_LATE_COMMITS = min (s.get F.SEQ_FRM_COUNT_LATE_COMMITS + 1) 65535) ∧
       (s.afterDeadline = false → t.get F.SEQ_FRM_COUNT_LATE_COMMITS = s.get F.SEQ_FRM_COUNT_LATE_COMMITS)) ∧
   (∀ (s : State) (b : Fin 64), s.up = true → s.frm.holdBands.getLsbD b = true →
     s.reached (s.frm.holdAt + BitVec.ofNat 32 (b.val * (s.slotPeriod / 64))) = true →
     Answers (.holdSlot0Transition b) s fun t => ∀ i : Fin 64, t.frm.holdBands.getLsbD i = (decide (i ≠ b) && s.frm.holdBands.getLsbD i)) ∧
   (∀ (s : State) (b : Fin 64), s.up = true → s.frm.holdBands.getLsbD b = false → exec (.holdSlot0Transition b) s = .next s))

/-- R28: a commit that breaks one of the listed conditions is refused whole: the active set and the frame engine stay as they
are, REFUSED is set and sequencer event 25 is raised. -/
def Obligations.IllegalCommitIsRefusedWhole : Prop :=
  ∀ s : State, s.up = true →
    (s.get F.SEQ_FRM_FORMAT_SLOTS ≠ 2 ^ ((List.range 6).filter fun l => (s.get F.SEQ_FRM_FORMAT_LAYER_MASK).testBit l).length ∨
     s.get F.SEQ_FRM_SLOT_PERIOD_PERIOD_NS % 64 ≠ 0 ∨ s.get F.SEQ_FRM_SLOT_PERIOD_PERIOD_NS < 128000 ∨
     4000000 < s.get F.SEQ_FRM_SLOT_PERIOD_PERIOD_NS ∨
     s.get F.SEQ_FRM_MIN_FRAME_MIN_NS < s.get F.SEQ_FRM_FORMAT_SLOTS * s.get F.SEQ_FRM_SLOT_PERIOD_PERIOD_NS + 20000 ∨
     s.get F.SEQ_FRM_MAX_FRAME_MAX_NS < s.get F.SEQ_FRM_MIN_FRAME_MIN_NS ∨ 1000000000 < s.get F.SEQ_FRM_MAX_FRAME_MAX_NS ∨
     s.get F.SEQ_FRM_CUTOFF_CUTOFF_NS < 8000 ∨ 150000 < s.get F.SEQ_FRM_CUTOFF_CUTOFF_NS) →
    Answers .frameCommit s fun t =>
      t.act = s.act ∧ t.frm = s.frm ∧ t.bit F.SEQ_FRM_CTL_REFUSED = true ∧ t.evStatus 873 = true

/-- R27, R29, R42, R43, R46: an accepted commit takes the whole shadow set and waits for its launch; CLR_COUNT clears the
counters; an accepted APPLY makes geometry, band table, lane maps and timing active together, and a refused one keeps the
active set and says why; the saturation table moves within the on-chip range alone. -/
def Obligations.ShadowSetsBecomeActiveWhole : Prop :=
  (∀ s : State, s.up = true → s.formatLegal = true → wavesInStep s.actReg (s.get F.SEQ_FRM_SLOT_PERIOD_PERIOD_NS) = true →
    s.panelCause (s.get F.SEQ_FRM_SLOT_PERIOD_PERIOD_NS) = 0 →
    Answers .frameCommit s fun t =>
      t.act = s.act ∧ t.bit F.SEQ_FRM_CTL_COMMIT = true ∧
      t.frm.commit = some ⟨commitRegs.map fun a => (a, s.reg a), ⟨s.now, s.afterDeadline, s.afterDeadline, false⟩, s.frm.hold⟩ ∧
      (s.afterDeadline = true → t.evStatus 874 = true ∧ t.bit F.SEQ_FRM_CTL_COMMIT_LATE = true)) ∧
  (∀ s : State, s.up = true → exec .clrCount s = .next (s.setReg F.SEQ_FRM_COUNT_addr 0)) ∧
  (∀ s : State, s.up = true → s.geomCause = (0, 0) →
    Answers .geomApply s fun t => ∀ a, t.actReg a = if a ∈ geomRegs ++ mapRegs then s.reg a else s.actReg a) ∧
  (∀ (s : State) (c p : Nat), s.up = true → s.geomCause = (c, p) → c ≠ 0 ∨ p ≠ 0 →
    exec .geomApply s = .next ((((s.put F.TRL_GEOM_CTL_BAD 1).put F.TRL_GEOM_CTL_CAUSE c).put F.TRL_GEOM_CTL_PANEL_CAUSE p).raise 523)) ∧
  (∀ s : State, s.frm.hold = false → s.geomCause = (3, 0)) ∧
  (∀ (s : State) (value : Word), s.up = true →
    exec (.trlSatBaseWrite value) s =
      .next (if F.TRL_SAT_BASE_BASE.of value = 0 ∨
          (0x01000000 ≤ F.TRL_SAT_BASE_BASE.of value * 4096 ∧ F.TRL_SAT_BASE_BASE.of value * 4096 + 4096 ≤ 0x07000000) then
        s.put F.TRL_SAT_BASE_BASE (F.TRL_SAT_BASE_BASE.of value)
      else s.put F.TRL_GEOM_CTL_BASE_BAD 1))

/-- R24, R146, R148: a launch token is stored with its arrival and raises event 20; at or after its time it is missed (event
21), within the cutoff of a pending launch it is dropped, and otherwise SHORT is recorded and AUTO_ARM arms comparator 0 for
it; a token is sent only with MINLEAD_NS or more left, and LOCAL delivers it here as well. R23, R149: a report of the current
frame from a member joins GOT, with its time in LAST, and ALL and event 22 follow where GOT reaches MEMBER; one of the next
frame joins NEXT; any other is dropped and counted. ADVANCE moves NEXT into GOT for the next frame. The tile's own report goes
to the collector where the tile is the hub. -/
def Obligations.LaunchTokensAndReadiness : Prop :=
  ((∀ (s : State) (time fseq : Word) (tr : Bool), s.up = true →
     ∀ u, u = ((((s.setReg F.SEQ_LTOK_RX_TIME_addr time).setReg F.SEQ_LTOK_RX_SEQ_addr fseq).setReg F.SEQ_LTOK_RX_ARRIVAL_addr
         s.now).putB F.SEQ_LTOK_RX_STAT_TRANSITION tr).raise 868 →
     (sdiff time s.now ≤ 0 → exec (.launchTokenRx time fseq tr) s = .next ((u.put F.SEQ_FRM_CTL_MISSED 1).raise 869)) ∧
     (0 < sdiff time s.now → s.bit (F.SEQ_LC_CFG_ARM 0) = true →
       sdiff (s.target 0) s.now < s.actGet F.SEQ_FRM_CUTOFF_CUTOFF_NS →
       exec (.launchTokenRx time fseq tr) s = .next (u.count F.SEQ_LTOK_RX_STAT_DROPPED)) ∧
     (0 < sdiff time s.now → s.bit (F.SEQ_LC_CFG_ARM 0) = false ∨
         (s.actGet F.SEQ_FRM_CUTOFF_CUTOFF_NS : Int) ≤ sdiff (s.target 0) s.now →
       ∀ v, v = u.putB F.SEQ_LTOK_RX_STAT_SHORT (decide (sdiff time s.now < s.actGet F.SEQ_FRM_CUTOFF_CUTOFF_NS)) →
       exec (.launchTokenRx time fseq tr) s = .next (if s.bit F.SEQ_LTOK_RX_STAT_AUTO_ARM then v.armComp 0 time else v))) ∧
   (∀ s : State, s.up = true → sdiff (s.reg F.SEQ_LTOK_TX_TIME_addr) s.now < s.get F.SEQ_LTOK_MINLEAD_MINLEAD_NS →
     exec .ltokSend s = .next (s.put F.SEQ_LTOK_TX_CTL_REFUSED 1)) ∧
   (∀ s : State, s.up = true → (s.get F.SEQ_LTOK_MINLEAD_MINLEAD_NS : Int) ≤ sdiff (s.reg F.SEQ_LTOK_TX_TIME_addr) s.now →
     ∀ u, u = (if s.bit (F.ZL_TXS_EN 0) then s.txPacket 0 2 false false (bytesOfNat 4 (s.reg F.SEQ_LTOK_TX_TIME_addr).toNat ++
         bytesOfNat 4 (s.reg F.SEQ_LTOK_TX_SEQ_addr).toNat ++ bytesOfNat 4 (s.bit F.SEQ_LTOK_TX_CTL_TRANSITION).toNat ++ [0, 0, 0, 0])
       else s) →
     (s.bit F.SEQ_LTOK_TX_CTL_LOCAL = false → exec .ltokSend s = .next u) ∧
     (s.bit F.SEQ_LTOK_TX_CTL_LOCAL = true → exec .ltokSend s =
       exec (.launchTokenRx (s.reg F.SEQ_LTOK_TX_TIME_addr) (s.reg F.SEQ_LTOK_TX_SEQ_addr) (s.bit F.SEQ_LTOK_TX_CTL_TRANSITION)) u))) ∧
  ((∀ (s : State) (x y : Byte) (fseq tb : Word), s.up = true →
     (s.entriesOf x y = 0 ∨ (fseq ≠ s.reg F.SEQ_RDY_FRAME_addr ∧ fseq ≠ s.reg F.SEQ_RDY_FRAME_addr + 1) →
       exec (.readinessReportRx x y fseq tb) s = .next (s.count F.SEQ_RDY_CTL_DROPPED)) ∧
     (fseq = s.reg F.SEQ_RDY_FRAME_addr → s.entriesOf x y &&& ~~~s.gotReady ≠ 0 →
       Answers (.readinessReportRx x y fseq tb) s fun t =>
         t.gotReady = s.gotReady ||| s.entriesOf x y ∧ t.nextReady = s.nextReady ∧ t.reg F.SEQ_RDY_LAST_addr = s.now ∧
         t.evStatus 871 = true ∧ t.bit F.SEQ_RDY_CTL_ALL = (t.gotReady == s.members) ∧
         (t.gotReady = s.members → s.bit F.SEQ_RDY_CTL_ALL = false → t.evStatus 870 = true)) ∧
     (fseq = s.reg F.SEQ_RDY_FRAME_addr + 1 → s.entriesOf x y &&& ~~~s.nextReady ≠ 0 →
       Answers (.readinessReportRx x y fseq tb) s fun t =>
         t.nextReady = s.nextReady ||| s.entriesOf x y ∧ t.gotReady = s.gotReady ∧ t.frm.nextLast = s.now ∧ t.evStatus 871 = true)) ∧
   (∀ s : State, s.up = true → Answers .rdyAdvance s fun t =>
     t.reg F.SEQ_RDY_FRAME_addr = s.reg F.SEQ_RDY_FRAME_addr + 1 ∧ t.gotReady = s.nextReady ∧ t.nextReady = 0 ∧
     (s.nextReady ≠ 0 → t.reg F.SEQ_RDY_LAST_addr = s.frm.nextLast) ∧ t.bit F.SEQ_RDY_CTL_ALL = (s.nextReady == s.members)) ∧
   (∀ (s u : State) (n : Word) (l : List Word) (x y : Nat), s.up = true → s.frm.reportDue = n :: l → s.bit F.ZL_UP_DUAL = false →
     x = s.get F.ZL_UP_HUB % 256 → y = s.get F.ZL_UP_HUB / 256 → u = { s with frm := { s.frm with reportDue := l } } →
     (∀ q, s.hop x y false = .port q → exec .readinessReportSend s = .next (u.enqueue State.raise q false ⟨4, true,
       [BitVec.ofNat 8 x, BitVec.ofNat 8 y, BitVec.ofNat 8 (s.get F.ZL_ADDR_X), BitVec.ofNat 8 (s.get F.ZL_ADDR_Y), 0, 0, 0, 0] ++
         bytesOfNat 4 n.toNat ++ bytesOfNat 4 s.now.toNat⟩)) ∧
     (s.hop x y false = .nowhere → exec .readinessReportSend s = .next ((u.count F.ZL_ROUTE_DROP_COUNT).raise 36)) ∧
     (s.hop x y false = .here →
       exec .readinessReportSend s =
         .next (u.reportArrives (BitVec.ofNat 8 (s.get F.ZL_ADDR_X)) (BitVec.ofNat 8 (s.get F.ZL_ADDR_Y)) n))) ∧
   (∀ s : State, s.up = true → s.frm.reportDue = [] → exec .readinessReportSend s = .next s))

/-! ## Distributor and presses -/

/-- R19, R73–R76, R80: a free press takes the next bundle of the band with the earliest opening once its frame's angle latch
is copied, with its coordinates in s0 and s1 and its valid lanes in p0; the first bundle of a frame is the angle latch itself;
a press job that waits starts with its ticket and arguments, every other register undefined. R96–R98: FENCE, an error that
cannot be corrected, or a bundle that has run for PRESS_TIMEOUT, fences the press with its cause and its event, its bundle back at the head of its band's queue;
FENCE 0 readmits it; GATE acts once the press is free; a press that was gated or fenced takes work again after its wake, its
registers undefined. -/
def Obligations.PressesTakeWorkAndAreFenced : Prop :=
  ((∀ (s : State) (n : Fin 48) (w : BandWork) (i : Nat) (v : SlotView) (a : AngleLatch), s.up = true → s.pressFree n = true →
     (∀ j ∈ s.seq.jobs, j.fits n = false) → s.firstIssue = some (w, i, v) → s.latchOf v.number = some a → s.dist.copying = false →
     Answers (.bundleIssue n) s fun t =>
       t.press[n].does = .bundle ⟨w.run, v.slot, slotWord v.mask v.slot, w.band, i, 2 * (i % s.rowBundles),
         s.bandFirst w.band + i / s.rowBundles, v.number, s.now, 0, false⟩ ∧
       t.press[n].s[0] = BitVec.ofNat 32 (2 * (i % s.rowBundles) + 1024 * (s.bandFirst w.band + i / s.rowBundles) +
         524288 * v.slot + 33554432 * w.band + 2147483648 * a.half.toNat) ∧
       t.press[n].s[1] = BitVec.ofNat 32 (slotWord v.mask v.slot + 32768 * (s.bundlesBefore w.band + i)) ∧
       t.press[n].p[0] = s.validLanes (2 * (i % s.rowBundles)) ∧ t.press[n].valid = t.press[n].p[0] ∧
       t.press[n].pc = BitVec.ofNat 32 a.entry ∧
       (∀ m : Fin 48, m ≠ n → t.press[m] = s.press[m]) ∧ t.mem = s.mem ∧ t.regs = s.regs) ∧
   (∀ (s : State) (n : Fin 48) (w : BandWork) (i : Nat) (v : SlotView) (c : Bool × Word) (h : FrameHeader), s.up = true →
     s.pressFree n = true → (∀ j ∈ s.seq.jobs, j.fits n = false) → s.firstIssue = some (w, i, v) →
     s.latchOf v.number = none → v.sel.content = some c → v.sel.hdr = some h → s.dist.copying = false →
     Answers (.bundleIssue n) s fun t =>
       t.press = s.press ∧ t.dist.copying = true ∧
       ∃ a l, t.dist.latches = a :: l ∧ a.number = v.number ∧ a.half = c.1 ∧ a.hdr = h ∧
         a.entry = 4 * s.get F.PRESS_SYN_ENTRY_ENTRY ∧
         (s.bit F.PRESS_LUT_CTL_SWAP = true → a.lutBank = !s.bit F.PRESS_LUT_CTL_ACTIVE ∧ t.bit F.PRESS_LUT_CTL_SWAP = false) ∧
         (s.bit F.PRESS_LUT_CTL_SWAP = false → a.lutBank = s.bit F.PRESS_LUT_CTL_ACTIVE) ∧
         (s.get F.TRL_ANG_WEIGHT_LO_BAND = 15 → 0 < s.get F.TRL_ANG_WEIGHT_WEIGHT →
           a.weight = 0 ∧ t.bit F.TRL_GEOM_CTL_WEIGHT_CLAMP = true)) ∧
   (∀ s : State, s.up = true → exec .angleCopyDone s = .next { s with dist := { s.dist with copying := false } }) ∧
   (∀ (s : State) (n : Fin 48) (j : PressJob), s.up = true → s.pressFree n = true →
     s.seq.jobs.find? (PressJob.fits · n) = some j →
     Answers (.pressJobStart n) s fun t =>
       t.press[n].does = .job j ∧ t.press[n].s[0] = j.ticket.setWidth 32 ∧ t.press[n].s[1] = j.arg0 ∧ t.press[n].s[2] = j.arg1 ∧
       t.press[n].p[0] = 0xFFFF ∧ t.press[n].valid = 0xFFFF ∧ t.press[n].pc = BitVec.ofNat 32 j.entry ∧
       (∀ k : Fin 16, 3 ≤ k.val → t.press[n].s[k] = Config.freeWord (s.free + k)) ∧ t.seq.jobs = s.seq.jobs.erase j ∧
       ∀ m : Fin 48, m ≠ n → t.press[m] = s.press[m])) ∧
  ((∀ (s : State) (n : Fin 48) (c : Instr) (cause : Nat), s.up = true →
     (c = .pressFence n false ∧ cause = 3 ∧ s.bit (F.PRESS_CTL_FENCED n) = false) ∨
       (c = .pressFence n true ∧ cause = 2 ∧ s.press[n].does ≠ .fenced ∧ s.press[n].does ≠ .gated) ∨
       (c = .bundleTimeout n ∧ cause = 1 ∧ ∃ b, s.press[n].does = .bundle b ∧
         max 200 (s.get F.PRESS_TIMEOUT_TIMEOUT_NS) ≤ (s.now - b.issued).toNat) →
     Answers c s fun t =>
       t.press[n].does = .fenced ∧ t.bit (F.PRESS_CTL_FENCED n) = true ∧ t.bit (F.PRESS_CTL_FENCE n) = true ∧
       t.get (F.PRESS_CTL_FENCE_CAUSE n) = cause ∧ t.evStatus (320 + n) = true ∧
       (∀ m : Fin 48, m ≠ n → t.press[m] = s.press[m]) ∧
       ∀ b, s.press[n].does = .bundle b → b.discard = false →
         t.dist.work = s.dist.work.map fun w => if w.run = b.run ∧ w.band = b.band then { w with redo := b.index :: w.redo } else w) ∧
   (∀ (s : State) (n : Fin 48), s.up = true → s.bit (F.PRESS_CTL_FENCED n) = true →
     exec (.pressUnfence n) s = .next (((s.put (F.PRESS_CTL_FENCE n) 0).put (F.PRESS_CTL_FENCED n) 0).onPress n fun p =>
       { p with does := if s.bit (F.PRESS_CTL_GATE n) then .gated else .waking })) ∧
   (∀ (s : State) (n : Fin 48), s.up = true → exec (.pressGate n) s = .next (s.put (F.PRESS_CTL_GATE n) 1)) ∧
   (∀ (s : State) (n : Fin 48), s.up = true → s.bit (F.PRESS_CTL_GATE n) = true → s.press[n].does = .idle →
     exec (.pressGated n) s = .next (s.onPress n fun p => { p with does := .gated })) ∧
   (∀ (s : State) (n : Fin 48), s.up = true → s.press[n].does = .gated →
     exec (.pressUngate n) s = .next ((s.put (F.PRESS_CTL_GATE n) 0).onPress n fun p => { p with does := .waking })) ∧
   (∀ (s : State) (n : Fin 48), s.up = true → s.press[n].does = .waking →
     Answers (.pressWakeDone n) s fun t =>
       t.press[n].does = .idle ∧ t.press[n].pc = s.press[n].pc ∧ (∀ i : Fin 16, t.press[n].s[i] = Config.freeWord (s.free + i)) ∧
       (∀ m : Fin 48, m ≠ n → t.press[m] = s.press[m]) ∧
       ∀ a, a < localBase n ∨ localBase n + 0x20000 ≤ a → t.mem.readByte a = s.mem.readByte a))

/-- R99, R129: SWAP waits for the next angle latch; INDEX takes 0–12,287; a write of PRESS_LUT_DATA puts 12 bits into the bank
that is not active, and is refused while SWAP is pending, a read shows an entry of it, and each moves INDEX on by one, from
12,287 to 0; PRESS_VSEL_BASE lies on chip or event 370 is raised; PRESS_STAT_CLR clears the four counters. -/
def Obligations.PressTablesAreReadAndWritten : Prop :=
  (∀ s : State, s.up = true → exec .pressLutSwap s = .next (s.put F.PRESS_LUT_CTL_SWAP 1)) ∧
  (∀ (s : State) (value : Word), s.up = true →
    exec (.pressLutAddrWrite value) s =
      .next (if value.toNat % 16384 ≤ 12287 then s.put F.PRESS_LUT_ADDR_INDEX (value.toNat % 16384) else s)) ∧
  (∀ (s : State) (value : Word), s.up = true → s.bit F.PRESS_LUT_CTL_SWAP = true →
    exec (.pressLutDataWrite value) s = .next (s.put F.PRESS_LUT_CTL_WR_REFUSED 1)) ∧
  (∀ (s : State) (value : Word), s.up = true → s.bit F.PRESS_LUT_CTL_SWAP = false →
    Answers (.pressLutDataWrite value) s fun t =>
      t.get F.PRESS_LUT_ADDR_INDEX = (if 12287 ≤ s.get F.PRESS_LUT_ADDR_INDEX then 0 else s.get F.PRESS_LUT_ADDR_INDEX + 1) ∧
      OnlyField F.PRESS_LUT_ADDR_INDEX s { t with lut := s.lut } ∧
      ∀ (bank : Fin 2) (j : Nat), assocGet 0 j t.lut[bank] =
        if bank.val = (!s.bit F.PRESS_LUT_CTL_ACTIVE).toNat ∧ j = s.get F.PRESS_LUT_ADDR_INDEX then value.toNat % 4096
        else assocGet 0 j s.lut[bank]) ∧
  (∀ (s : State) (bank : Fin 2), s.up = true → bank.val = (!s.bit F.PRESS_LUT_CTL_ACTIVE).toNat →
    Answers .pressLutDataRead s fun t =>
      t.rdata = BitVec.ofNat 32 (assocGet 0 (s.get F.PRESS_LUT_ADDR_INDEX) s.lut[bank]) ∧
      t.get F.PRESS_LUT_ADDR_INDEX = (if 12287 ≤ s.get F.PRESS_LUT_ADDR_INDEX then 0 else s.get F.PRESS_LUT_ADDR_INDEX + 1) ∧
      OnlyField F.PRESS_LUT_ADDR_INDEX s { t with rdata := s.rdata }) ∧
  (∀ (s : State) (value : Word), s.up = true →
    exec (.pressVselBaseWrite value) s =
      .next (if F.PRESS_VSEL_BASE_BASE.of value = 0 ∨ (0x01000000 ≤ F.PRESS_VSEL_BASE_BASE.of value * 4096 ∧
          F.PRESS_VSEL_BASE_BASE.of value * 4096 + 4096 ≤ 0x07000000) then
        s.put F.PRESS_VSEL_BASE_BASE (F.PRESS_VSEL_BASE_BASE.of value)
      else s.raise 370)) ∧
  (∀ s : State, s.up = true → Answers .pressStatClr s fun t =>
    OnlyRegs [F.PRESS_LATE_addr, F.PRESS_LATE_BANDS_addr, F.PRESS_EXC_addr, F.PRESS_EXC_INFO_addr] s t ∧
    ∀ a ∈ [F.PRESS_LATE_addr, F.PRESS_LATE_BANDS_addr, F.PRESS_EXC_addr, F.PRESS_EXC_INFO_addr], t.reg a = 0)

/-- R124–R128, R152: an image that passes every check is copied whole to its LOAD_ADDR, the press image into the kernel store
and the sequencer image into the instruction memory; one that fails is refused with the first cause and the features it
misses, and nothing is copied. -/
def Obligations.ImagesInstallWholeOrNotAtAll : Prop :=
  (∀ (s : State) (h : ImageHeader), s.up = true → s.bit F.PRESS_IMG_CTL_INSTALL = false →
    s.checkImage (64 * s.get F.PRESS_IMG_ADDR_ADDR) 0 0x100000 (s.reg F.PRESS_ISA_FEAT_addr) s.kernelBusy = (0, h) →
    exec .pressInstall s = .next { s.put F.PRESS_IMG_CTL_INSTALL 1 with
      imgP := some ⟨64 * s.get F.PRESS_IMG_ADDR_ADDR + 32, 0x06800000 + h.load, h.length⟩ }) ∧
  (∀ (s : State) (c : Nat) (h : ImageHeader), s.up = true → s.bit F.PRESS_IMG_CTL_INSTALL = false → c ≠ 0 →
    s.checkImage (64 * s.get F.PRESS_IMG_ADDR_ADDR) 0 0x100000 (s.reg F.PRESS_ISA_FEAT_addr) s.kernelBusy = (c, h) →
    exec .pressInstall s = .next (((s.put F.PRESS_IMG_CTL_REJECTED 1).put F.PRESS_IMG_CTL_CAUSE c).setReg F.PRESS_IMG_MISSING_addr
      (h.features &&& ~~~s.reg F.PRESS_ISA_FEAT_addr))) ∧
  (∀ (s : State) (h : ImageHeader), s.up = true → s.bit F.SEQ_IMG_CTL_INSTALL = false →
    s.checkImage (64 * s.get F.SEQ_IMG_ADDR_ADDR) 1 0x40000 (s.reg F.SEQ_ISA_FEAT_addr) s.threadsBusy = (0, h) →
    exec .seqInstall s = .next { s.put F.SEQ_IMG_CTL_INSTALL 1 with
      imgS := some ⟨64 * s.get F.SEQ_IMG_ADDR_ADDR + 32, 0x06900000 + h.load, h.length⟩ }) ∧
  (∀ (s : State) (c : Nat) (h : ImageHeader), s.up = true → s.bit F.SEQ_IMG_CTL_INSTALL = false → c ≠ 0 →
    s.checkImage (64 * s.get F.SEQ_IMG_ADDR_ADDR) 1 0x40000 (s.reg F.SEQ_ISA_FEAT_addr) s.threadsBusy = (c, h) →
    exec .seqInstall s = .next (((s.put F.SEQ_IMG_CTL_REJECTED 1).put F.SEQ_IMG_CTL_CAUSE c).setReg F.SEQ_IMG_MISSING_addr
      (h.features &&& ~~~s.reg F.SEQ_ISA_FEAT_addr))) ∧
  (∀ (s : State) (i : ImageCopy) (c : Instr) (f : Field), s.up = true →
    (c = .pressInstallDone ∧ s.imgP = some i ∧ f = F.PRESS_IMG_CTL_INSTALL) ∨
      (c = .seqInstallDone ∧ s.imgS = some i ∧ f = F.SEQ_IMG_CTL_INSTALL) →
    Answers c s fun t =>
      t.bit f = false ∧ (c = .pressInstallDone → t.imgP = none ∧ t.imgS = s.imgS) ∧
      (c = .seqInstallDone → t.imgS = none ∧ t.imgP = s.imgP) ∧
      ∀ a, t.mem.readByte a = if i.dst ≤ a ∧ a < i.dst + i.len then s.mem.readByte (i.src + (a - i.dst)) else s.mem.readByte a)

/-! ## Codec -/

/-- R163: the median edge predictor. -/
def Obligations.MedianEdgePredictor : Prop :=
  ∀ a b c : Nat,
    (max a b ≤ c → medianEdge a b c = min a b) ∧ (c ≤ min a b → medianEdge a b c = max a b) ∧
    (c < max a b → min a b < c → (medianEdge a b c : Int) = a + b - c)

/-- R169, R172: a sample that is quantised against a prediction and reconstructed lies within NEAR of its source and within
the plane's range, and the code word of its error reads back with the bits behind it untouched. -/
def Obligations.CodecErrorsStayWithinNear : Prop :=
  ∀ (p : CodePar) (x pr k : Nat) (rest : List Bool), (p.bits = 8 ∨ p.bits = 10 ∨ p.bits = 16) → p.near ≤ 7 → x ≤ p.maxval →
    pr ≤ p.maxval → k ≤ p.qbpp →
    (((p.recon pr (p.quantise x pr) : Nat) : Int) - x).natAbs ≤ p.near ∧ p.recon pr (p.quantise x pr) ≤ p.maxval ∧
    p.readQ k (p.writeQ k (p.quantise x pr) ++ rest) = some (p.quantise x pr, rest)

/-- R154, R174, R183, R186, R188, R189: a stripe from the link joins the end of the queue, and the recording where that runs and
has room; it is discarded, and counted, with SEL 1, as unmatched or repeated, or where the queue is full. A write of SEL empties
the queue, CLR clears its counters, recording starts at offset 0; a lane's MODE takes effect once it has no stripe and no job in
progress, and FLUSH waits on a job lane. -/
def Obligations.StripeQueueAndLanes : Prop :=
  (∀ (s : State) (bytes : List Byte), s.up = true →
    (s.bit F.CODEC_SRC_SEL = true ∨ (stripeHcrc bytes = true ∧ s.staleArrival (StripeHead.ofBytes bytes) = true) →
      exec (.stripeArrival bytes) s = .next (s.count F.CODEC_STRIPE_DROP_STALE)) ∧
    (s.bit F.CODEC_SRC_SEL = false → stripeHcrc bytes = false ∨ s.staleArrival (StripeHead.ofBytes bytes) = false →
      (s.queueRoom bytes.length = false → exec (.stripeArrival bytes) s = .next (s.count F.CODEC_STRIPE_DROP_FULL)) ∧
      ∀ (u : State) (off : Nat), u = { s with codec := { s.codec with queue := s.codec.queue ++ [⟨bytes, false, false, none⟩] } } →
        off = s.get F.CODEC_REC_PTR_OFFSET_64B * 64 → s.queueRoom bytes.length = true →
        (s.bit F.CODEC_REC_CTL_EN = false ∨ s.bit F.CODEC_REC_CTL_FULL = true → exec (.stripeArrival bytes) s = .next u) ∧
        (s.bit F.CODEC_REC_CTL_EN = true → s.bit F.CODEC_REC_CTL_FULL = false →
          (s.get F.CODEC_REC_SIZE_SIZE_64K * 65536 < off + (bytes.length + 63) / 64 * 64 →
            exec (.stripeArrival bytes) s = .next (u.put F.CODEC_REC_CTL_FULL 1)) ∧
          (off + (bytes.length + 63) / 64 * 64 ≤ s.get F.CODEC_REC_SIZE_SIZE_64K * 65536 →
            exec (.stripeArrival bytes) s = .next ((u.requestWrite .recorder (s.get F.CODEC_REC_BASE_BASE * 256 + off)
              (bytes ++ List.replicate ((bytes.length + 63) / 64 * 64 - bytes.length) 0)).put F.CODEC_REC_PTR_OFFSET_64B
                ((off + (bytes.length + 63) / 64 * 64) / 64)))))) ∧
  (∀ (s : State) (h : StripeHead), h.ty = 0 → (∀ f, s.codec.waiting = some f → f.1.fseq ≠ h.fseq) → s.halfOfSeq h.fseq = none →
    s.headerQueued h.fseq = false → s.staleArrival h = true) ∧
  (∀ (s : State) (h : StripeHead) (b : Bool) (f : HalfFrame), h.ty = 0 → s.codec.waiting = none → s.halfOfSeq h.fseq = some b →
    s.half b = some f → h.illegal f.hdr = false → f.taken.any (fun r => r.meets h.region) = true → s.staleArrival h = true) ∧
  (∀ (s : State) (sel : Bool), s.up = true → Answers (.codecSrcSelect sel) s fun t =>
    t.bit F.CODEC_SRC_SEL = sel ∧ t.codec.queue = [] ∧ t.codec.waiting = none ∧ t.codec.anySeq = true ∧
    (∀ n : Fin 32, t.codec.lanes[n].stripe = none ∧ t.codec.lanes[n].jobs = s.codec.lanes[n].jobs ∧
      t.codec.lanes[n].mode = s.codec.lanes[n].mode) ∧
    ∀ b f, s.half b = some f → t.half b = if f.complete then some f else none) ∧
  (∀ s : State, s.up = true →
    exec .codecStripeClr s = .next ((s.setReg F.CODEC_STRIPE_ERR_addr 0).setReg F.CODEC_STRIPE_DROP_addr 0) ∧
    exec .tdvRejectClr s = .next (s.setReg F.CODEC_TDV_REJECT_addr 0) ∧
    exec .recEnable s = .next (((s.put F.CODEC_REC_CTL_EN 1).put F.CODEC_REC_CTL_FULL 0).put F.CODEC_REC_PTR_OFFSET_64B 0)) ∧
  (∀ (s : State) (n : Fin 32), s.up = true →
    (s.codec.lanes[n].stripe = none →
      (∀ j l, s.codec.lanes[n].jobs = j :: l → j.words = [] ∧ j.ended = false ∧ j.blocked = false) →
      exec (.laneModeApply n) s = .next (s.onLane n fun l => { l with mode := BitVec.ofNat 2 (s.get (F.CODEC_LANE_CFG_MODE n)) })) ∧
    (s.codec.lanes[n].stripe ≠ none ∨
      (∃ j l, s.codec.lanes[n].jobs = j :: l ∧ (j.words ≠ [] ∨ j.ended = true ∨ j.blocked = true)) →
      exec (.laneModeApply n) s = .next s) ∧
    (s.codec.lanes[n].mode = 2 → ∃ b : Bool, exec (.flush n) s =
      .next ((s.put (F.CODEC_LANE_CFG_FLUSH n) 1).onLane n fun l => { l with fromNext := b }) ∧
      (s.codec.lanes[n].jobs = [] → b = true) ∧
      ∀ j l, s.codec.lanes[n].jobs = j :: l → b = !((s.jobDesc j).kind == 0 && !j.ended)) ∧
    (s.codec.lanes[n].mode ≠ 2 → exec (.flush n) s = .next s))

/-- R25, R59, R60, R69, R161, R174–R179: a waiting header takes a free store half; a free decoder takes the first stripe that
need not wait. One that fails the header check, or whose samples do not decode, is counted with its cause, view and plane (both
0 for a header) and raises event 1 of its lane. A header that passes every check and is newer than the last waits for a half and
ends an older one that waited; one that is not is rejected with its cause. A plane stripe takes its region, suspended or not,
and at its decode, at once or later, the region is done; a mask comes into force. -/
def Obligations.StripesQueueAndDecode : Prop :=
  (∀ (s : State) (h : FrameHeader) (first b : Bool), s.up = true → s.codec.waiting = some (h, first) → s.freeHalf = some b →
    Answers .frameDecodeStart s fun t =>
      t.codec.waiting = none ∧ t.codec.started = some b ∧ t.half (!b) = s.half (!b) ∧ t.regs = s.regs ∧
      ∃ f, t.half b = some f ∧ f.hdr = h ∧ f.complete = false ∧ f.taken = [] ∧ f.done = [] ∧ f.masks = [] ∧ f.lost = [] ∧
        f.taint = [] ∧ f.subst = []) ∧
  (∀ (s : State) (n : Fin 32) (stall : Bool) (pre rest : List QStripe) (q : QStripe) (h : StripeHead), s.up = true →
    s.decoderFree n = true → s.codec.queue = pre ++ q :: rest → (∀ x ∈ pre, s.mustWait x = true) → s.mustWait q = false →
    h = StripeHead.ofBytes q.bytes →
    ∀ u : State, u = { s with codec := { s.codec with queue := pre ++ rest } } →
    (stripeHcrc q.bytes = false → exec (.stripeDecode n stall) s =
      .next ((((u.count F.CODEC_STRIPE_ERR_COUNT).put F.CODEC_STRIPE_ERR_CAUSE 1).put F.CODEC_STRIPE_ERR_VIEW
        (if h.ty = 1 then 0 else h.view)).put F.CODEC_STRIPE_ERR_PLANE (if h.ty = 1 then 0 else h.plane) |>.raise (193 + 4 * n))) ∧
    (stripeHcrc q.bytes = true → h.ty ≠ 0 → h.ty ≠ 1 → exec (.stripeDecode n stall) s =
      .next ((((u.count F.CODEC_STRIPE_ERR_COUNT).put F.CODEC_STRIPE_ERR_CAUSE 2).put F.CODEC_STRIPE_ERR_VIEW h.view).put
        F.CODEC_STRIPE_ERR_PLANE h.plane |>.raise (193 + 4 * n))) ∧
    (stripeHcrc q.bytes = true → h.ty = 0 →
      (s.halfOfSeq (s.joins q) = none → exec (.stripeDecode n stall) s = .next (u.count F.CODEC_STRIPE_DROP_STALE)) ∧
      ∀ (b : Bool) (f : HalfFrame), s.halfOfSeq (s.joins q) = some b → s.half b = some f →
        (backPlane h.plane && f.lost.contains h.view) = false →
        (h.illegal f.hdr = true → exec (.stripeDecode n stall) s =
          .next ((((u.count F.CODEC_STRIPE_ERR_COUNT).put F.CODEC_STRIPE_ERR_CAUSE 2).put F.CODEC_STRIPE_ERR_VIEW h.view).put
            F.CODEC_STRIPE_ERR_PLANE h.plane |>.raise (193 + 4 * n))) ∧
        (h.illegal f.hdr = false → f.taken.any (fun r => r.meets h.region) = true →
          exec (.stripeDecode n stall) s = .next (u.count F.CODEC_STRIPE_DROP_STALE)) ∧
        (h.illegal f.hdr = false → f.taken.any (fun r => r.meets h.region) = false →
          Answers (.stripeDecode n true) s fun t =>
            t.codec.lanes[n].stripe = some { q with seq := some (s.joins q) } ∧ t.codec.lanes[n].earlier = f.taken ∧
            t.codec.queue = pre ++ rest ∧ t.regs = s.regs ∧ t.mem = s.mem ∧
            t.half b = some { f with taken := h.region :: f.taken } ∧ t.half (!b) = s.half (!b)))) ∧
  (∀ (s : State) (n : Fin 32) (stall : Bool) (pre rest : List QStripe) (q : QStripe) (h : StripeHead) (l : List Byte), s.up = true →
    s.decoderFree n = true → s.codec.queue = pre ++ q :: rest → (∀ x ∈ pre, s.mustWait x = true) →
    stripeHcrc q.bytes = true → h = StripeHead.ofBytes q.bytes → l = stripePayload q.bytes → h.ty = 1 → q.clip = false →
    h.bad = false → h.bytes ≠ 0 → h.plane = 0 → h.view = 0 → h.near = 0 → h.first = 0 → h.lines = 1 → h.bitsOk = true →
    h.rcrc = crc32c l →
    ∀ (u : State) (old : Bool), u = { s with codec := { s.codec with queue := pre.map s.stamp1 ++ rest } } →
    (old = true ↔ s.codec.anySeq = false ∧ ∃ w, s.codec.lastSeq = some w ∧ sdiff (bytesWord l 4) w ≤ 0) →
    (headerCause l s.gridW s.gridH true ≠ 0 → exec (.stripeDecode n stall) s =
      .next (((u.count F.CODEC_TDV_REJECT_COUNT).put F.CODEC_TDV_REJECT_CAUSE (headerCause l s.gridW s.gridH true)).raise (192 + 4 * n))) ∧
    (headerCause l s.gridW s.gridH true = 0 → old = true → exec (.stripeDecode n stall) s =
      .next (((u.count F.CODEC_TDV_REJECT_COUNT).put F.CODEC_TDV_REJECT_CAUSE 9).raise (192 + 4 * n))) ∧
    (headerCause l s.gridW s.gridH true = 0 → old = false → s.codec.waiting = none → exec (.stripeDecode n stall) s =
      .next { u with codec := { u.codec with
        lastSeq := some (bytesWord l 4), anySeq := false, waiting := some (FrameHeader.ofBytes l, q.alone) } }) ∧
    (headerCause l s.gridW s.gridH true = 0 → old = false → ∀ w first, s.codec.waiting = some (w, first) →
      Answers (.stripeDecode n stall) s fun t =>
        t.codec.waiting = some (FrameHeader.ofBytes l, q.alone) ∧ t.codec.lastSeq = some (bytesWord l 4) ∧
        t.codec.queue = u.codec.queue.filter (fun x => !x.belongs w) ∧
        t.get F.CODEC_TDV_REJECT_CAUSE = 10 ∧ t.evStatus (192 + 4 * n) = true)) ∧
  (∀ (s : State) (n : Fin 32) (q : QStripe) (h : StripeHead) (b : Bool) (f : HalfFrame) (l : List Byte), s.up = true →
    s.codec.lanes[n].stripe = some q → h = StripeHead.ofBytes q.bytes → l = stripePayload q.bytes → s.halfOfSeq (s.joins q) = some b →
    s.half b = some f → f.complete = false →
    (h.plane ≠ 5 → h.tooLong f = false → (backPlane h.plane = true → f.lost.contains h.view = false ∧ (f.hdr.backBlocks h.view ≠ 0 →
        lineIn s.codec.lanes[n].earlier h.view 5 0 = true ∧ lineIn f.done h.view 5 0 = true)) →
      (∀ out, (s.freeLane n).decodeSamples b f s.codec.lanes[n].earlier h l = .ok out →
        Answers (.decoderResume n) s fun t =>
          t.codec.lanes[n].stripe = none ∧ t.codec.queue = s.codec.queue ∧
          t.get F.CODEC_STRIPE_ERR_COUNT = s.get F.CODEC_STRIPE_ERR_COUNT ∧
          ∃ g, t.half b = some g ∧ g.done = h.region :: f.done ∧ g.hdr = f.hdr) ∧
      (∀ cause, (s.freeLane n).decodeSamples b f s.codec.lanes[n].earlier h l = .error cause → cause < 16 →
        Answers (.decoderResume n) s fun t =>
          t.codec.lanes[n].stripe = none ∧
          t.get F.CODEC_STRIPE_ERR_COUNT = min (s.get F.CODEC_STRIPE_ERR_COUNT + 1) 65535 ∧
          t.get F.CODEC_STRIPE_ERR_CAUSE = cause ∧ t.get F.CODEC_STRIPE_ERR_PLANE = h.plane ∧ t.evStatus (193 + 4 * n) = true ∧
          ∃ g, t.half b = some g ∧ g.done = h.region :: f.done)) ∧
    (h.plane = 5 → h.bitsOk = true → h.rcrc = crc32c l → (marked (maskBits f.hdr l)).length = f.hdr.backBlocks h.view →
      Answers (.decoderResume n) s fun t =>
        t.codec.lanes[n].stripe = none ∧ t.get F.CODEC_STRIPE_ERR_COUNT = s.get F.CODEC_STRIPE_ERR_COUNT ∧
        ∃ g, t.half b = some g ∧ g.done = h.region :: f.done ∧ assocGet [] h.view g.masks = maskBits f.hdr l) ∧
    (h.plane = 5 → h.bitsOk = false ∨ h.rcrc ≠ crc32c l ∨ (marked (maskBits f.hdr l)).length ≠ f.hdr.backBlocks h.view →
      Answers (.decoderResume n) s fun t =>
        t.codec.lanes[n].stripe = none ∧
        t.get F.CODEC_STRIPE_ERR_COUNT = min (s.get F.CODEC_STRIPE_ERR_COUNT + 1) 65535 ∧
        t.get F.CODEC_STRIPE_ERR_CAUSE = (if h.bitsOk = false then 3 else if h.rcrc ≠ crc32c l then 4 else 8) ∧
        t.get F.CODEC_STRIPE_ERR_PLANE = 5 ∧
        ∃ g, t.half b = some g ∧ g.done = h.region :: f.done ∧ h.view ∈ g.lost))

/-- R180–R185, R187: an encode plane job codes its next stripe, whole or cut short by a flush, and suspends while its output
is not accepted; a mask and a header are copied as they are, to memory or to a link stream; a clip's next stripe joins the queue,
and a malformed one ends the job with cause 5; an illegal field ends a job with cause 1, as other errors do with theirs; and at
its end STATUS is written and the lane's events follow. -/
def Obligations.CodecJobsRun : Prop :=
  (∀ (s : State) (n : Fin 32) (j : CodecJob) (ecc : List EccHit), s.up = true → s.runningJob n 0 = some j →
    exec (.encodePlane n true ecc) s = .next ((s.latchJob n).onJob n fun j => { j with blocked := true }) ∧
    (s.bit (F.CODEC_LANE_CFG_FLUSH n) = false → s.encodeCause (s.jobDesc j) ≠ 0 → exec (.encodePlane n false ecc) s =
      .next ((s.latchJob n).onJob n fun k => { k with cause := s.encodeCause (s.jobDesc j), ended := true }))) ∧
  (∀ (s u : State) (n : Fin 32) (j : CodecJob) (d : JobDesc) (ecc : List EccHit) (c : Instr) (lines : Nat), s.up = true →
    u.runningJob n 0 = some j → d = u.jobDesc j → u.encodeCause d = 0 →
    u.dramWaits n [d.src, (u.encodeCtx d.ctx).recon, (u.encodeCtx d.ctx).prev, if d.toLink then 0 else d.dst] = false →
    (c = .encodePlane n false ecc ∧ u = s ∧ s.bit (F.CODEC_LANE_CFG_FLUSH n) = false ∧
        lines = (if d.plane = 5 then 1 else min d.stripe (d.lines - j.line))) ∨
      (c = .encoderResume n ecc ∧ (∃ i, s.frontJob n = some i ∧ i.blocked = true) ∧
        u = s.onJob n (fun j => { j with blocked := false }) ∧ s.bit (F.CODEC_LANE_CFG_FLUSH n) = false ∧
        lines = (if d.plane = 5 then 1 else min d.stripe (d.lines - j.line))) ∨
      (c = .flushApply n lines ecc ∧ u = s ∧ s.bit (F.CODEC_LANE_CFG_FLUSH n) = true ∧ s.mayCut n j lines = true) →
    Answers c s fun t => t.bit (F.CODEC_LANE_CFG_FLUSH n) = false ∧ ∃ k, t.frontJob n = some k ∧ k.desc = j.desc ∧
      k.ticket = j.ticket ∧ k.line = j.line + lines ∧ (d.lines ≤ k.line → k.ended = true)) ∧
  (∀ (s u v : State) (n : Fin 32) (j : CodecJob) (d : JobDesc) (k : Nat) (ecc : List EccHit) (l out : List Byte), s.up = true →
    s.runningJob n 1 = some j → d = s.jobDesc j → u = s.latchJob n →
    (d.extra = true ∨ s.badDest d = true →
      exec (.encodeHeader n ecc) s = .next (u.onJob n fun j => { j with cause := 1, ended := true })) ∧
    (d.extra = false → s.badDest d = false → s.memRange d.src 12 = true → s.badRange d = false →
      u.dramWaits n [d.src, if d.toLink then 0 else d.dst] = false → k = 36 + 8 * ((s.byteAny (d.src + 8)).toNat % 16 + 1) →
      s.memRange d.src k = true → u.readAny d.src k ecc = (l, v) →
      out = stripeBytes 1 0 0 0 0 1 (bytesWord l 4) false d.noT d.noI (8 * l.length) l (crc32c l) →
      (d.toLink = false → j.out + out.length ≤ d.len → exec (.encodeHeader n ecc) s =
        .next ((((v.writeAny (d.dst + j.out) out ecc).onJob n fun j => { j with out := j.out + out.length }).countSamples n
          l.length).onJob n fun j => { j with ended := true })) ∧
      (∀ e, d.toLink = true → v.txEntry d.dst = some e → exec (.encodeHeader n ecc) s =
        .next (({ v with link := { v.link with tx := v.link.tx ++ [(e.val, out, false)] } }.countSamples n l.length).onJob n
          fun j => { j with ended := true })))) ∧
  (∀ (s u : State) (n : Fin 32) (j : CodecJob) (d : JobDesc) (head bytes : List Byte) (h : StripeHead) (ecc : List EccHit),
    s.up = true → s.runningJob n 2 = some j → d = s.jobDesc j → u = s.latchJob n →
    (d.extra = true ∨ d.len = 0 →
      exec (.playClip n ecc) s = .next (u.onJob n fun j => { j with cause := 1, ended := true })) ∧
    (d.extra = false → d.len ≠ 0 → dramBase ≤ d.src → s.memRange d.src d.len = true → u.dramGrants (.lane n) = true →
      j.line + 16 ≤ d.len → head = (u.dramRead (d.src + j.line) 16 ecc).1 → h = StripeHead.ofBytes head →
      (stripeHcrc head = false ∨ d.len < j.line + (h.bytes + 24) → Answers (.playClip n ecc) s fun t =>
        t.codec.queue = s.codec.queue ∧ ∃ k, t.frontJob n = some k ∧ k.cause = 5 ∧ k.ended = true) ∧
      (stripeHcrc head = true → j.line + (h.bytes + 24) ≤ d.len → s.queueRoom (h.bytes + 24) = true →
        bytes = (u.dramRead (d.src + j.line) (h.bytes + 24) ecc).1 → Answers (.playClip n ecc) s fun t =>
          t.codec.queue = s.codec.queue ++ [⟨bytes, true, d.first && h.ty == 1 && j.out == 0, none⟩] ∧
          ∃ k, t.frontJob n = some k ∧ k.line = j.line + (h.bytes + 24 + 63) / 64 * 64 ∧ k.ended = decide (d.len ≤ k.line)))) ∧
  (∀ (s : State) (n : Fin 32) (j : CodecJob) (l : List CodecJob), s.up = true → s.codec.lanes[n].jobs = j :: l → j.ended = true →
    exec (.codecJobDone n) s = .next ((((s.storeWord (j.desc + 28) (BitVec.ofNat 32 (1 + 2 * (decide (j.cause ≠ 0)).toNat +
      4 * j.cause + 65536 * j.ticket.toNat))).onLane n fun x => { x with jobs := l }).raiseIf
      (j.cause != 0 && (j.cause != 3 || (s.jobDesc j).stop)) (195 + 4 * n)).raiseIf (s.jobDesc j).notify (194 + 4 * n)))

/-! ## Zhevlum Link -/

/-- R197, R199, R202, R204, R224: EN, a retry once RETRY_MS have passed, and RETRAIN start a full training with the capability
word that ZL_p_CFG asks for; a failed quick one becomes a full one and a failed full one leaves the port down with event 2; the
fourth identical frame with correct CRCs accepts the partner's word pair, and the frame that completes the exchange brings the
port up from codeword 0 with an alignment block on the lane; the rate switches after mutual acceptance and 64 markers more; WAKE
waits for the next training. R206, R207, R224: a port that loses lock, waits 2 µs for an acknowledgement or 8 µs for a remap
goes down: its queued packets are counted as dropped, RETRAINS counts, events 1 and its own follow, and it trains again from
what it kept, at the version and on the lanes of before where they are still offered; EN 0 takes it down for good. -/
def Obligations.PortsTrainAndGoDown : Prop :=
  ((∀ (s : State) (p : Fin 4), s.up = true →
     (s.bit (F.ZL_CFG_EN p) = false → Answers (.portEnable p) s fun t => t.bit (F.ZL_CFG_EN p) = true ∧ trainsAnew p s t) ∧
     (s.bit (F.ZL_CFG_EN p) = true → s.get (F.ZL_STATUS_STATE p) = 0 ∨ s.get (F.ZL_STATUS_STATE p) = 4 →
       s.link.port[p].failedAt + max 1 (s.get (F.ZL_CFG_RETRY_MS p)) * 1000000 ≤ s.clock →
       Answers (.trainingRetry p) s (trainsAnew p s)) ∧
     (s.bit (F.ZL_CFG_EN p) = true → Answers (.portRetrain p) s (trainsAnew p s)) ∧
     (s.get (F.ZL_STATUS_STATE p) = 1 → s.link.port[p].train.quick = true → Answers (.trainingFailed p) s (trainsAnew p s)) ∧
     (s.get (F.ZL_STATUS_STATE p) = 1 → s.link.port[p].train.quick = false →
       exec (.trainingFailed p) s =
         .next (((s.put (F.ZL_STATUS_STATE p) 0).onPort p fun l => { l with failedAt := s.clock }).raise (48 * p + 2))) ∧
     exec (.portWake p) s = .next (s.put (F.ZL_CFG_WAKE p) 1)) ∧
   (∀ (s : State) (p : Fin 4) (v : Nat), s.up = true → s.resolved p = some v → 0 < v → s.get (F.ZL_STATUS_STATE p) = 1 →
     s.link.port[p].train.accepted = true → s.link.port[p].train.gotAccepted = true → 64 ≤ s.link.port[p].train.markers →
     s.link.port[p].train.ver = 0 →
     exec (.linkRateSwitch p) s = .next (s.onPort p fun l => { l with train := { l.train with
       ver := v, lanes := Vector.replicate 4 LaneTraining.reset, gotAdapted := false } })) ∧
   (∀ (s : State) (p lane : Fin 4) (f : TrainFrame), s.mode = .run → s.bit (F.ZL_CFG_EN p) = true → s.bit (F.PLL_CTL_LOCK 5) = true →
     s.get (F.ZL_STATUS_STATE p) = 1 → f.marker = 0xE4B17A2C#32 → s.link.port[p].train.mask.testBit lane = true →
     f.capCrc = crc16Of 4 f.cap.toNat → f.identCrc = crc16Of 4 f.ident.toNat → f.statusCrc = crc16Of 2 f.status.toNat →
     f.status.toNat / 8 % 4 = s.link.port[p].train.ver → f.cap ≠ 0 →
     (s.link.port[p].train.accepted = false → s.link.port[p].train.lanes[lane].cap = f.cap →
       s.link.port[p].train.lanes[lane].ident = f.ident → 3 ≤ s.link.port[p].train.lanes[lane].same →
       Answers (.trainingFrameRx p lane f) s fun t =>
         t.reg (F.ZL_PCAP_addr p) = f.cap ∧ t.reg (F.ZL_PID_addr p) = f.ident ∧ t.link.port[p].train.accepted = true ∧
         t.link.port[p].train.lanes[lane].locked = true) ∧
     (s.link.port[p].train.accepted = true → s.link.port[p].train.gotAccepted = true → f.status.getLsbD 2 = true →
       s.resolved p = some s.link.port[p].train.ver →
       ((s.reg (F.ZL_LCAP_addr p) &&& s.reg (F.ZL_PCAP_addr p)).toNat / 16).testBit lane = true →
       Answers (.trainingFrameRx p lane f) s fun t =>
         t.get (F.ZL_STATUS_STATE p) = 2 ∧ t.evStatus (48 * p) = true ∧ t.link.port[p].cwSeq = 0 ∧ t.link.port[p].rxSeq = 255 ∧
         t.link.port[p].ver = s.link.port[p].train.ver ∧ (t.get (F.ZL_STATUS_RX_LANES p)).testBit lane = true ∧
         ∃ b, Out.line p lane (lineLevels s.link.port[p].train.ver (alignBits b)) ∈ t.out ∧ b.cwCount = 0 ∧ b.oot = false)) ∧
   (∀ (s : State) (p lane : Fin 4) (f : TrainFrame), s.mode = .run → f.marker ≠ 0xE4B17A2C#32 →
     exec (.trainingFrameRx p lane f) s = .next s)) ∧
  ((∀ (s : State) (p : Fin 4) (c : Instr), s.up = true → s.portUp p = true →
     c = .portDown p ∨
       (c = .ackTimeout p ∧ ∃ r ∈ s.link.port[p].replay,
         (s.link.port[p].paused = none ∧ r.firstAt + 2000 ≤ s.clock) ∨ 4 ≤ r.sends) ∨
       (c = .remapTimeout p ∧ ∃ receive a, s.link.port[p].remapAt receive = some a ∧ a + 8000 ≤ s.clock) →
     Answers c s fun t =>
       t.get (F.ZL_STATUS_STATE p) = 1 ∧ t.link.port[p].q1 = [] ∧ t.link.port[p].q2 = [] ∧
       t.link.port[p].q3 = [] ∧ t.link.port[p].replay = [] ∧ t.link.port[p].cwSeq = 0 ∧
       t.get (F.ZL_ERR_RETRAINS p) = min (s.get (F.ZL_ERR_RETRAINS p) + 1) (2 ^ (F.ZL_ERR_RETRAINS p).w - 1) ∧
       t.evStatus (48 * p + 1) = true ∧ (c = .ackTimeout p → t.evStatus (48 * p + 5) = true) ∧
       (c = .remapTimeout p → t.evStatus (48 * p + 4) = true) ∧
       ∀ lanes, lanes = s.get (F.ZL_STATUS_RX_LANES p) &&& s.get (F.ZL_STATUS_TX_LANES p) →
         (lanes ≠ 0 → s.link.port[p].ver ≤ capVer (s.capOf p) → lanes &&& capLanes (s.capOf p) = lanes →
           t.link.port[p].train.quick = true ∧ t.link.port[p].train.ver = s.link.port[p].ver ∧
           t.link.port[p].train.mask = lanes ∧ ∀ i : Fin 4, t.link.port[p].train.lanes[i].adapted = true) ∧
         (lanes = 0 → t.link.port[p].train.quick = false ∧ t.link.port[p].train.ver = 0 ∧
           t.link.port[p].train.mask = s.get (F.ZL_CFG_LANE_EN p))) ∧
   (∀ (s : State) (p : Fin 4), s.up = true → Answers (.portDisable p) s fun t =>
     t.bit (F.ZL_CFG_EN p) = false ∧ t.get (F.ZL_STATUS_STATE p) = 0 ∧ t.link.port[p].q1 = [] ∧ t.link.port[p].q2 = [] ∧
     t.link.port[p].q3 = []) ∧
   (∀ (s : State) (p : Fin 4), s.up = true →
     exec (.zlPortClr p) s = .next (((s.setReg (F.ZL_ERR_addr p) 0).setReg (F.ZL_DROP_addr p) 0).setReg (F.ZL_TT_COUNT_addr p) 0)))

/-- R191, R196, R206, R207: a lane that fails leaves the receive mask, the remap of the receive direction starts and an
out-of-turn block goes out on every transmit lane; such a block received restripes the transmitter onto its mask with a replay of
every codeword not acknowledged, and its copies change nothing; the end of the last remap brings the port up again, with event 3,
its time not counted for acknowledgement; a scheduled block goes out once on each lane at its boundary, and one received marks its
lane, the lanes of one count within 40 ns being deskewed. -/
def Obligations.LanesRemap : Prop :=
  (∀ (s : State) (p lane : Fin 4), s.up = true → s.portUp p = true → (s.get (F.ZL_STATUS_RX_LANES p)).testBit lane = true →
    s.get (F.ZL_STATUS_RX_LANES p) ≠ 2 ^ lane.val →
    Answers (.laneFail p lane) s fun t =>
      t.get (F.ZL_STATUS_RX_LANES p) = s.get (F.ZL_STATUS_RX_LANES p) - 2 ^ lane.val ∧ t.get (F.ZL_STATUS_STATE p) = 3 ∧
      t.link.port[p].rxRemap = some (s.link.port[p].rxRemap.getD s.clock) ∧ t.link.port[p].txRemap = s.link.port[p].txRemap ∧
      t.link.port[p].replay = s.link.port[p].replay ∧
      ∀ i : Fin 4, (s.get (F.ZL_STATUS_TX_LANES p)).testBit i = true →
        ∃ b, Out.line p i (lineLevels s.link.port[p].ver (alignBits b)) ∈ t.out ∧ b.oot = true ∧
          b.rxMask = BitVec.ofNat 4 (s.get (F.ZL_STATUS_RX_LANES p) - 2 ^ lane.val)) ∧
  (∀ (s : State) (p lane : Fin 4) (b : AlignBlock) (tx mask : Nat), s.up = true → s.portUp p = true → b.am = 0x3B5DC60E#32 →
    b.crc = crc16Of 8 (alignValue b) → tx = s.get (F.ZL_STATUS_TX_LANES p) → mask = b.rxMask.toNat →
    (b.oot = false → Answers (.alignmentBlockRx p lane b) s fun t =>
      t.regs = s.regs ∧ t.out = s.out ∧ t.link.port[p].marks[lane] = some (b.cwCount, s.clock) ∧
      t.link.port[p].rx.blocks.testBit lane = true ∧
      (s.get (F.ZL_STATUS_RX_LANES p) ≠ 0 → (∀ i : Fin 4, (s.get (F.ZL_STATUS_RX_LANES p)).testBit i = true →
        ∃ a, t.link.port[p].marks[i] = some (b.cwCount, a) ∧ a ≤ s.clock ∧ s.clock ≤ a + 40) →
        t.link.port[p].deskewed = true)) ∧
    (b.oot = true → tx &&& mask = tx → exec (.alignmentBlockRx p lane b) s = .next s) ∧
    (b.oot = true → tx &&& mask ≠ tx → tx &&& mask ≠ 0 → Answers (.alignmentBlockRx p lane b) s fun t =>
      t.get (F.ZL_STATUS_TX_LANES p) = tx &&& mask ∧ t.get (F.ZL_STATUS_STATE p) = 3 ∧
      t.link.port[p].txRemap = some (s.link.port[p].txRemap.getD s.clock) ∧ t.link.port[p].rxRemap = s.link.port[p].rxRemap ∧
      t.link.port[p].resend = s.link.port[p].replay.map (fun r => r.cw.seq) ∧
      t.get (F.ZL_ERR_REPLAYS p) = min (s.get (F.ZL_ERR_REPLAYS p) + 1) (2 ^ (F.ZL_ERR_REPLAYS p).w - 1)) ∧
    (b.oot = true → tx ≠ 0 → tx &&& mask = 0 → Answers (.alignmentBlockRx p lane b) s fun t =>
      t.get (F.ZL_STATUS_STATE p) = 1 ∧ t.evStatus (48 * p + 1) = true)) ∧
  (∀ (s : State) (p : Fin 4) (receive : Bool) (a : Nat), s.up = true → s.portUp p = true → s.link.port[p].paused = some a →
    s.link.port[p].remapAt receive ≠ none →
    Answers (.remapComplete p receive) s fun t =>
      t.link.port[p].remapAt receive = none ∧ t.link.port[p].remapAt (!receive) = s.link.port[p].remapAt (!receive) ∧
      t.get (F.ZL_ERR_REMAPS p) = min (s.get (F.ZL_ERR_REMAPS p) + 1) (2 ^ (F.ZL_ERR_REMAPS p).w - 1) ∧
      t.evStatus (48 * p + 3) = true ∧
      (s.get (if receive then F.ZL_STATUS_RX_LANES p else F.ZL_STATUS_TX_LANES p) ≠ capLanes (s.reg (F.ZL_LCAP_addr p)) →
        t.evStatus (48 * p + 6) = true) ∧
      (s.link.port[p].remapAt (!receive) ≠ none → t.get (F.ZL_STATUS_STATE p) = 3 ∧
        t.link.port[p].replay = s.link.port[p].replay) ∧
      (s.link.port[p].remapAt (!receive) = none → t.get (F.ZL_STATUS_STATE p) = 2 ∧ t.link.port[p].paused = none ∧
        t.link.port[p].replay = s.link.port[p].replay.map fun r =>
          { r with firstAt := r.firstAt + (s.clock - max a r.firstAt) })) ∧
  (∀ (s : State) (p lane : Fin 4), s.up = true → s.portUp p = true → (s.get (F.ZL_STATUS_TX_LANES p)).testBit lane = true →
    (672 ≤ s.link.port[p].tx.units → s.link.port[p].tx.blocks.testBit lane = false →
      Answers (.alignmentBlockTx p lane) s fun t =>
        t.out = .line p lane (lineLevels s.link.port[p].ver (alignBits (s.alignBlock p lane false))) :: s.out ∧ t.regs = s.regs ∧
        (t.link.port[p].tx = Stripe.reset ∨ t.link.port[p].tx.blocks.testBit lane = true)) ∧
    (s.link.port[p].tx.units < 672 ∨ s.link.port[p].tx.blocks.testBit lane = true →
      exec (.alignmentBlockTx p lane) s = .next s))

/-- R191–R195, R205, R206, R221, R222: a new codeword takes the next number and joins the replay buffer, a replayed one keeps its
number and cells and carries RETX, and either goes out on the lanes as a codeword of the code, its symbols striped; its message and
the cells in it read back. A codeword in order is taken and acknowledged, one out of order answered with NAK, one that cannot be
decoded not received; and a time token that echoes one of the last eight gives the delay and offset of its exchange. -/
def Obligations.CodewordsInOrder : Prop :=
  (∀ m : Nat, m < 2 ^ 5140 → rsDecode (rsEncode m) = some (m, [])) ∧
  (∀ cw : Codeword, cw.cells.length = 10 → (∀ c ∈ cw.cells, c.payload.length = 62) → parseCodeword (cwMessage cw) = cw) ∧
  (∀ (s : State) (p : Fin 4) (lanes : List Nat) (sends : Codeword → State → Prop), s.up = true → s.portUp p = true →
    s.link.port[p].txRemap = none → s.link.port[p].tx.units < 672 → lanes = maskLanes (s.get (F.ZL_STATUS_TX_LANES p)) →
    sends = (fun cw t => t.link.port[p].tx = s.link.port[p].tx.next lanes.length ∧ t.regs = s.regs ∧ ∀ x ∈ lanes.zipIdx,
      Out.line p x.1 (lineLevels s.link.port[p].ver (laneBits (rsEncode (cwMessage cw)) s.link.port[p].tx.phase lanes.length x.2)) ∈
        t.out) →
    (s.link.port[p].resend = [] → s.link.port[p].replay.length < 128 →
      Answers (.codewordTx p) s fun t => ∃ cw, sends cw t ∧ cw.seq = s.link.port[p].cwSeq ∧
        cw.ack = s.link.port[p].rxSeq ∧ cw.nak = s.link.port[p].nak ∧ cw.rpl = s.link.port[p].rpl ∧
        cw.echo = s.link.port[p].echo ∧ cw.retx = false ∧ cw.cells.length = 10 ∧
        t.link.port[p].cwSeq = s.link.port[p].cwSeq + 1 ∧
        t.link.port[p].replay = s.link.port[p].replay ++ [⟨cw, s.clock, 1⟩]) ∧
    (∀ q l r, s.link.port[p].resend = q :: l → s.link.port[p].replay.find? (fun r => r.cw.seq == q) = some r →
      Answers (.codewordTx p) s fun t => ∃ cw, sends cw t ∧ cw.seq = q ∧ cw.cells = r.cw.cells ∧
        cw.ack = s.link.port[p].rxSeq ∧ cw.retx = true ∧ t.link.port[p].resend = l ∧
        t.link.port[p].cwSeq = s.link.port[p].cwSeq)) ∧
  (∀ (s b : State) (p : Fin 4) (line : List (List (BitVec 2))) (cw : Codeword), s.up = true → s.portUp p = true →
    b = s.onPort p (fun l => l.boundary (s.get (F.ZL_STATUS_RX_LANES p))) →
    (∀ i, b.lostLane p = some i → exec (.codewordRx p line) s = .next (b.failLane p i)) ∧
    (b.lostLane p = none → b.decodeLine p line = none → exec (.codewordRx p line) s =
      .next (b.onPort p fun l => { l with rx := l.rx.next (maskLanes (s.get (F.ZL_STATUS_RX_LANES p))).length })) ∧
    (b.lostLane p = none → b.decodeLine p line = some (cw, []) → s.badLane p = none → cw.nak = false →
      (cw.seq = s.link.port[p].rxSeq + 1 → Answers (.codewordRx p line) s fun t =>
        t.link.port[p].rxSeq = cw.seq ∧ t.link.port[p].nak = false ∧ t.link.port[p].echo = cw.rpl ∧ t.link.port[p].acked = cw.ack) ∧
      (cw.seq ≠ s.link.port[p].rxSeq + 1 → Answers (.codewordRx p line) s fun t =>
        t.link.port[p].rxSeq = s.link.port[p].rxSeq ∧ t.link.port[p].nak = true ∧ t.link.port[p].acked = cw.ack ∧
        t.link.port[p].rxPkts = s.link.port[p].rxPkts))) ∧
  (∀ (s : State) (p : Fin 4) (k : TimeToken) (t4 : BitVec 48), s.up = true → s.portUp p = true →
    t4 = s.now48 - BitVec.ofInt 48 (s.phyDelay p) →
    (k.retx = true → exec (.timeTokenRx p k) s = .next (s.count (F.ZL_TT_COUNT_BAD p))) ∧
    (k.retx = false → s.link.port[p].tokens.find? (fun x => x.id == k.echoId) = none →
      exec (.timeTokenRx p k) s = .next ((s.onPort p fun l =>
        { l with gotToken := some ⟨k.id, t4.extractLsb' 16 32, t4.extractLsb' 0 16⟩ }).count (F.ZL_TT_COUNT_BAD p))) ∧
    (∀ x, k.retx = false → s.link.port[p].tokens.find? (fun x => x.id == k.echoId) = some x → s.timePort ≠ some p →
      exec (.timeTokenRx p k) s = .next ((((s.onPort p fun l =>
          { l with gotToken := some ⟨k.id, t4.extractLsb' 16 32, t4.extractLsb' 0 16⟩ }).putS (F.ZL_TT_DELAY_DELAY p)
          ((diff48 t4 (x.ns ++ x.frac) - diff48 (k.txNs ++ k.txFrac) (k.rxNs ++ k.rxFrac)) / 2)).putS (F.ZL_TT_OFFSET_OFFSET p)
          ((diff48 (k.rxNs ++ k.rxFrac) (x.ns ++ x.frac) - diff48 t4 (k.txNs ++ k.txFrac) +
            s.getS (F.ZL_TT_ASYM_ASYM p) * 256) / 2)).wrapCount (F.ZL_TT_COUNT_GOOD p))))

/-- R209, R214: the payload of a stream packet reads back as the packet, and a local stream that has accepted a sequence
number of a session does not accept that number of that session again next. -/
def Obligations.StreamPacketsAreTakenOnce : Prop :=
  (∀ k : StreamPacket, k.stream < 4096 → 1 ≤ k.data.length → k.data.length ≤ 4096 → parseStream k.bytes = some k) ∧
  (∀ (l : LocalStream) (sync sync' : Bool) (session : Byte) (ssn : Word), (l.take sync session ssn).2.1 = .accept →
    ((l.take sync session ssn).1.take sync' session ssn).2.1 ≠ .accept)

/-- R211, R213–R216, R223, R225, R396: a packet on a transmit entry carries the next number and starts a new session after
SYNC; a write of ZL_LSTREAM restarts the entry; the stream table is read and written through its index; raw data goes to the
raw ring, or raises event 41 where it is full; and the hub writes an event packet to its ring once. -/
def Obligations.StreamsRingsAndTables : Prop :=
  (∀ (s : State) (k : Fin 64), s.up = true → exec (.txsSync k) s = .next (s.put (F.ZL_TXS_SYNC k) 1)) ∧
  (∀ (s : State) (k : Fin 64) (e : Nat × List Byte × Bool), s.up = true → s.bit (F.ZL_TXS_EN k) = true →
    s.link.tx.find? (fun e => e.1 == k.val) = some e →
    Answers (.streamTxPacket k) s fun t =>
      t.get (F.ZL_TXSSN_NEXT k) = (s.get (F.ZL_TXSSN_NEXT k) + 1) % 2 ^ 32 ∧ t.bit (F.ZL_TXS_SYNC k) = false ∧
      t.get (F.ZL_TXS_SESSION k) = (s.get (F.ZL_TXS_SESSION k) + (s.bit (F.ZL_TXS_SYNC k)).toNat) % 256 ∧
      t.link.tx = (if e.2.1.length ≤ 4096 then s.link.tx.erase e else (e.1, e.2.1.drop 4096, true) :: s.link.tx.erase e)) ∧
  (∀ (s : State) (k : Fin 8) (value : Word), s.up = true → Answers (.lstreamWrite k value) s fun t =>
    t.link.ls[k] = LocalStream.reset ∧ t.get (F.ZL_LSTREAM_SESSION k) = 0 ∧ t.get (F.ZL_LSTREAM_STREAM k) = (F.ZL_LSTREAM_STREAM k).of value ∧
    t.get (F.ZL_LSTREAM_EN k) = (F.ZL_LSTREAM_EN k).of value ∧ ∀ j : Fin 8, j ≠ k → t.link.ls[j] = s.link.ls[j]) ∧
  (∀ (s : State) (value : Word), s.up = true →
    (Answers (.stabDataAccess (some value)) s fun t =>
      t.get F.ZL_STAB_ADDR_INDEX = (s.get F.ZL_STAB_ADDR_INDEX + 1) % 4096 ∧
      ∀ i, t.stabEntry i = if i = s.get F.ZL_STAB_ADDR_INDEX then value.setWidth 8 else s.stabEntry i) ∧
    (Answers (.stabDataAccess none) s fun t =>
      t.get F.ZL_STAB_ADDR_INDEX = (s.get F.ZL_STAB_ADDR_INDEX + 1) % 4096 ∧ t.link = s.link ∧
      t.rdata = (s.stabEntry (s.get F.ZL_STAB_ADDR_INDEX)).setWidth 32)) ∧
  (∀ (s : State) (p : Fin 4) (data : List Byte), s.up = true → s.rawPort p = true → s.portUp p = true →
    (s.rawUnits ≤ s.rawUsed + (data.length + 63) / 64 → exec (.rawPacketRx p data) s = .next (s.raise 41)) ∧
    (∀ (u : State) (base first : Nat), s.rawUsed + (data.length + 63) / 64 < s.rawUnits →
      base = 4096 * s.get F.ZL_RAW_BASE_BASE → first = 64 * (s.rawUnits - s.get F.ZL_RAW_WPTR_WR_64B) →
      u = (if first < data.length then
          (s.requestWrite .rawRing (base + 64 * s.get F.ZL_RAW_WPTR_WR_64B) (data.take first)).requestWrite .rawRing base (data.drop first)
        else s.requestWrite .rawRing (base + 64 * s.get F.ZL_RAW_WPTR_WR_64B) data) →
      exec (.rawPacketRx p data) s = .next (u.put F.ZL_RAW_WPTR_WR_64B
        ((s.get F.ZL_RAW_WPTR_WR_64B + (data.length + 63) / 64) % s.rawUnits)))) ∧
  (∀ (s : State) (value : Word) (old new : Nat), s.up = true → old = s.get F.ZL_RAW_RPTR_RD_64B →
    new = F.ZL_RAW_RPTR_RD_64B.of value →
    ((∀ p : Fin 4, s.rawPort p = false) → exec (.rawRptrWrite value) s = .next (s.put F.ZL_RAW_RPTR_RD_64B new)) ∧
    (∀ p, (List.finRange 4).find? s.rawPort = some p →
      exec (.rawRptrWrite value) s = .next ((s.put F.ZL_RAW_RPTR_RD_64B new).onPort p fun l =>
        { l with credits := l.credits + (old % 64 + (new + s.rawUnits - old % s.rawUnits) % s.rawUnits) / 64 }))) ∧
  (∀ (s : State) (x y lost : Byte) (source : BitVec 10) (tb : Word) (a : Nat), s.up = true → s.bit F.EVT_UPD_BASE_BASE = true →
    a = s.get F.EVT_UPD_BASE_BASE * 1024 + 16 * s.get F.EVT_UPD_PTR_WR →
    ((x, y, source, tb) ∈ s.evt.recent → exec (.eventPacketRx x y source lost tb) s = .next s) ∧
    ((x, y, source, tb) ∉ s.evt.recent → (s.get F.EVT_UPD_PTR_WR + 1) % 64 = s.get F.EVT_UPD_PTR_RD →
      exec (.eventPacketRx x y source lost tb) s = .next (s.put F.EVT_UPD_PTR_OVERFLOW 1)) ∧
    ((x, y, source, tb) ∉ s.evt.recent → (s.get F.EVT_UPD_PTR_WR + 1) % 64 ≠ s.get F.EVT_UPD_PTR_RD →
      meetsLedgers a 16 = false →
      Answers (.eventPacketRx x y source lost tb) s fun t =>
        t.get F.EVT_UPD_PTR_WR = (s.get F.EVT_UPD_PTR_WR + 1) % 64 ∧
        t.word a = BitVec.ofNat 32 (x.toNat + 256 * y.toNat + 65536 * source.toNat) ∧ t.word (a + 4) = lost.setWidth 32 ∧
        t.word (a + 8) = tb ∧ t.word (a + 12) = s.now ∧ (x, y, source, tb) ∈ t.evt.recent))

/-- R210, R212, R218–R220, R386: a packet that breaks its format is dropped and counted; a request with the session tag is
performed, its words in address order, and restarts the idle timer; any other is dropped, counted and raises event 35; a
response of the present epoch goes to its ring and raises event 32, any other is stale; the tile's own request image is sent
with its SRC and EPOCH, to itself if it names itself. -/
def Obligations.ManagementIsGuardedByTheSession : Prop :=
  (∀ (s : State) (p : Fin 4) (k : Packet), s.up = true → s.portUp p = true → k.ty = 1 ∨ k.ty = 2 ∨ k.ty = 6 → streamHead k = none →
    Answers (.packetRx p k) s fun t => t.evStatus (48 * p + 8) = true ∧
      t.get (F.ZL_DROP_BADPKT p) = min (s.get (F.ZL_DROP_BADPKT p) + 1) (2 ^ (F.ZL_DROP_BADPKT p).w - 1) ∧
      t.link.port[p].rxPkts = s.link.port[p].rxPkts.erase k) ∧
  (∀ (s u : State) (p : Fin 4) (k : Packet), s.up = true → s.portUp p = true → k.ty = 3 ∨ k.ty = 4 ∨ k.ty = 5 →
    u = s.onPort p (fun l => { l with rxPkts := l.rxPkts.erase k }) →
    (∀ q, s.hop (k.data.getD 0 0).toNat (k.data.getD 1 0).toNat ((k.data.getD 4 0).getLsbD 0) = .port q →
      exec (.packetRx p k) s = .next (u.enqueue State.raise q false k)) ∧
    (s.hop (k.data.getD 0 0).toNat (k.data.getD 1 0).toNat ((k.data.getD 4 0).getLsbD 0) = .here →
      (k.ty = 4 → exec (.packetRx p k) s =
        exec (.readinessReportRx (k.data.getD 2 0) (k.data.getD 3 0) (bytesWord k.data 8) (bytesWord k.data 12)) u) ∧
      (k.ty = 5 → exec (.packetRx p k) s =
        exec (.eventPacketRx (k.data.getD 2 0) (k.data.getD 3 0)
          (BitVec.ofNat 10 ((k.data.getD 8 0).toNat + 256 * (k.data.getD 9 0).toNat)) (k.data.getD 10 0) (bytesWord k.data 12)) u))) ∧
  (∀ (s : State) (p : Fin 4) (req : MgmtReq), s.up = true → s.portUp p = true → s.sessionOk req = false →
    exec (.mgmtRead p req) s = .next ((s.count F.ZL_MGMT_STAT_REFUSED).raise 35) ∧
    exec (.mgmtWrite p req) s = .next ((s.count F.ZL_MGMT_STAT_REFUSED).raise 35) ∧
    exec (.mgmtWriteResp p req) s = .next ((s.count F.ZL_MGMT_STAT_REFUSED).raise 35)) ∧
  (∀ (s : State) (p : Fin 4) (req : MgmtReq) (w : Word), s.up = true → s.portUp p = true → s.sessionOk req = true →
    req.countM1 = 0 → req.data = [w] →
    exec (.mgmtWrite p req) s = .next (s.restartIdle.access req.addr.toNat w) ∧
    (Answers (.mgmtWriteResp p req) s fun t => ∃ bs, t = ({ s.restartIdle.access req.addr.toNat w with
        free := (s.restartIdle.access req.addr.toNat w).free + 8 } : State).routeMgmt State.mgmtResponse true bs ∧
      bs.take 2 = [req.srcX, req.srcY]) ∧
    (∀ v u, s.restartIdle.readReg req.addr.toNat = some (v, u) →
      Answers (.mgmtRead p req) s fun t => ∃ bs, t = u.routeMgmt State.mgmtResponse true bs ∧
        bs.take 2 = [req.srcX, req.srcY] ∧ bytesWord bs 20 = v ∧ bs.getD 7 0 = 0)) ∧
  (∀ (s : State) (bytes : List Byte), s.up = true →
    ((bytes.getD 6 0).toNat / 4 ≠ s.get F.ZL_MGMT_EPOCH_EPOCH →
      exec (.mgmtResponseRx bytes) s = .next ((s.count F.ZL_MGMT_STAT_STALE).raise 34)) ∧
    ((bytes.getD 6 0).toNat / 4 = s.get F.ZL_MGMT_EPOCH_EPOCH → s.bit F.ZL_MRX_BASE_BASE = true →
      ((s.get F.ZL_MRX_PTR_WR + 1) % 64 = s.get F.ZL_MRX_PTR_RD →
        exec (.mgmtResponseRx bytes) s = .next ((s.put F.ZL_MRX_PTR_OVERFLOW 1).raise 33)) ∧
      ((s.get F.ZL_MRX_PTR_WR + 1) % 64 ≠ s.get F.ZL_MRX_PTR_RD →
        exec (.mgmtResponseRx bytes) s = .next (((s.store (4096 * s.get F.ZL_MRX_BASE_BASE + 64 * s.get F.ZL_MRX_PTR_WR)
          (bytes.take 62)).put F.ZL_MRX_PTR_WR (s.get F.ZL_MRX_PTR_WR + 1)).raise 32)))) ∧
  (∀ (s : State) (bs : List Byte), s.up = true → bs = s.requestImage →
    (∀ q, s.hop (bs.getD 0 0).toNat (bs.getD 1 0).toNat ((bs.getD 4 0).getLsbD 0) = .port q →
      exec .mgmtSend s = .next ((s.put F.ZL_MTX_CTL_SEND 0).enqueue State.raise q false ⟨3, false, bs⟩)) ∧
    (s.hop (bs.getD 0 0).toNat (bs.getD 1 0).toNat ((bs.getD 4 0).getLsbD 0) = .nowhere →
      exec .mgmtSend s = .next (((s.put F.ZL_MTX_CTL_SEND 0).count F.ZL_ROUTE_DROP_COUNT).raise 36)) ∧
    (s.hop (bs.getD 0 0).toNat (bs.getD 1 0).toNat ((bs.getD 4 0).getLsbD 0) = .here → s.sessionOk (parseMgmt bs).2 = false →
      (parseMgmt bs).1 ≠ 3 →
      exec .mgmtSend s = .next (((s.put F.ZL_MTX_CTL_SEND 0).count F.ZL_MGMT_STAT_REFUSED).raise 35)) ∧
    bs.length = 62 ∧ bs.getD 2 0 = BitVec.ofNat 8 (s.get F.ZL_ADDR_X) ∧ bs.getD 3 0 = BitVec.ofNat 8 (s.get F.ZL_ADDR_Y) ∧
    (bs.getD 6 0).toNat / 4 = s.get F.ZL_MGMT_EPOCH_EPOCH % 64)

/-! ## Time base and Ethernet -/

/-- R229–R235, R242: a measurement within the jump limit runs the loop, one beyond it enters GUST, and in ACQUIRE or with
FORCE set it steps the time base, and what was stepped over fires; a lost source, by its own test for each SRC, leaves only FOLLOW; a write of SRC keeps the integrator and enters DOLDRUMS
from every state but ACQUIRE; and the rate and the integrator stay within the limit. -/
def Obligations.TimeBaseFollowsItsSource : Prop :=
  (∀ (s : State) (value : Word) (e p : Int), s.up = true → s.get F.TB_CTL_SRC = 3 →
    e = value.toInt * 65536 + s.tb.swFrac.toNat → p = e * 65536 / 2 ^ s.get F.TB_GAIN_KP →
    (s.bit F.TB_CTL_FORCE = false → s.get F.TB_STATE_STATE = 1 ∨ s.get F.TB_STATE_STATE = 2 →
      e.natAbs ≤ s.get F.TB_JUMP_LIMIT_NS * 65536 →
      Answers (.tbSwErrWrite value) s fun t =>
        t.get F.TB_STATE_STATE = 1 ∧ t.tb.ns = s.tb.ns ∧ t.tb.frac = s.tb.frac ∧
        t.tb.integ = (if (s.tb.integ + p).natAbs < s.get F.TB_RATE_LIMIT_LIM then
          s.tb.integ + e * 65536 / 2 ^ s.get F.TB_GAIN_KI else s.tb.integ) ∧
        t.rate = max (-(s.get F.TB_RATE_LIMIT_LIM : Int)) (min (s.get F.TB_RATE_LIMIT_LIM) (t.tb.integ + p)) ∧
        (s.get F.TB_STATE_STATE = 2 → t.evStatus 914 = true)) ∧
    (s.bit F.TB_CTL_FORCE = false → s.get F.TB_STATE_STATE ≠ 0 → s.get F.TB_JUMP_LIMIT_NS * 65536 < e.natAbs →
      Answers (.tbSwErrWrite value) s fun t =>
        t.get F.TB_STATE_STATE = 3 ∧ t.tb.ns = s.tb.ns ∧ t.tb.integ = s.tb.integ ∧ t.evStatus 912 = true ∧
        t.get F.TB_GUST_COUNT = min (s.get F.TB_GUST_COUNT + 1) 65535) ∧
    (s.bit F.TB_CTL_FORCE = false → s.get F.TB_STATE_STATE = 3 → e.natAbs ≤ s.get F.TB_JUMP_LIMIT_NS * 65536 →
      Answers (.tbSwErrWrite value) s fun t => t.get F.TB_STATE_STATE = 3 ∧ t.rate = s.rate ∧ t.tb.integ = s.tb.integ) ∧
    (s.bit F.TB_CTL_FORCE = true ∨ s.get F.TB_STATE_STATE = 0 → Answers (.tbSwErrWrite value) s fun t => ∃ u : State,
      t = u.fireReached ∧ u.get F.TB_STATE_STATE = 1 ∧ u.bit F.TB_CTL_FORCE = false ∧ u.tb.integ = s.tb.integ ∧
      u.tb.ns ++ u.tb.frac = (s.tb.ns ++ s.tb.frac) + BitVec.ofInt 64 (e * 65536) ∧ u.get F.TB_STEP_AT_NS = u.tb.ns.toNat ∧
      u.rate = max (-(s.get F.TB_RATE_LIMIT_LIM : Int)) (min (s.get F.TB_RATE_LIMIT_LIM) s.tb.integ) ∧
      u.evStatus (if s.bit F.TB_CTL_FORCE then 915 else 916) = true)) ∧
  (∀ s : State, s.up = true → s.tb.srcLost = false →
    (s.get F.TB_CTL_SRC = 3 ∧ s.tb.lastMeas + max 1 (s.get F.TB_SW_TIMEOUT_MS) * 1000000 ≤ s.clock) ∨
      (s.get F.TB_CTL_SRC = 2 ∧ 2 ≤ s.tb.glMissed) ∨
      (s.get F.TB_CTL_SRC = 1 ∧ (s.timePort = none ∨ s.tb.lastMeas + 20000 ≤ s.clock)) →
    Answers .tbSourceLoss s fun t =>
      t.get F.TB_STATE_STATE = (if s.get F.TB_STATE_STATE = 1 then 2 else s.get F.TB_STATE_STATE) ∧ t.tb.integ = s.tb.integ ∧
      t.tb.ns = s.tb.ns ∧ t.tb.frac = s.tb.frac ∧ t.tb.srcLost = true ∧ t.evStatus 913 = true) ∧
  (∀ s : State, s.up = true → exec .tbForce s = .next (s.put F.TB_CTL_FORCE 1)) ∧
  (∀ (s : State) (value : Word), s.up = true →
    (F.TB_CTL_SRC.of value = s.get F.TB_CTL_SRC → Answers (.tbSrcWrite value) s fun t =>
      OnlyRegs [F.TB_CTL_addr] s t ∧ t.get F.TB_CTL_GL_IN = F.TB_CTL_GL_IN.of value ∧
      t.get F.TB_CTL_WAKE_STEP = F.TB_CTL_WAKE_STEP.of value ∧
      t.bit F.TB_CTL_FORCE = (s.bit F.TB_CTL_FORCE || F.TB_CTL_FORCE.of value == 1)) ∧
    (F.TB_CTL_SRC.of value ≠ s.get F.TB_CTL_SRC → Answers (.tbSrcWrite value) s fun t =>
      t.get F.TB_CTL_SRC = F.TB_CTL_SRC.of value ∧ t.tb.integ = s.tb.integ ∧ t.tb.ns = s.tb.ns ∧
      t.get F.TB_STATE_STATE = (if s.get F.TB_STATE_STATE = 0 then 0 else 2) ∧
      t.rate = max (-(s.get F.TB_RATE_LIMIT_LIM : Int)) (min (s.get F.TB_RATE_LIMIT_LIM) s.tb.integ))) ∧
  (∀ (s : State) (value : Word), s.up = true →
    (s.get F.TB_CTL_SRC = 0 → Answers (.tbRateWrite value) s fun t => t.tb.integ = t.rate ∧
      t.rate = max (-(s.get F.TB_RATE_LIMIT_LIM : Int)) (min (s.get F.TB_RATE_LIMIT_LIM) value.toInt)) ∧
    (s.get F.TB_CTL_SRC ≠ 0 → exec (.tbRateWrite value) s = .next s) ∧
    (Answers (.tbRateLimitWrite value) s fun t =>
      t.get F.TB_RATE_LIMIT_LIM = min 429496 (F.TB_RATE_LIMIT_LIM.of value) ∧ t.rate.natAbs ≤ t.get F.TB_RATE_LIMIT_LIM ∧
      t.tb.integ.natAbs ≤ t.get F.TB_RATE_LIMIT_LIM ∧ (s.rate.natAbs ≤ t.get F.TB_RATE_LIMIT_LIM → t.rate = s.rate))) ∧
  (∀ s : State, s.up = true → s.get F.TB_CTL_SRC = 2 → (s.glPeriod : Int) < 2 * (s.nowWide - s.tb.glNext) →
    exec .genlockEdgeMissing s = .next { s.count F.TB_GUST_MISSING with
      tb := { s.tb with glNext := s.tb.glNext + s.glPeriod, glMissed := s.tb.glMissed + 1 } }) ∧
  (∀ (s : State) (value : Word) (start : Int), s.up = true → start = s.wide (ns48 value.toNat 0) →
    (s.get F.TB_CTL_SRC ≠ 2 → exec (.glPhaseWrite value) s = .next (s.put F.TB_GL_PHASE_NS value.toNat)) ∧
    (s.get F.TB_CTL_SRC = 2 → s.nowWide ≤ start → exec (.glPhaseWrite value) s =
      .next { s.put F.TB_GL_PHASE_NS value.toNat with tb := { s.tb with glNext := start, glMissed := 0 } }) ∧
    (s.get F.TB_CTL_SRC = 2 → start < s.nowWide → s.glPeriod ≠ 0 → Answers (.glPhaseWrite value) s fun t =>
      s.nowWide ≤ t.tb.glNext ∧ t.tb.glNext < s.nowWide + s.glPeriod ∧ (t.tb.glNext - start) % s.glPeriod = 0))

/-- R228, R241–R243: a read of TB_NOW_NS latches its fraction; a capture fills its registers, counts, and overruns where the
last one was not read, a pulse below 8 ns being ignored, and a capture of the genlock input moves the expected edge on by a period
and measures; an output's edge, placed to 1/16 ns (to the nearest: the model's choice, log 8), its end, its enabling and a step of
its grid. -/
def Obligations.CapturesAndPulsesFollowTheGrid : Prop :=
  (∀ s : State, s.up = true →
    exec .tbNowRead s = .next { s.put F.TB_NOW_FRAC_FRAC (s.tb.frac.toNat / 65536) with rdata := s.tb.ns }) ∧
  (∀ (s : State) (k : Fin 4) (rising : Bool) (sixteenth : BitVec 4) (c : BitVec 48), s.up = true →
    s.get (F.TB_IN_CFG_EDGE k) = 3 ∨ s.get (F.TB_IN_CFG_EDGE k) = (if rising then 1 else 2) →
    c = (if s.bit F.TB_STATE_BACKUP then s.now48 else s.tb.ns ++ (sixteenth ++ 0#12)) →
    (∀ width, width < 8 → exec (.tbInCapture k rising sixteenth width) s = .next s) ∧
    ∃ u : State, u.get (F.TB_IN_NS_NS k) = c.toNat / 65536 ∧ u.get (F.TB_IN_FRAC_FRAC k) = c.toNat % 65536 ∧
      u.get (F.TB_IN_FRAC_COUNT k) = (s.get (F.TB_IN_FRAC_COUNT k) + 1) % 65536 ∧ u.evStatus (920 + k) = true ∧
      u.tb.unread.getLsbD k = true ∧ u.tb = { s.tb with unread := u.tb.unread } ∧
      (s.tb.unread.getLsbD k = true → u.bit (F.TB_IN_CFG_OVERRUN k) = true ∧ u.evStatus (924 + k) = true) ∧
      ∀ width, 8 ≤ width →
        (s.get F.TB_CTL_SRC ≠ 2 ∨ s.get F.TB_CTL_GL_IN ≠ k → exec (.tbInCapture k rising sixteenth width) s = .next u) ∧
        (s.get F.TB_CTL_SRC = 2 → s.get F.TB_CTL_GL_IN = k → exec (.tbInCapture k rising sixteenth width) s =
          .next ({ u with tb := { u.tb with glNext := s.tb.glNext + s.glPeriod, glMissed := 0 } }.measure
            (s.tb.glNext - s.wide c)))) ∧
  (∀ (s : State) (e : Int), s.get F.TB_STATE_STATE ≠ 0 → s.bit F.TB_CTL_FORCE = false →
    (s.measure e).get F.TB_ERR_NS_NS = (BitVec.ofInt 48 e).toNat / 65536 ∧
    (s.measure e).get F.TB_ERR_FRAC_FRAC = (BitVec.ofInt 48 e).toNat % 65536) ∧
  (∀ (s : State) (k : Fin 4), s.up = true →
    exec (.tbInRead k) s =
      .next { s with tb := { s.tb with unread := s.tb.unread &&& ~~~(1#4 <<< k.val) }, rdata := s.reg (F.TB_IN_NS_addr k) } ∧
    (s.tb.outs[k].armed = true → (s.tb.outs[k].next + 2048) / 4096 * 4096 ≤ s.nowWide →
      exec (.tbOutEdge k) s = .next (s.onOut k fun o => { o with
        high := true, since := (o.next + 2048) / 4096 * 4096, next := o.next + s.outPeriod k, armed := s.outPeriod k != 0 })) ∧
    (s.tb.outs[k].high = true → s.tb.outs[k].since + s.get (F.TB_OUT_WIDTH_NS k) * 65536 ≤ s.nowWide →
      exec (.tbOutPulseEnd k) s = .next (s.onOut k fun o => { o with high := false })) ∧
    (∀ start : Int, start = s.wide (ns48 (s.get (F.TB_OUT_START_NS k)) 0) + s.getS (F.TB_OUT_STEP_STEP k) * 4096 →
      Answers (.tbOutEnable k) s fun t =>
        t.bit (F.TB_OUT_CFG_EN k) = true ∧ t.tb.outs[k].origin = start ∧ t.tb.outs[k].high = false ∧
        t.get (F.TB_OUT_STEP_STEP k) = 0 ∧ (s.getS (F.TB_OUT_STEP_STEP k) ≠ 0 → t.evStatus (928 + k) = true) ∧
        (s.nowWide ≤ start → t.tb.outs[k].next = start ∧ t.tb.outs[k].armed = true) ∧
        (start < s.nowWide → s.outPeriod k = 0 → t.tb.outs[k].armed = false) ∧
        (start < s.nowWide → s.outPeriod k ≠ 0 → t.tb.outs[k].armed = true ∧ s.nowWide ≤ t.tb.outs[k].next ∧
          t.tb.outs[k].next < s.nowWide + s.outPeriod k ∧ (t.tb.outs[k].next - start) % s.outPeriod k = 0)) ∧
    (∀ value : BitVec 16,
      (s.bit (F.TB_OUT_CFG_EN k) = true → exec (.tbOutStep k value) s = .next ((s.onOut k fun o =>
        { o with
          origin := o.origin + value.toInt * 4096, next := o.next + value.toInt * 4096 }).raise
        (928 + k))) ∧
      (s.bit (F.TB_OUT_CFG_EN k) = false →
        exec (.tbOutStep k value) s = .next (s.put (F.TB_OUT_STEP_STEP k) value.toNat))))

/-- R244–R248, R251, R252: a frame for the port fills the next receive buffer and its descriptor, or raises event 3 with the
ring full; the next posted descriptor sends its frame with its FCS (its bits PRESUMED from IEEE 802.3, log 8), with the PTP time of
its departure in a one-step Sync, and queues its stamp, corrected by latency and PHY delay, where asked; a stamp that finds 16 entries is dropped and counted; and the three words of the PTP mapping come into
force together. -/
def Obligations.EthernetRingsAndStamps : Prop :=
  (∀ (s : State) (p : Fin 2) (f : List Byte) (ok : Bool) (ns : Word) (frac : BitVec 16) (n dev d room : Nat), s.up = true →
    s.bit (F.ETH_CFG_EN p) = true → s.bit (F.ETH_STATUS_LINK p) = true → n = s.get (F.ETH_RXR_SIZE_N p) → 2 ≤ n → n ≤ 256 →
    s.ethForUs p f = true → dev = s.get (F.ETH_RXR_PTR_DEV p) → d = s.get (F.ETH_RXR_BASE_BASE p) * 64 + 16 * dev →
    room = (s.word (d + 4)).toNat % 16384 →
    ((dev + 1) % n = s.get (F.ETH_RXR_PTR_SW p) → exec (.ethFrameRx p f ok ns frac) s = .next (s.raise (723 + 24 * p))) ∧
    ((dev + 1) % n ≠ s.get (F.ETH_RXR_PTR_SW p) → ptpEvent f = false →
      exec (.ethFrameRx p f ok ns frac) s = .next ((((s.store (s.word d).toNat (f.take room)).storeWord (d + 4)
        (BitVec.ofNat 32 (min room f.length + 2 ^ 16 + 2 ^ 18 * (!ok || decide (room < f.length)).toNat))).put (F.ETH_RXR_PTR_DEV p)
        ((dev + 1) % n)).raise (722 + 24 * p))) ∧
    (∀ st : BitVec 48, (dev + 1) % n ≠ s.get (F.ETH_RXR_PTR_SW p) → ptpEvent f = true →
      st = (ns ++ frac) + BitVec.ofInt 48 (s.getS (F.ETH_RX_LAT_LAT p) - s.phyDelay (4 + p)) →
      exec (.ethFrameRx p f ok ns frac) s = .next ((((((s.store (s.word d).toNat (f.take room)).storeWord (d + 4) (BitVec.ofNat 32
        (min room f.length + 2 ^ 16 + 2 ^ 17 + 2 ^ 18 * (!ok || decide (room < f.length)).toNat))).storeWord (d + 8)
        (st.extractLsb' 16 32)).storeWord (d + 12) (BitVec.ofNat 32 (st.toNat % 65536))).put (F.ETH_RXR_PTR_DEV p)
        ((dev + 1) % n)).raise (722 + 24 * p)))) ∧
  (∀ (s : State) (p : Fin 2) (ns : Word) (frac : BitVec 16) (n dev d : Nat) (w : Word) (f : List Byte) (st : BitVec 48),
    s.up = true → s.bit (F.ETH_CFG_EN p) = true → s.bit (F.ETH_STATUS_LINK p) = true →
    n = s.get (F.ETH_TXR_SIZE_N p) → 2 ≤ n → n ≤ 256 → dev = s.get (F.ETH_TXR_PTR_DEV p) → dev ≠ s.get (F.ETH_TXR_PTR_SW p) →
    d = s.get (F.ETH_TXR_BASE_BASE p) * 64 + 16 * dev → w = s.word (d + 4) →
    f = s.mem.readBytes (s.word d).toNat (w.toNat % 16384) →
    st = (ns ++ frac) + BitVec.ofInt 48 (s.getS (F.ETH_TX_LAT_LAT p) + s.phyDelay (4 + p)) →
    (w.getLsbD 17 = false → w.getLsbD 16 = false → exec (.ethFrameTx p ns frac) s = .next ((((s.emit (.ethFrame p (f ++ fcs f))).storeWord (d + 4)
      (w ||| 0x40000)).put (F.ETH_TXR_PTR_DEV p) ((dev + 1) % n)).raise (724 + 24 * p))) ∧
    (Answers (.ethFrameTx p ns frac) s fun t =>
      t.get (F.ETH_TXR_PTR_DEV p) = (dev + 1) % n ∧ t.evStatus (724 + 24 * p) = true ∧
      (w.getLsbD 17 = false → Out.ethFrame p (f ++ fcs f) ∈ t.out) ∧
      (w.getLsbD 17 = true → (∀ g, g = (s.oneStep f ((s.word (d + 8)).toNat % 16384) st).1 → Out.ethFrame p (g ++ fcs g) ∈ t.out) ∧
        (s.ptpTime (st.extractLsb' 16 32) = none → t.evStatus (728 + 24 * p) = true)) ∧
      (w.getLsbD 16 = false → t.tsq = s.tsq) ∧
      (w.getLsbD 16 = true → s.tsq[p].length < 16 → ∃ x : Stamp, t.tsq[p].getLast? = some x ∧ x.id = w.extractLsb' 20 12 ∧
        x.superseded = false ∧ x.ns = st.extractLsb' 16 32 ∧ x.frac = st.extractLsb' 0 16 ∧
        t.tsq[p].length = s.tsq[p].length + 1 ∧ t.evStatus (725 + 24 * p) = true) ∧
      (w.getLsbD 16 = true → 16 ≤ s.tsq[p].length → t.tsq = s.tsq ∧ t.bit (F.ETH_TSQ_CTL_OVERFLOW p) = true ∧
        t.get (F.ETH_TSQ_CTL_DROPS p) = min (s.get (F.ETH_TSQ_CTL_DROPS p) + 1) 65535 ∧ t.evStatus (726 + 24 * p) = true))) ∧
  (∀ (s : State) (ns : Word) (d : Int), d = s.wide (ns48 ns.toNat 0) / 65536 - s.tb.mapAt →
    s.ptpTime ns = if 2147483647 < d.natAbs then none else
      some ((((s.actGet F.ETH_PTP_MAP_SEC_LO_SEC + 2 ^ 32 * s.actGet F.ETH_PTP_MAP_SEC_HI_SEC : Int) +
        (s.actGet F.ETH_PTP_MAP_NS_NS + d) / 1000000000) % 2 ^ 48).toNat,
        ((s.actGet F.ETH_PTP_MAP_NS_NS + d) % 1000000000).toNat)) ∧
  (∀ (s : State) (p : Fin 2), s.up = true → exec (.tsqPop p) s = .next { s with tsq := s.tsq.set p (s.tsq[p].drop 1) }) ∧
  (∀ (s : State) (value : Word), s.up = true → Answers (.ptpMapCommit value) s fun t =>
    t = { s.setReg F.ETH_PTP_MAP_TB_addr value with
      act := t.act, tb := { s.tb with mapAt := s.wide (ns48 value.toNat 0) / 65536 } } ∧ t.actReg F.ETH_PTP_MAP_TB_addr = value ∧
    t.actReg F.ETH_PTP_MAP_NS_addr = s.reg F.ETH_PTP_MAP_NS_addr ∧
    t.actReg F.ETH_PTP_MAP_SEC_LO_addr = s.reg F.ETH_PTP_MAP_SEC_LO_addr ∧
    t.actReg F.ETH_PTP_MAP_SEC_HI_addr = s.reg F.ETH_PTP_MAP_SEC_HI_addr) ∧
  (∀ (s : State) (p : Fin 2) (up : Bool), s.up = true → s.bit (F.ETH_CFG_EN p) = true → s.bit (F.ETH_STATUS_LINK p) ≠ up →
    exec (.ethLinkChange p up) s = .next ((s.putB (F.ETH_STATUS_LINK p) up).raise ((if up then 720 else 721) + 24 * p)))

/-! ## Panel ports and gate-on-array timing -/

/-- R254, R255, R261–R263, R269, R270, R279: a back-channel message counts where its CRC-16 and its TYPE are right; a port gathers
the capability words of its drivers, after the countdown switches to the highest version and rate that all of them and the port
allow, and is up once each has lock while its PLL has; without a common version, or by command, it fails with event 2; a lane
without lock, or without a LOCK message for 1.5 µs, retrains alone and returns with its catch-up LATCH blocks; the loss of the back
channel stops no lane. R275: a push that keeps the rules goes out at once, or at the next launch with AT_LAUNCH; one that
breaks them is refused with CAUSE 1; an ACK completes it, a NAK and 10 µs without an answer fail it with CAUSE 2 and 3 and
event 7 of port 3. -/
def Obligations.PanelPortsTrainAndPush : Prop :=
  ((∀ (ty src : Byte) (payload : List Byte), backLength ty.toNat = some payload.length →
     backMessage (ty :: src :: payload ++ bytesOfNat 2 (crc16 (ty :: src :: payload)).toNat) =
       some ⟨ty.toNat, src.toNat, payload⟩) ∧
   (∀ (s : State) (p : Fin 4) (msg : List Byte), s.up = true → backMessage msg = none →
     ∀ c, c = .panelCapRx p msg ∨ c = .panelLockRx p msg ∨ c = .panelCrcErrRx p msg →
     exec c s = .next (s.onPanel p fun q => { q with heardAt := s.clock })) ∧
   (∀ (s : State) (p : Fin 4) (l : Fin 8) (msg : List Byte) (m : BackMessage) (cap : BitVec 13), s.up = true →
     backMessage msg = some m → m.ty = 1 → m.src = l → cap = BitVec.ofNat 13 m.value → s.get (F.PANEL_STATUS_STATE p) = 1 →
     s.panel.ports[p].resolved = none → (s.get (F.PANEL_CFG_LANE_EN p)).testBit l = true →
     Answers (.panelCapRx p msg) s fun t =>
       (t.panelLane p l).cap = some cap ∧ t.bit (F.PANEL_STATUS_BK_UP p) = true ∧ t.panel.ports[p].heardAt = s.clock ∧
       (∀ k, k ≠ l → t.panelLane p k = s.panelLane p k) ∧
       ∀ i < 13, (t.get (F.PANEL_DRVCAP_CAP p)).testBit i = (t.reporting p).all fun c => c.getLsbD i) ∧
   (∀ (s : State) (p : Fin 4) (v r : Nat), s.panelResolve p = some (v, r) →
       v ≤ s.get (F.PANEL_CFG_MAXVER p) ∧ r ≤ s.get (F.PANEL_CFG_MAXRATE p) ∧ (v = 0 → r ≤ 1) ∧
       ∀ c ∈ s.reporting p, c.getLsbD v = true ∧ r ≤ c.toNat / 4 % 4) ∧
   (∀ (s : State) (p : Fin 4), s.up = true → s.get (F.PANEL_STATUS_STATE p) = 1 → s.panel.ports[p].switched = false →
     (∀ v r, s.panel.ports[p].resolved = some (v, r) → s.panel.ports[p].left = 0 →
       s.panel.ports[p].nextAt ≤ s.clock * 1000 → exec (.panelRateSwitch p) s =
         .next (((s.onPanel p fun q => { q with switched := true }).put (F.PANEL_STATUS_VER p) v).put (F.PANEL_STATUS_RATE p) r)) ∧
     (s.panel.ports[p].resolved = none → s.allReported p = true → s.panelResolve p = none →
       Answers (.panelRateSwitch p) s fun t =>
         t.get (F.PANEL_STATUS_STATE p) = 0 ∧ t.evStatus (578 + 16 * p) = true)) ∧
   (∀ (s : State) (p : Fin 4), s.up = true → s.get (F.PANEL_STATUS_STATE p) = 1 →
     (Answers (.panelNegotiationFailed p none) s fun t =>
       t.get (F.PANEL_STATUS_STATE p) = 0 ∧ t.bit (F.PANEL_CFG_RETRAIN p) = false ∧ t.panel.ports[p] = PanelPort.reset ∧
       t.evStatus (578 + 16 * p) = true) ∧
     (∀ l : Fin 8, (s.get (F.PANEL_CFG_LANE_EN p)).testBit l = true → (s.panelLane p l).cap = none →
       exec (.panelNegotiationFailed p (some l)) s =
         .next ((s.onPanel p fun q => { q with out_ := q.out_ ||| (1#8 <<< l.val) }).raise (578 + 16 * p)))) ∧
   (∀ (s : State) (p : Fin 4) (l : Fin 8) (msg : List Byte) (m : BackMessage), s.up = true → backMessage msg = some m → m.ty = 2 →
     m.src = l → s.get (F.PANEL_STATUS_STATE p) = 1 → s.panel.ports[p].switched = true → s.takesPart p l = true →
     s.bit (F.PLL_CTL_LOCK 1) = true → m.value % 2 = 1 → m.value / 2 % 4 = s.get (F.PANEL_STATUS_RATE p) →
     m.value / 8 % 2 = s.get (F.PANEL_STATUS_VER p) →
     (∀ k : Fin 8, k ≠ l → s.takesPart p k = true → (s.panelLane p k).locked = true) → (∀ k : Fin 8, s.tooWide p k = false) →
     Answers (.panelLockRx p msg) s fun t => t.get (F.PANEL_STATUS_STATE p) = 2 ∧ t.bit (F.PANEL_CFG_RETRAIN p) = false ∧
       ∀ k : Fin 8, (t.get (F.PANEL_STATUS_LANES_UP p)).testBit k = s.takesPart p k) ∧
   (∀ (s : State) (p : Fin 4) (l : Fin 8) (c : Instr), s.up = true → s.bit (F.PANEL_STATUS_BK_UP p) = true →
     2 ≤ s.get (F.PANEL_STATUS_STATE p) → (s.get (F.PANEL_STATUS_LANES_UP p)).testBit l = true →
     (c = .panelLaneLockLoss p l ∧ (s.panelLane p l).lockAt + 1500 ≤ s.clock) ∨
       (∃ msg m, c = .panelLockRx p msg ∧ backMessage msg = some m ∧ m.ty = 2 ∧ m.src = l ∧ m.value % 2 = 0) →
     Answers c s fun t =>
       t.get (F.PANEL_STATUS_LANES_UP p) = s.get (F.PANEL_STATUS_LANES_UP p) - 2 ^ l.val ∧ t.get (F.PANEL_STATUS_STATE p) = 3 ∧
       (t.panelLane p l).down = true ∧ (t.panelLane p l).line = none ∧ (∀ k, k ≠ l → t.panelLane p k = s.panelLane p k) ∧
       t.get (F.PANEL_ERR_DOWNS p) = min (s.get (F.PANEL_ERR_DOWNS p) + 1) (2 ^ (F.PANEL_ERR_DOWNS p).w - 1) ∧
       t.evStatus (576 + 16 * p) = true) ∧
   (∀ (s : State) (p : Fin 4) (l : Fin 8), s.up = true → 2 ≤ s.get (F.PANEL_STATUS_STATE p) → (s.panelLane p l).down = true →
     (s.panelLane p l).locked = false → s.bit (F.PLL_CTL_LOCK 1) = true → s.bit F.TMON_SD_CAUSE_VALID = false →
     Answers (.panelLaneRetrainDone p l) s fun t =>
       (t.get (F.PANEL_STATUS_LANES_UP p)).testBit l = true ∧ (t.panelLane p l).down = false ∧ (t.panelLane p l).missed = [] ∧
       t.evStatus (577 + 16 * p) = true ∧
       ((∀ k : Fin 8, k ≠ l → (s.panelLane p k).down = false) → t.get (F.PANEL_STATUS_STATE p) = 2) ∧
       ∀ (b : Fin 64) (m : Nat × Bool), (s.panelLane p l).missed.find? (fun m => m.1 == b.val) = some m →
         ∃ x, Out.panel p l true (latchBlock b m.2 true) x ∈ t.out) ∧
   (∀ (s : State) (p : Fin 4) (msg : List Byte) (m : BackMessage), s.up = true → backMessage msg = some m → m.ty = 3 → m.src < 8 →
     2 ≤ s.get (F.PANEL_STATUS_STATE p) → s.bit (F.PANEL_STATUS_VER p) = true → exec (.panelCrcErrRx p msg) s =
       .next (((s.onPanel p fun q => { q with heardAt := s.clock }).count (F.PANEL_ERR_CRC p)).raise (581 + 16 * p))) ∧
   (∀ (s : State) (p : Fin 4), s.up = true →
     (s.bit (F.PANEL_STATUS_BK_UP p) = true → s.panel.ports[p].heardAt + 2000 ≤ s.clock →
       exec (.backChannelLoss p) s = .next ((s.put (F.PANEL_STATUS_BK_UP p) 0).raise (580 + 16 * p))) ∧
     (s.get (F.PANEL_STATUS_STATE p) ≠ 0 → exec (.backChannelRelock p) s = .next ((s.onPanel p fun q =>
       { q with heardAt := s.clock, lanes := q.lanes.map fun x => { x with lockAt := s.clock } }).put (F.PANEL_STATUS_BK_UP p) 1)) ∧
     (s.bit (F.PANEL_CFG_EN p) = true → Answers (.panelRetrain p) s fun t =>
       t.get (F.PANEL_STATUS_STATE p) = 1 ∧ t.get (F.PANEL_STATUS_LANES_UP p) = 0 ∧ t.bit (F.PANEL_CFG_RETRAIN p) = true ∧
       t.panel.ports[p].resolved = none ∧ t.panel.ports[p].switched = false ∧ t.panel.ports[p].out_ = 0 ∧
       t.panel.ports[p].nextAt = s.clock * 1000 ∧ ∀ l, (t.panelLane p l).cap = none ∧ (t.panelLane p l).locked = false) ∧
     exec (.panelClr p) s = .next (((s.setReg (F.PANEL_UNDERRUN_addr p) 0).setReg (F.PANEL_CATCHUP_addr p) 0).setReg
       (F.PANEL_ERR_addr p) 0))) ∧
  ((∀ (s : State) (ecc : List EccHit), s.up = true → s.bit F.PANEL_CMD_CTL_BUSY = false → s.bit (F.PANEL_CFG_CMD 3) = true →
     s.bit (F.PANEL_STATUS_VER 3) = true → 2 ≤ s.get (F.PANEL_STATUS_STATE 3) →
     (s.pushBad = true → exec (.cmdPush ecc) s = .next ((s.put F.PANEL_CMD_CTL_ERR 1).put F.PANEL_CMD_CTL_CAUSE 1)) ∧
     (s.pushBad = false → ∀ (k : CmdPush) (u : State), k = ⟨s.get F.PANEL_CMD_SRC_ADDR * 256, s.get F.PANEL_CMD_PITCH_PITCH,
         s.get F.PANEL_CMD_RECT_X, s.get F.PANEL_CMD_RECT_Y, s.get F.PANEL_CMD_SIZE_W, s.get F.PANEL_CMD_SIZE_H, ecc,
         s.bit F.PANEL_CMD_CTL_AT_LAUNCH, none⟩ →
       u = { s.put F.PANEL_CMD_CTL_BUSY 1 with panel := { s.panel with push := some k } } →
       (s.bit F.PANEL_CMD_CTL_AT_LAUNCH = true → exec (.cmdPush ecc) s = .next u) ∧
       (s.bit F.PANEL_CMD_CTL_AT_LAUNCH = false → k.src < 0x8000000000 ∨ u.dramGrants .panelCmd = true →
         s.bit F.TMON_SD_CAUSE_VALID = false → Answers (.cmdPush ecc) s fun t =>
           t.panel.push = some { k with sent := some s.now } ∧ t.bit F.PANEL_CMD_CTL_BUSY = true ∧
           (∃ x, Out.panel 3 s.cmdLane true (blockOf [(0x87, 0), (k.x, 8), (k.y, 20), (k.w, 32), (k.h, 45)]) x ∈ t.out) ∧
           ∃ x, Out.panel 3 s.cmdLane true (blockOf [(0x87, 0), ((crc32c (u.pushBytes k).1).toNat, 8), (63, 58)]) x ∈ t.out))) ∧
   (∀ (s : State) (x : Word) (msg : List Byte) (m : BackMessage), s.up = true → s.pushSent = some x →
     (backMessage msg = some m → m.src = 15 → m.ty = 4 → Answers (.cmdAckRx msg) s fun t =>
       t = { (s.put F.PANEL_CMD_CTL_BUSY 0).put F.PANEL_CMD_CTL_DONE 1 with
         panel := { s.panel with push := none, ports := t.panel.ports } }) ∧
     (backMessage msg = some m → m.src = 15 → m.ty = 5 → Answers (.cmdAckRx msg) s fun t =>
       t.bit F.PANEL_CMD_CTL_BUSY = false ∧ t.bit F.PANEL_CMD_CTL_ERR = true ∧ t.get F.PANEL_CMD_CTL_CAUSE = 2 ∧
       t.panel.push = none ∧ t.evStatus 631 = true) ∧
     (10000 ≤ s.since x → exec .cmdAckTimeout s =
       .next (({ s.put F.PANEL_CMD_CTL_BUSY 0 with panel := { s.panel with push := none } } : State).put F.PANEL_CMD_CTL_ERR 1
         |>.put F.PANEL_CMD_CTL_CAUSE 3 |>.raise 631))))

/-- R257, R262, R264, R265, R272–R274, R290: a band line is BAND, the lane's entries packed in data blocks, END, and leaves whole,
its blocks scrambled by x⁵⁸ + x³⁹ + 1, with IDLE where there is none; the dark shift, the light shift and the SCAN with its row
pulses come at their instants; a faulted band stays dark; the HOLD tick counts and advances the blink without a shift; and
compensation stops 0.5 µs before the next waveform of its output. -/
def Obligations.BandLinesAndShiftsComeInTime : Prop :=
  (∀ (h : BitVec 58) (d : BitVec 64),
    (∀ i < 64, (scramble h d).1.getLsbD i = ((d.getLsbD i ^^ (if i < 39 then h.getLsbD (i + 19) else (scramble h d).1.getLsbD (i - 39))) ^^
      (if i < 58 then h.getLsbD i else (scramble h d).1.getLsbD (i - 58)))) ∧
    ∀ j < 58, (scramble h d).2.getLsbD j = (scramble h d).1.getLsbD (j + 6)) ∧
  (∀ (s : State) (p : Fin 4) (l : Fin 8) (n : Nat), s.up = true → s.bit (F.PLL_CTL_LOCK 1) = true → s.laneUsed p l = true →
    (s.panelLane p l).down = false → (s.panelLane p l).wait = [] →
    (s.laneCols p l = 0 ∨ (s.frm.hold = true ∧ s.frm.holdClear = none) ∨
        ((s.panelLane p l).line = none ∧ s.nextLine p l = none) → Answers (.bandLineSend p l n) s fun t =>
      ∃ x : List (BitVec 64), x.length = n ∧ t.out = (x.map fun w => Out.panel p l true idleBlock w).reverse ++ s.out) ∧
    (∀ (r b k slot fseq : Nat) (blocks : List (Bool × BitVec 64)), s.laneCols p l ≠ 0 →
      s.frm.hold = false ∨ s.frm.holdClear ≠ none → s.bit F.TMON_SD_CAUSE_VALID = false →
      (s.panelLane p l).line = some (r, b, k) ∨ ((s.panelLane p l).line = none ∧ s.nextLine p l = some (r, b) ∧ k = 0) →
      s.slotName r = (slot, fseq) → blocks = s.lineBlocks p l r b slot fseq →
      Answers (.bandLineSend p l n) s fun t =>
        (∃ x : List (BitVec 64), x.length = ((blocks.drop k).take n).length ∧
          t.out = (((blocks.drop k).take n).zipWith (fun y w => Out.panel p l y.1 y.2 w) x).reverse ++ s.out) ∧
        (blocks.length ≤ k + n → (t.panelLane p l).line = none ∧ (r, b) ∈ (t.panelLane p l).whole) ∧
        (k + n < blocks.length → (t.panelLane p l).line = some (r, b, k + n)))) ∧
  (∀ (s : State) (p : Fin 4) (l : Fin 8) (r b slot fseq : Nat),
    (s.lineBlocks p l r b slot fseq).length = (36 * (s.bandRows b * (s.laneCols p l * 8)) + 63) / 64 + 2 ∧
    (s.lineBlocks p l r b slot fseq).head? = some (true, bandBlock b slot fseq)) ∧
  (∀ (s : State) (b : Fin 64) (x : Word) (c : Instr) (d : BandDrive), s.up = true → s.reached x = true → d = s.trl.bands[b] →
    (d.darkAt = some x ∧ c = (if d.final then .finalDarkPass b else .darkShift b)) ∨
      (d.darkAt = none ∧ s.firstDark b = some x ∧ d.dark0 ≠ some x ∧ s.bandRows b ≠ 0 ∧ c = .darkShift b) →
    Answers c s fun t => t.emitting b = false ∧
      (t.out = Out.goa b .dark :: s.out ∨ ∃ g, t.out = Out.goaLines g :: Out.goa b .dark :: s.out) ∧
      t.trl.bands[b] = { d with lit := false, dark := true, darkAt := none, lightAt := none,
                                dark0 := if d.darkAt = none then some x else d.dark0 }) ∧
  (∀ (s : State) (b : Fin 64) (x : Word), s.up = true → s.trl.bands[b].lightAt = some x → s.reached x = true →
    (s.trl.blanked.getLsbD b = false → Answers (.lightShift b) s fun t =>
      (t.out = Out.goa b .light :: s.out ∨ ∃ g, t.out = Out.goaLines g :: Out.goa b .light :: s.out) ∧
      t.trl.bands[b] = { s.trl.bands[b] with lit := s.trl.goa.on, dark := false, lightAt := none } ∧
      t.emitting b = (s.trl.goa.on && !s.goaDis)) ∧
    (s.trl.blanked.getLsbD b = true → Answers (.lightShift b) s fun t => t.out = s.out ∧
      t.trl.bands[b] = { s.trl.bands[b] with lit := false, dark := true, lightAt := none } ∧ t.emitting b = false)) ∧
  (∀ (s : State) (b : Fin 64) (x : Word), s.up = true → s.reached x = true →
    (s.trl.bands[b].scanAt = some x → exec (.scanSend b) s = .next ((s.sendAll 1 (scanBlock b false)).onBand b fun d =>
      { d with scanAt := none, row := 0, rows := s.bandRows b, rowAt := x + 200 })) ∧
    (s.trl.bands[b].scanAt = none → s.trl.bands[b].rescanAt = some x →
      exec (.scanSend b) s = .next ((s.sendAll 1 (scanBlock b true)).onBand b fun d =>
        { d with rescanAt := none, row := 0, rows := s.bandRows b, rowAt := x + 200 }))) ∧
  (∀ (s : State) (b : Fin 64), s.up = true → s.trl.bands[b].rows ≠ 0 → s.reached s.trl.bands[b].rowAt = true →
    exec (.scanPulse b) s = .next (((s.emit (.goa b (.scan (s.bandFirst b + s.trl.bands[b].row)))).shiftScan
      (b.val == 0 && s.trl.bands[b].row == 0) (s.trl.bands[b].rowAt +
        BitVec.ofNat 32 (s.actGet F.PANEL_GOA_TIMING_ROW_NS - s.actGet F.PANEL_GOA_TIMING_GAP_NS))).onBand b fun d =>
      { d with row := d.row + 1, rows := d.rows - 1, rowAt := d.rowAt + BitVec.ofNat 32 (s.actGet F.PANEL_GOA_TIMING_ROW_NS) })) ∧
  (∀ (s : State) (start : Bool) (ends : Word) (g : GoaReg), g = s.trl.goa.scan →
    (s.trl.goa.on = true → (s.shiftScan start ends).trl.goa.scan = ⟨!g.second, some (g.second, start, ends)⟩ ∧
      ∃ ck, (s.shiftScan start ends).trl.goa.lines = some (ck, start) ∧ ck.getLsbD (if g.second then 1 else 0) = true ∧
        ck.getLsbD (if g.second then 0 else 1) = false) ∧
    (s.trl.goa.on = false → s.shiftScan start ends = s)) ∧
  (∀ (s : State) (dis : Bool), s.up = true → exec (.goaDisWrite dis) s = .next (s.put F.PANEL_GOA_CTL_DIS dis.toNat)) ∧
  (∀ (s : State) (base x : Word), s.up = true → s.frm.hold = true → s.frm.tickBase = some base →
    x = base + BitVec.ofNat 32 (s.actGet F.SEQ_FRM_MAX_FRAME_MAX_NS) → s.reached x = true →
    Answers .holdTick s fun t =>
      t.get F.PANEL_HOLD_TICKS_COUNT = (s.get F.PANEL_HOLD_TICKS_COUNT + 1) % 2 ^ F.PANEL_HOLD_TICKS_COUNT.w ∧
      t.get F.PANEL_BLINK_CNT_COUNT = (s.get F.PANEL_BLINK_CNT_COUNT + 1) % 2 ^ F.PANEL_BLINK_CNT_COUNT.w ∧
      t.frm.tickBase = some x ∧ ∀ b : Fin 64, t.trl.bands[b].lit = s.trl.bands[b].lit) ∧
  (∀ (s : State) (b : Fin 64) (l : Fin 6) (x : Word) (slot mask : Nat), s.nextLatch b = some (x, slot, mask) →
    s.changing b slot mask = some l → x ∈ s.nextStarts b l) ∧
  (∀ (s : State) (b : Fin 64) (l : Fin 6) (x : Word) (mv : Int), s.alwaysOn = true → x ∈ s.nextStarts b l →
    s.reached (x - 500) = true → s.trl.outs[outIx b l].level = .comp mv →
    Answers (.compensationGuard b l) s fun t => t.trl.outs[outIx b l].level = s.trl.outs[outIx b l].rest ∧
      ∀ o : Fin 384, o ≠ outIx b l → t.trl.outs[o] = s.trl.outs[o])

/-! ## Trellis and its supplies -/

/-- R281–R283, R285, R290, R300: the end of a phase drives the next level, the end of the last leaves the output at its level;
a phase 1 whose charge is too small for the FAULT_COUNT-th time in a row marks the output open, sets it to high impedance and
raises its event; compensation ends at half the limit; a cleared fault leaves a balanced pair due; an applied waveform set
becomes active whole, or is refused with a cause and event 12. R292: INIT starts the first pass where the rails are up and
waits for them where they are not; a pass runs table x of the band in force on all six layers of each band 4 µs apart; the end
of the second pass sets INIT_DONE and raises event 13. -/
def Obligations.TrellisWaveformsAndInit : Prop :=
  ((∀ (s : State) (b : Fin 64) (l : Fin 6) (charge : Nat) (limited : Bool) (x : TrlOut), s.alwaysOn = true →
     x = s.trl.outs[outIx b l] → s.reached x.ends = true →
     (∀ p lv d more u, x.phases = p :: (lv, d) :: more → x.inPhase1 = false →
       u = (s.onTrlOut (outIx b l) fun x => { s.upTo x (s.edgeAt x.ends) with
         level := lv, phases := (lv, d) :: more, ends := x.ends + BitVec.ofNat 32 (100 * d), done := x.done + 1 }) →
       (x.second = 0 ∨ x.second ≠ x.done + 1 → exec (.trellisPhaseEnd b l charge limited) s = .next u) ∧
       (x.second ≠ 0 → x.second = x.done + 1 → exec (.trellisPhaseEnd b l charge limited) s = .next
         (if u.ledgerLimit < (ledgerUnits (u.trl.outs[outIx b l].acc + u.driven u.trl.outs[outIx b l] x.ends)).natAbs then
           (u.count F.TRL_STAT2_OVER).raise 518 else u))) ∧
     (∀ lv d, x.phases = [(lv, d)] → x.inPhase1 = false → Answers (.trellisPhaseEnd b l charge limited) s fun t =>
       t.trl.outs[outIx b l].phases = [] ∧ t.trl.outs[outIx b l].rest = lv ∧
       (s.hv.settle = none → s.vcomp = 0 → t.trl.outs[outIx b l].level = lv)) ∧
     (∀ lv d more, x.phases = (lv, d) :: more → x.inPhase1 = true → max 1 (s.get F.TRL_FAULT_CTL_FAULT_COUNT) ≤ x.open_ + 1 →
       100 * charge < s.get F.TRL_FAULT_CTL_OPEN_PCT * (s.get F.TRL_FAULT_CTL_C_NOM * (s.levelMv lv).natAbs) →
       Answers (.trellisPhaseEnd b l charge limited) s fun t =>
         (t.get (F.TRL_FAULT_OPEN b)).testBit l = true ∧ t.trl.outs[outIx b l].level = .hiz ∧
         t.trl.outs[outIx b l].phases = [] ∧ t.evStatus (512 + l) = true ∧
         (s.bit F.TRL_FAULT_CTL_BLANK_ON_FAULT = true → t.trl.blanked.getLsbD b = true) ∧
         ∀ o : Fin 384, o ≠ outIx b l → t.trl.outs[o] = s.trl.outs[o])) ∧
   (∀ (s : State) (b : Fin 64) (l : Fin 6), s.alwaysOn = true → s.trl.outs[outIx b l].inComp = true →
     2 * (s.ledger (outIx b l)).natAbs ≤ s.ledgerLimit →
     Answers (.compensationEnd b l) s fun t => t.trl.outs[outIx b l].inComp = false ∧
       (∀ mv, s.trl.outs[outIx b l].level = .comp mv → t.trl.outs[outIx b l].level = s.trl.outs[outIx b l].rest) ∧
       ∀ o : Fin 384, o ≠ outIx b l → t.trl.outs[o] = s.trl.outs[o]) ∧
   (∀ (s : State) (b : Fin 64) (value : Word), s.up = true → Answers (.trlFaultClear b value) s fun t =>
     t.reg (F.TRL_FAULT_addr b) = s.reg (F.TRL_FAULT_addr b) &&& ~~~value ∧
     ∀ l : Fin 6, t.trl.outs[outIx b l].pair = (s.trl.outs[outIx b l].pair || (s.outFaulted b l && !t.outFaulted b l))) ∧
   (∀ s : State, s.up = true → (s.frm.hold = false ∨ s.noWave = false ∨ s.trl.pass ≠ 0 →
       exec .waveApply s = .next (s.put F.TRL_WAVE_CTL_APPLY 1)) ∧
     (∀ u : State, u = s.put F.TRL_WAVE_CTL_APPLY 1 → s.frm.hold = true → s.noWave = true → s.trl.pass = 0 →
       (u.waveCause u.reg u.slotPeriod = 0 → Answers .waveApply s fun t =>
         t.bit F.TRL_WAVE_CTL_APPLY = false ∧ ∀ a ∈ waveRegs, t.actReg a = s.reg a) ∧
       (u.waveCause u.reg u.slotPeriod ≠ 0 → exec .waveApply s = .next ((((u.put F.TRL_WAVE_CTL_APPLY 0).put F.TRL_WAVE_CTL_BAD 1).put
         F.TRL_WAVE_CTL_CAUSE (u.waveCause u.reg u.slotPeriod)).raise 524)))) ∧
   (∀ s : State, s.up = true → exec .trlClr s = .next ((s.setReg F.TRL_STAT_addr 0).put F.TRL_STAT2_OVER 0))) ∧
  ((∀ s : State, s.up = true → s.trl.pass = 0 →
     (s.get F.HVPS_CTL_STATE ≠ 2 → exec .trellisInit s = .next (s.put F.TRL_CTL_INIT 1)) ∧
     (s.get F.HVPS_CTL_STATE = 2 → Answers .trellisInit s fun t => t.bit F.TRL_CTL_INIT = true ∧
       t.bit F.TRL_CTL_INIT_DONE = false ∧ t.trl.pass = 1 ∧ t.trl.passAt = s.now ∧ t.trl.passDue = BitVec.allOnes 64)) ∧
   (∀ (s : State) (b : Fin 64) (x : Nat), s.up = true → s.trl.pass = x + 1 → s.trl.passDue.getLsbD b = true →
     s.reached (s.trl.passAt + BitVec.ofNat 32 (4000 * b.val)) = true → s.bandRows b ≠ 0 → s.get F.HVPS_CTL_STATE = 2 →
     Answers (.initPassWaveform b) s fun t => t.trl.passDue = s.trl.passDue &&& ~~~(1#64 <<< b.val) ∧ t.trl.pass = s.trl.pass ∧
       (b.val = 63 → t.trl.passEnd = s.lastEnd (s.trl.passAt + BitVec.ofNat 32 (4000 * b.val))) ∧
       ∀ l : Fin 6, t.trl.word[b].getLsbD l = (x == 0) ∧
         (s.outFaulted b l = false → waveTable s.actReg s.trlBand x ≠ [] →
           t.trl.outs[outIx b l].phases = (waveTable s.actReg s.trlBand x).map fun q => (levelOf q.1, q.2))) ∧
   (∀ s : State, s.up = true → s.trl.pass = 2 → s.trl.passDue = 0 → s.reached s.trl.passEnd = true →
     Answers .trellisInitDone s fun t => t.bit F.TRL_CTL_INIT = false ∧ t.bit F.TRL_CTL_INIT_DONE = true ∧ t.trl.pass = 0 ∧
       t.evStatus 525 = true))

/-- R289, R293, R294, R296, R298, R299, R302, R303: ON starts the power-on sequence, which steps through its table and ends on
with event 16, or off with NOSTART where a rail does not reach 90 %; OFF and a brown-out settle the outputs that take part, then
power off; a rail fault or an overvoltage powers off at once with GOA_DIS high; the end of power-off raises event 17; a restart
follows where it may, and so does the power-on after a brown-out; a measurement leaves every ledger as it counted until then. -/
def Obligations.SuppliesSequenceTheirRails : Prop :=
  (∀ s : State, s.up = true →
    (s.get F.HVPS_CTL_STATE = 0 ∨ s.get F.HVPS_CTL_STATE = 5 → exec .hvpsOn s = .next ((((s.onHv fun h =>
      { h with restarts := 0 }).powerGoa false).put F.HVPS_CTL_STATE 1).onHv fun h =>
        { h with start := s.now, step := 0, settle := none, faulted := false, noInit := false, dis := true })) ∧
    (s.get F.HVPS_CTL_STATE = 2 ∨ (s.get F.HVPS_CTL_STATE = 1 ∧ 3 ≤ s.hv.step) → Answers .hvpsOff s fun t =>
      t.get F.HVPS_CTL_STATE = 4 ∧ t.hv = { s.hv with dis := true, settle := some s.now } ∧ t.goaDis = true ∧
      ∀ o : Fin 384, s.trl.outs[o].phases = [] → s.settles o = true →
        t.trl.outs[o].level = against s.settleMv (s.trl.outs[o].acc + s.driven s.trl.outs[o] s.now)) ∧
    (s.get F.HVPS_CTL_STATE = 1 → s.hv.step < 3 → Answers .hvpsOff s fun t => t.get F.HVPS_CTL_STATE = 3 ∧ t.hv.step = 0 ∧
      t.hv.start = s.now ∧ t.goaDis = true ∧ ∀ o : Fin 384, t.trl.outs[o].level = .hiz ∧ t.trl.outs[o].phases = [])) ∧
  (∀ (s : State) (reached : BitVec 4), s.up = true → s.get F.HVPS_CTL_STATE = 1 →
    (∀ ns rails, onTable[s.hv.step]? = some (ns, rails) → s.reached (s.hv.start + BitVec.ofNat 32 ns) = true →
      (∀ k ∈ rails, reached.getLsbD k.val = false → Answers (.railSeqStep reached) s fun t =>
        (t.get F.HVPS_FAULT_NOSTART).testBit k = true ∧ t.evStatus (892 + k) = true ∧ t.get F.HVPS_CTL_STATE = 3 ∧
        t.hv.faulted = true ∧ t.goaDis = true) ∧
      ((∀ k ∈ rails, reached.getLsbD k.val = true) → s.hv.step < 3 → Answers (.railSeqStep reached) s fun t =>
        t.hv = { s.hv with step := s.hv.step + 1 } ∧ t.get F.HVPS_CTL_STATE = 1 ∧ (s.hv.step = 0 → t.trl.goa.on = true) ∧
        (s.hv.step = 2 → ∀ (b : Fin 64) (l : Fin 6), s.outFaulted b l = false → t.trl.outs[outIx b l].level = .zero)) ∧
      (s.hv.step = 3 → Answers (.railSeqStep reached) s fun t =>
        t.get F.HVPS_CTL_STATE = 2 ∧ t.hv.restarts = 0 ∧ t.hv.dis = false ∧ t.evStatus 896 = true ∧
        (s.bit F.TRL_CTL_INIT = true ∨ (s.hv.noInit = false ∧ s.bit F.TRL_CTL_AUTO_INIT = true) → t.trl.pass = 1)))) ∧
  (∀ (s : State) (reached : BitVec 4), s.up = true → s.get F.HVPS_CTL_STATE = 3 →
    (s.hv.step < 2 → s.reached (s.hv.start + BitVec.ofNat 32 (1500000 * (s.hv.step + 1))) = true →
      exec (.railSeqStep reached) s = .next ((if s.hv.step = 1 then s.powerGoa false else s).onHv fun h => { h with step := h.step + 1 })) ∧
    (s.hv.step = 2 → s.reached (s.hv.start + 4500000) = true → Answers (.railSeqStep reached) s fun t =>
      t.get F.HVPS_CTL_STATE = (if s.hv.faulted then 5 else 0) ∧ t.hv = { s.hv with start := s.now, offAt := s.clock } ∧
      t.evStatus 897 = true ∧
      (s.hv.faulted = true → s.bit F.HVPS_CTL_AUTO_RESTART = true → 3 ≤ s.hv.restarts → t.evStatus 901 = true) ∧
      t.mode = if s.bit F.TMON_SD_CAUSE_VALID then .shutdown else s.mode)) ∧
  (∀ s : State, s.up = true →
    (Answers .vhvBrownout s fun t => t.bit F.HVPS_FAULT_BROWNOUT = true ∧ t.evStatus 898 = true ∧ t.hv.brown = true ∧
      t.goaDis = true ∧
      (s.get F.HVPS_CTL_STATE = 2 → t.get F.HVPS_CTL_STATE = 4 ∧ t.hv = { s.hv with brown := true, dis := true, settle := some s.now }) ∧
      (s.get F.HVPS_CTL_STATE = 0 ∨ s.get F.HVPS_CTL_STATE = 3 ∨ s.get F.HVPS_CTL_STATE = 4 ∨ s.get F.HVPS_CTL_STATE = 5 →
        t.get F.HVPS_CTL_STATE = s.get F.HVPS_CTL_STATE ∧ t.hv = { s.hv with brown := true, dis := true })) ∧
    (∀ x, s.hv.settle = some x → s.get F.HVPS_CTL_STATE = 4 → s.reached (x + 2000000) = true ∨ s.settled = true →
      Answers .brownoutSettleEnd s fun t => t.get F.HVPS_CTL_STATE = 3 ∧ t.hv.step = 0 ∧ t.hv.start = s.now ∧ t.hv.dis = true ∧
        (∀ o : Fin 384, t.trl.outs[o].level = .hiz) ∧
        (t.trl.outs.toList.any (fun y => decide (100 * s.settleMv < y.acc.natAbs)) = true → t.evStatus 526 = true)) ∧
    (s.hv.brown = true → s.get F.HVPS_CTL_STATE = 0 ∨ s.get F.HVPS_CTL_STATE = 5 → s.bit F.HVPS_CTL_AUTO_RESTART = true →
      Answers .vhvRecovered s fun t => t.get F.HVPS_CTL_STATE = 1 ∧ t.hv = { s.hv with
        brown := false, start := s.now, step := 0, settle := none, faulted := false, noInit := false, dis := true } ∧
        t.evStatus 899 = true) ∧
    (Answers .vhvOvervoltage s fun t => t.bit F.HVPS_FAULT_VHV_OV = true ∧ t.evStatus 900 = true ∧
      (s.get F.HVPS_CTL_STATE = 1 ∨ s.get F.HVPS_CTL_STATE = 2 ∨ s.get F.HVPS_CTL_STATE = 4 →
        t.get F.HVPS_CTL_STATE = 3 ∧ t.hv.faulted = true ∧ t.goaDis = true) ∧
      (s.get F.HVPS_CTL_STATE = 3 → t.get F.HVPS_CTL_STATE = 3 ∧ t.hv = { s.hv with faulted := true })) ∧
    (∀ (kind : RailFaultKind) (k : Fin 4) (f : Field) (n : Nat),
      (f, n) = (match kind with
        | .uv => (F.HVPS_FAULT_UV, 880)
        | .ov => (F.HVPS_FAULT_OV, 884)
        | .oc => (F.HVPS_FAULT_OC, 888)
        | .noStart => (F.HVPS_FAULT_NOSTART, 892)) →
      (s.get F.HVPS_CTL_STATE = 2 ∨ s.get F.HVPS_CTL_STATE = 4 ∨
          (s.get F.HVPS_CTL_STATE = 1 ∧ (kind = .noStart ∨ min k.val 2 + (if kind = .uv then 1 else 0) ≤ s.hv.step)) →
        Answers (.railFault kind k) s fun t => (t.get f).testBit k = true ∧ t.evStatus (n + k) = true ∧
          t.get F.HVPS_CTL_STATE = 3 ∧ t.hv.faulted = true ∧ t.goaDis = true) ∧
      (s.get F.HVPS_CTL_STATE = 3 → k.val + s.hv.step < 2 → Answers (.railFault kind k) s fun t =>
        (t.get f).testBit k = true ∧ t.evStatus (n + k) = true ∧ t.get F.HVPS_CTL_STATE = 3 ∧
        t.hv = { s.hv with faulted := true })) ∧
    (s.get F.HVPS_CTL_STATE = 5 → s.bit F.HVPS_CTL_AUTO_RESTART = true → s.hv.restarts < 3 →
      s.reached (s.hv.start + 100000000) = true → Answers .railRestart s fun t =>
        t.get F.HVPS_CTL_STATE = 1 ∧ t.hv.restarts = s.hv.restarts + 1 ∧ t.hv.start = s.now ∧ t.hv.step = 0) ∧
    ∀ (k : Fin 4) (mv vhv : BitVec 16), s.get F.HVPS_CTL_STATE ≠ 0 → s.get F.HVPS_CTL_STATE ≠ 5 →
      Answers (.hvpsMeasUpdate k mv vhv) s fun t => t.get (F.HVPS_MEAS_MV k) = mv.toNat ∧ t.get F.HVPS_VHV_MV = vhv.toNat ∧
        ∀ o : Fin 384, t.trl.outs[o] = s.countSteps s.trl.outs[o])

/-! ## Racking -/

/-- R304–R307, R310–R319: commits and latched descriptors move the ring; a legal blend, fill, copy or conversion writes every
pixel of its destination from the pixels as they were before it and no byte beside; VIEWSTAMP stamps the overlay into every
view; a reserved operation is rejected with cause 1, one read with an error with cause 7, and counted; what meets a read error is
abandoned with cause 7; a retired tag is shown with event 4r; and disabling goes back
to the first discarded descriptor. -/
def Obligations.RackingCarriesOutDescriptors : Prop :=
  (∀ (s : State) (r : Fin 4), s.up = true →
    (∀ value : Word, value.toNat % 65536 < s.get (F.RACK_RING_SIZE_N r) →
      exec (.rackCommit r value) s = .next (s.put (F.RACK_RING_WPTR_WPTR r) (value.toNat % 65536))) ∧
    (∀ i, s.bit (F.RACK_RING_CFG_EN r) = true → 2 ≤ s.get (F.RACK_RING_SIZE_N r) → s.bit (F.RACK_RING_CFG_STOPPED r) = false →
      i = s.get (F.RACK_RING_RPTR_RPTR r) → i ≠ s.get (F.RACK_RING_WPTR_WPTR r) → s.rack.rings[r].queue.length < 16 →
      s.dramGrants .racking = true → ∀ ecc : List EccHit,
      Answers (.rackDescLatch r ecc) s fun t => t.bit (F.RACK_RING_CFG_BUSY r) = true ∧
        t.get (F.RACK_RING_RPTR_RPTR r) = (if i + 1 < s.get (F.RACK_RING_SIZE_N r) then i + 1 else 0) ∧
        t.rack.rings[r].queue = s.rack.rings[r].queue ++ [(i,
          if s.eccBad (s.get (F.RACK_RING_BASE_BASE r) * 256 + 32 * i) 32 ecc then [] else (List.range 8).map fun k =>
            bytesWord (s.dramRead (s.get (F.RACK_RING_BASE_BASE r) * 256 + 32 * i) 32 ecc).1 (4 * k))]) ∧
    (∀ tag due, s.rack.rings[r].due = tag :: due → exec (.rackRetire r) s = .next ((((s.onRing r fun x => { x with due := due }).put
      (F.RACK_RING_RETIRE_TAG r) tag).wrapCount (F.RACK_RING_RETIRE_COUNT r)).raise (960 + 4 * r))) ∧
    (∀ i d rest, s.rack.rings[r].queue = (i, d) :: rest → Answers (.rackRingDisable r) s fun t =>
      t.bit (F.RACK_RING_CFG_EN r) = false ∧ t.get (F.RACK_RING_RPTR_RPTR r) = i % 65536 ∧ t.rack.rings[r].queue = [] ∧
      t.mem = s.mem) ∧
    exec (.rackResume r) s = .next (s.put (F.RACK_RING_CFG_STOPPED r) 0) ∧
    exec .rackErrClr s = .next ((s.put F.RACK_ERR_COUNT 0).put F.RACK_ERR_CAUSE 0)) ∧
  (∀ (s : State) (r : Fin 4) (c : Instr) (op : RackOp) (i : Nat) (d : List Word) (rest : List (Nat × List Word)) (df sf : RackFmt)
    (src : Option Surface) (f : Nat → Nat → Nat), s.up = true → s.rackTurn = some r → s.rack.rings[r].queue = (i, d) :: rest →
    s.rackOp r d = some op → dbits d 0 13 3 = 0 → s.evEnabled (963 + 4 * r) = false →
    onChip (descDst d) (dstSurface d df).span = true → descDst d + (dstSurface d df).span ≤ 0x06980000 →
    (∀ y, src = some y → y.dram = false) → s.pairCause (dstSurface d df) src = 0 →
    (op = .fill ∧ c = .fill r [] ∧ df = .ofOld (dbits d 0 8 2) ∧ dbits d 0 10 2 = 0 ∧ descSrc d = 0 ∧ dword d 7 = 0 ∧ src = none ∧
        f = fun _ _ => dword d 6) ∨
      (op = .copy ∧ c = .copy r [] ∧ df = .ofOld (dbits d 0 8 2) ∧ df = .ofOld (dbits d 0 10 2) ∧
        src = some (srcSurface d df) ∧ f = fun x _ => x) ∨
      (op = .convert ∧ c = .convert r [] ∧ df = .ofOld (dbits d 0 8 2) ∧ sf = .ofOld (dbits d 0 10 2) ∧ df ≠ .d16 ∧ sf ≠ .d16 ∧
        src = some (srcSurface d sf) ∧ f = fun x _ => df.write (sf.read x)) ∨
      (op = .blendConst ∧ c = .blendConst r [] ∧ RackFmt.ofCode (dbits d 0 4 4) = some df ∧ df.colour = true ∧
        dbits d 0 8 4 = 0 ∧ descSrc d = 0 ∧ src = none ∧
        f = fun _ y => df.write (blendStraight ⟨dbits d 6 0 16, dbits d 6 16 16, dbits d 7 0 16, dbits d 7 16 16⟩ (df.read y) 65535)) ∨
      (RackFmt.ofCode (dbits d 0 4 4) = some df ∧ RackFmt.ofCode (dbits d 0 8 4) = some sf ∧ df.colour = true ∧ sf.colour = true ∧
        dbits d 6 16 16 = 0 ∧ dword d 7 = 0 ∧ src = some (srcSurface d sf) ∧
        ((op = .blendPixel ∧ c = .blendPixel r [] ∧
            f = fun x y => df.write (blendStraight (sf.read x) (df.read y) (dbits d 6 0 16))) ∨
          (op = .blendPremul ∧ c = .blendPremul r [] ∧
            f = fun x y => df.write (blendPremult (sf.read x) (df.read y) (dbits d 6 0 16))))) →
    Answers c s fun t => t.rack.rings[r].queue = rest ∧ t.rack.turn = r.val ∧
      t.rack.rings[r].due = s.rack.rings[r].due ++ (if dbits d 0 12 1 = 1 then [dbits d 0 16 16] else []) ∧
      (∀ y < descH d, ∀ x < descW d, pixelAt t (dstSurface d df) x y =
        f (match src with
          | some z => pixelAt s z x y
          | none => 0) (if op = .fill ∨ op = .copy ∨ op = .convert then 0 else pixelAt s (dstSurface d df) x y) % 256 ^ df.bytes) ∧
      ∀ a, (∀ y < descH d, ¬(descDst d + y * dbits d 2 8 24 ≤ a ∧ a < descDst d + y * dbits d 2 8 24 + descW d * df.bytes)) →
        t.mem.readByte a = s.mem.readByte a) ∧
  (∀ (s s' : State) (r : Fin 4) (i : Nat) (d : List Word) (rest : List (Nat × List Word)), s.up = true → s.rackTurn = some r →
    s.rack.rings[r].queue = (i, d) :: rest → s' = { s with rack := { s.rack with turn := r.val } } →
    (∀ full, s.rackOp r d = some .viewstamp → s'.stamp d [] = .done full → dbits d 0 12 1 = 0 →
      exec (.viewstamp r []) s = .next (full.rackPop r) ∧
      ∃ f sf read, RackFmt.ofCode (dbits d 0 4 4) = some f ∧ RackFmt.ofCode (dbits d 0 8 4) = some sf ∧
        full = ((List.range (s'.stampHeader d).1.k).foldl (fun u v => u.stampView (s'.stampHeader d).1 d f sf
          ((List.range (descH d)).map fun j => s'.rowPixels (srcSurface d sf) j []) [] v) s').readRanges read []) ∧
    (∀ (op : RackOp) (ecc : List EccHit),
      (s.rackOp r d = none → s.bit (F.RACK_RING_CFG_STOP_ON_ERR r) = false → Answers (rackCommand r ecc op) s fun t =>
        t.get F.RACK_ERR_CAUSE = (if d = [] then 7 else 1) ∧ t.get F.RACK_ERR_RING = r ∧ t.rack.rings[r].queue = rest ∧
        t.evStatus (961 + 4 * r) = true ∧
        t.get F.RACK_ERR_COUNT = min (s.get F.RACK_ERR_COUNT + 1) (2 ^ F.RACK_ERR_COUNT.w - 1)) ∧
      (s.rackOp r d = some op →
        (∀ cause, s'.rackAct op d ecc = .reject cause → exec (rackCommand r ecc op) s = .next (s'.rackReject r i cause)) ∧
        (∀ u, s'.rackAct op d ecc = .abandon u → exec (rackCommand r ecc op) s = .next (u.rackReject r i 7)))))

/-! ## DRAM controller and PLLs -/

/-- R324, R325, R328, R329, R331, R337: a request to an awake interface is served: a write's bytes are stored, a read gives
its data and reports what the inline code found; one to a controller that does not serve is held; no request is served before
one of a higher class that waits on its channel unless it was promoted; an aged request is promoted; idle pages close; and the
conflict count of a window is shown, with event 8 above its limit. -/
def Obligations.DramServesByClassAndAge : Prop :=
  (∀ (s : State) (src : DramSource) (addr : BitVec 40) (ecc : List EccHit) (op : DramOp), s.up = true → 0x8000000000 ≤ addr.toNat →
    (s.dramServes = false →
      (s.dram.entering = false → exec (.dramRequest src addr op ecc) s = .next (s.onDram fun d =>
        { d with lastReq := s.now, queue := d.queue ++ [⟨src, s.srcClass src, addr.toNat, op, ecc, s.now, false⟩] })) ∧
      (s.dram.entering = true → Answers (.dramRequest src addr op ecc) s fun t =>
        t.dram.entering = false ∧ t.dram.asleep = s.dram.asleep ∧ t.evStatus 425 = true)) ∧
    (∀ ch : Fin 8, s.dram.queue = [] → s.dram.entering = false → s.channelOf (addr.toNat - 0x8000000000) = ch →
      s.chanServes ch = true → s.mode ≠ .wake 4 ∨ s.srcClass src = 0 →
      (∀ bs, op = .write bs → ecc = [] → (∀ x, addr.toNat ≤ x → x < addr.toNat + bs.length → s.dramData x = true) →
        Answers (.dramRequest src addr op ecc) s fun t => t.dram.queue = [] ∧ t.regs = s.regs ∧ ∀ x,
          t.mem.readByte x = if addr.toNat ≤ x ∧ x < addr.toNat + bs.length then bs.getD (x - addr.toNat) 0 else s.mem.readByte x) ∧
      (∀ k, op = .read k →
        (ecc = [] → Answers (.dramRequest src addr op ecc) s fun t => t.dram.queue = [] ∧
          t.rdata = bytesWord ((List.range k).map fun i => s.dramByte (addr.toNat + i)) 0) ∧
        (∀ h : EccHit, ecc = [h] → 0x8000000000 ≤ h.addr → s.eccCovers h = true → hitMeets h addr.toNat k = true →
          Answers (.dramRequest src addr op ecc) s fun t => t.dram.queue = [] ∧
            (h.fixed = true → t.evStatus 417 = true ∧ t.get F.DRAMC_ECC_STAT_CORR =
              min (s.get F.DRAMC_ECC_STAT_CORR + 1) (2 ^ F.DRAMC_ECC_STAT_CORR.w - 1)) ∧
            (h.fixed = false → t.evStatus 418 = true ∧ t.get F.DRAMC_ECC_STAT_UNCORR =
              min (s.get F.DRAMC_ECC_STAT_UNCORR + 1) (2 ^ F.DRAMC_ECC_STAT_UNCORR.w - 1)))))) ∧
  (∀ (s : State) (ch : Fin 8) (q : DramReq), s.nextRequest ch = some q → q ∈ s.waitingOn ch ∧ q ∈ s.dram.queue ∧
    (s.mode = .wake 4 → q.cls = 0) ∧ (q.promoted = false → ∀ x ∈ s.waitingOn ch, q.cls ≤ x.cls) ∧
    (q.promoted = true → q.cls ≠ 0 → (∃ x ∈ s.waitingOn ch, x.cls = 0) → 3 ≤ s.dram.served[ch])) ∧
  (∀ (s : State) (ch : Fin 8), s.up = true → s.dramServes = false → Answers (.agePromote ch) s fun t =>
    t = { s with dram := t.dram } ∧ t.dram.queue = s.dram.queue.map fun q =>
      if s.channelOf (q.addr - 0x8000000000) = ch ∧ s.get (F.DRAMC_AGE_AGE_NS q.cls) ≠ 0 ∧
        s.get (F.DRAMC_AGE_AGE_NS q.cls) < s.since q.issued then { q with promoted := true } else q) ∧
  (∀ (s : State) (ch : Fin 8) (bank : Fin 16), s.up = true → Answers (.pageIdleClose ch bank) s fun t =>
    t = { s with dram := t.dram } ∧ ∀ x, x ∈ t.dram.rows ↔
      x ∈ s.dram.rows ∧ (x.1 ≠ 16 * ch + bank ∨ s.since x.2.2 < s.get F.DRAMC_PAGE_IDLE_NS)) ∧
  (∀ s : State, s.up = true → 1000000 ≤ s.since s.dram.missAt → Answers .conflictWindow s fun t =>
    t.get F.DRAMC_CONFLICT_LAST_MS = min s.dram.misses.toList.sum (2 ^ 24 - 1) ∧ t.dram.missAt = s.dram.missAt + 1000000 ∧
    t.dram.misses = Vector.replicate 8 0 ∧
    (s.get F.DRAMC_CONFLICT_LIM_LIM < min s.dram.misses.toList.sum (2 ^ 24 - 1) → t.evStatus 424 = true)) ∧
  (∀ s : State, s.up = true → exec .dramcStatClr s = .next ((((s.setReg F.DRAMC_REFRESH_STAT_addr 0).setReg
    F.DRAMC_TRAIN_STAT_addr 0).setReg F.DRAMC_ECC_STAT_addr 0).put F.DRAMC_OCM_ECC_CORR 0))

/-- R325, R327, R330–R338: initialisation ends ready with event 10 or fails with event 11; a hash mask that breaks the rules,
or is written while the controller runs, is refused with event 12; refresh goes to idle banks, is postponed without one, and
at 8 falls back to the all-bank refresh; self-refresh is entered and left, with the banks whose sentinels fail marked; a
frequency change takes the target set 13.5 µs after its start; training steps and scrub passes count. -/
def Obligations.DramControllerKeepsItsData : Prop :=
  (∀ s : State, s.up = true →
    (s.bit F.DRAMC_CTL_EN = false → exec .dramInit s = .next ((s.put F.DRAMC_CTL_INIT 1).put F.DRAMC_CTL_READY 0)) ∧
    (s.bit F.DRAMC_CTL_INIT = true →
      exec (.dramInitDone false) s = .next ((s.put F.DRAMC_CTL_INIT 0).raise 427) ∧
      (s.dram.queue = [] → (∀ n < 1024, s.evEnabled n = false) → Answers (.dramInitDone true) s fun t => t.bit F.DRAMC_CTL_INIT = false ∧
        t.bit F.DRAMC_CTL_READY = true ∧ t.evStatus 426 = true ∧ t.dram.entries = s.dram.entries + 1 ∧ t.dram.asleep = false ∧
        t.dram.rows = [] ∧ t.get F.DRAMC_FREQ_CTL_ACTIVE = 0 ∧
        ∀ x ∈ s.eccRegions, ∀ a, x.1 ≤ a → a < x.2 → t.mem.readByte a = 0)) ∧
    (∀ (k : Fin 7) (value : Word) (m : Nat → Word),
      m = (fun j => if j = k.val then BitVec.ofNat 32 ((F.DRAMC_HASH_MASK k).of value) else s.reg (F.DRAMC_HASH_addr j)) →
      (s.bit F.DRAMC_CTL_EN = false → masksLegal m = true →
        exec (.dramcHashWrite k value) s = .next (s.put (F.DRAMC_HASH_MASK k) ((F.DRAMC_HASH_MASK k).of value))) ∧
      (s.bit F.DRAMC_CTL_EN = true ∨ masksLegal m = false →
        exec (.dramcHashWrite k value) s = .next ((s.put F.DRAMC_CTL_CFG_BAD 1).raise 428)))) ∧
  (∀ (s : State) (ch : Fin 8) (busy : BitVec 16), s.up = true → s.dramRuns = true →
    (busy = BitVec.allOnes 16 ∨ s.dramClock (ch.val / 4) = false → s.dram.owed[ch] < 7 → Answers (.perBankRefresh ch busy) s fun t =>
      t.dram.owed[ch] = s.dram.owed[ch] + 1 ∧ t.dram.rows = s.dram.rows ∧
      t.get F.DRAMC_REFRESH_STAT_MAXPOST = max (s.dram.owed[ch] + 1) (s.get F.DRAMC_REFRESH_STAT_MAXPOST)) ∧
    (busy = BitVec.allOnes 16 ∨ s.dramClock (ch.val / 4) = false → 7 ≤ s.dram.owed[ch] → Answers (.perBankRefresh ch busy) s fun t =>
      t.dram.owed[ch] = 0 ∧ (∀ x ∈ t.dram.rows, x.1 / 16 ≠ ch) ∧ t.evStatus 422 = true) ∧
    (busy = 0 → s.dramClock (ch.val / 4) = true → s.dram.owed[ch] < 16 →
      exec (.perBankRefresh ch busy) s = .next (s.onDram fun d => { d with
        owed := d.owed.set ch 0, turn := d.turn.set ch ((s.dram.turn[ch] + s.dram.owed[ch] + 1) % 16) }))) ∧
  (∀ (s : State) (ch : Fin 8) (derate : BitVec 2), s.up = true → s.dramRuns = true →
    Answers (.mr4Poll ch derate) s fun t => t.dram.derate[ch] = min 2 derate.toNat ∧
      (∀ k : Fin 8, k ≠ ch → t.dram.derate[k] = s.dram.derate[k]) ∧
      ((∀ k : Fin 8, s.dram.derate[k] ≤ min 2 derate.toNat) → t.get F.DRAMC_REFRESH_STAT_DERATE = min 2 derate.toNat ∧
        ((∀ k : Fin 8, s.dram.derate[k] < min 2 derate.toNat) → t.evStatus 423 = true))) ∧
  (∀ s : State, s.up = true →
    (s.dramReady = true → s.get F.DRAMC_SR_IDLE_US ≠ 0 → 1000 * s.get F.DRAMC_SR_IDLE_US ≤ s.since s.dram.lastReq →
      s.dram.queue = [] → exec (.selfRefreshEntry false) s = .next (s.onDram fun d => { d with entering := true })) ∧
    (s.dram.entering = true → exec (.selfRefreshEntry true) s =
      .next (s.onDram fun d => { d with asleep := true, entering := false, rows := [], entries := d.entries + 1 })) ∧
    (s.dram.asleep = true → s.mode = .run ∨ s.mode = .boot ∨ s.mode = .wake 3 → s.dram.queue = [] → ∀ bad : List Nat,
      (∀ k ∈ bad, k < 128) → Answers (.selfRefreshExit bad) s fun t => t.dram.asleep = false ∧
        t.dram.scrubDue = s.dram.scrubDue ++ bad ∧ (bad ≠ [] → t.evStatus 416 = true) ∧
        ∀ k < 128, (t.reg (F.DRAMC_BANK_SUSPECT_addr (k / 32))).getLsbD (k % 32) =
          ((s.reg (F.DRAMC_BANK_SUSPECT_addr (k / 32))).getLsbD (k % 32) || bad.contains k))) ∧
  (∀ (s : State) (target : Bool), s.up = true →
    (s.dram.change.isSome = true → exec (.freqChange target) s = .next ((s.putB F.DRAMC_FREQ_CTL_TARGET target).put
      F.DRAMC_FREQ_CTL_PENDING 1)) ∧
    (s.dram.change = none → s.bit F.DRAMC_FREQ_CTL_ACTIVE = target →
      exec (.freqChange target) s = .next (s.putB F.DRAMC_FREQ_CTL_TARGET target)) ∧
    (s.dram.change = none → s.bit F.DRAMC_FREQ_CTL_ACTIVE ≠ target →
      (dividersLegal s.get 2 target.toNat = true → dividersLegal s.get 3 target.toNat = true → Answers (.freqChange target) s fun t =>
        t.bit F.DRAMC_FREQ_CTL_BUSY = true ∧ t.bit F.DRAMC_FREQ_CTL_TARGET = target ∧ t.dram.change = some (s.now, target) ∧
        t.dram.rows = [] ∧ t.dram.entering = false ∧ t.dram.queue = s.dram.queue) ∧
      (∀ n : Fin 6, n = 2 ∨ n = 3 → dividersLegal s.get n target.toNat = false → Answers (.freqChange target) s fun t =>
        t.bit (F.PLL_CTL_REFUSED n) = true ∧ t.evStatus (773 + 8 * n) = true ∧ t.dram.change = none ∧
        t.bit F.DRAMC_FREQ_CTL_ACTIVE = s.bit F.DRAMC_FREQ_CTL_ACTIVE)) ∧
    (∀ t0 (bad : List Nat), s.dram.change = some (t0, target) → 13500 ≤ s.since t0 → s.dram.queue = [] → (∀ k ∈ bad, k < 128) →
      (s.bit F.DRAMC_FREQ_CTL_PENDING = false ∨ s.bit F.DRAMC_FREQ_CTL_TARGET = target → Answers (.freqChangeDone bad) s fun t =>
        t.bit F.DRAMC_FREQ_CTL_ACTIVE = target ∧ t.bit F.DRAMC_FREQ_CTL_BUSY = false ∧ t.bit F.DRAMC_FREQ_CTL_PENDING = false ∧
        t.dram.change = none ∧ t.dram.asleep = false ∧ t.dram.entries = s.dram.entries + 1 ∧ t.evStatus 420 = true ∧
        t.dram.scrubDue = s.dram.scrubDue ++ bad ∧ (bad ≠ [] → t.evStatus 416 = true) ∧
        t.get (F.PLL_STAT_SLOT 2) = target.toNat ∧ t.get (F.PLL_STAT_SLOT 3) = target.toNat) ∧
      (s.bit F.DRAMC_FREQ_CTL_PENDING = true → s.bit F.DRAMC_FREQ_CTL_TARGET ≠ target →
        dividersLegal s.get 2 (!target).toNat = true → dividersLegal s.get 3 (!target).toNat = true →
        Answers (.freqChangeDone bad) s fun t => t.bit F.DRAMC_FREQ_CTL_ACTIVE = target ∧ t.bit F.DRAMC_FREQ_CTL_BUSY = true ∧
          t.bit F.DRAMC_FREQ_CTL_PENDING = false ∧ t.dram.change = some (s.now, !target)))) ∧
  (∀ (s : State) (ch : Fin 8), s.up = true → s.dramAwake (ch.val / 4) = true → s.cal[2].measuring ≠ [] →
    (∀ x, s.dram.stepAt[ch] = some x → 50000 ≤ s.since x) →
    ((∀ q ∈ s.dram.queue, q.cls = 0 → s.reqChannel q = ch → s.since q.issued ≤ 1000) →
      exec (.dramTrainingStep ch) s = .next (s.onDram fun d =>
        { d with steps := d.steps + 1, stepAt := d.stepAt.set ch (some s.now) })) ∧
    ((∃ q ∈ s.dram.queue, q.cls = 0 ∧ s.reqChannel q = ch ∧ 1000 < s.since q.issued) →
      exec (.dramTrainingStep ch) s = .next s)) ∧
  (∀ (s : State) (n : Nat) (l : List Nat), s.up = true → s.dramReady = true →
    s.dram.scrubDue ≠ [] ∨ s.get F.DRAMC_SCRUB_PERIOD_S ≠ 0 → Answers (.scrubPass n l) s fun t =>
      t.dram.scrubDue = [] ∧ t.get F.DRAMC_ECC_STAT_CORR =
        min (s.get F.DRAMC_ECC_STAT_CORR + n) (2 ^ F.DRAMC_ECC_STAT_CORR.w - 1) ∧
      (n ≠ 0 → t.evStatus 417 = true) ∧
      ((∃ k ∈ l, s.eccCovers ⟨0x8000000000 + 64 * k, false⟩ = true) → t.evStatus 418 = true) ∧
      (s.dram.scrubDue = [] → t.evStatus 431 = true))

/-- R342–R349: a legal commit applies at once where it slews, and relocks with its output gated where it does not; an illegal
one, and one of a DRAM PLL, is refused with event 5; one that comes while another relocks waits; lock loss gates the output
and counts; relock by a stored band or a search restores it; phase steps add up and complete; and the loss of the reference
takes every lock. -/
def Obligations.PllsCommitAndRelock : Prop :=
  (∀ (s : State) (n : Fin 6), s.up = true →
    (s.pll[n].commit = true → exec (.pllCommit n) s = .next (s.put (F.PLL_CTL_PENDING n) 1)) ∧
    (s.pll[n].commit = false → n = 2 ∨ n = 3 ∨ s.pllLegal n = false → exec (.pllCommit n) s =
      .next (((s.put (F.PLL_CTL_COMMIT n) 0).put (F.PLL_CTL_REFUSED n) 1).raise (773 + 8 * n))) ∧
    (s.pll[n].commit = false → n ≠ 2 → n ≠ 3 → s.pllLegal n = true → Answers (.pllCommit n) s fun t =>
      (∀ a ∈ pllRegs n, t.actReg a = s.reg a) ∧
      (s.pllSlews n = true ∨ s.bit (F.PLL_CTL_EN n) = false → t.evStatus (772 + 8 * n) = true ∧ t.pll = s.pll ∧ t.bit (F.PLL_CTL_LOCK n) = s.bit (F.PLL_CTL_LOCK n)) ∧
      (s.pllSlews n = false → s.bit (F.PLL_CTL_EN n) = true → t.bit (F.PLL_CTL_COMMIT n) = true ∧ t.bit (F.PLL_CTL_LOCK n) = false ∧
        t.bit (F.PLL_CTL_GATED n) = true ∧ t.pll[n].relock = true ∧ t.pll[n].commit = true ∧ t.pll[n].steps = 0)) ∧
    (s.bit (F.PLL_CTL_LOCK n) = true ∨ s.pll[n].commit = true → Answers (.pllLockLoss n) s fun t =>
      t.bit (F.PLL_CTL_LOCK n) = false ∧ t.bit (F.PLL_CTL_GATED n) = true ∧ t.pll[n].relock = true ∧
      (s.bit (F.PLL_CTL_PENDING n) = false → t.pll[n].commit = false ∧ t.bit (F.PLL_CTL_COMMIT n) = false) ∧
      t.get (F.PLL_STAT_LOSSES n) = min (s.get (F.PLL_STAT_LOSSES n) + 1) (2 ^ (F.PLL_STAT_LOSSES n).w - 1) ∧
      t.evStatus (768 + 8 * n) = true ∧ (n = 0 → t.bit F.TB_STATE_BACKUP = true)) ∧
    (∀ (failed : Bool) (code : BitVec 7), s.pll[n].relock = true → s.bit F.PLL_REF_STAT_OK = true →
      s.bit (F.PLL_CTL_PENDING n) = false → s.dram.queue = [] → Answers (.pllRelock n failed code) s fun t =>
        t.bit (F.PLL_CTL_LOCK n) = true ∧ t.bit (F.PLL_CTL_GATED n) = false ∧ t.pll[n].relock = false ∧ t.pll[n].commit = false ∧
        t.evStatus (769 + 8 * n) = true ∧ (s.pll[n].commit = true → t.evStatus (772 + 8 * n) = true) ∧
        (n = 0 → t.bit F.TB_STATE_BACKUP = false) ∧
        (∀ k, s.matchSlot n (s.pllVco n) = some k → failed = false → t.get (F.PLL_STAT_SLOT n) = k) ∧
        (s.matchSlot n (s.pllVco n) = none ∨ failed = true → s.oldestSlot n < 8 → t.evStatus (770 + 8 * n) = true ∧
          t.get (F.PLL_STAT_SLOT n) = s.oldestSlot n ∧ t.get (F.PLL_BAND_BAND n (s.oldestSlot n)) = code.toNat ∧
          t.bit (F.PLL_BAND_VALID n (s.oldestSlot n)) = true)) ∧
    (∀ value : Word, (n = 0 ∨ n = 5 → exec (.pllPhaseStep n value) s = .next ((s.put (F.PLL_CTL_REFUSED n) 1).raise (773 + 8 * n))) ∧
      (n ≠ 0 → n ≠ 5 → ∀ x : Int, x = max (-4095) (min 4095 (s.pll[n].steps + (BitVec.setWidth 13 value).toInt)) →
        exec (.pllPhaseStep n value) s = .next ((s.putS (F.PLL_PHASE_STEP n) x).onPll n fun p => { p with steps := x }))) ∧
    (s.pll[n].steps = 1 ∨ s.pll[n].steps = -1 → exec (.pllPhaseDone n) s =
      .next (((s.put (F.PLL_PHASE_STEP n) 0).onPll n fun p => { p with steps := 0 }).raise (774 + 8 * n))) ∧
    exec (.pllStatClr n) s = .next (s.put (F.PLL_STAT_LOSSES n) 0)) ∧
  (∀ s : State, s.alwaysOn = true →
    (s.bit F.PLL_REF_STAT_OK = true → Answers .refclkLoss s fun t => t.bit F.PLL_REF_STAT_OK = false ∧
      t.bit F.PLL_REF_STAT_LOST = true ∧ t.evStatus 775 = true ∧ t.bit F.TB_STATE_BACKUP = true ∧
      ∀ n : Fin 6, t.bit (F.PLL_CTL_LOCK n) = false) ∧
    exec .refclkReturn s = .next (s.put F.PLL_REF_STAT_OK 1))

/-! ## Power, temperature, calibration -/

/-- R352–R362: an idle timeout or SLEEP asks for entry; entry stops threads, work and comparators and settles the supplies;
its end stops the PLLs and ports and runs the time base on its backup; an enabled source starts a wake, once in the Cellar, a
patrol after as many breaches as CONFIRM; each wake step ends when its time and work are over, or slips; the wake ends with
READY, event 1 and thread 0 told its cause; and an operating point moves its cap, then its voltage, confirmed by two reads in
a row. -/
def Obligations.CellarIsEnteredAndLeft : Prop :=
  (∀ s : State, s.mode = .run → s.pwr.entryDue = false →
    (s.get F.PWR_IDLE_S ≠ 0 → s.blinking = false → s.pwr.idleFrom + s.get F.PWR_IDLE_S * 1000000000 ≤ s.clock →
      exec .idleTimeout s = .next ((s.onPwr fun p => { p with entryDue := true }).raise 976)) ∧
    exec .sleep s = .next ((s.onPwr fun p => { p with entryDue := true }).raise 976)) ∧
  (∀ (s : State) (k : Nat), s.mode = .wake k → exec .sleep s = .next ((s.put F.PWR_STAT_SLEEP_DROPPED 1).raise 979)) ∧
  (∀ s : State, s.mode = .run → s.pwr.entryDue = true → s.slotsRunning = false → Answers .cellarEntry s fun t =>
    t.mode = .entry ∧ t.bit F.PWR_STAT_READY = false ∧ t.pwr.entryDue = false ∧ t.bit F.SEQ_FRM_FORMAT_HOLD = true ∧
    (∀ u : Fin 16, t.seq.thr[u].st = .stopped) ∧ t.seq.held = [] ∧ t.seq.jobs = [] ∧
    (∀ k : Fin 64, t.bit (F.SEQ_LC_CFG_ARM k) = false) ∧ (s.dramServes = true → t.dram.asleep = true) ∧
    (s.get F.HVPS_CTL_STATE = 2 → t.get F.HVPS_CTL_STATE = 4)) ∧
  (∀ s : State, s.mode = .entry → s.get F.HVPS_CTL_STATE = 0 ∨ s.get F.HVPS_CTL_STATE = 5 →
    s.pwr.start + 35000 + 420000 ≤ s.clock → s.hv.offAt + 420000 ≤ s.clock → Answers .cellarEntryComplete s fun t => t.mode = (if s.pwr.sources = 0 then .cellar else .wake 1) ∧
      (∀ n : Fin 6, t.bit (F.PLL_CTL_LOCK n) = false ∧ t.bit (F.PLL_CTL_GATED n) = true) ∧
      (∀ p : Fin 4, t.get (F.ZL_STATUS_STATE p) = 0 ∧ t.get (F.PANEL_STATUS_STATE p) = 0) ∧
      t.get F.TB_STATE_STATE = 2 ∧ t.bit F.TB_STATE_BACKUP = true ∧ t.tb.ns = s.tb.ns ∧ t.tb.integ = s.tb.integ) ∧
  (∀ s : State,
    (s.mode = .entry → (s.get F.PWR_WAKE_EN_EN).testBit 2 = true →
      exec .wakePin s = .next (s.onPwr fun p => { p with sources := p.sources ||| 4#4 })) ∧
    (s.mode = .cellar → (s.get F.PWR_WAKE_EN_EN).testBit 2 = true → Answers .wakePin s fun t => t.mode = .wake 1 ∧
      (t.get F.PWR_WAKE_CAUSE_CAUSE).testBit 2 = true ∧ t.pwr.start = s.clock ∧ t.pwr.sources = 0) ∧
    (s.mode = .cellar → (s.get F.PWR_WAKE_EN_EN).testBit 3 = true → s.pwr.alarm = true →
      s.reached (s.reg F.PWR_WAKE_AT_addr) = true → Answers .wakeAlarm s fun t => t.mode = .wake 1 ∧
        (t.get F.PWR_WAKE_CAUSE_CAUSE).testBit 3 = true ∧ t.pwr.alarm = false)) ∧
  (∀ (s : State) (die panel : List Reading) (lux : BitVec 16), s.mode = .cellar → s.bit F.TMON_SD_CAUSE_VALID = false →
    (s.patrolBreach die panel lux = false → (∀ x ∈ s.patrolDie die, x.2 < s.getS F.TMON_THR_2_CRIT) →
      exec (.breezePatrol die panel lux) s = .next (s.onPwr fun p => { p with breaches := 0, crits := 0 })) ∧
    (s.patrolBreach die panel lux = true → (∀ x ∈ s.patrolDie die, x.2 < s.getS F.TMON_THR_2_CRIT) →
      s.get F.PWR_BRZ_CFG_CONFIRM_M1 ≤ s.pwr.breaches → (s.get F.PWR_WAKE_EN_EN).testBit 1 = true →
      Answers (.breezePatrol die panel lux) s fun t => t.mode = .wake 1 ∧ (t.get F.PWR_WAKE_CAUSE_CAUSE).testBit 1 = true) ∧
    ((∃ x ∈ s.patrolDie die, s.getS F.TMON_THR_2_CRIT ≤ x.2) → s.get F.PWR_BRZ_CFG_CONFIRM_M1 ≤ s.pwr.crits →
      s.get F.HVPS_CTL_STATE = 0 → Answers (.breezePatrol die panel lux) s fun t => t.mode = .shutdown ∧
        t.bit F.TMON_SD_CAUSE_VALID = true ∧ t.evStatus 687 = true)) ∧
  (∀ (s : State) (k : Nat) (complete : Bool) (ecc : List EccHit), s.mode = .wake k → 1 ≤ k → s.pwr.start + wakeNs k ≤ s.clock →
    (complete = false ∨ s.stepComplete k = false →
      (s.pwr.slipped = false → exec (.wakeStepEnd complete ecc) s = .next ((((s.put F.PWR_STAT_SLIP 1).put
        F.PWR_STAT_SLIP_STEP k).raise 978).onPwr fun p => { p with slipped := true })) ∧
      (s.pwr.slipped = true → exec (.wakeStepEnd complete ecc) s = .next s)) ∧
    (k ≤ 5 → s.stepComplete k = true → Answers (.wakeStepEnd true ecc) s fun t => t.mode = .wake (k + 1) ∧ t.pwr.start = s.clock ∧
      t.pwr.slipped = false ∧
      (k = 1 → ∀ n : Fin 6, s.bit (F.PLL_CTL_EN n) = true → t.pll[n].relock = true) ∧
      (k = 2 → s.bit F.TB_CTL_WAKE_STEP = true → t.get F.TB_STATE_STATE = 0)) ∧
    (k = 6 → s.stepComplete 6 = true → Answers .wakeComplete s fun t => t.mode = .run ∧ t.bit F.PWR_STAT_READY = true ∧ t.evStatus 977 = true ∧
      t.seq.thr[(0 : Fin 16)].s[1] = s.reg F.PWR_WAKE_CAUSE_addr)) ∧
  (∀ (s : State) (target : BitVec 4), s.alwaysOn = true → s.mode ≠ .run → exec (.opPointChange target) s =
    .next ((s.put F.PWR_OP_SEL_TARGET target.toNat).onPwr fun p => { p with targetDue := true })) ∧
  (∀ (s : State) (target : BitVec 4) (cap : Nat), s.mode = .run → cap = s.get (F.PWR_OP_CAP target.toNat) →
    (s.bit F.PWR_OP_SEL_BUSY = true → exec (.opPointChange target) s =
      .next ((s.put F.PWR_OP_SEL_TARGET target.toNat).put F.PWR_OP_SEL_PENDING 1)) ∧
    (s.bit F.PWR_OP_SEL_BUSY = false → s.get (F.PWR_OP_VCODE target.toNat) ≠ s.pwr.vcode → Answers (.opPointChange target) s fun t =>
      t.get F.PWR_OP_SEL_TARGET = target.toNat ∧ t.bit F.PWR_OP_SEL_BUSY = true ∧ t.get F.PWR_OP_SEL_LEG = 2 ∧
      t.get F.PWR_OP_SEL_ACTIVE = s.get F.PWR_OP_SEL_ACTIVE ∧ t.pwr.cap = min s.pwr.cap cap ∧ t.pwr.good = 0) ∧
    (s.bit F.PWR_OP_SEL_BUSY = false → s.get (F.PWR_OP_VCODE target.toNat) = s.pwr.vcode → s.pwr.failed = false →
      Answers (.opPointChange target) s fun t => t.get F.PWR_OP_SEL_ACTIVE = target.toNat ∧ t.bit F.PWR_OP_SEL_BUSY = false ∧
        t.pwr.cap = cap ∧ t.evStatus 980 = true)) ∧
  (∀ (s : State) (mv : Nat), s.up = true → s.get F.PWR_OP_SEL_LEG = 2 →
    (s.get F.PWR_AVS_CFG_TOL_MV < ((mv : Int) - (550 + 5 * s.pwr.vgoal : Nat)).natAbs →
      exec (.avsReadback mv) s = .next (s.onPwr fun p => { p with good := 0 })) ∧
    (((mv : Int) - (550 + 5 * s.pwr.vgoal : Nat)).natAbs ≤ s.get F.PWR_AVS_CFG_TOL_MV →
      (s.pwr.good = 0 → exec (.avsReadback mv) s = .next (s.onPwr fun p => { p with good := 1 })) ∧
      (1 ≤ s.pwr.good → s.bit F.PWR_OP_SEL_PENDING = false → s.pwr.goal < 16 → Answers (.avsReadback mv) s fun t =>
        t.pwr.vcode = s.pwr.vgoal ∧ t.get F.PWR_OP_SEL_ACTIVE = s.pwr.goal ∧ t.bit F.PWR_OP_SEL_BUSY = false ∧
        t.pwr.cap = s.get (F.PWR_OP_CAP s.pwr.goal) ∧ t.evStatus 980 = true)) ∧
    (s.pwr.voltAt + 1000 * s.get F.PWR_AVS_CFG_TIMEOUT_US ≤ s.clock → Answers .avsTimeout s fun t =>
      t.bit F.PWR_OP_SEL_VFAIL = true ∧ t.bit F.PWR_OP_SEL_BUSY = false ∧ t.pwr.failed = true ∧ t.pwr.vcode = s.pwr.vcode ∧
      t.get F.PWR_OP_SEL_ACTIVE = s.get F.PWR_OP_SEL_ACTIVE ∧ t.evStatus 981 = true))

/-- R363–R370: a sample shows every sensor, a failed one at full scale with its event; a sensor at a threshold sets Warn, one
that counts at CRIT shuts down; an external poll scales its reading or marks its sensor; a retry clears FAILED; thresholds out
of order set BAD, and a locked one stays as it is. -/
def Obligations.TemperaturesAreWatched : Prop :=
  (∀ (s : State) (l : List Reading), s.up = true → s.bit F.TMON_SD_CAUSE_VALID = false → Answers (.sensorSample l) s fun t =>
    (∀ k < 32, s.bit (F.TMON_S_FAILED k) = true → t.get (F.TMON_S_TEMP k) = 0x7FFF ∧ t.bit (F.TMON_S_FAILED k) = true) ∧
    (∀ k < 32, s.bit (F.TMON_S_FAILED k) = false →
      t.get (F.TMON_S_TEMP k) = readingOf (l.getD k .timeout) ∧
      t.bit (F.TMON_S_FAILED k) = (failKind (l.getD k .timeout) != 0) ∧
      (failKind (l.getD k .timeout) ≠ 0 → t.get (F.TMON_S_FAIL_KIND k) = failKind (l.getD k .timeout) ∧ t.evStatus (640 + k) = true)) ∧
    (∀ k < 32, ∀ x : BitVec 16, s.bit (F.TMON_S_FAILED k) = false → l.getD k .timeout = .temp x →
      s.get F.TMON_CFG_DEBOUNCE ≤ 1 →
      (s.therm[0].1 = false → s.getS F.TMON_THR_0_WARN ≤ x.toInt → t.bit F.TMON_STAT_WARN = true ∧ t.evStatus 680 = true) ∧
      (s.therm[5].1 = false → s.getS F.TMON_THR_2_CRIT ≤ x.toInt → (s.reg F.TMON_SD_MASK_addr).getLsbD k = false →
        t.bit F.TMON_SD_CAUSE_VALID = true ∧ t.evStatus 687 = true ∧ t.goaDis = true))) ∧
  (∀ (s : State) (k : Fin 8), s.up = true → s.bit (F.TMON_EXT_CFG_EN k) = true →
    (∀ w : BitVec 16, s.bit (F.TMON_EXT_FAILED k) = false → exec (.extSensorPoll k (some w)) s = .next (s.putS (F.TMON_EXT_TEMP k)
      (max (-32768) (min 32767 (if s.getS (F.TMON_EXT_CFG_SHIFT k) < 0 then w.toInt / 2 ^ (s.getS (F.TMON_EXT_CFG_SHIFT k)).natAbs
        else w.toInt * 2 ^ (s.getS (F.TMON_EXT_CFG_SHIFT k)).natAbs))))) ∧
    (Answers (.extSensorPoll k none) s fun t => t.bit (F.TMON_EXT_FAILED k) = true ∧ t.get (F.TMON_EXT_TEMP k) = 0x7FFF ∧
      t.evStatus (1008 + s.get (F.TMON_EXT_CFG_BUS k)) = true ∧
      (s.bit (F.TMON_EXT_FAILED k) = false → t.evStatus (672 + k) = true))) ∧
  (∀ s : State, s.up = true → (∀ k : Fin 32, exec (.sensorRetry false k) s = .next (s.put (F.TMON_S_FAILED k) 0)) ∧
    (∀ k : Fin 32, k.val < 8 → exec (.sensorRetry true k) s = .next (s.put (F.TMON_EXT_FAILED k) 0))) ∧
  (∀ (s : State) (m : Fin 3) (value : Word) (a : Nat), s.up = true → a = F.TMON_THR_0_addr + 4 * m.val →
    (s.bit F.TMON_CFG_LOCK = false → thrOrdered (thrFields.map (s.setReg a value).getS) = true →
      exec (.tmonThrWrite m value) s = .next (s.setReg a value)) ∧
    (s.bit F.TMON_CFG_LOCK = false → thrOrdered (thrFields.map (s.setReg a value).getS) = false →
      exec (.tmonThrWrite m value) s = .next (s.put F.TMON_CFG_BAD 1)) ∧
    (s.bit F.TMON_CFG_LOCK = true → s.reg a ≠ value → exec (.tmonThrWrite m value) s = .next (s.raise 995))) ∧
  (∀ (s : State) (value : Word), s.up = true → Answers (.tmonLock value) s fun t =>
    t.get F.TMON_CFG_EXT_PERIOD_MS = F.TMON_CFG_EXT_PERIOD_MS.of value ∧
    t.bit F.TMON_CFG_LOCK = (s.bit F.TMON_CFG_LOCK || F.TMON_CFG_LOCK.of value == 1) ∧
    (s.bit F.TMON_CFG_LOCK = false → OnlyRegs [F.TMON_CFG_addr] s t ∧ t.get F.TMON_CFG_HYST = F.TMON_CFG_HYST.of value ∧
      t.get F.TMON_CFG_DEBOUNCE = F.TMON_CFG_DEBOUNCE.of value) ∧
    (s.bit F.TMON_CFG_LOCK = true → t.get F.TMON_CFG_HYST = s.get F.TMON_CFG_HYST ∧
      t.get F.TMON_CFG_DEBOUNCE = s.get F.TMON_CFG_DEBOUNCE ∧
      (F.TMON_CFG_HYST.of value ≠ s.get F.TMON_CFG_HYST → t.evStatus 995 = true)))

/-- R372–R376: a run notes its temperature and measures; a result within its window and STEP is accepted and becomes the
target, any other is refused and counted; an interval moves each value a step toward its target and ends with event 3 of the
domain; and the ray model is loaded in HOLD alone and checked by its CRC. -/
def Obligations.CalibrationAcceptsAndApplies : Prop :=
  (∀ (s : State) (d : Fin 5) (p : Fin 4), s.mode = .run ∨ s.mode = .boot →
    (∀ q : Nat, d ≠ 3 → q = (if d = 0 ∨ d = 1 then p.val else 0) → q ∉ s.cal[d].measuring →
      Answers (.calRun d p) s fun t => t.cal[d].measuring = s.cal[d].measuring ++ [q] ∧ t.get (F.CAL_STAT_STATE d) = 1 ∧
        (∀ x : Int, s.calTemp d = some x → t.getS (F.CAL_STAT_T_REF d) = x) ∧ ∀ e : Fin 5, e ≠ d → t.cal[e] = s.cal[e]) ∧
    (d = 3 → s.get F.TRL_SAT_BASE_BASE ≠ 0 → 0 ∉ s.cal[(3 : Fin 5)].measuring →
      (∀ x : Int, s.angleTarget = some x → s.calOk 3 0 [x] = true → Answers (.calRun d p) s fun t =>
        assocGet [] 0 t.cal[(3 : Fin 5)].target = [x] ∧
        t.get (F.CAL_COUNT_ACCEPTS 3) = min (s.get (F.CAL_COUNT_ACCEPTS 3) + 1) 65535) ∧
      (s.angleTarget = none ∨ (∃ x : Int, s.angleTarget = some x ∧ s.calOk 3 0 [x] = false) → Answers (.calRun d p) s fun t =>
        t.cal = s.cal ∧ t.bit (F.CAL_STAT_REFUSED 3) = true ∧ t.evStatus 949 = true))) ∧
  (∀ (s : State) (d : Fin 5) (p : Nat) (rest : List Nat), s.up = true → s.cal[d].measuring = p :: rest →
    (∀ l, s.calOk d p l = true → Answers (.calMeasureDone d (some l)) s fun t => t.cal[d].measuring = rest ∧
      assocGet [] p t.cal[d].target = l ∧ assocGet [] p t.cal[d].accepted = l ∧ t.bit (F.CAL_STAT_REFUSED d) = false ∧
      t.get (F.CAL_COUNT_ACCEPTS d) = min (s.get (F.CAL_COUNT_ACCEPTS d) + 1) 65535) ∧
    (∀ r, (∀ l, r = some l → s.calOk d p l = false) → Answers (.calMeasureDone d r) s fun t => t.cal[d].measuring = rest ∧
      t.cal[d].target = s.cal[d].target ∧ t.bit (F.CAL_STAT_REFUSED d) = true ∧
      t.get (F.CAL_COUNT_REFUSALS d) = min (s.get (F.CAL_COUNT_REFUSALS d) + 1) 65535 ∧
      t.evStatus ((if r = none then 938 else 937) + 4 * d) = true)) ∧
  (∀ (s : State) (d : Fin 5), s.up = true → exec (.calClr d) s = .next (s.setReg (F.CAL_COUNT_addr d) 0) ∧
    (s.calDue d = false → exec (.calApplyStep d) s = .next s)) ∧
  (∀ (s : State) (d : Fin 5) (a b : Int) (p : Nat), s.up = true → s.calDue d = true →
    (d = 0 ∨ d = 1 ∨ d = 2 → s.cal[d].target = [(p, [b])] → assocGet [] p s.cal[d].applied = [a] →
      Answers (.calApplyStep d) s fun t => assocGet [] p t.cal[d].applied = [stepTo (if d = 1 then 16 else 1) a b] ∧
        t.cal[d].stepAt = s.clock ∧
        (stepTo (if d = 1 then 16 else 1) a b = b → t.cal[d].target = [] ∧ t.evStatus (939 + 4 * d) = true)) ∧
    (d = 3 → s.cal[d].target = [(0, [b])] → s.get F.TRL_ANG_WEIGHT_WEIGHT ≤ 256 →
      256 * s.get F.TRL_ANG_WEIGHT_LO_BAND ≤ b → b ≤ 256 * (s.get F.TRL_ANG_WEIGHT_LO_BAND + 1) →
      Answers (.calApplyStep d) s fun t => t.anglePos = stepTo 16 s.anglePos b ∧ t.cal[d].stepFrame = some s.angleFrame) ∧
    (∀ l : List Int, d = 4 → s.cal[d].target = [(0, l)] → l.length = 4 → (∀ x ∈ l, -128 ≤ x ∧ x ≤ 127) →
      Answers (.calApplyStep d) s fun t => ∀ k < 4, t.getS (F.HVPS_SET_TRIM k) =
        stepTo 1 (s.getS (F.HVPS_SET_TRIM k)) (l.getD k 0))) ∧
  (∀ s : State, s.up = true →
    (s.bit F.CAL_MODEL_CTL_LOAD = false → s.frm.hold = true → s.modelRange = true →
      exec .calModelLoad s = .next (s.put F.CAL_MODEL_CTL_LOAD 1)) ∧
    (s.bit F.CAL_MODEL_CTL_LOAD = false → s.frm.hold = false ∨ s.modelRange = false → Answers .calModelLoad s fun t =>
      t.bit F.CAL_MODEL_CTL_VALID = false ∧ t.bit F.CAL_MODEL_CTL_LOAD = false ∧ t.evStatus 957 = true) ∧
    (∀ (ecc : List EccHit) (bs : List Byte), s.bit F.CAL_MODEL_CTL_LOAD = true → s.dramGrants .calReload = true →
      bs = (s.dramRead s.modelBase s.modelSize ecc).1 → Answers (.calModelLoadDone ecc) s fun t =>
        t.bit F.CAL_MODEL_CTL_LOAD = false ∧
        (crc32c bs = s.reg F.CAL_MODEL_CRC_addr → t.bit F.CAL_MODEL_CTL_VALID = true ∧ t.evStatus 956 = true) ∧
        (crc32c bs ≠ s.reg F.CAL_MODEL_CRC_addr → t.bit F.CAL_MODEL_CTL_VALID = false ∧ t.evStatus 957 = true)))

/-! ## Presses -/

/-- R100–R102, R109, R112, R113, R120, R145: NOP goes on; branches, calls, jumps and returns set the PC; DONE ends a bundle or,
with its STATUS word, a job; a word that the profile does not define, and an illegal field, end the bundle with an exception of
cause 1, recorded, counted and raised as event 49, or, on a bundle whose time is up, with the fence alone; an instruction whose
words are not those at the PC does nothing. -/
def Obligations.PressControlFlow : Prop :=
  (∀ (s : State) (n : Fin 48) (o : Opnd), o.legal .nothing .nothing .nothing false = true →
    (s.pressAt n (.op 0 0 o) → exec (.nop n o) s = .next (s.pressPast n (.op 0 0 o) s)) ∧
    (s.pressAt n (.op 0 2 o) →
      ((s.press[n].sreg 15).toNat < 0x100000 → (s.press[n].sreg 15).toNat % 4 = 0 →
        exec (.ret n o) s = .next (State.pressTo n (s.press[n].sreg 15) s)) ∧
      (0x100000 ≤ (s.press[n].sreg 15).toNat ∨ (s.press[n].sreg 15).toNat % 4 ≠ 0 →
        exec (.ret n o) s = .next ((s.countOps (n.castLE (by decide)) 1).kernelException n 3 s.press[n].pc))) ∧
    (s.pressAt n (.op 0 1 o) →
      (∀ b, s.press[n].does = .bundle b → Answers (.done n o) s fun t => t.press[n].does = .idle ∧
        (b.discard = false → t.dist.work = s.dist.work.map fun w =>
          if w.run = b.run ∧ w.band = b.band then { w with ended := w.ended + 1 } else w)) ∧
      (∀ j, s.press[n].does = .job j → exec (.done n o) s = .next ((((s.storeWord (j.desc + 12)
        (BitVec.ofNat 32 (1 + 65536 * j.ticket.toNat))).onPress n fun p => { p with does := .idle }).raiseIf j.notify 864).countOps
          (n.castLE (by decide)) 1)))) ∧
  (∀ (s : State) (n : Fin 48) (off : BitVec 15) (x : Int), s.pressAt n (.rel 2 0 off 0) →
    x = s.press[n].pc.toNat + 4 * off.toInt → 0 ≤ x → x < 0x100000 → x % 4 = 0 → exec (.call n off 0) s =
      .next (State.pressTo n (BitVec.ofInt 32 x) (s.onPress n fun p => p.setS 15 (p.pc + 4)))) ∧
  (∀ (s : State) (n : Fin 48) (o : Opnd) (imm : Word), o.legal .nothing .nothing .code false = true → o.low = 0 →
    imm.toNat < 0x100000 → imm.toNat % 4 = 0 →
    (s.pressAt n (.long 2 0 o imm) → exec (.jmp n o imm) s = .next (State.pressTo n imm s)) ∧
    (s.pressAt n (.long 3 0 o imm) → exec (.calla n o imm) s =
      .next (State.pressTo n imm (s.onPress n fun p => p.setS 15 (p.pc + 8))))) ∧
  (∀ (s : State) (n : Fin 48) (off : BitVec 15) (pred : BitVec 3) (q v : BitVec 16) (c : Instr) (code : BitVec 8) (holds : Bool),
    s.pressAt n (.rel 1 code off pred) → q = s.press[n].p[pred.toNat]'pred.isLt → v = s.press[n].valid →
    (c = .brAlways n off pred ∧ code = 0 ∧ pred = 0 ∧ holds = true) ∨ (c = .brAny n off pred ∧ code = 1 ∧ holds = (q &&& v != 0)) ∨
      (c = .brAll n off pred ∧ code = 2 ∧ holds = (q &&& v == v)) ∨ (c = .brNone n off pred ∧ code = 3 ∧ holds = (q &&& v == 0)) →
    (holds = false → exec c s = .next (s.pressPast n (.rel 1 code off pred) s)) ∧
    (∀ x : Int, x = s.press[n].pc.toNat + 4 * off.toInt → holds = true →
      (0 ≤ x → x < 0x100000 → x % 4 = 0 → exec c s = .next (State.pressTo n (BitVec.ofInt 32 x) s)) ∧
      (x < 0 ∨ 0x100000 ≤ x → exec c s = .next ((s.countOps (n.castLE (by decide)) 1).kernelException n 3 s.press[n].pc)))) ∧
  (∀ (s : State) (n : Fin 48) (o : Opnd) (b : Bundle), s.up = true → s.press[n].does = .bundle b →
    (definedPress (s.word (kernelBase + s.press[n].pc.toNat)) = false ∨
      (s.pressAt n (.op 0 0 o) ∧ o.legal .nothing .nothing .nothing false = false) →
      (s.timedOut n = false → Answers (.nop n o) s fun t =>
        t.press[n].does = .idle ∧ t.get F.PRESS_EXC_INFO_CAUSE = 1 ∧ t.get F.PRESS_EXC_INFO_PC = s.press[n].pc.toNat / 4 % 2 ^ 18 ∧
        t.bit F.PRESS_EXC_INFO_JOB = false ∧ t.get F.PRESS_EXC_LAST_PRESS = n ∧ t.evStatus 369 = true ∧
        t.get F.PRESS_EXC_COUNT = min (s.get F.PRESS_EXC_COUNT + 1) (2 ^ F.PRESS_EXC_COUNT.w - 1)) ∧
      (s.timedOut n = true → Answers (.nop n o) s fun t => t.press[n].does = .fenced ∧ t.get (F.PRESS_CTL_FENCE_CAUSE n) = 1 ∧
        t.evStatus (320 + n) = true ∧ t.get F.PRESS_EXC_COUNT = s.get F.PRESS_EXC_COUNT)) ∧
    (definedPress (s.word (kernelBase + s.press[n].pc.toNat)) = true →
      s.word (kernelBase + s.press[n].pc.toNat) ≠ (Code.op 0 0 o).first → exec (.nop n o) s = .next s))

/-- R101, R108–R110, R133: a scalar operation writes its result, in one word or with an immediate, on a press and on a thread
alike; immediates, predicate moves, predicate logic and lane moves write their register; nothing else of the press changes but
the PC. -/
def Obligations.ScalarAndPredicateResults : Prop :=
  (∀ x ∈ [(SOp.mov, Instr.sopMov), (.add, .sopAdd), (.sub, .sopSub), (.mul, .sopMul), (.mulhu, .sopMulhu), (.and, .sopAnd),
      (.or, .sopOr), (.xor, .sopXor), (.shl, .sopShl), (.shr, .sopShr), (.sra, .sopSra), (.slt, .sopSlt), (.sltu, .sopSltu),
      (.min, .sopMin), (.max, .sopMax), (.fadd, .sopFadd), (.fsub, .sopFsub), (.fmul, .sopFmul), (.ftoi, .sopFtoi),
      (.itof, .sopItof)], ∀ (s : State) (o : Opnd) (c : Code), c = .op 8 x.1.code o →
    (o.legal .scalar .scalar (if x.1.unary then .nothing else .scalar) false = true →
      (∀ n : Fin 48, s.pressAt n c → o.long = none →
        exec (x.2 (.press n) o) s = .next (s.pressNext n c fun p => p.setS o.dst (x.1.eval (p.sreg o.srcA) (p.sreg o.srcB)))) ∧
      (∀ t : Fin 16, s.threadAt t c →
        exec (x.2 (.thread t) o) s = .next (s.threadNext t fun h => h.setS o.dst (x.1.eval (h.sreg o.srcA) (h.sreg o.srcB))))) ∧
    (∀ (n : Fin 48) (imm : Word), s.pressAt n (.long 4 x.1.code o imm) → o.long = some imm →
      o.legal .scalar .scalar .code false = true → exec (x.2 (.press n) o) s =
        .next (s.pressNext n (.long 4 x.1.code o imm) fun p => p.setS o.dst (x.1.eval (p.sreg o.srcA) imm)))) ∧
  (∀ a b : Word, SOp.add.eval a b = a + b ∧ SOp.sub.eval a b = a - b ∧ SOp.mul.eval a b = a * b ∧
    (SOp.mulhu.eval a b).toNat = a.toNat * b.toNat / 2 ^ 32 ∧ SOp.shl.eval a b = a <<< (b.toNat % 32) ∧
    SOp.shr.eval a b = a >>> (b.toNat % 32) ∧ SOp.sra.eval a b = a.sshiftRight (b.toNat % 32) ∧
    SOp.slt.eval a b = (if a.toInt < b.toInt then 1 else 0) ∧ SOp.sltu.eval a b = (if a.toNat < b.toNat then 1 else 0) ∧
    (SOp.min.eval a b).toInt = min a.toInt b.toInt ∧ (SOp.max.eval a b).toInt = max a.toInt b.toInt) ∧
  (∀ (s : State) (o : Opnd),
    (o.legal .scalar .scalar .nothing false = true →
      (∀ n : Fin 48, s.pressAt n (.low 9 o) → exec (.saddi (.press n) o) s =
        .next (s.pressNext n (.low 9 o) fun p => p.setS o.dst (p.sreg o.srcA + o.low.signExtend 32))) ∧
      (∀ t : Fin 16, s.threadAt t (.low 9 o) →
        exec (.saddi (.thread t) o) s = .next (s.threadNext t fun h => h.setS o.dst (h.sreg o.srcA + o.low.signExtend 32)))) ∧
    (∀ (n : Fin 48) (imm : Word), o.low = 0 →
      (s.pressAt n (.long 0 0 o imm) → o.legal .scalar .nothing .code false = true →
        exec (.sli n o imm) s = .next (s.pressNext n (.long 0 0 o imm) fun p => p.setS o.dst imm)) ∧
      (s.pressAt n (.long 1 0 o imm) → o.legal .vector .nothing .code true = true → exec (.vli n o imm) s =
        .next (s.pressNext n (.long 1 0 o imm) fun p => p.setV o.dst (byLane (p.lanes o.pred) (p.vreg o.dst) fun _ => imm)))) ∧
    (∀ n : Fin 48,
      (s.pressAt n (.op 10 0 o) → o.legal .scalar .predicate .nothing false = true → exec (.spmovPtos n o) s =
        .next (s.pressNext n (.op 10 0 o) fun p => p.setS o.dst ((p.preg o.srcA).setWidth 32))) ∧
      (s.pressAt n (.op 10 1 o) → o.legal .predicate .scalar .nothing false = true → exec (.spmovStop n o) s =
        .next (s.pressNext n (.op 10 1 o) fun p => p.setP o.dst ((p.sreg o.srcA).setWidth 16))) ∧
      (o.legal .predicate .predicate .predicate false = true →
        (s.pressAt n (.op 20 0 o) → exec (.plogAnd n o) s =
          .next (s.pressNext n (.op 20 0 o) fun p => p.setP o.dst (p.preg o.srcA &&& p.preg o.srcB))) ∧
        (s.pressAt n (.op 20 1 o) → exec (.plogOr n o) s =
          .next (s.pressNext n (.op 20 1 o) fun p => p.setP o.dst (p.preg o.srcA ||| p.preg o.srcB))) ∧
        (s.pressAt n (.op 20 2 o) → exec (.plogXor n o) s =
          .next (s.pressNext n (.op 20 2 o) fun p => p.setP o.dst (p.preg o.srcA ^^^ p.preg o.srcB))) ∧
        (s.pressAt n (.op 20 3 o) → exec (.plogAndnot n o) s =
          .next (s.pressNext n (.op 20 3 o) fun p => p.setP o.dst (p.preg o.srcA &&& ~~~p.preg o.srcB)))) ∧
      (s.pressAt n (.op 20 4 o) → o.legal .predicate .predicate .nothing false = true → exec (.plogNot n o) s =
        .next (s.pressNext n (.op 20 4 o) fun p => p.setP o.dst (~~~p.preg o.srcA))) ∧
      (o.legal .predicate .nothing .nothing false = true →
        (s.pressAt n (.op 20 5 o) → exec (.plogOnes n o) s = .next (s.pressNext n (.op 20 5 o) fun p => p.setP o.dst 0xFFFF)) ∧
        (s.pressAt n (.op 20 6 o) → exec (.plogZeros n o) s = .next (s.pressNext n (.op 20 6 o) fun p => p.setP o.dst 0)) ∧
        (s.pressAt n (.op 20 7 o) → exec (.plogValid n o) s = .next (s.pressNext n (.op 20 7 o) fun p => p.setP o.dst p.valid))) ∧
      (s.pressAt n (.op 21 0 o) → o.legal .vector .scalar .nothing true = true → exec (.vbcast n o) s = .next
        (s.pressNext n (.op 21 0 o) fun p => p.setV o.dst (byLane (p.lanes o.pred) (p.vreg o.dst) fun _ => p.sreg o.srcA))) ∧
      (∀ h : o.low.toNat < 16, s.pressAt n (.low 22 o) → o.legal .scalar .vector .nothing false = true →
        exec (.vlane n o) s = .next (s.pressNext n (.low 22 o) fun p => p.setS o.dst ((p.vreg o.srcA)[o.low.toNat])))))

/-- R101, R106, R107, R111, R112: a vector operation writes the lane results into the executing lanes and keeps the others,
with its second operand a vector, a scalar or an immediate; a compare writes a predicate that is 0 in every lane that does not
execute. -/
def Obligations.VectorLanesFollowTheirPredicate : Prop :=
  (∀ (ex : BitVec 16) (old : Vector Word 16) (f : Fin 16 → Word) (k : Fin 16),
    (byLane ex old f)[k] = if ex.getLsbD k then f k else old[k]) ∧
  (∀ x ∈ [(VOp.mov, Instr.vopMov), (.add, .vopAdd), (.sub, .vopSub), (.rsub, .vopRsub), (.mul, .vopMul), (.mad, .vopMad),
      (.min, .vopMin), (.max, .vopMax), (.abs, .vopAbs), (.neg, .vopNeg), (.and, .vopAnd), (.or, .vopOr), (.xor, .vopXor),
      (.andn, .vopAndn), (.shl, .vopShl), (.shr, .vopShr), (.sra, .vopSra), (.floor, .vopFloor), (.rcp, .vopRcp), (.rsq, .vopRsq),
      (.cvt, .vopCvt), (.swaph, .vopSwaph)],
    ∀ (s : State) (n : Fin 48) (form : VForm) (ty : BitVec 3) (o : Opnd) (c : Code), c = .vec 16 5 ty x.1.code form o →
    s.pressAt n c → vopLegal x.1 form ty o = true →
    exec (x.2 n form ty o) s = .next (s.pressNext n c fun p => p.setV o.dst (byLane (p.lanes o.pred) (p.vreg o.dst) fun k =>
      vopLane x.1 ty o (p.vreg o.dst)[k] (p.vreg o.srcA)[k] (match form with
        | .vv => (p.vreg o.srcB)[k]
        | .vs => p.sreg o.srcB
        | .imm w => w)))) ∧
  (∀ x ∈ [(VCond.eq, Instr.vcmpEq), (.ne, .vcmpNe), (.lt, .vcmpLt), (.le, .vcmpLe), (.gt, .vcmpGt), (.ge, .vcmpGe), (.ltu, .vcmpLtu),
      (.geu, .vcmpGeu)], ∀ (s : State) (n : Fin 48) (form : VForm) (ty : BitVec 3) (o : Opnd) (c : Code),
    c = .vec 18 6 ty x.1.code form o → s.pressAt n c → vcmpLegal x.1 form ty o = true →
    ∃ m : BitVec 16, exec (x.2 n form ty o) s = .next (s.pressNext n c fun p => p.setP o.dst m) ∧
      ∀ k : Fin 16, m.getLsbD k = ((s.press[n].lanes o.pred).getLsbD k && vcmpLane x.1 ty (s.press[n].vreg o.srcA)[k] (match form with
        | .vv => (s.press[n].vreg o.srcB)[k]
        | .vs => s.press[n].sreg o.srcB
        | .imm w => w))) ∧
  (∀ (d a b : Word) (o : Opnd), vopLane .add 0 o d a b = a + b ∧ vopLane .sub 0 o d a b = a - b ∧ vopLane .rsub 0 o d a b = b - a ∧
    vopLane .mul 0 o d a b = a * b ∧ vopLane .mad 0 o d a b = d + a * b ∧ vcmpLane .eq 0 a b = (a == b) ∧
    vcmpLane .lt 0 a b = decide (a.toInt < b.toInt) ∧ vcmpLane .ltu 0 a b = decide (a.toNat < b.toNat))

/-- R96, R109, R114–R119, R322: loads bring the words of the local store, or of the frame's constants, into a scalar or the
executing lanes; stores write exactly the words they name, the highest lane last; an address off its alignment or past the store
is exception 2; an error that cannot be corrected in what a load reads fences the press; and a spill moves bytes between the
local store and the press's window in DRAM, or waits while the controller does not serve it. -/
def Obligations.PressMemoryIsItsLocalStore : Prop :=
  (∀ (s : State) (n : Fin 48) (o : Opnd) (p : Press) (a : Nat) (ld st : Code), ld = .low 32 o → st = .low 33 o → p = s.press[n] →
    a = (p.sreg o.srcA + BitVec.ofNat 32 (4 * o.low.toNat)).toNat → o.legal .scalar .scalar .nothing false = true →
    (a % 4 = 0 → a < 0x1E000 →
      (s.pressAt n ld → exec (.lds n o []) s =
        .next (s.pressNext n ld fun p => p.setS o.dst (s.word (0x06200000 + n * 0x20000 + a)))) ∧
      (s.pressAt n st → exec (.sts n o) s = .next (s.pressPast n st (s.storeWord (0x06200000 + n * 0x20000 + a) (p.sreg o.dst)))) ∧
      (∀ h : EccHit, s.pressAt n ld → h.addr / 8 = (0x06200000 + n * 0x20000 + a) / 8 → h.addr < 0x8000000000 →
        (h.fixed = true → Answers (.lds n o [h]) s fun t => t.evStatus 429 = true ∧
          t.press[n].sreg o.dst = s.word (0x06200000 + n * 0x20000 + a) ∧ t.press[n].pc = p.pc + 4) ∧
        (h.fixed = false → Answers (.lds n o [h]) s fun t => t.evStatus 430 = true ∧ t.press[n].does = .fenced ∧
          t.get (F.PRESS_CTL_FENCE_CAUSE n) = 2 ∧ t.evStatus (320 + n) = true))) ∧
    (∀ b l, s.pressAt n ld → a % 4 = 0 → 0x1E000 ≤ a → a < 0x20000 → p.does = .bundle b → s.latchOf b.frame = some l →
      exec (.lds n o []) s = .next (s.pressNext n ld fun p => p.setS o.dst (l.const (a - 0x1E000)))) ∧
    (∀ ecc, s.pressAt n ld → a % 4 ≠ 0 ∨ 0x20000 < a + 4 → exec (.lds n o ecc) s = .next (s.kernelException n 2 p.pc)) ∧
    (s.pressAt n st → a % 4 ≠ 0 ∨ 0x1E000 < a + 4 → exec (.sts n o) s = .next (s.kernelException n 2 p.pc))) ∧
  (∀ (s : State) (n : Fin 48) (o : Opnd) (p : Press) (a : Nat) (ld st : Code), ld = .low 34 o → st = .low 35 o → p = s.press[n] →
    a = (p.sreg o.srcA + BitVec.ofNat 32 (64 * o.low.toNat)).toNat → o.legal .vector .scalar .nothing true = true →
    a % 64 = 0 → a + 64 ≤ 0x1E000 →
    (s.pressAt n ld → exec (.ldv n o []) s = .next (s.pressNext n ld fun p =>
      p.setV o.dst (byLane (p.lanes o.pred) (p.vreg o.dst) fun k => s.word (0x06200000 + n * 0x20000 + (a + 4 * k))))) ∧
    (s.pressAt n st → Answers (.stv n o) s fun t => t.press = (s.pressPast n st s).press ∧
      (∀ k : Fin 16, (p.lanes o.pred).getLsbD k = true → t.word (0x06200000 + n * 0x20000 + (a + 4 * k)) = (p.vreg o.dst)[k]) ∧
      ∀ x, (∀ k : Fin 16, (p.lanes o.pred).getLsbD k = true →
        x < 0x06200000 + n * 0x20000 + (a + 4 * k) ∨ 0x06200000 + n * 0x20000 + (a + 4 * k) + 4 ≤ x) →
        t.mem.readByte x = s.mem.readByte x)) ∧
  (∀ (s : State) (n : Fin 48) (o : Opnd) (p : Press) (a : Fin 16 → Nat), p = s.press[n] →
    (∀ k, a k = (p.sreg o.srcA + (p.vreg o.srcB)[k] + BitVec.ofNat 32 (4 * o.low.toNat)).toNat) →
    (o.legal .vector .scalar .vector true = true →
      (∀ k : Fin 16, (p.lanes o.pred).getLsbD k = true → a k % 4 = 0 ∧ a k < 0x1E000) →
      (s.pressAt n (.low 36 o) → exec (.gath n o []) s = .next (s.pressNext n (.low 36 o) fun p =>
        p.setV o.dst (byLane (p.lanes o.pred) (p.vreg o.dst) fun k => s.word (0x06200000 + n * 0x20000 + a k)))) ∧
      (s.pressAt n (.low 38 o) → Answers (.scat n o) s fun t => t.press = (s.pressPast n (.low 38 o) s).press ∧
        (∀ k : Fin 16, (p.lanes o.pred).getLsbD k = true →
          (∀ j : Fin 16, k < j → (p.lanes o.pred).getLsbD j = true → a j ≠ a k) →
          t.word (0x06200000 + n * 0x20000 + a k) = (p.vreg o.dst)[k]) ∧
        ∀ x, (∀ k : Fin 16, (p.lanes o.pred).getLsbD k = true →
          x < 0x06200000 + n * 0x20000 + a k ∨ 0x06200000 + n * 0x20000 + a k + 4 ≤ x) → t.mem.readByte x = s.mem.readByte x)) ∧
    (s.pressAt n (.low 37 o) → o.legal .pair .scalar .vector true = true →
      (∀ k : Fin 16, (p.lanes o.pred).getLsbD k = true → a k % 8 = 0 ∧ a k < 0x1E000) →
      exec (.gath2 n o []) s = .next (s.pressNext n (.low 37 o) fun p => p.setPair o.dst (p.lanes o.pred)
        (fun k => s.word (0x06200000 + n * 0x20000 + a k)) fun k => s.word (0x06200000 + n * 0x20000 + (a k + 4))))) ∧
  (∀ (s : State) (n : Fin 48) (o : Opnd) (p : Press) (a b len w : Nat), p = s.press[n] →
    o.legal .nothing .scalar .scalar false = true → o.low ≠ 0 → a = (p.sreg o.srcA).toNat → b = (p.sreg o.srcB).toNat →
    len = 64 * o.low.toNat → a % 64 = 0 → b % 64 = 0 → a + len ≤ 0x1E000 →
    (∀ (c : Instr) (k : BitVec 6) (ecc : List EccHit), (c = .xferOut n o ecc ∧ k = 40) ∨ (c = .xferIn n o ecc ∧ k = 41) →
      s.pressAt n (.low k o) →
      (s.spillOk b len = false → exec c s = .next (s.kernelException n 4 p.pc)) ∧
      (s.spillOk b len = true → s.dramGrants (.spill n) = false → exec c s = .next s)) ∧
    (s.spillOk b len = true → s.dramGrants (.spill n) = true → s.dram.entering = false →
      w = s.get F.PRESS_SPILL_BASE_BASE * 65536 + n * (s.get F.PRESS_SPILL_WIN_WIN_64K * 65536) + b → 0x8000000000 ≤ w →
      (∀ i < len, s.dramData (w + i) = true) →
      (s.pressAt n (.low 40 o) → Answers (.xferOut n o []) s fun t => t.press = (s.pressPast n (.low 40 o) s).press ∧
        (∀ i < len, t.mem.readByte (w + i) = s.mem.readByte (0x06200000 + n * 0x20000 + a + i)) ∧
        ∀ x, x < w ∨ w + len ≤ x → t.mem.readByte x = s.mem.readByte x) ∧
      (s.pressAt n (.low 41 o) → Answers (.xferIn n o []) s fun t => t.press = (s.pressPast n (.low 41 o) s).press ∧
        (∀ i < len, t.mem.readByte (0x06200000 + n * 0x20000 + a + i) = s.mem.readByte (w + i)) ∧
        ∀ x, x < 0x06200000 + n * 0x20000 + a ∨ 0x06200000 + n * 0x20000 + a + len ≤ x → t.mem.readByte x = s.mem.readByte x)))

/-- R82–R90, R123: the primitives of synthesis write, lane by lane, the ray values of the bundle's hogels, the depth and
colour taps of its frame with OUT in p7, weighted blends, composites and curve outputs; EMIT writes the slot buffer's entries
of the executing lanes; and outside a bundle a primitive that needs one is exception 5. -/
def Obligations.SynthesisPrimitives : Prop :=
  (∀ x ∈ [(Instr.raygenOrgX, 0), (.raygenOrgY, 1), (.raygenTanU, 2), (.raygenTanW, 3), (.raygenGain, 4), (.raygenDir, 5)],
    ∀ (s : State) (n : Fin 48) (o : Opnd) (c : Code), c = .op 48 (BitVec.ofNat 8 x.2) o → s.pressAt n c →
    o.legal .vector .nothing .nothing true = true →
    (∀ b a, s.press[n].does = .bundle b → s.latchOf b.frame = some a → exec (x.1 n o) s = .next (s.pressNext n c fun p =>
      p.setV o.dst (byLane (p.lanes o.pred) (p.vreg o.dst) fun k => s.rayValue a b k x.2))) ∧
    (∀ j, s.press[n].does = .job j → exec (x.1 n o) s = .next (s.kernelException n 5 s.press[n].pc))) ∧
  (∀ (s : State) (n : Fin 48) (o : Opnd) (b : Bundle) (a : AngleLatch) (q : Press) (ex : BitVec 16)
    (taps : Fin 16 → Option (List (Nat × Sample) × Bool)), q = s.press[n] → q.does = .bundle b →
    s.latchOf b.frame = some a → ex = q.lanes o.pred →
    (∀ k, taps k = s.taps a.hdr a.half ((q.vreg o.dst)[k].toNat % 16) ((q.vreg o.dst)[k].getLsbD 4) (q.vreg o.srcA)[k] (q.vreg o.srcB)[k]) →
    (s.pressAt n (.op 49 0 o) → o.legal .vector .vector .vector true = true →
      exec (.dsearch n o []) s = .next (s.pressNext n (.op 49 0 o) fun p =>
        (p.setV o.dst (byLane ex (p.vreg o.dst) fun k => dsearchWord (p.vreg o.dst)[k] (taps k))).setOut ex fun k => tapsOut (taps k))) ∧
    (s.pressAt n (.op 50 0 o) → o.legal .pair .vector .vector true = true →
      exec (.fetchk n o []) s = .next (s.pressNext n (.op 50 0 o) fun p =>
        (p.setPair o.dst ex (fun k => (fetchPair (taps k)).lo) fun k => (fetchPair (taps k)).hi).setOut ex fun k => tapsOut (taps k))) ∧
    (s.pressAt n (.op 54 0 o) → o.legal .nothing .pair .nothing true = true →
      (b.discard = true → exec (.emit n o) s = .next (s.pressPast n (.op 54 0 o) ((s.countOps 80 (laneList ex).length).onPress n
        fun p => { p with does := .bundle { b with written := b.written ||| ex } }))) ∧
      (b.discard = false → exec (.emit n o) s = .next (s.pressPast n (.op 54 0 o)
        ((((laneList ex).foldl (fun (t : State) (k : Fin 16) => t.emitLane b k (q.pair o.srcA k)) s).countOps 80
          (laneList ex).length).onPress n fun p => { p with does := .bundle { b with written := b.written ||| ex } }))))) ∧
  (∀ (s : State) (n : Fin 48) (o : Opnd),
    (s.pressAt n (.low 51 o) → o.legal .pair .pair .vector true = true → 1 ≤ o.low.toNat → o.low.toNat ≤ 4 →
      o.srcA.toNat + 2 * o.low.toNat ≤ 32 →
      ∃ f : Press → Fin 16 → Rgba, exec (.wblend n o) s = .next (s.pressNext n (.low 51 o) fun p =>
          p.setPair o.dst (p.lanes o.pred) (fun k => (f p k).lo) fun k => (f p k).hi) ∧
        ∀ p k, f p k = blendPairs ((List.range o.low.toNat).map fun i =>
          ((p.vreg o.srcB)[k].toNat / 256 ^ i % 256, p.pair (o.srcA + BitVec.ofNat 5 (2 * i)) k))) ∧
    (s.pressAt n (.low 52 o) → o.legal .pair .pair .pair true = true → o.low.toNat < 2 →
      exec (.comp n o) s = .next (s.pressNext n (.low 52 o) fun p =>
        p.setPair o.dst (p.lanes o.pred) (fun k => (compPair (o.low.getLsbD 0) (p.pair o.srcA k) (p.pair o.srcB k)).lo)
          fun k => (compPair (o.low.getLsbD 0) (p.pair o.srcA k) (p.pair o.srcB k)).hi)) ∧
    (∀ f : Press → Fin 16 → Nat → Nat → Nat, s.pressAt n (.low 53 o) → o.legal .pair .pair .vector true = true →
      o.low.toNat < 2 → (∀ p k i v, f p k i v = s.curve (s.lutBank n) i (o.low.getLsbD 0) (p.pair o.srcA k).a
        ((p.vreg o.srcB)[k].toNat / 32 ^ i % 32) v % 4096) →
      exec (.lut n o) s = .next (s.pressNext n (.low 53 o) fun p => p.setPair o.dst (p.lanes o.pred)
        (fun k => halves (f p k 0 (p.pair o.srcA k).r) (f p k 1 (p.pair o.srcA k).g))
        fun k => halves (f p k 2 (p.pair o.srcA k).b) 0))) ∧
  (∀ (l : List (Nat × Rgba)), ((l.map (·.1)).sum = 0 → blendPairs l = ⟨0, 0, 0, 0⟩) ∧
    ((l.map (·.1)).sum ≠ 0 → (blendPairs l).r = ((l.map fun x => x.1 * x.2.r).sum + (l.map (·.1)).sum / 2) / (l.map (·.1)).sum))

/-! ## Sequencer -/

/-- R130–R134, R137–R141: the scheduler takes one ready thread, of the highest priority and next in that priority's turn;
branches, calls, immediates and the time base change their thread alone; AT and WAITEV go on at once or wait, and a wait whose
condition holds ends at the instruction after it; comparators 4 to 63 are armed and disarmed; threads start and stop; and an
illegal instruction or a word that the profile does not define faults its thread with cause 1 and event 18. -/
def Obligations.ThreadsIssueInTurn : Prop :=
  (∀ (s : State) (t u : Fin 16), (s.scheduled t = true → s.seq.thr[t].st = .ready ∧
      (s.seq.thr[u].st = .ready → s.prioOfThread u ≤ s.prioOfThread t)) ∧
    (s.scheduled t = true → s.scheduled u = true → t = u)) ∧
  (∀ (s : State) (t : Fin 16) (sA : BitVec 5) (off : BitVec 16) (x : Int) (h : Thread), h = s.seq.thr[t] →
    x = h.pc.toNat + 4 * off.toInt →
    (∀ (c : Instr) (k : BitVec 5) (holds : Bool), s.threadAt t (.flow k sA off) →
      (c = .flowB t sA off ∧ k = 0 ∧ sA = 0 ∧ holds = true) ∨ (sA.toNat < 16 ∧
        ((c = .flowBz t sA off ∧ k = 1 ∧ holds = decide ((h.sreg sA).toInt = 0)) ∨
          (c = .flowBnz t sA off ∧ k = 2 ∧ holds = decide ((h.sreg sA).toInt ≠ 0)) ∨
          (c = .flowBltz t sA off ∧ k = 3 ∧ holds = decide ((h.sreg sA).toInt < 0)) ∨
          (c = .flowBgez t sA off ∧ k = 4 ∧ holds = decide (0 ≤ (h.sreg sA).toInt)))) →
      (holds = false → exec c s = .next (s.threadNext t id)) ∧
      (holds = true → 0 ≤ x → x < 0x40000 → exec c s = .next (State.threadTo t (BitVec.ofInt 32 x) (s.taken t))) ∧
      (holds = true → x < 0 ∨ 0x40000 ≤ x → Answers c s fun u => u.seq.thr[t].st = .faulted ∧
        u.get (F.SEQ_THR_STAT_CAUSE t) = 2 ∧ u.evStatus 866 = true)) ∧
    (sA = 0 →
      (s.threadAt t (.flow 5 sA off) → 0 ≤ x → x < 0x40000 → exec (.flowCall t sA off) s =
        .next (State.threadTo t (BitVec.ofInt 32 x) ((s.taken t).onThread t fun h => h.setS 15 (h.pc + 4)))) ∧
      (s.threadAt t (.flow 6 sA off) → off = 0 → (h.sreg 15).toNat < 0x40000 → (h.sreg 15).toNat % 4 = 0 →
        exec (.flowRet t sA off) s = .next (State.threadTo t (h.sreg 15) (s.taken t))) ∧
      (s.threadAt t (.flow 7 sA off) → off = 0 → exec (.flowHalt t sA off) s =
        .next (((s.taken t).onThread t fun h => { h with st := .stopped }).countOps 82 1))) ∧
    (s.threadAt t (.flow 1 sA off) → 16 ≤ sA.toNat → Answers (.flowBz t sA off) s fun u => u.seq.thr[t].st = .faulted ∧
      u.get (F.SEQ_THR_STAT_CAUSE t) = 1 ∧ u.evStatus 866 = true) ∧
    (s.up = true → s.scheduled t = true → definedSeq (s.word (seqBase + h.pc.toNat)) = false →
      Answers (.flowB t sA off) s fun u => u.seq.thr[t].st = .faulted ∧ u.get (F.SEQ_THR_STAT_CAUSE t) = 1 ∧
        u.evStatus 866 = true) ∧
    (∀ imm : BitVec 16, sA.toNat < 16 →
      (s.threadAt t (.simm sA 0 0 imm) →
        exec (.simmLow t sA 0 imm) s = .next (s.threadNext t fun h => h.setS sA (imm.setWidth 32))) ∧
      (s.threadAt t (.simm sA 0 1 imm) → exec (.simmHigh t sA 0 imm) s =
        .next (s.threadNext t fun h => h.setS sA (imm ++ (h.sreg sA).extractLsb' 0 16))))) ∧
  (∀ (s : State) (t : Fin 16) (o : Opnd) (h : Thread) (a b : Word), h = s.seq.thr[t] → a = h.sreg o.srcA → b = h.sreg o.srcB →
    (o.legal .nothing .scalar .nothing false = true →
      (s.threadAt t (.op 58 0 o) →
        (0 ≤ sdiff s.now a → exec (.atTime t o) s = .next (s.threadPast t (s.taken t))) ∧
        (sdiff s.now a < 0 → exec (.atTime t o) s =
          .next (((s.taken t).onThread t fun h => { h with st := .waitAt a }).countOps 82 1))) ∧
      (s.threadAt t (.op 59 2 o) → exec (.signal t o) s = .next (s.threadPast t ((s.taken t).raise (848 + a.toNat % 16)))) ∧
      (s.threadAt t (.op 62 5 o) → ∀ u : Fin 16, u.val = a.toNat % 16 →
        exec (.tstop t o) s = .next (s.threadPast t ((s.taken t).onThread u fun h => { h with st := .stopped })))) ∧
    (o.legal .scalar .nothing .nothing false = true →
      (s.threadAt t (.op 58 1 o) → exec (.rdtb t o) s = .next (s.threadNext t fun h => h.setS o.dst s.now)) ∧
      (s.threadAt t (.op 59 0 o) →
        (∀ k, s.evFor t = some k → exec (.waitev t o) s = .next (s.threadNext t fun h => h.setS o.dst (BitVec.ofNat 32 k))) ∧
        (s.evFor t = none → exec (.waitev t o) s =
          .next (((s.taken t).onThread t fun h => { h with st := .waitEv (o.dst.setWidth 4) none }).countOps 82 1)))) ∧
    (o.legal .scalar .scalar .nothing false = true → s.threadAt t (.op 59 1 o) →
      (∀ k, s.evFor t = some k → exec (.waitevDeadline t o) s = .next (s.threadNext t fun h => h.setS o.dst (BitVec.ofNat 32 k))) ∧
      (s.evFor t = none → 0 ≤ sdiff s.now a →
        exec (.waitevDeadline t o) s = .next (s.threadNext t fun h => h.setS o.dst 0xFFFFFFFF)) ∧
      (s.evFor t = none → sdiff s.now a < 0 → exec (.waitevDeadline t o) s =
        .next (((s.taken t).onThread t fun h => { h with st := .waitEv (o.dst.setWidth 4) (some a) }).countOps 82 1))) ∧
    (o.legal .nothing .nothing .nothing false = true → s.threadAt t (.op 59 3 o) →
      exec (.yield t o) s = .next (s.threadPast t (s.taken t))) ∧
    (o.legal .nothing .nothing .scalar false = true → s.threadAt t (.op 58 3 o) →
      (4 ≤ b.toNat % 64 → s.due (b.toNat % 64) = false →
        exec (.disarm t o) s = .next (s.threadPast t ((s.taken t).put (F.SEQ_LC_CFG_ARM (b.toNat % 64)) 0))) ∧
      (1 ≤ b.toNat % 64 → b.toNat % 64 ≤ 3 → Answers (.disarm t o) s fun u => u.seq.thr[t].st = .faulted ∧
        u.get (F.SEQ_THR_STAT_CAUSE t) = 1)) ∧
    (o.legal .nothing .scalar .scalar false = true →
      (s.threadAt t (.op 58 2 o) →
        (4 ≤ b.toNat % 64 → s.due (b.toNat % 64) = false → sdiff s.now a < 0 → exec (.arm t o) s =
          .next (s.threadPast t (((s.taken t).setTarget (b.toNat % 64) a).put (F.SEQ_LC_CFG_ARM (b.toNat % 64)) 1))) ∧
        (4 ≤ b.toNat % 64 → s.due (b.toNat % 64) = false → 0 ≤ sdiff s.now a → Answers (.arm t o) s fun u =>
          u.bit (F.SEQ_LC_CFG_ARM (b.toNat % 64)) = false ∧ u.bit (F.SEQ_LC_CFG_LATE (b.toNat % 64)) = true ∧
          u.target (b.toNat % 64) = a ∧ u.evStatus 867 = true) ∧
        (1 ≤ b.toNat % 64 → b.toNat % 64 ≤ 3 → Answers (.arm t o) s fun u => u.seq.thr[t].st = .faulted ∧
          u.get (F.SEQ_THR_STAT_CAUSE t) = 1)) ∧
      (s.threadAt t (.op 62 4 o) → ∀ u : Fin 16, u.val = a.toNat % 16 →
        s.seq.thr[u].st = .stopped ∨ s.seq.thr[u].st = .faulted → b.toNat < 0x40000 → b.toNat % 4 = 0 →
        Answers (.tstart t o) s fun z => z.seq.thr[u].st = .ready ∧ z.seq.thr[u].pc = b ∧
          z.seq.thr[u].s[0] = BitVec.ofNat 32 u ∧ z.get (F.SEQ_THR_STAT_CAUSE u) = 0 ∧ z.seq.thr[t].pc = h.pc + 4))) ∧
  (∀ (s : State) (t : Fin 16) (h : Thread), s.up = true → h = s.seq.thr[t] → h.pc.toNat % 4 = 0 → h.pc.toNat + 4 < 0x40000 →
    (∀ x, h.st = .waitAt x →
      (0 ≤ sdiff s.now x →
        exec (.threadWake t) s = .next (s.onThread t fun h => { h with st := .ready, pc := h.pc + 4 })) ∧
      (sdiff s.now x < 0 → exec (.threadWake t) s = .next s)) ∧
    (∀ d x k, h.st = .waitEv d x → s.evFor t = some k → exec (.threadWake t) s =
      .next (s.onThread t fun h => { h.setS (d.setWidth 5) (BitVec.ofNat 32 k) with st := .ready, pc := h.pc + 4 })))

/-- R135, R136, R143–R145, R180, R304, R322: LD, ST and XCHG reach aligned on-chip words outside the stores, and fault with cause
3 elsewhere; an error in what they read is reported; WR and RD are register accesses, with BADREG and event 28 where no register
is; a KICK takes the next ticket and hands its work to a press, a codec lane or a ring, at once or held for a release line, or is
refused with its cause and event 17. -/
def Obligations.ThreadsReachMemoryRegistersAndUnits : Prop :=
  (∀ (s : State) (t : Fin 16) (o : Opnd) (h : Thread) (a : Nat), h = s.seq.thr[t] →
    (a = (h.sreg o.srcA + BitVec.ofNat 32 (4 * o.low.toNat)).toNat → o.legal .scalar .scalar .nothing false = true →
      (a % 4 = 0 → 0x01000000 ≤ a → a < 0x07000000 → a < 0x06200000 ∨ 0x06900000 ≤ a →
        (s.threadAt t (.low 60 o) →
          exec (.ld t o []) s = .next (s.threadNext t fun h => h.setS o.dst (s.word a)) ∧
          (∀ x : EccHit, x.addr / 8 = a / 8 → Answers (.ld t o [x]) s fun u => u.seq.thr[t].pc = h.pc + 4 ∧
            u.evStatus (if x.fixed then 429 else 430) = true)) ∧
        (s.threadAt t (.low 61 o) → exec (.st t o) s = .next (s.threadPast t ((s.taken t).storeWord a (h.sreg o.dst))))) ∧
      (a % 4 ≠ 0 ∨ a < 0x01000000 ∨ 0x07000000 ≤ a ∨ (0x06200000 ≤ a ∧ a < 0x06900000) →
        ∀ (c : Instr) (k : BitVec 6), (c = .ld t o [] ∧ k = 60) ∨ (c = .st t o ∧ k = 61) → s.threadAt t (.low k o) →
          Answers c s fun u => u.seq.thr[t].st = .faulted ∧ u.get (F.SEQ_THR_STAT_CAUSE t) = 3 ∧ u.evStatus 866 = true)) ∧
    (a = (h.sreg o.srcA).toNat → o.legal .scalar .scalar .nothing false = true → a % 4 = 0 → 0x01000000 ≤ a →
      a < 0x07000000 → a < 0x06200000 ∨ 0x06900000 ≤ a → s.threadAt t (.op 62 2 o) → exec (.xchg t o []) s =
        .next (s.threadPast t (((s.taken t).storeWord a (h.sreg o.dst)).onThread t fun h => h.setS o.dst (s.word a))))) ∧
  (∀ (s : State) (t : Fin 16) (o : Opnd) (h : Thread) (a : Nat), h = s.seq.thr[t] → a = (h.sreg o.srcA).toNat →
    (s.threadAt t (.op 62 0 o) → o.legal .nothing .scalar .scalar false = true →
      (∀ u, (s.taken t).writeReg a (h.sreg o.srcB) = some u →
        exec (.wr t o) s = .next (s.threadPast t u)) ∧
      ((s.taken t).writeReg a (h.sreg o.srcB) = none → Answers (.wr t o) s fun u =>
        u.bit (F.SEQ_THR_STAT_BADREG t) = true ∧ u.evStatus 876 = true ∧ u.seq.thr[t].pc = h.pc + 4)) ∧
    (s.threadAt t (.op 62 1 o) → o.legal .scalar .scalar .nothing false = true →
      (∀ w u, (s.taken t).readReg a = some (w, u) → Answers (.rd t o) s fun z => z.rdata = w ∧ z.seq.thr[t].sreg o.dst = w ∧
        z.seq.thr[t].pc = h.pc + 4) ∧
      (RegMap.find a = none → Answers (.rd t o) s fun z => z.seq.thr[t].sreg o.dst = 0 ∧ z.bit (F.SEQ_THR_STAT_BADREG t) = true ∧
        z.evStatus 876 = true ∧ z.seq.thr[t].pc = h.pc + 4))) ∧
  (∀ (s : State) (t : Fin 16) (o : Opnd) (h : Thread) (arg : Word) (c : Instr) (k rel : Nat), s.threadAt t (.op 62 3 o) →
    h = s.seq.thr[t] → arg = h.sreg o.srcA → o.legal .scalar .scalar .code false = true → k = o.srcB.toNat % 4 →
    rel = o.srcB.toNat / 4 →
    (c = .kickPressJob t o ∧ (k = 0 ∨ k = 3)) ∨ (c = .kickCodecJob t o ∧ (k = 1 ∨ k = 3)) ∨ (c = .kickRackList t o ∧ (k = 2 ∨ k = 3)) →
    (k = 3 → (s.taken t).kickCause k arg (rel != 0) = 2) ∧
    ((s.taken t).kickCause k arg (rel != 0) ≠ 0 → Answers c s fun u => u.evStatus 865 = true ∧ u.seq.ticket = s.seq.ticket ∧
      u.seq.jobs = s.seq.jobs ∧ u.seq.held = s.seq.held ∧ u.seq.thr[t].sreg o.dst =
        BitVec.ofNat 32 (s.seq.ticket.toNat + 2 ^ 28 * (s.taken t).kickCause k arg (rel != 0) + 2 ^ 31)) ∧
    ((s.taken t).kickCause k arg (rel != 0) = 0 → Answers c s fun u => u.seq.ticket = s.seq.ticket + 1 ∧
      u.seq.thr[t].sreg o.dst = (s.seq.ticket + 1).setWidth 32 ∧ u.seq.thr[t].pc = h.pc + 4 ∧
      (rel ≠ 0 → u.seq.held = s.seq.held ++ [⟨7 + rel, k, arg, s.seq.ticket + 1⟩] ∧ u.seq.jobs = s.seq.jobs) ∧
      (rel = 0 → k = 0 → u.seq.jobs = s.seq.jobs ++ [s.pressJobAt arg.toNat (s.seq.ticket + 1)]) ∧
      (rel = 0 → k = 1 → ∃ n : Fin 32, s.laneFor (JobDesc.ofWords (s.descWords arg.toNat)) = some n ∧
        u.codec.lanes[n].jobs = s.codec.lanes[n].jobs ++ [⟨arg.toNat, [], s.seq.ticket + 1, 0, 0, 0, false, false⟩]) ∧
      (rel = 0 → k = 2 → u.get (F.RACK_RING_WPTR_WPTR (arg.toNat % 4)) = arg.toNat / 65536)))
end

