-- ==== Sys2Proof/Laws/Store.lean ====
section
/-! SUPPORT. The laws of finite maps in canonical form and of memory: what a read gives after a write, and that every operation
keeps the canonical form. -/

namespace Sys2Proof.Machine

/-! ## Finite maps -/

section Assoc

variable {α : Type}

@[simp] theorem assocGet_nil (d : α) (k : Nat) : assocGet d k [] = d := rfl

theorem assocGet_erase (d : α) (k j : Nat) (l : List (Nat × α)) :
    assocGet d j (assocErase k l) = if j = k then d else assocGet d j l := by
  induction l with
  | nil => simp [assocErase]
  | cons e l ih =>
    obtain ⟨i, v⟩ := e
    by_cases hik : i = k
    · subst hik
      by_cases hji : j = i
      · subst hji; simpa [assocErase] using ih
      · simp [assocErase, ih, assocGet, hji, Ne.symm hji]
    · by_cases hij : i = j
      · subst hij; simp [assocErase, hik, assocGet]
      · simp [assocErase, hik, assocGet, hij, ih]

/-- No entry of key `k`. -/
def Lacks (k : Nat) (l : List (Nat × α)) : Prop := ∀ e ∈ l, e.1 ≠ k

theorem assocGet_insert (d : α) (k j : Nat) (v : α) (l : List (Nat × α)) (h : Lacks k l) :
    assocGet d j (assocInsert k v l) = if j = k then v else assocGet d j l := by
  induction l with
  | nil => by_cases hjk : k = j <;> simp [assocInsert, assocGet, hjk, eq_comm]
  | cons e l ih =>
    obtain ⟨i, w⟩ := e
    have hik : i ≠ k := h (i, w) (by simp)
    have hl : Lacks k l := fun e he => h e (by simp [he])
    by_cases hki : k < i
    · by_cases hjk : k = j
      · subst hjk; simp [assocInsert, hki, assocGet]
      · simp [assocInsert, hki, assocGet, hjk, Ne.symm hjk]
    · by_cases hij : i = j
      · subst hij; simp [assocInsert, hki, assocGet, hik]
      · simp [assocInsert, hki, assocGet, hij, ih hl]

theorem assocErase_lacks (k : Nat) (l : List (Nat × α)) : Lacks k (assocErase k l) := by
  induction l with
  | nil => intro e he; simp [assocErase] at he
  | cons e l ih =>
    obtain ⟨i, w⟩ := e
    by_cases hik : i = k
    · simpa [assocErase, hik] using ih
    · intro f hf
      rcases (by simpa [assocErase, hik] using hf : f = (i, w) ∨ f ∈ assocErase k l) with rfl | hf
      · exact hik
      · exact ih f hf

/-- Reading a key of a map after setting one: the new value there, the old one elsewhere. -/
theorem assocGet_set [DecidableEq α] (d : α) (k j : Nat) (v : α) (l : List (Nat × α)) :
    assocGet d j (assocSet d k v l) = if j = k then v else assocGet d j l := by
  unfold assocSet
  by_cases hv : v = d
  · simp only [hv, if_pos]
    rw [assocGet_erase]
  · rw [if_neg hv, assocGet_insert _ _ _ _ _ (assocErase_lacks k l), assocGet_erase]
    by_cases hjk : j = k <;> simp [hjk]

/-- Every key of the list lies above `k`. -/
def Above (k : Nat) (l : List (Nat × α)) : Prop := ∀ e ∈ l, k < e.1

theorem keysRise_cons (e : Nat × α) (l : List (Nat × α)) :
    keysRise (e :: l) = true ↔ Above e.1 l ∧ keysRise l = true := by
  induction l generalizing e with
  | nil => simp [keysRise, Above]
  | cons f l ih =>
    obtain ⟨j, v⟩ := e
    obtain ⟨k, w⟩ := f
    simp only [keysRise, Bool.and_eq_true, decide_eq_true_eq]
    constructor
    · rintro ⟨hjk, h⟩
      refine ⟨?_, h⟩
      intro f hf
      rcases List.mem_cons.1 hf with rfl | hf
      · exact hjk
      · exact lt_trans hjk (((ih (k, w)).1 h).1 f hf)
    · rintro ⟨ha, h⟩
      exact ⟨ha (k, w) (by simp), h⟩

theorem above_erase {k j : Nat} {l : List (Nat × α)} (h : Above k l) : Above k (assocErase j l) := by
  induction l with
  | nil => simpa [assocErase] using h
  | cons e l ih =>
    obtain ⟨i, w⟩ := e
    have hl : Above k l := fun e he => h e (by simp [he])
    by_cases hij : i = j
    · simpa [assocErase, hij] using ih hl
    · intro f hf
      rcases (by simpa [assocErase, hij] using hf : f = (i, w) ∨ f ∈ assocErase j l) with rfl | hf
      · exact h _ (by simp)
      · exact ih hl f hf

theorem keysRise_erase {k : Nat} {l : List (Nat × α)} (h : keysRise l = true) : keysRise (assocErase k l) = true := by
  induction l with
  | nil => simp [assocErase, keysRise]
  | cons e l ih =>
    obtain ⟨i, w⟩ := e
    have hc := (keysRise_cons _ _).1 h
    by_cases hik : i = k
    · simpa [assocErase, hik] using ih hc.2
    · simp only [assocErase, hik, if_false]
      exact (keysRise_cons _ _).2 ⟨above_erase hc.1, ih hc.2⟩

theorem mem_erase {k : Nat} {l : List (Nat × α)} {e : Nat × α} (h : e ∈ assocErase k l) : e ∈ l := by
  induction l with
  | nil => exact h
  | cons f l ih =>
    obtain ⟨i, w⟩ := f
    by_cases hik : i = k
    · simp only [assocErase, hik, if_true] at h
      exact List.mem_cons_of_mem _ (ih h)
    · rcases (by simpa [assocErase, hik] using h : e = (i, w) ∨ e ∈ assocErase k l) with rfl | h
      · simp
      · exact List.mem_cons_of_mem _ (ih h)

theorem mem_insert {k : Nat} {v : α} {l : List (Nat × α)} {e : Nat × α} (h : e ∈ assocInsert k v l) :
    e = (k, v) ∨ e ∈ l := by
  induction l with
  | nil => left; simpa [assocInsert] using h
  | cons f l ih =>
    obtain ⟨i, w⟩ := f
    by_cases hki : k < i
    · simpa [assocInsert, hki] using h
    · rcases (by simpa [assocInsert, hki] using h : e = (i, w) ∨ e ∈ assocInsert k v l) with rfl | h
      · simp
      · rcases ih h with h | h
        · exact .inl h
        · exact .inr (List.mem_cons_of_mem _ h)

theorem keysRise_insert {k : Nat} {v : α} {l : List (Nat × α)} (hl : Lacks k l) (h : keysRise l = true) :
    keysRise (assocInsert k v l) = true := by
  induction l with
  | nil => simp [assocInsert, keysRise]
  | cons e l ih =>
    obtain ⟨i, w⟩ := e
    have hc := (keysRise_cons _ _).1 h
    by_cases hki : k < i
    · simp only [assocInsert, hki, if_true]
      refine (keysRise_cons _ _).2 ⟨?_, h⟩
      intro f hf
      rcases List.mem_cons.1 hf with rfl | hf
      · exact hki
      · exact lt_trans hki (hc.1 f hf)
    · simp only [assocInsert, hki, if_false]
      have hik : i < k := lt_of_le_of_ne (not_lt.1 hki) (hl (i, w) (by simp))
      refine (keysRise_cons _ _).2 ⟨?_, ih (fun e he => hl e (by simp [he])) hc.2⟩
      intro f hf
      rcases mem_insert hf with rfl | hf
      · exact hik
      · exact hc.1 f hf

/-- Setting a key keeps the canonical form. -/
theorem canonical_set [DecidableEq α] {d : Nat → α} {k : Nat} {v : α} {l : List (Nat × α)} (h : Canonical d l) :
    Canonical d (assocSet (d k) k v l) := by
  unfold assocSet
  by_cases hv : v = d k
  · rw [if_pos hv]
    exact ⟨keysRise_erase h.1, fun e he => h.2 e (mem_erase he)⟩
  · rw [if_neg hv]
    refine ⟨keysRise_insert (assocErase_lacks k l) (keysRise_erase h.1), fun e he => ?_⟩
    rcases mem_insert he with rfl | he
    · exact hv
    · exact h.2 e (mem_erase he)

theorem canonical_filter {d : Nat → α} {l : List (Nat × α)} (p : Nat × α → Bool) (h : Canonical d l) :
    Canonical d (l.filter p) := by
  refine ⟨?_, fun e he => h.2 e (List.mem_filter.1 he).1⟩
  have hr := h.1
  clear h
  induction l with
  | nil => simp [keysRise]
  | cons e l ih =>
    have hc := (keysRise_cons _ _).1 hr
    by_cases hp : p e
    · rw [List.filter_cons_of_pos hp]
      exact (keysRise_cons _ _).2 ⟨fun f hf => hc.1 f (List.mem_filter.1 hf).1, ih hc.2⟩
    · rw [List.filter_cons_of_neg hp]
      exact ih hc.2

end Assoc

/-! ## Memory -/

theorem Mem.wf_iff (m : Mem) : m.wf = true ↔ Canonical (fun _ => (0 : Byte)) m.cells := by
  simp [Mem.wf, Canonical]

@[simp] theorem Mem.empty_wf : Mem.empty.wf = true := rfl

/-- Writing a byte keeps the canonical form. -/
@[simp] theorem Mem.writeByte_wf {m : Mem} (a : Nat) (b : Byte) (h : m.wf = true) : (m.writeByte a b).wf = true := by
  rw [Mem.wf_iff] at h ⊢
  exact canonical_set (d := fun _ => (0 : Byte)) h

@[simp] theorem Mem.writeBytes_wf {m : Mem} (a : Nat) (bs : List Byte) (h : m.wf = true) :
    (m.writeBytes a bs).wf = true := by
  induction bs generalizing m a with
  | nil => simpa [Mem.writeBytes] using h
  | cons b bs ih => exact ih _ (Mem.writeByte_wf a b h)

@[simp] theorem Mem.writeWord_wf {m : Mem} (a : Nat) (w : Word) (h : m.wf = true) : (m.writeWord a w).wf = true :=
  Mem.writeBytes_wf _ _ h

@[simp] theorem Mem.writeNat_wf {m : Mem} (a n v : Nat) (h : m.wf = true) : (m.writeNat a n v).wf = true :=
  Mem.writeBytes_wf _ _ h

@[simp] theorem Mem.copy_wf {m : Mem} (src dst n : Nat) (h : m.wf = true) : (m.copy src dst n).wf = true :=
  Mem.writeBytes_wf _ _ h

@[simp] theorem Mem.zero_wf {m : Mem} (lo hi : Nat) (h : m.wf = true) : (m.zero lo hi).wf = true := by
  rw [Mem.wf_iff] at h ⊢
  exact canonical_filter _ h

@[simp] theorem Mem.undefine_wf {m : Mem} (lo hi e : Nat) (h : m.wf = true) : (m.undefine lo hi e).wf = true :=
  Mem.zero_wf lo hi h

/-- After a cut, address `x` lies in a gap if it did before and is not among the bytes cut out. -/
theorem Gap.mem_cut (lo hi x : Nat) (hlo : lo ≤ hi) (g : Gap) :
    (∃ k ∈ g.cut lo hi, k.lo ≤ x ∧ x < k.hi) ↔ (g.lo ≤ x ∧ x < g.hi) ∧ ¬(lo ≤ x ∧ x < hi) := by
  unfold Gap.cut
  by_cases h1 : g.lo < min g.hi lo <;> by_cases h2 : max g.lo hi < g.hi <;> simp [h1, h2] <;> omega

theorem Gap.cut_epoch (lo hi : Nat) (g k : Gap) (h : k ∈ g.cut lo hi) : k.epoch = g.epoch := by
  unfold Gap.cut at h
  rcases List.mem_append.1 h with h | h <;> split at h <;> simp at h <;> rw [h]

theorem Gap.find_cut (lo hi x : Nat) (hlo : lo ≤ hi) (l : List Gap) :
    ((l.flatMap (Gap.cut lo hi)).find? fun g => decide (g.lo ≤ x ∧ x < g.hi)).map Gap.epoch =
      if lo ≤ x ∧ x < hi then none else (l.find? fun g => decide (g.lo ≤ x ∧ x < g.hi)).map Gap.epoch := by
  induction l with
  | nil => simp
  | cons g l ih =>
    rw [List.flatMap_cons, List.find?_append]
    cases hf : (g.cut lo hi).find? fun g => decide (g.lo ≤ x ∧ x < g.hi) with
    | some k =>
      have hk := List.find?_some hf
      have hm := List.mem_of_find?_eq_some hf
      have he := Gap.cut_epoch lo hi g k hm
      have := (Gap.mem_cut lo hi x hlo g).1 ⟨k, hm, by simpa using hk⟩
      simp [this.1, this.2, he]
    | none =>
      have hn : ¬ ∃ k ∈ g.cut lo hi, k.lo ≤ x ∧ x < k.hi := by
        rintro ⟨k, hm, hk⟩
        exact absurd (List.find?_eq_none.1 hf k hm) (by simpa using hk)
      rw [Gap.mem_cut lo hi x hlo g] at hn
      simp only [Option.none_or, ih]
      by_cases hx : lo ≤ x ∧ x < hi
      · simp [hx]
      · rw [if_neg hx, if_neg hx]
        have : ¬(g.lo ≤ x ∧ x < g.hi) := fun h => hn ⟨h, hx⟩
        rw [List.find?_cons_of_neg (by simpa using this)]

theorem Mem.readByte_eq (m : Mem) (a : Nat) :
    m.readByte a = match (m.gaps.find? fun g => decide (g.lo ≤ a ∧ a < g.hi)).map Gap.epoch with
      | some e => Config.freeByte e a
      | none => assocGet 0 a m.cells := by
  unfold Mem.readByte
  cases m.gaps.find? fun g => decide (g.lo ≤ a ∧ a < g.hi) <;> rfl

/-- A read after the write of a byte: the byte there, the old byte elsewhere. -/
theorem Mem.readByte_writeByte (m : Mem) (a j : Nat) (b : Byte) :
    (m.writeByte a b).readByte j = if j = a then b else m.readByte j := by
  rw [Mem.readByte_eq, Mem.readByte_eq, Mem.writeByte, Gap.find_cut a (a + 1) j (by omega), assocGet_set]
  by_cases hj : j = a
  · simp [hj]
  · have : ¬(a ≤ j ∧ j < a + 1) := by omega
    rw [if_neg this, if_neg hj, if_neg hj]

/-- A read after the write of bytes: the byte written there, the old byte elsewhere. -/
theorem Mem.readByte_writeBytes (m : Mem) (a j : Nat) (bs : List Byte) :
    (m.writeBytes a bs).readByte j = if a ≤ j ∧ j < a + bs.length then bs.getD (j - a) 0 else m.readByte j := by
  induction bs generalizing m a with
  | nil =>
    have : ¬(a ≤ j ∧ j < a + ([] : List Byte).length) := by simp
    rw [if_neg this]; rfl
  | cons b bs ih =>
    rw [Mem.writeBytes, ih, Mem.readByte_writeByte]
    by_cases hja : j = a
    · subst hja; simp
    · by_cases hin : a ≤ j ∧ j < a + (b :: bs).length
      · have h1 : a + 1 ≤ j ∧ j < a + 1 + bs.length := by simp at hin; omega
        rw [if_pos hin, if_pos h1]
        obtain ⟨k, rfl⟩ : ∃ k, j = a + 1 + k := ⟨j - (a + 1), by omega⟩
        have e1 : a + 1 + k - (a + 1) = k := by omega
        have e2 : a + 1 + k - a = k + 1 := by omega
        rw [e1, e2]; rfl
      · have h1 : ¬(a + 1 ≤ j ∧ j < a + 1 + bs.length) := by simp at hin; omega
        rw [if_neg hin, if_neg h1, if_neg hja]

end Sys2Proof.Machine
end

