-- ==== Sys2Proof/Laws/SoundOps.lean ====
section
/-! SUPPORT. What every operation keeps: the canonical form of memory and of both register maps, the queue of waiting commands,
and every fuse bit that is programmed. `b.Sound s` says that `s` has it all, with `b`'s queue and at least `b`'s fuses. -/

namespace Sys2Proof.Machine

/-- The five fields that soundness is about. -/
structure Parts (b : State) (regs act : List (Nat × Word)) (mem : Mem) (pending : List Instr) (fuses : Fuses) : Prop where
  regs : Canonical RegMap.reset regs
  act : Canonical RegMap.reset act
  mem : mem.wf = true
  queue : pending = b.pending
  fuses : b.fuses.le fuses

/-- The state is canonical data, has the queue of `b` and at least the programmed fuses of `b`. -/
def State.Sound (b s : State) : Prop := Parts b s.regs s.act s.mem s.pending s.fuses

variable {b s t : State}

theorem Fuses.le_refl (f : Fuses) : f.le f := fun _ _ h => h

theorem State.canonical.sound (h : s.canonical) : s.Sound s := ⟨h.2.1, h.2.2, h.1, rfl, Fuses.le_refl _⟩

theorem State.Sound.canonical (h : b.Sound s) : s.canonical := ⟨h.mem, h.regs, h.act⟩

theorem parts_sound : Parts b s.regs s.act s.mem s.pending s.fuses = b.Sound s := propext ⟨id, id⟩

/-- A record update outside the five fields. -/
theorem sound_mk {regs act mem pending fuses mode wos free rdata out eventN evt link tb tsq frm dist press imgP imgS lut seq
    rmon trl hv panel rack codec sensed pins loader pcieUp clock dram pll pwr therm cal} :
    b.Sound ⟨mode, regs, act, wos, mem, free, rdata, out, eventN, evt, link, tb, tsq, frm, dist, press, imgP, imgS, lut, seq,
      rmon, trl, hv, panel, rack, codec, fuses, sensed, pins, loader, pcieUp, clock, dram, pll, pwr, therm, cal, pending⟩ =
      Parts b regs act mem pending fuses := propext ⟨id, id⟩

theorem sound_snd {α : Type} {p : α × State} {w : α} (e : p = (w, t)) (h : b.Sound p.2) : b.Sound t := by
  subst e; exact h

theorem sound_fst {α : Type} {p : State × α} {w : α} (e : p = (t, w)) (h : b.Sound p.1) : b.Sound t := by
  subst e; exact h

theorem sound_ite {c : Prop} [Decidable c] (hs : b.Sound s) (ht : b.Sound t) : b.Sound (if c then s else t) := by
  split <;> assumption

theorem sound_foldl {α : Type} {f : State → α → State} (hf : ∀ t x, b.Sound t → b.Sound (f t x)) (l : List α)
    (h : b.Sound s) : b.Sound (l.foldl f s) := by
  induction l generalizing s with
  | nil => exact h
  | cons x l ih => exact ih (hf _ _ h)

theorem sound_mem {m : Mem} (hm : m.wf = true) (h : b.Sound s) : b.Sound { s with mem := m } :=
  ⟨h.regs, h.act, hm, h.queue, h.fuses⟩

theorem sound_foldl_snd {α β : Type} {f : β × State → α → β × State}
    (hf : ∀ r x, b.Sound r.2 → b.Sound (f r x).2) (l : List α)
    {r : β × State} (h : b.Sound r.2) : b.Sound (l.foldl f r).2 := by
  induction l generalizing r with
  | nil => exact h
  | cons x l ih => exact ih (hf _ _ h)

theorem sound_foldl_fst {α β : Type} {f : State × β → α → State × β}
    (hf : ∀ r x, b.Sound r.1 → b.Sound (f r x).1) (l : List α)
    {r : State × β} (h : b.Sound r.1) : b.Sound (l.foldl f r).1 := by
  induction l generalizing r with
  | nil => exact h
  | cons x l ih => exact ih (hf _ _ h)

theorem parts_mem {m : Mem} (hm : m.wf = true) (h : b.Sound s) : Parts b s.regs s.act m s.pending s.fuses :=
  sound_mem hm h

theorem sound_mem_wf (h : b.Sound s) : s.mem.wf = true := h.mem

theorem State.when_sound (c : Bool) (f : State → State) (hf : ∀ t, b.Sound t → b.Sound (f t)) (h : b.Sound s) :
    b.Sound (s.when c f) := by
  unfold State.when; exact sound_ite (hf _ h) h

theorem State.setReg_sound (a : Nat) (w : Word) (h : b.Sound s) : b.Sound (s.setReg a w) :=
  ⟨canonical_set h.regs, h.act, h.mem, h.queue, h.fuses⟩

theorem State.put_sound (f : Field) (v : Nat) (h : b.Sound s) : b.Sound (s.put f v) := setReg_sound _ _ h

theorem State.putB_sound (f : Field) (v : Bool) (h : b.Sound s) : b.Sound (s.putB f v) := setReg_sound _ _ h

theorem State.putS_sound (f : Field) (v : Int) (h : b.Sound s) : b.Sound (s.putS f v) := setReg_sound _ _ h

theorem State.countBy_sound (f : Field) (n : Nat) (h : b.Sound s) : b.Sound (s.countBy f n) := setReg_sound _ _ h

theorem State.count_sound (f : Field) (h : b.Sound s) : b.Sound (s.count f) := setReg_sound _ _ h

theorem State.wrapCount_sound (f : Field) (h : b.Sound s) : b.Sound (s.wrapCount f) := setReg_sound _ _ h

theorem State.setAct_sound (a : Nat) (w : Word) (h : b.Sound s) : b.Sound (s.setAct a w) :=
  ⟨h.regs, canonical_set h.act, h.mem, h.queue, h.fuses⟩

theorem State.activate_sound (l : List Nat) (h : b.Sound s) : b.Sound (s.activate l) :=
  sound_foldl (fun _ _ h => setAct_sound _ _ h) l h

theorem State.storeOpen_sound (a : Nat) (bs : List Byte) (h : b.Sound s) : b.Sound (s.storeOpen a bs) := by
  induction bs generalizing s a with
  | nil => exact h
  | cons x bs ih => exact ih _ (sound_ite h (sound_mem (Mem.writeByte_wf _ _ h.mem) h))

theorem State.store_sound (a : Nat) (bs : List Byte) (h : b.Sound s) : b.Sound (s.store a bs) :=
  sound_ite (storeOpen_sound a bs h) (sound_mem (Mem.writeBytes_wf _ _ h.mem) h)

theorem State.storeWord_sound (a : Nat) (w : Word) (h : b.Sound s) : b.Sound (s.storeWord a w) := store_sound _ _ h

theorem State.lose_sound (lo hi : Nat) (h : b.Sound s) : b.Sound (s.lose lo hi) :=
  show b.Sound { s with mem := s.mem.undefine lo hi s.free } from sound_mem (Mem.undefine_wf _ _ _ h.mem) h

theorem State.draw_sound (h : b.Sound s) : b.Sound s.draw.2 := h

theorem State.emit_sound (o : Out) (h : b.Sound s) : b.Sound (s.emit o) := h

theorem State.countOps_sound (u : Fin 83) (n : Nat) (h : b.Sound s) : b.Sound (s.countOps u n) := h

theorem State.restartIdle_sound (h : b.Sound s) : b.Sound s.restartIdle := h

theorem State.onPort_sound (p : Fin 4) (f : LinkPort → LinkPort) (h : b.Sound s) : b.Sound (s.onPort p f) := h

theorem State.onPress_sound (n : Fin 48) (f : Press → Press) (h : b.Sound s) : b.Sound (s.onPress n f) := h

theorem State.onThread_sound (t : Fin 16) (f : Thread → Thread) (h : b.Sound s) : b.Sound (s.onThread t f) := h

theorem State.onLane_sound (n : Fin 32) (f : Lane → Lane) (h : b.Sound s) : b.Sound (s.onLane n f) := h

theorem State.setHalf_sound (x : Bool) (y : Option HalfFrame) (h : b.Sound s) : b.Sound (s.setHalf x y) := h

/-! ## Outcomes -/

/-- Whatever next state an outcome holds keeps soundness. -/
structure Keeps (b : State) (o : Host.Outcome State Fault Refusal) : Prop where
  next : ∀ t, o = .next t → b.Sound t

theorem next_sound (h : b.Sound s) : Keeps b (.next s) := ⟨fun _ e => Host.Outcome.next.inj e ▸ h⟩

theorem ifUp_sound (f : State → State) (hf : ∀ t, b.Sound t → b.Sound (f t)) (h : b.Sound s) : Keeps b (s.ifUp f) :=
  next_sound (sound_ite (hf _ h) h)

theorem ifOn_sound (f : State → State) (hf : ∀ t, b.Sound t → b.Sound (f t)) (h : b.Sound s) : Keeps b (s.ifOn f) :=
  next_sound (sound_ite (hf _ h) h)

/-! ## Events -/

/-- A raiser that keeps soundness, as the delivery functions take one. -/
def KeepsRaise (b : State) (raise : State → Nat → State) : Prop := ∀ t n, b.Sound t → b.Sound (raise t n)

theorem State.setStatus_sound (n : Nat) (h : b.Sound s) : b.Sound (s.setStatus n) := by
  unfold State.setStatus; exact sound_ite (setReg_sound _ _ h) (setReg_sound _ _ h)

variable {raise : State → Nat → State} (hr : KeepsRaise b raise)
include hr

theorem State.qfull_sound (p : Fin 4) (h : b.Sound s) : b.Sound (s.qfull raise p) := hr _ _ (count_sound _ h)

theorem State.enqueue_sound (p : Fin 4) (path1 : Bool) (k : Packet) (h : b.Sound s) :
    b.Sound (s.enqueue raise p path1 k) := sound_ite (onPort_sound _ _ h) (qfull_sound hr p h)

theorem State.routeDrop_sound (h : b.Sound s) : b.Sound (s.routeDrop raise) := hr _ _ (count_sound _ h)

omit hr in
theorem State.eventRing_sound (x y : Byte) (source : BitVec 10) (lost : Byte) (tb : Word) (h : b.Sound s) :
    b.Sound (s.eventRing x y source lost tb) := by
  unfold State.eventRing
  refine sound_ite h (sound_ite (put_sound _ _ h) (put_sound _ _ ?_))
  exact storeWord_sound _ _ (storeWord_sound _ _ (storeWord_sound _ _ (storeWord_sound _ _ h)))

theorem State.sendEventCopy_sound (n lost : Nat) (route : Bool) (h : b.Sound s) :
    b.Sound (s.sendEventCopy raise n lost route) := by
  unfold State.sendEventCopy
  dsimp only
  split
  · exact eventRing_sound _ _ _ _ _ h
  · exact routeDrop_sound hr h
  · exact enqueue_sound hr _ _ _ h

theorem State.sendEvent_sound (n : Nat) (h : b.Sound s) : b.Sound (s.sendEvent raise n) := by
  unfold State.sendEvent
  dsimp only
  have hr : ∀ t n, b.Sound t → b.Sound (raise t n) := hr
  repeat' first | with_reducible assumption | with_reducible apply sound_ite | with_reducible apply sendEventCopy_sound | with_reducible apply hr |
    simp only [sound_mk, parts_sound]

omit hr in
theorem State.sendMsi_sound (v : Nat) (h : b.Sound s) : b.Sound (s.sendMsi v) := by
  unfold State.sendMsi; exact sound_ite h (sound_ite h h)

theorem State.deliver_sound (n : Nat) (h : b.Sound s) : b.Sound (s.deliver raise n) := by
  unfold State.deliver
  dsimp only
  repeat' first | with_reducible assumption | with_reducible apply sound_ite | with_reducible apply sendMsi_sound | with_reducible apply sendEvent_sound |
    simp only [sound_mk, parts_sound]

omit hr in
theorem State.raiseWithin_sound (k : Nat) : KeepsRaise b (State.raiseWithin k) := by
  induction k with
  | zero => intro t n h; exact setStatus_sound n h
  | succ k ih => intro t n h; exact sound_ite (deliver_sound ih n (setStatus_sound n h)) (setStatus_sound n h)

omit hr in
/-- Raising an event keeps everything. -/
theorem State.raise_sound (n : Nat) (h : b.Sound s) : b.Sound (s.raise n) := raiseWithin_sound 8 _ _ h

omit hr in
theorem State.raiseIf_sound (c : Bool) (n : Nat) (h : b.Sound s) : b.Sound (s.raiseIf c n) :=
  sound_ite (raise_sound n h) h

end Sys2Proof.Machine
end

