-- ==== Sys2Proof/Laws/Views.lean ====
section
/-! SUPPORT. Every operation of Machine/Views.lean keeps soundness. -/

namespace Sys2Proof.Machine

variable {orig : State}

theorem State.setSlotEntry_sound {s : State} (p n r g b : Nat) (hk : orig.Sound s) :
    orig.Sound (s.setSlotEntry p n r g b) := by
  unfold State.setSlotEntry
  repeat' first
    | intro _
    | with_reducible first
      | assumption | apply sound_ite | apply sound_foldl | apply parts_mem | apply Mem.writeNat_wf | apply sound_mem_wf
    | simp only [sound_mk, parts_sound] | split | dsimp only

theorem State.zeroBand_sound {s : State} (p b : Nat) (hk : orig.Sound s) :
    orig.Sound (s.zeroBand p b) := by
  unfold State.zeroBand
  repeat' first
    | intro _
    | with_reducible first
      | assumption | apply parts_mem | apply Mem.zero_wf | apply sound_mem_wf
    | simp only [sound_mk, parts_sound]

end Sys2Proof.Machine
end

