-- ==== Sys2Proof/Laws/Trellis.lean ====
section
/-! SUPPORT. Every operation of Machine/Trellis.lean keeps soundness. -/

namespace Sys2Proof.Machine

variable {orig : State}

theorem State.onTrlOut_sound {s : State} (o : Fin 384) (f : TrlOut → TrlOut) (hk : orig.Sound s) :
    orig.Sound (s.onTrlOut o f) := by
  unfold State.onTrlOut
  repeat' first
    | intro _
    | with_reducible first
      | assumption
    | simp only [sound_mk, parts_sound]

theorem State.onBand_sound {s : State} (b : Fin 64) (f : BandDrive → BandDrive) (hk : orig.Sound s) :
    orig.Sound (s.onBand b f) := by
  unfold State.onBand
  repeat' first
    | intro _
    | with_reducible first
      | assumption
    | simp only [sound_mk, parts_sound]

theorem State.setWordBit_sound {s : State} (b : Fin 64) (l : Nat) (v : Bool) (hk : orig.Sound s) :
    orig.Sound (s.setWordBit b l v) := by
  unfold State.setWordBit
  repeat' first
    | intro _
    | with_reducible first
      | assumption | apply sound_ite
    | simp only [sound_mk, parts_sound]

theorem State.flushRails_sound {s : State} (hk : orig.Sound s) :
    orig.Sound (s.flushRails) := by
  unfold State.flushRails
  repeat' first
    | intro _
    | with_reducible first
      | assumption | apply sound_ite | apply sound_foldl
    | simp only [sound_mk, parts_sound] | split | dsimp only

theorem State.selectBand_sound {s : State} (hk : orig.Sound s) :
    orig.Sound (s.selectBand) := by
  unfold State.selectBand
  repeat' first
    | intro _
    | with_reducible first
      | assumption | apply sound_ite | apply put_sound | apply putS_sound | apply raise_sound | apply wrapCount_sound
    | simp only [sound_mk, parts_sound] | split

theorem State.startComp_sound {s : State} (b : Fin 64) (t : Word) (hk : orig.Sound s) :
    orig.Sound (s.startComp b t) := by
  unfold State.startComp
  repeat' first
    | intro _
    | with_reducible first
      | assumption | apply sound_ite | apply onTrlOut_sound | apply sound_foldl
    | simp only [sound_mk, parts_sound] | split | dsimp only

theorem State.startComps_sound {s : State} (hk : orig.Sound s) :
    orig.Sound (s.startComps) := by
  unfold State.startComps
  repeat' first
    | intro _
    | with_reducible first
      | assumption | apply sound_ite | apply startComp_sound | apply sound_foldl
    | simp only [sound_mk, parts_sound] | split | dsimp only

theorem State.stopComp_sound {s : State} (o : Fin 384) (t : Word) (hk : orig.Sound s) :
    orig.Sound (s.stopComp o t) := by
  unfold State.stopComp
  repeat' first
    | intro _
    | with_reducible first
      | assumption | apply sound_ite | apply onTrlOut_sound | apply sound_foldl
    | simp only [sound_mk, parts_sound] | split | dsimp only

theorem State.compEnd_sound {s : State} (o : Fin 384) (hk : orig.Sound s) :
    orig.Sound (s.compEnd o) := by
  unfold State.compEnd
  repeat' first
    | intro _
    | with_reducible first
      | assumption | apply sound_ite | apply onTrlOut_sound | apply stopComp_sound | apply when_sound | apply sound_foldl
    | simp only [sound_mk, parts_sound] | split | dsimp only

theorem State.writeComp_sound {s : State} (v : Nat) (hk : orig.Sound s) :
    orig.Sound (s.writeComp v) := by
  unfold State.writeComp
  repeat' first
    | intro _
    | with_reducible first
      | assumption | apply sound_ite | apply flushRails_sound | apply put_sound | apply startComps_sound | apply sound_foldl
    | simp only [sound_mk, parts_sound] | split | dsimp only

theorem execCompensationEnd_sound {s : State} (b : Fin 64) (l : Fin 6) (h : orig.Sound s) :
    Keeps orig (execCompensationEnd b l s) := ifOn_sound _ (fun _ ht => State.compEnd_sound _ ht) h

theorem State.cutWave_sound {s : State} (b : Fin 64) (t : Word) (h : orig.Sound s) : orig.Sound (s.cutWave b t).2 := by
  unfold State.cutWave
  refine sound_foldl_snd (fun r l hr => ?_) _ h
  dsimp only
  split
  · exact hr
  · exact onTrlOut_sound _ _ hr

theorem State.drivePhases_sound {s : State} (o : Fin 384) (l : List (Nat × Nat)) (t : Word) (hk : orig.Sound s) :
    orig.Sound (s.drivePhases o l t) := by
  unfold State.drivePhases
  repeat' first
    | intro _
    | with_reducible first
      | assumption | apply sound_ite | apply onTrlOut_sound | apply sound_foldl
    | simp only [sound_mk, parts_sound] | split | dsimp only

theorem State.overCheck_sound {s : State} (o : Fin 384) (t : Word) (hk : orig.Sound s) :
    orig.Sound (s.overCheck o t) := by
  unfold State.overCheck
  repeat' first
    | intro _
    | with_reducible first
      | assumption | apply sound_ite | apply count_sound | apply raise_sound | apply sound_foldl
    | simp only [sound_mk, parts_sound] | split | dsimp only

theorem State.startWave_sound {s : State} (b : Fin 64) (layers : List (Fin 6)) (x : Nat) (t : Word) (hk : orig.Sound s) :
    orig.Sound (s.startWave b layers x t) := by
  unfold State.startWave
  repeat' first
    | intro _
    | with_reducible first
      | assumption | apply sound_ite | apply count_sound | apply cutWave_sound | apply drivePhases_sound
      | apply overCheck_sound | apply raise_sound | apply setWordBit_sound | apply stopComp_sound | apply sound_foldl
    | simp only [sound_mk, parts_sound] | split | dsimp only

theorem State.judgeAllOuts_sound {s : State} (hk : orig.Sound s) :
    orig.Sound (s.judgeAllOuts) := by
  unfold State.judgeAllOuts
  repeat' first
    | intro _
    | with_reducible first
      | assumption | apply sound_ite | apply startComps_sound | apply sound_foldl
    | simp only [sound_mk, parts_sound] | split | dsimp only

theorem State.tryWave_sound {s : State} (period : Nat) (hk : orig.Sound s) :
    orig.Sound (s.tryWave period) := by
  unfold State.tryWave
  repeat' first
    | intro _
    | with_reducible first
      | assumption | apply sound_ite | apply judgeAllOuts_sound | apply activate_sound | apply flushRails_sound | apply put_sound | apply raise_sound
    | simp only [sound_mk, parts_sound]

theorem State.tryWaveInHold_sound {s : State} (hk : orig.Sound s) :
    orig.Sound (s.tryWaveInHold) := by
  unfold State.tryWaveInHold
  repeat' first
    | intro _
    | with_reducible first
      | assumption | apply sound_ite | apply hold_sound | apply tryWave_sound

theorem execWaveApply_sound {s : State} (h : orig.Sound s) :
    Keeps orig (execWaveApply s) := by
  unfold execWaveApply
  repeat' first
    | intro _
    | with_reducible first
      | assumption | apply ifUp_sound | apply State.put_sound | apply State.tryWaveInHold_sound

theorem State.outFault_sound {s : State} (b : Fin 64) (l : Fin 6) (open_ short : Bool) (hk : orig.Sound s) :
    orig.Sound (s.outFault b l open_ short) := by
  unfold State.outFault
  repeat' first
    | intro _
    | with_reducible first
      | assumption | apply sound_ite | apply onTrlOut_sound | apply put_sound | apply raise_sound
    | simp only [sound_mk, parts_sound]

theorem State.measureCharge_sound {s : State} (b : Fin 64) (l : Fin 6) (charge : Nat) (limited : Bool) (hk : orig.Sound s) :
    orig.Sound (s.measureCharge b l charge limited) := by
  unfold State.measureCharge
  repeat' first
    | intro _
    | with_reducible first
      | assumption | apply sound_ite | apply onTrlOut_sound | apply outFault_sound
    | simp only [sound_mk, parts_sound]

theorem State.nextPhase_sound {s : State} (b : Fin 64) (l : Fin 6) (hk : orig.Sound s) :
    orig.Sound (s.nextPhase b l) := by
  unfold State.nextPhase
  repeat' first
    | intro _
    | with_reducible first
      | assumption | apply sound_ite | apply onTrlOut_sound | apply overCheck_sound | apply startComp_sound
      | apply tryWaveInHold_sound | apply sound_foldl
    | simp only [sound_mk, parts_sound] | split | dsimp only

theorem State.phaseEnd_sound {s : State} (b : Fin 64) (l : Fin 6) (charge : Nat) (limited : Bool) (hk : orig.Sound s) :
    orig.Sound (s.phaseEnd b l charge limited) := by
  unfold State.phaseEnd
  repeat' first
    | intro _
    | with_reducible first
      | assumption | apply sound_ite | apply measureCharge_sound | apply nextPhase_sound | apply when_sound
      | apply sound_foldl
    | simp only [sound_mk, parts_sound] | split | dsimp only

/-! ## Commands -/

theorem execTrellisPhaseEnd_sound {s : State} (b : Fin 64) (l : Fin 6) (charge : Nat) (limited : Bool) (h : orig.Sound s) :
    Keeps orig (execTrellisPhaseEnd b l charge limited s) := ifOn_sound _ (fun _ ht => State.phaseEnd_sound _ _ _ _ ht) h

theorem State.faultClear_sound {s : State} (b : Fin 64) (value : Word) (hk : orig.Sound s) :
    orig.Sound (s.faultClear b value) := by
  unfold State.faultClear
  repeat' first
    | intro _
    | with_reducible first
      | assumption | apply sound_ite | apply onTrlOut_sound | apply setReg_sound | apply sound_foldl
    | simp only [sound_mk, parts_sound]

theorem execTrlFaultClear_sound {s : State} (b : Fin 64) (value : Word) (h : orig.Sound s) :
    Keeps orig (execTrlFaultClear b value s) := ifUp_sound _ (fun _ ht => State.faultClear_sound _ _ ht) h

theorem State.startPairs_sound {s : State} (b : Fin 64) (t : Word) (blank : Nat) (hk : orig.Sound s) :
    orig.Sound (s.startPairs b t blank) := by
  unfold State.startPairs
  repeat' first
    | intro _
    | with_reducible first
      | assumption | apply sound_ite | apply drivePhases_sound | apply onTrlOut_sound | apply overCheck_sound
      | apply stopComp_sound | apply sound_foldl
    | simp only [sound_mk, parts_sound] | split | dsimp only

theorem State.reblank_sound {s : State} (hk : orig.Sound s) :
    orig.Sound (s.reblank) := by
  unfold State.reblank
  repeat' first
    | intro _
    | with_reducible first
      | assumption | apply sound_ite | apply sound_foldl
    | simp only [sound_mk, parts_sound]

theorem State.changeLayer_sound {s : State} (b : Fin 64) (slot mask : Nat) (t : Word) (hk : orig.Sound s) :
    orig.Sound (s.changeLayer b slot mask t) := by
  unfold State.changeLayer
  repeat' first
    | intro _
    | with_reducible first
      | assumption | apply sound_ite | apply startWave_sound
    | split

theorem State.startInit_sound {s : State} (hk : orig.Sound s) :
    orig.Sound (s.startInit) := by
  unfold State.startInit
  repeat' first
    | intro _
    | with_reducible first
      | assumption | apply put_sound | apply selectBand_sound
    | simp only [sound_mk, parts_sound]

theorem State.requestInit_sound {s : State} (hk : orig.Sound s) :
    orig.Sound (s.requestInit) := by
  unfold State.requestInit
  repeat' first
    | intro _
    | with_reducible first
      | assumption | apply sound_ite | apply put_sound | apply startInit_sound

theorem execTrellisInit_sound {s : State} (h : orig.Sound s) :
    Keeps orig (execTrellisInit s) := ifUp_sound _ (fun _ ht => State.requestInit_sound ht) h

theorem State.nextPass_sound {s : State} (hk : orig.Sound s) :
    orig.Sound (s.nextPass) := by
  unfold State.nextPass
  repeat' first
    | intro _
    | with_reducible first
      | assumption | apply sound_ite
    | simp only [sound_mk, parts_sound]

theorem State.initWave_sound {s : State} (b : Fin 64) (hk : orig.Sound s) :
    orig.Sound (s.initWave b) := by
  unfold State.initWave
  repeat' first
    | intro _
    | with_reducible first
      | assumption | apply sound_ite | apply nextPass_sound | apply startWave_sound | apply when_sound | apply sound_foldl
    | simp only [sound_mk, parts_sound] | split | dsimp only

theorem execInitPassWaveform_sound {s : State} (b : Fin 64) (h : orig.Sound s) :
    Keeps orig (execInitPassWaveform b s) := ifUp_sound _ (fun _ ht => State.initWave_sound _ ht) h

theorem State.initDone_sound {s : State} (hk : orig.Sound s) :
    orig.Sound (s.initDone) := by
  unfold State.initDone
  repeat' first
    | intro _
    | with_reducible first
      | assumption | apply put_sound | apply raise_sound | apply tryWaveInHold_sound | apply when_sound
    | simp only [sound_mk, parts_sound]

theorem execTrellisInitDone_sound {s : State} (h : orig.Sound s) :
    Keeps orig (execTrellisInitDone s) := ifUp_sound _ (fun _ ht => State.initDone_sound ht) h

theorem State.trlClr_sound {s : State} (hk : orig.Sound s) :
    orig.Sound (s.trlClr) := by
  unfold State.trlClr
  repeat' first
    | intro _
    | with_reducible first
      | assumption | apply put_sound | apply setReg_sound

theorem execTrlClr_sound {s : State} (h : orig.Sound s) :
    Keeps orig (execTrlClr s) := ifUp_sound _ (fun _ ht => State.trlClr_sound ht) h

end Sys2Proof.Machine
end

