-- ==== Sys2Proof/Laws/Goa.lean ====
section
/-! SUPPORT. Every operation of Machine/Goa.lean keeps soundness. -/

namespace Sys2Proof.Machine

variable {orig : State}

theorem State.setGoa_sound {s : State} (g : Goa) (hk : orig.Sound s) :
    orig.Sound (s.setGoa g) := by
  unfold State.setGoa
  repeat' first
    | intro _
    | with_reducible first
      | assumption | apply sound_ite | apply emit_sound | apply sound_foldl
    | simp only [sound_mk, parts_sound] | split | dsimp only

theorem State.endPulses_sound {s : State} (hk : orig.Sound s) :
    orig.Sound (s.endPulses) := by
  unfold State.endPulses
  repeat' first
    | intro _
    | with_reducible first
      | assumption | apply sound_ite | apply setGoa_sound | apply sound_foldl
    | simp only [sound_mk, parts_sound] | split | dsimp only

theorem State.powerGoa_sound {s : State} (on : Bool) (hk : orig.Sound s) :
    orig.Sound (s.powerGoa on) := by
  unfold State.powerGoa
  repeat' first
    | intro _
    | with_reducible first
      | assumption | apply sound_ite | apply setGoa_sound | apply sound_foldl
    | simp only [sound_mk, parts_sound] | split | dsimp only

theorem State.shiftEnd_sound {s : State} (t : Word) (hk : orig.Sound s) :
    orig.Sound (s.shiftEnd t).2 := by
  unfold State.shiftEnd
  repeat' first
    | intro _
    | with_reducible first
      | assumption | apply sound_ite | apply draw_sound | apply sound_foldl
    | simp only [sound_mk, parts_sound] | split | dsimp only

theorem State.shiftDark_sound {s : State} (b : Fin 64) (t : Word) (hk : orig.Sound s) :
    orig.Sound (s.shiftDark b t) := by
  unfold State.shiftDark
  repeat' first
    | intro _
    | with_reducible first
      | assumption | apply sound_ite | apply setGoa_sound | apply shiftEnd_sound | apply sound_foldl
    | simp only [sound_mk, parts_sound] | split | dsimp only

theorem State.shiftLight_sound {s : State} (b : Fin 64) (t : Word) (hk : orig.Sound s) :
    orig.Sound (s.shiftLight b t) := by
  unfold State.shiftLight
  repeat' first
    | intro _
    | with_reducible first
      | assumption | apply sound_ite | apply setGoa_sound | apply shiftEnd_sound | apply sound_foldl
    | simp only [sound_mk, parts_sound] | split | dsimp only

theorem State.shiftScan_sound {s : State} (start : Bool) (ends : Word) (hk : orig.Sound s) :
    orig.Sound (s.shiftScan start ends) := by
  unfold State.shiftScan
  repeat' first
    | intro _
    | with_reducible first
      | assumption | apply sound_ite | apply setGoa_sound | apply sound_foldl
    | simp only [sound_mk, parts_sound] | split | dsimp only

end Sys2Proof.Machine
end

