-- ==== Sys2Proof/Laws/Hvps.lean ====
section
/-! SUPPORT. Every operation of Machine/Hvps.lean keeps soundness. -/

namespace Sys2Proof.Machine

variable {orig : State}

theorem State.onHv_sound {s : State} (f : Hvps → Hvps) (hk : orig.Sound s) :
    orig.Sound (s.onHv f) := by
  unfold State.onHv
  repeat' first
    | intro _
    | with_reducible first
      | assumption
    | simp only [sound_mk, parts_sound]

theorem State.settleOut_sound {s : State} (o : Fin 384) (t : Word) (hk : orig.Sound s) :
    orig.Sound (s.settleOut o t) := by
  unfold State.settleOut
  repeat' first
    | intro _
    | with_reducible first
      | assumption | apply sound_ite | apply onTrlOut_sound | apply sound_foldl
    | simp only [sound_mk, parts_sound] | split | dsimp only

theorem State.startSettle_sound {s : State} (hk : orig.Sound s) :
    orig.Sound (s.startSettle) := by
  unfold State.startSettle
  repeat' first
    | intro _
    | with_reducible first
      | assumption | apply sound_ite | apply flushRails_sound | apply onHv_sound | apply put_sound | apply settleOut_sound
      | apply sound_foldl
    | simp only [sound_mk, parts_sound] | split | dsimp only

theorem State.powerOff_sound {s : State} (hk : orig.Sound s) :
    orig.Sound (s.powerOff) := by
  unfold State.powerOff
  repeat' first
    | intro _
    | with_reducible first
      | assumption | apply onHv_sound | apply put_sound
    | simp only [sound_mk, parts_sound]

theorem State.powerOn_sound {s : State} (noInit : Bool) (hk : orig.Sound s) :
    orig.Sound (s.powerOn noInit) := by
  unfold State.powerOn
  repeat' first
    | intro _
    | with_reducible first
      | assumption | apply sound_ite | apply onHv_sound | apply powerGoa_sound | apply put_sound | apply sound_foldl
    | simp only [sound_mk, parts_sound] | split | dsimp only

theorem State.faultOff_sound {s : State} (hk : orig.Sound s) :
    orig.Sound (s.faultOff) := by
  unfold State.faultOff
  repeat' first
    | intro _
    | with_reducible first
      | assumption | apply onHv_sound | apply powerOff_sound

theorem State.railBit_sound {s : State} (kind : RailFaultKind) (k : Fin 4) (hk : orig.Sound s) :
    orig.Sound (s.railBit kind k) := by
  unfold State.railBit
  repeat' first
    | intro _
    | with_reducible first
      | assumption | apply put_sound | apply raise_sound
    | simp only [sound_mk, parts_sound] | split

theorem State.powerOnDone_sound {s : State} (hk : orig.Sound s) :
    orig.Sound (s.powerOnDone) := by
  unfold State.powerOnDone
  repeat' first
    | intro _
    | with_reducible first
      | assumption | apply sound_ite | apply onHv_sound | apply put_sound | apply raise_sound | apply startComps_sound
      | apply startInit_sound | apply sound_foldl
    | simp only [sound_mk, parts_sound] | split | dsimp only

theorem State.powerOffDone_sound {s : State} (hk : orig.Sound s) :
    orig.Sound (s.powerOffDone) := by
  unfold State.powerOffDone
  repeat' first
    | intro _
    | with_reducible first
      | assumption | apply sound_ite | apply onHv_sound | apply put_sound | apply raise_sound | apply raiseIf_sound
      | apply sound_foldl
    | simp only [sound_mk, parts_sound] | split | dsimp only

theorem State.onStep_sound {s : State} (reached : BitVec 4) (hk : orig.Sound s) :
    orig.Sound (s.onStep reached) := by
  unfold State.onStep
  repeat' first
    | intro _
    | with_reducible first
      | assumption | apply sound_ite | apply faultOff_sound | apply onHv_sound | apply onTrlOut_sound | apply powerGoa_sound
      | apply powerOnDone_sound | apply railBit_sound | apply when_sound | apply sound_foldl
    | simp only [sound_mk, parts_sound] | split | dsimp only

theorem State.offStep_sound {s : State} (hk : orig.Sound s) :
    orig.Sound (s.offStep) := by
  unfold State.offStep
  repeat' first
    | intro _
    | with_reducible first
      | assumption | apply sound_ite | apply onHv_sound | apply powerGoa_sound | apply powerOffDone_sound | apply when_sound
      | apply sound_foldl
    | simp only [sound_mk, parts_sound] | split | dsimp only

theorem State.railStep_sound {s : State} (reached : BitVec 4) (hk : orig.Sound s) :
    orig.Sound (s.railStep reached) := by
  unfold State.railStep
  repeat' first
    | intro _
    | with_reducible first
      | assumption | apply sound_ite | apply offStep_sound | apply onStep_sound

theorem execRailSeqStep_sound {s : State} (reached : BitVec 4) (h : orig.Sound s) :
    Keeps orig (execRailSeqStep reached s) := by
  unfold execRailSeqStep
  repeat' first
    | intro _
    | with_reducible first
      | assumption | apply next_sound | apply State.railStep_sound

theorem State.hvpsOn_sound {s : State} (hk : orig.Sound s) :
    orig.Sound (s.hvpsOn) := by
  unfold State.hvpsOn
  repeat' first
    | intro _
    | with_reducible first
      | assumption | apply onHv_sound | apply powerOn_sound | apply when_sound

theorem execHvpsOn_sound {s : State} (h : orig.Sound s) :
    Keeps orig (execHvpsOn s) := ifUp_sound _ (fun _ ht => State.hvpsOn_sound ht) h

theorem State.settleDown_sound {s : State} (hk : orig.Sound s) :
    orig.Sound (s.settleDown) := by
  unfold State.settleDown
  repeat' first
    | intro _
    | with_reducible first
      | assumption | apply sound_ite | apply powerOff_sound | apply startSettle_sound | apply sound_foldl
    | simp only [sound_mk, parts_sound] | split | dsimp only

theorem State.hvpsOff_sound {s : State} (hk : orig.Sound s) :
    orig.Sound (s.hvpsOff) := by
  unfold State.hvpsOff
  repeat' first
    | intro _
    | with_reducible first
      | assumption | apply sound_ite | apply onHv_sound | apply settleDown_sound | apply when_sound | apply sound_foldl
    | simp only [sound_mk, parts_sound] | split | dsimp only

theorem execHvpsOff_sound {s : State} (h : orig.Sound s) :
    Keeps orig (execHvpsOff s) := ifUp_sound _ (fun _ ht => State.hvpsOff_sound ht) h

theorem State.brownout_sound {s : State} (hk : orig.Sound s) :
    orig.Sound (s.brownout) := by
  unfold State.brownout
  repeat' first
    | intro _
    | with_reducible first
      | assumption | apply sound_ite | apply hvpsOff_sound | apply onHv_sound | apply put_sound | apply raise_sound
      | apply when_sound | apply sound_foldl
    | simp only [sound_mk, parts_sound] | split | dsimp only

/-! ## Commands -/

theorem execVhvBrownout_sound {s : State} (h : orig.Sound s) :
    Keeps orig (execVhvBrownout s) := by
  unfold execVhvBrownout
  repeat' first
    | intro _
    | with_reducible first
      | assumption | apply next_sound | apply sound_ite | apply State.brownout_sound

theorem State.settleEnd_sound {s : State} (hk : orig.Sound s) :
    orig.Sound (s.settleEnd) := by
  unfold State.settleEnd
  repeat' first
    | intro _
    | with_reducible first
      | assumption | apply powerOff_sound | apply raiseIf_sound | apply when_sound
    | simp only [sound_mk, parts_sound] | split

theorem execBrownoutSettleEnd_sound {s : State} (h : orig.Sound s) :
    Keeps orig (execBrownoutSettleEnd s) := by
  unfold execBrownoutSettleEnd
  repeat' first
    | intro _
    | with_reducible first
      | assumption | apply next_sound | apply sound_ite | apply State.settleEnd_sound

theorem State.vhvRecovered_sound {s : State} (hk : orig.Sound s) :
    orig.Sound (s.vhvRecovered) := by
  unfold State.vhvRecovered
  repeat' first
    | intro _
    | with_reducible first
      | assumption | apply sound_ite | apply onHv_sound | apply powerOn_sound | apply raise_sound | apply when_sound
      | apply sound_foldl
    | simp only [sound_mk, parts_sound] | split | dsimp only

theorem execVhvRecovered_sound {s : State} (h : orig.Sound s) :
    Keeps orig (execVhvRecovered s) := ifUp_sound _ (fun _ ht => State.vhvRecovered_sound ht) h

theorem State.faultNow_sound {s : State} (hk : orig.Sound s) :
    orig.Sound (s.faultNow) := by
  unfold State.faultNow
  repeat' first
    | intro _
    | with_reducible first
      | assumption | apply sound_ite | apply faultOff_sound | apply onHv_sound | apply when_sound | apply sound_foldl
    | simp only [sound_mk, parts_sound] | split | dsimp only

theorem State.overvoltage_sound {s : State} (hk : orig.Sound s) :
    orig.Sound (s.overvoltage) := by
  unfold State.overvoltage
  repeat' first
    | intro _
    | with_reducible first
      | assumption | apply sound_ite | apply faultNow_sound | apply put_sound | apply raise_sound | apply sound_foldl
    | simp only [sound_mk, parts_sound] | split | dsimp only

theorem execVhvOvervoltage_sound {s : State} (h : orig.Sound s) :
    Keeps orig (execVhvOvervoltage s) := ifOn_sound _ (fun _ ht => State.overvoltage_sound ht) h

theorem State.railFault_sound {s : State} (kind : RailFaultKind) (k : Fin 4) (hk : orig.Sound s) :
    orig.Sound (s.railFault kind k) := by
  unfold State.railFault
  repeat' first
    | intro _
    | with_reducible first
      | assumption | apply sound_ite | apply faultNow_sound | apply railBit_sound | apply when_sound | apply sound_foldl
    | simp only [sound_mk, parts_sound] | split | dsimp only

theorem execRailFault_sound {s : State} (kind : RailFaultKind) (k : Fin 4) (h : orig.Sound s) :
    Keeps orig (execRailFault kind k s) := ifUp_sound _ (fun _ ht => State.railFault_sound _ _ ht) h

theorem State.railRestart_sound {s : State} (hk : orig.Sound s) :
    orig.Sound (s.railRestart) := by
  unfold State.railRestart
  repeat' first
    | intro _
    | with_reducible first
      | assumption | apply sound_ite | apply onHv_sound | apply powerOn_sound | apply when_sound | apply sound_foldl
    | simp only [sound_mk, parts_sound] | split | dsimp only

theorem execRailRestart_sound {s : State} (h : orig.Sound s) :
    Keeps orig (execRailRestart s) := ifUp_sound _ (fun _ ht => State.railRestart_sound ht) h

theorem State.measUpdate_sound {s : State} (k : Fin 4) (mv vhv : BitVec 16) (hk : orig.Sound s) :
    orig.Sound (s.measUpdate k mv vhv) := by
  unfold State.measUpdate
  repeat' first
    | intro _
    | with_reducible first
      | assumption | apply sound_ite | apply flushRails_sound | apply put_sound | apply when_sound | apply sound_foldl
    | simp only [sound_mk, parts_sound] | split | dsimp only

theorem execHvpsMeasUpdate_sound {s : State} (k : Fin 4) (mv vhv : BitVec 16) (h : orig.Sound s) :
    Keeps orig (execHvpsMeasUpdate k mv vhv s) := ifUp_sound _ (fun _ ht => State.measUpdate_sound _ _ _ ht) h

theorem State.settleInReset_sound {s : State} (hk : orig.Sound s) :
    orig.Sound (s.settleInReset) := by
  unfold State.settleInReset
  repeat' first
    | intro _
    | with_reducible first
      | assumption | apply sound_ite | apply onTrlOut_sound | apply powerGoa_sound | apply sound_foldl
    | simp only [sound_mk, parts_sound] | split | dsimp only

end Sys2Proof.Machine
end

