-- ==== Sys2Proof/Laws/DramAccess.lean ====
section
/-! SUPPORT. Every operation of Machine/DramAccess.lean keeps soundness. -/

namespace Sys2Proof.Machine

variable {orig : State}

theorem State.touchBurst_sound {s : State} (off : Nat) (hk : orig.Sound s) :
    orig.Sound (s.touchBurst off) := by
  unfold State.touchBurst
  repeat' first
    | intro _
    | with_reducible first
      | assumption | apply sound_ite
    | simp only [sound_mk, parts_sound]

theorem State.abortEntry_sound {s : State} (hk : orig.Sound s) :
    orig.Sound (s.abortEntry) := by
  unfold State.abortEntry
  repeat' first
    | intro _
    | with_reducible first
      | assumption | apply sound_ite | apply raise_sound | apply when_sound | apply sound_foldl
    | simp only [sound_mk, parts_sound] | split | dsimp only

theorem State.touch_sound {s : State} (a n : Nat) (hk : orig.Sound s) :
    orig.Sound (s.touch a n) := by
  unfold State.touch
  repeat' first
    | intro _
    | with_reducible first
      | assumption | apply sound_ite | apply abortEntry_sound | apply touchBurst_sound | apply sound_foldl
    | simp only [sound_mk, parts_sound] | split | dsimp only

theorem State.eccReport_sound {s : State} (h : EccHit) (hk : orig.Sound s) :
    orig.Sound (s.eccReport h) := by
  unfold State.eccReport
  repeat' first
    | intro _
    | with_reducible first
      | assumption | apply sound_ite | apply count_sound | apply put_sound | apply raise_sound | apply sound_foldl
    | simp only [sound_mk, parts_sound] | split | dsimp only

theorem State.eccReports_sound {s : State} (ecc : List EccHit) (hk : orig.Sound s) :
    orig.Sound (s.eccReports ecc) := by
  unfold State.eccReports
  repeat' first
    | intro _
    | with_reducible first
      | assumption | apply sound_ite | apply eccReport_sound | apply sound_foldl
    | simp only [sound_mk, parts_sound] | split | dsimp only

theorem State.readHits_sound {s : State} (a n : Nat) (ecc : List EccHit) (hk : orig.Sound s) :
    orig.Sound (s.readHits a n ecc) := by
  unfold State.readHits
  repeat' first
    | intro _
    | with_reducible first
      | assumption | apply sound_ite | apply eccReports_sound | apply sound_foldl
    | simp only [sound_mk, parts_sound] | split | dsimp only

theorem State.dramRead_sound {s : State} (a n : Nat) (ecc : List EccHit) (hk : orig.Sound s) :
    orig.Sound (s.dramRead a n ecc).2 := by
  unfold State.dramRead
  repeat' first
    | intro _
    | with_reducible first
      | assumption | apply sound_ite | apply raiseIf_sound | apply readHits_sound | apply touch_sound | apply sound_foldl
    | simp only [sound_mk, parts_sound] | split | dsimp only

theorem State.dramPut_sound {s : State} (a : Nat) (bs : List Byte) (h : orig.Sound s) : orig.Sound (s.dramPut a bs) := by
  induction bs generalizing s a with
  | nil => exact h
  | cons x bs ih => exact ih _ (sound_ite (sound_mem (Mem.writeByte_wf _ _ h.mem) h) h)

theorem State.dramWrite_sound {s : State} (a : Nat) (bs : List Byte) (ecc : List EccHit) (hk : orig.Sound s) :
    orig.Sound (s.dramWrite a bs ecc) := by
  unfold State.dramWrite
  repeat' first
    | intro _
    | with_reducible first
      | assumption | apply sound_ite | apply dramPut_sound | apply eccReports_sound | apply raiseIf_sound | apply touch_sound
      | apply sound_foldl
    | simp only [sound_mk, parts_sound] | split | dsimp only

theorem State.readAny_sound {s : State} (a n : Nat) (ecc : List EccHit) (h : orig.Sound s) :
    orig.Sound (s.readAny a n ecc).2 := by
  unfold State.readAny
  split
  · exact dramRead_sound a n ecc h
  · exact readHits_sound a n ecc h

theorem State.readRanges_sound {s : State} (l : List (Nat × Nat)) (ecc : List EccHit) (hk : orig.Sound s) :
    orig.Sound (s.readRanges l ecc) := by
  unfold State.readRanges
  repeat' first
    | intro _
    | with_reducible first
      | assumption | apply sound_ite | apply readAny_sound | apply sound_foldl
    | simp only [sound_mk, parts_sound] | split | dsimp only

theorem State.writeAny_sound {s : State} (a : Nat) (bs : List Byte) (ecc : List EccHit) (hk : orig.Sound s) :
    orig.Sound (s.writeAny a bs ecc) := by
  unfold State.writeAny
  repeat' first
    | intro _
    | with_reducible first
      | assumption | apply sound_ite | apply dramWrite_sound | apply store_sound | apply sound_foldl
    | simp only [sound_mk, parts_sound] | split | dsimp only

theorem State.onDram_sound {s : State} (f : DramUnit → DramUnit) (hk : orig.Sound s) :
    orig.Sound (s.onDram f) := by
  unfold State.onDram
  repeat' first
    | intro _
    | with_reducible first
      | assumption | apply sound_ite | apply sound_foldl
    | simp only [sound_mk, parts_sound] | split | dsimp only

theorem State.serve_sound {s : State} (ch : Fin 8) (q : DramReq) (hk : orig.Sound s) :
    orig.Sound (s.serve ch q) := by
  unfold State.serve
  repeat' first
    | intro _
    | with_reducible first
      | assumption | apply sound_ite | apply dramRead_sound | apply dramWrite_sound | apply onDram_sound | apply sound_foldl
    | simp only [sound_mk, parts_sound] | split | dsimp only

theorem State.drain_sound {s : State} (n : Nat) (h : orig.Sound s) : orig.Sound (State.drain n s) := by
  induction n generalizing s with
  | zero => exact h
  | succ n ih =>
    unfold State.drain
    split
    · exact ih (serve_sound _ _ h)
    · exact h

theorem State.drainAll_sound {s : State} (hk : orig.Sound s) :
    orig.Sound (s.drainAll) := by
  unfold State.drainAll
  repeat' first
    | intro _
    | with_reducible first
      | assumption | apply sound_ite | apply drain_sound | apply sound_foldl
    | simp only [sound_mk, parts_sound] | split | dsimp only

theorem State.request_sound {s : State} (src : DramSource) (addr : Nat) (op : DramOp) (ecc : List EccHit) (hk : orig.Sound s) :
    orig.Sound (s.request src addr op ecc) := by
  unfold State.request
  repeat' first
    | intro _
    | with_reducible first
      | assumption | apply sound_ite | apply abortEntry_sound | apply drainAll_sound | apply onDram_sound | apply when_sound
      | apply sound_foldl
    | simp only [sound_mk, parts_sound] | split | dsimp only

theorem State.requestWrite_sound {s : State} (src : DramSource) (addr : Nat) (bs : List Byte) (hk : orig.Sound s) :
    orig.Sound (s.requestWrite src addr bs) := by
  unfold State.requestWrite
  repeat' first
    | intro _
    | with_reducible first
      | assumption | apply sound_ite | apply request_sound | apply store_sound | apply sound_foldl
    | simp only [sound_mk, parts_sound] | split | dsimp only

end Sys2Proof.Machine
end

