-- ==== Sys2Proof/Laws/Dram.lean ====
section
/-! SUPPORT. Every operation of Machine/Dram.lean keeps soundness. -/

namespace Sys2Proof.Machine

variable {orig : State}

theorem State.dramRefuse_sound {s : State} (hk : orig.Sound s) :
    orig.Sound (s.dramRefuse) := by
  unfold State.dramRefuse
  repeat' first
    | intro _
    | with_reducible first
      | assumption | apply put_sound | apply raise_sound

theorem execDramRequest_sound {s : State} (src : DramSource) (addr : BitVec 40) (op : DramOp) (ecc : List EccHit) (h : orig.Sound s) :
    Keeps orig (execDramRequest src addr op ecc s) := ifUp_sound _ (fun _ ht => State.request_sound _ _ _ _ ht) h

theorem execAgePromote_sound {s : State} (ch : Fin 8) (h : orig.Sound s) :
    Keeps orig (execAgePromote ch s) := by
  unfold execAgePromote
  repeat' first
    | intro _
    | with_reducible first
      | assumption | apply ifUp_sound | apply sound_ite | apply State.drainAll_sound | apply State.onDram_sound
    | simp only [sound_mk, parts_sound]

/-! ## Commands -/

theorem execDramInit_sound {s : State} (h : orig.Sound s) :
    Keeps orig (execDramInit s) := by
  unfold execDramInit
  repeat' first
    | intro _
    | with_reducible first
      | assumption | apply ifUp_sound | apply State.put_sound | apply State.when_sound

theorem State.storeBand_sound {s : State} (n k mhz code : Nat) (hk : orig.Sound s) :
    orig.Sound (s.storeBand n k mhz code) := by
  unfold State.storeBand
  repeat' first
    | intro _
    | with_reducible first
      | assumption | apply put_sound

theorem State.searchBoth_sound {s : State} (n : Fin 6) (hk : orig.Sound s) :
    orig.Sound (s.searchBoth n) := by
  unfold State.searchBoth
  repeat' first
    | intro _
    | with_reducible first
      | assumption | apply sound_ite | apply draw_sound | apply put_sound | apply putB_sound | apply raise_sound
      | apply relock_sound | apply storeBand_sound | apply sound_foldl
    | simp only [sound_mk, parts_sound] | split | dsimp only

theorem State.dramInitDone_sound {s : State} (ok : Bool) (hk : orig.Sound s) :
    orig.Sound (s.dramInitDone ok) := by
  unfold State.dramInitDone
  repeat' first
    | intro _
    | with_reducible first
      | assumption | apply sound_ite | apply drainAll_sound | apply onDram_sound | apply put_sound | apply raise_sound
      | apply searchBoth_sound | apply when_sound | apply sound_foldl | apply parts_mem | apply Mem.zero_wf
      | apply sound_mem_wf
    | simp only [sound_mk, parts_sound] | split | dsimp only

theorem execDramInitDone_sound {s : State} (ok : Bool) (h : orig.Sound s) :
    Keeps orig (execDramInitDone ok s) := ifUp_sound _ (fun _ ht => State.dramInitDone_sound _ ht) h

theorem State.writeHash_sound {s : State} (k : Nat) (value : Word) (hk : orig.Sound s) :
    orig.Sound (s.writeHash k value) := by
  unfold State.writeHash
  repeat' first
    | intro _
    | with_reducible first
      | assumption | apply sound_ite | apply dramRefuse_sound | apply put_sound
    | simp only [sound_mk, parts_sound]

theorem execDramcHashWrite_sound {s : State} (k : Fin 7) (value : Word) (h : orig.Sound s) :
    Keeps orig (execDramcHashWrite k value s) := ifUp_sound _ (fun _ ht => State.writeHash_sound _ _ ht) h

theorem execPageIdleClose_sound {s : State} (ch : Fin 8) (bank : Fin 16) (h : orig.Sound s) :
    Keeps orig (execPageIdleClose ch bank s) := by
  unfold execPageIdleClose
  repeat' first
    | intro _
    | with_reducible first
      | assumption | apply ifUp_sound | apply State.onDram_sound

theorem State.refresh_sound {s : State} (ch : Fin 8) (busy : BitVec 16) (hk : orig.Sound s) :
    orig.Sound (s.refresh ch busy) := by
  unfold State.refresh
  repeat' first
    | intro _
    | with_reducible first
      | assumption | apply sound_ite | apply count_sound | apply onDram_sound | apply put_sound | apply raise_sound
      | apply when_sound | apply sound_foldl
    | simp only [sound_mk, parts_sound] | split | dsimp only

theorem execPerBankRefresh_sound {s : State} (ch : Fin 8) (busy : BitVec 16) (h : orig.Sound s) :
    Keeps orig (execPerBankRefresh ch busy s) := ifUp_sound _ (fun _ ht => State.refresh_sound _ _ ht) h

theorem State.mr4_sound {s : State} (ch : Fin 8) (derate : BitVec 2) (hk : orig.Sound s) :
    orig.Sound (s.mr4 ch derate) := by
  unfold State.mr4
  repeat' first
    | intro _
    | with_reducible first
      | assumption | apply sound_ite | apply onDram_sound | apply put_sound | apply raiseIf_sound | apply sound_foldl
    | simp only [sound_mk, parts_sound] | split | dsimp only

theorem execMr4Poll_sound {s : State} (ch : Fin 8) (derate : BitVec 2) (h : orig.Sound s) :
    Keeps orig (execMr4Poll ch derate s) := by
  unfold execMr4Poll
  repeat' first
    | intro _
    | with_reducible first
      | assumption | apply ifUp_sound | apply ifOn_sound | apply next_sound | apply sound_ite | apply State.mr4_sound
      | apply State.when_sound | apply sound_foldl
    | simp only [sound_mk, parts_sound] | split | simp only [Effect.Sound, onRegs, onPair] | simp only [ThreadEffect.Sound]
    | exact trivial | dsimp only

theorem State.conflictWindow_sound {s : State} (hk : orig.Sound s) :
    orig.Sound (s.conflictWindow) := by
  unfold State.conflictWindow
  repeat' first
    | intro _
    | with_reducible first
      | assumption | apply onDram_sound | apply put_sound | apply raiseIf_sound | apply when_sound
    | simp only [sound_mk, parts_sound]

theorem execConflictWindow_sound {s : State} (h : orig.Sound s) :
    Keeps orig (execConflictWindow s) := ifUp_sound _ (fun _ ht => State.conflictWindow_sound ht) h

theorem State.clearDramStat_sound {s : State} (hk : orig.Sound s) :
    orig.Sound (s.clearDramStat) := by
  unfold State.clearDramStat
  repeat' first
    | intro _
    | with_reducible first
      | assumption | apply sound_ite | apply put_sound | apply setReg_sound | apply sound_foldl
    | simp only [sound_mk, parts_sound] | split | dsimp only

theorem execDramcStatClr_sound {s : State} (h : orig.Sound s) :
    Keeps orig (execDramcStatClr s) := ifUp_sound _ (fun _ ht => State.clearDramStat_sound ht) h

theorem State.dramSleep_sound {s : State} (hk : orig.Sound s) :
    orig.Sound (s.dramSleep) := by
  unfold State.dramSleep
  repeat' first
    | intro _
    | with_reducible first
      | assumption | apply sound_ite | apply onDram_sound | apply sound_foldl
    | simp only [sound_mk, parts_sound] | split | dsimp only

theorem State.srEntry_sound {s : State} (issued : Bool) (hk : orig.Sound s) :
    orig.Sound (s.srEntry issued) := by
  unfold State.srEntry
  repeat' first
    | intro _
    | with_reducible first
      | assumption | apply sound_ite | apply dramSleep_sound | apply onDram_sound | apply when_sound | apply sound_foldl
    | simp only [sound_mk, parts_sound] | split | dsimp only

theorem execSelfRefreshEntry_sound {s : State} (issued : Bool) (h : orig.Sound s) :
    Keeps orig (execSelfRefreshEntry issued s) := ifUp_sound _ (fun _ ht => State.srEntry_sound _ ht) h

theorem State.checkSentinels_sound {s : State} (bad : List Nat) (hk : orig.Sound s) :
    orig.Sound (s.checkSentinels bad) := by
  unfold State.checkSentinels
  repeat' first
    | intro _
    | with_reducible first
      | assumption | apply onDram_sound | apply raise_sound | apply setReg_sound | apply sound_foldl
    | simp only [sound_mk, parts_sound]

theorem State.srExit_sound {s : State} (bad : List Nat) (hk : orig.Sound s) :
    orig.Sound (s.srExit bad) := by
  unfold State.srExit
  repeat' first
    | intro _
    | with_reducible first
      | assumption | apply checkSentinels_sound | apply drainAll_sound | apply onDram_sound | apply when_sound

theorem execSelfRefreshExit_sound {s : State} (bad : List Nat) (h : orig.Sound s) :
    Keeps orig (execSelfRefreshExit bad s) := ifUp_sound _ (fun _ ht => State.srExit_sound _ ht) h

theorem State.discardStep_sound {s : State} (hk : orig.Sound s) :
    orig.Sound (s.discardStep) := by
  unfold State.discardStep
  repeat' first
    | intro _
    | with_reducible first
      | assumption | apply sound_ite | apply count_sound | apply onDram_sound | apply raise_sound | apply sound_foldl
    | simp only [sound_mk, parts_sound] | split | dsimp only

theorem State.startChange_sound {s : State} (target : Bool) (hk : orig.Sound s) :
    orig.Sound (s.startChange target) := by
  unfold State.startChange
  repeat' first
    | intro _
    | with_reducible first
      | assumption | apply sound_ite | apply discardStep_sound | apply onDram_sound | apply put_sound | apply raise_sound
      | apply sound_foldl
    | simp only [sound_mk, parts_sound] | split | dsimp only

theorem State.freqGo_sound {s : State} (target : Bool) (hk : orig.Sound s) :
    orig.Sound (s.freqGo target) := by
  unfold State.freqGo
  repeat' first
    | intro _
    | with_reducible first
      | assumption | apply sound_ite | apply put_sound | apply putB_sound | apply startChange_sound | apply sound_foldl
    | simp only [sound_mk, parts_sound] | split | dsimp only

theorem execFreqChange_sound {s : State} (target : Bool) (h : orig.Sound s) :
    Keeps orig (execFreqChange target s) := ifUp_sound _ (fun _ ht => State.freqGo_sound _ ht) h

theorem State.setActive_sound {s : State} (target : Bool) (hk : orig.Sound s) :
    orig.Sound (s.setActive target) := by
  unfold State.setActive
  repeat' first
    | intro _
    | with_reducible first
      | assumption | apply activate_sound | apply put_sound | apply putB_sound | apply sound_foldl

theorem State.freqDone_sound {s : State} (bad : List Nat) (hk : orig.Sound s) :
    orig.Sound (s.freqDone bad) := by
  unfold State.freqDone
  repeat' first
    | intro _
    | with_reducible first
      | assumption | apply sound_ite | apply checkSentinels_sound | apply drainAll_sound | apply onDram_sound
      | apply put_sound | apply raise_sound | apply setActive_sound | apply startChange_sound | apply when_sound
      | apply sound_foldl
    | simp only [sound_mk, parts_sound] | split | dsimp only

theorem execFreqChangeDone_sound {s : State} (bad : List Nat) (h : orig.Sound s) :
    Keeps orig (execFreqChangeDone bad s) := ifUp_sound _ (fun _ ht => State.freqDone_sound _ ht) h

theorem State.trainStep_sound {s : State} (ch : Fin 8) (hk : orig.Sound s) :
    orig.Sound (s.trainStep ch) := by
  unfold State.trainStep
  repeat' first
    | intro _
    | with_reducible first
      | assumption | apply sound_ite | apply onDram_sound | apply when_sound | apply sound_foldl
    | simp only [sound_mk, parts_sound] | split | dsimp only

theorem execDramTrainingStep_sound {s : State} (ch : Fin 8) (h : orig.Sound s) :
    Keeps orig (execDramTrainingStep ch s) := ifUp_sound _ (fun _ ht => State.trainStep_sound _ ht) h

theorem State.scrub_sound {s : State} (corrected : Nat) (uncorrectable : List Nat) (hk : orig.Sound s) :
    orig.Sound (s.scrub corrected uncorrectable) := by
  unfold State.scrub
  repeat' first
    | intro _
    | with_reducible first
      | assumption | apply sound_ite | apply countBy_sound | apply eccReports_sound | apply onDram_sound | apply raiseIf_sound
      | apply when_sound | apply sound_foldl
    | simp only [sound_mk, parts_sound] | split | dsimp only

theorem execScrubPass_sound {s : State} (corrected : Nat) (uncorrectable : List Nat) (h : orig.Sound s) :
    Keeps orig (execScrubPass corrected uncorrectable s) := ifUp_sound _ (fun _ ht => State.scrub_sound _ _ ht) h

end Sys2Proof.Machine
end

