-- ==== Sys2Proof/Laws/Ethernet.lean ====
section
/-! SUPPORT. Every operation of Machine/Ethernet.lean keeps soundness. -/

namespace Sys2Proof.Machine

variable {orig : State}

theorem State.ethRx_sound {s : State} (p : Fin 2) (f : List Byte) (fcsOk : Bool) (ns : Word) (frac : BitVec 16) (hk : orig.Sound s) :
    orig.Sound (s.ethRx p f fcsOk ns frac) := by
  unfold State.ethRx
  repeat' first
    | intro _
    | with_reducible first
      | assumption | apply sound_ite | apply put_sound | apply raise_sound | apply store_sound | apply storeWord_sound
      | apply sound_foldl
    | simp only [sound_mk, parts_sound] | split | dsimp only

/-! ## Commands -/

theorem execEthFrameRx_sound {s : State} (p : Fin 2) (bytes : List Byte) (fcsOk : Bool) (ns : Word) (frac : BitVec 16)
    (h : orig.Sound s) :
    Keeps orig (execEthFrameRx p bytes fcsOk ns frac s) := by
  unfold execEthFrameRx
  repeat' first
    | intro _
    | with_reducible first
      | assumption | apply ifUp_sound | apply State.ethRx_sound | apply State.when_sound

theorem State.queueStamp_sound {s : State} (p : Fin 2) (id : BitVec 12) (st : BitVec 48) (hk : orig.Sound s) :
    orig.Sound (s.queueStamp p id st) := by
  unfold State.queueStamp
  repeat' first
    | intro _
    | with_reducible first
      | assumption | apply sound_ite | apply count_sound | apply put_sound | apply raise_sound | apply raiseIf_sound
    | simp only [sound_mk, parts_sound]

theorem State.ethTx_sound {s : State} (p : Fin 2) (ns : Word) (frac : BitVec 16) (hk : orig.Sound s) :
    orig.Sound (s.ethTx p ns frac) := by
  unfold State.ethTx
  repeat' first
    | intro _
    | with_reducible first
      | assumption | apply sound_ite | apply emit_sound | apply put_sound | apply queueStamp_sound | apply raise_sound
      | apply raiseIf_sound | apply storeWord_sound | apply sound_foldl
    | simp only [sound_mk, parts_sound] | split | dsimp only

theorem execEthFrameTx_sound {s : State} (p : Fin 2) (ns : Word) (frac : BitVec 16) (h : orig.Sound s) :
    Keeps orig (execEthFrameTx p ns frac s) := by
  unfold execEthFrameTx
  repeat' first
    | intro _
    | with_reducible first
      | assumption | apply ifUp_sound | apply State.ethTx_sound | apply State.when_sound

theorem State.tsqPop_sound {s : State} (p : Fin 2) (hk : orig.Sound s) :
    orig.Sound (s.tsqPop p) := by
  unfold State.tsqPop
  repeat' first
    | intro _
    | with_reducible first
      | assumption
    | simp only [sound_mk, parts_sound]

theorem execTsqPop_sound {s : State} (p : Fin 2) (h : orig.Sound s) :
    Keeps orig (execTsqPop p s) := ifUp_sound _ (fun _ ht => State.tsqPop_sound _ ht) h

theorem State.ptpCommit_sound {s : State} (value : Word) (hk : orig.Sound s) :
    orig.Sound (s.ptpCommit value) := by
  unfold State.ptpCommit
  repeat' first
    | intro _
    | with_reducible first
      | assumption | apply sound_ite | apply activate_sound | apply setReg_sound | apply sound_foldl
    | simp only [sound_mk, parts_sound] | split | dsimp only

theorem execPtpMapCommit_sound {s : State} (value : Word) (h : orig.Sound s) :
    Keeps orig (execPtpMapCommit value s) := ifUp_sound _ (fun _ ht => State.ptpCommit_sound _ ht) h

theorem State.ethLink_sound {s : State} (p : Fin 2) (up : Bool) (hk : orig.Sound s) :
    orig.Sound (s.ethLink p up) := by
  unfold State.ethLink
  repeat' first
    | intro _
    | with_reducible first
      | assumption | apply sound_ite | apply putB_sound | apply raise_sound

theorem execEthLinkChange_sound {s : State} (p : Fin 2) (up : Bool) (h : orig.Sound s) :
    Keeps orig (execEthLinkChange p up s) := by
  unfold execEthLinkChange
  repeat' first
    | intro _
    | with_reducible first
      | assumption | apply ifUp_sound | apply State.ethLink_sound | apply State.when_sound

end Sys2Proof.Machine
end

