-- ==== Sys2Proof/Laws/Dedup.lean ====
section
/-! SUPPORT. Every operation of Machine/Dedup.lean keeps soundness. -/

namespace Sys2Proof.Machine

variable {orig : State}

theorem State.setStab_sound {s : State} (stream : Nat) (v : Byte) (hk : orig.Sound s) :
    orig.Sound (s.setStab stream v) := by
  unfold State.setStab
  repeat' first
    | intro _
    | with_reducible first
      | assumption
    | simp only [sound_mk, parts_sound]

theorem State.forward_sound {s : State} (src : Option (Fin 4)) (stream : Nat) (path1 : Bool) (k : Packet)
    (hk : orig.Sound s) :
    orig.Sound (s.forward src stream path1 k) := by
  unfold State.forward
  repeat' first
    | intro _
    | with_reducible first
      | assumption | apply sound_ite | apply enqueue_sound | apply raise_sound | apply sound_foldl

theorem State.txHeader_sound {s : State} (k : Nat) (hk : orig.Sound s) :
    orig.Sound (s.txHeader k).2 := by
  unfold State.txHeader
  repeat' first
    | intro _
    | with_reducible first
      | assumption | apply put_sound | apply wrapCount_sound
    | simp only [sound_mk, parts_sound]

theorem State.txPacket_sound {s : State} (k : Nat) (ty : BitVec 4) (sos eos : Bool) (data : List Byte) (hk : orig.Sound s) :
    orig.Sound (s.txPacket k ty sos eos data) := by
  unfold State.txPacket
  repeat' first
    | intro _
    | with_reducible first
      | assumption | apply forward_sound | apply txHeader_sound | apply sound_foldl
    | simp only [sound_mk, parts_sound]

theorem State.streamTx_sound {s : State} (k : Fin 64) (hk : orig.Sound s) :
    orig.Sound (s.streamTx k) := by
  unfold State.streamTx
  repeat' first
    | intro _
    | with_reducible first
      | assumption | apply sound_ite | apply txPacket_sound
    | simp only [sound_mk, parts_sound] | split

theorem execStreamTxPacket_sound {s : State} (k : Fin 64) (h : orig.Sound s) :
    Keeps orig (execStreamTxPacket k s) := by
  unfold execStreamTxPacket
  repeat' first
    | intro _
    | with_reducible first
      | assumption | apply ifUp_sound | apply State.streamTx_sound | apply State.when_sound

/-! ## Commands -/

theorem execTxsSync_sound {s : State} (k : Fin 64) (h : orig.Sound s) :
    Keeps orig (execTxsSync k s) := ifUp_sound _ (fun _ ht => State.put_sound _ _ ht) h

theorem State.lstreamWrite_sound {s : State} (k : Fin 8) (value : Word) (hk : orig.Sound s) :
    orig.Sound (s.lstreamWrite k value) := by
  unfold State.lstreamWrite
  repeat' first
    | intro _
    | with_reducible first
      | assumption | apply put_sound
    | simp only [sound_mk, parts_sound]

theorem execLstreamWrite_sound {s : State} (k : Fin 8) (value : Word) (h : orig.Sound s) :
    Keeps orig (execLstreamWrite k value s) := ifUp_sound _ (fun _ ht => State.lstreamWrite_sound _ _ ht) h

theorem State.stabNext_sound {s : State} (hk : orig.Sound s) :
    orig.Sound (s.stabNext) := by
  unfold State.stabNext
  repeat' first
    | intro _
    | with_reducible first
      | assumption | apply wrapCount_sound

theorem State.stabAccess_sound {s : State} (value : Option Word) (hk : orig.Sound s) :
    orig.Sound (s.stabAccess value) := by
  unfold State.stabAccess
  repeat' first
    | intro _
    | with_reducible first
      | assumption | apply setStab_sound | apply stabNext_sound
    | simp only [sound_mk, parts_sound] | split

theorem execStabDataAccess_sound {s : State} (value : Option Word) (h : orig.Sound s) :
    Keeps orig (execStabDataAccess value s) := ifUp_sound _ (fun _ ht => State.stabAccess_sound _ ht) h

end Sys2Proof.Machine
end

