-- ==== Sys2Proof/Laws/Content.lean ====
section
/-! SUPPORT. Every operation of Machine/Content.lean keeps soundness. -/

namespace Sys2Proof.Machine

variable {orig : State}

theorem State.selectContent_sound {s : State} (hk : orig.Sound s) :
    orig.Sound (s.selectContent) := by
  unfold State.selectContent
  repeat' first
    | intro _
    | with_reducible first
      | assumption | apply sound_ite
    | simp only [sound_mk, parts_sound] | split

theorem State.countRepeat_sound {s : State} (hk : orig.Sound s) :
    orig.Sound (s.countRepeat) := by
  unfold State.countRepeat
  repeat' first
    | intro _
    | with_reducible first
      | assumption | apply count_sound | apply raise_sound

theorem State.cutoff_sound {s : State} (hk : orig.Sound s) :
    orig.Sound (s.cutoff) := by
  unfold State.cutoff
  repeat' first
    | intro _
    | with_reducible first
      | assumption | apply sound_ite | apply countRepeat_sound
    | simp only [sound_mk, parts_sound]

end Sys2Proof.Machine
end

