-- ==== Sys2Proof/Laws/Panel.lean ====
section
/-! SUPPORT. Every operation of Machine/Panel.lean keeps soundness. -/

namespace Sys2Proof.Machine

variable {orig : State}

theorem State.onPanel_sound {s : State} (p : Fin 4) (f : PanelPort → PanelPort) (hk : orig.Sound s) :
    orig.Sound (s.onPanel p f) := by
  unfold State.onPanel
  repeat' first
    | intro _
    | with_reducible first
      | assumption
    | simp only [sound_mk, parts_sound]

theorem State.onPanelLane_sound {s : State} (p : Fin 4) (l : Fin 8) (f : PanelLane → PanelLane) (hk : orig.Sound s) :
    orig.Sound (s.onPanelLane p l f) := by
  unfold State.onPanelLane
  repeat' first
    | intro _
    | with_reducible first
      | assumption | apply onPanel_sound

theorem State.sendBlock_sound {s : State} (p : Fin 4) (l : Fin 8) (control : Bool) (w : BitVec 64) (hk : orig.Sound s) :
    orig.Sound (s.sendBlock p l control w) := by
  unfold State.sendBlock
  repeat' first
    | intro _
    | with_reducible first
      | assumption | apply sound_ite | apply emit_sound | apply onPanelLane_sound | apply sound_foldl
    | simp only [sound_mk, parts_sound] | split | dsimp only

theorem State.queueBlock_sound {s : State} (p : Fin 4) (l : Fin 8) (prio : Nat) (w : BitVec 64) (hk : orig.Sound s) :
    orig.Sound (s.queueBlock p l prio w) := by
  unfold State.queueBlock
  repeat' first
    | intro _
    | with_reducible first
      | assumption | apply sound_ite | apply onPanelLane_sound | apply sound_foldl
    | simp only [sound_mk, parts_sound] | split | dsimp only

theorem State.flushLane_sound {s : State} (p : Fin 4) (l : Fin 8) (hk : orig.Sound s) :
    orig.Sound (s.flushLane p l) := by
  unfold State.flushLane
  repeat' first
    | intro _
    | with_reducible first
      | assumption | apply sound_ite | apply onPanelLane_sound | apply sendBlock_sound | apply sound_foldl
    | simp only [sound_mk, parts_sound] | split | dsimp only

theorem State.drainLane_sound {s : State} (p : Fin 4) (l : Fin 8) (k : Nat) (h : orig.Sound s) :
    orig.Sound (State.drainLane p l k s) := by
  induction k generalizing s with
  | zero => exact h
  | succ k ih =>
    unfold State.drainLane
    dsimp only
    split
    · exact h
    · exact sound_ite (ih (sendBlock_sound _ _ _ _ (onPanelLane_sound _ _ _ h))) h

theorem State.drainLanes_sound {s : State} (hk : orig.Sound s) :
    orig.Sound (s.drainLanes) := by
  unfold State.drainLanes
  repeat' first
    | intro _
    | with_reducible first
      | assumption | apply sound_ite | apply drainLane_sound | apply when_sound | apply sound_foldl
    | simp only [sound_mk, parts_sound] | split | dsimp only

theorem State.sendAll_sound {s : State} (prio : Nat) (w : BitVec 64) (hk : orig.Sound s) :
    orig.Sound (s.sendAll prio w) := by
  unfold State.sendAll
  repeat' first
    | intro _
    | with_reducible first
      | assumption | apply sound_ite | apply queueBlock_sound | apply sound_foldl
    | simp only [sound_mk, parts_sound] | split | dsimp only

theorem State.sendCfg_sound {s : State} (hk : orig.Sound s) :
    orig.Sound (s.sendCfg) := by
  unfold State.sendCfg
  repeat' first
    | intro _
    | with_reducible first
      | assumption | apply sound_ite | apply sendAll_sound | apply sound_foldl
    | simp only [sound_mk, parts_sound] | split | dsimp only

theorem State.sendCfgTo_sound {s : State} (p : Fin 4) (hk : orig.Sound s) :
    orig.Sound (s.sendCfgTo p) := by
  unfold State.sendCfgTo
  repeat' first
    | intro _
    | with_reducible first
      | assumption | apply sound_ite | apply sendBlock_sound | apply sound_foldl

theorem State.panelDown_sound {s : State} (p : Fin 4) (state : Nat) (hk : orig.Sound s) :
    orig.Sound (s.panelDown p state) := by
  unfold State.panelDown
  repeat' first
    | intro _
    | with_reducible first
      | assumption | apply onPanel_sound | apply put_sound
    | simp only [sound_mk, parts_sound]

theorem State.seedLane_sound {s : State} (p : Fin 4) (l : Fin 8) (hk : orig.Sound s) :
    orig.Sound (s.seedLane p l) := by
  unfold State.seedLane
  repeat' first
    | intro _
    | with_reducible first
      | assumption | apply sound_ite | apply draw_sound | apply onPanelLane_sound | apply sound_foldl
    | simp only [sound_mk, parts_sound] | split | dsimp only

theorem State.panelStart_sound {s : State} (p : Fin 4) (hk : orig.Sound s) :
    orig.Sound (s.panelStart p) := by
  unfold State.panelStart
  repeat' first
    | intro _
    | with_reducible first
      | assumption | apply sound_ite | apply draw_sound | apply onPanel_sound | apply panelDown_sound | apply seedLane_sound
      | apply when_sound | apply sound_foldl
    | simp only [sound_mk, parts_sound] | split | dsimp only

theorem State.panelCap_sound {s : State} (p : Fin 4) (l : Fin 8) (cap : BitVec 13) (hk : orig.Sound s) :
    orig.Sound (s.panelCap p l cap) := by
  unfold State.panelCap
  repeat' first
    | intro _
    | with_reducible first
      | assumption | apply sound_ite | apply onPanelLane_sound | apply put_sound | apply when_sound | apply sound_foldl
    | simp only [sound_mk, parts_sound] | split | dsimp only

theorem State.backRx_sound {s : State} (p : Fin 4) (ty : Nat) (bytes : List Byte) (f : BackMessage → State → State) (hk : orig.Sound s) (h_f : ∀ x0 x1, orig.Sound x1 → orig.Sound (f x0 x1)) :
    orig.Sound (s.backRx p ty bytes f) := by
  unfold State.backRx
  repeat' first
    | intro _
    | with_reducible first
      | assumption | apply sound_ite | apply onPanel_sound | apply sound_foldl | apply h_f
    | simp only [sound_mk, parts_sound] | split | dsimp only

theorem State.driverRx_sound {s : State} (p : Fin 4) (ty : Nat) (bytes : List Byte) (f : Fin 8 → Nat → State → State) (hk : orig.Sound s) (h_f : ∀ x0 x1 x2, orig.Sound x2 → orig.Sound (f x0 x1 x2)) :
    orig.Sound (s.driverRx p ty bytes f) := by
  unfold State.driverRx
  repeat' first
    | intro _
    | with_reducible first
      | assumption | apply sound_ite | apply backRx_sound | apply sound_foldl | apply h_f
    | simp only [sound_mk, parts_sound] | split | dsimp only

theorem execPanelCapRx_sound {s : State} (p : Fin 4) (msg : List Byte) (h : orig.Sound s) :
    Keeps orig (execPanelCapRx p msg s) := by
  unfold execPanelCapRx
  repeat' first
    | intro _
    | with_reducible first
      | assumption | apply ifUp_sound | apply ifOn_sound | apply next_sound | apply sound_ite | apply State.driverRx_sound
      | apply State.panelCap_sound | apply sound_foldl
    | simp only [sound_mk, parts_sound] | split | simp only [Effect.Sound, onRegs, onPair] | simp only [ThreadEffect.Sound]
    | exact trivial | dsimp only

theorem State.panelFails_sound {s : State} (p : Fin 4) (hk : orig.Sound s) :
    orig.Sound (s.panelFails p) := by
  unfold State.panelFails
  repeat' first
    | intro _
    | with_reducible first
      | assumption | apply sound_ite | apply panelDown_sound | apply put_sound | apply raise_sound | apply sound_foldl
    | simp only [sound_mk, parts_sound] | split | dsimp only

theorem State.sendGroup_sound {s : State} (p : Fin 4) (lanes : List (Fin 8)) (countdown : Nat) (hk : orig.Sound s) :
    orig.Sound (s.sendGroup p lanes countdown) := by
  unfold State.sendGroup
  repeat' first
    | intro _
    | with_reducible first
      | assumption | apply sound_ite | apply onPanel_sound | apply sendBlock_sound | apply sound_foldl
    | simp only [sound_mk, parts_sound] | split | dsimp only

theorem State.tryResolve_sound {s : State} (p : Fin 4) (hk : orig.Sound s) :
    orig.Sound (s.tryResolve p) := by
  unfold State.tryResolve
  repeat' first
    | intro _
    | with_reducible first
      | assumption | apply sound_ite | apply onPanel_sound | apply sound_foldl
    | simp only [sound_mk, parts_sound] | split | dsimp only

theorem State.trainPort_sound {s : State} (p : Fin 4) (hk : orig.Sound s) :
    orig.Sound (s.trainPort p) := by
  unfold State.trainPort
  repeat' first
    | intro _
    | with_reducible first
      | assumption | apply sound_ite | apply onPanel_sound | apply sendGroup_sound | apply tryResolve_sound
      | apply sound_foldl
    | simp only [sound_mk, parts_sound] | split | dsimp only

theorem State.trainPanel_sound {s : State} (p : Fin 4) (hk : orig.Sound s) :
    orig.Sound (s.trainPanel p) := by
  unfold State.trainPanel
  repeat' first
    | intro _
    | with_reducible first
      | assumption | apply sound_ite | apply sendGroup_sound | apply trainPort_sound | apply sound_foldl
    | simp only [sound_mk, parts_sound] | split | dsimp only

theorem State.sendPanels_sound {s : State} (hk : orig.Sound s) :
    orig.Sound (s.sendPanels) := by
  unfold State.sendPanels
  repeat' first
    | intro _
    | with_reducible first
      | assumption | apply sound_ite | apply drainLanes_sound | apply trainPanel_sound | apply sound_foldl
    | simp only [sound_mk, parts_sound] | split | dsimp only

theorem State.panelSwitch_sound {s : State} (p : Fin 4) (hk : orig.Sound s) :
    orig.Sound (s.panelSwitch p) := by
  unfold State.panelSwitch
  repeat' first
    | intro _
    | with_reducible first
      | assumption | apply sound_ite | apply onPanel_sound | apply panelFails_sound | apply put_sound | apply when_sound
      | apply sound_foldl
    | simp only [sound_mk, parts_sound] | split | dsimp only

theorem execPanelRateSwitch_sound {s : State} (p : Fin 4) (h : orig.Sound s) :
    Keeps orig (execPanelRateSwitch p s) := ifUp_sound _ (fun _ ht => State.panelSwitch_sound _ ht) h

theorem State.panelNegotiationFails_sound {s : State} (p : Fin 4) (l : Option (Fin 8)) (hk : orig.Sound s) :
    orig.Sound (s.panelNegotiationFails p l) := by
  unfold State.panelNegotiationFails
  repeat' first
    | intro _
    | with_reducible first
      | assumption | apply sound_ite | apply onPanel_sound | apply panelFails_sound | apply raise_sound | apply when_sound
    | simp only [sound_mk, parts_sound] | split

theorem execPanelNegotiationFailed_sound {s : State} (p : Fin 4) (l : Option (Fin 8)) (h : orig.Sound s) :
    Keeps orig (execPanelNegotiationFailed p l s) := ifUp_sound _ (fun _ ht => State.panelNegotiationFails_sound _ _ ht) h

theorem State.panelComesUp_sound {s : State} (p : Fin 4) (hk : orig.Sound s) :
    orig.Sound (s.panelComesUp p) := by
  unfold State.panelComesUp
  repeat' first
    | intro _
    | with_reducible first
      | assumption | apply put_sound | apply raiseIf_sound | apply sendCfgTo_sound
    | simp only [sound_mk, parts_sound]

theorem State.laneLost_sound {s : State} (p : Fin 4) (l : Fin 8) (hk : orig.Sound s) :
    orig.Sound (s.laneLost p l) := by
  unfold State.laneLost
  repeat' first
    | intro _
    | with_reducible first
      | assumption | apply sound_ite | apply count_sound | apply flushLane_sound | apply onPanelLane_sound | apply put_sound
      | apply raise_sound | apply when_sound | apply sound_foldl
    | simp only [sound_mk, parts_sound] | split | dsimp only

theorem State.panelLock_sound {s : State} (p : Fin 4) (l : Fin 8) (msg : BitVec 8) (hk : orig.Sound s) :
    orig.Sound (s.panelLock p l msg) := by
  unfold State.panelLock
  repeat' first
    | intro _
    | with_reducible first
      | assumption | apply sound_ite | apply laneLost_sound | apply onPanelLane_sound | apply panelComesUp_sound
      | apply sound_foldl
    | simp only [sound_mk, parts_sound] | split | dsimp only

theorem execPanelLockRx_sound {s : State} (p : Fin 4) (msg : List Byte) (h : orig.Sound s) :
    Keeps orig (execPanelLockRx p msg s) := by
  unfold execPanelLockRx
  repeat' first
    | intro _
    | with_reducible first
      | assumption | apply ifUp_sound | apply ifOn_sound | apply next_sound | apply sound_ite | apply State.driverRx_sound
      | apply State.panelLock_sound | apply sound_foldl
    | simp only [sound_mk, parts_sound] | split | simp only [Effect.Sound, onRegs, onPair] | simp only [ThreadEffect.Sound]
    | exact trivial | dsimp only

theorem State.panelCrcErr_sound {s : State} (p : Fin 4) (hk : orig.Sound s) :
    orig.Sound (s.panelCrcErr p) := by
  unfold State.panelCrcErr
  repeat' first
    | intro _
    | with_reducible first
      | assumption | apply sound_ite | apply count_sound | apply raise_sound | apply when_sound | apply sound_foldl
    | simp only [sound_mk, parts_sound] | split | dsimp only

theorem execPanelCrcErrRx_sound {s : State} (p : Fin 4) (msg : List Byte) (h : orig.Sound s) :
    Keeps orig (execPanelCrcErrRx p msg s) := by
  unfold execPanelCrcErrRx
  repeat' first
    | intro _
    | with_reducible first
      | assumption | apply ifUp_sound | apply ifOn_sound | apply next_sound | apply sound_ite | apply State.driverRx_sound
      | apply State.panelCrcErr_sound | apply sound_foldl
    | simp only [sound_mk, parts_sound] | split | simp only [Effect.Sound, onRegs, onPair] | simp only [ThreadEffect.Sound]
    | exact trivial | dsimp only

theorem State.laneSilent_sound {s : State} (p : Fin 4) (l : Fin 8) (hk : orig.Sound s) :
    orig.Sound (s.laneSilent p l) := by
  unfold State.laneSilent
  repeat' first
    | intro _
    | with_reducible first
      | assumption | apply sound_ite | apply laneLost_sound | apply when_sound | apply sound_foldl
    | simp only [sound_mk, parts_sound] | split | dsimp only

theorem execPanelLaneLockLoss_sound {s : State} (p : Fin 4) (l : Fin 8) (h : orig.Sound s) :
    Keeps orig (execPanelLaneLockLoss p l s) := ifUp_sound _ (fun _ ht => State.laneSilent_sound _ _ ht) h

theorem State.catchUp_sound {s : State} (p : Fin 4) (l : Fin 8) (hk : orig.Sound s) :
    orig.Sound (s.catchUp p l) := by
  unfold State.catchUp
  repeat' first
    | intro _
    | with_reducible first
      | assumption | apply sound_ite | apply count_sound | apply onPanelLane_sound | apply raise_sound | apply sendBlock_sound
      | apply sound_foldl
    | simp only [sound_mk, parts_sound] | split | dsimp only

theorem State.laneReturns_sound {s : State} (p : Fin 4) (l : Fin 8) (hk : orig.Sound s) :
    orig.Sound (s.laneReturns p l) := by
  unfold State.laneReturns
  repeat' first
    | intro _
    | with_reducible first
      | assumption | apply sound_ite | apply catchUp_sound | apply onPanelLane_sound | apply put_sound | apply raise_sound
      | apply when_sound | apply sound_foldl
    | simp only [sound_mk, parts_sound] | split | dsimp only

theorem execPanelLaneRetrainDone_sound {s : State} (p : Fin 4) (l : Fin 8) (h : orig.Sound s) :
    Keeps orig (execPanelLaneRetrainDone p l s) := ifUp_sound _ (fun _ ht => State.laneReturns_sound _ _ ht) h

theorem State.backLost_sound {s : State} (p : Fin 4) (hk : orig.Sound s) :
    orig.Sound (s.backLost p) := by
  unfold State.backLost
  repeat' first
    | intro _
    | with_reducible first
      | assumption | apply sound_ite | apply put_sound | apply raise_sound | apply when_sound | apply sound_foldl
    | simp only [sound_mk, parts_sound] | split | dsimp only

theorem execBackChannelLoss_sound {s : State} (p : Fin 4) (h : orig.Sound s) :
    Keeps orig (execBackChannelLoss p s) := ifUp_sound _ (fun _ ht => State.backLost_sound _ ht) h

theorem State.backRelocks_sound {s : State} (p : Fin 4) (hk : orig.Sound s) :
    orig.Sound (s.backRelocks p) := by
  unfold State.backRelocks
  repeat' first
    | intro _
    | with_reducible first
      | assumption | apply sound_ite | apply onPanel_sound | apply put_sound | apply when_sound | apply sound_foldl
    | simp only [sound_mk, parts_sound] | split | dsimp only

theorem execBackChannelRelock_sound {s : State} (p : Fin 4) (h : orig.Sound s) :
    Keeps orig (execBackChannelRelock p s) := ifUp_sound _ (fun _ ht => State.backRelocks_sound _ ht) h

theorem State.panelRetrain_sound {s : State} (p : Fin 4) (hk : orig.Sound s) :
    orig.Sound (s.panelRetrain p) := by
  unfold State.panelRetrain
  repeat' first
    | intro _
    | with_reducible first
      | assumption | apply panelStart_sound | apply put_sound | apply when_sound

theorem execPanelRetrain_sound {s : State} (p : Fin 4) (h : orig.Sound s) :
    Keeps orig (execPanelRetrain p s) := ifUp_sound _ (fun _ ht => State.panelRetrain_sound _ ht) h

theorem State.panelClr_sound {s : State} (p : Fin 4) (hk : orig.Sound s) :
    orig.Sound (s.panelClr p) := by
  unfold State.panelClr
  repeat' first
    | intro _
    | with_reducible first
      | assumption | apply setReg_sound

theorem execPanelClr_sound {s : State} (p : Fin 4) (h : orig.Sound s) :
    Keeps orig (execPanelClr p s) := ifUp_sound _ (fun _ ht => State.panelClr_sound _ ht) h

theorem State.bandLine_sound {s : State} (p : Fin 4) (l : Fin 8) (n : Nat) (hk : orig.Sound s) :
    orig.Sound (s.bandLine p l n) := by
  unfold State.bandLine
  repeat' first
    | intro _
    | with_reducible first
      | assumption | apply sound_ite | apply flushLane_sound | apply onPanelLane_sound | apply sendBlock_sound
      | apply sound_foldl
    | simp only [sound_mk, parts_sound] | split | dsimp only

/-! ## Commands -/

theorem execBandLineSend_sound {s : State} (p : Fin 4) (l : Fin 8) (n : Nat) (h : orig.Sound s) :
    Keeps orig (execBandLineSend p l n s) := ifUp_sound _ (fun _ ht => State.bandLine_sound _ _ _ ht) h

theorem State.latchLane_sound {s : State} (p : Fin 4) (l : Fin 8) (r b : Nat) (hk : orig.Sound s) :
    orig.Sound (s.latchLane p l r b) := by
  unfold State.latchLane
  repeat' first
    | intro _
    | with_reducible first
      | assumption | apply sound_ite | apply count_sound | apply onPanelLane_sound | apply queueBlock_sound
      | apply sound_foldl
    | simp only [sound_mk, parts_sound] | split | dsimp only

theorem State.latchLanes_sound {s : State} (r b : Nat) (hk : orig.Sound s) :
    orig.Sound (s.latchLanes r b) := by
  unfold State.latchLanes
  repeat' first
    | intro _
    | with_reducible first
      | assumption | apply latchLane_sound | apply sound_foldl

theorem State.dropLines_sound {s : State} (hk : orig.Sound s) :
    orig.Sound (s.dropLines) := by
  unfold State.dropLines
  repeat' first
    | intro _
    | with_reducible first
      | assumption | apply onPanelLane_sound | apply sound_foldl

theorem execGoaDisWrite_sound {s : State} (dis : Bool) (h : orig.Sound s) :
    Keeps orig (execGoaDisWrite dis s) := ifUp_sound _ (fun _ ht => State.putB_sound _ _ ht) h

theorem State.gateLatch_sound {s : State} (b : Fin 64) (slot mask period : Nat) (t : Word) (final light : Bool) (hk : orig.Sound s) :
    orig.Sound (s.gateLatch b slot mask period t final light) := by
  unfold State.gateLatch
  repeat' first
    | intro _
    | with_reducible first
      | assumption | apply sound_ite | apply changeLayer_sound | apply count_sound | apply onBand_sound | apply raise_sound
      | apply startComp_sound | apply sound_foldl
    | simp only [sound_mk, parts_sound] | split | dsimp only

theorem State.holdTransition_sound {s : State} (b : Fin 64) (period : Nat) (t : Word) (hk : orig.Sound s) :
    orig.Sound (s.holdTransition b period t) := by
  unfold State.holdTransition
  repeat' first
    | intro _
    | with_reducible first
      | assumption | apply sound_ite | apply changeLayer_sound | apply onBand_sound | apply startComp_sound
      | apply sound_foldl
    | simp only [sound_mk, parts_sound] | split | dsimp only

theorem State.goDark_sound {s : State} (b : Fin 64) (t : Word) (hk : orig.Sound s) :
    orig.Sound (s.goDark b t) := by
  unfold State.goDark
  repeat' first
    | intro _
    | with_reducible first
      | assumption | apply sound_ite | apply emit_sound | apply onBand_sound | apply shiftDark_sound | apply startComp_sound
      | apply sound_foldl
    | simp only [sound_mk, parts_sound] | split | dsimp only

theorem State.darkShift_sound {s : State} (b : Fin 64) (hk : orig.Sound s) :
    orig.Sound (s.darkShift b) := by
  unfold State.darkShift
  repeat' first
    | intro _
    | with_reducible first
      | assumption | apply sound_ite | apply goDark_sound | apply onBand_sound | apply when_sound | apply sound_foldl
    | simp only [sound_mk, parts_sound] | split | dsimp only

theorem execDarkShift_sound {s : State} (b : Fin 64) (h : orig.Sound s) :
    Keeps orig (execDarkShift b s) := ifUp_sound _ (fun _ ht => State.darkShift_sound _ ht) h

theorem State.finalDark_sound {s : State} (b : Fin 64) (hk : orig.Sound s) :
    orig.Sound (s.finalDark b) := by
  unfold State.finalDark
  repeat' first
    | intro _
    | with_reducible first
      | assumption | apply goDark_sound | apply startPairs_sound | apply when_sound
    | simp only [sound_mk, parts_sound] | split

theorem execFinalDarkPass_sound {s : State} (b : Fin 64) (h : orig.Sound s) :
    Keeps orig (execFinalDarkPass b s) := ifUp_sound _ (fun _ ht => State.finalDark_sound _ ht) h

theorem State.lightShift_sound {s : State} (b : Fin 64) (hk : orig.Sound s) :
    orig.Sound (s.lightShift b) := by
  unfold State.lightShift
  repeat' first
    | intro _
    | with_reducible first
      | assumption | apply sound_ite | apply emit_sound | apply onBand_sound | apply shiftLight_sound | apply stopComp_sound
      | apply when_sound | apply sound_foldl
    | simp only [sound_mk, parts_sound] | split | dsimp only

theorem execLightShift_sound {s : State} (b : Fin 64) (h : orig.Sound s) :
    Keeps orig (execLightShift b s) := ifUp_sound _ (fun _ ht => State.lightShift_sound _ ht) h

theorem State.scanSend_sound {s : State} (b : Fin 64) (hk : orig.Sound s) :
    orig.Sound (s.scanSend b) := by
  unfold State.scanSend
  repeat' first
    | intro _
    | with_reducible first
      | assumption | apply sound_ite | apply onBand_sound | apply sendAll_sound | apply sound_foldl
    | simp only [sound_mk, parts_sound] | split | dsimp only

theorem execScanSend_sound {s : State} (b : Fin 64) (h : orig.Sound s) :
    Keeps orig (execScanSend b s) := ifUp_sound _ (fun _ ht => State.scanSend_sound _ ht) h

theorem State.scanPulse_sound {s : State} (b : Fin 64) (hk : orig.Sound s) :
    orig.Sound (s.scanPulse b) := by
  unfold State.scanPulse
  repeat' first
    | intro _
    | with_reducible first
      | assumption | apply sound_ite | apply emit_sound | apply onBand_sound | apply shiftScan_sound | apply when_sound
      | apply sound_foldl
    | simp only [sound_mk, parts_sound] | split | dsimp only

theorem execScanPulse_sound {s : State} (b : Fin 64) (h : orig.Sound s) :
    Keeps orig (execScanPulse b s) := ifUp_sound _ (fun _ ht => State.scanPulse_sound _ ht) h

theorem State.compGuard_sound {s : State} (b : Fin 64) (l : Fin 6) (hk : orig.Sound s) :
    orig.Sound (s.compGuard b l) := by
  unfold State.compGuard
  repeat' first
    | intro _
    | with_reducible first
      | assumption | apply sound_ite | apply stopComp_sound | apply sound_foldl
    | simp only [sound_mk, parts_sound] | split | dsimp only

theorem execCompensationGuard_sound {s : State} (b : Fin 64) (l : Fin 6) (h : orig.Sound s) :
    Keeps orig (execCompensationGuard b l s) := ifOn_sound _ (fun _ ht => State.compGuard_sound _ _ ht) h

theorem State.startRescan_sound {s : State} (t : Word) (hk : orig.Sound s) :
    orig.Sound (s.startRescan t) := by
  unfold State.startRescan
  repeat' first
    | intro _
    | with_reducible first
      | assumption | apply sound_ite | apply onBand_sound | apply sound_foldl
    | simp only [sound_mk, parts_sound] | split | dsimp only

theorem State.blinkStep_sound {s : State} (launch : Bool) (t : Word) (hk : orig.Sound s) :
    orig.Sound (s.blinkStep launch t) := by
  unfold State.blinkStep
  repeat' first
    | intro _
    | with_reducible first
      | assumption | apply sound_ite | apply sendAll_sound | apply setReg_sound | apply startRescan_sound
      | apply wrapCount_sound | apply sound_foldl
    | simp only [sound_mk, parts_sound] | split | dsimp only

theorem State.holdTick_sound {s : State} (hk : orig.Sound s) :
    orig.Sound (s.holdTick) := by
  unfold State.holdTick
  repeat' first
    | intro _
    | with_reducible first
      | assumption | apply blinkStep_sound | apply hold_sound | apply selectBand_sound | apply when_sound
      | apply wrapCount_sound
    | simp only [sound_mk, parts_sound] | split

theorem execHoldTick_sound {s : State} (h : orig.Sound s) :
    Keeps orig (execHoldTick s) := ifUp_sound _ (fun _ ht => State.holdTick_sound ht) h

theorem State.pushBytes_sound {s : State} (k : CmdPush) (h : orig.Sound s) : orig.Sound (s.pushBytes k).2 := by
  unfold State.pushBytes
  refine sound_foldl_snd (r := ([], s)) (fun r j hr => ?_) _ h
  exact readAny_sound _ _ _ hr

theorem State.sendPush_sound {s : State} (k : CmdPush) (hk : orig.Sound s) :
    orig.Sound (s.sendPush k) := by
  unfold State.sendPush
  repeat' first
    | intro _
    | with_reducible first
      | assumption | apply sound_ite | apply pushBytes_sound | apply sendBlock_sound | apply sound_foldl
    | simp only [sound_mk, parts_sound] | split | dsimp only

theorem State.cmdPush_sound {s : State} (ecc : List EccHit) (hk : orig.Sound s) :
    orig.Sound (s.cmdPush ecc) := by
  unfold State.cmdPush
  repeat' first
    | intro _
    | with_reducible first
      | assumption | apply sound_ite | apply put_sound | apply sendPush_sound | apply sound_foldl
    | simp only [sound_mk, parts_sound] | split | dsimp only

theorem execCmdPush_sound {s : State} (ecc : List EccHit) (h : orig.Sound s) :
    Keeps orig (execCmdPush ecc s) := ifUp_sound _ (fun _ ht => State.cmdPush_sound _ ht) h

theorem State.tryPush_sound {s : State} (hk : orig.Sound s) :
    orig.Sound (s.tryPush) := by
  unfold State.tryPush
  repeat' first
    | intro _
    | with_reducible first
      | assumption | apply sound_ite | apply sendPush_sound | apply sound_foldl
    | simp only [sound_mk, parts_sound] | split | dsimp only

theorem State.launchPush_sound {s : State} (hk : orig.Sound s) :
    orig.Sound (s.launchPush) := by
  unfold State.launchPush
  repeat' first
    | intro _
    | with_reducible first
      | assumption | apply sound_ite | apply tryPush_sound | apply sound_foldl
    | simp only [sound_mk, parts_sound] | split | dsimp only

theorem State.endPush_sound {s : State} (cause : Nat) (hk : orig.Sound s) :
    orig.Sound (s.endPush cause) := by
  unfold State.endPush
  repeat' first
    | intro _
    | with_reducible first
      | assumption | apply sound_ite | apply put_sound | apply raise_sound
    | simp only [sound_mk, parts_sound]

theorem State.cmdAck_sound {s : State} (msg : List Byte) (hk : orig.Sound s) :
    orig.Sound (s.cmdAck msg) := by
  unfold State.cmdAck
  repeat' first
    | intro _
    | with_reducible first
      | assumption | apply sound_ite | apply backRx_sound | apply endPush_sound | apply when_sound | apply sound_foldl
    | simp only [sound_mk, parts_sound] | split | dsimp only

theorem execCmdAckRx_sound {s : State} (msg : List Byte) (h : orig.Sound s) :
    Keeps orig (execCmdAckRx msg s) := ifUp_sound _ (fun _ ht => State.cmdAck_sound _ ht) h

theorem execCmdAckTimeout_sound {s : State} (h : orig.Sound s) :
    Keeps orig (execCmdAckTimeout s) := by
  unfold execCmdAckTimeout
  repeat' first
    | intro _
    | with_reducible first
      | assumption | apply ifUp_sound | apply State.endPush_sound | apply State.when_sound
    | split

end Sys2Proof.Machine
end

