-- ==== Sys2Proof/Laws/Operands.lean ====
section
/-! SUPPORT. Every operation of Machine/Operands.lean keeps soundness. -/

namespace Sys2Proof.Machine

variable {orig : State}

/-- The state in which an instruction's effect ends keeps soundness. -/
def Effect.Sound (b : State) : Effect → Prop
  | .ok s | .jump s _ | .excIn s _ | .fence s | .done s | .wait s => b.Sound s
  | .exc _ => True

/-- The state in which a thread's instruction ends keeps soundness. -/
def ThreadEffect.Sound (b : State) : ThreadEffect → Prop
  | .ok s | .jump s _ | .stay s => b.Sound s
  | .fault _ => True

theorem State.lsWord_sound {s : State} (n : Fin 48) (a : Nat) (h : orig.Sound s) : orig.Sound (s.lsWord n a).2 := by
  unfold State.lsWord
  split
  · split <;> exact h
  · exact h

theorem State.lsWords_sound {s : State} (n : Fin 48) (l : List Nat) (h : orig.Sound s) : orig.Sound (s.lsWords n l).2 := by
  induction l generalizing s with
  | nil => exact h
  | cons a l ih => exact ih (lsWord_sound n a h)

theorem State.loads_sound {s : State} (n : Fin 48) (l : List (Nat × Nat)) (ecc : List EccHit) (f : State → State)
    (h : orig.Sound s) (hf : ∀ t, orig.Sound t → orig.Sound (f t)) : (s.loads n l ecc f).Sound orig := by
  have ht := eccReports_sound (ecc.filter fun h => l.any fun r => hitMeets h (localBase n + r.1) r.2) h
  unfold State.loads
  dsimp only
  split
  · exact hf _ ht
  · exact ht

theorem State.lsStore_sound {s : State} (n : Fin 48) (l : List (Nat × Word)) (hk : orig.Sound s) :
    orig.Sound (s.lsStore n l) := by
  unfold State.lsStore
  repeat' first
    | intro _
    | with_reducible first
      | assumption | apply storeWord_sound | apply sound_foldl

theorem State.zeroFill_sound {s : State} (b : Bundle) (valid : BitVec 16) (hk : orig.Sound s) :
    orig.Sound (s.zeroFill b valid) := by
  unfold State.zeroFill
  repeat' first
    | intro _
    | with_reducible first
      | assumption | apply sound_ite | apply setSlotEntry_sound | apply sound_foldl

theorem State.endBundle_sound {s : State} (n : Fin 48) (b : Bundle) (hk : orig.Sound s) :
    orig.Sound (s.endBundle n b) := by
  unfold State.endBundle
  repeat' first
    | intro _
    | with_reducible first
      | assumption | apply onPress_sound | apply zeroFill_sound
    | simp only [sound_mk, parts_sound]

theorem State.endJob_sound {s : State} (n : Fin 48) (j : PressJob) (cause : Nat) (hk : orig.Sound s) :
    orig.Sound (s.endJob n j cause) := by
  unfold State.endJob
  repeat' first
    | intro _
    | with_reducible first
      | assumption | apply sound_ite | apply onPress_sound | apply raiseIf_sound | apply storeWord_sound
    | simp only [sound_mk, parts_sound]

theorem State.fence_sound {s : State} (n : Fin 48) (cause : Nat) (hk : orig.Sound s) :
    orig.Sound (s.fence n cause) := by
  unfold State.fence
  repeat' first
    | intro _
    | with_reducible first
      | assumption | apply sound_ite | apply onPress_sound | apply put_sound | apply raise_sound | apply sound_foldl
    | simp only [sound_mk, parts_sound] | split | dsimp only

theorem State.kernelException_sound {s : State} (n : Fin 48) (c : Nat) (pc : Word) (hk : orig.Sound s) :
    orig.Sound (s.kernelException n c pc) := by
  unfold State.kernelException
  repeat' first
    | intro _
    | with_reducible first
      | assumption | apply sound_ite | apply count_sound | apply endBundle_sound | apply endJob_sound | apply fence_sound
      | apply put_sound | apply putB_sound | apply raise_sound | apply sound_foldl
    | simp only [sound_mk, parts_sound] | split | dsimp only

theorem State.issue_sound {s : State} (n : Fin 48) (c : Code) (legal : Bool) (f : Press → State → Effect) (h : orig.Sound s)
    (hf : (f s.press[n] s).Sound orig) : orig.Sound (s.issue n c legal f) := by
  have exc (t : State) (c : Nat) (w : Word) (ht : orig.Sound t) : orig.Sound (t.kernelException n c w) :=
    kernelException_sound _ _ _ ht
  unfold State.issue
  refine sound_ite h (sound_ite (sound_ite h (exc _ _ _ h)) (sound_ite (exc _ _ _ h) (sound_ite h (sound_ite (exc _ _ _ h) ?_))))
  generalize f s.press[n] s = e at hf
  cases e with
  | ok t | jump t x => exact sound_ite (exc _ _ _ hf) hf
  | exc c => exact exc _ _ _ h
  | excIn t c => exact exc _ _ _ hf
  | fence t => exact fence_sound _ _ hf
  | done t | wait t => exact hf

theorem onRegs_sound {s : State} (n : Fin 48) (f : Press → Press) (p : Press) (h : orig.Sound s) :
    (onRegs n f p s).Sound orig := h

theorem State.threadFault_sound {s : State} (t : Fin 16) (cause : Nat) (hk : orig.Sound s) :
    orig.Sound (s.threadFault t cause) := by
  unfold State.threadFault
  repeat' first
    | intro _
    | with_reducible first
      | assumption | apply onThread_sound | apply put_sound | apply raise_sound

theorem State.threadGoto_sound {s : State} (t : Fin 16) (target : Int) (hk : orig.Sound s) :
    orig.Sound (s.threadGoto t target) := by
  unfold State.threadGoto
  repeat' first
    | intro _
    | with_reducible first
      | assumption | apply sound_ite | apply onThread_sound | apply threadFault_sound | apply sound_foldl
    | simp only [sound_mk, parts_sound] | split | dsimp only

theorem State.threadIssue_sound {s : State} (t : Fin 16) (c : Code) (legal : Bool) (f : Thread → State → ThreadEffect)
    (h : orig.Sound s) (hf : ∀ p u, orig.Sound u → (f p u).Sound orig) : orig.Sound (s.threadIssue t c legal f) := by
  unfold State.threadIssue
  refine sound_ite h ?_
  have h' : orig.Sound { s with seq := { s.seq with turn := s.seq.turn.set (s.prioOfThread t) t } } := h
  generalize { s with seq := { s.seq with turn := s.seq.turn.set (s.prioOfThread t) t } } = v at h' ⊢
  refine sound_ite (threadFault_sound _ _ h') ?_
  have he := hf s.seq.thr[t] v h'
  revert he
  generalize f s.seq.thr[t] v = e
  intro he
  cases e with
  | ok u | jump u x => exact threadGoto_sound _ _ he
  | fault c => exact threadFault_sound _ _ h'
  | stay u => exact he

end Sys2Proof.Machine
end

