-- ==== Sys2Proof/Laws/PressBlock.lean ====
section
/-! SUPPORT. Every operation of Machine/PressBlock.lean keeps soundness. -/

namespace Sys2Proof.Machine

variable {orig : State}

theorem State.writeFence1_sound {s : State} (n : Fin 48) (hk : orig.Sound s) :
    orig.Sound (s.writeFence1 n) := by
  unfold State.writeFence1
  repeat' first
    | intro _
    | with_reducible first
      | assumption | apply sound_ite | apply fence_sound | apply when_sound | apply sound_foldl
    | simp only [sound_mk, parts_sound] | split | dsimp only

theorem State.pressError_sound {s : State} (n : Fin 48) (hk : orig.Sound s) :
    orig.Sound (s.pressError n) := by
  unfold State.pressError
  repeat' first
    | intro _
    | with_reducible first
      | assumption | apply sound_ite | apply fence_sound | apply when_sound | apply sound_foldl
    | simp only [sound_mk, parts_sound] | split | dsimp only

/-! ## Commands -/

theorem execPressFence_sound {s : State} (n : Fin 48) (error : Bool) (h : orig.Sound s) :
    Keeps orig (execPressFence n error s) := by
  unfold execPressFence
  repeat' first
    | intro _
    | with_reducible first
      | assumption | apply ifUp_sound | apply ifOn_sound | apply next_sound | apply sound_ite | apply State.pressError_sound
      | apply State.writeFence1_sound | apply sound_foldl
    | simp only [sound_mk, parts_sound] | split | simp only [Effect.Sound, onRegs, onPair] | simp only [ThreadEffect.Sound]
    | exact trivial | dsimp only

theorem execBundleTimeout_sound {s : State} (n : Fin 48) (h : orig.Sound s) :
    Keeps orig (execBundleTimeout n s) := by
  unfold execBundleTimeout
  repeat' first
    | intro _
    | with_reducible first
      | assumption | apply ifUp_sound | apply State.fence_sound | apply State.when_sound

theorem State.writeFence0_sound {s : State} (n : Fin 48) (hk : orig.Sound s) :
    orig.Sound (s.writeFence0 n) := by
  unfold State.writeFence0
  repeat' first
    | intro _
    | with_reducible first
      | assumption | apply sound_ite | apply onPress_sound | apply put_sound | apply when_sound

theorem execPressUnfence_sound {s : State} (n : Fin 48) (h : orig.Sound s) :
    Keeps orig (execPressUnfence n s) := ifUp_sound _ (fun _ ht => State.writeFence0_sound _ ht) h

theorem State.writeGate1_sound {s : State} (n : Fin 48) (hk : orig.Sound s) :
    orig.Sound (s.writeGate1 n) := by
  unfold State.writeGate1
  repeat' first
    | intro _
    | with_reducible first
      | assumption | apply put_sound

theorem execPressGate_sound {s : State} (n : Fin 48) (h : orig.Sound s) :
    Keeps orig (execPressGate n s) := ifUp_sound _ (fun _ ht => State.writeGate1_sound _ ht) h

theorem State.gateNow_sound {s : State} (n : Fin 48) (hk : orig.Sound s) :
    orig.Sound (s.gateNow n) := by
  unfold State.gateNow
  repeat' first
    | intro _
    | with_reducible first
      | assumption | apply onPress_sound | apply when_sound

theorem execPressGated_sound {s : State} (n : Fin 48) (h : orig.Sound s) :
    Keeps orig (execPressGated n s) := ifUp_sound _ (fun _ ht => State.gateNow_sound _ ht) h

theorem State.writeGate0_sound {s : State} (n : Fin 48) (hk : orig.Sound s) :
    orig.Sound (s.writeGate0 n) := by
  unfold State.writeGate0
  repeat' first
    | intro _
    | with_reducible first
      | assumption | apply sound_ite | apply onPress_sound | apply put_sound

theorem execPressUngate_sound {s : State} (n : Fin 48) (h : orig.Sound s) :
    Keeps orig (execPressUngate n s) := ifUp_sound _ (fun _ ht => State.writeGate0_sound _ ht) h

theorem State.losePressRegs_sound {s : State} (n : Fin 48) (hk : orig.Sound s) :
    orig.Sound (s.losePressRegs n) := by
  unfold State.losePressRegs
  repeat' first
    | intro _
    | with_reducible first
      | assumption | apply onPress_sound
    | simp only [sound_mk, parts_sound]

theorem State.pressAwake_sound {s : State} (n : Fin 48) (hk : orig.Sound s) :
    orig.Sound (s.pressAwake n) := by
  unfold State.pressAwake
  repeat' first
    | intro _
    | with_reducible first
      | assumption | apply lose_sound | apply losePressRegs_sound | apply onPress_sound | apply when_sound

theorem execPressWakeDone_sound {s : State} (n : Fin 48) (h : orig.Sound s) :
    Keeps orig (execPressWakeDone n s) := ifUp_sound _ (fun _ ht => State.pressAwake_sound _ ht) h

theorem execPressLutSwap_sound {s : State} (h : orig.Sound s) :
    Keeps orig (execPressLutSwap s) := ifUp_sound _ (fun _ ht => State.put_sound _ _ ht) h

theorem State.writeLutAddr_sound {s : State} (value : Word) (hk : orig.Sound s) :
    orig.Sound (s.writeLutAddr value) := by
  unfold State.writeLutAddr
  repeat' first
    | intro _
    | with_reducible first
      | assumption | apply put_sound | apply when_sound
    | simp only [sound_mk, parts_sound]

theorem execPressLutAddrWrite_sound {s : State} (value : Word) (h : orig.Sound s) :
    Keeps orig (execPressLutAddrWrite value s) := ifUp_sound _ (fun _ ht => State.writeLutAddr_sound _ ht) h

theorem State.nextLut_sound {s : State} (hk : orig.Sound s) :
    orig.Sound (s.nextLut) := by
  unfold State.nextLut
  repeat' first
    | intro _
    | with_reducible first
      | assumption | apply sound_ite | apply put_sound
    | simp only [sound_mk, parts_sound]

theorem State.setLut_sound {s : State} (bank : Bool) (i v : Nat) (hk : orig.Sound s) :
    orig.Sound (s.setLut bank i v) := by
  unfold State.setLut
  repeat' first
    | intro _
    | with_reducible first
      | assumption
    | simp only [sound_mk, parts_sound]

theorem State.writeLutData_sound {s : State} (value : Word) (hk : orig.Sound s) :
    orig.Sound (s.writeLutData value) := by
  unfold State.writeLutData
  repeat' first
    | intro _
    | with_reducible first
      | assumption | apply sound_ite | apply nextLut_sound | apply put_sound | apply setLut_sound

theorem execPressLutDataWrite_sound {s : State} (value : Word) (h : orig.Sound s) :
    Keeps orig (execPressLutDataWrite value s) := ifUp_sound _ (fun _ ht => State.writeLutData_sound _ ht) h

theorem State.readLutData_sound {s : State} (hk : orig.Sound s) :
    orig.Sound (s.readLutData) := by
  unfold State.readLutData
  repeat' first
    | intro _
    | with_reducible first
      | assumption | apply nextLut_sound
    | simp only [sound_mk, parts_sound]

theorem execPressLutDataRead_sound {s : State} (h : orig.Sound s) :
    Keeps orig (execPressLutDataRead s) := ifUp_sound _ (fun _ ht => State.readLutData_sound ht) h

theorem State.writeVselBase_sound {s : State} (value : Word) (hk : orig.Sound s) :
    orig.Sound (s.writeVselBase value) := by
  unfold State.writeVselBase
  repeat' first
    | intro _
    | with_reducible first
      | assumption | apply sound_ite | apply put_sound | apply raise_sound
    | simp only [sound_mk, parts_sound]

theorem execPressVselBaseWrite_sound {s : State} (value : Word) (h : orig.Sound s) :
    Keeps orig (execPressVselBaseWrite value s) := ifUp_sound _ (fun _ ht => State.writeVselBase_sound _ ht) h

theorem State.clearPressStat_sound {s : State} (hk : orig.Sound s) :
    orig.Sound (s.clearPressStat) := by
  unfold State.clearPressStat
  repeat' first
    | intro _
    | with_reducible first
      | assumption | apply setReg_sound

theorem execPressStatClr_sound {s : State} (h : orig.Sound s) :
    Keeps orig (execPressStatClr s) := ifUp_sound _ (fun _ ht => State.clearPressStat_sound ht) h

theorem State.pressInstall_sound {s : State} (hk : orig.Sound s) :
    orig.Sound (s.pressInstall) := by
  unfold State.pressInstall
  repeat' first
    | intro _
    | with_reducible first
      | assumption | apply sound_ite | apply put_sound | apply setReg_sound | apply when_sound
    | simp only [sound_mk, parts_sound]

theorem execPressInstall_sound {s : State} (h : orig.Sound s) :
    Keeps orig (execPressInstall s) := ifUp_sound _ (fun _ ht => State.pressInstall_sound ht) h

theorem State.codeReplaced_sound {s : State} (lo hi : Nat) (hk : orig.Sound s) : orig.Sound (s.codeReplaced lo hi) := by
  unfold State.codeReplaced
  exact sound_foldl (fun _ _ hu => State.when_sound _ _ (fun _ hv => State.losePressRegs_sound _ hv) hu) _ hk

theorem State.pressInstalled_sound {s : State} (hk : orig.Sound s) :
    orig.Sound (s.pressInstalled) := by
  unfold State.pressInstalled
  repeat' first
    | intro _
    | with_reducible first
      | assumption | apply codeReplaced_sound | apply put_sound | apply parts_mem | apply Mem.copy_wf | apply sound_mem_wf
    | simp only [sound_mk, parts_sound] | split

theorem execPressInstallDone_sound {s : State} (h : orig.Sound s) :
    Keeps orig (execPressInstallDone s) := ifUp_sound _ (fun _ ht => State.pressInstalled_sound ht) h

theorem State.seqInstall_sound {s : State} (hk : orig.Sound s) :
    orig.Sound (s.seqInstall) := by
  unfold State.seqInstall
  repeat' first
    | intro _
    | with_reducible first
      | assumption | apply sound_ite | apply put_sound | apply setReg_sound | apply when_sound
    | simp only [sound_mk, parts_sound]

theorem execSeqInstall_sound {s : State} (h : orig.Sound s) :
    Keeps orig (execSeqInstall s) := ifUp_sound _ (fun _ ht => State.seqInstall_sound ht) h

theorem State.seqInstalled_sound {s : State} (hk : orig.Sound s) :
    orig.Sound (s.seqInstalled) := by
  unfold State.seqInstalled
  repeat' first
    | intro _
    | with_reducible first
      | assumption | apply put_sound | apply parts_mem | apply Mem.copy_wf | apply sound_mem_wf
    | simp only [sound_mk, parts_sound] | split

theorem execSeqInstallDone_sound {s : State} (h : orig.Sound s) :
    Keeps orig (execSeqInstallDone s) := ifUp_sound _ (fun _ ht => State.seqInstalled_sound ht) h

theorem State.startJob_sound {s : State} (n : Fin 48) (hk : orig.Sound s) :
    orig.Sound (s.startJob n) := by
  unfold State.startJob
  repeat' first
    | intro _
    | with_reducible first
      | assumption | apply losePressRegs_sound | apply onPress_sound | apply when_sound
    | simp only [sound_mk, parts_sound] | split

theorem execPressJobStart_sound {s : State} (n : Fin 48) (h : orig.Sound s) :
    Keeps orig (execPressJobStart n s) := ifUp_sound _ (fun _ ht => State.startJob_sound _ ht) h

end Sys2Proof.Machine
end

