-- ==== Sys2Proof/Laws/Distributor.lean ====
section
/-! SUPPORT. Every operation of Machine/Distributor.lean keeps soundness. -/

namespace Sys2Proof.Machine

variable {orig : State}

theorem State.darkFill_sound {s : State} (hk : orig.Sound s) :
    orig.Sound (s.darkFill) := by
  unfold State.darkFill
  repeat' first
    | intro _
    | with_reducible first
      | assumption | apply sound_ite | apply zeroBand_sound | apply sound_foldl
    | simp only [sound_mk, parts_sound]

theorem State.angleLatch_sound {s : State} (number : Nat) (half : Bool) (h : FrameHeader) (hk : orig.Sound s) :
    orig.Sound (s.angleLatch number half h) := by
  unfold State.angleLatch
  repeat' first
    | intro _
    | with_reducible first
      | assumption | apply sound_ite | apply put_sound | apply putB_sound
    | simp only [sound_mk, parts_sound]

theorem execAngleCopyDone_sound {s : State} (h : orig.Sound s) :
    Keeps orig (execAngleCopyDone s) := by
  unfold execAngleCopyDone
  repeat' first
    | intro _
    | with_reducible first
      | assumption | apply ifUp_sound
    | simp only [sound_mk, parts_sound]

theorem State.takeBundle_sound {s : State} (n : Fin 48) (w : BandWork) (i : Nat) (v : SlotView) (a : AngleLatch)
    (hk : orig.Sound s) :
    orig.Sound (s.takeBundle n w i v a) := by
  unfold State.takeBundle
  repeat' first
    | intro _
    | with_reducible first
      | assumption | apply sound_ite | apply onPress_sound
    | simp only [sound_mk, parts_sound]

theorem State.issueBundle_sound {s : State} (n : Fin 48) (hk : orig.Sound s) :
    orig.Sound (s.issueBundle n) := by
  unfold State.issueBundle
  repeat' first
    | intro _
    | with_reducible first
      | assumption | apply sound_ite | apply angleLatch_sound | apply takeBundle_sound | apply when_sound
    | split

/-! ## Commands -/

theorem execBundleIssue_sound {s : State} (n : Fin 48) (h : orig.Sound s) :
    Keeps orig (execBundleIssue n s) := ifUp_sound _ (fun _ ht => State.issueBundle_sound _ ht) h

theorem State.countLate_sound {s : State} (number slot b late : Nat) (hk : orig.Sound s) :
    orig.Sound (s.countLate number slot b late) := by
  unfold State.countLate
  repeat' first
    | intro _
    | with_reducible first
      | assumption | apply sound_ite | apply count_sound | apply countBy_sound | apply put_sound | apply raise_sound
    | simp only [sound_mk, parts_sound]

theorem State.bandDrop_sound {s : State} (r : Nat) (b : Fin 64) (hk : orig.Sound s) :
    orig.Sound (s.bandDrop r b) := by
  unfold State.bandDrop
  repeat' first
    | intro _
    | with_reducible first
      | assumption | apply sound_ite | apply countLate_sound
    | simp only [sound_mk, parts_sound] | split

theorem State.dropFrom_sound {s : State} (r : Nat) (hk : orig.Sound s) :
    orig.Sound (s.dropFrom r) := by
  unfold State.dropFrom
  repeat' first
    | intro _
    | with_reducible first
      | assumption | apply sound_ite
    | simp only [sound_mk, parts_sound]

end Sys2Proof.Machine
end

