-- ==== Sys2Proof/Laws/Codec.lean ====
section
/-! SUPPORT. Every operation of Machine/Codec.lean keeps soundness. -/

namespace Sys2Proof.Machine

variable {orig : State}

theorem State.stripeFail_sound {s : State} (n : Fin 32) (cause view plane : Nat) (hk : orig.Sound s) :
    orig.Sound (s.stripeFail n cause view plane) := by
  unfold State.stripeFail
  repeat' first
    | intro _
    | with_reducible first
      | assumption | apply count_sound | apply put_sound | apply raise_sound

theorem State.headerReject_sound {s : State} (n : Fin 32) (cause : Nat) (hk : orig.Sound s) :
    orig.Sound (s.headerReject n cause) := by
  unfold State.headerReject
  repeat' first
    | intro _
    | with_reducible first
      | assumption | apply count_sound | apply put_sound | apply raise_sound

theorem State.staleStripe_sound {s : State} (hk : orig.Sound s) :
    orig.Sound (s.staleStripe) := by
  unfold State.staleStripe
  repeat' first
    | intro _
    | with_reducible first
      | assumption | apply count_sound

theorem State.setTaint_sound {s : State} (l : List (Nat × Nat × Nat)) (hk : orig.Sound s) :
    orig.Sound (s.setTaint l) := by
  unfold State.setTaint
  repeat' first
    | intro _
    | with_reducible first
      | assumption | apply put_sound
    | simp only [sound_mk, parts_sound]

theorem State.enqueueStripe_sound {s : State} (q : QStripe) (hk : orig.Sound s) :
    orig.Sound (s.enqueueStripe q) := by
  unfold State.enqueueStripe
  repeat' first
    | intro _
    | with_reducible first
      | assumption
    | simp only [sound_mk, parts_sound]

theorem State.record_sound {s : State} (l : List Byte) (hk : orig.Sound s) :
    orig.Sound (s.record l) := by
  unfold State.record
  repeat' first
    | intro _
    | with_reducible first
      | assumption | apply sound_ite | apply put_sound | apply requestWrite_sound | apply sound_foldl
    | simp only [sound_mk, parts_sound] | split | dsimp only

theorem State.stripeArrives_sound {s : State} (l : List Byte) (hk : orig.Sound s) :
    orig.Sound (s.stripeArrives l) := by
  unfold State.stripeArrives
  repeat' first
    | intro _
    | with_reducible first
      | assumption | apply sound_ite | apply count_sound | apply enqueueStripe_sound | apply record_sound
      | apply staleStripe_sound | apply sound_foldl
    | simp only [sound_mk, parts_sound] | split | dsimp only

/-! ## Commands -/

theorem execStripeArrival_sound {s : State} (bytes : List Byte) (h : orig.Sound s) :
    Keeps orig (execStripeArrival bytes s) := ifUp_sound _ (fun _ ht => State.stripeArrives_sound _ ht) h

theorem State.replaceWaiting_sound {s : State} (n : Fin 32) (hk : orig.Sound s) :
    orig.Sound (s.replaceWaiting n) := by
  unfold State.replaceWaiting
  repeat' first
    | intro _
    | with_reducible first
      | assumption | apply sound_ite | apply headerReject_sound | apply sound_foldl
    | simp only [sound_mk, parts_sound] | split | dsimp only

theorem State.takeHeader_sound {s : State} (n : Fin 32) (q : QStripe) (hk : orig.Sound s) :
    orig.Sound (s.takeHeader n q) := by
  unfold State.takeHeader
  repeat' first
    | intro _
    | with_reducible first
      | assumption | apply sound_ite | apply headerReject_sound | apply replaceWaiting_sound | apply stripeFail_sound
    | simp only [sound_mk, parts_sound]

theorem State.putComp_sound {s : State} (h : FrameHeader) (half : Bool) (v pl i j x : Nat) (hk : orig.Sound s) :
    orig.Sound (s.putComp h half v pl i j x) := by
  unfold State.putComp
  repeat' first
    | intro _
    | with_reducible first
      | assumption | apply parts_mem | apply Mem.writeNat_wf | apply sound_mem_wf
    | simp only [sound_mk, parts_sound] | split

theorem State.onHalf_sound {s : State} (b : Bool) (g : HalfFrame → HalfFrame) (hk : orig.Sound s) :
    orig.Sound (s.onHalf b g) := by
  unfold State.onHalf
  repeat' first
    | intro _
    | with_reducible first
      | assumption | apply setHalf_sound

theorem State.writeIndex_sound {s : State} (b : Bool) (h : FrameHeader) (v : Nat) (mask : List Bool) (hk : orig.Sound s) :
    orig.Sound (s.writeIndex b h v mask) := by
  unfold State.writeIndex
  refine sound_foldl_fst (r := (s, h.poolFirst v)) (fun r i hr => ?_) _ hk
  dsimp only
  split <;> exact sound_mem (Mem.writeNat_wf _ _ _ hr.mem) hr

theorem State.startDecode_sound {s : State} (hk : orig.Sound s) :
    orig.Sound (s.startDecode) := by
  unfold State.startDecode
  repeat' first
    | intro _
    | with_reducible first
      | assumption | apply sound_ite | apply setHalf_sound | apply writeIndex_sound | apply sound_foldl
    | simp only [sound_mk, parts_sound] | split | dsimp only

theorem execFrameDecodeStart_sound {s : State} (h : orig.Sound s) :
    Keeps orig (execFrameDecodeStart s) := ifUp_sound _ (fun _ ht => State.startDecode_sound ht) h

theorem State.checkComplete_sound {s : State} (b : Bool) (hk : orig.Sound s) :
    orig.Sound (s.checkComplete b) := by
  unfold State.checkComplete
  repeat' first
    | intro _
    | with_reducible first
      | assumption | apply sound_ite | apply onHalf_sound | apply put_sound | apply putB_sound | apply selectContent_sound
      | apply setReg_sound
    | simp only [sound_mk, parts_sound] | split

theorem State.taintRows_sound {s : State} (b : Bool) (keys : List (Nat × Nat × Nat)) (hk : orig.Sound s) :
    orig.Sound (s.taintRows b keys) := by
  unfold State.taintRows
  repeat' first
    | intro _
    | with_reducible first
      | assumption | apply onHalf_sound | apply setTaint_sound
    | simp only [sound_mk, parts_sound]

theorem State.cleanRows_sound {s : State} (b : Bool) (keys : List (Nat × Nat × Nat)) (hk : orig.Sound s) :
    orig.Sound (s.cleanRows b keys) := by
  unfold State.cleanRows
  repeat' first
    | intro _
    | with_reducible first
      | assumption | apply setTaint_sound
    | simp only [sound_mk, parts_sound]

theorem State.regionDone_sound {s : State} (b : Bool) (r : StripeRegion) (hk : orig.Sound s) :
    orig.Sound (s.regionDone b r) := by
  unfold State.regionDone
  repeat' first
    | intro _
    | with_reducible first
      | assumption | apply checkComplete_sound | apply onHalf_sound

theorem State.fillRegion_sound {s : State} (b : Bool) (f : HalfFrame) (r : StripeRegion) (hk : orig.Sound s) :
    orig.Sound (s.fillRegion b f r) := by
  unfold State.fillRegion
  repeat' first
    | intro _
    | with_reducible first
      | assumption | apply sound_ite | apply putComp_sound | apply sound_foldl
    | simp only [sound_mk, parts_sound]

theorem State.substitute_sound {s : State} (n : Fin 32) (b : Bool) (f : HalfFrame) (h : StripeHead) (cause : Nat) (hk : orig.Sound s) :
    orig.Sound (s.substitute n b f h cause) := by
  unfold State.substitute
  repeat' first
    | intro _
    | with_reducible first
      | assumption | apply sound_ite | apply fillRegion_sound | apply onHalf_sound | apply regionDone_sound
      | apply stripeFail_sound | apply taintRows_sound | apply sound_foldl
    | simp only [sound_mk, parts_sound] | split | dsimp only

theorem State.useMask_sound {s : State} (b : Bool) (f : HalfFrame) (v : Nat) (mask : List Bool) (hk : orig.Sound s) :
    orig.Sound (s.useMask b f v mask) := by
  unfold State.useMask
  repeat' first
    | intro _
    | with_reducible first
      | assumption | apply fillRegion_sound | apply onHalf_sound | apply writeIndex_sound | apply sound_foldl
    | simp only [sound_mk, parts_sound]

theorem State.decodeMask_sound {s : State} (n : Fin 32) (b : Bool) (f : HalfFrame) (h : StripeHead) (l : List Byte) (hk : orig.Sound s) :
    orig.Sound (s.decodeMask n b f h l) := by
  unfold State.decodeMask
  repeat' first
    | intro _
    | with_reducible first
      | assumption | apply sound_ite | apply cleanRows_sound | apply fillRegion_sound | apply onHalf_sound
      | apply regionDone_sound | apply stripeFail_sound | apply taintRows_sound | apply useMask_sound | apply sound_foldl
    | simp only [sound_mk, parts_sound] | split | dsimp only

theorem State.writeSamples_sound {s : State} (b : Bool) (f : HalfFrame) (h : StripeHead) (out : List (List (Array Nat)))
    (hk : orig.Sound s) :
    orig.Sound (s.writeSamples b f h out) := by
  unfold State.writeSamples
  repeat' first
    | intro _
    | with_reducible first
      | assumption | apply putComp_sound | apply sound_foldl
    | simp only [sound_mk, parts_sound]

theorem State.freeLane_sound {s : State} (n : Fin 32) (hk : orig.Sound s) :
    orig.Sound (s.freeLane n) := by
  unfold State.freeLane
  repeat' first
    | intro _
    | with_reducible first
      | assumption | apply sound_ite | apply onLane_sound | apply sound_foldl
    | simp only [sound_mk, parts_sound] | split | dsimp only

theorem State.hold_sound {s : State} (n : Fin 32) (q : QStripe) (earlier : List StripeRegion) (hk : orig.Sound s) :
    orig.Sound (s.hold n q earlier) := by
  unfold State.hold
  repeat' first
    | intro _
    | with_reducible first
      | assumption | apply sound_ite | apply onLane_sound | apply sound_foldl
    | simp only [sound_mk, parts_sound] | split | dsimp only

theorem State.untake_sound {s : State} (b : Bool) (r : StripeRegion) (hk : orig.Sound s) :
    orig.Sound (s.untake b r) := by
  unfold State.untake
  repeat' first
    | intro _
    | with_reducible first
      | assumption | apply sound_ite | apply onHalf_sound | apply sound_foldl
    | simp only [sound_mk, parts_sound] | split | dsimp only

theorem State.countSamples_sound {s : State} (n : Fin 32) (k : Nat) (hk : orig.Sound s) :
    orig.Sound (s.countSamples n k) := by
  unfold State.countSamples
  repeat' first
    | intro _
    | with_reducible first
      | assumption | apply sound_ite | apply countOps_sound | apply sound_foldl
    | simp only [sound_mk, parts_sound] | split | dsimp only

theorem State.decodeStripe_sound {s : State} (n : Fin 32) (b : Bool) (f : HalfFrame) (q : QStripe) (earlier : List StripeRegion) (hk : orig.Sound s) :
    orig.Sound (s.decodeStripe n b f q earlier) := by
  unfold State.decodeStripe
  repeat' first
    | intro _
    | with_reducible first
      | assumption | apply sound_ite | apply cleanRows_sound | apply countSamples_sound | apply decodeMask_sound
      | apply freeLane_sound | apply hold_sound | apply regionDone_sound | apply staleStripe_sound | apply stripeFail_sound
      | apply substitute_sound | apply untake_sound | apply waits_sound | apply writeSamples_sound | apply sound_foldl
    | simp only [sound_mk, parts_sound] | split | dsimp only

theorem State.takePlane_sound {s : State} (n : Fin 32) (q : QStripe) (stall : Bool) (hk : orig.Sound s) :
    orig.Sound (s.takePlane n q stall) := by
  unfold State.takePlane
  repeat' first
    | intro _
    | with_reducible first
      | assumption | apply sound_ite | apply decodeStripe_sound | apply hold_sound | apply onHalf_sound
      | apply staleStripe_sound | apply stripeFail_sound | apply sound_foldl
    | simp only [sound_mk, parts_sound] | split | dsimp only

theorem State.stripeDecode_sound {s : State} (n : Fin 32) (stall : Bool) (hk : orig.Sound s) :
    orig.Sound (s.stripeDecode n stall) := by
  unfold State.stripeDecode
  repeat' first
    | intro _
    | with_reducible first
      | assumption | apply sound_ite | apply stripeFail_sound | apply takeHeader_sound | apply takePlane_sound
      | apply sound_foldl
    | simp only [sound_mk, parts_sound] | split | dsimp only

theorem execStripeDecode_sound {s : State} (n : Fin 32) (stall : Bool) (h : orig.Sound s) :
    Keeps orig (execStripeDecode n stall s) := by
  unfold execStripeDecode
  repeat' first
    | intro _
    | with_reducible first
      | assumption | apply ifUp_sound | apply State.stripeDecode_sound | apply State.when_sound

theorem State.resumeDecode_sound {s : State} (n : Fin 32) (hk : orig.Sound s) :
    orig.Sound (s.resumeDecode n) := by
  unfold State.resumeDecode
  repeat' first
    | intro _
    | with_reducible first
      | assumption | apply sound_ite | apply decodeStripe_sound | apply freeLane_sound | apply sound_foldl
    | simp only [sound_mk, parts_sound] | split | dsimp only

theorem execDecoderResume_sound {s : State} (n : Fin 32) (h : orig.Sound s) :
    Keeps orig (execDecoderResume n s) := ifUp_sound _ (fun _ ht => State.resumeDecode_sound _ ht) h

theorem State.applyMode_sound {s : State} (n : Fin 32) (hk : orig.Sound s) :
    orig.Sound (s.applyMode n) := by
  unfold State.applyMode
  repeat' first
    | intro _
    | with_reducible first
      | assumption | apply sound_ite | apply onLane_sound | apply when_sound | apply sound_foldl
    | simp only [sound_mk, parts_sound] | split | dsimp only

theorem execLaneModeApply_sound {s : State} (n : Fin 32) (h : orig.Sound s) :
    Keeps orig (execLaneModeApply n s) := ifUp_sound _ (fun _ ht => State.applyMode_sound _ ht) h

theorem State.abandon_sound {s : State} (b : Bool) (hk : orig.Sound s) :
    orig.Sound (s.abandon b) := by
  unfold State.abandon
  repeat' first
    | intro _
    | with_reducible first
      | assumption | apply sound_ite | apply setHalf_sound
    | simp only [sound_mk, parts_sound] | split

theorem State.srcSelect_sound {s : State} (sel : Bool) (hk : orig.Sound s) :
    orig.Sound (s.srcSelect sel) := by
  unfold State.srcSelect
  repeat' first
    | intro _
    | with_reducible first
      | assumption | apply sound_ite | apply abandon_sound | apply putB_sound | apply sound_foldl
    | simp only [sound_mk, parts_sound] | split | dsimp only

theorem execCodecSrcSelect_sound {s : State} (sel : Bool) (h : orig.Sound s) :
    Keeps orig (execCodecSrcSelect sel s) := ifUp_sound _ (fun _ ht => State.srcSelect_sound _ ht) h

theorem State.stripeClr_sound {s : State} (hk : orig.Sound s) :
    orig.Sound (s.stripeClr) := by
  unfold State.stripeClr
  repeat' first
    | intro _
    | with_reducible first
      | assumption | apply setReg_sound

theorem execCodecStripeClr_sound {s : State} (h : orig.Sound s) :
    Keeps orig (execCodecStripeClr s) := ifUp_sound _ (fun _ ht => State.stripeClr_sound ht) h

theorem State.rejectClr_sound {s : State} (hk : orig.Sound s) :
    orig.Sound (s.rejectClr) := by
  unfold State.rejectClr
  repeat' first
    | intro _
    | with_reducible first
      | assumption | apply setReg_sound

theorem execTdvRejectClr_sound {s : State} (h : orig.Sound s) :
    Keeps orig (execTdvRejectClr s) := ifUp_sound _ (fun _ ht => State.rejectClr_sound ht) h

theorem State.recEnable_sound {s : State} (hk : orig.Sound s) :
    orig.Sound (s.recEnable) := by
  unfold State.recEnable
  repeat' first
    | intro _
    | with_reducible first
      | assumption | apply put_sound

theorem execRecEnable_sound {s : State} (h : orig.Sound s) :
    Keeps orig (execRecEnable s) := ifUp_sound _ (fun _ ht => State.recEnable_sound ht) h

end Sys2Proof.Machine
end

