-- ==== Sys2Proof/Laws/CodecJobs.lean ====
section
/-! SUPPORT. Every operation of Machine/CodecJobs.lean keeps soundness. -/

namespace Sys2Proof.Machine

variable {orig : State}

theorem State.onJob_sound {s : State} (n : Fin 32) (f : CodecJob → CodecJob) (hk : orig.Sound s) :
    orig.Sound (s.onJob n f) := by
  unfold State.onJob
  repeat' first
    | intro _
    | with_reducible first
      | assumption | apply onLane_sound

theorem State.latchJob_sound {s : State} (n : Fin 32) (hk : orig.Sound s) :
    orig.Sound (s.latchJob n) := by
  unfold State.latchJob
  repeat' first
    | intro _
    | with_reducible first
      | assumption | apply sound_ite | apply onJob_sound | apply sound_foldl
    | simp only [sound_mk, parts_sound] | split | dsimp only

theorem State.jobFails_sound {s : State} (n : Fin 32) (cause : Nat) (hk : orig.Sound s) :
    orig.Sound (s.jobFails n cause) := by
  unfold State.jobFails
  repeat' first
    | intro _
    | with_reducible first
      | assumption | apply onJob_sound

theorem State.jobLimit_sound {s : State} (n : Fin 32) (d : JobDesc) (hk : orig.Sound s) :
    orig.Sound (s.jobLimit n d) := by
  unfold State.jobLimit
  repeat' first
    | intro _
    | with_reducible first
      | assumption | apply sound_ite | apply jobFails_sound | apply onJob_sound | apply raise_sound

theorem State.putStripe_sound {s : State} (n : Fin 32) (d : JobDesc) (out : Nat) (l : List Byte) (ecc : List EccHit) (hk : orig.Sound s) :
    orig.Sound (s.putStripe n d out l ecc) := by
  unfold State.putStripe
  repeat' first
    | intro _
    | with_reducible first
      | assumption | apply sound_ite | apply jobLimit_sound | apply onJob_sound | apply writeAny_sound | apply sound_foldl
    | simp only [sound_mk, parts_sound] | split | dsimp only

theorem State.noteCover_sound {s : State} (h : FrameHeader) (set : Nat) (sh : StripeHead) (imgs : List (Nat × Nat × Nat × List Nat)) (hk : orig.Sound s) :
    orig.Sound (s.noteCover h set sh imgs) := by
  unfold State.noteCover
  repeat' first
    | intro _
    | with_reducible first
      | assumption | apply sound_ite | apply sound_foldl
    | simp only [sound_mk, parts_sound] | split | dsimp only

theorem State.writeRecon_sound {s : State} (h : FrameHeader) (set : Nat) (sh : StripeHead) (imgs : List (Nat × Nat × Nat × List Nat)) (out : List (List (Array Nat))) (hk : orig.Sound s) :
    orig.Sound (s.writeRecon h set sh imgs out) := by
  unfold State.writeRecon
  repeat' first
    | intro _
    | with_reducible first
      | assumption | apply sound_ite | apply noteCover_sound | apply writeAny_sound | apply sound_foldl
    | simp only [sound_mk, parts_sound] | split | dsimp only

theorem State.encodeStripe_sound {s : State} (n : Fin 32) (d : JobDesc) (first lines out : Nat) (flushed : Bool) (ecc : List EccHit) (hk : orig.Sound s) :
    orig.Sound (s.encodeStripe n d first lines out flushed ecc) := by
  unfold State.encodeStripe
  repeat' first
    | intro _
    | with_reducible first
      | assumption | apply sound_ite | apply countSamples_sound | apply putStripe_sound | apply readAny_sound
      | apply readRanges_sound | apply writeRecon_sound | apply sound_foldl
    | simp only [sound_mk, parts_sound] | split | dsimp only

theorem State.encodeStep_sound {s : State} (n : Fin 32) (j : CodecJob) (cut : Option Nat) (ecc : List EccHit) (hk : orig.Sound s) :
    orig.Sound (s.encodeStep n j cut ecc) := by
  unfold State.encodeStep
  repeat' first
    | intro _
    | with_reducible first
      | assumption | apply sound_ite | apply encodeStripe_sound | apply jobFails_sound | apply latchJob_sound
      | apply onJob_sound | apply sound_foldl
    | simp only [sound_mk, parts_sound] | split | dsimp only

theorem State.encodePlane_sound {s : State} (n : Fin 32) (blocked : Bool) (ecc : List EccHit) (hk : orig.Sound s) :
    orig.Sound (s.encodePlane n blocked ecc) := by
  unfold State.encodePlane
  repeat' first
    | intro _
    | with_reducible first
      | assumption | apply sound_ite | apply encodeStep_sound | apply latchJob_sound | apply onJob_sound | apply sound_foldl
    | simp only [sound_mk, parts_sound] | split | dsimp only

theorem execEncodePlane_sound {s : State} (n : Fin 32) (blocked : Bool) (ecc : List EccHit) (h : orig.Sound s) :
    Keeps orig (execEncodePlane n blocked ecc s) := ifUp_sound _ (fun _ ht => State.encodePlane_sound _ _ _ ht) h

theorem State.resumeEncoder_sound {s : State} (n : Fin 32) (ecc : List EccHit) (hk : orig.Sound s) :
    orig.Sound (s.resumeEncoder n ecc) := by
  unfold State.resumeEncoder
  repeat' first
    | intro _
    | with_reducible first
      | assumption | apply sound_ite | apply encodePlane_sound | apply onJob_sound | apply sound_foldl
    | simp only [sound_mk, parts_sound] | split | dsimp only

theorem execEncoderResume_sound {s : State} (n : Fin 32) (ecc : List EccHit) (h : orig.Sound s) :
    Keeps orig (execEncoderResume n ecc s) := ifUp_sound _ (fun _ ht => State.resumeEncoder_sound _ _ ht) h

theorem State.flush_sound {s : State} (n : Fin 32) (hk : orig.Sound s) :
    orig.Sound (s.flush n) := by
  unfold State.flush
  repeat' first
    | intro _
    | with_reducible first
      | assumption | apply sound_ite | apply onLane_sound | apply put_sound | apply when_sound | apply sound_foldl
    | simp only [sound_mk, parts_sound] | split | dsimp only

/-! ## Commands -/

theorem execFlush_sound {s : State} (n : Fin 32) (h : orig.Sound s) :
    Keeps orig (execFlush n s) := ifUp_sound _ (fun _ ht => State.flush_sound _ ht) h

theorem State.flushApply_sound {s : State} (n : Fin 32) (lines : Nat) (ecc : List EccHit) (hk : orig.Sound s) :
    orig.Sound (s.flushApply n lines ecc) := by
  unfold State.flushApply
  repeat' first
    | intro _
    | with_reducible first
      | assumption | apply sound_ite | apply encodeStep_sound | apply onLane_sound | apply put_sound | apply when_sound
      | apply sound_foldl
    | simp only [sound_mk, parts_sound] | split | dsimp only

theorem execFlushApply_sound {s : State} (n : Fin 32) (lines : Nat) (ecc : List EccHit) (h : orig.Sound s) :
    Keeps orig (execFlushApply n lines ecc s) := ifUp_sound _ (fun _ ht => State.flushApply_sound _ _ _ ht) h

theorem State.encodeHeader_sound {s : State} (n : Fin 32) (ecc : List EccHit) (hk : orig.Sound s) :
    orig.Sound (s.encodeHeader n ecc) := by
  unfold State.encodeHeader
  repeat' first
    | intro _
    | with_reducible first
      | assumption | apply sound_ite | apply countSamples_sound | apply jobFails_sound | apply latchJob_sound
      | apply onJob_sound | apply putStripe_sound | apply readAny_sound | apply sound_foldl
    | simp only [sound_mk, parts_sound] | split | dsimp only

theorem execEncodeHeader_sound {s : State} (n : Fin 32) (ecc : List EccHit) (h : orig.Sound s) :
    Keeps orig (execEncodeHeader n ecc s) := ifUp_sound _ (fun _ ht => State.encodeHeader_sound _ _ ht) h

theorem State.playClip_sound {s : State} (n : Fin 32) (ecc : List EccHit) (hk : orig.Sound s) :
    orig.Sound (s.playClip n ecc) := by
  unfold State.playClip
  repeat' first
    | intro _
    | with_reducible first
      | assumption | apply sound_ite | apply dramRead_sound | apply enqueueStripe_sound | apply jobFails_sound
      | apply latchJob_sound | apply onJob_sound | apply sound_foldl
    | simp only [sound_mk, parts_sound] | split | dsimp only

theorem execPlayClip_sound {s : State} (n : Fin 32) (ecc : List EccHit) (h : orig.Sound s) :
    Keeps orig (execPlayClip n ecc s) := ifUp_sound _ (fun _ ht => State.playClip_sound _ _ ht) h

theorem State.codecJobDone_sound {s : State} (n : Fin 32) (hk : orig.Sound s) :
    orig.Sound (s.codecJobDone n) := by
  unfold State.codecJobDone
  repeat' first
    | intro _
    | with_reducible first
      | assumption | apply onLane_sound | apply raiseIf_sound | apply storeWord_sound | apply when_sound
    | simp only [sound_mk, parts_sound] | split

theorem execCodecJobDone_sound {s : State} (n : Fin 32) (h : orig.Sound s) :
    Keeps orig (execCodecJobDone n s) := ifUp_sound _ (fun _ ht => State.codecJobDone_sound _ ht) h

end Sys2Proof.Machine
end

