-- ==== Sys2Proof/Laws/Racking.lean ====
section
/-! SUPPORT. Every operation of Machine/Racking.lean keeps soundness. -/

namespace Sys2Proof.Machine

variable {orig : State}

/-- The states in which a Racking operation ends, in whole or after some rows, keep soundness. -/
def RackAct.Sound (b : State) : RackAct → Prop
  | .done t | .abandon t => b.Sound t
  | .reject _ | .wait => True

theorem rackAct_ite {c : Prop} [Decidable c] {x y : RackAct} (hx : x.Sound orig) (hy : y.Sound orig) :
    (if c then x else y).Sound orig := by split <;> assumption

theorem State.onRing_sound {s : State} (r : Fin 4) (f : RackRing → RackRing) (hk : orig.Sound s) :
    orig.Sound (s.onRing r f) := by
  unfold State.onRing
  repeat' first
    | intro _
    | with_reducible first
      | assumption | apply putB_sound
    | simp only [sound_mk, parts_sound]

theorem State.rackCommit_sound {s : State} (r : Fin 4) (value : Word) (hk : orig.Sound s) :
    orig.Sound (s.rackCommit r value) := by
  unfold State.rackCommit
  repeat' first
    | intro _
    | with_reducible first
      | assumption | apply sound_ite | apply put_sound
    | simp only [sound_mk, parts_sound]

/-! ## Commands -/

theorem execRackCommit_sound {s : State} (r : Fin 4) (value : Word) (h : orig.Sound s) :
    Keeps orig (execRackCommit r value s) := ifUp_sound _ (fun _ ht => State.rackCommit_sound _ _ ht) h

theorem State.rackLatch_sound {s : State} (r : Fin 4) (ecc : List EccHit) (hk : orig.Sound s) :
    orig.Sound (s.rackLatch r ecc) := by
  unfold State.rackLatch
  repeat' first
    | intro _
    | with_reducible first
      | assumption | apply sound_ite | apply dramRead_sound | apply onRing_sound | apply put_sound | apply when_sound
      | apply sound_foldl
    | simp only [sound_mk, parts_sound] | split | dsimp only

theorem execRackDescLatch_sound {s : State} (r : Fin 4) (ecc : List EccHit) (h : orig.Sound s) :
    Keeps orig (execRackDescLatch r ecc s) := ifUp_sound _ (fun _ ht => State.rackLatch_sound _ _ ht) h

theorem State.rackRetire_sound {s : State} (r : Fin 4) (hk : orig.Sound s) :
    orig.Sound (s.rackRetire r) := by
  unfold State.rackRetire
  repeat' first
    | intro _
    | with_reducible first
      | assumption | apply onRing_sound | apply put_sound | apply raise_sound | apply wrapCount_sound
    | simp only [sound_mk, parts_sound] | split

theorem execRackRetire_sound {s : State} (r : Fin 4) (h : orig.Sound s) :
    Keeps orig (execRackRetire r s) := ifUp_sound _ (fun _ ht => State.rackRetire_sound _ ht) h

theorem State.rackPop_sound {s : State} (r : Fin 4) (hk : orig.Sound s) :
    orig.Sound (s.rackPop r) := by
  unfold State.rackPop
  repeat' first
    | intro _
    | with_reducible first
      | assumption | apply onRing_sound | apply raiseIf_sound
    | simp only [sound_mk, parts_sound]

theorem State.rackDisable_sound {s : State} (r : Fin 4) (hk : orig.Sound s) :
    orig.Sound (s.rackDisable r) := by
  unfold State.rackDisable
  repeat' first
    | intro _
    | with_reducible first
      | assumption | apply onRing_sound | apply put_sound
    | simp only [sound_mk, parts_sound] | split

theorem execRackRingDisable_sound {s : State} (r : Fin 4) (h : orig.Sound s) :
    Keeps orig (execRackRingDisable r s) := ifUp_sound _ (fun _ ht => State.rackDisable_sound _ ht) h

theorem execRackResume_sound {s : State} (r : Fin 4) (h : orig.Sound s) :
    Keeps orig (execRackResume r s) := ifUp_sound _ (fun _ ht => State.put_sound _ _ ht) h

theorem execRackErrClr_sound {s : State} (h : orig.Sound s) :
    Keeps orig (execRackErrClr s) := by
  unfold execRackErrClr
  repeat' first
    | intro _
    | with_reducible first
      | assumption | apply ifUp_sound | apply State.put_sound

theorem State.rackReject_sound {s : State} (r : Fin 4) (i cause : Nat) (hk : orig.Sound s) :
    orig.Sound (s.rackReject r i cause) := by
  unfold State.rackReject
  repeat' first
    | intro _
    | with_reducible first
      | assumption | apply sound_ite | apply count_sound | apply onRing_sound | apply put_sound | apply rackPop_sound
      | apply raise_sound
    | simp only [sound_mk, parts_sound]

theorem State.writeRun_sound {s : State} (x : Surface) (j i : Nat) (px : List Nat) (ecc : List EccHit) (hk : orig.Sound s) :
    orig.Sound (s.writeRun x j i px ecc) := by
  unfold State.writeRun
  repeat' first
    | intro _
    | with_reducible first
      | assumption | apply sound_ite | apply countOps_sound | apply writeAny_sound | apply sound_foldl
    | simp only [sound_mk, parts_sound] | split | dsimp only

theorem State.writeRows_sound {s : State} (x : Surface) (rows : List (List Nat)) (ecc : List EccHit) (hk : orig.Sound s) :
    orig.Sound (s.writeRows x rows ecc) := by
  unfold State.writeRows
  repeat' first
    | intro _
    | with_reducible first
      | assumption | apply sound_ite | apply writeRun_sound | apply sound_foldl
    | simp only [sound_mk, parts_sound] | split | dsimp only

theorem State.writeFirst_sound {s : State} (x : Surface) (c : Scan) (rows : List (List Nat)) (n : Nat) (ecc : List EccHit) (hk : orig.Sound s) :
    orig.Sound (s.writeFirst x c rows n ecc) := by
  unfold State.writeFirst
  repeat' first
    | intro _
    | with_reducible first
      | assumption | apply sound_ite | apply writeRun_sound | apply sound_foldl
    | simp only [sound_mk, parts_sound] | split | dsimp only

theorem State.pixelwise_sound {s : State} (dst : Surface) (src : Option Surface) (readsDst : Bool) (ecc : List EccHit) (f : Nat → Nat → Nat) (hk : orig.Sound s) :
    (State.pixelwise s dst src readsDst ecc f).Sound orig := by
  unfold State.pixelwise
  repeat' first
    | intro _
    | with_reducible first
      | assumption | apply sound_ite | apply abandon_sound | apply draw_sound | apply readRanges_sound
      | apply writeFirst_sound | apply writeRows_sound | apply sound_foldl
    | simp only [sound_mk, parts_sound] | split | simp only [RackAct.Sound] | exact trivial | refine ⟨?_, ?_⟩ | dsimp only

theorem State.blend_sound {s : State} (op : RackOp) (d : List Word) (ecc : List EccHit) (hk : orig.Sound s) :
    (State.blend s op d ecc).Sound orig := by
  unfold State.blend
  repeat' first
    | intro _
    | with_reducible first
      | assumption | apply sound_ite | apply pixelwise_sound | apply sound_foldl
    | simp only [sound_mk, parts_sound] | split | simp only [RackAct.Sound] | exact trivial | refine ⟨?_, ?_⟩ | dsimp only

theorem State.oldCommand_sound {s : State} (op : RackOp) (d : List Word) (ecc : List EccHit) (hk : orig.Sound s) :
    (State.oldCommand s op d ecc).Sound orig := by
  unfold State.oldCommand
  repeat' first
    | intro _
    | with_reducible first
      | assumption | apply sound_ite | apply pixelwise_sound | apply sound_foldl
    | simp only [sound_mk, parts_sound] | split | simp only [RackAct.Sound] | exact trivial | refine ⟨?_, ?_⟩ | dsimp only

theorem State.stampTdv_sound {s : State} (h : FrameHeader) (base q v i j : Nat) (c : Rgba) (ecc : List EccHit) (hk : orig.Sound s) :
    orig.Sound (s.stampTdv h base q v i j c ecc) := by
  unfold State.stampTdv
  repeat' first
    | intro _
    | with_reducible first
      | assumption | apply sound_ite | apply countOps_sound | apply readAny_sound | apply writeAny_sound | apply sound_foldl
    | simp only [sound_mk, parts_sound] | split | dsimp only

theorem State.stampSet_sound {s : State} (h : FrameHeader) (base q v i j : Nat) (c : Rgba) (ecc : List EccHit) (hk : orig.Sound s) :
    orig.Sound (s.stampSet h base q v i j c ecc) := by
  unfold State.stampSet
  repeat' first
    | intro _
    | with_reducible first
      | assumption | apply sound_ite | apply countOps_sound | apply readAny_sound | apply writeAny_sound | apply sound_foldl
    | simp only [sound_mk, parts_sound] | split | dsimp only

theorem State.stampView_sound {s : State} (h : FrameHeader) (d : List Word) (f sf : RackFmt) (src : List (List Nat)) (ecc : List EccHit) (v : Nat) (hk : orig.Sound s) :
    orig.Sound (s.stampView h d f sf src ecc v) := by
  unfold State.stampView
  repeat' first
    | intro _
    | with_reducible first
      | assumption | apply sound_ite | apply draw_sound | apply stampSet_sound | apply stampTdv_sound | apply sound_foldl
    | simp only [sound_mk, parts_sound] | split | dsimp only

theorem rackAct_reject (c : Nat) : (RackAct.reject c).Sound orig := trivial

theorem State.stamp_sound {s : State} (d : List Word) (ecc : List EccHit) (hk : orig.Sound s) :
    (s.stamp d ecc).Sound orig := by
  have go : ∀ (h : FrameHeader) f sf src e,
      orig.Sound ((List.range h.k).foldl (fun u v => u.stampView h d f sf src e v) s) :=
    fun h f sf src e => sound_foldl (fun t x ht => stampView_sound _ _ _ _ _ _ _ ht) _ hk
  unfold State.stamp
  split
  · with_reducible refine rackAct_ite (rackAct_reject _) ?_
    generalize s.stampHeader d = x
    obtain ⟨h, k⟩ := x
    dsimp only
    iterate 6 with_reducible refine rackAct_ite (rackAct_reject _) ?_
    refine rackAct_ite (show RackAct.wait.Sound orig from trivial) ?_
    split
    · exact readRanges_sound _ _ (go _ _ _ _ _)
    · exact readRanges_sound _ _ (show State.Sound orig _ from go _ _ _ _ _)
  · exact trivial

theorem State.rackAct_sound {s : State} (op : RackOp) (d : List Word) (ecc : List EccHit) (hk : orig.Sound s) :
    (State.rackAct s op d ecc).Sound orig := by
  unfold State.rackAct
  repeat' first
    | intro _
    | with_reducible first
      | assumption | apply sound_ite | apply blend_sound | apply oldCommand_sound | apply stamp_sound | apply sound_foldl
    | simp only [sound_mk, parts_sound] | split | simp only [RackAct.Sound] | exact trivial | refine ⟨?_, ?_⟩ | dsimp only

theorem State.rackRun_sound {s : State} (op : RackOp) (r : Fin 4) (ecc : List EccHit) (h : orig.Sound s) :
    orig.Sound (s.rackRun op r ecc) := by
  unfold State.rackRun
  split
  · rename_i r' i d l hr hq
    refine sound_ite h ?_
    dsimp only
    have h' : orig.Sound { s with rack := { s.rack with turn := r.val } } := h
    split
    · exact rackReject_sound _ _ _ h'
    · refine sound_ite h ?_
      have ha := rackAct_sound op d ecc h'
      revert ha
      generalize State.rackAct { s with rack := { s.rack with turn := r.val } } op d ecc = a
      intro ha
      cases a with
      | reject c => exact rackReject_sound _ _ _ h'
      | wait => exact h
      | abandon t => exact rackReject_sound _ _ _ ha
      | done t => exact rackPop_sound _ (sound_ite (onRing_sound _ _ ha) ha)
  · exact h

theorem execBlendConst_sound {s : State} (r : Fin 4) (ecc : List EccHit) (h : orig.Sound s) :
    Keeps orig (execBlendConst r ecc s) := ifUp_sound _ (fun _ ht => State.rackRun_sound _ _ _ ht) h

theorem execBlendPixel_sound {s : State} (r : Fin 4) (ecc : List EccHit) (h : orig.Sound s) :
    Keeps orig (execBlendPixel r ecc s) := ifUp_sound _ (fun _ ht => State.rackRun_sound _ _ _ ht) h

theorem execBlendPremul_sound {s : State} (r : Fin 4) (ecc : List EccHit) (h : orig.Sound s) :
    Keeps orig (execBlendPremul r ecc s) := ifUp_sound _ (fun _ ht => State.rackRun_sound _ _ _ ht) h

theorem execViewstamp_sound {s : State} (r : Fin 4) (ecc : List EccHit) (h : orig.Sound s) :
    Keeps orig (execViewstamp r ecc s) := ifUp_sound _ (fun _ ht => State.rackRun_sound _ _ _ ht) h

theorem execFill_sound {s : State} (r : Fin 4) (ecc : List EccHit) (h : orig.Sound s) :
    Keeps orig (execFill r ecc s) := ifUp_sound _ (fun _ ht => State.rackRun_sound _ _ _ ht) h

theorem execCopy_sound {s : State} (r : Fin 4) (ecc : List EccHit) (h : orig.Sound s) :
    Keeps orig (execCopy r ecc s) := ifUp_sound _ (fun _ ht => State.rackRun_sound _ _ _ ht) h

theorem execConvert_sound {s : State} (r : Fin 4) (ecc : List EccHit) (h : orig.Sound s) :
    Keeps orig (execConvert r ecc s) := ifUp_sound _ (fun _ ht => State.rackRun_sound _ _ _ ht) h

end Sys2Proof.Machine
end

