-- ==== Sys2Proof/Laws/Kick.lean ====
section
/-! SUPPORT. Every operation of Machine/Kick.lean keeps soundness. -/

namespace Sys2Proof.Machine

variable {orig : State}

theorem State.startWork_sound {s : State} (cls : Nat) (arg : Word) (ticket : BitVec 16) (hk : orig.Sound s) :
    orig.Sound (s.startWork cls arg ticket) := by
  unfold State.startWork
  repeat' first
    | intro _
    | with_reducible first
      | assumption | apply sound_ite | apply onLane_sound | apply rackCommit_sound | apply raise_sound
    | simp only [sound_mk, parts_sound] | split

theorem State.kick_sound {s : State} (cls : Nat) (arg : Word) (rel : Nat)
    (h : orig.Sound s) : orig.Sound (s.kick cls arg rel).2 := by
  unfold State.kick
  dsimp only
  split
  · exact raise_sound _ h
  · exact sound_ite (startWork_sound _ _ _ h) h

theorem State.releaseLine_sound {s : State} (line : Nat) (hk : orig.Sound s) :
    orig.Sound (s.releaseLine line) := by
  unfold State.releaseLine
  repeat' first
    | intro _
    | with_reducible first
      | assumption | apply startWork_sound | apply sound_foldl
    | simp only [sound_mk, parts_sound]

theorem State.kickInstr_sound {s : State} (cls : Nat) (t : Fin 16) (o : Opnd) (hk : orig.Sound s) :
    orig.Sound (s.kickInstr cls t o) := by
  unfold State.kickInstr
  repeat' first
    | intro _
    | with_reducible first
      | assumption | apply sound_ite | apply kick_sound | apply onThread_sound | apply threadIssue_sound | apply sound_foldl
    | simp only [sound_mk, parts_sound] | split | simp only [Effect.Sound, ThreadEffect.Sound, onRegs, onPair] | exact trivial
    | dsimp only

/-! ## Commands -/

theorem execKickPressJob_sound {s : State} (t : Fin 16) (o : Opnd) (h : orig.Sound s) :
    Keeps orig (execKickPressJob t o s) := ifUp_sound _ (fun _ ht => State.kickInstr_sound _ _ _ ht) h

theorem execKickCodecJob_sound {s : State} (t : Fin 16) (o : Opnd) (h : orig.Sound s) :
    Keeps orig (execKickCodecJob t o s) := ifUp_sound _ (fun _ ht => State.kickInstr_sound _ _ _ ht) h

theorem execKickRackList_sound {s : State} (t : Fin 16) (o : Opnd) (h : orig.Sound s) :
    Keeps orig (execKickRackList t o s) := ifUp_sound _ (fun _ ht => State.kickInstr_sound _ _ _ ht) h

end Sys2Proof.Machine
end

