-- ==== Sys2Proof/Laws/Frame.lean ====
section
/-! SUPPORT. Every operation of Machine/Frame.lean keeps soundness. -/

namespace Sys2Proof.Machine

variable {orig : State}

theorem State.countLateCommit_sound {s : State} (hk : orig.Sound s) :
    orig.Sound (s.countLateCommit) := by
  unfold State.countLateCommit
  repeat' first
    | intro _
    | with_reducible first
      | assumption | apply count_sound | apply put_sound | apply raise_sound

theorem State.commitFrame_sound {s : State} (hk : orig.Sound s) :
    orig.Sound (s.commitFrame) := by
  unfold State.commitFrame
  repeat' first
    | intro _
    | with_reducible first
      | assumption | apply sound_ite | apply countLateCommit_sound | apply hold_sound | apply put_sound | apply putB_sound
      | apply raise_sound
    | simp only [sound_mk, parts_sound]

theorem execFrameCommit_sound {s : State} (h : orig.Sound s) :
    Keeps orig (execFrameCommit s) := ifUp_sound _ (fun _ ht => State.commitFrame_sound ht) h

theorem execClrCount_sound {s : State} (h : orig.Sound s) :
    Keeps orig (execClrCount s) := ifUp_sound _ (fun _ ht => State.setReg_sound _ _ ht) h

theorem State.applySet_sound {s : State} (set : List (Nat × Word)) (hk : orig.Sound s) :
    orig.Sound (s.applySet set) := by
  unfold State.applySet
  repeat' first
    | intro _
    | with_reducible first
      | assumption | apply sound_ite | apply put_sound | apply setAct_sound | apply sound_foldl
    | simp only [sound_mk, parts_sound] | split | dsimp only

theorem State.cfgIfChanged_sound {s old : State}  (hk : orig.Sound s) (hk : orig.Sound old) :
    orig.Sound (s.cfgIfChanged old) := by
  unfold State.cfgIfChanged
  repeat' first
    | intro _
    | with_reducible first
      | assumption | apply sound_ite | apply sendCfg_sound | apply sound_foldl
    | simp only [sound_mk, parts_sound] | split | dsimp only

theorem State.launchCommit_sound {s : State} (hk : orig.Sound s) :
    orig.Sound (s.launchCommit) := by
  unfold State.launchCommit
  repeat' first
    | intro _
    | with_reducible first
      | assumption | apply sound_ite | apply applySet_sound | apply putB_sound | apply sound_foldl
    | simp only [sound_mk, parts_sound] | split | dsimp only

theorem State.dropFrames_sound {s : State} (hk : orig.Sound s) :
    orig.Sound (s.dropFrames) := by
  unfold State.dropFrames
  repeat' first
    | intro _
    | with_reducible first
      | assumption | apply count_sound | apply dropLines_sound
    | simp only [sound_mk, parts_sound]

theorem State.enterHold_sound {s : State} (t0 : Word) (hk : orig.Sound s) :
    orig.Sound (s.enterHold t0) := by
  unfold State.enterHold
  repeat' first
    | intro _
    | with_reducible first
      | assumption | apply sound_ite | apply dropFrames_sound | apply hold_sound | apply put_sound
      | apply tryWaveInHold_sound
    | simp only [sound_mk, parts_sound]

theorem State.setHold_sound {s : State} (hk : orig.Sound s) :
    orig.Sound (s.setHold) := by
  unfold State.setHold
  repeat' first
    | intro _
    | with_reducible first
      | assumption | apply sound_ite | apply dropFrames_sound | apply enterHold_sound | apply hold_sound | apply put_sound
      | apply when_sound
    | simp only [sound_mk, parts_sound]

theorem execHoldSet_sound {s : State} (h : orig.Sound s) :
    Keeps orig (execHoldSet s) := ifUp_sound _ (fun _ ht => State.setHold_sound ht) h

theorem State.applyHold_sound {s : State} (hk : orig.Sound s) :
    orig.Sound (s.applyHold) := by
  unfold State.applyHold
  repeat' first
    | intro _
    | with_reducible first
      | assumption | apply enterHold_sound | apply when_sound
    | split

theorem execHoldApply_sound {s : State} (h : orig.Sound s) :
    Keeps orig (execHoldApply s) := ifUp_sound _ (fun _ ht => State.applyHold_sound ht) h

theorem State.clearHold_sound {s : State} (hk : orig.Sound s) :
    orig.Sound (s.clearHold) := by
  unfold State.clearHold
  repeat' first
    | intro _
    | with_reducible first
      | assumption | apply sound_ite | apply countLateCommit_sound | apply hold_sound | apply put_sound
      | apply selectContent_sound | apply when_sound
    | simp only [sound_mk, parts_sound]

theorem execHoldClear_sound {s : State} (h : orig.Sound s) :
    Keeps orig (execHoldClear s) := ifUp_sound _ (fun _ ht => State.clearHold_sound ht) h

theorem State.holdSlot0_sound {s : State} (b : Fin 64) (hk : orig.Sound s) :
    orig.Sound (s.holdSlot0 b) := by
  unfold State.holdSlot0
  repeat' first
    | intro _
    | with_reducible first
      | assumption | apply holdTransition_sound | apply when_sound
    | simp only [sound_mk, parts_sound]

theorem execHoldSlot0Transition_sound {s : State} (b : Fin 64) (h : orig.Sound s) :
    Keeps orig (execHoldSlot0Transition b s) := ifUp_sound _ (fun _ ht => State.holdSlot0_sound _ ht) h

theorem State.fired_sound {s : State} (c : Nat) (hk : orig.Sound s) :
    orig.Sound (s.fired c) := by
  unfold State.fired
  repeat' first
    | intro _
    | with_reducible first
      | assumption | apply put_sound

theorem State.setTarget_sound {s : State} (c : Nat) (t : Word) (hk : orig.Sound s) : orig.Sound (s.setTarget c t) :=
  setAct_sound _ _ (setReg_sound _ _ hk)

theorem State.armed_sound {s : State} (c : Nat) (t : Word) (hk : orig.Sound s) :
    orig.Sound (s.armed c t) := by
  unfold State.armed
  repeat' first
    | intro _
    | with_reducible first
      | assumption | apply setTarget_sound | apply put_sound

theorem State.cutoffLine_sound {s : State} (hk : orig.Sound s) :
    orig.Sound (s.cutoffLine) := by
  unfold State.cutoffLine
  repeat' first
    | intro _
    | with_reducible first
      | assumption | apply sound_ite | apply cutoff_sound | apply darkFill_sound

theorem State.bandLatch_sound {s : State} (f : FrameRun) (k : Nat) (t : Word) (hk : orig.Sound s) :
    orig.Sound (s.bandLatch f k t) := by
  unfold State.bandLatch
  repeat' first
    | intro _
    | with_reducible first
      | assumption | apply bandDrop_sound | apply darkFill_sound | apply gateLatch_sound | apply latchLanes_sound
    | simp only [sound_mk, parts_sound]

theorem State.trainLine_sound {s : State} (hk : orig.Sound s) :
    orig.Sound (s.trainLine) := by
  unfold State.trainLine
  repeat' first
    | intro _
    | with_reducible first
      | assumption | apply sound_ite | apply armed_sound | apply bandLatch_sound
    | simp only [sound_mk, parts_sound] | split

theorem State.holdLaunch_sound {s : State} (t : Word) (hk : orig.Sound s) :
    orig.Sound (s.holdLaunch t) := by
  unfold State.holdLaunch
  repeat' first
    | intro _
    | with_reducible first
      | assumption | apply blinkStep_sound | apply launchPush_sound | apply selectBand_sound
    | simp only [sound_mk, parts_sound]

theorem State.startFrame_sound {s : State} (t : Word) (hk : orig.Sound s) :
    orig.Sound (s.startFrame t) := by
  unfold State.startFrame
  repeat' first
    | intro _
    | with_reducible first
      | assumption | apply sound_ite | apply armed_sound | apply blinkStep_sound | apply cfgIfChanged_sound
      | apply count_sound | apply countRepeat_sound | apply cutoff_sound | apply darkFill_sound | apply dropFrom_sound
      | apply hold_sound | apply launchCommit_sound | apply launchPush_sound | apply reblank_sound | apply selectBand_sound
      | apply selectContent_sound | apply tryWave_sound | apply sound_foldl
    | simp only [sound_mk, parts_sound] | split | dsimp only

theorem State.launchLine_sound {s : State} (t : Word) (hk : orig.Sound s) :
    orig.Sound (s.launchLine t) := by
  unfold State.launchLine
  repeat' first
    | intro _
    | with_reducible first
      | assumption | apply sound_ite | apply applyHold_sound | apply fired_sound | apply hold_sound | apply holdLaunch_sound
      | apply put_sound | apply raise_sound | apply restartIdle_sound | apply startFrame_sound | apply sound_foldl
    | simp only [sound_mk, parts_sound] | split | dsimp only

theorem State.driveLine_sound {s : State} (c : Nat) (t : Word) (hk : orig.Sound s) :
    orig.Sound (s.driveLine c t) := by
  unfold State.driveLine
  repeat' first
    | intro _
    | with_reducible first
      | assumption | apply sound_ite | apply cutoffLine_sound | apply launchLine_sound | apply releaseLine_sound
      | apply trainLine_sound
    | simp only [sound_mk, parts_sound]

theorem State.fire_sound {s : State} (c : Nat) (hk : orig.Sound s) :
    orig.Sound (s.fire c) := by
  unfold State.fire
  repeat' first
    | intro _
    | with_reducible first
      | assumption | apply driveLine_sound | apply fired_sound | apply when_sound

/-! ## Commands -/

theorem execComparatorFire_sound {s : State} (c : Fin 64) (h : orig.Sound s) :
    Keeps orig (execComparatorFire c s) := ifUp_sound _ (fun _ ht => State.fire_sound _ ht) h

theorem State.disarmComp_sound {s : State} (c : Nat) (hk : orig.Sound s) :
    orig.Sound (s.disarmComp c) := by
  unfold State.disarmComp
  repeat' first
    | intro _
    | with_reducible first
      | assumption | apply sound_ite | apply fire_sound | apply put_sound
    | simp only [sound_mk, parts_sound]

theorem State.countIfLate_sound {s : State} (t : Word) (x : Option Landing) (hk : orig.Sound s) :
    orig.Sound (s.countIfLate t x) := by
  unfold State.countIfLate
  cases x with
  | none => exact hk
  | some x => exact when_sound _ _ (fun _ h => countLateCommit_sound h) hk

theorem State.judgeLandings_sound {s : State} (t : Word) (hk : orig.Sound s) : orig.Sound (s.judgeLandings t) := by
  unfold State.judgeLandings
  simpa only [sound_mk, parts_sound] using countIfLate_sound t _ (countIfLate_sound t _ hk)

theorem State.loadEngine_sound {s : State} (t : Word) (transition : Bool) (hk : orig.Sound s) :
    orig.Sound (s.loadEngine t transition) := by
  unfold State.loadEngine
  repeat' first
    | intro _
    | with_reducible first
      | assumption | apply sound_ite | apply cutoffLine_sound | apply put_sound | apply putB_sound
      | apply selectContent_sound | apply judgeLandings_sound | apply setTarget_sound
    | simp only [sound_mk, parts_sound]

theorem State.armComp_sound {s : State} (c : Nat) (t : Word) (hk : orig.Sound s) :
    orig.Sound (s.armComp c t) := by
  unfold State.armComp
  repeat' first
    | intro _
    | with_reducible first
      | assumption | apply sound_ite | apply armed_sound | apply disarmComp_sound | apply fire_sound | apply setTarget_sound
      | apply loadEngine_sound | apply put_sound | apply raise_sound
    | simp only [sound_mk, parts_sound]

theorem State.applyGeom_sound {s : State} (hk : orig.Sound s) :
    orig.Sound (s.applyGeom) := by
  unfold State.applyGeom
  repeat' first
    | intro _
    | with_reducible first
      | assumption | apply sound_ite | apply activate_sound | apply put_sound | apply raise_sound | apply sendCfg_sound
    | simp only [sound_mk, parts_sound]

theorem execGeomApply_sound {s : State} (h : orig.Sound s) :
    Keeps orig (execGeomApply s) := ifUp_sound _ (fun _ ht => State.applyGeom_sound ht) h

theorem State.writeSatBase_sound {s : State} (value : Word) (hk : orig.Sound s) :
    orig.Sound (s.writeSatBase value) := by
  unfold State.writeSatBase
  repeat' first
    | intro _
    | with_reducible first
      | assumption | apply sound_ite | apply put_sound
    | simp only [sound_mk, parts_sound]

theorem execTrlSatBaseWrite_sound {s : State} (value : Word) (h : orig.Sound s) :
    Keeps orig (execTrlSatBaseWrite value s) := ifUp_sound _ (fun _ ht => State.writeSatBase_sound _ ht) h

theorem State.tokenArrives_sound {s : State} (time fseq : Word) (transition : Bool) (hk : orig.Sound s) :
    orig.Sound (s.tokenArrives time fseq transition) := by
  unfold State.tokenArrives
  repeat' first
    | intro _
    | with_reducible first
      | assumption | apply sound_ite | apply armComp_sound | apply count_sound | apply put_sound | apply putB_sound
      | apply raise_sound | apply setReg_sound
    | simp only [sound_mk, parts_sound]

theorem execLaunchTokenRx_sound {s : State} (time : Word) (fseq : Word) (transition : Bool) (h : orig.Sound s) :
    Keeps orig (execLaunchTokenRx time fseq transition s) := ifUp_sound _ (fun _ ht => State.tokenArrives_sound _ _ _ ht) h

theorem State.sendToken_sound {s : State} (hk : orig.Sound s) :
    orig.Sound (s.sendToken) := by
  unfold State.sendToken
  repeat' first
    | intro _
    | with_reducible first
      | assumption | apply sound_ite | apply put_sound | apply tokenArrives_sound | apply txPacket_sound
    | simp only [sound_mk, parts_sound]

theorem execLtokSend_sound {s : State} (h : orig.Sound s) :
    Keeps orig (execLtokSend s) := ifUp_sound _ (fun _ ht => State.sendToken_sound ht) h

theorem State.setPair64_sound {s : State} (lo hi : Nat) (w : BitVec 64) (hk : orig.Sound s) :
    orig.Sound (s.setPair64 lo hi w) := by
  unfold State.setPair64
  repeat' first
    | intro _
    | with_reducible first
      | assumption | apply setReg_sound

theorem State.judgeAll_sound {s : State} (hk : orig.Sound s) :
    orig.Sound (s.judgeAll) := by
  unfold State.judgeAll
  repeat' first
    | intro _
    | with_reducible first
      | assumption | apply putB_sound | apply raiseIf_sound
    | simp only [sound_mk, parts_sound]

theorem State.reportArrives_sound {s : State} (x y : Byte) (fseq : Word) (hk : orig.Sound s) :
    orig.Sound (s.reportArrives x y fseq) := by
  unfold State.reportArrives
  repeat' first
    | intro _
    | with_reducible first
      | assumption | apply sound_ite | apply count_sound | apply judgeAll_sound | apply raise_sound | apply setPair64_sound
      | apply setReg_sound
    | simp only [sound_mk, parts_sound]

theorem execReadinessReportRx_sound {s : State} (x : Byte) (y : Byte) (fseq : Word) (_tb : Word) (h : orig.Sound s) :
    Keeps orig (execReadinessReportRx x y fseq _tb s) := ifUp_sound _ (fun _ ht => State.reportArrives_sound _ _ _ ht) h

theorem State.advanceReady_sound {s : State} (hk : orig.Sound s) :
    orig.Sound (s.advanceReady) := by
  unfold State.advanceReady
  repeat' first
    | intro _
    | with_reducible first
      | assumption | apply sound_ite | apply judgeAll_sound | apply put_sound | apply setPair64_sound | apply setReg_sound
    | simp only [sound_mk, parts_sound]

theorem execRdyAdvance_sound {s : State} (h : orig.Sound s) :
    Keeps orig (execRdyAdvance s) := ifUp_sound _ (fun _ ht => State.advanceReady_sound ht) h

theorem State.sendReport_sound {s : State} (fseq : Word) (route : Bool) (hk : orig.Sound s) :
    orig.Sound (s.sendReport fseq route) := by
  unfold State.sendReport
  repeat' first
    | intro _
    | with_reducible first
      | assumption | apply enqueue_sound | apply raise_sound | apply reportArrives_sound | apply routeDrop_sound
    | simp only [sound_mk, parts_sound] | split

theorem State.reportReady_sound {s : State} (hk : orig.Sound s) :
    orig.Sound (s.reportReady) := by
  unfold State.reportReady
  repeat' first
    | intro _
    | with_reducible first
      | assumption | apply sound_ite | apply sendReport_sound
    | simp only [sound_mk, parts_sound] | split

theorem execReadinessReportSend_sound {s : State} (h : orig.Sound s) :
    Keeps orig (execReadinessReportSend s) := ifUp_sound _ (fun _ ht => State.reportReady_sound ht) h

end Sys2Proof.Machine
end

