-- ==== Sys2Proof/Laws/TimeBase.lean ====
section
/-! SUPPORT. Every operation of Machine/TimeBase.lean keeps soundness. -/

namespace Sys2Proof.Machine

variable {orig : State}

theorem State.tick_sound {s : State} (hk : orig.Sound s) :
    orig.Sound (s.tick) := by
  unfold State.tick
  repeat' first
    | intro _
    | with_reducible first
      | assumption | apply sound_ite
    | simp only [sound_mk, parts_sound]

theorem State.setRate_sound {s : State} (r : Int) (hk : orig.Sound s) :
    orig.Sound (s.setRate r) := by
  unfold State.setRate
  repeat' first
    | intro _
    | with_reducible first
      | assumption | apply putB_sound | apply putS_sound | apply raiseIf_sound
    | simp only [sound_mk, parts_sound]

theorem State.setInteg_sound {s : State} (i : Int) (hk : orig.Sound s) :
    orig.Sound (s.setInteg i) := by
  unfold State.setInteg
  repeat' first
    | intro _
    | with_reducible first
      | assumption
    | simp only [sound_mk, parts_sound]

theorem State.enterTb_sound {s : State} (st : Nat) (hk : orig.Sound s) :
    orig.Sound (s.enterTb st) := by
  unfold State.enterTb
  repeat' first
    | intro _
    | with_reducible first
      | assumption | apply put_sound | apply setRate_sound

theorem State.onOut_sound {s : State} (k : Fin 4) (f : TbOut → TbOut) (hk : orig.Sound s) :
    orig.Sound (s.onOut k f) := by
  unfold State.onOut
  repeat' first
    | intro _
    | with_reducible first
      | assumption
    | simp only [sound_mk, parts_sound]

theorem State.placeOut_sound {s : State} (k : Fin 4) (hk : orig.Sound s) :
    orig.Sound (s.placeOut k) := by
  unfold State.placeOut
  repeat' first
    | intro _
    | with_reducible first
      | assumption | apply sound_ite | apply armed_sound | apply onOut_sound | apply sound_foldl
    | simp only [sound_mk, parts_sound] | split | dsimp only

theorem State.outEnable_sound {s : State} (k : Fin 4) (hk : orig.Sound s) :
    orig.Sound (s.outEnable k) := by
  unfold State.outEnable
  repeat' first
    | intro _
    | with_reducible first
      | assumption | apply sound_ite | apply onOut_sound | apply placeOut_sound | apply put_sound | apply raiseIf_sound
      | apply sound_foldl
    | simp only [sound_mk, parts_sound] | split | dsimp only

theorem State.outDisable_sound {s : State} (k : Fin 4) (hk : orig.Sound s) :
    orig.Sound (s.outDisable k) := by
  unfold State.outDisable
  repeat' first
    | intro _
    | with_reducible first
      | assumption | apply armed_sound | apply onOut_sound | apply put_sound

theorem State.fireReached_sound {s : State} (hk : orig.Sound s) :
    orig.Sound (s.fireReached) := by
  unfold State.fireReached
  repeat' first
    | intro _
    | with_reducible first
      | assumption | apply sound_ite | apply fire_sound | apply sound_foldl
    | simp only [sound_mk, parts_sound] | split | dsimp only

theorem State.stepTime_sound {s : State} (e : Int) (hk : orig.Sound s) :
    orig.Sound (s.stepTime e) := by
  unfold State.stepTime
  repeat' first
    | intro _
    | with_reducible first
      | assumption | apply sound_ite | apply enterTb_sound | apply fireReached_sound | apply placeOut_sound | apply put_sound
      | apply putS_sound | apply raise_sound | apply sound_foldl
    | simp only [sound_mk, parts_sound] | split | dsimp only

theorem State.measure_sound {s : State} (e : Int) (hk : orig.Sound s) :
    orig.Sound (s.measure e) := by
  unfold State.measure
  repeat' first
    | intro _
    | with_reducible first
      | assumption | apply sound_ite | apply count_sound | apply enterTb_sound | apply put_sound | apply raise_sound
      | apply raiseIf_sound | apply setInteg_sound | apply setRate_sound | apply stepTime_sound | apply sound_foldl
    | simp only [sound_mk, parts_sound] | split | dsimp only

theorem State.retimePort_sound {s : State} (before : Option (Fin 4)) (hk : orig.Sound s) :
    orig.Sound (s.retimePort before) := by
  unfold State.retimePort
  repeat' first
    | intro _
    | with_reducible first
      | assumption | apply sound_ite | apply put_sound | apply raise_sound | apply sound_foldl
    | simp only [sound_mk, parts_sound] | split | dsimp only

theorem State.glRestart_sound {s : State} (hk : orig.Sound s) :
    orig.Sound (s.glRestart) := by
  unfold State.glRestart
  repeat' first
    | intro _
    | with_reducible first
      | assumption | apply sound_ite | apply sound_foldl
    | simp only [sound_mk, parts_sound] | split | dsimp only

theorem State.writeTbCtl_sound {s : State} (v : Word) (hk : orig.Sound s) :
    orig.Sound (s.writeTbCtl v) := by
  unfold State.writeTbCtl
  repeat' first
    | intro _
    | with_reducible first
      | assumption | apply sound_ite | apply enterTb_sound | apply glRestart_sound | apply put_sound | apply sound_foldl
    | simp only [sound_mk, parts_sound] | split | dsimp only

theorem State.swErr_sound {s : State} (value : Word) (hk : orig.Sound s) :
    orig.Sound (s.swErr value) := by
  unfold State.swErr
  repeat' first
    | intro _
    | with_reducible first
      | assumption | apply measure_sound | apply when_sound

/-! ## Commands -/

theorem execTbSwErrWrite_sound {s : State} (value : Word) (h : orig.Sound s) :
    Keeps orig (execTbSwErrWrite value s) := ifUp_sound _ (fun _ ht => State.swErr_sound _ ht) h

theorem State.loseSource_sound {s : State} (hk : orig.Sound s) :
    orig.Sound (s.loseSource) := by
  unfold State.loseSource
  repeat' first
    | intro _
    | with_reducible first
      | assumption | apply sound_ite | apply enterTb_sound | apply raise_sound
    | simp only [sound_mk, parts_sound]

theorem execTbSourceLoss_sound {s : State} (h : orig.Sound s) :
    Keeps orig (execTbSourceLoss s) := by
  unfold execTbSourceLoss
  repeat' first
    | intro _
    | with_reducible first
      | assumption | apply ifUp_sound | apply State.loseSource_sound | apply State.when_sound

theorem execTbForce_sound {s : State} (h : orig.Sound s) :
    Keeps orig (execTbForce s) := ifUp_sound _ (fun _ ht => State.put_sound _ _ ht) h

theorem execTbSrcWrite_sound {s : State} (value : Word) (h : orig.Sound s) :
    Keeps orig (execTbSrcWrite value s) := ifUp_sound _ (fun _ ht => State.writeTbCtl_sound _ ht) h

theorem State.writeRate_sound {s : State} (value : Word) (hk : orig.Sound s) :
    orig.Sound (s.writeRate value) := by
  unfold State.writeRate
  repeat' first
    | intro _
    | with_reducible first
      | assumption | apply setInteg_sound | apply setRate_sound | apply when_sound
    | simp only [sound_mk, parts_sound]

theorem execTbRateWrite_sound {s : State} (value : Word) (h : orig.Sound s) :
    Keeps orig (execTbRateWrite value s) := ifUp_sound _ (fun _ ht => State.writeRate_sound _ ht) h

theorem State.writeRateLimit_sound {s : State} (value : Word) (hk : orig.Sound s) :
    orig.Sound (s.writeRateLimit value) := by
  unfold State.writeRateLimit
  repeat' first
    | intro _
    | with_reducible first
      | assumption | apply put_sound | apply setInteg_sound | apply setRate_sound
    | simp only [sound_mk, parts_sound]

theorem execTbRateLimitWrite_sound {s : State} (value : Word) (h : orig.Sound s) :
    Keeps orig (execTbRateLimitWrite value s) := ifUp_sound _ (fun _ ht => State.writeRateLimit_sound _ ht) h

theorem State.readNow_sound {s : State} (hk : orig.Sound s) :
    orig.Sound (s.readNow) := by
  unfold State.readNow
  repeat' first
    | intro _
    | with_reducible first
      | assumption | apply put_sound
    | simp only [sound_mk, parts_sound]

theorem execTbNowRead_sound {s : State} (h : orig.Sound s) :
    Keeps orig (execTbNowRead s) := ifUp_sound _ (fun _ ht => State.readNow_sound ht) h

theorem State.capture_sound {s : State} (k : Fin 4) (c : BitVec 48) (hk : orig.Sound s) :
    orig.Sound (s.capture k c) := by
  unfold State.capture
  repeat' first
    | intro _
    | with_reducible first
      | assumption | apply sound_ite | apply put_sound | apply raise_sound | apply wrapCount_sound
    | simp only [sound_mk, parts_sound]

theorem State.captureIn_sound {s : State} (k : Fin 4) (c : BitVec 48) (hk : orig.Sound s) :
    orig.Sound (s.captureIn k c) := by
  unfold State.captureIn
  repeat' first
    | intro _
    | with_reducible first
      | assumption | apply sound_ite | apply capture_sound | apply measure_sound | apply sound_foldl
    | simp only [sound_mk, parts_sound] | split | dsimp only

theorem execTbInCapture_sound {s : State} (k : Fin 4) (rising : Bool) (sixteenth : BitVec 4) (width : Nat) (h : orig.Sound s) :
    Keeps orig (execTbInCapture k rising sixteenth width s) := by
  unfold execTbInCapture
  repeat' first
    | intro _
    | with_reducible first
      | assumption | apply ifUp_sound | apply ifOn_sound | apply next_sound | apply sound_ite | apply State.captureIn_sound
      | apply State.when_sound | apply sound_foldl
    | simp only [sound_mk, parts_sound] | split | simp only [Effect.Sound, onRegs, onPair] | simp only [ThreadEffect.Sound]
    | exact trivial | dsimp only

theorem State.readIn_sound {s : State} (k : Fin 4) (hk : orig.Sound s) :
    orig.Sound (s.readIn k) := by
  unfold State.readIn
  repeat' first
    | intro _
    | with_reducible first
      | assumption
    | simp only [sound_mk, parts_sound]

theorem execTbInRead_sound {s : State} (k : Fin 4) (h : orig.Sound s) :
    Keeps orig (execTbInRead k s) := ifUp_sound _ (fun _ ht => State.readIn_sound _ ht) h

theorem State.missEdge_sound {s : State} (hk : orig.Sound s) :
    orig.Sound (s.missEdge) := by
  unfold State.missEdge
  repeat' first
    | intro _
    | with_reducible first
      | assumption | apply sound_ite | apply count_sound | apply sound_foldl
    | simp only [sound_mk, parts_sound] | split | dsimp only

theorem execGenlockEdgeMissing_sound {s : State} (h : orig.Sound s) :
    Keeps orig (execGenlockEdgeMissing s) := by
  unfold execGenlockEdgeMissing
  repeat' first
    | intro _
    | with_reducible first
      | assumption | apply ifUp_sound | apply ifOn_sound | apply next_sound | apply sound_ite | apply State.missEdge_sound
      | apply State.when_sound | apply sound_foldl
    | simp only [sound_mk, parts_sound] | split | simp only [Effect.Sound, onRegs, onPair] | simp only [ThreadEffect.Sound]
    | exact trivial | dsimp only

theorem State.writeGlPhase_sound {s : State} (value : Word) (hk : orig.Sound s) :
    orig.Sound (s.writeGlPhase value) := by
  unfold State.writeGlPhase
  repeat' first
    | intro _
    | with_reducible first
      | assumption | apply glRestart_sound | apply put_sound | apply when_sound
    | simp only [sound_mk, parts_sound]

theorem execGlPhaseWrite_sound {s : State} (value : Word) (h : orig.Sound s) :
    Keeps orig (execGlPhaseWrite value s) := ifUp_sound _ (fun _ ht => State.writeGlPhase_sound _ ht) h

theorem State.outEdge_sound {s : State} (k : Fin 4) (hk : orig.Sound s) :
    orig.Sound (s.outEdge k) := by
  unfold State.outEdge
  repeat' first
    | intro _
    | with_reducible first
      | assumption | apply sound_ite | apply armed_sound | apply onOut_sound | apply sound_foldl
    | simp only [sound_mk, parts_sound] | split | dsimp only

theorem execTbOutEdge_sound {s : State} (k : Fin 4) (h : orig.Sound s) :
    Keeps orig (execTbOutEdge k s) := by
  unfold execTbOutEdge
  repeat' first
    | intro _
    | with_reducible first
      | assumption | apply ifUp_sound | apply ifOn_sound | apply next_sound | apply sound_ite | apply State.armed_sound
      | apply State.outEdge_sound | apply State.when_sound | apply sound_foldl
    | simp only [sound_mk, parts_sound] | split | simp only [Effect.Sound, onRegs, onPair] | simp only [ThreadEffect.Sound]
    | exact trivial | dsimp only

theorem execTbOutPulseEnd_sound {s : State} (k : Fin 4) (h : orig.Sound s) :
    Keeps orig (execTbOutPulseEnd k s) := by
  unfold execTbOutPulseEnd
  repeat' first
    | intro _
    | with_reducible first
      | assumption | apply ifUp_sound | apply ifOn_sound | apply next_sound | apply sound_ite | apply State.onOut_sound
      | apply State.when_sound | apply sound_foldl
    | simp only [sound_mk, parts_sound] | split | simp only [Effect.Sound, onRegs, onPair] | simp only [ThreadEffect.Sound]
    | exact trivial | dsimp only

theorem execTbOutEnable_sound {s : State} (k : Fin 4) (h : orig.Sound s) :
    Keeps orig (execTbOutEnable k s) := ifUp_sound _ (fun _ ht => State.outEnable_sound _ ht) h

theorem State.outStep_sound {s : State} (k : Fin 4) (value : BitVec 16) (hk : orig.Sound s) :
    orig.Sound (s.outStep k value) := by
  unfold State.outStep
  repeat' first
    | intro _
    | with_reducible first
      | assumption | apply sound_ite | apply onOut_sound | apply put_sound | apply raise_sound | apply sound_foldl
    | simp only [sound_mk, parts_sound] | split | dsimp only

theorem execTbOutStep_sound {s : State} (k : Fin 4) (value : BitVec 16) (h : orig.Sound s) :
    Keeps orig (execTbOutStep k value s) := ifUp_sound _ (fun _ ht => State.outStep_sound _ _ ht) h

end Sys2Proof.Machine
end

