-- ==== Sys2Proof/Laws/Link.lean ====
section
/-! SUPPORT. Every operation of Machine/Link.lean keeps soundness. -/

namespace Sys2Proof.Machine

variable {orig : State}

theorem State.sendBits_sound {s : State} (p : Fin 4) (lane ver : Nat) (bits : List Bool) (hk : orig.Sound s) :
    orig.Sound (s.sendBits p lane ver bits) := by
  unfold State.sendBits
  repeat' first
    | intro _
    | with_reducible first
      | assumption | apply sound_ite | apply emit_sound | apply sound_foldl
    | simp only [sound_mk, parts_sound] | split | dsimp only

theorem State.sendFrames_sound {s : State} (p : Fin 4) (hk : orig.Sound s) :
    orig.Sound (s.sendFrames p) := by
  unfold State.sendFrames
  repeat' first
    | intro _
    | with_reducible first
      | assumption | apply sound_ite | apply onPort_sound | apply put_sound | apply sendBits_sound | apply when_sound
      | apply sound_foldl
    | simp only [sound_mk, parts_sound] | split | dsimp only

theorem State.framesDue_sound {s : State} (p : Fin 4) (k : Nat) (h : orig.Sound s) : orig.Sound (State.framesDue p k s) := by
  induction k generalizing s with
  | zero => exact h
  | succ k ih => exact sound_ite (ih (onPort_sound _ _ (sendFrames_sound _ h))) h

theorem State.sendTraining_sound {s : State} (hk : orig.Sound s) :
    orig.Sound (s.sendTraining) := by
  unfold State.sendTraining
  repeat' first
    | intro _
    | with_reducible first
      | assumption | apply sound_ite | apply framesDue_sound | apply sound_foldl
    | simp only [sound_mk, parts_sound] | split | dsimp only

theorem State.sendAlign_sound {s : State} (p : Fin 4) (oot : Bool) (lane : Nat) (hk : orig.Sound s) :
    orig.Sound (s.sendAlign p oot lane) := by
  unfold State.sendAlign
  repeat' first
    | intro _
    | with_reducible first
      | assumption | apply sound_ite | apply sendBits_sound | apply sound_foldl
    | simp only [sound_mk, parts_sound] | split | dsimp only

theorem State.sendAligns_sound {s : State} (p : Fin 4) (oot : Bool) (hk : orig.Sound s) :
    orig.Sound (s.sendAligns p oot) := by
  unfold State.sendAligns
  repeat' first
    | intro _
    | with_reducible first
      | assumption | apply sound_ite | apply sendAlign_sound | apply sound_foldl
    | simp only [sound_mk, parts_sound] | split | dsimp only

theorem State.badPackets_sound {s : State} (p : Fin 4) (n : Nat) (hk : orig.Sound s) :
    orig.Sound (s.badPackets p n) := by
  unfold State.badPackets
  repeat' first
    | intro _
    | with_reducible first
      | assumption | apply sound_ite | apply countBy_sound | apply raise_sound | apply sound_foldl
    | simp only [sound_mk, parts_sound] | split | dsimp only

theorem State.discardQueues_sound {s : State} (p : Fin 4) (hk : orig.Sound s) :
    orig.Sound (s.discardQueues p) := by
  unfold State.discardQueues
  repeat' first
    | intro _
    | with_reducible first
      | assumption | apply sound_ite | apply badPackets_sound | apply countBy_sound | apply onPort_sound | apply raise_sound
      | apply sound_foldl
    | simp only [sound_mk, parts_sound] | split | dsimp only

theorem State.setLink_sound {s : State} (p : Fin 4) (state lanes : Nat) (hk : orig.Sound s) :
    orig.Sound (s.setLink p state lanes) := by
  unfold State.setLink
  repeat' first
    | intro _
    | with_reducible first
      | assumption | apply sound_ite | apply put_sound | apply sound_foldl
    | simp only [sound_mk, parts_sound] | split | dsimp only

theorem State.startTraining_sound {s : State} (p : Fin 4) (quick : Bool) (hk : orig.Sound s) :
    orig.Sound (s.startTraining p quick) := by
  unfold State.startTraining
  repeat' first
    | intro _
    | with_reducible first
      | assumption | apply sound_ite | apply onPort_sound | apply setLink_sound | apply setReg_sound | apply sound_foldl
    | simp only [sound_mk, parts_sound] | split | dsimp only

theorem State.leaveUp_sound {s : State} (p : Fin 4) (state : Nat) (hk : orig.Sound s) :
    orig.Sound (s.leaveUp p state) := by
  unfold State.leaveUp
  repeat' first
    | intro _
    | with_reducible first
      | assumption | apply sound_ite | apply count_sound | apply discardQueues_sound | apply onPort_sound | apply raise_sound
      | apply retimePort_sound | apply setLink_sound | apply sound_foldl
    | simp only [sound_mk, parts_sound] | split | dsimp only

theorem State.portDown_sound {s : State} (p : Fin 4) (hk : orig.Sound s) :
    orig.Sound (s.portDown p) := by
  unfold State.portDown
  repeat' first
    | intro _
    | with_reducible first
      | assumption | apply leaveUp_sound | apply startTraining_sound

theorem State.portComesUp_sound {s : State} (p : Fin 4) (v : Nat) (hk : orig.Sound s) :
    orig.Sound (s.portComesUp p v) := by
  unfold State.portComesUp
  repeat' first
    | intro _
    | with_reducible first
      | assumption | apply sound_ite | apply onPort_sound | apply put_sound | apply raise_sound | apply raiseIf_sound
      | apply retimePort_sound | apply sendAligns_sound | apply sendFrames_sound | apply setLink_sound | apply sound_foldl
    | simp only [sound_mk, parts_sound] | split | dsimp only

theorem State.acceptPair_sound {s : State} (p : Fin 4) (cap ident : Word) (hk : orig.Sound s) :
    orig.Sound (s.acceptPair p cap ident) := by
  unfold State.acceptPair
  repeat' first
    | intro _
    | with_reducible first
      | assumption | apply sound_ite | apply onPort_sound | apply put_sound | apply raiseIf_sound | apply setReg_sound
      | apply sound_foldl
    | simp only [sound_mk, parts_sound] | split | dsimp only

theorem State.tryUp_sound {s : State} (p : Fin 4) (hk : orig.Sound s) :
    orig.Sound (s.tryUp p) := by
  unfold State.tryUp
  repeat' first
    | intro _
    | with_reducible first
      | assumption | apply sound_ite | apply portComesUp_sound
    | simp only [sound_mk, parts_sound] | split

theorem State.trainFrame_sound {s : State} (p lane : Fin 4) (f : TrainFrame) (hk : orig.Sound s) :
    orig.Sound (s.trainFrame p lane f) := by
  unfold State.trainFrame
  repeat' first
    | intro _
    | with_reducible first
      | assumption | apply sound_ite | apply acceptPair_sound | apply onPort_sound | apply tryUp_sound | apply sound_foldl
    | simp only [sound_mk, parts_sound] | split | dsimp only

theorem State.rateSwitch_sound {s : State} (p : Fin 4) (hk : orig.Sound s) :
    orig.Sound (s.rateSwitch p) := by
  unfold State.rateSwitch
  repeat' first
    | intro _
    | with_reducible first
      | assumption | apply sound_ite | apply onPort_sound | apply sound_foldl
    | simp only [sound_mk, parts_sound] | split | dsimp only

/-! ## Commands -/

theorem execLinkRateSwitch_sound {s : State} (p : Fin 4) (h : orig.Sound s) :
    Keeps orig (execLinkRateSwitch p s) := ifUp_sound _ (fun _ ht => State.rateSwitch_sound _ ht) h

theorem execTrainingRetry_sound {s : State} (p : Fin 4) (h : orig.Sound s) :
    Keeps orig (execTrainingRetry p s) := by
  unfold execTrainingRetry
  repeat' first
    | intro _
    | with_reducible first
      | assumption | apply ifUp_sound | apply ifOn_sound | apply next_sound | apply sound_ite
      | apply State.startTraining_sound | apply State.when_sound | apply sound_foldl
    | simp only [sound_mk, parts_sound] | split | simp only [Effect.Sound, onRegs, onPair] | simp only [ThreadEffect.Sound]
    | exact trivial | dsimp only

theorem State.trainingFails_sound {s : State} (p : Fin 4) (hk : orig.Sound s) :
    orig.Sound (s.trainingFails p) := by
  unfold State.trainingFails
  repeat' first
    | intro _
    | with_reducible first
      | assumption | apply sound_ite | apply onPort_sound | apply put_sound | apply raise_sound | apply startTraining_sound
      | apply sound_foldl
    | simp only [sound_mk, parts_sound] | split | dsimp only

theorem execTrainingFailed_sound {s : State} (p : Fin 4) (h : orig.Sound s) :
    Keeps orig (execTrainingFailed p s) := by
  unfold execTrainingFailed
  repeat' first
    | intro _
    | with_reducible first
      | assumption | apply ifUp_sound | apply State.trainingFails_sound | apply State.when_sound

theorem State.sendCodeword_sound {s : State} (p : Fin 4) (cw : Codeword) (hk : orig.Sound s) :
    orig.Sound (s.sendCodeword p cw) := by
  unfold State.sendCodeword
  repeat' first
    | intro _
    | with_reducible first
      | assumption | apply sound_ite | apply onPort_sound | apply sendBits_sound | apply sound_foldl
    | simp only [sound_mk, parts_sound] | split | dsimp only

theorem State.codewordTx_sound {s : State} (p : Fin 4) (hk : orig.Sound s) :
    orig.Sound (s.codewordTx p) := by
  unfold State.codewordTx
  repeat' first
    | intro _
    | with_reducible first
      | assumption | apply sound_ite | apply onPort_sound | apply sendCodeword_sound | apply sound_foldl
    | simp only [sound_mk, parts_sound] | split | dsimp only

theorem execCodewordTx_sound {s : State} (p : Fin 4) (h : orig.Sound s) :
    Keeps orig (execCodewordTx p s) := by
  unfold execCodewordTx
  repeat' first
    | intro _
    | with_reducible first
      | assumption | apply ifUp_sound | apply ifOn_sound | apply next_sound | apply sound_ite | apply State.codewordTx_sound
      | apply State.when_sound | apply sound_foldl
    | simp only [sound_mk, parts_sound] | split | simp only [Effect.Sound, onRegs, onPair] | simp only [ThreadEffect.Sound]
    | exact trivial | dsimp only

theorem State.timeToken_sound {s : State} (p : Fin 4) (k : TimeToken) (t4 : BitVec 48) (hk : orig.Sound s) :
    orig.Sound (s.timeToken p k t4) := by
  unfold State.timeToken
  repeat' first
    | intro _
    | with_reducible first
      | assumption | apply sound_ite | apply count_sound | apply measure_sound | apply onPort_sound | apply putS_sound
      | apply wrapCount_sound
    | simp only [sound_mk, parts_sound] | split

theorem execTimeTokenRx_sound {s : State} (p : Fin 4) (tok : TimeToken) (h : orig.Sound s) :
    Keeps orig (execTimeTokenRx p tok s) := by
  unfold execTimeTokenRx
  repeat' first
    | intro _
    | with_reducible first
      | assumption | apply ifUp_sound | apply ifOn_sound | apply next_sound | apply sound_ite | apply State.timeToken_sound
      | apply State.when_sound | apply sound_foldl
    | simp only [sound_mk, parts_sound] | split | simp only [Effect.Sound, onRegs, onPair] | simp only [ThreadEffect.Sound]
    | exact trivial | dsimp only

theorem State.startRemap_sound {s : State} (p : Fin 4) (receive : Bool) (hk : orig.Sound s) :
    orig.Sound (s.startRemap p receive) := by
  unfold State.startRemap
  repeat' first
    | intro _
    | with_reducible first
      | assumption | apply sound_ite | apply onPort_sound | apply put_sound | apply sound_foldl
    | simp only [sound_mk, parts_sound] | split | dsimp only

theorem State.failLane_sound {s : State} (p lane : Fin 4) (hk : orig.Sound s) :
    orig.Sound (s.failLane p lane) := by
  unfold State.failLane
  repeat' first
    | intro _
    | with_reducible first
      | assumption | apply sound_ite | apply onPort_sound | apply portDown_sound | apply put_sound | apply sendAligns_sound
      | apply startRemap_sound | apply sound_foldl
    | simp only [sound_mk, parts_sound] | split | dsimp only

theorem execLaneFail_sound {s : State} (p lane : Fin 4) (h : orig.Sound s) :
    Keeps orig (execLaneFail p lane s) := by
  unfold execLaneFail
  repeat' first
    | intro _
    | with_reducible first
      | assumption | apply ifUp_sound | apply State.failLane_sound | apply State.when_sound

theorem State.scheduledAlign_sound {s : State} (p lane : Fin 4) (hk : orig.Sound s) :
    orig.Sound (s.scheduledAlign p lane) := by
  unfold State.scheduledAlign
  repeat' first
    | intro _
    | with_reducible first
      | assumption | apply sound_ite | apply onPort_sound | apply sendAlign_sound | apply sound_foldl
    | simp only [sound_mk, parts_sound] | split | dsimp only

theorem execAlignmentBlockTx_sound {s : State} (p lane : Fin 4) (h : orig.Sound s) :
    Keeps orig (execAlignmentBlockTx p lane s) := by
  unfold execAlignmentBlockTx
  repeat' first
    | intro _
    | with_reducible first
      | assumption | apply ifUp_sound | apply ifOn_sound | apply next_sound | apply sound_ite
      | apply State.scheduledAlign_sound | apply State.when_sound | apply sound_foldl
    | simp only [sound_mk, parts_sound] | split | simp only [Effect.Sound, onRegs, onPair] | simp only [ThreadEffect.Sound]
    | exact trivial | dsimp only

theorem State.startReplay_sound {s : State} (p : Fin 4) (toggle : Bool) (hk : orig.Sound s) :
    orig.Sound (s.startReplay p toggle) := by
  unfold State.startReplay
  repeat' first
    | intro _
    | with_reducible first
      | assumption | apply count_sound | apply onPort_sound

theorem State.restripe_sound {s : State} (p : Fin 4) (mask : Nat) (hk : orig.Sound s) :
    orig.Sound (s.restripe p mask) := by
  unfold State.restripe
  repeat' first
    | intro _
    | with_reducible first
      | assumption | apply sound_ite | apply onPort_sound | apply portDown_sound | apply put_sound | apply startRemap_sound
      | apply startReplay_sound | apply sound_foldl
    | simp only [sound_mk, parts_sound] | split | dsimp only

theorem State.markLane_sound {s : State} (p lane : Fin 4) (count : BitVec 16) (hk : orig.Sound s) :
    orig.Sound (s.markLane p lane count) := by
  unfold State.markLane
  repeat' first
    | intro _
    | with_reducible first
      | assumption | apply sound_ite | apply count_sound | apply onPort_sound | apply sound_foldl
    | simp only [sound_mk, parts_sound] | split | dsimp only

theorem State.alignRx_sound {s : State} (p lane : Fin 4) (b : AlignBlock) (hk : orig.Sound s) :
    orig.Sound (s.alignRx p lane b) := by
  unfold State.alignRx
  repeat' first
    | intro _
    | with_reducible first
      | assumption | apply sound_ite | apply markLane_sound | apply restripe_sound | apply sound_foldl
    | simp only [sound_mk, parts_sound] | split | dsimp only

theorem execAlignmentBlockRx_sound {s : State} (p lane : Fin 4) (blk : AlignBlock) (h : orig.Sound s) :
    Keeps orig (execAlignmentBlockRx p lane blk s) := by
  unfold execAlignmentBlockRx
  repeat' first
    | intro _
    | with_reducible first
      | assumption | apply ifUp_sound | apply ifOn_sound | apply next_sound | apply sound_ite | apply State.alignRx_sound
      | apply State.when_sound | apply sound_foldl
    | simp only [sound_mk, parts_sound] | split | simp only [Effect.Sound, onRegs, onPair] | simp only [ThreadEffect.Sound]
    | exact trivial | dsimp only

theorem State.remapDone_sound {s : State} (p : Fin 4) (receive : Bool) (hk : orig.Sound s) :
    orig.Sound (s.remapDone p receive) := by
  unfold State.remapDone
  repeat' first
    | intro _
    | with_reducible first
      | assumption | apply sound_ite | apply count_sound | apply onPort_sound | apply put_sound | apply raise_sound
      | apply raiseIf_sound | apply sound_foldl
    | simp only [sound_mk, parts_sound] | split | dsimp only

theorem execRemapComplete_sound {s : State} (p : Fin 4) (receive : Bool) (h : orig.Sound s) :
    Keeps orig (execRemapComplete p receive s) := by
  unfold execRemapComplete
  repeat' first
    | intro _
    | with_reducible first
      | assumption | apply ifUp_sound | apply ifOn_sound | apply next_sound | apply sound_ite | apply State.remapDone_sound
      | apply State.when_sound | apply sound_foldl
    | simp only [sound_mk, parts_sound] | split | simp only [Effect.Sound, onRegs, onPair] | simp only [ThreadEffect.Sound]
    | exact trivial | dsimp only

theorem execRemapTimeout_sound {s : State} (p : Fin 4) (h : orig.Sound s) :
    Keeps orig (execRemapTimeout p s) := by
  unfold execRemapTimeout
  repeat' first
    | intro _
    | with_reducible first
      | assumption | apply ifUp_sound | apply State.portDown_sound | apply State.raise_sound | apply State.when_sound

theorem execAckTimeout_sound {s : State} (p : Fin 4) (h : orig.Sound s) :
    Keeps orig (execAckTimeout p s) := by
  unfold execAckTimeout
  repeat' first
    | intro _
    | with_reducible first
      | assumption | apply ifUp_sound | apply State.portDown_sound | apply State.raise_sound | apply State.when_sound

theorem execPortDown_sound {s : State} (p : Fin 4) (h : orig.Sound s) :
    Keeps orig (execPortDown p s) := by
  unfold execPortDown
  repeat' first
    | intro _
    | with_reducible first
      | assumption | apply ifUp_sound | apply State.portDown_sound | apply State.when_sound

theorem State.cellIn_sound {s : State} (p : Fin 4) (retx : Bool) (c : Cell) (hk : orig.Sound s) :
    orig.Sound (s.cellIn p retx c) := by
  unfold State.cellIn
  repeat' first
    | intro _
    | with_reducible first
      | assumption | apply sound_ite | apply badPackets_sound | apply onPort_sound | apply timeToken_sound | apply sound_foldl
    | simp only [sound_mk, parts_sound] | split | dsimp only

theorem State.ackNak_sound {s : State} (p : Fin 4) (cw : Codeword) (hk : orig.Sound s) :
    orig.Sound (s.ackNak p cw) := by
  unfold State.ackNak
  repeat' first
    | intro _
    | with_reducible first
      | assumption | apply sound_ite | apply onPort_sound | apply startReplay_sound
    | simp only [sound_mk, parts_sound]

theorem State.noteErrors_sound {s : State} (p : Fin 4) (errs : List Nat) (hk : orig.Sound s) :
    orig.Sound (s.noteErrors p errs) := by
  unfold State.noteErrors
  repeat' first
    | intro _
    | with_reducible first
      | assumption | apply sound_ite | apply count_sound | apply onPort_sound | apply sound_foldl
    | simp only [sound_mk, parts_sound] | split | dsimp only

theorem State.codewordRx_sound {s : State} (p : Fin 4) (cw : Codeword) (errs : List Nat) (hk : orig.Sound s) :
    orig.Sound (s.codewordRx p cw errs) := by
  unfold State.codewordRx
  repeat' first
    | intro _
    | with_reducible first
      | assumption | apply sound_ite | apply ackNak_sound | apply cellIn_sound | apply failLane_sound | apply noteErrors_sound
      | apply onPort_sound | apply sound_foldl
    | simp only [sound_mk, parts_sound] | split | dsimp only

theorem State.lineIn_sound {s : State} (p : Fin 4) (line : List (List (BitVec 2))) (hk : orig.Sound s) :
    orig.Sound (s.lineIn p line) := by
  unfold State.lineIn
  repeat' first
    | intro _
    | with_reducible first
      | assumption | apply sound_ite | apply codewordRx_sound | apply failLane_sound | apply onPort_sound | apply sound_foldl
    | simp only [sound_mk, parts_sound] | split | dsimp only

theorem execCodewordRx_sound {s : State} (p : Fin 4) (line : List (List (BitVec 2))) (h : orig.Sound s) :
    Keeps orig (execCodewordRx p line s) := by
  unfold execCodewordRx
  repeat' first
    | intro _
    | with_reducible first
      | assumption | apply ifUp_sound | apply ifOn_sound | apply next_sound | apply sound_ite | apply State.lineIn_sound
      | apply State.when_sound | apply sound_foldl
    | simp only [sound_mk, parts_sound] | split | simp only [Effect.Sound, onRegs, onPair] | simp only [ThreadEffect.Sound]
    | exact trivial | dsimp only

theorem State.portEnable_sound {s : State} (p : Fin 4) (hk : orig.Sound s) :
    orig.Sound (s.portEnable p) := by
  unfold State.portEnable
  repeat' first
    | intro _
    | with_reducible first
      | assumption | apply sound_ite | apply put_sound | apply startTraining_sound

theorem execPortEnable_sound {s : State} (p : Fin 4) (h : orig.Sound s) :
    Keeps orig (execPortEnable p s) := ifUp_sound _ (fun _ ht => State.portEnable_sound _ ht) h

theorem State.portDisable_sound {s : State} (p : Fin 4) (hk : orig.Sound s) :
    orig.Sound (s.portDisable p) := by
  unfold State.portDisable
  repeat' first
    | intro _
    | with_reducible first
      | assumption | apply sound_ite | apply discardQueues_sound | apply leaveUp_sound | apply put_sound | apply setLink_sound
      | apply sound_foldl
    | simp only [sound_mk, parts_sound] | split | dsimp only

theorem execPortDisable_sound {s : State} (p : Fin 4) (h : orig.Sound s) :
    Keeps orig (execPortDisable p s) := ifUp_sound _ (fun _ ht => State.portDisable_sound _ ht) h

theorem State.portRetrain_sound {s : State} (p : Fin 4) (hk : orig.Sound s) :
    orig.Sound (s.portRetrain p) := by
  unfold State.portRetrain
  repeat' first
    | intro _
    | with_reducible first
      | assumption | apply sound_ite | apply leaveUp_sound | apply startTraining_sound

theorem execPortRetrain_sound {s : State} (p : Fin 4) (h : orig.Sound s) :
    Keeps orig (execPortRetrain p s) := ifUp_sound _ (fun _ ht => State.portRetrain_sound _ ht) h

theorem execPortWake_sound {s : State} (p : Fin 4) (h : orig.Sound s) :
    Keeps orig (execPortWake p s) := ifUp_sound _ (fun _ ht => State.put_sound _ _ ht) h

theorem State.portClr_sound {s : State} (p : Fin 4) (hk : orig.Sound s) :
    orig.Sound (s.portClr p) := by
  unfold State.portClr
  repeat' first
    | intro _
    | with_reducible first
      | assumption | apply setReg_sound

theorem execZlPortClr_sound {s : State} (p : Fin 4) (h : orig.Sound s) :
    Keeps orig (execZlPortClr p s) := ifUp_sound _ (fun _ ht => State.portClr_sound _ ht) h

end Sys2Proof.Machine
end

