-- ==== Sys2Proof/Laws/Clock.lean ====
section
/-! SUPPORT. Every operation of Machine/Clock.lean keeps soundness. -/

namespace Sys2Proof.Machine

variable {orig : State}

theorem State.onPll_sound {s : State} (n : Fin 6) (f : Pll → Pll) (hk : orig.Sound s) :
    orig.Sound (s.onPll n f) := by
  unfold State.onPll
  repeat' first
    | intro _
    | with_reducible first
      | assumption
    | simp only [sound_mk, parts_sound]

theorem State.setBackup_sound {s : State} (on : Bool) (hk : orig.Sound s) :
    orig.Sound (s.setBackup on) := by
  unfold State.setBackup
  repeat' first
    | intro _
    | with_reducible first
      | assumption | apply sound_ite | apply putB_sound | apply raise_sound

theorem State.stopPanels_sound {s : State} (hk : orig.Sound s) :
    orig.Sound (s.stopPanels) := by
  unfold State.stopPanels
  repeat' first
    | intro _
    | with_reducible first
      | assumption | apply sound_ite | apply flushLane_sound | apply onPanelLane_sound | apply sound_foldl
    | simp only [sound_mk, parts_sound] | split | dsimp only

theorem State.resumePanels_sound {s : State} (hk : orig.Sound s) :
    orig.Sound (s.resumePanels) := by
  unfold State.resumePanels
  repeat' first
    | intro _
    | with_reducible first
      | assumption | apply sound_ite | apply catchUp_sound | apply onPanelLane_sound | apply sound_foldl

theorem State.portsLost_sound {s : State} (hk : orig.Sound s) :
    orig.Sound (s.portsLost) := by
  unfold State.portsLost
  repeat' first
    | intro _
    | with_reducible first
      | assumption | apply sound_ite | apply ethLink_sound | apply portDown_sound | apply sound_foldl
    | simp only [sound_mk, parts_sound]

theorem State.domainLost_sound {s : State} (n : Fin 6) (hk : orig.Sound s) :
    orig.Sound (s.domainLost n) := by
  unfold State.domainLost
  repeat' first
    | intro _
    | with_reducible first
      | assumption | apply portsLost_sound | apply setBackup_sound | apply stopPanels_sound
    | split

theorem State.domainBack_sound {s : State} (n : Fin 6) (hk : orig.Sound s) :
    orig.Sound (s.domainBack n) := by
  unfold State.domainBack
  repeat' first
    | intro _
    | with_reducible first
      | assumption | apply drainAll_sound | apply resumePanels_sound | apply setBackup_sound
    | split

theorem State.unlock_sound {s : State} (n : Fin 6) (commit : Bool) (hk : orig.Sound s) :
    orig.Sound (s.unlock n commit) := by
  unfold State.unlock
  repeat' first
    | intro _
    | with_reducible first
      | assumption | apply domainLost_sound | apply onPll_sound | apply put_sound
    | simp only [sound_mk, parts_sound]

theorem State.pllRefuse_sound {s : State} (n : Fin 6) (hk : orig.Sound s) :
    orig.Sound (s.pllRefuse n) := by
  unfold State.pllRefuse
  repeat' first
    | intro _
    | with_reducible first
      | assumption | apply put_sound | apply raise_sound

theorem State.applyPll_sound {s : State} (n : Fin 6) (hk : orig.Sound s) :
    orig.Sound (s.applyPll n) := by
  unfold State.applyPll
  repeat' first
    | intro _
    | with_reducible first
      | assumption | apply sound_ite | apply activate_sound | apply pllRefuse_sound | apply put_sound | apply raise_sound
      | apply unlock_sound
    | simp only [sound_mk, parts_sound]

theorem State.commitPll_sound {s : State} (n : Fin 6) (hk : orig.Sound s) :
    orig.Sound (s.commitPll n) := by
  unfold State.commitPll
  repeat' first
    | intro _
    | with_reducible first
      | assumption | apply sound_ite | apply applyPll_sound | apply put_sound

/-! ## Commands -/

theorem execPllCommit_sound {s : State} (n : Fin 6) (h : orig.Sound s) :
    Keeps orig (execPllCommit n s) := ifUp_sound _ (fun _ ht => State.commitPll_sound _ ht) h

theorem State.nextCommit_sound {s : State} (n : Fin 6) (hk : orig.Sound s) :
    orig.Sound (s.nextCommit n) := by
  unfold State.nextCommit
  repeat' first
    | intro _
    | with_reducible first
      | assumption | apply sound_ite | apply applyPll_sound | apply put_sound | apply when_sound | apply sound_foldl
    | simp only [sound_mk, parts_sound] | split | dsimp only

theorem State.loseLock_sound {s : State} (n : Fin 6) (hk : orig.Sound s) :
    orig.Sound (s.loseLock n) := by
  unfold State.loseLock
  repeat' first
    | intro _
    | with_reducible first
      | assumption | apply sound_ite | apply count_sound | apply nextCommit_sound | apply put_sound | apply raise_sound
      | apply unlock_sound | apply when_sound | apply sound_foldl
    | simp only [sound_mk, parts_sound] | split | dsimp only

theorem execPllLockLoss_sound {s : State} (n : Fin 6) (h : orig.Sound s) :
    Keeps orig (execPllLockLoss n s) := ifUp_sound _ (fun _ ht => State.loseLock_sound _ ht) h

theorem State.lockOn_sound {s : State} (n : Fin 6) (k : Nat) (hk : orig.Sound s) :
    orig.Sound (s.lockOn n k) := by
  unfold State.lockOn
  repeat' first
    | intro _
    | with_reducible first
      | assumption | apply onPll_sound | apply put_sound
    | simp only [sound_mk, parts_sound]

theorem State.lockPll_sound {s : State} (n : Fin 6) (storedFailed : Bool) (code : Nat) (hk : orig.Sound s) :
    orig.Sound (s.lockPll n storedFailed code) := by
  unfold State.lockPll
  repeat' first
    | intro _
    | with_reducible first
      | assumption | apply lockOn_sound | apply raise_sound | apply raiseIf_sound | apply storeBand_sound
    | simp only [sound_mk, parts_sound] | split

theorem State.relock_sound {s : State} (n : Fin 6) (storedFailed : Bool) (code : Nat) (hk : orig.Sound s) :
    orig.Sound (s.relock n storedFailed code) := by
  unfold State.relock
  repeat' first
    | intro _
    | with_reducible first
      | assumption | apply sound_ite | apply domainBack_sound | apply lockPll_sound | apply nextCommit_sound | apply put_sound
      | apply raise_sound | apply when_sound | apply sound_foldl
    | simp only [sound_mk, parts_sound] | split | dsimp only

theorem execPllRelock_sound {s : State} (n : Fin 6) (storedFailed : Bool) (code : BitVec 7) (h : orig.Sound s) :
    Keeps orig (execPllRelock n storedFailed code s) := ifUp_sound _ (fun _ ht => State.relock_sound _ _ _ ht) h

theorem State.enablePll_sound {s : State} (n : Fin 6) (on : Bool) (hk : orig.Sound s) :
    orig.Sound (s.enablePll n on) := by
  unfold State.enablePll
  repeat' first
    | intro _
    | with_reducible first
      | assumption | apply sound_ite | apply domainLost_sound | apply onPll_sound | apply put_sound | apply putB_sound
      | apply relock_sound | apply sound_foldl
    | simp only [sound_mk, parts_sound] | split | dsimp only

theorem State.phaseStep_sound {s : State} (n : Fin 6) (value : Word) (hk : orig.Sound s) :
    orig.Sound (s.phaseStep n value) := by
  unfold State.phaseStep
  repeat' first
    | intro _
    | with_reducible first
      | assumption | apply sound_ite | apply onPll_sound | apply pllRefuse_sound | apply putS_sound
    | simp only [sound_mk, parts_sound]

theorem execPllPhaseStep_sound {s : State} (n : Fin 6) (value : Word) (h : orig.Sound s) :
    Keeps orig (execPllPhaseStep n value s) := ifUp_sound _ (fun _ ht => State.phaseStep_sound _ _ ht) h

theorem State.stepOnce_sound {s : State} (n : Fin 6) (hk : orig.Sound s) :
    orig.Sound (s.stepOnce n) := by
  unfold State.stepOnce
  repeat' first
    | intro _
    | with_reducible first
      | assumption | apply sound_ite | apply onPll_sound | apply putS_sound | apply when_sound | apply sound_foldl
    | simp only [sound_mk, parts_sound] | split | dsimp only

theorem State.stepPhases_sound {s : State} (old : Nat) (hk : orig.Sound s) :
    orig.Sound (s.stepPhases old) := by
  unfold State.stepPhases
  repeat' first
    | intro _
    | with_reducible first
      | assumption | apply sound_ite | apply stepOnce_sound | apply when_sound | apply sound_foldl
    | simp only [sound_mk, parts_sound] | split | dsimp only

theorem State.lastStep_sound {s : State} (n : Fin 6) (hk : orig.Sound s) :
    orig.Sound (s.lastStep n) := by
  unfold State.lastStep
  repeat' first
    | intro _
    | with_reducible first
      | assumption | apply sound_ite | apply onPll_sound | apply put_sound | apply raise_sound | apply when_sound
      | apply sound_foldl
    | simp only [sound_mk, parts_sound] | split | dsimp only

theorem execPllPhaseDone_sound {s : State} (n : Fin 6) (h : orig.Sound s) :
    Keeps orig (execPllPhaseDone n s) := ifUp_sound _ (fun _ ht => State.lastStep_sound _ ht) h

theorem execPllStatClr_sound {s : State} (n : Fin 6) (h : orig.Sound s) :
    Keeps orig (execPllStatClr n s) := ifUp_sound _ (fun _ ht => State.put_sound _ _ ht) h

theorem State.refLost_sound {s : State} (hk : orig.Sound s) :
    orig.Sound (s.refLost) := by
  unfold State.refLost
  repeat' first
    | intro _
    | with_reducible first
      | assumption | apply loseLock_sound | apply put_sound | apply raise_sound | apply setBackup_sound | apply when_sound
      | apply sound_foldl
    | simp only [sound_mk, parts_sound]

theorem execRefclkLoss_sound {s : State} (h : orig.Sound s) :
    Keeps orig (execRefclkLoss s) := ifOn_sound _ (fun _ ht => State.refLost_sound ht) h

theorem execRefclkReturn_sound {s : State} (h : orig.Sound s) :
    Keeps orig (execRefclkReturn s) := ifOn_sound _ (fun _ ht => State.put_sound _ _ ht) h

end Sys2Proof.Machine
end

