-- ==== Sys2Proof/Laws/Calib.lean ====
section
/-! SUPPORT. Every operation of Machine/Calib.lean keeps soundness. -/

namespace Sys2Proof.Machine

variable {orig : State}

theorem State.onCal_sound {s : State} (d : Fin 5) (f : CalDomain → CalDomain) (hk : orig.Sound s) :
    orig.Sound (s.onCal d f) := by
  unfold State.onCal
  repeat' first
    | intro _
    | with_reducible first
      | assumption
    | simp only [sound_mk, parts_sound]

theorem State.calState_sound {s : State} (d : Fin 5) (hk : orig.Sound s) :
    orig.Sound (s.calState d) := by
  unfold State.calState
  repeat' first
    | intro _
    | with_reducible first
      | assumption | apply sound_ite | apply put_sound

theorem State.calFails_sound {s : State} (d : Fin 5) (k : Nat) (hk : orig.Sound s) :
    orig.Sound (s.calFails d k) := by
  unfold State.calFails
  repeat' first
    | intro _
    | with_reducible first
      | assumption | apply count_sound | apply put_sound | apply raise_sound

theorem State.calResult_sound {s : State} (d : Fin 5) (p : Nat) (l : List Int) (hk : orig.Sound s) :
    orig.Sound (s.calResult d p l) := by
  unfold State.calResult
  repeat' first
    | intro _
    | with_reducible first
      | assumption | apply sound_ite | apply calFails_sound | apply count_sound | apply onCal_sound | apply put_sound
      | apply sound_foldl
    | simp only [sound_mk, parts_sound] | split | dsimp only

theorem State.calStart_sound {s : State} (d : Fin 5) (ports : List Nat) (hk : orig.Sound s) :
    orig.Sound (s.calStart d ports) := by
  unfold State.calStart
  repeat' first
    | intro _
    | with_reducible first
      | assumption | apply sound_ite | apply calFails_sound | apply calResult_sound | apply calState_sound
      | apply draw_sound | apply onCal_sound | apply put_sound | apply putS_sound | apply when_sound
    | simp only [sound_mk, parts_sound] | split

/-! ## Commands -/

theorem execCalRun_sound {s : State} (d : Fin 5) (p : Fin 4) (h : orig.Sound s) :
    Keeps orig (execCalRun d p s) := ifUp_sound _ (fun _ ht => State.calStart_sound _ _ ht) h

theorem State.calTriggers_sound {s : State} (hk : orig.Sound s) :
    orig.Sound (s.calTriggers) := by
  unfold State.calTriggers
  repeat' first
    | intro _
    | with_reducible first
      | assumption | apply calStart_sound | apply when_sound | apply sound_foldl

theorem State.calMeasured_sound {s : State} (d : Fin 5) (result : Option (List Int)) (hk : orig.Sound s) :
    orig.Sound (s.calMeasured d result) := by
  unfold State.calMeasured
  repeat' first
    | intro _
    | with_reducible first
      | assumption | apply sound_ite | apply calFails_sound | apply calResult_sound | apply calState_sound
      | apply onCal_sound | apply onDram_sound
    | simp only [sound_mk, parts_sound] | split

theorem execCalMeasureDone_sound {s : State} (d : Fin 5) (result : Option (List Int)) (h : orig.Sound s) :
    Keeps orig (execCalMeasureDone d result s) := ifUp_sound _ (fun _ ht => State.calMeasured_sound _ _ ht) h

theorem State.stepAngle_sound {s : State} (target : Int) (hk : orig.Sound s) :
    orig.Sound (s.stepAngle target) := by
  unfold State.stepAngle
  repeat' first
    | intro _
    | with_reducible first
      | assumption | apply sound_ite | apply put_sound
    | simp only [sound_mk, parts_sound]

theorem State.calStepPort_sound {s : State} (d : Fin 5) (p : Nat) (target : List Int) (hk : orig.Sound s) :
    orig.Sound (s.calStepPort d p target) := by
  unfold State.calStepPort
  repeat' first
    | intro _
    | with_reducible first
      | assumption | apply sound_ite | apply onCal_sound | apply putS_sound | apply raise_sound | apply stepAngle_sound
      | apply sound_foldl
    | simp only [sound_mk, parts_sound] | split

theorem State.calApply_sound {s : State} (d : Fin 5) (hk : orig.Sound s) :
    orig.Sound (s.calApply d) := by
  unfold State.calApply
  repeat' first
    | intro _
    | with_reducible first
      | assumption | apply sound_ite | apply calState_sound | apply calStepPort_sound | apply onCal_sound | apply when_sound
      | apply sound_foldl
    | simp only [sound_mk, parts_sound] | split | dsimp only

theorem execCalApplyStep_sound {s : State} (d : Fin 5) (h : orig.Sound s) :
    Keeps orig (execCalApplyStep d s) := ifUp_sound _ (fun _ ht => State.calApply_sound _ ht) h

theorem execCalClr_sound {s : State} (d : Fin 5) (h : orig.Sound s) :
    Keeps orig (execCalClr d s) := ifUp_sound _ (fun _ ht => State.setReg_sound _ _ ht) h

theorem State.calStop_sound {s : State} (hk : orig.Sound s) :
    orig.Sound (s.calStop) := by
  unfold State.calStop
  repeat' first
    | intro _
    | with_reducible first
      | assumption | apply calState_sound | apply onCal_sound | apply sound_foldl

theorem State.modelRefused_sound {s : State} (hk : orig.Sound s) :
    orig.Sound (s.modelRefused) := by
  unfold State.modelRefused
  repeat' first
    | intro _
    | with_reducible first
      | assumption | apply put_sound | apply raise_sound | apply store_sound
    | simp only [sound_mk, parts_sound]

theorem State.modelCopy_sound {s : State} (ecc : List EccHit) (h : orig.Sound s) : orig.Sound (s.modelCopy ecc).2 :=
  store_sound _ _ (dramRead_sound _ _ _ h)

theorem State.modelCheck_sound {s : State} (bs : List Byte) (hk : orig.Sound s) :
    orig.Sound (s.modelCheck bs) := by
  unfold State.modelCheck
  repeat' first
    | intro _
    | with_reducible first
      | assumption | apply sound_ite | apply modelRefused_sound | apply put_sound | apply raise_sound

theorem State.modelLoad_sound {s : State} (hk : orig.Sound s) :
    orig.Sound (s.modelLoad) := by
  unfold State.modelLoad
  repeat' first
    | intro _
    | with_reducible first
      | assumption | apply sound_ite | apply hold_sound | apply modelRefused_sound | apply put_sound | apply when_sound

theorem execCalModelLoad_sound {s : State} (h : orig.Sound s) :
    Keeps orig (execCalModelLoad s) := ifUp_sound _ (fun _ ht => State.modelLoad_sound ht) h

theorem State.modelLoaded_sound {s : State} (ecc : List EccHit) (hk : orig.Sound s) :
    orig.Sound (s.modelLoaded ecc) := by
  unfold State.modelLoaded
  repeat' first
    | intro _
    | with_reducible first
      | assumption | apply sound_ite | apply modelCheck_sound | apply modelCopy_sound | apply put_sound | apply when_sound
      | apply sound_foldl
    | simp only [sound_mk, parts_sound] | split | dsimp only

theorem execCalModelLoadDone_sound {s : State} (ecc : List EccHit) (h : orig.Sound s) :
    Keeps orig (execCalModelLoadDone ecc s) := ifUp_sound _ (fun _ ht => State.modelLoaded_sound _ ht) h

theorem State.modelReload_sound {s : State} (ecc : List EccHit) (hk : orig.Sound s) :
    orig.Sound (s.modelReload ecc) := by
  unfold State.modelReload
  repeat' first
    | intro _
    | with_reducible first
      | assumption | apply sound_ite | apply modelCheck_sound | apply modelCopy_sound | apply modelRefused_sound
      | apply sound_foldl
    | simp only [sound_mk, parts_sound] | split | dsimp only

end Sys2Proof.Machine
end

