-- ==== Sys2Proof/Laws/EventCmd.lean ====
section
/-! SUPPORT. Every operation of Machine/EventCmd.lean keeps soundness. -/

namespace Sys2Proof.Machine

variable {orig : State}

/-! ## Commands -/

theorem execEventRaise_sound {s : State} (source : BitVec 10) (h : orig.Sound s) :
    Keeps orig (execEventRaise source s) := ifUp_sound _ (fun _ ht => State.raise_sound _ ht) h

theorem State.clearStatus_sound {s : State} (g : Nat) (value together : Word) (hk : orig.Sound s) :
    orig.Sound (s.clearStatus g value together) := by
  unfold State.clearStatus
  repeat' first
    | intro _
    | with_reducible first
      | assumption | apply raise_sound | apply setReg_sound | apply sound_foldl
    | simp only [sound_mk, parts_sound]

theorem execEvtStatClear_sound {s : State} (g : Fin 32) (value : Word) (together : Word) (h : orig.Sound s) :
    Keeps orig (execEvtStatClear g value together s) := ifUp_sound _ (fun _ ht => State.clearStatus_sound _ _ _ ht) h

theorem State.writeEnable_sound {s : State} (g : Nat) (value : Word) (hk : orig.Sound s) :
    orig.Sound (s.writeEnable g value) := by
  unfold State.writeEnable
  repeat' first
    | intro _
    | with_reducible first
      | assumption | apply deliver_sound | apply raise_sound | apply setReg_sound | apply sound_foldl

theorem execEvtEnableWrite_sound {s : State} (g : Fin 32) (value : Word) (h : orig.Sound s) :
    Keeps orig (execEvtEnableWrite g value s) := ifUp_sound _ (fun _ ht => State.writeEnable_sound _ _ ht) h

theorem State.unmask_sound {s : State} (v : Fin 64) (hk : orig.Sound s) :
    orig.Sound (s.unmask v) := by
  unfold State.unmask
  repeat' first
    | intro _
    | with_reducible first
      | assumption | apply emit_sound | apply when_sound
    | simp only [sound_mk, parts_sound]

theorem execMsixUnmask_sound {s : State} (v : Fin 64) (h : orig.Sound s) :
    Keeps orig (execMsixUnmask v s) := ifUp_sound _ (fun _ ht => State.unmask_sound _ ht) h

theorem execEventNRelease_sound {s : State} (h : orig.Sound s) :
    Keeps orig (execEventNRelease s) := by
  unfold execEventNRelease
  repeat' first
    | intro _
    | with_reducible first
      | assumption | apply ifOn_sound | apply State.when_sound
    | simp only [sound_mk, parts_sound]

end Sys2Proof.Machine
end

