-- ==== Sys2Proof/Laws/HostIf.lean ====
section
/-! SUPPORT. Every operation of Machine/HostIf.lean keeps soundness. -/

namespace Sys2Proof.Machine

variable {orig : State}

theorem State.pcieDown_sound {s : State} (hk : orig.Sound s) :
    orig.Sound (s.pcieDown) := by
  unfold State.pcieDown
  repeat' first
    | intro _
    | with_reducible first
      | assumption | apply put_sound | apply raise_sound | apply when_sound | apply sound_foldl
    | simp only [sound_mk, parts_sound]

theorem State.pcieChange_sound {s : State} (kind : PcieChange) (hk : orig.Sound s) :
    orig.Sound (s.pcieChange kind) := by
  unfold State.pcieChange
  repeat' first
    | intro _
    | with_reducible first
      | assumption | apply pcieDown_sound | apply raise_sound | apply raiseIf_sound | apply when_sound
    | simp only [sound_mk, parts_sound] | split

theorem execPcieLinkChange_sound {s : State} (kind : PcieChange) (h : orig.Sound s) :
    Keeps orig (execPcieLinkChange kind s) := ifUp_sound _ (fun _ ht => State.pcieChange_sound _ ht) h

theorem execPcieUncorrectableError_sound {s : State} (h : orig.Sound s) :
    Keeps orig (execPcieUncorrectableError s) := ifUp_sound _ (fun _ ht => State.raise_sound _ ht) h

theorem State.ingestStop_sound {s : State} (r : Fin 4) (hk : orig.Sound s) :
    orig.Sound (s.ingestStop r) := by
  unfold State.ingestStop
  repeat' first
    | intro _
    | with_reducible first
      | assumption | apply put_sound | apply raise_sound

theorem State.ingest_sound {s : State} (r : Fin 4) (desc data : List Byte) (ok : Bool) (ecc : List EccHit) (hk : orig.Sound s) :
    orig.Sound (s.ingest r desc data ok ecc) := by
  unfold State.ingest
  repeat' first
    | intro _
    | with_reducible first
      | assumption | apply sound_ite | apply ingestStop_sound | apply put_sound | apply raiseIf_sound | apply when_sound
      | apply writeAny_sound | apply sound_foldl
    | simp only [sound_mk, parts_sound] | split | dsimp only

theorem execHostDmaDescriptor_sound {s : State} (r : Fin 4) (desc : List Byte) (data : List Byte) (ok : Bool) (ecc : List EccHit) (h : orig.Sound s) :
    Keeps orig (execHostDmaDescriptor r desc data ok ecc s) := ifUp_sound _ (fun _ ht => State.ingest_sound _ _ _ _ _ ht) h

theorem execHostDmaDisable_sound {s : State} (r : Fin 4) (h : orig.Sound s) :
    Keeps orig (execHostDmaDisable r s) := ifUp_sound _ (fun _ ht => State.put_sound _ _ ht) h

theorem execAvsbusStatusAlert_sound {s : State} (h : orig.Sound s) :
    Keeps orig (execAvsbusStatusAlert s) := ifUp_sound _ (fun _ ht => State.raise_sound _ ht) h

theorem execQspiTransferDone_sound {s : State} (h : orig.Sound s) :
    Keeps orig (execQspiTransferDone s) := ifUp_sound _ (fun _ ht => State.raise_sound _ ht) h

theorem Fuses.le_program {f g : Fuses} (field : FuseField) (i : Nat) (h : f.le g) : f.le (g.program field i) := by
  intro k j hb
  have hb := h k j hb
  cases field <;> cases k <;> simp_all [Fuses.bit, Fuses.program]

theorem State.programFuse_sound {s : State} (field : FuseField) (i : Nat)
    (h : orig.Sound s) : orig.Sound (s.programFuse field i) :=
  when_sound _ _ (fun t ht => raise_sound _
    (show orig.Sound { t with fuses := t.fuses.program field i } from
      ⟨ht.regs, ht.act, ht.mem, ht.queue, Fuses.le_program field i ht.fuses⟩)) h

/-! ## Commands -/

theorem execFuseProgram_sound {s : State} (field : FuseField) (bit : Nat) (h : orig.Sound s) :
    Keeps orig (execFuseProgram field bit s) := ifUp_sound _ (fun _ ht => State.programFuse_sound _ _ ht) h

theorem execJtagAttach_sound {s : State} (h : orig.Sound s) :
    Keeps orig (execJtagAttach s) := by
  unfold execJtagAttach
  repeat' first
    | intro _
    | with_reducible first
      | assumption | apply ifUp_sound | apply State.raiseIf_sound

end Sys2Proof.Machine
end

