-- ==== Sys2Proof/Laws/MgmtSend.lean ====
section
/-! SUPPORT. Every operation of Machine/MgmtSend.lean keeps soundness. -/

namespace Sys2Proof.Machine

variable {orig : State}

theorem State.routeMgmt_sound {s : State} (here : State → List Byte → State)
    (hh : ∀ t bs, orig.Sound t → orig.Sound (here t bs)) (up : Bool) (bs : List Byte) (h : orig.Sound s) :
    orig.Sound (s.routeMgmt here up bs) := by
  unfold State.routeMgmt
  split
  · exact hh _ _ h
  · exact routeDrop_sound (fun _ _ h => raise_sound _ h) h
  · exact enqueue_sound (fun _ _ h => raise_sound _ h) _ _ _ h

theorem State.sendRequest_sound {s : State} (here : State → List Byte → State)
    (hh : ∀ t bs, orig.Sound t → orig.Sound (here t bs)) (h : orig.Sound s) : orig.Sound (State.sendRequest here s) :=
  routeMgmt_sound here hh _ _ (put_sound _ _ h)

theorem State.holdHere_sound {s : State} (bs : List Byte) (hk : orig.Sound s) :
    orig.Sound (s.holdHere bs) := by
  unfold State.holdHere
  repeat' first
    | intro _
    | with_reducible first
      | assumption | apply onPort_sound

theorem State.rawArrives_sound {s : State} (data : List Byte) (hk : orig.Sound s) :
    orig.Sound (s.rawArrives data) := by
  unfold State.rawArrives
  repeat' first
    | intro _
    | with_reducible first
      | assumption | apply sound_ite | apply put_sound | apply raise_sound | apply requestWrite_sound | apply when_sound
      | apply sound_foldl
    | simp only [sound_mk, parts_sound] | split | dsimp only

/-! ## Commands -/

theorem execRawPacketRx_sound {s : State} (p : Fin 4) (data : List Byte) (h : orig.Sound s) :
    Keeps orig (execRawPacketRx p data s) := by
  unfold execRawPacketRx
  repeat' first
    | intro _
    | with_reducible first
      | assumption | apply ifUp_sound | apply State.rawArrives_sound | apply State.when_sound

theorem State.writeRawRptr_sound {s : State} (value : Word) (hk : orig.Sound s) :
    orig.Sound (s.writeRawRptr value) := by
  unfold State.writeRawRptr
  repeat' first
    | intro _
    | with_reducible first
      | assumption | apply sound_ite | apply onPort_sound | apply put_sound
    | simp only [sound_mk, parts_sound] | split

theorem execRawRptrWrite_sound {s : State} (value : Word) (h : orig.Sound s) :
    Keeps orig (execRawRptrWrite value s) := ifUp_sound _ (fun _ ht => State.writeRawRptr_sound _ ht) h

end Sys2Proof.Machine
end

