-- ==== Sys2Proof/Laws/Sequencer.lean ====
section
/-! SUPPORT. Every operation of Machine/Sequencer.lean keeps soundness. -/

namespace Sys2Proof.Machine

variable {orig : State}

theorem State.flow_sound {s : State} (t : Fin 16) (op sA : BitVec 5) (off : BitVec 16) (legal : Bool)
    (f : Thread → State → ThreadEffect) (h : orig.Sound s) (hf : ∀ p u, orig.Sound u → (f p u).Sound orig) :
    orig.Sound (s.flow t op sA off legal f) := threadIssue_sound t _ legal f h hf

theorem State.flowIf_sound {s : State} (t : Fin 16) (op sA : BitVec 5) (off : BitVec 16) (c : Word → Bool) (hk : orig.Sound s) :
    orig.Sound (s.flowIf t op sA off c) := by
  unfold State.flowIf
  repeat' first
    | intro _
    | with_reducible first
      | assumption | apply sound_ite | apply flow_sound | apply sound_foldl
    | simp only [sound_mk, parts_sound] | split | simp only [Effect.Sound, ThreadEffect.Sound, onRegs, onPair] | exact trivial
    | dsimp only

theorem execFlowB_sound {s : State} (t : Fin 16) (sA : BitVec 5) (off : BitVec 16) (h : orig.Sound s) :
    Keeps orig (execFlowB t sA off s) := by
  unfold execFlowB
  repeat' first
    | intro _
    | with_reducible first
      | assumption | apply ifUp_sound | apply ifOn_sound | apply next_sound | apply sound_ite | apply State.flow_sound
      | apply sound_foldl
    | simp only [sound_mk, parts_sound] | split | simp only [Effect.Sound, onRegs, onPair] | simp only [ThreadEffect.Sound]
    | exact trivial | dsimp only

theorem execFlowBz_sound {s : State} (t : Fin 16) (sA : BitVec 5) (off : BitVec 16) (h : orig.Sound s) :
    Keeps orig (execFlowBz t sA off s) := by
  unfold execFlowBz
  repeat' first
    | intro _
    | with_reducible first
      | assumption | apply ifUp_sound | apply ifOn_sound | apply next_sound | apply sound_ite | apply State.flowIf_sound
      | apply sound_foldl
    | simp only [sound_mk, parts_sound] | split | simp only [Effect.Sound, onRegs, onPair] | simp only [ThreadEffect.Sound]
    | exact trivial | dsimp only

theorem execFlowBnz_sound {s : State} (t : Fin 16) (sA : BitVec 5) (off : BitVec 16) (h : orig.Sound s) :
    Keeps orig (execFlowBnz t sA off s) := by
  unfold execFlowBnz
  repeat' first
    | intro _
    | with_reducible first
      | assumption | apply ifUp_sound | apply ifOn_sound | apply next_sound | apply sound_ite | apply State.flowIf_sound
      | apply sound_foldl
    | simp only [sound_mk, parts_sound] | split | simp only [Effect.Sound, onRegs, onPair] | simp only [ThreadEffect.Sound]
    | exact trivial | dsimp only

theorem execFlowBltz_sound {s : State} (t : Fin 16) (sA : BitVec 5) (off : BitVec 16) (h : orig.Sound s) :
    Keeps orig (execFlowBltz t sA off s) := by
  unfold execFlowBltz
  repeat' first
    | intro _
    | with_reducible first
      | assumption | apply ifUp_sound | apply ifOn_sound | apply next_sound | apply sound_ite | apply State.flowIf_sound
      | apply sound_foldl
    | simp only [sound_mk, parts_sound] | split | simp only [Effect.Sound, onRegs, onPair] | simp only [ThreadEffect.Sound]
    | exact trivial | dsimp only

theorem execFlowBgez_sound {s : State} (t : Fin 16) (sA : BitVec 5) (off : BitVec 16) (h : orig.Sound s) :
    Keeps orig (execFlowBgez t sA off s) := by
  unfold execFlowBgez
  repeat' first
    | intro _
    | with_reducible first
      | assumption | apply ifUp_sound | apply ifOn_sound | apply next_sound | apply sound_ite | apply State.flowIf_sound
      | apply sound_foldl
    | simp only [sound_mk, parts_sound] | split | simp only [Effect.Sound, onRegs, onPair] | simp only [ThreadEffect.Sound]
    | exact trivial | dsimp only

theorem execFlowCall_sound {s : State} (t : Fin 16) (sA : BitVec 5) (off : BitVec 16) (h : orig.Sound s) :
    Keeps orig (execFlowCall t sA off s) := by
  unfold execFlowCall
  repeat' first
    | intro _
    | with_reducible first
      | assumption | apply ifUp_sound | apply ifOn_sound | apply next_sound | apply sound_ite | apply State.flow_sound
      | apply State.onThread_sound | apply sound_foldl
    | simp only [sound_mk, parts_sound] | split | simp only [Effect.Sound, onRegs, onPair] | simp only [ThreadEffect.Sound]
    | exact trivial | dsimp only

theorem execFlowRet_sound {s : State} (t : Fin 16) (sA : BitVec 5) (off : BitVec 16) (h : orig.Sound s) :
    Keeps orig (execFlowRet t sA off s) := by
  unfold execFlowRet
  repeat' first
    | intro _
    | with_reducible first
      | assumption | apply ifUp_sound | apply ifOn_sound | apply next_sound | apply sound_ite | apply State.flow_sound
      | apply sound_foldl
    | simp only [sound_mk, parts_sound] | split | simp only [Effect.Sound, onRegs, onPair] | simp only [ThreadEffect.Sound]
    | exact trivial | dsimp only

theorem execFlowHalt_sound {s : State} (t : Fin 16) (sA : BitVec 5) (off : BitVec 16) (h : orig.Sound s) :
    Keeps orig (execFlowHalt t sA off s) := by
  unfold execFlowHalt
  repeat' first
    | intro _
    | with_reducible first
      | assumption | apply ifUp_sound | apply ifOn_sound | apply next_sound | apply sound_ite | apply State.flow_sound
      | apply State.onThread_sound | apply sound_foldl
    | simp only [sound_mk, parts_sound] | split | simp only [Effect.Sound, onRegs, onPair] | simp only [ThreadEffect.Sound]
    | exact trivial | dsimp only

theorem execSimmLow_sound {s : State} (t : Fin 16) (sD : BitVec 5) (zero : BitVec 4) (imm : BitVec 16) (h : orig.Sound s) :
    Keeps orig (execSimmLow t sD zero imm s) := by
  unfold execSimmLow
  repeat' first
    | intro _
    | with_reducible first
      | assumption | apply ifUp_sound | apply ifOn_sound | apply next_sound | apply sound_ite | apply State.onThread_sound
      | apply State.threadIssue_sound | apply sound_foldl
    | simp only [sound_mk, parts_sound] | split | simp only [Effect.Sound, onRegs, onPair] | simp only [ThreadEffect.Sound]
    | exact trivial | dsimp only

theorem execSimmHigh_sound {s : State} (t : Fin 16) (sD : BitVec 5) (zero : BitVec 4) (imm : BitVec 16) (h : orig.Sound s) :
    Keeps orig (execSimmHigh t sD zero imm s) := by
  unfold execSimmHigh
  repeat' first
    | intro _
    | with_reducible first
      | assumption | apply ifUp_sound | apply ifOn_sound | apply next_sound | apply sound_ite | apply State.onThread_sound
      | apply State.threadIssue_sound | apply sound_foldl
    | simp only [sound_mk, parts_sound] | split | simp only [Effect.Sound, onRegs, onPair] | simp only [ThreadEffect.Sound]
    | exact trivial | dsimp only

theorem State.waits_sound {s : State} (t : Fin 16) (w : ThreadState) (h : orig.Sound s) : orig.Sound (s.waits t w) := h

theorem execAtTime_sound {s : State} (t : Fin 16) (o : Opnd) (h : orig.Sound s) :
    Keeps orig (execAtTime t o s) := by
  unfold execAtTime
  repeat' first
    | intro _
    | with_reducible first
      | assumption | apply ifUp_sound | apply ifOn_sound | apply next_sound | apply sound_ite | apply State.threadIssue_sound
      | apply State.waits_sound | apply sound_foldl
    | simp only [sound_mk, parts_sound] | split | simp only [Effect.Sound, onRegs, onPair] | simp only [ThreadEffect.Sound]
    | exact trivial | dsimp only

theorem execRdtb_sound {s : State} (t : Fin 16) (o : Opnd) (h : orig.Sound s) :
    Keeps orig (execRdtb t o s) := by
  unfold execRdtb
  repeat' first
    | intro _
    | with_reducible first
      | assumption | apply ifUp_sound | apply ifOn_sound | apply next_sound | apply sound_ite | apply State.onThread_sound
      | apply State.threadIssue_sound | apply sound_foldl
    | simp only [sound_mk, parts_sound] | split | simp only [Effect.Sound, onRegs, onPair] | simp only [ThreadEffect.Sound]
    | exact trivial | dsimp only

theorem execArm_sound {s : State} (t : Fin 16) (o : Opnd) (h : orig.Sound s) :
    Keeps orig (execArm t o s) := by
  unfold execArm
  repeat' first
    | intro _
    | with_reducible first
      | assumption | apply ifUp_sound | apply ifOn_sound | apply next_sound | apply sound_ite | apply State.armComp_sound
      | apply State.threadIssue_sound | apply sound_foldl
    | simp only [sound_mk, parts_sound] | split | simp only [Effect.Sound, onRegs, onPair] | simp only [ThreadEffect.Sound]
    | exact trivial | dsimp only

theorem execDisarm_sound {s : State} (t : Fin 16) (o : Opnd) (h : orig.Sound s) :
    Keeps orig (execDisarm t o s) := by
  unfold execDisarm
  repeat' first
    | intro _
    | with_reducible first
      | assumption | apply ifUp_sound | apply ifOn_sound | apply next_sound | apply sound_ite | apply State.disarmComp_sound
      | apply State.threadIssue_sound | apply sound_foldl
    | simp only [sound_mk, parts_sound] | split | simp only [Effect.Sound, onRegs, onPair] | simp only [ThreadEffect.Sound]
    | exact trivial | dsimp only

theorem State.waitFor_sound {s : State} (t : Fin 16) (sD : BitVec 5) (deadline : Option Word) (hk : orig.Sound s) :
    (State.waitFor s t sD deadline).Sound orig := by
  unfold State.waitFor
  repeat' first
    | intro _
    | with_reducible first
      | assumption | apply onThread_sound | apply waits_sound
    | split | simp only [Effect.Sound, ThreadEffect.Sound, onRegs, onPair]

theorem execWaitev_sound {s : State} (t : Fin 16) (o : Opnd) (h : orig.Sound s) :
    Keeps orig (execWaitev t o s) := by
  unfold execWaitev
  repeat' first
    | intro _
    | with_reducible first
      | assumption | apply ifUp_sound | apply ifOn_sound | apply next_sound | apply sound_ite | apply State.threadIssue_sound
      | apply State.waitFor_sound | apply sound_foldl
    | simp only [sound_mk, parts_sound] | split | simp only [Effect.Sound, onRegs, onPair] | simp only [ThreadEffect.Sound]
    | exact trivial | dsimp only

theorem execWaitevDeadline_sound {s : State} (t : Fin 16) (o : Opnd) (h : orig.Sound s) :
    Keeps orig (execWaitevDeadline t o s) := by
  unfold execWaitevDeadline
  repeat' first
    | intro _
    | with_reducible first
      | assumption | apply ifUp_sound | apply ifOn_sound | apply next_sound | apply sound_ite | apply State.threadIssue_sound
      | apply State.waitFor_sound | apply sound_foldl
    | simp only [sound_mk, parts_sound] | split | simp only [Effect.Sound, onRegs, onPair] | simp only [ThreadEffect.Sound]
    | exact trivial | dsimp only

theorem execSignal_sound {s : State} (t : Fin 16) (o : Opnd) (h : orig.Sound s) :
    Keeps orig (execSignal t o s) := by
  unfold execSignal
  repeat' first
    | intro _
    | with_reducible first
      | assumption | apply ifUp_sound | apply ifOn_sound | apply next_sound | apply sound_ite | apply State.raise_sound
      | apply State.threadIssue_sound | apply sound_foldl
    | simp only [sound_mk, parts_sound] | split | simp only [Effect.Sound, onRegs, onPair] | simp only [ThreadEffect.Sound]
    | exact trivial | dsimp only

theorem execYield_sound {s : State} (t : Fin 16) (o : Opnd) (h : orig.Sound s) :
    Keeps orig (execYield t o s) := by
  unfold execYield
  repeat' first
    | intro _
    | with_reducible first
      | assumption | apply ifUp_sound | apply ifOn_sound | apply next_sound | apply sound_ite | apply State.threadIssue_sound
      | apply sound_foldl
    | simp only [sound_mk, parts_sound] | split | simp only [Effect.Sound, onRegs, onPair] | simp only [ThreadEffect.Sound]
    | exact trivial | dsimp only

theorem State.wakeThread_sound {s : State} (t : Fin 16) (hk : orig.Sound s) :
    orig.Sound (s.wakeThread t) := by
  unfold State.wakeThread
  repeat' first
    | intro _
    | with_reducible first
      | assumption | apply onThread_sound | apply threadGoto_sound | apply when_sound
    | simp only [sound_mk, parts_sound] | split

/-! ## Commands -/

theorem execThreadWake_sound {s : State} (t : Fin 16) (h : orig.Sound s) :
    Keeps orig (execThreadWake t s) := ifUp_sound _ (fun _ ht => State.wakeThread_sound _ ht) h

theorem State.wordGot_sound {s : State} (a : Nat) (ecc : List EccHit) (hk : orig.Sound s) :
    orig.Sound (s.wordGot a ecc).2 := by
  unfold State.wordGot
  repeat' first
    | intro _
    | with_reducible first
      | assumption | apply sound_ite | apply draw_sound | apply eccReports_sound | apply sound_foldl
    | simp only [sound_mk, parts_sound] | split | dsimp only

theorem execLd_sound {s : State} (t : Fin 16) (o : Opnd) (ecc : List EccHit) (h : orig.Sound s) :
    Keeps orig (execLd t o ecc s) := by
  unfold execLd
  repeat' first
    | intro _
    | with_reducible first
      | assumption | apply ifUp_sound | apply ifOn_sound | apply next_sound | apply sound_ite | apply State.onThread_sound
      | apply State.threadIssue_sound | apply State.wordGot_sound | apply sound_foldl
    | simp only [sound_mk, parts_sound] | split | simp only [Effect.Sound, onRegs, onPair] | simp only [ThreadEffect.Sound]
    | exact trivial | dsimp only

theorem execSt_sound {s : State} (t : Fin 16) (o : Opnd) (h : orig.Sound s) :
    Keeps orig (execSt t o s) := by
  unfold execSt
  repeat' first
    | intro _
    | with_reducible first
      | assumption | apply ifUp_sound | apply ifOn_sound | apply next_sound | apply sound_ite | apply State.storeWord_sound
      | apply State.threadIssue_sound | apply sound_foldl
    | simp only [sound_mk, parts_sound] | split | simp only [Effect.Sound, onRegs, onPair] | simp only [ThreadEffect.Sound]
    | exact trivial | dsimp only

theorem execXchg_sound {s : State} (t : Fin 16) (o : Opnd) (ecc : List EccHit) (h : orig.Sound s) :
    Keeps orig (execXchg t o ecc s) := by
  unfold execXchg
  repeat' first
    | intro _
    | with_reducible first
      | assumption | apply ifUp_sound | apply ifOn_sound | apply next_sound | apply sound_ite | apply State.onThread_sound
      | apply State.storeWord_sound | apply State.threadIssue_sound | apply State.wordGot_sound | apply sound_foldl
    | simp only [sound_mk, parts_sound] | split | simp only [Effect.Sound, onRegs, onPair] | simp only [ThreadEffect.Sound]
    | exact trivial | dsimp only

theorem State.startThread_sound {s : State} (u : Fin 16) (pc : Word) (hk : orig.Sound s) :
    orig.Sound (s.startThread u pc) := by
  unfold State.startThread
  repeat' first
    | intro _
    | with_reducible first
      | assumption | apply onThread_sound | apply put_sound | apply threadGoto_sound | apply when_sound
    | simp only [sound_mk, parts_sound]

theorem State.stopThread_sound {s : State} (u : Fin 16) (hk : orig.Sound s) :
    orig.Sound (s.stopThread u) := by
  unfold State.stopThread
  repeat' first
    | intro _
    | with_reducible first
      | assumption | apply onThread_sound

theorem execTstart_sound {s : State} (t : Fin 16) (o : Opnd) (h : orig.Sound s) :
    Keeps orig (execTstart t o s) := by
  unfold execTstart
  repeat' first
    | intro _
    | with_reducible first
      | assumption | apply ifUp_sound | apply ifOn_sound | apply next_sound | apply sound_ite | apply State.startThread_sound
      | apply State.threadIssue_sound | apply sound_foldl
    | simp only [sound_mk, parts_sound] | split | simp only [Effect.Sound, onRegs, onPair] | simp only [ThreadEffect.Sound]
    | exact trivial | dsimp only

theorem execTstop_sound {s : State} (t : Fin 16) (o : Opnd) (h : orig.Sound s) :
    Keeps orig (execTstop t o s) := by
  unfold execTstop
  repeat' first
    | intro _
    | with_reducible first
      | assumption | apply ifUp_sound | apply ifOn_sound | apply next_sound | apply sound_ite | apply State.stopThread_sound
      | apply State.threadIssue_sound | apply sound_foldl
    | simp only [sound_mk, parts_sound] | split | simp only [Effect.Sound, onRegs, onPair] | simp only [ThreadEffect.Sound]
    | exact trivial | dsimp only

end Sys2Proof.Machine
end

