-- ==== Sys2Proof/Laws/Thermal.lean ====
section
/-! SUPPORT. Every operation of Machine/Thermal.lean keeps soundness. -/

namespace Sys2Proof.Machine

variable {orig : State}

theorem State.shutDown_sound {s : State} (sensor : Nat) (failed : Bool) (hk : orig.Sound s) :
    orig.Sound (s.shutDown sensor failed) := by
  unfold State.shutDown
  repeat' first
    | intro _
    | with_reducible first
      | assumption | apply sound_ite | apply onHv_sound | apply powerOff_sound | apply put_sound | apply putB_sound
      | apply raise_sound | apply sound_foldl
    | simp only [sound_mk, parts_sound] | split | dsimp only

theorem State.sampleOne_sound {s : State} (k : Nat) (r : Reading) (hk : orig.Sound s) :
    orig.Sound (s.sampleOne k r) := by
  unfold State.sampleOne
  repeat' first
    | intro _
    | with_reducible first
      | assumption | apply sound_ite | apply put_sound | apply raise_sound
    | simp only [sound_mk, parts_sound]

theorem State.setLull_sound {s : State} (new : Nat) (hk : orig.Sound s) :
    orig.Sound (s.setLull new) := by
  unfold State.setLull
  repeat' first
    | intro _
    | with_reducible first
      | assumption | apply sound_ite | apply put_sound | apply raise_sound | apply sound_foldl
    | simp only [sound_mk, parts_sound]

theorem State.thresholds_sound {s : State} (hk : orig.Sound s) :
    orig.Sound (s.thresholds) := by
  unfold State.thresholds
  repeat' first
    | intro _
    | with_reducible first
      | assumption | apply sound_ite | apply put_sound | apply putB_sound | apply putS_sound | apply raiseIf_sound
      | apply setLull_sound | apply shutDown_sound
    | simp only [sound_mk, parts_sound]

theorem State.sensorSample_sound {s : State} (readings : List Reading) (hk : orig.Sound s) :
    orig.Sound (s.sensorSample readings) := by
  unfold State.sensorSample
  repeat' first
    | intro _
    | with_reducible first
      | assumption | apply calTriggers_sound | apply sampleOne_sound | apply thresholds_sound | apply when_sound
      | apply sound_foldl
    | simp only [sound_mk, parts_sound]

/-! ## Commands -/

theorem execSensorSample_sound {s : State} (readings : List Reading) (h : orig.Sound s) :
    Keeps orig (execSensorSample readings s) := ifUp_sound _ (fun _ ht => State.sensorSample_sound _ ht) h

theorem State.extPoll_sound {s : State} (k : Fin 8) (raw : Option (BitVec 16)) (hk : orig.Sound s) :
    orig.Sound (s.extPoll k raw) := by
  unfold State.extPoll
  repeat' first
    | intro _
    | with_reducible first
      | assumption | apply sound_ite | apply put_sound | apply putS_sound | apply raise_sound | apply raiseIf_sound
      | apply when_sound
    | simp only [sound_mk, parts_sound] | split

theorem execExtSensorPoll_sound {s : State} (k : Fin 8) (raw : Option (BitVec 16)) (h : orig.Sound s) :
    Keeps orig (execExtSensorPoll k raw s) := ifUp_sound _ (fun _ ht => State.extPoll_sound _ _ ht) h

theorem State.retrySensor_sound {s : State} (ext : Bool) (k : Fin 32) (hk : orig.Sound s) :
    orig.Sound (s.retrySensor ext k) := by
  unfold State.retrySensor
  repeat' first
    | intro _
    | with_reducible first
      | assumption | apply sound_ite | apply put_sound

theorem execSensorRetry_sound {s : State} (ext : Bool) (k : Fin 32) (h : orig.Sound s) :
    Keeps orig (execSensorRetry ext k s) := ifUp_sound _ (fun _ ht => State.retrySensor_sound _ _ ht) h

theorem State.writeThr_sound {s : State} (m : Fin 3) (value : Word) (hk : orig.Sound s) :
    orig.Sound (s.writeThr m value) := by
  unfold State.writeThr
  repeat' first
    | intro _
    | with_reducible first
      | assumption | apply sound_ite | apply put_sound | apply raiseIf_sound | apply setReg_sound
    | simp only [sound_mk, parts_sound]

theorem execTmonThrWrite_sound {s : State} (m : Fin 3) (value : Word) (h : orig.Sound s) :
    Keeps orig (execTmonThrWrite m value s) := ifUp_sound _ (fun _ ht => State.writeThr_sound _ _ ht) h

theorem State.writeTmonCfg_sound {s : State} (value : Word) (hk : orig.Sound s) :
    orig.Sound (s.writeTmonCfg value) := by
  unfold State.writeTmonCfg
  repeat' first
    | intro _
    | with_reducible first
      | assumption | apply sound_ite | apply put_sound | apply raiseIf_sound
    | simp only [sound_mk, parts_sound]

theorem execTmonLock_sound {s : State} (value : Word) (h : orig.Sound s) :
    Keeps orig (execTmonLock value s) := ifUp_sound _ (fun _ ht => State.writeTmonCfg_sound _ ht) h

end Sys2Proof.Machine
end

