-- ==== Sys2Proof/Laws/Power.lean ====
section
/-! SUPPORT. Every operation of Machine/Power.lean keeps soundness. -/

namespace Sys2Proof.Machine

variable {orig : State}

theorem State.onPwr_sound {s : State} (f : PowerUnit → PowerUnit) (hk : orig.Sound s) :
    orig.Sound (s.onPwr f) := by
  unfold State.onPwr
  repeat' first
    | intro _
    | with_reducible first
      | assumption
    | simp only [sound_mk, parts_sound]

theorem overAll_sound {s : State} {n : Nat} (l : List (Fin n)) (f : State → Fin n → State)
    (hf : ∀ t x, orig.Sound t → orig.Sound (f t x)) (h : orig.Sound s) : orig.Sound (overAll l f s) := sound_foldl hf l h

theorem State.opDone_sound {s : State} (hk : orig.Sound s) :
    orig.Sound (s.opDone) := by
  unfold State.opDone
  repeat' first
    | intro _
    | with_reducible first
      | assumption | apply onPwr_sound | apply put_sound | apply raise_sound
    | simp only [sound_mk, parts_sound]

theorem State.opStart_sound {s : State} (hk : orig.Sound s) :
    orig.Sound (s.opStart) := by
  unfold State.opStart
  repeat' first
    | intro _
    | with_reducible first
      | assumption | apply sound_ite | apply onPwr_sound | apply opDone_sound | apply put_sound
    | simp only [sound_mk, parts_sound]

theorem State.laterTarget_sound {s : State} (hk : orig.Sound s) :
    orig.Sound (s.laterTarget) := by
  unfold State.laterTarget
  repeat' first
    | intro _
    | with_reducible first
      | assumption | apply sound_ite | apply onPwr_sound | apply sound_foldl
    | simp only [sound_mk, parts_sound] | split | dsimp only

theorem State.writeTarget_sound {s : State} (target : Nat) (hk : orig.Sound s) :
    orig.Sound (s.writeTarget target) := by
  unfold State.writeTarget
  repeat' first
    | intro _
    | with_reducible first
      | assumption | apply sound_ite | apply laterTarget_sound | apply opStart_sound | apply put_sound | apply sound_foldl
    | simp only [sound_mk, parts_sound] | split | dsimp only

theorem execOpPointChange_sound {s : State} (target : BitVec 4) (h : orig.Sound s) :
    Keeps orig (execOpPointChange target s) := ifOn_sound _ (fun _ ht => State.writeTarget_sound _ ht) h

theorem State.avsRead_sound {s : State} (mv : Nat) (hk : orig.Sound s) :
    orig.Sound (s.avsRead mv) := by
  unfold State.avsRead
  repeat' first
    | intro _
    | with_reducible first
      | assumption | apply sound_ite | apply onPwr_sound | apply opDone_sound | apply opStart_sound | apply when_sound
    | simp only [sound_mk, parts_sound]

theorem execAvsReadback_sound {s : State} (mv : Nat) (h : orig.Sound s) :
    Keeps orig (execAvsReadback mv s) := ifUp_sound _ (fun _ ht => State.avsRead_sound _ ht) h

theorem State.opEnd_sound {s : State} (hk : orig.Sound s) :
    orig.Sound (s.opEnd) := by
  unfold State.opEnd
  repeat' first
    | intro _
    | with_reducible first
      | assumption | apply put_sound

theorem State.avsTimeout_sound {s : State} (hk : orig.Sound s) :
    orig.Sound (s.avsTimeout) := by
  unfold State.avsTimeout
  repeat' first
    | intro _
    | with_reducible first
      | assumption | apply onPwr_sound | apply opEnd_sound | apply put_sound | apply raise_sound | apply when_sound

theorem execAvsTimeout_sound {s : State} (h : orig.Sound s) :
    Keeps orig (execAvsTimeout s) := ifUp_sound _ (fun _ ht => State.avsTimeout_sound ht) h

theorem State.askEntry_sound {s : State} (hk : orig.Sound s) :
    orig.Sound (s.askEntry) := by
  unfold State.askEntry
  repeat' first
    | intro _
    | with_reducible first
      | assumption | apply onPwr_sound | apply raise_sound | apply when_sound

theorem State.idleTimeout_sound {s : State} (hk : orig.Sound s) :
    orig.Sound (s.idleTimeout) := by
  unfold State.idleTimeout
  repeat' first
    | intro _
    | with_reducible first
      | assumption | apply askEntry_sound | apply when_sound
    | simp only [sound_mk, parts_sound]

/-! ## Commands -/

theorem execIdleTimeout_sound {s : State} (h : orig.Sound s) :
    Keeps orig (execIdleTimeout s) := ifUp_sound _ (fun _ ht => State.idleTimeout_sound ht) h

theorem State.sleep_sound {s : State} (hk : orig.Sound s) :
    orig.Sound (s.sleep) := by
  unfold State.sleep
  repeat' first
    | intro _
    | with_reducible first
      | assumption | apply askEntry_sound | apply put_sound | apply raise_sound
    | split

theorem execSleep_sound {s : State} (h : orig.Sound s) :
    Keeps orig (execSleep s) := ifUp_sound _ (fun _ ht => State.sleep_sound ht) h

theorem State.entryHold_sound {s : State} (hk : orig.Sound s) :
    orig.Sound (s.entryHold) := by
  unfold State.entryHold
  repeat' first
    | intro _
    | with_reducible first
      | assumption | apply sound_ite | apply applyHold_sound | apply put_sound | apply setHold_sound

theorem State.stopWork_sound {s : State} (hk : orig.Sound s) :
    orig.Sound (s.stopWork) := by
  unfold State.stopWork
  repeat' first
    | intro _
    | with_reducible first
      | assumption | apply sound_ite | apply abandon_sound | apply endPush_sound | apply onRing_sound | apply put_sound
      | apply overAll_sound | apply sound_foldl
    | simp only [sound_mk, parts_sound] | split | dsimp only

theorem State.dramToCellar_sound {s : State} (hk : orig.Sound s) :
    orig.Sound (s.dramToCellar) := by
  unfold State.dramToCellar
  repeat' first
    | intro _
    | with_reducible first
      | assumption | apply sound_ite | apply discardStep_sound | apply dramSleep_sound | apply onDram_sound | apply put_sound
      | apply raise_sound | apply setActive_sound | apply when_sound | apply sound_foldl
    | simp only [sound_mk, parts_sound] | split | dsimp only

theorem State.enterCellar_sound {s : State} (hk : orig.Sound s) :
    orig.Sound (s.enterCellar) := by
  unfold State.enterCellar
  repeat' first
    | intro _
    | with_reducible first
      | assumption | apply sound_ite | apply calStop_sound | apply dramToCellar_sound | apply entryHold_sound
      | apply laterTarget_sound | apply onPwr_sound | apply opEnd_sound | apply put_sound | apply settleDown_sound
      | apply stopWork_sound | apply when_sound | apply sound_foldl
    | simp only [sound_mk, parts_sound] | split | dsimp only

theorem execCellarEntry_sound {s : State} (h : orig.Sound s) :
    Keeps orig (execCellarEntry s) := ifUp_sound _ (fun _ ht => State.enterCellar_sound ht) h

theorem State.portsToCellar_sound {s : State} (hk : orig.Sound s) :
    orig.Sound (s.portsToCellar) := by
  unfold State.portsToCellar
  repeat' first
    | intro _
    | with_reducible first
      | assumption | apply sound_ite | apply discardQueues_sound | apply ethLink_sound | apply leaveUp_sound
      | apply onPort_sound | apply panelDown_sound | apply pcieDown_sound | apply setLink_sound | apply overAll_sound
      | apply sound_foldl
    | simp only [sound_mk, parts_sound] | split | dsimp only

theorem State.pllsStop_sound {s : State} (hk : orig.Sound s) :
    orig.Sound (s.pllsStop) := by
  unfold State.pllsStop
  repeat' first
    | intro _
    | with_reducible first
      | assumption | apply onPll_sound | apply put_sound | apply relock_sound | apply overAll_sound

theorem State.loseRegs_sound {s : State} (hk : orig.Sound s) :
    orig.Sound (s.loseRegs) := by
  unfold State.loseRegs
  repeat' first
    | intro _
    | with_reducible first
      | assumption | apply losePressRegs_sound | apply onThread_sound | apply overAll_sound
    | simp only [sound_mk, parts_sound]

theorem State.loseStores_sound {s : State} (hk : orig.Sound s) :
    orig.Sound (s.loseStores) := by
  unfold State.loseStores
  repeat' first
    | intro _
    | with_reducible first
      | assumption | apply lose_sound | apply sound_foldl
    | simp only [sound_mk, parts_sound]

theorem State.startWake_sound {s : State} (hk : orig.Sound s) :
    orig.Sound (s.startWake) := by
  unfold State.startWake
  repeat' first
    | intro _
    | with_reducible first
      | assumption | apply sound_ite | apply onPwr_sound | apply put_sound | apply sound_foldl
    | simp only [sound_mk, parts_sound] | split | dsimp only

theorem State.cellarDone_sound {s : State} (hk : orig.Sound s) :
    orig.Sound (s.cellarDone) := by
  unfold State.cellarDone
  repeat' first
    | intro _
    | with_reducible first
      | assumption | apply sound_ite | apply enterTb_sound | apply loseRegs_sound | apply loseStores_sound | apply onPwr_sound
      | apply pllsStop_sound | apply portsToCellar_sound | apply setBackup_sound | apply startWake_sound | apply when_sound
      | apply sound_foldl
    | simp only [sound_mk, parts_sound] | split | dsimp only

theorem execCellarEntryComplete_sound {s : State} (h : orig.Sound s) :
    Keeps orig (execCellarEntryComplete s) := ifUp_sound _ (fun _ ht => State.cellarDone_sound ht) h

theorem State.wakeBy_sound {s : State} (k port : Nat) (hk : orig.Sound s) :
    orig.Sound (s.wakeBy k port) := by
  unfold State.wakeBy
  repeat' first
    | intro _
    | with_reducible first
      | assumption | apply sound_ite | apply onPwr_sound | apply startWake_sound
    | simp only [sound_mk, parts_sound] | split

theorem execWakePin_sound {s : State} (h : orig.Sound s) :
    Keeps orig (execWakePin s) := ifOn_sound _ (fun _ ht => State.wakeBy_sound _ _ ht) h

theorem State.alarm_sound {s : State} (hk : orig.Sound s) :
    orig.Sound (s.alarm) := by
  unfold State.alarm
  repeat' first
    | intro _
    | with_reducible first
      | assumption | apply onPwr_sound | apply wakeBy_sound | apply when_sound

theorem execWakeAlarm_sound {s : State} (h : orig.Sound s) :
    Keeps orig (execWakeAlarm s) := ifOn_sound _ (fun _ ht => State.alarm_sound ht) h

theorem State.patrol_sound {s : State} (die panel : List Reading) (lux : BitVec 16) (hk : orig.Sound s) :
    orig.Sound (s.patrol die panel lux) := by
  unfold State.patrol
  repeat' first
    | intro _
    | with_reducible first
      | assumption | apply sound_ite | apply onPwr_sound | apply shutDown_sound | apply wakeBy_sound | apply when_sound
    | simp only [sound_mk, parts_sound]

theorem execBreezePatrol_sound {s : State} (die : List Reading) (panel : List Reading) (lux : BitVec 16) (h : orig.Sound s) :
    Keeps orig (execBreezePatrol die panel lux s) := ifOn_sound _ (fun _ ht => State.patrol_sound _ _ _ ht) h

theorem State.stepWork_sound {s : State} (k : Nat) (ecc : List EccHit) (hk : orig.Sound s) :
    orig.Sound (s.stepWork k ecc) := by
  unfold State.stepWork
  repeat' first
    | intro _
    | with_reducible first
      | assumption | apply sound_ite | apply enterTb_sound | apply modelReload_sound | apply onHv_sound | apply onPll_sound
      | apply onPwr_sound | apply panelStart_sound | apply powerOn_sound | apply relock_sound | apply startTraining_sound
      | apply overAll_sound | apply sound_foldl
    | simp only [sound_mk, parts_sound] | split | dsimp only

theorem State.slip_sound {s : State} (k : Nat) (hk : orig.Sound s) :
    orig.Sound (s.slip k) := by
  unfold State.slip
  repeat' first
    | intro _
    | with_reducible first
      | assumption | apply sound_ite | apply onPwr_sound | apply put_sound | apply raise_sound | apply when_sound
      | apply sound_foldl
    | simp only [sound_mk, parts_sound] | split | dsimp only

theorem State.wakeStep_sound {s : State} (complete : Bool) (ecc : List EccHit) (hk : orig.Sound s) :
    orig.Sound (s.wakeStep complete ecc) := by
  unfold State.wakeStep
  repeat' first
    | intro _
    | with_reducible first
      | assumption | apply sound_ite | apply onPwr_sound | apply slip_sound | apply stepWork_sound | apply when_sound
      | apply sound_foldl
    | simp only [sound_mk, parts_sound] | split | dsimp only

theorem execWakeStepEnd_sound {s : State} (complete : Bool) (ecc : List EccHit) (h : orig.Sound s) :
    Keeps orig (execWakeStepEnd complete ecc s) := ifUp_sound _ (fun _ ht => State.wakeStep_sound _ _ ht) h

theorem State.wakeDone_sound {s : State} (hk : orig.Sound s) :
    orig.Sound (s.wakeDone) := by
  unfold State.wakeDone
  repeat' first
    | intro _
    | with_reducible first
      | assumption | apply sound_ite | apply onPwr_sound | apply onThread_sound | apply opStart_sound | apply put_sound
      | apply raise_sound | apply restartIdle_sound | apply startThread_sound | apply when_sound | apply sound_foldl
    | simp only [sound_mk, parts_sound] | split | dsimp only

theorem execWakeComplete_sound {s : State} (h : orig.Sound s) :
    Keeps orig (execWakeComplete s) := ifUp_sound _ (fun _ ht => State.wakeDone_sound ht) h

end Sys2Proof.Machine
end

