-- ==== Sys2Proof/Laws/Rmon.lean ====
section
/-! SUPPORT. Every operation of Machine/Rmon.lean keeps soundness. -/

namespace Sys2Proof.Machine

variable {orig : State}

theorem State.windowEnd_sound {s : State} (hk : orig.Sound s) :
    orig.Sound s.windowEnd := by
  unfold State.windowEnd
  repeat' first
    | intro _
    | with_reducible first
      | assumption | apply sound_ite
    | simp only [sound_mk, parts_sound]

/-! ## Commands -/

theorem execRmonWindowEnd_sound {s : State} (h : orig.Sound s) :
    Keeps orig (execRmonWindowEnd s) := by
  unfold execRmonWindowEnd
  repeat' first
    | intro _
    | with_reducible first
      | assumption | apply ifUp_sound | apply State.when_sound | apply State.windowEnd_sound

theorem State.clearMin_sound {s : State} (hk : orig.Sound s) :
    orig.Sound (s.clearMin) := by
  unfold State.clearMin
  repeat' first
    | intro _
    | with_reducible first
      | assumption
    | simp only [sound_mk, parts_sound]

theorem execRmonClrMin_sound {s : State} (h : orig.Sound s) :
    Keeps orig (execRmonClrMin s) := ifUp_sound _ (fun _ ht => State.clearMin_sound ht) h

theorem State.writeRmonCtl_sound {s : State} (v : Word) (hk : orig.Sound s) :
    orig.Sound (s.writeRmonCtl v) := by
  unfold State.writeRmonCtl
  repeat' first
    | intro _
    | with_reducible first
      | assumption | apply clearMin_sound | apply put_sound | apply when_sound
    | simp only [sound_mk, parts_sound]

end Sys2Proof.Machine
end

