-- ==== Sys2Proof/Laws/RegAccess.lean ====
section
/-! SUPPORT. Every operation of Machine/RegAccess.lean keeps soundness. -/

namespace Sys2Proof.Machine

variable {orig : State}

theorem State.plainWrite_sound {s t : State} (a : Nat) (v : Word) (h : orig.Sound s) (e : s.plainWrite a v = some t) :
    orig.Sound t := by
  unfold State.plainWrite at e
  obtain ⟨x, -, rfl⟩ := Option.map_eq_some_iff.1 e
  exact sound_ite (setReg_sound _ _ h) (setReg_sound _ _ h)

theorem State.plain_sound {s : State} (a : Nat) (v : Word) (h : orig.Sound s) : orig.Sound (s.plain a v) := by
  unfold State.plain
  cases e : s.plainWrite a v with
  | none => exact h
  | some t => exact plainWrite_sound a v h e

theorem State.plainBut_sound {s : State} (f : Field) (v : Word) (hk : orig.Sound s) :
    orig.Sound (s.plainBut f v) := by
  unfold State.plainBut
  repeat' first
    | intro _
    | with_reducible first
      | assumption | apply plain_sound

theorem State.plainIf_sound {s : State} (c : Bool) (a : Nat) (v : Word) (hk : orig.Sound s) :
    orig.Sound (s.plainIf c a v) := by
  unfold State.plainIf
  repeat' first
    | intro _
    | with_reducible first
      | assumption | apply plain_sound | apply when_sound

/-- A write rule that keeps soundness. -/
def RuleSound (b : State) (r : WriteRule) : Prop := ∀ a s v t, b.Sound s → r a s v = some t → b.Sound t

theorem at1_sound (a : Nat) (f : State → Word → State) (hf : ∀ s v, orig.Sound s → orig.Sound (f s v)) :
    RuleSound orig (at1 a f) := by
  intro b s v t h e
  unfold at1 at e
  split at e
  · cases e; exact hf s v h
  · cases e

theorem atN_sound (n : Nat) (a : Nat → Nat) (f : Fin n → State → Word → State)
    (hf : ∀ i s v, orig.Sound s → orig.Sound (f i s v)) : RuleSound orig (atN n a f) := by
  intro b s v t h e
  obtain ⟨i, -, e⟩ := List.exists_of_findSome?_eq_some e
  split at e
  · cases e; exact hf i s v h
  · cases e

theorem State.doorbell_sound {s : State} (hk : orig.Sound s) :
    orig.Sound (s.doorbell) := by
  unfold State.doorbell
  repeat' first
    | intro _
    | with_reducible first
      | assumption | apply when_sound
    | simp only [sound_mk, parts_sound]

theorem rulesTop_sound : ∀ r ∈ rulesTop, RuleSound orig r := by
  unfold rulesTop
  repeat' first
    | with_reducible first
      | exact List.forall_mem_nil _ | refine List.forall_mem_cons.2 ⟨?_, ?_⟩ | apply at1_sound
    | intro _
    | with_reducible first
      | assumption | apply State.doorbell_sound | apply State.plain_sound | apply State.when_sound
      | apply State.writeRmonCtl_sound

theorem State.writeRoute_sound {s : State} (n : Nat) (v : Word) (hk : orig.Sound s) :
    orig.Sound (s.writeRoute n v) := by
  unfold State.writeRoute
  repeat' first
    | intro _
    | with_reducible first
      | assumption | apply plain_sound | apply when_sound
    | simp only [sound_mk, parts_sound]

theorem rulesEvt_sound : ∀ r ∈ rulesEvt, RuleSound orig r := by
  unfold rulesEvt
  repeat' first
    | with_reducible first
      | exact List.forall_mem_nil _ | refine List.forall_mem_cons.2 ⟨?_, ?_⟩ | apply atN_sound
    | intro _
    | with_reducible first
      | assumption | apply State.clearStatus_sound | apply State.writeEnable_sound | apply State.writeRoute_sound

theorem State.writeGain_sound {s : State} (v : Word) (hk : orig.Sound s) :
    orig.Sound (s.writeGain v) := by
  unfold State.writeGain
  repeat' first
    | intro _
    | with_reducible first
      | assumption | apply put_sound | apply when_sound
    | simp only [sound_mk, parts_sound]

theorem State.writeOutCfg_sound {s : State} (k : Fin 4) (v : Word) (hk : orig.Sound s) :
    orig.Sound (s.writeOutCfg k v) := by
  unfold State.writeOutCfg
  repeat' first
    | intro _
    | with_reducible first
      | assumption | apply sound_ite | apply outDisable_sound | apply outEnable_sound | apply put_sound | apply when_sound
    | simp only [sound_mk, parts_sound]

theorem rulesTb_sound : ∀ r ∈ rulesTb, RuleSound orig r := by
  unfold rulesTb
  repeat' first
    | with_reducible first
      | exact List.forall_mem_nil _ | refine List.forall_mem_cons.2 ⟨?_, ?_⟩ | apply at1_sound | apply atN_sound
    | intro _
    | with_reducible first
      | assumption | apply State.outStep_sound | apply State.plainIf_sound | apply State.swErr_sound
      | apply State.writeGain_sound | apply State.writeGlPhase_sound | apply State.writeOutCfg_sound
      | apply State.writeRate_sound | apply State.writeRateLimit_sound | apply State.writeTbCtl_sound
    | simp only [sound_mk, parts_sound]

theorem State.writeEthCfg_sound {s : State} (p : Fin 2) (v : Word) (hk : orig.Sound s) :
    orig.Sound (s.writeEthCfg p v) := by
  unfold State.writeEthCfg
  repeat' first
    | intro _
    | with_reducible first
      | assumption | apply sound_ite | apply ethLink_sound | apply plain_sound | apply plainBut_sound | apply when_sound
    | simp only [sound_mk, parts_sound]

theorem rulesEth_sound : ∀ r ∈ rulesEth, RuleSound orig r := by
  unfold rulesEth
  repeat' first
    | with_reducible first
      | exact List.forall_mem_nil _ | refine List.forall_mem_cons.2 ⟨?_, ?_⟩ | apply at1_sound | apply atN_sound
    | intro _
    | with_reducible first
      | assumption | apply State.plain_sound | apply State.ptpCommit_sound | apply State.tsqPop_sound
      | apply State.when_sound | apply State.writeEthCfg_sound

theorem State.writeZlCfg_sound {s : State} (p : Fin 4) (v : Word) (hk : orig.Sound s) :
    orig.Sound (s.writeZlCfg p v) := by
  unfold State.writeZlCfg
  repeat' first
    | intro _
    | with_reducible first
      | assumption | apply sound_ite | apply plainBut_sound | apply portDisable_sound | apply portEnable_sound
      | apply portRetrain_sound | apply put_sound | apply retimePort_sound | apply when_sound
    | simp only [sound_mk, parts_sound]

theorem rulesZl_sound (send : State → State)
    (hs : ∀ u, orig.Sound u → orig.Sound (send u)) : ∀ r ∈ rulesZl send, RuleSound orig r := by
  unfold rulesZl
  repeat' first
    | with_reducible first
      | exact List.forall_mem_nil _ | refine List.forall_mem_cons.2 ⟨?_, ?_⟩ | apply at1_sound | apply atN_sound
    | intro _
    | with_reducible first
      | assumption | apply State.lstreamWrite_sound | apply State.plain_sound | apply State.portClr_sound
      | apply State.put_sound | apply State.stabAccess_sound | apply State.when_sound | apply State.writeRawRptr_sound
      | apply State.writeZlCfg_sound | apply hs

theorem rulesCodec_sound : ∀ r ∈ rulesCodec, RuleSound orig r := by
  unfold rulesCodec
  repeat' first
    | with_reducible first
      | exact List.forall_mem_nil _ | refine List.forall_mem_cons.2 ⟨?_, ?_⟩ | apply at1_sound | apply atN_sound
    | intro _
    | with_reducible first
      | assumption | apply sound_ite | apply State.flush_sound | apply State.plain_sound | apply State.put_sound
      | apply State.recEnable_sound | apply State.rejectClr_sound | apply State.srcSelect_sound
      | apply State.stripeClr_sound | apply State.when_sound

theorem State.writePressCtl_sound {s : State} (n : Fin 48) (v : Word) (hk : orig.Sound s) :
    orig.Sound (s.writePressCtl n v) := by
  unfold State.writePressCtl
  repeat' first
    | intro _
    | with_reducible first
      | assumption | apply sound_ite | apply when_sound | apply writeFence0_sound | apply writeFence1_sound
      | apply writeGate0_sound | apply writeGate1_sound
    | simp only [sound_mk, parts_sound]

theorem rulesPress_sound : ∀ r ∈ rulesPress, RuleSound orig r := by
  unfold rulesPress
  repeat' first
    | with_reducible first
      | exact List.forall_mem_nil _ | refine List.forall_mem_cons.2 ⟨?_, ?_⟩ | apply at1_sound | apply atN_sound
    | intro _
    | with_reducible first
      | assumption | apply State.clearPressStat_sound | apply State.plain_sound | apply State.plainIf_sound
      | apply State.pressInstall_sound | apply State.put_sound | apply State.when_sound | apply State.writeLutAddr_sound
      | apply State.writeLutData_sound | apply State.writePressCtl_sound | apply State.writeVselBase_sound

theorem State.writeFormat_sound {s : State} (v : Word) (hk : orig.Sound s) :
    orig.Sound (s.writeFormat v) := by
  unfold State.writeFormat
  repeat' first
    | intro _
    | with_reducible first
      | assumption | apply sound_ite | apply clearHold_sound | apply plainBut_sound | apply setHold_sound
    | simp only [sound_mk, parts_sound]

theorem State.writeFrmCtl_sound {s : State} (v : Word) (hk : orig.Sound s) :
    orig.Sound (s.writeFrmCtl v) := by
  unfold State.writeFrmCtl
  repeat' first
    | intro _
    | with_reducible first
      | assumption | apply commitFrame_sound | apply plain_sound | apply setReg_sound | apply when_sound
    | simp only [sound_mk, parts_sound]

theorem State.writeLcCfg_sound {s : State} (c : Fin 64) (v : Word) (hk : orig.Sound s) :
    orig.Sound (s.writeLcCfg c v) := by
  unfold State.writeLcCfg
  repeat' first
    | intro _
    | with_reducible first
      | assumption | apply sound_ite | apply armComp_sound | apply disarmComp_sound | apply plain_sound
      | apply plainBut_sound | apply when_sound
    | simp only [sound_mk, parts_sound]

theorem State.writeThrStart_sound {s : State} (v : Word) (hk : orig.Sound s) :
    orig.Sound (s.writeThrStart v) := by
  unfold State.writeThrStart
  repeat' first
    | intro _
    | with_reducible first
      | assumption | apply sound_ite | apply startThread_sound | apply stopThread_sound
    | simp only [sound_mk, parts_sound]

theorem rulesSeq_sound : ∀ r ∈ rulesSeq, RuleSound orig r := by
  unfold rulesSeq
  repeat' first
    | with_reducible first
      | exact List.forall_mem_nil _ | refine List.forall_mem_cons.2 ⟨?_, ?_⟩ | apply at1_sound | apply atN_sound
    | intro _
    | with_reducible first
      | assumption | apply State.advanceReady_sound | apply State.judgeAll_sound | apply State.plain_sound
      | apply State.plainIf_sound | apply State.sendToken_sound | apply State.seqInstall_sound | apply State.when_sound
      | apply State.writeFormat_sound | apply State.writeFrmCtl_sound | apply State.writeLcCfg_sound
      | apply State.writeThrStart_sound

theorem State.writePanelCfg_sound {s : State} (p : Fin 4) (v : Word) (hk : orig.Sound s) :
    orig.Sound (s.writePanelCfg p v) := by
  unfold State.writePanelCfg
  repeat' first
    | intro _
    | with_reducible first
      | assumption | apply sound_ite | apply panelDown_sound | apply panelRetrain_sound | apply panelStart_sound
      | apply plain_sound | apply plainBut_sound | apply put_sound | apply when_sound
    | simp only [sound_mk, parts_sound]

theorem rulesPanel_sound : ∀ r ∈ rulesPanel, RuleSound orig r := by
  unfold rulesPanel
  repeat' first
    | with_reducible first
      | exact List.forall_mem_nil _ | refine List.forall_mem_cons.2 ⟨?_, ?_⟩ | apply at1_sound | apply atN_sound
    | intro _
    | with_reducible first
      | assumption | apply State.cmdPush_sound | apply State.panelClr_sound | apply State.plain_sound
      | apply State.when_sound | apply State.writePanelCfg_sound
    | simp only [sound_mk, parts_sound]

theorem rulesTrl_sound : ∀ r ∈ rulesTrl, RuleSound orig r := by
  unfold rulesTrl
  repeat' first
    | with_reducible first
      | exact List.forall_mem_nil _ | refine List.forall_mem_cons.2 ⟨?_, ?_⟩ | apply at1_sound | apply atN_sound
    | intro _
    | with_reducible first
      | assumption | apply State.applyGeom_sound | apply State.faultClear_sound | apply State.plain_sound
      | apply State.put_sound | apply State.requestInit_sound | apply State.trlClr_sound | apply State.tryWaveInHold_sound
      | apply State.when_sound | apply State.writeComp_sound | apply State.writeSatBase_sound

theorem rulesHvps_sound : ∀ r ∈ rulesHvps, RuleSound orig r := by
  unfold rulesHvps
  repeat' first
    | with_reducible first
      | exact List.forall_mem_nil _ | refine List.forall_mem_cons.2 ⟨?_, ?_⟩ | apply at1_sound | apply atN_sound
    | intro _
    | with_reducible first
      | assumption | apply sound_ite | apply State.hvpsOff_sound | apply State.hvpsOn_sound | apply State.plain_sound
      | apply State.plainBut_sound | apply State.when_sound

theorem State.writeRackCfg_sound {s : State} (r : Fin 4) (v : Word) (hk : orig.Sound s) :
    orig.Sound (s.writeRackCfg r v) := by
  unfold State.writeRackCfg
  repeat' first
    | intro _
    | with_reducible first
      | assumption | apply sound_ite | apply plainBut_sound | apply put_sound | apply rackDisable_sound | apply when_sound
    | simp only [sound_mk, parts_sound]

theorem rulesRack_sound : ∀ r ∈ rulesRack, RuleSound orig r := by
  unfold rulesRack
  repeat' first
    | with_reducible first
      | exact List.forall_mem_nil _ | refine List.forall_mem_cons.2 ⟨?_, ?_⟩ | apply at1_sound | apply atN_sound
    | intro _
    | with_reducible first
      | assumption | apply State.put_sound | apply State.rackCommit_sound | apply State.when_sound
      | apply State.writeRackCfg_sound

theorem State.writeDramCtl_sound {s : State} (v : Word) (hk : orig.Sound s) :
    orig.Sound (s.writeDramCtl v) := by
  unfold State.writeDramCtl
  repeat' first
    | intro _
    | with_reducible first
      | assumption | apply drainAll_sound | apply plain_sound | apply put_sound | apply when_sound
    | simp only [sound_mk, parts_sound]

theorem State.writeEcc_sound {s : State} (r : Nat) (a : Nat) (v : Word) (hk : orig.Sound s) :
    orig.Sound (s.writeEcc r a v) := by
  unfold State.writeEcc
  repeat' first
    | intro _
    | with_reducible first
      | assumption | apply sound_ite | apply dramRefuse_sound | apply plain_sound
    | simp only [sound_mk, parts_sound]

theorem State.writeTset_sound {s : State} (i : Nat) (a : Nat) (v : Word) (hk : orig.Sound s) :
    orig.Sound (s.writeTset i a v) := by
  unfold State.writeTset
  repeat' first
    | intro _
    | with_reducible first
      | assumption | apply sound_ite | apply dramRefuse_sound | apply plain_sound
    | simp only [sound_mk, parts_sound]

theorem rulesDram_sound : ∀ r ∈ rulesDram, RuleSound orig r := by
  unfold rulesDram
  repeat' first
    | with_reducible first
      | exact List.forall_mem_nil _ | refine List.forall_mem_cons.2 ⟨?_, ?_⟩ | apply at1_sound | apply atN_sound
    | intro _
    | with_reducible first
      | assumption | apply State.clearDramStat_sound | apply State.freqGo_sound | apply State.plain_sound
      | apply State.plainIf_sound | apply State.when_sound | apply State.writeDramCtl_sound | apply State.writeEcc_sound
      | apply State.writeHash_sound | apply State.writeTset_sound

theorem State.writePllCtl_sound {s : State} (n : Fin 6) (v : Word) (hk : orig.Sound s) :
    orig.Sound (s.writePllCtl n v) := by
  unfold State.writePllCtl
  repeat' first
    | intro _
    | with_reducible first
      | assumption | apply commitPll_sound | apply enablePll_sound | apply plainBut_sound | apply when_sound
    | simp only [sound_mk, parts_sound]

theorem State.writePllDiv_sound {s : State} (n : Fin 6) (a : Nat) (v : Word) (hk : orig.Sound s) :
    orig.Sound (s.writePllDiv n a v) := by
  unfold State.writePllDiv
  repeat' first
    | intro _
    | with_reducible first
      | assumption | apply sound_ite | apply plain_sound | apply pllRefuse_sound | apply sound_foldl
    | simp only [sound_mk, parts_sound] | split | dsimp only

theorem divRule_sound (a : Nat → Nat → Nat) : RuleSound orig (divRule a) := by
  intro b s v t h e
  obtain ⟨n, -, e⟩ := List.exists_of_findSome?_eq_some e
  obtain ⟨k, -, e⟩ := List.exists_of_findSome?_eq_some e
  split at e
  · cases e; exact State.writePllDiv_sound _ _ _ h
  · cases e

theorem rulesPll_sound : ∀ r ∈ rulesPll, RuleSound orig r := by
  unfold rulesPll
  repeat' first
    | with_reducible first
      | exact List.forall_mem_nil _ | refine List.forall_mem_cons.2 ⟨?_, ?_⟩ | apply atN_sound | apply divRule_sound
    | intro _
    | with_reducible first
      | assumption | apply State.phaseStep_sound | apply State.put_sound | apply State.when_sound
      | apply State.writePllCtl_sound

theorem State.writeOp_sound {s : State} (k : Nat) (v : Word) (hk : orig.Sound s) :
    orig.Sound (s.writeOp k v) := by
  unfold State.writeOp
  repeat' first
    | intro _
    | with_reducible first
      | assumption | apply put_sound | apply when_sound
    | simp only [sound_mk, parts_sound]

theorem State.writeBreeze_sound {s : State} (v : Word) (hk : orig.Sound s) :
    orig.Sound (s.writeBreeze v) := by
  unfold State.writeBreeze
  repeat' first
    | intro _
    | with_reducible first
      | assumption | apply sound_ite | apply plain_sound | apply plainBut_sound
    | simp only [sound_mk, parts_sound]

theorem rulesPwr_sound : ∀ r ∈ rulesPwr, RuleSound orig r := by
  unfold rulesPwr
  repeat' first
    | with_reducible first
      | exact List.forall_mem_nil _ | refine List.forall_mem_cons.2 ⟨?_, ?_⟩ | apply at1_sound | apply atN_sound
    | intro _
    | with_reducible first
      | assumption | apply State.alarm_sound | apply State.onPwr_sound | apply State.plain_sound | apply State.plainIf_sound
      | apply State.sleep_sound | apply State.when_sound | apply State.writeBreeze_sound | apply State.writeOp_sound
      | apply State.writeTarget_sound

theorem rulesTmon_sound : ∀ r ∈ rulesTmon, RuleSound orig r := by
  unfold rulesTmon
  repeat' first
    | with_reducible first
      | exact List.forall_mem_nil _ | refine List.forall_mem_cons.2 ⟨?_, ?_⟩ | apply at1_sound | apply atN_sound
    | intro _
    | with_reducible first
      | assumption | apply State.writeThr_sound | apply State.writeTmonCfg_sound

theorem rulesCal_sound : ∀ r ∈ rulesCal, RuleSound orig r := by
  unfold rulesCal
  repeat' first
    | with_reducible first
      | exact List.forall_mem_nil _ | refine List.forall_mem_cons.2 ⟨?_, ?_⟩ | apply at1_sound | apply atN_sound
    | intro _
    | with_reducible first
      | assumption | apply State.calStart_sound | apply State.modelLoad_sound | apply State.plain_sound
      | apply State.setReg_sound | apply State.when_sound

theorem State.writeSession_sound {s : State} (a : Nat) (v : Word) (hk : orig.Sound s) :
    orig.Sound (s.writeSession a v) := by
  unfold State.writeSession
  repeat' first
    | intro _
    | with_reducible first
      | assumption | apply plain_sound | apply put_sound | apply when_sound
    | simp only [sound_mk, parts_sound]

theorem rulesHost_sound : ∀ r ∈ rulesHost, RuleSound orig r := by
  unfold rulesHost
  repeat' first
    | with_reducible first
      | exact List.forall_mem_nil _ | refine List.forall_mem_cons.2 ⟨?_, ?_⟩ | apply at1_sound | apply atN_sound
    | intro _
    | with_reducible first
      | assumption | apply State.plain_sound | apply State.writeSession_sound

theorem rulesOf_sound (send : State → State) (hs : ∀ u, orig.Sound u → orig.Sound (send u)) (k : Nat) :
    ∀ r ∈ rulesOf send k, RuleSound orig r := by
  unfold rulesOf
  split
  all_goals first
    | exact List.forall_mem_nil _
    | exact rulesTop_sound
    | exact rulesEvt_sound
    | exact rulesTb_sound
    | exact rulesEth_sound
    | exact rulesZl_sound send hs
    | exact rulesCodec_sound
    | exact rulesPress_sound
    | exact rulesSeq_sound
    | exact rulesPanel_sound
    | exact rulesTrl_sound
    | exact rulesHvps_sound
    | exact rulesRack_sound
    | exact rulesDram_sound
    | exact rulesPll_sound
    | exact rulesPwr_sound
    | exact rulesTmon_sound
    | exact rulesCal_sound
    | exact rulesHost_sound

theorem State.writeVia_sound {s t : State} (send : State → State)
    (hs : ∀ u, orig.Sound u → orig.Sound (send u)) (a : Nat) (v : Word)
    (h : orig.Sound s) (e : s.writeVia send a v = some t) : orig.Sound t := by
  unfold State.writeVia at e
  split at e
  · cases e
  · split at e
    · rename_i u hu
      obtain ⟨r, hr, hu⟩ := List.exists_of_findSome?_eq_some hu
      cases e
      exact rulesOf_sound send hs _ r hr _ _ _ _ h hu
    · exact plainWrite_sound a v h e

/-- A read rule that keeps soundness. -/
def ReadSound (b : State) (r : ReadRule) : Prop := ∀ a s x, b.Sound s → r a s = some x → b.Sound x.2

theorem see1_sound (a : Nat) (f : State → Word × State) (hf : ∀ s, orig.Sound s → orig.Sound (f s).2) :
    ReadSound orig (see1 a f) := by
  intro b s x h e
  unfold see1 at e
  split at e
  · cases e; exact hf s h
  · cases e

theorem seeN_sound (n : Nat) (a : Nat → Nat) (f : Fin n → State → Word × State)
    (hf : ∀ i s, orig.Sound s → orig.Sound (f i s).2) : ReadSound orig (seeN n a f) := by
  intro b s x h e
  obtain ⟨i, -, e⟩ := List.exists_of_findSome?_eq_some e
  split at e
  · cases e; exact hf i s h
  · cases e

theorem readRules_sound : ∀ r ∈ readRules, ReadSound orig r := by
  unfold readRules
  repeat' refine List.forall_mem_cons.2 ⟨?_, ?_⟩
  all_goals first
    | exact List.forall_mem_nil _
    | exact see1_sound _ _ fun s h => h
    | exact seeN_sound _ _ _ fun i s h => h
    | exact see1_sound _ _ fun s h => State.readNow_sound h
    | exact see1_sound _ _ fun s h => State.stabAccess_sound none h
    | exact see1_sound _ _ fun s h => State.readLutData_sound h
    | exact seeN_sound _ _ _ fun i s h => State.readIn_sound i h
    | skip
  intro a s x h e
  obtain ⟨o, -, e⟩ := List.exists_of_findSome?_eq_some e
  split at e
  · cases e; exact h
  · cases e

theorem State.readReg_sound {s : State} {x : Word × State} (a : Nat) (h : orig.Sound s) (e : s.readReg a = some x) :
    orig.Sound x.2 := by
  unfold State.readReg at e
  split at e
  · cases e
  · split at e
    · rename_i y hy
      obtain ⟨r, hr, hy⟩ := List.exists_of_findSome?_eq_some hy
      cases e
      exact readRules_sound r hr _ _ _ h hy
    · obtain ⟨y, -, rfl⟩ := Option.map_eq_some_iff.1 e
      exact h

end Sys2Proof.Machine
end

