-- ==== Sys2Proof/Laws/Packets.lean ====
section
/-! SUPPORT. Every operation of Machine/Packets.lean keeps soundness. -/

namespace Sys2Proof.Machine

variable {orig : State}

theorem State.mgmtReads_sound {s : State} (l : List Nat) (h : orig.Sound s) : orig.Sound (s.mgmtReads l).2.2 := by
  induction l generalizing s with
  | nil => exact h
  | cons a l ih =>
    unfold State.mgmtReads
    refine ih ?_
    cases e : s.readReg a with
    | none => exact h
    | some x => exact readReg_sound a h e

/-- A writer of registers that keeps soundness. -/
def KeepsWrite (b : State) (write : State → Nat → Word → Option State) : Prop :=
  ∀ s a v t, b.Sound s → write s a v = some t → b.Sound t

theorem State.mgmtWrites_sound {s : State} {write : State → Nat → Word → Option State} (hw : KeepsWrite orig write)
    (l : List (Nat × Word)) (h : orig.Sound s) : orig.Sound (s.mgmtWrites write l).2 := by
  induction l generalizing s with
  | nil => exact h
  | cons x l ih =>
    unfold State.mgmtWrites
    refine ih ?_
    cases e : write s x.1 x.2 with
    | none => exact h
    | some t => exact hw _ _ _ _ h e

theorem State.mgmtResponse_sound {s : State} (bs : List Byte) (hk : orig.Sound s) :
    orig.Sound (s.mgmtResponse bs) := by
  unfold State.mgmtResponse
  repeat' first
    | intro _
    | with_reducible first
      | assumption | apply sound_ite | apply count_sound | apply put_sound | apply raise_sound | apply store_sound
    | simp only [sound_mk, parts_sound]

theorem State.mgmtAnswer_sound {s : State} (r : MgmtReq) (bad : List Bool) (data : List Word) (hk : orig.Sound s) :
    orig.Sound (s.mgmtAnswer r bad data) := by
  unfold State.mgmtAnswer
  repeat' first
    | intro _
    | with_reducible first
      | assumption | apply mgmtResponse_sound | apply routeMgmt_sound
    | simp only [sound_mk, parts_sound]

theorem State.mgmtRefused_sound {s : State} (hk : orig.Sound s) :
    orig.Sound (s.mgmtRefused) := by
  unfold State.mgmtRefused
  repeat' first
    | intro _
    | with_reducible first
      | assumption | apply count_sound | apply raise_sound

theorem State.mgmtRead_sound {s : State} (r : MgmtReq) (hk : orig.Sound s) :
    orig.Sound (s.mgmtRead r) := by
  unfold State.mgmtRead
  repeat' first
    | intro _
    | with_reducible first
      | assumption | apply sound_ite | apply mgmtAnswer_sound | apply mgmtReads_sound | apply mgmtRefused_sound
      | apply restartIdle_sound
    | simp only [sound_mk, parts_sound]

theorem State.mgmtWrite_sound {s : State} {write : State → Nat → Word → Option State}
    (hw : KeepsWrite orig write) (answer : Bool)
    (r : MgmtReq) (h : orig.Sound s) : orig.Sound (s.mgmtWrite write answer r) := by
  unfold State.mgmtWrite
  refine sound_ite (mgmtRefused_sound h) ?_
  have h1 := mgmtWrites_sound hw ((mgmtAddrs r).zip (r.data ++ List.replicate 8 0)) (restartIdle_sound h)
  exact sound_ite (mgmtAnswer_sound _ _ _ h1) h1

theorem State.mgmtHere_sound {s : State} {write : State → Nat → Word → Option State}
    (hw : KeepsWrite orig write) (bs : List Byte)
    (h : orig.Sound s) : orig.Sound (s.mgmtHere write bs) := by
  unfold State.mgmtHere
  split
  · exact mgmtRead_sound _ h
  · exact mgmtWrite_sound hw _ _ h
  · exact mgmtWrite_sound hw _ _ h
  · exact mgmtResponse_sound _ h
  · exact mgmtRefused_sound h

theorem State.writeWithin_sound : KeepsWrite orig State.writeWithin := fun _ a v _ h e =>
  writeVia_sound _ (fun _ h => sendRequest_sound _ (fun _ _ h => holdHere_sound _ h) h) a v h e

theorem State.writeReg_sound : KeepsWrite orig State.writeReg := fun _ a v _ h e =>
  writeVia_sound _ (fun _ h => sendRequest_sound _ (fun _ bs h => mgmtHere_sound writeWithin_sound bs h) h) a v h e

theorem State.access_sound {s : State} (a : Nat) (v : Word) (h : orig.Sound s) : orig.Sound (s.access a v) := by
  unfold State.access
  cases e : s.writeReg a v with
  | none => exact h
  | some t => exact writeReg_sound s a v t h e

/-! ## Commands -/

theorem execRegisterWrite_sound {s : State} (path : Path) (addr : Word) (value : Word) (h : orig.Sound s) :
    Keeps orig (execRegisterWrite path addr value s) := by
  unfold execRegisterWrite
  repeat' first
    | intro _
    | with_reducible first
      | assumption | apply ifUp_sound | apply State.access_sound | apply State.when_sound

theorem execWr_sound {s : State} (t : Fin 16) (o : Opnd) (h : orig.Sound s) :
    Keeps orig (execWr t o s) := by
  unfold execWr
  repeat' first
    | exact State.writeReg_sound | exact State.writeReg_sound _ _ _ _ ‹_› ‹_› | exact State.readReg_sound _ ‹_› ‹_›
    | intro _
    | with_reducible first
      | assumption | apply ifUp_sound | apply ifOn_sound | apply next_sound | apply sound_ite | apply State.put_sound
      | apply State.raise_sound | apply State.threadIssue_sound | apply State.writeReg_sound | apply sound_foldl
    | simp only [sound_mk, parts_sound] | split | simp only [Effect.Sound, onRegs, onPair] | simp only [ThreadEffect.Sound]
    | exact trivial | dsimp only

theorem execRd_sound {s : State} (t : Fin 16) (o : Opnd) (h : orig.Sound s) :
    Keeps orig (execRd t o s) := by
  unfold execRd
  repeat' first
    | exact State.writeReg_sound | exact State.writeReg_sound _ _ _ _ ‹_› ‹_› | exact State.readReg_sound _ ‹_› ‹_›
    | intro _
    | with_reducible first
      | assumption | apply ifUp_sound | apply ifOn_sound | apply next_sound | apply sound_ite | apply State.onThread_sound
      | apply State.put_sound | apply State.raise_sound | apply State.readReg_sound | apply State.threadIssue_sound
      | apply sound_foldl
    | simp only [sound_mk, parts_sound] | split | simp only [Effect.Sound, onRegs, onPair] | simp only [ThreadEffect.Sound]
    | exact trivial | dsimp only

theorem execMgmtSend_sound {s : State} (h : orig.Sound s) :
    Keeps orig (execMgmtSend s) := by
  unfold execMgmtSend
  repeat' first
    | exact State.writeReg_sound | exact State.writeReg_sound _ _ _ _ ‹_› ‹_› | exact State.readReg_sound _ ‹_› ‹_›
    | intro _
    | with_reducible first
      | assumption | apply ifUp_sound | apply State.mgmtHere_sound | apply State.sendRequest_sound

theorem execMgmtRead_sound {s : State} (p : Fin 4) (req : MgmtReq) (h : orig.Sound s) :
    Keeps orig (execMgmtRead p req s) := by
  unfold execMgmtRead
  repeat' first
    | exact State.writeReg_sound | exact State.writeReg_sound _ _ _ _ ‹_› ‹_› | exact State.readReg_sound _ ‹_› ‹_›
    | intro _
    | with_reducible first
      | assumption | apply ifUp_sound | apply State.mgmtRead_sound | apply State.when_sound

theorem execMgmtWrite_sound {s : State} (p : Fin 4) (req : MgmtReq) (h : orig.Sound s) :
    Keeps orig (execMgmtWrite p req s) := by
  unfold execMgmtWrite
  repeat' first
    | exact State.writeReg_sound | exact State.writeReg_sound _ _ _ _ ‹_› ‹_› | exact State.readReg_sound _ ‹_› ‹_›
    | intro _
    | with_reducible first
      | assumption | apply ifUp_sound | apply State.mgmtWrite_sound | apply State.when_sound

theorem execMgmtWriteResp_sound {s : State} (p : Fin 4) (req : MgmtReq) (h : orig.Sound s) :
    Keeps orig (execMgmtWriteResp p req s) := by
  unfold execMgmtWriteResp
  repeat' first
    | exact State.writeReg_sound | exact State.writeReg_sound _ _ _ _ ‹_› ‹_› | exact State.readReg_sound _ ‹_› ‹_›
    | intro _
    | with_reducible first
      | assumption | apply ifUp_sound | apply State.mgmtWrite_sound | apply State.when_sound

theorem execMgmtResponseRx_sound {s : State} (bytes : List Byte) (h : orig.Sound s) :
    Keeps orig (execMgmtResponseRx bytes s) := ifUp_sound _ (fun _ ht => State.mgmtResponse_sound _ ht) h

theorem State.setStream_sound {s : State} (k : Fin 8) (l : LocalStream) (hk : orig.Sound s) :
    orig.Sound (s.setStream k l) := by
  unfold State.setStream
  repeat' first
    | intro _
    | with_reducible first
      | assumption
    | simp only [sound_mk, parts_sound]

theorem State.noteLost_sound {s : State} (n : Nat) (hk : orig.Sound s) :
    orig.Sound (s.noteLost n) := by
  unfold State.noteLost
  repeat' first
    | intro _
    | with_reducible first
      | assumption | apply countBy_sound | apply raiseIf_sound

theorem State.deliverTo_sound {s : State} (k : Fin 8) (ty : BitVec 4) (x : StreamPacket) (hk : orig.Sound s) :
    orig.Sound (s.deliverTo k ty x) := by
  unfold State.deliverTo
  repeat' first
    | intro _
    | with_reducible first
      | assumption | apply sound_ite | apply count_sound | apply countBy_sound | apply noteLost_sound | apply put_sound
      | apply raiseIf_sound | apply setStream_sound | apply stripeArrives_sound | apply tokenArrives_sound
      | apply wrapCount_sound | apply sound_foldl
    | simp only [sound_mk, parts_sound] | split | dsimp only

theorem State.stage_sound {s : State} (l : List StripePkt) (h : orig.Sound s) : orig.Sound (s.stage l) := by
  induction l generalizing s with
  | nil => exact h
  | cons k l ih =>
    unfold State.stage
    split
    · exact h
    · exact ih (store_sound (stagingBase + s.loader.staged) (k.data.take (stagingSize - s.loader.staged)) h)

theorem State.netLoad_sound {s : State} (fresh : Bool) (x : StreamPacket) (hk : orig.Sound s) :
    orig.Sound (s.netLoad fresh x) := by
  unfold State.netLoad
  repeat' first
    | intro _
    | with_reducible first
      | assumption | apply sound_ite | apply stage_sound | apply when_sound
    | simp only [sound_mk, parts_sound]

theorem State.bootPacket_sound {s : State} (p : Fin 4) (k : Packet) (x : StreamPacket) (hk : orig.Sound s) :
    orig.Sound (s.bootPacket p k x) := by
  unfold State.bootPacket
  repeat' first
    | intro _
    | with_reducible first
      | assumption | apply sound_ite | apply enqueue_sound | apply netLoad_sound | apply raise_sound | apply when_sound
      | apply sound_foldl
    | simp only [sound_mk, parts_sound]

theorem State.badPacket_sound {s : State} (p : Fin 4) (hk : orig.Sound s) :
    orig.Sound (s.badPacket p) := by
  unfold State.badPacket
  repeat' first
    | intro _
    | with_reducible first
      | assumption | apply sound_ite | apply badPackets_sound | apply sound_foldl
    | simp only [sound_mk, parts_sound] | split | dsimp only

theorem State.streamPacket_sound {s : State} (p : Fin 4) (k : Packet) (hk : orig.Sound s) :
    orig.Sound (s.streamPacket p k) := by
  unfold State.streamPacket
  repeat' first
    | intro _
    | with_reducible first
      | assumption | apply sound_ite | apply badPacket_sound | apply bootPacket_sound | apply deliverTo_sound
      | apply forward_sound | apply rawArrives_sound
    | simp only [sound_mk, parts_sound] | split

theorem State.updraftHere_sound {s : State} (k : Packet) (hk : orig.Sound s) :
    orig.Sound (s.updraftHere k) := by
  unfold State.updraftHere
  repeat' first
    | intro _
    | with_reducible first
      | assumption | apply sound_ite | apply eventRing_sound | apply reportArrives_sound
    | simp only [sound_mk, parts_sound]

theorem State.addressed_sound {s : State} (k : Packet) (hk : orig.Sound s) :
    orig.Sound (s.addressed k) := by
  unfold State.addressed
  repeat' first
    | exact State.writeReg_sound
    | intro _
    | with_reducible first
      | assumption | apply sound_ite | apply enqueue_sound | apply mgmtHere_sound | apply raise_sound
      | apply routeDrop_sound | apply updraftHere_sound | apply writeReg_sound
    | split

theorem State.packetIn_sound {s : State} (p : Fin 4) (k : Packet) (hk : orig.Sound s) :
    orig.Sound (s.packetIn p k) := by
  unfold State.packetIn
  repeat' first
    | intro _
    | with_reducible first
      | assumption | apply sound_ite | apply addressed_sound | apply onPort_sound | apply streamPacket_sound
    | simp only [sound_mk, parts_sound]

theorem execPacketRx_sound {s : State} (p : Fin 4) (pkt : Packet) (h : orig.Sound s) :
    Keeps orig (execPacketRx p pkt s) := by
  unfold execPacketRx
  repeat' first
    | intro _
    | with_reducible first
      | assumption | apply ifUp_sound | apply State.packetIn_sound | apply State.when_sound

theorem execEventPacketRx_sound {s : State} (x : Byte) (y : Byte) (source : BitVec 10) (lost : Byte) (tb : Word)
    (h : orig.Sound s) :
    Keeps orig (execEventPacketRx x y source lost tb s) := ifUp_sound _ (fun _ ht => State.eventRing_sound _ _ _ _ _ ht) h

theorem State.wakeFrame_sound {s : State} (p lane : Fin 4) (f : TrainFrame) (hk : orig.Sound s) :
    orig.Sound (s.wakeFrame p lane f) := by
  unfold State.wakeFrame
  repeat' first
    | intro _
    | with_reducible first
      | assumption | apply sound_ite | apply raise_sound | apply wakeBy_sound | apply when_sound | apply sound_foldl
    | simp only [sound_mk, parts_sound] | split | dsimp only

theorem State.cellarFrame_sound {s : State} (p lane : Fin 4) (f : TrainFrame) (hk : orig.Sound s) :
    orig.Sound (s.cellarFrame p lane f) := by
  unfold State.cellarFrame
  repeat' first
    | intro _
    | with_reducible first
      | assumption | apply sound_ite | apply onPort_sound | apply sendFrames_sound | apply wakeFrame_sound | apply when_sound
      | apply sound_foldl
    | simp only [sound_mk, parts_sound] | split | dsimp only

theorem execTrainingFrameRx_sound {s : State} (p : Fin 4) (lane : Fin 4) (frame : TrainFrame) (h : orig.Sound s) :
    Keeps orig (execTrainingFrameRx p lane frame s) := by
  unfold execTrainingFrameRx
  repeat' first
    | intro _
    | with_reducible first
      | assumption | apply ifUp_sound | apply ifOn_sound | apply next_sound | apply sound_ite | apply State.cellarFrame_sound
      | apply State.trainFrame_sound | apply State.wakeFrame_sound | apply State.when_sound | apply sound_foldl
    | simp only [sound_mk, parts_sound] | split | simp only [Effect.Sound, onRegs, onPair] | simp only [ThreadEffect.Sound]
    | exact trivial | dsimp only

end Sys2Proof.Machine
end

