-- ==== Sys2Proof/Laws/Boot.lean ====
section
/-! SUPPORT. Every operation of Machine/Boot.lean keeps soundness. -/

namespace Sys2Proof.Machine

variable {orig : State}

theorem State.loseMemory_sound {s : State} (hk : orig.Sound s) :
    orig.Sound (s.loseMemory) := by
  unfold State.loseMemory
  repeat' first
    | intro _
    | with_reducible first
      | assumption | apply lose_sound

theorem State.zeroKernel_sound {s : State} (hk : orig.Sound s) :
    orig.Sound (s.zeroKernel) := by
  unfold State.zeroKernel
  repeat' first
    | intro _
    | with_reducible first
      | assumption | apply sound_ite | apply sound_foldl | apply parts_mem | apply Mem.zero_wf | apply sound_mem_wf
    | simp only [sound_mk, parts_sound] | split | dsimp only

theorem State.resetAll_sound {s : State} (h : orig.Sound s) : orig.Sound s.resetAll := by
  have ht := when_sound (s.mode == .off) State.zeroKernel (fun _ => zeroKernel_sound) (loseMemory_sound (settleInReset_sound h))
  unfold State.resetAll
  exact ⟨canonical_filter _ ht.regs, ⟨rfl, fun e he => nomatch he⟩, ht.mem, ht.queue, ht.fuses⟩

/-! ## Commands -/

theorem execReset_sound {s : State} (vddaoRise : Bool) (h : orig.Sound s) :
    Keeps orig (execReset vddaoRise s) := by
  unfold execReset
  repeat' first
    | intro _
    | with_reducible first
      | assumption | apply next_sound | apply State.resetAll_sound | apply State.when_sound

theorem execUndervoltageReset_sound {s : State} (supply : Supply) (h : orig.Sound s) :
    Keeps orig (execUndervoltageReset supply s) := by
  unfold execUndervoltageReset
  repeat' first
    | intro _
    | with_reducible first
      | assumption | apply next_sound | apply State.resetAll_sound | apply State.when_sound
    | split

theorem State.removeVddao_sound {s : State} (h : orig.Sound s) : orig.Sound s.removeVddao := by
  have ht := lose_sound dramBase 0xA000000000 (lose_sound 0x01000000 0x07000000 h)
  unfold State.removeVddao
  exact ⟨⟨rfl, fun e he => nomatch he⟩, ⟨rfl, fun e he => nomatch he⟩, ht.mem, ht.queue, ht.fuses⟩

theorem execVddaoRemoval_sound {s : State} (h : orig.Sound s) :
    Keeps orig (execVddaoRemoval s) := by
  unfold execVddaoRemoval
  repeat' first
    | intro _
    | with_reducible first
      | assumption | apply next_sound | apply State.removeVddao_sound

theorem State.gradeC_sound {s : State} (hk : orig.Sound s) :
    orig.Sound (s.gradeC) := by
  unfold State.gradeC
  repeat' first
    | intro _
    | with_reducible first
      | assumption | apply put_sound

theorem State.searchLock_sound {s : State} (n : Fin 6) (hk : orig.Sound s) :
    orig.Sound (s.searchLock n) := by
  unfold State.searchLock
  repeat' first
    | intro _
    | with_reducible first
      | assumption | apply draw_sound | apply lockPll_sound
    | simp only [sound_mk, parts_sound]

theorem State.startPorts_sound {s : State} (hk : orig.Sound s) :
    orig.Sound (s.startPorts) := by
  unfold State.startPorts
  repeat' first
    | intro _
    | with_reducible first
      | assumption | apply sound_ite | apply startTraining_sound | apply overAll_sound

theorem State.onLoader_sound {s : State} (f : Loader → Loader) (hk : orig.Sound s) :
    orig.Sound (s.onLoader f) := by
  unfold State.onLoader
  repeat' first
    | intro _
    | with_reducible first
      | assumption
    | simp only [sound_mk, parts_sound]

theorem State.awaitBoot_sound {s : State} (hk : orig.Sound s) :
    orig.Sound (s.awaitBoot) := by
  unfold State.awaitBoot
  repeat' first
    | intro _
    | with_reducible first
      | assumption | apply onLoader_sound

theorem State.bootFail_sound {s : State} (cause seg img : Nat) (hk : orig.Sound s) :
    orig.Sound (s.bootFail cause seg img) := by
  unfold State.bootFail
  repeat' first
    | intro _
    | with_reducible first
      | assumption | apply sound_ite | apply awaitBoot_sound | apply onLoader_sound | apply put_sound | apply raise_sound
      | apply raiseIf_sound | apply startPorts_sound
    | simp only [sound_mk, parts_sound]

theorem State.release_sound {s : State} (hk : orig.Sound s) :
    orig.Sound (s.release) := by
  unfold State.release
  repeat' first
    | intro _
    | with_reducible first
      | assumption | apply sound_ite | apply awaitBoot_sound | apply bootFail_sound | apply gradeC_sound
      | apply onLoader_sound | apply onPll_sound | apply powerOn_sound | apply put_sound | apply relock_sound
      | apply searchLock_sound | apply startPorts_sound
    | simp only [sound_mk, parts_sound]

theorem execResetRelease_sound {s : State} (h : orig.Sound s) :
    Keeps orig (execResetRelease s) := by
  unfold execResetRelease
  repeat' first
    | intro _
    | with_reducible first
      | assumption | apply next_sound | apply State.release_sound | apply State.when_sound

theorem execBootTimeout_sound {s : State} (h : orig.Sound s) :
    Keeps orig (execBootTimeout s) := by
  unfold execBootTimeout
  repeat' first
    | intro _
    | with_reducible first
      | assumption | apply ifUp_sound | apply State.bootFail_sound | apply State.when_sound

theorem execBootDoorbell_sound {s : State} (h : orig.Sound s) :
    Keeps orig (execBootDoorbell s) := ifUp_sound _ (fun _ ht => State.doorbell_sound ht) h

theorem State.imageSeg_sound {s : State} (g : Segment) (profile size place : Nat) (feat : Word) (h : orig.Sound s) :
    orig.Sound (s.imageSeg g profile size place feat).1 := by
  unfold State.imageSeg
  dsimp only
  repeat' split
  · exact h
  · exact h
  · exact sound_mem (Mem.copy_wf _ _ _ h.mem) h

theorem State.listSeg_sound {s : State} (l : List (Nat × Word)) (h : orig.Sound s) : orig.Sound (s.listSeg l).1 := by
  induction l generalizing s with
  | nil => exact h
  | cons x l ih =>
    unfold State.listSeg
    split
    · rename_i t e
      exact ih (writeReg_sound _ _ _ _ h e)
    · exact h

theorem State.doSegment_sound {s : State} (l : List Byte) (g : Segment)
    (h : orig.Sound s) : orig.Sound (s.doSegment l g).1 := by
  unfold State.doSegment
  split
  · exact imageSeg_sound _ _ _ _ _ h
  · exact imageSeg_sound _ _ _ _ _ h
  · exact sound_mem (Mem.copy_wf _ _ _ h.mem) h
  · exact listSeg_sound _ h

theorem State.doSegments_sound {s : State} (l : List Byte) (gs : List (Segment × Nat)) (h : orig.Sound s) :
    orig.Sound (s.doSegments l gs).1 := by
  induction gs generalizing s with
  | nil => exact h
  | cons x gs ih =>
    have hd := doSegment_sound l x.1 h
    unfold State.doSegments
    split
    · rename_i t c img e
      rw [e] at hd
      exact hd
    · rename_i t e
      rw [e] at hd
      exact ih hd

theorem State.bootDone_sound {s : State} (l : List Byte) (hk : orig.Sound s) :
    orig.Sound (s.bootDone l) := by
  unfold State.bootDone
  repeat' first
    | intro _
    | with_reducible first
      | assumption | apply sound_ite | apply onLoader_sound | apply panelStart_sound | apply put_sound | apply putB_sound
      | apply raise_sound | apply restartIdle_sound | apply startPorts_sound | apply startThread_sound
      | apply stopThread_sound | apply writeSession_sound | apply overAll_sound | apply sound_foldl
    | simp only [sound_mk, parts_sound] | split | dsimp only

theorem State.loadContainer_sound {s : State} (l : List Byte) (h : orig.Sound s) : orig.Sound (s.loadContainer l) := by
  unfold State.loadContainer
  split
  · exact bootFail_sound _ _ _ h
  · have hd := doSegments_sound l (bootSegs l).zipIdx h
    split
    · rename_i t c i img e
      rw [e] at hd
      exact bootFail_sound _ _ _ hd
    · rename_i t e
      rw [e] at hd
      exact bootDone_sound _ hd

theorem State.containerIn_sound {s : State} (bytes : List Byte) (hk : orig.Sound s) :
    orig.Sound (s.containerIn bytes) := by
  unfold State.containerIn
  repeat' first
    | intro _
    | with_reducible first
      | assumption | apply sound_ite | apply loadContainer_sound | apply store_sound | apply when_sound

theorem execBootContainerReceived_sound {s : State} (bytes : List Byte) (h : orig.Sound s) :
    Keeps orig (execBootContainerReceived bytes s) := by
  unfold execBootContainerReceived
  repeat' first
    | intro _
    | with_reducible first
      | assumption | apply ifUp_sound | apply State.containerIn_sound | apply State.when_sound

end Sys2Proof.Machine
end

