-- ==== Sys2Proof/Laws/LinkLine.lean ====
section
/-! SUPPORT. What the tables and the mappings of Machine/LinkLine.lean are. -/

namespace Sys2Proof.Machine

/-- Coefficients packed ten bits each, the first lowest. -/
def packTens (l : List Nat) : Nat := l.foldr (fun c n => 1024 * n + c) 0

/-- The ten rows of the encoder are the low part of the generator polynomial times the powers of α (R195). -/
theorem genRows_eq : genRows = (List.range 10).map fun i => packTens ((genPoly.take 30).map (gfMul (alpha i))) := by decide +kernel

/-- The generator polynomial has degree 30 and leading coefficient 1 (R195). -/
theorem genPoly_monic : genPoly.length = 31 ∧ genPoly.getLast? = some 1 := by decide +kernel

/-- α⁰ and α²⁹ are zeros of the generator polynomial, and α³⁰ is none (R195). -/
theorem genPoly_zeros : polyAt genPoly (alpha 0) = 0 ∧ polyAt genPoly (alpha 29) = 0 ∧ polyAt genPoly (alpha 30) ≠ 0 := by
  decide +kernel

/-- The Gray mapping is its own inverse (R195). -/
theorem gray_gray (v : BitVec 2) : gray (gray v) = v := by
  revert v; decide

end Sys2Proof.Machine
end

