-- ==== Sys2Proof/Laws/Press.lean ====
section
/-! SUPPORT. Every operation of Machine/Press.lean keeps soundness. -/

namespace Sys2Proof.Machine

variable {orig : State}

/-! ## Commands -/

theorem execNop_sound {s : State} (n : Fin 48) (o : Opnd) (h : orig.Sound s) :
    Keeps orig (execNop n o s) := by
  unfold execNop
  repeat' first
    | intro _
    | with_reducible first
      | assumption | apply ifUp_sound | apply ifOn_sound | apply next_sound | apply sound_ite | apply State.issue_sound
      | apply State.onPress_sound | apply sound_foldl
    | simp only [sound_mk, parts_sound] | split | simp only [Effect.Sound, onRegs, onPair] | simp only [ThreadEffect.Sound]
    | exact trivial | dsimp only

theorem State.finish_sound {s : State} (n : Fin 48) (hk : orig.Sound s) :
    orig.Sound (s.finish n) := by
  unfold State.finish
  repeat' first
    | intro _
    | with_reducible first
      | assumption | apply endBundle_sound | apply endJob_sound
    | split

theorem execDone_sound {s : State} (n : Fin 48) (o : Opnd) (h : orig.Sound s) :
    Keeps orig (execDone n o s) := by
  unfold execDone
  repeat' first
    | intro _
    | with_reducible first
      | assumption | apply ifUp_sound | apply ifOn_sound | apply next_sound | apply sound_ite | apply State.finish_sound
      | apply State.issue_sound | apply State.onPress_sound | apply sound_foldl
    | simp only [sound_mk, parts_sound] | split | simp only [Effect.Sound, onRegs, onPair] | simp only [ThreadEffect.Sound]
    | exact trivial | dsimp only

theorem execRet_sound {s : State} (n : Fin 48) (o : Opnd) (h : orig.Sound s) :
    Keeps orig (execRet n o s) := by
  unfold execRet
  repeat' first
    | intro _
    | with_reducible first
      | assumption | apply ifUp_sound | apply ifOn_sound | apply next_sound | apply sound_ite | apply State.issue_sound
      | apply State.onPress_sound | apply sound_foldl
    | simp only [sound_mk, parts_sound] | split | simp only [Effect.Sound, onRegs, onPair] | simp only [ThreadEffect.Sound]
    | exact trivial | dsimp only

theorem State.branch_sound {s : State} (n : Fin 48) (off : BitVec 15) (pred : BitVec 3) (c : BitVec 8) (legal : Bool) (cond : BitVec 16 → BitVec 16 → Bool) (hk : orig.Sound s) :
    orig.Sound (s.branch n off pred c legal cond) := by
  unfold State.branch
  repeat' first
    | intro _
    | with_reducible first
      | assumption | apply sound_ite | apply issue_sound | apply sound_foldl
    | simp only [sound_mk, parts_sound] | split | simp only [Effect.Sound, ThreadEffect.Sound, onRegs, onPair] | exact trivial
    | dsimp only

theorem execBrAlways_sound {s : State} (n : Fin 48) (off : BitVec 15) (pred : BitVec 3) (h : orig.Sound s) :
    Keeps orig (execBrAlways n off pred s) := by
  unfold execBrAlways
  repeat' first
    | intro _
    | with_reducible first
      | assumption | apply ifUp_sound | apply ifOn_sound | apply next_sound | apply sound_ite | apply State.branch_sound
      | apply State.onPress_sound | apply sound_foldl
    | simp only [sound_mk, parts_sound] | split | simp only [Effect.Sound, onRegs, onPair] | simp only [ThreadEffect.Sound]
    | exact trivial | dsimp only

theorem execBrAny_sound {s : State} (n : Fin 48) (off : BitVec 15) (pred : BitVec 3) (h : orig.Sound s) :
    Keeps orig (execBrAny n off pred s) := by
  unfold execBrAny
  repeat' first
    | intro _
    | with_reducible first
      | assumption | apply ifUp_sound | apply ifOn_sound | apply next_sound | apply sound_ite | apply State.branch_sound
      | apply State.onPress_sound | apply sound_foldl
    | simp only [sound_mk, parts_sound] | split | simp only [Effect.Sound, onRegs, onPair] | simp only [ThreadEffect.Sound]
    | exact trivial | dsimp only

theorem execBrAll_sound {s : State} (n : Fin 48) (off : BitVec 15) (pred : BitVec 3) (h : orig.Sound s) :
    Keeps orig (execBrAll n off pred s) := by
  unfold execBrAll
  repeat' first
    | intro _
    | with_reducible first
      | assumption | apply ifUp_sound | apply ifOn_sound | apply next_sound | apply sound_ite | apply State.branch_sound
      | apply State.onPress_sound | apply sound_foldl
    | simp only [sound_mk, parts_sound] | split | simp only [Effect.Sound, onRegs, onPair] | simp only [ThreadEffect.Sound]
    | exact trivial | dsimp only

theorem execBrNone_sound {s : State} (n : Fin 48) (off : BitVec 15) (pred : BitVec 3) (h : orig.Sound s) :
    Keeps orig (execBrNone n off pred s) := by
  unfold execBrNone
  repeat' first
    | intro _
    | with_reducible first
      | assumption | apply ifUp_sound | apply ifOn_sound | apply next_sound | apply sound_ite | apply State.branch_sound
      | apply State.onPress_sound | apply sound_foldl
    | simp only [sound_mk, parts_sound] | split | simp only [Effect.Sound, onRegs, onPair] | simp only [ThreadEffect.Sound]
    | exact trivial | dsimp only

theorem execCall_sound {s : State} (n : Fin 48) (off : BitVec 15) (pred : BitVec 3) (h : orig.Sound s) :
    Keeps orig (execCall n off pred s) := by
  unfold execCall
  repeat' first
    | intro _
    | with_reducible first
      | assumption | apply ifUp_sound | apply ifOn_sound | apply next_sound | apply sound_ite | apply State.issue_sound
      | apply State.onPress_sound | apply State.onPress_sound | apply sound_foldl
    | simp only [sound_mk, parts_sound] | split | simp only [Effect.Sound, onRegs, onPair] | simp only [ThreadEffect.Sound]
    | exact trivial | dsimp only

theorem execJmp_sound {s : State} (n : Fin 48) (o : Opnd) (imm : Word) (h : orig.Sound s) :
    Keeps orig (execJmp n o imm s) := by
  unfold execJmp
  repeat' first
    | intro _
    | with_reducible first
      | assumption | apply ifUp_sound | apply ifOn_sound | apply next_sound | apply sound_ite | apply State.issue_sound
      | apply State.onPress_sound | apply sound_foldl
    | simp only [sound_mk, parts_sound] | split | simp only [Effect.Sound, onRegs, onPair] | simp only [ThreadEffect.Sound]
    | exact trivial | dsimp only

theorem execCalla_sound {s : State} (n : Fin 48) (o : Opnd) (imm : Word) (h : orig.Sound s) :
    Keeps orig (execCalla n o imm s) := by
  unfold execCalla
  repeat' first
    | intro _
    | with_reducible first
      | assumption | apply ifUp_sound | apply ifOn_sound | apply next_sound | apply sound_ite | apply State.issue_sound
      | apply State.onPress_sound | apply State.onPress_sound | apply sound_foldl
    | simp only [sound_mk, parts_sound] | split | simp only [Effect.Sound, onRegs, onPair] | simp only [ThreadEffect.Sound]
    | exact trivial | dsimp only

theorem execSli_sound {s : State} (n : Fin 48) (o : Opnd) (imm : Word) (h : orig.Sound s) :
    Keeps orig (execSli n o imm s) := by
  unfold execSli
  repeat' first
    | intro _
    | with_reducible first
      | assumption | apply ifUp_sound | apply ifOn_sound | apply next_sound | apply sound_ite | apply State.issue_sound
      | apply onRegs_sound | apply State.onPress_sound | apply sound_foldl
    | simp only [sound_mk, parts_sound] | split | simp only [Effect.Sound, onRegs, onPair] | simp only [ThreadEffect.Sound]
    | exact trivial | dsimp only

theorem execVli_sound {s : State} (n : Fin 48) (o : Opnd) (imm : Word) (h : orig.Sound s) :
    Keeps orig (execVli n o imm s) := by
  unfold execVli
  repeat' first
    | intro _
    | with_reducible first
      | assumption | apply ifUp_sound | apply ifOn_sound | apply next_sound | apply sound_ite | apply State.issue_sound
      | apply onRegs_sound | apply State.onPress_sound | apply sound_foldl
    | simp only [sound_mk, parts_sound] | split | simp only [Effect.Sound, onRegs, onPair] | simp only [ThreadEffect.Sound]
    | exact trivial | dsimp only

theorem State.sop_sound {s : State} (op : SOp) (u : Issuer) (o : Opnd) (hk : orig.Sound s) :
    orig.Sound (s.sop op u o) := by
  unfold State.sop
  repeat' first
    | intro _
    | with_reducible first
      | assumption | apply sound_ite | apply issue_sound | apply onThread_sound | apply threadIssue_sound | apply onRegs_sound
      | apply sound_foldl
    | simp only [sound_mk, parts_sound] | split | simp only [Effect.Sound, ThreadEffect.Sound, onRegs, onPair] | exact trivial
    | dsimp only

theorem execSopMov_sound {s : State} (u : Issuer) (o : Opnd) (h : orig.Sound s) :
    Keeps orig (execSopMov u o s) := ifUp_sound _ (fun _ ht => State.sop_sound _ _ _ ht) h

theorem execSopAdd_sound {s : State} (u : Issuer) (o : Opnd) (h : orig.Sound s) :
    Keeps orig (execSopAdd u o s) := ifUp_sound _ (fun _ ht => State.sop_sound _ _ _ ht) h

theorem execSopSub_sound {s : State} (u : Issuer) (o : Opnd) (h : orig.Sound s) :
    Keeps orig (execSopSub u o s) := ifUp_sound _ (fun _ ht => State.sop_sound _ _ _ ht) h

theorem execSopMul_sound {s : State} (u : Issuer) (o : Opnd) (h : orig.Sound s) :
    Keeps orig (execSopMul u o s) := ifUp_sound _ (fun _ ht => State.sop_sound _ _ _ ht) h

theorem execSopMulhu_sound {s : State} (u : Issuer) (o : Opnd) (h : orig.Sound s) :
    Keeps orig (execSopMulhu u o s) := ifUp_sound _ (fun _ ht => State.sop_sound _ _ _ ht) h

theorem execSopAnd_sound {s : State} (u : Issuer) (o : Opnd) (h : orig.Sound s) :
    Keeps orig (execSopAnd u o s) := ifUp_sound _ (fun _ ht => State.sop_sound _ _ _ ht) h

theorem execSopOr_sound {s : State} (u : Issuer) (o : Opnd) (h : orig.Sound s) :
    Keeps orig (execSopOr u o s) := ifUp_sound _ (fun _ ht => State.sop_sound _ _ _ ht) h

theorem execSopXor_sound {s : State} (u : Issuer) (o : Opnd) (h : orig.Sound s) :
    Keeps orig (execSopXor u o s) := ifUp_sound _ (fun _ ht => State.sop_sound _ _ _ ht) h

theorem execSopShl_sound {s : State} (u : Issuer) (o : Opnd) (h : orig.Sound s) :
    Keeps orig (execSopShl u o s) := ifUp_sound _ (fun _ ht => State.sop_sound _ _ _ ht) h

theorem execSopShr_sound {s : State} (u : Issuer) (o : Opnd) (h : orig.Sound s) :
    Keeps orig (execSopShr u o s) := ifUp_sound _ (fun _ ht => State.sop_sound _ _ _ ht) h

theorem execSopSra_sound {s : State} (u : Issuer) (o : Opnd) (h : orig.Sound s) :
    Keeps orig (execSopSra u o s) := ifUp_sound _ (fun _ ht => State.sop_sound _ _ _ ht) h

theorem execSopSlt_sound {s : State} (u : Issuer) (o : Opnd) (h : orig.Sound s) :
    Keeps orig (execSopSlt u o s) := ifUp_sound _ (fun _ ht => State.sop_sound _ _ _ ht) h

theorem execSopSltu_sound {s : State} (u : Issuer) (o : Opnd) (h : orig.Sound s) :
    Keeps orig (execSopSltu u o s) := ifUp_sound _ (fun _ ht => State.sop_sound _ _ _ ht) h

theorem execSopMin_sound {s : State} (u : Issuer) (o : Opnd) (h : orig.Sound s) :
    Keeps orig (execSopMin u o s) := ifUp_sound _ (fun _ ht => State.sop_sound _ _ _ ht) h

theorem execSopMax_sound {s : State} (u : Issuer) (o : Opnd) (h : orig.Sound s) :
    Keeps orig (execSopMax u o s) := ifUp_sound _ (fun _ ht => State.sop_sound _ _ _ ht) h

theorem execSopFadd_sound {s : State} (u : Issuer) (o : Opnd) (h : orig.Sound s) :
    Keeps orig (execSopFadd u o s) := ifUp_sound _ (fun _ ht => State.sop_sound _ _ _ ht) h

theorem execSopFsub_sound {s : State} (u : Issuer) (o : Opnd) (h : orig.Sound s) :
    Keeps orig (execSopFsub u o s) := ifUp_sound _ (fun _ ht => State.sop_sound _ _ _ ht) h

theorem execSopFmul_sound {s : State} (u : Issuer) (o : Opnd) (h : orig.Sound s) :
    Keeps orig (execSopFmul u o s) := ifUp_sound _ (fun _ ht => State.sop_sound _ _ _ ht) h

theorem execSopFtoi_sound {s : State} (u : Issuer) (o : Opnd) (h : orig.Sound s) :
    Keeps orig (execSopFtoi u o s) := ifUp_sound _ (fun _ ht => State.sop_sound _ _ _ ht) h

theorem execSopItof_sound {s : State} (u : Issuer) (o : Opnd) (h : orig.Sound s) :
    Keeps orig (execSopItof u o s) := ifUp_sound _ (fun _ ht => State.sop_sound _ _ _ ht) h

theorem execSaddi_sound {s : State} (u : Issuer) (o : Opnd) (h : orig.Sound s) :
    Keeps orig (execSaddi u o s) := by
  unfold execSaddi
  repeat' first
    | intro _
    | with_reducible first
      | assumption | apply ifUp_sound | apply ifOn_sound | apply next_sound | apply sound_ite | apply State.issue_sound
      | apply State.onThread_sound | apply State.threadIssue_sound | apply onRegs_sound | apply State.onPress_sound
      | apply sound_foldl
    | simp only [sound_mk, parts_sound] | split | simp only [Effect.Sound, onRegs, onPair] | simp only [ThreadEffect.Sound]
    | exact trivial | dsimp only

theorem execSpmovPtos_sound {s : State} (n : Fin 48) (o : Opnd) (h : orig.Sound s) :
    Keeps orig (execSpmovPtos n o s) := by
  unfold execSpmovPtos
  repeat' first
    | intro _
    | with_reducible first
      | assumption | apply ifUp_sound | apply ifOn_sound | apply next_sound | apply sound_ite | apply State.issue_sound
      | apply onRegs_sound | apply State.onPress_sound | apply sound_foldl
    | simp only [sound_mk, parts_sound] | split | simp only [Effect.Sound, onRegs, onPair] | simp only [ThreadEffect.Sound]
    | exact trivial | dsimp only

theorem execSpmovStop_sound {s : State} (n : Fin 48) (o : Opnd) (h : orig.Sound s) :
    Keeps orig (execSpmovStop n o s) := by
  unfold execSpmovStop
  repeat' first
    | intro _
    | with_reducible first
      | assumption | apply ifUp_sound | apply ifOn_sound | apply next_sound | apply sound_ite | apply State.issue_sound
      | apply onRegs_sound | apply State.onPress_sound | apply sound_foldl
    | simp only [sound_mk, parts_sound] | split | simp only [Effect.Sound, onRegs, onPair] | simp only [ThreadEffect.Sound]
    | exact trivial | dsimp only

theorem State.vop_sound {s : State} (op : VOp) (n : Fin 48) (form : VForm) (ty : BitVec 3) (o : Opnd) (hk : orig.Sound s) :
    orig.Sound (s.vop op n form ty o) := by
  unfold State.vop
  repeat' first
    | intro _
    | with_reducible first
      | assumption | apply sound_ite | apply issue_sound | apply onRegs_sound | apply sound_foldl
    | simp only [sound_mk, parts_sound] | split | simp only [Effect.Sound, ThreadEffect.Sound, onRegs, onPair] | exact trivial
    | dsimp only

theorem execVopMov_sound {s : State} (n : Fin 48) (form : VForm) (ty : BitVec 3) (o : Opnd) (h : orig.Sound s) :
    Keeps orig (execVopMov n form ty o s) := ifUp_sound _ (fun _ ht => State.vop_sound _ _ _ _ _ ht) h

theorem execVopAdd_sound {s : State} (n : Fin 48) (form : VForm) (ty : BitVec 3) (o : Opnd) (h : orig.Sound s) :
    Keeps orig (execVopAdd n form ty o s) := ifUp_sound _ (fun _ ht => State.vop_sound _ _ _ _ _ ht) h

theorem execVopSub_sound {s : State} (n : Fin 48) (form : VForm) (ty : BitVec 3) (o : Opnd) (h : orig.Sound s) :
    Keeps orig (execVopSub n form ty o s) := ifUp_sound _ (fun _ ht => State.vop_sound _ _ _ _ _ ht) h

theorem execVopRsub_sound {s : State} (n : Fin 48) (form : VForm) (ty : BitVec 3) (o : Opnd) (h : orig.Sound s) :
    Keeps orig (execVopRsub n form ty o s) := ifUp_sound _ (fun _ ht => State.vop_sound _ _ _ _ _ ht) h

theorem execVopMul_sound {s : State} (n : Fin 48) (form : VForm) (ty : BitVec 3) (o : Opnd) (h : orig.Sound s) :
    Keeps orig (execVopMul n form ty o s) := ifUp_sound _ (fun _ ht => State.vop_sound _ _ _ _ _ ht) h

theorem execVopMad_sound {s : State} (n : Fin 48) (form : VForm) (ty : BitVec 3) (o : Opnd) (h : orig.Sound s) :
    Keeps orig (execVopMad n form ty o s) := ifUp_sound _ (fun _ ht => State.vop_sound _ _ _ _ _ ht) h

theorem execVopMin_sound {s : State} (n : Fin 48) (form : VForm) (ty : BitVec 3) (o : Opnd) (h : orig.Sound s) :
    Keeps orig (execVopMin n form ty o s) := ifUp_sound _ (fun _ ht => State.vop_sound _ _ _ _ _ ht) h

theorem execVopMax_sound {s : State} (n : Fin 48) (form : VForm) (ty : BitVec 3) (o : Opnd) (h : orig.Sound s) :
    Keeps orig (execVopMax n form ty o s) := ifUp_sound _ (fun _ ht => State.vop_sound _ _ _ _ _ ht) h

theorem execVopAbs_sound {s : State} (n : Fin 48) (form : VForm) (ty : BitVec 3) (o : Opnd) (h : orig.Sound s) :
    Keeps orig (execVopAbs n form ty o s) := ifUp_sound _ (fun _ ht => State.vop_sound _ _ _ _ _ ht) h

theorem execVopNeg_sound {s : State} (n : Fin 48) (form : VForm) (ty : BitVec 3) (o : Opnd) (h : orig.Sound s) :
    Keeps orig (execVopNeg n form ty o s) := ifUp_sound _ (fun _ ht => State.vop_sound _ _ _ _ _ ht) h

theorem execVopAnd_sound {s : State} (n : Fin 48) (form : VForm) (ty : BitVec 3) (o : Opnd) (h : orig.Sound s) :
    Keeps orig (execVopAnd n form ty o s) := ifUp_sound _ (fun _ ht => State.vop_sound _ _ _ _ _ ht) h

theorem execVopOr_sound {s : State} (n : Fin 48) (form : VForm) (ty : BitVec 3) (o : Opnd) (h : orig.Sound s) :
    Keeps orig (execVopOr n form ty o s) := ifUp_sound _ (fun _ ht => State.vop_sound _ _ _ _ _ ht) h

theorem execVopXor_sound {s : State} (n : Fin 48) (form : VForm) (ty : BitVec 3) (o : Opnd) (h : orig.Sound s) :
    Keeps orig (execVopXor n form ty o s) := ifUp_sound _ (fun _ ht => State.vop_sound _ _ _ _ _ ht) h

theorem execVopAndn_sound {s : State} (n : Fin 48) (form : VForm) (ty : BitVec 3) (o : Opnd) (h : orig.Sound s) :
    Keeps orig (execVopAndn n form ty o s) := ifUp_sound _ (fun _ ht => State.vop_sound _ _ _ _ _ ht) h

theorem execVopShl_sound {s : State} (n : Fin 48) (form : VForm) (ty : BitVec 3) (o : Opnd) (h : orig.Sound s) :
    Keeps orig (execVopShl n form ty o s) := ifUp_sound _ (fun _ ht => State.vop_sound _ _ _ _ _ ht) h

theorem execVopShr_sound {s : State} (n : Fin 48) (form : VForm) (ty : BitVec 3) (o : Opnd) (h : orig.Sound s) :
    Keeps orig (execVopShr n form ty o s) := ifUp_sound _ (fun _ ht => State.vop_sound _ _ _ _ _ ht) h

theorem execVopSra_sound {s : State} (n : Fin 48) (form : VForm) (ty : BitVec 3) (o : Opnd) (h : orig.Sound s) :
    Keeps orig (execVopSra n form ty o s) := ifUp_sound _ (fun _ ht => State.vop_sound _ _ _ _ _ ht) h

theorem execVopFloor_sound {s : State} (n : Fin 48) (form : VForm) (ty : BitVec 3) (o : Opnd) (h : orig.Sound s) :
    Keeps orig (execVopFloor n form ty o s) := ifUp_sound _ (fun _ ht => State.vop_sound _ _ _ _ _ ht) h

theorem execVopRcp_sound {s : State} (n : Fin 48) (form : VForm) (ty : BitVec 3) (o : Opnd) (h : orig.Sound s) :
    Keeps orig (execVopRcp n form ty o s) := ifUp_sound _ (fun _ ht => State.vop_sound _ _ _ _ _ ht) h

theorem execVopRsq_sound {s : State} (n : Fin 48) (form : VForm) (ty : BitVec 3) (o : Opnd) (h : orig.Sound s) :
    Keeps orig (execVopRsq n form ty o s) := ifUp_sound _ (fun _ ht => State.vop_sound _ _ _ _ _ ht) h

theorem execVopCvt_sound {s : State} (n : Fin 48) (form : VForm) (ty : BitVec 3) (o : Opnd) (h : orig.Sound s) :
    Keeps orig (execVopCvt n form ty o s) := ifUp_sound _ (fun _ ht => State.vop_sound _ _ _ _ _ ht) h

theorem execVopSwaph_sound {s : State} (n : Fin 48) (form : VForm) (ty : BitVec 3) (o : Opnd) (h : orig.Sound s) :
    Keeps orig (execVopSwaph n form ty o s) := ifUp_sound _ (fun _ ht => State.vop_sound _ _ _ _ _ ht) h

theorem State.vcmp_sound {s : State} (c : VCond) (n : Fin 48) (form : VForm) (ty : BitVec 3) (o : Opnd) (hk : orig.Sound s) :
    orig.Sound (s.vcmp c n form ty o) := by
  unfold State.vcmp
  repeat' first
    | intro _
    | with_reducible first
      | assumption | apply sound_ite | apply issue_sound | apply onRegs_sound | apply sound_foldl
    | simp only [sound_mk, parts_sound] | split | simp only [Effect.Sound, ThreadEffect.Sound, onRegs, onPair] | exact trivial
    | dsimp only

theorem execVcmpEq_sound {s : State} (n : Fin 48) (form : VForm) (ty : BitVec 3) (o : Opnd) (h : orig.Sound s) :
    Keeps orig (execVcmpEq n form ty o s) := ifUp_sound _ (fun _ ht => State.vcmp_sound _ _ _ _ _ ht) h

theorem execVcmpNe_sound {s : State} (n : Fin 48) (form : VForm) (ty : BitVec 3) (o : Opnd) (h : orig.Sound s) :
    Keeps orig (execVcmpNe n form ty o s) := ifUp_sound _ (fun _ ht => State.vcmp_sound _ _ _ _ _ ht) h

theorem execVcmpLt_sound {s : State} (n : Fin 48) (form : VForm) (ty : BitVec 3) (o : Opnd) (h : orig.Sound s) :
    Keeps orig (execVcmpLt n form ty o s) := ifUp_sound _ (fun _ ht => State.vcmp_sound _ _ _ _ _ ht) h

theorem execVcmpLe_sound {s : State} (n : Fin 48) (form : VForm) (ty : BitVec 3) (o : Opnd) (h : orig.Sound s) :
    Keeps orig (execVcmpLe n form ty o s) := ifUp_sound _ (fun _ ht => State.vcmp_sound _ _ _ _ _ ht) h

theorem execVcmpGt_sound {s : State} (n : Fin 48) (form : VForm) (ty : BitVec 3) (o : Opnd) (h : orig.Sound s) :
    Keeps orig (execVcmpGt n form ty o s) := ifUp_sound _ (fun _ ht => State.vcmp_sound _ _ _ _ _ ht) h

theorem execVcmpGe_sound {s : State} (n : Fin 48) (form : VForm) (ty : BitVec 3) (o : Opnd) (h : orig.Sound s) :
    Keeps orig (execVcmpGe n form ty o s) := ifUp_sound _ (fun _ ht => State.vcmp_sound _ _ _ _ _ ht) h

theorem execVcmpLtu_sound {s : State} (n : Fin 48) (form : VForm) (ty : BitVec 3) (o : Opnd) (h : orig.Sound s) :
    Keeps orig (execVcmpLtu n form ty o s) := ifUp_sound _ (fun _ ht => State.vcmp_sound _ _ _ _ _ ht) h

theorem execVcmpGeu_sound {s : State} (n : Fin 48) (form : VForm) (ty : BitVec 3) (o : Opnd) (h : orig.Sound s) :
    Keeps orig (execVcmpGeu n form ty o s) := ifUp_sound _ (fun _ ht => State.vcmp_sound _ _ _ _ _ ht) h

theorem State.plog_sound {s : State} (n : Fin 48) (o : Opnd) (c : BitVec 8) (a b : Names) (f : BitVec 16 → BitVec 16 → BitVec 16 → BitVec 16) (hk : orig.Sound s) :
    orig.Sound (s.plog n o c a b f) := by
  unfold State.plog
  repeat' first
    | intro _
    | with_reducible first
      | assumption | apply sound_ite | apply issue_sound | apply onRegs_sound | apply sound_foldl
    | simp only [sound_mk, parts_sound] | split | simp only [Effect.Sound, ThreadEffect.Sound, onRegs, onPair] | exact trivial
    | dsimp only

theorem execPlogAnd_sound {s : State} (n : Fin 48) (o : Opnd) (h : orig.Sound s) :
    Keeps orig (execPlogAnd n o s) := by
  unfold execPlogAnd
  repeat' first
    | intro _
    | with_reducible first
      | assumption | apply ifUp_sound | apply ifOn_sound | apply next_sound | apply sound_ite | apply State.plog_sound
      | apply State.onPress_sound | apply sound_foldl
    | simp only [sound_mk, parts_sound] | split | simp only [Effect.Sound, onRegs, onPair] | simp only [ThreadEffect.Sound]
    | exact trivial | dsimp only

theorem execPlogOr_sound {s : State} (n : Fin 48) (o : Opnd) (h : orig.Sound s) :
    Keeps orig (execPlogOr n o s) := by
  unfold execPlogOr
  repeat' first
    | intro _
    | with_reducible first
      | assumption | apply ifUp_sound | apply ifOn_sound | apply next_sound | apply sound_ite | apply State.plog_sound
      | apply State.onPress_sound | apply sound_foldl
    | simp only [sound_mk, parts_sound] | split | simp only [Effect.Sound, onRegs, onPair] | simp only [ThreadEffect.Sound]
    | exact trivial | dsimp only

theorem execPlogXor_sound {s : State} (n : Fin 48) (o : Opnd) (h : orig.Sound s) :
    Keeps orig (execPlogXor n o s) := by
  unfold execPlogXor
  repeat' first
    | intro _
    | with_reducible first
      | assumption | apply ifUp_sound | apply ifOn_sound | apply next_sound | apply sound_ite | apply State.plog_sound
      | apply State.onPress_sound | apply sound_foldl
    | simp only [sound_mk, parts_sound] | split | simp only [Effect.Sound, onRegs, onPair] | simp only [ThreadEffect.Sound]
    | exact trivial | dsimp only

theorem execPlogAndnot_sound {s : State} (n : Fin 48) (o : Opnd) (h : orig.Sound s) :
    Keeps orig (execPlogAndnot n o s) := by
  unfold execPlogAndnot
  repeat' first
    | intro _
    | with_reducible first
      | assumption | apply ifUp_sound | apply ifOn_sound | apply next_sound | apply sound_ite | apply State.plog_sound
      | apply State.onPress_sound | apply sound_foldl
    | simp only [sound_mk, parts_sound] | split | simp only [Effect.Sound, onRegs, onPair] | simp only [ThreadEffect.Sound]
    | exact trivial | dsimp only

theorem execPlogNot_sound {s : State} (n : Fin 48) (o : Opnd) (h : orig.Sound s) :
    Keeps orig (execPlogNot n o s) := by
  unfold execPlogNot
  repeat' first
    | intro _
    | with_reducible first
      | assumption | apply ifUp_sound | apply ifOn_sound | apply next_sound | apply sound_ite | apply State.plog_sound
      | apply State.onPress_sound | apply sound_foldl
    | simp only [sound_mk, parts_sound] | split | simp only [Effect.Sound, onRegs, onPair] | simp only [ThreadEffect.Sound]
    | exact trivial | dsimp only

theorem execPlogOnes_sound {s : State} (n : Fin 48) (o : Opnd) (h : orig.Sound s) :
    Keeps orig (execPlogOnes n o s) := by
  unfold execPlogOnes
  repeat' first
    | intro _
    | with_reducible first
      | assumption | apply ifUp_sound | apply ifOn_sound | apply next_sound | apply sound_ite | apply State.plog_sound
      | apply State.onPress_sound | apply sound_foldl
    | simp only [sound_mk, parts_sound] | split | simp only [Effect.Sound, onRegs, onPair] | simp only [ThreadEffect.Sound]
    | exact trivial | dsimp only

theorem execPlogZeros_sound {s : State} (n : Fin 48) (o : Opnd) (h : orig.Sound s) :
    Keeps orig (execPlogZeros n o s) := by
  unfold execPlogZeros
  repeat' first
    | intro _
    | with_reducible first
      | assumption | apply ifUp_sound | apply ifOn_sound | apply next_sound | apply sound_ite | apply State.plog_sound
      | apply State.onPress_sound | apply sound_foldl
    | simp only [sound_mk, parts_sound] | split | simp only [Effect.Sound, onRegs, onPair] | simp only [ThreadEffect.Sound]
    | exact trivial | dsimp only

theorem execPlogValid_sound {s : State} (n : Fin 48) (o : Opnd) (h : orig.Sound s) :
    Keeps orig (execPlogValid n o s) := by
  unfold execPlogValid
  repeat' first
    | intro _
    | with_reducible first
      | assumption | apply ifUp_sound | apply ifOn_sound | apply next_sound | apply sound_ite | apply State.plog_sound
      | apply State.onPress_sound | apply sound_foldl
    | simp only [sound_mk, parts_sound] | split | simp only [Effect.Sound, onRegs, onPair] | simp only [ThreadEffect.Sound]
    | exact trivial | dsimp only

theorem execVbcast_sound {s : State} (n : Fin 48) (o : Opnd) (h : orig.Sound s) :
    Keeps orig (execVbcast n o s) := by
  unfold execVbcast
  repeat' first
    | intro _
    | with_reducible first
      | assumption | apply ifUp_sound | apply ifOn_sound | apply next_sound | apply sound_ite | apply State.issue_sound
      | apply onRegs_sound | apply State.onPress_sound | apply sound_foldl
    | simp only [sound_mk, parts_sound] | split | simp only [Effect.Sound, onRegs, onPair] | simp only [ThreadEffect.Sound]
    | exact trivial | dsimp only

theorem execVlane_sound {s : State} (n : Fin 48) (o : Opnd) (h : orig.Sound s) :
    Keeps orig (execVlane n o s) := by
  unfold execVlane
  repeat' first
    | intro _
    | with_reducible first
      | assumption | apply ifUp_sound | apply ifOn_sound | apply next_sound | apply sound_ite | apply State.issue_sound
      | apply onRegs_sound | apply State.onPress_sound | apply sound_foldl
    | simp only [sound_mk, parts_sound] | split | simp only [Effect.Sound, onRegs, onPair] | simp only [ThreadEffect.Sound]
    | exact trivial | dsimp only

theorem execLds_sound {s : State} (n : Fin 48) (o : Opnd) (ecc : List EccHit) (h : orig.Sound s) :
    Keeps orig (execLds n o ecc s) := by
  unfold execLds
  repeat' first
    | intro _
    | with_reducible first
      | assumption | apply ifUp_sound | apply ifOn_sound | apply next_sound | apply sound_ite | apply State.issue_sound
      | apply State.loads_sound | apply State.lsWord_sound | apply State.onPress_sound | apply State.onPress_sound
      | apply sound_foldl
    | simp only [sound_mk, parts_sound] | split | simp only [Effect.Sound, onRegs, onPair] | simp only [ThreadEffect.Sound]
    | exact trivial | dsimp only

theorem execSts_sound {s : State} (n : Fin 48) (o : Opnd) (h : orig.Sound s) :
    Keeps orig (execSts n o s) := by
  unfold execSts
  repeat' first
    | intro _
    | with_reducible first
      | assumption | apply ifUp_sound | apply ifOn_sound | apply next_sound | apply sound_ite | apply State.issue_sound
      | apply State.lsStore_sound | apply State.onPress_sound | apply sound_foldl
    | simp only [sound_mk, parts_sound] | split | simp only [Effect.Sound, onRegs, onPair] | simp only [ThreadEffect.Sound]
    | exact trivial | dsimp only

theorem execLdv_sound {s : State} (n : Fin 48) (o : Opnd) (ecc : List EccHit) (h : orig.Sound s) :
    Keeps orig (execLdv n o ecc s) := by
  unfold execLdv
  repeat' first
    | intro _
    | with_reducible first
      | assumption | apply ifUp_sound | apply ifOn_sound | apply next_sound | apply sound_ite | apply State.issue_sound
      | apply State.loads_sound | apply State.lsWords_sound | apply State.onPress_sound | apply State.onPress_sound
      | apply sound_foldl
    | simp only [sound_mk, parts_sound] | split | simp only [Effect.Sound, onRegs, onPair] | simp only [ThreadEffect.Sound]
    | exact trivial | dsimp only

theorem execStv_sound {s : State} (n : Fin 48) (o : Opnd) (h : orig.Sound s) :
    Keeps orig (execStv n o s) := by
  unfold execStv
  repeat' first
    | intro _
    | with_reducible first
      | assumption | apply ifUp_sound | apply ifOn_sound | apply next_sound | apply sound_ite | apply State.issue_sound
      | apply State.lsStore_sound | apply State.onPress_sound | apply sound_foldl
    | simp only [sound_mk, parts_sound] | split | simp only [Effect.Sound, onRegs, onPair] | simp only [ThreadEffect.Sound]
    | exact trivial | dsimp only

theorem execGath_sound {s : State} (n : Fin 48) (o : Opnd) (ecc : List EccHit) (h : orig.Sound s) :
    Keeps orig (execGath n o ecc s) := by
  unfold execGath
  repeat' first
    | intro _
    | with_reducible first
      | assumption | apply ifUp_sound | apply ifOn_sound | apply next_sound | apply sound_ite | apply State.issue_sound
      | apply State.loads_sound | apply State.lsWords_sound | apply State.onPress_sound | apply State.onPress_sound
      | apply sound_foldl
    | simp only [sound_mk, parts_sound] | split | simp only [Effect.Sound, onRegs, onPair] | simp only [ThreadEffect.Sound]
    | exact trivial | dsimp only

theorem execGath2_sound {s : State} (n : Fin 48) (o : Opnd) (ecc : List EccHit) (h : orig.Sound s) :
    Keeps orig (execGath2 n o ecc s) := by
  unfold execGath2
  repeat' first
    | intro _
    | with_reducible first
      | assumption | apply ifUp_sound | apply ifOn_sound | apply next_sound | apply sound_ite | apply State.issue_sound
      | apply State.loads_sound | apply State.lsWords_sound | apply State.onPress_sound | apply State.onPress_sound
      | apply sound_foldl
    | simp only [sound_mk, parts_sound] | split | simp only [Effect.Sound, onRegs, onPair] | simp only [ThreadEffect.Sound]
    | exact trivial | dsimp only

theorem execScat_sound {s : State} (n : Fin 48) (o : Opnd) (h : orig.Sound s) :
    Keeps orig (execScat n o s) := by
  unfold execScat
  repeat' first
    | intro _
    | with_reducible first
      | assumption | apply ifUp_sound | apply ifOn_sound | apply next_sound | apply sound_ite | apply State.issue_sound
      | apply State.lsStore_sound | apply State.onPress_sound | apply sound_foldl
    | simp only [sound_mk, parts_sound] | split | simp only [Effect.Sound, onRegs, onPair] | simp only [ThreadEffect.Sound]
    | exact trivial | dsimp only

theorem execXferOut_sound {s : State} (n : Fin 48) (o : Opnd) (ecc : List EccHit) (h : orig.Sound s) :
    Keeps orig (execXferOut n o ecc s) := by
  unfold execXferOut
  repeat' first
    | intro _
    | with_reducible first
      | assumption | apply ifUp_sound | apply ifOn_sound | apply next_sound | apply sound_ite | apply State.dramWrite_sound
      | apply State.issue_sound | apply State.loads_sound | apply State.lsWords_sound | apply State.onPress_sound
      | apply sound_foldl
    | simp only [sound_mk, parts_sound] | split | simp only [Effect.Sound, onRegs, onPair] | simp only [ThreadEffect.Sound]
    | exact trivial | dsimp only

theorem execXferIn_sound {s : State} (n : Fin 48) (o : Opnd) (ecc : List EccHit) (h : orig.Sound s) :
    Keeps orig (execXferIn n o ecc s) := by
  unfold execXferIn
  repeat' first
    | intro _
    | with_reducible first
      | assumption | apply ifUp_sound | apply ifOn_sound | apply next_sound | apply sound_ite | apply State.dramRead_sound
      | apply State.issue_sound | apply State.store_sound | apply State.onPress_sound | apply sound_foldl
    | simp only [sound_mk, parts_sound] | split | simp only [Effect.Sound, onRegs, onPair] | simp only [ThreadEffect.Sound]
    | exact trivial | dsimp only

theorem State.inBundle_sound {s : State} (n : Fin 48) (f : Bundle → AngleLatch → Effect) (hf : ∀ b a, (f b a).Sound orig) :
    (s.inBundle n f).Sound orig := by
  unfold State.inBundle
  repeat' split
  all_goals first
    | exact trivial
    | exact hf _ _

theorem State.raygen_sound {s : State} (n : Fin 48) (o : Opnd) (sel : Nat) (hk : orig.Sound s) :
    orig.Sound (s.raygen n o sel) := by
  unfold State.raygen
  repeat' first
    | intro _
    | with_reducible first
      | assumption | apply sound_ite | apply inBundle_sound | apply issue_sound | apply onPress_sound | apply sound_foldl
    | simp only [sound_mk, parts_sound] | split | simp only [Effect.Sound, ThreadEffect.Sound, onRegs, onPair] | exact trivial
    | dsimp only

theorem execRaygenOrgX_sound {s : State} (n : Fin 48) (o : Opnd) (h : orig.Sound s) :
    Keeps orig (execRaygenOrgX n o s) := ifUp_sound _ (fun _ ht => State.raygen_sound _ _ _ ht) h

theorem execRaygenOrgY_sound {s : State} (n : Fin 48) (o : Opnd) (h : orig.Sound s) :
    Keeps orig (execRaygenOrgY n o s) := ifUp_sound _ (fun _ ht => State.raygen_sound _ _ _ ht) h

theorem execRaygenTanU_sound {s : State} (n : Fin 48) (o : Opnd) (h : orig.Sound s) :
    Keeps orig (execRaygenTanU n o s) := ifUp_sound _ (fun _ ht => State.raygen_sound _ _ _ ht) h

theorem execRaygenTanW_sound {s : State} (n : Fin 48) (o : Opnd) (h : orig.Sound s) :
    Keeps orig (execRaygenTanW n o s) := ifUp_sound _ (fun _ ht => State.raygen_sound _ _ _ ht) h

theorem execRaygenGain_sound {s : State} (n : Fin 48) (o : Opnd) (h : orig.Sound s) :
    Keeps orig (execRaygenGain n o s) := ifUp_sound _ (fun _ ht => State.raygen_sound _ _ _ ht) h

theorem execRaygenDir_sound {s : State} (n : Fin 48) (o : Opnd) (h : orig.Sound s) :
    Keeps orig (execRaygenDir n o s) := ifUp_sound _ (fun _ ht => State.raygen_sound _ _ _ ht) h

theorem State.spoil_sound {s : State} (hits : List EccHit) (hk : orig.Sound s) :
    orig.Sound (s.spoil hits) := by
  unfold State.spoil
  repeat' first
    | intro _
    | with_reducible first
      | assumption | apply sound_ite | apply lose_sound | apply sound_foldl
    | simp only [sound_mk, parts_sound] | split | dsimp only

theorem State.spoiled_sound {s : State} (hits : List EccHit) (hk : orig.Sound s) :
    orig.Sound (s.spoiled hits) := by
  unfold State.spoiled
  repeat' first
    | intro _
    | with_reducible first
      | assumption | apply sound_ite | apply eccReports_sound | apply spoil_sound | apply sound_foldl
    | simp only [sound_mk, parts_sound] | split | dsimp only

theorem execDsearch_sound {s : State} (n : Fin 48) (o : Opnd) (ecc : List EccHit) (h : orig.Sound s) :
    Keeps orig (execDsearch n o ecc s) := by
  unfold execDsearch
  repeat' first
    | intro _
    | with_reducible first
      | assumption | apply ifUp_sound | apply ifOn_sound | apply next_sound | apply sound_ite | apply State.inBundle_sound
      | apply State.issue_sound | apply State.onPress_sound | apply State.spoil_sound | apply State.spoiled_sound
      | apply State.onPress_sound | apply sound_foldl
    | simp only [sound_mk, parts_sound] | split | simp only [Effect.Sound, onRegs, onPair] | simp only [ThreadEffect.Sound]
    | exact trivial | dsimp only

theorem execFetchk_sound {s : State} (n : Fin 48) (o : Opnd) (ecc : List EccHit) (h : orig.Sound s) :
    Keeps orig (execFetchk n o ecc s) := by
  unfold execFetchk
  repeat' first
    | intro _
    | with_reducible first
      | assumption | apply ifUp_sound | apply ifOn_sound | apply next_sound | apply sound_ite | apply State.inBundle_sound
      | apply State.issue_sound | apply State.onPress_sound | apply State.spoil_sound | apply State.spoiled_sound
      | apply State.onPress_sound | apply sound_foldl
    | simp only [sound_mk, parts_sound] | split | simp only [Effect.Sound, onRegs, onPair] | simp only [ThreadEffect.Sound]
    | exact trivial | dsimp only

theorem execWblend_sound {s : State} (n : Fin 48) (o : Opnd) (h : orig.Sound s) :
    Keeps orig (execWblend n o s) := by
  unfold execWblend
  repeat' first
    | intro _
    | with_reducible first
      | assumption | apply ifUp_sound | apply ifOn_sound | apply next_sound | apply sound_ite | apply State.issue_sound
      | apply onPair_sound | apply State.onPress_sound | apply sound_foldl
    | simp only [sound_mk, parts_sound] | split | simp only [Effect.Sound, onRegs, onPair] | simp only [ThreadEffect.Sound]
    | exact trivial | dsimp only

theorem execComp_sound {s : State} (n : Fin 48) (o : Opnd) (h : orig.Sound s) :
    Keeps orig (execComp n o s) := by
  unfold execComp
  repeat' first
    | intro _
    | with_reducible first
      | assumption | apply ifUp_sound | apply ifOn_sound | apply next_sound | apply sound_ite | apply State.issue_sound
      | apply onPair_sound | apply State.onPress_sound | apply sound_foldl
    | simp only [sound_mk, parts_sound] | split | simp only [Effect.Sound, onRegs, onPair] | simp only [ThreadEffect.Sound]
    | exact trivial | dsimp only

theorem execLut_sound {s : State} (n : Fin 48) (o : Opnd) (h : orig.Sound s) :
    Keeps orig (execLut n o s) := by
  unfold execLut
  repeat' first
    | intro _
    | with_reducible first
      | assumption | apply ifUp_sound | apply ifOn_sound | apply next_sound | apply sound_ite | apply State.issue_sound
      | apply onPair_sound | apply State.onPress_sound | apply sound_foldl
    | simp only [sound_mk, parts_sound] | split | simp only [Effect.Sound, onRegs, onPair] | simp only [ThreadEffect.Sound]
    | exact trivial | dsimp only

theorem State.emitLane_sound {s : State} (b : Bundle) (k : Fin 16) (c : Rgba) (hk : orig.Sound s) :
    orig.Sound (s.emitLane b k c) := by
  unfold State.emitLane
  repeat' first
    | intro _
    | with_reducible first
      | assumption | apply sound_ite | apply setSlotEntry_sound
    | simp only [sound_mk, parts_sound]

theorem execEmit_sound {s : State} (n : Fin 48) (o : Opnd) (h : orig.Sound s) :
    Keeps orig (execEmit n o s) := by
  unfold execEmit
  repeat' first
    | intro _
    | with_reducible first
      | assumption | apply ifUp_sound | apply ifOn_sound | apply next_sound | apply sound_ite | apply State.countOps_sound
      | apply State.emitLane_sound | apply State.inBundle_sound | apply State.issue_sound | apply State.onPress_sound
      | apply State.onPress_sound | apply sound_foldl
    | simp only [sound_mk, parts_sound] | split | simp only [Effect.Sound, onRegs, onPair] | simp only [ThreadEffect.Sound]
    | exact trivial | dsimp only

end Sys2Proof.Machine
end

