-- ==== Sys2Proof/Laws/State.lean ====
section
/-! SUPPORT. What the updates of the state leave as it was, field by field, and what register fields read after a write. -/

namespace Sys2Proof.Machine

variable (s : State)

/-! ## setReg -/

@[simp] theorem State.setReg_mode (a : Nat) (w : Word) : (s.setReg a w).mode = s.mode := rfl
@[simp] theorem State.setReg_act (a : Nat) (w : Word) : (s.setReg a w).act = s.act := rfl
@[simp] theorem State.setReg_wos (a : Nat) (w : Word) : (s.setReg a w).wos = s.wos := rfl
@[simp] theorem State.setReg_mem (a : Nat) (w : Word) : (s.setReg a w).mem = s.mem := rfl
@[simp] theorem State.setReg_free (a : Nat) (w : Word) : (s.setReg a w).free = s.free := rfl
@[simp] theorem State.setReg_rdata (a : Nat) (w : Word) : (s.setReg a w).rdata = s.rdata := rfl
@[simp] theorem State.setReg_out (a : Nat) (w : Word) : (s.setReg a w).out = s.out := rfl
@[simp] theorem State.setReg_eventN (a : Nat) (w : Word) : (s.setReg a w).eventN = s.eventN := rfl
@[simp] theorem State.setReg_evt (a : Nat) (w : Word) : (s.setReg a w).evt = s.evt := rfl
@[simp] theorem State.setReg_link (a : Nat) (w : Word) : (s.setReg a w).link = s.link := rfl
@[simp] theorem State.setReg_tb (a : Nat) (w : Word) : (s.setReg a w).tb = s.tb := rfl
@[simp] theorem State.setReg_tsq (a : Nat) (w : Word) : (s.setReg a w).tsq = s.tsq := rfl
@[simp] theorem State.setReg_frm (a : Nat) (w : Word) : (s.setReg a w).frm = s.frm := rfl
@[simp] theorem State.setReg_dist (a : Nat) (w : Word) : (s.setReg a w).dist = s.dist := rfl
@[simp] theorem State.setReg_press (a : Nat) (w : Word) : (s.setReg a w).press = s.press := rfl
@[simp] theorem State.setReg_imgP (a : Nat) (w : Word) : (s.setReg a w).imgP = s.imgP := rfl
@[simp] theorem State.setReg_imgS (a : Nat) (w : Word) : (s.setReg a w).imgS = s.imgS := rfl
@[simp] theorem State.setReg_lut (a : Nat) (w : Word) : (s.setReg a w).lut = s.lut := rfl
@[simp] theorem State.setReg_seq (a : Nat) (w : Word) : (s.setReg a w).seq = s.seq := rfl
@[simp] theorem State.setReg_rmon (a : Nat) (w : Word) : (s.setReg a w).rmon = s.rmon := rfl
@[simp] theorem State.setReg_trl (a : Nat) (w : Word) : (s.setReg a w).trl = s.trl := rfl
@[simp] theorem State.setReg_hv (a : Nat) (w : Word) : (s.setReg a w).hv = s.hv := rfl
@[simp] theorem State.setReg_panel (a : Nat) (w : Word) : (s.setReg a w).panel = s.panel := rfl
@[simp] theorem State.setReg_rack (a : Nat) (w : Word) : (s.setReg a w).rack = s.rack := rfl
@[simp] theorem State.setReg_codec (a : Nat) (w : Word) : (s.setReg a w).codec = s.codec := rfl
@[simp] theorem State.setReg_fuses (a : Nat) (w : Word) : (s.setReg a w).fuses = s.fuses := rfl
@[simp] theorem State.setReg_sensed (a : Nat) (w : Word) : (s.setReg a w).sensed = s.sensed := rfl
@[simp] theorem State.setReg_pins (a : Nat) (w : Word) : (s.setReg a w).pins = s.pins := rfl
@[simp] theorem State.setReg_loader (a : Nat) (w : Word) : (s.setReg a w).loader = s.loader := rfl
@[simp] theorem State.setReg_pcieUp (a : Nat) (w : Word) : (s.setReg a w).pcieUp = s.pcieUp := rfl
@[simp] theorem State.setReg_clock (a : Nat) (w : Word) : (s.setReg a w).clock = s.clock := rfl
@[simp] theorem State.setReg_dram (a : Nat) (w : Word) : (s.setReg a w).dram = s.dram := rfl
@[simp] theorem State.setReg_pll (a : Nat) (w : Word) : (s.setReg a w).pll = s.pll := rfl
@[simp] theorem State.setReg_pwr (a : Nat) (w : Word) : (s.setReg a w).pwr = s.pwr := rfl
@[simp] theorem State.setReg_therm (a : Nat) (w : Word) : (s.setReg a w).therm = s.therm := rfl
@[simp] theorem State.setReg_cal (a : Nat) (w : Word) : (s.setReg a w).cal = s.cal := rfl
@[simp] theorem State.setReg_pending (a : Nat) (w : Word) : (s.setReg a w).pending = s.pending := rfl

/-! ## put -/

@[simp] theorem State.put_mode (f : Field) (v : Nat) : (s.put f v).mode = s.mode := rfl
@[simp] theorem State.put_act (f : Field) (v : Nat) : (s.put f v).act = s.act := rfl
@[simp] theorem State.put_wos (f : Field) (v : Nat) : (s.put f v).wos = s.wos := rfl
@[simp] theorem State.put_mem (f : Field) (v : Nat) : (s.put f v).mem = s.mem := rfl
@[simp] theorem State.put_free (f : Field) (v : Nat) : (s.put f v).free = s.free := rfl
@[simp] theorem State.put_rdata (f : Field) (v : Nat) : (s.put f v).rdata = s.rdata := rfl
@[simp] theorem State.put_out (f : Field) (v : Nat) : (s.put f v).out = s.out := rfl
@[simp] theorem State.put_eventN (f : Field) (v : Nat) : (s.put f v).eventN = s.eventN := rfl
@[simp] theorem State.put_evt (f : Field) (v : Nat) : (s.put f v).evt = s.evt := rfl
@[simp] theorem State.put_link (f : Field) (v : Nat) : (s.put f v).link = s.link := rfl
@[simp] theorem State.put_tb (f : Field) (v : Nat) : (s.put f v).tb = s.tb := rfl
@[simp] theorem State.put_tsq (f : Field) (v : Nat) : (s.put f v).tsq = s.tsq := rfl
@[simp] theorem State.put_frm (f : Field) (v : Nat) : (s.put f v).frm = s.frm := rfl
@[simp] theorem State.put_dist (f : Field) (v : Nat) : (s.put f v).dist = s.dist := rfl
@[simp] theorem State.put_press (f : Field) (v : Nat) : (s.put f v).press = s.press := rfl
@[simp] theorem State.put_imgP (f : Field) (v : Nat) : (s.put f v).imgP = s.imgP := rfl
@[simp] theorem State.put_imgS (f : Field) (v : Nat) : (s.put f v).imgS = s.imgS := rfl
@[simp] theorem State.put_lut (f : Field) (v : Nat) : (s.put f v).lut = s.lut := rfl
@[simp] theorem State.put_seq (f : Field) (v : Nat) : (s.put f v).seq = s.seq := rfl
@[simp] theorem State.put_rmon (f : Field) (v : Nat) : (s.put f v).rmon = s.rmon := rfl
@[simp] theorem State.put_trl (f : Field) (v : Nat) : (s.put f v).trl = s.trl := rfl
@[simp] theorem State.put_hv (f : Field) (v : Nat) : (s.put f v).hv = s.hv := rfl
@[simp] theorem State.put_panel (f : Field) (v : Nat) : (s.put f v).panel = s.panel := rfl
@[simp] theorem State.put_rack (f : Field) (v : Nat) : (s.put f v).rack = s.rack := rfl
@[simp] theorem State.put_codec (f : Field) (v : Nat) : (s.put f v).codec = s.codec := rfl
@[simp] theorem State.put_fuses (f : Field) (v : Nat) : (s.put f v).fuses = s.fuses := rfl
@[simp] theorem State.put_sensed (f : Field) (v : Nat) : (s.put f v).sensed = s.sensed := rfl
@[simp] theorem State.put_pins (f : Field) (v : Nat) : (s.put f v).pins = s.pins := rfl
@[simp] theorem State.put_loader (f : Field) (v : Nat) : (s.put f v).loader = s.loader := rfl
@[simp] theorem State.put_pcieUp (f : Field) (v : Nat) : (s.put f v).pcieUp = s.pcieUp := rfl
@[simp] theorem State.put_clock (f : Field) (v : Nat) : (s.put f v).clock = s.clock := rfl
@[simp] theorem State.put_dram (f : Field) (v : Nat) : (s.put f v).dram = s.dram := rfl
@[simp] theorem State.put_pll (f : Field) (v : Nat) : (s.put f v).pll = s.pll := rfl
@[simp] theorem State.put_pwr (f : Field) (v : Nat) : (s.put f v).pwr = s.pwr := rfl
@[simp] theorem State.put_therm (f : Field) (v : Nat) : (s.put f v).therm = s.therm := rfl
@[simp] theorem State.put_cal (f : Field) (v : Nat) : (s.put f v).cal = s.cal := rfl
@[simp] theorem State.put_pending (f : Field) (v : Nat) : (s.put f v).pending = s.pending := rfl

/-! ## setAct -/

@[simp] theorem State.setAct_mode (a : Nat) (w : Word) : (s.setAct a w).mode = s.mode := rfl
@[simp] theorem State.setAct_regs (a : Nat) (w : Word) : (s.setAct a w).regs = s.regs := rfl
@[simp] theorem State.setAct_wos (a : Nat) (w : Word) : (s.setAct a w).wos = s.wos := rfl
@[simp] theorem State.setAct_mem (a : Nat) (w : Word) : (s.setAct a w).mem = s.mem := rfl
@[simp] theorem State.setAct_free (a : Nat) (w : Word) : (s.setAct a w).free = s.free := rfl
@[simp] theorem State.setAct_rdata (a : Nat) (w : Word) : (s.setAct a w).rdata = s.rdata := rfl
@[simp] theorem State.setAct_out (a : Nat) (w : Word) : (s.setAct a w).out = s.out := rfl
@[simp] theorem State.setAct_eventN (a : Nat) (w : Word) : (s.setAct a w).eventN = s.eventN := rfl
@[simp] theorem State.setAct_evt (a : Nat) (w : Word) : (s.setAct a w).evt = s.evt := rfl
@[simp] theorem State.setAct_link (a : Nat) (w : Word) : (s.setAct a w).link = s.link := rfl
@[simp] theorem State.setAct_tb (a : Nat) (w : Word) : (s.setAct a w).tb = s.tb := rfl
@[simp] theorem State.setAct_tsq (a : Nat) (w : Word) : (s.setAct a w).tsq = s.tsq := rfl
@[simp] theorem State.setAct_frm (a : Nat) (w : Word) : (s.setAct a w).frm = s.frm := rfl
@[simp] theorem State.setAct_dist (a : Nat) (w : Word) : (s.setAct a w).dist = s.dist := rfl
@[simp] theorem State.setAct_press (a : Nat) (w : Word) : (s.setAct a w).press = s.press := rfl
@[simp] theorem State.setAct_imgP (a : Nat) (w : Word) : (s.setAct a w).imgP = s.imgP := rfl
@[simp] theorem State.setAct_imgS (a : Nat) (w : Word) : (s.setAct a w).imgS = s.imgS := rfl
@[simp] theorem State.setAct_lut (a : Nat) (w : Word) : (s.setAct a w).lut = s.lut := rfl
@[simp] theorem State.setAct_seq (a : Nat) (w : Word) : (s.setAct a w).seq = s.seq := rfl
@[simp] theorem State.setAct_rmon (a : Nat) (w : Word) : (s.setAct a w).rmon = s.rmon := rfl
@[simp] theorem State.setAct_trl (a : Nat) (w : Word) : (s.setAct a w).trl = s.trl := rfl
@[simp] theorem State.setAct_hv (a : Nat) (w : Word) : (s.setAct a w).hv = s.hv := rfl
@[simp] theorem State.setAct_panel (a : Nat) (w : Word) : (s.setAct a w).panel = s.panel := rfl
@[simp] theorem State.setAct_rack (a : Nat) (w : Word) : (s.setAct a w).rack = s.rack := rfl
@[simp] theorem State.setAct_codec (a : Nat) (w : Word) : (s.setAct a w).codec = s.codec := rfl
@[simp] theorem State.setAct_fuses (a : Nat) (w : Word) : (s.setAct a w).fuses = s.fuses := rfl
@[simp] theorem State.setAct_sensed (a : Nat) (w : Word) : (s.setAct a w).sensed = s.sensed := rfl
@[simp] theorem State.setAct_pins (a : Nat) (w : Word) : (s.setAct a w).pins = s.pins := rfl
@[simp] theorem State.setAct_loader (a : Nat) (w : Word) : (s.setAct a w).loader = s.loader := rfl
@[simp] theorem State.setAct_pcieUp (a : Nat) (w : Word) : (s.setAct a w).pcieUp = s.pcieUp := rfl
@[simp] theorem State.setAct_clock (a : Nat) (w : Word) : (s.setAct a w).clock = s.clock := rfl
@[simp] theorem State.setAct_dram (a : Nat) (w : Word) : (s.setAct a w).dram = s.dram := rfl
@[simp] theorem State.setAct_pll (a : Nat) (w : Word) : (s.setAct a w).pll = s.pll := rfl
@[simp] theorem State.setAct_pwr (a : Nat) (w : Word) : (s.setAct a w).pwr = s.pwr := rfl
@[simp] theorem State.setAct_therm (a : Nat) (w : Word) : (s.setAct a w).therm = s.therm := rfl
@[simp] theorem State.setAct_cal (a : Nat) (w : Word) : (s.setAct a w).cal = s.cal := rfl
@[simp] theorem State.setAct_pending (a : Nat) (w : Word) : (s.setAct a w).pending = s.pending := rfl

/-! ## emit -/

@[simp] theorem State.emit_mode (o : Out) : (s.emit o).mode = s.mode := rfl
@[simp] theorem State.emit_regs (o : Out) : (s.emit o).regs = s.regs := rfl
@[simp] theorem State.emit_act (o : Out) : (s.emit o).act = s.act := rfl
@[simp] theorem State.emit_wos (o : Out) : (s.emit o).wos = s.wos := rfl
@[simp] theorem State.emit_mem (o : Out) : (s.emit o).mem = s.mem := rfl
@[simp] theorem State.emit_free (o : Out) : (s.emit o).free = s.free := rfl
@[simp] theorem State.emit_rdata (o : Out) : (s.emit o).rdata = s.rdata := rfl
@[simp] theorem State.emit_eventN (o : Out) : (s.emit o).eventN = s.eventN := rfl
@[simp] theorem State.emit_evt (o : Out) : (s.emit o).evt = s.evt := rfl
@[simp] theorem State.emit_link (o : Out) : (s.emit o).link = s.link := rfl
@[simp] theorem State.emit_tb (o : Out) : (s.emit o).tb = s.tb := rfl
@[simp] theorem State.emit_tsq (o : Out) : (s.emit o).tsq = s.tsq := rfl
@[simp] theorem State.emit_frm (o : Out) : (s.emit o).frm = s.frm := rfl
@[simp] theorem State.emit_dist (o : Out) : (s.emit o).dist = s.dist := rfl
@[simp] theorem State.emit_press (o : Out) : (s.emit o).press = s.press := rfl
@[simp] theorem State.emit_imgP (o : Out) : (s.emit o).imgP = s.imgP := rfl
@[simp] theorem State.emit_imgS (o : Out) : (s.emit o).imgS = s.imgS := rfl
@[simp] theorem State.emit_lut (o : Out) : (s.emit o).lut = s.lut := rfl
@[simp] theorem State.emit_seq (o : Out) : (s.emit o).seq = s.seq := rfl
@[simp] theorem State.emit_rmon (o : Out) : (s.emit o).rmon = s.rmon := rfl
@[simp] theorem State.emit_trl (o : Out) : (s.emit o).trl = s.trl := rfl
@[simp] theorem State.emit_hv (o : Out) : (s.emit o).hv = s.hv := rfl
@[simp] theorem State.emit_panel (o : Out) : (s.emit o).panel = s.panel := rfl
@[simp] theorem State.emit_rack (o : Out) : (s.emit o).rack = s.rack := rfl
@[simp] theorem State.emit_codec (o : Out) : (s.emit o).codec = s.codec := rfl
@[simp] theorem State.emit_fuses (o : Out) : (s.emit o).fuses = s.fuses := rfl
@[simp] theorem State.emit_sensed (o : Out) : (s.emit o).sensed = s.sensed := rfl
@[simp] theorem State.emit_pins (o : Out) : (s.emit o).pins = s.pins := rfl
@[simp] theorem State.emit_loader (o : Out) : (s.emit o).loader = s.loader := rfl
@[simp] theorem State.emit_pcieUp (o : Out) : (s.emit o).pcieUp = s.pcieUp := rfl
@[simp] theorem State.emit_clock (o : Out) : (s.emit o).clock = s.clock := rfl
@[simp] theorem State.emit_dram (o : Out) : (s.emit o).dram = s.dram := rfl
@[simp] theorem State.emit_pll (o : Out) : (s.emit o).pll = s.pll := rfl
@[simp] theorem State.emit_pwr (o : Out) : (s.emit o).pwr = s.pwr := rfl
@[simp] theorem State.emit_therm (o : Out) : (s.emit o).therm = s.therm := rfl
@[simp] theorem State.emit_cal (o : Out) : (s.emit o).cal = s.cal := rfl
@[simp] theorem State.emit_pending (o : Out) : (s.emit o).pending = s.pending := rfl

/-! ## onPort -/

@[simp] theorem State.onPort_mode (p : Fin 4) (f : LinkPort → LinkPort) : (s.onPort p f).mode = s.mode := rfl
@[simp] theorem State.onPort_regs (p : Fin 4) (f : LinkPort → LinkPort) : (s.onPort p f).regs = s.regs := rfl
@[simp] theorem State.onPort_act (p : Fin 4) (f : LinkPort → LinkPort) : (s.onPort p f).act = s.act := rfl
@[simp] theorem State.onPort_wos (p : Fin 4) (f : LinkPort → LinkPort) : (s.onPort p f).wos = s.wos := rfl
@[simp] theorem State.onPort_mem (p : Fin 4) (f : LinkPort → LinkPort) : (s.onPort p f).mem = s.mem := rfl
@[simp] theorem State.onPort_free (p : Fin 4) (f : LinkPort → LinkPort) : (s.onPort p f).free = s.free := rfl
@[simp] theorem State.onPort_rdata (p : Fin 4) (f : LinkPort → LinkPort) : (s.onPort p f).rdata = s.rdata := rfl
@[simp] theorem State.onPort_out (p : Fin 4) (f : LinkPort → LinkPort) : (s.onPort p f).out = s.out := rfl
@[simp] theorem State.onPort_eventN (p : Fin 4) (f : LinkPort → LinkPort) : (s.onPort p f).eventN = s.eventN := rfl
@[simp] theorem State.onPort_evt (p : Fin 4) (f : LinkPort → LinkPort) : (s.onPort p f).evt = s.evt := rfl
@[simp] theorem State.onPort_tb (p : Fin 4) (f : LinkPort → LinkPort) : (s.onPort p f).tb = s.tb := rfl
@[simp] theorem State.onPort_tsq (p : Fin 4) (f : LinkPort → LinkPort) : (s.onPort p f).tsq = s.tsq := rfl
@[simp] theorem State.onPort_frm (p : Fin 4) (f : LinkPort → LinkPort) : (s.onPort p f).frm = s.frm := rfl
@[simp] theorem State.onPort_dist (p : Fin 4) (f : LinkPort → LinkPort) : (s.onPort p f).dist = s.dist := rfl
@[simp] theorem State.onPort_press (p : Fin 4) (f : LinkPort → LinkPort) : (s.onPort p f).press = s.press := rfl
@[simp] theorem State.onPort_imgP (p : Fin 4) (f : LinkPort → LinkPort) : (s.onPort p f).imgP = s.imgP := rfl
@[simp] theorem State.onPort_imgS (p : Fin 4) (f : LinkPort → LinkPort) : (s.onPort p f).imgS = s.imgS := rfl
@[simp] theorem State.onPort_lut (p : Fin 4) (f : LinkPort → LinkPort) : (s.onPort p f).lut = s.lut := rfl
@[simp] theorem State.onPort_seq (p : Fin 4) (f : LinkPort → LinkPort) : (s.onPort p f).seq = s.seq := rfl
@[simp] theorem State.onPort_rmon (p : Fin 4) (f : LinkPort → LinkPort) : (s.onPort p f).rmon = s.rmon := rfl
@[simp] theorem State.onPort_trl (p : Fin 4) (f : LinkPort → LinkPort) : (s.onPort p f).trl = s.trl := rfl
@[simp] theorem State.onPort_hv (p : Fin 4) (f : LinkPort → LinkPort) : (s.onPort p f).hv = s.hv := rfl
@[simp] theorem State.onPort_panel (p : Fin 4) (f : LinkPort → LinkPort) : (s.onPort p f).panel = s.panel := rfl
@[simp] theorem State.onPort_rack (p : Fin 4) (f : LinkPort → LinkPort) : (s.onPort p f).rack = s.rack := rfl
@[simp] theorem State.onPort_codec (p : Fin 4) (f : LinkPort → LinkPort) : (s.onPort p f).codec = s.codec := rfl
@[simp] theorem State.onPort_fuses (p : Fin 4) (f : LinkPort → LinkPort) : (s.onPort p f).fuses = s.fuses := rfl
@[simp] theorem State.onPort_sensed (p : Fin 4) (f : LinkPort → LinkPort) : (s.onPort p f).sensed = s.sensed := rfl
@[simp] theorem State.onPort_pins (p : Fin 4) (f : LinkPort → LinkPort) : (s.onPort p f).pins = s.pins := rfl
@[simp] theorem State.onPort_loader (p : Fin 4) (f : LinkPort → LinkPort) : (s.onPort p f).loader = s.loader := rfl
@[simp] theorem State.onPort_pcieUp (p : Fin 4) (f : LinkPort → LinkPort) : (s.onPort p f).pcieUp = s.pcieUp := rfl
@[simp] theorem State.onPort_clock (p : Fin 4) (f : LinkPort → LinkPort) : (s.onPort p f).clock = s.clock := rfl
@[simp] theorem State.onPort_dram (p : Fin 4) (f : LinkPort → LinkPort) : (s.onPort p f).dram = s.dram := rfl
@[simp] theorem State.onPort_pll (p : Fin 4) (f : LinkPort → LinkPort) : (s.onPort p f).pll = s.pll := rfl
@[simp] theorem State.onPort_pwr (p : Fin 4) (f : LinkPort → LinkPort) : (s.onPort p f).pwr = s.pwr := rfl
@[simp] theorem State.onPort_therm (p : Fin 4) (f : LinkPort → LinkPort) : (s.onPort p f).therm = s.therm := rfl
@[simp] theorem State.onPort_cal (p : Fin 4) (f : LinkPort → LinkPort) : (s.onPort p f).cal = s.cal := rfl
@[simp] theorem State.onPort_pending (p : Fin 4) (f : LinkPort → LinkPort) : (s.onPort p f).pending = s.pending := rfl

/-! ## onPress -/

@[simp] theorem State.onPress_mode (n : Fin 48) (f : Press → Press) : (s.onPress n f).mode = s.mode := rfl
@[simp] theorem State.onPress_regs (n : Fin 48) (f : Press → Press) : (s.onPress n f).regs = s.regs := rfl
@[simp] theorem State.onPress_act (n : Fin 48) (f : Press → Press) : (s.onPress n f).act = s.act := rfl
@[simp] theorem State.onPress_wos (n : Fin 48) (f : Press → Press) : (s.onPress n f).wos = s.wos := rfl
@[simp] theorem State.onPress_mem (n : Fin 48) (f : Press → Press) : (s.onPress n f).mem = s.mem := rfl
@[simp] theorem State.onPress_free (n : Fin 48) (f : Press → Press) : (s.onPress n f).free = s.free := rfl
@[simp] theorem State.onPress_rdata (n : Fin 48) (f : Press → Press) : (s.onPress n f).rdata = s.rdata := rfl
@[simp] theorem State.onPress_out (n : Fin 48) (f : Press → Press) : (s.onPress n f).out = s.out := rfl
@[simp] theorem State.onPress_eventN (n : Fin 48) (f : Press → Press) : (s.onPress n f).eventN = s.eventN := rfl
@[simp] theorem State.onPress_evt (n : Fin 48) (f : Press → Press) : (s.onPress n f).evt = s.evt := rfl
@[simp] theorem State.onPress_link (n : Fin 48) (f : Press → Press) : (s.onPress n f).link = s.link := rfl
@[simp] theorem State.onPress_tb (n : Fin 48) (f : Press → Press) : (s.onPress n f).tb = s.tb := rfl
@[simp] theorem State.onPress_tsq (n : Fin 48) (f : Press → Press) : (s.onPress n f).tsq = s.tsq := rfl
@[simp] theorem State.onPress_frm (n : Fin 48) (f : Press → Press) : (s.onPress n f).frm = s.frm := rfl
@[simp] theorem State.onPress_dist (n : Fin 48) (f : Press → Press) : (s.onPress n f).dist = s.dist := rfl
@[simp] theorem State.onPress_imgP (n : Fin 48) (f : Press → Press) : (s.onPress n f).imgP = s.imgP := rfl
@[simp] theorem State.onPress_imgS (n : Fin 48) (f : Press → Press) : (s.onPress n f).imgS = s.imgS := rfl
@[simp] theorem State.onPress_lut (n : Fin 48) (f : Press → Press) : (s.onPress n f).lut = s.lut := rfl
@[simp] theorem State.onPress_seq (n : Fin 48) (f : Press → Press) : (s.onPress n f).seq = s.seq := rfl
@[simp] theorem State.onPress_rmon (n : Fin 48) (f : Press → Press) : (s.onPress n f).rmon = s.rmon := rfl
@[simp] theorem State.onPress_trl (n : Fin 48) (f : Press → Press) : (s.onPress n f).trl = s.trl := rfl
@[simp] theorem State.onPress_hv (n : Fin 48) (f : Press → Press) : (s.onPress n f).hv = s.hv := rfl
@[simp] theorem State.onPress_panel (n : Fin 48) (f : Press → Press) : (s.onPress n f).panel = s.panel := rfl
@[simp] theorem State.onPress_rack (n : Fin 48) (f : Press → Press) : (s.onPress n f).rack = s.rack := rfl
@[simp] theorem State.onPress_codec (n : Fin 48) (f : Press → Press) : (s.onPress n f).codec = s.codec := rfl
@[simp] theorem State.onPress_fuses (n : Fin 48) (f : Press → Press) : (s.onPress n f).fuses = s.fuses := rfl
@[simp] theorem State.onPress_sensed (n : Fin 48) (f : Press → Press) : (s.onPress n f).sensed = s.sensed := rfl
@[simp] theorem State.onPress_pins (n : Fin 48) (f : Press → Press) : (s.onPress n f).pins = s.pins := rfl
@[simp] theorem State.onPress_loader (n : Fin 48) (f : Press → Press) : (s.onPress n f).loader = s.loader := rfl
@[simp] theorem State.onPress_pcieUp (n : Fin 48) (f : Press → Press) : (s.onPress n f).pcieUp = s.pcieUp := rfl
@[simp] theorem State.onPress_clock (n : Fin 48) (f : Press → Press) : (s.onPress n f).clock = s.clock := rfl
@[simp] theorem State.onPress_dram (n : Fin 48) (f : Press → Press) : (s.onPress n f).dram = s.dram := rfl
@[simp] theorem State.onPress_pll (n : Fin 48) (f : Press → Press) : (s.onPress n f).pll = s.pll := rfl
@[simp] theorem State.onPress_pwr (n : Fin 48) (f : Press → Press) : (s.onPress n f).pwr = s.pwr := rfl
@[simp] theorem State.onPress_therm (n : Fin 48) (f : Press → Press) : (s.onPress n f).therm = s.therm := rfl
@[simp] theorem State.onPress_cal (n : Fin 48) (f : Press → Press) : (s.onPress n f).cal = s.cal := rfl
@[simp] theorem State.onPress_pending (n : Fin 48) (f : Press → Press) : (s.onPress n f).pending = s.pending := rfl

/-! ## onThread -/

@[simp] theorem State.onThread_mode (t : Fin 16) (f : Thread → Thread) : (s.onThread t f).mode = s.mode := rfl
@[simp] theorem State.onThread_regs (t : Fin 16) (f : Thread → Thread) : (s.onThread t f).regs = s.regs := rfl
@[simp] theorem State.onThread_act (t : Fin 16) (f : Thread → Thread) : (s.onThread t f).act = s.act := rfl
@[simp] theorem State.onThread_wos (t : Fin 16) (f : Thread → Thread) : (s.onThread t f).wos = s.wos := rfl
@[simp] theorem State.onThread_mem (t : Fin 16) (f : Thread → Thread) : (s.onThread t f).mem = s.mem := rfl
@[simp] theorem State.onThread_free (t : Fin 16) (f : Thread → Thread) : (s.onThread t f).free = s.free := rfl
@[simp] theorem State.onThread_rdata (t : Fin 16) (f : Thread → Thread) : (s.onThread t f).rdata = s.rdata := rfl
@[simp] theorem State.onThread_out (t : Fin 16) (f : Thread → Thread) : (s.onThread t f).out = s.out := rfl
@[simp] theorem State.onThread_eventN (t : Fin 16) (f : Thread → Thread) : (s.onThread t f).eventN = s.eventN := rfl
@[simp] theorem State.onThread_evt (t : Fin 16) (f : Thread → Thread) : (s.onThread t f).evt = s.evt := rfl
@[simp] theorem State.onThread_link (t : Fin 16) (f : Thread → Thread) : (s.onThread t f).link = s.link := rfl
@[simp] theorem State.onThread_tb (t : Fin 16) (f : Thread → Thread) : (s.onThread t f).tb = s.tb := rfl
@[simp] theorem State.onThread_tsq (t : Fin 16) (f : Thread → Thread) : (s.onThread t f).tsq = s.tsq := rfl
@[simp] theorem State.onThread_frm (t : Fin 16) (f : Thread → Thread) : (s.onThread t f).frm = s.frm := rfl
@[simp] theorem State.onThread_dist (t : Fin 16) (f : Thread → Thread) : (s.onThread t f).dist = s.dist := rfl
@[simp] theorem State.onThread_press (t : Fin 16) (f : Thread → Thread) : (s.onThread t f).press = s.press := rfl
@[simp] theorem State.onThread_imgP (t : Fin 16) (f : Thread → Thread) : (s.onThread t f).imgP = s.imgP := rfl
@[simp] theorem State.onThread_imgS (t : Fin 16) (f : Thread → Thread) : (s.onThread t f).imgS = s.imgS := rfl
@[simp] theorem State.onThread_lut (t : Fin 16) (f : Thread → Thread) : (s.onThread t f).lut = s.lut := rfl
@[simp] theorem State.onThread_rmon (t : Fin 16) (f : Thread → Thread) : (s.onThread t f).rmon = s.rmon := rfl
@[simp] theorem State.onThread_trl (t : Fin 16) (f : Thread → Thread) : (s.onThread t f).trl = s.trl := rfl
@[simp] theorem State.onThread_hv (t : Fin 16) (f : Thread → Thread) : (s.onThread t f).hv = s.hv := rfl
@[simp] theorem State.onThread_panel (t : Fin 16) (f : Thread → Thread) : (s.onThread t f).panel = s.panel := rfl
@[simp] theorem State.onThread_rack (t : Fin 16) (f : Thread → Thread) : (s.onThread t f).rack = s.rack := rfl
@[simp] theorem State.onThread_codec (t : Fin 16) (f : Thread → Thread) : (s.onThread t f).codec = s.codec := rfl
@[simp] theorem State.onThread_fuses (t : Fin 16) (f : Thread → Thread) : (s.onThread t f).fuses = s.fuses := rfl
@[simp] theorem State.onThread_sensed (t : Fin 16) (f : Thread → Thread) : (s.onThread t f).sensed = s.sensed := rfl
@[simp] theorem State.onThread_pins (t : Fin 16) (f : Thread → Thread) : (s.onThread t f).pins = s.pins := rfl
@[simp] theorem State.onThread_loader (t : Fin 16) (f : Thread → Thread) : (s.onThread t f).loader = s.loader := rfl
@[simp] theorem State.onThread_pcieUp (t : Fin 16) (f : Thread → Thread) : (s.onThread t f).pcieUp = s.pcieUp := rfl
@[simp] theorem State.onThread_clock (t : Fin 16) (f : Thread → Thread) : (s.onThread t f).clock = s.clock := rfl
@[simp] theorem State.onThread_dram (t : Fin 16) (f : Thread → Thread) : (s.onThread t f).dram = s.dram := rfl
@[simp] theorem State.onThread_pll (t : Fin 16) (f : Thread → Thread) : (s.onThread t f).pll = s.pll := rfl
@[simp] theorem State.onThread_pwr (t : Fin 16) (f : Thread → Thread) : (s.onThread t f).pwr = s.pwr := rfl
@[simp] theorem State.onThread_therm (t : Fin 16) (f : Thread → Thread) : (s.onThread t f).therm = s.therm := rfl
@[simp] theorem State.onThread_cal (t : Fin 16) (f : Thread → Thread) : (s.onThread t f).cal = s.cal := rfl
@[simp] theorem State.onThread_pending (t : Fin 16) (f : Thread → Thread) : (s.onThread t f).pending = s.pending := rfl

/-! ## onLane -/

@[simp] theorem State.onLane_mode (n : Fin 32) (f : Lane → Lane) : (s.onLane n f).mode = s.mode := rfl
@[simp] theorem State.onLane_regs (n : Fin 32) (f : Lane → Lane) : (s.onLane n f).regs = s.regs := rfl
@[simp] theorem State.onLane_act (n : Fin 32) (f : Lane → Lane) : (s.onLane n f).act = s.act := rfl
@[simp] theorem State.onLane_wos (n : Fin 32) (f : Lane → Lane) : (s.onLane n f).wos = s.wos := rfl
@[simp] theorem State.onLane_mem (n : Fin 32) (f : Lane → Lane) : (s.onLane n f).mem = s.mem := rfl
@[simp] theorem State.onLane_free (n : Fin 32) (f : Lane → Lane) : (s.onLane n f).free = s.free := rfl
@[simp] theorem State.onLane_rdata (n : Fin 32) (f : Lane → Lane) : (s.onLane n f).rdata = s.rdata := rfl
@[simp] theorem State.onLane_out (n : Fin 32) (f : Lane → Lane) : (s.onLane n f).out = s.out := rfl
@[simp] theorem State.onLane_eventN (n : Fin 32) (f : Lane → Lane) : (s.onLane n f).eventN = s.eventN := rfl
@[simp] theorem State.onLane_evt (n : Fin 32) (f : Lane → Lane) : (s.onLane n f).evt = s.evt := rfl
@[simp] theorem State.onLane_link (n : Fin 32) (f : Lane → Lane) : (s.onLane n f).link = s.link := rfl
@[simp] theorem State.onLane_tb (n : Fin 32) (f : Lane → Lane) : (s.onLane n f).tb = s.tb := rfl
@[simp] theorem State.onLane_tsq (n : Fin 32) (f : Lane → Lane) : (s.onLane n f).tsq = s.tsq := rfl
@[simp] theorem State.onLane_frm (n : Fin 32) (f : Lane → Lane) : (s.onLane n f).frm = s.frm := rfl
@[simp] theorem State.onLane_dist (n : Fin 32) (f : Lane → Lane) : (s.onLane n f).dist = s.dist := rfl
@[simp] theorem State.onLane_press (n : Fin 32) (f : Lane → Lane) : (s.onLane n f).press = s.press := rfl
@[simp] theorem State.onLane_imgP (n : Fin 32) (f : Lane → Lane) : (s.onLane n f).imgP = s.imgP := rfl
@[simp] theorem State.onLane_imgS (n : Fin 32) (f : Lane → Lane) : (s.onLane n f).imgS = s.imgS := rfl
@[simp] theorem State.onLane_lut (n : Fin 32) (f : Lane → Lane) : (s.onLane n f).lut = s.lut := rfl
@[simp] theorem State.onLane_seq (n : Fin 32) (f : Lane → Lane) : (s.onLane n f).seq = s.seq := rfl
@[simp] theorem State.onLane_rmon (n : Fin 32) (f : Lane → Lane) : (s.onLane n f).rmon = s.rmon := rfl
@[simp] theorem State.onLane_trl (n : Fin 32) (f : Lane → Lane) : (s.onLane n f).trl = s.trl := rfl
@[simp] theorem State.onLane_hv (n : Fin 32) (f : Lane → Lane) : (s.onLane n f).hv = s.hv := rfl
@[simp] theorem State.onLane_panel (n : Fin 32) (f : Lane → Lane) : (s.onLane n f).panel = s.panel := rfl
@[simp] theorem State.onLane_rack (n : Fin 32) (f : Lane → Lane) : (s.onLane n f).rack = s.rack := rfl
@[simp] theorem State.onLane_fuses (n : Fin 32) (f : Lane → Lane) : (s.onLane n f).fuses = s.fuses := rfl
@[simp] theorem State.onLane_sensed (n : Fin 32) (f : Lane → Lane) : (s.onLane n f).sensed = s.sensed := rfl
@[simp] theorem State.onLane_pins (n : Fin 32) (f : Lane → Lane) : (s.onLane n f).pins = s.pins := rfl
@[simp] theorem State.onLane_loader (n : Fin 32) (f : Lane → Lane) : (s.onLane n f).loader = s.loader := rfl
@[simp] theorem State.onLane_pcieUp (n : Fin 32) (f : Lane → Lane) : (s.onLane n f).pcieUp = s.pcieUp := rfl
@[simp] theorem State.onLane_clock (n : Fin 32) (f : Lane → Lane) : (s.onLane n f).clock = s.clock := rfl
@[simp] theorem State.onLane_dram (n : Fin 32) (f : Lane → Lane) : (s.onLane n f).dram = s.dram := rfl
@[simp] theorem State.onLane_pll (n : Fin 32) (f : Lane → Lane) : (s.onLane n f).pll = s.pll := rfl
@[simp] theorem State.onLane_pwr (n : Fin 32) (f : Lane → Lane) : (s.onLane n f).pwr = s.pwr := rfl
@[simp] theorem State.onLane_therm (n : Fin 32) (f : Lane → Lane) : (s.onLane n f).therm = s.therm := rfl
@[simp] theorem State.onLane_cal (n : Fin 32) (f : Lane → Lane) : (s.onLane n f).cal = s.cal := rfl
@[simp] theorem State.onLane_pending (n : Fin 32) (f : Lane → Lane) : (s.onLane n f).pending = s.pending := rfl

/-! ## Registers -/

@[simp] theorem State.reg_setReg (a b : Nat) (w : Word) : (s.setReg a w).reg b = if b = a then w else s.reg b := by
  unfold State.reg State.setReg
  dsimp only
  by_cases h : b = a
  · subst h; simp [assocGet_set]
  · rw [if_neg h]
    unfold assocSet
    split
    · rw [assocGet_erase, if_neg h]
    · rw [assocGet_insert _ _ _ _ _ (assocErase_lacks a s.regs), if_neg h, assocGet_erase, if_neg h]

@[simp] theorem State.actReg_setAct (a b : Nat) (w : Word) : (s.setAct a w).actReg b = if b = a then w else s.actReg b := by
  unfold State.actReg State.setAct
  dsimp only
  by_cases h : b = a
  · subst h; simp [assocGet_set]
  · rw [if_neg h]
    unfold assocSet
    split
    · rw [assocGet_erase, if_neg h]
    · rw [assocGet_insert _ _ _ _ _ (assocErase_lacks a s.act), if_neg h, assocGet_erase, if_neg h]

theorem State.reg_put (f : Field) (v b : Nat) :
    (s.put f v).reg b = if b = f.addr then f.into v (s.reg f.addr) else s.reg b := State.reg_setReg s _ _ _

/-- The bits of a field after a number is put into it. -/
theorem Field.getLsbD_into (f : Field) (v : Nat) (w : Word) (i : Nat) (hi : i < 32) :
    (f.into v w).getLsbD i = if f.lo ≤ i ∧ i < f.lo + f.w then v.testBit (i - f.lo) else w.getLsbD i := by
  unfold Field.into Field.mask RegMap.place
  rw [BitVec.getLsbD_or, BitVec.getLsbD_and, BitVec.getLsbD_not, BitVec.getLsbD_ofNat, BitVec.getLsbD_ofNat,
    Nat.testBit_shiftLeft, Nat.testBit_shiftLeft, Nat.testBit_two_pow_sub_one, Nat.testBit_mod_two_pow]
  by_cases hlo : f.lo ≤ i
  · by_cases hw : i < f.lo + f.w
    · have h1 : i - f.lo < f.w := by omega
      simp [hi, hlo, hw, h1]
    · have h1 : ¬ i - f.lo < f.w := by omega
      simp [hi, hlo, hw, h1]
  · simp [hi, hlo]

theorem Field.testBit_of (f : Field) (w : Word) (i : Nat) : (f.of w).testBit i = (decide (i < f.w) && w.getLsbD (f.lo + i)) := by
  unfold Field.of
  rw [Nat.testBit_mod_two_pow, Nat.testBit_shiftRight]
  rfl

/-- A field of 32 bits or fewer reads what was put into it, cut to its width. -/
theorem Field.of_into (f : Field) (v : Nat) (w : Word) (h : f.lo + f.w ≤ 32) : f.of (f.into v w) = v % 2 ^ f.w := by
  apply Nat.eq_of_testBit_eq
  intro i
  rw [Field.testBit_of, Nat.testBit_mod_two_pow]
  by_cases hi : i < f.w
  · rw [Field.getLsbD_into _ _ _ _ (by omega), if_pos (by omega)]
    simp
  · simp [hi]

/-- A field beside the one that was written reads as before. -/
theorem Field.of_into_other (f g : Field) (v : Nat) (w : Word) (h : g.lo + g.w ≤ 32)
    (hd : f.lo + f.w ≤ g.lo ∨ g.lo + g.w ≤ f.lo) : g.of (f.into v w) = g.of w := by
  apply Nat.eq_of_testBit_eq
  intro i
  rw [Field.testBit_of, Field.testBit_of]
  by_cases hi : i < g.w
  · rw [Field.getLsbD_into _ _ _ _ (by omega), if_neg (by omega)]
  · simp [hi]

theorem State.get_put (f : Field) (v : Nat) (h : f.lo + f.w ≤ 32) : (s.put f v).get f = v % 2 ^ f.w := by
  unfold State.get
  rw [State.reg_put, if_pos rfl, Field.of_into _ _ _ h]

theorem State.get_put_other (f g : Field) (v : Nat) (h : g.lo + g.w ≤ 32)
    (hd : g.addr ≠ f.addr ∨ f.lo + f.w ≤ g.lo ∨ g.lo + g.w ≤ f.lo) : (s.put f v).get g = s.get g := by
  unfold State.get
  rw [State.reg_put]
  by_cases ha : g.addr = f.addr
  · rw [if_pos ha, Field.of_into_other _ _ _ _ h (by omega), ha]
  · rw [if_neg ha]

/-! ## Outcomes -/

theorem State.ifUp_up (f : State → State) (h : s.up = true) : s.ifUp f = .next (f s) := by simp [State.ifUp, h]

theorem State.ifUp_down (f : State → State) (h : s.up = false) : s.ifUp f = .next s := by simp [State.ifUp, h]

theorem State.ifOn_on (f : State → State) (h : s.alwaysOn = true) : s.ifOn f = .next (f s) := by simp [State.ifOn, h]

@[simp] theorem State.when_true (f : State → State) : s.when true f = f s := rfl

@[simp] theorem State.when_false (f : State → State) : s.when false f = s := rfl

/-! ## Raising an event

What a raise does, said once: a relation that holds of each of its updates, and of their succession, holds of the raise. -/

/-- A relation that every update of a raise of one of the 1,024 sources obeys. -/
structure RaiseRel (R : State → State → Prop) : Prop where
  refl : ∀ s, R s s
  trans : ∀ s t u, R s t → R t u → R s u
  status : ∀ s n, n < 1024 → R s (s.setStatus n)
  drop : ∀ s (p : Fin 4), R s (s.count (F.ZL_DROP_QFULL p))
  route : ∀ s, R s (s.count F.ZL_ROUTE_DROP_COUNT)
  port : ∀ s p f, R s (State.onPort s p f)
  store : ∀ s a w, R s (State.storeWord s a w)
  unit : ∀ (s : State) e, R s { s with evt := e }
  ptr : ∀ s f v, Field.addr f = F.EVT_UPD_PTR_addr → R s (State.put s f v)
  pin : ∀ s : State, R s { s with eventN := true }
  out : ∀ s o, R s (State.emit s o)

section Rel

variable {R : State → State → Prop} (h : RaiseRel R) {raise : State → Nat → State} (hr : ∀ t n, n < 1024 → R t (raise t n)) {s}

include h in
theorem RaiseRel.eventRing (x y : Byte) (source : BitVec 10) (lost : Byte) (tb : Word) :
    R s (s.eventRing x y source lost tb) := by
  unfold State.eventRing
  dsimp only
  split
  · exact h.refl _
  · split
    · exact h.ptr _ _ _ rfl
    · have g : ∀ (t : State) e f v, Field.addr f = F.EVT_UPD_PTR_addr → R s t → R s (({ t with evt := e } : State).put f v) :=
        fun t e f v hf ht => h.trans _ _ _ (h.trans _ _ _ ht (h.unit t e)) (h.ptr _ f v hf)
      exact g _ _ _ _ rfl (h.trans _ _ _ (h.trans _ _ _ (h.trans _ _ _ (h.store _ _ _) (h.store _ _ _)) (h.store _ _ _))
        (h.store _ _ _))

include h in
theorem RaiseRel.sendMsi (v : Nat) : R s (s.sendMsi v) := by
  unfold State.sendMsi
  repeat' split
  · exact h.refl _
  · exact h.unit _ _
  · exact h.out _ _

include h hr

theorem RaiseRel.qfull (p : Fin 4) : R s (s.qfull raise p) := by
  have hp := p.isLt
  exact h.trans _ _ _ (h.drop s p) (hr _ _ (by unfold srcLink; omega))

theorem RaiseRel.enqueue (p : Fin 4) (path1 : Bool) (k : Packet) : R s (s.enqueue raise p path1 k) := by
  unfold State.enqueue
  split
  · exact h.port _ _ _
  · exact h.qfull hr p

theorem RaiseRel.routeDrop : R s (s.routeDrop raise) := h.trans _ _ _ (h.route s) (hr _ _ (by decide))

theorem RaiseRel.sendEventCopy (n lost : Nat) (route : Bool) : R s (s.sendEventCopy raise n lost route) := by
  unfold State.sendEventCopy
  dsimp only
  split
  · exact h.eventRing _ _ _ _ _
  · exact h.routeDrop hr
  · exact h.enqueue hr _ _ _

theorem RaiseRel.sendEvent (n : Nat) : R s (s.sendEvent raise n) := by
  unfold State.sendEvent
  split
  · exact h.trans _ _ _ (h.unit _ _) (hr _ _ (by decide))
  · have h1 := h.trans _ _ _ (h.unit s { s.evt with lost := 0, credit := s.evtCredit - 1000000, creditAt := s.clock })
      (h.sendEventCopy hr n s.evt.lost false)
    dsimp only
    split
    · exact h.trans _ _ _ h1 (h.sendEventCopy hr n s.evt.lost true)
    · exact h1

theorem RaiseRel.deliver (n : Nat) : R s (s.deliver raise n) := by
  unfold State.deliver
  dsimp only
  generalize hu : (if s.bit (F.EVT_ROUTE_PIN n) then { s with eventN := true } else s) = u
  have h0 : R s u := by
    rw [← hu]
    split
    · exact h.pin s
    · exact h.refl s
  split
  · exact h0
  · generalize hv : (if u.bit (F.EVT_ROUTE_MSIX n) then u.sendMsi (u.get (F.EVT_ROUTE_VECTOR n)) else u) = v
    have h1 : R s v := by
      rw [← hv]
      split
      · exact h.trans _ _ _ h0 (h.sendMsi _)
      · exact h0
    split
    · exact h.trans _ _ _ h1 (h.sendEvent hr n)
    · exact h1

omit hr in
theorem RaiseRel.raiseWithin (k : Nat) : ∀ t n, n < 1024 → R t (State.raiseWithin k t n) := by
  induction k with
  | zero => exact fun t n hn => h.status t n hn
  | succ k ih =>
    intro t n hn
    unfold State.raiseWithin
    dsimp only
    split
    · exact h.trans _ _ _ (h.status t n hn) (h.deliver ih n)
    · exact h.status t n hn

end Rel

/-- What every update of a raise obeys, the raise obeys. -/
theorem RaiseRel.raise {R : State → State → Prop} (h : RaiseRel R) {s : State} {n : Nat} (hn : n < 1024) : R s (s.raise n) :=
  h.raiseWithin 8 s n hn

/-! ### The frame of a raise -/

theorem storeOpen_eq (a : Nat) (bs : List Byte) : s.storeOpen a bs = { s with mem := (s.storeOpen a bs).mem } := by
  induction bs generalizing s a with
  | nil => rfl
  | cons b bs ih =>
    unfold State.storeOpen
    rw [ih]
    split <;> rfl

/-- A store changes memory alone. -/
theorem store_eq (a : Nat) (bs : List Byte) : s.store a bs = { s with mem := (s.store a bs).mem } := by
  unfold State.store
  split
  · exact storeOpen_eq s a bs
  · rfl

theorem storeWord_eq (a : Nat) (w : Word) : s.storeWord a w = { s with mem := (s.storeWord a w).mem } := store_eq s _ _

variable {s}

/-- A raise changes registers, memory, what leaves the device, the pin, the event unit and the link's queues alone. -/
theorem raiseRel_frame : RaiseRel RaiseFrame where
  refl _ := rfl
  trans s t u h g := by
    unfold RaiseFrame at *
    rw [g, h]
  status s n _ := by
    unfold State.setStatus
    split <;> rfl
  drop _ _ := rfl
  route _ := rfl
  port _ _ _ := rfl
  store s a w := by
    unfold RaiseFrame
    rw [storeWord_eq]
  unit _ _ := rfl
  ptr _ _ _ _ := rfl
  pin _ := rfl
  out _ _ := rfl

theorem raise_frame {n : Nat} (h : n < 1024) : RaiseFrame s (s.raise n) := raiseRel_frame.raise h

/-! ### Registers -/

/-- Registers outside `raiseRegs` read as before. -/
def RegsKept (s t : State) : Prop := ∀ a, a ∉ raiseRegs → t.reg a = s.reg a

theorem regsKept_setReg {a : Nat} (w : Word) (h : a ∈ raiseRegs) : RegsKept s (s.setReg a w) := by
  intro b hb
  rw [State.reg_setReg, if_neg]
  rintro rfl
  exact hb h

theorem reg_storeWord (a b : Nat) (w : Word) : (s.storeWord a w).reg b = s.reg b := by
  rw [storeWord_eq]
  rfl

theorem stat_mem_raiseRegs {g : Nat} (h : g < 32) : F.EVT_STAT_addr g ∈ raiseRegs ∧ F.EVT_AGAIN_addr g ∈ raiseRegs := by
  unfold raiseRegs
  constructor <;> refine List.mem_append_left _ (List.mem_flatMap.2 ⟨g, List.mem_range.2 h, ?_⟩) <;> simp

theorem raiseRel_regsKept : RaiseRel RegsKept where
  refl _ _ _ := rfl
  trans s t u h g a ha := (g a ha).trans (h a ha)
  status s n h := by
    have hg : n / 32 < 32 := by omega
    unfold State.setStatus
    split
    · exact regsKept_setReg _ (stat_mem_raiseRegs hg).2
    · exact regsKept_setReg _ (stat_mem_raiseRegs hg).1
  drop s p := regsKept_setReg _ (List.mem_append_right _ (by fin_cases p <;> simp))
  route s := regsKept_setReg _ (by simp [raiseRegs])
  port _ _ _ _ _ := rfl
  store s a w b _ := reg_storeWord a b w
  unit _ _ _ _ := rfl
  ptr s f v hf := regsKept_setReg _ (by rw [hf]; simp [raiseRegs])
  pin _ _ _ := rfl
  out _ _ _ _ := rfl

/-- A raise of one of the 1,024 sources leaves every register outside `raiseRegs` as it was. -/
theorem raise_regsKept {n : Nat} (h : n < 1024) : RegsKept s (s.raise n) := raiseRel_regsKept.raise h

theorem raise_get {n : Nat} (h : n < 1024) (f : Field) (hf : f.addr ∉ raiseRegs) : (s.raise n).get f = s.get f := by
  unfold State.get
  rw [raise_regsKept h _ hf]

/-! ### Status bits -/

/-- No status bit goes from 1 to 0. -/
def StatusKept (s t : State) : Prop := ∀ n < 1024, s.evStatus n = true → t.evStatus n = true

theorem statusKept_setReg {a : Nat} (w : Word) (h : ∀ g < 32, a ≠ F.EVT_STAT_addr g) : StatusKept s (s.setReg a w) := by
  intro n hn hs
  unfold State.evStatus at *
  rwa [State.reg_setReg, if_neg]
  exact fun e => h (n / 32) (by omega) e.symm

theorem raiseRel_statusKept : RaiseRel StatusKept where
  refl _ _ _ h := h
  trans s t u h g n hn hs := g n hn (h n hn hs)
  status s n h := by
    unfold State.setStatus
    split
    · exact statusKept_setReg _ fun g hg => by simp only [F.EVT_AGAIN_addr, F.EVT_STAT_addr]; omega
    · intro m hm hs
      unfold State.evStatus at *
      rw [State.reg_setReg]
      split
      · rename_i e
        rw [BitVec.getLsbD_or, ← e, hs, Bool.true_or]
      · exact hs
  drop s p := statusKept_setReg _ fun g hg => by have := p.isLt; simp only [F.ZL_DROP_QFULL, F.EVT_STAT_addr]; omega
  route s := statusKept_setReg _ fun g hg => by simp only [F.ZL_ROUTE_DROP_COUNT, F.EVT_STAT_addr]; omega
  port _ _ _ _ _ h := h
  store s a w n _ h := by
    unfold State.evStatus at *
    rwa [reg_storeWord]
  unit _ _ _ _ h := h
  ptr s f v hf := statusKept_setReg _ fun g hg => by rw [hf]; simp only [F.EVT_UPD_PTR_addr, F.EVT_STAT_addr]; omega
  pin _ _ _ h := h
  out _ _ _ _ h := h

theorem raise_statusKept {n : Nat} (h : n < 1024) : StatusKept s (s.raise n) := raiseRel_statusKept.raise h

theorem setStatus_evStatus (n : Nat) : (s.setStatus n).evStatus n = true := by
  unfold State.setStatus
  split
  · rename_i h
    unfold State.evStatus at *
    rwa [State.reg_setReg, if_neg]
    simp only [F.EVT_AGAIN_addr, F.EVT_STAT_addr]
    omega
  · unfold State.evStatus
    rw [State.reg_setReg, if_pos rfl, BitVec.getLsbD_or, evBit]
    simp
    omega

/-- After a raise the source's status bit is 1. -/
theorem raise_evStatus {n : Nat} (h : n < 1024) : (s.raise n).evStatus n = true := by
  unfold State.raise State.raiseWithin
  dsimp only
  split
  · exact raiseRel_statusKept.deliver (raiseRel_statusKept.raiseWithin 7) n n h (setStatus_evStatus n)
  · exact setStatus_evStatus n

end Sys2Proof.Machine
end

