-- ==== Sys2Proof/Laws/Tick.lean ====
section
/-! SUPPORT. Every operation of Machine/Tick.lean keeps soundness. -/

namespace Sys2Proof.Machine

variable {orig : State}

theorem State.endFrame_sound {s : State} (hk : orig.Sound s) :
    orig.Sound (s.endFrame) := by
  unfold State.endFrame
  repeat' first
    | intro _
    | with_reducible first
      | assumption | apply when_sound
    | simp only [sound_mk, parts_sound] | split

theorem State.advance_sound {s : State} (hk : orig.Sound s) :
    orig.Sound (s.advance) := by
  unfold State.advance
  repeat' first
    | intro _
    | with_reducible first
      | assumption | apply sound_ite | apply drainAll_sound | apply endFrame_sound | apply endPulses_sound
      | apply restartIdle_sound | apply sendPanels_sound | apply sendTraining_sound | apply stepPhases_sound
      | apply tick_sound | apply tryPush_sound | apply when_sound | apply sound_foldl
    | simp only [sound_mk, parts_sound] | split | dsimp only

end Sys2Proof.Machine
end

