-- ==== Sys2Proof/Tests/Slice0.lean ====
section
/-! SUPPORT. The tests: for every statement, states and operands that meet the hypotheses of each of its clauses; a term that
each check of well-formedness refuses; and results that the manual's worked examples give. -/

open Sys2Proof Sys2Proof.Machine

set_option maxRecDepth 8000
set_option Elab.async false

namespace Sys2Proof.Tests

/-! ## Witnesses -/

/-- The device at run. -/
def run0 : State := { State.reset with mode := .run }
/-- The device at run at an instant of the time base. -/
def runAt (ns : Word) : State := { run0 with tb := { run0.tb with ns := ns } }
/-- JTAG_LOCK is sensed. -/
def sLock : State := { run0 with sensed := { run0.sensed with jtagLock := true } }
/-- An image of one word of code (R124, R152). -/
def image (profile : Nat) : List Byte :=
  let h := bytesOfNat 4 0x4B4E5448 ++ [3, BitVec.ofNat 8 profile, 0, 0] ++ bytesOfNat 4 4 ++ List.replicate 16 (0 : Byte)
  h ++ bytesOfNat 4 (crc32c (h ++ [0, 0, 0, 0])).toNat ++ [0, 0, 0, 0]
/-- A frame header, and the device with content of half 0 selected under it for the next launch. -/
def hdr0 : FrameHeader := ⟨5, 0, false, 1, 1, 640, 360, 0, 0, 0, 0, 0, 0, [⟨0, 0, 0⟩]⟩
def sel0 : Selection := ⟨some (false, 5), some hdr0, false⟩
def sSel : State := { run0 with frm := { run0.frm with sel := some sel0 } }
/-- A frame header of two views as its payload spells it (R57). -/
def hdrBytes (w h : Nat) : List Byte :=
  let b := [0x54445631, 5, 1, (w - 1) + 1024 * (h - 1), 16, 524288 * 0 + 7, 0x3F800000, 0, 0, 0, 0, 0].flatMap (bytesOfNat 4)
  let b := b.set 18 8
  b ++ bytesOfNat 4 (crc32c b).toNat
/-- The latch of frame 1, and a bundle of it issued at instant 1,000. -/
def latch0 : AngleLatch := ⟨1, hdr0, false, false, 0, [], 64, false, []⟩
def bundle0 : Bundle := ⟨0, 0, 0, 0, 4, 8, 0, 1, 1000, 0, false⟩
/-- Statements about every value an option or a list holds, as checks. -/
theorem all_option {α : Type} {o : Option α} {P : α → Prop} [DecidablePred P] (h : (o.all fun x => decide (P x)) = true) :
    ∀ x, o = some x → P x := by
  rintro x rfl; simpa using h
theorem ex_option {α : Type} {o : Option α} {P : α → Prop} [DecidablePred P] :
    (∃ x, o = some x ∧ P x) ↔ (o.any fun x => decide (P x)) = true := by
  cases o <;> simp
theorem all_cons {α : Type} {l : List α} {P : α → List α → Prop} (h : ∀ x, l.head? = some x → P x l.tail) :
    ∀ x r, l = x :: r → P x r := by
  rintro x r rfl; exact h x rfl
theorem ex_cons {α : Type} {l : List α} {P : α → List α → Prop} (h : ∃ x, l.head? = some x ∧ P x l.tail) :
    ∃ x r, l = x :: r ∧ P x r := by
  obtain ⟨x, hx, hp⟩ := h
  cases l with
  | nil => cases hx
  | cons y r =>
    simp only [List.head?_cons, Option.some.injEq] at hx
    subst hx; exact ⟨_, _, rfl, hp⟩
theorem pressAt_of {s : State} {n : Fin 48} {c : Code} (h : (s.up && s.press[n].busy &&
    s.word (kernelBase + s.press[n].pc.toNat) == c.first && (c.second.all fun x =>
      s.word (kernelBase + (s.press[n].pc.toNat + 4)) == x) && decide (s.press[n].pc.toNat + 4 * c.words < kernelEnd)) = true) :
    s.pressAt n c := by
  simp only [Bool.and_eq_true, beq_iff_eq, decide_eq_true_eq] at h
  exact ⟨h.1.1.1.1, h.1.1.1.2, h.1.1.2, fun x hx => by rw [hx] at h; simpa using h.1.2, h.2⟩
/-- How a descriptor ends, and the state it leaves. -/
def endOf : RackAct → Nat
  | .reject c => 3 + c
  | .wait => 0
  | .done _ => 1
  | .abandon _ => 2
def leaves : RackAct → State
  | .done u => u
  | .abandon u => u
  | _ => State.reset
theorem abandon_of {r : RackAct} (h : endOf r = 2) : r = .abandon (leaves r) := by
  cases r with
  | abandon u => rfl
  | reject c => simp [endOf] at h; omega
  | _ => cases h
theorem done_of {r : RackAct} (h : endOf r = 1) : r = .done (leaves r) := by
  cases r with
  | done u => rfl
  | reject c => simp [endOf] at h; omega
  | _ => cases h
theorem reject_of {r : RackAct} {c : Nat} (h : endOf r = 3 + c) : r = .reject c := by
  cases r <;> simp [endOf] at h <;> first | omega | rw [h]
/-- A pair whose second part is known, and an answer whose first part is known. -/
theorem pair_of_snd {α β : Type} (x : α × β) {b : β} (h : x.2 = b) : x = (x.1, b) := by
  cases x; cases h; rfl
theorem some_of_map {α β : Type} {o : Option (α × β)} {v : α} (h : o.map Prod.fst = some v) : ∃ u, o = some (v, u) := by
  cases o with
  | none => cases h
  | some x => exact ⟨x.2, by cases x; cases h; rfl⟩
theorem forall_within {p : Nat → Bool} {a n : Nat} (h : ((List.range n).all fun i => p (a + i)) = true) :
    ∀ x, a ≤ x → x < a + n → p x = true := by
  intro x h1 h2
  have := List.all_eq_true.mp h (x - a) (List.mem_range.mpr (by omega))
  simpa [Nat.add_sub_cancel' h1] using this
theorem none_enabled {s : State} (h : ((List.range 32).all fun w => s.reg (F.EVT_EN_addr w) == 0) = true) :
    ∀ n, n < 1024 → s.evEnabled n = false := by
  intro n hn
  have := List.all_eq_true.mp h (n / 32) (List.mem_range.mpr (by omega))
  simp [State.evEnabled, eq_of_beq this]
theorem all_none {α : Type} {P : α → Prop} {o : Option α} (h : o = none) : ∀ x, o = some x → P x := by
  intro x hx; rw [h] at hx; cases hx
theorem some_getD {α β : Type} {o : Option (α × β)} {d : α × β} (h : o.isSome = true) :
    o = some ((o.getD d).1, (o.getD d).2) := by
  cases o with
  | none => cases h
  | some x => rfl
theorem ok_of {ε α : Type} {e : Except ε α} {x : α} (h : e.toOption = some x) : e = .ok x := by
  cases e with
  | error c => cases h
  | ok y => cases h; rfl
def errorOf {ε α : Type} : Except ε α → Option ε
  | .error c => some c
  | .ok _ => none
theorem error_of {ε α : Type} {e : Except ε α} {c : ε} (h : errorOf e = some c) : e = .error c := by
  cases e with
  | error d => cases h; rfl
  | ok y => cases h
/-- At run, a command waits, a register and a byte differ from reset. -/
def sA : State := { (run0.put F.EVT_UPD_BASE_BASE 1).storeWord 0x06A00000 5 with pending := [.tbForce, .sleep], pcieUp := true }
/-- Source 40 is raised already and enabled; source 41 is raised. -/
def sEv : State := ((sA.setReg (F.EVT_STAT_addr 1) 0x300).setReg (F.EVT_EN_addr 1) 0x100)
/-- Vector 63 is masked with its bit in the PBA. -/
def sPba : State := { sA with evt := { sA.evt with pba := 1#64 <<< 63 } }
/-- Source 33 is raised, not enabled, and routed to the pin alone. -/
def sPin : State := (run0.setReg (F.EVT_STAT_addr 1) 2).put (F.EVT_ROUTE_PIN 33) 1
/-- The same, enabled. -/
def sPin2 : State := sPin.setReg (F.EVT_EN_addr 1) 2
/-- What follows that command. -/
def sA2 : State := { sA.put F.TB_CTL_FORCE 1 with pending := [.sleep] }
/-- VDDAO is removed. -/
def sOff : State := { State.reset with mode := .off }

/-- States and operands that meet the hypotheses of StepRunsFrontCommand, clause by clause. -/
theorem witness_StepRunsFrontCommand :
    ∃ (s : State) (c : Instr) (q : List Instr), s.pending = c :: q :=
  ⟨sA, (.tbForce), ([.sleep]), by decide +kernel⟩

/-- States and operands that meet the hypotheses of IdleStepLetsTimePass, clause by clause. -/
theorem witness_IdleStepLetsTimePass :
    (∃ s : State, s.pending = [] ∧ s.alwaysOn = false) ∧
    (∃ s : State, s.pending = [] ∧ s.alwaysOn = true) :=
  ⟨⟨State.reset, by decide +kernel⟩,
   ⟨run0, by decide +kernel⟩⟩

/-- States and operands that meet the hypotheses of ResetEnablesTwoSources, clause by clause. -/
theorem witness_ResetEnablesTwoSources :
    (∃ n : Nat, n < 1024 ∧ (n = 687 ∨ n = 993)) ∧
    (∃ n : Nat, n < 1024 ∧ n ≠ 687 ∧ n ≠ 993) :=
  ⟨⟨687, by decide +kernel⟩,
   ⟨992, by decide +kernel⟩⟩

/-- States and operands that meet the hypotheses of StepKeepsCanonicalForm, clause by clause. -/
theorem witness_StepKeepsCanonicalForm :
    ∃ s t : State, s.canonical ∧ step s = .next t :=
  ⟨sA, sA2, by unfold State.canonical Canonical; decide +kernel, by rfl⟩

/-- States and operands that meet the hypotheses of CommandsCompleteAndLeaveQueue, clause by clause. -/
theorem witness_CommandsCompleteAndLeaveQueue :
    ∃ s : State, s.canonical :=
  ⟨sA, by unfold State.canonical Canonical; decide +kernel⟩

/-- States and operands that meet the hypotheses of FuseBitsNeverClear, clause by clause. -/
theorem witness_FuseBitsNeverClear :
    ∃ s t : State, s.canonical ∧ step s = .next t :=
  ⟨sA, sA2, by unfold State.canonical Canonical; decide +kernel, by rfl⟩

/-- States and operands that meet the hypotheses of DownDeviceIgnoresCommands, clause by clause. -/
theorem witness_DownDeviceIgnoresCommands :
    ∃ (c : Instr) (s : State), (∀ (r : Bool), c ≠ Instr.reset r) ∧ (∀ (v : Supply), c ≠ Instr.undervoltageReset v) ∧
      c ≠ Instr.vddaoRemoval ∧ c ≠ Instr.resetRelease ∧ (∀ (r : BitVec 4), c ≠ Instr.railSeqStep r) ∧ c ≠ Instr.vhvBrownout ∧
      c ≠ Instr.brownoutSettleEnd ∧ (s.mode = Mode.off ∨ s.mode = Mode.reset ∨ s.mode = Mode.shutdown) :=
  ⟨.sleep, State.reset, by simp, by simp, by simp, by simp, by simp, by simp, by simp, by decide +kernel⟩

/-- States and operands that meet the hypotheses of FieldWriteChangesThatFieldAlone, clause by clause. -/
theorem witness_FieldWriteChangesThatFieldAlone :
    ∃ f : Field, f.lo + f.w ≤ 32 :=
  ⟨(F.SEQ_LC_CFG_LINE 4), by decide +kernel⟩

/-- States and operands that meet the hypotheses of RaiseRecordsTheSource, clause by clause. -/
theorem witness_RaiseRecordsTheSource :
    ∃ s : State, s.up = true :=
  ⟨sEv, by decide +kernel⟩

/-- States and operands that meet the hypotheses of ReportingHappeningsRaiseTheirSource, clause by clause. -/
theorem witness_ReportingHappeningsRaiseTheirSource :
    (∃ s : State, s.up = true) ∧
    (∃ s : State, s.up = true) ∧
    (∃ s : State, s.up = true) ∧
    (∃ s : State, s.up = true ∧ s.sensed.jtagLock = false) ∧
    (∃ s : State, s.up = true ∧ s.sensed.jtagLock = true) :=
  ⟨⟨sA, by decide +kernel⟩,
   ⟨sA, by decide +kernel⟩,
   ⟨sA, by decide +kernel⟩,
   ⟨sA, by decide +kernel⟩,
   ⟨sLock, by decide +kernel⟩⟩

/-- States and operands that meet the hypotheses of StatusEnableAndMaskCommands, clause by clause. -/
theorem witness_StatusEnableAndMaskCommands :
    (∃ s : State, s.up = true) ∧
    (∃ (s : State) (g i : Fin 32), s.up = true ∧ s.evEnabled (32 * g.val + i.val) = false) ∧
    (∃ (s : State) (g : Fin 32) (value : Word), s.up = true ∧
      s.reg (F.EVT_STAT_addr g.val) &&& value &&& ~~~s.reg (F.EVT_EN_addr g.val) = 0) ∧
    (∃ (s : State) (g i : Fin 32) (value : Word), s.up = true ∧
      s.reg (F.EVT_STAT_addr g.val) &&& value &&& ~~~s.reg (F.EVT_EN_addr g.val) = 1#32 <<< i.val ∧
      s.bit (F.EVT_ROUTE_PIN (32 * g.val + i.val)) = true ∧ s.bit (F.EVT_ROUTE_MSIX (32 * g.val + i.val)) = false ∧
      s.bit (F.EVT_ROUTE_UPDRAFT (32 * g.val + i.val)) = false) ∧
    (∃ (s : State) (v : Fin 64), s.up = true ∧ s.evt.pba.getLsbD v.val = true ∧ s.pcieUp = true) ∧
    (∃ (s : State) (v : Fin 64), s.up = true ∧ (s.evt.pba.getLsbD v.val = false ∨ s.pcieUp = false)) ∧
    (∃ s : State, s.alwaysOn = true ∧ s.pinActive = false) ∧
    (∃ s : State, s.alwaysOn = true ∧ s.pinActive = true) :=
  ⟨⟨sEv, by decide +kernel⟩,
   ⟨sEv, 1, 31, by decide +kernel⟩,
   ⟨sEv, 1, 0x500, by decide +kernel⟩,
   ⟨sPin, 1, 1, 3, by decide +kernel⟩,
   ⟨sPba, 63, by decide +kernel⟩,
   ⟨sPba, 62, by decide +kernel⟩,
   ⟨sPin, by decide +kernel⟩,
   ⟨sPin2, by decide +kernel⟩⟩

/-- The loader waits for a container from the flash or by PCIe. -/
def bootS (sel : BitVec 3) : State := { State.reset with
  mode := .boot, loader := { State.reset.loader with bootsel := sel, waiting := true, since := 5 }, clock := 10000000005 }
/-- A container of one sequencer image (R381). -/
def container : List Byte :=
  let h := bytesOfNat 4 0x54464231 ++ [1, 1, 0, 0] ++ bytesOfNat 4 168 ++ List.replicate 48 (0 : Byte)
  h ++ bytesOfNat 4 (crc32c h).toNat ++ bytesOfNat 4 128 ++ bytesOfNat 4 40 ++ List.replicate 56 (0 : Byte) ++ image 1 ++ [0, 0, 0, 0]
/-- The same with another VERSION, so that its CRC is wrong. -/
def badContainer : List Byte := container.set 12 1
/-- The state once that container's segment is taken. -/
def bootU : State := ((bootS 0).store stagingBase (container.take stagingSize)).doSegments (container.take stagingSize)
  (bootSegs (container.take stagingSize)).zipIdx |>.1
/-- In reset, with the C grade and a strap that names no source. -/
def inReset : State := { State.reset with mode := .reset, pins := 4, fuses := { State.reset.fuses with grade := 2 } }
/-- In the flow of a latched shutdown with the rails off. -/
def sDown : State := { (run0.put F.HVPS_CTL_STATE 5).storeWord 0x06980000 7 with mode := .shutdown }
/-- Ring 0 runs with two entries, at its last one; the link is up. -/
def sDma : State := { ((((run0.put (F.HOST_DMA_CFG_EN 0) 1).put (F.HOST_DMA_SIZE_N 0) 2).put (F.HOST_DMA_PTR_RPTR 0) 1).put
  (F.HOST_DMA_PTR_WPTR 0) 0) with pcieUp := true }
/-- A descriptor of 4 bytes to the general store that asks for its event, and one of no bytes. -/
def desc4 : List Byte := List.replicate 8 (0 : Byte) ++ bytesOfNat 8 0x06A00000 ++ bytesOfNat 4 4 ++ [0, 0, 1, 0] ++ List.replicate 8 (0 : Byte)
def desc0 : List Byte := List.replicate 32 (0 : Byte)
/-- AUTH_EN is sensed. -/
def bootAuth : State := { bootS 0 with sensed := { State.reset.sensed with authEn := true } }

/-- States and operands that meet the hypotheses of ResetAndVddaoRemoval, clause by clause. -/
theorem witness_ResetAndVddaoRemoval :
    (∃ (c : Instr) (s : State), (c = Instr.reset false ∨ c = Instr.reset true ∨ ∃ (v : Supply), c = Instr.undervoltageReset v) ∧
      s.mode ≠ Mode.off) ∧
    (∃ s : State, s.mode = Mode.off) :=
  ⟨⟨(.reset false), sDown, .inl rfl, by decide +kernel⟩,
   ⟨({run0 with mode := .off}), by decide +kernel⟩⟩

/-- States and operands that meet the hypotheses of ReleaseSensesFusesAndStartsLoader, clause by clause. -/
theorem witness_ReleaseSensesFusesAndStartsLoader :
    ∃ s : State, s.mode = Mode.reset ∧ s.pll = State.reset.pll :=
  ⟨inReset, by decide +kernel⟩

/-- States and operands that meet the hypotheses of LoaderTakesOrRefusesContainer, clause by clause. -/
theorem witness_LoaderTakesOrRefusesContainer :
    (∃ (s : State) (bytes : List Byte) (cause seg : Nat), s.mode = Mode.boot ∧ s.loader.waiting = true ∧ s.loader.bootsel = 0 ∧
      containerCause s.sensed (List.take stagingSize bytes) = some (cause, seg)) ∧
    (∃ (s u : State) (bytes : List Byte), (s.store stagingBase (List.take stagingSize bytes)).doSegments (List.take stagingSize
        bytes) (bootSegs (List.take stagingSize bytes)).zipIdx = (u, none) ∧
      s.mode = Mode.boot ∧ s.loader.waiting = true ∧ s.loader.bootsel = 0 ∧
      containerCause s.sensed (List.take stagingSize bytes) = none ∧ u.seq.thr[0].st = ThreadState.stopped ∧
      BitVec.toNat (bootStart (List.take stagingSize bytes)) % 4 = 0 ∧ BitVec.toNat (bootStart (List.take stagingSize bytes)) <
        seqEnd) ∧
    (∃ s : State, s.mode = Mode.boot ∧ s.loader.waiting = true ∧ s.loader.whole = false ∧ s.loader.bootsel ≠ 3 ∧
      s.loader.since + 10000000000 ≤ s.clock) ∧
    (∃ s : State, s.mode = Mode.boot ∧ s.loader.bootsel = 2) ∧
    (∃ s : State, s.mode = Mode.run) :=
  ⟨⟨(bootS 0), badContainer, 2, 0, by decide +kernel⟩,
   ⟨(bootS 0), bootU, container, pair_of_snd _ (by decide +kernel), by decide +kernel⟩,
   ⟨(bootS 0), by decide +kernel⟩,
   ⟨(bootS 2), by decide +kernel⟩,
   ⟨run0, by decide +kernel⟩⟩

/-- States and operands that meet the hypotheses of FuseProgramSetsOneBit, clause by clause. -/
theorem witness_FuseProgramSetsOneBit :
    (∃ (s : State) (field : FuseField) (i : Nat), s.up = true ∧ s.sensed.jtagLock = false ∧ i < field.bits ∧
      s.fuses.bit field i = false) ∧
    (∃ (s : State) (field : FuseField) (i : Nat), s.up = true ∧ (s.sensed.jtagLock = true ∨ s.fuses.bit field i = true)) :=
  ⟨⟨run0, .keyHash, 383, by decide +kernel⟩,
   ⟨sLock, .keyHash, 383, by decide +kernel⟩⟩

/-- States and operands that meet the hypotheses of IngestRingsMoveData, clause by clause. -/
theorem witness_IngestRingsMoveData :
    (∃ s : State, s.up = true ∧ s.pcieUp = false) ∧
    (∃ s : State, s.up = true ∧ s.pcieUp = true) ∧
    (∃ s : State, s.up = true) ∧
    (∃ (s : State) (r : Fin 4) (desc data : List Byte), s.up = true ∧ s.ingestRuns r = true ∧ s.ingestOk desc = true ∧
      onChip (descNat desc 8 5) (descNat desc 16 4) = true ∧ data.length = descNat desc 16 4) :=
  ⟨⟨run0, by decide +kernel⟩,
   ⟨sDma, by decide +kernel⟩,
   ⟨sDma, by decide +kernel⟩,
   ⟨sDma, 0, desc4, ([1,2,3,4]), by decide +kernel⟩⟩

/-- The row of the register at an address, and the instance. -/
def rowAt (a : Nat) : RegRow × List Nat := (RegMap.find a).getD (⟨"", 0, [], []⟩, [])
/-- EVT_UPD_PTR with its W1C bit set; the PCIe link is up. -/
def sPtr : State := { run0.setReg 0x10204 0x10101 with pcieUp := true }
/-- A measurement window of 1 µs has passed, and press 3 is gated. -/
def sWin : State := (((runAt 1000).put F.TOP_RMON_CTL_EN 1).put F.TOP_RMON_CTL_WINDOW_US 1).onPress 3 fun p => { p with does := .gated }

/-- States and operands that meet the hypotheses of RegisterWriteFollowsAccessCodes, clause by clause. -/
theorem witness_RegisterWriteFollowsAccessCodes :
    (∃ (s : State) (path : Path) (addr value : Word) (r : RegRow) (ix : List Nat), RegMap.find (BitVec.toNat addr) = some (r, ix) ∧
      s.up = true ∧
      (path = Path.fabric ∨ path = Path.jtag ∧ s.sensed.jtagLock = false ∨ path = Path.bar0 ∧ s.pcieUp = true ∧
        BitVec.toNat addr < 4194304) ∧
      noSet1 (BitVec.toNat addr) = false ∧
      (List.findSome? (fun (rule : WriteRule) => rule (BitVec.toNat addr) s value) (rulesOf id (BitVec.toNat addr / 65536)) =
        none)) ∧
    (∃ (s : State) (addr : Word), s.up = true ∧ RegMap.find (BitVec.toNat addr) = none) ∧
    (∃ s : State, s.up = true ∧ s.sensed.jtagLock = true) ∧
    (∃ (s : State) (addr : Word), s.up = true ∧ (s.pcieUp = false ∨ 4194304 ≤ BitVec.toNat addr)) :=
  ⟨⟨sPtr, .fabric, 0x10204, 0xFFFFFFFF, (rowAt 0x10204).1, (rowAt 0x10204).2, some_getD (by decide +kernel), by decide +kernel⟩,
   ⟨sPtr, 0x1FF000, by decide +kernel⟩,
   ⟨sLock, by decide +kernel⟩,
   ⟨sPtr, 0x400000, by decide +kernel⟩⟩

/-- States and operands that meet the hypotheses of RateWindowUpdatesRatesAndMinima, clause by clause. -/
theorem witness_RateWindowUpdatesRatesAndMinima :
    (∃ s : State, s.up = true ∧ s.windowOver = true) ∧
    (∃ s : State, s.up = true) :=
  ⟨⟨sWin, by decide +kernel⟩,
   ⟨sWin, by decide +kernel⟩⟩

/-- Comparator 4 is armed for 500 and drives nothing, comparator 0 is armed for 1,000; the time is 1,000. -/
def sComp : State := ((((runAt 1000).put (F.SEQ_LC_CFG_LINE 4) 31).armed 4 500).armed 0 1000)
/-- The same out of HOLD. -/
def sComp2 : State := { sComp with frm := { sComp.frm with hold := false, count := 6, transition := true } }
/-- A frame whose 64 slots of 128 µs end at 8,192,000. -/
def frame0 : FrameRun := ⟨0, 64, 128000, 0x3F, 5, false, false, false, ⟨none, none, false⟩, 7, 0⟩
/-- That frame runs, its slots over or not, with HOLD due. -/
def sRun (ns : Word) (due : Bool) : State :=
  let s := (runAt ns).put F.SEQ_FRM_FORMAT_HOLD due.toNat
  { s with frm := { s.frm with hold := false, holdSet := due, ranFrame := true, run := some frame0 } }
/-- HOLD is in force, and comparator 0 is armed for 60,000. -/
def sHold (ns : Word) : State := ((runAt ns).put F.SEQ_FRM_FORMAT_HOLD 1).armed 0 60000
/-- Band 63 is due for slot 0 after HOLD. -/
def sBands : State := { runAt 0x10000000 with frm := { run0.frm with holdBands := 1#64 <<< 63 } }
/-- A period that is no multiple of 64 ns. -/
def sOddPeriod : State := run0.put F.SEQ_FRM_SLOT_PERIOD_PERIOD_NS 130001
/-- A token comes early, with comparator 0 armed for 300,000, and AUTO_ARM set. -/
def sTok : State := (((runAt 200000).put F.SEQ_LTOK_RX_STAT_AUTO_ARM 1).armed 0 300000)
/-- The same within the cutoff. -/
def sTokLate : State := { sTok with tb := { sTok.tb with ns := 299000 } }
/-- A send token for 5,000,000 whose lead is enough or not, LOCAL or not. -/
def sSend (ns : Word) (here : Nat) : State :=
  (((runAt ns).setReg F.SEQ_LTOK_TX_TIME_addr 5000000).put F.SEQ_LTOK_TX_CTL_LOCAL here)
/-- Tile (1, 2) is member 0 and member 33, the report of the former is in; frame 9 is collected. -/
def sRdy : State := ((((((runAt 77).put F.SEQ_RDY_FRAME_FRAME 9).put (F.SEQ_RDY_TILE_X 0) 1).put (F.SEQ_RDY_TILE_Y 0) 2).put
  (F.SEQ_RDY_TILE_X 33) 1).put (F.SEQ_RDY_TILE_Y 33) 2).setReg F.SEQ_RDY_MEMBER_LO_addr 1 |>.setReg F.SEQ_RDY_MEMBER_HI_addr 2
/-- The hub's own report of frame 9 is due. -/
def sOwn : State := { (sRdy.put F.ZL_ADDR_X 1).put F.ZL_ADDR_Y 2 |>.put F.ZL_UP_HUB 0x201 |>.put F.ZL_UP_DUAL 0 with frm := { sRdy.frm with reportDue := [9] } }
/-- The hub is the tile above, which no port leads to, or port 2 does. -/
def sFar : State := sOwn.put F.ZL_UP_HUB 0x301
def sFarUp : State := (sFar.put (F.ZL_STATUS_STATE 2) 2).setReg (F.ZL_PID_addr 2) 0x0301
/-- The registers that the arrival of that token writes. -/
def tokU (s : State) (time : Word) : State := ((((s.setReg F.SEQ_LTOK_RX_TIME_addr time).setReg F.SEQ_LTOK_RX_SEQ_addr 5).setReg
  F.SEQ_LTOK_RX_ARRIVAL_addr s.now).putB F.SEQ_LTOK_RX_STAT_TRANSITION true).raise 868
/-- Some reports of the next frame are in. -/
def sNext : State := (sRdy.setReg F.SEQ_RDY_NEXT_LO_addr 1).setReg F.SEQ_RDY_NEXT_HI_addr 2

/-- States and operands that meet the hypotheses of ComparatorFiresAtItsTarget, clause by clause. -/
theorem witness_ComparatorFiresAtItsTarget :
    (∃ (s : State) (c : Fin 64), s.up = true ∧ 4 ≤ c.val ∧ s.bit (F.SEQ_LC_CFG_ARM c.val) = true ∧
        0 ≤ sdiff s.now (s.target c.val) ∧
      s.get (F.SEQ_LC_CFG_LINE c.val) = 31) ∧
    (∃ (s : State) (c : Fin 64), s.up = true ∧ (s.bit (F.SEQ_LC_CFG_ARM c.val) = false ∨ sdiff s.now (s.target c.val) < 0)) :=
  ⟨⟨sComp, 4, by decide +kernel⟩,
   ⟨sComp, 5, by decide +kernel⟩⟩

/-- States and operands that meet the hypotheses of FramesLaunchAndHold, clause by clause. -/
theorem witness_FramesLaunchAndHold :
    (∃ s : State, s.up = true ∧ s.due 0 = true ∧ s.frm.holdSet = false) ∧
    (∃ s : State, s.up = true ∧ s.bit F.SEQ_FRM_FORMAT_HOLD = false ∧ s.frm.hold = false) ∧
    (∃ (s : State) (f : FrameRun), s.up = true ∧ s.frm.holdSet = true ∧ s.frm.run = some f ∧ s.slotsRunning = false) ∧
    (∃ s : State, s.up = true ∧ (s.frm.holdSet = false ∨ s.slotsRunning = true)) ∧
    (∃ s : State, s.up = true ∧ s.bit F.SEQ_FRM_FORMAT_HOLD = true ∧ s.frm.hold = true) ∧
    (∃ (s : State) (b : Fin 64), s.up = true ∧ s.frm.holdBands.getLsbD b.val = true ∧
      s.reached (s.frm.holdAt + BitVec.ofNat 32 (b.val * (s.slotPeriod / 64))) = true) ∧
    (∃ (s : State) (b : Fin 64), s.up = true ∧ s.frm.holdBands.getLsbD b.val = false) :=
  ⟨⟨sComp, by decide +kernel⟩,
   ⟨(sRun 8191999 false), by decide +kernel⟩,
   ⟨(sRun 8192000 true), frame0, by decide +kernel⟩,
   ⟨(sRun 8191999 true), by decide +kernel⟩,
   ⟨(sHold 10000), by decide +kernel⟩,
   ⟨sBands, 63, by decide +kernel⟩,
   ⟨sBands, 62, by decide +kernel⟩⟩

/-- States and operands that meet the hypotheses of IllegalCommitIsRefusedWhole, clause by clause. -/
theorem witness_IllegalCommitIsRefusedWhole :
    ∃ s : State, s.up = true ∧
      (s.get F.SEQ_FRM_FORMAT_SLOTS ≠ 2 ^ (List.filter (fun (l : Nat) => (s.get F.SEQ_FRM_FORMAT_LAYER_MASK).testBit l) (List.range
        6)).length ∨ s.get F.SEQ_FRM_SLOT_PERIOD_PERIOD_NS % 64 ≠ 0 ∨ s.get F.SEQ_FRM_SLOT_PERIOD_PERIOD_NS < 128000 ∨
        4000000 < s.get F.SEQ_FRM_SLOT_PERIOD_PERIOD_NS ∨ s.get F.SEQ_FRM_MIN_FRAME_MIN_NS < s.get F.SEQ_FRM_FORMAT_SLOTS * s.get
        F.SEQ_FRM_SLOT_PERIOD_PERIOD_NS + 20000 ∨ s.get F.SEQ_FRM_MAX_FRAME_MAX_NS < s.get F.SEQ_FRM_MIN_FRAME_MIN_NS ∨
        1000000000 < s.get F.SEQ_FRM_MAX_FRAME_MAX_NS ∨ s.get F.SEQ_FRM_CUTOFF_CUTOFF_NS < 8000 ∨
        150000 < s.get F.SEQ_FRM_CUTOFF_CUTOFF_NS) :=
  ⟨sOddPeriod, by decide +kernel⟩

/-- States and operands that meet the hypotheses of ShadowSetsBecomeActiveWhole, clause by clause. -/
theorem witness_ShadowSetsBecomeActiveWhole :
    (∃ s : State, s.up = true ∧ s.formatLegal = true ∧ wavesInStep s.actReg (s.get F.SEQ_FRM_SLOT_PERIOD_PERIOD_NS) = true ∧
      s.panelCause (s.get F.SEQ_FRM_SLOT_PERIOD_PERIOD_NS) = 0) ∧
    (∃ s : State, s.up = true) ∧
    (∃ s : State, s.up = true ∧ s.geomCause = (0, 0)) ∧
    (∃ (s : State) (c p : Nat), s.up = true ∧ s.geomCause = (c, p) ∧ (c ≠ 0 ∨ p ≠ 0)) ∧
    (∃ s : State, s.frm.hold = false) ∧
    (∃ s : State, s.up = true) :=
  ⟨⟨run0, by decide +kernel⟩,
   ⟨run0, by decide +kernel⟩,
   ⟨run0, by decide +kernel⟩,
   ⟨(sRun 8191999 true), 3, 0, by decide +kernel⟩,
   ⟨(sRun 8191999 true), by decide +kernel⟩,
   ⟨run0, by decide +kernel⟩⟩

/-- States and operands that meet the hypotheses of LaunchTokensAndReadiness, clause by clause. -/
theorem witness_LaunchTokensAndReadiness :
    (∃ (s : State) (time fseq : Word) (tr : Bool) (u : State), u = ((((s.setReg F.SEQ_LTOK_RX_TIME_addr time).setReg
        F.SEQ_LTOK_RX_SEQ_addr fseq).setReg F.SEQ_LTOK_RX_ARRIVAL_addr s.now).putB F.SEQ_LTOK_RX_STAT_TRANSITION tr).raise 868 ∧
      s.up = true ∧ sdiff time s.now ≤ 0) ∧
    (∃ (s : State) (time fseq : Word) (tr : Bool) (u : State), u = ((((s.setReg F.SEQ_LTOK_RX_TIME_addr time).setReg
        F.SEQ_LTOK_RX_SEQ_addr fseq).setReg F.SEQ_LTOK_RX_ARRIVAL_addr s.now).putB F.SEQ_LTOK_RX_STAT_TRANSITION tr).raise 868 ∧
      s.up = true ∧ 0 < sdiff time s.now ∧ s.bit (F.SEQ_LC_CFG_ARM 0) = true ∧
      sdiff (s.target 0) s.now < ↑(s.actGet F.SEQ_FRM_CUTOFF_CUTOFF_NS)) ∧
    (∃ (s : State) (time fseq : Word) (tr : Bool) (u v : State), u = ((((s.setReg F.SEQ_LTOK_RX_TIME_addr time).setReg
        F.SEQ_LTOK_RX_SEQ_addr fseq).setReg F.SEQ_LTOK_RX_ARRIVAL_addr s.now).putB F.SEQ_LTOK_RX_STAT_TRANSITION tr).raise 868 ∧
      v = u.putB F.SEQ_LTOK_RX_STAT_SHORT (decide (sdiff time s.now < ↑(s.actGet F.SEQ_FRM_CUTOFF_CUTOFF_NS))) ∧ s.up = true ∧
      0 < sdiff time s.now ∧ (s.bit (F.SEQ_LC_CFG_ARM 0) = false ∨ ↑(s.actGet F.SEQ_FRM_CUTOFF_CUTOFF_NS) ≤ sdiff (s.target 0)
        s.now)) ∧
    (∃ s : State, s.up = true ∧ sdiff (s.reg F.SEQ_LTOK_TX_TIME_addr) s.now < ↑(s.get F.SEQ_LTOK_MINLEAD_MINLEAD_NS)) ∧
    (∃ s u : State, (u = if s.bit (F.ZL_TXS_EN 0) = true then s.txPacket 0 2 false false (bytesOfNat 4 (BitVec.toNat (s.reg
        F.SEQ_LTOK_TX_TIME_addr)) ++ bytesOfNat 4 (BitVec.toNat (s.reg F.SEQ_LTOK_TX_SEQ_addr)) ++ bytesOfNat 4 (s.bit
        F.SEQ_LTOK_TX_CTL_TRANSITION).toNat ++ [0, 0, 0, 0]) else s) ∧
      s.up = true ∧ ↑(s.get F.SEQ_LTOK_MINLEAD_MINLEAD_NS) ≤ sdiff (s.reg F.SEQ_LTOK_TX_TIME_addr) s.now ∧
      s.bit F.SEQ_LTOK_TX_CTL_LOCAL = false) ∧
    (∃ s u : State, (u = if s.bit (F.ZL_TXS_EN 0) = true then s.txPacket 0 2 false false (bytesOfNat 4 (BitVec.toNat (s.reg
        F.SEQ_LTOK_TX_TIME_addr)) ++ bytesOfNat 4 (BitVec.toNat (s.reg F.SEQ_LTOK_TX_SEQ_addr)) ++ bytesOfNat 4 (s.bit
        F.SEQ_LTOK_TX_CTL_TRANSITION).toNat ++ [0, 0, 0, 0]) else s) ∧
      s.up = true ∧ ↑(s.get F.SEQ_LTOK_MINLEAD_MINLEAD_NS) ≤ sdiff (s.reg F.SEQ_LTOK_TX_TIME_addr) s.now ∧
      s.bit F.SEQ_LTOK_TX_CTL_LOCAL = true) ∧
    (∃ (s : State) (x y : Byte) (fseq : Word), s.up = true ∧
      (s.entriesOf x y = 0 ∨ fseq ≠ s.reg F.SEQ_RDY_FRAME_addr ∧ fseq ≠ s.reg F.SEQ_RDY_FRAME_addr + 1)) ∧
    (∃ (s : State) (x y : Byte) (fseq : Word), s.up = true ∧ fseq = s.reg F.SEQ_RDY_FRAME_addr ∧
      s.entriesOf x y &&& ~~~s.gotReady ≠ 0) ∧
    (∃ (s : State) (x y : Byte) (fseq : Word), s.up = true ∧ fseq = s.reg F.SEQ_RDY_FRAME_addr + 1 ∧
      s.entriesOf x y &&& ~~~s.nextReady ≠ 0) ∧
    (∃ s : State, s.up = true) ∧
    (∃ (s u : State) (n : Word) (l : List Word) (x y : Nat), u = { s with frm := { s.frm with reportDue := l } } ∧ s.up = true ∧
      s.frm.reportDue = n :: l ∧ s.bit F.ZL_UP_DUAL = false ∧ x = s.get F.ZL_UP_HUB % 256 ∧ y = s.get F.ZL_UP_HUB / 256 ∧
      s.hop x y false = Hop.here) ∧
    (∃ (s u : State) (n : Word) (l : List Word) (x y : Nat), u = { s with frm := { s.frm with reportDue := l } } ∧ s.up = true ∧
      s.frm.reportDue = n :: l ∧ s.bit F.ZL_UP_DUAL = false ∧ x = s.get F.ZL_UP_HUB % 256 ∧ y = s.get F.ZL_UP_HUB / 256 ∧
      s.hop x y false = Hop.nowhere) ∧
    (∃ (s u : State) (n : Word) (l : List Word) (x y : Nat) (q : Fin 4), u = { s with frm := { s.frm with reportDue := l } } ∧
      s.up = true ∧ s.frm.reportDue = n :: l ∧ s.bit F.ZL_UP_DUAL = false ∧ x = s.get F.ZL_UP_HUB % 256 ∧
      y = s.get F.ZL_UP_HUB / 256 ∧ s.hop x y false = Hop.port q) ∧
    (∃ s : State, s.up = true ∧ s.frm.reportDue = []) :=
  ⟨⟨sTok, 200000, 5, true, _, rfl, by decide +kernel⟩,
   ⟨sTokLate, 400000, 5, true, _, rfl, by decide +kernel⟩,
   ⟨sTok, 400000, 5, true, _, _, rfl, rfl, by decide +kernel⟩,
   ⟨(sSend 4999999 0), by decide +kernel⟩,
   ⟨(sSend 4000000 0), _, rfl, by decide +kernel⟩,
   ⟨(sSend 4000000 1), _, rfl, by decide +kernel⟩,
   ⟨sRdy, 1, 2, 8, by decide +kernel⟩,
   ⟨sRdy, 1, 2, 9, by decide +kernel⟩,
   ⟨sRdy, 1, 2, 10, by decide +kernel⟩,
   ⟨sNext, by decide +kernel⟩,
   ⟨sOwn, _, 9, ([]), 1, 2, rfl, by decide +kernel⟩,
   ⟨sFar, _, 9, ([]), 1, 3, rfl, by decide +kernel⟩,
   ⟨sFarUp, _, 9, ([]), 1, 3, 2, rfl, by decide +kernel⟩,
   ⟨run0, by decide +kernel⟩⟩

/-- The first band of the next frame, and the slot as the distributor sees it. -/
def work0 : BandWork := ⟨0, 0, 1, 0, [], 0⟩
def view0 : SlotView := ⟨1, 0, 63, sel0⟩
/-- The latch of that frame is copied. -/
def sLatched : State := { sSel with dist := { sSel.dist with latches := [latch0] } }
/-- The weight is to be clamped, and the curve banks are to swap. -/
def sClamp : State := ((sSel.put F.TRL_ANG_WEIGHT_LO_BAND 15).put F.TRL_ANG_WEIGHT_WEIGHT 1).put F.PRESS_LUT_CTL_SWAP 1
/-- A job for press 47 waits behind one for press 3. -/
def job0 : PressJob := ⟨0x06A00000, 128, some 47, true, 9, 11, 12⟩
def sJob : State := { run0 with seq := { run0.seq with jobs := [{ job0 with press := some 3 }, job0] } }
/-- Press 47 has run a bundle of band 0 since instant 1,000. -/
def sBusy (ns : Word) : State :=
  let s := (runAt ns).onPress 47 fun p => { p with does := .bundle bundle0 }
  { s with dist := { s.dist with work := [{ work0 with next := 5 }] } }
/-- Press 47 in some other state. -/
def sPress (d : PressDoes) : State := run0.onPress 47 fun p => { p with does := d }
def sFenced : State := ((sPress .fenced).put (F.PRESS_CTL_FENCED 47) 1).put (F.PRESS_CTL_FENCE 47) 1
/-- The curve index stands at its last entry. -/
def sLut : State := run0.put F.PRESS_LUT_ADDR_INDEX 12287
/-- An image of a profile in the general store, and its header address in the registers. -/
def sImg (profile : Nat) : State := ((run0.store 0x06A00000 (image profile)).put F.PRESS_IMG_ADDR_ADDR (0x06A00000 / 64)).put
  F.SEQ_IMG_ADDR_ADDR (0x06A00000 / 64)
/-- Copies of an image's code are due. -/
def sCopy : State := { sImg 0 with imgP := some ⟨0x06A00000, 0x06800000, 36⟩, imgS := some ⟨0x06A00000, 0x06900040, 36⟩ }

/-- States and operands that meet the hypotheses of PressesTakeWorkAndAreFenced, clause by clause. -/
theorem witness_PressesTakeWorkAndAreFenced :
    (∃ (s : State) (n : Fin 48) (w : BandWork) (i : Nat) (v : SlotView) (a : AngleLatch), s.up = true ∧ s.pressFree n = true ∧
      (∀ (j : PressJob), j ∈ s.seq.jobs → j.fits n = false) ∧ s.firstIssue = some (w, i, v) ∧ s.latchOf v.number = some a ∧
      s.dist.copying = false) ∧
    (∃ (s : State) (n : Fin 48) (w : BandWork) (i : Nat) (v : SlotView) (c : Bool × Word) (h : FrameHeader), s.up = true ∧
      s.pressFree n = true ∧ (∀ (j : PressJob), j ∈ s.seq.jobs → j.fits n = false) ∧ s.firstIssue = some (w, i, v) ∧
      s.latchOf v.number = none ∧ v.sel.content = some c ∧ v.sel.hdr = some h ∧ s.dist.copying = false) ∧
    (∃ s : State, s.up = true) ∧
    (∃ (s : State) (n : Fin 48) (j : PressJob), s.up = true ∧ s.pressFree n = true ∧
      (List.find? (fun (x : PressJob) => x.fits n) s.seq.jobs = some j)) ∧
    (∃ (s : State) (n : Fin 48) (c : Instr) (cause : Nat), (c = Instr.pressFence n false ∧ cause = 3 ∧
        s.bit (F.PRESS_CTL_FENCED n.val) = false ∨ c = Instr.pressFence n true ∧ cause = 2 ∧ s.press[n].does ≠ PressDoes.fenced ∧
        s.press[n].does ≠ PressDoes.gated ∨ c = Instr.bundleTimeout n ∧ cause = 1 ∧ ∃ (b : Bundle),
        s.press[n].does = PressDoes.bundle b ∧ max 200 (s.get F.PRESS_TIMEOUT_TIMEOUT_NS) ≤ BitVec.toNat (s.now - b.issued)) ∧
      s.up = true) ∧
    (∃ (s : State) (n : Fin 48), s.up = true ∧ s.bit (F.PRESS_CTL_FENCED n.val) = true) ∧
    (∃ s : State, s.up = true) ∧
    (∃ (s : State) (n : Fin 48), s.up = true ∧ s.bit (F.PRESS_CTL_GATE n.val) = true ∧ s.press[n].does = PressDoes.idle) ∧
    (∃ (s : State) (n : Fin 48), s.up = true ∧ s.press[n].does = PressDoes.gated) ∧
    (∃ (s : State) (n : Fin 48), s.up = true ∧ s.press[n].does = PressDoes.waking) :=
  ⟨⟨sLatched, 47, work0, 0, view0, latch0, by decide +kernel⟩,
   ⟨sSel, 47, work0, 0, view0, (false, 5), hdr0, by decide +kernel⟩,
   ⟨sSel, by decide +kernel⟩,
   ⟨sJob, 47, job0, by decide +kernel⟩,
   ⟨(sBusy 1100), 47, (.pressFence 47 false), 3, .inl (by decide +kernel), by decide +kernel⟩,
   ⟨sFenced, 47, by decide +kernel⟩,
   ⟨run0, by decide +kernel⟩,
   ⟨(run0.put (F.PRESS_CTL_GATE 47) 1), 47, by decide +kernel⟩,
   ⟨(sPress .gated), 47, by decide +kernel⟩,
   ⟨(sPress .waking), 47, by decide +kernel⟩⟩

/-- States and operands that meet the hypotheses of PressTablesAreReadAndWritten, clause by clause. -/
theorem witness_PressTablesAreReadAndWritten :
    (∃ s : State, s.up = true) ∧
    (∃ s : State, s.up = true) ∧
    (∃ s : State, s.up = true ∧ s.bit F.PRESS_LUT_CTL_SWAP = true) ∧
    (∃ s : State, s.up = true ∧ s.bit F.PRESS_LUT_CTL_SWAP = false) ∧
    (∃ (s : State) (bank : Fin 2), s.up = true ∧ bank.val = (!s.bit F.PRESS_LUT_CTL_ACTIVE).toNat) ∧
    (∃ s : State, s.up = true) ∧
    (∃ s : State, s.up = true) :=
  ⟨⟨run0, by decide +kernel⟩,
   ⟨run0, by decide +kernel⟩,
   ⟨(run0.put F.PRESS_LUT_CTL_SWAP 1), by decide +kernel⟩,
   ⟨sLut, by decide +kernel⟩,
   ⟨sLut, 1, by decide +kernel⟩,
   ⟨run0, by decide +kernel⟩,
   ⟨run0, by decide +kernel⟩⟩

/-- States and operands that meet the hypotheses of ImagesInstallWholeOrNotAtAll, clause by clause. -/
theorem witness_ImagesInstallWholeOrNotAtAll :
    (∃ (s : State) (h : ImageHeader), s.up = true ∧ s.bit F.PRESS_IMG_CTL_INSTALL = false ∧
      s.checkImage (64 * s.get F.PRESS_IMG_ADDR_ADDR) 0 1048576 (s.reg F.PRESS_ISA_FEAT_addr) s.kernelBusy = (0, h)) ∧
    (∃ (s : State) (c : Nat) (h : ImageHeader), s.up = true ∧ s.bit F.PRESS_IMG_CTL_INSTALL = false ∧ c ≠ 0 ∧
      s.checkImage (64 * s.get F.PRESS_IMG_ADDR_ADDR) 0 1048576 (s.reg F.PRESS_ISA_FEAT_addr) s.kernelBusy = (c, h)) ∧
    (∃ (s : State) (h : ImageHeader), s.up = true ∧ s.bit F.SEQ_IMG_CTL_INSTALL = false ∧
      s.checkImage (64 * s.get F.SEQ_IMG_ADDR_ADDR) 1 262144 (s.reg F.SEQ_ISA_FEAT_addr) s.threadsBusy = (0, h)) ∧
    (∃ (s : State) (c : Nat) (h : ImageHeader), s.up = true ∧ s.bit F.SEQ_IMG_CTL_INSTALL = false ∧ c ≠ 0 ∧
      s.checkImage (64 * s.get F.SEQ_IMG_ADDR_ADDR) 1 262144 (s.reg F.SEQ_ISA_FEAT_addr) s.threadsBusy = (c, h)) ∧
    (∃ (s : State) (i : ImageCopy) (c : Instr) (f : Field), s.up = true ∧
      (c = Instr.pressInstallDone ∧ s.imgP = some i ∧ f = F.PRESS_IMG_CTL_INSTALL ∨ c = Instr.seqInstallDone ∧ s.imgS = some i ∧
        f = F.SEQ_IMG_CTL_INSTALL)) :=
  ⟨⟨(sImg 0), (ImageHeader.ofBytes (image 0)), by decide +kernel⟩,
   ⟨(sImg 1), 3, (ImageHeader.ofBytes (image 1)), by decide +kernel⟩,
   ⟨(sImg 1), (ImageHeader.ofBytes (image 1)), by decide +kernel⟩,
   ⟨(sImg 0), 3, (ImageHeader.ofBytes (image 0)), by decide +kernel⟩,
   ⟨sCopy, ⟨0x06A00000, 0x06800000, 36⟩, .pressInstallDone, (F.PRESS_IMG_CTL_INSTALL), by decide +kernel⟩⟩

/-- The DRAM is ready and the PLLs of its interfaces have lock. -/
def dramUp (s : State) : State :=
  (((s.put F.DRAMC_CTL_EN 1).put F.DRAMC_CTL_READY 1).put (F.PLL_CTL_LOCK 2) 1).put (F.PLL_CTL_LOCK 3) 1
/-- Its header stripe. -/
def hdrStripe (w h : Nat) : List Byte :=
  stripeBytes 1 0 0 0 0 1 5 false false false (8 * (hdrBytes w h).length) (hdrBytes w h) (crc32c (hdrBytes w h))
/-- The frame of 8 by 8 samples, of which nothing is decoded. -/
def half0 : HalfFrame := ⟨FrameHeader.ofBytes (hdrBytes 8 8), false, false, [], [], [], [], [], []⟩
/-- One line of plane 0 of view 0, coded. -/
def lineCode : List (List (Array Nat)) × List Bool :=
  CodePar.writeImages ⟨10, 0⟩ (fun k => k = 3) (fun _ _ _ _ => 0) [(1, 0, [#[1, 2, 3, 250, 5, 6, 7, 8]])] 0 (CodePar.start ⟨10, 0⟩)
/-- Its stripe; the same with another checksum of its samples. -/
def lineStripe (crc : Word) : List Byte :=
  let payload := packBits (lineCode.2.length / 8 + 1) lineCode.2
  stripeBytes 0 0 0 0 0 1 5 false true true lineCode.2.length payload crc
def lineCrc : Word := crc32c (sampleBytes lineCode.1)
def lineOut (crc : Word) (s : State) (n : Fin 32) : List (List (Array Nat)) :=
  match (s.freeLane n).decodeSamples false half0 [] (StripeHead.ofBytes (lineStripe crc)) (stripePayload (lineStripe crc)) with
  | .ok o => o
  | .error _ => []
/-- Lane 31 decodes, a stripe is queued, and the frame is in half 0. -/
def sDec (bytes : List Byte) : State :=
  let s := (run0.onLane 31 fun l => { l with mode := 1 }).setHalf false (some half0)
  { s with codec := { s.codec with queue := [⟨bytes, false, false, none⟩] } }
/-- Lane 31 holds the stripe. -/
def sHeldOf (bytes : List Byte) : State := (sDec []).onLane 31 fun l => { l with stripe := some ⟨bytes, false, false, some 5⟩ }
def sHeld (crc : Word) : State := sHeldOf (lineStripe crc)
/-- The same stripe queued, its lines taken before. -/
def sTaken : State := (sDec (lineStripe 0)).setHalf false (some { half0 with taken := [(StripeHead.ofBytes (lineStripe 0)).region] })
/-- A frame of one block, whose mask stripe marks it, with the checksum of its payload or not. -/
def half1 : HalfFrame := { half0 with hdr := { half0.hdr with views := half0.hdr.views.map fun v => { v with back := 1 } } }
def maskStripe (bits : Nat) (crc : Word) : List Byte := stripeBytes 0 5 0 0 0 1 5 false true true bits [0x01] crc
def sMask (bits : Nat) (crc : Word) : State := (sHeldOf (maskStripe bits crc)).setHalf false (some half1)
/-- A stripe of TYPE 2, one of a view that the frame does not have, and the line's with no frame to join. -/
def badTy : List Byte := stripeBytes 2 0 0 0 0 1 5 false true true 0 [] 0
def farStripe : List Byte := stripeBytes 0 0 9 0 0 1 5 false true true 8 [1] 0
def sStale : State := (sDec (lineStripe 0)).setHalf false none
/-- A header of too small a view, and one that is legal, queued after the given header. -/
def hdrA : List Byte := hdrStripe 8 8
def hdrB : List Byte := hdrStripe 640 360
def wait0 : FrameHeader := FrameHeader.ofBytes (hdrBytes 640 360)
def sHdr (last : Option Word) (waits : Option (FrameHeader × Bool)) : State :=
  { sDec hdrB with codec := { (sDec hdrB).codec with lastSeq := last, anySeq := false, waiting := waits } }
/-- No frame is in a half, and the header waits. -/
def sWait : State := { run0 with codec := { run0.codec with waiting := some (half0.hdr, false) } }
/-- The DRAM serves, and recording runs into a buffer of no bytes, or of 64 KiB. -/
def sRec (size : Nat) : State :=
  dramUp ((run0.put F.CODEC_REC_CTL_EN 1).put F.CODEC_REC_SIZE_SIZE_64K size)
/-- A job's descriptor in the general store (R180). -/
def sJobC (words : List Nat) : State :=
  let s := (run0.store 0x06A00000 (words.flatMap (bytesOfNat 4))).onLane 31 fun l =>
    { l with mode := 2, jobs := [⟨0x06A00000, [], 9, 0, 0, 0, false, false⟩] }
  ((dramUp s).put (F.CODEC_LANE_CFG_FLUSH 31) 1)
def sJobC0 (words : List Nat) : State := (sJobC words).put (F.CODEC_LANE_CFG_FLUSH 31) 0
def jobC : CodecJob := ⟨0x06A00000, [], 9, 0, 0, 0, false, false⟩
/-- Plane 0 of view 0, lines 0 and 1, from and to the general store, with its context, header and reconstruction there. -/
def sEnc : State := ((sJobC [0x100, 1024, 0x06A10000, 16 * 256, 0x06A20000, 0x1000 * 256, 0x06A00040, 0]).store 0x06A00040
  ([0x06A01000, 0x06A30000, 0, 0, 0, 0].flatMap (bytesOfNat 4))).store 0x06A01000 (hdrBytes 8 8)
/-- A header job. -/
def sHdrJob : State := (sJobC [1, 0, 0x06A01000, 0, 0x06A20000, 0x1000 * 256, 0, 0]).store 0x06A01000 (hdrBytes 8 8)
/-- The same jobs without a flush, with an illegal field, and suspended. -/
def sEncN : State := sEnc.put (F.CODEC_LANE_CFG_FLUSH 31) 0
def sBadJob : State := sJobC0 [0x400000, 0, 0x06A01000, 0, 0x06A20000, 0x1000 * 256, 0, 0]
def sBlocked : State := sEncN.onJob 31 fun j => { j with blocked := true }
/-- Header jobs with an illegal field, and to stream entry 5; the header read, and its stripe. -/
def sHdrBad : State := sJobC0 [1 + 0x400000, 0, 0x06A01000, 0, 0x06A20000, 0x1000 * 256, 0, 0]
def sHdrLink : State := (((sJobC0 [1 + 0x2000, 0, 0x06A01000, 0, 77, 0, 0, 0]).store 0x06A01000 (hdrBytes 8 8)).put (F.ZL_TXS_EN 5) 1).put (F.ZL_TXS_STREAM 5) 77
def sHdrRead : List Byte × State := (sHdrJob.latchJob 31).readAny (sHdrJob.jobDesc jobC).src 52 []
def sHdrLinkRead : List Byte × State := (sHdrLink.latchJob 31).readAny (sHdrLink.jobDesc jobC).src 52 []
def hdrOut (l : List Byte) : List Byte :=
  stripeBytes 1 0 0 0 0 1 (bytesWord l 4) false false false (8 * l.length) l (crc32c l)
/-- A play job with an illegal field, over nothing, and its first read. -/
def sPlayOf (w0 : Nat) : State := (sJobC0 [w0, 0, 0, 128, 0, 0x1000 * 256, 0, 0]).put F.DRAMC_CFG_CAP 1
def sPlayBad : State := sPlayOf (2 + 0x400000)
def sPlayJunk : State := sPlayOf (2 + 4096)
def playHead (s : State) : List Byte := ((s.latchJob 31).dramRead 0x8000000000 16 []).1
/-- A play job over the header stripe in DRAM. -/
def sPlay : State :=
  let s := (sJobC [2 + 4096, 0, 0, 128, 0, 0x1000 * 256, 0, 0])
  { s.put F.DRAMC_CFG_CAP 1 with mem := s.mem.writeBytes 0x8000000000 (hdrStripe 640 360) }

/-- States and operands that meet the hypotheses of MedianEdgePredictor, clause by clause. -/
theorem witness_MedianEdgePredictor :
    (∃ a b c : Nat, max a b ≤ c) ∧
    (∃ a b c : Nat, c ≤ min a b) ∧
    (∃ a b c : Nat, c < max a b ∧ min a b < c) :=
  ⟨⟨3, 5, 5, by decide +kernel⟩,
   ⟨3, 5, 3, by decide +kernel⟩,
   ⟨3, 5, 4, by decide +kernel⟩⟩

/-- States and operands that meet the hypotheses of CodecErrorsStayWithinNear, clause by clause. -/
theorem witness_CodecErrorsStayWithinNear :
    ∃ (p : CodePar) (x pr k : Nat), (p.bits = 8 ∨ p.bits = 10 ∨ p.bits = 16) ∧ p.near ≤ 7 ∧ x ≤ p.maxval ∧ pr ≤ p.maxval ∧
      k ≤ p.qbpp :=
  ⟨⟨8, 7⟩, 255, 0, 5, by decide +kernel⟩

/-- States and operands that meet the hypotheses of StripeQueueAndLanes, clause by clause. -/
theorem witness_StripeQueueAndLanes :
    (∃ (s : State) (bytes : List Byte), s.up = true ∧
      (s.bit F.CODEC_SRC_SEL = true ∨ stripeHcrc bytes = true ∧ s.staleArrival (StripeHead.ofBytes bytes) = true)) ∧
    (∃ (s : State) (bytes : List Byte), (stripeHcrc bytes = false ∨ s.staleArrival (StripeHead.ofBytes bytes) = false) ∧
      s.queueRoom bytes.length = false ∧ s.up = true ∧ s.bit F.CODEC_SRC_SEL = false) ∧
    (∃ (s : State) (bytes : List Byte) (u : State) (off : Nat), u = { s with codec := { s.codec with queue := s.codec.queue ++
        [{ bytes := bytes, clip := false, alone := false, seq := none }] } } ∧
      s.up = true ∧ s.bit F.CODEC_SRC_SEL = false ∧ (stripeHcrc bytes = false ∨ s.staleArrival (StripeHead.ofBytes bytes) = false) ∧
      off = s.get F.CODEC_REC_PTR_OFFSET_64B * 64 ∧ s.queueRoom bytes.length = true ∧
      (s.bit F.CODEC_REC_CTL_EN = false ∨ s.bit F.CODEC_REC_CTL_FULL = true)) ∧
    (∃ (s : State) (bytes : List Byte) (u : State) (off : Nat), u = { s with codec := { s.codec with queue := s.codec.queue ++
        [{ bytes := bytes, clip := false, alone := false, seq := none }] } } ∧
      s.up = true ∧ s.bit F.CODEC_SRC_SEL = false ∧ (stripeHcrc bytes = false ∨ s.staleArrival (StripeHead.ofBytes bytes) = false) ∧
      off = s.get F.CODEC_REC_PTR_OFFSET_64B * 64 ∧ s.queueRoom bytes.length = true ∧ s.bit F.CODEC_REC_CTL_EN = true ∧
      s.bit F.CODEC_REC_CTL_FULL = false ∧ s.get F.CODEC_REC_SIZE_SIZE_64K * 65536 < off + (bytes.length + 63) / 64 * 64) ∧
    (∃ (s : State) (bytes : List Byte) (u : State) (off : Nat), u = { s with codec := { s.codec with queue := s.codec.queue ++
        [{ bytes := bytes, clip := false, alone := false, seq := none }] } } ∧
      s.up = true ∧ s.bit F.CODEC_SRC_SEL = false ∧ (stripeHcrc bytes = false ∨ s.staleArrival (StripeHead.ofBytes bytes) = false) ∧
      off = s.get F.CODEC_REC_PTR_OFFSET_64B * 64 ∧ s.queueRoom bytes.length = true ∧ s.bit F.CODEC_REC_CTL_EN = true ∧
      s.bit F.CODEC_REC_CTL_FULL = false ∧ off + (bytes.length + 63) / 64 * 64 ≤ s.get F.CODEC_REC_SIZE_SIZE_64K * 65536) :=
  ⟨⟨(run0.put F.CODEC_SRC_SEL 1), ([1]), by decide +kernel⟩,
   ⟨run0, (List.replicate 7340033 1), .inr (by decide +kernel), by rw [List.length_replicate]; exact (by decide +kernel),
        by decide +kernel⟩,
   ⟨run0, ([1]), _, 0, rfl, by decide +kernel⟩,
   ⟨(sRec 0), ([1]), _, 0, rfl, by decide +kernel⟩,
   ⟨(sRec 1), ([1]), _, 0, rfl, by decide +kernel⟩⟩

/-- States and operands that meet the hypotheses of StripeQueueAndLanes, clause by clause, continued. -/
theorem witness_StripeQueueAndLanes_2 :
    (∃ (s : State) (h : StripeHead), (∀ (f : FrameHeader × Bool), s.codec.waiting = some f → f.fst.fseq ≠ h.fseq) ∧ h.ty = 0 ∧
      s.halfOfSeq h.fseq = none ∧ s.headerQueued h.fseq = false) ∧
    (∃ (s : State) (h : StripeHead) (b : Bool) (f : HalfFrame), h.ty = 0 ∧ s.codec.waiting = none ∧ s.halfOfSeq h.fseq = some b ∧
      s.half b = some f ∧ h.illegal f.hdr = false ∧ ((f.taken.any fun (r : StripeRegion) => r.meets h.region) = true)) ∧
    (∃ s : State, s.up = true) ∧
    (∃ s : State, s.up = true) ∧
    (∃ (s : State) (n : Fin 32), (∀ (j : CodecJob) (l : List CodecJob), s.codec.lanes[n].jobs = j :: l → j.words = [] ∧
        j.ended = false ∧ j.blocked = false) ∧
      s.up = true ∧ s.codec.lanes[n].stripe = none) :=
  ⟨⟨run0, (StripeHead.ofBytes (lineStripe 0)), all_option (by decide +kernel), by decide +kernel⟩,
   ⟨sTaken, (StripeHead.ofBytes (lineStripe 0)), false, ({ half0 with taken := [(StripeHead.ofBytes (lineStripe 0)).region] }),
        by decide +kernel⟩,
   ⟨(sHeld 0), by decide +kernel⟩,
   ⟨(sHeld 0), by decide +kernel⟩,
   ⟨run0, 31, all_cons (all_option (by decide +kernel)), by decide +kernel⟩⟩

/-- States and operands that meet the hypotheses of StripeQueueAndLanes, clause by clause, continued. -/
theorem witness_StripeQueueAndLanes_3 :
    (∃ (s : State) (n : Fin 32), (s.codec.lanes[n].stripe ≠ none ∨ ∃ (j : CodecJob), ∃ (l : List CodecJob),
        s.codec.lanes[n].jobs = j :: l ∧ (j.words ≠ [] ∨ j.ended = true ∨ j.blocked = true)) ∧
      s.up = true) ∧
    (∃ (s : State) (n : Fin 32), s.up = true ∧ s.codec.lanes[n].mode = 2) ∧
    (∃ (s : State) (n : Fin 32), s.up = true ∧ s.codec.lanes[n].mode ≠ 2) :=
  ⟨⟨(sHeld 0), 31, .inl (by decide +kernel), by decide +kernel⟩,
   ⟨sEnc, 31, by decide +kernel⟩,
   ⟨run0, 31, by decide +kernel⟩⟩

/-- States and operands that meet the hypotheses of StripesQueueAndDecode, clause by clause. -/
theorem witness_StripesQueueAndDecode :
    (∃ (s : State) (h : FrameHeader) (first b : Bool), s.up = true ∧ s.codec.waiting = some (h, first) ∧ s.freeHalf = some b) ∧
    (∃ (s : State) (n : Fin 32) (pre rest : List QStripe) (q : QStripe) (h : StripeHead) (u : State),
        u = { s with codec := { s.codec with queue := pre ++ rest } } ∧
      s.up = true ∧ s.decoderFree n = true ∧ s.codec.queue = pre ++ q :: rest ∧ (∀ (x : QStripe), x ∈ pre → s.mustWait x = true) ∧
      s.mustWait q = false ∧ h = StripeHead.ofBytes q.bytes ∧ stripeHcrc q.bytes = false) ∧
    (∃ (s : State) (n : Fin 32) (pre rest : List QStripe) (q : QStripe) (h : StripeHead) (u : State),
        u = { s with codec := { s.codec with queue := pre ++ rest } } ∧
      s.up = true ∧ s.decoderFree n = true ∧ s.codec.queue = pre ++ q :: rest ∧ (∀ (x : QStripe), x ∈ pre → s.mustWait x = true) ∧
      s.mustWait q = false ∧ h = StripeHead.ofBytes q.bytes ∧ stripeHcrc q.bytes = true ∧ h.ty ≠ 0 ∧ h.ty ≠ 1) ∧
    (∃ (s : State) (n : Fin 32) (pre rest : List QStripe) (q : QStripe) (h : StripeHead) (u : State),
        u = { s with codec := { s.codec with queue := pre ++ rest } } ∧
      s.up = true ∧ s.decoderFree n = true ∧ s.codec.queue = pre ++ q :: rest ∧ (∀ (x : QStripe), x ∈ pre → s.mustWait x = true) ∧
      s.mustWait q = false ∧ h = StripeHead.ofBytes q.bytes ∧ stripeHcrc q.bytes = true ∧ h.ty = 0 ∧
        s.halfOfSeq (s.joins q) = none) ∧
    (∃ (s : State) (n : Fin 32) (pre rest : List QStripe) (q : QStripe) (h : StripeHead) (u : State) (b : Bool) (f : HalfFrame),
        u = { s with codec := { s.codec with queue := pre ++ rest } } ∧
      s.up = true ∧ s.decoderFree n = true ∧ s.codec.queue = pre ++ q :: rest ∧ (∀ (x : QStripe), x ∈ pre → s.mustWait x = true) ∧
      s.mustWait q = false ∧ h = StripeHead.ofBytes q.bytes ∧ stripeHcrc q.bytes = true ∧ h.ty = 0 ∧
      s.halfOfSeq (s.joins q) = some b ∧ s.half b = some f ∧ (backPlane h.plane && f.lost.contains h.view) = false ∧
      h.illegal f.hdr = true) :=
  ⟨⟨sWait, (half0.hdr), false, false, by decide +kernel⟩,
   ⟨(sDec [1]), 31, ([]), ([]), ⟨[1], false, false, none⟩, (StripeHead.ofBytes [1]), _, rfl, by decide +kernel⟩,
   ⟨(sDec badTy), 31, ([]), ([]), ⟨badTy, false, false, none⟩, (StripeHead.ofBytes badTy), _, rfl, by decide +kernel⟩,
   ⟨sStale, 31, ([]), ([]), ⟨lineStripe 0, false, false, none⟩, (StripeHead.ofBytes (lineStripe 0)), _, rfl, by decide +kernel⟩,
   ⟨(sDec farStripe), 31, ([]), ([]), ⟨farStripe, false, false, none⟩, (StripeHead.ofBytes farStripe), _, false, half0, rfl,
        by decide +kernel⟩⟩

/-- States and operands that meet the hypotheses of StripesQueueAndDecode, clause by clause, continued. -/
theorem witness_StripesQueueAndDecode_2 :
    (∃ (s : State) (n : Fin 32) (pre rest : List QStripe) (q : QStripe) (h : StripeHead) (u : State) (b : Bool) (f : HalfFrame),
        u = { s with codec := { s.codec with queue := pre ++ rest } } ∧
      s.up = true ∧ s.decoderFree n = true ∧ s.codec.queue = pre ++ q :: rest ∧ (∀ (x : QStripe), x ∈ pre → s.mustWait x = true) ∧
      s.mustWait q = false ∧ h = StripeHead.ofBytes q.bytes ∧ stripeHcrc q.bytes = true ∧ h.ty = 0 ∧
      s.halfOfSeq (s.joins q) = some b ∧ s.half b = some f ∧ (backPlane h.plane && f.lost.contains h.view) = false ∧
      h.illegal f.hdr = false ∧ ((f.taken.any fun (r : StripeRegion) => r.meets h.region) = true)) ∧
    (∃ (s : State) (n : Fin 32) (pre rest : List QStripe) (q : QStripe) (h : StripeHead) (u : State) (b : Bool) (f : HalfFrame),
        u = { s with codec := { s.codec with queue := pre ++ rest } } ∧
      s.up = true ∧ s.decoderFree n = true ∧ s.codec.queue = pre ++ q :: rest ∧ (∀ (x : QStripe), x ∈ pre → s.mustWait x = true) ∧
      s.mustWait q = false ∧ h = StripeHead.ofBytes q.bytes ∧ stripeHcrc q.bytes = true ∧ h.ty = 0 ∧
      s.halfOfSeq (s.joins q) = some b ∧ s.half b = some f ∧ (backPlane h.plane && f.lost.contains h.view) = false ∧
      h.illegal f.hdr = false ∧ ((f.taken.any fun (r : StripeRegion) => r.meets h.region) = false)) ∧
    (∃ (s : State) (n : Fin 32) (pre rest : List QStripe) (q : QStripe) (h : StripeHead) (l : List Byte) (u : State) (old : Bool),
        u = { s with codec := { s.codec with queue := List.map s.stamp1 pre ++ rest } } ∧
      (old = true ↔ s.codec.anySeq = false ∧ ∃ (w : Word), s.codec.lastSeq = some w ∧ sdiff (bytesWord l 4) w ≤ 0) ∧ s.up = true ∧
      s.decoderFree n = true ∧ s.codec.queue = pre ++ q :: rest ∧ (∀ (x : QStripe), x ∈ pre → s.mustWait x = true) ∧
      stripeHcrc q.bytes = true ∧ h = StripeHead.ofBytes q.bytes ∧ l = stripePayload q.bytes ∧ h.ty = 1 ∧ q.clip = false ∧
      h.bad = false ∧ h.bytes ≠ 0 ∧ h.plane = 0 ∧ h.view = 0 ∧ h.near = 0 ∧ h.first = 0 ∧ h.lines = 1 ∧ h.bitsOk = true ∧
      h.rcrc = crc32c l ∧ headerCause l s.gridW s.gridH true ≠ 0) ∧
    (∃ (s : State) (n : Fin 32) (pre rest : List QStripe) (q : QStripe) (h : StripeHead) (l : List Byte) (u : State) (old : Bool),
        u = { s with codec := { s.codec with queue := List.map s.stamp1 pre ++ rest } } ∧
      (old = true ↔ s.codec.anySeq = false ∧ ∃ (w : Word), s.codec.lastSeq = some w ∧ sdiff (bytesWord l 4) w ≤ 0) ∧ s.up = true ∧
      s.decoderFree n = true ∧ s.codec.queue = pre ++ q :: rest ∧ (∀ (x : QStripe), x ∈ pre → s.mustWait x = true) ∧
      stripeHcrc q.bytes = true ∧ h = StripeHead.ofBytes q.bytes ∧ l = stripePayload q.bytes ∧ h.ty = 1 ∧ q.clip = false ∧
      h.bad = false ∧ h.bytes ≠ 0 ∧ h.plane = 0 ∧ h.view = 0 ∧ h.near = 0 ∧ h.first = 0 ∧ h.lines = 1 ∧ h.bitsOk = true ∧
      h.rcrc = crc32c l ∧ headerCause l s.gridW s.gridH true = 0 ∧ old = true) ∧
    (∃ (s : State) (n : Fin 32) (pre rest : List QStripe) (q : QStripe) (h : StripeHead) (l : List Byte) (u : State) (old : Bool),
        u = { s with codec := { s.codec with queue := List.map s.stamp1 pre ++ rest } } ∧
      (old = true ↔ s.codec.anySeq = false ∧ ∃ (w : Word), s.codec.lastSeq = some w ∧ sdiff (bytesWord l 4) w ≤ 0) ∧ s.up = true ∧
      s.decoderFree n = true ∧ s.codec.queue = pre ++ q :: rest ∧ (∀ (x : QStripe), x ∈ pre → s.mustWait x = true) ∧
      stripeHcrc q.bytes = true ∧ h = StripeHead.ofBytes q.bytes ∧ l = stripePayload q.bytes ∧ h.ty = 1 ∧ q.clip = false ∧
      h.bad = false ∧ h.bytes ≠ 0 ∧ h.plane = 0 ∧ h.view = 0 ∧ h.near = 0 ∧ h.first = 0 ∧ h.lines = 1 ∧ h.bitsOk = true ∧
      h.rcrc = crc32c l ∧ headerCause l s.gridW s.gridH true = 0 ∧ old = false ∧ s.codec.waiting = none) :=
  ⟨⟨sTaken, 31, ([]), ([]), ⟨lineStripe 0, false, false, none⟩, (StripeHead.ofBytes (lineStripe 0)), _, false,
        ({ half0 with taken := [(StripeHead.ofBytes (lineStripe 0)).region] }), rfl, by decide +kernel⟩,
   ⟨(sDec (lineStripe 0)), 31, ([]), ([]), ⟨lineStripe 0, false, false, none⟩, (StripeHead.ofBytes (lineStripe 0)), _, false,
        half0, rfl, by decide +kernel⟩,
   ⟨(sDec hdrA), 31, ([]), ([]), ⟨hdrA, false, false, none⟩, (StripeHead.ofBytes hdrA), (stripePayload hdrA), _, false, rfl,
        by rw [ex_option]; decide +kernel, by decide +kernel⟩,
   ⟨(sHdr (some 5) none), 31, ([]), ([]), ⟨hdrB, false, false, none⟩, (StripeHead.ofBytes hdrB), (stripePayload hdrB), _, true,
        rfl, by rw [ex_option]; decide +kernel, by decide +kernel⟩,
   ⟨(sHdr (some 4) none), 31, ([]), ([]), ⟨hdrB, false, false, none⟩, (StripeHead.ofBytes hdrB), (stripePayload hdrB), _, false,
        rfl, by rw [ex_option]; decide +kernel, by decide +kernel⟩⟩

/-- States and operands that meet the hypotheses of StripesQueueAndDecode, clause by clause, continued. -/
theorem witness_StripesQueueAndDecode_3 :
    (∃ (s : State) (n : Fin 32) (pre rest : List QStripe) (q : QStripe) (h : StripeHead) (l : List Byte) (u : State) (old : Bool)
        (w : FrameHeader) (first : Bool), u = { s with codec := { s.codec with queue := List.map s.stamp1 pre ++ rest } } ∧
      (old = true ↔ s.codec.anySeq = false ∧ ∃ (w : Word), s.codec.lastSeq = some w ∧ sdiff (bytesWord l 4) w ≤ 0) ∧ s.up = true ∧
      s.decoderFree n = true ∧ s.codec.queue = pre ++ q :: rest ∧ (∀ (x : QStripe), x ∈ pre → s.mustWait x = true) ∧
      stripeHcrc q.bytes = true ∧ h = StripeHead.ofBytes q.bytes ∧ l = stripePayload q.bytes ∧ h.ty = 1 ∧ q.clip = false ∧
      h.bad = false ∧ h.bytes ≠ 0 ∧ h.plane = 0 ∧ h.view = 0 ∧ h.near = 0 ∧ h.first = 0 ∧ h.lines = 1 ∧ h.bitsOk = true ∧
      h.rcrc = crc32c l ∧ headerCause l s.gridW s.gridH true = 0 ∧ old = false ∧ s.codec.waiting = some (w, first)) ∧
    (∃ (s : State) (n : Fin 32) (q : QStripe) (h : StripeHead) (b : Bool) (f : HalfFrame) (l : List Byte) (out : List (List (Array
        Nat))), (s.freeLane n).decodeSamples b f s.codec.lanes[n].earlier h l = Except.ok out ∧
      s.up = true ∧ s.codec.lanes[n].stripe = some q ∧ h = StripeHead.ofBytes q.bytes ∧ l = stripePayload q.bytes ∧
      s.halfOfSeq (s.joins q) = some b ∧ s.half b = some f ∧ f.complete = false ∧ h.plane ≠ 5 ∧ h.tooLong f = false ∧
      (backPlane h.plane = true → f.lost.contains h.view = false ∧ (f.hdr.backBlocks h.view ≠ 0 → lineIn s.codec.lanes[n].earlier
        h.view 5 0 = true ∧ lineIn f.done h.view 5 0 = true))) ∧
    (∃ (s : State) (n : Fin 32) (q : QStripe) (h : StripeHead) (b : Bool) (f : HalfFrame) (l : List Byte) (cause : Nat),
        (s.freeLane n).decodeSamples b f s.codec.lanes[n].earlier h l = Except.error cause ∧
      s.up = true ∧ s.codec.lanes[n].stripe = some q ∧ h = StripeHead.ofBytes q.bytes ∧ l = stripePayload q.bytes ∧
      s.halfOfSeq (s.joins q) = some b ∧ s.half b = some f ∧ f.complete = false ∧ h.plane ≠ 5 ∧ h.tooLong f = false ∧
      (backPlane h.plane = true → f.lost.contains h.view = false ∧ (f.hdr.backBlocks h.view ≠ 0 → lineIn s.codec.lanes[n].earlier
        h.view 5 0 = true ∧ lineIn f.done h.view 5 0 = true)) ∧
      cause < 16) ∧
    (∃ (s : State) (n : Fin 32) (q : QStripe) (h : StripeHead) (b : Bool) (f : HalfFrame) (l : List Byte), s.up = true ∧
      s.codec.lanes[n].stripe = some q ∧ h = StripeHead.ofBytes q.bytes ∧ l = stripePayload q.bytes ∧
      s.halfOfSeq (s.joins q) = some b ∧ s.half b = some f ∧ f.complete = false ∧ h.plane = 5 ∧ h.bitsOk = true ∧
        h.rcrc = crc32c l ∧
      (marked (maskBits f.hdr l)).length = f.hdr.backBlocks h.view) ∧
    (∃ (s : State) (n : Fin 32) (q : QStripe) (h : StripeHead) (b : Bool) (f : HalfFrame) (l : List Byte), s.up = true ∧
      s.codec.lanes[n].stripe = some q ∧ h = StripeHead.ofBytes q.bytes ∧ l = stripePayload q.bytes ∧
      s.halfOfSeq (s.joins q) = some b ∧ s.half b = some f ∧ f.complete = false ∧ h.plane = 5 ∧
      (h.bitsOk = false ∨ h.rcrc ≠ crc32c l ∨ (marked (maskBits f.hdr l)).length ≠ f.hdr.backBlocks h.view)) :=
  ⟨⟨(sHdr (some 4) (some (wait0, false))), 31, ([]), ([]), ⟨hdrB, false, false, none⟩, (StripeHead.ofBytes hdrB),
        (stripePayload hdrB), _, false, wait0, false, rfl, by rw [ex_option]; decide +kernel, by decide +kernel⟩,
   ⟨(sHeld lineCrc), 31, ⟨lineStripe lineCrc, false, false, some 5⟩, (StripeHead.ofBytes (lineStripe lineCrc)), false, half0,
        (stripePayload (lineStripe lineCrc)), (lineOut lineCrc (sHeld lineCrc) 31), ok_of (by decide +kernel), by decide +kernel⟩,
   ⟨(sHeld (lineCrc + 1)), 31, ⟨lineStripe (lineCrc + 1), false, false, some 5⟩, (StripeHead.ofBytes (lineStripe (lineCrc + 1))),
        false, half0, (stripePayload (lineStripe (lineCrc + 1))), 4, error_of (by decide +kernel), by decide +kernel⟩,
   ⟨(sMask 1 (crc32c [0x01])), 31, ⟨maskStripe 1 (crc32c [0x01]), false, false, some 5⟩,
        (StripeHead.ofBytes (maskStripe 1 (crc32c [0x01]))), false, half1, ([0x01]), by decide +kernel⟩,
   ⟨(sMask 9 0), 31, ⟨maskStripe 9 0, false, false, some 5⟩, (StripeHead.ofBytes (maskStripe 9 0)), false, half1, ([0x01]),
        by decide +kernel⟩⟩

/-- States and operands that meet the hypotheses of CodecJobsRun, clause by clause. -/
theorem witness_CodecJobsRun :
    (∃ (s : State) (n : Fin 32) (j : CodecJob), s.up = true ∧ s.runningJob n 0 = some j) ∧
    (∃ (s : State) (n : Fin 32) (j : CodecJob), s.up = true ∧ s.runningJob n 0 = some j ∧
      s.bit (F.CODEC_LANE_CFG_FLUSH n.val) = false ∧ s.encodeCause (s.jobDesc j) ≠ 0) ∧
    (∃ (s u : State) (n : Fin 32) (j : CodecJob) (d : JobDesc) (ecc : List EccHit) (c : Instr) (lines : Nat),
        ((c = Instr.encodePlane n false ecc ∧ u = s ∧ s.bit (F.CODEC_LANE_CFG_FLUSH n.val) = false ∧
        lines = if d.plane = 5 then 1 else min d.stripe (d.lines - j.line)) ∨ (c = Instr.encoderResume n ecc ∧ (∃ (i : CodecJob),
        s.frontJob n = some i ∧ i.blocked = true) ∧ (u = s.onJob n fun (j : CodecJob) => { j with blocked := false }) ∧
        s.bit (F.CODEC_LANE_CFG_FLUSH n.val) = false ∧ lines = if d.plane = 5 then 1 else min d.stripe (d.lines - j.line)) ∨
        c = Instr.flushApply n lines ecc ∧ u = s ∧ s.bit (F.CODEC_LANE_CFG_FLUSH n.val) = true ∧ s.mayCut n j lines = true) ∧
      s.up = true ∧ u.runningJob n 0 = some j ∧ d = u.jobDesc j ∧ u.encodeCause d = 0 ∧
      (u.dramWaits n [d.src, (u.encodeCtx d.ctx).recon, (u.encodeCtx d.ctx).prev, if d.toLink = true then 0 else d.dst] = false)) :=
  ⟨⟨sEnc, 31, jobC, by decide +kernel⟩,
   ⟨sBadJob, 31, jobC, by decide +kernel⟩,
   ⟨sEncN, sEncN, 31, jobC, (sEncN.jobDesc jobC), ([]), (.encodePlane 31 false []), 1, .inl ⟨rfl, rfl, by decide +kernel,
        by decide +kernel⟩, by decide +kernel⟩⟩

/-- States and operands that meet the hypotheses of CodecJobsRun, clause by clause, continued. -/
theorem witness_CodecJobsRun_2 :
    (∃ (s u : State) (n : Fin 32) (j : CodecJob) (d : JobDesc), u = s.latchJob n ∧ s.up = true ∧ s.runningJob n 1 = some j ∧
      d = s.jobDesc j ∧ (d.extra = true ∨ s.badDest d = true)) ∧
    (∃ (s u v : State) (n : Fin 32) (j : CodecJob) (d : JobDesc) (k : Nat) (ecc : List EccHit) (l out : List Byte),
        u = s.latchJob n ∧
      u.readAny d.src k ecc = (l, v) ∧ s.up = true ∧ s.runningJob n 1 = some j ∧ d = s.jobDesc j ∧ d.extra = false ∧
      s.badDest d = false ∧ s.memRange d.src 12 = true ∧ s.badRange d = false ∧
      (u.dramWaits n [d.src, if d.toLink = true then 0 else d.dst] = false) ∧
      k = 36 + 8 * (BitVec.toNat (s.byteAny (d.src + 8)) % 16 + 1) ∧ s.memRange d.src k = true ∧
      out = stripeBytes 1 0 0 0 0 1 (bytesWord l 4) false d.noT d.noI (8 * l.length) l (crc32c l) ∧ d.toLink = false ∧
      j.out + out.length ≤ d.len) ∧
    (∃ (s u v : State) (n : Fin 32) (j : CodecJob) (d : JobDesc) (k : Nat) (ecc : List EccHit) (l out : List Byte) (e : Fin 64),
        u = s.latchJob n ∧
      u.readAny d.src k ecc = (l, v) ∧ s.up = true ∧ s.runningJob n 1 = some j ∧ d = s.jobDesc j ∧ d.extra = false ∧
      s.badDest d = false ∧ s.memRange d.src 12 = true ∧ s.badRange d = false ∧
      (u.dramWaits n [d.src, if d.toLink = true then 0 else d.dst] = false) ∧
      k = 36 + 8 * (BitVec.toNat (s.byteAny (d.src + 8)) % 16 + 1) ∧ s.memRange d.src k = true ∧
      out = stripeBytes 1 0 0 0 0 1 (bytesWord l 4) false d.noT d.noI (8 * l.length) l (crc32c l) ∧ d.toLink = true ∧
      v.txEntry d.dst = some e) :=
  ⟨⟨sHdrBad, _, 31, jobC, (sHdrBad.jobDesc jobC), rfl, by decide +kernel⟩,
   ⟨sHdrJob, _, (sHdrRead.2), 31, jobC, (sHdrJob.jobDesc jobC), 52, ([]), (sHdrRead.1), (hdrOut sHdrRead.1), rfl,
        (Prod.eta _).symm, by decide +kernel⟩,
   ⟨sHdrLink, _, (sHdrLinkRead.2), 31, jobC, (sHdrLink.jobDesc jobC), 52, ([]), (sHdrLinkRead.1), (hdrOut sHdrLinkRead.1), 5,
        rfl, (Prod.eta _).symm, by decide +kernel⟩⟩

/-- States and operands that meet the hypotheses of CodecJobsRun, clause by clause, continued. -/
theorem witness_CodecJobsRun_3 :
    (∃ (s u : State) (n : Fin 32) (j : CodecJob) (d : JobDesc), u = s.latchJob n ∧ s.up = true ∧ s.runningJob n 2 = some j ∧
      d = s.jobDesc j ∧ (d.extra = true ∨ d.len = 0)) ∧
    (∃ (s u : State) (n : Fin 32) (j : CodecJob) (d : JobDesc) (head : List Byte) (h : StripeHead) (ecc : List EccHit),
        u = s.latchJob n ∧
      s.up = true ∧ s.runningJob n 2 = some j ∧ d = s.jobDesc j ∧ d.extra = false ∧ d.len ≠ 0 ∧ dramBase ≤ d.src ∧
      s.memRange d.src d.len = true ∧ u.dramGrants (DramSource.lane n) = true ∧ j.line + 16 ≤ d.len ∧
      head = (u.dramRead (d.src + j.line) 16 ecc).fst ∧ h = StripeHead.ofBytes head ∧
      (stripeHcrc head = false ∨ d.len < j.line + (h.bytes + 24))) ∧
    (∃ (s u : State) (n : Fin 32) (j : CodecJob) (d : JobDesc) (head bytes : List Byte) (h : StripeHead) (ecc : List EccHit),
        u = s.latchJob n ∧
      s.up = true ∧ s.runningJob n 2 = some j ∧ d = s.jobDesc j ∧ d.extra = false ∧ d.len ≠ 0 ∧ dramBase ≤ d.src ∧
      s.memRange d.src d.len = true ∧ u.dramGrants (DramSource.lane n) = true ∧ j.line + 16 ≤ d.len ∧
      head = (u.dramRead (d.src + j.line) 16 ecc).fst ∧ h = StripeHead.ofBytes head ∧ stripeHcrc head = true ∧
      j.line + (h.bytes + 24) ≤ d.len ∧ s.queueRoom (h.bytes + 24) = true ∧
      bytes = (u.dramRead (d.src + j.line) (h.bytes + 24) ecc).fst) :=
  ⟨⟨sPlayBad, _, 31, jobC, (sPlayBad.jobDesc jobC), rfl, by decide +kernel⟩,
   ⟨sPlayJunk, _, 31, jobC, (sPlayJunk.jobDesc jobC), (playHead sPlayJunk), (StripeHead.ofBytes (playHead sPlayJunk)), ([]), rfl,
        by decide +kernel⟩,
   ⟨sPlay, _, 31, jobC, (sPlay.jobDesc jobC), (playHead sPlay), (hdrStripe 640 360), (StripeHead.ofBytes (playHead sPlay)), ([]),
        rfl, by decide +kernel⟩⟩

/-- States and operands that meet the hypotheses of CodecJobsRun, clause by clause, continued. -/
theorem witness_CodecJobsRun_4 :
    ∃ (s : State) (n : Fin 32) (j : CodecJob) (l : List CodecJob), s.up = true ∧ s.codec.lanes[n].jobs = j :: l ∧ j.ended = true :=
  ⟨(sEnc.onJob 31 fun j => { j with ended := true, cause := 2 }), 31, { jobC with ended := true, cause := 2 }, ([]),
        by decide +kernel⟩

/-- Link port 3 enabled, in a state, with its link data. -/
def sPort (st : Nat) (f : LinkPort → LinkPort) : State :=
  let s := (((run0.put (F.ZL_CFG_EN 3) 1).put (F.ZL_STATUS_STATE 3) st).put (F.ZL_CFG_LANE_EN 3) 15).put (F.PLL_CTL_LOCK 5) 1
  (s.setReg (F.ZL_LCAP_addr 3) (s.capOf 3)).onPort 3 f
/-- Up, with all lanes in both directions. -/
def sUp (f : LinkPort → LinkPort) : State := ((sPort 2 f).put (F.ZL_STATUS_RX_LANES 3) 15).put (F.ZL_STATUS_TX_LANES 3) 15
/-- The partner has the port's own capabilities. -/
def sCap (f : LinkPort → LinkPort) : State := (sPort 1 f).setReg (F.ZL_PCAP_addr 3) ((sPort 1 f).lcap 3)
/-- A training frame with right CRCs (R198). -/
def frameOf (status : BitVec 16) : TrainFrame :=
  let cap := (sPort 1 id).lcap 3
  ⟨0xE4B17A2C, cap, crc16Of 4 cap.toNat, 0x00010203, crc16Of 4 0x00010203, status, crc16Of 2 status.toNat⟩
/-- Three frames of lane 0 have carried those words. -/
def sSame : State := sPort 1 fun l => { l with train := { l.train with
  mask := 15, lanes := l.train.lanes.set 0 ⟨false, (frameOf 0).cap, (frameOf 0).ident, 3, false⟩ } }
/-- Both sides have accepted; the exchange is complete with lane 0's next frame. -/
def sAccepted (ver : Nat) : State := sCap fun l => { l with train := { l.train with
  mask := 15, accepted := true, gotAccepted := true, ver := ver, markers := 64
  lanes := l.train.lanes.set 0 ⟨true, (frameOf 0).cap, (frameOf 0).ident, 4, true⟩ } }
/-- A codeword of ten cells; it waits in the replay buffer since 0, sent once. -/
def cw0 (seq : BitVec 8) : Codeword := ⟨seq, 200, false, false, false, false, List.replicate 10 ⟨0, List.replicate 62 0⟩⟩
def sReplay (now sends : Nat) : State :=
  { sUp fun l => { l with replay := [⟨cw0 7, 0, sends⟩], q1 := [⟨2, false, [1], 0⟩] } with clock := now }
/-- A remap has run since 0. -/
def sRemap (now : Nat) : State :=
  { (sUp fun l => { l with rxRemap := some 0, paused := some 0, replay := [⟨cw0 7, 0, 1⟩] }).put (F.ZL_STATUS_STATE 3) 3 with clock := now }
/-- An alignment block from the partner, scheduled or out of turn. -/
def block0 (mask : BitVec 4) (oot : Bool) : AlignBlock :=
  let b : AlignBlock := ⟨0x3B5DC60E, 0, 15, mask, oot, 0, 0⟩
  { b with crc := crc16Of 8 (alignValue b) }
/-- Its copy is to be sent again; a lane has missed two scheduled blocks; the lanes are deskewed. -/
def sAgain : State := sUp fun l => { l with replay := [⟨cw0 7, 0, 1⟩], resend := [7] }
def sMissed : State := sUp fun l => { l with missed := l.missed.set 0 2 }
def sLine : State := sUp fun l => { l with deskewed := true }
/-- A codeword of idle cells as the message bits spell it, and what four lanes carry of it at ZL1. -/
def cwOf (seq : BitVec 8) : Codeword := parseCodeword (cwMessage (cw0 seq))
def lineOf (seq : BitVec 8) : List (List (BitVec 2)) :=
  (List.range 4).map fun j => lineLevels 0 (laneBits (rsEncode (cwMessage (cw0 seq))) 0 4 j)
/-- Port 3 sends a codeword on four lanes. -/
def sendsOf (s : State) (cw : Codeword) (t : State) : Prop :=
  t.link.port[3].tx = s.link.port[3].tx.next 4 ∧ t.regs = s.regs ∧ ∀ x ∈ [0, 1, 2, 3].zipIdx,
    Out.line 3 x.1 (lineLevels s.link.port[3].ver (laneBits (rsEncode (cwMessage cw)) s.link.port[3].tx.phase 4 x.2)) ∈ t.out
/-- A token of the partner that echoes the one sent at 1,000. -/
def token0 (retx : Bool) : TimeToken := ⟨1500, 7, 4, 9, 1400, 3, 0, retx⟩
def sTokens : State := { sUp fun l => { l with tokens := [⟨9, 1000, 5⟩] } with tb := { run0.tb with ns := 2000 } }
/-- Transmit entry 63 is enabled with data to send, and SYNC is due. -/
def sTx (n : Nat) : State :=
  let s := ((run0.put (F.ZL_TXS_EN 63) 1).put (F.ZL_TXS_SYNC 63) 1).setReg (F.ZL_TXSSN_NEXT 63).addr 0xFFFFFFFF
  { s with link := { s.link with tx := [(63, List.replicate n 1, false)] } }
/-- The raw ring of one 4 KiB unit on port 3, with a write offset. -/
def sRaw (wr : Nat) : State :=
  ((((sUp fun l => { l with raw := true }).put (F.ZL_CFG_RAW 3) 1).put F.ZL_RAW_SIZE_SIZE_4K 1).put F.ZL_RAW_WPTR_WR_64B wr).put F.ZL_RAW_BASE_BASE 0x6A00
/-- The event ring at the general store, its read pointer at 1, with an entry kept. -/
def sRing (wr : Nat) : State :=
  let s := ((run0.put F.EVT_UPD_BASE_BASE (0x06A00000 / 1024)).put F.EVT_UPD_PTR_RD 1).put F.EVT_UPD_PTR_WR wr
  { s with evt := { s.evt with recent := [(1, 2, 3, 4)] } }
/-- A session tag is set, and packets wait at port 3 of tile (1, 2). -/
def sMgmt (k : List Packet) : State :=
  ((((((sUp fun l => { l with rxPkts := k }).put F.HOST_SESSION_STAT_SET 1).setReg F.HOST_SESSION_LO_addr 5).put F.ZL_ADDR_X 1).put
    F.ZL_ADDR_Y 2).put F.ZL_MRX_BASE_BASE 0x6A00).put F.ZL_MRX_PTR_RD 1
/-- A request with a session tag. -/
def req0 (session : BitVec 64) : MgmtReq := ⟨1, 2, false, 0, 3, 0, session, 0x10204, [0x100]⟩
/-- A readiness, an event and a management packet for a tile. -/
def pkt (ty : BitVec 4) (x : Byte) : Packet := ⟨ty, true, [x, 2, 1, 2, 0, 0, 0, 0, 3, 0, 0, 0, 9, 0, 0, 0]⟩
/-- A request image for a tile is to be sent. -/
def sSendM (x : Nat) : State := 
  ((((sMgmt []).setReg F.ZL_MGMT_EPOCH_addr 5).put F.ZL_MTX_CTL_SEND 1).put F.ZL_MTX_ADDR_ADDR (0x06A00000 / 64)).store 0x06A00000
    [BitVec.ofNat 8 x, 2]

/-- States and operands that meet the hypotheses of PortsTrainAndGoDown, clause by clause. -/
theorem witness_PortsTrainAndGoDown :
    (∃ (s : State) (p : Fin 4), s.up = true ∧ s.bit (F.ZL_CFG_EN p.val) = false) ∧
    (∃ (s : State) (p : Fin 4), s.up = true ∧ s.bit (F.ZL_CFG_EN p.val) = true ∧
      (s.get (F.ZL_STATUS_STATE p.val) = 0 ∨ s.get (F.ZL_STATUS_STATE p.val) = 4) ∧
      s.link.port[p].failedAt + max 1 (s.get (F.ZL_CFG_RETRY_MS p.val)) * 1000000 ≤ s.clock) ∧
    (∃ (s : State) (p : Fin 4), s.up = true ∧ s.bit (F.ZL_CFG_EN p.val) = true) ∧
    (∃ (s : State) (p : Fin 4), s.up = true ∧ s.get (F.ZL_STATUS_STATE p.val) = 1 ∧ s.link.port[p].train.quick = true) ∧
    (∃ (s : State) (p : Fin 4), s.up = true ∧ s.get (F.ZL_STATUS_STATE p.val) = 1 ∧ s.link.port[p].train.quick = false) ∧
    (∃ s : State, s.up = true) ∧
    (∃ (s : State) (p : Fin 4) (v : Nat), s.up = true ∧ s.resolved p = some v ∧ 0 < v ∧ s.get (F.ZL_STATUS_STATE p.val) = 1 ∧
      s.link.port[p].train.accepted = true ∧ s.link.port[p].train.gotAccepted = true ∧ 64 ≤ s.link.port[p].train.markers ∧
      s.link.port[p].train.ver = 0) ∧
    (∃ (s : State) (p lane : Fin 4) (f : TrainFrame), s.mode = Mode.run ∧ s.bit (F.ZL_CFG_EN p.val) = true ∧
      s.bit (F.PLL_CTL_LOCK 5) = true ∧ s.get (F.ZL_STATUS_STATE p.val) = 1 ∧ f.marker = 3836836396#32 ∧
      s.link.port[p].train.mask.testBit lane.val = true ∧ f.capCrc = crc16Of 4 (BitVec.toNat f.cap) ∧
      f.identCrc = crc16Of 4 (BitVec.toNat f.ident) ∧ f.statusCrc = crc16Of 2 f.status.toNat ∧
      f.status.toNat / 8 % 4 = s.link.port[p].train.ver ∧ f.cap ≠ 0 ∧ s.link.port[p].train.accepted = false ∧
      s.link.port[p].train.lanes[lane].cap = f.cap ∧ s.link.port[p].train.lanes[lane].ident = f.ident ∧
      3 ≤ s.link.port[p].train.lanes[lane].same) ∧
    (∃ (s : State) (p lane : Fin 4) (f : TrainFrame), s.mode = Mode.run ∧ s.bit (F.ZL_CFG_EN p.val) = true ∧
      s.bit (F.PLL_CTL_LOCK 5) = true ∧ s.get (F.ZL_STATUS_STATE p.val) = 1 ∧ f.marker = 3836836396#32 ∧
      s.link.port[p].train.mask.testBit lane.val = true ∧ f.capCrc = crc16Of 4 (BitVec.toNat f.cap) ∧
      f.identCrc = crc16Of 4 (BitVec.toNat f.ident) ∧ f.statusCrc = crc16Of 2 f.status.toNat ∧
      f.status.toNat / 8 % 4 = s.link.port[p].train.ver ∧ f.cap ≠ 0 ∧ s.link.port[p].train.accepted = true ∧
      s.link.port[p].train.gotAccepted = true ∧ f.status.getLsbD 2 = true ∧ s.resolved p = some s.link.port[p].train.ver ∧
      (BitVec.toNat (s.reg (F.ZL_LCAP_addr p.val) &&& s.reg (F.ZL_PCAP_addr p.val)) / 16).testBit lane.val = true) ∧
    (∃ (s : State) (f : TrainFrame), s.mode = Mode.run ∧ f.marker ≠ 3836836396#32) ∧
    (∃ (s : State) (p : Fin 4) (c : Instr), s.up = true ∧ s.portUp p = true ∧
      (c = Instr.portDown p ∨ (c = Instr.ackTimeout p ∧ ∃ (r : TxCodeword), r ∈ s.link.port[p].replay ∧
        (s.link.port[p].paused = none ∧ r.firstAt + 2000 ≤ s.clock ∨ 4 ≤ r.sends)) ∨ c = Instr.remapTimeout p ∧
        ∃ (receive : Bool), ∃ (a : Nat), s.link.port[p].remapAt receive = some a ∧ a + 8000 ≤ s.clock)) ∧
    (∃ s : State, s.up = true) ∧
    (∃ s : State, s.up = true) :=
  ⟨⟨((run0.put (F.ZL_CFG_WAKE 3) 1).put (F.ZL_CFG_EN 3) 0), 3, by decide +kernel⟩,
   ⟨({ sPort 4 id with clock := 100000000 }), 3, by decide +kernel⟩,
   ⟨(sPort 2 id), 3, by decide +kernel⟩,
   ⟨(sPort 1 fun l => { l with train := { l.train with quick := true } }), 3, by decide +kernel⟩,
   ⟨(sPort 1 id), 3, by decide +kernel⟩,
   ⟨run0, by decide +kernel⟩,
   ⟨(sAccepted 0), 3, 2, by decide +kernel⟩,
   ⟨sSame, 3, 0, (frameOf 0), by decide +kernel⟩,
   ⟨(sAccepted 2), 3, 0, (frameOf 20), by decide +kernel⟩,
   ⟨run0, { frameOf 0 with marker := 0 }, by decide +kernel⟩,
   ⟨(sReplay 2000 1), 3, (.portDown 3), by decide +kernel⟩,
   ⟨(sReplay 0 1), by decide +kernel⟩,
   ⟨run0, by decide +kernel⟩⟩

/-- States and operands that meet the hypotheses of LanesRemap, clause by clause. -/
theorem witness_LanesRemap :
    (∃ (s : State) (p lane : Fin 4), s.up = true ∧ s.portUp p = true ∧ (s.get (F.ZL_STATUS_RX_LANES p.val)).testBit lane.val = true
        ∧
      s.get (F.ZL_STATUS_RX_LANES p.val) ≠ 2 ^ lane.val) ∧
    (∃ (s : State) (p : Fin 4) (b : AlignBlock) (tx mask : Nat), s.up = true ∧ s.portUp p = true ∧ b.am = 996001294#32 ∧
      b.crc = crc16Of 8 (alignValue b) ∧ tx = s.get (F.ZL_STATUS_TX_LANES p.val) ∧ mask = b.rxMask.toNat ∧ b.oot = false) ∧
    (∃ (s : State) (p : Fin 4) (b : AlignBlock) (tx mask : Nat), s.up = true ∧ s.portUp p = true ∧ b.am = 996001294#32 ∧
      b.crc = crc16Of 8 (alignValue b) ∧ tx = s.get (F.ZL_STATUS_TX_LANES p.val) ∧ mask = b.rxMask.toNat ∧ b.oot = true ∧
      tx &&& mask = tx) ∧
    (∃ (s : State) (p : Fin 4) (b : AlignBlock) (tx mask : Nat), s.up = true ∧ s.portUp p = true ∧ b.am = 996001294#32 ∧
      b.crc = crc16Of 8 (alignValue b) ∧ tx = s.get (F.ZL_STATUS_TX_LANES p.val) ∧ mask = b.rxMask.toNat ∧ b.oot = true ∧
      tx &&& mask ≠ tx ∧ tx &&& mask ≠ 0) ∧
    (∃ (s : State) (p : Fin 4) (b : AlignBlock) (tx mask : Nat), s.up = true ∧ s.portUp p = true ∧ b.am = 996001294#32 ∧
      b.crc = crc16Of 8 (alignValue b) ∧ tx = s.get (F.ZL_STATUS_TX_LANES p.val) ∧ mask = b.rxMask.toNat ∧ b.oot = true ∧ tx ≠ 0 ∧
      tx &&& mask = 0) ∧
    (∃ (s : State) (p : Fin 4) (receive : Bool) (a : Nat), s.up = true ∧ s.portUp p = true ∧ s.link.port[p].paused = some a ∧
      s.link.port[p].remapAt receive ≠ none) ∧
    (∃ (s : State) (p lane : Fin 4), s.up = true ∧ s.portUp p = true ∧ (s.get (F.ZL_STATUS_TX_LANES p.val)).testBit lane.val = true
        ∧
      672 ≤ s.link.port[p].tx.units ∧ s.link.port[p].tx.blocks.testBit lane.val = false) ∧
    (∃ (s : State) (p lane : Fin 4), s.up = true ∧ s.portUp p = true ∧ (s.get (F.ZL_STATUS_TX_LANES p.val)).testBit lane.val = true
        ∧
      (s.link.port[p].tx.units < 672 ∨ s.link.port[p].tx.blocks.testBit lane.val = true)) :=
  ⟨⟨(sUp id), 3, 2, by decide +kernel⟩,
   ⟨(sReplay 0 1), 3, (block0 15 false), 15, 15, by decide +kernel⟩,
   ⟨(sReplay 0 1), 3, (block0 15 true), 15, 15, by decide +kernel⟩,
   ⟨(sReplay 0 1), 3, (block0 7 true), 15, 7, by decide +kernel⟩,
   ⟨(sReplay 0 1), 3, (block0 0 true), 15, 0, by decide +kernel⟩,
   ⟨(sRemap 100), 3, true, 0, by decide +kernel⟩,
   ⟨(sUp fun l => { l with tx := { l.tx with units := 672 } }), 3, 0, by decide +kernel⟩,
   ⟨(sUp id), 3, 0, by decide +kernel⟩⟩

/-- States and operands that meet the hypotheses of CodewordsInOrder, clause by clause. -/
theorem witness_CodewordsInOrder :
    (∃ m : Nat, m < 2 ^ 5140) ∧
    (∃ cw : Codeword, cw.cells.length = 10 ∧ (∀ (c : Cell), c ∈ cw.cells → c.payload.length = 62)) ∧
    (∃ (s : State) (p : Fin 4) (lanes : List Nat) (sends : Codeword → State → Prop),
        (sends = fun (cw : Codeword) (t : State) => t.link.port[p].tx = s.link.port[p].tx.next lanes.length ∧ t.regs = s.regs ∧
        ∀ (x : Nat × Nat), x ∈ lanes.zipIdx → Out.line (p.val) x.fst (lineLevels s.link.port[p].ver (laneBits (rsEncode (cwMessage
        cw)) s.link.port[p].tx.phase lanes.length x.snd)) ∈ t.out) ∧
      s.up = true ∧ s.portUp p = true ∧ s.link.port[p].txRemap = none ∧ s.link.port[p].tx.units < 672 ∧
      lanes = maskLanes (s.get (F.ZL_STATUS_TX_LANES p.val)) ∧ s.link.port[p].resend = [] ∧ s.link.port[p].replay.length < 128) ∧
    (∃ (s : State) (p : Fin 4) (lanes : List Nat) (sends : Codeword → State → Prop) (q : BitVec 8) (l : List (BitVec 8)) (r :
        TxCodeword), (sends = fun (cw : Codeword) (t : State) => t.link.port[p].tx = s.link.port[p].tx.next lanes.length ∧
        t.regs = s.regs ∧ ∀ (x : Nat × Nat), x ∈ lanes.zipIdx → Out.line (p.val) x.fst (lineLevels s.link.port[p].ver (laneBits
        (rsEncode (cwMessage cw)) s.link.port[p].tx.phase lanes.length x.snd)) ∈ t.out) ∧
      s.up = true ∧ s.portUp p = true ∧ s.link.port[p].txRemap = none ∧ s.link.port[p].tx.units < 672 ∧
      lanes = maskLanes (s.get (F.ZL_STATUS_TX_LANES p.val)) ∧ s.link.port[p].resend = q :: l ∧
      (List.find? (fun (r : TxCodeword) => r.cw.seq == q) s.link.port[p].replay = some r)) ∧
    (∃ (s b : State) (p i : Fin 4), (b = s.onPort p fun (l : LinkPort) => l.boundary (s.get (F.ZL_STATUS_RX_LANES p.val))) ∧
      s.up = true ∧ s.portUp p = true ∧ b.lostLane p = some i) ∧
    (∃ (s b : State) (p : Fin 4) (line : List (List (BitVec 2))), (b = s.onPort p fun (l : LinkPort) => l.boundary (s.get
        (F.ZL_STATUS_RX_LANES p.val))) ∧
      s.up = true ∧ s.portUp p = true ∧ b.lostLane p = none ∧ b.decodeLine p line = none) ∧
    (∃ (s b : State) (p : Fin 4) (line : List (List (BitVec 2))) (cw : Codeword),
        (b = s.onPort p fun (l : LinkPort) => l.boundary (s.get (F.ZL_STATUS_RX_LANES p.val))) ∧
      s.up = true ∧ s.portUp p = true ∧ b.lostLane p = none ∧ b.decodeLine p line = some (cw, []) ∧ s.badLane p = none ∧
      cw.nak = false ∧ cw.seq = s.link.port[p].rxSeq + 1) ∧
    (∃ (s b : State) (p : Fin 4) (line : List (List (BitVec 2))) (cw : Codeword),
        (b = s.onPort p fun (l : LinkPort) => l.boundary (s.get (F.ZL_STATUS_RX_LANES p.val))) ∧
      s.up = true ∧ s.portUp p = true ∧ b.lostLane p = none ∧ b.decodeLine p line = some (cw, []) ∧ s.badLane p = none ∧
      cw.nak = false ∧ cw.seq ≠ s.link.port[p].rxSeq + 1) ∧
    (∃ (s : State) (p : Fin 4) (k : TimeToken) (t4 : BitVec 48), s.up = true ∧ s.portUp p = true ∧
      t4 = s.now48 - BitVec.ofInt 48 (s.phyDelay p.val) ∧ k.retx = true) ∧
    (∃ (s : State) (p : Fin 4) (k : TimeToken) (t4 : BitVec 48), s.up = true ∧ s.portUp p = true ∧
      t4 = s.now48 - BitVec.ofInt 48 (s.phyDelay p.val) ∧ k.retx = false ∧
      (List.find? (fun (x : SentToken) => x.id == k.echoId) s.link.port[p].tokens = none)) ∧
    (∃ (s : State) (p : Fin 4) (k : TimeToken) (t4 : BitVec 48) (x : SentToken), s.up = true ∧ s.portUp p = true ∧
      t4 = s.now48 - BitVec.ofInt 48 (s.phyDelay p.val) ∧ k.retx = false ∧
      (List.find? (fun (x : SentToken) => x.id == k.echoId) s.link.port[p].tokens = some x) ∧ s.timePort ≠ some p) :=
  ⟨⟨1, by decide +kernel⟩,
   ⟨(cw0 7), by decide +kernel⟩,
   ⟨(sUp id), 3, ([0, 1, 2, 3]), (sendsOf (sUp id)), rfl, by decide +kernel⟩,
   ⟨sAgain, 3, ([0, 1, 2, 3]), (sendsOf sAgain), 7, ([]), ⟨cw0 7, 0, 1⟩, rfl, by decide +kernel⟩,
   ⟨sMissed, _, 3, 0, rfl, by decide +kernel⟩,
   ⟨(sUp id), _, 3, ([]), rfl, by decide +kernel⟩,
   ⟨sLine, _, 3, (lineOf 0), (cwOf 0), rfl, by decide +kernel⟩,
   ⟨sLine, _, 3, (lineOf 1), (cwOf 1), rfl, by decide +kernel⟩,
   ⟨sTokens, 3, (token0 true), (sTokens.now48 - BitVec.ofInt 48 (sTokens.phyDelay 3)), by decide +kernel⟩,
   ⟨sTokens, 3, ({ token0 false with echoId := 1 }), (sTokens.now48 - BitVec.ofInt 48 (sTokens.phyDelay 3)), by decide +kernel⟩,
   ⟨sTokens, 3, (token0 false), (sTokens.now48 - BitVec.ofInt 48 (sTokens.phyDelay 3)), ⟨9, 1000, 5⟩, by decide +kernel⟩⟩

/-- States and operands that meet the hypotheses of StreamsRingsAndTables, clause by clause. -/
theorem witness_StreamsRingsAndTables :
    (∃ s : State, s.up = true) ∧
    (∃ (s : State) (k : Fin 64) (e : Nat × List Byte × Bool), s.up = true ∧ s.bit (F.ZL_TXS_EN k.val) = true ∧
      (List.find? (fun (e : Nat × List Byte × Bool) => e.fst == k.val) s.link.tx = some e)) ∧
    (∃ s : State, s.up = true) ∧
    (∃ s : State, s.up = true) ∧
    (∃ s : State, s.up = true) ∧
    (∃ (s : State) (p : Fin 4) (data : List Byte), s.up = true ∧ s.rawPort p = true ∧ s.portUp p = true ∧
      s.rawUnits ≤ s.rawUsed + (data.length + 63) / 64) ∧
    (∃ (s : State) (p : Fin 4) (data : List Byte) (u : State) (base first : Nat),
        (u = if first < data.length then (s.requestWrite DramSource.rawRing (base + 64 * s.get F.ZL_RAW_WPTR_WR_64B) (List.take
        first data)).requestWrite DramSource.rawRing base (List.drop first data) else s.requestWrite DramSource.rawRing (base + 64
        * s.get F.ZL_RAW_WPTR_WR_64B) data) ∧
      s.up = true ∧ s.rawPort p = true ∧ s.portUp p = true ∧ s.rawUsed + (data.length + 63) / 64 < s.rawUnits ∧
      base = 4096 * s.get F.ZL_RAW_BASE_BASE ∧ first = 64 * (s.rawUnits - s.get F.ZL_RAW_WPTR_WR_64B)) ∧
    (∃ (s : State) (value : Word) (old new : Nat) (p : Fin 4), s.up = true ∧ old = s.get F.ZL_RAW_RPTR_RD_64B ∧
      new = F.ZL_RAW_RPTR_RD_64B.of value ∧ List.find? s.rawPort (List.finRange 4) = some p) ∧
    (∃ (s : State) (value : Word) (old new : Nat), s.up = true ∧ old = s.get F.ZL_RAW_RPTR_RD_64B ∧
      new = F.ZL_RAW_RPTR_RD_64B.of value ∧ (∀ (p : Fin 4), s.rawPort p = false)) ∧
    (∃ (s : State) (x y : Byte) (source : BitVec 10) (tb : Word) (a : Nat), s.up = true ∧ s.bit F.EVT_UPD_BASE_BASE = true ∧
      a = s.get F.EVT_UPD_BASE_BASE * 1024 + 16 * s.get F.EVT_UPD_PTR_WR ∧ (x, y, source, tb) ∈ s.evt.recent) ∧
    (∃ (s : State) (x y : Byte) (source : BitVec 10) (tb : Word) (a : Nat), s.up = true ∧ s.bit F.EVT_UPD_BASE_BASE = true ∧
      a = s.get F.EVT_UPD_BASE_BASE * 1024 + 16 * s.get F.EVT_UPD_PTR_WR ∧ ¬(x, y, source, tb) ∈ s.evt.recent ∧
      (s.get F.EVT_UPD_PTR_WR + 1) % 64 = s.get F.EVT_UPD_PTR_RD) ∧
    (∃ (s : State) (x y : Byte) (source : BitVec 10) (tb : Word) (a : Nat), s.up = true ∧ s.bit F.EVT_UPD_BASE_BASE = true ∧
      a = s.get F.EVT_UPD_BASE_BASE * 1024 + 16 * s.get F.EVT_UPD_PTR_WR ∧ ¬(x, y, source, tb) ∈ s.evt.recent ∧
      (s.get F.EVT_UPD_PTR_WR + 1) % 64 ≠ s.get F.EVT_UPD_PTR_RD ∧ meetsLedgers a 16 = false) :=
  ⟨⟨run0, by decide +kernel⟩,
   ⟨(sTx 4096), 63, (63, List.replicate 4096 1, false), by decide +kernel⟩,
   ⟨run0, by decide +kernel⟩,
   ⟨(run0.put F.ZL_STAB_ADDR_INDEX 4095), by decide +kernel⟩,
   ⟨(run0.put F.ZL_STAB_ADDR_INDEX 4095), by decide +kernel⟩,
   ⟨(sRaw 62), 3, (List.replicate 65 1), by decide +kernel⟩,
   ⟨(sRaw 61), 3, (List.replicate 65 1), _, 0x06A00000, 192, rfl, by decide +kernel⟩,
   ⟨(sRaw 61), 61, 0, 61, 3, by decide +kernel⟩,
   ⟨run0, 61, 0, 61, by decide +kernel⟩,
   ⟨(sRing 5), 1, 2, 3, 4, (0x06A00050), by decide +kernel⟩,
   ⟨(sRing 0), 1, 2, 5, 4, (0x06A00000), by decide +kernel⟩,
   ⟨(sRing 63), 1, 2, 5, 4, (0x06A003F0), by decide +kernel⟩⟩

/-- States and operands that meet the hypotheses of ManagementIsGuardedByTheSession, clause by clause. -/
theorem witness_ManagementIsGuardedByTheSession :
    (∃ (s : State) (p : Fin 4) (k : Packet), s.up = true ∧ s.portUp p = true ∧ (k.ty = 1 ∨ k.ty = 2 ∨ k.ty = 6) ∧
        streamHead k = none) ∧
    (∃ (s u : State) (p : Fin 4) (k : Packet), (u = s.onPort p fun (l : LinkPort) => { l with rxPkts := l.rxPkts.erase k }) ∧
      s.up = true ∧ s.portUp p = true ∧ (k.ty = 3 ∨ k.ty = 4 ∨ k.ty = 5) ∧
      s.hop (BitVec.toNat (k.data.getD 0 0)) (BitVec.toNat (k.data.getD 1 0)) (BitVec.getLsbD (k.data.getD 4 0) 0) = Hop.here ∧
      k.ty = 4) ∧
    (∃ (s u : State) (p : Fin 4) (k : Packet), (u = s.onPort p fun (l : LinkPort) => { l with rxPkts := l.rxPkts.erase k }) ∧
      s.up = true ∧ s.portUp p = true ∧ (k.ty = 3 ∨ k.ty = 4 ∨ k.ty = 5) ∧
      s.hop (BitVec.toNat (k.data.getD 0 0)) (BitVec.toNat (k.data.getD 1 0)) (BitVec.getLsbD (k.data.getD 4 0) 0) = Hop.here ∧
      k.ty = 5) ∧
    (∃ (s u : State) (p : Fin 4) (k : Packet) (q : Fin 4), (u = s.onPort p fun (l : LinkPort) =>
        { l with rxPkts := l.rxPkts.erase k }) ∧
      s.up = true ∧ s.portUp p = true ∧ (k.ty = 3 ∨ k.ty = 4 ∨ k.ty = 5) ∧
      s.hop (BitVec.toNat (k.data.getD 0 0)) (BitVec.toNat (k.data.getD 1 0)) (BitVec.getLsbD (k.data.getD 4 0) 0) = Hop.port q) ∧
    (∃ (s : State) (p : Fin 4) (req : MgmtReq), s.up = true ∧ s.portUp p = true ∧ s.sessionOk req = false) ∧
    (∃ (s : State) (p : Fin 4) (req : MgmtReq) (w : Word), s.up = true ∧ s.portUp p = true ∧ s.sessionOk req = true ∧
      req.countM1 = 0 ∧ req.data = [w]) ∧
    (∃ (s : State) (p : Fin 4) (req : MgmtReq) (w : Word), s.up = true ∧ s.portUp p = true ∧ s.sessionOk req = true ∧
      req.countM1 = 0 ∧ req.data = [w]) ∧
    (∃ (s : State) (bytes : List Byte), s.up = true ∧ BitVec.toNat (bytes.getD 6 0) / 4 ≠ s.get F.ZL_MGMT_EPOCH_EPOCH) ∧
    (∃ (s : State) (bytes : List Byte), s.up = true ∧ BitVec.toNat (bytes.getD 6 0) / 4 = s.get F.ZL_MGMT_EPOCH_EPOCH ∧
      s.bit F.ZL_MRX_BASE_BASE = true ∧ (s.get F.ZL_MRX_PTR_WR + 1) % 64 = s.get F.ZL_MRX_PTR_RD) ∧
    (∃ (s : State) (bytes : List Byte), s.up = true ∧ BitVec.toNat (bytes.getD 6 0) / 4 = s.get F.ZL_MGMT_EPOCH_EPOCH ∧
      s.bit F.ZL_MRX_BASE_BASE = true ∧ (s.get F.ZL_MRX_PTR_WR + 1) % 64 ≠ s.get F.ZL_MRX_PTR_RD) ∧
    (∃ (s : State) (bs : List Byte), s.up = true ∧ bs = s.requestImage ∧
      s.hop (BitVec.toNat (bs.getD 0 0)) (BitVec.toNat (bs.getD 1 0)) (BitVec.getLsbD (bs.getD 4 0) 0) = Hop.here ∧
      s.sessionOk (parseMgmt bs).snd = false ∧ (parseMgmt bs).fst ≠ 3) ∧
    (∃ (s : State) (bs : List Byte), s.up = true ∧ bs = s.requestImage ∧
      s.hop (BitVec.toNat (bs.getD 0 0)) (BitVec.toNat (bs.getD 1 0)) (BitVec.getLsbD (bs.getD 4 0) 0) = Hop.nowhere) ∧
    (∃ (s : State) (bs : List Byte), s.up = true ∧ bs = s.requestImage) ∧
    (∃ (s : State) (bs : List Byte) (q : Fin 4), s.up = true ∧ bs = s.requestImage ∧
      s.hop (BitVec.toNat (bs.getD 0 0)) (BitVec.toNat (bs.getD 1 0)) (BitVec.getLsbD (bs.getD 4 0) 0) = Hop.port q) ∧
    (∃ (s : State) (p : Fin 4) (req : MgmtReq) (w v : Word) (u : State), s.restartIdle.readReg (BitVec.toNat req.addr) = some (v,
        u) ∧
      s.up = true ∧ s.portUp p = true ∧ s.sessionOk req = true ∧ req.countM1 = 0 ∧ req.data = [w]) :=
  ⟨⟨(sMgmt [⟨1, false, []⟩]), 3, ⟨1, false, []⟩, by decide +kernel⟩,
   ⟨(sMgmt [pkt 4 1]), _, 3, (pkt 4 1), rfl, by decide +kernel⟩,
   ⟨(sMgmt [pkt 5 1]), _, 3, (pkt 5 1), rfl, by decide +kernel⟩,
   ⟨(sMgmt [pkt 5 2] |>.setReg (F.ZL_PID_addr 3) 0x202), _, 3, (pkt 5 2), 3, rfl, by decide +kernel⟩,
   ⟨(sMgmt []), 3, (req0 6), by decide +kernel⟩,
   ⟨(sMgmt []), 3, (req0 5), 0x100, by decide +kernel⟩,
   ⟨(sMgmt []), 3, (req0 5), 0x100, by decide +kernel⟩,
   ⟨(sMgmt []), (List.replicate 62 4), by decide +kernel⟩,
   ⟨((sMgmt []).put F.ZL_MRX_PTR_WR 0), (List.replicate 62 0), by decide +kernel⟩,
   ⟨((sMgmt []).put F.ZL_MRX_PTR_WR 63), (List.replicate 62 0), by decide +kernel⟩,
   ⟨(sSendM 1), ((sSendM 1).requestImage), by decide +kernel⟩,
   ⟨(sSendM 9), ((sSendM 9).requestImage), by decide +kernel⟩,
   ⟨(sSendM 9), ((sSendM 9).requestImage), by decide +kernel⟩,
   ⟨(sSendM 2 |>.setReg (F.ZL_PID_addr 3) 0x202), ((sSendM 2 |>.setReg (F.ZL_PID_addr 3) 0x202).requestImage), 3,
        by decide +kernel⟩,
   ⟨(sMgmt []), 3, (req0 5), 0x100, (((sMgmt []).restartIdle.readReg (req0 5).addr.toNat |>.getD (0, run0)).1),
        (((sMgmt []).restartIdle.readReg (req0 5).addr.toNat |>.getD (0, run0)).2), some_getD (by decide +kernel),
        by decide +kernel⟩⟩

/-- States and operands that meet the hypotheses of StreamPacketsAreTakenOnce, clause by clause. -/
theorem witness_StreamPacketsAreTakenOnce :
    (∃ k : StreamPacket, k.stream < 4096 ∧ 1 ≤ k.data.length ∧ k.data.length ≤ 4096) ∧
    (∃ (l : LocalStream) (sync : Bool) (session : Byte) (ssn : Word), (l.take sync session ssn).snd.fst = Verdict.accept) :=
  ⟨⟨⟨4095, true, false, true, true, 3, 0xFFFFFFFF, [1]⟩, by decide +kernel⟩,
   ⟨LocalStream.reset, true, 5, 0xFFFFFFFF, by decide +kernel⟩⟩

/-- The time base with a source, a state and FORCE. -/
def sTb (src st force : Nat) : State :=
  ((run0.put F.TB_CTL_SRC src).put F.TB_STATE_STATE st).put F.TB_CTL_FORCE force
/-- The loop's proportional part of a measurement in whole nanoseconds, at the gains of reset. -/
def tbP (ns : Int) : Int := ns * 65536 * 65536 / 2 ^ 18
/-- Genlock, whose edge has been missing for 11 ms. -/
def sMiss : State := let s := sTb 2 1 0; { s with tb := { s.tb with ns := 11000000 } }
/-- An output is enabled, high and due. -/
def sPulse : State := (run0.put (F.TB_OUT_CFG_EN 3) 1).onOut 3 fun o => { o with high := true, armed := true, next := 0 }
/-- The output's pulse began 60 µs ago. -/
def sPulseEnd : State :=
  let s := runAt 60000000
  s.onOut 3 fun o => { o with high := true, since := 0 }
/-- Capture input 3 takes both edges; with an unread capture; the genlock input. -/
def sCapT (unread : BitVec 4) (src gl : Nat) : State :=
  let s := (sTb src 1 0).put F.TB_CTL_GL_IN gl
  { s.put (F.TB_IN_CFG_EDGE 3) 3 with tb := { s.tb with unread := unread } }
/-- Ethernet port 1 with rings of two entries, the receive ring's sw pointer given. -/
def sEth (rxSw txSw : Nat) (word : Word) : State :=
  let s := (((run0.put (F.ETH_CFG_EN 1) 1).put (F.ETH_STATUS_LINK 1) 1).put (F.ETH_RXR_SIZE_N 1) 2).put (F.ETH_TXR_SIZE_N 1) 256
  let s := ((s.put (F.ETH_RXR_PTR_SW 1) rxSw).put (F.ETH_TXR_PTR_SW 1) txSw).put (F.ETH_RXR_BASE_BASE 1) 0x1A8000
  let s := s.put (F.ETH_TXR_BASE_BASE 1) 0x1A8100
  (s.store 0x06A00000 ([0x06A08000, 64, 0, 0].flatMap (bytesOfNat 4))).store 0x06A04000
    ([0x06A0A000, word.toNat, 14, 0].flatMap (bytesOfNat 4))
/-- A PTP Sync over IEEE 802.3, and a broadcast frame of another type. -/
def syncFrame : List Byte := List.replicate 6 (255 : Byte) ++ List.replicate 6 (0 : Byte) ++ [0x88, 0xF7] ++ List.replicate 50 (0 : Byte)
def plainFrame : List Byte := List.replicate 6 (255 : Byte) ++ List.replicate 58 (0 : Byte)
/-- The queue of stamps of port 1 is full. -/
def sTsq : State :=
  let s := sEth 1 1 (0x10000 + 64)
  { s with tsq := s.tsq.set 1 (List.replicate 16 ⟨0, 0, false, 0, 0⟩) }

/-- States and operands that meet the hypotheses of TimeBaseFollowsItsSource, clause by clause. -/
theorem witness_TimeBaseFollowsItsSource :
    (∃ (s : State) (value : Word) (e p : Int), s.up = true ∧ s.get F.TB_CTL_SRC = 3 ∧
      e = BitVec.toInt value * 65536 + ↑s.tb.swFrac.toNat ∧ p = e * 65536 / 2 ^ s.get F.TB_GAIN_KP ∧ s.bit F.TB_CTL_FORCE = false ∧
      (s.get F.TB_STATE_STATE = 1 ∨ s.get F.TB_STATE_STATE = 2) ∧ e.natAbs ≤ s.get F.TB_JUMP_LIMIT_NS * 65536) ∧
    (∃ (s : State) (value : Word) (e p : Int), s.up = true ∧ s.get F.TB_CTL_SRC = 3 ∧
      e = BitVec.toInt value * 65536 + ↑s.tb.swFrac.toNat ∧ p = e * 65536 / 2 ^ s.get F.TB_GAIN_KP ∧ s.bit F.TB_CTL_FORCE = false ∧
      s.get F.TB_STATE_STATE ≠ 0 ∧ s.get F.TB_JUMP_LIMIT_NS * 65536 < e.natAbs) ∧
    (∃ (s : State) (value : Word) (e p : Int), s.up = true ∧ s.get F.TB_CTL_SRC = 3 ∧
      e = BitVec.toInt value * 65536 + ↑s.tb.swFrac.toNat ∧ p = e * 65536 / 2 ^ s.get F.TB_GAIN_KP ∧ s.bit F.TB_CTL_FORCE = false ∧
      s.get F.TB_STATE_STATE = 3 ∧ e.natAbs ≤ s.get F.TB_JUMP_LIMIT_NS * 65536) ∧
    (∃ (s : State) (value : Word) (e p : Int), s.up = true ∧ s.get F.TB_CTL_SRC = 3 ∧
      e = BitVec.toInt value * 65536 + ↑s.tb.swFrac.toNat ∧ p = e * 65536 / 2 ^ s.get F.TB_GAIN_KP ∧
      (s.bit F.TB_CTL_FORCE = true ∨ s.get F.TB_STATE_STATE = 0)) ∧
    (∃ s : State, s.up = true ∧ s.tb.srcLost = false ∧
      (s.get F.TB_CTL_SRC = 3 ∧ s.tb.lastMeas + max 1 (s.get F.TB_SW_TIMEOUT_MS) * 1000000 ≤ s.clock ∨ s.get F.TB_CTL_SRC = 2 ∧
        2 ≤ s.tb.glMissed ∨ s.get F.TB_CTL_SRC = 1 ∧ (s.timePort = none ∨ s.tb.lastMeas + 20000 ≤ s.clock))) ∧
    (∃ s : State, s.up = true) ∧
    (∃ (s : State) (value : Word), s.up = true ∧ F.TB_CTL_SRC.of value = s.get F.TB_CTL_SRC) ∧
    (∃ (s : State) (value : Word), s.up = true ∧ F.TB_CTL_SRC.of value ≠ s.get F.TB_CTL_SRC) ∧
    (∃ s : State, s.up = true ∧ s.get F.TB_CTL_SRC = 0) ∧
    (∃ s : State, s.up = true ∧ s.get F.TB_CTL_SRC ≠ 0) ∧
    (∃ s : State, s.up = true) ∧
    (∃ s : State, s.up = true ∧ s.get F.TB_CTL_SRC = 2 ∧ ↑s.glPeriod < 2 * (s.nowWide - s.tb.glNext)) ∧
    (∃ (s : State) (value : Word) (start : Int), s.up = true ∧ start = s.wide (ns48 (BitVec.toNat value) 0) ∧
        s.get F.TB_CTL_SRC ≠ 2) ∧
    (∃ (s : State) (value : Word) (start : Int), s.up = true ∧ start = s.wide (ns48 (BitVec.toNat value) 0) ∧
      s.get F.TB_CTL_SRC = 2 ∧ s.nowWide ≤ start) ∧
    (∃ (s : State) (value : Word) (start : Int), s.up = true ∧ start = s.wide (ns48 (BitVec.toNat value) 0) ∧
      s.get F.TB_CTL_SRC = 2 ∧ start < s.nowWide ∧ s.glPeriod ≠ 0) :=
  ⟨⟨(sTb 3 1 0), 1000, 65536000, (tbP 1000), by decide +kernel⟩,
   ⟨(sTb 3 1 0), 1001, 65601536, (tbP 1001), by decide +kernel⟩,
   ⟨(sTb 3 3 0), 1000, 65536000, (tbP 1000), by decide +kernel⟩,
   ⟨(sTb 3 0 0), 1001, 65601536, (tbP 1001), by decide +kernel⟩,
   ⟨({ sTb 3 1 0 with clock := 100000000000000 }), by decide +kernel⟩,
   ⟨run0, by decide +kernel⟩,
   ⟨(sTb 3 1 0), (BitVec.ofNat 32 3), by decide +kernel⟩,
   ⟨(sTb 3 1 0), (BitVec.ofNat 32 2), by decide +kernel⟩,
   ⟨(sTb 0 1 0), by decide +kernel⟩,
   ⟨(sTb 3 1 0), by decide +kernel⟩,
   ⟨(sTb 3 1 0), by decide +kernel⟩,
   ⟨sMiss, by decide +kernel⟩,
   ⟨run0, (BitVec.ofNat 32 5), 327680, by decide +kernel⟩,
   ⟨(sTb 2 1 0), (BitVec.ofNat 32 5), 327680, by decide +kernel⟩,
   ⟨sMiss, (BitVec.ofNat 32 5), 327680, by decide +kernel⟩⟩

/-- States and operands that meet the hypotheses of CapturesAndPulsesFollowTheGrid, clause by clause. -/
theorem witness_CapturesAndPulsesFollowTheGrid :
    (∃ s : State, s.up = true) ∧
    (∃ (s : State) (k : Fin 4) (rising : Bool) (sixteenth : BitVec 4) (c : BitVec 48), s.up = true ∧
      (s.get (F.TB_IN_CFG_EDGE k.val) = 3 ∨ s.get (F.TB_IN_CFG_EDGE k.val) = if rising = true then 1 else 2) ∧
      (c = if s.bit F.TB_STATE_BACKUP = true then s.now48 else s.tb.ns ++ (sixteenth ++ 0#12))) ∧
    (∃ s : State, s.get F.TB_STATE_STATE ≠ 0 ∧ s.bit F.TB_CTL_FORCE = false) ∧
    (∃ s : State, s.up = true) ∧
    (∃ (s : State) (k : Fin 4), s.up = true ∧ s.tb.outs[k].armed = true ∧ (s.tb.outs[k].next + 2048) / 4096 * 4096 ≤ s.nowWide) ∧
    (∃ (s : State) (k : Fin 4), s.up = true ∧ s.tb.outs[k].high = true ∧
      s.tb.outs[k].since + ↑(s.get (F.TB_OUT_WIDTH_NS k.val)) * 65536 ≤ s.nowWide) ∧
    (∃ (s : State) (k : Fin 4) (start : Int), s.up = true ∧
      start = s.wide (ns48 (s.get (F.TB_OUT_START_NS k.val)) 0) + s.getS (F.TB_OUT_STEP_STEP k.val) * 4096) ∧
    (∃ (s : State) (k : Fin 4), s.up = true ∧ s.bit (F.TB_OUT_CFG_EN k.val) = true) ∧
    (∃ (s : State) (k : Fin 4), s.up = true ∧ s.bit (F.TB_OUT_CFG_EN k.val) = false) :=
  ⟨⟨run0, by decide +kernel⟩,
   ⟨(sCapT 0 3 0), 3, true, 15, (0#32 ++ (15#4 ++ 0#12)), by decide +kernel⟩,
   ⟨(sTb 3 1 0), by decide +kernel⟩,
   ⟨run0, by decide +kernel⟩,
   ⟨sPulse, 3, by decide +kernel⟩,
   ⟨sPulseEnd, 3, by decide +kernel⟩,
   ⟨run0, 3, 0, by decide +kernel⟩,
   ⟨sPulse, 3, by decide +kernel⟩,
   ⟨run0, 3, by decide +kernel⟩⟩

/-- States and operands that meet the hypotheses of EthernetRingsAndStamps, clause by clause. -/
theorem witness_EthernetRingsAndStamps :
    (∃ (s : State) (p : Fin 2) (f : List Byte) (n dev d room : Nat), s.up = true ∧ s.bit (F.ETH_CFG_EN p.val) = true ∧
      s.bit (F.ETH_STATUS_LINK p.val) = true ∧ n = s.get (F.ETH_RXR_SIZE_N p.val) ∧ 2 ≤ n ∧ n ≤ 256 ∧ s.ethForUs p f = true ∧
      dev = s.get (F.ETH_RXR_PTR_DEV p.val) ∧ d = s.get (F.ETH_RXR_BASE_BASE p.val) * 64 + 16 * dev ∧
      room = BitVec.toNat (s.word (d + 4)) % 16384 ∧ (dev + 1) % n = s.get (F.ETH_RXR_PTR_SW p.val)) ∧
    (∃ (s : State) (p : Fin 2) (f : List Byte) (n dev d room : Nat), s.up = true ∧ s.bit (F.ETH_CFG_EN p.val) = true ∧
      s.bit (F.ETH_STATUS_LINK p.val) = true ∧ n = s.get (F.ETH_RXR_SIZE_N p.val) ∧ 2 ≤ n ∧ n ≤ 256 ∧ s.ethForUs p f = true ∧
      dev = s.get (F.ETH_RXR_PTR_DEV p.val) ∧ d = s.get (F.ETH_RXR_BASE_BASE p.val) * 64 + 16 * dev ∧
      room = BitVec.toNat (s.word (d + 4)) % 16384 ∧ (dev + 1) % n ≠ s.get (F.ETH_RXR_PTR_SW p.val) ∧ ptpEvent f = false) ∧
    (∃ (s : State) (p : Fin 2) (f : List Byte) (ns : Word) (frac : BitVec 16) (n dev d room : Nat) (st : BitVec 48), s.up = true ∧
      s.bit (F.ETH_CFG_EN p.val) = true ∧ s.bit (F.ETH_STATUS_LINK p.val) = true ∧ n = s.get (F.ETH_RXR_SIZE_N p.val) ∧ 2 ≤ n ∧
      n ≤ 256 ∧ s.ethForUs p f = true ∧ dev = s.get (F.ETH_RXR_PTR_DEV p.val) ∧
      d = s.get (F.ETH_RXR_BASE_BASE p.val) * 64 + 16 * dev ∧ room = BitVec.toNat (s.word (d + 4)) % 16384 ∧
      (dev + 1) % n ≠ s.get (F.ETH_RXR_PTR_SW p.val) ∧ ptpEvent f = true ∧
      st = ns ++ frac + BitVec.ofInt 48 (s.getS (F.ETH_RX_LAT_LAT p.val) - s.phyDelay (4 + p.val))) ∧
    (∃ (s : State) (p : Fin 2) (ns : Word) (frac : BitVec 16) (n dev d : Nat) (w : Word) (f : List Byte) (st : BitVec 48),
        s.up = true ∧
      s.bit (F.ETH_CFG_EN p.val) = true ∧ s.bit (F.ETH_STATUS_LINK p.val) = true ∧ n = s.get (F.ETH_TXR_SIZE_N p.val) ∧ 2 ≤ n ∧
      n ≤ 256 ∧ dev = s.get (F.ETH_TXR_PTR_DEV p.val) ∧ dev ≠ s.get (F.ETH_TXR_PTR_SW p.val) ∧
      d = s.get (F.ETH_TXR_BASE_BASE p.val) * 64 + 16 * dev ∧ w = s.word (d + 4) ∧
      f = s.mem.readBytes (BitVec.toNat (s.word d)) (BitVec.toNat w % 16384) ∧
      st = ns ++ frac + BitVec.ofInt 48 (s.getS (F.ETH_TX_LAT_LAT p.val) + s.phyDelay (4 + p.val)) ∧ BitVec.getLsbD w 17 = false ∧
      BitVec.getLsbD w 16 = false) ∧
    (∃ (s : State) (p : Fin 2) (ns : Word) (frac : BitVec 16) (n dev d : Nat) (w : Word) (f : List Byte) (st : BitVec 48),
        s.up = true ∧
      s.bit (F.ETH_CFG_EN p.val) = true ∧ s.bit (F.ETH_STATUS_LINK p.val) = true ∧ n = s.get (F.ETH_TXR_SIZE_N p.val) ∧ 2 ≤ n ∧
      n ≤ 256 ∧ dev = s.get (F.ETH_TXR_PTR_DEV p.val) ∧ dev ≠ s.get (F.ETH_TXR_PTR_SW p.val) ∧
      d = s.get (F.ETH_TXR_BASE_BASE p.val) * 64 + 16 * dev ∧ w = s.word (d + 4) ∧
      f = s.mem.readBytes (BitVec.toNat (s.word d)) (BitVec.toNat w % 16384) ∧
      st = ns ++ frac + BitVec.ofInt 48 (s.getS (F.ETH_TX_LAT_LAT p.val) + s.phyDelay (4 + p.val))) ∧
    (∃ s : State, s.up = true) ∧
    (∃ s : State, s.up = true) ∧
    (∃ (s : State) (p : Fin 2) (up : Bool), s.up = true ∧ s.bit (F.ETH_CFG_EN p.val) = true ∧
        s.bit (F.ETH_STATUS_LINK p.val) ≠ up) :=
  ⟨⟨(sEth 1 0 0), 1, plainFrame, 2, 0, 0x06A00000, 64, by decide +kernel⟩,
   ⟨(sEth 0 0 0), 1, plainFrame, 2, 0, 0x06A00000, 64, by decide +kernel⟩,
   ⟨(sEth 0 0 0), 1, syncFrame, 5, 6, 2, 0, 0x06A00000, 64, (5#32 ++ 6#16), by decide +kernel⟩,
   ⟨(sEth 0 1 64), 1, 5, 6, 256, 0, 0x06A04000, 64, (List.replicate 64 0), (5#32++6#16), by decide +kernel⟩,
   ⟨(sEth 0 1 0x20040), 1, 5, 6, 256, 0, 0x06A04000, 0x20040, (List.replicate 64 0), (5#32++6#16), by decide +kernel⟩,
   ⟨run0, by decide +kernel⟩,
   ⟨run0, by decide +kernel⟩,
   ⟨(sEth 0 0 0), 1, false, by decide +kernel⟩⟩

/-- A field put into the active copy of its register. -/
def putAct (s : State) (f : Field) (v : Nat) : State := s.setAct f.addr (f.into v (s.actReg f.addr))
/-- Port 3 negotiates with lanes 6 and 7; `caps` have reported, the rate is switched or not. -/
def sPan (caps : Option (BitVec 13)) (switched locked : Bool) (mask : Nat) : State :=
  let s := ((run0.put (F.PANEL_CFG_EN 3) 1).put (F.PANEL_CFG_LANE_EN 3) mask).put (F.PANEL_STATUS_STATE 3) 1
  let s := (s.onPanelLane 3 6 fun l => { l with cap := caps, locked := locked }).onPanel 3 fun q => { q with switched := switched }
  (s.put (F.PANEL_STATUS_RATE 3) 2).put (F.PANEL_STATUS_VER 3) 1
/-- The same with lane 7 reported as well. -/
def sPan2 (caps : Option (BitVec 13)) : State := (sPan caps false false 0xC0).onPanelLane 3 7 fun l => { l with cap := some 0x13F }
/-- Lanes 6 and 7 of port 3 are up; lane 7 may be without lock with a missed LATCH of band 63. -/
def sPanUp (lanes : Nat) (lost : Bool) : State :=
  let s := (run0.put (F.PANEL_STATUS_STATE 3) (if lost then 3 else 2)).put (F.PANEL_STATUS_LANES_UP 3) lanes
  let s := ((s.put (F.PANEL_CFG_LANE_EN 3) 0xC0).put (F.PANEL_STATUS_BK_UP 3) 1).put (F.PANEL_STATUS_VER 3) 1
  s.onPanelLane 3 7 fun l => { l with down := lost, missed := if lost then [(63, true)] else [] }
/-- A frame runs, lane 7 of port 3 takes one column, band 0 one row, and its line of slot 0 is synthesised. -/
def sBandLine : State :=
  let s := putAct (putAct (putAct (sPanUp 0xC0 false) (F.TRL_BAND_ROWS 0) 1) (F.PANEL_LANE_MAP_NCOL_M1 3 7) 0) (F.PANEL_LANE_MAP_COL0 3 7) 639
  { s with
    frm := { s.frm with hold := false, run := some ⟨0, 64, 128000, 0x3F, 5, false, false, false, ⟨some (false, 9), none, false⟩, 7, 0⟩ }
    dist := { s.dist with work := [⟨0, 0, 7, s.bandBundles 0, [], s.bandBundles 0⟩] } }
/-- Band 63 at 5,000 with its shifts, its SCAN and its scan pulses due. -/
def sBand (final : Bool) (blank : Bool) (mode : Mode) : State :=
  let s := { runAt 5000 with mode := mode }
  let s := s.onBand 63 fun d => { d with
    final := final, lit := true, dark := false, darkAt := some 5000, lightAt := some 4990, scanAt := some 4980, rows := 2, row := 1, rowAt := 5000 }
  { s with trl := { s.trl with blanked := if blank then 1#64 <<< 63 else 0 } }
/-- HOLD is in force, its first tick is due. -/
def sTick : State := let s := runAt 19984005; { s with frm := { s.frm with hold := true, tickBase := some 5 } }
/-- Output (63, 5) compensates, its next waveform in less than 0.5 µs; in the Cellar too. -/
def sComp5 (mode : Mode) : State :=
  let s := { runAt 500 with mode := mode }
  let s := s.onTrlOut (outIx 63 5) fun o => { o with level := .comp 40, rest := .zero, inComp := true }
  { s with
    frm := { s.frm with holdBands := 1#64 <<< 63, holdAt := BitVec.ofNat 32 (1000 + 4294967296 - 63 * (s.slotPeriod / 64)) }
    trl := { s.trl with word := s.trl.word.set 63 0x3F } }
/-- Port 3 in command mode, with a push of 2 by 1 pixels from the register of the program. -/
def sPush (w src at_ : Nat) : State :=
  let s := (((((run0.put (F.PANEL_CFG_CMD 3) 1).put (F.PANEL_STATUS_STATE 3) 2).put (F.PANEL_STATUS_VER 3) 1).put
    (F.PANEL_STATUS_LANES_UP 3) 0x80).put F.PANEL_CMD_SIZE_W w).put F.PANEL_CMD_SIZE_H 1
  (((s.put F.PANEL_CMD_PITCH_PITCH 64).put F.PANEL_CMD_SRC_ADDR src).put F.PANEL_CMD_CTL_AT_LAUNCH at_).store 0x06A00000 [1, 2, 3, 4, 5, 6, 7, 8]
/-- A push went out 10 µs ago. -/
def sAck : State :=
  let s := { sPush 2 0x6A000 0 with tb := { run0.tb with ns := 10000 } }
  { s.put F.PANEL_CMD_CTL_BUSY 1 with panel := { s.panel with push := some ⟨0x06A00000, 64, 0, 0, 2, 1, [], false, some 0⟩ } }
/-- A back-channel message with its CRC-16 (R263). -/
def msgOf (ty src : Byte) (payload : List Byte) : List Byte :=
  ty :: src :: payload ++ bytesOfNat 2 (crc16 (ty :: src :: payload)).toNat
/-- PLL_PNL has lock. -/
def pnl (s : State) : State := s.put (F.PLL_CTL_LOCK 1) 1
/-- Port 3 has resolved version 1 and rate 2, its countdown is over. -/
def sResolved : State := (sPan2 (some 0x13F)).onPanel 3 fun q => { q with resolved := some (1, 2), left := 0 }
/-- It has switched, and lane 6 has lock. -/
def sSwitched : State := pnl ((sPan2 (some 0x13F)).onPanel 3 fun q =>
  { q with switched := true, resolved := some (1, 2), lanes := q.lanes.set 6 { q.lanes[6] with locked := true } })
/-- The light shift only is due; and the SCAN with RESCAN. -/
def sBandL (blank : Bool) : State := (sBand false blank .run).onBand 63 fun d => { d with darkAt := none }
def sRescan : State := (sBand false true .run).onBand 63 fun d => { d with scanAt := none, rescanAt := some 4980 }
/-- Comparator 0 is armed for the next frame, and band 63's dark shift before its slot 0 is due. -/
def sDark0 : State :=
  let s := putAct (((runAt 5000).armed 0 6200)) (F.TRL_BAND_ROWS 0) 1
  { s with frm := { s.frm with hold := false } }
/-- The gate-on-array outputs have their supplies, or not. -/
def sGoa (on : Bool) : State := { run0 with trl := { run0.trl with goa := { run0.trl.goa with on := on } } }

/-- States and operands that meet the hypotheses of PanelPortsTrainAndPush, clause by clause. -/
theorem witness_PanelPortsTrainAndPush :
    (∃ (ty : Byte) (payload : List Byte), backLength (BitVec.toNat ty) = some payload.length) ∧
    (∃ (s : State) (p : Fin 4) (msg : List Byte) (c : Instr), s.up = true ∧ backMessage msg = none ∧
      (c = Instr.panelCapRx p msg ∨ c = Instr.panelLockRx p msg ∨ c = Instr.panelCrcErrRx p msg)) ∧
    (∃ (s : State) (p : Fin 4) (l : Fin 8) (msg : List Byte) (m : BackMessage) (cap : BitVec 13), s.up = true ∧
      backMessage msg = some m ∧ m.ty = 1 ∧ m.src = l.val ∧ cap = BitVec.ofNat 13 m.value ∧ s.get (F.PANEL_STATUS_STATE p.val) = 1 ∧
      s.panel.ports[p].resolved = none ∧ (s.get (F.PANEL_CFG_LANE_EN p.val)).testBit l.val = true) ∧
    (∃ (s : State) (p : Fin 4) (v r : Nat), s.panelResolve p = some (v, r)) ∧
    (∃ (s : State) (p : Fin 4) (v r : Nat), s.up = true ∧ s.get (F.PANEL_STATUS_STATE p.val) = 1 ∧
      s.panel.ports[p].switched = false ∧ s.panel.ports[p].resolved = some (v, r) ∧ s.panel.ports[p].left = 0 ∧
      s.panel.ports[p].nextAt ≤ s.clock * 1000) ∧
    (∃ (s : State) (p : Fin 4), s.up = true ∧ s.get (F.PANEL_STATUS_STATE p.val) = 1 ∧ s.panel.ports[p].switched = false ∧
      s.panel.ports[p].resolved = none ∧ s.allReported p = true ∧ s.panelResolve p = none) ∧
    (∃ (s : State) (p : Fin 4), s.up = true ∧ s.get (F.PANEL_STATUS_STATE p.val) = 1) ∧
    (∃ (s : State) (p : Fin 4) (l : Fin 8), s.up = true ∧ s.get (F.PANEL_STATUS_STATE p.val) = 1 ∧
      (s.get (F.PANEL_CFG_LANE_EN p.val)).testBit l.val = true ∧ (s.panelLane p l).cap = none) ∧
    (∃ (s : State) (p : Fin 4) (l : Fin 8) (msg : List Byte) (m : BackMessage), s.up = true ∧ backMessage msg = some m ∧ m.ty = 2 ∧
      m.src = l.val ∧ s.get (F.PANEL_STATUS_STATE p.val) = 1 ∧ s.panel.ports[p].switched = true ∧ s.takesPart p l = true ∧
      s.bit (F.PLL_CTL_LOCK 1) = true ∧ m.value % 2 = 1 ∧ m.value / 2 % 4 = s.get (F.PANEL_STATUS_RATE p.val) ∧
      m.value / 8 % 2 = s.get (F.PANEL_STATUS_VER p.val) ∧
      (∀ (k : Fin 8), k ≠ l → s.takesPart p k = true → (s.panelLane p k).locked = true) ∧ (∀ (k : Fin 8), s.tooWide p k = false)) ∧
    (∃ (s : State) (p : Fin 4) (l : Fin 8) (c : Instr), (c = Instr.panelLaneLockLoss p l ∧
        (s.panelLane p l).lockAt + 1500 ≤ s.clock ∨ ∃ (msg : List Byte), ∃ (m : BackMessage), c = Instr.panelLockRx p msg ∧
        backMessage msg = some m ∧ m.ty = 2 ∧ m.src = l.val ∧ m.value % 2 = 0) ∧
      s.up = true ∧ s.bit (F.PANEL_STATUS_BK_UP p.val) = true ∧ 2 ≤ s.get (F.PANEL_STATUS_STATE p.val) ∧
      (s.get (F.PANEL_STATUS_LANES_UP p.val)).testBit l.val = true) ∧
    (∃ (s : State) (p : Fin 4) (l : Fin 8), s.up = true ∧ 2 ≤ s.get (F.PANEL_STATUS_STATE p.val) ∧ (s.panelLane p l).down = true ∧
      (s.panelLane p l).locked = false ∧ s.bit (F.PLL_CTL_LOCK 1) = true ∧ s.bit F.TMON_SD_CAUSE_VALID = false) ∧
    (∃ (s : State) (p : Fin 4) (msg : List Byte) (m : BackMessage), s.up = true ∧ backMessage msg = some m ∧ m.ty = 3 ∧ m.src < 8 ∧
      2 ≤ s.get (F.PANEL_STATUS_STATE p.val) ∧ s.bit (F.PANEL_STATUS_VER p.val) = true) ∧
    (∃ (s : State) (p : Fin 4), s.up = true ∧ s.bit (F.PANEL_STATUS_BK_UP p.val) = true ∧
        s.panel.ports[p].heardAt + 2000 ≤ s.clock) ∧
    (∃ (s : State) (p : Fin 4), s.up = true ∧ s.get (F.PANEL_STATUS_STATE p.val) ≠ 0) ∧
    (∃ (s : State) (p : Fin 4), s.up = true ∧ s.bit (F.PANEL_CFG_EN p.val) = true) ∧
    (∃ s : State, s.up = true) ∧
    (∃ s : State, s.up = true ∧ s.bit F.PANEL_CMD_CTL_BUSY = false ∧ s.bit (F.PANEL_CFG_CMD 3) = true ∧
      s.bit (F.PANEL_STATUS_VER 3) = true ∧ 2 ≤ s.get (F.PANEL_STATUS_STATE 3) ∧ s.pushBad = true) ∧
    (∃ (s : State) (ecc : List EccHit) (k : CmdPush) (u : State), u = { (s.put F.PANEL_CMD_CTL_BUSY 1) with panel :=
        { s.panel with push := some k } } ∧
      s.up = true ∧ s.bit F.PANEL_CMD_CTL_BUSY = false ∧ s.bit (F.PANEL_CFG_CMD 3) = true ∧ s.bit (F.PANEL_STATUS_VER 3) = true ∧
      2 ≤ s.get (F.PANEL_STATUS_STATE 3) ∧ s.pushBad = false ∧
      k =
        { src := s.get F.PANEL_CMD_SRC_ADDR * 256, pitch := s.get F.PANEL_CMD_PITCH_PITCH, x := s.get F.PANEL_CMD_RECT_X, y := s.get F.PANEL_CMD_RECT_Y, w := s.get F.PANEL_CMD_SIZE_W, h := s.get F.PANEL_CMD_SIZE_H, ecc := ecc, held := s.bit F.PANEL_CMD_CTL_AT_LAUNCH, sent := none } ∧
      s.bit F.PANEL_CMD_CTL_AT_LAUNCH = true) ∧
    (∃ (s : State) (ecc : List EccHit) (k : CmdPush) (u : State), u = { (s.put F.PANEL_CMD_CTL_BUSY 1) with panel :=
        { s.panel with push := some k } } ∧
      s.up = true ∧ s.bit F.PANEL_CMD_CTL_BUSY = false ∧ s.bit (F.PANEL_CFG_CMD 3) = true ∧ s.bit (F.PANEL_STATUS_VER 3) = true ∧
      2 ≤ s.get (F.PANEL_STATUS_STATE 3) ∧ s.pushBad = false ∧
      k =
        { src := s.get F.PANEL_CMD_SRC_ADDR * 256, pitch := s.get F.PANEL_CMD_PITCH_PITCH, x := s.get F.PANEL_CMD_RECT_X, y := s.get F.PANEL_CMD_RECT_Y, w := s.get F.PANEL_CMD_SIZE_W, h := s.get F.PANEL_CMD_SIZE_H, ecc := ecc, held := s.bit F.PANEL_CMD_CTL_AT_LAUNCH, sent := none } ∧
      s.bit F.PANEL_CMD_CTL_AT_LAUNCH = false ∧ (k.src < 549755813888 ∨ u.dramGrants DramSource.panelCmd = true) ∧
      s.bit F.TMON_SD_CAUSE_VALID = false) ∧
    (∃ (s : State) (x : Word) (msg : List Byte) (m : BackMessage), s.up = true ∧ s.pushSent = some x ∧ backMessage msg = some m ∧
      m.src = 15 ∧ m.ty = 4) ∧
    (∃ (s : State) (x : Word) (msg : List Byte) (m : BackMessage), s.up = true ∧ s.pushSent = some x ∧ backMessage msg = some m ∧
      m.src = 15 ∧ m.ty = 5) ∧
    (∃ (s : State) (x : Word), s.up = true ∧ s.pushSent = some x ∧ 10000 ≤ s.since x) :=
  ⟨⟨1, ([0x3F, 0x01]), by decide +kernel⟩,
   ⟨(sPan none false false 0xC0), 3, ([1, 7, 0]), (.panelCapRx 3 [1, 7, 0]), by decide +kernel⟩,
   ⟨(sPan none false false 0xC0), 3, 7, (msgOf 1 7 [0xFF, 0x1F]), ⟨1, 7, [0xFF, 0x1F]⟩, 0x1FFF, by decide +kernel⟩,
   ⟨(sPan (some 0x7D) false false 0x40), 3, 0, 1, by decide +kernel⟩,
   ⟨sResolved, 3, 1, 2, by decide +kernel⟩,
   ⟨(sPan (some 0x70) false false 0x40), 3, by decide +kernel⟩,
   ⟨(sPan none false false 0xC0), 3, by decide +kernel⟩,
   ⟨(sPan none false false 0xC0), 3, 7, by decide +kernel⟩,
   ⟨sSwitched, 3, 7, (msgOf 2 7 [0xD]), ⟨2, 7, [0xD]⟩, by decide +kernel⟩,
   ⟨({ sPanUp 0xC0 false with clock := 1500 }), 3, 7, (.panelLaneLockLoss 3 7), .inl ⟨rfl, by decide +kernel⟩, by decide +kernel⟩,
   ⟨(pnl (sPanUp 0x40 true)), 3, 7, by decide +kernel⟩,
   ⟨(sPanUp 0x40 true), 3, (msgOf 3 7 [1, 2, 3]), ⟨3, 7, [1, 2, 3]⟩, by decide +kernel⟩,
   ⟨({ sPanUp 0x40 true with clock := 2000 }), 3, by decide +kernel⟩,
   ⟨(sPanUp 0x40 true), 3, by decide +kernel⟩,
   ⟨(sPan none false false 0xC0), 3, by decide +kernel⟩,
   ⟨run0, by decide +kernel⟩,
   ⟨(sPush 0 0x6A000 0), by decide +kernel⟩,
   ⟨(sPush 2 0x6A000 1), ([]), ⟨0x06A00000, 64, 0, 0, 2, 1, [], true, none⟩, _, rfl, by decide +kernel⟩,
   ⟨(sPush 2 0x6A000 0), ([]), ⟨0x06A00000, 64, 0, 0, 2, 1, [], false, none⟩, _, rfl, by decide +kernel⟩,
   ⟨sAck, 0, (msgOf 4 15 []), ⟨4, 15, []⟩, by decide +kernel⟩,
   ⟨sAck, 0, (msgOf 5 15 [9]), ⟨5, 15, [9]⟩, by decide +kernel⟩,
   ⟨sAck, 0, by decide +kernel⟩⟩

/-- States and operands that meet the hypotheses of BandLinesAndShiftsComeInTime, clause by clause. -/
theorem witness_BandLinesAndShiftsComeInTime :
    (∃ (s : State) (p : Fin 4) (l : Fin 8), s.up = true ∧ s.bit (F.PLL_CTL_LOCK 1) = true ∧ s.laneUsed p l = true ∧
      (s.panelLane p l).down = false ∧ (s.panelLane p l).wait = [] ∧
      (s.laneCols p l = 0 ∨ s.frm.hold = true ∧ s.frm.holdClear = none ∨ (s.panelLane p l).line = none ∧ s.nextLine p l = none)) ∧
    (∃ (s : State) (p : Fin 4) (l : Fin 8) (r b k slot fseq : Nat) (blocks : List (Bool × BitVec 64)), s.up = true ∧
      s.bit (F.PLL_CTL_LOCK 1) = true ∧ s.laneUsed p l = true ∧ (s.panelLane p l).down = false ∧ (s.panelLane p l).wait = [] ∧
      s.laneCols p l ≠ 0 ∧ (s.frm.hold = false ∨ s.frm.holdClear ≠ none) ∧ s.bit F.TMON_SD_CAUSE_VALID = false ∧
      ((s.panelLane p l).line = some (r, b, k) ∨ (s.panelLane p l).line = none ∧ s.nextLine p l = some (r, b) ∧ k = 0) ∧
      s.slotName r = (slot, fseq) ∧ blocks = s.lineBlocks p l r b slot fseq) ∧
    (∃ (s : State) (b : Fin 64) (x : Word) (c : Instr) (d : BandDrive), s.up = true ∧ s.reached x = true ∧ d = s.trl.bands[b] ∧
      ((d.darkAt = some x ∧ c = if d.final = true then Instr.finalDarkPass b else Instr.darkShift b) ∨ d.darkAt = none ∧
        s.firstDark b = some x ∧ d.dark0 ≠ some x ∧ s.bandRows b.val ≠ 0 ∧ c = Instr.darkShift b)) ∧
    (∃ (s : State) (b : Fin 64) (x : Word), s.up = true ∧ s.trl.bands[b].lightAt = some x ∧ s.reached x = true ∧
      s.trl.blanked.getLsbD b.val = false) ∧
    (∃ (s : State) (b : Fin 64) (x : Word), s.up = true ∧ s.trl.bands[b].lightAt = some x ∧ s.reached x = true ∧
      s.trl.blanked.getLsbD b.val = true) ∧
    (∃ (s : State) (b : Fin 64) (x : Word), s.up = true ∧ s.reached x = true ∧ s.trl.bands[b].scanAt = some x) ∧
    (∃ (s : State) (b : Fin 64) (x : Word), s.up = true ∧ s.reached x = true ∧ s.trl.bands[b].scanAt = none ∧
      s.trl.bands[b].rescanAt = some x) ∧
    (∃ (s : State) (b : Fin 64), s.up = true ∧ s.trl.bands[b].rows ≠ 0 ∧ s.reached s.trl.bands[b].rowAt = true) ∧
    (∃ (s : State) (g : GoaReg), g = s.trl.goa.scan ∧ s.trl.goa.on = true) ∧
    (∃ (s : State) (g : GoaReg), g = s.trl.goa.scan ∧ s.trl.goa.on = false) ∧
    (∃ s : State, s.up = true) ∧
    (∃ (s : State) (base x : Word), s.up = true ∧ s.frm.hold = true ∧ s.frm.tickBase = some base ∧
      x = base + BitVec.ofNat 32 (s.actGet F.SEQ_FRM_MAX_FRAME_MAX_NS) ∧ s.reached x = true) ∧
    (∃ (s : State) (b : Fin 64) (l : Fin 6) (x : Word) (slot mask : Nat), s.nextLatch b = some (x, slot, mask) ∧
      s.changing b slot mask = some l) ∧
    (∃ (s : State) (b : Fin 64) (l : Fin 6) (x : Word) (mv : Int), s.alwaysOn = true ∧ x ∈ s.nextStarts b l ∧
      s.reached (x - 500) = true ∧ s.trl.outs[outIx b l].level = TrlLevel.comp mv) :=
  ⟨⟨(pnl (sPanUp 0xC0 false)), 3, 7, by decide +kernel⟩,
   ⟨(pnl sBandLine), 3, 7, 0, 0, 0, 0, 9, (sBandLine.lineBlocks 3 7 0 0 0 9), by decide +kernel⟩,
   ⟨(sBand false false .run), 63, 5000, (.darkShift 63), ((sBand false false .run).trl.bands[63]), by decide +kernel⟩,
   ⟨(sBandL false), 63, 4990, by decide +kernel⟩,
   ⟨(sBandL true), 63, 4990, by decide +kernel⟩,
   ⟨(sBand false true .run), 63, 4980, by decide +kernel⟩,
   ⟨sRescan, 63, 4980, by decide +kernel⟩,
   ⟨(sBand false true .run), 63, by decide +kernel⟩,
   ⟨(sGoa true), (run0.trl.goa.scan), by decide +kernel⟩,
   ⟨(sGoa false), (run0.trl.goa.scan), by decide +kernel⟩,
   ⟨run0, by decide +kernel⟩,
   ⟨sTick, 5, 19984005, by decide +kernel⟩,
   ⟨(sComp5 .run), 63, 5, 1000, 0, 0, by decide +kernel⟩,
   ⟨(sComp5 .run), 63, 5, 1000, 40, by decide +kernel⟩⟩

/-- Output (63, 5) has a phase that ends now and others after it. -/
def sPhase (phases : List (TrlLevel × Nat)) (done open_ : Nat) (mode : Mode) : State :=
  let s := { runAt 700 with mode := mode }
  let s := (s.put (F.HVPS_MEAS_MV 2) 30000).put F.TRL_COMP_VCOMP 0
  s.onTrlOut (outIx 63 5) fun x => { x with level := .vsp, phases := phases, ends := 700, since := 200, done := done, open_ := open_ }
/-- The output of that state. -/
def outP (phases : List (TrlLevel × Nat)) (done open_ : Nat) : TrlOut := (sPhase phases done open_ .run).trl.outs[outIx 63 5]
/-- The output compensates, its ledger at half the limit, or is not driven. -/
def sHalf (driven : Bool) : State := run0.onTrlOut (outIx 63 5) fun x =>
  { x with level := if driven then .comp 40 else .zero, rest := .zero, inComp := true, acc := 100000 * (run0.ledgerLimit / 2 : Nat) }
/-- Output (63, 5) is marked open. -/
def sOpen : State := run0.put (F.TRL_FAULT_OPEN 63) 0x20
/-- The waveform shadows have no enabled band. -/
def sNoBand : State := run0.put (F.TRL_WHDR_EN 0) 0
/-- The rails are up. -/
def sRails : State := run0.put F.HVPS_CTL_STATE 2
/-- A pass of the initialisation at band 63. -/
def sPass (pass due : Nat) (ns : Word) : State :=
  let s := { sRails with tb := { run0.tb with ns := ns } }
  { s with trl := { s.trl with pass := pass, passAt := 0, passDue := BitVec.ofNat 64 (due * 2 ^ 63) } }
/-- The supplies in a state, at a step, with its instant. -/
def sHv (st step : Nat) (ns : Word) (faulted : Bool) (restarts : Nat) : State :=
  (((runAt ns).put F.HVPS_CTL_STATE st).put F.HVPS_CTL_AUTO_RESTART 1).onHv fun h =>
    { h with step := step, start := 0, faulted := faulted, restarts := restarts, settle := if st = 4 then some 0 else none, brown := st == 0 }
/-- The next phase of the output runs; and the same where it starts the second waveform of a pair. -/
def afterP (s : State) : State := s.onTrlOut (outIx 63 5) fun x => { s.upTo x (s.edgeAt x.ends) with
  level := .vsn, phases := [(.vsn, 7), (.zero, 1)], ends := x.ends + BitVec.ofNat 32 700, done := x.done + 1 }
def sPairP : State := (sPhase [(.vsp, 5), (.vsn, 7), (.zero, 1)] 2 0 .run).onTrlOut (outIx 63 5) fun x => { x with second := 3 }

/-- States and operands that meet the hypotheses of TrellisWaveformsAndInit, clause by clause. -/
theorem witness_TrellisWaveformsAndInit :
    (∃ (s : State) (b : Fin 64) (l : Fin 6) (x : TrlOut) (p : TrlLevel × Nat) (lv : TrlLevel) (d : Nat) (more : List (TrlLevel ×
        Nat)) (u : State), (u = s.onTrlOut (outIx b l) fun (x : TrlOut) =>
        { (s.upTo x (s.edgeAt x.ends)) with level := lv, phases := (lv, d) :: more, ends := x.ends + BitVec.ofNat 32 (100 * d), done := x.done + 1 }) ∧
      s.alwaysOn = true ∧ x = s.trl.outs[outIx b l] ∧ s.reached x.ends = true ∧ x.phases = p :: (lv, d) :: more ∧
        x.inPhase1 = false ∧
      (x.second = 0 ∨ x.second ≠ x.done + 1)) ∧
    (∃ (s : State) (b : Fin 64) (l : Fin 6) (x : TrlOut) (p : TrlLevel × Nat) (lv : TrlLevel) (d : Nat) (more : List (TrlLevel ×
        Nat)) (u : State), (u = s.onTrlOut (outIx b l) fun (x : TrlOut) =>
        { (s.upTo x (s.edgeAt x.ends)) with level := lv, phases := (lv, d) :: more, ends := x.ends + BitVec.ofNat 32 (100 * d), done := x.done + 1 }) ∧
      s.alwaysOn = true ∧ x = s.trl.outs[outIx b l] ∧ s.reached x.ends = true ∧ x.phases = p :: (lv, d) :: more ∧
        x.inPhase1 = false ∧
      x.second ≠ 0 ∧ x.second = x.done + 1) ∧
    (∃ (s : State) (b : Fin 64) (l : Fin 6) (x : TrlOut) (lv : TrlLevel) (d : Nat), s.alwaysOn = true ∧ x = s.trl.outs[outIx b l] ∧
      s.reached x.ends = true ∧ x.phases = [(lv, d)] ∧ x.inPhase1 = false) ∧
    (∃ (s : State) (b : Fin 64) (l : Fin 6) (charge : Nat) (x : TrlOut) (lv : TrlLevel) (d : Nat) (more : List (TrlLevel × Nat)),
        s.alwaysOn = true ∧
      x = s.trl.outs[outIx b l] ∧ s.reached x.ends = true ∧ x.phases = (lv, d) :: more ∧ x.inPhase1 = true ∧
      max 1 (s.get F.TRL_FAULT_CTL_FAULT_COUNT) ≤ x.open_ + 1 ∧
      100 * charge < s.get F.TRL_FAULT_CTL_OPEN_PCT * (s.get F.TRL_FAULT_CTL_C_NOM * (s.levelMv lv).natAbs)) ∧
    (∃ (s : State) (b : Fin 64) (l : Fin 6), s.alwaysOn = true ∧ s.trl.outs[outIx b l].inComp = true ∧
      2 * (s.ledger (outIx b l)).natAbs ≤ s.ledgerLimit) ∧
    (∃ s : State, s.up = true) ∧
    (∃ s : State, s.up = true ∧ (s.frm.hold = false ∨ s.noWave = false ∨ s.trl.pass ≠ 0)) ∧
    (∃ s u : State, u = s.put F.TRL_WAVE_CTL_APPLY 1 ∧ s.up = true ∧ s.frm.hold = true ∧ s.noWave = true ∧ s.trl.pass = 0 ∧
      u.waveCause u.reg u.slotPeriod = 0) ∧
    (∃ s u : State, u = s.put F.TRL_WAVE_CTL_APPLY 1 ∧ s.up = true ∧ s.frm.hold = true ∧ s.noWave = true ∧ s.trl.pass = 0 ∧
      u.waveCause u.reg u.slotPeriod ≠ 0) ∧
    (∃ s : State, s.up = true) ∧
    (∃ s : State, s.up = true ∧ s.trl.pass = 0 ∧ s.get F.HVPS_CTL_STATE ≠ 2) ∧
    (∃ s : State, s.up = true ∧ s.trl.pass = 0 ∧ s.get F.HVPS_CTL_STATE = 2) ∧
    (∃ (s : State) (b : Fin 64) (x : Nat), s.up = true ∧ s.trl.pass = x + 1 ∧ s.trl.passDue.getLsbD b.val = true ∧
      s.reached (s.trl.passAt + BitVec.ofNat 32 (4000 * b.val)) = true ∧ s.bandRows b.val ≠ 0 ∧ s.get F.HVPS_CTL_STATE = 2) ∧
    (∃ s : State, s.up = true ∧ s.trl.pass = 2 ∧ s.trl.passDue = 0 ∧ s.reached s.trl.passEnd = true) :=
  ⟨⟨(sPhase [(.vsp, 5), (.vsn, 7), (.zero, 1)] 0 0 .run), 63, 5, (outP [(.vsp, 5), (.vsn, 7), (.zero, 1)] 0 0), (.vsp, 5), .vsn,
        7, [(.zero, 1)], _, rfl, by decide +kernel⟩,
   ⟨sPairP, 63, 5, (sPairP.trl.outs[outIx 63 5]), (.vsp, 5), .vsn, 7, [(.zero, 1)], _, rfl, by decide +kernel⟩,
   ⟨(sPhase [(.vsn, 5)] 2 0 .run), 63, 5, (outP [(.vsn, 5)] 2 0), .vsn, 5, by decide +kernel⟩,
   ⟨(sPhase [(.vsp, 5), (.vsn, 7)] 1 3 .run), 63, 5, 3, (outP [(.vsp, 5), (.vsn, 7)] 1 3), .vsp, 5, [(.vsn, 7)], by decide +kernel⟩,
   ⟨(sHalf true), 63, 5, by decide +kernel⟩,
   ⟨sOpen, by decide +kernel⟩,
   ⟨(sPhase [(.vsn, 5)] 2 0 .run), by decide +kernel⟩,
   ⟨run0, _, rfl, by decide +kernel⟩,
   ⟨sNoBand, _, rfl, by decide +kernel⟩,
   ⟨run0, by decide +kernel⟩,
   ⟨run0, by decide +kernel⟩,
   ⟨sRails, by decide +kernel⟩,
   ⟨(sPass 1 1 252000), 63, 0, by decide +kernel⟩,
   ⟨(sPass 2 0 0x10000000), by decide +kernel⟩⟩

/-- States and operands that meet the hypotheses of SuppliesSequenceTheirRails, clause by clause. -/
theorem witness_SuppliesSequenceTheirRails :
    (∃ s : State, s.up = true ∧ (s.get F.HVPS_CTL_STATE = 0 ∨ s.get F.HVPS_CTL_STATE = 5)) ∧
    (∃ s : State, s.up = true ∧ (s.get F.HVPS_CTL_STATE = 2 ∨ s.get F.HVPS_CTL_STATE = 1 ∧ 3 ≤ s.hv.step)) ∧
    (∃ s : State, s.up = true ∧ s.get F.HVPS_CTL_STATE = 1 ∧ s.hv.step < 3) ∧
    (∃ (s : State) (reached : BitVec 4) (ns : Nat) (rails : List (Fin 4)) (k : Fin 4), s.up = true ∧ s.get F.HVPS_CTL_STATE = 1 ∧
      onTable[s.hv.step]? = some (ns, rails) ∧ s.reached (s.hv.start + BitVec.ofNat 32 ns) = true ∧ k ∈ rails ∧
      reached.getLsbD k.val = false) ∧
    (∃ (s : State) (reached : BitVec 4) (ns : Nat) (rails : List (Fin 4)), s.up = true ∧ s.get F.HVPS_CTL_STATE = 1 ∧
      onTable[s.hv.step]? = some (ns, rails) ∧ s.reached (s.hv.start + BitVec.ofNat 32 ns) = true ∧
      (∀ (k : Fin 4), k ∈ rails → reached.getLsbD ↑k = true) ∧ s.hv.step < 3) ∧
    (∃ (s : State) (ns : Nat) (rails : List (Fin 4)), s.up = true ∧ s.get F.HVPS_CTL_STATE = 1 ∧
      onTable[s.hv.step]? = some (ns, rails) ∧ s.reached (s.hv.start + BitVec.ofNat 32 ns) = true ∧ s.hv.step = 3) ∧
    (∃ s : State, s.up = true ∧ s.get F.HVPS_CTL_STATE = 3 ∧ s.hv.step < 2 ∧
      s.reached (s.hv.start + BitVec.ofNat 32 (1500000 * (s.hv.step + 1))) = true) ∧
    (∃ s : State, s.up = true ∧ s.get F.HVPS_CTL_STATE = 3 ∧ s.hv.step = 2 ∧ s.reached (s.hv.start + 4500000) = true) ∧
    (∃ s : State, s.up = true) ∧
    (∃ (s : State) (x : Word), s.up = true ∧ s.hv.settle = some x ∧ s.get F.HVPS_CTL_STATE = 4 ∧
      (s.reached (x + 2000000) = true ∨ s.settled = true)) ∧
    (∃ s : State, s.up = true ∧ s.hv.brown = true ∧ (s.get F.HVPS_CTL_STATE = 0 ∨ s.get F.HVPS_CTL_STATE = 5) ∧
      s.bit F.HVPS_CTL_AUTO_RESTART = true) ∧
    (∃ s : State, s.up = true) ∧
    (∃ (s : State) (kind : RailFaultKind) (k : Fin 4) (f : Field) (n : Nat), s.up = true ∧
      ((f, n) = match kind with
          | RailFaultKind.uv => (F.HVPS_FAULT_UV, 880)
          | RailFaultKind.ov => (F.HVPS_FAULT_OV, 884)
          | RailFaultKind.oc => (F.HVPS_FAULT_OC, 888)
          | RailFaultKind.noStart => (F.HVPS_FAULT_NOSTART, 892)) ∧
      (s.get F.HVPS_CTL_STATE = 2 ∨ s.get F.HVPS_CTL_STATE = 4 ∨ s.get F.HVPS_CTL_STATE = 1 ∧ (kind = RailFaultKind.noStart ∨
        (min (k.val) 2 + if kind = RailFaultKind.uv then 1 else 0) ≤ s.hv.step))) ∧
    (∃ (s : State) (kind : RailFaultKind) (k : Fin 4) (f : Field) (n : Nat), s.up = true ∧
      ((f, n) = match kind with
          | RailFaultKind.uv => (F.HVPS_FAULT_UV, 880)
          | RailFaultKind.ov => (F.HVPS_FAULT_OV, 884)
          | RailFaultKind.oc => (F.HVPS_FAULT_OC, 888)
          | RailFaultKind.noStart => (F.HVPS_FAULT_NOSTART, 892)) ∧
      s.get F.HVPS_CTL_STATE = 3 ∧ k.val + s.hv.step < 2) ∧
    (∃ s : State, s.up = true ∧ s.get F.HVPS_CTL_STATE = 5 ∧ s.bit F.HVPS_CTL_AUTO_RESTART = true ∧ s.hv.restarts < 3 ∧
      s.reached (s.hv.start + 100000000) = true) ∧
    (∃ s : State, s.up = true ∧ s.get F.HVPS_CTL_STATE ≠ 0 ∧ s.get F.HVPS_CTL_STATE ≠ 5) :=
  ⟨⟨run0, by decide +kernel⟩,
   ⟨(sHv 2 4 0 false 0), by decide +kernel⟩,
   ⟨(sHv 1 2 0 false 0), by decide +kernel⟩,
   ⟨(sHv 1 2 1800000 false 0), 4, 1800000, [2, 3], 3, by decide +kernel⟩,
   ⟨(sHv 1 2 1800000 false 0), 12, 1800000, [2, 3], by decide +kernel⟩,
   ⟨(sHv 1 3 2000000 false 2), 2000000, ([]), by decide +kernel⟩,
   ⟨(sHv 3 1 3000000 false 0), by decide +kernel⟩,
   ⟨(sHv 3 2 4500000 true 3), by decide +kernel⟩,
   ⟨(sHv 2 4 7 false 0), by decide +kernel⟩,
   ⟨(sHv 4 4 2000000 false 0), 0, by decide +kernel⟩,
   ⟨(sHv 0 4 9 false 2), by decide +kernel⟩,
   ⟨(sHv 1 2 9 false 0), by decide +kernel⟩,
   ⟨(sHv 4 2 9 false 0), .oc, 3, F.HVPS_FAULT_OC, 888, by decide +kernel⟩,
   ⟨(sHv 3 0 9 false 0), .ov, 1, F.HVPS_FAULT_OV, 884, by decide +kernel⟩,
   ⟨(sHv 5 2 100000000 true 2), by decide +kernel⟩,
   ⟨(sHv 3 2 100 true 2), by decide +kernel⟩⟩

/-- A descriptor of Racking over 2 by 2 pixels from 0x04900000 to 0x04800000, pitch 64. -/
def rackDesc (w0 : Nat) (src : Bool) (w6 w7 : Nat) : List Word :=
  [BitVec.ofNat 32 w0, 0x04800000, 0x4000, if src then 0x04900000 else 0, if src then 0x4000 else 0, 0x20002, BitVec.ofNat 32 w6, BitVec.ofNat 32 w7]
/-- Ring 3 holds it. -/
def sRack (d : List Word) (old : Nat) : State :=
  let s := (run0.store 0x04900000 [1, 2, 3, 4, 250, 6, 7, 128]).store 0x04800000 [9, 10, 11, 12, 13, 14, 15, 255]
  let s := (s.store 0x04900040 [200, 2, 3, 4, 250, 6, 77, 128]).store 0x04800040 [9, 10, 11, 12, 13, 14, 155, 255]
  (s.put (F.RACK_RING_CFG_LIST_TYPE 3) old).onRing 3 fun x => { x with queue := [(65537, d)] }
/-- Ring 3 of 4 descriptors, the DRAM serves, one descriptor committed. -/
def sRackRing (rp : Nat) : State :=
  let s := ((run0.put (F.RACK_RING_SIZE_N 3) 4).put (F.RACK_RING_CFG_EN 3) 1).put (F.RACK_RING_RPTR_RPTR 3) rp
  dramUp (s.put (F.RACK_RING_WPTR_WPTR 3) 2)
/-- A tag is due. -/
def sDue : State := run0.onRing 3 fun x => { x with due := [77, 78] }
/-- A stamp, with the header at 0x04A00000; the state with its turn taken. -/
def stampD : List Word := rackDesc 0x44 true 0 0x04A00000 |>.set 2 0
def sStamp : State := (sRack stampD 0).store 0x04A00000 (hdrBytes 8 8)
def sStamp' : State := { sStamp with rack := { sStamp.rack with turn := 3 } }
/-- What the stamp answers. -/
def stampR : State := leaves (sStamp'.stamp stampD [])
/-- A turn taken; descriptors with a reserved operation, with a reserved word, and with a source in DRAM that reads with an error. -/
def turn3 (s : State) : State := { s with rack := { s.rack with turn := 3 } }
def badOp : List Word := rackDesc 9 false 0 0
def badFill : List Word := rackDesc 0x10 false 0 4
def farCopy : List Word := (rackDesc 0x20 true 0 0).set 3 0 |>.set 4 0x4080
def sFarCopy : State := (((dramUp (sRack farCopy 1)).put F.DRAMC_CFG_CAP 1).put (F.DRAMC_ECC_BASE_EN 0) 1).put (F.DRAMC_ECC_SIZE_SIZE_MB 0) 1
def hit0 : List EccHit := [⟨0x8000000000, false⟩]
def farU : State := leaves ((turn3 sFarCopy).rackAct .copy farCopy hit0)

/-- States and operands that meet the hypotheses of RackingCarriesOutDescriptors, clause by clause. -/
theorem witness_RackingCarriesOutDescriptors :
    (∃ (s : State) (r : Fin 4) (value : Word), s.up = true ∧ BitVec.toNat value % 65536 < s.get (F.RACK_RING_SIZE_N r.val)) ∧
    (∃ (s : State) (r : Fin 4) (i : Nat), s.up = true ∧ s.bit (F.RACK_RING_CFG_EN r.val) = true ∧
      2 ≤ s.get (F.RACK_RING_SIZE_N r.val) ∧ s.bit (F.RACK_RING_CFG_STOPPED r.val) = false ∧
        i = s.get (F.RACK_RING_RPTR_RPTR r.val) ∧
      i ≠ s.get (F.RACK_RING_WPTR_WPTR r.val) ∧ s.rack.rings[r].queue.length < 16 ∧ s.dramGrants DramSource.racking = true) ∧
    (∃ (s : State) (r : Fin 4) (tag : Nat) (due : List Nat), s.up = true ∧ s.rack.rings[r].due = tag :: due) ∧
    (∃ (s : State) (r : Fin 4) (i : Nat) (d : List Word) (rest : List (Nat × List Word)), s.up = true ∧
      s.rack.rings[r].queue = (i, d) :: rest) ∧
    (∃ s : State, s.up = true) ∧
    (∃ s : State, s.up = true) ∧
    (∃ (s : State) (r : Fin 4) (c : Instr) (op : RackOp) (i : Nat) (d : List Word) (rest : List (Nat × List Word)) (df sf :
        RackFmt) (src : Option Surface) (f : Nat → Nat → Nat), (∀ (y : Surface), src = some y → y.dram = false) ∧
      ((op = RackOp.fill ∧ c = Instr.fill r [] ∧ df = RackFmt.ofOld (dbits d 0 8 2) ∧ dbits d 0 10 2 = 0 ∧ descSrc d = 0 ∧
        dword d 7 = 0 ∧ src = none ∧ f = fun (_ _ : Nat) => dword d 6) ∨ (op = RackOp.copy ∧ c = Instr.copy r [] ∧
        df = RackFmt.ofOld (dbits d 0 8 2) ∧ df = RackFmt.ofOld (dbits d 0 10 2) ∧ src = some (srcSurface d df) ∧
        f = fun (x _ : Nat) => x) ∨ (op = RackOp.convert ∧ c = Instr.convert r [] ∧ df = RackFmt.ofOld (dbits d 0 8 2) ∧
        sf = RackFmt.ofOld (dbits d 0 10 2) ∧ df ≠ RackFmt.d16 ∧ sf ≠ RackFmt.d16 ∧ src = some (srcSurface d sf) ∧
        f = fun (x _ : Nat) => df.write (sf.read x)) ∨ (op = RackOp.blendConst ∧ c = Instr.blendConst r [] ∧
        RackFmt.ofCode (dbits d 0 4 4) = some df ∧ df.colour = true ∧ dbits d 0 8 4 = 0 ∧ descSrc d = 0 ∧ src = none ∧
        f = fun (_ y : Nat) => df.write (blendStraight
        { r := dbits d 6 0 16, g := dbits d 6 16 16, b := dbits d 7 0 16, a := dbits d 7 16 16 } (df.read y) 65535)) ∨
        RackFmt.ofCode (dbits d 0 4 4) = some df ∧ RackFmt.ofCode (dbits d 0 8 4) = some sf ∧ df.colour = true ∧
        sf.colour = true ∧ dbits d 6 16 16 = 0 ∧ dword d 7 = 0 ∧ src = some (srcSurface d sf) ∧ ((op = RackOp.blendPixel ∧
        c = Instr.blendPixel r [] ∧ f = fun (_ y : Nat) => df.write (blendStraight (sf.read x) (df.read y) (dbits d 6 0 16))) ∨
        op = RackOp.blendPremul ∧ c = Instr.blendPremul r [] ∧ f = fun (x y : Nat) => df.write (blendPremult (sf.read x) (df.read
        y) (dbits d 6 0 16)))) ∧
      s.up = true ∧ s.rackTurn = some r ∧ s.rack.rings[r].queue = (i, d) :: rest ∧ s.rackOp r d = some op ∧ dbits d 0 13 3 = 0 ∧
      s.evEnabled (963 + 4 * r.val) = false ∧ onChip (descDst d) (dstSurface d df).span = true ∧
      descDst d + (dstSurface d df).span ≤ 110624768 ∧ s.pairCause (dstSurface d df) src = 0) ∧
    (∃ (s s' : State) (r : Fin 4) (i : Nat) (d : List Word) (rest : List (Nat × List Word)) (full : State),
        s' = { s with rack := { s.rack with turn := r.val } } ∧
      s'.stamp d [] = RackAct.done full ∧ s.up = true ∧ s.rackTurn = some r ∧ s.rack.rings[r].queue = (i, d) :: rest ∧
      s.rackOp r d = some RackOp.viewstamp ∧ dbits d 0 12 1 = 0) ∧
    (∃ (s s' : State) (r : Fin 4) (i : Nat) (d : List Word) (rest : List (Nat × List Word)),
        s' = { s with rack := { s.rack with turn := r.val } } ∧
      s.up = true ∧ s.rackTurn = some r ∧ s.rack.rings[r].queue = (i, d) :: rest ∧ s.rackOp r d = none ∧
      s.bit (F.RACK_RING_CFG_STOP_ON_ERR r.val) = false) ∧
    (∃ (s s' : State) (r : Fin 4) (i : Nat) (d : List Word) (rest : List (Nat × List Word)) (op : RackOp) (ecc : List EccHit)
        (cause : Nat), s' = { s with rack := { s.rack with turn := r.val } } ∧
      s'.rackAct op d ecc = RackAct.reject cause ∧ s.up = true ∧ s.rackTurn = some r ∧ s.rack.rings[r].queue = (i, d) :: rest ∧
      s.rackOp r d = some op) ∧
    (∃ (s s' : State) (r : Fin 4) (i : Nat) (d : List Word) (rest : List (Nat × List Word)) (op : RackOp) (ecc : List EccHit) (u :
        State), s' = { s with rack := { s.rack with turn := r.val } } ∧
      s'.rackAct op d ecc = RackAct.abandon u ∧ s.up = true ∧ s.rackTurn = some r ∧ s.rack.rings[r].queue = (i, d) :: rest ∧
      s.rackOp r d = some op) :=
  ⟨⟨(sRackRing 3), 3, 0x30003, by decide +kernel⟩,
   ⟨(sRackRing 3), 3, 3, by decide +kernel⟩,
   ⟨sDue, 3, 77, [78], by decide +kernel⟩,
   ⟨(sRack (rackDesc 0 false 0 0) 0), 3, 65537, (rackDesc 0 false 0 0), ([]), by decide +kernel⟩,
   ⟨run0, by decide +kernel⟩,
   ⟨run0, by decide +kernel⟩,
   ⟨(sRack (rackDesc 0x10 false 0x12345678 0) 1), 3, (.fill 3 []), .fill, 65537, (rackDesc 0x10 false 0x12345678 0), ([]),
        .rgba8, .rgba8, none, (fun _ _ => 0x12345678), all_option (by decide +kernel), .inl ⟨rfl, rfl, by decide, by decide,
        by decide, by decide, rfl, rfl⟩, by decide +kernel⟩,
   ⟨sStamp, _, 3, 65537, stampD, ([]), stampR, rfl, done_of (by decide +kernel), by decide +kernel⟩,
   ⟨(sRack badOp 0), _, 3, 65537, badOp, ([]), rfl, by decide +kernel⟩,
   ⟨(sRack badFill 1), _, 3, 65537, badFill, ([]), .fill, ([]), 1, rfl, reject_of (by decide +kernel), by decide +kernel⟩,
   ⟨sFarCopy, _, 3, 65537, farCopy, ([]), .copy, hit0, farU, rfl, abandon_of (by decide +kernel), by decide +kernel⟩⟩

/-- The DRAM serves 4 GiB. -/
def sDram : State :=
  ((((runAt 2000000).put F.DRAMC_CTL_READY 1).put F.DRAMC_CTL_EN 1).put F.DRAMC_CFG_CAP 1).put (F.PLL_CTL_LOCK 2) 1 |>.put (F.PLL_CTL_LOCK 3) 1
/-- An ECC region covers its first megabyte. -/
def sEcc : State := (sDram.put (F.DRAMC_ECC_BASE_EN 0) 1).put (F.DRAMC_ECC_SIZE_SIZE_MB 0) 1
/-- The channel of its first address. -/
def ch0 : Fin 8 := Fin.ofNat 8 (sDram.channelOf 0)
/-- Requests of two sources wait: one of class 0, one of class 3 that aged; as many were served before it. -/
def sQueue (promoted : Bool) (served : Nat) : State :=
  sDram.onDram fun d => { d with
    served := d.served.set ch0 served
    queue := [⟨.rawRing, 0, 0x8000000000, .read 4, [], 5, false⟩, ⟨.racking, 3, 0x8000000000, .read 4, [], 0, promoted⟩] }
/-- The same, held by a controller that is off. -/
def sHeldQ : State := (sQueue false 0).put F.DRAMC_CTL_EN 0
/-- INIT runs, with one ECC region of 16 MiB over data. -/
def sInit : State :=
  let s := (List.range 32).foldl (fun (u : State) w => u.setReg (F.EVT_EN_addr w) 0) sDram
  let s := ((s.put F.DRAMC_CTL_EN 0).put F.DRAMC_CTL_INIT 1).put (F.DRAMC_ECC_BASE_EN 7) 1
  { s.put (F.DRAMC_ECC_SIZE_SIZE_MB 7) 16 with mem := s.mem.writeBytes 0x8000000000 [1, 2, 3] }
/-- Refreshes are owed; a row is open. -/
def sOwed (n : Nat) : State := sDram.onDram fun d => { d with owed := d.owed.set 7 n, rows := [(119, 3, 0), (0, 4, 0)] }
/-- Self-refresh is due, begun or in force. -/
def sSleep (asleep entering : Bool) : State :=
  (sDram.put F.DRAMC_SR_IDLE_US 2000).onDram fun d => { d with asleep := asleep, entering := entering }
/-- The dividers of PLL 3's second set are illegal. -/
def sBadDiv : State := sDram.put (F.PLL_DIV_N 3 1) 1
/-- A frequency change runs since 0. -/
def sFreq (ns : Word) : State := let s := sDram.onDram fun d => { d with change := some (0, true) }; { s with tb := { s.tb with ns := ns } }
/-- Domain 2 measures. -/
def sMeas : State := { sDram with cal := sDram.cal.set 2 { sDram.cal[2] with measuring := [0] } }
def sMeasQ : State := sMeas.onDram fun d => { d with queue := [⟨.calReload, 0, 0x8000000000, .read 4, [], 0, false⟩] }
/-- The reference is there, and PLLs 0 and 5 have locked. -/
def sRef : State := ((run0.put F.PLL_REF_STAT_OK 1).put (F.PLL_CTL_LOCK 0) 1).put (F.PLL_CTL_LOCK 5) 1
/-- PLL `n` relocks, for a commit or not. -/
def sRelock (n : Fin 6) (commit : Bool) : State :=
  sRef.onPll n fun p => { p with relock := true, commit := commit }
/-- The pending copy of PLL 4 asks for another VCO frequency; an illegal one. -/
def sPllN (n : Nat) : State := run0.put (F.PLL_DIV_N 4 0) n

/-- States and operands that meet the hypotheses of DramServesByClassAndAge, clause by clause. -/
theorem witness_DramServesByClassAndAge :
    (∃ (s : State) (addr : BitVec 40), s.up = true ∧ 549755813888 ≤ addr.toNat ∧ s.dramServes = false ∧ s.dram.entering = false) ∧
    (∃ (s : State) (addr : BitVec 40), s.up = true ∧ 549755813888 ≤ addr.toNat ∧ s.dramServes = false ∧ s.dram.entering = true) ∧
    (∃ (s : State) (src : DramSource) (addr : BitVec 40) (ecc : List EccHit) (op : DramOp) (ch : Fin 8) (bs : List Byte),
        (∀ (x : Nat), addr.toNat ≤ x → x < addr.toNat + bs.length → s.dramData x = true) ∧
      s.up = true ∧ 549755813888 ≤ addr.toNat ∧ s.dram.queue = [] ∧ s.dram.entering = false ∧
      s.channelOf (addr.toNat - 549755813888) = ch.val ∧ s.chanServes ch = true ∧ (s.mode ≠ Mode.wake 4 ∨ s.srcClass src = 0) ∧
      op = DramOp.write bs ∧ ecc = []) ∧
    (∃ (s : State) (src : DramSource) (addr : BitVec 40) (ecc : List EccHit) (op : DramOp) (ch : Fin 8) (k : Nat), s.up = true ∧
      549755813888 ≤ addr.toNat ∧ s.dram.queue = [] ∧ s.dram.entering = false ∧ s.channelOf (addr.toNat - 549755813888) = ch.val ∧
      s.chanServes ch = true ∧ (s.mode ≠ Mode.wake 4 ∨ s.srcClass src = 0) ∧ op = DramOp.read k ∧ ecc = []) ∧
    (∃ (s : State) (src : DramSource) (addr : BitVec 40) (ecc : List EccHit) (op : DramOp) (ch : Fin 8) (k : Nat) (h : EccHit),
        s.up = true ∧
      549755813888 ≤ addr.toNat ∧ s.dram.queue = [] ∧ s.dram.entering = false ∧ s.channelOf (addr.toNat - 549755813888) = ch.val ∧
      s.chanServes ch = true ∧ (s.mode ≠ Mode.wake 4 ∨ s.srcClass src = 0) ∧ op = DramOp.read k ∧ ecc = [h] ∧
        549755813888 ≤ h.addr ∧
      s.eccCovers h = true ∧ hitMeets h addr.toNat k = true) ∧
    (∃ (s : State) (ch : Fin 8) (q : DramReq), s.nextRequest ch = some q) ∧
    (∃ s : State, s.up = true ∧ s.dramServes = false) ∧
    (∃ s : State, s.up = true) ∧
    (∃ s : State, s.up = true ∧ 1000000 ≤ s.since s.dram.missAt) ∧
    (∃ s : State, s.up = true) :=
  ⟨⟨run0, 0x80FFFFFFFF, by decide +kernel⟩,
   ⟨(run0.onDram fun d => { d with entering := true }), 0x80FFFFFFFF, by decide +kernel⟩,
   ⟨sDram, .rawRing, 0x8000000000, ([]), (.write [1, 2, 3]), ch0, ([1, 2, 3]), forall_within (by decide +kernel),
        by decide +kernel⟩,
   ⟨sDram, .rawRing, 0x8000000000, ([]), (.read 4), ch0, 4, by decide +kernel⟩,
   ⟨sEcc, .rawRing, 0x8000000000, ([⟨0x8000000000, true⟩]), (.read 4), ch0, 4, ⟨0x8000000000, true⟩, by decide +kernel⟩,
   ⟨(sQueue false 0), ch0, ⟨.rawRing, 0, 0x8000000000, .read 4, [], 5, false⟩, by decide +kernel⟩,
   ⟨sHeldQ, by decide +kernel⟩,
   ⟨(sOwed 0), by decide +kernel⟩,
   ⟨(sOwed 0), by decide +kernel⟩,
   ⟨run0, by decide +kernel⟩⟩

/-- States and operands that meet the hypotheses of DramControllerKeepsItsData, clause by clause. -/
theorem witness_DramControllerKeepsItsData :
    (∃ s : State, s.up = true ∧ s.bit F.DRAMC_CTL_EN = false) ∧
    (∃ s : State, s.up = true ∧ s.bit F.DRAMC_CTL_INIT = true) ∧
    (∃ s : State, (∀ (n : Nat), n < 1024 → s.evEnabled n = false) ∧ s.up = true ∧ s.bit F.DRAMC_CTL_INIT = true ∧
        s.dram.queue = []) ∧
    (∃ (s : State) (k : Fin 7) (value : Word) (m : Nat → Word), (m = fun (j : Nat) => if j = k.val then BitVec.ofNat 32
        ((F.DRAMC_HASH_MASK k.val).of value) else s.reg (F.DRAMC_HASH_addr j)) ∧
      s.up = true ∧ s.bit F.DRAMC_CTL_EN = false ∧ masksLegal m = true) ∧
    (∃ (s : State) (k : Fin 7) (value : Word) (m : Nat → Word), (m = fun (j : Nat) => if j = k.val then BitVec.ofNat 32
        ((F.DRAMC_HASH_MASK k.val).of value) else s.reg (F.DRAMC_HASH_addr j)) ∧
      s.up = true ∧ (s.bit F.DRAMC_CTL_EN = true ∨ masksLegal m = false)) ∧
    (∃ (s : State) (ch : Fin 8) (busy : BitVec 16), s.up = true ∧ s.dramRuns = true ∧
      (busy = BitVec.allOnes 16 ∨ s.dramClock (ch.val / 4) = false) ∧ s.dram.owed[ch] < 7) ∧
    (∃ (s : State) (ch : Fin 8) (busy : BitVec 16), s.up = true ∧ s.dramRuns = true ∧
      (busy = BitVec.allOnes 16 ∨ s.dramClock (ch.val / 4) = false) ∧ 7 ≤ s.dram.owed[ch]) ∧
    (∃ (s : State) (ch : Fin 8) (busy : BitVec 16), s.up = true ∧ s.dramRuns = true ∧ busy = 0 ∧ s.dramClock (ch.val / 4) = true ∧
      s.dram.owed[ch] < 16) ∧
    (∃ s : State, s.up = true ∧ s.dramRuns = true) ∧
    (∃ s : State, s.up = true ∧ s.dramReady = true ∧ s.get F.DRAMC_SR_IDLE_US ≠ 0 ∧
      1000 * s.get F.DRAMC_SR_IDLE_US ≤ s.since s.dram.lastReq ∧ s.dram.queue = []) ∧
    (∃ s : State, s.up = true ∧ s.dram.entering = true) ∧
    (∃ (s : State) (bad : List Nat), s.up = true ∧ s.dram.asleep = true ∧
      (s.mode = Mode.run ∨ s.mode = Mode.boot ∨ s.mode = Mode.wake 3) ∧ s.dram.queue = [] ∧ (∀ (k : Nat), k ∈ bad → k < 128)) ∧
    (∃ s : State, s.up = true ∧ s.dram.change.isSome = true) ∧
    (∃ (s : State) (target : Bool), s.up = true ∧ s.dram.change = none ∧ s.bit F.DRAMC_FREQ_CTL_ACTIVE = target) ∧
    (∃ (s : State) (target : Bool), s.up = true ∧ s.dram.change = none ∧ s.bit F.DRAMC_FREQ_CTL_ACTIVE ≠ target ∧
      dividersLegal s.get 2 target.toNat = true ∧ dividersLegal s.get 3 target.toNat = true) ∧
    (∃ (s : State) (target : Bool) (n : Fin 6), s.up = true ∧ s.dram.change = none ∧ s.bit F.DRAMC_FREQ_CTL_ACTIVE ≠ target ∧
      (n = 2 ∨ n = 3) ∧ dividersLegal s.get (n.val) target.toNat = false) ∧
    (∃ (s : State) (target : Bool) (t0 : Word) (bad : List Nat), s.up = true ∧ s.dram.change = some (t0, target) ∧
      13500 ≤ s.since t0 ∧ s.dram.queue = [] ∧ (∀ (k : Nat), k ∈ bad → k < 128) ∧
      (s.bit F.DRAMC_FREQ_CTL_PENDING = false ∨ s.bit F.DRAMC_FREQ_CTL_TARGET = target)) ∧
    (∃ (s : State) (target : Bool) (t0 : Word) (bad : List Nat), s.up = true ∧ s.dram.change = some (t0, target) ∧
      13500 ≤ s.since t0 ∧ s.dram.queue = [] ∧ (∀ (k : Nat), k ∈ bad → k < 128) ∧ s.bit F.DRAMC_FREQ_CTL_PENDING = true ∧
      s.bit F.DRAMC_FREQ_CTL_TARGET ≠ target ∧ dividersLegal s.get 2 (!target).toNat = true ∧
      dividersLegal s.get 3 (!target).toNat = true) ∧
    (∃ (s : State) (ch : Fin 8), (∀ (x : Word), s.dram.stepAt[ch] = some x → 50000 ≤ s.since x) ∧ s.up = true ∧
      s.dramAwake (ch.val / 4) = true ∧ s.cal[2].measuring ≠ [] ∧
      (∀ (q : DramReq), q ∈ s.dram.queue → q.cls = 0 → s.reqChannel q = ch.val → s.since q.issued ≤ 1000)) ∧
    (∃ (s : State) (ch : Fin 8), (∀ (x : Word), s.dram.stepAt[ch] = some x → 50000 ≤ s.since x) ∧ s.up = true ∧
      s.dramAwake (ch.val / 4) = true ∧ s.cal[2].measuring ≠ [] ∧
      (∃ (q : DramReq), q ∈ s.dram.queue ∧ q.cls = 0 ∧ s.reqChannel q = ch.val ∧ 1000 < s.since q.issued)) ∧
    (∃ s : State, s.up = true ∧ s.dramReady = true ∧ (s.dram.scrubDue ≠ [] ∨ s.get F.DRAMC_SCRUB_PERIOD_S ≠ 0)) :=
  ⟨⟨run0, by decide +kernel⟩,
   ⟨sInit, by decide +kernel⟩,
   ⟨sInit, none_enabled (by decide +kernel), by decide +kernel⟩,
   ⟨run0, 6, (run0.reg (F.DRAMC_HASH_addr 6)), (fun j => if j = 6 then run0.reg (F.DRAMC_HASH_addr 6) else run0.reg
        (F.DRAMC_HASH_addr j)), rfl, by decide +kernel⟩,
   ⟨run0, 6, 0, (fun j => if j = 6 then 0 else run0.reg (F.DRAMC_HASH_addr j)), rfl, by decide +kernel⟩,
   ⟨(sOwed 6), 7, (BitVec.allOnes 16), by decide +kernel⟩,
   ⟨(sOwed 7), 7, (BitVec.allOnes 16), by decide +kernel⟩,
   ⟨(sOwed 7), 7, 0, by decide +kernel⟩,
   ⟨sDram, by decide +kernel⟩,
   ⟨(sSleep false false), by decide +kernel⟩,
   ⟨(sSleep false true), by decide +kernel⟩,
   ⟨(sSleep true false), ([127, 0]), by decide +kernel⟩,
   ⟨(sFreq 0), by decide +kernel⟩,
   ⟨sDram, false, by decide +kernel⟩,
   ⟨sDram, true, by decide +kernel⟩,
   ⟨sBadDiv, true, 3, by decide +kernel⟩,
   ⟨(sFreq 13500), true, 0, ([5]), by decide +kernel⟩,
   ⟨((sFreq 13500).put F.DRAMC_FREQ_CTL_PENDING 1), true, 0, ([]), by decide +kernel⟩,
   ⟨sMeas, 7, all_option (by decide +kernel), by decide +kernel⟩,
   ⟨sMeasQ, ch0, all_option (by decide +kernel), by decide +kernel⟩,
   ⟨(sEcc.put F.DRAMC_SCRUB_PERIOD_S 60), by decide +kernel⟩⟩

/-- States and operands that meet the hypotheses of PllsCommitAndRelock, clause by clause. -/
theorem witness_PllsCommitAndRelock :
    (∃ (s : State) (n : Fin 6), s.up = true ∧ s.pll[n].commit = true) ∧
    (∃ (s : State) (n : Fin 6), s.up = true ∧ s.pll[n].commit = false ∧ (n = 2 ∨ n = 3 ∨ s.pllLegal n = false)) ∧
    (∃ (s : State) (n : Fin 6), s.up = true ∧ s.pll[n].commit = false ∧ n ≠ 2 ∧ n ≠ 3 ∧ s.pllLegal n = true) ∧
    (∃ (s : State) (n : Fin 6), s.up = true ∧ (s.bit (F.PLL_CTL_LOCK n.val) = true ∨ s.pll[n].commit = true)) ∧
    (∃ (s : State) (n : Fin 6), s.up = true ∧ s.pll[n].relock = true ∧ s.bit F.PLL_REF_STAT_OK = true ∧
      s.bit (F.PLL_CTL_PENDING n.val) = false ∧ s.dram.queue = []) ∧
    (∃ (s : State) (n : Fin 6), s.up = true ∧ (n = 0 ∨ n = 5)) ∧
    (∃ (s : State) (n : Fin 6) (value : Word) (x : Int), s.up = true ∧ n ≠ 0 ∧ n ≠ 5 ∧
      x = max (-4095) (min 4095 (s.pll[n].steps + (BitVec.setWidth 13 value).toInt))) ∧
    (∃ (s : State) (n : Fin 6), s.up = true ∧ (s.pll[n].steps = 1 ∨ s.pll[n].steps = -1)) ∧
    (∃ s : State, s.up = true) ∧
    (∃ s : State, s.alwaysOn = true ∧ s.bit F.PLL_REF_STAT_OK = true) ∧
    (∃ s : State, s.alwaysOn = true) :=
  ⟨⟨(sRelock 5 true), 5, by decide +kernel⟩,
   ⟨run0, 2, by decide +kernel⟩,
   ⟨run0, 5, by decide +kernel⟩,
   ⟨sRef, 0, by decide +kernel⟩,
   ⟨(sRelock 0 false), 0, by decide +kernel⟩,
   ⟨run0, 5, by decide +kernel⟩,
   ⟨run0, 4, 0x1000, (-4095), by decide +kernel⟩,
   ⟨(run0.onPll 4 fun p => { p with steps := 1 }), 4, by decide +kernel⟩,
   ⟨run0, by decide +kernel⟩,
   ⟨sRef, by decide +kernel⟩,
   ⟨sRef, by decide +kernel⟩⟩

/-- The device in a mode at a reading of its clock, with what the power control holds. -/
def sMode (m : Mode) (clock : Nat) (f : PowerUnit → PowerUnit) : State := { State.reset with mode := m, clock := clock, pwr := f State.reset.pwr }
/-- One second without activity is set for the idle timer. -/
def sIdle : State := (sMode .run 1000000000 id).put F.PWR_IDLE_S 1
/-- Entry is due, in HOLD, with a thread running and the rails up. -/
def sEnter : State :=
  let s := ((sMode .run 5 fun p => { p with entryDue := true }).put F.HVPS_CTL_STATE 2).put (F.SEQ_LC_CFG_ARM 63) 1
  ((s.put F.DRAMC_CTL_EN 1).put F.DRAMC_CTL_READY 1).put F.PWR_STAT_READY 1 |>.onThread 3 fun h => { h with st := .ready }
/-- The end of the entry, a wake source noted or not, with a link port and a panel port up. -/
def sEntered (w : BitVec 4) : State :=
  let s := ((sMode .entry 1000000 fun p => { p with sources := w }).put (F.ZL_STATUS_STATE 3) 2).put (F.PANEL_STATUS_STATE 3) 2
  (s.put (F.PLL_CTL_LOCK 5) 1).put F.TB_STATE_STATE 1
/-- A wake step with the PLLs locked. -/
def sWake (k clock : Nat) : State :=
  ((List.range 6).foldl (fun (u : State) n => u.put (F.PLL_CTL_LOCK n) 1) (sMode (.wake k) clock id)).put F.TB_CTL_WAKE_STEP 1
/-- The Cellar with wake sources enabled. -/
def sCellar (m : Mode) (en : Nat) : State :=
  ((sMode m 77 fun p => { p with alarm := true, breaches := 1, crits := 1 }).put F.PWR_WAKE_EN_EN en).put F.PWR_BRZ_CFG_CONFIRM_M1 1
/-- Readings of 32 sensors. -/
def cool : List Reading := List.replicate 32 (.temp 2560)
def hotOne : List Reading := (.temp 0x7000) :: List.replicate 31 (.temp 2560)
/-- An operating point's table: point 3 has another code, point 4 the same. -/
def sOp (busy : Nat) : State := ((sMode .run 0 id).put F.PWR_OP_SEL_BUSY busy).put (F.PWR_OP_VCODE 3) 99 |>.put (F.PWR_OP_VCODE 4) 40
/-- Leg 2 toward code 99 runs. -/
def sLeg (good clock : Nat) : State :=
  (sMode .run clock fun p => { p with vgoal := 99, goal := 3, good := good }).put F.PWR_OP_SEL_LEG 2
/-- Sensor 31 has failed; the rails are up; one sample in a row. -/
def sTherm : State := (((sMode .run 0 id).put (F.TMON_S_FAILED 31) 1).put F.HVPS_CTL_STATE 2).put F.TMON_CFG_DEBOUNCE 1
/-- External sensor 7 is polled, shifted down. -/
def sExt (shift : Int) : State := ((sMode .run 0 id).put (F.TMON_EXT_CFG_EN 7) 1).putS (F.TMON_EXT_CFG_SHIFT 7) shift
/-- A domain of calibration. -/
def sCal (d : Fin 5) (c : CalDomain) : State := (sMode .run 10000000000 id).onCal d fun _ => c
/-- Windows that hold ±127. -/
def sCalW (d : Fin 5) (c : CalDomain) : State :=
  (((sCal d c).putS (F.CAL_WIN_MIN d) (-127)).putS (F.CAL_WIN_MAX d) 127).put (F.CAL_STEP_STEP d) 255
/-- Angle tables whose rows 0 and 1 ascend around the panel's temperature, with saturation enabled. -/
def sAngle : State :=
  let s := ((sMode .run 0 id).put F.TRL_SAT_BASE_BASE 1).putS (F.TRL_ANG_TEMP_CENTRE 0) (-1000) |>.putS (F.TRL_ANG_TEMP_CENTRE 1) 1000
  ((s.putS (F.CAL_WIN_MIN 3) 0).putS (F.CAL_WIN_MAX 3) 4096).put (F.CAL_STEP_STEP 3) 4096
/-- The ray model lies in DRAM, its CRC written or not; a grid of one hogel. -/
def sModel (load crc : Nat) : State :=
  let s := (((((sMode .run 0 id).put F.DRAMC_CTL_EN 1).put F.DRAMC_CTL_READY 1).put (F.PLL_CTL_LOCK 2) 1).put (F.PLL_CTL_LOCK 3) 1).put F.DRAMC_CFG_CAP 1
  let s := ((s.put F.CAL_MODEL_BASE_BASE 0x8000000).put F.CAL_MODEL_CTL_LOAD load).setAct F.TRL_TILE_GEOM_WIDTH_M1.addr 0
  s.setReg F.CAL_MODEL_CRC_addr (if crc = 1 then crc32c ((List.range s.modelSize).map fun i => s.dramByte (s.modelBase + i)) else 0)
/-- The same out of HOLD, nothing loaded. -/
def sModelOn : State := { sModel 0 0 with frm := { State.reset.frm with hold := false } }

/-- States and operands that meet the hypotheses of CellarIsEnteredAndLeft, clause by clause. -/
theorem witness_CellarIsEnteredAndLeft :
    (∃ s : State, s.mode = Mode.run ∧ s.pwr.entryDue = false ∧ s.get F.PWR_IDLE_S ≠ 0 ∧ s.blinking = false ∧
      s.pwr.idleFrom + s.get F.PWR_IDLE_S * 1000000000 ≤ s.clock) ∧
    (∃ s : State, s.mode = Mode.run ∧ s.pwr.entryDue = false) ∧
    (∃ (s : State) (k : Nat), s.mode = Mode.wake k) ∧
    (∃ s : State, s.mode = Mode.run ∧ s.pwr.entryDue = true ∧ s.slotsRunning = false) ∧
    (∃ s : State, s.mode = Mode.entry ∧ (s.get F.HVPS_CTL_STATE = 0 ∨ s.get F.HVPS_CTL_STATE = 5) ∧
      s.pwr.start + 35000 + 420000 ≤ s.clock ∧ s.hv.offAt + 420000 ≤ s.clock) ∧
    (∃ s : State, s.mode = Mode.entry ∧ (s.get F.PWR_WAKE_EN_EN).testBit 2 = true) ∧
    (∃ s : State, s.mode = Mode.cellar ∧ (s.get F.PWR_WAKE_EN_EN).testBit 2 = true) ∧
    (∃ s : State, s.mode = Mode.cellar ∧ (s.get F.PWR_WAKE_EN_EN).testBit 3 = true ∧ s.pwr.alarm = true ∧
      s.reached (s.reg F.PWR_WAKE_AT_addr) = true) ∧
    (∃ (s : State) (die panel : List Reading) (lux : BitVec 16), s.mode = Mode.cellar ∧ s.bit F.TMON_SD_CAUSE_VALID = false ∧
      s.patrolBreach die panel lux = false ∧ (∀ (x : Nat × Int), x ∈ s.patrolDie die → x.snd < s.getS F.TMON_THR_2_CRIT)) ∧
    (∃ (s : State) (die panel : List Reading) (lux : BitVec 16), s.mode = Mode.cellar ∧ s.bit F.TMON_SD_CAUSE_VALID = false ∧
      s.patrolBreach die panel lux = true ∧ (∀ (x : Nat × Int), x ∈ s.patrolDie die → x.snd < s.getS F.TMON_THR_2_CRIT) ∧
      s.get F.PWR_BRZ_CFG_CONFIRM_M1 ≤ s.pwr.breaches ∧ (s.get F.PWR_WAKE_EN_EN).testBit 1 = true) ∧
    (∃ (s : State) (die : List Reading), s.mode = Mode.cellar ∧ s.bit F.TMON_SD_CAUSE_VALID = false ∧
      (∃ (x : Nat × Int), x ∈ s.patrolDie die ∧ s.getS F.TMON_THR_2_CRIT ≤ x.snd) ∧ s.get F.PWR_BRZ_CFG_CONFIRM_M1 ≤ s.pwr.crits ∧
      s.get F.HVPS_CTL_STATE = 0) ∧
    (∃ (s : State) (k : Nat) (complete : Bool), s.mode = Mode.wake k ∧ 1 ≤ k ∧ s.pwr.start + wakeNs k ≤ s.clock ∧
      (complete = false ∨ s.stepComplete k = false) ∧ s.pwr.slipped = false) ∧
    (∃ (s : State) (k : Nat) (complete : Bool), s.mode = Mode.wake k ∧ 1 ≤ k ∧ s.pwr.start + wakeNs k ≤ s.clock ∧
      (complete = false ∨ s.stepComplete k = false) ∧ s.pwr.slipped = true) ∧
    (∃ (s : State) (k : Nat), s.mode = Mode.wake k ∧ 1 ≤ k ∧ s.pwr.start + wakeNs k ≤ s.clock ∧ k ≤ 5 ∧ s.stepComplete k = true) ∧
    (∃ (s : State) (k : Nat), s.mode = Mode.wake k ∧ 1 ≤ k ∧ s.pwr.start + wakeNs k ≤ s.clock ∧ k = 6 ∧ s.stepComplete 6 = true) ∧
    (∃ s : State, s.alwaysOn = true ∧ s.mode ≠ Mode.run) ∧
    (∃ (s : State) (target : BitVec 4) (cap : Nat), s.mode = Mode.run ∧ cap = s.get (F.PWR_OP_CAP target.toNat) ∧
      s.bit F.PWR_OP_SEL_BUSY = true) ∧
    (∃ (s : State) (target : BitVec 4) (cap : Nat), s.mode = Mode.run ∧ cap = s.get (F.PWR_OP_CAP target.toNat) ∧
      s.bit F.PWR_OP_SEL_BUSY = false ∧ s.get (F.PWR_OP_VCODE target.toNat) ≠ s.pwr.vcode) ∧
    (∃ (s : State) (target : BitVec 4) (cap : Nat), s.mode = Mode.run ∧ cap = s.get (F.PWR_OP_CAP target.toNat) ∧
      s.bit F.PWR_OP_SEL_BUSY = false ∧ s.get (F.PWR_OP_VCODE target.toNat) = s.pwr.vcode ∧ s.pwr.failed = false) ∧
    (∃ (s : State) (mv : Nat), s.up = true ∧ s.get F.PWR_OP_SEL_LEG = 2 ∧
      s.get F.PWR_AVS_CFG_TOL_MV < ((mv : Int) - ((550 + 5 * s.pwr.vgoal : Nat) : Int)).natAbs) ∧
    (∃ (s : State) (mv : Nat), s.up = true ∧ s.get F.PWR_OP_SEL_LEG = 2 ∧
      ((mv : Int) - ((550 + 5 * s.pwr.vgoal : Nat) : Int)).natAbs ≤ s.get F.PWR_AVS_CFG_TOL_MV ∧ s.pwr.good = 0) ∧
    (∃ (s : State) (mv : Nat), s.up = true ∧ s.get F.PWR_OP_SEL_LEG = 2 ∧
      ((mv : Int) - ((550 + 5 * s.pwr.vgoal : Nat) : Int)).natAbs ≤ s.get F.PWR_AVS_CFG_TOL_MV ∧ 1 ≤ s.pwr.good ∧
      s.bit F.PWR_OP_SEL_PENDING = false ∧ s.pwr.goal < 16) ∧
    (∃ s : State, s.up = true ∧ s.get F.PWR_OP_SEL_LEG = 2 ∧ s.pwr.voltAt + 1000 * s.get F.PWR_AVS_CFG_TIMEOUT_US ≤ s.clock) :=
  ⟨⟨sIdle, by decide +kernel⟩,
   ⟨sIdle, by decide +kernel⟩,
   ⟨(sMode (.wake 6) 0 id), 6, by decide +kernel⟩,
   ⟨sEnter, by decide +kernel⟩,
   ⟨(sEntered 0), by decide +kernel⟩,
   ⟨(sCellar .entry 4), by decide +kernel⟩,
   ⟨(sCellar .cellar 4), by decide +kernel⟩,
   ⟨(sCellar .cellar 8), by decide +kernel⟩,
   ⟨(sCellar .cellar 2), cool, ([]), 0, by decide +kernel⟩,
   ⟨((sCellar .cellar 2).putS F.PWR_BRZ_TWIN_LO 2561 |>.putS F.PWR_BRZ_TWIN_HI 3000), cool, ([]), 0, by decide +kernel⟩,
   ⟨(sCellar .cellar 2), hotOne, by decide +kernel⟩,
   ⟨(sMode (.wake 5) 2000000 id), 5, false, by decide +kernel⟩,
   ⟨(sMode (.wake 5) 2000000 fun p => { p with slipped := true }), 5, false, by decide +kernel⟩,
   ⟨(sMode (.wake 1) 400000 id), 1, by decide +kernel⟩,
   ⟨(sWake 6 250000), 6, by decide +kernel⟩,
   ⟨(sMode .cellar 0 id), by decide +kernel⟩,
   ⟨(sOp 1), 15, ((sOp 1).get (F.PWR_OP_CAP 15)), by decide +kernel⟩,
   ⟨(sOp 0), 3, ((sOp 0).get (F.PWR_OP_CAP 3)), by decide +kernel⟩,
   ⟨(sOp 0), 4, ((sOp 0).get (F.PWR_OP_CAP 4)), by decide +kernel⟩,
   ⟨(sLeg 1 0), 0, by decide +kernel⟩,
   ⟨(sLeg 0 0), 1045, by decide +kernel⟩,
   ⟨(sLeg 1 0), 1045, by decide +kernel⟩,
   ⟨(sLeg 1 100000000000), by decide +kernel⟩⟩

/-- States and operands that meet the hypotheses of TemperaturesAreWatched, clause by clause. -/
theorem witness_TemperaturesAreWatched :
    (∃ s : State, s.up = true ∧ s.bit F.TMON_SD_CAUSE_VALID = false) ∧
    (∃ (s : State) (k : Fin 8), s.up = true ∧ s.bit (F.TMON_EXT_CFG_EN k.val) = true ∧ s.bit (F.TMON_EXT_FAILED k.val) = false) ∧
    (∃ (s : State) (k : Fin 8), s.up = true ∧ s.bit (F.TMON_EXT_CFG_EN k.val) = true) ∧
    (∃ s : State, s.up = true) ∧
    (∃ (s : State) (k : Fin 32), s.up = true ∧ k.val < 8) ∧
    (∃ (s : State) (m : Fin 3) (value : Word) (a : Nat), s.up = true ∧ a = F.TMON_THR_0_addr + 4 * m.val ∧
      s.bit F.TMON_CFG_LOCK = false ∧ thrOrdered (List.map (s.setReg a value).getS thrFields) = true) ∧
    (∃ (s : State) (m : Fin 3) (value : Word) (a : Nat), s.up = true ∧ a = F.TMON_THR_0_addr + 4 * m.val ∧
      s.bit F.TMON_CFG_LOCK = false ∧ thrOrdered (List.map (s.setReg a value).getS thrFields) = false) ∧
    (∃ (s : State) (m : Fin 3) (value : Word) (a : Nat), s.up = true ∧ a = F.TMON_THR_0_addr + 4 * m.val ∧
      s.bit F.TMON_CFG_LOCK = true ∧ s.reg a ≠ value) ∧
    (∃ s : State, s.up = true) :=
  ⟨⟨sTherm, by decide +kernel⟩,
   ⟨(sExt (-2)), 7, by decide +kernel⟩,
   ⟨(sExt 3), 7, by decide +kernel⟩,
   ⟨run0, by decide +kernel⟩,
   ⟨run0, 7, by decide +kernel⟩,
   ⟨run0, 2, (run0.reg (F.TMON_THR_0_addr + 8) + 0x10000), (F.TMON_THR_0_addr + 8), by decide +kernel⟩,
   ⟨run0, 2, 0, (F.TMON_THR_0_addr + 8), by decide +kernel⟩,
   ⟨(run0.put F.TMON_CFG_LOCK 1), 2, 0, (F.TMON_THR_0_addr + 8), by decide +kernel⟩,
   ⟨run0, by decide +kernel⟩⟩

/-- States and operands that meet the hypotheses of CalibrationAcceptsAndApplies, clause by clause. -/
theorem witness_CalibrationAcceptsAndApplies :
    (∃ (s : State) (d : Fin 5) (p : Fin 4) (q : Nat), (s.mode = Mode.run ∨ s.mode = Mode.boot) ∧ d ≠ 3 ∧
      (q = if d = 0 ∨ d = 1 then p.val else 0) ∧ ¬q ∈ s.cal[d].measuring) ∧
    (∃ (s : State) (d : Fin 5) (x : Int), (s.mode = Mode.run ∨ s.mode = Mode.boot) ∧ d = 3 ∧ s.get F.TRL_SAT_BASE_BASE ≠ 0 ∧
      ¬0 ∈ s.cal[3].measuring ∧ s.angleTarget = some x ∧ s.calOk 3 0 [x] = true) ∧
    (∃ (s : State) (d : Fin 5), (s.mode = Mode.run ∨ s.mode = Mode.boot) ∧ d = 3 ∧ s.get F.TRL_SAT_BASE_BASE ≠ 0 ∧
      ¬0 ∈ s.cal[3].measuring ∧ (s.angleTarget = none ∨ ∃ (x : Int), s.angleTarget = some x ∧ s.calOk 3 0 [x] = false)) ∧
    (∃ (s : State) (d : Fin 5) (p : Nat) (rest : List Nat) (l : List Int), s.up = true ∧ s.cal[d].measuring = p :: rest ∧
      s.calOk d p l = true) ∧
    (∃ (s : State) (d : Fin 5) (p : Nat) (rest : List Nat) (r : Option (List Int)), (∀ (l : List Int),
        r = some l → s.calOk d p l = false) ∧
      s.up = true ∧ s.cal[d].measuring = p :: rest) ∧
    (∃ s : State, s.up = true) ∧
    (∃ (s : State) (d : Fin 5), s.up = true ∧ s.calDue d = false) ∧
    (∃ (s : State) (d : Fin 5) (a b : Int) (p : Nat), s.up = true ∧ s.calDue d = true ∧ (d = 0 ∨ d = 1 ∨ d = 2) ∧
      s.cal[d].target = [(p, [b])] ∧ assocGet [] p s.cal[d].applied = [a]) ∧
    (∃ (s : State) (d : Fin 5) (b : Int), s.up = true ∧ s.calDue d = true ∧ d = 3 ∧ s.cal[d].target = [(0, [b])] ∧
      s.get F.TRL_ANG_WEIGHT_WEIGHT ≤ 256 ∧ 256 * ↑(s.get F.TRL_ANG_WEIGHT_LO_BAND) ≤ b ∧
      b ≤ 256 * (↑(s.get F.TRL_ANG_WEIGHT_LO_BAND) + 1)) ∧
    (∃ (s : State) (d : Fin 5) (l : List Int), s.up = true ∧ s.calDue d = true ∧ d = 4 ∧ s.cal[d].target = [(0, l)] ∧ l.length = 4 ∧
      (∀ (x : Int), x ∈ l → -128 ≤ x ∧ x ≤ 127)) ∧
    (∃ s : State, s.up = true ∧ s.bit F.CAL_MODEL_CTL_LOAD = false ∧ s.frm.hold = true ∧ s.modelRange = true) ∧
    (∃ s : State, s.up = true ∧ s.bit F.CAL_MODEL_CTL_LOAD = false ∧ (s.frm.hold = false ∨ s.modelRange = false)) ∧
    (∃ (s : State) (ecc : List EccHit) (bs : List Byte), s.up = true ∧ s.bit F.CAL_MODEL_CTL_LOAD = true ∧
      s.dramGrants DramSource.calReload = true ∧ bs = (s.dramRead s.modelBase s.modelSize ecc).fst) :=
  ⟨⟨run0, 1, 3, 3, by decide +kernel⟩,
   ⟨sAngle, 3, (sAngle.angleTarget.getD 0), by decide +kernel⟩,
   ⟨(sAngle.putS (F.TRL_ANG_TEMP_CENTRE 1) (-1000)), 3, by decide +kernel⟩,
   ⟨(sCalW 1 ⟨[5, 2], [(5, [0])], [], [], 0, none⟩), 1, 5, [2], ([127]), by decide +kernel⟩,
   ⟨(sCalW 1 ⟨[5, 2], [(5, [0])], [], [], 0, none⟩), 1, 5, [2], (some [128]), all_option (by decide +kernel), by decide +kernel⟩,
   ⟨(sCal 1 ⟨[], [], [(5, [3])], [(5, [20])], 0, none⟩), by decide +kernel⟩,
   ⟨(sCal 1 ⟨[], [], [(5, [3])], [(5, [20])], 10000000000, none⟩), 1, by decide +kernel⟩,
   ⟨(sCal 1 ⟨[], [], [(5, [3])], [(5, [20])], 0, none⟩), 1, 3, 20, 5, by decide +kernel⟩,
   ⟨(sCal 3 ⟨[], [], [], [(0, [256])], 0, none⟩), 3, 256, by decide +kernel⟩,
   ⟨(sCal 4 ⟨[], [], [], [(0, [-128, 127, 0, 1])], 0, none⟩), 4, ([-128, 127, 0, 1]), by decide +kernel⟩,
   ⟨(sModel 0 0), by decide +kernel⟩,
   ⟨sModelOn, by decide +kernel⟩,
   ⟨(sModel 1 1), ([]), ((sModel 1 1).dramRead (sModel 1 1).modelBase (sModel 1 1).modelSize []).1, by decide +kernel⟩⟩

/-- Operands without an immediate. -/
def opn (dst a b : Nat) (pred : BitVec 3) (low : Nat) : Opnd :=
  ⟨BitVec.ofNat 5 dst, BitVec.ofNat 5 a, BitVec.ofNat 5 b, pred, BitVec.ofNat 8 low, none⟩
/-- Press 47 near the end of the kernel store, with register n = 3n + 5 (mod 2³²) and s15 = 256; of its vectors, lane k of v_j is 64k + j. -/
def pressA (d : PressDoes) : Press :=
  { run0.press[(47 : Fin 48)] with
    s := Vector.ofFn fun i : Fin 16 => if i = 15 then 256 else BitVec.ofNat 32 (3 * i.val + 5)
    v := Vector.ofFn fun j : Fin 32 => Vector.ofFn fun k : Fin 16 => BitVec.ofNat 32 (64 * k.val + j.val)
    p := Vector.ofFn fun i : Fin 8 => if i = 7 then 0xA5A5 else 0xFFFF
    valid := 0x7FFF
    pc := 0xFFFF0
    does := d }
/-- It runs the bundle of frame 1, a bundle whose writes are discarded, or a job. -/
def sRuns (d : PressDoes) : State :=
  let s := { sSel with dist := { sSel.dist with latches := [latch0], work := [⟨0, 0, 1, 5, [], 0⟩] } }
  s.onPress 47 fun _ => pressA d
def jobA : PressJob := ⟨0x06A00000, 128, some 47, true, 9, 11, 12⟩
def sBun : State := sRuns (.bundle bundle0)
def sDisc : State := sRuns (.bundle { bundle0 with discard := true })
def sJobR : State := sRuns (.job jobA)
/-- The words of an instruction stand at the PC of press 47. -/
def atP (c : Code) (s : State) : State :=
  let a := kernelBase + s.press[(47 : Fin 48)].pc.toNat
  let t := s.storeWord a c.first
  match c.second with
  | none => t
  | some w => t.storeWord (a + 4) w
/-- A thread 15 of its own priority that runs, the words of an instruction at its PC. -/
def atT (c : Code) (s : State) : State := s.storeWord (seqBase + s.seq.thr[(15 : Fin 16)].pc.toNat) c.first
def sThr : State := run0.onThread 15 fun h => { h with st := .ready, pc := 0x3FFF8, s := Vector.ofFn fun i : Fin 16 => BitVec.ofNat 32 (7 * i.val) }
/-- A scalar of press 47 set. -/
def setR (s : State) (i : Nat) (w : Word) : State := s.onPress 47 fun p => p.setS (BitVec.ofNat 5 i) w
/-- The DRAM serves and the spill window of press 47 is one unit. -/
def sSpill : State :=
  let s := (dramUp (setR (setR sBun 0 64) 1 128)).put F.DRAMC_CFG_CAP 1
  (s.put F.PRESS_SPILL_BASE_BASE 0x800000).put F.PRESS_SPILL_WIN_WIN_64K 1
/-- Its bundle at an instant of the time base. -/
def sBunAt (ns : Word) : State := { sBun with tb := { sBun.tb with ns := ns } }
/-- An operation of some instances of the press. -/
def tapsA (s : State) (o : Opnd) (k : Fin 16) : Option (List (Nat × Sample) × Bool) :=
  let q := s.press[(47 : Fin 48)]
  s.taps hdr0 false ((q.vreg o.dst)[k].toNat % 16) ((q.vreg o.dst)[k].getLsbD 4) (q.vreg o.srcA)[k] (q.vreg o.srcB)[k]

/-- States and operands that meet the hypotheses of PressControlFlow, clause by clause. -/
theorem witness_PressControlFlow :
    (∃ (s : State) (n : Fin 48) (o : Opnd), s.pressAt n (Code.op 0 0 o) ∧
      o.legal Names.nothing Names.nothing Names.nothing false = true) ∧
    (∃ (s : State) (n : Fin 48) (o : Opnd), s.pressAt n (Code.op 0 2 o) ∧
      o.legal Names.nothing Names.nothing Names.nothing false = true ∧ BitVec.toNat (s.press[n].sreg 15) < 1048576 ∧
      BitVec.toNat (s.press[n].sreg 15) % 4 = 0) ∧
    (∃ (s : State) (n : Fin 48) (o : Opnd), s.pressAt n (Code.op 0 2 o) ∧
      o.legal Names.nothing Names.nothing Names.nothing false = true ∧
      (1048576 ≤ BitVec.toNat (s.press[n].sreg 15) ∨ BitVec.toNat (s.press[n].sreg 15) % 4 ≠ 0)) ∧
    (∃ (s : State) (n : Fin 48) (o : Opnd) (b : Bundle), s.pressAt n (Code.op 0 1 o) ∧
      o.legal Names.nothing Names.nothing Names.nothing false = true ∧ s.press[n].does = PressDoes.bundle b) ∧
    (∃ (s : State) (n : Fin 48) (o : Opnd) (j : PressJob), s.pressAt n (Code.op 0 1 o) ∧
      o.legal Names.nothing Names.nothing Names.nothing false = true ∧ s.press[n].does = PressDoes.job j) ∧
    (∃ (s : State) (n : Fin 48) (off : BitVec 15) (x : Int), s.pressAt n (Code.rel 2 0 off 0) ∧
      x = ↑(BitVec.toNat s.press[n].pc) + 4 * off.toInt ∧ 0 ≤ x ∧ x < 1048576 ∧ x % 4 = 0) ∧
    (∃ (s : State) (n : Fin 48) (o : Opnd) (imm : Word), s.pressAt n (Code.long 2 0 o imm) ∧
      o.legal Names.nothing Names.nothing Names.code false = true ∧ o.low = 0 ∧ BitVec.toNat imm < 1048576 ∧
        BitVec.toNat imm % 4 = 0) ∧
    (∃ (s : State) (n : Fin 48) (o : Opnd) (imm : Word), s.pressAt n (Code.long 3 0 o imm) ∧
      o.legal Names.nothing Names.nothing Names.code false = true ∧ o.low = 0 ∧ BitVec.toNat imm < 1048576 ∧
        BitVec.toNat imm % 4 = 0) ∧
    (∃ (s : State) (n : Fin 48) (off : BitVec 15) (pred : BitVec 3) (q v : BitVec 16) (c : Instr) (code : BitVec 8) (holds : Bool)
        (x : Int), s.pressAt n (Code.rel 1 code off pred) ∧
      q = s.press[n].p[pred.toNat] ∧ v = s.press[n].valid ∧
      (c = Instr.brAlways n off pred ∧ code = 0 ∧ pred = 0 ∧ holds = true ∨ c = Instr.brAny n off pred ∧ code = 1 ∧
        holds = (q &&& v != 0) ∨ c = Instr.brAll n off pred ∧ code = 2 ∧ holds = (q &&& v == v) ∨ c = Instr.brNone n off pred ∧
        code = 3 ∧ holds = (q &&& v == 0)) ∧
      x = ↑(BitVec.toNat s.press[n].pc) + 4 * off.toInt ∧ holds = true ∧ 0 ≤ x ∧ x < 1048576 ∧ x % 4 = 0) ∧
    (∃ (s : State) (n : Fin 48) (off : BitVec 15) (pred : BitVec 3) (q v : BitVec 16) (c : Instr) (code : BitVec 8) (holds : Bool),
        s.pressAt n (Code.rel 1 code off pred) ∧
      q = s.press[n].p[pred.toNat] ∧ v = s.press[n].valid ∧
      (c = Instr.brAlways n off pred ∧ code = 0 ∧ pred = 0 ∧ holds = true ∨ c = Instr.brAny n off pred ∧ code = 1 ∧
        holds = (q &&& v != 0) ∨ c = Instr.brAll n off pred ∧ code = 2 ∧ holds = (q &&& v == v) ∨ c = Instr.brNone n off pred ∧
        code = 3 ∧ holds = (q &&& v == 0)) ∧
      holds = false) ∧
    (∃ (s : State) (n : Fin 48) (off : BitVec 15) (pred : BitVec 3) (q v : BitVec 16) (c : Instr) (code : BitVec 8) (holds : Bool)
        (x : Int), s.pressAt n (Code.rel 1 code off pred) ∧
      q = s.press[n].p[pred.toNat] ∧ v = s.press[n].valid ∧
      (c = Instr.brAlways n off pred ∧ code = 0 ∧ pred = 0 ∧ holds = true ∨ c = Instr.brAny n off pred ∧ code = 1 ∧
        holds = (q &&& v != 0) ∨ c = Instr.brAll n off pred ∧ code = 2 ∧ holds = (q &&& v == v) ∨ c = Instr.brNone n off pred ∧
        code = 3 ∧ holds = (q &&& v == 0)) ∧
      x = ↑(BitVec.toNat s.press[n].pc) + 4 * off.toInt ∧ holds = true ∧ (x < 0 ∨ 1048576 ≤ x)) ∧
    (∃ (s : State) (n : Fin 48) (o : Opnd) (b : Bundle), (definedPress (s.word (kernelBase + BitVec.toNat s.press[n].pc)) = false ∨
        s.pressAt n (Code.op 0 0 o) ∧ o.legal Names.nothing Names.nothing Names.nothing false = false) ∧
      s.up = true ∧ s.press[n].does = PressDoes.bundle b ∧ s.timedOut n = false) ∧
    (∃ (s : State) (n : Fin 48) (o : Opnd) (b : Bundle), (definedPress (s.word (kernelBase + BitVec.toNat s.press[n].pc)) = false ∨
        s.pressAt n (Code.op 0 0 o) ∧ o.legal Names.nothing Names.nothing Names.nothing false = false) ∧
      s.up = true ∧ s.press[n].does = PressDoes.bundle b ∧ s.timedOut n = true) ∧
    (∃ (s : State) (n : Fin 48) (o : Opnd) (b : Bundle), s.up = true ∧ s.press[n].does = PressDoes.bundle b ∧
      definedPress (s.word (kernelBase + BitVec.toNat s.press[n].pc)) = true ∧
      s.word (kernelBase + BitVec.toNat s.press[n].pc) ≠ (Code.op 0 0 o).first) :=
  ⟨⟨(atP (.op 0 0 (opn 0 0 0 0 0)) sBun), 47, (opn 0 0 0 0 0), pressAt_of (by decide +kernel), by decide +kernel⟩,
   ⟨(atP (.op 0 2 (opn 0 0 0 0 0)) sBun), 47, (opn 0 0 0 0 0), pressAt_of (by decide +kernel), by decide +kernel⟩,
   ⟨(atP (.op 0 2 (opn 0 0 0 0 0)) (setR sBun 15 0x100000)), 47, (opn 0 0 0 0 0), pressAt_of (by decide +kernel),
        by decide +kernel⟩,
   ⟨(atP (.op 0 1 (opn 0 0 0 0 0)) sBun), 47, (opn 0 0 0 0 0), bundle0, pressAt_of (by decide +kernel), by decide +kernel⟩,
   ⟨(atP (.op 0 1 (opn 0 0 0 0 0)) sJobR), 47, (opn 0 0 0 0 0), jobA, pressAt_of (by decide +kernel), by decide +kernel⟩,
   ⟨(atP (.rel 2 0 0x4000 0) sBun), 47, (0x4000#15), (0xFFFF0 - 65536), pressAt_of (by decide +kernel), by decide +kernel⟩,
   ⟨(atP (.long 2 0 (opn 0 0 0 0 0) 0x40) sBun), 47, (opn 0 0 0 0 0), 0x40, pressAt_of (by decide +kernel), by decide +kernel⟩,
   ⟨(atP (.long 3 0 (opn 0 0 0 0 0) 0xFFFFC) sBun), 47, (opn 0 0 0 0 0), 0xFFFFC, pressAt_of (by decide +kernel),
        by decide +kernel⟩,
   ⟨(atP (.rel 1 1 (0x4000#15) 7) sBun), 47, (0x4000#15), 7, 0xA5A5, 0x7FFF, (.brAny 47 (0x4000#15) 7), 1, true,
        (0xFFFF0 - 65536), pressAt_of (by decide +kernel), by decide +kernel⟩,
   ⟨(atP (.rel 1 2 (0x7FFF#15) 7) sBun), 47, (0x7FFF#15), 7, 0xA5A5, 0x7FFF, (.brAll 47 (0x7FFF#15) 7), 2, false,
        pressAt_of (by decide +kernel), by decide +kernel⟩,
   ⟨(atP (.rel 1 0 (4#15) 0) sBun), 47, (4#15), 0, 0xFFFF, 0x7FFF, (.brAlways 47 (4#15) 0), 0, true, 0x100000,
        pressAt_of (by decide +kernel), by decide +kernel⟩,
   ⟨(atP (.op 0 0 (opn 0 3 0 0 0)) (sBunAt 1100)), 47, (opn 0 3 0 0 0), bundle0, .inr ⟨pressAt_of (by decide +kernel),
        by decide +kernel⟩, by decide +kernel⟩,
   ⟨(atP (.op 0 63 (opn 0 0 0 0 0)) (sBunAt 1000000)), 47, (opn 0 0 0 0 0), bundle0, .inl (by decide +kernel), by decide +kernel⟩,
   ⟨(atP (.op 0 1 (opn 0 0 0 0 0)) sBun), 47, (opn 0 0 0 0 0), bundle0, by decide +kernel⟩⟩

/-- States and operands that meet the hypotheses of ScalarAndPredicateResults, clause by clause. -/
theorem witness_ScalarAndPredicateResults :
    (∃ (x : SOp × (Issuer → Opnd → Instr)) (s : State) (o : Opnd) (c : Code) (n : Fin 48), x ∈ [(SOp.mov, Instr.sopMov),
        (SOp.add, Instr.sopAdd), (SOp.sub, Instr.sopSub), (SOp.mul, Instr.sopMul), (SOp.mulhu, Instr.sopMulhu), (SOp.and,
        Instr.sopAnd), (SOp.or, Instr.sopOr), (SOp.xor, Instr.sopXor), (SOp.shl, Instr.sopShl), (SOp.shr, Instr.sopShr),
        (SOp.sra, Instr.sopSra), (SOp.slt, Instr.sopSlt), (SOp.sltu, Instr.sopSltu), (SOp.min, Instr.sopMin), (SOp.max,
        Instr.sopMax), (SOp.fadd, Instr.sopFadd), (SOp.fsub, Instr.sopFsub), (SOp.fmul, Instr.sopFmul), (SOp.ftoi,
        Instr.sopFtoi), (SOp.itof, Instr.sopItof)] ∧
      s.pressAt n c ∧ c = Code.op 8 x.fst.code o ∧
      (o.legal Names.scalar Names.scalar (if x.fst.unary = true then Names.nothing else Names.scalar) false = true) ∧
        o.long = none) ∧
    (∃ (x : SOp × (Issuer → Opnd → Instr)) (s : State) (o : Opnd) (c : Code) (t : Fin 16), x ∈ [(SOp.mov, Instr.sopMov),
        (SOp.add, Instr.sopAdd), (SOp.sub, Instr.sopSub), (SOp.mul, Instr.sopMul), (SOp.mulhu, Instr.sopMulhu), (SOp.and,
        Instr.sopAnd), (SOp.or, Instr.sopOr), (SOp.xor, Instr.sopXor), (SOp.shl, Instr.sopShl), (SOp.shr, Instr.sopShr),
        (SOp.sra, Instr.sopSra), (SOp.slt, Instr.sopSlt), (SOp.sltu, Instr.sopSltu), (SOp.min, Instr.sopMin), (SOp.max,
        Instr.sopMax), (SOp.fadd, Instr.sopFadd), (SOp.fsub, Instr.sopFsub), (SOp.fmul, Instr.sopFmul), (SOp.ftoi,
        Instr.sopFtoi), (SOp.itof, Instr.sopItof)] ∧
      c = Code.op 8 x.fst.code o ∧
      (o.legal Names.scalar Names.scalar (if x.fst.unary = true then Names.nothing else Names.scalar) false = true) ∧
        s.threadAt t c) ∧
    (∃ (x : SOp × (Issuer → Opnd → Instr)) (s : State) (o : Opnd) (c : Code) (n : Fin 48) (imm : Word), x ∈ [(SOp.mov,
        Instr.sopMov), (SOp.add, Instr.sopAdd), (SOp.sub, Instr.sopSub), (SOp.mul, Instr.sopMul), (SOp.mulhu, Instr.sopMulhu),
        (SOp.and, Instr.sopAnd), (SOp.or, Instr.sopOr), (SOp.xor, Instr.sopXor), (SOp.shl, Instr.sopShl), (SOp.shr,
        Instr.sopShr), (SOp.sra, Instr.sopSra), (SOp.slt, Instr.sopSlt), (SOp.sltu, Instr.sopSltu), (SOp.min, Instr.sopMin),
        (SOp.max, Instr.sopMax), (SOp.fadd, Instr.sopFadd), (SOp.fsub, Instr.sopFsub), (SOp.fmul, Instr.sopFmul), (SOp.ftoi,
        Instr.sopFtoi), (SOp.itof, Instr.sopItof)] ∧
      s.pressAt n (Code.long 4 x.fst.code o imm) ∧ c = Code.op 8 x.fst.code o ∧ o.long = some imm ∧
      o.legal Names.scalar Names.scalar Names.code false = true) ∧
    (∃ (s : State) (o : Opnd) (n : Fin 48), s.pressAt n (Code.low 9 o) ∧ o.legal Names.scalar Names.scalar Names.nothing false =
        true) ∧
    (∃ (s : State) (o : Opnd) (t : Fin 16), o.legal Names.scalar Names.scalar Names.nothing false = true ∧
      s.threadAt t (Code.low 9 o)) ∧
    (∃ (s : State) (o : Opnd) (n : Fin 48) (imm : Word), s.pressAt n (Code.long 0 0 o imm) ∧ o.low = 0 ∧
      o.legal Names.scalar Names.nothing Names.code false = true) ∧
    (∃ (s : State) (o : Opnd) (n : Fin 48) (imm : Word), s.pressAt n (Code.long 1 0 o imm) ∧ o.low = 0 ∧
      o.legal Names.vector Names.nothing Names.code true = true) ∧
    (∃ (s : State) (o : Opnd) (n : Fin 48), s.pressAt n (Code.op 10 0 o) ∧
      o.legal Names.scalar Names.predicate Names.nothing false = true) ∧
    (∃ (s : State) (o : Opnd) (n : Fin 48), s.pressAt n (Code.op 10 1 o) ∧
      o.legal Names.predicate Names.scalar Names.nothing false = true) ∧
    (∃ (s : State) (o : Opnd) (n : Fin 48), s.pressAt n (Code.op 20 0 o) ∧
      o.legal Names.predicate Names.predicate Names.predicate false = true) ∧
    (∃ (s : State) (o : Opnd) (n : Fin 48), s.pressAt n (Code.op 20 1 o) ∧
      o.legal Names.predicate Names.predicate Names.predicate false = true) ∧
    (∃ (s : State) (o : Opnd) (n : Fin 48), s.pressAt n (Code.op 20 2 o) ∧
      o.legal Names.predicate Names.predicate Names.predicate false = true) ∧
    (∃ (s : State) (o : Opnd) (n : Fin 48), s.pressAt n (Code.op 20 3 o) ∧
      o.legal Names.predicate Names.predicate Names.predicate false = true) ∧
    (∃ (s : State) (o : Opnd) (n : Fin 48), s.pressAt n (Code.op 20 4 o) ∧
      o.legal Names.predicate Names.predicate Names.nothing false = true) ∧
    (∃ (s : State) (o : Opnd) (n : Fin 48), s.pressAt n (Code.op 20 5 o) ∧
      o.legal Names.predicate Names.nothing Names.nothing false = true) ∧
    (∃ (s : State) (o : Opnd) (n : Fin 48), s.pressAt n (Code.op 20 6 o) ∧
      o.legal Names.predicate Names.nothing Names.nothing false = true) ∧
    (∃ (s : State) (o : Opnd) (n : Fin 48), s.pressAt n (Code.op 20 7 o) ∧
      o.legal Names.predicate Names.nothing Names.nothing false = true) ∧
    (∃ (s : State) (o : Opnd) (n : Fin 48), s.pressAt n (Code.op 21 0 o) ∧
      o.legal Names.vector Names.scalar Names.nothing true = true) ∧
    (∃ (s : State) (o : Opnd) (n : Fin 48), s.pressAt n (Code.low 22 o) ∧
      o.legal Names.scalar Names.vector Names.nothing false = true) :=
  ⟨⟨(SOp.sub, Instr.sopSub), (atP ((.op 8 SOp.sub.code (opn 15 3 4 0 0))) sBun), (opn 15 3 4 0 0),
        (.op 8 SOp.sub.code (opn 15 3 4 0 0)), 47, by simp, pressAt_of (by decide +kernel), by decide +kernel⟩,
   ⟨(SOp.mul, Instr.sopMul), (atT (.op 8 SOp.mul.code (opn 15 3 4 0 0)) sThr), (opn 15 3 4 0 0),
        (.op 8 SOp.mul.code (opn 15 3 4 0 0)), 15, by simp, by decide +kernel⟩,
   ⟨(SOp.mulhu, Instr.sopMulhu), (atP (.long 4 SOp.mulhu.code ({ opn 15 3 0 0 0 with long := some 0x80000001 }) 0x80000001) sBun),
        { opn 15 3 0 0 0 with long := some 0x80000001 }, (.op 8 SOp.mulhu.code ({ opn 15 3 0 0 0 with long := some 0x80000001 })),
        47, 0x80000001, by simp, pressAt_of (by decide +kernel), by decide +kernel⟩,
   ⟨(atP (.low 9 (opn 15 3 0 0 128)) sBun), (opn 15 3 0 0 128), 47, pressAt_of (by decide +kernel), by decide +kernel⟩,
   ⟨(atT (.low 9 (opn 15 3 0 0 255)) sThr), (opn 15 3 0 0 255), 15, by decide +kernel⟩,
   ⟨(atP (.long 0 0 (opn 15 0 0 0 0) 0xFFFFFFFF) sBun), (opn 15 0 0 0 0), 47, 0xFFFFFFFF, pressAt_of (by decide +kernel),
        by decide +kernel⟩,
   ⟨(atP (.long 1 0 (opn 31 0 0 7 0) 0xFFFFFFFF) sBun), (opn 31 0 0 7 0), 47, 0xFFFFFFFF, pressAt_of (by decide +kernel),
        by decide +kernel⟩,
   ⟨(atP (.op 10 0 (opn 15 7 0 0 0)) sBun), (opn 15 7 0 0 0), 47, pressAt_of (by decide +kernel), by decide +kernel⟩,
   ⟨(atP (.op 10 1 (opn 7 15 0 0 0)) sBun), (opn 7 15 0 0 0), 47, pressAt_of (by decide +kernel), by decide +kernel⟩,
   ⟨(atP (.op 20 0 (opn 7 7 6 0 0)) sBun), (opn 7 7 6 0 0), 47, pressAt_of (by decide +kernel), by decide +kernel⟩,
   ⟨(atP (.op 20 1 (opn 7 7 6 0 0)) sBun), (opn 7 7 6 0 0), 47, pressAt_of (by decide +kernel), by decide +kernel⟩,
   ⟨(atP (.op 20 2 (opn 7 7 6 0 0)) sBun), (opn 7 7 6 0 0), 47, pressAt_of (by decide +kernel), by decide +kernel⟩,
   ⟨(atP (.op 20 3 (opn 7 7 6 0 0)) sBun), (opn 7 7 6 0 0), 47, pressAt_of (by decide +kernel), by decide +kernel⟩,
   ⟨(atP (.op 20 4 (opn 7 7 0 0 0)) sBun), (opn 7 7 0 0 0), 47, pressAt_of (by decide +kernel), by decide +kernel⟩,
   ⟨(atP (.op 20 5 (opn 7 0 0 0 0)) sBun), (opn 7 0 0 0 0), 47, pressAt_of (by decide +kernel), by decide +kernel⟩,
   ⟨(atP (.op 20 6 (opn 7 0 0 0 0)) sBun), (opn 7 0 0 0 0), 47, pressAt_of (by decide +kernel), by decide +kernel⟩,
   ⟨(atP (.op 20 7 (opn 7 0 0 0 0)) sBun), (opn 7 0 0 0 0), 47, pressAt_of (by decide +kernel), by decide +kernel⟩,
   ⟨(atP (.op 21 0 (opn 31 15 0 7 0)) sBun), (opn 31 15 0 7 0), 47, pressAt_of (by decide +kernel), by decide +kernel⟩,
   ⟨(atP (.low 22 (opn 15 31 0 0 15)) sBun), (opn 15 31 0 0 15), 47, pressAt_of (by decide +kernel), by decide +kernel⟩⟩

/-- States and operands that meet the hypotheses of VectorLanesFollowTheirPredicate, clause by clause. -/
theorem witness_VectorLanesFollowTheirPredicate :
    (∃ (x : VOp × (Fin 48 → VForm → BitVec 3 → Opnd → Instr)) (s : State) (n : Fin 48) (form : VForm) (ty : BitVec 3) (o : Opnd) (c
        : Code), x ∈ [(VOp.mov, Instr.vopMov), (VOp.add, Instr.vopAdd), (VOp.sub, Instr.vopSub), (VOp.rsub, Instr.vopRsub),
        (VOp.mul, Instr.vopMul), (VOp.mad, Instr.vopMad), (VOp.min, Instr.vopMin), (VOp.max, Instr.vopMax), (VOp.abs,
        Instr.vopAbs), (VOp.neg, Instr.vopNeg), (VOp.and, Instr.vopAnd), (VOp.or, Instr.vopOr), (VOp.xor, Instr.vopXor),
        (VOp.andn, Instr.vopAndn), (VOp.shl, Instr.vopShl), (VOp.shr, Instr.vopShr), (VOp.sra, Instr.vopSra), (VOp.floor,
        Instr.vopFloor), (VOp.rcp, Instr.vopRcp), (VOp.rsq, Instr.vopRsq), (VOp.cvt, Instr.vopCvt), (VOp.swaph, Instr.vopSwaph)] ∧
      s.pressAt n c ∧ c = Code.vec 16 5 ty x.fst.code form o ∧ vopLegal x.fst form ty o = true) ∧
    (∃ (x : VCond × (Fin 48 → VForm → BitVec 3 → Opnd → Instr)) (s : State) (n : Fin 48) (form : VForm) (ty : BitVec 3) (o : Opnd)
        (c : Code), x ∈ [(VCond.eq, Instr.vcmpEq), (VCond.ne, Instr.vcmpNe), (VCond.lt, Instr.vcmpLt), (VCond.le, Instr.vcmpLe),
        (VCond.gt, Instr.vcmpGt), (VCond.ge, Instr.vcmpGe), (VCond.ltu, Instr.vcmpLtu), (VCond.geu, Instr.vcmpGeu)] ∧
      s.pressAt n c ∧ c = Code.vec 18 6 ty x.fst.code form o ∧ vcmpLegal x.fst form ty o = true) :=
  ⟨⟨(VOp.mad, Instr.vopMad), (atP ((.vec 16 5 0 VOp.mad.code .vv (opn 31 3 31 7 0))) sBun), 47, .vv, 0, (opn 31 3 31 7 0),
        (.vec 16 5 0 VOp.mad.code .vv (opn 31 3 31 7 0)), by simp, pressAt_of (by decide +kernel), by decide +kernel⟩,
   ⟨(VCond.lt, Instr.vcmpLt), (atP ((.vec 18 6 0 VCond.lt.code (.imm 512) (opn 7 31 0 7 0))) sBun), 47, (.imm 512), 0,
        (opn 7 31 0 7 0), (.vec 18 6 0 VCond.lt.code (.imm 512) (opn 7 31 0 7 0)), by simp, pressAt_of (by decide +kernel),
        by decide +kernel⟩⟩

/-- States and operands that meet the hypotheses of PressMemoryIsItsLocalStore, clause by clause. -/
theorem witness_PressMemoryIsItsLocalStore :
    (∃ (s : State) (n : Fin 48) (o : Opnd) (p : Press) (a : Nat) (ld st : Code), p = s.press[n] ∧ s.pressAt n ld ∧
      ld = Code.low 32 o ∧ st = Code.low 33 o ∧ a = BitVec.toNat (p.sreg o.srcA + BitVec.ofNat 32 (4 * o.low.toNat)) ∧
      o.legal Names.scalar Names.scalar Names.nothing false = true ∧ a % 4 = 0 ∧ a < 122880) ∧
    (∃ (s : State) (n : Fin 48) (o : Opnd) (p : Press) (a : Nat) (ld st : Code), p = s.press[n] ∧ s.pressAt n st ∧
      ld = Code.low 32 o ∧ st = Code.low 33 o ∧ a = BitVec.toNat (p.sreg o.srcA + BitVec.ofNat 32 (4 * o.low.toNat)) ∧
      o.legal Names.scalar Names.scalar Names.nothing false = true ∧ a % 4 = 0 ∧ a < 122880) ∧
    (∃ (s : State) (n : Fin 48) (o : Opnd) (p : Press) (a : Nat) (ld st : Code) (h : EccHit), p = s.press[n] ∧ s.pressAt n ld ∧
      ld = Code.low 32 o ∧ st = Code.low 33 o ∧ a = BitVec.toNat (p.sreg o.srcA + BitVec.ofNat 32 (4 * o.low.toNat)) ∧
      o.legal Names.scalar Names.scalar Names.nothing false = true ∧ a % 4 = 0 ∧ a < 122880 ∧
      h.addr / 8 = (102760448 + n.val * 131072 + a) / 8 ∧ h.addr < 549755813888 ∧ h.fixed = true) ∧
    (∃ (s : State) (n : Fin 48) (o : Opnd) (p : Press) (a : Nat) (ld st : Code) (h : EccHit), p = s.press[n] ∧ s.pressAt n ld ∧
      ld = Code.low 32 o ∧ st = Code.low 33 o ∧ a = BitVec.toNat (p.sreg o.srcA + BitVec.ofNat 32 (4 * o.low.toNat)) ∧
      o.legal Names.scalar Names.scalar Names.nothing false = true ∧ a % 4 = 0 ∧ a < 122880 ∧
      h.addr / 8 = (102760448 + n.val * 131072 + a) / 8 ∧ h.addr < 549755813888 ∧ h.fixed = false) ∧
    (∃ (s : State) (n : Fin 48) (o : Opnd) (p : Press) (a : Nat) (ld st : Code) (b : Bundle) (l : AngleLatch), p = s.press[n] ∧
      s.pressAt n ld ∧ ld = Code.low 32 o ∧ st = Code.low 33 o ∧
      a = BitVec.toNat (p.sreg o.srcA + BitVec.ofNat 32 (4 * o.low.toNat)) ∧
      o.legal Names.scalar Names.scalar Names.nothing false = true ∧ a % 4 = 0 ∧ 122880 ≤ a ∧ a < 131072 ∧
      p.does = PressDoes.bundle b ∧ s.latchOf b.frame = some l) ∧
    (∃ (s : State) (n : Fin 48) (o : Opnd) (p : Press) (a : Nat) (ld st : Code), p = s.press[n] ∧ s.pressAt n ld ∧
      ld = Code.low 32 o ∧ st = Code.low 33 o ∧ a = BitVec.toNat (p.sreg o.srcA + BitVec.ofNat 32 (4 * o.low.toNat)) ∧
      o.legal Names.scalar Names.scalar Names.nothing false = true ∧ (a % 4 ≠ 0 ∨ 131072 < a + 4)) ∧
    (∃ (s : State) (n : Fin 48) (o : Opnd) (p : Press) (a : Nat) (ld st : Code), p = s.press[n] ∧ s.pressAt n st ∧
      ld = Code.low 32 o ∧ st = Code.low 33 o ∧ a = BitVec.toNat (p.sreg o.srcA + BitVec.ofNat 32 (4 * o.low.toNat)) ∧
      o.legal Names.scalar Names.scalar Names.nothing false = true ∧ (a % 4 ≠ 0 ∨ 122880 < a + 4)) ∧
    (∃ (s : State) (n : Fin 48) (o : Opnd) (p : Press) (a : Nat) (ld st : Code), p = s.press[n] ∧ s.pressAt n ld ∧
      ld = Code.low 34 o ∧ st = Code.low 35 o ∧ a = BitVec.toNat (p.sreg o.srcA + BitVec.ofNat 32 (64 * o.low.toNat)) ∧
      o.legal Names.vector Names.scalar Names.nothing true = true ∧ a % 64 = 0 ∧ a + 64 ≤ 122880) ∧
    (∃ (s : State) (n : Fin 48) (o : Opnd) (p : Press) (a : Nat) (ld st : Code), p = s.press[n] ∧ s.pressAt n st ∧
      ld = Code.low 34 o ∧ st = Code.low 35 o ∧ a = BitVec.toNat (p.sreg o.srcA + BitVec.ofNat 32 (64 * o.low.toNat)) ∧
      o.legal Names.vector Names.scalar Names.nothing true = true ∧ a % 64 = 0 ∧ a + 64 ≤ 122880) ∧
    (∃ (s : State) (n : Fin 48) (o : Opnd) (p : Press) (a : Fin 16 → Nat), p = s.press[n] ∧ s.pressAt n (Code.low 36 o) ∧
      (∀ (k : Fin 16), a k = BitVec.toNat (p.sreg o.srcA + (p.vreg o.srcB)[k] + BitVec.ofNat 32 (4 * o.low.toNat))) ∧
      o.legal Names.vector Names.scalar Names.vector true = true ∧
      (∀ (k : Fin 16), (p.lanes o.pred).getLsbD ↑k = true → a k % 4 = 0 ∧ a k < 122880)) ∧
    (∃ (s : State) (n : Fin 48) (o : Opnd) (p : Press) (a : Fin 16 → Nat), p = s.press[n] ∧ s.pressAt n (Code.low 38 o) ∧
      (∀ (k : Fin 16), a k = BitVec.toNat (p.sreg o.srcA + (p.vreg o.srcB)[k] + BitVec.ofNat 32 (4 * o.low.toNat))) ∧
      o.legal Names.vector Names.scalar Names.vector true = true ∧
      (∀ (k : Fin 16), (p.lanes o.pred).getLsbD ↑k = true → a k % 4 = 0 ∧ a k < 122880)) ∧
    (∃ (s : State) (n : Fin 48) (o : Opnd) (p : Press) (a : Fin 16 → Nat), p = s.press[n] ∧ s.pressAt n (Code.low 37 o) ∧
      (∀ (k : Fin 16), a k = BitVec.toNat (p.sreg o.srcA + (p.vreg o.srcB)[k] + BitVec.ofNat 32 (4 * o.low.toNat))) ∧
      o.legal Names.pair Names.scalar Names.vector true = true ∧
      (∀ (k : Fin 16), (p.lanes o.pred).getLsbD ↑k = true → a k % 8 = 0 ∧ a k < 122880)) ∧
    (∃ (s : State) (n : Fin 48) (o : Opnd) (p : Press) (a b len : Nat) (c : Instr) (k : BitVec 6) (ecc : List EccHit),
        p = s.press[n] ∧
      s.pressAt n (Code.low k o) ∧ o.legal Names.nothing Names.scalar Names.scalar false = true ∧ o.low ≠ 0 ∧
      a = BitVec.toNat (p.sreg o.srcA) ∧ b = BitVec.toNat (p.sreg o.srcB) ∧ len = 64 * o.low.toNat ∧ a % 64 = 0 ∧ b % 64 = 0 ∧
      a + len ≤ 122880 ∧ (c = Instr.xferOut n o ecc ∧ k = 40 ∨ c = Instr.xferIn n o ecc ∧ k = 41) ∧ s.spillOk b len = false) ∧
    (∃ (s : State) (n : Fin 48) (o : Opnd) (p : Press) (a b len : Nat) (c : Instr) (k : BitVec 6) (ecc : List EccHit),
        p = s.press[n] ∧
      s.pressAt n (Code.low k o) ∧ o.legal Names.nothing Names.scalar Names.scalar false = true ∧ o.low ≠ 0 ∧
      a = BitVec.toNat (p.sreg o.srcA) ∧ b = BitVec.toNat (p.sreg o.srcB) ∧ len = 64 * o.low.toNat ∧ a % 64 = 0 ∧ b % 64 = 0 ∧
      a + len ≤ 122880 ∧ (c = Instr.xferOut n o ecc ∧ k = 40 ∨ c = Instr.xferIn n o ecc ∧ k = 41) ∧ s.spillOk b len = true ∧
      s.dramGrants (DramSource.spill n) = false) ∧
    (∃ (s : State) (n : Fin 48) (o : Opnd) (p : Press) (a b len w : Nat), p = s.press[n] ∧ s.pressAt n (Code.low 40 o) ∧
      o.legal Names.nothing Names.scalar Names.scalar false = true ∧ o.low ≠ 0 ∧ a = BitVec.toNat (p.sreg o.srcA) ∧
      b = BitVec.toNat (p.sreg o.srcB) ∧ len = 64 * o.low.toNat ∧ a % 64 = 0 ∧ b % 64 = 0 ∧ a + len ≤ 122880 ∧
      s.spillOk b len = true ∧ s.dramGrants (DramSource.spill n) = true ∧ s.dram.entering = false ∧
      w = s.get F.PRESS_SPILL_BASE_BASE * 65536 + n.val * (s.get F.PRESS_SPILL_WIN_WIN_64K * 65536) + b ∧ 549755813888 ≤ w ∧
      (∀ (i : Nat), i < len → s.dramData (w + i) = true)) ∧
    (∃ (s : State) (n : Fin 48) (o : Opnd) (p : Press) (a b len w : Nat), p = s.press[n] ∧ s.pressAt n (Code.low 41 o) ∧
      o.legal Names.nothing Names.scalar Names.scalar false = true ∧ o.low ≠ 0 ∧ a = BitVec.toNat (p.sreg o.srcA) ∧
      b = BitVec.toNat (p.sreg o.srcB) ∧ len = 64 * o.low.toNat ∧ a % 64 = 0 ∧ b % 64 = 0 ∧ a + len ≤ 122880 ∧
      s.spillOk b len = true ∧ s.dramGrants (DramSource.spill n) = true ∧ s.dram.entering = false ∧
      w = s.get F.PRESS_SPILL_BASE_BASE * 65536 + n.val * (s.get F.PRESS_SPILL_WIN_WIN_64K * 65536) + b ∧ 549755813888 ≤ w ∧
      (∀ (i : Nat), i < len → s.dramData (w + i) = true)) :=
  ⟨⟨(atP (.low 32 (opn 15 3 0 0 255)) (setR sBun 3 0x1DC00)), 47, (opn 15 3 0 0 255), _, 0x1dffc, (.low 32 (opn 15 3 0 0 255)),
        (.low 33 (opn 15 3 0 0 255)), rfl, pressAt_of (by decide +kernel), by decide +kernel⟩,
   ⟨(atP (.low 33 (opn 15 3 0 0 255)) (setR sBun 3 0x1DC00)), 47, (opn 15 3 0 0 255), _, 0x1dffc, (.low 32 (opn 15 3 0 0 255)),
        (.low 33 (opn 15 3 0 0 255)), rfl, pressAt_of (by decide +kernel), by decide +kernel⟩,
   ⟨(atP (.low 32 (opn 15 3 0 0 255)) (setR sBun 3 0x1DC00)), 47, (opn 15 3 0 0 255), _, 0x1dffc, (.low 32 (opn 15 3 0 0 255)),
        (.low 33 (opn 15 3 0 0 255)), ⟨0x06200000 + 47 * 0x20000 + 0x1DFF8, true⟩, rfl, pressAt_of (by decide +kernel),
        by decide +kernel⟩,
   ⟨(atP (.low 32 (opn 15 3 0 0 255)) (setR sBun 3 0x1DC00)), 47, (opn 15 3 0 0 255), _, 0x1dffc, (.low 32 (opn 15 3 0 0 255)),
        (.low 33 (opn 15 3 0 0 255)), ⟨0x06200000 + 47 * 0x20000 + 0x1DFFC, false⟩, rfl, pressAt_of (by decide +kernel),
        by decide +kernel⟩,
   ⟨(atP (.low 32 (opn 15 3 0 0 0)) (setR sBun 3 0x1E000)), 47, (opn 15 3 0 0 0), _, 0x1e000, (.low 32 (opn 15 3 0 0 0)),
        (.low 33 (opn 15 3 0 0 0)), bundle0, latch0, rfl, pressAt_of (by decide +kernel), by decide +kernel⟩,
   ⟨(atP (.low 32 (opn 15 3 0 0 0)) (setR sBun 3 0x1FFFD)), 47, (opn 15 3 0 0 0), _, 0x1fffd, (.low 32 (opn 15 3 0 0 0)),
        (.low 33 (opn 15 3 0 0 0)), rfl, pressAt_of (by decide +kernel), by decide +kernel⟩,
   ⟨(atP (.low 33 (opn 15 3 0 0 0)) (setR sBun 3 0x1DFFD)), 47, (opn 15 3 0 0 0), _, 0x1dffd, (.low 32 (opn 15 3 0 0 0)),
        (.low 33 (opn 15 3 0 0 0)), rfl, pressAt_of (by decide +kernel), by decide +kernel⟩,
   ⟨(atP (.low 34 (opn 31 3 0 7 0)) (setR sBun 3 0x1DFC0)), 47, (opn 31 3 0 7 0), _, 0x1DFC0, (.low 34 (opn 31 3 0 7 0)),
        (.low 35 (opn 31 3 0 7 0)), rfl, pressAt_of (by decide +kernel), by decide +kernel⟩,
   ⟨(atP (.low 35 (opn 31 3 0 7 0)) (setR sBun 3 0x1DFC0)), 47, (opn 31 3 0 7 0), _, 0x1DFC0, (.low 34 (opn 31 3 0 7 0)),
        (.low 35 (opn 31 3 0 7 0)), rfl, pressAt_of (by decide +kernel), by decide +kernel⟩,
   ⟨(atP (.low 36 (opn 31 3 0 7 255)) (setR sBun 3 4)), 47, (opn 31 3 0 7 255), _, (fun k => 64 * k.val + 1024), rfl,
        pressAt_of (by decide +kernel), by decide +kernel⟩,
   ⟨(atP (.low 38 (opn 31 3 0 7 255)) (setR sBun 3 4)), 47, (opn 31 3 0 7 255), _, (fun k => 64 * k.val + 1024), rfl,
        pressAt_of (by decide +kernel), by decide +kernel⟩,
   ⟨(atP (.low 37 (opn 30 3 0 7 255)) (setR sBun 3 4)), 47, (opn 30 3 0 7 255), _, (fun k => 64 * k.val + 1024), rfl,
        pressAt_of (by decide +kernel), by decide +kernel⟩,
   ⟨(atP (.low 40 (opn 0 0 1 0 1)) (setR (setR sBun 0 64) 1 128)), 47, (opn 0 0 1 0 1), _, 64, 128, 64,
        (.xferOut 47 (opn 0 0 1 0 1) []), 40, ([]), rfl, pressAt_of (by decide +kernel), by decide +kernel⟩,
   ⟨(atP (.low 41 (opn 0 0 1 0 1)) (sSpill.put (F.PLL_CTL_LOCK 2) 0)), 47, (opn 0 0 1 0 1), _, 64, 128, 64,
        (.xferIn 47 (opn 0 0 1 0 1) []), 41, ([]), rfl, pressAt_of (by decide +kernel), by decide +kernel⟩,
   ⟨(atP (.low 40 (opn 0 0 1 0 1)) sSpill), 47, (opn 0 0 1 0 1), _, 64, 128, 64, (0x800000 * 65536 + 47 * 65536 + 128), rfl,
        pressAt_of (by decide +kernel), by decide +kernel⟩,
   ⟨(atP (.low 41 (opn 0 0 1 0 1)) sSpill), 47, (opn 0 0 1 0 1), _, 64, 128, 64, (0x800000 * 65536 + 47 * 65536 + 128), rfl,
        pressAt_of (by decide +kernel), by decide +kernel⟩⟩

/-- States and operands that meet the hypotheses of SynthesisPrimitives, clause by clause. -/
theorem witness_SynthesisPrimitives :
    (∃ (x : (Fin 48 → Opnd → Instr) × Nat) (s : State) (n : Fin 48) (o : Opnd) (c : Code) (b : Bundle) (a : AngleLatch),
        x ∈ [(Instr.raygenOrgX, 0), (Instr.raygenOrgY, 1), (Instr.raygenTanU, 2), (Instr.raygenTanW, 3), (Instr.raygenGain, 4),
        (Instr.raygenDir, 5)] ∧
      s.pressAt n c ∧ c = Code.op 48 (BitVec.ofNat 8 x.snd) o ∧ o.legal Names.vector Names.nothing Names.nothing true = true ∧
      s.press[n].does = PressDoes.bundle b ∧ s.latchOf b.frame = some a) ∧
    (∃ (x : (Fin 48 → Opnd → Instr) × Nat) (s : State) (n : Fin 48) (o : Opnd) (c : Code) (j : PressJob), x ∈ [(Instr.raygenOrgX,
        0), (Instr.raygenOrgY, 1), (Instr.raygenTanU, 2), (Instr.raygenTanW, 3), (Instr.raygenGain, 4), (Instr.raygenDir, 5)] ∧
      s.pressAt n c ∧ c = Code.op 48 (BitVec.ofNat 8 x.snd) o ∧ o.legal Names.vector Names.nothing Names.nothing true = true ∧
      s.press[n].does = PressDoes.job j) ∧
    (∃ (s : State) (n : Fin 48) (o : Opnd) (b : Bundle) (a : AngleLatch) (q : Press) (ex : BitVec 16) (taps : Fin 16 → Option (List
        (Nat × Sample) × Bool)), q = s.press[n] ∧
      s.pressAt n (Code.op 49 0 o) ∧ q.does = PressDoes.bundle b ∧ s.latchOf b.frame = some a ∧ ex = q.lanes o.pred ∧
      (∀ (k : Fin 16), taps k = s.taps a.hdr a.half (BitVec.toNat (q.vreg o.dst)[k] % 16) (BitVec.getLsbD (q.vreg o.dst)[k] 4)
        (q.vreg o.srcA)[k] (q.vreg o.srcB)[k]) ∧
      o.legal Names.vector Names.vector Names.vector true = true) ∧
    (∃ (s : State) (n : Fin 48) (o : Opnd) (b : Bundle) (a : AngleLatch) (q : Press) (ex : BitVec 16) (taps : Fin 16 → Option (List
        (Nat × Sample) × Bool)), q = s.press[n] ∧
      s.pressAt n (Code.op 50 0 o) ∧ q.does = PressDoes.bundle b ∧ s.latchOf b.frame = some a ∧ ex = q.lanes o.pred ∧
      (∀ (k : Fin 16), taps k = s.taps a.hdr a.half (BitVec.toNat (q.vreg o.dst)[k] % 16) (BitVec.getLsbD (q.vreg o.dst)[k] 4)
        (q.vreg o.srcA)[k] (q.vreg o.srcB)[k]) ∧
      o.legal Names.pair Names.vector Names.vector true = true) ∧
    (∃ (s : State) (n : Fin 48) (o : Opnd) (b : Bundle) (a : AngleLatch) (q : Press) (ex : BitVec 16) (taps : Fin 16 → Option (List
        (Nat × Sample) × Bool)), q = s.press[n] ∧
      s.pressAt n (Code.op 54 0 o) ∧ q.does = PressDoes.bundle b ∧ s.latchOf b.frame = some a ∧ ex = q.lanes o.pred ∧
      (∀ (k : Fin 16), taps k = s.taps a.hdr a.half (BitVec.toNat (q.vreg o.dst)[k] % 16) (BitVec.getLsbD (q.vreg o.dst)[k] 4)
        (q.vreg o.srcA)[k] (q.vreg o.srcB)[k]) ∧
      o.legal Names.nothing Names.pair Names.nothing true = true ∧ b.discard = true) ∧
    (∃ (s : State) (n : Fin 48) (o : Opnd) (b : Bundle) (a : AngleLatch) (q : Press) (ex : BitVec 16) (taps : Fin 16 → Option (List
        (Nat × Sample) × Bool)), q = s.press[n] ∧
      s.pressAt n (Code.op 54 0 o) ∧ q.does = PressDoes.bundle b ∧ s.latchOf b.frame = some a ∧ ex = q.lanes o.pred ∧
      (∀ (k : Fin 16), taps k = s.taps a.hdr a.half (BitVec.toNat (q.vreg o.dst)[k] % 16) (BitVec.getLsbD (q.vreg o.dst)[k] 4)
        (q.vreg o.srcA)[k] (q.vreg o.srcB)[k]) ∧
      o.legal Names.nothing Names.pair Names.nothing true = true ∧ b.discard = false) ∧
    (∃ (s : State) (n : Fin 48) (o : Opnd), s.pressAt n (Code.low 51 o) ∧ o.legal Names.pair Names.pair Names.vector true = true ∧
      1 ≤ o.low.toNat ∧ o.low.toNat ≤ 4 ∧ o.srcA.toNat + 2 * o.low.toNat ≤ 32) ∧
    (∃ (s : State) (n : Fin 48) (o : Opnd), s.pressAt n (Code.low 52 o) ∧ o.legal Names.pair Names.pair Names.pair true = true ∧
      o.low.toNat < 2) ∧
    (∃ (s : State) (n : Fin 48) (o : Opnd) (f : Press → Fin 16 → Nat → Nat → Nat), s.pressAt n (Code.low 53 o) ∧
      (∀ (p : Press) (k : Fin 16) (i v : Nat), f p k i v = s.curve (s.lutBank n) i (o.low.getLsbD 0) (p.pair o.srcA k).a
        (BitVec.toNat (p.vreg o.srcB)[k] / 32 ^ i % 32) v % 4096) ∧
      o.legal Names.pair Names.pair Names.vector true = true ∧ o.low.toNat < 2) ∧
    (∃ l : List (Nat × Rgba), ((List.map (fun (x : Nat × Rgba) => x.fst) l).sum ≠ 0)) ∧
    (∃ l : List (Nat × Rgba), ((List.map (fun (x : Nat × Rgba) => x.fst) l).sum = 0)) :=
  ⟨⟨(Instr.raygenTanU, 2), (atP (.op 48 2 (opn 31 0 0 7 0)) sBun), 47, (opn 31 0 0 7 0), (.op 48 2 (opn 31 0 0 7 0)), bundle0,
        latch0, by simp, pressAt_of (by decide +kernel), by decide +kernel⟩,
   ⟨(Instr.raygenDir, 5), (atP (.op 48 5 (opn 31 0 0 7 0)) sJobR), 47, (opn 31 0 0 7 0), (.op 48 5 (opn 31 0 0 7 0)), jobA,
        by simp, pressAt_of (by decide +kernel), by decide +kernel⟩,
   ⟨(atP (.op 49 0 (opn 31 3 4 7 0)) sBun), 47, (opn 31 3 4 7 0), bundle0, latch0, _,
        (((atP (.op 49 0 (opn 31 3 4 7 0)) sBun).press[(47 : Fin 48)]).lanes 7),
        (tapsA (atP (.op 49 0 (opn 31 3 4 7 0)) sBun) (opn 31 3 4 7 0)), rfl, pressAt_of (by decide +kernel), by decide +kernel⟩,
   ⟨(atP (.op 50 0 (opn 30 3 4 7 0)) sBun), 47, (opn 30 3 4 7 0), bundle0, latch0, _,
        (((atP (.op 50 0 (opn 30 3 4 7 0)) sBun).press[(47 : Fin 48)]).lanes 7),
        (tapsA (atP (.op 50 0 (opn 30 3 4 7 0)) sBun) (opn 30 3 4 7 0)), rfl, pressAt_of (by decide +kernel), by decide +kernel⟩,
   ⟨(atP (.op 54 0 (opn 0 30 0 7 0)) sDisc), 47, (opn 0 30 0 7 0), { bundle0 with discard := true }, latch0, _,
        (((atP (.op 54 0 (opn 0 30 0 7 0)) sDisc).press[(47 : Fin 48)]).lanes 7),
        (tapsA (atP (.op 54 0 (opn 0 30 0 7 0)) sDisc) (opn 0 30 0 7 0)), rfl, pressAt_of (by decide +kernel), by decide +kernel⟩,
   ⟨(atP (.op 54 0 (opn 0 30 0 7 0)) sBun), 47, (opn 0 30 0 7 0), bundle0, latch0, _,
        (((atP (.op 54 0 (opn 0 30 0 7 0)) sBun).press[(47 : Fin 48)]).lanes 7),
        (tapsA (atP (.op 54 0 (opn 0 30 0 7 0)) sBun) (opn 0 30 0 7 0)), rfl, pressAt_of (by decide +kernel), by decide +kernel⟩,
   ⟨(atP (.low 51 (opn 30 24 5 7 4)) sBun), 47, (opn 30 24 5 7 4), pressAt_of (by decide +kernel), by decide +kernel⟩,
   ⟨(atP (.low 52 (opn 30 24 4 7 1)) sBun), 47, (opn 30 24 4 7 1), pressAt_of (by decide +kernel), by decide +kernel⟩,
   ⟨(atP (.low 53 (opn 30 24 5 7 1)) sBun), 47, (opn 30 24 5 7 1), (fun p k i v => (atP (.low 53 (opn 30 24 5 7 1)) sBun).curve
        ((atP (.low 53 (opn 30 24 5 7 1)) sBun).lutBank 47) i true (p.pair 24 k).a ((p.vreg 5)[k].toNat / 32 ^ i % 32) v % 4096),
        pressAt_of (by decide +kernel), fun _ _ _ _ => rfl, by decide +kernel⟩,
   ⟨([(1, ⟨3, 4, 5, 6⟩), (2, ⟨30000, 4, 5, 6⟩)]), by decide +kernel⟩,
   ⟨([(0, ⟨3, 4, 5, 6⟩)]), by decide +kernel⟩⟩

/-- Operands without an immediate. -/
def opS (dst a b : Nat) (low : Nat) : Opnd := ⟨BitVec.ofNat 5 dst, BitVec.ofNat 5 a, BitVec.ofNat 5 b, 0, BitVec.ofNat 8 low, none⟩
/-- Thread 15 runs at the end of the instruction memory, its register i set as given; the time is 1,000. -/
def sT (i : Nat) (w : Word) (pc : Word) : State :=
  (runAt 1000).onThread 15 fun h => { h.setS (BitVec.ofNat 5 i) w with st := .ready, pc := pc }
def hT (i : Nat) (w : Word) (pc : Word) : Thread := (sT i w pc).seq.thr[(15 : Fin 16)]
/-- Comparator 4 holds a target to come. -/
def later (s : State) : State := s.setTarget 4 0x7FFFFF00
/-- The same with register 15 too. -/
def sT2 (i : Nat) (w v : Word) : State := (sT i w 0x3FFF0).onThread 15 fun h => h.setS 15 v
def hT2 (i : Nat) (w v : Word) : Thread := (sT2 i w v).seq.thr[(15 : Fin 16)]
/-- Source 1023 is active and routed to thread 15. -/
def sEvT (s : State) : State :=
  ((s.setReg (F.EVT_EN_addr 31) 0x80000000).setReg (F.EVT_STAT_addr 31) 0x80000000).setReg (F.EVT_ROUTE_addr 1023) 0x8000
/-- Thread 15 waits. -/
def sWaits (st : ThreadState) : State := (runAt 1000).onThread 15 fun h => { h with st := st, pc := 0x3FFF0 }
def hWaits (st : ThreadState) : Thread := (sWaits st).seq.thr[(15 : Fin 16)]
/-- Codec lane 31 takes jobs, the descriptors lie at 0x06A00000, Racking ring 3 is on. -/
def sKick (arg : Word) (w : Word) : State :=
  let s := ((sT 3 arg 0x3FFF0).store 0x06A00000 (bytesOfNat 4 w.toNat)).onLane 31 fun l => { l with mode := 2 }
  (s.put (F.RACK_RING_CFG_EN 3) 1).put (F.RACK_RING_SIZE_N 3) 4
def hK (arg : Word) (w : Word) : Thread := (sKick arg w).seq.thr[(15 : Fin 16)]
/-- Threads 3 and 15 are ready, 15 of higher priority. -/
def sTwo : State := ((sT 0 0 0).put (F.SEQ_THR_CTL_PRIO 15) 3).onThread 3 fun h => { h with st := .ready }

/-- States and operands that meet the hypotheses of ThreadsIssueInTurn, clause by clause. -/
theorem witness_ThreadsIssueInTurn :
    (∃ (s : State) (t : Fin 16), s.scheduled t = true) ∧
    (∃ (s : State) (t u : Fin 16), s.scheduled t = true ∧ s.scheduled u = true) ∧
    (∃ (s : State) (t : Fin 16) (sA : BitVec 5) (off : BitVec 16) (x : Int) (h : Thread) (c : Instr) (k : BitVec 5) (holds : Bool),
        h = s.seq.thr[t] ∧
      x = ↑(BitVec.toNat h.pc) + 4 * off.toInt ∧ s.threadAt t (Code.flow k sA off) ∧
      (c = Instr.flowB t sA off ∧ k = 0 ∧ sA = 0 ∧ holds = true ∨ sA.toNat < 16 ∧ (c = Instr.flowBz t sA off ∧ k = 1 ∧
        holds = decide (BitVec.toInt (h.sreg sA) = 0) ∨ c = Instr.flowBnz t sA off ∧ k = 2 ∧
        holds = decide (BitVec.toInt (h.sreg sA) ≠ 0) ∨ c = Instr.flowBltz t sA off ∧ k = 3 ∧
        holds = decide (BitVec.toInt (h.sreg sA) < 0) ∨ c = Instr.flowBgez t sA off ∧ k = 4 ∧
        holds = decide (0 ≤ BitVec.toInt (h.sreg sA)))) ∧
      holds = true ∧ 0 ≤ x ∧ x < 262144) ∧
    (∃ (s : State) (t : Fin 16) (sA : BitVec 5) (off : BitVec 16) (x : Int) (h : Thread) (c : Instr) (k : BitVec 5) (holds : Bool),
        h = s.seq.thr[t] ∧
      x = ↑(BitVec.toNat h.pc) + 4 * off.toInt ∧ s.threadAt t (Code.flow k sA off) ∧
      (c = Instr.flowB t sA off ∧ k = 0 ∧ sA = 0 ∧ holds = true ∨ sA.toNat < 16 ∧ (c = Instr.flowBz t sA off ∧ k = 1 ∧
        holds = decide (BitVec.toInt (h.sreg sA) = 0) ∨ c = Instr.flowBnz t sA off ∧ k = 2 ∧
        holds = decide (BitVec.toInt (h.sreg sA) ≠ 0) ∨ c = Instr.flowBltz t sA off ∧ k = 3 ∧
        holds = decide (BitVec.toInt (h.sreg sA) < 0) ∨ c = Instr.flowBgez t sA off ∧ k = 4 ∧
        holds = decide (0 ≤ BitVec.toInt (h.sreg sA)))) ∧
      holds = true ∧ (x < 0 ∨ 262144 ≤ x)) ∧
    (∃ (s : State) (t : Fin 16) (sA : BitVec 5) (off : BitVec 16) (x : Int) (h : Thread) (c : Instr) (k : BitVec 5) (holds : Bool),
        h = s.seq.thr[t] ∧
      x = ↑(BitVec.toNat h.pc) + 4 * off.toInt ∧ s.threadAt t (Code.flow k sA off) ∧
      (c = Instr.flowB t sA off ∧ k = 0 ∧ sA = 0 ∧ holds = true ∨ sA.toNat < 16 ∧ (c = Instr.flowBz t sA off ∧ k = 1 ∧
        holds = decide (BitVec.toInt (h.sreg sA) = 0) ∨ c = Instr.flowBnz t sA off ∧ k = 2 ∧
        holds = decide (BitVec.toInt (h.sreg sA) ≠ 0) ∨ c = Instr.flowBltz t sA off ∧ k = 3 ∧
        holds = decide (BitVec.toInt (h.sreg sA) < 0) ∨ c = Instr.flowBgez t sA off ∧ k = 4 ∧
        holds = decide (0 ≤ BitVec.toInt (h.sreg sA)))) ∧
      holds = false) ∧
    (∃ (s : State) (t : Fin 16) (sA : BitVec 5) (off : BitVec 16) (x : Int) (h : Thread), h = s.seq.thr[t] ∧
      x = ↑(BitVec.toNat h.pc) + 4 * off.toInt ∧ sA = 0 ∧ s.threadAt t (Code.flow 5 sA off) ∧ 0 ≤ x ∧ x < 262144) ∧
    (∃ (s : State) (t : Fin 16) (sA : BitVec 5) (off : BitVec 16) (x : Int) (h : Thread), h = s.seq.thr[t] ∧
      x = ↑(BitVec.toNat h.pc) + 4 * off.toInt ∧ sA = 0 ∧ s.threadAt t (Code.flow 6 sA off) ∧ off = 0 ∧
      BitVec.toNat (h.sreg 15) < 262144 ∧ BitVec.toNat (h.sreg 15) % 4 = 0) ∧
    (∃ (s : State) (t : Fin 16) (sA : BitVec 5) (off : BitVec 16) (x : Int) (h : Thread), h = s.seq.thr[t] ∧
      x = ↑(BitVec.toNat h.pc) + 4 * off.toInt ∧ sA = 0 ∧ s.threadAt t (Code.flow 7 sA off) ∧ off = 0) ∧
    (∃ (s : State) (t : Fin 16) (sA : BitVec 5) (off : BitVec 16) (x : Int) (h : Thread), h = s.seq.thr[t] ∧
      x = ↑(BitVec.toNat h.pc) + 4 * off.toInt ∧ s.threadAt t (Code.flow 1 sA off) ∧ 16 ≤ sA.toNat) ∧
    (∃ (s : State) (t : Fin 16) (off : BitVec 16) (x : Int) (h : Thread), h = s.seq.thr[t] ∧
      x = ↑(BitVec.toNat h.pc) + 4 * off.toInt ∧ s.up = true ∧ s.scheduled t = true ∧
      definedSeq (s.word (seqBase + BitVec.toNat h.pc)) = false) ∧
    (∃ (s : State) (t : Fin 16) (sA : BitVec 5) (off : BitVec 16) (x : Int) (h : Thread) (imm : BitVec 16), h = s.seq.thr[t] ∧
      x = ↑(BitVec.toNat h.pc) + 4 * off.toInt ∧ sA.toNat < 16 ∧ s.threadAt t (Code.simm sA 0 0 imm)) ∧
    (∃ (s : State) (t : Fin 16) (sA : BitVec 5) (off : BitVec 16) (x : Int) (h : Thread) (imm : BitVec 16), h = s.seq.thr[t] ∧
      x = ↑(BitVec.toNat h.pc) + 4 * off.toInt ∧ sA.toNat < 16 ∧ s.threadAt t (Code.simm sA 0 1 imm)) ∧
    (∃ (s : State) (t : Fin 16) (o : Opnd) (h : Thread) (a b : Word), h = s.seq.thr[t] ∧ a = h.sreg o.srcA ∧ b = h.sreg o.srcB ∧
      o.legal Names.nothing Names.scalar Names.nothing false = true ∧ s.threadAt t (Code.op 58 0 o) ∧ 0 ≤ sdiff s.now a) ∧
    (∃ (s : State) (t : Fin 16) (o : Opnd) (h : Thread) (a b : Word), h = s.seq.thr[t] ∧ a = h.sreg o.srcA ∧ b = h.sreg o.srcB ∧
      o.legal Names.nothing Names.scalar Names.nothing false = true ∧ s.threadAt t (Code.op 58 0 o) ∧ sdiff s.now a < 0) ∧
    (∃ (s : State) (t : Fin 16) (o : Opnd) (h : Thread) (a b : Word), h = s.seq.thr[t] ∧ a = h.sreg o.srcA ∧ b = h.sreg o.srcB ∧
      o.legal Names.nothing Names.scalar Names.nothing false = true ∧ s.threadAt t (Code.op 59 2 o)) ∧
    (∃ (s : State) (t : Fin 16) (o : Opnd) (h : Thread) (a b : Word) (u : Fin 16), h = s.seq.thr[t] ∧ a = h.sreg o.srcA ∧
      b = h.sreg o.srcB ∧ o.legal Names.nothing Names.scalar Names.nothing false = true ∧ s.threadAt t (Code.op 62 5 o) ∧
      u.val = BitVec.toNat a % 16) ∧
    (∃ (s : State) (t : Fin 16) (o : Opnd) (h : Thread) (a b : Word), h = s.seq.thr[t] ∧ a = h.sreg o.srcA ∧ b = h.sreg o.srcB ∧
      o.legal Names.scalar Names.nothing Names.nothing false = true ∧ s.threadAt t (Code.op 58 1 o)) ∧
    (∃ (s : State) (t : Fin 16) (o : Opnd) (h : Thread) (a b : Word) (k : Nat), h = s.seq.thr[t] ∧ a = h.sreg o.srcA ∧
      b = h.sreg o.srcB ∧ o.legal Names.scalar Names.nothing Names.nothing false = true ∧ s.threadAt t (Code.op 59 0 o) ∧
      s.evFor t.val = some k) ∧
    (∃ (s : State) (t : Fin 16) (o : Opnd) (h : Thread) (a b : Word), h = s.seq.thr[t] ∧ a = h.sreg o.srcA ∧ b = h.sreg o.srcB ∧
      o.legal Names.scalar Names.nothing Names.nothing false = true ∧ s.threadAt t (Code.op 59 0 o) ∧ s.evFor t.val = none) ∧
    (∃ (s : State) (t : Fin 16) (o : Opnd) (h : Thread) (a b : Word) (k : Nat), h = s.seq.thr[t] ∧ a = h.sreg o.srcA ∧
      b = h.sreg o.srcB ∧ o.legal Names.scalar Names.scalar Names.nothing false = true ∧ s.threadAt t (Code.op 59 1 o) ∧
      s.evFor t.val = some k) ∧
    (∃ (s : State) (t : Fin 16) (o : Opnd) (h : Thread) (a b : Word), h = s.seq.thr[t] ∧ a = h.sreg o.srcA ∧ b = h.sreg o.srcB ∧
      o.legal Names.scalar Names.scalar Names.nothing false = true ∧ s.threadAt t (Code.op 59 1 o) ∧ s.evFor t.val = none ∧
      0 ≤ sdiff s.now a) ∧
    (∃ (s : State) (t : Fin 16) (o : Opnd) (h : Thread) (a b : Word), h = s.seq.thr[t] ∧ a = h.sreg o.srcA ∧ b = h.sreg o.srcB ∧
      o.legal Names.scalar Names.scalar Names.nothing false = true ∧ s.threadAt t (Code.op 59 1 o) ∧ s.evFor t.val = none ∧
      sdiff s.now a < 0) ∧
    (∃ (s : State) (t : Fin 16) (o : Opnd) (h : Thread) (a b : Word), h = s.seq.thr[t] ∧ a = h.sreg o.srcA ∧ b = h.sreg o.srcB ∧
      o.legal Names.nothing Names.nothing Names.nothing false = true ∧ s.threadAt t (Code.op 59 3 o)) ∧
    (∃ (s : State) (t : Fin 16) (o : Opnd) (h : Thread) (a b : Word), h = s.seq.thr[t] ∧ a = h.sreg o.srcA ∧ b = h.sreg o.srcB ∧
      o.legal Names.nothing Names.nothing Names.scalar false = true ∧ s.threadAt t (Code.op 58 3 o) ∧ 4 ≤ BitVec.toNat b % 64 ∧
      s.due (BitVec.toNat b % 64) = false) ∧
    (∃ (s : State) (t : Fin 16) (o : Opnd) (h : Thread) (a b : Word), h = s.seq.thr[t] ∧ a = h.sreg o.srcA ∧ b = h.sreg o.srcB ∧
      o.legal Names.nothing Names.nothing Names.scalar false = true ∧ s.threadAt t (Code.op 58 3 o) ∧ 1 ≤ BitVec.toNat b % 64 ∧
      BitVec.toNat b % 64 ≤ 3) ∧
    (∃ (s : State) (t : Fin 16) (o : Opnd) (h : Thread) (a b : Word), h = s.seq.thr[t] ∧ a = h.sreg o.srcA ∧ b = h.sreg o.srcB ∧
      o.legal Names.nothing Names.scalar Names.scalar false = true ∧ s.threadAt t (Code.op 58 2 o) ∧ 4 ≤ BitVec.toNat b % 64 ∧
      s.due (BitVec.toNat b % 64) = false ∧ sdiff s.now a < 0) ∧
    (∃ (s : State) (t : Fin 16) (o : Opnd) (h : Thread) (a b : Word), h = s.seq.thr[t] ∧ a = h.sreg o.srcA ∧ b = h.sreg o.srcB ∧
      o.legal Names.nothing Names.scalar Names.scalar false = true ∧ s.threadAt t (Code.op 58 2 o) ∧ 4 ≤ BitVec.toNat b % 64 ∧
      s.due (BitVec.toNat b % 64) = false ∧ 0 ≤ sdiff s.now a) ∧
    (∃ (s : State) (t : Fin 16) (o : Opnd) (h : Thread) (a b : Word), h = s.seq.thr[t] ∧ a = h.sreg o.srcA ∧ b = h.sreg o.srcB ∧
      o.legal Names.nothing Names.scalar Names.scalar false = true ∧ s.threadAt t (Code.op 58 2 o) ∧ 1 ≤ BitVec.toNat b % 64 ∧
      BitVec.toNat b % 64 ≤ 3) ∧
    (∃ (s : State) (t : Fin 16) (o : Opnd) (h : Thread) (a b : Word) (u : Fin 16), h = s.seq.thr[t] ∧ a = h.sreg o.srcA ∧
      b = h.sreg o.srcB ∧ o.legal Names.nothing Names.scalar Names.scalar false = true ∧ s.threadAt t (Code.op 62 4 o) ∧
      u.val = BitVec.toNat a % 16 ∧ (s.seq.thr[u].st = ThreadState.stopped ∨ s.seq.thr[u].st = ThreadState.faulted) ∧
      BitVec.toNat b < 262144 ∧ BitVec.toNat b % 4 = 0) ∧
    (∃ (s : State) (t : Fin 16) (h : Thread) (x : Word), h = s.seq.thr[t] ∧ s.up = true ∧ BitVec.toNat h.pc % 4 = 0 ∧
      BitVec.toNat h.pc + 4 < 262144 ∧ h.st = ThreadState.waitAt x ∧ 0 ≤ sdiff s.now x) ∧
    (∃ (s : State) (t : Fin 16) (h : Thread) (x : Word), h = s.seq.thr[t] ∧ s.up = true ∧ BitVec.toNat h.pc % 4 = 0 ∧
      BitVec.toNat h.pc + 4 < 262144 ∧ h.st = ThreadState.waitAt x ∧ sdiff s.now x < 0) ∧
    (∃ (s : State) (t : Fin 16) (h : Thread) (d : BitVec 4) (x : Option Word) (k : Nat), h = s.seq.thr[t] ∧ s.up = true ∧
      BitVec.toNat h.pc % 4 = 0 ∧ BitVec.toNat h.pc + 4 < 262144 ∧ h.st = ThreadState.waitEv d x ∧ s.evFor t.val = some k) :=
  ⟨⟨sTwo, 15, by decide +kernel⟩,
   ⟨(sT 0 0 0), 15, 15, by decide +kernel⟩,
   ⟨(atT (.flow 0 0 1) (sT 0 0 0x3FFF0)), 15, 0, 1, (0x3FFF4), _, (.flowB 15 0 1), 0, true, rfl, by decide +kernel⟩,
   ⟨(atT (.flow 0 0 4) (sT 0 0 0x3FFF0)), 15, 0, 4, (0x40000), _, (.flowB 15 0 4), 0, true, rfl, by decide +kernel⟩,
   ⟨(atT (.flow 4 14 3) (sT 14 0x80000000 0x3FFF0)), 15, 14, 3, (0x3FFFC), _, (.flowBgez 15 14 3), 4, false, rfl,
        by decide +kernel⟩,
   ⟨(atT (.flow 5 0 3) (sT 0 0 0x3FFF0)), 15, 0, 3, (0x3FFFC), _, rfl, by decide +kernel⟩,
   ⟨(atT (.flow 6 0 0) (sT 15 0x3FFFC 0x3FFF0)), 15, 0, 0, (0x3FFF0), _, rfl, by decide +kernel⟩,
   ⟨(atT (.flow 7 0 0) (sT 15 0x3FFFC 0x3FFF0)), 15, 0, 0, (0x3FFF0), _, rfl, by decide +kernel⟩,
   ⟨(atT (.flow 1 16 0) (sT 0 0 0x3FFF0)), 15, 16, 0, (0x3FFF0), _, rfl, by decide +kernel⟩,
   ⟨(atT (.flow 10 0 0) (sT 0 0 0x3FFF0)), 15, 0, (0x3FFF0), _, rfl, by decide +kernel⟩,
   ⟨(atT (.simm 15 0 0 0xABCD) (sT 15 0x12345678 0x3FFF0)), 15, 15, 0, (0x3FFF0), _, 0xABCD, rfl, by decide +kernel⟩,
   ⟨(atT (.simm 15 0 1 0xABCD) (sT 15 0x12345678 0x3FFF0)), 15, 15, 0, (0x3FFF0), _, 0xABCD, rfl, by decide +kernel⟩,
   ⟨(atT (.op 58 0 (opS 0 3 0 0)) (sT 3 1000 0x3FFF0)), 15, (opS 0 3 0 0), _, 1000, 0, rfl, by decide +kernel⟩,
   ⟨(atT (.op 58 0 (opS 0 3 0 0)) (sT 3 1001 0x3FFF0)), 15, (opS 0 3 0 0), _, 1001, 0, rfl, by decide +kernel⟩,
   ⟨(atT (.op 59 2 (opS 0 3 0 0)) (sT 3 0x1F 0x3FFF0)), 15, (opS 0 3 0 0), _, 0x1F, 0, rfl, by decide +kernel⟩,
   ⟨(atT (.op 62 5 (opS 0 3 0 0)) (sT 3 0x10E 0x3FFF0)), 15, (opS 0 3 0 0), _, 0x10E, 0, 14, rfl, by decide +kernel⟩,
   ⟨(atT (.op 58 1 (opS 15 0 0 0)) (sT 3 7 0x3FFF0)), 15, (opS 15 0 0 0), _, 0, 0, rfl, by decide +kernel⟩,
   ⟨(atT (.op 59 0 (opS 15 0 0 0)) (sEvT (sT 3 7 0x3FFF0))), 15, (opS 15 0 0 0), _, 0, 0, 1023, rfl, by decide +kernel⟩,
   ⟨(atT (.op 59 0 (opS 15 0 0 0)) (sT 3 7 0x3FFF0)), 15, (opS 15 0 0 0), _, 0, 0, rfl, by decide +kernel⟩,
   ⟨(atT (.op 59 1 (opS 15 3 0 0)) (sEvT (sT 3 7 0x3FFF0))), 15, (opS 15 3 0 0), _, 7, 0, 1023, rfl, by decide +kernel⟩,
   ⟨(atT (.op 59 1 (opS 15 3 0 0)) (sT 3 1000 0x3FFF0)), 15, (opS 15 3 0 0), _, 1000, 0, rfl, by decide +kernel⟩,
   ⟨(atT (.op 59 1 (opS 15 3 0 0)) (sT 3 1001 0x3FFF0)), 15, (opS 15 3 0 0), _, 1001, 0, rfl, by decide +kernel⟩,
   ⟨(atT (.op 59 3 (opS 0 0 0 0)) (sT 3 1001 0x3FFF0)), 15, (opS 0 0 0 0), _, 0, 0, rfl, by decide +kernel⟩,
   ⟨(atT (.op 58 3 (opS 0 0 3 0)) (sT 3 63 0x3FFF0)), 15, (opS 0 0 3 0), _, 0, 63, rfl, by decide +kernel⟩,
   ⟨(atT (.op 58 3 (opS 0 0 3 0)) (sT 3 65 0x3FFF0)), 15, (opS 0 0 3 0), _, 0, 65, rfl, by decide +kernel⟩,
   ⟨(atT (.op 58 2 (opS 0 3 15 0)) (sT2 3 1001 4)), 15, (opS 0 3 15 0), _, 1001, 4, rfl, by decide +kernel⟩,
   ⟨(atT (.op 58 2 (opS 0 3 15 0)) (sT2 3 1000 127)), 15, (opS 0 3 15 0), _, 1000, 127, rfl, by decide +kernel⟩,
   ⟨(atT (.op 58 2 (opS 0 3 15 0)) (sT2 3 1000 67)), 15, (opS 0 3 15 0), _, 1000, 67, rfl, by decide +kernel⟩,
   ⟨(atT (.op 62 4 (opS 0 3 15 0)) (sT2 3 1 0x3FFFC)), 15, (opS 0 3 15 0), _, 1, 0x3FFFC, 1, rfl, by decide +kernel⟩,
   ⟨(sWaits (.waitAt 1000)), 15, _, 1000, rfl, by decide +kernel⟩,
   ⟨(sWaits (.waitAt 1001)), 15, _, 1001, rfl, by decide +kernel⟩,
   ⟨(sEvT (sWaits (.waitEv 15 none))), 15, _, 15, none, 1023, rfl, by decide +kernel⟩⟩

/-- States and operands that meet the hypotheses of ThreadsReachMemoryRegistersAndUnits, clause by clause. -/
theorem witness_ThreadsReachMemoryRegistersAndUnits :
    (∃ (s : State) (t : Fin 16) (o : Opnd) (h : Thread) (a : Nat), h = s.seq.thr[t] ∧
      a = BitVec.toNat (h.sreg o.srcA + BitVec.ofNat 32 (4 * o.low.toNat)) ∧
      o.legal Names.scalar Names.scalar Names.nothing false = true ∧ a % 4 = 0 ∧ 16777216 ≤ a ∧ a < 117440512 ∧
      (a < 102760448 ∨ 110100480 ≤ a) ∧ s.threadAt t (Code.low 60 o)) ∧
    (∃ (s : State) (t : Fin 16) (o : Opnd) (h : Thread) (a : Nat) (x : EccHit), h = s.seq.thr[t] ∧
      a = BitVec.toNat (h.sreg o.srcA + BitVec.ofNat 32 (4 * o.low.toNat)) ∧
      o.legal Names.scalar Names.scalar Names.nothing false = true ∧ a % 4 = 0 ∧ 16777216 ≤ a ∧ a < 117440512 ∧
      (a < 102760448 ∨ 110100480 ≤ a) ∧ s.threadAt t (Code.low 60 o) ∧ x.addr / 8 = a / 8) ∧
    (∃ (s : State) (t : Fin 16) (o : Opnd) (h : Thread) (a : Nat), h = s.seq.thr[t] ∧
      a = BitVec.toNat (h.sreg o.srcA + BitVec.ofNat 32 (4 * o.low.toNat)) ∧
      o.legal Names.scalar Names.scalar Names.nothing false = true ∧ a % 4 = 0 ∧ 16777216 ≤ a ∧ a < 117440512 ∧
      (a < 102760448 ∨ 110100480 ≤ a) ∧ s.threadAt t (Code.low 61 o)) ∧
    (∃ (s : State) (t : Fin 16) (o : Opnd) (h : Thread) (a : Nat) (c : Instr) (k : BitVec 6), h = s.seq.thr[t] ∧
      a = BitVec.toNat (h.sreg o.srcA + BitVec.ofNat 32 (4 * o.low.toNat)) ∧
      o.legal Names.scalar Names.scalar Names.nothing false = true ∧
      (a % 4 ≠ 0 ∨ a < 16777216 ∨ 117440512 ≤ a ∨ 102760448 ≤ a ∧ a < 110100480) ∧
      (c = Instr.ld t o [] ∧ k = 60 ∨ c = Instr.st t o ∧ k = 61) ∧ s.threadAt t (Code.low k o)) ∧
    (∃ (s : State) (t : Fin 16) (o : Opnd) (h : Thread) (a : Nat), h = s.seq.thr[t] ∧ a = BitVec.toNat (h.sreg o.srcA) ∧
      o.legal Names.scalar Names.scalar Names.nothing false = true ∧ a % 4 = 0 ∧ 16777216 ≤ a ∧ a < 117440512 ∧
      (a < 102760448 ∨ 110100480 ≤ a) ∧ s.threadAt t (Code.op 62 2 o)) ∧
    (∃ (s : State) (t : Fin 16) (o : Opnd) (h : Thread) (a : Nat), h = s.seq.thr[t] ∧ a = BitVec.toNat (h.sreg o.srcA) ∧
      s.threadAt t (Code.op 62 0 o) ∧ o.legal Names.nothing Names.scalar Names.scalar false = true ∧
      (s.taken t).writeReg a (h.sreg o.srcB) = none) ∧
    (∃ (s : State) (t : Fin 16) (o : Opnd) (h : Thread) (a : Nat) (u : State), h = s.seq.thr[t] ∧
      (s.taken t).writeReg a (h.sreg o.srcB) = some u ∧ a = BitVec.toNat (h.sreg o.srcA) ∧ s.threadAt t (Code.op 62 0 o) ∧
      o.legal Names.nothing Names.scalar Names.scalar false = true) ∧
    (∃ (s : State) (t : Fin 16) (o : Opnd) (h : Thread) (a : Nat) (w : Word) (u : State), h = s.seq.thr[t] ∧
      (s.taken t).readReg a = some (w, u) ∧ a = BitVec.toNat (h.sreg o.srcA) ∧ s.threadAt t (Code.op 62 1 o) ∧
      o.legal Names.scalar Names.scalar Names.nothing false = true) ∧
    (∃ (s : State) (t : Fin 16) (o : Opnd) (h : Thread) (a : Nat), h = s.seq.thr[t] ∧ a = BitVec.toNat (h.sreg o.srcA) ∧
      s.threadAt t (Code.op 62 1 o) ∧ o.legal Names.scalar Names.scalar Names.nothing false = true ∧ RegMap.find a = none) ∧
    (∃ (s : State) (t : Fin 16) (o : Opnd) (h : Thread) (arg : Word) (c : Instr) (k rel : Nat), h = s.seq.thr[t] ∧
      s.threadAt t (Code.op 62 3 o) ∧ arg = h.sreg o.srcA ∧ o.legal Names.scalar Names.scalar Names.code false = true ∧
      k = o.srcB.toNat % 4 ∧ rel = o.srcB.toNat / 4 ∧
      (c = Instr.kickPressJob t o ∧ (k = 0 ∨ k = 3) ∨ c = Instr.kickCodecJob t o ∧ (k = 1 ∨ k = 3) ∨ c = Instr.kickRackList t o ∧
        (k = 2 ∨ k = 3)) ∧
      (s.taken t).kickCause k arg (rel != 0) ≠ 0) ∧
    (∃ (s : State) (t : Fin 16) (o : Opnd) (h : Thread) (arg : Word) (c : Instr) (k rel : Nat), h = s.seq.thr[t] ∧
      s.threadAt t (Code.op 62 3 o) ∧ arg = h.sreg o.srcA ∧ o.legal Names.scalar Names.scalar Names.code false = true ∧
      k = o.srcB.toNat % 4 ∧ rel = o.srcB.toNat / 4 ∧
      (c = Instr.kickPressJob t o ∧ (k = 0 ∨ k = 3) ∨ c = Instr.kickCodecJob t o ∧ (k = 1 ∨ k = 3) ∨ c = Instr.kickRackList t o ∧
        (k = 2 ∨ k = 3)) ∧
      k = 3) ∧
    (∃ (s : State) (t : Fin 16) (o : Opnd) (h : Thread) (arg : Word) (c : Instr) (k rel : Nat), h = s.seq.thr[t] ∧
      s.threadAt t (Code.op 62 3 o) ∧ arg = h.sreg o.srcA ∧ o.legal Names.scalar Names.scalar Names.code false = true ∧
      k = o.srcB.toNat % 4 ∧ rel = o.srcB.toNat / 4 ∧
      (c = Instr.kickPressJob t o ∧ (k = 0 ∨ k = 3) ∨ c = Instr.kickCodecJob t o ∧ (k = 1 ∨ k = 3) ∨ c = Instr.kickRackList t o ∧
        (k = 2 ∨ k = 3)) ∧
      (s.taken t).kickCause k arg (rel != 0) = 0) :=
  ⟨⟨(atT (.low 60 (opS 15 3 0 255)) (sT 3 0x06900000 0x3FFF0)), 15, (opS 15 3 0 255), _, 0x069003FC, rfl, by decide +kernel⟩,
   ⟨(atT (.low 60 (opS 15 3 0 255)) (sT 3 0x06900000 0x3FFF0)), 15, (opS 15 3 0 255), _, 0x069003FC, ⟨0x069003F8, true⟩, rfl,
        by decide +kernel⟩,
   ⟨(atT (.low 61 (opS 15 3 0 0)) (sT 3 0x061FFFFC 0x3FFF0)), 15, (opS 15 3 0 0), _, 0x061FFFFC, rfl, by decide +kernel⟩,
   ⟨(atT (.low 61 (opS 15 3 0 1)) (sT 3 0x06FFFFFC 0x3FFF0)), 15, (opS 15 3 0 1), _, 0x07000000, (.st 15 (opS 15 3 0 1)), 61,
        rfl, by decide +kernel⟩,
   ⟨(atT (.op 62 2 (opS 15 3 0 0)) (sT 3 0x06FFFFFC 0x3FFF0)), 15, (opS 15 3 0 0), _, 0x06FFFFFC, rfl, by decide +kernel⟩,
   ⟨(atT (.op 62 0 (opS 0 3 15 0)) (sT2 3 0x1FF000 5)), 15, (opS 0 3 15 0), _, 0x1FF000, rfl, by decide +kernel⟩,
   ⟨(atT (.op 62 0 (opS 0 3 15 0)) (sT2 3 0x10204 0)), 15, (opS 0 3 15 0), _, 0x10204,
        (((atT (.op 62 0 (opS 0 3 15 0)) (sT2 3 0x10204 0)).taken 15).writeReg 0x10204 0 |>.getD run0), rfl, by rfl,
        by decide +kernel⟩,
   ⟨(atT (.op 62 1 (opS 15 3 0 0)) (sT2 3 0x10204 0)), 15, (opS 15 3 0 0), _, 0x10204,
        ((((atT (.op 62 1 (opS 15 3 0 0)) (sT2 3 0x10204 0)).taken 15).readReg 0x10204).getD (0, run0)).1,
        ((((atT (.op 62 1 (opS 15 3 0 0)) (sT2 3 0x10204 0)).taken 15).readReg 0x10204).getD (0, run0)).2, rfl, by rfl,
        by decide +kernel⟩,
   ⟨(atT (.op 62 1 (opS 15 3 0 0)) (sT2 3 0x1FF000 5)), 15, (opS 15 3 0 0), _, 0x1FF000, rfl, by decide +kernel⟩,
   ⟨(atT (.op 62 3 (opS 15 3 0 0)) (sKick 0x06A00008 0)), 15, (opS 15 3 0 0), _, 0x06A00008, (.kickPressJob 15 (opS 15 3 0 0)),
        0, 0, rfl, by decide +kernel⟩,
   ⟨(atT (.op 62 3 (opS 15 3 3 0)) (sKick 0x06A00000 0x4000000)), 15, (opS 15 3 3 0), _, 0x06A00000,
        (.kickPressJob 15 (opS 15 3 3 0)), 3, 0, rfl, by decide +kernel⟩,
   ⟨(atT (.op 62 3 (opS 15 3 0 0)) (sKick 0x06A00000 0x4000000)), 15, (opS 15 3 0 0), _, 0x06A00000,
        (.kickPressJob 15 (opS 15 3 0 0)), 0, 0, rfl, by decide +kernel⟩⟩

/-! ## What well-formedness refuses -/

/-- A request that the ill-formed terms below spoil one part of. -/
def req2 (data : List Word) : MgmtReq := ⟨0, 0, false, 1, 0, 0, 0, 0x100, data⟩

theorem smoke_address : (Instr.registerWrite .bar0 0x102 0).wf = false := by decide
theorem smoke_fuse_bit : (Instr.fuseProgram .grade 2).wf = false := by decide
theorem smoke_no_lane : (Instr.codewordRx 0 []).wf = false := by decide
theorem smoke_five_lanes : (Instr.codewordRx 0 [[], [], [], [], []]).wf = false := by decide
theorem smoke_request_count : (Instr.mgmtWrite 0 (req2 [1])).wf = false := by decide
theorem smoke_read_has_no_data : (Instr.mgmtRead 0 (req2 [1, 2])).wf = false := by decide
theorem smoke_write_has_data : (Instr.mgmtWriteResp 0 (req2 [])).wf = false := by decide
theorem smoke_packet_empty : (Instr.packetRx 0 ⟨1, false, []⟩).wf = false := by decide
theorem smoke_dram_read : (Instr.dramRequest .racking 0 (.read 0) []).wf = false := by decide
theorem smoke_dram_write : (Instr.dramRequest .racking 0 (.write []) []).wf = false := by decide
theorem smoke_good : (Instr.registerWrite .bar0 0x100 0).wf = true ∧ (Instr.fuseProgram .grade 1).wf = true ∧
    (Instr.codewordRx 0 [[], []]).wf = true ∧ (Instr.mgmtWrite 0 (req2 [1, 2])).wf = true := by
  decide

/-! ## Results of the manual's worked examples -/

/-- Codec: a red-plane stripe with NEAR 1 has RANGE 342, qbpp 9, U 22, A 5 and N 1. -/
theorem test_codec_constants : (CodePar.mk 10 1).range = 342 ∧ (CodePar.mk 10 1).qbpp = 9 ∧ (CodePar.mk 10 1).limit = 22 ∧
    (CodePar.mk 10 1).start.ctx.head? = some (5, 1) := by decide +kernel
/-- Codec: line 1 of that example reconstructs to 515, 531, 600, 600 and codes as 1010 01010 000001110 1000. -/
theorem test_codec_line :
    ((CodePar.mk 10 1).writeLine [0] 4 #[514, 530, 600, 600] (some #[512, 516, 520, 524, 528]) (fun _ _ => 0) 9 false #[]
      (CodePar.mk 10 1).start).2.2 = natBits 22 0b1010010100000011101000 := by decide +kernel
/-- DRAM: offset 0x3_2A5C_7F40 lies in channel 4, bank 4, row 0xCA97 under the reset masks. -/
theorem test_dram_mapping : State.reset.channelOf 0x32A5C7F40 = 4 ∧ State.reset.bankOf 0x32A5C7F40 = 4 ∧
    State.reset.rowOf 0x32A5C7F40 = 0xCA97 := by decide +kernel
/-- VIEWSTAMP: Q = 52,500 at 40 m with TAN_AZ 1,910 and TAN_EL 410 shifts by (−20, 4). -/
theorem test_stamp_shift : (FrameHeader.mk 0 0 false 32 20 640 360 20000 4 1250 40000 0 0x35000000
    [⟨1910, 410, 0⟩]).stampShift 52500 0 0 = (-20, 4) := by decide +kernel
/-- De-duplication: the delayed copy of SSN 0 after HIGH = 0 is a duplicate, and SSN 0 after 0xFFFF_FFFF is accepted. -/
theorem test_dedup_wrap : ((LocalStream.mk (some 1) 0 0 3 [] []).take false 1 0).2.1 = .dup ∧
    ((LocalStream.mk (some 1) 0xFFFFFFFE 0xFFFFFFFF 3 [] []).take false 1 0).2.1 = .accept := by decide +kernel
/-- Time tokens: the exchange of the example gives DELAY 0x003D_4000. -/
theorem test_token_delay : ttDelay (ns48 0xFFFFFFC0 0) (ns48 0 0xC000) (ns48 0x2BC 0xC000) (ns48 0x2F6 0x8000) = 0x3D4000 := by
  decide +kernel
/-- The time base read as 0x0010_0000 reads 0x000F_F448 after a step of −3,000 ns. -/
theorem test_time_step : (TimeBase.add { State.reset.tb with ns := 0x100000 } (-3000 * 2 ^ 32)).ns = 0xFF448 := by decide +kernel
/-- The reset band table: band 17 begins at row floor(5.625·17) = 95 and has 6 rows; band 8 has 5. -/
theorem test_band_table : State.reset.get (F.TRL_BAND_FIRST_ROW 17) = 95 ∧ State.reset.get (F.TRL_BAND_ROWS 17) = 6 ∧
    State.reset.get (F.TRL_BAND_ROWS 8) = 5 := by decide +kernel
/-- Synthesis: code 600 expands to 38,437, and the four taps of the example filter to 38,918. -/
theorem test_filter : unitColour 600 = 38437 ∧ unitColour 616 = 39462 ∧
    (12768 * unitColour 600 + 26144 * unitColour 616 + 8736 * unitColour 592 + 17888 * unitColour 608 + 32768) / 65536 = 38918 := by
  decide +kernel
/-- Calibration: the result +13 is applied one code at a time from +6. -/
theorem test_trim_step : stepTo 1 6 13 = 7 ∧ stepTo 1 13 13 = 13 := by decide
/-- The loop at e = −600 ns: the proportional term −9,830,400 saturates and the integrator keeps +1,200. -/
theorem test_loop_saturates : loopOutput 1200 (-600 * 65536) 18 29 85899 = (1200, 1200 - 9830400) := by decide +kernel
/-- Comparators 0–3 drive their own lines; the others drive none after reset. -/
theorem test_fixed_lines : State.reset.get (F.SEQ_LC_CFG_LINE 3) = 3 ∧ State.reset.get (F.SEQ_LC_CFG_LINE 4) = 31 := by decide +kernel
/-- Events: the write of 0x0098_0008 to EVT_ROUTE_337 at 0x0001_1544 is held whole. -/
theorem test_event_route : (match step { run0 with pending := [.registerWrite .fabric 0x11544 0x980008] } with
    | .next t => t.reg 0x11544 == 0x980008 && t.pending == []
    | _ => false) = true := by decide +kernel
/-- Events: source 337 sets bit 17 of EVT_STAT_10 at 0x0001_0028, and no other bit. -/
theorem test_event_bit : (match step { run0 with pending := [.eventRaise 337] } with
    | .next t => t.reg 0x10028 == 0x20000
    | _ => false) = true := by decide +kernel
/-- Operands without an immediate or a predicate. -/
def opW (d a b : BitVec 5) (low : BitVec 8) : Opnd := ⟨d, a, b, 0, low, none⟩
/-- Press words: the six instructions of the example that loads two constants and fetches. -/
theorem test_press_words : Code.long 0 0 (opW 8 0 0 0) 0x1F000 = ⟨0xFD000000, some 0x1F000⟩ ∧
    (Code.low 32 (opW 9 8 0 0)).first = 0x81280000 ∧ (Code.low 32 (opW 10 8 0 1)).first = 0x81480001 ∧
    (Code.op 48 2 (opW 8 0 0 0)).first = 0xC1000002 ∧ (Code.vec 16 5 4 VOp.mul.code .vs (opW 10 8 9 0)).first = 0x45484884 ∧
    (Code.op 50 0 (opW 4 2 3 0)).first = 0xC8821800 := by decide +kernel
/-- Thread words: ARM and KICK of the example of a tile in clip playback. -/
theorem test_thread_words : (Code.op 58 2 (opW 0 6 7 0)).first = 0xE8063802 ∧ (Code.op 62 3 (opW 4 5 5 0)).first = 0xF8852803 := by
  decide +kernel
/-- Press: SLI s8, #0x0001_F000 at address 0, in the words of the example, loads s8 and goes on at address 8. -/
theorem test_press_sli : (match step { (((run0.onPress 5 fun p => { p with does := .bundle bundle0, pc := 0 }).storeWord
      0x06800000 0xFD000000).storeWord 0x06800004 0x1F000) with pending := [.sli 5 (opW 8 0 0 0) 0x1F000] } with
    | .next t => t.press[(5 : Fin 48)].sreg 8 == 0x1F000 && t.press[(5 : Fin 48)].pc == 8
    | _ => false) = true := by decide +kernel
/-- Reed-Solomon: two symbols in error, the first cell bits and the last parity symbol, are corrected. -/
theorem test_rs_corrects : rsDecode (rsEncode 12345 ^^^ 1023 <<< 20 ^^^ 7 <<< 5430) = some (12345, [2, 543]) := by decide +kernel
/-- A word spells no command, because the table gives no row any bits. -/
theorem test_no_word : decodeTableWord 32 0xFFFFFFFF = none := by decide

end Sys2Proof.Tests
end

section
/-! Register fields and register writes (R11–R13): what a number put into a field changes, and what a write under the access
codes changes, on every path. -/

open Sys2Proof Sys2Proof.Machine

namespace Sys2Proof.Machine

/-! ## A field write -/

theorem put_onlyField (s : State) (f : Field) (v : Nat) : OnlyField f s (s.put f v) := by
  refine ⟨rfl, fun a ha => ?_, fun i hi hout => ?_⟩
  · rw [State.reg_put, if_neg ha]
  · rw [State.reg_put, if_pos rfl, Field.getLsbD_into _ _ _ _ hi, if_neg hout]

/-- Settles O9, by the laws of `State.put`: the field's own bits, the fields beside it, and the frame. -/
theorem fieldWriteChangesThatFieldAlone : Obligations.FieldWriteChangesThatFieldAlone := fun s f v hf =>
  ⟨s.get_put f v hf, fun g hg hapart => s.get_put_other f g v hg hapart, put_onlyField s f v⟩

/-! ## The bits of a register by access code -/

/-- Bit `i` of a register belongs to the field. -/
abbrev FieldRow.Covers (f : FieldRow) (i : Nat) : Prop := f.lo ≤ i ∧ i < f.lo + f.w

/-- Each field of the row has bits, all inside the register, and fields that meet have one access code. -/
abbrev RegRow.Tidy (r : RegRow) : Prop :=
  ∀ f ∈ r.fields, 0 < f.w ∧ f.lo + f.w ≤ 32 ∧
    ∀ g ∈ r.fields, f.acc = g.acc ∨ f.lo + f.w ≤ g.lo ∨ g.lo + g.w ≤ f.lo

/-- Every register table of the manual is tidy. -/
theorem blockRows_tidy (k : Nat) : ∀ r ∈ RegMap.blockRows k, r.Tidy := by
  unfold RegMap.blockRows
  split <;> decide +kernel

theorem find_mem_blockRows {a : Nat} {r : RegRow} {ix : List Nat} (h : RegMap.find a = some (r, ix)) :
    r ∈ RegMap.blockRows (a >>> 16) := by
  obtain ⟨r', hmem, hr'⟩ := List.exists_of_findSome?_eq_some h
  split at hr'
  · obtain ⟨_, _, heq⟩ := Option.map_eq_some_iff.1 hr'
    cases heq
    exact hmem
  · cases hr'

theorem find_tidy {a : Nat} {r : RegRow} {ix : List Nat} (h : RegMap.find a = some (r, ix)) : r.Tidy :=
  blockRows_tidy _ r (find_mem_blockRows h)

theorem getLsbD_place_ones (lo w i : Nat) (hi : i < 32) :
    (RegMap.place lo w (2 ^ w - 1)).getLsbD i = decide (lo ≤ i ∧ i < lo + w) := by
  have hcut : (2 ^ w - 1) % 2 ^ w = 2 ^ w - 1 := Nat.mod_eq_of_lt (Nat.sub_one_lt (Nat.two_pow_pos w).ne')
  rw [RegMap.place, hcut, BitVec.getLsbD_ofNat, Nat.testBit_shiftLeft, Nat.testBit_two_pow_sub_one, Bool.eq_iff_iff]
  simp only [hi, decide_true, Bool.true_and, Bool.and_eq_true, decide_eq_true_eq]
  omega

/-- The fold that builds a mask sets the bits of the fields with a wanted code. -/
theorem getLsbD_maskFold (p : Acc → Bool) (fs : List FieldRow) (m : Word) (i : Nat) (hi : i < 32) :
    (fs.foldl (fun a f => if p f.acc then a ||| RegMap.place f.lo f.w (2 ^ f.w - 1) else a) m).getLsbD i =
      (m.getLsbD i || fs.any fun f => p f.acc && decide (f.Covers i)) := by
  induction fs generalizing m with
  | nil => simp
  | cons f fs ih =>
    rw [List.foldl_cons, ih, List.any_cons]
    cases p f.acc with
    | false => simp
    | true => simp [getLsbD_place_ones _ _ _ hi, Bool.or_assoc]

theorem getLsbD_mask_iff (r : RegRow) (p : Acc → Bool) (i : Nat) (hi : i < 32) :
    (RegMap.mask r p).getLsbD i = true ↔ ∃ f ∈ r.fields, p f.acc = true ∧ f.Covers i := by
  rw [RegMap.mask, getLsbD_maskFold p _ _ _ hi]
  simp

/-- Inside a field, a mask says whether the field's own code is wanted. -/
theorem getLsbD_mask_of_covers {r : RegRow} (hr : r.Tidy) {f : FieldRow} (hf : f ∈ r.fields) {i : Nat} (hi : f.Covers i)
    (p : Acc → Bool) : (RegMap.mask r p).getLsbD i = p f.acc := by
  obtain ⟨-, hin, hmeet⟩ := hr f hf
  rw [Bool.eq_iff_iff, getLsbD_mask_iff _ _ _ (by omega)]
  constructor
  · rintro ⟨g, hg, hp, hgi⟩
    have hacc : f.acc = g.acc := (hmeet g hg).resolve_right (by omega)
    rwa [hacc]
  · exact fun hp => ⟨f, hf, hp, hi⟩

/-- No mask has a reserved bit. -/
theorem getLsbD_mask_of_reserved {r : RegRow} {i : Nat} (hi : ∀ f ∈ r.fields, ¬f.Covers i) (p : Acc → Bool) :
    (RegMap.mask r p).getLsbD i = false := by
  rcases Nat.lt_or_ge i 32 with h32 | h32
  · rw [Bool.eq_false_iff, Ne, getLsbD_mask_iff _ _ _ h32]
    exact fun ⟨f, hf, _, hfi⟩ => hi f hf hfi
  · exact BitVec.getLsbD_of_ge _ _ h32

/-- A tidy row's mask is 0 where no field has a wanted code. -/
theorem mask_eq_zero_iff {r : RegRow} (hr : r.Tidy) (p : Acc → Bool) :
    RegMap.mask r p = 0#32 ↔ ∀ f ∈ r.fields, p f.acc = false := by
  constructor
  · intro h0 f hf
    have hlo : f.Covers f.lo := ⟨le_refl _, by have := (hr f hf).1; omega⟩
    rw [← getLsbD_mask_of_covers hr hf hlo p, h0, BitVec.getLsbD_zero]
  · intro hnone
    refine BitVec.eq_of_getLsbD_eq fun i hi => ?_
    rw [BitVec.getLsbD_zero, Bool.eq_false_iff, Ne, getLsbD_mask_iff _ _ _ hi]
    rintro ⟨f, hf, hp, -⟩
    rw [hnone f hf] at hp
    cases hp

/-! ## A write under the access codes -/

/-- What a bit of a register with access code `acc` reads after a write of bit `v` over bit `old`, where the register's
write-once fields have been written already or not (R11). -/
def Acc.bitAfter (acc : Acc) (written old v : Bool) : Bool :=
  match acc with
  | .rw => v
  | .w1c => old && !v
  | .wos => if written then old else v
  | .ro | .wo | .w1s | .rwl => old

/-- The access codes as the masks combine them. -/
theorem Acc.bitAfter_eq (acc : Acc) : ∀ written old v : Bool, acc.bitAfter written old v =
    ((bif acc == .rw || (!written && acc == .wos) then v else old) && !(v && acc == .w1c)) := by
  cases acc <;> decide

/-- The word of a register of row `r` at address `a` after a write of `v` under the access codes. -/
def State.plainWord (s : State) (r : RegRow) (a : Nat) (v : Word) : Word :=
  let takes := RegMap.mask r (· == .rw) ||| (if s.wos.contains a then 0 else RegMap.mask r (· == .wos))
  (s.reg a &&& ~~~takes ||| (v &&& takes)) &&& ~~~(v &&& RegMap.mask r (· == .w1c))

/-- The write-once registers written so far, after a write to the register of row `r` at address `a`. -/
def State.wosAfter (s : State) (r : RegRow) (a : Nat) : List Nat :=
  if RegMap.mask r (· == .wos) = 0 ∨ s.wos.contains a then s.wos else a :: s.wos

/-- A write under the access codes sets one word, and marks the register where it has write-once fields. -/
theorem plainWrite_eq {s : State} {a : Nat} {r : RegRow} {ix : List Nat} (h : RegMap.find a = some (r, ix)) (v : Word) :
    s.plainWrite a v = some { s.setReg a (s.plainWord r a v) with wos := s.wosAfter r a } := by
  unfold State.plainWrite State.wosAfter
  rw [h, Option.map_some]
  dsimp only
  split <;> rfl

/-- A bit of the written word, by the bits of the three masks there. -/
theorem getLsbD_plainWord (s : State) (r : RegRow) (a : Nat) (v : Word) {i : Nat} (hi : i < 32) {rw wos w1c : Bool}
    (hrw : (RegMap.mask r (· == .rw)).getLsbD i = rw) (hwos : (RegMap.mask r (· == .wos)).getLsbD i = wos)
    (hw1c : (RegMap.mask r (· == .w1c)).getLsbD i = w1c) :
    (s.plainWord r a v).getLsbD i =
      ((bif rw || (!s.wos.contains a && wos) then v.getLsbD i else (s.reg a).getLsbD i) && !(v.getLsbD i && w1c)) := by
  have htakes : (RegMap.mask r (· == .rw) ||| if s.wos.contains a then 0 else RegMap.mask r (· == .wos)).getLsbD i =
      (rw || (!s.wos.contains a && wos)) := by
    rw [BitVec.getLsbD_or, hrw]
    cases s.wos.contains a with
    | false => exact congrArg (rw || ·) hwos
    | true => simp
  unfold State.plainWord
  rw [BitVec.getLsbD_and, BitVec.getLsbD_or, BitVec.getLsbD_and, BitVec.getLsbD_and, BitVec.getLsbD_not, BitVec.getLsbD_not,
    BitVec.getLsbD_and, htakes, hw1c]
  cases rw || (!s.wos.contains a && wos) <;> simp [hi]

theorem getLsbD_plainWord_of_covers {s : State} {r : RegRow} (hr : r.Tidy) {f : FieldRow} (hf : f ∈ r.fields) {i : Nat}
    (hi : f.Covers i) (a : Nat) (v : Word) :
    (s.plainWord r a v).getLsbD i = f.acc.bitAfter (s.wos.contains a) ((s.reg a).getLsbD i) (v.getLsbD i) := by
  have h32 : i < 32 := by have := (hr f hf).2.1; omega
  have hmask := getLsbD_mask_of_covers hr hf hi
  rw [getLsbD_plainWord s r a v h32 (hmask _) (hmask _) (hmask _)]
  exact (Acc.bitAfter_eq _ _ _ _).symm

theorem getLsbD_plainWord_of_reserved {s : State} {r : RegRow} {i : Nat} (hi : ∀ f ∈ r.fields, ¬f.Covers i) (a : Nat) (v : Word) :
    (s.plainWord r a v).getLsbD i = (s.reg a).getLsbD i := by
  have hmask := getLsbD_mask_of_reserved hi
  rcases Nat.lt_or_ge i 32 with h32 | h32
  · simp [getLsbD_plainWord s r a v h32 (hmask _) (hmask _) (hmask _)]
  · rw [BitVec.getLsbD_of_ge _ _ h32, BitVec.getLsbD_of_ge _ _ h32]

theorem mem_wosAfter {s : State} {r : RegRow} (hr : r.Tidy) (a b : Nat) :
    b ∈ s.wosAfter r a ↔ b ∈ s.wos ∨ (b = a ∧ ∃ f ∈ r.fields, f.acc = .wos) := by
  have honce : RegMap.mask r (· == .wos) = 0#32 ↔ ¬∃ f ∈ r.fields, f.acc = .wos := by
    rw [mask_eq_zero_iff hr]
    simp
  unfold State.wosAfter
  split
  case isTrue h =>
    refine ⟨.inl, fun hb => hb.elim id ?_⟩
    rintro ⟨rfl, hw⟩
    rcases h with h0 | hmem
    · exact absurd hw (honce.1 h0)
    · exact List.contains_iff_mem.1 hmem
  case isFalse h =>
    have hw : ∃ f ∈ r.fields, f.acc = .wos := not_not.1 fun hw => h (.inl (honce.2 hw))
    rw [List.mem_cons, or_comm, and_iff_left hw]

/-! ## The paths of a register write -/

/-- The path reaches the registers: BAR0 its 4 MiB while the link is up, JTAG while JTAG_LOCK is clear (R13, R387, R390). -/
def State.pathOpen (s : State) (path : Path) (addr : Word) : Bool :=
  match path with
  | .bar0 => s.pcieUp && decide (addr.toNat < 0x400000)
  | .jtag => !s.sensed.jtagLock
  | .fabric => true

theorem exec_registerWrite (path : Path) (addr value : Word) (s : State) :
    exec (.registerWrite path addr value) s =
      s.ifUp fun s => s.when (s.pathOpen path addr) (·.access addr.toNat value) := by
  cases path <;> rfl

theorem exec_registerWrite_open {s : State} {path : Path} {addr : Word} (hup : s.up = true)
    (hp : s.pathOpen path addr = true) (value : Word) :
    exec (.registerWrite path addr value) s = .next (s.access addr.toNat value) := by
  rw [exec_registerWrite, State.ifUp_up _ _ hup, hp, State.when_true]

theorem exec_registerWrite_closed {s : State} {path : Path} {addr : Word} (hup : s.up = true)
    (hp : s.pathOpen path addr = false) (value : Word) :
    exec (.registerWrite path addr value) s = .next s := by
  rw [exec_registerWrite, State.ifUp_up _ _ hup, hp, State.when_false]

theorem pathOpen_of {s : State} {path : Path} {addr : Word}
    (h : path = .fabric ∨ (path = .jtag ∧ s.sensed.jtagLock = false) ∨
      (path = .bar0 ∧ s.pcieUp = true ∧ addr.toNat < 0x400000)) : s.pathOpen path addr = true := by
  rcases h with rfl | ⟨rfl, hlock⟩ | ⟨rfl, hlink, haddr⟩
  · rfl
  · simp [State.pathOpen, hlock]
  · simp [State.pathOpen, hlink, haddr]

/-! ## Registers with a rule of their own, and addresses without a register -/

@[simp] theorem at1_eq_none_iff (a : Nat) (f : State → Word → State) (b : Nat) (s : State) (v : Word) :
    at1 a f b s v = none ↔ b ≠ a := by
  simp [at1]

/-- Which addresses of block ZL have a rule does not depend on what a send does. -/
theorem rulesZl_none_iff (send : State → State) (a : Nat) (s : State) (v : Word) :
    ((rulesZl send).findSome? fun rule => rule a s v) = none ↔ ((rulesZl id).findSome? fun rule => rule a s v) = none := by
  simp only [rulesZl, List.findSome?_eq_none_iff, List.forall_mem_cons, at1_eq_none_iff]

theorem rulesOf_none_iff (send : State → State) (k a : Nat) (s : State) (v : Word) :
    ((rulesOf send k).findSome? fun rule => rule a s v) = none ↔ ((rulesOf id k).findSome? fun rule => rule a s v) = none := by
  unfold rulesOf
  split
  case h_5 => exact rulesZl_none_iff send a s v
  all_goals rfl

/-- A write to a register without a rule of its own is a write under the access codes. -/
theorem access_of_no_rule {s : State} {a : Nat} {v : Word} {r : RegRow} {ix : List Nat} (hfind : RegMap.find a = some (r, ix))
    (hset1 : noSet1 a = false) (hrule : (rulesOf id (a / 65536)).findSome? (fun rule => rule a s v) = none) :
    s.access a v = { s.setReg a (s.plainWord r a v) with wos := s.wosAfter r a } := by
  have hmapped : mapped a = true := by simp [mapped, hfind, hset1]
  unfold State.access State.writeReg State.writeVia
  rw [(rulesOf_none_iff _ _ _ _ _).2 hrule, plainWrite_eq hfind, hmapped]
  rfl

theorem access_of_unmapped {a : Nat} (h : RegMap.find a = none) (s : State) (v : Word) : s.access a v = s := by
  have hmapped : mapped a = false := by simp [mapped, h]
  unfold State.access State.writeReg State.writeVia
  rw [hmapped]
  rfl

/-- A write under the access codes changes its own register alone. -/
theorem reg_plainWrite (s : State) (r : RegRow) (a : Nat) (v : Word) (l : List Nat) (b : Nat) :
    State.reg { s.setReg a (s.plainWord r a v) with wos := l } b = if b = a then s.plainWord r a v else s.reg b :=
  s.reg_setReg a b _

/-- Settles O19: an open path reaches the write under the access codes, whose bits are the masks' by field; a closed path
and an address without a register change nothing. -/
theorem registerWriteFollowsAccessCodes : Obligations.RegisterWriteFollowsAccessCodes := by
  refine ⟨fun s path addr value r ix hup hpath hfind hset1 hrule => ?_, fun s addr value hup => ⟨fun path hfind => ?_,
    fun hlock => ?_, fun hbar => ?_⟩⟩
  · have hr := find_tidy hfind
    refine ⟨_, exec_registerWrite_open hup (pathOpen_of hpath) value, ?_⟩
    rw [access_of_no_rule hfind hset1 hrule]
    refine ⟨rfl, fun b hb => ?_, fun f hf i hlo hhi => ?_, fun i hi => ?_, mem_wosAfter hr addr.toNat⟩
    · rw [reg_plainWrite, if_neg hb]
    · rw [reg_plainWrite, if_pos rfl, getLsbD_plainWord_of_covers hr hf ⟨hlo, hhi⟩]
      cases f.acc <;> simp [Acc.bitAfter]
    · rw [reg_plainWrite, if_pos rfl, getLsbD_plainWord_of_reserved hi]
  · cases hp : s.pathOpen path addr with
    | true => rw [exec_registerWrite_open hup hp, access_of_unmapped hfind]
    | false => exact exec_registerWrite_closed hup hp value
  · exact exec_registerWrite_closed hup (by simp [State.pathOpen, hlock]) value
  · refine exec_registerWrite_closed hup ?_ value
    rcases hbar with hlink | haddr
    · simp [State.pathOpen, hlink]
    · simp [State.pathOpen, haddr]

end Sys2Proof.Machine
end

section
/-! What shared operations leave as they were (a fold of updates, a raise of an event), and what the registers above the event
and link blocks read after one. -/

open Sys2Proof Sys2Proof.Machine

namespace Sys2Proof.Machine

/-- What each update of a fold keeps, the fold keeps. -/
theorem foldl_keeps {σ α β : Type} (g : σ → β) {f : σ → α → σ} (h : ∀ u x, g (f u x) = g u) (l : List α) (s : σ) :
    g (l.foldl f s) = g s := by
  induction l generalizing s with
  | nil => rfl
  | cons x l ih => rw [List.foldl_cons, ih, h]

/-! ## Commands that act while the logic runs -/

theorem answers_ifUp {c : Instr} {s : State} {f : State → State} {Q : State → Prop} (hup : s.up = true)
    (hexec : exec c s = s.ifUp f) (hQ : Q (f s)) : Answers c s Q :=
  ⟨f s, hexec.trans (s.ifUp_up f hup), hQ⟩

theorem exec_ifUp {c : Instr} {s : State} {f : State → State} {t : State} (hup : s.up = true)
    (hexec : exec c s = s.ifUp f) (ht : f s = t) : exec c s = .next t :=
  ht ▸ hexec.trans (s.ifUp_up f hup)

/-! ## The frame of a raise, field by field -/

section Raise

variable {s : State} {n : Nat} (h : n < 1024)
include h

theorem raise_mode : (s.raise n).mode = s.mode := (congrArg State.mode (raise_frame h) :)
theorem raise_act : (s.raise n).act = s.act := (congrArg State.act (raise_frame h) :)
theorem raise_tb : (s.raise n).tb = s.tb := (congrArg State.tb (raise_frame h) :)
theorem raise_frm : (s.raise n).frm = s.frm := (congrArg State.frm (raise_frame h) :)
theorem raise_dist : (s.raise n).dist = s.dist := (congrArg State.dist (raise_frame h) :)
theorem raise_press : (s.raise n).press = s.press := (congrArg State.press (raise_frame h) :)
theorem raise_codec : (s.raise n).codec = s.codec := (congrArg State.codec (raise_frame h) :)

end Raise

/-! ## Registers above the event and link blocks -/

/-- The registers that a raise may change lie below block CODEC. -/
theorem lt_of_mem_raiseRegs {a : Nat} (h : a ∈ raiseRegs) : a < 0x50000 := by
  have hall : ∀ b ∈ raiseRegs, b < 0x50000 := by decide
  exact hall a h

theorem raise_reg_high {s : State} {n a : Nat} (h : n < 1024) (ha : 0x50000 ≤ a) : (s.raise n).reg a = s.reg a :=
  raise_regsKept h a fun hm => absurd (lt_of_mem_raiseRegs hm) (Nat.not_lt.2 ha)

theorem raise_get_high {s : State} {n : Nat} {f : Field} (h : n < 1024) (hf : 0x50000 ≤ f.addr) :
    (s.raise n).get f = s.get f := congrArg f.of (raise_reg_high h hf)

theorem raise_bit_high {s : State} {n : Nat} {f : Field} (h : n < 1024) (hf : 0x50000 ≤ f.addr) :
    (s.raise n).bit f = s.bit f := congrArg (· != 0) (raise_get_high h hf)

theorem evStatus_setReg_high {s : State} {n a : Nat} {w : Word} (h : n < 1024) (ha : 0x50000 ≤ a) :
    (s.setReg a w).evStatus n = s.evStatus n := by
  unfold State.evStatus
  rw [State.reg_setReg, if_neg]
  simp only [F.EVT_STAT_addr]
  omega

theorem evStatus_put_high {s : State} {n v : Nat} {f : Field} (h : n < 1024) (hf : 0x50000 ≤ f.addr) :
    (s.put f v).evStatus n = s.evStatus n := evStatus_setReg_high h hf

/-! ## Bits and counters -/

theorem bit_put (s : State) (f : Field) (v : Nat) (h : f.lo + f.w ≤ 32) : (s.put f v).bit f = (v % 2 ^ f.w != 0) := by
  rw [State.bit, State.get_put _ _ _ h]

theorem bit_put_other (s : State) (f g : Field) (v : Nat) (h : g.lo + g.w ≤ 32)
    (hd : g.addr ≠ f.addr ∨ f.lo + f.w ≤ g.lo ∨ g.lo + g.w ≤ f.lo) : (s.put f v).bit g = s.bit g := by
  rw [State.bit, State.get_put_other _ _ _ _ h hd, State.bit]

theorem bit_putB (s : State) (f : Field) (b : Bool) (hw : f.w = 1) (h : f.lo + 1 ≤ 32) : (s.putB f b).bit f = b := by
  rw [State.putB, bit_put _ _ _ (hw ▸ h), hw]
  cases b <;> rfl

theorem get_count (s : State) (f : Field) (h : f.lo + f.w ≤ 32) : (s.count f).get f = min (s.get f + 1) (2 ^ f.w - 1) := by
  rw [State.count, State.countBy, State.get_put _ _ _ h, Nat.mod_eq_of_lt]
  have := Nat.two_pow_pos f.w
  omega

theorem reg_put_other (s : State) (f : Field) (v a : Nat) (h : a ≠ f.addr) : (s.put f v).reg a = s.reg a := by
  rw [State.reg_put, if_neg h]

end Sys2Proof.Machine
end

section
/-! The rate monitors (R32, R33). -/

open Sys2Proof Sys2Proof.Machine

namespace Sys2Proof.Machine

theorem windowEnd_frame (s : State) : s.windowEnd = { s with rmon := s.windowEnd.rmon } := rfl

@[simp] theorem windowEnd_since (s : State) :
    s.windowEnd.rmon.since = s.rmon.since + BitVec.ofNat 32 (1000 * s.get F.TOP_RMON_CTL_WINDOW_US) := rfl

@[simp] theorem windowEnd_ops (s : State) (u : Fin 83) : s.windowEnd.rmon.ops[u] = 0 :=
  Vector.getElem_replicate u.isLt

@[simp] theorem windowEnd_rate (s : State) (u : Fin 83) :
    s.windowEnd.rmon.rate[u] =
      if s.rmonRuns u then rateOf s.rmon.ops[u] (s.get F.TOP_RMON_CTL_WINDOW_US) else 0 :=
  Vector.getElem_ofFn u.isLt

theorem windowEnd_low (s : State) (u : Fin 83) :
    s.windowEnd.rmon.low[u] =
      if s.rmonRuns u then min s.rmon.low[u] s.windowEnd.rmon.rate[u] else s.rmon.low[u] := by
  rw [windowEnd_rate]
  exact Vector.getElem_ofFn u.isLt

/-- Settles O20, by the values of `State.windowEnd` unit by unit: a unit that runs takes its rate and the lower minimum, any
other reads 0. -/
theorem rateWindowUpdatesRatesAndMinima : Obligations.RateWindowUpdatesRatesAndMinima := by
  refine ⟨fun s hup hover => ?_, fun s hup => ⟨_, s.ifUp_up _ hup, rfl, rfl, fun u => Vector.getElem_replicate u.isLt⟩⟩
  have hexec : exec .rmonWindowEnd s = .next s.windowEnd := by
    change execRmonWindowEnd s = _
    rw [execRmonWindowEnd, State.ifUp_up _ _ hup, hover, State.when_true]
  refine ⟨_, hexec, windowEnd_frame s, windowEnd_since s, fun u => ⟨windowEnd_ops s u, fun hruns => ?_, fun hruns => ?_⟩⟩
  · rw [windowEnd_low, windowEnd_rate, if_pos hruns, if_pos hruns]
    exact ⟨rfl, rfl⟩
  · rw [windowEnd_low, windowEnd_rate, hruns]
    exact ⟨rfl, rfl⟩

end Sys2Proof.Machine
end

section
/-! Commits, geometry and the angle table: what is taken, what is refused (R27–R29, R42, R43, R46). -/

open Sys2Proof Sys2Proof.Machine

namespace Sys2Proof.Machine

/-! ## The checks of a commit -/

/-- The state with the findings of a commit's checks recorded: FMT_BAD of the waveforms, the cause of the panel (R271, R284). -/
def State.commitChecked (s : State) : State :=
  let period := s.get F.SEQ_FRM_SLOT_PERIOD_PERIOD_NS
  let t := if wavesInStep s.actReg period then s else s.put F.TRL_WAVE_CTL_FMT_BAD 1
  if s.panelCause period = 0 then t else t.put F.PANEL_COMMIT_ERR_CAUSE (s.panelCause period)

theorem formatLegal_put (s : State) (f : Field) (v : Nat) (hf : f.addr ∉ frameRegs) :
    (s.put f v).formatLegal = s.formatLegal := by
  have hget : ∀ g : Field, g.addr ∈ frameRegs → (s.put f v).get g = s.get g := fun g hg =>
    congrArg g.of (reg_put_other s f v g.addr fun e => hf (e ▸ hg))
  unfold State.formatLegal
  rw [hget F.SEQ_FRM_FORMAT_SLOTS (by decide), hget F.SEQ_FRM_SLOT_PERIOD_PERIOD_NS (by decide),
    hget F.SEQ_FRM_MIN_FRAME_MIN_NS (by decide), hget F.SEQ_FRM_MAX_FRAME_MAX_NS (by decide),
    hget F.SEQ_FRM_CUTOFF_CUTOFF_NS (by decide), hget F.SEQ_FRM_FORMAT_LAYER_MASK (by decide)]

theorem commitChecked_formatLegal (s : State) : s.commitChecked.formatLegal = s.formatLegal := by
  unfold State.commitChecked
  dsimp only
  have hfmt (u : State) : (u.put F.TRL_WAVE_CTL_FMT_BAD 1).formatLegal = u.formatLegal := formatLegal_put u _ _ (by decide)
  have hcause (u : State) (v : Nat) : (u.put F.PANEL_COMMIT_ERR_CAUSE v).formatLegal = u.formatLegal :=
    formatLegal_put u _ _ (by decide)
  split <;> split <;> simp only [hfmt, hcause]

theorem commitChecked_frame (s : State) : s.commitChecked = { s with regs := s.commitChecked.regs } := by
  unfold State.commitChecked
  dsimp only
  split <;> split <;> rfl

theorem commitFrame_of_illegal {s : State} (h : s.formatLegal = false) :
    s.commitFrame = ((s.commitChecked.put F.SEQ_FRM_CTL_REFUSED 1).putB F.SEQ_FRM_CTL_COMMIT
      s.commitChecked.frm.commit.isSome).raise (srcSeq 25) := by
  have hbad : s.commitChecked.formatLegal = false := (commitChecked_formatLegal s).trans h
  unfold State.commitFrame
  refine if_pos ?_
  change (!s.commitChecked.formatLegal || _ || _) = true
  rw [hbad]
  rfl

theorem maskLayers_length (m : Nat) :
    (maskLayers m).length = ((List.range 6).filter fun l => m.testBit l).length := by
  rw [← List.map_coe_finRange_eq_range, List.filter_map, List.length_map]
  rfl

/-- Settles O23: a set with one of the listed faults is not legal, and a set that is not legal changes registers alone. -/
theorem illegalCommitIsRefusedWhole : Obligations.IllegalCommitIsRefusedWhole := by
  intro s hup hfault
  have hbad : s.formatLegal = false := by
    refine decide_eq_false fun hlegal => ?_
    rw [maskLayers_length] at hlegal
    omega
  refine answers_ifUp hup rfl ?_
  rw [commitFrame_of_illegal hbad]
  have hsrc : srcSeq 25 < 1024 := by decide
  refine ⟨?_, ?_, ?_, raise_evStatus hsrc⟩
  · rw [raise_act hsrc]
    exact (congrArg State.act (commitChecked_frame s) :)
  · rw [raise_frm hsrc]
    exact (congrArg State.frm (commitChecked_frame s) :)
  · rw [raise_bit_high hsrc (by decide), State.putB, bit_put_other _ _ _ _ (by decide) (by decide), bit_put _ _ _ (by decide)]
    rfl

/-! ## A commit that is accepted -/

theorem countLateCommit_act (s : State) : s.countLateCommit.act = s.act := raise_act (by decide)
theorem countLateCommit_frm (s : State) : s.countLateCommit.frm = s.frm := raise_frm (by decide)
theorem countLateCommit_evStatus (s : State) : s.countLateCommit.evStatus 874 = true := raise_evStatus (by decide)

theorem countLateCommit_get_other (s : State) (f : Field) (hf : 0x50000 ≤ f.addr) (hw : f.lo + f.w ≤ 32)
    (hlate : f.addr ≠ F.SEQ_FRM_CTL_addr ∨ f.lo + f.w ≤ 2 ∨ 3 ≤ f.lo) (hcount : f.addr ≠ F.SEQ_FRM_COUNT_addr) :
    s.countLateCommit.get f = s.get f := by
  rw [State.countLateCommit, raise_get_high (by decide) hf, State.count, State.countBy,
    State.get_put_other _ _ _ _ hw (.inl hcount), State.get_put_other _ _ _ _ hw]
  rcases hlate with h | h | h
  · exact .inl h
  · exact .inr (.inr h)
  · exact .inr (.inl h)

theorem countLateCommit_late (s : State) : s.countLateCommit.bit F.SEQ_FRM_CTL_COMMIT_LATE = true := by
  rw [State.countLateCommit, raise_bit_high (by decide) (by decide), State.count, State.countBy,
    bit_put_other _ _ _ _ (by decide) (by decide), bit_put _ _ _ (by decide)]
  rfl

theorem countLateCommit_lateCommits (s : State) :
    s.countLateCommit.get F.SEQ_FRM_COUNT_LATE_COMMITS = min (s.get F.SEQ_FRM_COUNT_LATE_COMMITS + 1) 65535 := by
  rw [State.countLateCommit, raise_get_high (by decide) (by decide), get_count _ _ (by decide),
    State.get_put_other _ _ _ _ (by decide) (by decide)]
  rfl

/-- The state in which an accepted commit waits for its launch (R27, R29). -/
def State.commitWaits (s : State) : State :=
  let set := commitRegs.map fun a => (a, s.reg a)
  let t := (s.put F.SEQ_FRM_CTL_COMMIT 1).putB F.SEQ_FRM_CTL_WAIT_TRANSITION (s.changesMode set && !s.frm.hold)
  { t with frm := { t.frm with commit := some ⟨set, s.landing, s.frm.hold⟩ } }

theorem commitWaits_bit (s : State) : s.commitWaits.bit F.SEQ_FRM_CTL_COMMIT = true := by
  change State.bit (State.putB (s.put F.SEQ_FRM_CTL_COMMIT 1) _ _) _ = true
  rw [State.putB, bit_put_other _ _ _ _ (by decide) (by decide), bit_put _ _ _ (by decide)]
  rfl

theorem commitFrame_of_legal {s : State} (hlegal : s.formatLegal = true)
    (hwaves : wavesInStep s.actReg (s.get F.SEQ_FRM_SLOT_PERIOD_PERIOD_NS) = true)
    (hpanel : s.panelCause (s.get F.SEQ_FRM_SLOT_PERIOD_PERIOD_NS) = 0) :
    s.commitFrame = if s.afterDeadline then s.commitWaits.countLateCommit else s.commitWaits := by
  unfold State.commitFrame
  simp only [hwaves, hpanel, hlegal, if_true, Bool.not_true, Bool.or_self, bne_self_eq_false, Bool.false_eq_true, if_false]
  rfl

/-! ## Geometry -/

theorem activate_reg (s : State) (l : List Nat) (a : Nat) : (s.activate l).reg a = s.reg a :=
  foldl_keeps (f := fun t b => t.setAct b (t.reg b)) (fun u : State => u.reg a) (fun _ _ => rfl) l s

/-- The active copies of the listed registers are their shadows, every other one is kept. -/
theorem activate_actReg (s : State) (l : List Nat) (a : Nat) :
    (s.activate l).actReg a = if a ∈ l then s.reg a else s.actReg a := by
  induction l generalizing s with
  | nil => rfl
  | cons b l ih =>
    change ((s.setAct b (s.reg b)).activate l).actReg a = _
    rw [ih, State.actReg_setAct]
    change (if a ∈ l then s.reg a else _) = _
    by_cases hl : a ∈ l
    · rw [if_pos hl, if_pos (List.mem_cons_of_mem b hl)]
    · rw [if_neg hl]
      by_cases hb : a = b
      · subst hb
        rw [if_pos rfl, if_pos List.mem_cons_self]
      · rw [if_neg hb, if_neg (by simp [hb, hl])]

/-- Sending a control block on every lane changes the panel's queues alone. -/
theorem sendAll_act (s : State) (prio : Nat) (w : BitVec 64) : (s.sendAll prio w).act = s.act :=
  foldl_keeps State.act (fun u x => by split <;> rfl) _ s

theorem sendCfg_act (s : State) : s.sendCfg.act = s.act :=
  foldl_keeps State.act (fun u i => sendAll_act u 3 (u.cfgBlock i)) _ s

theorem applyGeom_of_accepted {s : State} (h : s.geomCause = (0, 0)) : s.applyGeom = (s.activate (geomRegs ++ mapRegs)).sendCfg := by
  unfold State.applyGeom
  rw [h]
  exact if_pos ⟨rfl, rfl⟩

theorem applyGeom_of_refused {s : State} {c p : Nat} (h : s.geomCause = (c, p)) (hcp : c ≠ 0 ∨ p ≠ 0) :
    s.applyGeom = (((s.put F.TRL_GEOM_CTL_BAD 1).put F.TRL_GEOM_CTL_CAUSE c).put F.TRL_GEOM_CTL_PANEL_CAUSE p).raise 523 := by
  unfold State.applyGeom
  rw [h]
  exact if_neg fun hz => hcp.elim (absurd hz.1) (absurd hz.2)

/-- Settles O24: a legal set waits with its landing, an accepted APPLY activates the two register sets, a refused one records its
causes, and the angle table moves only to where on-chip memory holds it. -/
theorem shadowSetsBecomeActiveWhole : Obligations.ShadowSetsBecomeActiveWhole := by
  refine ⟨fun s hup hlegal hwaves hpanel => answers_ifUp hup rfl ?_, fun s hup => exec_ifUp (f := (·.setReg F.SEQ_FRM_COUNT_addr 0)) hup rfl rfl,
    fun s hup hcause => answers_ifUp hup rfl fun a => ?_,
    fun s c p hup hcause hcp => exec_ifUp hup rfl (applyGeom_of_refused hcause hcp), fun s hhold => ?_,
    fun s value hup => exec_ifUp (f := (·.writeSatBase value)) hup rfl ?_⟩
  · rw [commitFrame_of_legal hlegal hwaves hpanel]
    split
    case isTrue hlate =>
      refine ⟨countLateCommit_act _, ?_, ?_, fun _ => ⟨countLateCommit_evStatus _, countLateCommit_late _⟩⟩
      · rw [State.bit, countLateCommit_get_other _ _ (by decide) (by decide) (by decide) (by decide)]
        exact commitWaits_bit s
      · rw [countLateCommit_frm]
        rfl
    case isFalse hlate => exact ⟨rfl, commitWaits_bit s, rfl, fun h => absurd h hlate⟩
  · rw [applyGeom_of_accepted hcause, State.actReg, sendCfg_act]
    exact activate_actReg s _ a
  · unfold State.geomCause
    rw [hhold]
    rfl
  · unfold State.writeSatBase onChip
    simp only [decide_eq_true_eq]

end Sys2Proof.Machine
end

section
/-! Launch tokens and readiness reports (R23, R24, R146, R148, R149). -/

open Sys2Proof Sys2Proof.Machine

namespace Sys2Proof.Machine

/-! ## A launch token arrives -/

/-- The state with a launch token and its arrival recorded, event 20 raised (R146). -/
def State.tokenStored (s : State) (time fseq : Word) (tr : Bool) : State :=
  ((((s.setReg F.SEQ_LTOK_RX_TIME_addr time).setReg F.SEQ_LTOK_RX_SEQ_addr fseq).setReg F.SEQ_LTOK_RX_ARRIVAL_addr
    s.now).putB F.SEQ_LTOK_RX_STAT_TRANSITION tr).raise 868

section Token

variable (s : State) (time fseq : Word) (tr : Bool)

theorem tokenStored_now : (s.tokenStored time fseq tr).now = s.now :=
  congrArg TimeBase.ns (raise_tb (by decide))

theorem tokenStored_actReg (a : Nat) : (s.tokenStored time fseq tr).actReg a = s.actReg a :=
  congrArg (assocGet (RegMap.reset a) a) (raise_act (by decide))

theorem tokenStored_reg {a : Nat} (ha : 0x50000 ≤ a) (hout : a ∉ [F.SEQ_LTOK_RX_TIME_addr, F.SEQ_LTOK_RX_SEQ_addr,
    F.SEQ_LTOK_RX_ARRIVAL_addr, F.SEQ_LTOK_RX_STAT_addr]) : (s.tokenStored time fseq tr).reg a = s.reg a := by
  simp only [List.mem_cons, List.not_mem_nil, or_false, not_or] at hout
  obtain ⟨htime, hseq, harrival, hstat⟩ := hout
  rw [State.tokenStored, raise_reg_high (by decide) ha, State.putB, reg_put_other _ _ _ _ hstat, State.reg_setReg,
    if_neg harrival, State.reg_setReg, if_neg hseq, State.reg_setReg, if_neg htime]

theorem tokenStored_armed : (s.tokenStored time fseq tr).bit (F.SEQ_LC_CFG_ARM 0) = s.bit (F.SEQ_LC_CFG_ARM 0) :=
  congrArg (fun w => (F.SEQ_LC_CFG_ARM 0).of w != 0) (tokenStored_reg s time fseq tr (by decide) (by decide))

theorem tokenStored_autoArm :
    (s.tokenStored time fseq tr).bit F.SEQ_LTOK_RX_STAT_AUTO_ARM = s.bit F.SEQ_LTOK_RX_STAT_AUTO_ARM := by
  rw [State.tokenStored, raise_bit_high (by decide) (by decide), State.putB, bit_put_other _ _ _ _ (by decide) (by decide)]
  refine congrArg (fun w => F.SEQ_LTOK_RX_STAT_AUTO_ARM.of w != 0) ?_
  rw [State.reg_setReg, if_neg (by decide), State.reg_setReg, if_neg (by decide), State.reg_setReg, if_neg (by decide)]

/-- A launch token by its time, the launch pending, and AUTO_ARM (R24, R146). -/
theorem tokenArrives_eq :
    s.tokenArrives time fseq tr =
      let u := s.tokenStored time fseq tr
      let cut := s.actGet F.SEQ_FRM_CUTOFF_CUTOFF_NS
      if sdiff time s.now ≤ 0 then (u.put F.SEQ_FRM_CTL_MISSED 1).raise 869
      else if s.bit (F.SEQ_LC_CFG_ARM 0) && decide (sdiff (s.target 0) s.now < cut) then
        u.count F.SEQ_LTOK_RX_STAT_DROPPED
      else
        let v := u.putB F.SEQ_LTOK_RX_STAT_SHORT (decide (sdiff time s.now < cut))
        if s.bit F.SEQ_LTOK_RX_STAT_AUTO_ARM then v.armComp 0 time else v := by
  have hauto (b : Bool) : State.bit ((s.tokenStored time fseq tr).putB F.SEQ_LTOK_RX_STAT_SHORT b)
      F.SEQ_LTOK_RX_STAT_AUTO_ARM = s.bit F.SEQ_LTOK_RX_STAT_AUTO_ARM := by
    rw [State.putB, bit_put_other _ _ _ _ (by decide) (by decide), tokenStored_autoArm]
  change (let u := s.tokenStored time fseq tr
    let cut := u.actGet F.SEQ_FRM_CUTOFF_CUTOFF_NS
    if sdiff time u.now ≤ 0 then (u.put F.SEQ_FRM_CTL_MISSED 1).raise 869
    else if u.bit (F.SEQ_LC_CFG_ARM 0) && decide (sdiff (u.target 0) u.now < cut) then u.count F.SEQ_LTOK_RX_STAT_DROPPED
    else
      let v := u.putB F.SEQ_LTOK_RX_STAT_SHORT (decide (sdiff time u.now < cut))
      if v.bit F.SEQ_LTOK_RX_STAT_AUTO_ARM then v.armComp 0 time else v) = _
  simp only [tokenStored_now, tokenStored_armed, hauto, State.target, State.actGet, tokenStored_actReg]
  rfl

end Token

/-! ## A launch token is sent -/

theorem enqueue_frame (s : State) (p : Fin 4) (path1 : Bool) (k : Packet) : RaiseFrame s (s.enqueue State.raise p path1 k) :=
  raiseRel_frame.enqueue (fun _ _ => raise_frame) p path1 k

theorem enqueue_regsKept (s : State) (p : Fin 4) (path1 : Bool) (k : Packet) : RegsKept s (s.enqueue State.raise p path1 k) :=
  raiseRel_regsKept.enqueue (fun _ _ => raise_regsKept) p path1 k

theorem forward_mode (s : State) (src : Option (Fin 4)) (stream : Nat) (path1 : Bool) (k : Packet) :
    (s.forward src stream path1 k).mode = s.mode :=
  foldl_keeps State.mode (fun u p => by
    split
    · rfl
    · exact (congrArg State.mode (enqueue_frame u p path1 k) :)) _ s

theorem forward_regsKept (s : State) (src : Option (Fin 4)) (stream : Nat) (path1 : Bool) (k : Packet) :
    RegsKept s (s.forward src stream path1 k) := fun a ha =>
  foldl_keeps (fun u : State => u.reg a) (fun u p => by
    split
    · rfl
    · exact enqueue_regsKept u p path1 k a ha) _ s

theorem txPacket_mode (s : State) (k : Nat) (ty : BitVec 4) (sos eos : Bool) (data : List Byte) :
    (s.txPacket k ty sos eos data).mode = s.mode :=
  (foldl_keeps State.mode (fun u _ => forward_mode u _ _ _ _) [false, true] (s.txHeader k).2 :)

/-- A packet of a transmit entry changes no register above the link block. -/
theorem txPacket_reg_high (s : State) {k a : Nat} (hk : k < 64) (ha : 0x50000 ≤ a) (ty : BitVec 4) (sos eos : Bool)
    (data : List Byte) : (s.txPacket k ty sos eos data).reg a = s.reg a := by
  have hkept : (s.txPacket k ty sos eos data).reg a = (s.txHeader k).2.reg a :=
    foldl_keeps (fun u : State => u.reg a) (fun u _ => forward_regsKept u _ _ _ _ a fun hm =>
      absurd (lt_of_mem_raiseRegs hm) (Nat.not_lt.2 ha)) [false, true] (s.txHeader k).2
  rw [hkept, State.txHeader, State.wrapCount]
  dsimp only
  rw [reg_put_other _ _ _ _ (show a ≠ 0x43104 + 8 * k by omega), reg_put_other _ _ _ _ (show a ≠ 0x43100 + 8 * k by omega),
    reg_put_other _ _ _ _ (show a ≠ 0x43100 + 8 * k by omega)]

theorem up_of_mode {s t : State} (h : t.mode = s.mode) : t.up = s.up := by
  unfold State.up
  rw [h]

/-- The state after the packet of a launch token, where transmit entry 0 is enabled. -/
def State.tokenSent (s : State) : State :=
  if s.bit (F.ZL_TXS_EN 0) then s.txPacket 0 2 false false (bytesOfNat 4 (s.reg F.SEQ_LTOK_TX_TIME_addr).toNat ++
    bytesOfNat 4 (s.reg F.SEQ_LTOK_TX_SEQ_addr).toNat ++ bytesOfNat 4 (s.bit F.SEQ_LTOK_TX_CTL_TRANSITION).toNat ++ [0, 0, 0, 0])
  else s

theorem tokenSent_mode (s : State) : s.tokenSent.mode = s.mode := by
  unfold State.tokenSent
  split
  · exact txPacket_mode s _ _ _ _ _
  · rfl

theorem tokenSent_local (s : State) : s.tokenSent.bit F.SEQ_LTOK_TX_CTL_LOCAL = s.bit F.SEQ_LTOK_TX_CTL_LOCAL := by
  unfold State.tokenSent
  split
  · exact congrArg (fun w => F.SEQ_LTOK_TX_CTL_LOCAL.of w != 0) (txPacket_reg_high s (by decide) (by decide) _ _ _ _)
  · rfl

theorem sendToken_refused {s : State} (h : sdiff (s.reg F.SEQ_LTOK_TX_TIME_addr) s.now < s.get F.SEQ_LTOK_MINLEAD_MINLEAD_NS) :
    s.sendToken = s.put F.SEQ_LTOK_TX_CTL_REFUSED 1 := if_pos h

theorem sendToken_sent {s : State} (h : (s.get F.SEQ_LTOK_MINLEAD_MINLEAD_NS : Int) ≤ sdiff (s.reg F.SEQ_LTOK_TX_TIME_addr) s.now) :
    s.sendToken = if s.bit F.SEQ_LTOK_TX_CTL_LOCAL then s.tokenSent.tokenArrives (s.reg F.SEQ_LTOK_TX_TIME_addr)
      (s.reg F.SEQ_LTOK_TX_SEQ_addr) (s.bit F.SEQ_LTOK_TX_CTL_TRANSITION) else s.tokenSent := by
  rw [← tokenSent_local]
  exact if_neg (not_lt.2 h)

/-! ## Pairs of registers -/

theorem pair64_setPair64 (s : State) {lo hi : Nat} (h : lo ≠ hi) (w : BitVec 64) : (s.setPair64 lo hi w).pair64 lo hi = w := by
  unfold State.pair64 State.setPair64
  rw [State.reg_setReg, if_pos rfl, State.reg_setReg, if_neg h, State.reg_setReg, if_pos rfl]
  ext i hi
  simp only [BitVec.getElem_append, BitVec.getElem_extractLsb']
  split
  · rw [Nat.zero_add, BitVec.getLsbD_eq_getElem]
  · rw [show 32 + (i - 32) = i by omega, BitVec.getLsbD_eq_getElem]

theorem reg_setPair64 (s : State) {lo hi a : Nat} (hlo : a ≠ lo) (hhi : a ≠ hi) (w : BitVec 64) :
    (s.setPair64 lo hi w).reg a = s.reg a := by
  rw [State.setPair64, State.reg_setReg, if_neg hhi, State.reg_setReg, if_neg hlo]

theorem pair64_congr {s t : State} {lo hi : Nat} (hlo : t.reg lo = s.reg lo) (hhi : t.reg hi = s.reg hi) :
    t.pair64 lo hi = s.pair64 lo hi := by
  rw [State.pair64, hlo, hhi, State.pair64]

/-! ## ALL -/

theorem raiseIf_reg_high (s : State) {n a : Nat} (c : Bool) (h : n < 1024) (ha : 0x50000 ≤ a) :
    (s.raiseIf c n).reg a = s.reg a := by
  unfold State.raiseIf
  split
  · exact raise_reg_high h ha
  · rfl

theorem judgeAll_reg (s : State) {a : Nat} (ha : 0x50000 ≤ a) (hctl : a ≠ F.SEQ_RDY_CTL_addr) : s.judgeAll.reg a = s.reg a := by
  unfold State.judgeAll
  rw [raiseIf_reg_high _ _ (by decide) ha, State.putB, reg_put_other _ _ _ _ hctl]

theorem judgeAll_all (s : State) : s.judgeAll.bit F.SEQ_RDY_CTL_ALL = (s.gotReady == s.members) := by
  unfold State.judgeAll
  have hreg := raiseIf_reg_high (s.putB F.SEQ_RDY_CTL_ALL (s.gotReady == s.members))
    (n := srcSeq 22) (a := F.SEQ_RDY_CTL_addr) ((s.gotReady == s.members) && !s.bit F.SEQ_RDY_CTL_ALL) (by decide) (by decide)
  exact (congrArg (fun w => F.SEQ_RDY_CTL_ALL.of w != 0) hreg).trans (bit_putB _ _ _ rfl (by decide))

theorem judgeAll_evStatus {s : State} (hall : s.gotReady = s.members) (hold : s.bit F.SEQ_RDY_CTL_ALL = false) :
    s.judgeAll.evStatus 870 = true := by
  unfold State.judgeAll
  rw [hall, hold, beq_self_eq_true]
  exact raise_evStatus (by decide)

/-! ## Reports -/

/-- The state with a report of the current frame entered, ALL not yet judged (R149). -/
def State.gotReport (s : State) (e : BitVec 64) : State :=
  (s.setPair64 F.SEQ_RDY_GOT_LO_addr F.SEQ_RDY_GOT_HI_addr (s.gotReady ||| e)).setReg F.SEQ_RDY_LAST_addr s.now

/-- The state with a report of the next frame entered (R149). -/
def State.nextReport (s : State) (e : BitVec 64) : State :=
  let t := s.setPair64 F.SEQ_RDY_NEXT_LO_addr F.SEQ_RDY_NEXT_HI_addr (s.nextReady ||| e)
  { t with frm := { t.frm with nextLast := s.now } }

theorem gotReport_reg (s : State) (e : BitVec 64) {a : Nat}
    (hout : a ∉ [F.SEQ_RDY_GOT_LO_addr, F.SEQ_RDY_GOT_HI_addr, F.SEQ_RDY_LAST_addr]) : (s.gotReport e).reg a = s.reg a := by
  simp only [List.mem_cons, List.not_mem_nil, or_false, not_or] at hout
  obtain ⟨hlo, hhi, hlast⟩ := hout
  rw [State.gotReport, State.reg_setReg, if_neg hlast, reg_setPair64 _ hlo hhi]

theorem gotReport_gotReady (s : State) (e : BitVec 64) : (s.gotReport e).gotReady = s.gotReady ||| e := by
  refine (pair64_congr ?_ ?_).trans (pair64_setPair64 s (lo := F.SEQ_RDY_GOT_LO_addr) (hi := F.SEQ_RDY_GOT_HI_addr) (by decide) _)
  all_goals rw [State.gotReport, State.reg_setReg, if_neg (by decide)]

theorem gotReport_members (s : State) (e : BitVec 64) : (s.gotReport e).members = s.members :=
  pair64_congr (gotReport_reg s e (by decide)) (gotReport_reg s e (by decide))

theorem gotReport_all (s : State) (e : BitVec 64) : (s.gotReport e).bit F.SEQ_RDY_CTL_ALL = s.bit F.SEQ_RDY_CTL_ALL :=
  congrArg (fun w => F.SEQ_RDY_CTL_ALL.of w != 0) (gotReport_reg s e (by decide))

/-- What the collector does with a report: an unknown tile or frame is counted, a new one is entered (R149). -/
theorem reportArrives_dropped {s : State} {x y : Byte} {fseq : Word} (h : s.entriesOf x y = 0 ∨
    (fseq ≠ s.reg F.SEQ_RDY_FRAME_addr ∧ fseq ≠ s.reg F.SEQ_RDY_FRAME_addr + 1)) :
    s.reportArrives x y fseq = s.count F.SEQ_RDY_CTL_DROPPED := by
  unfold State.reportArrives
  dsimp only
  split
  · rfl
  · next hne =>
    obtain ⟨hcur, hnext⟩ := h.resolve_left hne
    rw [if_neg hcur, if_neg hnext]

theorem ne_zero_of_and_ne_zero {e w : BitVec 64} (h : e &&& w ≠ 0) : e ≠ 0 := by
  rintro rfl
  exact h BitVec.zero_and

theorem reportArrives_current {s : State} {x y : Byte} {fseq : Word} (hseq : fseq = s.reg F.SEQ_RDY_FRAME_addr)
    (hnew : s.entriesOf x y &&& ~~~s.gotReady ≠ 0) :
    s.reportArrives x y fseq = (s.gotReport (s.entriesOf x y)).judgeAll.raise (srcSeq 23) := by
  unfold State.reportArrives
  dsimp only
  rw [if_neg (ne_zero_of_and_ne_zero hnew), if_pos hseq, if_neg hnew]
  rfl

theorem reportArrives_next {s : State} {x y : Byte} {fseq : Word} (hseq : fseq = s.reg F.SEQ_RDY_FRAME_addr + 1)
    (hnew : s.entriesOf x y &&& ~~~s.nextReady ≠ 0) :
    s.reportArrives x y fseq = (s.nextReport (s.entriesOf x y)).raise (srcSeq 23) := by
  have hcur : fseq ≠ s.reg F.SEQ_RDY_FRAME_addr := by
    rw [hseq]
    bv_omega
  unfold State.reportArrives
  dsimp only
  rw [if_neg (ne_zero_of_and_ne_zero hnew), if_neg hcur, if_pos hseq, if_neg hnew]
  rfl

/-- A register that neither a raise nor ALL touches, after a report of the current frame. -/
theorem reg_judged (s : State) {a : Nat} (ha : 0x50000 ≤ a) (hctl : a ≠ F.SEQ_RDY_CTL_addr) :
    (s.judgeAll.raise (srcSeq 23)).reg a = s.reg a := by
  rw [raise_reg_high (by decide) ha, judgeAll_reg s ha hctl]

theorem bit_all_judged (s : State) :
    (s.judgeAll.raise (srcSeq 23)).bit F.SEQ_RDY_CTL_ALL = (s.gotReady == s.members) := by
  rw [raise_bit_high (by decide) (by decide), judgeAll_all]

/-! ## ADVANCE -/

/-- The state in which NEXT has become GOT of the next frame (R149). -/
def State.advancedGot (s : State) : State :=
  let t := (s.setReg F.SEQ_RDY_FRAME_addr (s.reg F.SEQ_RDY_FRAME_addr + 1)).setPair64 F.SEQ_RDY_GOT_LO_addr
    F.SEQ_RDY_GOT_HI_addr s.nextReady
  if s.nextReady = 0 then t else t.setReg F.SEQ_RDY_LAST_addr s.frm.nextLast

/-- The state in which NEXT is empty besides, ALL not yet judged. -/
def State.advanced (s : State) : State :=
  (s.advancedGot.setPair64 F.SEQ_RDY_NEXT_LO_addr F.SEQ_RDY_NEXT_HI_addr 0).put F.SEQ_RDY_CTL_ALL 0

theorem advanced_reg_other (s : State) {a : Nat} (hout : a ∉ [F.SEQ_RDY_FRAME_addr, F.SEQ_RDY_GOT_LO_addr,
    F.SEQ_RDY_GOT_HI_addr, F.SEQ_RDY_LAST_addr, F.SEQ_RDY_NEXT_LO_addr, F.SEQ_RDY_NEXT_HI_addr, F.SEQ_RDY_CTL_addr]) :
    s.advanced.reg a = s.reg a := by
  simp only [List.mem_cons, List.not_mem_nil, or_false, not_or] at hout
  obtain ⟨hframe, hgotlo, hgothi, hlast, hnextlo, hnexthi, hctl⟩ := hout
  unfold State.advanced State.advancedGot
  dsimp only
  rw [reg_put_other _ _ _ _ hctl, reg_setPair64 _ hnextlo hnexthi]
  split
  · rw [reg_setPair64 _ hgotlo hgothi, State.reg_setReg, if_neg hframe]
  · rw [State.reg_setReg, if_neg hlast, reg_setPair64 _ hgotlo hgothi, State.reg_setReg, if_neg hframe]

theorem advanced_members (s : State) : s.advanced.members = s.members :=
  pair64_congr (advanced_reg_other s (by decide)) (advanced_reg_other s (by decide))

theorem advanced_frame (s : State) : s.advanced.reg F.SEQ_RDY_FRAME_addr = s.reg F.SEQ_RDY_FRAME_addr + 1 := by
  unfold State.advanced State.advancedGot
  dsimp only
  rw [reg_put_other _ _ _ _ (by decide), reg_setPair64 _ (by decide) (by decide)]
  split
  · rw [reg_setPair64 _ (by decide) (by decide), State.reg_setReg, if_pos rfl]
  · rw [State.reg_setReg, if_neg (by decide), reg_setPair64 _ (by decide) (by decide), State.reg_setReg, if_pos rfl]

theorem advanced_gotReady (s : State) : s.advanced.gotReady = s.nextReady := by
  refine (pair64_congr ?_ ?_).trans (pair64_setPair64 (s.setReg F.SEQ_RDY_FRAME_addr (s.reg F.SEQ_RDY_FRAME_addr + 1))
    (lo := F.SEQ_RDY_GOT_LO_addr) (hi := F.SEQ_RDY_GOT_HI_addr) (by decide) _)
  all_goals
    unfold State.advanced State.advancedGot
    dsimp only
    rw [reg_put_other _ _ _ _ (by decide), reg_setPair64 _ (by decide) (by decide)]
    split
    · rfl
    · rw [State.reg_setReg, if_neg (by decide)]

theorem advanced_nextReady (s : State) : s.advanced.nextReady = 0 := by
  refine Eq.trans (pair64_congr ?_ ?_) (pair64_setPair64 s.advancedGot (by decide) 0)
  all_goals exact reg_put_other _ _ _ _ (by decide)

theorem advanced_last {s : State} (h : s.nextReady ≠ 0) : s.advanced.reg F.SEQ_RDY_LAST_addr = s.frm.nextLast := by
  unfold State.advanced State.advancedGot
  dsimp only
  rw [reg_put_other _ _ _ _ (by decide), reg_setPair64 _ (by decide) (by decide), if_neg h, State.reg_setReg, if_pos rfl]

/-! ## A report is sent -/

/-- A report at the collector changes no register of the event and link blocks but those of a raise. -/
theorem reportArrives_reg_low (s : State) (x y : Byte) (fseq : Word) {a : Nat} (ha : a < 0x50000) (hr : a ∉ raiseRegs) :
    (s.reportArrives x y fseq).reg a = s.reg a := by
  have hne {b : Nat} (hb : 0x50000 ≤ b) : a ≠ b := by omega
  have hraise (u : State) {n : Nat} (hn : n < 1024) : (u.raise n).reg a = u.reg a := raise_regsKept hn a hr
  have hall (u : State) : u.judgeAll.reg a = u.reg a := by
    unfold State.judgeAll State.raiseIf
    dsimp only
    split
    · rw [hraise _ (by decide), State.putB, reg_put_other _ _ _ _ (hne (by decide))]
    · rw [State.putB, reg_put_other _ _ _ _ (hne (by decide))]
  have hcount : (s.count F.SEQ_RDY_CTL_DROPPED).reg a = s.reg a := reg_put_other _ _ _ _ (hne (by decide))
  unfold State.reportArrives
  dsimp only
  split
  · exact hcount
  · split
    · split
      · rfl
      · rw [hraise _ (by decide), hall, State.reg_setReg, if_neg (hne (by decide)),
          reg_setPair64 _ (hne (by decide)) (hne (by decide))]
    · split
      · split
        · rfl
        · rw [hraise _ (by decide)]
          exact reg_setPair64 _ (hne (by decide)) (hne (by decide)) _
      · exact hcount

/-- A report copy by its next hop (R212, R217). -/
theorem sendReport_port {s : State} {fseq : Word} {route : Bool} {p : Fin 4}
    (h : s.hop (s.get F.ZL_UP_HUB % 256) (s.get F.ZL_UP_HUB / 256) route = .port p) :
    s.sendReport fseq route = s.enqueue State.raise p false ⟨4, true,
      s.updraftData (s.get F.ZL_UP_HUB % 256) (s.get F.ZL_UP_HUB / 256) route
        ([0, 0, 0] ++ bytesOfNat 4 fseq.toNat ++ bytesOfNat 4 s.now.toNat)⟩ := by
  unfold State.sendReport
  dsimp only
  rw [h]

theorem sendReport_nowhere {s : State} {fseq : Word} {route : Bool}
    (h : s.hop (s.get F.ZL_UP_HUB % 256) (s.get F.ZL_UP_HUB / 256) route = .nowhere) :
    s.sendReport fseq route = s.routeDrop State.raise := by
  unfold State.sendReport
  dsimp only
  rw [h]

theorem sendReport_here {s : State} {fseq : Word} {route : Bool}
    (h : s.hop (s.get F.ZL_UP_HUB % 256) (s.get F.ZL_UP_HUB / 256) route = .here) :
    s.sendReport fseq route =
      s.reportArrives (BitVec.ofNat 8 (s.get F.ZL_ADDR_X)) (BitVec.ofNat 8 (s.get F.ZL_ADDR_Y)) fseq := by
  unfold State.sendReport
  dsimp only
  rw [h]

/-- One copy of a report does not change DUAL, which the second copy depends on (R217). -/
theorem sendReport_dual (s : State) (fseq : Word) (route : Bool) :
    (s.sendReport fseq route).bit F.ZL_UP_DUAL = s.bit F.ZL_UP_DUAL := by
  refine congrArg (fun w => F.ZL_UP_DUAL.of w != 0) ?_
  unfold State.sendReport
  dsimp only
  split
  · exact reportArrives_reg_low _ _ _ _ (by decide) (by decide)
  · exact raiseRel_regsKept.routeDrop (fun _ _ => raise_regsKept) _ (by decide)
  · exact enqueue_regsKept _ _ _ _ _ (by decide)

theorem reportReady_of_due {s : State} {n : Word} {l : List Word} (hdue : s.frm.reportDue = n :: l)
    (hdual : s.bit F.ZL_UP_DUAL = false) :
    s.reportReady = State.sendReport { s with frm := { s.frm with reportDue := l } } n false := by
  unfold State.reportReady
  rw [hdue]
  exact if_neg (Bool.eq_false_iff.1 ((sendReport_dual { s with frm := { s.frm with reportDue := l } } n false).trans hdual))

/-- Settles O25, by the cases of `tokenArrives_eq`, `sendToken`, `reportArrives`, `advanced` and `sendReport`. -/
theorem launchTokensAndReadiness : Obligations.LaunchTokensAndReadiness := by
  refine ⟨⟨?tokenRx, ?refused, ?sent⟩, ?reportRx, ?advance, ?reportSend, ?noReport⟩
  case tokenRx =>
    rintro s time fseq tr hup _ rfl
    have hexec {t : State} (h : s.tokenArrives time fseq tr = t) : exec (.launchTokenRx time fseq tr) s = .next t :=
      exec_ifUp (f := (·.tokenArrives time fseq tr)) hup rfl h
    refine ⟨fun hpast => hexec ?_, fun htime harm hcut => hexec ?_, fun htime hfar v hv => hexec ?_⟩
    · rw [tokenArrives_eq]
      exact if_pos hpast
    · rw [tokenArrives_eq]
      dsimp only
      rw [harm, decide_eq_true hcut]
      exact if_neg (not_le.2 htime)
    · have hopen : (s.bit (F.SEQ_LC_CFG_ARM 0) && decide (sdiff (s.target 0) s.now < s.actGet F.SEQ_FRM_CUTOFF_CUTOFF_NS)) = false := by
        rcases hfar with h | h
        · rw [h, Bool.false_and]
        · rw [decide_eq_false (not_lt.2 h), Bool.and_false]
      rw [tokenArrives_eq]
      dsimp only
      rw [hopen, hv]
      exact if_neg (not_le.2 htime)
  case refused => exact fun s hup hlead => exec_ifUp (f := State.sendToken) hup rfl (sendToken_refused hlead)
  case sent =>
    rintro s hup hlead _ rfl
    refine ⟨fun hlocal => exec_ifUp (f := State.sendToken) hup rfl ?_, fun hlocal => ?_⟩
    · rw [sendToken_sent hlead, hlocal]
      rfl
    · have hsent : s.tokenSent.up = true := (up_of_mode (tokenSent_mode s)).trans hup
      refine (exec_ifUp (f := State.sendToken) hup rfl ?_).trans
        (exec_ifUp (s := s.tokenSent) (f := (·.tokenArrives _ _ _)) hsent rfl rfl).symm
      rw [sendToken_sent hlead, hlocal]
      rfl
  case reportRx =>
    intro s x y fseq tb hup
    refine ⟨fun hdrop => exec_ifUp (f := (·.reportArrives x y fseq)) hup rfl (reportArrives_dropped hdrop),
      fun hseq hnew => answers_ifUp (f := (·.reportArrives x y fseq)) hup rfl ?_,
      fun hseq hnew => answers_ifUp (f := (·.reportArrives x y fseq)) hup rfl ?_⟩
    · rw [reportArrives_current hseq hnew]
      generalize s.entriesOf x y = e
      have hgot : (State.raise (s.gotReport e).judgeAll (srcSeq 23)).gotReady = s.gotReady ||| e :=
        (pair64_congr (reg_judged _ (by decide) (by decide)) (reg_judged _ (by decide) (by decide))).trans (gotReport_gotReady s e)
      refine ⟨hgot, ?_, ?_, raise_evStatus (by decide), ?_, fun hall hold => raise_statusKept (by decide) _ (by decide) ?_⟩
      · refine pair64_congr ?_ ?_ <;> rw [reg_judged _ (by decide) (by decide), gotReport_reg _ _ (by decide)]
      · rw [reg_judged _ (by decide) (by decide), State.gotReport, State.reg_setReg, if_pos rfl]
      · rw [bit_all_judged, gotReport_gotReady, gotReport_members, hgot]
      · rw [hgot] at hall
        exact judgeAll_evStatus (by rw [gotReport_gotReady, gotReport_members, hall]) ((gotReport_all s e).trans hold)
    · rw [reportArrives_next hseq hnew]
      generalize s.entriesOf x y = e
      have hreg {a : Nat} (ha : 0x50000 ≤ a) : (State.raise (s.nextReport e) (srcSeq 23)).reg a = (s.nextReport e).reg a :=
        raise_reg_high (by decide) ha
      refine ⟨?_, ?_, ?_, raise_evStatus (by decide)⟩
      · exact (pair64_congr (hreg (by decide)) (hreg (by decide))).trans (pair64_setPair64 s (by decide) _)
      · refine pair64_congr ?_ ?_
        all_goals
          rw [hreg (by decide)]
          exact reg_setPair64 s (by decide) (by decide) _
      · rw [raise_frm (by decide)]
        rfl
  case advance =>
    refine fun s hup => answers_ifUp hup rfl ?_
    have hreg {a : Nat} (ha : 0x50000 ≤ a) (hctl : a ≠ F.SEQ_RDY_CTL_addr) : s.advanceReady.reg a = s.advanced.reg a :=
      judgeAll_reg s.advanced ha hctl
    refine ⟨(hreg (by decide) (by decide)).trans (advanced_frame s), ?_, ?_, fun hn => ?_, ?_⟩
    · exact (pair64_congr (hreg (by decide) (by decide)) (hreg (by decide) (by decide))).trans (advanced_gotReady s)
    · exact (pair64_congr (hreg (by decide) (by decide)) (hreg (by decide) (by decide))).trans (advanced_nextReady s)
    · exact (hreg (by decide) (by decide)).trans (advanced_last hn)
    · exact (judgeAll_all s.advanced).trans (by rw [advanced_gotReady, advanced_members])
  case reportSend =>
    rintro s _ n l x y hup hdue hdual rfl rfl rfl
    have hexec {t : State} (h : State.sendReport { s with frm := { s.frm with reportDue := l } } n false = t) :
        exec .readinessReportSend s = .next t :=
      exec_ifUp (f := State.reportReady) hup rfl ((reportReady_of_due hdue hdual).trans h)
    refine ⟨fun q hq => hexec ?_, fun hq => hexec ?_, fun hq => hexec ?_⟩
    · rw [sendReport_port (by exact hq)]
      rfl
    · rw [sendReport_nowhere (by exact hq)]
      rfl
    · exact sendReport_here (by exact hq)
  case noReport =>
    intro s hup hdue
    refine exec_ifUp (f := State.reportReady) hup rfl ?_
    unfold State.reportReady
    rw [hdue]

end Sys2Proof.Machine
end

section
/-! Presses: bundles, jobs, the angle latch, fence, gate and wake (R19, R73–R76, R80, R96–R98, R145). -/

open Sys2Proof Sys2Proof.Machine

namespace Sys2Proof.Machine

/-! ## One press of the block -/

theorem press_onPress_same (s : State) (n : Fin 48) (f : Press → Press) : (s.onPress n f).press[n] = f s.press[n] :=
  Vector.getElem_set_self n.isLt

theorem press_onPress_other (s : State) {n m : Fin 48} (h : m ≠ n) (f : Press → Press) :
    (s.onPress n f).press[m] = s.press[m] :=
  Vector.getElem_set_ne n.isLt m.isLt fun e => h (Fin.ext e.symm)

theorem onPress_congr {s : State} {n : Fin 48} {f g : Press → Press} (h : f s.press[n] = g s.press[n]) :
    s.onPress n f = s.onPress n g := by
  rw [State.onPress, h, State.onPress]

/-! ## Issue -/

section Issue

variable {s : State} {n : Fin 48} (hfree : s.pressFree n = true) (hjobs : ∀ j ∈ s.seq.jobs, j.fits n = false)
include hfree hjobs

theorem issueBundle_open : (s.pressFree n && !s.seq.jobs.any (PressJob.fits · n)) = true := by
  have hnone : s.seq.jobs.any (PressJob.fits · n) = false :=
    List.any_eq_false.2 fun j hj => Bool.eq_false_iff.1 (hjobs j hj)
  rw [hfree, hnone]
  rfl

theorem issueBundle_of_latched {w : BandWork} {i : Nat} {v : SlotView} {a : AngleLatch} (hfirst : s.firstIssue = some (w, i, v))
    (hlatch : s.latchOf v.number = some a) (hcopied : s.dist.copying = false) :
    s.issueBundle n = s.takeBundle n w i v a := by
  unfold State.issueBundle
  rw [issueBundle_open hfree hjobs, State.when_true, hfirst]
  dsimp only
  rw [hlatch]
  dsimp only
  rw [hcopied]
  rfl

theorem issueBundle_of_unlatched {w : BandWork} {i : Nat} {v : SlotView} {c : Bool × Word} {h : FrameHeader}
    (hfirst : s.firstIssue = some (w, i, v)) (hlatch : s.latchOf v.number = none) (hcontent : v.sel.content = some c)
    (hhdr : v.sel.hdr = some h) (hcopied : s.dist.copying = false) :
    s.issueBundle n = s.angleLatch v.number c.1 h := by
  unfold State.issueBundle
  rw [issueBundle_open hfree hjobs, State.when_true, hfirst]
  dsimp only
  rw [hlatch]
  dsimp only
  rw [hcontent, hhdr]
  dsimp only
  rw [hcopied]
  rfl

end Issue

/-- A press with a bundle taken (R73, R74, R80): its coordinates in s0 and s1, its valid lanes in p0. -/
theorem takeBundle_press (s : State) (n : Fin 48) (w : BandWork) (i : Nat) (v : SlotView) (a : AngleLatch) :
    (s.takeBundle n w i v a).press[n] =
      let x := 2 * (i % s.rowBundles)
      let y := s.bandFirst w.band + i / s.rowBundles
      let dir := slotWord v.mask v.slot
      { s.press[n] with
        s := (s.press[n].s.set 0 (BitVec.ofNat 32 (x + 2 ^ 10 * y + 2 ^ 19 * v.slot + 2 ^ 25 * w.band + 2 ^ 31 * a.half.toNat))).set 1
          (BitVec.ofNat 32 (dir + 2 ^ 15 * (s.bundlesBefore w.band + i)))
        p := s.press[n].p.set 0 (s.validLanes x)
        valid := s.validLanes x
        pc := BitVec.ofNat 32 a.entry
        does := .bundle ⟨w.run, v.slot, dir, w.band, i, x, y, v.number, s.now, 0, false⟩ } :=
  press_onPress_same _ n _

theorem takeBundle_press_other (s : State) {n m : Fin 48} (h : m ≠ n) (w : BandWork) (i : Nat) (v : SlotView) (a : AngleLatch) :
    (s.takeBundle n w i v a).press[m] = s.press[m] := press_onPress_other _ h _

/-! ## The angle latch -/

/-- WEIGHT asks for a row beyond the last one (R47). -/
def State.weightOut (s : State) : Bool :=
  decide (s.get F.TRL_ANG_WEIGHT_LO_BAND = 15 ∧ 0 < min 256 (s.get F.TRL_ANG_WEIGHT_WEIGHT))

/-- The state at an angle latch, the weight checked. -/
def State.weightChecked (s : State) : State := if s.weightOut then s.put F.TRL_GEOM_CTL_WEIGHT_CLAMP 1 else s

/-- The state at an angle latch, the curve banks swapped where that is asked (R99). -/
def State.curvesSwapped (s : State) : State :=
  if s.bit F.PRESS_LUT_CTL_SWAP then
    (s.put F.PRESS_LUT_CTL_SWAP 0).putB F.PRESS_LUT_CTL_ACTIVE (!s.bit F.PRESS_LUT_CTL_ACTIVE) else s

theorem weightChecked_reg (s : State) {a : Nat} (ha : a ≠ F.TRL_GEOM_CTL_addr) : s.weightChecked.reg a = s.reg a := by
  unfold State.weightChecked
  split
  · exact reg_put_other _ _ _ _ ha
  · rfl

theorem weightChecked_clamp {s : State} (h : s.weightOut = true) : s.weightChecked.bit F.TRL_GEOM_CTL_WEIGHT_CLAMP = true := by
  rw [State.weightChecked, if_pos h, bit_put _ _ _ (by decide)]
  rfl

theorem weightChecked_press (s : State) : s.weightChecked.press = s.press := by
  unfold State.weightChecked
  split <;> rfl

theorem curvesSwapped_reg (s : State) {a : Nat} (ha : a ≠ F.PRESS_LUT_CTL_addr) : s.curvesSwapped.reg a = s.reg a := by
  unfold State.curvesSwapped
  split
  · rw [State.putB, reg_put_other _ _ _ _ ha, reg_put_other _ _ _ _ ha]
  · rfl

theorem curvesSwapped_swap (s : State) : s.curvesSwapped.bit F.PRESS_LUT_CTL_SWAP = false := by
  unfold State.curvesSwapped
  split
  case isTrue hswap =>
    rw [State.putB, bit_put_other _ _ _ _ (by decide) (by decide), bit_put _ _ _ (by decide)]
    rfl
  case isFalse hswap => exact Bool.eq_false_iff.2 hswap

/-- The curve bank in use after the swap is the other one exactly where SWAP was set. -/
theorem curvesSwapped_active (s : State) :
    s.curvesSwapped.bit F.PRESS_LUT_CTL_ACTIVE = (s.bit F.PRESS_LUT_CTL_ACTIVE ^^ s.bit F.PRESS_LUT_CTL_SWAP) := by
  unfold State.curvesSwapped
  split
  case isTrue hswap => rw [bit_putB _ _ _ rfl (by decide), hswap, Bool.xor_true]
  case isFalse hswap => rw [Bool.eq_false_iff.2 hswap, Bool.xor_false]

theorem curvesSwapped_press (s : State) : s.curvesSwapped.press = s.press := by
  unfold State.curvesSwapped
  split <;> rfl

/-- What an angle latch records first of all latches (R47, R76, R99). -/
theorem angleLatch_latches (s : State) (number : Nat) (half : Bool) (h : FrameHeader) :
    ∃ a l, (s.angleLatch number half h).dist.latches = a :: l ∧ a.number = number ∧ a.half = half ∧ a.hdr = h ∧
      a.entry = 4 * s.weightChecked.curvesSwapped.get F.PRESS_SYN_ENTRY_ENTRY ∧
      a.lutBank = s.weightChecked.curvesSwapped.bit F.PRESS_LUT_CTL_ACTIVE ∧ (s.weightOut = true → a.weight = 0) :=
  ⟨_, _, rfl, rfl, rfl, rfl, rfl, rfl, fun hout => if_pos hout⟩

theorem angleLatch_reg (s : State) (number : Nat) (half : Bool) (h : FrameHeader) (a : Nat) :
    (s.angleLatch number half h).reg a = s.weightChecked.curvesSwapped.reg a := by
  unfold State.angleLatch
  rfl

theorem angleLatch_press (s : State) (number : Nat) (half : Bool) (h : FrameHeader) :
    (s.angleLatch number half h).press = s.press := by
  unfold State.angleLatch
  exact (curvesSwapped_press s.weightChecked).trans (weightChecked_press s)

theorem angleLatch_copying (s : State) (number : Nat) (half : Bool) (h : FrameHeader) :
    (s.angleLatch number half h).dist.copying = true := rfl

/-! ## Jobs -/

/-- A press on which a job has started (R145). -/
def Press.withJob (p : Press) (j : PressJob) : Press :=
  { p with
    s := ((p.s.set 0 (j.ticket.setWidth 32)).set 1 j.arg0).set 2 j.arg1
    p := p.p.set 0 0xFFFF
    valid := 0xFFFF
    pc := BitVec.ofNat 32 j.entry
    does := .job j }

section Job

variable (p : Press) (j : PressJob)

theorem withJob_ticket : (p.withJob j).s[0] = j.ticket.setWidth 32 :=
  (Vector.getElem_set_ne (by decide) (by decide) (by decide)).trans
    ((Vector.getElem_set_ne (by decide) (by decide) (by decide)).trans (Vector.getElem_set_self (by decide)))

theorem withJob_arg0 : (p.withJob j).s[1] = j.arg0 :=
  (Vector.getElem_set_ne (by decide) (by decide) (by decide)).trans (Vector.getElem_set_self (by decide))

theorem withJob_arg1 : (p.withJob j).s[2] = j.arg1 := Vector.getElem_set_self (by decide)

theorem withJob_lanes : (p.withJob j).p[0] = 0xFFFF := Vector.getElem_set_self (by decide)

theorem withJob_s_other {k : Fin 16} (hk : 3 ≤ k.val) : (p.withJob j).s[k] = p.s[k] :=
  (Vector.getElem_set_ne (by decide) k.isLt (by omega)).trans
    ((Vector.getElem_set_ne (by decide) k.isLt (by omega)).trans (Vector.getElem_set_ne (by decide) k.isLt (by omega)))

end Job

theorem startJob_of_free {s : State} {n : Fin 48} {j : PressJob} (hfree : s.pressFree n = true)
    (hjob : s.seq.jobs.find? (PressJob.fits · n) = some j) :
    s.startJob n = State.onPress { s.losePressRegs n with seq := { s.seq with jobs := s.seq.jobs.erase j } } n (·.withJob j) := by
  unfold State.startJob
  rw [hjob]
  dsimp only
  rw [hfree, State.when_true]
  rfl

theorem losePressRegs_press (s : State) (n : Fin 48) : (s.losePressRegs n).press[n] = s.press[n].undefined s.free :=
  press_onPress_same s n (·.undefined s.free)

theorem losePressRegs_press_other (s : State) {n m : Fin 48} (h : m ≠ n) : (s.losePressRegs n).press[m] = s.press[m] :=
  press_onPress_other s h (·.undefined s.free)

theorem undefined_pc (p : Press) (k : Nat) : (p.undefined k).pc = p.pc := by rw [Press.undefined]

theorem undefined_s (p : Press) (k : Nat) (i : Fin 16) : (p.undefined k).s[i] = Config.freeWord (k + i) := by
  rw [Press.undefined, Fin.getElem_fin, Vector.getElem_ofFn]

/-! ## Fence -/

section Fence

variable (s : State) (n : Fin 48) (cause : Nat)

theorem srcPress_lt : srcPress n < 1024 := by
  have := n.isLt
  unfold srcPress
  omega

theorem press_ctl_high : 0x50000 ≤ F.PRESS_CTL_addr n := by
  unfold F.PRESS_CTL_addr
  omega

theorem fence_press : (s.fence n cause).press[n].does = .fenced := by
  have hframe : (s.fence n cause).press = (s.onPress n fun p => { p with does := .fenced }).press := raise_press (srcPress_lt n)
  rw [hframe, press_onPress_same]

theorem fence_press_other {m : Fin 48} (h : m ≠ n) : (s.fence n cause).press[m] = s.press[m] := by
  have hframe : (s.fence n cause).press = (s.onPress n fun p => { p with does := .fenced }).press := raise_press (srcPress_lt n)
  rw [hframe, press_onPress_other _ h]

theorem fence_evStatus : (s.fence n cause).evStatus (320 + n) = true := raise_evStatus (srcPress_lt n)

theorem fence_fenced : (s.fence n cause).bit (F.PRESS_CTL_FENCED n) = true := by
  rw [State.fence, raise_bit_high (srcPress_lt n) (press_ctl_high n),
    bit_put_other _ _ _ _ (show 2 + 1 ≤ 32 by decide) (.inr (.inr (le_refl 3))), bit_put _ _ _ (show 2 + 1 ≤ 32 by decide)]
  rfl

theorem fence_fence : (s.fence n cause).bit (F.PRESS_CTL_FENCE n) = true := by
  rw [State.fence, raise_bit_high (srcPress_lt n) (press_ctl_high n),
    bit_put_other _ _ _ _ (show 1 + 1 ≤ 32 by decide) (.inr (.inr (show 1 + 1 ≤ 3 by decide))),
    bit_put_other _ _ _ _ (show 1 + 1 ≤ 32 by decide) (.inr (.inr (le_refl 2))), bit_put _ _ _ (show 1 + 1 ≤ 32 by decide)]
  rfl

theorem fence_cause : (s.fence n cause).get (F.PRESS_CTL_FENCE_CAUSE n) = cause % 4 := by
  rw [State.fence, raise_get_high (srcPress_lt n) (press_ctl_high n), State.get_put _ _ _ (show 3 + 2 ≤ 32 by decide)]
  rfl

/-- The bundle of a fenced press goes back to the head of its band's queue (R96). -/
theorem fence_work {b : Bundle} (hb : s.press[n].does = .bundle b) (hlive : b.discard = false) :
    (s.fence n cause).dist.work =
      s.dist.work.map fun w => if w.run = b.run ∧ w.band = b.band then { w with redo := b.index :: w.redo } else w := by
  unfold State.fence
  rw [raise_dist (srcPress_lt n)]
  change Distributor.work (match s.press[n].does with
    | .bundle b => s.dist.again b
    | _ => s.dist) = _
  rw [hb]
  dsimp only
  rw [Distributor.again, hlive]
  rfl

end Fence

/-! ## Wake -/

theorem assocGet_filter {α : Type} (d : α) (k : Nat) (p : Nat × α → Bool) (hp : ∀ v, p (k, v) = true) (l : List (Nat × α)) :
    assocGet d k (l.filter p) = assocGet d k l := by
  induction l with
  | nil => rfl
  | cons e l ih =>
    obtain ⟨j, v⟩ := e
    by_cases hj : j = k
    · subst hj
      rw [List.filter_cons_of_pos (hp v), assocGet, if_pos rfl, assocGet, if_pos rfl]
    · rw [assocGet, if_neg hj, List.filter_cons]
      split
      · rw [assocGet, if_neg hj, ih]
      · exact ih

/-- A byte outside a region that becomes undefined reads as before. -/
theorem readByte_undefine_outside (m : Mem) {lo hi a : Nat} (e : Nat) (hle : lo ≤ hi) (ha : a < lo ∨ hi ≤ a) :
    (m.undefine lo hi e).readByte a = m.readByte a := by
  have hout : ¬(lo ≤ a ∧ a < hi) := by omega
  rw [Mem.readByte_eq, Mem.readByte_eq, Mem.undefine, Mem.zero]
  dsimp only
  rw [List.find?_cons_of_neg (by simpa using hout), Gap.find_cut lo hi a hle, if_neg hout,
    assocGet_filter _ _ _ fun _ => decide_eq_true ha]

theorem lose_readByte_outside (s : State) {lo hi a : Nat} (hle : lo ≤ hi) (ha : a < lo ∨ hi ≤ a) :
    (s.lose lo hi).mem.readByte a = s.mem.readByte a := readByte_undefine_outside s.mem s.free hle ha

theorem pressAwake_of_waking {s : State} {n : Fin 48} (h : s.press[n].does = .waking) :
    s.pressAwake n = ((s.losePressRegs n).lose (localBase n) (localBase n + 0x20000)).onPress n fun p => { p with does := .idle } := by
  unfold State.pressAwake
  rw [h]
  rfl

/-- Settles O26, by the rules of the press block above: what issue, the angle latch, a job's start, a fence and a wake do to the
press and leave of the others. -/
theorem pressesTakeWorkAndAreFenced : Obligations.PressesTakeWorkAndAreFenced := by
  refine ⟨⟨?issue, ?latch, ?copied, ?job⟩, ?fence, ?unfence, ?gate, ?gated, ?ungate, ?wake⟩
  case issue =>
    intro s n w i v a hup hfree hjobs hfirst hlatch hcopied
    refine answers_ifUp (f := (·.issueBundle n)) hup rfl ?_
    rw [issueBundle_of_latched hfree hjobs hfirst hlatch hcopied]
    refine ⟨?_, ?_, ?_, ?_, ?_, ?_, fun m hm => takeBundle_press_other s hm w i v a, rfl, rfl⟩
    · rw [takeBundle_press]
    · rw [takeBundle_press]
      exact (Vector.getElem_set_ne (by decide) (by decide) (by decide)).trans (Vector.getElem_set_self (by decide))
    · rw [takeBundle_press]
      exact Vector.getElem_set_self (by decide)
    · rw [takeBundle_press]
      exact Vector.getElem_set_self (by decide)
    · rw [takeBundle_press]
      exact (Vector.getElem_set_self (by decide)).symm
    · rw [takeBundle_press]
  case latch =>
    intro s n w i v c h hup hfree hjobs hfirst hlatch hcontent hhdr hcopied
    refine answers_ifUp (f := (·.issueBundle n)) hup rfl ?_
    rw [issueBundle_of_unlatched hfree hjobs hfirst hlatch hcontent hhdr hcopied]
    obtain ⟨a, l, hlatches, hnumber, hhalf, hahdr, hentry, hbank, hweight⟩ := angleLatch_latches s v.number c.1 h
    have hswap : s.weightChecked.bit F.PRESS_LUT_CTL_SWAP = s.bit F.PRESS_LUT_CTL_SWAP :=
      congrArg (fun w => F.PRESS_LUT_CTL_SWAP.of w != 0) (weightChecked_reg s (by decide))
    have hactive : s.weightChecked.bit F.PRESS_LUT_CTL_ACTIVE = s.bit F.PRESS_LUT_CTL_ACTIVE :=
      congrArg (fun w => F.PRESS_LUT_CTL_ACTIVE.of w != 0) (weightChecked_reg s (by decide))
    rw [curvesSwapped_active, hswap, hactive] at hbank
    refine ⟨angleLatch_press s _ _ _, angleLatch_copying s _ _ _, a, l, hlatches, hnumber, hhalf, hahdr, ?_, fun hs => ⟨?_, ?_⟩,
      fun hs => ?_, fun hlo hw => ?_⟩
    · rw [hentry]
      exact congrArg (fun w => 4 * F.PRESS_SYN_ENTRY_ENTRY.of w)
        ((curvesSwapped_reg _ (by decide)).trans (weightChecked_reg s (by decide)))
    · rw [hbank, hs, Bool.xor_true]
    · exact (congrArg (fun w => F.PRESS_LUT_CTL_SWAP.of w != 0) (angleLatch_reg s _ _ _ _)).trans
        (curvesSwapped_swap s.weightChecked)
    · rw [hbank, hs, Bool.xor_false]
    · have hout : s.weightOut = true := decide_eq_true ⟨hlo, lt_min (by decide) hw⟩
      refine ⟨hweight hout, Eq.trans ?_ (weightChecked_clamp hout)⟩
      exact congrArg (fun w => F.TRL_GEOM_CTL_WEIGHT_CLAMP.of w != 0)
        ((angleLatch_reg s _ _ _ _).trans (curvesSwapped_reg _ (by decide)))
  case copied => exact fun s hup => exec_ifUp (f := fun s => { s with dist := { s.dist with copying := false } }) hup rfl rfl
  case job =>
    intro s n j hup hfree hjob
    refine answers_ifUp (f := (·.startJob n)) hup rfl ?_
    rw [startJob_of_free hfree hjob]
    have hpress : (State.onPress { s.losePressRegs n with seq := { s.seq with jobs := s.seq.jobs.erase j } } n
        (·.withJob j)).press[n] = (s.press[n].undefined s.free).withJob j :=
      (press_onPress_same _ n _).trans (congrArg (Press.withJob · j) (losePressRegs_press s n))
    rw [hpress]
    exact ⟨rfl, withJob_ticket _ j, withJob_arg0 _ j, withJob_arg1 _ j, withJob_lanes _ j, rfl, rfl,
      fun k hk => (withJob_s_other _ j hk).trans (undefined_s _ _ k), rfl,
      fun m hm => (press_onPress_other _ hm _).trans (losePressRegs_press_other s hm)⟩
  case fence =>
    intro s n c cause hup hc
    have hfence : exec c s = .next (s.fence n cause) ∧ cause < 4 := by
      rcases hc with ⟨rfl, rfl, hopen⟩ | ⟨rfl, rfl, hdoes⟩ | ⟨rfl, rfl, b, hb, hlate⟩
      · refine ⟨exec_ifUp (f := (·.writeFence1 n)) hup rfl ?_, by decide⟩
        rw [State.writeFence1, hopen]
        rfl
      · refine ⟨exec_ifUp (f := (·.pressError n)) hup rfl ?_, by decide⟩
        rw [State.pressError, bne_iff_ne.2 hdoes.1, bne_iff_ne.2 hdoes.2]
        rfl
      · refine ⟨exec_ifUp (f := fun s => s.when (s.timedOut n) (·.fence n 1)) hup rfl ?_, by decide⟩
        have htimed : s.timedOut n = true := by
          rw [State.timedOut, State.bundleOf, hb]
          exact decide_eq_true hlate
        rw [htimed, State.when_true]
    refine ⟨_, hfence.1, fence_press s n cause, fence_fenced s n cause, fence_fence s n cause, ?_, fence_evStatus s n cause,
      fun m hm => fence_press_other s n cause hm, fun b hb hlive => fence_work s n cause hb hlive⟩
    rw [fence_cause, Nat.mod_eq_of_lt hfence.2]
  case unfence =>
    intro s n hup hfenced
    refine exec_ifUp (f := (·.writeFence0 n)) hup rfl ?_
    rw [State.writeFence0, hfenced, State.when_true]
  case gate => exact fun s n hup => exec_ifUp (f := (·.writeGate1 n)) hup rfl rfl
  case gated =>
    intro s n hup hgate hidle
    refine exec_ifUp (f := (·.gateNow n)) hup rfl ?_
    rw [State.gateNow, hgate, hidle]
    rfl
  case ungate =>
    intro s n hup hgated
    refine exec_ifUp (f := (·.writeGate0 n)) hup rfl ?_
    exact onPress_congr (if_pos hgated ▸ rfl)
  case wake =>
    intro s n hup hwaking
    refine answers_ifUp (f := (·.pressAwake n)) hup rfl ?_
    rw [pressAwake_of_waking hwaking]
    have hpress : (((s.losePressRegs n).lose (localBase n) (localBase n + 0x20000)).onPress n fun p =>
        { p with does := .idle }).press[n] = { s.press[n].undefined s.free with does := .idle } :=
      (press_onPress_same _ n _).trans (congrArg (fun p : Press => { p with does := .idle }) (losePressRegs_press s n))
    have hle : localBase n ≤ localBase n + 0x20000 := Nat.le_add_right _ _
    rw [hpress]
    dsimp only
    refine ⟨rfl, undefined_pc _ _, undefined_s _ _, fun m hm => ?_, fun a ha => ?_⟩
    · rw [press_onPress_other _ hm]
      exact losePressRegs_press_other s hm
    · rw [State.onPress_mem, lose_readByte_outside _ hle ha]
      rfl

end Sys2Proof.Machine
end

section
/-! The frame engine's fields under the operations of a launch and of HOLD (R18, R22, R25, R29, R139, R272). -/

open Sys2Proof Sys2Proof.Machine

namespace Sys2Proof.Machine

/-! ## Operations that leave the frame engine as it was -/

section Keeps

variable (s : State)

theorem raiseIf_frm {n : Nat} (c : Bool) (h : n < 1024) : (s.raiseIf c n).frm = s.frm := by
  unfold State.raiseIf
  split
  · exact raise_frm h
  · rfl

/-- The state with the temperature of a selection recorded (R286). -/
def State.tempRecorded : State :=
  if s.bit F.TRL_TSEL_MANUAL && (waveBands s.actReg).contains (s.get F.TRL_TSEL_MANUAL_BAND) then s
  else match s.panelTemp with
    | none => (s.put F.TRL_TSEL_STAT_NO_SENSOR 1).raise (srcTrl 10)
    | some x => (s.put F.TRL_TSEL_STAT_NO_SENSOR 0).putS F.TRL_TSEL_STAT_TEMP x

theorem tempRecorded_frm : s.tempRecorded.frm = s.frm := by
  unfold State.tempRecorded
  split
  · rfl
  · split
    · exact raise_frm (by decide)
    · rfl

theorem selectBand_eq : s.selectBand =
    if s.chooseBand = s.trlBand then s.tempRecorded
    else ((s.tempRecorded.put F.TRL_TSEL_STAT_BAND s.chooseBand).wrapCount F.TRL_STAT2_BAND_CHANGES).raise (srcTrl 9) := rfl

theorem selectBand_frm : s.selectBand.frm = s.frm := by
  rw [selectBand_eq]
  split
  · exact tempRecorded_frm s
  · exact (raise_frm (by decide)).trans (tempRecorded_frm s)

theorem startComp_frm (b : Fin 64) (t : Word) : (s.startComp b t).frm = s.frm := by
  unfold State.startComp
  split
  · rfl
  · exact foldl_keeps State.frm (fun u l => by dsimp only; split <;> rfl) _ s

theorem startComps_frm : s.startComps.frm = s.frm := foldl_keeps State.frm (fun u b => startComp_frm u b u.now) _ s

theorem activate_frm (l : List Nat) : (s.activate l).frm = s.frm :=
  foldl_keeps (f := fun t a => t.setAct a (t.reg a)) State.frm (fun _ _ => rfl) l s

theorem judgeAllOuts_frm : s.judgeAllOuts.frm = s.frm := startComps_frm _

theorem tryWave_frm (period : Nat) : (s.tryWave period).frm = s.frm := by
  unfold State.tryWave
  dsimp only
  split
  · rfl
  · split
    · rw [judgeAllOuts_frm, activate_frm]
      rfl
    · exact raise_frm (by decide)

theorem tryWaveInHold_frm : s.tryWaveInHold.frm = s.frm := by
  unfold State.tryWaveInHold
  split
  · exact tryWave_frm s _
  · rfl

theorem sendAll_frm (prio : Nat) (w : BitVec 64) : (s.sendAll prio w).frm = s.frm :=
  foldl_keeps State.frm (fun u x => by split <;> rfl) _ s

theorem sendCfg_frm : s.sendCfg.frm = s.frm := foldl_keeps State.frm (fun u i => sendAll_frm u 3 (u.cfgBlock i)) _ s

theorem cfgIfChanged_frm (old : State) : (s.cfgIfChanged old).frm = s.frm := by
  unfold State.cfgIfChanged
  split
  · rfl
  · exact sendCfg_frm s

theorem startRescan_frm (t : Word) : (s.startRescan t).frm = s.frm :=
  foldl_keeps State.frm (fun u b => by split <;> rfl) _ s

/-- The state with the blink count advanced, or set as it was written (R273). -/
def State.blinkCounted (launch : Bool) : State :=
  match launch, s.panel.blink with
  | true, some w => { s.setReg F.PANEL_BLINK_CNT_addr w with panel := { s.panel with blink := none } }
  | _, _ => s.wrapCount F.PANEL_BLINK_CNT_COUNT

theorem blinkCounted_frm (launch : Bool) : (s.blinkCounted launch).frm = s.frm := by
  unfold State.blinkCounted
  split <;> rfl

/-- The step of the blink count sends each region whose state changed, and rescans the panel if one did (R272, R273). -/
theorem blinkStep_eq (launch : Bool) (t : Word) : s.blinkStep launch t =
    let u := s.blinkCounted launch
    let changed := (List.range 16).filter fun r => u.regionOff r != u.panel.off.getLsbD r
    let v := changed.foldl (fun v r => v.sendAll 2 (v.rectBlock r (u.regionOff r))) u
    let v := { v with panel := { v.panel with off := changed.foldl (fun w r => w ^^^ (1#16 <<< r)) v.panel.off } }
    if changed.isEmpty then v else v.startRescan t := rfl

theorem blinkStep_frm (launch : Bool) (t : Word) : (s.blinkStep launch t).frm = s.frm := by
  rw [blinkStep_eq]
  have hsent (u : State) (l : List Nat) :
      (l.foldl (fun v r => v.sendAll 2 (v.rectBlock r (u.regionOff r))) u).frm = u.frm :=
    foldl_keeps State.frm (fun v r => sendAll_frm v 2 _) l u
  rw [← blinkCounted_frm s launch]
  generalize s.blinkCounted launch = u
  dsimp only
  split
  · exact hsent u _
  · exact (startRescan_frm _ t).trans (hsent u _)

theorem eccReport_frm (h : EccHit) : (s.eccReport h).frm = s.frm := by
  unfold State.eccReport
  split
  · split
    · exact raise_frm (by decide)
    · exact raise_frm (by decide)
  · split
    · exact raise_frm (by decide)
    · exact raise_frm (by decide)

theorem readHits_frm (a n : Nat) (ecc : List EccHit) : (s.readHits a n ecc).frm = s.frm := by
  have hreports : (s.eccReports (s.eccIn a n ecc)).frm = s.frm := foldl_keeps State.frm eccReport_frm _ s
  unfold State.readHits
  dsimp only
  split
  · exact hreports
  · exact hreports

theorem abortEntry_frm : s.abortEntry.frm = s.frm := by
  unfold State.abortEntry State.when
  split
  · exact raise_frm (by decide)
  · rfl

theorem touch_frm (a n : Nat) : (s.touch a n).frm = s.frm :=
  (foldl_keeps (f := fun (t : State) i => t.touchBurst (64 * ((a - dramBase) / 64 + i))) State.frm (fun _ _ => rfl) _ _).trans
    (abortEntry_frm s)

theorem readAny_frm (a n : Nat) (ecc : List EccHit) : (s.readAny a n ecc).2.frm = s.frm := by
  unfold State.readAny State.dramRead
  split
  · exact (readHits_frm _ _ _ _).trans ((raiseIf_frm _ _ (by decide)).trans (touch_frm s a n))
  · exact readHits_frm s _ _ _

theorem sendBlock_frm (p : Fin 4) (l : Fin 8) (control : Bool) (w : BitVec 64) : (s.sendBlock p l control w).frm = s.frm := by
  unfold State.sendBlock
  split <;> rfl

theorem pushBytes_frm (k : CmdPush) : (s.pushBytes k).2.frm = s.frm :=
  foldl_keeps (f := fun (r : List Byte × State) j =>
    let (l, t) := r.2.readAny (k.src + j * k.pitch) (4 * k.w) k.ecc
    (r.1 ++ l, t)) (fun r => r.2.frm) (fun r _ => readAny_frm r.2 _ _ _) _ ([], s)

theorem sendPush_frm (k : CmdPush) : (s.sendPush k).frm = s.frm := by
  unfold State.sendPush
  split
  · rfl
  · dsimp only
    rw [sendBlock_frm, foldl_keeps State.frm (fun u w => sendBlock_frm u 3 _ false w), sendBlock_frm, pushBytes_frm]

theorem tryPush_frm : s.tryPush.frm = s.frm := by
  unfold State.tryPush
  split
  · split
    · rfl
    · exact sendPush_frm s _
  · rfl

theorem launchPush_frm : s.launchPush.frm = s.frm := by
  unfold State.launchPush
  split
  · exact tryPush_frm _
  · rfl

/-- Filling dark bands changes memory and the distributor alone. -/
theorem darkFill_keeps {α : Type} (g : State → α) (hg : ∀ (u : State) m d, g { u with mem := m, dist := d } = g u) :
    g s.darkFill = g s :=
  foldl_keeps g (fun u b => foldl_keeps g (fun t x => by
    dsimp only
    split
    · exact hg t _ _
    · rfl) _ u) _ s

theorem darkFill_frm : s.darkFill.frm = s.frm := darkFill_keeps s State.frm fun _ _ _ => rfl

theorem countRepeat_frm : s.countRepeat.frm = s.frm := raise_frm (by decide)

theorem dropLines_frm : s.dropLines.frm = s.frm :=
  foldl_keeps (f := fun (u : State) (x : Fin 4 × Fin 8) => u.onPanelLane x.1 x.2 fun y => { y with line := none, whole := [] })
    State.frm (fun _ _ => rfl) allLanes s

/-! ### Waveforms -/

/-- One layer's waveform cut short at `t` (R288). -/
def State.layerCut (b : Fin 64) (t : Word) (r : Bool × State) (l : Fin 6) : Bool × State :=
  let x := r.2.trl.outs[outIx b l]
  if x.phases.isEmpty then r
  else
    let y := r.2.runPhases t x.phases x
    let y := r.2.judge (if y.phases.isEmpty then y else { y with level := .zero, rest := .zero })
    (r.1 || !(r.2.runPhases t x.phases x).phases.isEmpty, r.2.onTrlOut (outIx b l) fun _ => { y with phases := [] })

theorem cutWave_eq (b : Fin 64) (t : Word) : s.cutWave b t = (List.finRange 6).foldl (State.layerCut b t) (false, s) := by
  unfold State.cutWave
  rfl

theorem layerCut_frm (b : Fin 64) (t : Word) (r : Bool × State) (l : Fin 6) : (State.layerCut b t r l).2.frm = r.2.frm := by
  unfold State.layerCut
  dsimp only
  split
  · rfl
  · rfl

theorem cutWave_frm (b : Fin 64) (t : Word) : (s.cutWave b t).2.frm = s.frm := by
  rw [cutWave_eq]
  exact foldl_keeps (f := State.layerCut b t) (fun r => r.2.frm) (layerCut_frm b t) (List.finRange 6) (false, s)

theorem stopComp_frm (o : Fin 384) (t : Word) : (s.stopComp o t).frm = s.frm := by
  unfold State.stopComp
  split <;> rfl

theorem overCheck_frm (o : Fin 384) (t : Word) : (s.overCheck o t).frm = s.frm := by
  unfold State.overCheck
  dsimp only
  split
  · exact raise_frm (by decide)
  · rfl

theorem drivePhases_frm (o : Fin 384) (l : List (Nat × Nat)) (t : Word) : (s.drivePhases o l t).frm = s.frm := by
  unfold State.drivePhases
  split <;> rfl

/-- The state after a waveform was cut short or not, and that counted (R288). -/
def State.cutCounted (r : Bool × State) : State :=
  if !r.1 then r.2
  else
    let u := r.2.count F.TRL_STAT_TRUNC
    if u.trl.truncEv then u else { u with trl := { u.trl with truncEv := true } }.raise (srcTrl 7)

theorem cutCounted_frm (r : Bool × State) : (State.cutCounted r).frm = r.2.frm := by
  unfold State.cutCounted
  dsimp only
  split
  · rfl
  · split
    · rfl
    · exact raise_frm (by decide)

/-- The waveform of one layer started at `t`. -/
def State.layerStarted (b : Fin 64) (x : Nat) (t : Word) (u : State) (l : Fin 6) : State :=
  let o := outIx b l
  let u := u.setWordBit b l (x == 0)
  if u.outFaulted b l then u
  else
    let u := (u.stopComp o t).overCheck o t
    u.drivePhases o (waveTable u.actReg u.trlBand x) t

theorem layerStarted_frm (b : Fin 64) (x : Nat) (t : Word) (u : State) (l : Fin 6) :
    (State.layerStarted b x t u l).frm = u.frm := by
  unfold State.layerStarted
  dsimp only
  split
  · rfl
  · rw [drivePhases_frm, overCheck_frm, stopComp_frm]
    rfl

theorem startWave_eq (b : Fin 64) (layers : List (Fin 6)) (x : Nat) (t : Word) : s.startWave b layers x t =
    if !s.wavesRun then s else layers.foldl (State.layerStarted b x t) (State.cutCounted (s.cutWave b t)) := by
  unfold State.startWave
  cases s.cutWave b t
  rfl

theorem startWave_frm (b : Fin 64) (layers : List (Fin 6)) (x : Nat) (t : Word) : (s.startWave b layers x t).frm = s.frm := by
  rw [startWave_eq]
  split
  · rfl
  · rw [foldl_keeps (f := State.layerStarted b x t) State.frm (layerStarted_frm b x t), cutCounted_frm, cutWave_frm]

theorem changeLayer_frm (b : Fin 64) (slot mask : Nat) (t : Word) : (s.changeLayer b slot mask t).frm = s.frm := by
  unfold State.changeLayer
  split
  · exact startWave_frm s _ _ _ _
  · rfl

theorem holdTransition_frm (b : Fin 64) (period : Nat) (t : Word) : (s.holdTransition b period t).frm = s.frm := by
  unfold State.holdTransition
  split
  · rfl
  · exact (startComp_frm _ b t).trans (changeLayer_frm s b 0 0 t)

end Keeps

end Sys2Proof.Machine
end

section
/-! HOLD and launches: where HOLD applies, what a launch starts (R18, R22, R25, R29, R139, R272). -/

open Sys2Proof Sys2Proof.Machine

namespace Sys2Proof.Machine

/-! ## Registers under the operations of HOLD -/

theorem startComp_reg (s : State) (b : Fin 64) (t : Word) (a : Nat) : (s.startComp b t).reg a = s.reg a := by
  unfold State.startComp
  split
  · rfl
  · exact foldl_keeps (fun u : State => u.reg a) (fun u l => by dsimp only; split <;> rfl) _ s

theorem judgeAllOuts_reg (s : State) (a : Nat) : s.judgeAllOuts.reg a = s.reg a :=
  foldl_keeps (fun u : State => u.reg a) (fun u b => startComp_reg u b u.now a) _ _

/-- A check of a pending APPLY changes, above the event and link blocks, TRL_WAVE_CTL alone. -/
theorem tryWave_reg_high (s : State) (period a : Nat) (ha : 0x50000 ≤ a) (hw : a ≠ F.TRL_WAVE_CTL_addr) :
    (s.tryWave period).reg a = s.reg a := by
  unfold State.tryWave
  dsimp only
  split
  · rfl
  · split
    · rw [judgeAllOuts_reg, activate_reg]
      exact reg_put_other s _ _ a hw
    · rw [raise_reg_high (by decide) ha, reg_put_other _ _ _ _ hw, reg_put_other _ _ _ _ hw, reg_put_other _ _ _ _ hw]

theorem tryWaveInHold_reg_high (s : State) (a : Nat) (ha : 0x50000 ≤ a) (hw : a ≠ F.TRL_WAVE_CTL_addr) :
    s.tryWaveInHold.reg a = s.reg a := by
  unfold State.tryWaveInHold
  split
  · exact tryWave_reg_high s _ a ha hw
  · rfl

theorem dropLines_reg (s : State) (a : Nat) : s.dropLines.reg a = s.reg a :=
  foldl_keeps (f := fun (u : State) (x : Fin 4 × Fin 8) => u.onPanelLane x.1 x.2 fun y => { y with line := none, whole := [] })
    (fun u : State => u.reg a) (fun _ _ => rfl) allLanes s

/-! ## HOLD applies -/

theorem dropFrames_frm (s : State) : s.dropFrames.frm =
    { s.frm with count := s.frm.count + 1, holdSet := false, holdClear := none, run := none, sel := none } :=
  dropLines_frm _

theorem dropFrames_reg (s : State) (a : Nat) : s.dropFrames.reg a = s.reg a := by
  unfold State.dropFrames
  exact dropLines_reg _ a

/-- The state with HOLD in force from `t0` on, before a pending APPLY of the waveforms is looked at. -/
def State.holdTaken (s : State) (t0 : Word) : State :=
  { s.dropFrames with frm := { s.dropFrames.frm with
    hold := true, holdAt := t0, holdBands := if s.dropFrames.frm.ranFrame then BitVec.allOnes 64 else 0 } }

theorem reg_withFrm (s : State) (f : FrameEngine) (a : Nat) : ({ s with frm := f } : State).reg a = s.reg a := rfl

theorem holdTaken_reg (s : State) (t0 : Word) (a : Nat) : (s.holdTaken t0).reg a = s.reg a := by
  rw [State.holdTaken, reg_withFrm, dropFrames_reg]

theorem enterHold_eq (s : State) (t0 : Word) :
    s.enterHold t0 = ((s.holdTaken t0).put (F.SEQ_LC_CFG_ARM 1) 0).tryWaveInHold := rfl

theorem enterHold_frm (s : State) (t0 : Word) : (s.enterHold t0).frm =
    { s.frm with
      count := s.frm.count + 1, holdSet := false, holdClear := none, run := none, sel := none
      hold := true, holdAt := t0, holdBands := if s.frm.ranFrame then BitVec.allOnes 64 else 0 } := by
  rw [enterHold_eq, tryWaveInHold_frm, State.put_frm, State.holdTaken]
  dsimp only
  rw [dropFrames_frm]

/-- Where HOLD applies, the frame format's shadow registers stay. -/
theorem enterHold_format (s : State) (t0 : Word) : (s.enterHold t0).reg F.SEQ_FRM_FORMAT_addr = s.reg F.SEQ_FRM_FORMAT_addr := by
  rw [enterHold_eq, tryWaveInHold_reg_high _ _ (by decide) (by decide), reg_put_other _ _ _ _ (by decide), holdTaken_reg]

theorem setHold_running {s : State} (hclear : s.bit F.SEQ_FRM_FORMAT_HOLD = false) (hout : s.frm.hold = false)
    (hrun : s.slotsRunning = true) :
    s.setHold = { s.put F.SEQ_FRM_FORMAT_HOLD 1 with frm := { s.frm with holdSet := true } } := by
  unfold State.setHold
  rw [hclear, Bool.not_false, State.when_true]
  dsimp only
  rw [State.put_frm, hout]
  exact (if_neg Bool.false_ne_true).trans (if_pos hrun)

theorem setHold_idle {s : State} (hclear : s.bit F.SEQ_FRM_FORMAT_HOLD = false) (hout : s.frm.hold = false)
    (hrun : s.slotsRunning = false) : s.setHold = (s.put F.SEQ_FRM_FORMAT_HOLD 1).enterHold s.now := by
  unfold State.setHold
  rw [hclear, Bool.not_false, State.when_true]
  dsimp only
  rw [State.put_frm, hout]
  exact (if_neg Bool.false_ne_true).trans (if_neg (Bool.eq_false_iff.1 hrun))

theorem put_hold_bit (s : State) : (s.put F.SEQ_FRM_FORMAT_HOLD 1).bit F.SEQ_FRM_FORMAT_HOLD = true := by
  rw [bit_put _ _ _ (by decide)]
  rfl

theorem setHold_bit {s : State} (hclear : s.bit F.SEQ_FRM_FORMAT_HOLD = false) (hout : s.frm.hold = false) :
    s.setHold.bit F.SEQ_FRM_FORMAT_HOLD = true := by
  cases hrun : s.slotsRunning with
  | true =>
    rw [setHold_running hclear hout hrun]
    exact put_hold_bit s
  | false =>
    rw [setHold_idle hclear hout hrun]
    exact (congrArg (fun w => F.SEQ_FRM_FORMAT_HOLD.of w != 0) (enterHold_format _ _)).trans (put_hold_bit s)

theorem applyHold_waiting {s : State} {f : FrameRun} (hset : s.frm.holdSet = true) (hf : s.frm.run = some f)
    (hrun : s.slotsRunning = false) : s.applyHold = s.enterHold (f.launch + BitVec.ofNat 32 (f.slots * f.period)) := by
  unfold State.applyHold
  rw [hset, hrun, Bool.not_false, Bool.and_self, State.when_true, hf]

theorem applyHold_idle {s : State} (h : s.frm.holdSet = false ∨ s.slotsRunning = true) : s.applyHold = s := by
  unfold State.applyHold
  rcases h with h | h
  · rw [h]
    rfl
  · rw [h, Bool.not_true, Bool.and_false]
    rfl

/-! ## HOLD is cleared -/

/-- Content selection changes the selection alone. -/
theorem selectContent_frame (s : State) :
    s.selectContent = { s with frm := { s.frm with sel := s.selectContent.frm.sel } } := by
  unfold State.selectContent
  split
  · rfl
  · split
    · rfl
    · split <;> rfl

/-- The state in which the clearing of HOLD waits for a launch (R29). -/
def State.clearWaits (s : State) : State :=
  { s.put F.SEQ_FRM_FORMAT_HOLD 0 with frm := { s.frm with holdClear := some s.landing } }

theorem afterDeadline_put_format (s : State) (v : Nat) : (s.put F.SEQ_FRM_FORMAT_HOLD v).afterDeadline = s.afterDeadline := by
  unfold State.afterDeadline
  rw [bit_put_other _ _ _ _ (by decide) (by decide)]
  rfl

theorem clearHold_eq {s : State} (hbit : s.bit F.SEQ_FRM_FORMAT_HOLD = true) (hhold : s.frm.hold = true) :
    s.clearHold = (if s.afterDeadline then s.clearWaits.countLateCommit else s.clearWaits).selectContent := by
  have hland : (s.put F.SEQ_FRM_FORMAT_HOLD 0).landing = s.landing := by
    unfold State.landing
    rw [afterDeadline_put_format]
    rfl
  unfold State.clearHold
  have hin : ¬ (!(s.put F.SEQ_FRM_FORMAT_HOLD 0).frm.hold) = true := by
    rw [State.put_frm, hhold]
    decide
  rw [hbit, State.when_true]
  dsimp only
  rw [if_neg hin, hland, afterDeadline_put_format]
  rfl

theorem clearWaits_bit (s : State) : s.clearWaits.bit F.SEQ_FRM_FORMAT_HOLD = false :=
  (bit_put s F.SEQ_FRM_FORMAT_HOLD 0 (by decide)).trans rfl

theorem clearWaits_get (s : State) (f : Field) (h : f.addr ≠ F.SEQ_FRM_FORMAT_addr) : s.clearWaits.get f = s.get f :=
  congrArg f.of (reg_put_other s _ _ _ h)

/-- A clearing of HOLD leaves it in force until a launch, and is counted where it is late (R29). -/
theorem clearHold_lands {s : State} (hbit : s.bit F.SEQ_FRM_FORMAT_HOLD = true) (hhold : s.frm.hold = true) :
    s.clearHold.bit F.SEQ_FRM_FORMAT_HOLD = false ∧ s.clearHold.frm.hold = true ∧
    s.clearHold.frm.holdClear = some ⟨s.now, s.afterDeadline, s.afterDeadline, false⟩ ∧
    (s.afterDeadline = true → s.clearHold.bit F.SEQ_FRM_CTL_COMMIT_LATE = true ∧ s.clearHold.evStatus 874 = true ∧
      s.clearHold.get F.SEQ_FRM_COUNT_LATE_COMMITS = min (s.get F.SEQ_FRM_COUNT_LATE_COMMITS + 1) 65535) ∧
    (s.afterDeadline = false → s.clearHold.get F.SEQ_FRM_COUNT_LATE_COMMITS = s.get F.SEQ_FRM_COUNT_LATE_COMMITS) := by
  have hcount : s.clearWaits.get F.SEQ_FRM_COUNT_LATE_COMMITS = s.get F.SEQ_FRM_COUNT_LATE_COMMITS :=
    clearWaits_get s _ (by decide)
  rw [clearHold_eq hbit hhold, selectContent_frame]
  cases hlate : s.afterDeadline with
  | true =>
    have hland : s.clearWaits.frm.holdClear = some ⟨s.now, true, true, false⟩ :=
      congrArg (fun late => some (Landing.mk s.now late late false)) hlate
    refine ⟨?_, ?_, ?_, fun _ => ⟨countLateCommit_late _, countLateCommit_evStatus _, ?_⟩, fun h => absurd h (by decide)⟩
    · exact (congrArg (· != 0) (countLateCommit_get_other _ F.SEQ_FRM_FORMAT_HOLD (by decide) (by decide) (by decide) (by decide))
        : ).trans (clearWaits_bit s)
    · exact (congrArg FrameEngine.hold (countLateCommit_frm s.clearWaits) :).trans hhold
    · exact (congrArg FrameEngine.holdClear (countLateCommit_frm s.clearWaits) :).trans hland
    · exact (countLateCommit_lateCommits s.clearWaits).trans (by rw [hcount])
  | false =>
    have hland : s.clearWaits.frm.holdClear = some ⟨s.now, false, false, false⟩ :=
      congrArg (fun late => some (Landing.mk s.now late late false)) hlate
    exact ⟨clearWaits_bit s, hhold, hland, fun h => absurd h (by decide), fun _ => hcount⟩

/-! ## Slot 0 of the bands in HOLD -/

theorem getLsbD_clearBit (w : BitVec 64) (b i : Fin 64) :
    (w &&& ~~~(1#64 <<< b.val)).getLsbD i = (decide (i ≠ b) && w.getLsbD i) := by
  have hi := i.isLt
  simp only [BitVec.getLsbD_and, BitVec.getLsbD_not, BitVec.getLsbD_shiftLeft, BitVec.getLsbD_one, hi, decide_true, Bool.true_and]
  rw [Bool.and_comm]
  congr 1
  have hne : (i ≠ b) = (i.val ≠ b.val) := by rw [ne_eq, ne_eq, Fin.ext_iff]
  simp only [hne]
  rcases Nat.lt_trichotomy i.val b.val with h | h | h
  · simp [h, h.ne]
  · simp [h]
  · simp [h.ne', Nat.sub_ne_zero_of_lt h, Nat.not_lt.2 h.le]

theorem holdSlot0_bands {s : State} {b : Fin 64} (hband : s.frm.holdBands.getLsbD b = true)
    (hreached : s.reached (s.frm.holdAt + BitVec.ofNat 32 (b.val * (s.slotPeriod / 64))) = true) :
    (s.holdSlot0 b).frm.holdBands = s.frm.holdBands &&& ~~~(1#64 <<< b.val) := by
  unfold State.holdSlot0
  dsimp only
  rw [hband, hreached, Bool.and_self, State.when_true, holdTransition_frm]

theorem holdSlot0_done {s : State} {b : Fin 64} (hband : s.frm.holdBands.getLsbD b = false) : s.holdSlot0 b = s := by
  unfold State.holdSlot0
  dsimp only
  rw [hband, Bool.false_and, State.when_false]

end Sys2Proof.Machine
end

section
/-! What a fire of comparator 0 does to the frame engine (R18, R22, R29, R30, R139), and the frame engine's obligation. -/

open Sys2Proof Sys2Proof.Machine

namespace Sys2Proof.Machine

/-! ## A launch that starts a frame -/

theorem applySet_frm (s : State) (set : List (Nat × Word)) : (s.applySet set).frm = { s.frm with commit := none } := by
  have hset : (set.foldl (fun (u : State) x => u.setAct x.1 x.2) s).frm = s.frm := 
    foldl_keeps (f := fun (u : State) (x : Nat × Word) => u.setAct x.1 x.2) State.frm (fun _ _ => rfl) set s
  unfold State.applySet
  dsimp only
  rw [hset]

/-- At a launch the commit that waits changes, in the frame engine, itself alone. -/
theorem launchCommit_frm (s : State) : s.launchCommit.frm = { s.frm with commit := s.launchCommit.frm.commit } := by
  unfold State.launchCommit
  split
  · rw [applySet_frm]
  · split
    · rfl
    · rfl

theorem selectContent_frm (s : State) : s.selectContent.frm = { s.frm with sel := s.selectContent.frm.sel } :=
  (congrArg State.frm (selectContent_frame s) :)

theorem cutoff_frm (s : State) : s.cutoff.frm = { s.frm with sel := s.cutoff.frm.sel } := by
  unfold State.cutoff
  split
  · rfl
  · rw [countRepeat_frm]

/-- The state at a launch with its commit judged, HOLD over and its content chosen (R22, R29, R30). -/
def State.contentChosen (s : State) : State :=
  let u := s.launchCommit
  let u := { u with frm := { u.frm with hold := false, holdClear := none } }
  u.selectContent.cutoff

theorem contentChosen_frm (s : State) : ∃ c sel, s.contentChosen.frm =
    { s.frm with commit := c, hold := false, holdClear := none, sel := sel } := by
  refine ⟨s.launchCommit.frm.commit, s.contentChosen.frm.sel, ?_⟩
  unfold State.contentChosen
  dsimp only
  generalize hu : ({ s.launchCommit with frm := { s.launchCommit.frm with hold := false, holdClear := none } } : State) = u
  have hfrm : u.frm = { s.frm with commit := s.launchCommit.frm.commit, hold := false, holdClear := none } := by
    rw [← hu]
    dsimp only
    rw [launchCommit_frm]
  rw [cutoff_frm, selectContent_frm, hfrm]

/-- No emitter may light at a launch, so its frame is dark (R292). -/
def State.darkLaunch (u : State) : Bool := !u.bit F.TRL_CTL_INIT_DONE

/-- The selection at a launch; a dark frame where nothing is selected (R22). -/
def State.chosenSel (u : State) : Selection := u.frm.sel.getD ⟨none, none, true⟩

/-- The selection with which the frame runs. -/
def State.runSel (u : State) : Selection := if u.darkLaunch then ⟨none, none, true⟩ else u.chosenSel

/-- A frame made dark at its launch is counted, once (R22). -/
def State.darkCounted (u : State) : State := if u.darkLaunch && !u.chosenSel.counted then u.countRepeat else u

/-- The run of the frame that starts at `t` with what `u` has chosen; `s` is the state before the launch. -/
def State.runFrom (s u : State) (t : Word) : FrameRun :=
  ⟨t, u.darkCounted.actGet F.SEQ_FRM_FORMAT_SLOTS, u.darkCounted.slotPeriod,
    BitVec.ofNat 6 (u.darkCounted.actGet F.SEQ_FRM_FORMAT_LAYER_MASK), 0, false, s.frm.transition,
    s.frm.transition || u.darkLaunch, u.runSel, u.darkCounted.frm.count + 1, s.nextBase⟩

/-- The content that counts as shown once the frame runs. -/
def State.shownAfter (s u : State) : Option Word :=
  match u.runSel.content with
  | some c => if s.frm.transition then u.darkCounted.frm.shown else some c.2
  | none => u.darkCounted.frm.shown

/-- The state in which the frame runs, before its work and its links are set up. -/
def State.frameRuns (s u : State) (t : Word) : State :=
  { u.darkCounted with
    frm := { u.darkCounted.frm with
      count := u.darkCounted.frm.count + 1, run := some (s.runFrom u t), sel := none, shown := s.shownAfter u, ranFrame := true
      mapSlots := u.darkCounted.actGet F.SEQ_FRM_FORMAT_SLOTS
      mapMask := BitVec.ofNat 6 (u.darkCounted.actGet F.SEQ_FRM_FORMAT_LAYER_MASK) }
    trl := { u.darkCounted.trl with truncEv := false, darkEv := false } }

/-- A launch's work dropped, waveforms, blink and links taken on (R30, R78, R268, R273, R274, R285, R286, R300). -/
def State.linksDriven (old v : State) (r : Nat) (t : Word) : State :=
  let w := ((v.dropFrom r).tryWave v.slotPeriod).selectBand.reblank
  ((w.blinkStep true t).cfgIfChanged old).launchPush

theorem startFrame_eq (s : State) (t : Word) : s.startFrame t =
    (((s.linksDriven (s.frameRuns s.contentChosen t)
      (if s.contentChosen.darkLaunch then s.nextBase
        else s.nextBase + s.contentChosen.darkCounted.actGet F.SEQ_FRM_FORMAT_SLOTS) t).armed 1 t).selectContent).darkFill := by
  unfold State.startFrame State.linksDriven
  rfl

theorem linksDriven_frm (old v : State) (r : Nat) (t : Word) : (old.linksDriven v r t).frm = v.frm := by
  unfold State.linksDriven
  dsimp only
  rw [launchPush_frm, cfgIfChanged_frm, blinkStep_frm]
  exact (selectBand_frm _).trans (tryWave_frm _ _)

theorem darkCounted_frm (u : State) : u.darkCounted.frm = u.frm := by
  unfold State.darkCounted
  split
  · exact countRepeat_frm u
  · rfl

/-- The frame engine after a launch at `t` that starts a frame: the frame runs from its slot 0 on, out of HOLD. -/
def FrameEngine.StartedBy (e f : FrameEngine) (t : Word) : Prop :=
  f.count = e.count + 1 ∧ f.hold = false ∧ f.lastLaunch = e.lastLaunch ∧
    ∃ r, f.run = some r ∧ r.launch = t ∧ r.next = 0 ∧ r.ended = false ∧ r.number = e.count + 1 ∧ r.transition = e.transition

theorem frameRuns_startedBy (s : State) (t : Word) : s.frm.StartedBy (s.frameRuns s.contentChosen t).frm t := by
  obtain ⟨c, sel, hfrm⟩ := contentChosen_frm s
  have hcount : s.contentChosen.darkCounted.frm.count = s.frm.count := by rw [darkCounted_frm, hfrm]
  refine ⟨congrArg (· + 1) hcount, ?_, ?_, s.runFrom s.contentChosen t, rfl, rfl, rfl, rfl, congrArg (· + 1) hcount, rfl⟩
  · exact (congrArg FrameEngine.hold ((darkCounted_frm _).trans hfrm) :)
  · exact (congrArg FrameEngine.lastLaunch ((darkCounted_frm _).trans hfrm) :)

theorem startFrame_startedBy (s : State) (t : Word) : s.frm.StartedBy (s.startFrame t).frm t := by
  rw [startFrame_eq, darkFill_frm, selectContent_frm]
  have hdriven (v : State) (r : Nat) : ((s.linksDriven v r t).armed 1 t).frm = v.frm := linksDriven_frm s v r t
  rw [hdriven]
  exact frameRuns_startedBy s t

theorem armed_bit_one (s : State) (t : Word) : (s.armed 1 t).bit (F.SEQ_LC_CFG_ARM 1) = true := by
  unfold State.armed
  rw [bit_put _ _ _ (by decide)]
  rfl

theorem armed_target (s : State) (c : Nat) (t : Word) : (s.armed c t).target c = t := by
  unfold State.armed State.setTarget
  exact (State.actReg_setAct _ _ _ _).trans (if_pos rfl)

theorem selectContent_bit (s : State) (f : Field) : s.selectContent.bit f = s.bit f := by
  rw [selectContent_frame]
  rfl

theorem selectContent_target (s : State) (c : Nat) : s.selectContent.target c = s.target c := by
  rw [selectContent_frame]
  rfl

theorem startFrame_bit_one (s : State) (t : Word) : (s.startFrame t).bit (F.SEQ_LC_CFG_ARM 1) = true := by
  rw [startFrame_eq, darkFill_keeps _ (fun u => u.bit (F.SEQ_LC_CFG_ARM 1)) fun _ _ _ => rfl, selectContent_bit, armed_bit_one]

theorem startFrame_target_one (s : State) (t : Word) : (s.startFrame t).target 1 = t := by
  rw [startFrame_eq, darkFill_keeps _ (fun u => u.target 1) fun _ _ _ => rfl, selectContent_target, armed_target]

/-! ## The fire of comparator 0 -/

theorem holdLaunch_frm (s : State) (t : Word) : (s.holdLaunch t).frm =
    { s.frm with
      holdClear := s.frm.holdClear.map Landing.pass
      commit := s.frm.commit.map fun (c : Commit) => { c with land := c.land.pass } } := by
  unfold State.holdLaunch
  rw [launchPush_frm, blinkStep_frm, selectBand_frm]

/-- The comparators of the cutoff and the commit deadline fire if due, and are disarmed, at a launch. -/
def State.cutoffsFired (s : State) : State :=
  let u := if s.due 2 then s.fired 2 else s
  let v := if u.due 3 then u.fired 3 else u
  (v.put (F.SEQ_LC_CFG_ARM 2) 0).put (F.SEQ_LC_CFG_ARM 3) 0

theorem cutoffsFired_frm (s : State) : s.cutoffsFired.frm = s.frm := by
  unfold State.cutoffsFired
  dsimp only
  split <;> split <;> rfl

/-- The state at a launch at `t`, before it starts a frame or none. -/
def State.launchNoted (s : State) (t : Word) : State :=
  let u := s.cutoffsFired.applyHold.raise (srcSeq 24)
  { u with frm := { u.frm with lastLaunch := some t, tickBase := some t } }

/-- A launch starts a frame: out of HOLD, or where its clearing applies (R29). -/
def FrameEngine.starts (e : FrameEngine) : Bool :=
  !e.hold || (match e.holdClear with
    | some x => x.applies
    | none => false)

/-- The state after a launch has started a frame or none. -/
def State.launchedAt (s : State) (t : Word) : State :=
  if (s.cutoffsFired.applyHold.raise (srcSeq 24)).frm.starts then (s.launchNoted t).startFrame t else (s.launchNoted t).holdLaunch t

theorem launchLine_eq (s : State) (t : Word) : s.launchLine t =
    { s.launchedAt t with frm := { (s.launchedAt t).frm with transition := false } }.restartIdle := by
  unfold State.launchLine
  rfl

theorem launchRaised_frm {s : State} (h : s.frm.holdSet = false) :
    (s.cutoffsFired.applyHold.raise (srcSeq 24)).frm = s.frm := by
  have hset : s.cutoffsFired.frm.holdSet = false := (congrArg FrameEngine.holdSet (cutoffsFired_frm s)).trans h
  rw [raise_frm (by decide), applyHold_idle (.inl hset), cutoffsFired_frm]

theorem launchNoted_frm {s : State} (h : s.frm.holdSet = false) (t : Word) :
    (s.launchNoted t).frm = { s.frm with lastLaunch := some t, tickBase := some t } := by
  unfold State.launchNoted
  dsimp only
  rw [launchRaised_frm h]

theorem launchedAt_of_starts {s : State} (hset : s.frm.holdSet = false) (h : s.frm.starts = true) (t : Word) :
    s.launchedAt t = (s.launchNoted t).startFrame t := by
  rw [State.launchedAt, launchRaised_frm hset, if_pos h]

theorem launchedAt_of_not_starts {s : State} (hset : s.frm.holdSet = false) (h : s.frm.starts = false) (t : Word) :
    s.launchedAt t = (s.launchNoted t).holdLaunch t := by
  rw [State.launchedAt, launchRaised_frm hset, if_neg (Bool.eq_false_iff.1 h)]

/-- A launch out of HOLD, or one at which the clearing of HOLD applies, starts the next frame. -/
theorem launchedAt_startedBy {s : State} (hset : s.frm.holdSet = false) (h : s.frm.starts = true) (t : Word) :
    ({ s.frm with lastLaunch := some t, tickBase := some t } : FrameEngine).StartedBy (s.launchedAt t).frm t := by
  rw [launchedAt_of_starts hset h, ← launchNoted_frm hset t]
  exact startFrame_startedBy _ t

/-- A launch in HOLD leaves the frame engine as it is but for the launch's time and what waits for the next one. -/
theorem launchedAt_held {s : State} (hset : s.frm.holdSet = false) (h : s.frm.starts = false) (t : Word) :
    (s.launchedAt t).frm =
      { s.frm with
        lastLaunch := some t, tickBase := some t, holdClear := s.frm.holdClear.map Landing.pass
        commit := s.frm.commit.map fun (c : Commit) => { c with land := c.land.pass } } := by
  rw [launchedAt_of_not_starts hset h, holdLaunch_frm, launchNoted_frm hset]

theorem launchedAt_lastLaunch {s : State} (hset : s.frm.holdSet = false) (t : Word) :
    (s.launchedAt t).frm.lastLaunch = some t := by
  cases h : s.frm.starts with
  | true =>
    obtain ⟨-, -, hlast, -⟩ := launchedAt_startedBy hset h t
    exact hlast
  | false => exact (congrArg FrameEngine.lastLaunch (launchedAt_held hset h t) :)

theorem launchLine_frm (s : State) (t : Word) : (s.launchLine t).frm = { (s.launchedAt t).frm with transition := false } := by
  rw [launchLine_eq]
  rfl

theorem launchLine_bit (s : State) (t : Word) (f : Field) : (s.launchLine t).bit f = (s.launchedAt t).bit f := by
  rw [launchLine_eq]
  rfl

theorem launchLine_target (s : State) (t : Word) (c : Nat) : (s.launchLine t).target c = (s.launchedAt t).target c := by
  rw [launchLine_eq]
  rfl

theorem fire_zero {s : State} (h : s.due 0 = true) : s.fire 0 = (s.fired 0).launchLine (s.target 0) := by
  unfold State.fire
  rw [h, State.when_true]
  rfl

/-! ## The obligation -/

/-- Settles O22: a launch is `launchedAt` its target, which starts a frame (`launchedAt_startedBy`) or none (`launchedAt_held`);
HOLD applies by `enterHold` and its clearing waits as `clearWaits`. -/
theorem framesLaunchAndHold : Obligations.FramesLaunchAndHold := by
  refine ⟨fun s hup hdue hset => answers_ifUp (f := fun u => u.fire 0) hup rfl ?_, ?_, ?_, ?_, ?_, ?_, ?_⟩
  · rw [fire_zero hdue, launchLine_frm]
    have hset' : (s.fired 0).frm.holdSet = false := hset
    refine ⟨launchedAt_lastLaunch hset' _, rfl, fun hin hclear => ?_, fun hout => ?_⟩
    · have hstarts : (s.fired 0).frm.starts = false := by
        change s.frm.starts = false
        rw [FrameEngine.starts, hin, hclear]
        rfl
      rw [launchedAt_held hset' hstarts]
      exact ⟨rfl, rfl, hin⟩
    · have hstarts : (s.fired 0).frm.starts = true := by
        change s.frm.starts = true
        rw [FrameEngine.starts, hout]
        rfl
      obtain ⟨hcount, hhold, -, hrun⟩ := launchedAt_startedBy hset' hstarts (s.target 0)
      rw [launchLine_bit, launchLine_target, launchedAt_of_starts hset' hstarts]
      exact ⟨launchedAt_of_starts hset' hstarts _ ▸ hcount, launchedAt_of_starts hset' hstarts _ ▸ hhold,
        startFrame_bit_one _ _, startFrame_target_one _ _, launchedAt_of_starts hset' hstarts _ ▸ hrun⟩
  · intro s hup hclear hout
    refine answers_ifUp hup rfl ⟨setHold_bit hclear hout, setHold_running hclear hout, fun hrun => ?_⟩
    rw [setHold_idle hclear hout hrun, enterHold_frm]
    exact ⟨rfl, rfl, rfl, rfl, rfl⟩
  · intro s f hup hset hf hrun
    refine answers_ifUp hup rfl ?_
    rw [applyHold_waiting hset hf hrun, enterHold_frm]
    exact ⟨rfl, rfl, rfl, rfl, rfl⟩
  · exact fun s hup h => exec_ifUp hup rfl (applyHold_idle h)
  · intro s hup hbit hhold
    exact answers_ifUp hup rfl (clearHold_lands hbit hhold)
  · intro s b hup hband hreached
    refine answers_ifUp (f := fun u => u.holdSlot0 b) hup rfl fun i => ?_
    rw [holdSlot0_bands hband hreached, getLsbD_clearBit]
  · exact fun s b hup hband => exec_ifUp (f := fun u => u.holdSlot0 b) hup rfl (holdSlot0_done hband)

end Sys2Proof.Machine
end

section
/-! The stripe queue and the stream decoders: what a header, a plane stripe and a mask leave of the store halves, the lanes and the
registers (R25, R59, R60, R69, R161, R174–R179). -/

open Sys2Proof Sys2Proof.Machine

namespace Sys2Proof.Machine

/-! ## Store halves and lanes -/

theorem half_setHalf (s : State) (b : Bool) (x : Option HalfFrame) : (s.setHalf b x).half b = x := by
  unfold State.setHalf State.half
  exact Vector.getElem_set_self (Bool.toNat_lt b)

theorem half_setHalf_not (s : State) (b : Bool) (x : Option HalfFrame) : (s.setHalf b x).half (!b) = s.half (!b) := by
  unfold State.setHalf State.half
  exact Vector.getElem_set_ne (Bool.toNat_lt b) (Bool.toNat_lt !b) (by cases b <;> decide)

theorem half_onHalf {s : State} {b : Bool} {f : HalfFrame} (h : s.half b = some f) (g : HalfFrame → HalfFrame) :
    (s.onHalf b g).half b = some (g f) := by
  unfold State.onHalf
  rw [half_setHalf, h]
  rfl

theorem half_onHalf_not (s : State) (b : Bool) (g : HalfFrame → HalfFrame) : (s.onHalf b g).half (!b) = s.half (!b) :=
  half_setHalf_not s b _

theorem lane_onLane (s : State) (n : Fin 32) (f : Lane → Lane) : (s.onLane n f).codec.lanes[n] = f s.codec.lanes[n] :=
  Vector.getElem_set_self _

/-! ## Operations that change the store's memory alone -/

section Store

variable {α : Type} (g : State → α) (hg : ∀ (u : State) m, g { u with mem := m } = g u)
include hg

theorem putComp_keeps (s : State) (h : FrameHeader) (b : Bool) (v pl i j x : Nat) : g (s.putComp h b v pl i j x) = g s := by
  unfold State.putComp
  split
  · rfl
  · exact hg s _

theorem fillRegion_keeps (s : State) (b : Bool) (f : HalfFrame) (r : StripeRegion) : g (s.fillRegion b f r) = g s :=
  foldl_keeps g (fun t _ => foldl_keeps g (fun u _ => putComp_keeps g hg u _ _ _ _ _ _ _) _ t) _ s

theorem writeSamples_keeps (s : State) (b : Bool) (f : HalfFrame) (h : StripeHead) (out : List (List (Array Nat))) :
    g (s.writeSamples b f h out) = g s :=
  foldl_keeps g (fun t _ => foldl_keeps g (fun u _ => foldl_keeps g (fun v _ => putComp_keeps g hg v _ _ _ _ _ _ _) _ u) _ t) _ s

theorem writeIndex_keeps (s : State) (b : Bool) (h : FrameHeader) (v : Nat) (mask : List Bool) :
    g (s.writeIndex b h v mask) = g s :=
  foldl_keeps (fun t : State × Nat => g t.1) (fun t i => by
    dsimp only
    split
    · exact hg t.1 _
    · exact hg t.1 _) _ (s, h.poolFirst v)

end Store

/-! ## Counters of failures -/

theorem srcLane_one (n : Nat) : srcLane n 1 = 193 + 4 * n := by
  unfold srcLane
  omega

theorem srcLane_lt (n : Fin 32) {k : Nat} (h : k < 4) : srcLane n k < 1024 := by
  unfold srcLane
  omega

section StripeFail

variable (s : State) (n : Fin 32) (cause view plane : Nat)

theorem stripeFail_codec : (s.stripeFail n cause view plane).codec = s.codec := raise_codec (srcLane_lt n (by decide))

theorem stripeFail_evStatus : (s.stripeFail n cause view plane).evStatus (193 + 4 * n) = true := by
  rw [← srcLane_one]
  exact raise_evStatus (srcLane_lt n (by decide))

theorem stripeFail_count : (s.stripeFail n cause view plane).get F.CODEC_STRIPE_ERR_COUNT =
    min (s.get F.CODEC_STRIPE_ERR_COUNT + 1) 65535 := by
  rw [State.stripeFail, raise_get_high (srcLane_lt n (by decide)) (by decide), State.get_put_other _ _ _ _ (by decide) (by decide),
    State.get_put_other _ _ _ _ (by decide) (by decide), State.get_put_other _ _ _ _ (by decide) (by decide), get_count _ _ (by decide)]
  rfl

theorem stripeFail_cause : (s.stripeFail n cause view plane).get F.CODEC_STRIPE_ERR_CAUSE = cause % 16 := by
  rw [State.stripeFail, raise_get_high (srcLane_lt n (by decide)) (by decide), State.get_put_other _ _ _ _ (by decide) (by decide),
    State.get_put_other _ _ _ _ (by decide) (by decide), State.get_put _ _ _ (by decide)]
  rfl

theorem stripeFail_plane : (s.stripeFail n cause view plane).get F.CODEC_STRIPE_ERR_PLANE = plane % 16 := by
  rw [State.stripeFail, raise_get_high (srcLane_lt n (by decide)) (by decide), State.get_put _ _ _ (by decide)]
  rfl

end StripeFail

/-! ## A header takes a half -/

/-- A waiting header takes the free half, which no stripe has reached yet (R25). -/
theorem startDecode_starts {s : State} {h : FrameHeader} {first b : Bool} (hwait : s.codec.waiting = some (h, first))
    (hfree : s.freeHalf = some b) :
    ∃ alone, s.startDecode.codec.waiting = none ∧ s.startDecode.codec.started = some b ∧
      s.startDecode.half (!b) = s.half (!b) ∧ s.startDecode.regs = s.regs ∧
      s.startDecode.half b = some ⟨h, false, alone, [], [], [], [], [], []⟩ := by
  have hkeeps {α : Type} (g : State → α) (hg : ∀ (u : State) m, g { u with mem := m } = g u) (t : State) :
      g ((List.range h.k).foldl (fun t v => t.writeIndex b h v []) t) = g t :=
    foldl_keeps g (fun u v => writeIndex_keeps g hg u b h v []) _ t
  refine ⟨first || s.codec.started != some (!b) || (s.half (!b)).isNone, ?_⟩
  unfold State.startDecode
  rw [hwait, hfree]
  dsimp only
  refine ⟨?_, ?_, ?_, ?_, ?_⟩
  · exact hkeeps (fun u => u.codec.waiting) (fun _ _ => rfl) _
  · exact hkeeps (fun u => u.codec.started) (fun _ _ => rfl) _
  · exact (hkeeps (fun u => u.half (!b)) (fun _ _ => rfl) _).trans (half_setHalf_not s b _)
  · exact hkeeps (fun u => u.regs) (fun _ _ => rfl) _
  · exact (hkeeps (fun u => u.half b) (fun _ _ => rfl) _).trans (half_setHalf s b _)

/-! ## The first stripe that need not wait -/

/-- What lane `n` does with a stripe taken from the queue (R161, R174, R177). -/
def State.decodeTaken (s : State) (n : Fin 32) (q : QStripe) (stall : Bool) : State :=
  let h := StripeHead.ofBytes q.bytes
  if !stripeHcrc q.bytes then s.stripeFail n 1 (if h.ty = 1 then 0 else h.view) (if h.ty = 1 then 0 else h.plane)
  else if h.ty = 1 then s.takeHeader n q
  else if h.ty ≠ 0 then s.stripeFail n 2 h.view h.plane
  else s.takePlane n q stall

/-- The state with another stripe queue. -/
def State.withQueue (s : State) (l : List QStripe) : State := { s with codec := { s.codec with queue := l } }

theorem findIdx?_first {α : Type} (p : α → Bool) (pre rest : List α) (q : α) (hpre : ∀ x ∈ pre, p x = false) (hq : p q = true) :
    (pre ++ q :: rest).findIdx? p = some pre.length := by
  rw [List.findIdx?_append, List.findIdx?_eq_none_iff.2 hpre, List.findIdx?_cons, hq]
  simp

/-- The stripes before the first one that need not wait stay in the queue; those of a clip join the last accepted header where
that one is a header. -/
theorem stripeDecode_eq {s : State} {pre rest : List QStripe} {q : QStripe} (hqueue : s.codec.queue = pre ++ q :: rest)
    (hpre : ∀ x ∈ pre, s.mustWait x = true) (hq : s.mustWait q = false) (n : Fin 32) (stall : Bool) :
    s.stripeDecode n stall =
      (s.withQueue ((if stripeHcrc q.bytes && (StripeHead.ofBytes q.bytes).ty == 1 then pre.map s.stamp1 else pre) ++ rest)).decodeTaken
        n q stall := by
  have hfind : s.codec.queue.findIdx? (fun x => !s.mustWait x) = some pre.length := by
    rw [hqueue]
    refine findIdx?_first _ pre rest q (fun x hx => ?_) ?_
    · rw [hpre x hx]
      rfl
    · rw [hq]
      rfl
  have hget : s.codec.queue[pre.length]? = some q := by
    rw [hqueue]
    simp
  have htake : s.codec.queue.take pre.length = pre := by
    rw [hqueue]
    simp
  have hdrop : s.codec.queue.drop (pre.length + 1) = rest := by
    rw [hqueue]
    simp
  unfold State.stripeDecode
  rw [hfind]
  dsimp only
  rw [hget]
  dsimp only
  rw [htake, hdrop]
  rfl

/-- STRIPE_DECODE on a free decoder. -/
theorem exec_stripeDecode {s t : State} {n : Fin 32} {stall : Bool} (hup : s.up = true) (hfree : s.decoderFree n = true)
    (ht : s.stripeDecode n stall = t) : exec (.stripeDecode n stall) s = .next t := by
  refine exec_ifUp (f := fun u => u.when (u.decoderFree n) (·.stripeDecode n stall)) hup rfl ?_
  rw [hfree, State.when_true, ht]

end Sys2Proof.Machine
end

section
/-! Plane stripes and headers as a decoder takes them (R59, R60, R174, R177, R188). -/

open Sys2Proof Sys2Proof.Machine

namespace Sys2Proof.Machine

/-! ## A stripe taken from the queue -/

section Taken

variable {q : QStripe} {h : StripeHead} (hh : h = StripeHead.ofBytes q.bytes)
include hh

section

variable (s : State) (n : Fin 32) (stall : Bool)

theorem decodeTaken_of_badHcrc (hcrc : stripeHcrc q.bytes = false) :
    s.decodeTaken n q stall = s.stripeFail n 1 (if h.ty = 1 then 0 else h.view) (if h.ty = 1 then 0 else h.plane) := by
  rw [State.decodeTaken, hcrc, hh]
  rfl

theorem decodeTaken_of_type (hcrc : stripeHcrc q.bytes = true) (h0 : h.ty ≠ 0) (h1 : h.ty ≠ 1) :
    s.decodeTaken n q stall = s.stripeFail n 2 h.view h.plane := by
  subst hh
  rw [State.decodeTaken, hcrc]
  exact (if_neg Bool.false_ne_true).trans ((if_neg h1).trans (if_pos h0))

theorem decodeTaken_of_header (hcrc : stripeHcrc q.bytes = true) (h1 : h.ty = 1) :
    s.decodeTaken n q stall = s.takeHeader n q := by
  subst hh
  rw [State.decodeTaken, hcrc]
  exact (if_neg Bool.false_ne_true).trans (if_pos h1)

theorem decodeTaken_of_plane (hcrc : stripeHcrc q.bytes = true) (h0 : h.ty = 0) :
    s.decodeTaken n q stall = s.takePlane n q stall := by
  subst hh
  rw [State.decodeTaken, hcrc]
  exact (if_neg Bool.false_ne_true).trans ((if_neg (by rw [h0]; decide)).trans (if_neg (not_not.2 h0)))

end

theorem ite_header_eq {α : Type} (hno : stripeHcrc q.bytes = false ∨ h.ty ≠ 1) (x y : α) :
    (if stripeHcrc q.bytes && (StripeHead.ofBytes q.bytes).ty == 1 then x else y) = y := by
  refine if_neg ?_
  rcases hno with hcrc | hty
  · simp [hcrc]
  · simp [← hh, hty]

/-! ## Plane stripes -/

variable {s : State} (n : Fin 32) (stall : Bool) {b : Bool} {f : HalfFrame}

omit hh in
theorem takePlane_unmatched (hnone : s.halfOfSeq (s.joins q) = none) : s.takePlane n q stall = s.staleStripe := by
  have hjoined : s.halfOfSeq (s.joins { q with seq := some (s.joins q) }) = none := hnone
  unfold State.takePlane
  dsimp only
  rw [hjoined]

/-- What lane `n` does with a plane stripe of the frame in half `b`. -/
def State.takeRegion (s : State) (n : Fin 32) (q : QStripe) (stall : Bool) (b : Bool) (f : HalfFrame) : State :=
  let h := StripeHead.ofBytes q.bytes
  let q := { q with seq := some (s.joins q) }
  let t := s.onHalf b fun g => { g with taken := h.region :: g.taken }
  if stall then t.hold n q f.taken else t.decodeStripe n b { f with taken := h.region :: f.taken } q f.taken

theorem takePlane_matched (hb : s.halfOfSeq (s.joins q) = some b) (hf : s.half b = some f)
    (hlost : (backPlane h.plane && f.lost.contains h.view) = false) :
    s.takePlane n q stall =
      if h.illegal f.hdr then s.stripeFail n 2 h.view h.plane
      else if f.taken.any fun r => r.meets h.region then s.staleStripe
      else s.takeRegion n q stall b f := by
  have hjoined : s.halfOfSeq (s.joins { q with seq := some (s.joins q) }) = some b := hb
  subst hh
  unfold State.takePlane
  dsimp only
  rw [hjoined]
  dsimp only
  rw [hf]
  dsimp only
  rw [hlost]
  rfl

theorem takeRegion_stalled (hf : s.half b = some f) :
    (s.takeRegion n q true b f).codec.lanes[n].stripe = some { q with seq := some (s.joins q) } ∧
    (s.takeRegion n q true b f).codec.lanes[n].earlier = f.taken ∧
    (s.takeRegion n q true b f).codec.queue = s.codec.queue ∧ (s.takeRegion n q true b f).regs = s.regs ∧
    (s.takeRegion n q true b f).mem = s.mem ∧
    (s.takeRegion n q true b f).half b = some { f with taken := h.region :: f.taken } ∧
    (s.takeRegion n q true b f).half (!b) = s.half (!b) := by
  subst hh
  have hlane := lane_onLane (s.onHalf b fun g => { g with taken := (StripeHead.ofBytes q.bytes).region :: g.taken }) n
    fun l => { l with stripe := some { q with seq := some (s.joins q) }, earlier := f.taken }
  refine ⟨?_, ?_, rfl, rfl, rfl, half_onHalf hf _, half_onHalf_not s b _⟩
  · exact congrArg Lane.stripe hlane
  · exact congrArg Lane.earlier hlane

end Taken

/-! ## Headers -/

/-- A header is not newer than the last accepted one (R59, cause 9). -/
def State.headerOld (s : State) (fseq : Word) : Bool :=
  match s.codec.lastSeq with
  | some w => !s.codec.anySeq && decide (sdiff fseq w ≤ 0)
  | none => false

theorem headerOld_iff (s : State) (fseq : Word) :
    s.headerOld fseq = true ↔ s.codec.anySeq = false ∧ ∃ w, s.codec.lastSeq = some w ∧ sdiff fseq w ≤ 0 := by
  unfold State.headerOld
  cases s.codec.lastSeq with
  | none => simp
  | some w => simp

/-- The fields of a header stripe that R157 fixes, and the check of its payload `l`. -/
structure HeaderStripeOk (h : StripeHead) (l : List Byte) : Prop where
  fields : (h.bad || h.bytes == 0 || h.plane != 0 || h.view != 0 || h.near != 0 || h.first != 0 || h.lines != 1) = false
  bits : h.bitsOk = true
  crc : h.rcrc = crc32c l

/-- A header is accepted: it waits for a half, in place of one that waited (R60). -/
def State.headerWaits (s : State) (n : Fin 32) (q : QStripe) : State :=
  let f := FrameHeader.ofBytes (stripePayload q.bytes)
  let t := s.replaceWaiting n
  { t with codec := { t.codec with lastSeq := some f.fseq, anySeq := false, waiting := some (f, q.alone) } }

section Payload

variable {q : QStripe} {l : List Byte} (hl : l = stripePayload q.bytes)
include hl

theorem takeHeader_eq (s : State) (n : Fin 32) (hok : HeaderStripeOk (StripeHead.ofBytes q.bytes) l) (hclip : q.clip = false) :
    s.takeHeader n q =
      if headerCause l s.gridW s.gridH true ≠ 0 then s.headerReject n (headerCause l s.gridW s.gridH true)
      else if s.headerOld (bytesWord l 4) then s.headerReject n 9
      else s.headerWaits n q := by
  subst hl
  unfold State.takeHeader
  dsimp only
  rw [hok.fields, hok.bits, hclip]
  dsimp only
  rw [if_neg Bool.false_ne_true, if_neg (by decide), if_neg (not_not.2 hok.crc)]
  rfl

theorem headerWaits_free {s : State} (n : Fin 32) (h : s.codec.waiting = none) :
    s.headerWaits n q = { s with codec := { s.codec with
      lastSeq := some (bytesWord l 4), anySeq := false, waiting := some (FrameHeader.ofBytes l, q.alone) } } := by
  subst hl
  unfold State.headerWaits State.replaceWaiting
  rw [h]
  rfl

end Payload

theorem headerReject_codec (s : State) (n : Fin 32) (cause : Nat) : (s.headerReject n cause).codec = s.codec :=
  raise_codec (srcLane_lt n (by decide))

theorem headerReject_cause (s : State) (n : Fin 32) (cause : Nat) :
    (s.headerReject n cause).get F.CODEC_TDV_REJECT_CAUSE = cause % 16 := by
  rw [State.headerReject, raise_get_high (srcLane_lt n (by decide)) (by decide), State.get_put _ _ _ (by decide)]
  rfl

theorem headerReject_evStatus (s : State) (n : Fin 32) (cause : Nat) :
    (s.headerReject n cause).evStatus (192 + 4 * n) = true := raise_evStatus (srcLane_lt n (k := 0) (by decide))

/-- A header that waited is ended by one that is accepted: its stripes leave the queue, with cause 10 (R60). -/
theorem headerWaits_replaces {s : State} {w : FrameHeader} {first : Bool} {q : QStripe} {l : List Byte}
    (hl : l = stripePayload q.bytes) (n : Fin 32) (h : s.codec.waiting = some (w, first)) :
    (s.headerWaits n q).codec.waiting = some (FrameHeader.ofBytes l, q.alone) ∧
    (s.headerWaits n q).codec.lastSeq = some (bytesWord l 4) ∧
    (s.headerWaits n q).codec.queue = s.codec.queue.filter (fun x => !x.belongs w) ∧
    (s.headerWaits n q).get F.CODEC_TDV_REJECT_CAUSE = 10 ∧ (s.headerWaits n q).evStatus (192 + 4 * n) = true := by
  subst hl
  unfold State.headerWaits State.replaceWaiting
  rw [h]
  refine ⟨rfl, rfl, ?_, headerReject_cause _ n 10, headerReject_evStatus _ n 10⟩
  exact (congrArg Codec.queue (headerReject_codec _ n 10) :)

end Sys2Proof.Machine
end

section
/-! What a decode, at once or after a suspension, leaves: the region is done, and a failure is counted (R69, R70, R176–R179). -/

open Sys2Proof Sys2Proof.Machine

namespace Sys2Proof.Machine

/-! ## What the store's operations keep of the decoders -/

/-- The registers in which decoding shows the store's state (R72, R179). -/
def storeRegs : List Nat := [F.CODEC_TAINT_ROWS.addr, F.CODEC_TDV_FRAME_addr, F.CODEC_TDV_HALF_HALF.addr]

/-- From `s` to `t` the lanes, the stripe queue, and every register that does not show the store's state are kept. -/
structure KeepsStream (s t : State) : Prop where
  lanes : t.codec.lanes = s.codec.lanes
  queue : t.codec.queue = s.codec.queue
  reg : ∀ a ∉ storeRegs, t.reg a = s.reg a

namespace KeepsStream

variable {s t u : State}

theorem refl (s : State) : KeepsStream s s := ⟨rfl, rfl, fun _ _ => rfl⟩

theorem trans (h : KeepsStream s t) (k : KeepsStream t u) : KeepsStream s u :=
  ⟨k.lanes.trans h.lanes, k.queue.trans h.queue, fun a ha => (k.reg a ha).trans (h.reg a ha)⟩

theorem get (h : KeepsStream s t) (f : Field) (hf : f.addr ∉ storeRegs) : t.get f = s.get f := congrArg f.of (h.reg _ hf)

theorem evStatus (h : KeepsStream s t) {n : Nat} (hn : n < 1024) : t.evStatus n = s.evStatus n := by
  have hhigh : ∀ a ∈ storeRegs, 0x50000 ≤ a := by decide
  unfold State.evStatus
  rw [h.reg _ fun hm => ?_]
  have := hhigh _ hm
  simp only [F.EVT_STAT_addr] at this
  omega

end KeepsStream

theorem setTaint_keeps (s : State) (l : List (Nat × Nat × Nat)) : KeepsStream s (s.setTaint l) :=
  ⟨rfl, rfl, fun a ha => reg_put_other _ _ _ _ fun e => ha (e ▸ by decide)⟩

theorem setTaint_half (s : State) (l : List (Nat × Nat × Nat)) (b : Bool) : (s.setTaint l).half b = s.half b := rfl

theorem onHalf_keeps (s : State) (b : Bool) (g : HalfFrame → HalfFrame) : KeepsStream s (s.onHalf b g) :=
  ⟨rfl, rfl, fun _ _ => rfl⟩

theorem cleanRows_keeps (s : State) (b : Bool) (keys : List (Nat × Nat × Nat)) : KeepsStream s (s.cleanRows b keys) :=
  setTaint_keeps s _

theorem cleanRows_half (s : State) (b : Bool) (keys : List (Nat × Nat × Nat)) : (s.cleanRows b keys).half b = s.half b := rfl

theorem taintRows_keeps (s : State) (b : Bool) (keys : List (Nat × Nat × Nat)) : KeepsStream s (s.taintRows b keys) :=
  (onHalf_keeps s b _).trans (setTaint_keeps _ _)

theorem taintRows_half {s : State} {b : Bool} {f : HalfFrame} (h : s.half b = some f) (keys : List (Nat × Nat × Nat)) :
    (s.taintRows b keys).half b = some { f with taint := f.taint ++ keys.filter fun k => !f.taint.contains k } :=
  half_onHalf h _

theorem fillRegion_keepsStream (s : State) (b : Bool) (f : HalfFrame) (r : StripeRegion) : KeepsStream s (s.fillRegion b f r) :=
  ⟨fillRegion_keeps (fun u => u.codec.lanes) (fun _ _ => rfl) s b f r, fillRegion_keeps (fun u => u.codec.queue) (fun _ _ => rfl) s b f r,
    fun a _ => fillRegion_keeps (fun u => u.reg a) (fun _ _ => rfl) s b f r⟩

theorem fillRegion_half (s : State) (b : Bool) (f : HalfFrame) (r : StripeRegion) : (s.fillRegion b f r).half b = s.half b :=
  fillRegion_keeps (fun u => u.half b) (fun _ _ => rfl) s b f r

/-! ## A region is done -/

/-- The registers that show a completely decoded frame are written, and no other (R72). -/
theorem frameShown_reg (s : State) (w : Word) (b : Bool) (used : Nat) {a : Nat} (ha : a ∉ storeRegs) :
    (((s.setReg F.CODEC_TDV_FRAME_addr w).putB F.CODEC_TDV_HALF_HALF b).put F.CODEC_TDV_HALF_USED_64B used).reg a = s.reg a := by
  have hframe : a ≠ F.CODEC_TDV_FRAME_addr := fun e => ha (e ▸ by decide)
  have hhalf : a ≠ F.CODEC_TDV_HALF_HALF.addr := fun e => ha (e ▸ by decide)
  have hused : a ≠ F.CODEC_TDV_HALF_USED_64B.addr := hhalf
  rw [reg_put_other _ _ _ _ hused, State.putB, reg_put_other _ _ _ _ hhalf, State.reg_setReg, if_neg hframe]

theorem checkComplete_keeps (s : State) (b : Bool) : KeepsStream s (s.checkComplete b) := by
  unfold State.checkComplete
  split
  · exact .refl s
  · split
    · exact .refl s
    · dsimp only
      rw [selectContent_frame]
      refine ⟨rfl, rfl, fun a ha => ?_⟩
      exact (reg_withFrm _ _ a).trans (frameShown_reg _ _ _ _ ha)

theorem checkComplete_half {s : State} {b : Bool} {f : HalfFrame} (h : s.half b = some f) :
    ∃ c, (s.checkComplete b).half b = some { f with complete := c } := by
  unfold State.checkComplete
  rw [h]
  dsimp only
  split
  · exact ⟨f.complete, h⟩
  · rw [selectContent_frame]
    exact ⟨true, half_onHalf h _⟩

theorem regionDone_keeps (s : State) (b : Bool) (r : StripeRegion) : KeepsStream s (s.regionDone b r) :=
  (onHalf_keeps s b _).trans (checkComplete_keeps _ b)

theorem regionDone_half {s : State} {b : Bool} {f : HalfFrame} (h : s.half b = some f) (r : StripeRegion) :
    ∃ c, (s.regionDone b r).half b = some { f with done := r :: f.done, complete := c } :=
  checkComplete_half (half_onHalf h _)

/-! ## A failure is counted and the region done -/

theorem failDone {s : State} {b : Bool} {f : HalfFrame} (h : s.half b = some f) (n : Fin 32) (cause view plane : Nat)
    (r : StripeRegion) (hc : cause < 16) (hp : plane < 16) :
    ((s.stripeFail n cause view plane).regionDone b r).codec.lanes = s.codec.lanes ∧
    ((s.stripeFail n cause view plane).regionDone b r).get F.CODEC_STRIPE_ERR_COUNT = min (s.get F.CODEC_STRIPE_ERR_COUNT + 1) 65535 ∧
    ((s.stripeFail n cause view plane).regionDone b r).get F.CODEC_STRIPE_ERR_CAUSE = cause ∧
    ((s.stripeFail n cause view plane).regionDone b r).get F.CODEC_STRIPE_ERR_PLANE = plane ∧
    ((s.stripeFail n cause view plane).regionDone b r).evStatus (193 + 4 * n) = true ∧
    ∃ c, ((s.stripeFail n cause view plane).regionDone b r).half b = some { f with done := r :: f.done, complete := c } := by
  have hk := regionDone_keeps (s.stripeFail n cause view plane) b r
  have hcodec := stripeFail_codec s n cause view plane
  have hhalf : (s.stripeFail n cause view plane).half b = some f := by
    unfold State.half at h ⊢
    rw [hcodec]
    exact h
  refine ⟨?_, ?_, ?_, ?_, ?_, regionDone_half hhalf r⟩
  · rw [hk.lanes, hcodec]
  · rw [hk.get _ (by decide), stripeFail_count]
  · rw [hk.get _ (by decide), stripeFail_cause, Nat.mod_eq_of_lt hc]
  · rw [hk.get _ (by decide), stripeFail_plane, Nat.mod_eq_of_lt hp]
  · rw [hk.evStatus (by omega), stripeFail_evStatus]

/-! ## A stripe that decodes, and one whose samples do not -/

/-- The samples of a stripe are written, and its region is done. -/
def State.samplesDone (s : State) (n : Fin 32) (b : Bool) (f : HalfFrame) (h : StripeHead) (out : List (List (Array Nat))) : State :=
  (((s.writeSamples b f h out).countSamples n (imageSamples (h.images f))).cleanRows b
    (h.region.rows.map fun r => (h.view, h.plane, r))).regionDone b h.region

theorem writeSamples_keepsStream (s : State) (b : Bool) (f : HalfFrame) (h : StripeHead) (out : List (List (Array Nat))) :
    KeepsStream s (s.writeSamples b f h out) :=
  ⟨writeSamples_keeps (fun u => u.codec.lanes) (fun _ _ => rfl) s b f h out,
    writeSamples_keeps (fun u => u.codec.queue) (fun _ _ => rfl) s b f h out,
    fun a _ => writeSamples_keeps (fun u => u.reg a) (fun _ _ => rfl) s b f h out⟩

theorem countSamples_keeps (s : State) (n : Fin 32) (k : Nat) : KeepsStream s (s.countSamples n k) := ⟨rfl, rfl, fun _ _ => rfl⟩

theorem countSamples_half (s : State) (n : Fin 32) (k : Nat) (b : Bool) : (s.countSamples n k).half b = s.half b := rfl

theorem samplesDone_keeps (s : State) (n : Fin 32) (b : Bool) (f : HalfFrame) (h : StripeHead) (out : List (List (Array Nat))) :
    KeepsStream s (s.samplesDone n b f h out) :=
  (((writeSamples_keepsStream s b f h out).trans (countSamples_keeps _ n _)).trans (cleanRows_keeps _ b _)).trans
    (regionDone_keeps _ b _)

theorem samplesDone_half {s : State} {b : Bool} {f : HalfFrame} (hf : s.half b = some f) (n : Fin 32) (h : StripeHead)
    (out : List (List (Array Nat))) :
    ∃ c, (s.samplesDone n b f h out).half b = some { f with done := h.region :: f.done, complete := c } := by
  have hwritten : (s.writeSamples b f h out).half b = some f :=
    (writeSamples_keeps (fun u => u.half b) (fun _ _ => rfl) s b f h out).trans hf
  unfold State.samplesDone
  refine regionDone_half ?_ h.region
  rw [cleanRows_half, countSamples_half, hwritten]

/-- The state in which a corrupt stripe's region is substituted, before the failure is counted (R178, R179). -/
def State.substituted (s : State) (b : Bool) (f : HalfFrame) (h : StripeHead) : State :=
  ((s.fillRegion b f h.region).taintRows b (h.region.rows.map fun r => (h.view, h.plane, r))).onHalf b fun g =>
    { g with subst := h.region :: g.subst }

theorem substitute_eq (s : State) (n : Fin 32) (b : Bool) (f : HalfFrame) (h : StripeHead) (cause : Nat) :
    s.substitute n b f h cause = ((s.substituted b f h).stripeFail n cause h.view h.plane).regionDone b h.region := rfl

theorem substituted_keeps (s : State) (b : Bool) (f : HalfFrame) (h : StripeHead) : KeepsStream s (s.substituted b f h) :=
  ((fillRegion_keepsStream s b f h.region).trans (taintRows_keeps _ b _)).trans (onHalf_keeps _ b _)

theorem substituted_half {s : State} {b : Bool} {f : HalfFrame} (hf : s.half b = some f) (h : StripeHead) :
    ∃ taint, (s.substituted b f h).half b = some { f with taint := taint, subst := h.region :: f.subst } :=
  ⟨_, half_onHalf (taintRows_half ((fillRegion_half s b f h.region).trans hf) _) _⟩

/-! ## Masks -/

theorem writeIndex_keepsStream (s : State) (b : Bool) (h : FrameHeader) (v : Nat) (mask : List Bool) :
    KeepsStream s (s.writeIndex b h v mask) :=
  ⟨writeIndex_keeps (fun u => u.codec.lanes) (fun _ _ => rfl) s b h v mask,
    writeIndex_keeps (fun u => u.codec.queue) (fun _ _ => rfl) s b h v mask,
    fun a _ => writeIndex_keeps (fun u => u.reg a) (fun _ _ => rfl) s b h v mask⟩

/-- The half whose frame's masks include the one that comes into force. -/
def HalfFrame.withMask (f : HalfFrame) (v : Nat) (mask : List Bool) : HalfFrame :=
  { f with masks := assocSet [] v mask f.masks }

theorem fillRegions_keepsStream {α : Type} (s : State) (b : Bool) (f : HalfFrame) (r : α → StripeRegion) (l : List α) :
    KeepsStream s (l.foldl (fun t x => t.fillRegion b f (r x)) s) := by
  induction l generalizing s with
  | nil => exact .refl s
  | cons x l ih => exact (fillRegion_keepsStream s b f (r x)).trans (ih _)

theorem fillRegions_half {α : Type} (s : State) (b : Bool) (f : HalfFrame) (r : α → StripeRegion) (l : List α) :
    (l.foldl (fun t x => t.fillRegion b f (r x)) s).half b = s.half b :=
  foldl_keeps (fun u : State => u.half b) (fun u x => fillRegion_half u b f (r x)) l s

theorem useMask_keeps (s : State) (b : Bool) (f : HalfFrame) (v : Nat) (mask : List Bool) : KeepsStream s (s.useMask b f v mask) :=
  ((onHalf_keeps s b _).trans (writeIndex_keepsStream _ b f.hdr v mask)).trans (fillRegions_keepsStream _ b _ id _)

theorem useMask_half {s : State} {b : Bool} {f : HalfFrame} (hf : s.half b = some f) (v : Nat) (mask : List Bool) :
    (s.useMask b f v mask).half b = some (f.withMask v mask) :=
  (fillRegions_half _ b _ id _).trans
    ((writeIndex_keeps (fun u => u.half b) (fun _ _ => rfl) _ b f.hdr v mask).trans (half_onHalf hf _))

/-- The cause for which a mask stripe fails; 0 where none does (R69, R177). -/
def maskCause (f : HalfFrame) (h : StripeHead) (l : List Byte) : Nat :=
  if !h.bitsOk then 3 else if h.rcrc ≠ crc32c l then 4
  else if (marked (maskBits f.hdr l)).length ≠ f.hdr.backBlocks h.view then 8 else 0

/-- The state in which a failed mask is substituted, before the failure is counted (R69, R178, R179). -/
def State.maskSubstituted (s : State) (b : Bool) (f : HalfFrame) (h : StripeHead) : State :=
  let mask := (List.range (f.hdr.bw * f.hdr.bh)).map fun i => (s.substMask b f h.view).contains i
  let t := s.useMask b f h.view mask
  let g := (t.half b).getD f
  let t := [8, 9, 10, 11, 12].foldl (fun t pl => t.fillRegion b g ⟨h.view, pl, 0, f.hdr.vh⟩) t
  let keys := (h.view, 5, 0) :: [8, 9, 10, 11, 12].flatMap fun pl => (List.range f.hdr.bh).map fun r => (h.view, pl, r)
  (t.onHalf b fun g => { g with lost := h.view :: g.lost, subst := h.region :: g.subst }).taintRows b keys

theorem decodeMask_eq (s : State) (n : Fin 32) (b : Bool) (f : HalfFrame) (h : StripeHead) (l : List Byte) :
    s.decodeMask n b f h l =
      if maskCause f h l = 0 then
        ((s.useMask b f h.view (maskBits f.hdr l)).cleanRows b [(h.view, 5, 0)]).regionDone b h.region
      else ((s.maskSubstituted b f h).stripeFail n (maskCause f h l) h.view 5).regionDone b h.region := rfl

theorem maskSubstituted_keeps (s : State) (b : Bool) (f : HalfFrame) (h : StripeHead) : KeepsStream s (s.maskSubstituted b f h) :=
  (((useMask_keeps s b f h.view _).trans (fillRegions_keepsStream _ b _ _ _)).trans (onHalf_keeps _ b _)).trans
    (taintRows_keeps _ b _)

theorem maskSubstituted_half {s : State} {b : Bool} {f : HalfFrame} (hf : s.half b = some f) (h : StripeHead) :
    ∃ masks taint, (s.maskSubstituted b f h).half b =
      some { f with masks := masks, taint := taint, lost := h.view :: f.lost, subst := h.region :: f.subst } :=
  ⟨_, _, taintRows_half (half_onHalf ((fillRegions_half _ b _ _ _).trans (useMask_half hf h.view _)) _) _⟩

/-! ## A decode goes on -/

theorem freeLane_stripe (s : State) (n : Fin 32) : (s.freeLane n).codec.lanes[n].stripe = none :=
  congrArg Lane.stripe (lane_onLane s n _)

theorem resumeDecode_eq {s : State} {n : Fin 32} {q : QStripe} {b : Bool} {f : HalfFrame}
    (hq : s.codec.lanes[n].stripe = some q) (hb : s.halfOfSeq (s.joins q) = some b) (hf : s.half b = some f) :
    s.resumeDecode n = s.decodeStripe n b f q s.codec.lanes[n].earlier := by
  unfold State.resumeDecode
  rw [hq]
  dsimp only
  rw [hb]
  dsimp only
  rw [hf]

/-- A plane stripe's fields and references allow its samples to be decoded (R69, R175, R177). -/
structure Decodable (f : HalfFrame) (earlier : List StripeRegion) (h : StripeHead) : Prop where
  plane : h.plane ≠ 5
  short : h.tooLong f = false
  back : backPlane h.plane = true → f.lost.contains h.view = false ∧ (f.hdr.backBlocks h.view ≠ 0 →
    lineIn earlier h.view 5 0 = true ∧ lineIn f.done h.view 5 0 = true)

theorem Decodable.maskRead {f : HalfFrame} {earlier : List StripeRegion} {h : StripeHead} (hd : Decodable f earlier h) :
    (if backPlane h.plane && f.hdr.backBlocks h.view != 0 then f.lineState earlier h.view 5 0 else .ok ()) = .ok () := by
  split
  next hback =>
    rw [Bool.and_eq_true, bne_iff_ne] at hback
    obtain ⟨hearlier, hdone⟩ := (hd.back hback.1).2 hback.2
    rw [HalfFrame.lineState, hearlier, hdone]
    rfl
  next => rfl

theorem Decodable.notLost {f : HalfFrame} {earlier : List StripeRegion} {h : StripeHead} (hd : Decodable f earlier h) :
    (backPlane h.plane && f.lost.contains h.view) = false := by
  cases hback : backPlane h.plane with
  | false => rfl
  | true => exact (hd.back hback).1

section DecodeStripe

variable {q : QStripe} {h : StripeHead} {l : List Byte} (hh : h = StripeHead.ofBytes q.bytes) (hl : l = stripePayload q.bytes)
include hh hl

theorem decodeStripe_mask (s : State) (n : Fin 32) (b : Bool) (f : HalfFrame) (earlier : List StripeRegion) (hp : h.plane = 5) :
    s.decodeStripe n b f q earlier = (s.freeLane n).decodeMask n b f h l := by
  subst hh hl
  exact if_pos hp

theorem decodeStripe_samples (s : State) (n : Fin 32) (b : Bool) {f : HalfFrame} {earlier : List StripeRegion}
    (hd : Decodable f earlier h) :
    s.decodeStripe n b f q earlier =
      match (s.freeLane n).decodeSamples b f earlier h l with
      | .error e => if e = waits then (s.freeLane n).hold n q earlier else (s.freeLane n).substitute n b f h e
      | .ok out => (s.freeLane n).samplesDone n b f h out := by
  subst hh hl
  unfold State.decodeStripe
  dsimp only
  rw [if_neg hd.plane, hd.maskRead]
  dsimp only
  rw [hd.notLost, hd.short]
  rfl

end DecodeStripe

end Sys2Proof.Machine
end

section
/-! The stripe obligation, clause by clause (R25, R59, R60, R69, R161, R174–R179). -/

open Sys2Proof Sys2Proof.Machine

namespace Sys2Proof.Machine

/-! ## A stripe taken by a free decoder -/

section Decode

variable {s : State} {n : Fin 32} {stall : Bool} {pre rest : List QStripe} {q : QStripe} {h : StripeHead}
  (hh : h = StripeHead.ofBytes q.bytes)
  (hqueue : s.codec.queue = pre ++ q :: rest) (hpre : ∀ x ∈ pre, s.mustWait x = true) (hq : s.mustWait q = false)
include hh hqueue hpre hq

theorem stripeDecode_of_badHcrc (hcrc : stripeHcrc q.bytes = false) :
    s.stripeDecode n stall = (s.withQueue (pre ++ rest)).stripeFail n 1
      (if h.ty = 1 then 0 else h.view) (if h.ty = 1 then 0 else h.plane) := by
  rw [stripeDecode_eq hqueue hpre hq, ite_header_eq hh (.inl hcrc), decodeTaken_of_badHcrc hh _ _ _ hcrc]

theorem stripeDecode_of_type (hcrc : stripeHcrc q.bytes = true) (h0 : h.ty ≠ 0) (h1 : h.ty ≠ 1) :
    s.stripeDecode n stall = (s.withQueue (pre ++ rest)).stripeFail n 2 h.view h.plane := by
  rw [stripeDecode_eq hqueue hpre hq, ite_header_eq hh (.inr h1), decodeTaken_of_type hh _ _ _ hcrc h0 h1]

theorem stripeDecode_of_plane (hcrc : stripeHcrc q.bytes = true) (h0 : h.ty = 0) :
    s.stripeDecode n stall = (s.withQueue (pre ++ rest)).takePlane n q stall := by
  rw [stripeDecode_eq hqueue hpre hq, ite_header_eq hh (.inr (by omega)), decodeTaken_of_plane hh _ _ _ hcrc h0]

end Decode

/-- A header never waits in the queue. -/
theorem mustWait_header {s : State} {q : QStripe} (h1 : (StripeHead.ofBytes q.bytes).ty = 1) : s.mustWait q = false := by
  unfold State.mustWait
  rw [h1]
  simp

theorem stripeDecode_of_header {s : State} {n : Fin 32} {stall : Bool} {pre rest : List QStripe} {q : QStripe}
    (hqueue : s.codec.queue = pre ++ q :: rest) (hpre : ∀ x ∈ pre, s.mustWait x = true)
    (hcrc : stripeHcrc q.bytes = true) (h1 : (StripeHead.ofBytes q.bytes).ty = 1) :
    s.stripeDecode n stall = (s.withQueue (pre.map s.stamp1 ++ rest)).takeHeader n q := by
  have htype : (stripeHcrc q.bytes && (StripeHead.ofBytes q.bytes).ty == 1) = true := by rw [hcrc, h1]; rfl
  rw [stripeDecode_eq hqueue hpre (mustWait_header h1), if_pos htype, decodeTaken_of_header rfl _ _ _ hcrc h1]

/-! ## A decode on a lane that holds a stripe -/

section Resume

variable {s : State} {n : Fin 32} {q : QStripe} {b : Bool} {f : HalfFrame}
  {h : StripeHead} {l : List Byte} (hh : h = StripeHead.ofBytes q.bytes) (hl : l = stripePayload q.bytes)
  (hq : s.codec.lanes[n].stripe = some q) (hb : s.halfOfSeq (s.joins q) = some b) (hf : s.half b = some f)
include hh hl hq hb hf

/-- Samples that decode are written, and the lane is free again. -/
theorem resume_decodes (hd : Decodable f s.codec.lanes[n].earlier h) {out : List (List (Array Nat))}
    (hout : (s.freeLane n).decodeSamples b f s.codec.lanes[n].earlier h l = .ok out) :
    (s.resumeDecode n).codec.lanes[n].stripe = none ∧ (s.resumeDecode n).codec.queue = s.codec.queue ∧
      (s.resumeDecode n).get F.CODEC_STRIPE_ERR_COUNT = s.get F.CODEC_STRIPE_ERR_COUNT ∧
      ∃ g, (s.resumeDecode n).half b = some g ∧ g.done = h.region :: f.done ∧ g.hdr = f.hdr := by
  rw [resumeDecode_eq hq hb hf, decodeStripe_samples hh hl s n b hd, hout]
  dsimp only
  have hk := samplesDone_keeps (s.freeLane n) n b f h out
  obtain ⟨c, hhalf⟩ := samplesDone_half (s := s.freeLane n) hf n h out
  exact ⟨hk.lanes ▸ freeLane_stripe s n, hk.queue, hk.get _ (by decide), _, hhalf, rfl, rfl⟩

/-- Samples that do not decode are substituted, and that counted with its cause. -/
theorem resume_substitutes (hd : Decodable f s.codec.lanes[n].earlier h) {cause : Nat}
    (hout : (s.freeLane n).decodeSamples b f s.codec.lanes[n].earlier h l = .error cause) (hc : cause < 16) :
    (s.resumeDecode n).codec.lanes[n].stripe = none ∧
      (s.resumeDecode n).get F.CODEC_STRIPE_ERR_COUNT = min (s.get F.CODEC_STRIPE_ERR_COUNT + 1) 65535 ∧
      (s.resumeDecode n).get F.CODEC_STRIPE_ERR_CAUSE = cause ∧
      (s.resumeDecode n).get F.CODEC_STRIPE_ERR_PLANE = h.plane ∧
      (s.resumeDecode n).evStatus (193 + 4 * n) = true ∧
      ∃ g, (s.resumeDecode n).half b = some g ∧ g.done = h.region :: f.done := by
  have hplane : h.plane < 16 := hh ▸ Nat.mod_lt _ (by decide)
  have hwaits : cause ≠ waits := by
    unfold waits
    omega
  rw [resumeDecode_eq hq hb hf, decodeStripe_samples hh hl s n b hd, hout]
  dsimp only
  rw [if_neg hwaits, substitute_eq]
  have hk := substituted_keeps (s.freeLane n) b f h
  obtain ⟨taint, hhalf⟩ := substituted_half (s := s.freeLane n) hf h
  obtain ⟨hlanes, hcount, hcause, hpl, hev, c, hdone⟩ := failDone hhalf n cause h.view h.plane h.region hc hplane
  refine ⟨hlanes.trans hk.lanes ▸ freeLane_stripe s n, ?_, hcause, hpl, hev, _, hdone, rfl⟩
  rw [hcount, hk.get _ (by decide)]
  rfl

/-- A mask that decodes comes into force. -/
theorem resume_mask (hplane : h.plane = 5) (hcause : maskCause f h l = 0) :
    (s.resumeDecode n).codec.lanes[n].stripe = none ∧
      (s.resumeDecode n).get F.CODEC_STRIPE_ERR_COUNT = s.get F.CODEC_STRIPE_ERR_COUNT ∧
      ∃ g, (s.resumeDecode n).half b = some g ∧ g.done = h.region :: f.done ∧
        assocGet [] h.view g.masks = maskBits f.hdr l := by
  rw [resumeDecode_eq hq hb hf, decodeStripe_mask hh hl s n b f _ hplane, decodeMask_eq, if_pos hcause]
  have hk := ((useMask_keeps (s.freeLane n) b f h.view (maskBits f.hdr l)).trans
    (cleanRows_keeps _ b [(h.view, 5, 0)])).trans (regionDone_keeps _ b h.region)
  have hmask := useMask_half (s := s.freeLane n) hf h.view (maskBits f.hdr l)
  obtain ⟨c, hhalf⟩ := regionDone_half (s := ((s.freeLane n).useMask b f _ _).cleanRows b [(h.view, 5, 0)]) hmask h.region
  refine ⟨hk.lanes ▸ freeLane_stripe s n, hk.get _ (by decide), _, hhalf, rfl, ?_⟩
  exact (assocGet_set _ _ _ _ _).trans (if_pos rfl)

/-- A mask that does not decode is substituted: the view counts as lost (R69). -/
theorem resume_lostMask (hplane : h.plane = 5) (hcause : maskCause f h l ≠ 0) (hlt : maskCause f h l < 16) :
    (s.resumeDecode n).codec.lanes[n].stripe = none ∧
      (s.resumeDecode n).get F.CODEC_STRIPE_ERR_COUNT = min (s.get F.CODEC_STRIPE_ERR_COUNT + 1) 65535 ∧
      (s.resumeDecode n).get F.CODEC_STRIPE_ERR_CAUSE = maskCause f h l ∧
      (s.resumeDecode n).get F.CODEC_STRIPE_ERR_PLANE = 5 ∧
      ∃ g, (s.resumeDecode n).half b = some g ∧ g.done = h.region :: f.done ∧ h.view ∈ g.lost := by
  rw [resumeDecode_eq hq hb hf, decodeStripe_mask hh hl s n b f _ hplane, decodeMask_eq, if_neg hcause]
  have hk := maskSubstituted_keeps (s.freeLane n) b f h
  obtain ⟨masks, taint, hhalf⟩ := maskSubstituted_half (s := s.freeLane n) hf h
  obtain ⟨hlanes, hcount, hc, hpl, -, c, hdone⟩ := failDone hhalf n _ h.view 5 h.region hlt (by decide)
  refine ⟨hlanes.trans hk.lanes ▸ freeLane_stripe s n, ?_, hc, hpl, _, hdone, rfl, List.mem_cons_self⟩
  rw [hcount, hk.get _ (by decide)]
  rfl

end Resume

/-! ## The causes of a mask -/

theorem maskCause_zero {f : HalfFrame} {h : StripeHead} {l : List Byte} (hbits : h.bitsOk = true) (hcrc : h.rcrc = crc32c l)
    (hblocks : (marked (maskBits f.hdr l)).length = f.hdr.backBlocks h.view) : maskCause f h l = 0 := by
  rw [maskCause, hbits]
  exact (if_neg (by decide)).trans ((if_neg (not_not.2 hcrc)).trans (if_neg (not_not.2 hblocks)))

theorem maskCause_failed {f : HalfFrame} {h : StripeHead} {l : List Byte}
    (hbad : h.bitsOk = false ∨ h.rcrc ≠ crc32c l ∨ (marked (maskBits f.hdr l)).length ≠ f.hdr.backBlocks h.view) :
    maskCause f h l = if h.bitsOk = false then 3 else if h.rcrc ≠ crc32c l then 4 else 8 := by
  unfold maskCause
  cases hbits : h.bitsOk with
  | false => rfl
  | true =>
    refine (if_neg (by decide)).trans (.trans ?_ (if_neg (by decide)).symm)
    by_cases hcrc : h.rcrc = crc32c l
    · have hblocks := (hbad.resolve_left (by rw [hbits]; decide)).resolve_left (not_not.2 hcrc)
      rw [if_neg (not_not.2 hcrc), if_neg (not_not.2 hcrc), if_pos hblocks]
    · rw [if_pos hcrc, if_pos hcrc]

/-! ## The obligation -/

/-- Settles O32: a stripe is taken by `stripeDecode_eq`, and each kind has its lemma: `decodeTaken`, `takePlane_matched`,
`takeHeader_eq`, and, where a lane holds it, `resume_decodes`, `resume_substitutes`, `resume_mask` and `resume_lostMask`. -/
theorem stripesQueueAndDecode : Obligations.StripesQueueAndDecode := by
  refine ⟨?_, ?_, ?_, ?_⟩
  · intro s h first b hup hwait hfree
    obtain ⟨alone, hwaiting, hstarted, hother, hregs, hhalf⟩ := startDecode_starts hwait hfree
    exact answers_ifUp hup rfl ⟨hwaiting, hstarted, hother, hregs, _, hhalf, rfl, rfl, rfl, rfl, rfl, rfl, rfl, rfl⟩
  · rintro s n stall pre rest q h hup hfree hqueue hpre hq rfl u rfl
    refine ⟨fun hcrc => ?_, fun hcrc h0 h1 => ?_, fun hcrc h0 => ⟨fun hnone => ?_, fun b f hb hf hlost => ?_⟩⟩
    · rw [exec_stripeDecode hup hfree (stripeDecode_of_badHcrc rfl hqueue hpre hq hcrc), ← srcLane_one]
      rfl
    · rw [exec_stripeDecode hup hfree (stripeDecode_of_type rfl hqueue hpre hq hcrc h0 h1), ← srcLane_one]
      rfl
    · exact exec_stripeDecode hup hfree ((stripeDecode_of_plane rfl hqueue hpre hq hcrc h0).trans (takePlane_unmatched n stall hnone))
    · have htaken (stall : Bool) := (stripeDecode_of_plane (n := n) (stall := stall) rfl hqueue hpre hq hcrc h0).trans
        (takePlane_matched (s := s.withQueue (pre ++ rest)) rfl n stall hb hf hlost)
      refine ⟨fun hill => ?_, fun hill hmeets => ?_, fun hill hmeets => ?_⟩
      · rw [exec_stripeDecode hup hfree ((htaken stall).trans (if_pos hill)), ← srcLane_one]
        rfl
      · exact exec_stripeDecode hup hfree
          ((htaken stall).trans ((if_neg (Bool.eq_false_iff.1 hill)).trans (if_pos hmeets)))
      · exact ⟨_, exec_stripeDecode hup hfree
          ((htaken true).trans ((if_neg (Bool.eq_false_iff.1 hill)).trans (if_neg (Bool.eq_false_iff.1 hmeets)))),
          takeRegion_stalled rfl n hf⟩
  · rintro s n stall pre rest q h l hup hfree hqueue hpre hcrc rfl rfl h1 hclip hbad hbytes hplane hview hnear hfirst hlines hbits
      hrcrc u old rfl hold
    have hok : HeaderStripeOk (StripeHead.ofBytes q.bytes) (stripePayload q.bytes) := ⟨by simp [hbad, hbytes, hplane, hview, hnear, hfirst, hlines], hbits, hrcrc⟩
    have hold' : s.headerOld (bytesWord (stripePayload q.bytes) 4) = old :=
      Bool.eq_iff_iff.2 ((headerOld_iff s _).trans hold.symm)
    have htaken := (stripeDecode_of_header (n := n) (stall := stall) hqueue hpre hcrc h1).trans
      (takeHeader_eq rfl (s.withQueue (pre.map s.stamp1 ++ rest)) n hok hclip)
    refine ⟨fun hcause => ?_, fun hcause ho => ?_, fun hcause ho hwait => ?_, fun hcause ho w first hwait => ?_⟩
    · exact exec_stripeDecode hup hfree (htaken.trans (if_pos hcause))
    · exact exec_stripeDecode hup hfree
        (htaken.trans ((if_neg (not_not.2 hcause)).trans (if_pos (hold'.trans ho))))
    · exact exec_stripeDecode hup hfree
        (htaken.trans ((if_neg (not_not.2 hcause)).trans ((if_neg (Bool.eq_false_iff.1 (hold'.trans ho))).trans
          (headerWaits_free rfl n hwait))))
    · exact ⟨_, exec_stripeDecode hup hfree
        (htaken.trans ((if_neg (not_not.2 hcause)).trans (if_neg (Bool.eq_false_iff.1 (hold'.trans ho))))),
        headerWaits_replaces rfl n hwait⟩
  · rintro s n q h b f l hup hq rfl rfl hb hf -
    refine ⟨fun hplane hshort hback => ⟨fun out hout => ?_, fun cause hout hc => ?_⟩, fun hplane hbits hcrc hblocks => ?_,
      fun hplane hbad => ?_⟩
    · exact answers_ifUp (f := fun u => u.resumeDecode n) hup rfl (resume_decodes rfl rfl hq hb hf ⟨hplane, hshort, hback⟩ hout)
    · exact answers_ifUp (f := fun u => u.resumeDecode n) hup rfl (resume_substitutes rfl rfl hq hb hf ⟨hplane, hshort, hback⟩ hout hc)
    · exact answers_ifUp (f := fun u => u.resumeDecode n) hup rfl (resume_mask rfl rfl hq hb hf hplane (maskCause_zero hbits hcrc hblocks))
    · refine answers_ifUp (f := fun u => u.resumeDecode n) hup rfl ?_
      rw [← maskCause_failed hbad]
      refine resume_lostMask rfl rfl hq hb hf hplane ?_ ?_
      · rw [maskCause_failed hbad]
        split_ifs <;> decide
      · rw [maskCause_failed hbad]
        split_ifs <;> decide

end Sys2Proof.Machine
end

section
/-! Instructions of a press at their words: where one whose fields are legal ends (R100–R102, R113, R120), and what a
scalar register reads then. -/

open Sys2Proof Sys2Proof.Machine

namespace Sys2Proof.Machine

/-! ## Issue on a press -/

/-- Where an instruction of words `c` leaves press `n`, by the effect it had on state `s`. -/
def State.pressEnds (s : State) (n : Fin 48) (c : Code) : Effect → State
  | .exc x => s.kernelException n x s.press[n].pc
  | .excIn t x => t.kernelException n x s.press[n].pc
  | .fence t => t.fence n 2
  | .wait t => t
  | .done t => t.countOps (n.castLE (by decide)) 1
  | .jump t target =>
    if target < 0 ∨ (kernelEnd : Int) ≤ target ∨ target % 4 ≠ 0 then
      (t.countOps (n.castLE (by decide)) 1).kernelException n 3 s.press[n].pc
    else State.pressTo n (BitVec.ofInt 32 target) t
  | .ok t => s.pressPast n c t

section Issue

variable {s : State} {n : Fin 48} {c : Code} (h : s.pressAt n c)
include h

/-- An instruction that stands whole at the PC, with legal fields, has its effect and ends. -/
theorem issue_of_pressAt {legal : Bool} (hlegal : legal = true) (f : Press → State → Effect) :
    s.issue n c legal f = s.pressEnds n c (f s.press[n] s) := by
  obtain ⟨-, hbusy, hfirst, hsecond, hroom⟩ := h
  have hfits : ¬(c.second.isSome ∧ kernelEnd ≤ s.press[n].pc.toNat + 4) := by
    rintro ⟨hsome, hend⟩
    rw [Code.words, if_pos hsome] at hroom
    omega
  have hwhole : (c.second.any fun x => s.word (kernelBase + (s.press[n].pc.toNat + 4)) != x) = false := by
    cases hc : c.second with
    | none => rfl
    | some x => exact bne_eq_false_iff_eq.2 (hsecond x hc)
  have hnext : ¬kernelEnd ≤ (s.press[n].pc + BitVec.ofNat 32 (4 * c.words)).toNat := by
    rw [BitVec.toNat_add, BitVec.toNat_ofNat]
    have := Nat.mod_le (s.press[n].pc.toNat + 4 * c.words % 2 ^ 32) (2 ^ 32)
    have := Nat.mod_le (4 * c.words) (2 ^ 32)
    omega
  unfold State.issue
  dsimp only
  rw [hbusy, if_neg (by decide), if_neg (not_not.2 hfirst), if_neg hfits, hwhole, if_neg (by decide), hlegal, if_neg (by decide)]
  cases f s.press[n] s with
  | ok t => exact if_neg hnext
  | jump t x => rfl
  | _ => rfl

/-- An instruction that runs in order leaves its press past its words. -/
theorem issue_ok {legal : Bool} (hlegal : legal = true) {f : Press → State → Effect} {t : State} (hf : f s.press[n] s = .ok t) :
    s.issue n c legal f = s.pressPast n c t := by
  rw [issue_of_pressAt h hlegal, hf]
  rfl

/-- An instruction that ends in an exception of its own. -/
theorem issue_exc {legal : Bool} (hlegal : legal = true) {f : Press → State → Effect} {x : Nat} (hf : f s.press[n] s = .exc x) :
    s.issue n c legal f = s.kernelException n x s.press[n].pc := by
  rw [issue_of_pressAt h hlegal, hf]
  rfl

theorem exec_issue_ok {i : Instr} {legal : Bool} {f : Press → State → Effect}
    (hexec : exec i s = .next (if s.up then s.issue n c legal f else s)) (hlegal : legal = true) {t : State}
    (hf : f s.press[n] s = .ok t) : exec i s = .next (s.pressPast n c t) := by
  rw [hexec, if_pos h.1, issue_ok h hlegal hf]

end Issue

/-! ## The registers of a press -/

theorem sreg_setS_same (p : Press) (f : BitVec 5) (w : Word) : (p.setS f w).sreg f = w := Vector.getElem_set_self _

/-- What is past an instruction has the registers that the instruction left. -/
theorem sreg_pressPast (s : State) (n : Fin 48) (c : Code) (t : State) (f : BitVec 5) :
    (s.pressPast n c t).press[n].sreg f = t.press[n].sreg f := by
  rw [State.pressPast, press_onPress_same]
  rfl

end Sys2Proof.Machine
end

section
/-! The local store of a press under a corrected error (R96, R114, R322, R396). -/

open Sys2Proof Sys2Proof.Machine

namespace Sys2Proof.Machine

/-- A word below the constants is the local store's. -/
theorem lsWord_of_lt (s : State) (n : Fin 48) {a : Nat} (ha : a < 0x1E000) : s.lsWord n a = (s.word (localBase n + a), s) :=
  if_neg (Nat.not_le.2 ha)

/-- A load of a word with one error in it, corrected: the error is reported, then the word loaded. -/
theorem loads_corrected (s : State) {n : Fin 48} {a : Nat} {h : EccHit} (hmeets : hitMeets h (localBase n + a) 4 = true)
    (hfixed : h.fixed = true) (f : State → State) : s.loads n [(a, 4)] [h] f = .ok (f (s.eccReport h)) := by
  simp [State.loads, hmeets, hfixed, State.eccReports]

/-- An LDS that meets one corrected error loads the word as it stands once the error is reported. -/
theorem exec_lds_corrected {s : State} {n : Fin 48} {o : Opnd} {h : EccHit} (hat : s.pressAt n (.low 32 o))
    (hlegal : o.legal .scalar .scalar .nothing false = true) {a : Nat} (ha : s.press[n].addr o 4 = a) (halign : a % 4 = 0)
    (hlt : a < 0x1E000) (hmeets : hitMeets h (localBase n + a) 4 = true) (hfixed : h.fixed = true) :
    exec (.lds n o [h]) s = .next (s.pressPast n (.low 32 o)
      ((s.eccReport h).onPress n (·.setS o.dst ((s.eccReport h).word (localBase n + a))))) := by
  have hgood : badLoad a 4 4 = false := decide_eq_false (by omega)
  refine exec_issue_ok hat rfl hlegal ?_
  rw [ha]
  dsimp only
  rw [hgood, if_neg (by decide), loads_corrected s hmeets hfixed, lsWord_of_lt _ n hlt]

/-- The LDS of the counterexample: s1 from the address in s0. -/
def loadS1 : Opnd := ⟨1, 0, 0, 0, 0, none⟩

/-- A corrected error in the first word of press 0's local store. -/
def firstWordHit : EccHit := ⟨0x06200000, true⟩

/-- A hub whose Updraft ring starts at the first byte of press 0's local store, where the event of a corrected on-chip error is
enabled and goes to the ring; press 0 runs a bundle and stands at an LDS of that byte. -/
def ringInLocalStore : State :=
  let hub := ((State.reset.put F.EVT_UPD_BASE_BASE (0x06200000 / 1024)).setReg (F.EVT_EN_addr 13) (evBit 429)).put
    (F.EVT_ROUTE_UPDRAFT 429) 1
  let runs := hub.onPress 0 fun p => { p with does := .bundle ⟨0, 0, 0, 0, 0, 0, 0, 0, 0, 0, false⟩ }
  { runs.storeWord kernelBase (Code.low 32 loadS1).first with mode := .run }

theorem ringInLocalStore_pressAt : ringInLocalStore.pressAt 0 (.low 32 loadS1) :=
  ⟨by decide +kernel, by decide +kernel, by decide +kernel, nofun, by decide +kernel⟩

/-- The report of the error writes the ring's first entry over the word. -/
theorem ringInLocalStore_report :
    (ringInLocalStore.eccReport firstWordHit).word 0x06200000 ≠ ringInLocalStore.word 0x06200000 := by
  decide +kernel

/-- Refutes O57: a corrected error is reported before the word is loaded, and where the Updraft ring lies in the local store the
report's own event packet replaces that word, so that the register does not get the word that stood there before. -/
theorem not_pressMemoryIsItsLocalStore : ¬ Obligations.PressMemoryIsItsLocalStore := by
  unfold Obligations.PressMemoryIsItsLocalStore
  rintro ⟨hscalar, -⟩
  have haddr : (ringInLocalStore.press[(0 : Fin 48)]).addr loadS1 4 = 0 := by decide +kernel
  have hlegal : loadS1.legal .scalar .scalar .nothing false = true := by decide
  obtain ⟨hloads, -⟩ := hscalar ringInLocalStore 0 loadS1 _ 0 _ _ rfl rfl rfl haddr.symm hlegal
  obtain ⟨-, -, hcorrected⟩ := hloads rfl (by decide)
  obtain ⟨hfixed, -⟩ := hcorrected firstWordHit ringInLocalStore_pressAt rfl (by decide)
  obtain ⟨t, hexec, -, hword, -⟩ := hfixed rfl
  rw [exec_lds_corrected ringInLocalStore_pressAt hlegal haddr rfl (by decide) (by decide) rfl] at hexec
  cases hexec
  rw [sreg_pressPast, press_onPress_same, sreg_setS_same] at hword
  exact ringInLocalStore_report hword

end Sys2Proof.Machine
end

section
/-! The press block's transfer curves, tables and counters (R99, R129). -/

open Sys2Proof Sys2Proof.Machine

namespace Sys2Proof.Machine

/-! ## INDEX and the curve banks -/

theorem nextLut_index (s : State) : s.nextLut.get F.PRESS_LUT_ADDR_INDEX =
    if 12287 ≤ s.get F.PRESS_LUT_ADDR_INDEX then 0 else s.get F.PRESS_LUT_ADDR_INDEX + 1 := by
  unfold State.nextLut
  rw [State.get_put _ _ _ (by decide)]
  exact Nat.mod_eq_of_lt (b := 2 ^ 14) (by split <;> omega)

/-- A key of a curve bank after an entry of one bank is written. -/
theorem setLut_lut (s : State) (b : Bool) (i v : Nat) (bank : Fin 2) (j : Nat) :
    assocGet 0 j (s.setLut b i v).lut[bank] = if bank.val = b.toNat ∧ j = i then v else assocGet 0 j s.lut[bank] := by
  have hb : b.toNat < 2 := Bool.toNat_lt b
  unfold State.setLut
  dsimp only
  rw [Fin.getElem_fin, Vector.getElem_set]
  by_cases hbank : b.toNat = bank.val
  · simp only [hbank, if_true, true_and]
    exact assocGet_set 0 i j v _
  · rw [if_neg hbank, if_neg fun h => hbank h.1.symm, Fin.getElem_fin]

theorem vsel_onChip_iff (b : Nat) : onChip (b * 4096) 4096 = true ↔ 0x01000000 ≤ b * 4096 ∧ b * 4096 + 4096 ≤ 0x07000000 :=
  decide_eq_true_iff

/-- The counters that PRESS_STAT_CLR clears. -/
theorem clearPressStat_reg (s : State) (a : Nat) : s.clearPressStat.reg a =
    if a ∈ [F.PRESS_LATE_addr, F.PRESS_LATE_BANDS_addr, F.PRESS_EXC_addr, F.PRESS_EXC_INFO_addr] then 0 else s.reg a := by
  unfold State.clearPressStat
  simp only [State.reg_setReg, List.mem_cons, List.not_mem_nil, or_false]
  grind

/-- Settles O27: INDEX moves by `nextLut_index`, a bank takes the entry by `setLut_lut`, the counters clear by
`clearPressStat_reg`. -/
theorem pressTablesAreReadAndWritten : Obligations.PressTablesAreReadAndWritten := by
  refine ⟨?swap, ?address, ?refused, ?write, ?read, ?vsel, ?clear⟩
  case swap => exact fun s hup => exec_ifUp hup (f := (·.put F.PRESS_LUT_CTL_SWAP 1)) rfl rfl
  case address =>
    intro s value hup
    refine exec_ifUp (f := (·.writeLutAddr value)) hup rfl ?_
    have hindex : F.PRESS_LUT_ADDR_INDEX.of value = value.toNat % 16384 := rfl
    unfold State.writeLutAddr State.when
    simp only [hindex, decide_eq_true_eq]
  case refused =>
    intro s value hup hswap
    exact exec_ifUp (f := (·.writeLutData value)) hup rfl (if_pos hswap)
  case write =>
    intro s value hup hswap
    refine answers_ifUp (f := (·.writeLutData value)) hup rfl ?_
    rw [State.writeLutData, if_neg (Bool.eq_false_iff.1 hswap)]
    exact ⟨nextLut_index _, put_onlyField s _ _, setLut_lut s _ _ _⟩
  case read =>
    intro s bank hup hbank
    refine answers_ifUp (f := State.readLutData) hup rfl ⟨?_, nextLut_index s, put_onlyField s _ _⟩
    simp only [State.readLutData, Fin.getElem_fin, hbank]
  case vsel =>
    intro s value hup
    refine exec_ifUp (f := (·.writeVselBase value)) hup rfl ?_
    unfold State.writeVselBase
    simp only [vsel_onChip_iff]
    rfl
  case clear =>
    intro s hup
    refine answers_ifUp (f := State.clearPressStat) hup rfl ⟨⟨rfl, fun a ha => ?_⟩, fun a ha => ?_⟩
    · rw [clearPressStat_reg, if_neg ha]
    · rw [clearPressStat_reg, if_pos ha]

end Sys2Proof.Machine
end

section
/-! The primitives of synthesis and EMIT (R82–R90, R123). -/

open Sys2Proof Sys2Proof.Machine

namespace Sys2Proof.Machine

/-! ## Primitives that need a bundle (R123) -/

theorem inBundle_latched {s : State} {n : Fin 48} {b : Bundle} {a : AngleLatch} (hdoes : s.press[n].does = .bundle b)
    (hlatch : s.latchOf b.frame = some a) (f : Bundle → AngleLatch → Effect) : s.inBundle n f = f b a := by
  unfold State.inBundle State.bundleOf
  rw [hdoes]
  dsimp only
  rw [hlatch]

theorem inBundle_job {s : State} {n : Fin 48} {j : PressJob} (hdoes : s.press[n].does = .job j)
    (f : Bundle → AngleLatch → Effect) : s.inBundle n f = .exc 5 := by
  unfold State.inBundle State.bundleOf
  rw [hdoes]

section Raygen

variable {s : State} {n : Fin 48} {o : Opnd} {sel : Nat} (hat : s.pressAt n (.op 48 (BitVec.ofNat 8 sel) o))
  (hlegal : o.legal .vector .nothing .nothing true = true)
include hat hlegal

theorem raygen_inBundle {b : Bundle} {a : AngleLatch} (hdoes : s.press[n].does = .bundle b) (hlatch : s.latchOf b.frame = some a) :
    s.raygen n o sel = s.pressNext n (.op 48 (BitVec.ofNat 8 sel) o) fun p =>
      p.setV o.dst (byLane (p.lanes o.pred) (p.vreg o.dst) fun k => s.rayValue a b k sel) :=
  issue_ok hat hlegal ((inBundle_latched hdoes hlatch _).trans (congrArg Effect.ok (onPress_congr rfl)))

theorem raygen_job {j : PressJob} (hdoes : s.press[n].does = .job j) :
    s.raygen n o sel = s.kernelException n 5 s.press[n].pc := issue_exc hat hlegal (inBundle_job hdoes _)

end Raygen

/-- The six RAYGEN instructions and the selector of each. -/
theorem exec_raygen {x : (Fin 48 → Opnd → Instr) × Nat} (hx : x ∈ [(Instr.raygenOrgX, 0), (.raygenOrgY, 1), (.raygenTanU, 2),
    (.raygenTanW, 3), (.raygenGain, 4), (.raygenDir, 5)]) (n : Fin 48) (o : Opnd) (s : State) :
    exec (x.1 n o) s = s.ifUp (·.raygen n o x.2) := by
  simp only [List.mem_cons, List.not_mem_nil, or_false] at hx
  rcases hx with rfl | rfl | rfl | rfl | rfl | rfl <;> rfl

/-! ## Taps without errors, and EMIT -/

/-- Without errors the taps are read from the state as it is. -/
theorem spoiled_nil (s : State) (half : Bool) : s.spoil (halfHits half []) = s ∧ s.spoiled (halfHits half []) = s := ⟨rfl, rfl⟩

section Bundle

variable {s : State} {n : Fin 48} {o : Opnd} {b : Bundle} {a : AngleLatch} (hdoes : s.press[n].does = .bundle b)
  (hlatch : s.latchOf b.frame = some a)
include hdoes hlatch

section Taps

variable {taps : Fin 16 → Option (List (Nat × Sample) × Bool)} (htaps : ∀ k, taps k =
  s.selTaps a (s.press[n].vreg o.dst)[k] (s.press[n].vreg o.srcA)[k] (s.press[n].vreg o.srcB)[k])
include htaps

theorem exec_dsearch (hat : s.pressAt n (.op 49 0 o)) (hlegal : o.legal .vector .vector .vector true = true) :
    exec (.dsearch n o []) s = .next (s.pressNext n (.op 49 0 o) fun p =>
      (p.setV o.dst (byLane (s.press[n].lanes o.pred) (p.vreg o.dst) fun k => dsearchWord (p.vreg o.dst)[k] (taps k))).setOut
        (s.press[n].lanes o.pred) fun k => tapsOut (taps k)) := by
  obtain rfl := funext htaps
  refine exec_issue_ok hat rfl hlegal ((inBundle_latched hdoes hlatch _).trans (congrArg Effect.ok ?_))
  rw [(spoiled_nil s a.half).1, (spoiled_nil s a.half).2]
  exact onPress_congr rfl

theorem exec_fetchk (hat : s.pressAt n (.op 50 0 o)) (hlegal : o.legal .pair .vector .vector true = true) :
    exec (.fetchk n o []) s = .next (s.pressNext n (.op 50 0 o) fun p =>
      (p.setPair o.dst (s.press[n].lanes o.pred) (fun k => (fetchPair (taps k)).lo) fun k => (fetchPair (taps k)).hi).setOut
        (s.press[n].lanes o.pred) fun k => tapsOut (taps k)) := by
  obtain rfl := funext htaps
  refine exec_issue_ok hat rfl hlegal ((inBundle_latched hdoes hlatch _).trans (congrArg Effect.ok ?_))
  rw [(spoiled_nil s a.half).1, (spoiled_nil s a.half).2]

end Taps

/-- EMIT of the executing lanes: their entries, unless the bundle's writes are discarded, the count, the lanes written. -/
theorem exec_emit (hat : s.pressAt n (.op 54 0 o)) (hlegal : o.legal .nothing .pair .nothing true = true) {t : State}
    (ht : (if b.discard then s else (laneList (s.press[n].lanes o.pred)).foldl
      (fun (u : State) (k : Fin 16) => u.emitLane b k (s.press[n].pair o.srcA k)) s) = t) :
    exec (.emit n o) s = .next (s.pressPast n (.op 54 0 o) ((t.countOps 80 (laneList (s.press[n].lanes o.pred)).length).onPress n
      fun p => { p with does := .bundle { b with written := b.written ||| s.press[n].lanes o.pred } })) := by
  subst ht
  exact exec_issue_ok hat rfl hlegal (inBundle_latched hdoes hlatch _)

end Bundle

/-! ## Colour -/

/-- The mean of no weight is 0, and that of the red components is rounded to the nearest. -/
theorem blendPairs_red (l : List (Nat × Rgba)) : ((l.map (·.1)).sum = 0 → blendPairs l = ⟨0, 0, 0, 0⟩) ∧
    ((l.map (·.1)).sum ≠ 0 → (blendPairs l).r = ((l.map fun x => x.1 * x.2.r).sum + (l.map (·.1)).sum / 2) / (l.map (·.1)).sum) :=
  ⟨fun h => by simp only [blendPairs, h, if_true], fun h => by simp only [blendPairs, h, if_false]⟩

/-- Settles O58: `raygen_inBundle` and `raygen_job` for the six ray values, `exec_dsearch`, `exec_fetchk` and `exec_emit` in a
bundle, and the colour operations as changes of the press's registers alone. -/
theorem synthesisPrimitives : Obligations.SynthesisPrimitives := by
  refine ⟨?raygen, ?bundle, ?colour, blendPairs_red⟩
  case raygen =>
    rintro x hx s n o c rfl hat hlegal
    have hup := hat.1
    exact ⟨fun b a hdoes hlatch => exec_ifUp hup (exec_raygen hx n o s) (raygen_inBundle hat hlegal hdoes hlatch),
      fun j hdoes => exec_ifUp hup (exec_raygen hx n o s) (raygen_job hat hlegal hdoes)⟩
  case bundle =>
    rintro s n o b a q ex taps rfl hdoes hlatch rfl htaps
    exact ⟨exec_dsearch hdoes hlatch htaps, exec_fetchk hdoes hlatch htaps, fun hat hlegal =>
      ⟨fun hdiscard => exec_emit hdoes hlatch hat hlegal (if_pos hdiscard),
        fun hkept => exec_emit hdoes hlatch hat hlegal (if_neg (Bool.eq_false_iff.1 hkept))⟩⟩
  case colour =>
    intro s n o
    refine ⟨fun hat hlegal hmin hmax hlast => ⟨_, ?_, fun _ _ => rfl⟩, fun hat hlegal hlow => ?_, fun f hat hlegal hlow hf => ?_⟩
    · exact exec_issue_ok hat rfl (Bool.and_eq_true_iff.2 ⟨hlegal, decide_eq_true ⟨hmin, hmax, hlast⟩⟩) rfl
    · exact exec_issue_ok hat rfl (Bool.and_eq_true_iff.2 ⟨hlegal, decide_eq_true hlow⟩) rfl
    · simp only [hf]
      exact exec_issue_ok hat rfl (Bool.and_eq_true_iff.2 ⟨hlegal, decide_eq_true hlow⟩) rfl

end Sys2Proof.Machine
end

section
/-! How an instruction of a press ends that does not run in order, and when none issues (R100–R102, R109, R112, R120). -/

open Sys2Proof Sys2Proof.Machine

namespace Sys2Proof.Machine

/-! ## Ends of an instruction -/

section Issue

variable {s : State} {n : Fin 48} {c : Code} {legal : Bool} {f : Press → State → Effect} {t : State}

theorem issue_jump (hat : s.pressAt n c) (hlegal : legal = true) {x : Int} (hf : f s.press[n] s = .jump t x) (hlow : 0 ≤ x)
    (hhigh : x < 0x100000) (halign : x % 4 = 0) : s.issue n c legal f = State.pressTo n (BitVec.ofInt 32 x) t := by
  rw [issue_of_pressAt hat hlegal, hf]
  refine if_neg ?_
  rintro (h | h | h)
  · omega
  · exact absurd h (Int.not_le.2 hhigh)
  · exact h halign

/-- A jump that leaves the kernel store or its words is exception 3 (R120). -/
theorem issue_jump_out (hat : s.pressAt n c) (hlegal : legal = true) {x : Int} (hf : f s.press[n] s = .jump t x)
    (hout : x < 0 ∨ 0x100000 ≤ x ∨ x % 4 ≠ 0) :
    s.issue n c legal f = (t.countOps (n.castLE (by decide)) 1).kernelException n 3 s.press[n].pc := by
  rw [issue_of_pressAt hat hlegal, hf]
  exact if_pos hout

theorem issue_done (hat : s.pressAt n c) (hlegal : legal = true) (hf : f s.press[n] s = .done t) :
    s.issue n c legal f = t.countOps (n.castLE (by decide)) 1 := by
  rw [issue_of_pressAt hat hlegal, hf]
  rfl

/-- An illegal field is exception 1 (R102). -/
theorem issue_illegal (hat : s.pressAt n c) (hlegal : legal = false) (hshort : c.second = none) :
    s.issue n c legal f = s.kernelException n 1 s.press[n].pc := by
  obtain ⟨-, hbusy, hfirst, -, -⟩ := hat
  unfold State.issue
  dsimp only
  rw [hbusy, hshort, if_neg (by decide), if_neg (not_not.2 hfirst), if_neg (by simp), if_neg (by simp), hlegal, if_pos (by decide)]

/-- A word that the profile does not define is exception 1, whichever instruction comes (R101, R109). -/
theorem issue_undefined (hbusy : s.press[n].busy = true) (hword : definedPress (s.word (kernelBase + s.press[n].pc.toNat)) = false)
    (hc : definedPress c.first = true) : s.issue n c legal f = s.kernelException n 1 s.press[n].pc := by
  have hother : s.word (kernelBase + s.press[n].pc.toNat) ≠ c.first := fun h => by
    rw [h, hc] at hword
    cases hword
  unfold State.issue
  dsimp only
  rw [hbusy, if_neg (by decide), if_pos hother, hword, if_neg (by decide)]

/-- Another instruction's word leaves an instruction without effect. -/
theorem issue_other (hbusy : s.press[n].busy = true) (hword : definedPress (s.word (kernelBase + s.press[n].pc.toNat)) = true)
    (hother : s.word (kernelBase + s.press[n].pc.toNat) ≠ c.first) : s.issue n c legal f = s := by
  unfold State.issue
  dsimp only
  rw [hbusy, if_neg (by decide), if_pos hother, if_pos hword]

end Issue

/-- The fields of a long form are legal where MINOR is 0 (R102). -/
theorem longLegal_of {o : Opnd} {d : Names} {pred : Bool} (hlegal : o.legal d .nothing .code pred = true) (hlow : o.low = 0) :
    Opnd.longLegal o d pred = true :=
  Bool.and_eq_true_iff.2 ⟨hlegal, beq_iff_eq.2 hlow⟩

/-! ## Commands -/

/-- An instruction that changes its press's registers alone. -/
theorem issue_onRegs {s : State} {n : Fin 48} {c : Code} {legal : Bool} (hat : s.pressAt n c) (hlegal : legal = true)
    (f : Press → Press) : s.issue n c legal (onRegs n f) = s.pressNext n c f :=
  issue_ok hat hlegal rfl

/-- A command that issues an instruction. -/
theorem exec_issue {s t : State} {n : Fin 48} {c : Code} {legal : Bool} {f : Press → State → Effect} (hup : s.up = true) {i : Instr}
    (hissue : s.issue n c legal f = t) (hexec : exec i s = s.ifUp (·.issue n c legal f)) : exec i s = .next t :=
  exec_ifUp hup hexec hissue

theorem exec_onRegs {s : State} {n : Fin 48} {c : Code} {legal : Bool} (hat : s.pressAt n c) (hlegal : legal = true) {i : Instr}
    {f : Press → Press} (hexec : exec i s = s.ifUp (·.issue n c legal (onRegs n f))) : exec i s = .next (s.pressNext n c f) :=
  exec_issue hat.1 (issue_onRegs hat hlegal f) hexec

/-! ## Words -/

theorem opWord_toNat (major : BitVec 6) (d a b : BitVec 5) (pred : BitVec 3) (minor : BitVec 8) :
    (opWord major d a b pred minor).toNat =
      2 ^ 26 * major.toNat + 2 ^ 21 * d.toNat + 2 ^ 16 * a.toNat + 2 ^ 11 * b.toNat + 2 ^ 8 * pred.toNat + minor.toNat := by
  simp only [opWord, BitVec.toNat_append]
  rw [← Nat.shiftLeft_add_eq_or_of_lt d.isLt, ← Nat.shiftLeft_add_eq_or_of_lt a.isLt, ← Nat.shiftLeft_add_eq_or_of_lt b.isLt,
    ← Nat.shiftLeft_add_eq_or_of_lt pred.isLt, ← Nat.shiftLeft_add_eq_or_of_lt minor.isLt]
  simp only [Nat.shiftLeft_eq]
  omega

/-- NOP is a word of the profile, whatever its fields hold. -/
theorem nop_defined (o : Opnd) : definedPress (Code.op 0 0 o).first = true := by
  have hword := opWord_toNat 0 o.dst o.srcA o.srcB o.pred 0
  have hmajor : (Code.op 0 0 o).first.toNat / 2 ^ 26 = 0 := by
    rw [Code.op, hword]
    simp only [BitVec.toNat_zero, BitVec.ofNat_eq_ofNat]
    omega
  have hminor : (Code.op 0 0 o).first.toNat % 256 = 0 := by
    rw [Code.op, hword]
    simp only [BitVec.toNat_zero, BitVec.ofNat_eq_ofNat]
    omega
  unfold definedPress
  dsimp only
  rw [hmajor, hminor]
  rfl

end Sys2Proof.Machine
end

section
/-! Vector operations and compares (R101, R106, R107, R111, R112). -/

open Sys2Proof Sys2Proof.Machine

namespace Sys2Proof.Machine

/-! ## Lanes and predicates -/

/-- An executing lane takes its result, any other keeps its word (R106). -/
theorem byLane_lane (ex : BitVec 16) (old : Vector Word 16) (f : Fin 16 → Word) (k : Fin 16) :
    (byLane ex old f)[k] = if ex.getLsbD k then f k else old[k] :=
  Vector.getElem_ofFn _

/-- The digits `f` summed as powers of two are below the next power, and their bits are the digits. -/
theorem foldl_digits (f : Nat → Bool) (n : Nat) :
    (List.range n).foldl (fun a k => a + (f k).toNat * 2 ^ k) 0 < 2 ^ n ∧
      ∀ k < n, ((List.range n).foldl (fun a k => a + (f k).toNat * 2 ^ k) 0).testBit k = f k := by
  induction n with
  | zero => exact ⟨Nat.one_pos, nofun⟩
  | succ n ih =>
    obtain ⟨hlt, hbits⟩ := ih
    rw [List.range_succ, List.foldl_append, List.foldl_cons, List.foldl_nil]
    generalize (List.range n).foldl (fun a k => a + (f k).toNat * 2 ^ k) 0 = low at hlt hbits
    rw [Nat.add_comm, Nat.mul_comm]
    refine ⟨?_, fun k hk => ?_⟩
    · rw [Nat.pow_succ]
      cases f n <;> simp only [Bool.toNat_false, Bool.toNat_true] <;> omega
    · rw [Nat.testBit_two_pow_mul_add _ hlt]
      split
      case isTrue hlow => exact hbits k hlow
      case isFalse hlow =>
        obtain rfl : k = n := by omega
        rw [Nat.sub_self]
        cases f k <;> rfl

/-- Bit `k` of a predicate is the condition of lane `k`. -/
theorem maskOf_lane (f : Fin 16 → Bool) (k : Fin 16) : (maskOf f).getLsbD k = f k := by
  have hdigits := (foldl_digits (fun i => if h : i < 16 then f ⟨i, h⟩ else false) 16).2 k k.isLt
  rw [← List.map_coe_finRange_eq_range, List.foldl_map] at hdigits
  simp only [Fin.is_lt, dite_true] at hdigits
  rw [maskOf, BitVec.getLsbD_ofNat, hdigits, decide_eq_true k.isLt, Bool.true_and]

/-! ## Issue by form -/

/-- The vector operations and the instruction of each. -/
theorem exec_vop {x : VOp × (Fin 48 → VForm → BitVec 3 → Opnd → Instr)} (hx : x ∈ [(VOp.mov, Instr.vopMov), (.add, .vopAdd),
    (.sub, .vopSub), (.rsub, .vopRsub), (.mul, .vopMul), (.mad, .vopMad), (.min, .vopMin), (.max, .vopMax), (.abs, .vopAbs),
    (.neg, .vopNeg), (.and, .vopAnd), (.or, .vopOr), (.xor, .vopXor), (.andn, .vopAndn), (.shl, .vopShl), (.shr, .vopShr),
    (.sra, .vopSra), (.floor, .vopFloor), (.rcp, .vopRcp), (.rsq, .vopRsq), (.cvt, .vopCvt), (.swaph, .vopSwaph)])
    (n : Fin 48) (form : VForm) (ty : BitVec 3) (o : Opnd) (s : State) :
    exec (x.2 n form ty o) s = s.ifUp (·.vop x.1 n form ty o) := by
  fin_cases hx <;> rfl

/-- The compares and the instruction of each. -/
theorem exec_vcmp {x : VCond × (Fin 48 → VForm → BitVec 3 → Opnd → Instr)} (hx : x ∈ [(VCond.eq, Instr.vcmpEq), (.ne, .vcmpNe),
    (.lt, .vcmpLt), (.le, .vcmpLe), (.gt, .vcmpGt), (.ge, .vcmpGe), (.ltu, .vcmpLtu), (.geu, .vcmpGeu)])
    (n : Fin 48) (form : VForm) (ty : BitVec 3) (o : Opnd) (s : State) :
    exec (x.2 n form ty o) s = s.ifUp (·.vcmp x.1 n form ty o) := by
  fin_cases hx <;> rfl

section Forms

variable {s : State} {n : Fin 48} {form : VForm} {ty : BitVec 3} {o : Opnd}

theorem vop_next {op : VOp} (hat : s.pressAt n (.vec 16 5 ty op.code form o)) (hlegal : vopLegal op form ty o = true) :
    s.vop op n form ty o = s.pressNext n (.vec 16 5 ty op.code form o) fun p =>
      p.setV o.dst (byLane (p.lanes o.pred) (p.vreg o.dst) fun k =>
        vopLane op ty o (p.vreg o.dst)[k] (p.vreg o.srcA)[k] (p.srcB form o k)) :=
  issue_onRegs hat hlegal _

/-- The predicate that a compare writes (R107). -/
def Press.compared (p : Press) (c : VCond) (form : VForm) (ty : BitVec 3) (o : Opnd) : BitVec 16 :=
  p.lanes o.pred &&& maskOf fun k => vcmpLane c ty (p.vreg o.srcA)[k] (p.srcB form o k)

theorem vcmp_next {c : VCond} (hat : s.pressAt n (.vec 18 6 ty c.code form o)) (hlegal : vcmpLegal c form ty o = true) :
    s.vcmp c n form ty o = s.pressNext n (.vec 18 6 ty c.code form o) (·.setP o.dst (s.press[n].compared c form ty o)) :=
  (issue_onRegs hat hlegal _).trans (congrArg (s.pressPast n _) (onPress_congr rfl))

theorem compared_lane (p : Press) (c : VCond) (k : Fin 16) : (p.compared c form ty o).getLsbD k =
    ((p.lanes o.pred).getLsbD k && vcmpLane c ty (p.vreg o.srcA)[k] (p.srcB form o k)) := by
  rw [Press.compared, BitVec.getLsbD_and, maskOf_lane]

end Forms

/-- Settles O56: `vop_next` for the operations, whose lanes `byLane_lane` reads, and `vcmp_next` with `compared_lane` for the
compares; the i32 lane values are those of the type's definition. -/
theorem vectorLanesFollowTheirPredicate : Obligations.VectorLanesFollowTheirPredicate := by
  refine ⟨byLane_lane, ?operation, ?compare, fun d a b o => ⟨rfl, rfl, rfl, rfl, rfl, rfl, rfl, rfl⟩⟩
  case operation =>
    rintro x hx s n form ty o c rfl hat hlegal
    rw [exec_ifUp hat.1 (exec_vop hx n form ty o s) (vop_next hat hlegal)]
    cases form <;> rfl
  case compare =>
    rintro x hx s n form ty o c rfl hat hlegal
    refine ⟨_, exec_ifUp hat.1 (exec_vcmp hx n form ty o s) (vcmp_next hat hlegal), fun k => ?_⟩
    rw [compared_lane]
    cases form <;> rfl

end Sys2Proof.Machine
end

section
/-! Scalar operations, predicate logic and moves (R101, R108–R110, R133). -/

open Sys2Proof Sys2Proof.Machine

namespace Sys2Proof.Machine

/-! ## Issue on a thread -/

/-- A thread goes on at the next word of the instruction memory. -/
theorem threadGoto_next {s : State} {t : Fin 16} {pc : Word} (halign : pc.toNat % 4 = 0) (hroom : pc.toNat + 4 < seqEnd) :
    s.threadGoto t (pc.toNat + 4) = s.onThread t fun h => { h with pc := pc + 4 } := by
  have hpc : BitVec.ofInt 32 (pc.toNat + 4) = pc + 4 := by
    rw [BitVec.ofInt_add, BitVec.ofInt_natCast, BitVec.ofNat_toNat, BitVec.setWidth_eq]
    rfl
  unfold State.threadGoto
  dsimp only
  rw [hpc]
  exact if_neg fun ⟨_, hout⟩ => by omega

/-- An instruction of a thread that stands at its PC, with legal fields, and runs in order leaves its thread past its word. -/
theorem threadIssue_ok {s : State} {t : Fin 16} {c : Code} {legal : Bool} (hat : s.threadAt t c) (hlegal : legal = true)
    {f : Thread → State → ThreadEffect} {u : State} (hf : f s.seq.thr[t] (s.taken t) = .ok u) :
    s.threadIssue t c legal f = s.threadPast t u := by
  obtain ⟨-, hscheduled, hfirst, halign, hroom⟩ := hat
  unfold State.threadIssue
  dsimp only
  rw [if_neg (by rw [hscheduled, hfirst]; simp), if_neg (by rw [hfirst, hlegal]; simp)]
  rw [State.taken] at hf
  rw [hf]
  exact threadGoto_next halign hroom

/-! ## Scalar operations (R110) -/

/-- The scalar operations and the instruction of each. -/
theorem exec_sop {x : SOp × (Issuer → Opnd → Instr)} (hx : x ∈ [(SOp.mov, Instr.sopMov), (.add, .sopAdd), (.sub, .sopSub),
    (.mul, .sopMul), (.mulhu, .sopMulhu), (.and, .sopAnd), (.or, .sopOr), (.xor, .sopXor), (.shl, .sopShl), (.shr, .sopShr),
    (.sra, .sopSra), (.slt, .sopSlt), (.sltu, .sopSltu), (.min, .sopMin), (.max, .sopMax), (.fadd, .sopFadd), (.fsub, .sopFsub),
    (.fmul, .sopFmul), (.ftoi, .sopFtoi), (.itof, .sopItof)]) (u : Issuer) (o : Opnd) (s : State) :
    exec (x.2 u o) s = s.ifUp (·.sop x.1 u o) := by
  fin_cases hx <;> rfl

section Forms

variable {s : State} {o : Opnd} {op : SOp}

theorem sop_press {n : Fin 48} (hlegal : o.legal .scalar .scalar (if op.unary then .nothing else .scalar) false = true)
    (hat : s.pressAt n (.op 8 op.code o)) (hlong : o.long = none) : s.sop op (.press n) o =
      s.pressNext n (.op 8 op.code o) fun p => p.setS o.dst (op.eval (p.sreg o.srcA) (p.sreg o.srcB)) := by
  unfold State.sop
  rw [hlong]
  exact issue_onRegs hat hlegal _

theorem sop_long {n : Fin 48} {imm : Word} (hat : s.pressAt n (.long 4 op.code o imm)) (hlong : o.long = some imm)
    (hlegal : o.legal .scalar .scalar .code false = true) : s.sop op (.press n) o =
      s.pressNext n (.long 4 op.code o imm) fun p => p.setS o.dst (op.eval (p.sreg o.srcA) imm) := by
  unfold State.sop
  rw [hlong]
  exact issue_onRegs hat hlegal _

theorem sop_thread {t : Fin 16} (hlegal : o.legal .scalar .scalar (if op.unary then .nothing else .scalar) false = true)
    (hat : s.threadAt t (.op 8 op.code o)) : s.sop op (.thread t) o =
      s.threadNext t fun h => h.setS o.dst (op.eval (h.sreg o.srcA) (h.sreg o.srcB)) :=
  threadIssue_ok hat hlegal (f := fun h u => .ok (u.onThread t (·.setS o.dst (op.eval (h.sreg o.srcA) (h.sreg o.srcB))))) rfl

end Forms

/-- The high word of a product. -/
theorem mulhu_toNat (a b : Word) : (SOp.mulhu.eval a b).toNat = a.toNat * b.toNat / 2 ^ 32 := by
  refine (BitVec.toNat_ofNat _ _).trans (Nat.mod_eq_of_lt (Nat.div_lt_of_lt_mul ?_))
  exact Nat.mul_lt_mul'' a.isLt b.isLt

theorem min_toInt (a b : Word) : (SOp.min.eval a b).toInt = min a.toInt b.toInt := by
  rw [SOp.eval, apply_ite BitVec.toInt, min_def]

theorem max_toInt (a b : Word) : (SOp.max.eval a b).toInt = max a.toInt b.toInt := by
  rw [SOp.eval, apply_ite BitVec.toInt, max_def]

/-- ADDI on a thread (R133). -/
theorem addi_thread {s : State} {t : Fin 16} {o : Opnd} (hlegal : o.legal .scalar .scalar .nothing false = true)
    (hat : s.threadAt t (.low 9 o)) : exec (.saddi (.thread t) o) s =
      .next (s.threadNext t fun h => h.setS o.dst (h.sreg o.srcA + o.low.signExtend 32)) := by
  have hissue := threadIssue_ok hat hlegal (f := fun h u => .ok (u.onThread t (·.setS o.dst (h.sreg o.srcA + o.imm8)))) rfl
  exact exec_ifUp hat.1 (f := fun s => s.threadIssue t (.low 9 o) _ _) rfl hissue

/-! ## Operands of other instructions -/

/-- VLANE reads the lane that a MINOR below 16 names. -/
theorem exec_vlane {s : State} {n : Fin 48} {o : Opnd} (hlane : o.low.toNat < 16) (hat : s.pressAt n (.low 22 o))
    (hlegal : o.legal .scalar .vector .nothing false = true) : exec (.vlane n o) s =
      .next (s.pressNext n (.low 22 o) fun p => p.setS o.dst ((p.vreg o.srcA)[o.low.toNat])) := by
  refine (exec_onRegs hat (Bool.and_eq_true_iff.2 ⟨hlegal, decide_eq_true hlane⟩) rfl).trans ?_
  simp only [Nat.mod_eq_of_lt hlane]

/-- Settles O55: `sop_press`, `sop_long` and `sop_thread` for the scalar operations; every other instruction is issued as a
change of its press's registers (`issue_onRegs`) or, ADDI on a thread, of its thread's (`threadIssue_ok`). -/
theorem scalarAndPredicateResults : Obligations.ScalarAndPredicateResults := by
  refine ⟨?operations, fun a b => ⟨rfl, rfl, rfl, mulhu_toNat a b, rfl, rfl, rfl, rfl, rfl, min_toInt a b, max_toInt a b⟩,
    fun s o => ⟨?addi, ?immediates, fun n => ⟨?ptos, ?stop, ?logic, ?not, ?constants, ?bcast, ?lane⟩⟩⟩
  case operations =>
    rintro x hx s o c rfl
    exact ⟨fun hlegal => ⟨fun n hat hlong => exec_ifUp hat.1 (exec_sop hx _ o s) (sop_press hlegal hat hlong),
        fun t hat => exec_ifUp hat.1 (exec_sop hx _ o s) (sop_thread hlegal hat)⟩,
      fun n imm hat hlong hlegal => exec_ifUp hat.1 (exec_sop hx _ o s) (sop_long hat hlong hlegal)⟩
  case addi => exact fun hlegal => ⟨fun n hat => exec_onRegs hat hlegal rfl, fun t hat => addi_thread hlegal hat⟩
  case immediates =>
    exact fun n imm hlow => ⟨fun hat hlegal => exec_onRegs hat (longLegal_of hlegal hlow) (by rw [← hlow]; rfl),
      fun hat hlegal => exec_onRegs hat (longLegal_of hlegal hlow) (by rw [← hlow]; rfl)⟩
  case ptos => exact fun hat hlegal => exec_onRegs hat hlegal rfl
  case stop => exact fun hat hlegal => exec_onRegs hat hlegal rfl
  case logic => exact fun hlegal => ⟨fun hat => exec_onRegs hat hlegal rfl, fun hat => exec_onRegs hat hlegal rfl,
    fun hat => exec_onRegs hat hlegal rfl, fun hat => exec_onRegs hat hlegal rfl⟩
  case not => exact fun hat hlegal => exec_onRegs hat hlegal rfl
  case constants => exact fun hlegal => ⟨fun hat => exec_onRegs hat hlegal rfl, fun hat => exec_onRegs hat hlegal rfl,
    fun hat => exec_onRegs hat hlegal rfl⟩
  case bcast => exact fun hat hlegal => exec_onRegs hat hlegal rfl
  case lane => exact exec_vlane

end Sys2Proof.Machine
end

section
/-! Control flow, DONE and the exceptions of a bundle (R95, R101, R109, R112, R113, R120, R145). -/

open Sys2Proof Sys2Proof.Machine

namespace Sys2Proof.Machine

/-! ## The end of a bundle -/

section EndBundle

variable (s : State) (n : Fin 48) (b : Bundle)

/-- The zeros for the lanes left are written to memory alone. -/
theorem zeroFill_keeps {α : Type} (g : State → α) (hg : ∀ (u : State) m, g { u with mem := m } = g u) (valid : BitVec 16) :
    g (s.zeroFill b valid) = g s := by
  unfold State.zeroFill
  split
  · rfl
  · exact foldl_keeps g (fun u k => hg u _) _ s

theorem endBundle_idle : (s.endBundle n b).press[n].does = .idle := by
  unfold State.endBundle
  dsimp only
  rw [press_onPress_same]

theorem endBundle_reg (a : Nat) : (s.endBundle n b).reg a = s.reg a :=
  zeroFill_keeps s b (State.reg · a) (fun _ _ => rfl) _

theorem endBundle_work (hkept : b.discard = false) : (s.endBundle n b).dist.work =
    s.dist.work.map fun w => if w.run = b.run ∧ w.band = b.band then { w with ended := w.ended + 1 } else w := by
  have hdist : (s.endBundle n b).dist = s.dist.ended b :=
    congrArg (Distributor.ended · b) (zeroFill_keeps s b State.dist (fun _ _ => rfl) _)
  rw [hdist, Distributor.ended, hkept]
  rfl

end EndBundle

/-! ## Exceptions of a bundle (R95, R120) -/

theorem busy_of_bundle {s : State} {n : Fin 48} {b : Bundle} (hdoes : s.press[n].does = .bundle b) : s.press[n].busy = true := by
  rw [Press.busy, hdoes]

theorem kernelException_late {s : State} {n : Fin 48} (htime : s.timedOut n = true) (cause : Nat) (pc : Word) :
    s.kernelException n cause pc = s.fence n 1 :=
  if_pos htime

/-- The registers as an exception of a bundle records it: PC, cause, the count and the press. -/
def State.excRecorded (s : State) (n : Fin 48) (cause : Nat) (pc : Word) : State :=
  ((((s.put F.PRESS_EXC_INFO_PC (pc.toNat / 4)).put F.PRESS_EXC_INFO_CAUSE cause).putB F.PRESS_EXC_INFO_JOB false).count
    F.PRESS_EXC_COUNT).put F.PRESS_EXC_LAST_PRESS n

theorem kernelException_bundle {s : State} {n : Fin 48} {b : Bundle} (hdoes : s.press[n].does = .bundle b)
    (htime : s.timedOut n = false) (cause : Nat) (pc : Word) :
    s.kernelException n cause pc = ((s.endBundle n b).excRecorded n cause pc).raise 369 := by
  unfold State.kernelException
  dsimp only
  rw [htime, if_neg (by decide), hdoes]
  rfl

section Recorded

variable (s : State) (n : Fin 48) (cause : Nat) (pc : Word)

/-- Fields of PRESS_EXC_INFO once the exception's PC, cause and origin stand in it. -/
theorem excRecorded_info {f : Field} (hf : f.addr = F.PRESS_EXC_INFO_addr) (hw : f.lo + f.w ≤ 32) :
    (s.excRecorded n cause pc).get f = (((s.put F.PRESS_EXC_INFO_PC (pc.toNat / 4)).put F.PRESS_EXC_INFO_CAUSE cause).putB
      F.PRESS_EXC_INFO_JOB false).get f := by
  have hother : f.addr ≠ F.PRESS_EXC_addr := by rw [hf]; decide
  rw [State.excRecorded, State.get_put_other _ _ _ _ hw (.inl hother), State.count, State.countBy,
    State.get_put_other _ _ _ _ hw (.inl hother)]

theorem excRecorded_pc : (s.excRecorded n cause pc).get F.PRESS_EXC_INFO_PC = pc.toNat / 4 % 2 ^ 18 := by
  rw [excRecorded_info _ _ _ _ rfl (by decide), State.putB, State.get_put_other _ _ _ _ (by decide) (by decide),
    State.get_put_other _ _ _ _ (by decide) (by decide), State.get_put _ _ _ (by decide)]

theorem excRecorded_cause : (s.excRecorded n cause pc).get F.PRESS_EXC_INFO_CAUSE = cause % 16 := by
  rw [excRecorded_info _ _ _ _ rfl (by decide), State.putB, State.get_put_other _ _ _ _ (by decide) (by decide),
    State.get_put _ _ _ (by decide)]
  rfl

theorem excRecorded_job : (s.excRecorded n cause pc).bit F.PRESS_EXC_INFO_JOB = false := by
  rw [State.bit, excRecorded_info _ _ _ _ rfl (by decide), State.putB, State.get_put _ _ _ (by decide)]
  rfl

theorem excRecorded_last : (s.excRecorded n cause pc).get F.PRESS_EXC_LAST_PRESS = n := by
  rw [State.excRecorded, State.get_put _ _ _ (by decide)]
  exact Nat.mod_eq_of_lt (by have := n.isLt; change n.val < 64; omega)

theorem excRecorded_count :
    (s.excRecorded n cause pc).get F.PRESS_EXC_COUNT = min (s.get F.PRESS_EXC_COUNT + 1) (2 ^ F.PRESS_EXC_COUNT.w - 1) := by
  rw [State.excRecorded, State.get_put_other _ _ _ _ (by decide) (by decide), get_count _ _ (by decide), State.putB,
    State.get_put_other _ _ _ _ (by decide) (by decide), State.get_put_other _ _ _ _ (by decide) (by decide),
    State.get_put_other _ _ _ _ (by decide) (by decide)]

end Recorded

/-- What a bundle's exception leaves that is not late: the press idle, the exception recorded, counted and raised. -/
theorem kernelException_recorded {s : State} {n : Fin 48} {b : Bundle} (hdoes : s.press[n].does = .bundle b)
    (htime : s.timedOut n = false) (cause : Nat) (pc : Word) {t : State} (ht : t = s.kernelException n cause pc) :
    t.press[n].does = .idle ∧ t.get F.PRESS_EXC_INFO_CAUSE = cause % 16 ∧
      t.get F.PRESS_EXC_INFO_PC = pc.toNat / 4 % 2 ^ 18 ∧ t.bit F.PRESS_EXC_INFO_JOB = false ∧
      t.get F.PRESS_EXC_LAST_PRESS = n ∧ t.evStatus 369 = true ∧
      t.get F.PRESS_EXC_COUNT = min (s.get F.PRESS_EXC_COUNT + 1) (2 ^ F.PRESS_EXC_COUNT.w - 1) := by
  rw [ht, kernelException_bundle hdoes htime]
  have hn : 369 < 1024 := by decide
  refine ⟨?_, ?_, ?_, ?_, ?_, raise_evStatus hn, ?_⟩
  · rw [raise_press hn]
    exact endBundle_idle s n b
  · rw [raise_get_high hn (by decide), excRecorded_cause]
  · rw [raise_get_high hn (by decide), excRecorded_pc]
  · rw [raise_bit_high hn (by decide), excRecorded_job]
  · rw [raise_get_high hn (by decide), excRecorded_last]
  · rw [raise_get_high hn (by decide), excRecorded_count, State.get, endBundle_reg, State.get]

/-- A fence leaves the count of exceptions as it was. -/
theorem fence_excCount (s : State) (n : Fin 48) (cause : Nat) :
    (s.fence n cause).get F.PRESS_EXC_COUNT = s.get F.PRESS_EXC_COUNT := by
  have hother : F.PRESS_EXC_COUNT.addr ≠ F.PRESS_CTL_addr n := by
    have := n.isLt
    simp only [F.PRESS_CTL_addr]
    omega
  rw [State.fence, raise_get_high (srcPress_lt n) (by decide), State.get_put_other _ _ _ _ (by decide) (.inl hother),
    State.get_put_other _ _ _ _ (by decide) (.inl hother), State.get_put_other _ _ _ _ (by decide) (.inl hother)]
  rfl

/-! ## DONE (R90, R145) -/

theorem finish_bundle {s : State} {n : Fin 48} {b : Bundle} (hdoes : s.press[n].does = .bundle b) :
    s.finish n = s.endBundle n b := by
  rw [State.finish, hdoes]

theorem finish_job {s : State} {n : Fin 48} {j : PressJob} (hdoes : s.press[n].does = .job j) :
    s.finish n = ((s.storeWord (j.desc + 12) (BitVec.ofNat 32 (1 + 65536 * j.ticket.toNat))).onPress n
      fun p => { p with does := .idle }).raiseIf j.notify 864 := by
  rw [State.finish, hdoes]
  rfl

/-! ## Branches (R112) -/

/-- A branch of a press by its instruction and code: where predicate `q` and VALID `v` let it be taken. -/
theorem exec_branch {s : State} {n : Fin 48} {off : BitVec 15} {pred : BitVec 3} {q v : BitVec 16} {c : Instr} {code : BitVec 8}
    {holds : Bool} (hbranch : (c = .brAlways n off pred ∧ code = 0 ∧ pred = 0 ∧ holds = true) ∨
      (c = .brAny n off pred ∧ code = 1 ∧ holds = (q &&& v != 0)) ∨ (c = .brAll n off pred ∧ code = 2 ∧ holds = (q &&& v == v)) ∨
      (c = .brNone n off pred ∧ code = 3 ∧ holds = (q &&& v == 0))) :
    ∃ (legal : Bool) (cond : BitVec 16 → BitVec 16 → Bool), legal = true ∧ cond q v = holds ∧
      exec c s = s.ifUp (·.branch n off pred code legal cond) := by
  rcases hbranch with ⟨rfl, rfl, rfl, rfl⟩ | ⟨rfl, rfl, rfl⟩ | ⟨rfl, rfl, rfl⟩ | ⟨rfl, rfl, rfl⟩ <;> exact ⟨_, _, rfl, rfl, rfl⟩

section Branch

variable {s : State} {n : Fin 48} {off : BitVec 15} {pred : BitVec 3} {code : BitVec 8} {legal : Bool}
  {cond : BitVec 16 → BitVec 16 → Bool} (hat : s.pressAt n (.rel 1 code off pred)) (hlegal : legal = true)
include hat hlegal

theorem branch_falls (hcond : cond (s.press[n].p[pred.toNat]'pred.isLt) s.press[n].valid = false) :
    s.branch n off pred code legal cond = s.pressPast n (.rel 1 code off pred) s :=
  issue_ok hat hlegal (if_neg (ne_true_of_eq_false hcond))

theorem branch_taken (hcond : cond (s.press[n].p[pred.toNat]'pred.isLt) s.press[n].valid = true)
    (hlow : 0 ≤ branchTarget s.press[n].pc off) (hhigh : branchTarget s.press[n].pc off < 0x100000)
    (halign : branchTarget s.press[n].pc off % 4 = 0) :
    s.branch n off pred code legal cond = State.pressTo n (BitVec.ofInt 32 (branchTarget s.press[n].pc off)) s :=
  issue_jump hat hlegal (if_pos hcond) hlow hhigh halign

theorem branch_out (hcond : cond (s.press[n].p[pred.toNat]'pred.isLt) s.press[n].valid = true)
    (hout : branchTarget s.press[n].pc off < 0 ∨ 0x100000 ≤ branchTarget s.press[n].pc off) :
    s.branch n off pred code legal cond = (s.countOps (n.castLE (by decide)) 1).kernelException n 3 s.press[n].pc :=
  issue_jump_out hat hlegal (if_pos hcond) (hout.imp_right .inl)

end Branch

/-! ## Jumps to an address in a register or an immediate -/

/-- An aligned address below the end of the kernel store is gone to. -/
theorem issue_jump_word {s : State} {n : Fin 48} {c : Code} {legal : Bool} {f : Press → State → Effect} {t : State} {w : Word}
    (hat : s.pressAt n c) (hlegal : legal = true) (hf : f s.press[n] s = .jump t w.toNat) (hhigh : w.toNat < 0x100000)
    (halign : w.toNat % 4 = 0) : s.issue n c legal f = State.pressTo n w t := by
  rw [issue_jump hat hlegal hf (by omega) (by omega) (by omega), BitVec.ofInt_natCast, BitVec.ofNat_toNat, BitVec.setWidth_eq]

/-- NOP where no instruction is defined, or its own fields are illegal (R101, R102). -/
theorem exec_nop_exception {s : State} {n : Fin 48} {o : Opnd} {b : Bundle} (hup : s.up = true) (hdoes : s.press[n].does = .bundle b)
    (hword : definedPress (s.word (kernelBase + s.press[n].pc.toNat)) = false ∨
      (s.pressAt n (.op 0 0 o) ∧ o.legal .nothing .nothing .nothing false = false)) :
    exec (.nop n o) s = .next (s.kernelException n 1 s.press[n].pc) := by
  refine exec_issue hup (c := .op 0 0 o) ?_ rfl
  rcases hword with hundefined | ⟨hat, hillegal⟩
  · exact issue_undefined (busy_of_bundle hdoes) hundefined (nop_defined o)
  · exact issue_illegal hat hillegal rfl

/-- Settles O54: each instruction at its words by the end that it has (`issue_ok`, `issue_jump`, `issue_jump_out`,
`issue_done`), the branches by `branch_falls`, `branch_taken` and `branch_out`, the exceptions by `kernelException_recorded`. -/
theorem pressControlFlow : Obligations.PressControlFlow := by
  refine ⟨fun s n o hlegal => ⟨?nop, ?ret, ?done⟩, ?call, ?jumps, ?branches, ?exceptions⟩
  case nop => exact fun hat => exec_issue_ok hat rfl hlegal rfl
  case ret =>
    intro hat
    refine ⟨fun hhigh halign => exec_issue hat.1 (issue_jump_word hat hlegal rfl hhigh halign) rfl,
      fun hout => exec_issue hat.1 (issue_jump_out hat hlegal rfl ?_) rfl⟩
    omega
  case done =>
    intro hat
    have hexec : exec (.done n o) s = .next ((s.finish n).countOps (n.castLE (by decide)) 1) :=
      exec_issue hat.1 (issue_done hat hlegal rfl) rfl
    refine ⟨fun b hdoes => ⟨_, hexec, ?_⟩, fun j hdoes => by rw [hexec, finish_job hdoes]⟩
    rw [finish_bundle hdoes]
    exact ⟨endBundle_idle s n b, endBundle_work s n b⟩
  case call =>
    rintro s n off x hat rfl hlow hhigh halign
    exact exec_issue hat.1 (issue_jump hat rfl rfl hlow hhigh halign) rfl
  case jumps =>
    intro s n o imm hlegal hlow hhigh halign
    have hfields := longLegal_of hlegal hlow
    rw [← hlow]
    exact ⟨fun hat => exec_issue hat.1 (issue_jump_word hat hfields rfl hhigh halign) rfl,
      fun hat => exec_issue hat.1 (issue_jump_word hat hfields rfl hhigh halign) rfl⟩
  case branches =>
    rintro s n off pred q v c code holds hat rfl rfl hbranch
    obtain ⟨legal, cond, hlegal, hcond, hexec⟩ := exec_branch hbranch
    refine ⟨fun hnot => exec_ifUp hat.1 hexec (branch_falls hat hlegal (hcond.trans hnot)), ?_⟩
    rintro x rfl hholds
    exact ⟨fun hlow hhigh halign => exec_ifUp hat.1 hexec (branch_taken hat hlegal (hcond.trans hholds) hlow hhigh halign),
      fun hout => exec_ifUp hat.1 hexec (branch_out hat hlegal (hcond.trans hholds) hout)⟩
  case exceptions =>
    refine fun s n o b hup hdoes => ⟨fun hword => ?_, fun hdefined hother =>
      exec_issue hup (issue_other (busy_of_bundle hdoes) hdefined hother) rfl⟩
    have hexec := exec_nop_exception hup hdoes hword
    refine ⟨fun htime => ⟨_, hexec, kernelException_recorded hdoes htime 1 _ rfl⟩, fun htime => ⟨_, hexec, ?_⟩⟩
    rw [kernelException_late htime]
    exact ⟨fence_press s n 1, fence_cause s n 1, fence_evStatus s n 1, fence_excCount s n 1⟩

end Sys2Proof.Machine
end

section
/-! Images of the presses and of the sequencer (R124–R128, R152). -/

open Sys2Proof Sys2Proof.Machine

namespace Sys2Proof.Machine

/-! ## Checks -/

section Install

variable {s : State} {c : Nat} {h : ImageHeader}

theorem pressInstall_checked (hidle : s.bit F.PRESS_IMG_CTL_INSTALL = false)
    (hcheck : s.checkImage (64 * s.get F.PRESS_IMG_ADDR_ADDR) 0 0x100000 (s.reg F.PRESS_ISA_FEAT_addr) s.kernelBusy = (c, h)) :
    s.pressInstall = if c = 0 then
        { s.put F.PRESS_IMG_CTL_INSTALL 1 with
          imgP := some ⟨64 * s.get F.PRESS_IMG_ADDR_ADDR + 32, 0x06800000 + h.load, h.length⟩ }
      else ((s.put F.PRESS_IMG_CTL_REJECTED 1).put F.PRESS_IMG_CTL_CAUSE c).setReg F.PRESS_IMG_MISSING_addr
        (h.features &&& ~~~s.reg F.PRESS_ISA_FEAT_addr) := by
  rw [State.pressInstall, hidle, Bool.not_false, State.when_true]
  dsimp only
  rw [hcheck]

theorem seqInstall_checked (hidle : s.bit F.SEQ_IMG_CTL_INSTALL = false)
    (hcheck : s.checkImage (64 * s.get F.SEQ_IMG_ADDR_ADDR) 1 0x40000 (s.reg F.SEQ_ISA_FEAT_addr) s.threadsBusy = (c, h)) :
    s.seqInstall = if c = 0 then
        { s.put F.SEQ_IMG_CTL_INSTALL 1 with
          imgS := some ⟨64 * s.get F.SEQ_IMG_ADDR_ADDR + 32, 0x06900000 + h.load, h.length⟩ }
      else ((s.put F.SEQ_IMG_CTL_REJECTED 1).put F.SEQ_IMG_CTL_CAUSE c).setReg F.SEQ_IMG_MISSING_addr
        (h.features &&& ~~~s.reg F.SEQ_ISA_FEAT_addr) := by
  rw [State.seqInstall, hidle, Bool.not_false, State.when_true]
  dsimp only
  rw [hcheck]

end Install

/-! ## Copies -/

/-- A copy puts the bytes of its source as they stood into its destination and leaves every other byte. -/
theorem readByte_copy (m : Mem) (src dst n a : Nat) : (m.copy src dst n).readByte a =
    if dst ≤ a ∧ a < dst + n then m.readByte (src + (a - dst)) else m.readByte a := by
  have hlen : (m.readBytes src n).length = n := by rw [Mem.readBytes, List.length_map, List.length_range]
  rw [Mem.copy, Mem.readByte_writeBytes, hlen]
  split
  case isTrue hin =>
    have hlt : a - dst < n := by omega
    rw [Mem.readBytes, List.getD_eq_getElem _ _ (by simpa using hlt), List.getElem_map, List.getElem_range]
  case isFalse => rfl

/-- Code that is replaced leaves the registers of some presses undefined and the rest of the state as it was (R128). -/
theorem codeReplaced_keeps {α : Type} (g : State → α) (hg : ∀ (u : State) p x, g { u with press := p, free := x } = g u) (s : State)
    (lo hi : Nat) : g (s.codeReplaced lo hi) = g s := by
  refine foldl_keeps g (fun u n => ?_) _ s
  cases hruns : u.press[n].busy && inRange lo hi u.press[n].pc.toNat with
  | true => exact hg u _ _
  | false => rfl

theorem pressInstalled_of {s : State} {i : ImageCopy} (himg : s.imgP = some i) : s.pressInstalled =
    ({ s.put F.PRESS_IMG_CTL_INSTALL 0 with mem := s.mem.copy i.src i.dst i.len, imgP := none }).codeReplaced
      (i.dst - kernelBase) (i.dst - kernelBase + i.len) := by
  rw [State.pressInstalled, himg]

theorem seqInstalled_of {s : State} {i : ImageCopy} (himg : s.imgS = some i) : s.seqInstalled =
    { s.put F.SEQ_IMG_CTL_INSTALL 0 with mem := s.mem.copy i.src i.dst i.len, imgS := none } := by
  rw [State.seqInstalled, himg]

/-- Settles O28: the checks' outcomes by `pressInstall_checked` and `seqInstall_checked`, the copies by `readByte_copy`, which
reads every byte of the source as it stood. -/
theorem imagesInstallWholeOrNotAtAll : Obligations.ImagesInstallWholeOrNotAtAll := by
  refine ⟨fun s h hup hidle hcheck => exec_ifUp hup rfl ((pressInstall_checked hidle hcheck).trans (if_pos rfl)),
    fun s c h hup hidle hc hcheck => exec_ifUp hup rfl ((pressInstall_checked hidle hcheck).trans (if_neg hc)),
    fun s h hup hidle hcheck => exec_ifUp hup rfl ((seqInstall_checked hidle hcheck).trans (if_pos rfl)),
    fun s c h hup hidle hc hcheck => exec_ifUp hup rfl ((seqInstall_checked hidle hcheck).trans (if_neg hc)), ?_⟩
  rintro s i c f hup (⟨rfl, himg, rfl⟩ | ⟨rfl, himg, rfl⟩)
  · refine answers_ifUp hup (f := State.pressInstalled) rfl ?_
    rw [pressInstalled_of himg]
    refine ⟨?_, fun _ => ⟨?_, ?_⟩, nofun, fun a => ?_⟩
    · rw [codeReplaced_keeps (State.bit · F.PRESS_IMG_CTL_INSTALL) fun _ _ _ => rfl]
      exact bit_put s _ 0 (by decide)
    · exact codeReplaced_keeps State.imgP (fun _ _ _ => rfl) _ _ _
    · exact codeReplaced_keeps State.imgS (fun _ _ _ => rfl) _ _ _
    · rw [codeReplaced_keeps State.mem fun _ _ _ => rfl]
      exact readByte_copy s.mem i.src i.dst i.len a
  · refine answers_ifUp hup (f := State.seqInstalled) rfl ?_
    rw [seqInstalled_of himg]
    exact ⟨bit_put s _ 0 (by decide), nofun, fun _ => ⟨rfl, rfl⟩, readByte_copy s.mem i.src i.dst i.len⟩

end Sys2Proof.Machine
end

section
/-! Comparators 4 to 63 (R139, R140): the fire of one, its arm and its disarm. -/

open Sys2Proof Sys2Proof.Machine

namespace Sys2Proof.Machine

section Comparator

variable {s : State} {c : Nat}

theorem due_eq_false_iff : s.due c = false ↔ s.bit (F.SEQ_LC_CFG_ARM c) = false ∨ sdiff s.now (s.target c) < 0 := by
  rw [State.due, State.reached, Bool.and_eq_false_iff, decide_eq_false_iff_not, not_le]
  rfl

theorem fire_notDue (hdue : s.due c = false) : s.fire c = s := by
  rw [State.fire, hdue, State.when_false]

/-- ARM and FIRED stand beside LINE. -/
theorem fired_line (s : State) (c : Nat) : (s.fired c).get (F.SEQ_LC_CFG_LINE c) = s.get (F.SEQ_LC_CFG_LINE c) := by
  have hw : (F.SEQ_LC_CFG_LINE c).lo + (F.SEQ_LC_CFG_LINE c).w ≤ 32 := show 5 ≤ 32 by decide
  rw [State.fired, State.get_put_other _ _ _ _ hw (.inr (.inr (show 5 ≤ 7 by decide))),
    State.get_put_other _ _ _ _ hw (.inr (.inr (show 5 ≤ 5 by decide)))]

theorem fire_lineless (hprog : 4 ≤ c) (hdue : s.due c = true) (hline : s.get (F.SEQ_LC_CFG_LINE c) = 31) :
    s.fire c = s.fired c := by
  rw [State.fire, hdue, State.when_true, State.driveLine, if_neg (by omega), if_neg (by omega), if_neg (by omega),
    if_neg (by omega), fired_line, hline]
  exact if_neg (by decide)

theorem disarmComp_notDue (hprog : 4 ≤ c) (hdue : s.due c = false) : s.disarmComp c = s.put (F.SEQ_LC_CFG_ARM c) 0 := by
  rw [State.disarmComp, hdue, if_neg (by decide)]
  exact if_neg (by omega)

theorem armComp_ahead {a : Word} (hprog : 4 ≤ c) (hdue : s.due c = false) (hahead : sdiff s.now a < 0) :
    s.armComp c a = s.armed c a := by
  have hreached : s.reached a = false := decide_eq_false (not_le.2 hahead)
  unfold State.armComp
  dsimp only
  rw [fire_notDue hdue, hreached, if_neg (by decide), if_neg fun h => by omega, if_neg (by omega)]

theorem armComp_passed {a : Word} (hprog : 4 ≤ c) (hdue : s.due c = false) (hpassed : 0 ≤ sdiff s.now a) :
    s.armComp c a = (((s.put (F.SEQ_LC_CFG_ARM c) 0).setTarget c a).put (F.SEQ_LC_CFG_LATE c) 1).raise 867 := by
  have hreached : s.reached a = true := decide_eq_true hpassed
  unfold State.armComp
  dsimp only
  rw [fire_notDue hdue, hreached, if_pos rfl, disarmComp_notDue hprog hdue]
  rfl

/-- An arm for a target that has passed leaves the comparator disarmed and LATE, with event 19 (R140). -/
theorem armComp_late {a : Word} (hprog : 4 ≤ c) (hdue : s.due c = false) (hpassed : 0 ≤ sdiff s.now a) :
    (s.armComp c a).bit (F.SEQ_LC_CFG_ARM c) = false ∧ (s.armComp c a).bit (F.SEQ_LC_CFG_LATE c) = true ∧
      (s.armComp c a).target c = a ∧ (s.armComp c a).evStatus 867 = true := by
  have hsrc : 867 < 1024 := by decide
  have hhigh : 0x50000 ≤ F.SEQ_LC_CFG_addr c := by simp only [F.SEQ_LC_CFG_addr]; omega
  have hother : F.SEQ_LC_CFG_addr c ≠ F.SEQ_LC_TIME_addr c := by simp only [F.SEQ_LC_CFG_addr, F.SEQ_LC_TIME_addr]; omega
  have hkept : ∀ (u : State) (f : Field), f.addr = F.SEQ_LC_CFG_addr c → (u.setTarget c a).bit f = u.bit f := fun u f hf =>
    congrArg (fun w => f.of w != 0) ((State.reg_setReg u _ _ _).trans (if_neg (hf ▸ hother)))
  rw [armComp_passed hprog hdue hpassed]
  refine ⟨?_, ?_, ?_, raise_evStatus hsrc⟩
  · rw [raise_bit_high hsrc hhigh,
      bit_put_other _ _ _ _ (show 5 + 1 ≤ 32 by decide) (.inr (.inr (show 5 + 1 ≤ 8 by decide))), hkept _ _ rfl,
      bit_put _ _ _ (show 5 + 1 ≤ 32 by decide)]
    rfl
  · rw [raise_bit_high hsrc hhigh, bit_put _ _ _ (show 8 + 1 ≤ 32 by decide)]
    rfl
  · rw [State.target, State.actReg, raise_act hsrc]
    exact (State.actReg_setAct _ _ _ _).trans (if_pos rfl)

end Comparator

/-- Settles O21: a due comparator without a line only fires (`fire_lineless`), any other does nothing (`fire_notDue`). -/
theorem comparatorFiresAtItsTarget : Obligations.ComparatorFiresAtItsTarget := by
  refine ⟨fun s c hup hprog harmed hreached hline => ?_, fun s c hup hidle => ?_⟩
  · have hdue : s.due c = true := Bool.and_eq_true_iff.2 ⟨harmed, decide_eq_true hreached⟩
    exact exec_ifUp (f := (·.fire c)) hup rfl (fire_lineless hprog hdue hline)
  · exact exec_ifUp (f := (·.fire c)) hup rfl (fire_notDue (due_eq_false_iff.2 hidle))

end Sys2Proof.Machine
end

section
/-! How an instruction of a thread ends (R130–R134): in order, by a jump, in a fault, or at its own PC. -/

open Sys2Proof Sys2Proof.Machine

namespace Sys2Proof.Machine

/-! ## One thread of the sequencer -/

theorem thread_onThread_same (s : State) (t : Fin 16) (f : Thread → Thread) : (s.onThread t f).seq.thr[t] = f s.seq.thr[t] :=
  Vector.getElem_set_self t.isLt

theorem thread_onThread_other (s : State) {t u : Fin 16} (h : u ≠ t) (f : Thread → Thread) :
    (s.onThread t f).seq.thr[u] = s.seq.thr[u] :=
  Vector.getElem_set_ne t.isLt u.isLt fun e => h (Fin.ext e.symm)

theorem onThread_congr {s : State} {t : Fin 16} {f g : Thread → Thread} (h : f s.seq.thr[t] = g s.seq.thr[t]) :
    s.onThread t f = s.onThread t g := by
  rw [State.onThread, h, State.onThread]

theorem onThread_id (s : State) (t : Fin 16) : s.onThread t id = s := by
  have hset : s.seq.thr.set t s.seq.thr[t] = s.seq.thr := Vector.set_getElem_self t.isLt
  unfold State.onThread
  rw [id, hset]

theorem onThread_onThread (s : State) (t : Fin 16) (f g : Thread → Thread) :
    (s.onThread t f).onThread t g = s.onThread t fun h => g (f h) := by
  have hset : (s.seq.thr.set t (f s.seq.thr[t])).set t (g (f s.seq.thr[t])) = s.seq.thr.set t (g (f s.seq.thr[t])) :=
    Vector.set_set ..
  conv_lhs => rw [State.onThread, thread_onThread_same]
  unfold State.onThread
  dsimp only
  rw [hset]

theorem thread_sreg_setS_same (h : Thread) (f : BitVec 5) (w : Word) : (h.setS f w).sreg f = w := Vector.getElem_set_self _

theorem raise_seq {s : State} {n : Nat} (h : n < 1024) : (s.raise n).seq = s.seq := (congrArg State.seq (raise_frame h) :)

theorem thread_threadPast (s : State) (t : Fin 16) (u : State) :
    (s.threadPast t u).seq.thr[t] = { u.seq.thr[t] with pc := s.seq.thr[t].pc + 4 } :=
  thread_onThread_same _ t _

theorem thread_threadPast_other (s : State) {t u : Fin 16} (h : u ≠ t) (v : State) :
    (s.threadPast t v).seq.thr[u] = v.seq.thr[u] :=
  thread_onThread_other (v.countOps 82 1) h _

@[simp] theorem threadPast_bit (s : State) (t : Fin 16) (u : State) (f : Field) : (s.threadPast t u).bit f = u.bit f := rfl
@[simp] theorem threadPast_target (s : State) (t : Fin 16) (u : State) (c : Nat) : (s.threadPast t u).target c = u.target c := rfl
@[simp] theorem threadPast_evStatus (s : State) (t : Fin 16) (u : State) (n : Nat) :
    (s.threadPast t u).evStatus n = u.evStatus n := rfl

/-! ## Where a thread goes on -/

theorem threadGoto_inside {s : State} {t : Fin 16} {x : Int} (hlow : 0 ≤ x) (hhigh : x < 0x40000) (halign : x % 4 = 0) :
    s.threadGoto t x = s.onThread t fun h => { h with pc := BitVec.ofInt 32 x } :=
  if_neg fun ⟨_, hout⟩ => by simp only [seqEnd] at hout; omega

theorem threadGoto_word {s : State} {t : Fin 16} {w : Word} (hhigh : w.toNat < 0x40000) (halign : w.toNat % 4 = 0) :
    s.threadGoto t w.toNat = s.onThread t fun h => { h with pc := w } := by
  rw [threadGoto_inside (by omega) (by omega) (by omega), BitVec.ofInt_natCast, BitVec.ofNat_toNat, BitVec.setWidth_eq]

/-- A ready thread that leaves the instruction memory faults there. -/
theorem threadGoto_outside {s : State} {t : Fin 16} {x : Int} (hready : s.seq.thr[t].st = .ready)
    (hout : x < 0 ∨ 0x40000 ≤ x) :
    s.threadGoto t x = (s.onThread t fun h => { h with pc := BitVec.ofInt 32 x }).threadFault t 2 := by
  refine if_pos ⟨?_, ?_⟩
  · rw [thread_onThread_same]
    exact hready
  · simp only [seqEnd]
    omega

/-! ## Faults (R134) -/

/-- What a fault of a cause shows: the thread faulted, CAUSE, and event 18. -/
def State.FaultedWith (s : State) (t : Fin 16) (cause : Nat) : Prop :=
  s.seq.thr[t].st = .faulted ∧ s.get (F.SEQ_THR_STAT_CAUSE t) = cause ∧ s.evStatus 866 = true

theorem threadFault_faultedWith (s : State) (t : Fin 16) {cause : Nat} (hcause : cause < 4) :
    (s.threadFault t cause).FaultedWith t cause := by
  have hsrc : srcSeq 18 < 1024 := by decide
  have hhigh : 0x50000 ≤ (F.SEQ_THR_STAT_CAUSE t).addr := show 0x50000 ≤ 0x70040 + 4 * t.val by omega
  refine ⟨?_, ?_, raise_evStatus hsrc⟩
  · rw [State.threadFault, raise_seq hsrc, State.put_seq, thread_onThread_same]
  · rw [State.threadFault, raise_get_high hsrc hhigh, State.get_put _ _ _ (show 20 + 2 ≤ 32 by decide)]
    exact Nat.mod_eq_of_lt hcause

/-! ## Issue on a thread (R131, R133, R134) -/

theorem scheduled_ready {s : State} {t : Fin 16} (h : s.scheduled t = true) : s.seq.thr[t].st = .ready :=
  eq_of_beq (Bool.and_eq_true_iff.1 h).1

theorem threadAt_ready {s : State} {t : Fin 16} {c : Code} (hat : s.threadAt t c) : s.seq.thr[t].st = .ready := by
  obtain ⟨-, hscheduled, -⟩ := hat
  exact scheduled_ready hscheduled

/-- Where an instruction leaves thread `t`, by the effect it had on the state in which the scheduler took the thread. -/
def State.threadEnds (s : State) (t : Fin 16) : ThreadEffect → State
  | .fault cause => (s.taken t).threadFault t cause
  | .stay u => u.countOps 82 1
  | .jump u x => (u.countOps 82 1).threadGoto t x
  | .ok u => s.threadPast t u

section Issue

variable {s : State} {t : Fin 16} {c : Code} {legal : Bool} {f : Thread → State → ThreadEffect} (hat : s.threadAt t c)
include hat

theorem threadIssue_ends (hlegal : legal = true) :
    s.threadIssue t c legal f = s.threadEnds t (f s.seq.thr[t] (s.taken t)) := by
  cases hf : f s.seq.thr[t] (s.taken t) with
  | ok u => exact threadIssue_ok hat hlegal hf
  | _ =>
    obtain ⟨-, hscheduled, hfirst, -, -⟩ := hat
    unfold State.threadIssue
    dsimp only
    rw [if_neg (by rw [hscheduled, hfirst]; simp), if_neg (by rw [hfirst, hlegal]; simp)]
    rw [State.taken] at hf
    rw [hf]
    rfl

theorem threadIssue_illegal (hlegal : legal = false) : s.threadIssue t c legal f = (s.taken t).threadFault t 1 := by
  obtain ⟨-, hscheduled, hfirst, -, -⟩ := hat
  unfold State.threadIssue
  dsimp only
  rw [if_neg (by rw [hscheduled, hfirst]; simp), if_pos (by rw [hlegal]; simp), State.taken]

end Issue

theorem threadIssue_undefined {s : State} {t : Fin 16} {c : Code} {legal : Bool} {f : Thread → State → ThreadEffect}
    (hscheduled : s.scheduled t = true) (hword : definedSeq (s.word (seqBase + s.seq.thr[t].pc.toNat)) = false)
    (hdefined : definedSeq c.first = true) : s.threadIssue t c legal f = (s.taken t).threadFault t 1 := by
  have hother : s.word (seqBase + s.seq.thr[t].pc.toNat) ≠ c.first := fun e => by
    rw [e, hdefined] at hword
    exact Bool.noConfusion hword
  unfold State.threadIssue
  dsimp only
  rw [if_neg (by rw [hscheduled, hword]; simp), if_pos (.inl hother), State.taken]

/-! ## Commands that issue an instruction on a thread -/

section Exec

variable {s : State} {t : Fin 16} {c : Code} {i : Instr} {legal : Bool} {f : Thread → State → ThreadEffect}
  (hat : s.threadAt t c) (hexec : exec i s = s.ifUp (·.threadIssue t c legal f))
include hat hexec

/-- A command that issues an instruction leaves the state in which the instruction ends. -/
theorem exec_threadEnds (hlegal : legal = true) {e : ThreadEffect} (hf : f s.seq.thr[t] (s.taken t) = e) :
    exec i s = .next (s.threadEnds t e) :=
  exec_ifUp hat.1 hexec (hf ▸ threadIssue_ends hat hlegal)

theorem exec_threadPast (hlegal : legal = true) {u : State} (hf : f s.seq.thr[t] (s.taken t) = .ok u) :
    exec i s = .next (s.threadPast t u) :=
  exec_threadEnds hat hexec hlegal hf

theorem exec_threadStay (hlegal : legal = true) {u : State} (hf : f s.seq.thr[t] (s.taken t) = .stay u) :
    exec i s = .next (u.countOps 82 1) :=
  exec_threadEnds hat hexec hlegal hf

theorem exec_threadJump (hlegal : legal = true) {u : State} {x : Int} (hf : f s.seq.thr[t] (s.taken t) = .jump u x)
    (hlow : 0 ≤ x) (hhigh : x < 0x40000) (halign : x % 4 = 0) :
    exec i s = .next (State.threadTo t (BitVec.ofInt 32 x) u) :=
  (exec_threadEnds hat hexec hlegal hf).trans (congrArg _ (threadGoto_inside hlow hhigh halign))

theorem exec_threadJump_word (hlegal : legal = true) {u : State} {w : Word} (hf : f s.seq.thr[t] (s.taken t) = .jump u w.toNat)
    (hhigh : w.toNat < 0x40000) (halign : w.toNat % 4 = 0) : exec i s = .next (State.threadTo t w u) :=
  (exec_threadEnds hat hexec hlegal hf).trans (congrArg _ (threadGoto_word hhigh halign))

theorem exec_threadFault (hlegal : legal = true) {cause : Nat} (hcause : cause < 4)
    (hf : f s.seq.thr[t] (s.taken t) = .fault cause) : Answers i s (·.FaultedWith t cause) :=
  ⟨_, exec_threadEnds hat hexec hlegal hf, threadFault_faultedWith _ t hcause⟩

theorem exec_threadJump_out (hlegal : legal = true) {x : Int} (hf : f s.seq.thr[t] (s.taken t) = .jump (s.taken t) x)
    (hout : x < 0 ∨ 0x40000 ≤ x) : Answers i s (·.FaultedWith t 2) := by
  refine ⟨_, exec_threadEnds hat hexec hlegal hf, ?_⟩
  have hready : s.seq.thr[t].st = .ready := threadAt_ready hat
  rw [State.threadEnds, threadGoto_outside (s := (s.taken t).countOps 82 1) hready hout]
  exact threadFault_faultedWith _ t (by decide)

theorem exec_threadIllegal (hlegal : legal = false) : Answers i s (·.FaultedWith t 1) :=
  answers_ifUp hat.1 hexec (threadIssue_illegal hat hlegal ▸ threadFault_faultedWith _ t (by decide))

end Exec

end Sys2Proof.Machine
end

section
/-! The sequencer's scheduler, flow, waits and threads (R130–R134, R137–R141). -/

open Sys2Proof Sys2Proof.Machine

namespace Sys2Proof.Machine

theorem Answers.imp {i : Instr} {s : State} {Q R : State → Prop} (h : Answers i s Q) (hQR : ∀ u, Q u → R u) :
    Answers i s R :=
  Exists.imp (fun u => And.imp_right (hQR u)) h

/-! ## The scheduler (R131) -/

/-- Behind a thread that the scheduler takes stands every other ready one: by its priority, or in its priority's turn. -/
theorem scheduled_first {s : State} {t u : Fin 16} (ht : s.scheduled t = true) (hu : s.seq.thr[u].st = .ready) (hne : u ≠ t) :
    s.prioOfThread u < s.prioOfThread t ∨ (s.prioOfThread u = s.prioOfThread t ∧ s.turnDist t < s.turnDist u) := by
  have hall := List.all_eq_true.1 (Bool.and_eq_true_iff.1 ht).2 u (List.mem_finRange u)
  have hready : s.seq.thr[u.val].st = .ready := hu
  simpa [hready, hne, or_assoc] using hall

theorem scheduled_prio {s : State} {t u : Fin 16} (ht : s.scheduled t = true) (hu : s.seq.thr[u].st = .ready) :
    s.prioOfThread u ≤ s.prioOfThread t := by
  by_cases hne : u = t
  · rw [hne]
  · rcases scheduled_first ht hu hne with hlt | ⟨heq, -⟩
    · exact le_of_lt hlt
    · exact le_of_eq heq

theorem scheduled_unique {s : State} {t u : Fin 16} (ht : s.scheduled t = true) (hu : s.scheduled u = true) : t = u := by
  by_contra hne
  rcases scheduled_first ht (scheduled_ready hu) (Ne.symm hne) with hlt | ⟨heq, hturn⟩
  · exact absurd (scheduled_prio hu (scheduled_ready ht)) (not_le.2 hlt)
  · rcases scheduled_first hu (scheduled_ready ht) hne with hlt | ⟨-, hback⟩
    · exact absurd heq.symm (ne_of_lt hlt)
    · exact absurd hback (lt_asymm hturn)

/-! ## Branches (R133) -/

theorem beq_zero_eq (a : Word) : (a == 0) = decide (a.toInt = 0) := by
  rw [beq_eq_decide]
  exact decide_eq_decide.2 ⟨fun h => by rw [h]; rfl, fun h => BitVec.eq_of_toInt_eq h⟩

theorem bne_zero_eq (a : Word) : (a != 0) = decide (a.toInt ≠ 0) :=
  (congrArg Bool.not (beq_zero_eq a)).trans decide_not.symm

theorem not_msb_eq (a : Word) : (!a.msb) = decide (0 ≤ a.toInt) := by
  rw [BitVec.msb_eq_toInt, ← decide_not]
  exact decide_eq_decide.2 not_lt

/-- Instruction `c` is the branch of operation `k`, taken where `holds` says so of the value `a` of its register. -/
def FlowBranch (c : Instr) (t : Fin 16) (k sA : BitVec 5) (off : BitVec 16) (a : Word) (holds : Bool) : Prop :=
  (c = .flowB t sA off ∧ k = 0 ∧ sA = 0 ∧ holds = true) ∨ (sA.toNat < 16 ∧
    ((c = .flowBz t sA off ∧ k = 1 ∧ holds = decide (a.toInt = 0)) ∨
      (c = .flowBnz t sA off ∧ k = 2 ∧ holds = decide (a.toInt ≠ 0)) ∨
      (c = .flowBltz t sA off ∧ k = 3 ∧ holds = decide (a.toInt < 0)) ∨
      (c = .flowBgez t sA off ∧ k = 4 ∧ holds = decide (0 ≤ a.toInt))))

/-- A branch has legal fields and issues with its condition. -/
theorem exec_flowBranch {s : State} {t : Fin 16} {sA k : BitVec 5} {off : BitVec 16} {c : Instr} {holds : Bool} {a : Word}
    (hbranch : FlowBranch c t k sA off a holds) :
    ∃ (legal : Bool) (cond : Word → Bool), legal = true ∧ cond a = holds ∧
      exec c s = s.ifUp (·.threadIssue t (.flow k sA off) legal fun h u =>
        if cond (h.sreg sA) then .jump u (flowTarget h off) else .ok u) := by
  rcases hbranch with ⟨rfl, rfl, rfl, rfl⟩ | ⟨hsA, hcase⟩
  · exact ⟨_, fun _ => true, rfl, rfl, rfl⟩
  · have hlegal : Names.ok .scalar sA = true := decide_eq_true hsA
    rcases hcase with ⟨rfl, rfl, rfl⟩ | ⟨rfl, rfl, rfl⟩ | ⟨rfl, rfl, rfl⟩ | ⟨rfl, rfl, rfl⟩
    · exact ⟨_, (· == 0), hlegal, beq_zero_eq a, rfl⟩
    · exact ⟨_, (· != 0), hlegal, bne_zero_eq a, rfl⟩
    · exact ⟨_, (·.msb), hlegal, BitVec.msb_eq_toInt, rfl⟩
    · exact ⟨_, (!·.msb), hlegal, not_msb_eq a, rfl⟩

/-- The word of a FLOW instruction: its major opcode and its operation. -/
theorem flow_defined {k : BitVec 5} (hk : k.toNat < 8) (sA : BitVec 5) (off : BitVec 16) :
    definedSeq (Code.flow k sA off).first = true := by
  have hword : (Code.flow k sA off).first.toNat = 2 ^ 26 * 0x38 + 2 ^ 21 * k.toNat + 2 ^ 16 * sA.toNat + off.toNat := by
    simp only [Code.flow, BitVec.toNat_append]
    rw [← Nat.shiftLeft_add_eq_or_of_lt k.isLt, ← Nat.shiftLeft_add_eq_or_of_lt sA.isLt,
      ← Nat.shiftLeft_add_eq_or_of_lt off.isLt]
    simp only [Nat.shiftLeft_eq, BitVec.toNat_ofNat]
    omega
  have hsA := sA.isLt
  have hoff := off.isLt
  have hmajor : (Code.flow k sA off).first.toNat / 2 ^ 26 = 0x38 := by omega
  have hop : (Code.flow k sA off).first.toNat / 2 ^ 21 % 32 = k.toNat := by omega
  unfold definedSeq
  dsimp only
  rw [hmajor, hop]
  exact decide_eq_true hk

/-! ## Comparators that a program names (R140) -/

theorem compOk_then {c : Nat} (h : 4 ≤ c) (e : ThreadEffect) : (if compOk c then e else .fault 1) = e :=
  if_pos (decide_eq_true (.inr h))

theorem compOk_else {c : Nat} (hlow : 1 ≤ c) (hhigh : c ≤ 3) (e : ThreadEffect) :
    (if compOk c then e else .fault 1) = .fault 1 :=
  if_neg (ne_true_of_eq_false (decide_eq_false (by omega)))

/-- ARM and DISARM of a comparator that is the frame engine's own fault with cause 1 (R140). -/
theorem exec_engineComparator {s : State} {t : Fin 16} {c : Code} {i : Instr} {legal : Bool} {f : Thread → State → ThreadEffect}
    {n : Nat} {e : ThreadEffect} (hat : s.threadAt t c) (hexec : exec i s = s.ifUp (·.threadIssue t c legal f))
    (hlegal : legal = true) (hlow : 1 ≤ n) (hhigh : n ≤ 3)
    (hf : f s.seq.thr[t] (s.taken t) = if compOk n then e else .fault 1) :
    Answers i s fun u => u.seq.thr[t].st = .faulted ∧ u.get (F.SEQ_THR_STAT_CAUSE t) = 1 :=
  Answers.imp (exec_threadFault hat hexec hlegal (by decide) (hf.trans (compOk_else hlow hhigh e)))
    fun _ ⟨hst, hcause, _⟩ => ⟨hst, hcause⟩

/-! ## Waits (R132, R137, R138) -/

theorem waitFor_event {s : State} {t : Fin 16} {k : Nat} (h : s.evFor t = some k) (sD : BitVec 5) (deadline : Option Word) :
    s.waitFor t sD deadline = .ok (s.onThread t fun g => g.setS sD (BitVec.ofNat 32 k)) := by
  unfold State.waitFor State.waitResult
  rw [h]

theorem waitFor_deadline {s : State} {t : Fin 16} {d : Word} (h : s.evFor t = none) (hreached : 0 ≤ sdiff s.now d)
    (sD : BitVec 5) : s.waitFor t sD (some d) = .ok (s.onThread t fun g => g.setS sD 0xFFFFFFFF) := by
  have hpast : s.reached d = true := decide_eq_true hreached
  unfold State.waitFor State.waitResult
  rw [h]
  dsimp only
  rw [hpast, if_pos rfl]

theorem waitFor_none {s : State} {t : Fin 16} {deadline : Option Word} (h : s.evFor t = none)
    (hahead : ∀ d ∈ deadline, sdiff s.now d < 0) (sD : BitVec 5) :
    s.waitFor t sD deadline = .stay (s.waits t (.waitEv (sD.setWidth 4) deadline)) := by
  unfold State.waitFor State.waitResult
  rw [h]
  cases deadline with
  | none => rfl
  | some d =>
    have hpast : s.reached d = false := decide_eq_false (not_le.2 (hahead d rfl))
    dsimp only
    rw [hpast, if_neg (by decide)]

theorem exec_threadWake {s u : State} {t : Fin 16} (hup : s.up = true) (hwake : s.wakeThread t = u) :
    exec (.threadWake t) s = .next u :=
  exec_ifUp (f := (·.wakeThread t)) hup rfl hwake

section Wake

variable {s : State} {t : Fin 16} (halign : s.seq.thr[t].pc.toNat % 4 = 0) (hroom : s.seq.thr[t].pc.toNat + 4 < 0x40000)
include halign hroom

/-- A thread that wakes is ready at the instruction after its wait. -/
theorem threadGoto_woken (f : Thread → Thread) :
    (s.onThread t fun g => { f g with st := .ready }).threadGoto t (s.seq.thr[t].pc.toNat + 4) =
      s.onThread t fun g => { f g with st := .ready, pc := g.pc + 4 } := by
  rw [threadGoto_next halign hroom, onThread_onThread]
  exact onThread_congr rfl

theorem wakeThread_time {x : Word} (hst : s.seq.thr[t].st = .waitAt x) (hreached : 0 ≤ sdiff s.now x) :
    s.wakeThread t = s.onThread t fun h => { h with st := .ready, pc := h.pc + 4 } := by
  have hpast : s.reached x = true := decide_eq_true hreached
  unfold State.wakeThread
  dsimp only
  rw [hst]
  dsimp only
  rw [hpast, State.when_true]
  exact threadGoto_woken halign hroom id

theorem wakeThread_event {d : BitVec 4} {x : Option Word} {k : Nat} (hst : s.seq.thr[t].st = .waitEv d x)
    (hev : s.evFor t = some k) : s.wakeThread t =
      s.onThread t fun h => { h.setS (d.setWidth 5) (BitVec.ofNat 32 k) with st := .ready, pc := h.pc + 4 } := by
  have hresult : s.waitResult t x = some (BitVec.ofNat 32 k) := by
    unfold State.waitResult
    rw [hev]
  unfold State.wakeThread
  dsimp only
  rw [hst]
  dsimp only
  rw [hresult]
  exact threadGoto_woken halign hroom (·.setS (d.setWidth 5) (BitVec.ofNat 32 k))

end Wake

theorem wakeThread_early {s : State} {t : Fin 16} {x : Word} (hst : s.seq.thr[t].st = .waitAt x) (hahead : sdiff s.now x < 0) :
    s.wakeThread t = s := by
  have hpast : s.reached x = false := decide_eq_false (not_le.2 hahead)
  unfold State.wakeThread
  dsimp only
  rw [hst]
  dsimp only
  rw [hpast, State.when_false]

/-! ## Threads start (R130) -/

/-- Thread `u` with its number in s0, ready at an address. -/
def Thread.startedAt (h : Thread) (u : Fin 16) (pc : Word) : Thread :=
  { h.setS 0 (BitVec.ofNat 32 u) with st := .ready, pc := pc }

theorem startThread_eq {s : State} {u : Fin 16} {pc : Word} (hidle : s.seq.thr[u].st = .stopped ∨ s.seq.thr[u].st = .faulted)
    (hhigh : pc.toNat < 0x40000) (halign : pc.toNat % 4 = 0) :
    s.startThread u pc = (s.put (F.SEQ_THR_STAT_CAUSE u) 0).onThread u (·.startedAt u pc) := by
  have hstart : (s.seq.thr[u].st == .stopped || s.seq.thr[u].st == .faulted) = true := by
    rcases hidle with h | h <;> rw [h] <;> rfl
  unfold State.startThread
  dsimp only
  rw [hstart, State.when_true, threadGoto_word hhigh halign]
  exact onThread_onThread (s.put (F.SEQ_THR_STAT_CAUSE u) 0) u (fun g => { g.setS 0 (BitVec.ofNat 32 u) with st := .ready }) _

/-- What TSTART leaves of the thread that it starts and of its own (R130). -/
theorem threadPast_started {s : State} {t u : Fin 16} {pc : Word} (ht : s.seq.thr[t].st = .ready)
    (hidle : s.seq.thr[u].st = .stopped ∨ s.seq.thr[u].st = .faulted) (hhigh : pc.toNat < 0x40000) (halign : pc.toNat % 4 = 0) :
    (s.threadPast t ((s.taken t).startThread u pc)).seq.thr[u] = s.seq.thr[u].startedAt u pc ∧
      (s.threadPast t ((s.taken t).startThread u pc)).get (F.SEQ_THR_STAT_CAUSE u) = 0 := by
  have hne : u ≠ t := by
    rintro rfl
    rcases hidle with h | h <;> rw [h] at ht <;> exact ThreadState.noConfusion ht
  rw [thread_threadPast_other s hne, startThread_eq (s := s.taken t) hidle hhigh halign]
  refine ⟨thread_onThread_same ((s.taken t).put (F.SEQ_THR_STAT_CAUSE u) 0) u _, ?_⟩
  exact (State.get_put (s.taken t) (F.SEQ_THR_STAT_CAUSE u) 0 (show 20 + 2 ≤ 32 by decide)).trans (Nat.zero_mod _)

/-! ## Flow (R133) -/

section Flow

variable {s : State} {t : Fin 16} {sA : BitVec 5} {off : BitVec 16}

theorem flowTarget_aligned {c : Code} (hat : s.threadAt t c) : flowTarget s.seq.thr[t] off % 4 = 0 := by
  obtain ⟨-, -, -, halign, -⟩ := hat
  unfold flowTarget
  omega

theorem flow_branches {x : Int} (hx : x = flowTarget s.seq.thr[t] off) {c : Instr} {k : BitVec 5} {holds : Bool}
    (hat : s.threadAt t (.flow k sA off)) (hbranch : FlowBranch c t k sA off (s.seq.thr[t].sreg sA) holds) :
    (holds = false → exec c s = .next (s.threadNext t id)) ∧
      (holds = true → 0 ≤ x → x < 0x40000 → exec c s = .next (State.threadTo t (BitVec.ofInt 32 x) (s.taken t))) ∧
      (holds = true → x < 0 ∨ 0x40000 ≤ x → Answers c s (·.FaultedWith t 2)) := by
  obtain ⟨legal, cond, hlegal, hcond, hexec⟩ := exec_flowBranch hbranch
  subst hx
  refine ⟨fun hfalls => ?_, fun htaken hlow hhigh => ?_, fun htaken hout => ?_⟩
  · rw [exec_threadPast hat hexec hlegal (if_neg (by rw [hcond, hfalls]; decide)), State.threadNext, onThread_id]
  · exact exec_threadJump hat hexec hlegal (if_pos (hcond.trans htaken)) hlow hhigh (flowTarget_aligned hat)
  · exact exec_threadJump_out hat hexec hlegal (if_pos (hcond.trans htaken)) hout

theorem flow_call (hat : s.threadAt t (.flow 5 0 off)) (hlow : 0 ≤ flowTarget s.seq.thr[t] off)
    (hhigh : flowTarget s.seq.thr[t] off < 0x40000) :
    exec (.flowCall t 0 off) s = .next (State.threadTo t (BitVec.ofInt 32 (flowTarget s.seq.thr[t] off))
      ((s.taken t).onThread t fun h => h.setS 15 (h.pc + 4))) :=
  exec_threadJump hat rfl rfl rfl hlow hhigh (flowTarget_aligned hat)

theorem flow_ret (hat : s.threadAt t (.flow 6 0 0)) (hhigh : (s.seq.thr[t].sreg 15).toNat < 0x40000)
    (halign : (s.seq.thr[t].sreg 15).toNat % 4 = 0) :
    exec (.flowRet t 0 0) s = .next (State.threadTo t (s.seq.thr[t].sreg 15) (s.taken t)) :=
  exec_threadJump_word hat rfl rfl rfl hhigh halign

theorem flow_undefined (hup : s.up = true) (hscheduled : s.scheduled t = true)
    (hword : definedSeq (s.word (seqBase + s.seq.thr[t].pc.toNat)) = false) :
    Answers (.flowB t sA off) s (·.FaultedWith t 1) := by
  refine answers_ifUp (f := fun u => u.threadIssue t (.flow 0 sA off) _ _) hup rfl ?_
  rw [threadIssue_undefined hscheduled hword (flow_defined (by decide) sA off)]
  exact threadFault_faultedWith _ t (by decide)

end Flow

/-! ## The obligation -/

/-- Settles O59: the scheduler by `scheduled_prio` and `scheduled_unique`, each instruction by the end that it has
(`State.threadEnds`), the waits by `waitFor` and `wakeThread`. -/
theorem threadsIssueInTurn : Obligations.ThreadsIssueInTurn := by
  refine ⟨fun s t u => ⟨fun ht => ⟨scheduled_ready ht, scheduled_prio ht⟩, scheduled_unique⟩, ?flow, ?operations, ?wake⟩
  case flow =>
    rintro s t sA off x h rfl rfl
    refine ⟨fun c k holds hat => flow_branches rfl hat, ?_, fun hat hsA => ?_, flow_undefined, fun imm hsA => ?_⟩
    · rintro rfl
      refine ⟨flow_call, ?_, ?_⟩
      · rintro hat rfl
        exact flow_ret hat
      · rintro hat rfl
        exact exec_threadStay hat rfl rfl rfl
    · have hillegal : Names.ok .scalar sA = false := decide_eq_false (not_lt.2 hsA)
      exact exec_threadIllegal hat (f := fun h u => if h.sreg sA == 0 then .jump u (flowTarget h off) else .ok u) rfl hillegal
    · have hlegal : (Names.ok .scalar sA && (0 : BitVec 4) == 0) = true := Bool.and_eq_true_iff.2 ⟨decide_eq_true hsA, rfl⟩
      exact ⟨fun hat => exec_threadPast hat rfl hlegal rfl, fun hat => exec_threadPast hat rfl hlegal rfl⟩
  case operations =>
    rintro s t o h a b rfl rfl rfl
    refine ⟨fun hlegal => ⟨?wait, ?signal, ?tstop⟩, fun hlegal => ⟨?rdtb, ?waitev⟩, ?deadline, ?yield,
      fun hlegal hat => ⟨?disarm, ?disarmEngine⟩, fun hlegal => ⟨fun hat => ⟨?arm, ?armLate, ?armEngine⟩, ?tstart⟩⟩
    case wait =>
      exact fun hat => ⟨fun hreached => exec_threadPast hat rfl hlegal (if_pos (decide_eq_true hreached)),
        fun hahead => exec_threadStay hat rfl hlegal (if_neg (ne_true_of_eq_false (decide_eq_false (not_le.2 hahead))))⟩
    case signal => exact fun hat => exec_threadPast hat rfl hlegal rfl
    case tstop =>
      intro hat u hu
      have hthread : Fin.ofNat 16 (s.seq.thr[t].sreg o.srcA).toNat = u := Fin.ext hu.symm
      exact exec_threadPast hat rfl hlegal (congrArg (fun v => ThreadEffect.ok ((s.taken t).stopThread v)) hthread)
    case rdtb => exact fun hat => exec_threadPast hat rfl hlegal rfl
    case waitev =>
      exact fun hat => ⟨fun k hev => exec_threadPast hat rfl hlegal (waitFor_event (s := s.taken t) hev _ _),
        fun hnone =>
          exec_threadStay hat rfl hlegal (waitFor_none (s := s.taken t) hnone (fun _ hd => absurd hd (Option.not_mem_none _)) _)⟩
    case deadline =>
      exact fun hlegal hat => ⟨fun k hev => exec_threadPast hat rfl hlegal (waitFor_event (s := s.taken t) hev _ _),
        fun hnone hreached => exec_threadPast hat rfl hlegal (waitFor_deadline (s := s.taken t) hnone hreached _),
        fun hnone hahead =>
          exec_threadStay hat rfl hlegal (waitFor_none (s := s.taken t) hnone (fun _ hd => Option.some.inj hd ▸ hahead) _)⟩
    case yield => exact fun hlegal hat => exec_threadPast hat rfl hlegal rfl
    case disarm =>
      intro hprog hdue
      exact exec_threadPast hat rfl hlegal ((compOk_then hprog _).trans
        (congrArg _ (disarmComp_notDue (s := s.taken t) hprog hdue)))
    case disarmEngine => exact fun hlow hhigh => exec_engineComparator hat rfl hlegal hlow hhigh rfl
    case arm =>
      intro hprog hdue hahead
      exact exec_threadPast hat rfl hlegal ((compOk_then hprog _).trans
        (congrArg _ (armComp_ahead (s := s.taken t) hprog hdue hahead)))
    case armLate =>
      intro hprog hdue hpassed
      refine ⟨_, exec_threadPast hat rfl hlegal (compOk_then hprog _), ?_⟩
      dsimp only
      rw [threadPast_bit, threadPast_bit, threadPast_target, threadPast_evStatus]
      exact armComp_late (s := s.taken t) hprog hdue hpassed
    case armEngine => exact fun hlow hhigh => exec_engineComparator hat rfl hlegal hlow hhigh rfl
    case tstart =>
      intro hat u hu hidle hhigh halign
      have hthread : Fin.ofNat 16 (s.seq.thr[t].sreg o.srcA).toNat = u := Fin.ext hu.symm
      obtain ⟨hstarted, hcause⟩ := threadPast_started (threadAt_ready hat) hidle hhigh halign
      refine ⟨_, exec_threadPast hat rfl hlegal (congrArg (fun v => ThreadEffect.ok ((s.taken t).startThread v _)) hthread),
        ?_⟩
      dsimp only
      rw [hstarted, hcause, thread_threadPast]
      exact ⟨rfl, rfl, Vector.getElem_set_self _, rfl, rfl⟩
  case wake =>
    rintro s t h hup rfl halign hroom
    refine ⟨fun x hst => ⟨fun hreached => exec_threadWake hup (wakeThread_time halign hroom hst hreached),
      fun hahead => exec_threadWake hup (wakeThread_early hst hahead)⟩,
      fun d x k hst hev => exec_threadWake hup (wakeThread_event halign hroom hst hev)⟩

end Sys2Proof.Machine
end

section
/-! Memory, registers and KICK as a thread reaches them (R135, R136, R143–R145, R180, R304, R322). -/

open Sys2Proof Sys2Proof.Machine

namespace Sys2Proof.Machine

/-! ## Memory (R135, R322) -/

theorem seqData_iff (a : Nat) : seqData a = true ↔
    a % 4 = 0 ∧ 0x01000000 ≤ a ∧ a < 0x07000000 ∧ (a < 0x06200000 ∨ 0x06900000 ≤ a) := by
  simp only [seqData, onChip, inRange, Bool.and_eq_true, Bool.not_eq_true', decide_eq_true_eq, decide_eq_false_iff_not]
  omega

theorem seqData_eq_false {a : Nat} (h : a % 4 ≠ 0 ∨ a < 0x01000000 ∨ 0x07000000 ≤ a ∨ (0x06200000 ≤ a ∧ a < 0x06900000)) :
    seqData a = false := by
  rw [← Bool.not_eq_true, seqData_iff]
  omega

/-- An error in the word that a thread reads is reported (R322). -/
theorem wordGot_reports (s : State) {a : Nat} (ha : seqData a = true) {x : EccHit} (hx : x.addr / 8 = a / 8) :
    (s.wordGot a [x]).2.evStatus (if x.fixed then 429 else 430) = true := by
  obtain ⟨halign, hlow, hhigh, -⟩ := (seqData_iff a).1 ha
  have hon : ¬dramBase ≤ x.addr := by simp only [dramBase]; omega
  have hmeets : hitMeets x a 4 = true := by
    simp only [hitMeets, hitUnit, if_neg hon, decide_eq_true_eq]
    omega
  have hcovers : s.eccCovers x = true := by
    simp only [State.eccCovers, if_neg hon, onChip, decide_eq_true_eq]
    omega
  have hin : s.eccIn a 4 [x] = [x] := by simp [State.eccIn, hmeets, hcovers]
  have hreported : (s.eccReport x).evStatus (if x.fixed then 429 else 430) = true := by
    unfold State.eccReport
    rw [if_neg hon]
    cases x.fixed with
    | true => exact raise_evStatus (by decide)
    | false => exact raise_evStatus (by decide)
  unfold State.wordGot
  rw [hin]
  dsimp only
  split
  · exact hreported
  · exact hreported

/-! ## Registers (R136) -/

/-- An access to an address without a register leaves BADREG and event 28. -/
theorem badReg_shown (s : State) (t : Fin 16) :
    ((s.put (F.SEQ_THR_STAT_BADREG t) 1).raise 876).bit (F.SEQ_THR_STAT_BADREG t) = true ∧
      ((s.put (F.SEQ_THR_STAT_BADREG t) 1).raise 876).evStatus 876 = true := by
  have hsrc : 876 < 1024 := by decide
  have hhigh : 0x50000 ≤ (F.SEQ_THR_STAT_BADREG t).addr := show 0x50000 ≤ 0x70040 + 4 * t.val by omega
  refine ⟨?_, raise_evStatus hsrc⟩
  rw [raise_bit_high hsrc hhigh, bit_put _ _ _ (show 22 + 1 ≤ 32 by decide)]
  rfl

theorem readReg_of_noRegister {a : Nat} (h : RegMap.find a = none) (s : State) : s.readReg a = none := by
  have hout : mapped a = false := by rw [mapped, h]; rfl
  rw [State.readReg, hout]
  rfl

/-! ## KICK (R143–R145, R180, R304) -/

theorem rackCommit_seq (s : State) (r : Fin 4) (value : Word) : (s.rackCommit r value).seq = s.seq := by
  unfold State.rackCommit
  dsimp only
  split <;> rfl

theorem rackCommit_wptr {s : State} {r : Fin 4} {value : Word} (h : value.toNat % 65536 < s.get (F.RACK_RING_SIZE_N r)) :
    (s.rackCommit r value).get (F.RACK_RING_WPTR_WPTR r) = value.toNat % 65536 := by
  rw [State.rackCommit, if_pos h, State.get_put _ _ _ (show 0 + 16 ≤ 32 by decide)]
  exact Nat.mod_mod _ _

/-- Work handed to its unit changes no more of the sequencer than the press jobs that wait. -/
theorem startWork_seq (s : State) (cls : Nat) (arg : Word) (ticket : BitVec 16) :
    (s.startWork cls arg ticket).seq = { s.seq with
      jobs := if cls = 0 then s.seq.jobs ++ [s.pressJobAt arg.toNat ticket] else s.seq.jobs } := by
  unfold State.startWork
  by_cases hpress : cls = 0
  · rw [if_pos hpress, if_pos hpress]
  · rw [if_neg hpress, if_neg hpress]
    split
    · split
      · rfl
      · exact raise_seq (by decide)
    · exact rackCommit_seq s _ _

/-- The state once the next ticket is taken. -/
def State.ticketed (s : State) : State := { s with seq := { s.seq with ticket := s.seq.ticket + 1 } }

section Kick

variable {s : State} {cls : Nat} {arg : Word} {rel : Nat}

theorem kick_refused (h : s.kickCause cls arg (rel != 0) ≠ 0) : s.kick cls arg rel =
    (BitVec.ofNat 32 (s.seq.ticket.toNat + 2 ^ 28 * s.kickCause cls arg (rel != 0) + 2 ^ 31), s.raise 865) :=
  if_pos h

theorem kick_accepted (h : s.kickCause cls arg (rel != 0) = 0) : s.kick cls arg rel =
    ((s.seq.ticket + 1).setWidth 32, if rel = 0 then s.ticketed.startWork cls arg (s.seq.ticket + 1)
      else { s.ticketed with seq := { s.ticketed.seq with held := s.seq.held ++ [⟨7 + rel, cls, arg, s.seq.ticket + 1⟩] } }) :=
  if_neg (not_not.2 h)

theorem kickCause_reserved (held : Bool) : s.kickCause 3 arg held = 2 := rfl

/-- The causes for which a codec job is refused (R143, R180). -/
theorem kickCause_codec (held : Bool) : s.kickCause 1 arg held =
    if arg.toNat % 32 ≠ 0 ∨ !onChip arg.toNat 32 then 1 else if held ∧ 16 ≤ s.seq.held.length then 3
    else if (s.laneFor (JobDesc.ofWords (s.descWords arg.toNat))).isNone then 5 else 0 := by
  simp [State.kickCause]

/-- The causes for which a ring's commit is refused (R143, R304). -/
theorem kickCause_ring (held : Bool) : s.kickCause 2 arg held =
    if held ∧ 16 ≤ s.seq.held.length then 3
    else if !s.ringOn (Fin.ofNat 4 arg.toNat) ∨ s.get (F.RACK_RING_SIZE_N (arg.toNat % 4)) ≤ arg.toNat / 65536 then 5
    else 0 := rfl

theorem laneFor_of_accepted {held : Bool} (h : s.kickCause 1 arg held = 0) :
    ∃ n, s.laneFor (JobDesc.ofWords (s.descWords arg.toNat)) = some n := by
  rw [kickCause_codec] at h
  split_ifs at h with _ _ hlane
  exact Option.ne_none_iff_exists'.1 fun hnone => hlane (Option.isNone_iff_eq_none.2 hnone)

theorem ringSize_of_accepted {held : Bool} (h : s.kickCause 2 arg held = 0) :
    arg.toNat / 65536 < s.get (F.RACK_RING_SIZE_N (arg.toNat % 4)) := by
  rw [kickCause_ring] at h
  split_ifs at h with _ hring
  exact not_le.1 fun hout => hring (.inr hout)

/-- A codec job that its lane takes stands last in the lane's queue. -/
theorem startWork_codec {n : Fin 32} {ticket : BitVec 16} (hlane : s.laneFor (JobDesc.ofWords (s.descWords arg.toNat)) = some n) :
    (s.startWork 1 arg ticket).codec.lanes[n].jobs =
      s.codec.lanes[n].jobs ++ [⟨arg.toNat, [], ticket, 0, 0, 0, false, false⟩] := by
  rw [State.startWork, if_neg (by decide), if_pos rfl, hlane]
  dsimp only
  rw [lane_onLane]

/-- A commit of an index within its ring moves WPTR. -/
theorem startWork_ring {ticket : BitVec 16} (hsize : arg.toNat / 65536 < s.get (F.RACK_RING_SIZE_N (arg.toNat % 4))) :
    (s.startWork 2 arg ticket).get (F.RACK_RING_WPTR_WPTR (arg.toNat % 4)) = arg.toNat / 65536 := by
  have hindex : (arg >>> 16).toNat % 65536 = arg.toNat / 65536 := by
    rw [BitVec.toNat_ushiftRight, Nat.shiftRight_eq_div_pow]
    omega
  rw [State.startWork, if_neg (by decide), if_neg (by decide)]
  exact (rackCommit_wptr (r := Fin.ofNat 4 arg.toNat) (hindex ▸ hsize)).trans hindex

end Kick

/-! ## A result in a register of the thread that goes on -/

section Past

variable (s : State) (t : Fin 16) (v : State) (g : Thread → Thread)

@[simp] theorem threadPast_onThread_ticket : (s.threadPast t (v.onThread t g)).seq.ticket = v.seq.ticket := rfl
@[simp] theorem threadPast_onThread_jobs : (s.threadPast t (v.onThread t g)).seq.jobs = v.seq.jobs := rfl
@[simp] theorem threadPast_onThread_held : (s.threadPast t (v.onThread t g)).seq.held = v.seq.held := rfl
@[simp] theorem threadPast_onThread_codec : (s.threadPast t (v.onThread t g)).codec = v.codec := rfl
@[simp] theorem threadPast_onThread_get (f : Field) : (s.threadPast t (v.onThread t g)).get f = v.get f := rfl
@[simp] theorem threadPast_onThread_evStatus (n : Nat) : (s.threadPast t (v.onThread t g)).evStatus n = v.evStatus n := rfl

theorem threadPast_onThread_sreg (f : BitVec 5) (w : Word) :
    (s.threadPast t (v.onThread t (·.setS f w))).seq.thr[t].sreg f = w := by
  rw [thread_threadPast, thread_onThread_same]
  exact thread_sreg_setS_same _ _ _

end Past

section KickInstr

variable {s : State} {t : Fin 16} {o : Opnd} {k rel : Nat} {arg : Word}

/-- Thread `t` past a KICK. -/
def State.kicked (s : State) (t : Fin 16) (o : Opnd) (k rel : Nat) (arg : Word) : State :=
  s.threadPast t (((s.taken t).kick k arg rel).2.onThread t (·.setS o.dst ((s.taken t).kick k arg rel).1))

/-- A KICK of a class is handed over by its own instruction, one of class 3 by whichever comes. -/
theorem exec_kick {c : Instr} (hat : s.threadAt t (.op 62 3 o)) (hlegal : o.legal .scalar .scalar .code false = true)
    (hk : k = o.srcB.toNat % 4) (hrel : rel = o.srcB.toNat / 4)
    (hclass : (c = .kickPressJob t o ∧ (k = 0 ∨ k = 3)) ∨ (c = .kickCodecJob t o ∧ (k = 1 ∨ k = 3)) ∨
      (c = .kickRackList t o ∧ (k = 2 ∨ k = 3))) :
    exec c s = .next (s.kicked t o k rel (s.seq.thr[t].sreg o.srcA)) := by
  have hinstr (cls : Nat) (hcls : k = cls ∨ k = 3) : s.kickInstr cls t o = s.kicked t o k rel (s.seq.thr[t].sreg o.srcA) := by
    unfold State.kickInstr
    dsimp only
    rw [← hk, ← hrel, if_neg (by omega)]
    exact threadIssue_ok hat hlegal rfl
  rcases hclass with ⟨rfl, hcls⟩ | ⟨rfl, hcls⟩ | ⟨rfl, hcls⟩
  · exact exec_ifUp (f := (·.kickInstr 0 t o)) hat.1 rfl (hinstr 0 hcls)
  · exact exec_ifUp (f := (·.kickInstr 1 t o)) hat.1 rfl (hinstr 1 hcls)
  · exact exec_ifUp (f := (·.kickInstr 2 t o)) hat.1 rfl (hinstr 2 hcls)

theorem kicked_result : (s.kicked t o k rel arg).seq.thr[t].sreg o.dst = ((s.taken t).kick k arg rel).1 :=
  threadPast_onThread_sreg ..

theorem kicked_pc : (s.kicked t o k rel arg).seq.thr[t].pc = s.seq.thr[t].pc + 4 := by
  rw [State.kicked, thread_threadPast]

/-- A KICK that is refused raises event 17 and hands over nothing (R143). -/
theorem kicked_refused (h : (s.taken t).kickCause k arg (rel != 0) ≠ 0) :
    (s.kicked t o k rel arg).evStatus 865 = true ∧ (s.kicked t o k rel arg).seq.ticket = s.seq.ticket ∧
      (s.kicked t o k rel arg).seq.jobs = s.seq.jobs ∧ (s.kicked t o k rel arg).seq.held = s.seq.held := by
  have hsrc : 865 < 1024 := by decide
  rw [State.kicked, threadPast_onThread_evStatus, threadPast_onThread_ticket, threadPast_onThread_jobs, threadPast_onThread_held,
    kick_refused h]
  dsimp only
  rw [raise_seq hsrc]
  exact ⟨raise_evStatus hsrc, rfl, rfl, rfl⟩

/-- Work that starts at once: what its unit has then. -/
theorem kicked_now (h : (s.taken t).kickCause k arg (0 != 0) = 0) : (s.kicked t o k 0 arg).seq.ticket = s.seq.ticket + 1 ∧
    (k = 0 → (s.kicked t o k 0 arg).seq.jobs = s.seq.jobs ++ [s.pressJobAt arg.toNat (s.seq.ticket + 1)]) ∧
    (k = 1 → ∃ n : Fin 32, s.laneFor (JobDesc.ofWords (s.descWords arg.toNat)) = some n ∧
      (s.kicked t o k 0 arg).codec.lanes[n].jobs =
        s.codec.lanes[n].jobs ++ [⟨arg.toNat, [], s.seq.ticket + 1, 0, 0, 0, false, false⟩]) ∧
    (k = 2 → (s.kicked t o k 0 arg).get (F.RACK_RING_WPTR_WPTR (arg.toNat % 4)) = arg.toNat / 65536) := by
  rw [State.kicked, threadPast_onThread_ticket, threadPast_onThread_jobs, threadPast_onThread_codec, threadPast_onThread_get,
    kick_accepted h]
  dsimp only
  rw [if_pos rfl, startWork_seq]
  refine ⟨rfl, fun hk => if_pos hk, ?_, ?_⟩
  · rintro rfl
    obtain ⟨n, hlane⟩ := laneFor_of_accepted h
    exact ⟨n, hlane, startWork_codec (s := (s.taken t).ticketed) hlane⟩
  · rintro rfl
    exact startWork_ring (s := (s.taken t).ticketed) (ringSize_of_accepted h)

theorem kicked_later (hrel : rel ≠ 0) (h : (s.taken t).kickCause k arg (rel != 0) = 0) :
    (s.kicked t o k rel arg).seq.ticket = s.seq.ticket + 1 ∧
      (s.kicked t o k rel arg).seq.held = s.seq.held ++ [⟨7 + rel, k, arg, s.seq.ticket + 1⟩] ∧
      (s.kicked t o k rel arg).seq.jobs = s.seq.jobs := by
  rw [State.kicked, threadPast_onThread_ticket, threadPast_onThread_jobs, threadPast_onThread_held, kick_accepted h]
  dsimp only
  rw [if_neg hrel]
  exact ⟨rfl, rfl, rfl⟩

end KickInstr

/-! ## Instructions that reach memory and registers -/

section Memory

variable {s : State} {t : Fin 16} {o : Opnd} (hlegal : o.legal .scalar .scalar .nothing false = true)
include hlegal

theorem exec_ld (hat : s.threadAt t (.low 60 o)) (hdata : seqData (s.seq.thr[t].addr o) = true) (ecc : List EccHit) :
    exec (.ld t o ecc) s = .next (s.threadPast t (((s.taken t).wordGot (s.seq.thr[t].addr o) ecc).2.onThread t
      (·.setS o.dst ((s.taken t).wordGot (s.seq.thr[t].addr o) ecc).1))) :=
  exec_threadPast hat rfl hlegal (if_pos hdata)

/-- LD and ST of an address outside what they reach (R135). -/
theorem exec_memory_outside {c : Instr} {k : BitVec 6} (hout : seqData (s.seq.thr[t].addr o) = false)
    (hc : (c = .ld t o [] ∧ k = 60) ∨ (c = .st t o ∧ k = 61)) (hat : s.threadAt t (.low k o)) :
    Answers c s (·.FaultedWith t 3) := by
  rcases hc with ⟨rfl, rfl⟩ | ⟨rfl, rfl⟩
  · exact exec_threadFault hat rfl hlegal (by decide) (if_neg (ne_true_of_eq_false hout))
  · exact exec_threadFault hat rfl hlegal (by decide) (if_neg (ne_true_of_eq_false hout))

end Memory

section WriteRegister

variable {s : State} {t : Fin 16} {o : Opnd} (hlegal : o.legal .nothing .scalar .scalar false = true)
  (hat : s.threadAt t (.op 62 0 o))
include hlegal hat

theorem exec_wr_register {u : State}
    (hu : (s.taken t).writeReg (s.seq.thr[t].sreg o.srcA).toNat (s.seq.thr[t].sreg o.srcB) = some u) :
    exec (.wr t o) s = .next (s.threadPast t u) :=
  exec_threadPast hat rfl hlegal (by rw [hu])

theorem exec_wr_nowhere (hnone : (s.taken t).writeReg (s.seq.thr[t].sreg o.srcA).toNat (s.seq.thr[t].sreg o.srcB) = none) :
    Answers (.wr t o) s fun u => u.bit (F.SEQ_THR_STAT_BADREG t) = true ∧ u.evStatus 876 = true ∧
      u.seq.thr[t].pc = s.seq.thr[t].pc + 4 := by
  refine ⟨_, exec_threadPast hat rfl hlegal (u := ((s.taken t).put (F.SEQ_THR_STAT_BADREG t) 1).raise 876)
    (by rw [hnone]; rfl), ?_⟩
  obtain ⟨hbad, hevent⟩ := badReg_shown (s.taken t) t
  rw [threadPast_bit, threadPast_evStatus, thread_threadPast]
  exact ⟨hbad, hevent, rfl⟩

end WriteRegister

/-- The word read goes out beside the thread's register. -/
theorem onThread_withRdata (u : State) (t : Fin 16) (g : Thread → Thread) (w : Word) :
    { u.onThread t g with rdata := w } = { u with rdata := w }.onThread t g := rfl

section ReadRegister

variable {s : State} {t : Fin 16} {o : Opnd} (hlegal : o.legal .scalar .scalar .nothing false = true)
  (hat : s.threadAt t (.op 62 1 o))
include hlegal hat

theorem exec_rd_register {w : Word} {u : State} (hu : (s.taken t).readReg (s.seq.thr[t].sreg o.srcA).toNat = some (w, u)) :
    Answers (.rd t o) s fun z => z.rdata = w ∧ z.seq.thr[t].sreg o.dst = w ∧ z.seq.thr[t].pc = s.seq.thr[t].pc + 4 := by
  have hexec : exec (.rd t o) s = .next (s.threadPast t ({ u with rdata := w }.onThread t (·.setS o.dst w))) := by
    refine exec_threadPast hat rfl hlegal ?_
    rw [hu]
    exact congrArg ThreadEffect.ok (onThread_withRdata u t _ w)
  refine ⟨_, hexec, rfl, threadPast_onThread_sreg .., ?_⟩
  rw [thread_threadPast]

theorem exec_rd_nowhere (hnone : RegMap.find (s.seq.thr[t].sreg o.srcA).toNat = none) :
    Answers (.rd t o) s fun z => z.seq.thr[t].sreg o.dst = 0 ∧ z.bit (F.SEQ_THR_STAT_BADREG t) = true ∧
      z.evStatus 876 = true ∧ z.seq.thr[t].pc = s.seq.thr[t].pc + 4 := by
  refine ⟨_, exec_threadPast hat rfl hlegal
    (u := (((s.taken t).onThread t (·.setS o.dst 0)).put (F.SEQ_THR_STAT_BADREG t) 1).raise 876)
    (by rw [readReg_of_noRegister hnone]; rfl), ?_⟩
  obtain ⟨hbad, hevent⟩ := badReg_shown ((s.taken t).onThread t (·.setS o.dst 0)) t
  rw [threadPast_bit, threadPast_evStatus, thread_threadPast, raise_seq (by decide), State.put_seq, thread_onThread_same]
  exact ⟨thread_sreg_setS_same _ _ _, hbad, hevent, rfl⟩

end ReadRegister

/-! ## The obligation -/

/-- Settles O60: memory by `seqData_iff`, `exec_ld` and `exec_memory_outside`, registers by the two ends each of WR and RD, a KICK
by `exec_kick` and by what a refused, an immediate and a held one leave (`kicked_refused`, `kicked_now`, `kicked_later`). -/
theorem threadsReachMemoryRegistersAndUnits : Obligations.ThreadsReachMemoryRegistersAndUnits := by
  refine ⟨?memory, ?registers, ?kick⟩
  case memory =>
    rintro s t o h a rfl
    refine ⟨?_, ?xchg⟩
    · rintro rfl hlegal
      refine ⟨fun halign hlow hhigh hout => ?_, fun hout c k => exec_memory_outside hlegal (seqData_eq_false hout)⟩
      have hdata : seqData (s.seq.thr[t].addr o) = true := (seqData_iff _).2 ⟨halign, hlow, hhigh, hout⟩
      refine ⟨fun hat => ⟨exec_ld hlegal hat hdata [], fun x hx => ⟨_, exec_ld hlegal hat hdata [x], ?_⟩⟩,
        fun hat => exec_threadPast hat rfl hlegal (if_pos hdata)⟩
      dsimp only
      rw [thread_threadPast, threadPast_onThread_evStatus]
      exact ⟨rfl, wordGot_reports _ hdata hx⟩
    case xchg =>
      rintro rfl hlegal halign hlow hhigh hout hat
      exact exec_threadPast hat rfl hlegal (if_pos ((seqData_iff _).2 ⟨halign, hlow, hhigh, hout⟩))
  case registers =>
    rintro s t o h a rfl rfl
    refine ⟨fun hat hlegal => ⟨fun u hu => exec_wr_register hlegal hat hu, exec_wr_nowhere hlegal hat⟩,
      fun hat hlegal => ⟨fun w u hu => exec_rd_register hlegal hat hu, exec_rd_nowhere hlegal hat⟩⟩
  case kick =>
    rintro s t o h arg c k rel hat rfl rfl hlegal hk hrel hclass
    have hexec := exec_kick hat hlegal hk hrel hclass
    refine ⟨?_, fun hrefused => ⟨_, hexec, ?_⟩, fun haccepted => ⟨_, hexec, ?_⟩⟩
    · rintro rfl
      exact kickCause_reserved _
    · obtain ⟨hevent, hticket, hjobs, hheld⟩ := kicked_refused (o := o) hrefused
      refine ⟨hevent, hticket, hjobs, hheld, ?_⟩
      rw [kicked_result, kick_refused hrefused]
      rfl
    · dsimp only
      rw [kicked_result, kicked_pc]
      by_cases hnow : rel = 0
      · subst hnow
        obtain ⟨hticket, hpress, hcodec, hring⟩ := kicked_now (o := o) haccepted
        rw [kick_accepted haccepted]
        exact ⟨hticket, rfl, rfl, nofun, fun _ => hpress, fun _ => hcodec, fun _ => hring⟩
      · obtain ⟨hticket, hheld, hjobs⟩ := kicked_later (o := o) hnow haccepted
        rw [kick_accepted haccepted]
        exact ⟨hticket, rfl, rfl, fun _ => ⟨hheld, hjobs⟩, (absurd · hnow), (absurd · hnow), (absurd · hnow)⟩

end Sys2Proof.Machine
end

section
/-! One sample under the codec: its prediction, its quantised error, its code word (R163, R169, R172). -/

open Sys2Proof Sys2Proof.Machine

namespace Sys2Proof.Machine

/-! ## The median edge predictor (R163) -/

/-- Settles O29: the first two cases meet where c is at both bounds, and there min and max agree. -/
theorem medianEdgePredictor : Obligations.MedianEdgePredictor := by
  intro a b c
  unfold medianEdge
  refine ⟨fun h => if_pos h, fun h => ?_, fun hlow hhigh => ?_⟩
  · split_ifs <;> omega
  · split_ifs <;> omega

/-! ## Bits of a number (R156) -/

theorem natBits_succ (n v : Nat) : natBits (n + 1) v = (v / 2 ^ n % 2 == 1) :: natBits n v := by
  unfold natBits
  rw [List.range_succ_eq_map, List.map_cons, List.map_map]
  congr 1
  refine List.map_congr_left fun i _ => ?_
  simp only [Function.comp, Nat.add_sub_cancel, Nat.sub_sub, Nat.add_comm 1 i, Nat.succ_eq_add_one]

theorem length_natBits (n v : Nat) : (natBits n v).length = n := by
  rw [natBits, List.length_map, List.length_range]

theorem foldl_natBits (n v a : Nat) : (natBits n v).foldl (fun a b => 2 * a + b.toNat) a = a * 2 ^ n + v % 2 ^ n := by
  induction n generalizing a with
  | zero => simp [natBits, Nat.mod_one]
  | succ n ih =>
    have hbit : (v / 2 ^ n % 2 == 1).toNat = v / 2 ^ n % 2 := by
      rcases Nat.mod_two_eq_zero_or_one (v / 2 ^ n) with h | h <;> simp [h]
    rw [natBits_succ, List.foldl_cons, ih, hbit, Nat.mod_pow_succ]
    ring

theorem takeBits_natBits (n v : Nat) (l : List Bool) : takeBits n (natBits n v ++ l) = some (v % 2 ^ n, l) := by
  have hlen := length_natBits n v
  have hval : bitsNat (natBits n v) = v % 2 ^ n := by rw [bitsNat, foldl_natBits, Nat.zero_mul, Nat.zero_add]
  rw [takeBits, if_neg (by rw [List.length_append, hlen]; omega), List.take_left' hlen, List.drop_left' hlen, hval]


/-! ## Quantised errors (R169) -/

/-- The quantised error of a difference, before it is reduced modulo RANGE (R169). -/
def CodePar.rounded (p : CodePar) (e : Int) : Int := if 0 ≤ e then (e + p.near) / p.step else -((p.near - e) / p.step)

/-- A quantised error reduced modulo RANGE to the values around 0 (R169). -/
def CodePar.centred (p : CodePar) (q : Int) : Int :=
  let q := if q < 0 then q + p.range else q
  if ((p.range : Int) + 1) / 2 ≤ q then q - p.range else q

theorem quantise_eq (p : CodePar) (x pr : Nat) : p.quantise x pr = p.centred (p.rounded (x - pr)) := rfl

theorem cast_step (p : CodePar) : (p.step : Int) = 2 * p.near + 1 := by
  unfold CodePar.step
  omega

theorem centred_cases (p : CodePar) (q : Int) : p.centred q = q ∨ p.centred q = q + p.range ∨ p.centred q = q - p.range := by
  unfold CodePar.centred
  dsimp only
  split_ifs <;> omega

theorem centred_bounds (p : CodePar) {q : Int} (hlow : -(p.range : Int) < q) (hhigh : q < p.range) :
    -(p.range : Int) ≤ 2 * p.centred q ∧ 2 * p.centred q < p.range := by
  unfold CodePar.centred
  dsimp only
  split_ifs <;> omega

/-- Rounding to the nearest multiple of the step errs by NEAR at most. -/
theorem rounded_near (p : CodePar) (e : Int) :
    -(p.near : Int) ≤ p.rounded e * p.step - e ∧ p.rounded e * p.step - e ≤ p.near := by
  have hstep := cast_step p
  have hpos : 0 < (p.step : Int) := by omega
  unfold CodePar.rounded
  split_ifs
  · have hdiv := Int.ediv_mul_add_emod (e + p.near) p.step
    have hmod := Int.emod_lt_of_pos (e + p.near) hpos
    have hnonneg := Int.emod_nonneg (e + p.near) hpos.ne'
    omega
  · have hdiv := Int.ediv_mul_add_emod (p.near - e) p.step
    have hmod := Int.emod_lt_of_pos (p.near - e) hpos
    have hnonneg := Int.emod_nonneg (p.near - e) hpos.ne'
    rw [Int.neg_mul]
    omega

theorem lt_range_mul_step (p : CodePar) : p.maxval + 2 * p.near < p.range * p.step :=
  lt_of_lt_of_eq (Nat.lt_mul_div_succ _ (Nat.succ_pos _)) (Nat.mul_comm _ _)

/-- A difference of two samples of the plane's range rounds to less than RANGE either way. -/
theorem rounded_lt_range (p : CodePar) {e : Int} (hlow : -(p.maxval : Int) ≤ e) (hhigh : e ≤ p.maxval) :
    -(p.range : Int) < p.rounded e ∧ p.rounded e < p.range := by
  have hnear := rounded_near p e
  have hstep := cast_step p
  have hpos : 0 < (p.step : Int) := by omega
  have hrange : (p.maxval + 2 * p.near : Int) < p.range * p.step := by exact_mod_cast lt_range_mul_step p
  constructor
  · refine lt_of_mul_lt_mul_right ?_ hpos.le
    rw [Int.neg_mul]
    omega
  · refine lt_of_mul_lt_mul_right ?_ hpos.le
    omega

/-- A value within NEAR of a sample is what reconstruction brings back from it or from it moved by RANGE steps. -/
theorem recon_near (p : CodePar) {x pr : Nat} {q y : Int} (hx : x ≤ p.maxval) (hlow : -(p.near : Int) ≤ y - x)
    (hhigh : y - x ≤ p.near)
    (hq : pr + q * p.step = y ∨ pr + q * p.step = y + p.range * p.step ∨ pr + q * p.step = y - p.range * p.step) :
    ((p.recon pr q : Int) - x).natAbs ≤ p.near ∧ p.recon pr q ≤ p.maxval := by
  have hrange : (p.maxval + 2 * p.near : Int) < p.range * p.step := by exact_mod_cast lt_range_mul_step p
  unfold CodePar.recon
  dsimp only
  rcases hq with h | h | h
  · rw [h, if_neg (by omega), if_neg (by omega)]
    omega
  · rw [h, if_neg (by omega), if_pos (by omega)]
    omega
  · rw [h, if_pos (by omega)]
    omega

/-- The error of a sample lies in the RANGE values around 0. -/
theorem quantise_bounds (p : CodePar) {x pr : Nat} (hx : x ≤ p.maxval) (hpr : pr ≤ p.maxval) :
    -(p.range : Int) ≤ 2 * p.quantise x pr ∧ 2 * p.quantise x pr < p.range := by
  obtain ⟨hlow, hhigh⟩ := rounded_lt_range p (e := x - pr) (by omega) (by omega)
  exact centred_bounds p hlow hhigh

theorem recon_quantise (p : CodePar) {x : Nat} (pr : Nat) (hx : x ≤ p.maxval) :
    ((p.recon pr (p.quantise x pr) : Int) - x).natAbs ≤ p.near ∧ p.recon pr (p.quantise x pr) ≤ p.maxval := by
  obtain ⟨hlow, hhigh⟩ := rounded_near p (x - pr)
  refine recon_near p (y := pr + p.rounded (x - pr) * p.step) hx (by omega) (by omega) ?_
  rw [quantise_eq]
  rcases centred_cases p (p.rounded (x - pr)) with h | h | h
  · exact .inl (by rw [h])
  · exact .inr (.inl (by rw [h]; ring))
  · exact .inr (.inr (by rw [h]; ring))

/-! ## Code words (R172) -/

theorem lt_two_pow_bitLen (n : Nat) : n < 2 ^ bitLen n := by
  unfold bitLen
  split_ifs with h
  · omega
  · exact Nat.lt_log2_self

theorem bitLen_le {n k : Nat} (h : n < 2 ^ k) : bitLen n ≤ k := by
  unfold bitLen
  split_ifs with h0
  · exact Nat.zero_le k
  · exact (Nat.log2_lt h0).2 h

theorem range_sub_one_le_maxval (p : CodePar) (h : 0 < p.maxval) : p.range - 1 ≤ p.maxval := by
  refine Nat.div_le_of_le_mul ?_
  unfold CodePar.step
  nlinarith

/-- The code words of planes of 16 bits and less leave room for a unary part. -/
theorem limit_pos (p : CodePar) (hpos : 0 < p.bits) (hbits : p.bits ≤ 16) : 0 < p.limit := by
  have hmax : p.maxval < 2 ^ p.bits := Nat.sub_one_lt (Nat.two_pow_pos _).ne'
  have h2 : 2 ^ 1 ≤ 2 ^ p.bits := Nat.pow_le_pow_right (by decide) hpos
  have hmaxpos : 0 < p.maxval := by
    unfold CodePar.maxval
    omega
  have hq : p.qbpp ≤ p.bits := bitLen_le (Nat.lt_of_le_of_lt (range_sub_one_le_maxval p hmaxpos) hmax)
  unfold CodePar.limit
  omega

/-- The number that stands for an error in its code word (R172). -/
def errorCode (q : Int) : Nat := if 0 ≤ q then 2 * q.toNat else 2 * q.natAbs - 1

/-- The error that such a number stands for. -/
def codeError (m : Nat) : Int := if m % 2 = 0 then ((m / 2 : Nat) : Int) else -(((m + 1) / 2 : Nat) : Int)

theorem codeError_errorCode (q : Int) : codeError (errorCode q) = q := by
  unfold codeError errorCode
  split_ifs <;> omega

theorem errorCode_lt {q : Int} {r : Nat} (hlow : -(r : Int) ≤ 2 * q) (hhigh : 2 * q < r) : errorCode q < r := by
  unfold errorCode
  split_ifs <;> omega

theorem takeWhile_unary (u : Nat) (l : List Bool) :
    (List.replicate u false ++ true :: l).takeWhile (! ·) = List.replicate u false := by
  rw [List.takeWhile_append_of_pos (by simp)]
  simp

/-- Reading after a unary part of `u` zeros and its one. -/
theorem readQ_unary (p : CodePar) (k u : Nat) (l : List Bool) (h : u ≤ p.limit) :
    p.readQ k (List.replicate u false ++ true :: l) =
      (if u < p.limit then (takeBits k l).map fun x => (u * 2 ^ k + x.1, x.2)
        else (takeBits p.qbpp l).map fun x => (x.1 + 1, x.2)).map fun x => (codeError x.1, x.2) := by
  have hdrop : (List.replicate u false ++ true :: l).drop (u + 1) = l := by
    rw [List.drop_append]
    simp
  unfold CodePar.readQ
  dsimp only
  rw [takeWhile_unary, List.length_replicate, hdrop, if_neg (by simp; omega)]
  rfl

theorem writeQ_eq (p : CodePar) (k : Nat) (q : Int) :
    p.writeQ k q =
      if errorCode q / 2 ^ k < p.limit then List.replicate (errorCode q / 2 ^ k) false ++ true :: natBits k (errorCode q)
      else List.replicate p.limit false ++ true :: natBits p.qbpp (errorCode q - 1) := rfl

/-- The code word of an error of the RANGE values around 0 reads back, and the bits behind it stay. -/
theorem readQ_writeQ (p : CodePar) (k : Nat) {q : Int} (rest : List Bool) (hlimit : 0 < p.limit) (hlow : -(p.range : Int) ≤ 2 * q)
    (hhigh : 2 * q < p.range) : p.readQ k (p.writeQ k q ++ rest) = some (q, rest) := by
  have hcode := errorCode_lt hlow hhigh
  have hwide : p.range - 1 < 2 ^ p.qbpp := lt_two_pow_bitLen _
  rw [writeQ_eq]
  split_ifs with hu
  · have hsplit : errorCode q / 2 ^ k * 2 ^ k + errorCode q % 2 ^ k = errorCode q := Nat.div_add_mod' _ _
    rw [List.append_assoc, List.cons_append, readQ_unary p k _ _ hu.le, if_pos hu, takeBits_natBits, Option.map_some,
      Option.map_some, hsplit, codeError_errorCode]
  · have hpos : 0 < errorCode q := by
      refine Nat.pos_of_ne_zero fun h0 => hu ?_
      rwa [h0, Nat.zero_div]
    have hsmall : (errorCode q - 1) % 2 ^ p.qbpp + 1 = errorCode q := by
      rw [Nat.mod_eq_of_lt (by omega)]
      omega
    rw [List.append_assoc, List.cons_append, readQ_unary p k _ _ le_rfl, if_neg (lt_irrefl _), takeBits_natBits, Option.map_some,
      Option.map_some, hsmall, codeError_errorCode]

/-- Settles O30: the rounding errs by NEAR at most and reconstruction undoes the reduction modulo RANGE (`recon_quantise`); the
reduced error fits its code word (`quantise_bounds`), which `readQ_writeQ` reads back. -/
theorem codecErrorsStayWithinNear : Obligations.CodecErrorsStayWithinNear := by
  intro p x pr k rest hbits _ hx hpr _
  obtain ⟨hnear, hmax⟩ := recon_quantise p pr hx
  obtain ⟨hlow, hhigh⟩ := quantise_bounds p hx hpr
  exact ⟨hnear, hmax, readQ_writeQ p k rest (limit_pos p (by omega) (by omega)) hlow hhigh⟩

end Sys2Proof.Machine
end

section
/-! The stripe queue's arrivals, the recording, and the modes and flushes of codec lanes (R154, R174, R183, R186, R188, R189). -/

open Sys2Proof Sys2Proof.Machine

namespace Sys2Proof.Machine

/-! ## Stripes that match no frame or repeat a region (R174) -/

section Arrival

variable {s : State} {h : StripeHead}

theorem frameOfSeq_of_notWaiting {seq : Word} (hwait : ∀ f, s.codec.waiting = some f → f.1.fseq ≠ seq) :
    s.frameOfSeq seq = ((s.halfOfSeq seq).bind s.half).map fun g => (g.hdr, g.taken) := by
  unfold State.frameOfSeq
  split
  next f first hf => rw [if_neg (by simpa using hwait _ hf)]
  next => rfl

theorem staleArrival_unmatched (hty : h.ty = 0) (hframe : s.frameOfSeq h.fseq = none) (hqueued : s.headerQueued h.fseq = false) :
    s.staleArrival h = true := by
  unfold State.staleArrival
  rw [hframe, hty, hqueued]
  rfl

theorem staleArrival_repeated {f : FrameHeader} {taken : List StripeRegion} (hty : h.ty = 0)
    (hframe : s.frameOfSeq h.fseq = some (f, taken)) (hlegal : h.illegal f = false)
    (hmeets : taken.any (fun r => r.meets h.region) = true) : s.staleArrival h = true := by
  unfold State.staleArrival
  rw [hframe, hty]
  dsimp only
  rw [hlegal, hmeets]
  simp

end Arrival

/-! ## Arrival -/

section Arrives

variable {s : State} {l : List Byte}

theorem stripeArrives_stale
    (hstale : s.bit F.CODEC_SRC_SEL = true ∨ (stripeHcrc l = true ∧ s.staleArrival (StripeHead.ofBytes l) = true)) :
    s.stripeArrives l = s.count F.CODEC_STRIPE_DROP_STALE := by
  unfold State.stripeArrives
  rcases hstale with hsel | ⟨hcrc, hold⟩
  · exact if_pos hsel
  · split
    next => rfl
    next => exact if_pos (by rw [hcrc, hold]; rfl)

variable (hsel : s.bit F.CODEC_SRC_SEL = false)
  (hkept : stripeHcrc l = false ∨ s.staleArrival (StripeHead.ofBytes l) = false)
include hsel hkept

theorem stripeArrives_kept :
    s.stripeArrives l =
      if !s.queueRoom l.length then s.count F.CODEC_STRIPE_DROP_FULL
      else (s.enqueueStripe ⟨l, false, false, none⟩).record l := by
  have hstale : (stripeHcrc l && s.staleArrival (StripeHead.ofBytes l)) = false := Bool.and_eq_false_iff.2 hkept
  unfold State.stripeArrives
  rw [if_neg (Bool.eq_false_iff.1 hsel), if_neg (Bool.eq_false_iff.1 hstale)]

theorem stripeArrives_full (hroom : s.queueRoom l.length = false) : s.stripeArrives l = s.count F.CODEC_STRIPE_DROP_FULL := by
  rw [stripeArrives_kept hsel hkept, if_pos (by rw [hroom]; rfl)]

theorem stripeArrives_queued (hroom : s.queueRoom l.length = true) :
    s.stripeArrives l = (s.enqueueStripe ⟨l, false, false, none⟩).record l := by
  rw [stripeArrives_kept hsel hkept, if_neg (by rw [hroom]; decide)]

end Arrives

/-! ## The recording (R189) -/

theorem record_off {s : State} (h : s.bit F.CODEC_REC_CTL_EN = false ∨ s.bit F.CODEC_REC_CTL_FULL = true) (l : List Byte) :
    s.record l = s := by
  unfold State.record
  refine if_pos ?_
  rcases h with h | h <;> simp [h]

/-- A recording that runs stops at the end of its buffer, else appends the stripe padded to 64 bytes. -/
theorem record_on {s : State} (hen : s.bit F.CODEC_REC_CTL_EN = true) (hfull : s.bit F.CODEC_REC_CTL_FULL = false) (l : List Byte) :
    s.record l =
      if s.get F.CODEC_REC_SIZE_SIZE_64K * 65536 < s.get F.CODEC_REC_PTR_OFFSET_64B * 64 + pad64 l.length then
        s.put F.CODEC_REC_CTL_FULL 1
      else (s.requestWrite .recorder (s.get F.CODEC_REC_BASE_BASE * 256 + s.get F.CODEC_REC_PTR_OFFSET_64B * 64)
        (l ++ List.replicate (pad64 l.length - l.length) 0)).put F.CODEC_REC_PTR_OFFSET_64B
          ((s.get F.CODEC_REC_PTR_OFFSET_64B * 64 + pad64 l.length) / 64) := by
  unfold State.record
  rw [if_neg (by rw [hen, hfull]; decide)]

/-! ## A change of the source (R188) -/

section Abandon

variable (s : State) (b : Bool)

theorem abandon_half : (s.abandon b).half b = (s.half b).filter (·.complete) := by
  unfold State.abandon
  split
  next hnone => rw [hnone]; rfl
  next f hf =>
    split
    next hdone => rw [hf, Option.filter_some_pos hdone]
    next hopen => rw [hf, Option.filter_some_neg (Bool.eq_false_iff.2 hopen)]; exact half_setHalf s b none

theorem abandon_half_not : (s.abandon b).half (!b) = s.half (!b) := by
  unfold State.abandon
  split
  next => rfl
  next =>
    split
    next => rfl
    next => exact half_setHalf_not s b none

theorem abandon_regs : (s.abandon b).regs = s.regs := by
  unfold State.abandon
  split
  next => rfl
  next => split <;> rfl

theorem abandon_lanes : (s.abandon b).codec.lanes = s.codec.lanes := by
  unfold State.abandon
  split
  next => rfl
  next => split <;> rfl

end Abandon

/-- Both halves of the store keep a complete frame alone. -/
theorem srcSelect_half (s : State) (sel b : Bool) : (s.srcSelect sel).half b = (s.half b).filter (·.complete) := by
  have hhalf : (s.srcSelect sel).half b = (((s.putB F.CODEC_SRC_SEL sel).abandon false).abandon true).half b := rfl
  rw [hhalf]
  cases b with
  | false => exact (abandon_half_not _ true).trans (abandon_half _ false)
  | true =>
    rw [abandon_half]
    exact congrArg (Option.filter (·.complete)) (abandon_half_not _ false)

theorem srcSelect_lane (s : State) (sel : Bool) (n : Fin 32) :
    (s.srcSelect sel).codec.lanes[n] = { s.codec.lanes[n] with stripe := none, earlier := [] } := by
  unfold State.srcSelect
  dsimp only
  rw [Fin.getElem_fin, Vector.getElem_map, abandon_lanes, abandon_lanes]
  rfl

theorem srcSelect_bit (s : State) (sel : Bool) : (s.srcSelect sel).bit F.CODEC_SRC_SEL = sel := by
  have hregs : (s.srcSelect sel).regs = (s.putB F.CODEC_SRC_SEL sel).regs := (abandon_regs _ true).trans (abandon_regs _ false)
  have hbit : (s.srcSelect sel).bit F.CODEC_SRC_SEL = (s.putB F.CODEC_SRC_SEL sel).bit F.CODEC_SRC_SEL := by
    unfold State.bit State.get State.reg
    rw [hregs]
  rw [hbit, bit_putB _ _ _ rfl (by decide)]

/-! ## Modes and flushes (R154, R183) -/

section Lane

variable {s : State} {n : Fin 32}

theorem inJob_iff : s.inJob n = true ↔
    ∃ j l, s.codec.lanes[n].jobs = j :: l ∧ (j.words ≠ [] ∨ j.ended = true ∨ j.blocked = true) := by
  unfold State.inJob
  cases s.codec.lanes[n].jobs with
  | nil => simp
  | cons j l => simp [CodecJob.begun, or_assoc]

theorem applyMode_idle (hstripe : s.codec.lanes[n].stripe = none) (hjob : s.inJob n = false) :
    s.applyMode n = s.onLane n fun l => { l with mode := BitVec.ofNat 2 (s.get (F.CODEC_LANE_CFG_MODE n)) } := by
  unfold State.applyMode
  rw [hstripe, hjob]
  rfl

theorem applyMode_busy (h : s.codec.lanes[n].stripe ≠ none ∨ s.inJob n = true) : s.applyMode n = s := by
  have hbusy : (s.codec.lanes[n].stripe.isNone && !s.inJob n) = false := by
    rcases h with hstripe | hjob
    · rw [Option.isNone_eq_false_iff.2 (Option.isSome_iff_ne_none.2 hstripe), Bool.false_and]
    · rw [hjob, Bool.not_true, Bool.and_false]
  unfold State.applyMode
  rw [hbusy, State.when_false]

theorem flush_jobLane (hmode : s.codec.lanes[n].mode = 2) :
    s.flush n = (s.put (F.CODEC_LANE_CFG_FLUSH n) 1).onLane n fun l => { l with fromNext := !s.inLine n } := by
  unfold State.flush
  rw [hmode]
  rfl

theorem flush_elsewhere (hmode : s.codec.lanes[n].mode ≠ 2) : s.flush n = s := by
  unfold State.flush
  rw [beq_false_of_ne hmode, State.when_false]

theorem inLine_nil (hjobs : s.codec.lanes[n].jobs = []) : s.inLine n = false := by
  unfold State.inLine State.frontJob
  rw [hjobs]
  rfl

theorem inLine_cons {j : CodecJob} {l : List CodecJob} (hjobs : s.codec.lanes[n].jobs = j :: l) :
    s.inLine n = ((s.jobDesc j).kind == 0 && !j.ended) := by
  unfold State.inLine State.frontJob
  rw [hjobs]
  rfl

end Lane

/-! ## Commands -/

section Commands

variable {s t : State} (hup : s.up = true)
include hup

theorem exec_stripeArrival {l : List Byte} (ht : s.stripeArrives l = t) : exec (.stripeArrival l) s = .next t :=
  exec_ifUp (f := fun u => u.stripeArrives l) hup rfl ht

theorem exec_laneModeApply {n : Fin 32} (ht : s.applyMode n = t) : exec (.laneModeApply n) s = .next t :=
  exec_ifUp (f := fun u => u.applyMode n) hup rfl ht

theorem exec_flush {n : Fin 32} (ht : s.flush n = t) : exec (.flush n) s = .next t :=
  exec_ifUp (f := fun u => u.flush n) hup rfl ht

end Commands

/-! ## The obligation -/

/-- Settles O31: an arrival by `stripeArrives_stale`, `stripeArrives_full` and the recording of a queued stripe, a source change
by what `abandon` leaves of the halves, a lane by `inJob_iff` and `inLine`. -/
theorem stripeQueueAndLanes : Obligations.StripeQueueAndLanes := by
  refine ⟨?arrival, ?unmatched, ?repeated, ?source, ?clears, ?lanes⟩
  case arrival =>
    refine fun s bytes hup => ⟨fun hstale => exec_stripeArrival hup (stripeArrives_stale hstale), fun hsel hkept =>
      ⟨fun hroom => exec_stripeArrival hup (stripeArrives_full hsel hkept hroom), ?_⟩⟩
    rintro u off rfl rfl hroom
    have harrives := stripeArrives_queued hsel hkept hroom
    have hoffRec := record_off (s := s.enqueueStripe ⟨bytes, false, false, none⟩) (l := bytes)
    have honRec := record_on (s := s.enqueueStripe ⟨bytes, false, false, none⟩) (l := bytes)
    refine ⟨fun hoff => exec_stripeArrival hup (harrives.trans (hoffRec hoff)), fun hen hfull =>
      ⟨fun hend => exec_stripeArrival hup (harrives.trans ((honRec hen hfull).trans (if_pos hend))), fun hfits =>
        exec_stripeArrival hup (harrives.trans ((honRec hen hfull).trans (if_neg (Nat.not_lt.2 hfits))))⟩⟩
  case unmatched =>
    intro s h hty hwait hhalf hqueued
    exact staleArrival_unmatched hty (by rw [frameOfSeq_of_notWaiting hwait, hhalf]; rfl) hqueued
  case repeated =>
    intro s h b f hty hwait hhalf hf hlegal hmeets
    refine staleArrival_repeated hty ?_ hlegal hmeets
    rw [frameOfSeq_of_notWaiting (by rw [hwait]; exact nofun), hhalf, Option.bind_some, hf]
    rfl
  case source =>
    refine fun s sel hup => answers_ifUp (f := fun u => u.srcSelect sel) hup rfl
      ⟨srcSelect_bit s sel, rfl, rfl, rfl, fun n => ?_, fun b f hf => ?_⟩
    · rw [srcSelect_lane]
      exact ⟨rfl, rfl, rfl⟩
    · rw [srcSelect_half, hf, Option.filter_some]
  case clears =>
    exact fun s hup => ⟨exec_ifUp (f := State.stripeClr) hup rfl rfl, exec_ifUp (f := State.rejectClr) hup rfl rfl,
      exec_ifUp (f := State.recEnable) hup rfl rfl⟩
  case lanes =>
    refine fun s n hup => ⟨fun hstripe hidle => exec_laneModeApply hup (applyMode_idle hstripe ?_), fun hbusy =>
      exec_laneModeApply hup (applyMode_busy (hbusy.imp_right inJob_iff.2)), fun hmode =>
        ⟨!s.inLine n, exec_flush hup (flush_jobLane hmode), fun hjobs => ?_, fun j l hjobs => ?_⟩, fun hmode =>
      exec_flush hup (flush_elsewhere hmode)⟩
    · rw [Bool.eq_false_iff, Ne, inJob_iff]
      rintro ⟨j, l, hjobs, hbegun⟩
      obtain ⟨hwords, hended, hblocked⟩ := hidle j l hjobs
      simp [hwords, hended, hblocked] at hbegun
    · rw [inLine_nil hjobs]
      rfl
    · rw [inLine_cons hjobs]

end Sys2Proof.Machine
end

section
/-! What the accesses of a codec lane leave as it was: the codec with its registers, and the lane's front job (R180–R185). -/

open Sys2Proof Sys2Proof.Machine

namespace Sys2Proof.Machine

/-- A relation that each update of a fold obeys, and their succession, holds of the fold. -/
theorem foldl_rel {σ α : Type} {R : σ → σ → Prop} (refl : ∀ s, R s s)
    (trans : ∀ {s t u}, R s t → R t u → R s u) {f : σ → α → σ} (h : ∀ u x, R u (f u x)) (l : List α) (s : σ) :
    R s (l.foldl f s) := by
  induction l generalizing s with
  | nil => exact refl s
  | cons x l ih => exact trans (h s x) (ih (f s x))

/-! ## Accesses keep the codec -/

/-- The codec and the registers of its block are as they were. -/
structure CodecKept (s t : State) : Prop where
  codec : t.codec = s.codec
  reg : ∀ a, a / 0x10000 = 5 → t.reg a = s.reg a

namespace CodecKept

variable {s t u : State}

theorem refl (s : State) : CodecKept s s := ⟨rfl, fun _ _ => rfl⟩

theorem trans (h : CodecKept s t) (k : CodecKept t u) : CodecKept s u :=
  ⟨k.codec.trans h.codec, fun a ha => (k.reg a ha).trans (h.reg a ha)⟩

theorem foldl {α : Type} {f : State → α → State} (h : ∀ u x, CodecKept u (f u x)) (l : List α) (s : State) :
    CodecKept s (l.foldl f s) := foldl_rel refl trans h l s

theorem put (s : State) {f : Field} (v : Nat) (h : f.addr / 0x10000 ≠ 5) : CodecKept s (s.put f v) :=
  ⟨rfl, fun a ha => reg_put_other s f v a fun e => h (e ▸ ha)⟩

theorem raise (s : State) {n : Nat} (h : n < 1024) : CodecKept s (s.raise n) :=
  ⟨raise_codec h, fun _ ha => raise_reg_high h (by omega)⟩

theorem raiseIf (s : State) (c : Bool) {n : Nat} (h : n < 1024) : CodecKept s (s.raiseIf c n) := by
  unfold State.raiseIf
  split
  · exact raise s h
  · exact refl s

theorem store (s : State) (a : Nat) (bs : List Byte) : CodecKept s (s.store a bs) := by
  rw [store_eq]
  exact ⟨rfl, fun _ _ => rfl⟩

theorem storeWord (s : State) (a : Nat) (w : Word) : CodecKept s (s.storeWord a w) := store s a _

theorem eccReport (s : State) (h : EccHit) : CodecKept s (s.eccReport h) := by
  unfold State.eccReport
  split
  · split
    · exact (put s _ (by decide)).trans (raise _ (by decide))
    · exact ((put s _ (by decide)).trans (put _ _ (by decide))).trans (raise _ (by decide))
  · split
    · exact (put s _ (by decide)).trans (raise _ (by decide))
    · exact (put s _ (by decide)).trans (raise _ (by decide))

theorem eccReports (s : State) (ecc : List EccHit) : CodecKept s (s.eccReports ecc) := foldl eccReport ecc s

theorem readHits (s : State) (a n : Nat) (ecc : List EccHit) : CodecKept s (s.readHits a n ecc) := by
  have hreports := eccReports s (s.eccIn a n ecc)
  unfold State.readHits
  dsimp only
  split
  · exact hreports.trans ⟨rfl, fun _ _ => rfl⟩
  · exact hreports

theorem abortEntry (s : State) : CodecKept s s.abortEntry := by
  have hraise := raise { s with dram := { s.dram with entering := false } } (n := srcDram 9) (by decide)
  unfold State.abortEntry State.when
  split
  · exact ⟨hraise.codec, hraise.reg⟩
  · exact refl s

theorem touch (s : State) (a n : Nat) : CodecKept s (s.touch a n) :=
  (abortEntry s).trans
    (foldl (f := fun t i => t.touchBurst (64 * ((a - dramBase) / 64 + i))) (fun _ _ => ⟨rfl, fun _ _ => rfl⟩) _ _)

theorem dramRead (s : State) (a n : Nat) (ecc : List EccHit) : CodecKept s (s.dramRead a n ecc).2 :=
  ((touch s a n).trans (raiseIf _ _ (by decide))).trans (readHits _ a n ecc)

theorem readAny (s : State) (a n : Nat) (ecc : List EccHit) : CodecKept s (s.readAny a n ecc).2 := by
  unfold State.readAny
  split
  · exact dramRead s a n ecc
  · exact readHits s a n ecc

theorem readRanges (s : State) (l : List (Nat × Nat)) (ecc : List EccHit) : CodecKept s (s.readRanges l ecc) :=
  foldl (f := fun t (r : Nat × Nat) => (t.readAny r.1 r.2 ecc).2) (fun u r => readAny u r.1 r.2 ecc) l s

theorem dramPut (s : State) (a : Nat) (bs : List Byte) : CodecKept s (s.dramPut a bs) := by
  induction bs generalizing s a with
  | nil => exact refl s
  | cons b bs ih =>
    refine CodecKept.trans ?_ (ih _ (a + 1))
    split
    · exact ⟨rfl, fun _ _ => rfl⟩
    · exact refl s

theorem dramWrite (s : State) (a : Nat) (bs : List Byte) (ecc : List EccHit) : CodecKept s (s.dramWrite a bs ecc) :=
  (((dramPut s a bs).trans (touch _ a _)).trans (raiseIf _ _ (by decide))).trans (eccReports _ _)

theorem writeAny (s : State) (a : Nat) (bs : List Byte) (ecc : List EccHit) : CodecKept s (s.writeAny a bs ecc) := by
  unfold State.writeAny
  split
  · exact dramWrite s a bs ecc
  · exact store s a bs

end CodecKept

/-! ## The front job of a lane -/

theorem frontJob_onJob (s : State) (n : Fin 32) (f : CodecJob → CodecJob) :
    (s.onJob n f).frontJob n = (s.frontJob n).map f := by
  unfold State.frontJob State.onJob
  rw [lane_onLane]
  cases s.codec.lanes[n].jobs <;> rfl

/-- The front job stays, but for its output, its cause and its end, and the lane's FLUSH too. -/
structure JobKept (n : Fin 32) (s t : State) : Prop where
  flush : t.bit (F.CODEC_LANE_CFG_FLUSH n) = s.bit (F.CODEC_LANE_CFG_FLUSH n)
  job : ∀ j, s.frontJob n = some j →
    ∃ k, t.frontJob n = some k ∧ k.desc = j.desc ∧ k.ticket = j.ticket ∧ k.line = j.line

theorem CodecKept.flush {s t : State} (h : CodecKept s t) (n : Fin 32) :
    t.bit (F.CODEC_LANE_CFG_FLUSH n) = s.bit (F.CODEC_LANE_CFG_FLUSH n) := by
  unfold State.bit State.get
  rw [h.reg _ (by dsimp only; omega)]

theorem CodecKept.frontJob {s t : State} (h : CodecKept s t) (n : Fin 32) : t.frontJob n = s.frontJob n := by
  unfold State.frontJob
  rw [h.codec]

theorem CodecKept.jobKept {s t : State} (h : CodecKept s t) (n : Fin 32) : JobKept n s t :=
  ⟨h.flush n, fun j hj => ⟨j, (h.frontJob n).trans hj, rfl, rfl, rfl⟩⟩

namespace JobKept

variable {n : Fin 32} {s t u : State}

theorem refl (s : State) : JobKept n s s := ⟨rfl, fun j hj => ⟨j, hj, rfl, rfl, rfl⟩⟩

theorem trans (h : JobKept n s t) (k : JobKept n t u) : JobKept n s u := by
  refine ⟨k.flush.trans h.flush, fun j hj => ?_⟩
  obtain ⟨i, hi, hdesc, hticket, hline⟩ := h.job j hj
  obtain ⟨m, hm, hdesc', hticket', hline'⟩ := k.job i hi
  exact ⟨m, hm, hdesc'.trans hdesc, hticket'.trans hticket, hline'.trans hline⟩

theorem foldl {α : Type} {f : State → α → State} (h : ∀ u x, JobKept n u (f u x)) (l : List α) (s : State) :
    JobKept n s (l.foldl f s) := foldl_rel refl trans h l s

/-- What changes neither the lanes nor the registers. -/
theorem of_lanes (hlanes : t.codec.lanes = s.codec.lanes) (hregs : t.regs = s.regs) : JobKept n s t := by
  refine ⟨?_, fun j hj => ⟨j, ?_, rfl, rfl, rfl⟩⟩
  · unfold State.bit State.get State.reg
    rw [hregs]
  · unfold State.frontJob at hj ⊢
    rwa [hlanes]

theorem onJob (s : State) {f : CodecJob → CodecJob}
    (h : ∀ j, (f j).desc = j.desc ∧ (f j).ticket = j.ticket ∧ (f j).line = j.line) : JobKept n s (s.onJob n f) :=
  ⟨rfl, fun j hj => ⟨f j, by rw [frontJob_onJob, hj]; rfl, h j⟩⟩

theorem latchJob (s : State) : JobKept n s (s.latchJob n) := onJob s fun _ => ⟨rfl, rfl, rfl⟩

theorem jobLimit (s : State) (d : JobDesc) : JobKept n s (s.jobLimit n d) := by
  unfold State.jobLimit
  split
  · exact onJob s fun _ => ⟨rfl, rfl, rfl⟩
  · refine (onJob s ?_).trans ((CodecKept.raise _ (srcLane_lt n (by decide))).jobKept n)
    exact fun _ => ⟨rfl, rfl, rfl⟩

theorem putStripe (s : State) (d : JobDesc) (out : Nat) (l : List Byte) (ecc : List EccHit) :
    JobKept n s (s.putStripe n d out l ecc) := by
  unfold State.putStripe
  split
  · split
    · exact of_lanes rfl rfl
    · exact refl s
  · split
    · exact jobLimit s d
    · refine ((CodecKept.writeAny s _ l ecc).jobKept n).trans (onJob _ ?_)
      exact fun _ => ⟨rfl, rfl, rfl⟩

theorem writeRecon (s : State) (h : FrameHeader) (set : Nat) (sh : StripeHead) (imgs : List (Nat × Nat × Nat × List Nat))
    (out : List (List (Array Nat))) : JobKept n s (s.writeRecon h set sh imgs out) := by
  have hwrite (u : State) (a : Nat) (bs : List Byte) : JobKept n u (u.writeAny a bs) := (CodecKept.writeAny u a bs []).jobKept n
  unfold State.writeRecon
  dsimp only
  refine JobKept.trans (JobKept.trans ?_ (foldl (fun u _ => hwrite u _ _) _ _))
    (foldl (fun u _ => foldl (fun v _ => foldl (fun w _ => hwrite w _ _) _ v) _ u) _ _)
  split
  · exact of_lanes rfl rfl
  · exact refl s

/-- The source samples are read, the reconstruction is written, and the samples are counted. -/
theorem samplesCoded (s : State) (ranges : List (Nat × Nat)) (ecc : List EccHit) (free : Nat) (h : FrameHeader) (set : Nat)
    (sh : StripeHead) (imgs : List (Nat × Nat × Nat × List Nat)) (out : List (List (Array Nat))) (k : Nat) :
    JobKept n s (({ s.readRanges ranges ecc with free := free }.writeRecon h set sh imgs out).countSamples n k) := by
  have hread := (CodecKept.readRanges s ranges ecc).jobKept n
  generalize s.readRanges ranges ecc = u at hread ⊢
  have hfree : JobKept n u { u with free := free } := of_lanes rfl rfl
  have hwrite := writeRecon (n := n) { u with free := free } h set sh imgs out
  generalize State.writeRecon { u with free := free } h set sh imgs out = v at hwrite ⊢
  exact ((hread.trans hfree).trans hwrite).trans (of_lanes rfl rfl)

theorem encodeStripe (s : State) (d : JobDesc) (first lines out : Nat) (flushed : Bool) (ecc : List EccHit) :
    JobKept n s (s.encodeStripe n d first lines out flushed ecc) := by
  unfold State.encodeStripe
  extract_lets c h sh
  split
  · exact (((CodecKept.readAny s _ _ ecc).jobKept n).trans (putStripe _ d out _ ecc)).trans (of_lanes rfl rfl)
  · split
    next recon bits _ =>
      extract_lets payload t
      have hrecon : JobKept n s t := samplesCoded s _ ecc _ h c.recon sh _ recon _
      split
      · exact hrecon
      · exact hrecon.trans (putStripe _ d out _ ecc)

end JobKept

end Sys2Proof.Machine
end

section
/-! Codec jobs: a stripe coded, whole or cut short, a header copied, a clip played, and the end of a job (R180–R185, R187). -/

open Sys2Proof Sys2Proof.Machine

namespace Sys2Proof.Machine

/-! ## What a lane reads does not depend on the codec's state -/

/-- The states differ in the codec and in the configuration of lane `n` alone. -/
structure LaneApart (n : Fin 32) (s t : State) : Prop where
  frame : t = { s with regs := t.regs, codec := t.codec }
  reg : ∀ a, a ≠ F.CODEC_LANE_CFG_addr n → t.reg a = s.reg a

theorem laneApart_latchJob (s : State) (n : Fin 32) : LaneApart n s (s.latchJob n) := ⟨rfl, fun _ _ => rfl⟩

namespace LaneApart

variable {n : Fin 32} {s t : State} (h : LaneApart n s t)

theorem refl (s : State) : LaneApart n s s := ⟨rfl, fun _ _ => rfl⟩

include h

theorem trans {u : State} (k : LaneApart n t u) : LaneApart n s u := by
  refine ⟨?_, fun a ha => (k.reg a ha).trans (h.reg a ha)⟩
  have hk := k.frame
  rw [h.frame] at hk
  exact hk

theorem mem : t.mem = s.mem := (congrArg State.mem h.frame :)

theorem get {f : Field} (hf : f.addr < 0x50000 ∨ 0x50080 ≤ f.addr) : t.get f = s.get f :=
  congrArg f.of (h.reg _ (by
    have := n.isLt
    simp only [F.CODEC_LANE_CFG_addr]
    omega))

theorem bit {f : Field} (hf : f.addr < 0x50000 ∨ 0x50080 ≤ f.addr) : t.bit f = s.bit f := congrArg (· != 0) (h.get hf)

theorem word (a : Nat) : t.word a = s.word a := congrArg (·.readWord a) h.mem

theorem jobDesc (j : CodecJob) : t.jobDesc j = s.jobDesc j := by
  unfold State.jobDesc State.descWords
  simp only [h.word]

theorem encodeCtx (a : Nat) : t.encodeCtx a = s.encodeCtx a := by
  unfold State.encodeCtx
  simp only [h.word]

theorem headerBytes (a : Nat) : t.headerBytes a = s.headerBytes a := by
  unfold State.headerBytes
  rw [h.word, h.mem]

theorem memRange (a k : Nat) : t.memRange a k = s.memRange a k := by
  unfold State.memRange State.dramSize
  rw [h.get (by decide)]

theorem txEntry (stream : Nat) : t.txEntry stream = s.txEntry stream := by
  unfold State.txEntry
  congr 1
  funext k
  have hk := k.isLt
  rw [h.bit (by dsimp only; omega), h.get (by dsimp only; omega)]

theorem badDest (d : JobDesc) : t.badDest d = s.badDest d := by
  unfold State.badDest
  rw [h.txEntry]

theorem badRange (d : JobDesc) : t.badRange d = s.badRange d := by
  unfold State.badRange
  rw [h.memRange]

theorem encodeCause (d : JobDesc) : t.encodeCause d = s.encodeCause d := by
  unfold State.encodeCause
  simp only [h.encodeCtx, h.headerBytes, h.badDest, h.badRange, h.memRange]

theorem inCodeArea (off : Nat) : t.inCodeArea off = s.inCodeArea off := by
  unfold State.inCodeArea
  refine congrArg (List.any (List.range 8)) (funext fun r => ?_)
  rw [h.get (.inr (by dsimp only; omega)), h.get (.inr (by dsimp only; omega)), h.bit (.inr (by dsimp only; omega))]

theorem byteAny (a : Nat) : t.byteAny a = s.byteAny a := by
  unfold State.byteAny State.dramByte State.dramData State.dramSize
  rw [h.mem, h.get (by decide), h.inCodeArea]

theorem chanServes (ch : Fin 8) : t.chanServes ch = s.chanServes ch := by
  have hsteps : t.stepHolds ch = s.stepHolds ch := (congrArg (State.stepHolds · ch) h.frame :)
  have hmode : t.mode = s.mode := (congrArg State.mode h.frame :)
  have hdram : t.dram = s.dram := (congrArg State.dram h.frame :)
  unfold State.chanServes State.dramAwake State.dramServes State.dramClock
  rw [hsteps, hmode, hdram, h.bit (f := F.DRAMC_CTL_EN) (by decide), h.bit (f := F.DRAMC_CTL_READY) (by decide),
    h.bit (f := F.PLL_CTL_LOCK 2) (by decide), h.bit (f := F.PLL_CTL_LOCK 3) (by decide)]

theorem dramWaits (hclip : t.playsClip n = s.playsClip n) (l : List Nat) : t.dramWaits n l = s.dramWaits n l := by
  have hmode : t.mode = s.mode := (congrArg State.mode h.frame :)
  have hdram : t.dram = s.dram := (congrArg State.dram h.frame :)
  have hclass : t.srcClass (.lane n) = s.srcClass (.lane n) := congrArg (fun b : Bool => if b then 0 else 1) hclip
  unfold State.dramWaits State.dramGrants
  simp only [h.chanServes, hmode, hdram, hclass]

end LaneApart

/-! ## The front job runs -/

section Running

variable {s : State} {n : Fin 32} {kind : Nat} {j : CodecJob}

theorem frontJob_of_running (h : s.runningJob n kind = some j) : s.frontJob n = some j := by
  unfold State.runningJob at h
  split at h
  next i hi => exact hi.trans (Option.ite_none_right_eq_some.1 h).2
  next => cases h

theorem playsClip_of_front (h : s.frontJob n = some j) :
    s.playsClip n = ((if j.words.isEmpty then s.word j.desc else j.words.getD 0 0).toNat % 4 == 2) := by
  unfold State.frontJob at h
  unfold State.playsClip
  rw [h]

theorem frontJob_latchJob (h : s.frontJob n = some j) :
    (s.latchJob n).frontJob n = some { j with words := if j.words.isEmpty then s.descWords j.desc else j.words } := by
  rw [State.latchJob, frontJob_onJob, h]
  rfl

/-- A latched descriptor is the one that memory held. -/
theorem playsClip_latchJob (h : s.frontJob n = some j) : (s.latchJob n).playsClip n = s.playsClip n := by
  rw [playsClip_of_front (frontJob_latchJob h), playsClip_of_front h]
  cases hwords : j.words with
  | nil => rfl
  | cons w ws => rfl

end Running

/-! ## A stripe of an encode plane job -/

/-- The lines of a job's next stripe where nothing cuts it short (R181). -/
def CodecJob.stripeLines (j : CodecJob) (d : JobDesc) : Nat := if d.plane = 5 then 1 else min d.stripe (d.lines - j.line)

/-- The lane's access to a job's source, reconstruction sets and destination waits for the DRAM. -/
def State.encodeWaits (s : State) (n : Fin 32) (d : JobDesc) : Bool :=
  s.dramWaits n [d.src, (s.encodeCtx d.ctx).recon, (s.encodeCtx d.ctx).prev, if d.toLink then 0 else d.dst]

/-- A job that has coded some lines more ends with its last one (R181). -/
def CodecJob.onward (d : JobDesc) (lines : Nat) (j : CodecJob) : CodecJob :=
  { j with line := j.line + lines, ended := j.ended || decide (d.lines ≤ j.line + lines) }

theorem LaneApart.encodeWaits {n : Fin 32} {s t : State} (h : LaneApart n s t) (hclip : t.playsClip n = s.playsClip n)
    (d : JobDesc) : t.encodeWaits n d = s.encodeWaits n d := by
  unfold State.encodeWaits
  rw [h.encodeCtx, h.dramWaits hclip]

/-- Job `j` of lane `n` has coded some lines more, no FLUSH waits, and with its last line it has ended. -/
def StripeCoded (n : Fin 32) (j : CodecJob) (d : JobDesc) (lines : Nat) (t : State) : Prop :=
  t.bit (F.CODEC_LANE_CFG_FLUSH n) = false ∧ ∃ k, t.frontJob n = some k ∧ k.desc = j.desc ∧
    k.ticket = j.ticket ∧ k.line = j.line + lines ∧ (d.lines ≤ k.line → k.ended = true)

section EncodeStep

variable {s : State} {n : Fin 32} {j : CodecJob}

theorem encodeStep_fails {cut : Option Nat} {ecc : List EccHit} (h : s.encodeCause (s.jobDesc j) ≠ 0) :
    s.encodeStep n j cut ecc = (s.latchJob n).jobFails n (s.encodeCause (s.jobDesc j)) := by
  have hcause := (laneApart_latchJob s n).encodeCause (s.jobDesc j)
  unfold State.encodeStep
  dsimp only
  rw [hcause, if_pos h]

variable (hfront : s.frontJob n = some j) (hcause : s.encodeCause (s.jobDesc j) = 0)
  (hwaits : s.encodeWaits n (s.jobDesc j) = false) {cut : Option Nat} {lines : Nat}
  (hlines : cut.elim (j.stripeLines (s.jobDesc j)) (min · (j.stripeLines (s.jobDesc j))) = lines)
include hfront hcause hwaits hlines

theorem encodeStep_codes (ecc : List EccHit) :
    s.encodeStep n j cut ecc =
      ((s.latchJob n).encodeStripe n (s.jobDesc j) ((s.jobDesc j).line + j.line) lines j.out cut.isSome ecc).onJob n
        (CodecJob.onward (s.jobDesc j) lines) := by
  have hlatch := laneApart_latchJob s n
  have hcause' : (s.latchJob n).encodeCause (s.jobDesc j) = 0 := (hlatch.encodeCause _).trans hcause
  have hwaits' : (s.latchJob n).encodeWaits n (s.jobDesc j) = false :=
    (hlatch.encodeWaits (playsClip_latchJob hfront) _).trans hwaits
  unfold State.encodeWaits at hwaits'
  unfold State.encodeStep
  dsimp only
  rw [if_neg (not_not.2 hcause'), if_neg (Bool.eq_false_iff.1 hwaits')]
  subst hlines
  cases cut <;> rfl

theorem encodeStep_stripeCoded (hflush : s.bit (F.CODEC_LANE_CFG_FLUSH n) = false) (ecc : List EccHit) :
    StripeCoded n j (s.jobDesc j) lines (s.encodeStep n j cut ecc) := by
  rw [encodeStep_codes hfront hcause hwaits hlines]
  have hkept := (JobKept.latchJob (n := n) s).trans
    (JobKept.encodeStripe _ (s.jobDesc j) ((s.jobDesc j).line + j.line) lines j.out cut.isSome ecc)
  obtain ⟨k, hk, hdesc, hticket, hline⟩ := hkept.job j hfront
  refine ⟨hkept.flush.trans hflush, k.onward (s.jobDesc j) lines, ?_, hdesc, hticket, congrArg (· + lines) hline,
    fun hend => ?_⟩
  · rw [frontJob_onJob, hk]
    rfl
  · exact Bool.or_eq_true_iff.2 (.inr (decide_eq_true hend))

end EncodeStep

/-! ## Encode plane, resume and flush (R181, R183, R184) -/

section EncodePlane

variable {s : State} {n : Fin 32} {j : CodecJob} {ecc : List EccHit}

theorem encodePlane_blocked (hj : s.runningJob n 0 = some j) :
    s.encodePlane n true ecc = (s.latchJob n).onJob n fun j => { j with blocked := true } := by
  unfold State.encodePlane
  rw [hj]
  rfl

theorem encodePlane_runs (hj : s.runningJob n 0 = some j) (hflush : s.bit (F.CODEC_LANE_CFG_FLUSH n) = false) :
    s.encodePlane n false ecc = s.encodeStep n j none ecc := by
  unfold State.encodePlane
  rw [hj]
  dsimp only
  rw [if_neg Bool.false_ne_true, if_neg (Bool.eq_false_iff.1 hflush)]

theorem resumeEncoder_runs {i : CodecJob} (hi : s.frontJob n = some i) (hblocked : i.blocked = true) :
    s.resumeEncoder n ecc = (s.onJob n fun j => { j with blocked := false }).encodePlane n false ecc := by
  unfold State.resumeEncoder
  rw [hi]
  exact if_pos hblocked

/-- The FLUSH of lane `n` is taken up. -/
def State.flushTaken (s : State) (n : Fin 32) : State :=
  (s.put (F.CODEC_LANE_CFG_FLUSH n) 0).onLane n fun l => { l with fromNext := false }

theorem laneApart_flushTaken (s : State) (n : Fin 32) : LaneApart n s (s.flushTaken n) :=
  ⟨rfl, fun a ha => reg_put_other s (F.CODEC_LANE_CFG_FLUSH n) 0 a ha⟩

theorem frontJob_flushTaken (s : State) (n : Fin 32) : (s.flushTaken n).frontJob n = s.frontJob n := by
  unfold State.frontJob State.flushTaken
  rw [lane_onLane]
  rfl

theorem flush_flushTaken (s : State) (n : Fin 32) : (s.flushTaken n).bit (F.CODEC_LANE_CFG_FLUSH n) = false :=
  bit_put s (F.CODEC_LANE_CFG_FLUSH n) 0 (show 3 + 1 ≤ 32 by decide)

theorem playsClip_flushTaken (hfront : s.frontJob n = some j) : (s.flushTaken n).playsClip n = s.playsClip n := by
  rw [playsClip_of_front ((frontJob_flushTaken s n).trans hfront), playsClip_of_front hfront, (laneApart_flushTaken s n).word]

theorem flushApply_runs {lines : Nat} (hj : s.runningJob n 0 = some j) (hflush : s.bit (F.CODEC_LANE_CFG_FLUSH n) = true)
    (hcut : s.mayCut n j lines = true) : s.flushApply n lines ecc = (s.flushTaken n).encodeStep n j (some lines) ecc := by
  unfold State.flushApply
  rw [hj]
  dsimp only
  rw [hflush, hcut]
  rfl

theorem le_stripeLines_of_mayCut {lines : Nat} (hcut : s.mayCut n j lines = true) : lines ≤ j.stripeLines (s.jobDesc j) := by
  unfold State.mayCut at hcut
  simp only [Bool.and_eq_true, decide_eq_true_eq] at hcut
  obtain ⟨⟨-, -, -, hle⟩, -⟩ := hcut
  exact hle

end EncodePlane

/-! ## Output -/

section Output

variable {s : State} {n : Fin 32} {d : JobDesc} {out : Nat} {l : List Byte} {ecc : List EccHit}

theorem putStripe_memory (hlink : d.toLink = false) (hfits : out + l.length ≤ d.len) :
    s.putStripe n d out l ecc = (s.writeAny (d.dst + out) l ecc).onJob n fun j => { j with out := j.out + l.length } := by
  unfold State.putStripe
  rw [if_neg (Bool.eq_false_iff.1 hlink), if_neg (Nat.not_lt.2 hfits)]

theorem putStripe_link {e : Fin 64} (hlink : d.toLink = true) (he : s.txEntry d.dst = some e) :
    s.putStripe n d out l ecc = { s with link := { s.link with tx := s.link.tx ++ [(e.val, l, false)] } } := by
  unfold State.putStripe
  rw [if_pos hlink, he]

end Output

/-! ## Headers (R181) -/

/-- The stripe that carries a header's bytes as they are. -/
def JobDesc.headerStripe (d : JobDesc) (l : List Byte) : List Byte :=
  stripeBytes 1 0 0 0 0 1 (bytesWord l 4) false d.noT d.noI (8 * l.length) l (crc32c l)

section EncodeHeader

variable {s : State} {n : Fin 32} {j : CodecJob} {ecc : List EccHit} (hj : s.runningJob n 1 = some j)
include hj

theorem encodeHeader_illegal (h : (s.jobDesc j).extra = true ∨ s.badDest (s.jobDesc j) = true) :
    s.encodeHeader n ecc = (s.latchJob n).jobFails n 1 := by
  rw [← (laneApart_latchJob s n).badDest] at h
  unfold State.encodeHeader
  rw [hj]
  exact if_pos h

theorem encodeHeader_copies {d : JobDesc} {k : Nat} {l : List Byte} {v : State} (hd : d = s.jobDesc j) (hextra : d.extra = false)
    (hdest : s.badDest d = false) (hsrc : s.memRange d.src 12 = true) (hrange : s.badRange d = false)
    (hwaits : (s.latchJob n).dramWaits n [d.src, if d.toLink then 0 else d.dst] = false)
    (hk : k = 36 + 8 * ((s.byteAny (d.src + 8)).toNat % 16 + 1)) (hmem : s.memRange d.src k = true)
    (hread : (s.latchJob n).readAny d.src k ecc = (l, v)) :
    s.encodeHeader n ecc =
      ((v.putStripe n d j.out (d.headerStripe l) ecc).countSamples n l.length).onJob n fun j => { j with ended := true } := by
  subst hd hk
  have hlatch := laneApart_latchJob s n
  unfold State.encodeHeader
  rw [hj]
  dsimp only
  rw [hlatch.badDest, hlatch.memRange, hlatch.badRange, hlatch.byteAny, hlatch.memRange, if_neg (by simp [hextra, hdest]),
    if_neg (by simp [hsrc, hrange]), if_neg (Bool.eq_false_iff.1 hwaits), if_neg (by simp [hmem]), hread]
  rfl

end EncodeHeader

/-! ## Clips (R187) -/

theorem map_set_same {α β : Type} (g : α → β) (l : List α) {i : Nat} (hi : i < l.length) {x : α} (h : g x = g l[i]) :
    (l.set i x).map g = l.map g := by
  have hi' : i < (l.map g).length := by rwa [List.length_map]
  rw [List.map_set, h, ← List.getElem_map g (h := hi'), List.set_getElem_self]

/-- A change of a lane's front job leaves the queue's fill as it was. -/
theorem queueRoom_onJob (s : State) (n : Fin 32) (f : CodecJob → CodecJob) (k : Nat) :
    (s.onJob n f).queueRoom k = s.queueRoom k := by
  unfold State.queueRoom State.queueFill State.onJob State.onLane
  dsimp only
  have hn : n.val < s.codec.lanes.toList.length := by
    rw [Vector.length_toList]
    exact n.isLt
  rw [Vector.toList_set, map_set_same _ _ hn]
  rw [Vector.getElem_toList]
  rfl

/-- Lane `n` may read the next stripe of the clip of job `j`. -/
structure ClipReads (s : State) (n : Fin 32) (j : CodecJob) (d : JobDesc) : Prop where
  extra : d.extra = false
  len : d.len ≠ 0
  dram : dramBase ≤ d.src
  range : s.memRange d.src d.len = true
  grants : (s.latchJob n).dramGrants (.lane n) = true
  head : j.line + 16 ≤ d.len

namespace ClipReads

variable {s : State} {n : Fin 32} {j : CodecJob} {d : JobDesc} (h : ClipReads s n j d)
include h

theorem legal : ¬(d.extra = true ∨ d.len = 0) := by
  rw [h.extra]
  exact fun hbad => hbad.elim Bool.false_ne_true h.len

theorem inRange : ¬(d.src < dramBase ∨ (!(s.latchJob n).memRange d.src d.len) = true) := by
  rw [(laneApart_latchJob s n).memRange, h.range]
  exact fun hbad => hbad.elim (Nat.not_lt.2 h.dram) Bool.false_ne_true

theorem served : ¬(!(s.latchJob n).dramGrants (.lane n)) = true := by
  rw [h.grants]
  exact Bool.false_ne_true

theorem whole : ¬d.len < j.line + 16 := Nat.not_lt.2 h.head

end ClipReads

section PlayClip

variable {s : State} {n : Fin 32} {j : CodecJob} {ecc : List EccHit} (hj : s.runningJob n 2 = some j)
include hj

theorem playClip_illegal (h : (s.jobDesc j).extra = true ∨ (s.jobDesc j).len = 0) :
    s.playClip n ecc = (s.latchJob n).jobFails n 1 := by
  unfold State.playClip
  rw [hj]
  exact if_pos h

variable {d : JobDesc} (hd : d = s.jobDesc j) (hclip : ClipReads s n j d) {head : List Byte}
  (hhead : head = ((s.latchJob n).dramRead (d.src + j.line) 16 ecc).1)
include hd hclip hhead

theorem playClip_malformed (hbad : stripeHcrc head = false ∨ d.len < j.line + ((StripeHead.ofBytes head).bytes + 24)) :
    s.playClip n ecc = ((s.latchJob n).dramRead (d.src + j.line) 16 ecc).2.jobFails n 5 := by
  subst hd hhead
  unfold State.playClip
  rw [hj]
  dsimp only
  rw [if_neg hclip.legal, if_neg hclip.inRange, if_neg hclip.served, if_neg hclip.whole, if_pos (by simpa using hbad)]

theorem playClip_queues {size : Nat} (hsize : size = (StripeHead.ofBytes head).bytes + 24) (hcrc : stripeHcrc head = true)
    (hend : j.line + size ≤ d.len) (hroom : s.queueRoom size = true) :
    s.playClip n ecc =
      (((s.latchJob n).dramRead (d.src + j.line) size ecc).2.enqueueStripe
        ⟨((s.latchJob n).dramRead (d.src + j.line) size ecc).1, true, d.first && (StripeHead.ofBytes head).ty == 1 && j.out == 0,
          none⟩).onJob n fun j => { j with
            line := j.line + pad64 size, out := j.out + ((StripeHead.ofBytes head).ty == 1).toNat
            ended := decide (d.len ≤ j.line + pad64 size) } := by
  subst hd hhead hsize
  have hroom' : (s.latchJob n).queueRoom _ = true := (queueRoom_onJob s n _ _).trans hroom
  unfold State.playClip
  rw [hj]
  dsimp only
  rw [if_neg hclip.legal, if_neg hclip.inRange, if_neg hclip.served, if_neg hclip.whole,
    if_neg (by simp [hcrc, hend]), if_neg (by rw [hroom']; decide)]

end PlayClip

/-! ## The end of a job (R185) -/

theorem onLane_congr {s : State} {n : Fin 32} {f g : Lane → Lane} (h : f s.codec.lanes[n] = g s.codec.lanes[n]) :
    s.onLane n f = s.onLane n g := by
  unfold State.onLane
  rw [h]

theorem codecJobDone_eq {s : State} {n : Fin 32} {j : CodecJob} {l : List CodecJob} (hjobs : s.codec.lanes[n].jobs = j :: l)
    (hended : j.ended = true) :
    s.codecJobDone n = (((s.storeWord (j.desc + 28) (BitVec.ofNat 32 (1 + 2 * (decide (j.cause ≠ 0)).toNat + 4 * j.cause +
      65536 * j.ticket.toNat))).onLane n fun x => { x with jobs := l }).raiseIf
        (j.cause != 0 && (j.cause != 3 || (s.jobDesc j).stop)) (srcLane n 3)).raiseIf (s.jobDesc j).notify (srcLane n 2) := by
  have hfront : s.frontJob n = some j := by
    unfold State.frontJob
    rw [hjobs]
    rfl
  unfold State.codecJobDone
  rw [hfront]
  dsimp only
  rw [hended, State.when_true, onLane_congr (g := fun x => { x with jobs := l })]
  rw [(CodecKept.storeWord s _ _).codec, hjobs]
  rfl

/-! ## The obligation -/

/-- Settles O33: a stripe by `encodeStep_stripeCoded`, at which the three commands that code one meet; a header by
`encodeHeader_copies`, a clip by `playClip_malformed` and `playClip_queues`, the end by `codecJobDone_eq`. -/
theorem codecJobsRun : Obligations.CodecJobsRun := by
  refine ⟨?encode, ?stripe, ?header, ?clip, ?done⟩
  case encode =>
    exact fun s n j ecc hup hj =>
      ⟨exec_ifUp (f := fun u => u.encodePlane n true ecc) hup rfl (encodePlane_blocked hj), fun hflush hcause =>
        exec_ifUp (f := fun u => u.encodePlane n false ecc) hup rfl
          ((encodePlane_runs hj hflush).trans (encodeStep_fails hcause))⟩
  case stripe =>
    rintro s u n j d ecc c lines hup hj rfl hcause hwaits hc
    have hfront := frontJob_of_running hj
    rcases hc with ⟨rfl, rfl, hflush, rfl⟩ | ⟨rfl, ⟨i, hi, hblocked⟩, rfl, hflush, rfl⟩ | ⟨rfl, rfl, hflush, hcut⟩
    · refine answers_ifUp (f := fun u => u.encodePlane n false ecc) hup rfl ?_
      rw [encodePlane_runs hj hflush]
      exact encodeStep_stripeCoded hfront hcause hwaits (cut := none) rfl hflush ecc
    · refine answers_ifUp (f := fun u => u.resumeEncoder n ecc) hup rfl ?_
      rw [resumeEncoder_runs hi hblocked, encodePlane_runs hj hflush]
      exact encodeStep_stripeCoded hfront hcause hwaits (cut := none) rfl hflush ecc
    · have hapart := laneApart_flushTaken u n
      refine answers_ifUp (f := fun u => u.flushApply n lines ecc) hup rfl ?_
      rw [flushApply_runs hj hflush hcut, ← hapart.jobDesc]
      refine encodeStep_stripeCoded ((frontJob_flushTaken u n).trans hfront) ?_ ?_ (cut := some lines) ?_
        (flush_flushTaken u n) ecc
      · rw [hapart.jobDesc, hapart.encodeCause, hcause]
      · rw [hapart.jobDesc, hapart.encodeWaits (playsClip_flushTaken hfront)]
        exact hwaits
      · rw [hapart.jobDesc]
        exact Nat.min_eq_left (le_stripeLines_of_mayCut hcut)
  case header =>
    rintro s u v n j d k ecc l out hup hj hd rfl
    refine ⟨fun hbad => ?_, fun hextra hdest hsrc hrange hwaits hk hmem hread hout => ?_⟩
    · subst hd
      exact exec_ifUp (f := fun u => u.encodeHeader n ecc) hup rfl (encodeHeader_illegal hj hbad)
    · have hcopies := encodeHeader_copies hj hd hextra hdest hsrc hrange hwaits hk hmem hread
      obtain rfl : out = d.headerStripe l := hout
      refine ⟨fun hlink hfits => ?_, fun e hlink he => ?_⟩
      · rw [putStripe_memory hlink hfits] at hcopies
        exact exec_ifUp (f := fun u => u.encodeHeader n ecc) hup rfl hcopies
      · rw [putStripe_link hlink he] at hcopies
        exact exec_ifUp (f := fun u => u.encodeHeader n ecc) hup rfl hcopies
  case clip =>
    rintro s u n j d head bytes h ecc hup hj hd rfl
    refine ⟨fun hbad => ?_, fun hextra hlen hdram hrange hgrants hline hhead hh =>
      ⟨fun hbad => ?_, fun hcrc hend hroom hbytes => ?_⟩⟩
    · subst hd
      exact exec_ifUp (f := fun u => u.playClip n ecc) hup rfl (playClip_illegal hj hbad)
    · subst hh
      have hread := CodecKept.dramRead (s.latchJob n) (d.src + j.line) 16 ecc
      have hfront := (hread.frontJob n).trans (frontJob_latchJob (frontJob_of_running hj))
      refine answers_ifUp (f := fun u => u.playClip n ecc) hup rfl ?_
      rw [playClip_malformed hj hd ⟨hextra, hlen, hdram, hrange, hgrants, hline⟩ hhead hbad]
      refine ⟨(congrArg Codec.queue hread.codec :), _, (frontJob_onJob _ n _).trans (congrArg (Option.map _) hfront), rfl, rfl⟩
    · subst hh hbytes
      have hread := CodecKept.dramRead (s.latchJob n) (d.src + j.line) ((StripeHead.ofBytes head).bytes + 24) ecc
      have hfront := (hread.frontJob n).trans (frontJob_latchJob (frontJob_of_running hj))
      refine answers_ifUp (f := fun u => u.playClip n ecc) hup rfl ?_
      rw [playClip_queues hj hd ⟨hextra, hlen, hdram, hrange, hgrants, hline⟩ hhead rfl hcrc hend hroom]
      refine ⟨congrArg (· ++ [_]) (congrArg Codec.queue hread.codec :), _,
        (frontJob_onJob _ n _).trans (congrArg (Option.map _) hfront), rfl, rfl⟩
  case done =>
    intro s n j l hup hjobs hended
    have h2 : srcLane n 2 = 194 + 4 * n := by unfold srcLane; omega
    have h3 : srcLane n 3 = 195 + 4 * n := by unfold srcLane; omega
    rw [← h2, ← h3]
    exact exec_ifUp (f := fun u => u.codecJobDone n) hup rfl (codecJobDone_eq hjobs hended)

end Sys2Proof.Machine
end

section
/-! Numbers as bytes, least significant first (R14): what a number's bytes spell, and words at their place in a list of bytes. -/

open Sys2Proof Sys2Proof.Machine

namespace Sys2Proof.Machine

@[simp] theorem bytesOfNat_length (n v : Nat) : (bytesOfNat n v).length = n := by
  induction n generalizing v with
  | zero => rfl
  | succ n ih => rw [bytesOfNat, List.length_cons, ih]

theorem natOfBytes_bytesOfNat (n v : Nat) : natOfBytes (bytesOfNat n v) = v % 256 ^ n := by
  induction n generalizing v with
  | zero => rw [Nat.pow_zero, Nat.mod_one]; rfl
  | succ n ih => rw [bytesOfNat, natOfBytes, ih, Nat.pow_succ', Nat.mod_mul, BitVec.toNat_ofNat]

theorem natOfBytes_lt (l : List Byte) : natOfBytes l < 256 ^ l.length := by
  induction l with
  | nil => exact Nat.one_pos
  | cons b l ih =>
    rw [natOfBytes, List.length_cons, Nat.pow_succ]
    have := b.isLt
    omega

theorem bytesOfNat_natOfBytes (l : List Byte) : bytesOfNat l.length (natOfBytes l) = l := by
  induction l with
  | nil => rfl
  | cons b l ih =>
    have hb := b.isLt
    rw [List.length_cons, bytesOfNat, natOfBytes]
    congr 1
    · apply BitVec.eq_of_toNat_eq
      rw [BitVec.toNat_ofNat]
      omega
    · rwa [show (b.toNat + 256 * natOfBytes l) / 256 = natOfBytes l by omega]

/-- The word at offset `n`, where four bytes of a number stand there. -/
theorem bytesWord_at {l : List Byte} {n : Nat} (h : l.length = n) (v : Nat) (r : List Byte) :
    bytesWord (l ++ (bytesOfNat 4 v ++ r)) n = BitVec.ofNat 32 v := by
  rw [bytesWord, List.drop_left' h, List.take_left' (bytesOfNat_length 4 v), natOfBytes_bytesOfNat]
  exact BitVec.eq_of_toNat_eq (by rw [BitVec.toNat_ofNat, BitVec.toNat_ofNat]; omega)

end Sys2Proof.Machine
end

section
/-! Stream packets: their header (R209) and the de-duplication of what arrives (R214). -/

open Sys2Proof Sys2Proof.Machine

namespace Sys2Proof.Machine

/-! ## The header (R209) -/

/-- The number that the first word of a packet's header spells. -/
def StreamPacket.word0 (k : StreamPacket) : Nat :=
  k.stream + 4096 * k.path1.toNat + 8192 * k.sync.toNat + 16384 * k.sos.toNat + 32768 * k.eos.toNat + 65536 * k.session.toNat

/-- The first 12 bytes of a packet: the part of the header that PCRC covers. -/
def StreamPacket.head (k : StreamPacket) : List Byte :=
  bytesOfNat 4 k.word0 ++ bytesOfNat 4 k.ssn.toNat ++ bytesOfNat 4 k.data.length

theorem StreamPacket.bytes_eq (k : StreamPacket) :
    k.bytes = k.head ++ (bytesOfNat 4 (crc32c (k.head ++ k.data)).toNat ++ k.data) := by
  rw [← List.append_assoc]
  rfl

theorem StreamPacket.head_length (k : StreamPacket) : k.head.length = 12 := by simp [StreamPacket.head]

theorem StreamPacket.bytes_length (k : StreamPacket) : k.bytes.length = 16 + k.data.length := by
  rw [k.bytes_eq, List.length_append, k.head_length, List.length_append, bytesOfNat_length, ← Nat.add_assoc]

theorem StreamPacket.take_bytes (k : StreamPacket) : k.bytes.take 12 = k.head := by
  rw [k.bytes_eq, List.take_left' k.head_length]

theorem StreamPacket.drop_bytes (k : StreamPacket) : k.bytes.drop 16 = k.data := by
  rw [k.bytes_eq, ← List.append_assoc, List.drop_left']
  rw [List.length_append, k.head_length, bytesOfNat_length]

theorem StreamPacket.bytesWord_0 (k : StreamPacket) : bytesWord k.bytes 0 = BitVec.ofNat 32 k.word0 := by
  rw [k.bytes_eq, StreamPacket.head, List.append_assoc, List.append_assoc]
  exact bytesWord_at (l := []) rfl _ _

theorem StreamPacket.bytesWord_4 (k : StreamPacket) : bytesWord k.bytes 4 = k.ssn := by
  rw [k.bytes_eq, StreamPacket.head, List.append_assoc, List.append_assoc, bytesWord_at (bytesOfNat_length 4 _),
    BitVec.ofNat_toNat, BitVec.setWidth_eq]

theorem StreamPacket.bytesWord_8 (k : StreamPacket) : bytesWord k.bytes 8 = BitVec.ofNat 32 k.data.length := by
  rw [k.bytes_eq, StreamPacket.head, List.append_assoc _ (bytesOfNat 4 _), bytesWord_at]
  simp

theorem StreamPacket.bytesWord_12 (k : StreamPacket) : bytesWord k.bytes 12 = crc32c (k.head ++ k.data) := by
  rw [k.bytes_eq, bytesWord_at k.head_length, BitVec.ofNat_toNat, BitVec.setWidth_eq]

/-- The first header word gives its fields back. -/
theorem StreamPacket.fields_of_word0 {k : StreamPacket} (h : k.stream < 4096) {w : Word} (hw : w = BitVec.ofNat 32 k.word0) :
    w.toNat < 2 ^ 24 ∧ w.toNat % 4096 = k.stream ∧ w.getLsbD 12 = k.path1 ∧ w.getLsbD 13 = k.sync ∧ w.getLsbD 14 = k.sos ∧
      w.getLsbD 15 = k.eos ∧ w.extractLsb' 16 8 = k.session := by
  have hs := k.session.isLt
  have h1 := Bool.toNat_le k.path1
  have h2 := Bool.toNat_le k.sync
  have h3 := Bool.toNat_le k.sos
  have h4 := Bool.toNat_le k.eos
  have hn : w.toNat = k.word0 := by
    rw [hw, BitVec.toNat_ofNat, Nat.mod_eq_of_lt]
    unfold StreamPacket.word0
    omega
  have hbit {i : Nat} {b : Bool} (hb : k.word0 / 2 ^ i % 2 = b.toNat) : w.getLsbD i = b := by
    rw [BitVec.getLsbD, hn, Nat.testBit_eq_decide_div_mod_eq, hb]
    cases b <;> rfl
  unfold StreamPacket.word0 at hn hbit
  refine ⟨by omega, by omega, hbit (by omega), hbit (by omega), hbit (by omega), hbit (by omega), ?_⟩
  apply BitVec.eq_of_toNat_eq
  rw [BitVec.extractLsb'_toNat, hn, Nat.shiftRight_eq_div_pow]
  omega

theorem parseStream_bytes {k : StreamPacket} (hstream : k.stream < 4096) (hleast : 1 ≤ k.data.length)
    (hmost : k.data.length ≤ 4096) : parseStream k.bytes = some k := by
  obtain ⟨hw, hnum, hpath, hsync, hsos, heos, hsession⟩ := StreamPacket.fields_of_word0 hstream rfl
  have hlen : (BitVec.ofNat 32 k.data.length).toNat = k.data.length := by
    rw [BitVec.toNat_ofNat]
    omega
  unfold parseStream
  dsimp only
  rw [k.bytesWord_0, k.bytesWord_4, k.bytesWord_8, k.bytesWord_12, k.drop_bytes, k.take_bytes, k.bytes_length, hlen,
    if_pos ⟨Nat.le_add_right _ _, hw, hleast, hmost, rfl, rfl⟩, hnum, hpath, hsync, hsos, heos, hsession]

/-! ## De-duplication (R214) -/

/-- The entry has accepted SSN `ssn` of session `session`: it lies in the window, and its bit is set. -/
def LocalStream.Marked (l : LocalStream) (session : Byte) (ssn : Word) : Prop :=
  l.session = some session ∧ sdiff ssn l.high ≤ 0 ∧ -256 < sdiff ssn l.high ∧ l.window.getLsbD (-sdiff ssn l.high).toNat = true

theorem sdiff_self (a : Word) : sdiff a a = 0 := by simp [sdiff]

/-- An entry marks what it accepts. -/
theorem take_accept_marked {l : LocalStream} {sync : Bool} {session : Byte} {ssn : Word}
    (h : (l.take sync session ssn).2.1 = .accept) : (l.take sync session ssn).1.Marked session ssn := by
  have hfresh : LocalStream.Marked ⟨some session, ssn, ssn, 1, [], []⟩ session ssn := by
    refine ⟨rfl, ?_⟩
    simp [sdiff_self]
  unfold LocalStream.take at h ⊢
  dsimp only at h ⊢
  split at h
  · split at h
    · rwa [if_pos ‹_›]
    · cases h
  next cur hcur =>
    split at h
    next hne =>
      split at h
      · rwa [if_pos hne, if_pos ‹_›]
      · cases h
    next heq =>
      obtain rfl : session = cur := not_not.1 heq
      rw [if_neg heq]
      split at h
      next hpos =>
        rw [if_pos hpos]
        exact ⟨hcur, by simp [sdiff_self]⟩
      next hnpos =>
        rw [if_neg hnpos]
        split at h
        next hwin =>
          rw [if_pos hwin]
          split at h
          · cases h
          next hnew =>
            rw [if_neg hnew]
            refine ⟨hcur, not_lt.1 hnpos, hwin, ?_⟩
            have hlt : (-sdiff ssn l.high).toNat < 256 := by omega
            simp [hlt]
        next => cases h

/-- An entry takes no SSN that it has marked. -/
theorem take_marked {l : LocalStream} {session : Byte} {ssn : Word} (h : l.Marked session ssn) (sync : Bool) :
    (l.take sync session ssn).2.1 = .dup := by
  obtain ⟨hsession, hle, hwin, hbit⟩ := h
  unfold LocalStream.take
  dsimp only
  rw [hsession]
  dsimp only
  rw [if_neg (not_not.2 rfl), if_neg (by omega), if_pos hwin, if_pos hbit]

/-- Settles O37: the header's words by their places, and the marked SSN of `take_accept_marked`, which `take_marked` refuses. -/
theorem streamPacketsAreTakenOnce : Obligations.StreamPacketsAreTakenOnce := by
  refine ⟨fun k => parseStream_bytes, fun l sync sync' session ssn h => ?_⟩
  rw [take_marked (take_accept_marked h)]
  exact nofun

end Sys2Proof.Machine
end

section
/-! What happenings outside the link's own rules leave of the link: its registers but the drop counters, its ports but what
their queues hold, and the ports that are not up in whole (R208, R210, R393). First the raises of events. -/

open Sys2Proof Sys2Proof.Machine

namespace Sys2Proof.Machine

/-! ## The relation -/

/-- The port with its output queues empty: what a packet handed to the port leaves as it is. -/
def LinkPort.emptied (l : LinkPort) : LinkPort := { l with q1 := [], q2 := [], q3 := [] }

/-- The registers and the link unit `regs` and `link` have what `LinkKept` says of state `b`. -/
structure LinkParts (b : State) (regs : List (Nat × Word)) (link : LinkUnit) : Prop where
  reg : ∀ a, a / 0x10000 = 4 → a ∉ raiseRegs → assocGet (RegMap.reset a) a regs = b.reg a
  ports : ∀ p : Fin 4, link.port[p].emptied = b.link.port[p].emptied
  down : ∀ p : Fin 4, b.portUp p = false → link.port[p] = b.link.port[p]
  rest : link = { b.link with port := link.port }

/-- State `s` has the link of state `b` but for the drop counters and the queues of the ports that are up. Record updates of
other parts of the state keep it by definition. -/
def LinkKept (b s : State) : Prop := LinkParts b s.regs s.link

/-- The registers of port `p` that the events of the link leave alone. -/
def portRegs (p : Nat) : List Nat :=
  [F.ZL_CFG_addr p, F.ZL_STATUS_addr p, F.ZL_LCAP_addr p, F.ZL_PCAP_addr p, F.ZL_PID_addr p, F.ZL_ERR_addr p,
   F.ZL_LANE_LIMIT_addr p, F.ZL_TT_DELAY_addr p, F.ZL_TT_OFFSET_addr p, F.ZL_TT_ASYM_addr p, F.ZL_TT_COUNT_addr p]

theorem portRegs_block (p : Fin 4) : ∀ a ∈ portRegs p, a / 0x10000 = 4 ∧ a ∉ raiseRegs := by
  revert p
  decide

theorem status_mem (p : Nat) : F.ZL_STATUS_addr p ∈ portRegs p := by simp [portRegs]

namespace LinkKept

variable {b s t : State}

theorem refl (s : State) : LinkKept s s := ⟨fun _ _ _ => rfl, fun _ => rfl, fun _ _ => rfl, rfl⟩

theorem reg (h : LinkKept b s) {a : Nat} (ha : a / 0x10000 = 4) (hr : a ∉ raiseRegs) : s.reg a = b.reg a := LinkParts.reg h a ha hr

theorem portReg (h : LinkKept b s) (p : Fin 4) {a : Nat} (ha : a ∈ portRegs p) : s.reg a = b.reg a :=
  h.reg (portRegs_block p a ha).1 (portRegs_block p a ha).2

theorem get (h : LinkKept b s) {p : Fin 4} (f : Field) (hf : f.addr ∈ portRegs p) : s.get f = b.get f :=
  congrArg f.of (h.portReg p hf)

theorem bit (h : LinkKept b s) {p : Fin 4} (f : Field) (hf : f.addr ∈ portRegs p) : s.bit f = b.bit f :=
  congrArg (· != 0) (h.get f hf)

theorem state (h : LinkKept b s) (p : Fin 4) : s.get (F.ZL_STATUS_STATE p) = b.get (F.ZL_STATUS_STATE p) :=
  h.get _ (status_mem p)

theorem portUp (h : LinkKept b s) (p : Fin 4) : s.portUp p = b.portUp p := by
  unfold State.portUp
  rw [h.state]

/-- What a function of a port that does not look at the queues gives. -/
theorem port {α : Type} (h : LinkKept b s) (p : Fin 4) (f : LinkPort → α) (hf : ∀ l, f l.emptied = f l) :
    f s.link.port[p] = f b.link.port[p] := by
  rw [← hf, LinkParts.ports h, hf]

theorem portDown (h : LinkKept b s) {p : Fin 4} (hp : b.portUp p = false) : s.link.port[p] = b.link.port[p] := LinkParts.down h p hp

theorem rest (h : LinkKept b s) : s.link = { b.link with port := s.link.port } := LinkParts.rest h

theorem trans (h : LinkKept b s) (k : LinkKept s t) : LinkKept b t where
  reg a ha hr := (k.reg ha hr).trans (h.reg ha hr)
  ports p := (LinkParts.ports k p).trans (LinkParts.ports h p)
  down p hp := (k.portDown ((h.portUp p).trans hp)).trans (h.portDown hp)
  rest := by
    rw [k.rest, h.rest]

theorem of_regs (hregs : RegsKept s t) (hlink : t.link = s.link) : LinkKept s t where
  reg a _ hr := hregs a hr
  ports p := by rw [hlink]
  down p _ := by rw [hlink]
  rest := by rw [hlink]

/-- An update of other parts of the state. -/
theorem same (h : LinkKept b s) (heq : (t.regs, t.link) = (s.regs, s.link)) : LinkKept b t := by
  obtain ⟨hregs, hlink⟩ := Prod.mk.inj heq
  unfold LinkKept
  rw [hregs, hlink]
  exact h

/-! ## Operations -/

theorem setReg (h : LinkKept b s) {a : Nat} (w : Word) (ha : a / 0x10000 = 4 → a ∈ raiseRegs) : LinkKept b (s.setReg a w) where
  reg c hc hr := by
    refine (State.reg_setReg s a c w).trans ((if_neg ?_).trans (h.reg hc hr))
    rintro rfl
    exact hr (ha hc)
  ports := LinkParts.ports h
  down := LinkParts.down h
  rest := h.rest

/-- A write of a field outside block ZL. -/
theorem put (h : LinkKept b s) (f : Field) (v : Nat) (hf : f.addr / 0x10000 ≠ 4) : LinkKept b (s.put f v) :=
  h.setReg _ fun ha => absurd ha hf

/-- A counter outside block ZL, one higher. -/
theorem count (h : LinkKept b s) (f : Field) (hf : f.addr / 0x10000 ≠ 4) : LinkKept b (s.count f) := h.put f _ hf

/-- A write of a drop counter. -/
theorem putDrop (h : LinkKept b s) (f : Field) (v : Nat) (hf : f.addr ∈ raiseRegs) : LinkKept b (s.put f v) :=
  h.setReg _ fun _ => hf

theorem ite {c : Prop} [Decidable c] (hs : LinkKept b s) (ht : LinkKept b t) : LinkKept b (if c then s else t) := by
  split <;> assumption

theorem when (h : LinkKept b s) (c : Bool) {f : State → State} (hf : ∀ u, LinkKept b u → LinkKept b (f u)) :
    LinkKept b (s.when c f) := ite (hf s h) h

theorem foldl {α : Type} (h : LinkKept b s) {f : State → α → State} (hf : ∀ u x, LinkKept b u → LinkKept b (f u x))
    (l : List α) : LinkKept b (l.foldl f s) := by
  induction l generalizing s with
  | nil => exact h
  | cons x l ih => exact ih (hf s x h)

theorem foldl_snd {α β : Type} {r : β × State} (h : LinkKept b r.2) {f : β × State → α → β × State}
    (hf : ∀ r x, LinkKept b r.2 → LinkKept b (f r x).2) (l : List α) : LinkKept b (l.foldl f r).2 := by
  induction l generalizing r with
  | nil => exact h
  | cons x l ih => exact ih (hf r x h)

end LinkKept

/-! ## Ports -/

theorem port_onPort (s : State) (p : Fin 4) (f : LinkPort → LinkPort) : (s.onPort p f).link.port[p] = f s.link.port[p] :=
  Vector.getElem_set_self p.isLt

theorem port_onPort_other (s : State) {p q : Fin 4} (h : q ≠ p) (f : LinkPort → LinkPort) :
    (s.onPort p f).link.port[q] = s.link.port[q] :=
  Vector.getElem_set_ne p.isLt q.isLt fun e => h (Fin.ext e.symm)

theorem push_emptied (l : LinkPort) (k : QPacket) : (l.push k).emptied = l.emptied := by
  unfold LinkPort.push
  split <;> rfl

theorem drop_mem_raiseRegs (p : Fin 4) : F.ZL_DROP_addr p ∈ raiseRegs := by
  revert p
  decide

/-! ## Raises -/

theorem setStatus_link (s : State) (n : Nat) : (s.setStatus n).link = s.link := by
  unfold State.setStatus
  split <;> rfl

theorem eventRing_link (s : State) (x y : Byte) (source : BitVec 10) (lost : Byte) (tb : Word) :
    (s.eventRing x y source lost tb).link = s.link := by
  unfold State.eventRing
  dsimp only
  split
  · rfl
  · split
    · rfl
    · rw [State.put_link]
      dsimp only
      rw [storeWord_eq, storeWord_eq, storeWord_eq, storeWord_eq]

theorem sendMsi_link (s : State) (v : Nat) : (s.sendMsi v).link = s.link := by
  unfold State.sendMsi
  repeat' split
  all_goals rfl

namespace LinkKept

section Raise

variable {raise : State → Nat → State} (hr : ∀ t n, n < 1024 → LinkKept t (raise t n))
include hr

theorem qfull (s : State) (p : Fin 4) : LinkKept s (s.qfull raise p) :=
  ((refl s).putDrop _ _ (drop_mem_raiseRegs p)).trans (hr _ _ (by have := p.isLt; unfold srcLink; omega))

/-- A packet goes to a queue of a port that is up, or is dropped. -/
theorem enqueue (s : State) (p : Fin 4) (path1 : Bool) (k : Packet) : LinkKept s (s.enqueue raise p path1 k) := by
  unfold State.enqueue
  split
  next hopen =>
    have hup : s.portUp p = true := by
      simp only [Bool.and_eq_true] at hopen
      exact hopen.1.1
    refine ⟨fun _ _ _ => rfl, fun q => ?_, fun q hq => ?_, rfl⟩
    · rcases eq_or_ne q p with rfl | hne
      · rw [port_onPort, push_emptied]
      · rw [port_onPort_other _ hne]
    · refine port_onPort_other _ (fun e => ?_) _
      rw [e, hup] at hq
      cases hq
  · exact qfull hr s p

theorem routeDrop (s : State) : LinkKept s (s.routeDrop raise) :=
  ((refl s).putDrop F.ZL_ROUTE_DROP_COUNT _ (by decide)).trans (hr _ _ (by decide))

theorem sendEventCopy (s : State) (n lost : Nat) (route : Bool) : LinkKept s (s.sendEventCopy raise n lost route) := by
  unfold State.sendEventCopy
  dsimp only
  split
  · exact of_regs (raiseRel_regsKept.eventRing _ _ _ _ _) (eventRing_link _ _ _ _ _ _)
  · exact routeDrop hr s
  · exact enqueue hr s _ _ _

theorem sendEvent (s : State) (n : Nat) : LinkKept s (s.sendEvent raise n) := by
  have hevt (e : EvtUnit) : LinkKept s { s with evt := e } := refl s
  unfold State.sendEvent
  split
  · exact (hevt _).trans (hr _ _ (by decide))
  · refine ite (trans ?_ (sendEventCopy hr _ _ _ _)) ?_
    all_goals exact (hevt _).trans (sendEventCopy hr _ _ _ _)

theorem deliver (s : State) (n : Nat) : LinkKept s (s.deliver raise n) := by
  have hmsi (u : State) (v : Nat) : LinkKept u (u.sendMsi v) := of_regs (raiseRel_regsKept.sendMsi v) (sendMsi_link u v)
  have hpin (c : Bool) : LinkKept s (if c then { s with eventN := true } else s) := ite (refl s) (refl s)
  unfold State.deliver
  dsimp only
  refine ite (hpin _) (ite (trans ?_ (sendEvent hr _ n)) ?_)
  all_goals exact ite ((hpin _).trans (hmsi _ _)) (hpin _)

omit hr in
theorem raiseWithin (k : Nat) : ∀ s n, n < 1024 → LinkKept s (State.raiseWithin k s n) := by
  have hstatus (s : State) {n : Nat} (hn : n < 1024) : LinkKept s (s.setStatus n) :=
    of_regs (raiseRel_regsKept.status s n hn) (setStatus_link s n)
  induction k with
  | zero => exact fun s n hn => hstatus s hn
  | succ k ih => exact fun s n hn => ite ((hstatus s hn).trans (deliver ih _ n)) (hstatus s hn)

end Raise

variable {b s : State}

/-- A raise of an event leaves the link but for what event packets do to its queues and drop counters. -/
theorem raise (h : LinkKept b s) (n : Nat) (hn : n < 1024) : LinkKept b (s.raise n) := h.trans (raiseWithin 8 s n hn)

theorem raiseIf (h : LinkKept b s) (c : Bool) (n : Nat) (hn : n < 1024) : LinkKept b (s.raiseIf c n) :=
  ite (h.raise n hn) h

/-- A packet handed to an output. -/
theorem enqueued (h : LinkKept b s) (p : Fin 4) (path1 : Bool) (k : Packet) : LinkKept b (s.enqueue State.raise p path1 k) :=
  h.trans (enqueue (fun _ n hn => (refl _).raise n hn) s p path1 k)

/-- A packet copied along the stream table (R211). -/
theorem forward (h : LinkKept b s) (src : Option (Fin 4)) (stream : Nat) (path1 : Bool) (k : Packet) :
    LinkKept b (s.forward src stream path1 k) :=
  h.foldl (fun _ _ hu => ite hu (hu.enqueued _ _ _)) _

end LinkKept

end Sys2Proof.Machine
end

section
/-! A measurement of the time base leaves the link alone, though a step of the time base fires comparators, and these launch
frames, latch bands and start held work (R230, R235, R236, R139). Operation by operation, innermost first. -/

open Sys2Proof Sys2Proof.Machine

namespace Sys2Proof.Machine.LinkKept

variable {b s : State} (h : LinkKept b s)
include h

/-! ## Memory accesses (R322, R324, R337) -/

theorem eccReport (e : EccHit) : LinkKept b (s.eccReport e) := by
  unfold State.eccReport
  have hreport {f : Field} (v : Nat) {n : Nat} (hf : f.addr / 0x10000 ≠ 4) (hn : n < 1024) : LinkKept b ((s.put f v).raise n) :=
    (h.put f v hf).raise n hn
  exact ite (ite (hreport _ (by decide) (by decide)) (((h.put _ _ (by decide)).put _ _ (by decide)).raise _ (by decide)))
    (ite (hreport _ (by decide) (by decide)) (hreport _ (by decide) (by decide)))

theorem readHits (a n : Nat) (ecc : List EccHit) : LinkKept b (s.readHits a n ecc) := by
  have hreports : LinkKept b (s.eccReports (s.eccIn a n ecc)) := h.foldl (fun _ x hu => hu.eccReport x) _
  exact ite (hreports.same (by rfl)) hreports

theorem touch (a n : Nat) : LinkKept b (s.touch a n) := by
  unfold State.touch State.abortEntry
  refine foldl (h.when _ fun u hu => raise (hu.same (by rfl)) _ (by decide)) (fun u i hu => ?_) _
  exact hu.same (by rfl)

theorem readAny (a n : Nat) (ecc : List EccHit) : LinkKept b (s.readAny a n ecc).2 := by
  unfold State.readAny
  split
  · exact ((h.touch a n).raiseIf _ _ (by decide)).readHits a n ecc
  · exact h.readHits a n ecc

/-! ## Trellis (R281, R283, R286, R289, R300) -/

theorem startComp (c : Fin 64) (t : Word) : LinkKept b (s.startComp c t) := by
  unfold State.startComp
  refine ite h (h.foldl (fun u l hu => ?_) _)
  exact ite (hu.same (by rfl)) hu

theorem judgeAllOuts : LinkKept b s.judgeAllOuts := by
  unfold State.judgeAllOuts State.startComps
  exact foldl (h.same (by rfl)) (fun u c hu => hu.startComp c _) _

theorem tryWave (period : Nat) : LinkKept b (s.tryWave period) := by
  unfold State.tryWave
  have happly : LinkKept b (s.put F.TRL_WAVE_CTL_APPLY 0) := h.put _ _ (by decide)
  refine ite h (ite (judgeAllOuts ?_) (((happly.put _ _ (by decide)).put _ _ (by decide)).raise _ (by decide)))
  unfold State.activate State.flushRails
  exact foldl (happly.same (by rfl)) (fun u a hu => hu.same (by rfl)) _

theorem tryWaveInHold : LinkKept b s.tryWaveInHold := ite (h.tryWave _) h

theorem selectBand : LinkKept b s.selectBand := by
  unfold State.selectBand
  extract_lets manual j t
  have ht : LinkKept b t := by
    refine ite h ?_
    split
    · exact (h.put _ _ (by decide)).raise _ (by decide)
    · exact (h.put _ _ (by decide)).put _ _ (by decide)
  exact ite ht (((ht.put _ _ (by decide)).put _ _ (by decide)).raise _ (by decide))

theorem stopComp (o : Fin 384) (t : Word) : LinkKept b (s.stopComp o t) := by
  unfold State.stopComp
  split
  · exact h.same (by rfl)
  · exact h

theorem overCheck (o : Fin 384) (t : Word) : LinkKept b (s.overCheck o t) :=
  ite ((h.put _ _ (by decide)).raise _ (by decide)) h

theorem drivePhases (o : Fin 384) (l : List (Nat × Nat)) (t : Word) : LinkKept b (s.drivePhases o l t) := by
  unfold State.drivePhases
  split
  · exact h
  · exact h.same (by rfl)

theorem cutWave (c : Fin 64) (t : Word) : LinkKept b (s.cutWave c t).2 := by
  unfold State.cutWave
  refine foldl_snd h (fun r l hr => ?_) _
  dsimp only
  split
  · exact hr
  · exact hr.same (by rfl)

theorem startWave (c : Fin 64) (layers : List (Fin 6)) (x : Nat) (t : Word) : LinkKept b (s.startWave c layers x t) := by
  unfold State.startWave
  split
  · exact h
  · have hcut := h.cutWave c t
    generalize s.cutWave c t = r at hcut ⊢
    obtain ⟨cut, v⟩ := r
    dsimp only at hcut ⊢
    have htrunc := hcut.count F.TRL_STAT_TRUNC (by decide)
    refine foldl ?_ (fun u l hu => ?_) _
    · exact ite hcut (ite htrunc (raise (htrunc.same (by rfl)) _ (by decide)))
    · have hset : LinkKept b (u.setWordBit c l (x == 0)) := hu.same (by rfl)
      exact ite hset (((hset.stopComp _ _).overCheck _ _).drivePhases _ _ _)

theorem changeLayer (c : Fin 64) (slot mask : Nat) (t : Word) : LinkKept b (s.changeLayer c slot mask t) := by
  unfold State.changeLayer
  split
  · exact h.startWave _ _ _ _
  · exact h

theorem gateLatch (c : Fin 64) (slot mask period : Nat) (t : Word) (final light : Bool) :
    LinkKept b (s.gateLatch c slot mask period t final light) := by
  unfold State.gateLatch
  have hlayer := h.changeLayer c slot mask t
  have hcount := hlayer.count F.TRL_STAT_NOLIGHT (by decide)
  refine ite h (startComp (same ?_ (by rfl)) c t)
  exact ite (ite hcount (raise (hcount.same (by rfl)) _ (by decide))) hlayer

/-! ## Panel (R257–R260, R268, R273, R275) -/

theorem sendAll (prio : Nat) (w : BitVec 64) : LinkKept b (s.sendAll prio w) := by
  unfold State.sendAll
  refine h.foldl (fun u x hu => ?_) _
  exact ite (hu.same (by rfl)) hu

theorem sendCfg : LinkKept b s.sendCfg := h.foldl (fun _ _ hu => hu.sendAll _ _) _

theorem startRescan (t : Word) : LinkKept b (s.startRescan t) := by
  unfold State.startRescan
  refine h.foldl (fun u c hu => ?_) _
  exact ite hu (hu.same (by rfl))

theorem blinkStep (launch : Bool) (t : Word) : LinkKept b (s.blinkStep launch t) := by
  have hsent {u : State} (hu : LinkKept b u) (l : List Nat) :
      LinkKept b (l.foldl (fun v r => v.sendAll 2 (v.rectBlock r (u.regionOff r))) u) := hu.foldl (fun v r hv => hv.sendAll _ _) _
  unfold State.blinkStep
  dsimp only
  split
  all_goals refine ite (same (hsent ?_ _) (by rfl)) (startRescan (same (hsent ?_ _) (by rfl)) t)
  iterate 2 exact (h.setReg (a := F.PANEL_BLINK_CNT_addr) _ (by decide)).same (by rfl)
  iterate 2 exact h.put F.PANEL_BLINK_CNT_COUNT _ (by decide)

theorem sendBlock (p : Fin 4) (l : Fin 8) (control : Bool) (w : BitVec 64) : LinkKept b (s.sendBlock p l control w) := by
  unfold State.sendBlock
  split
  · exact h
  · exact h.same (by rfl)

theorem pushBytes (k : CmdPush) : LinkKept b (s.pushBytes k).2 := by
  unfold State.pushBytes
  refine foldl_snd (r := ([], s)) h (fun r j hr => ?_) _
  exact hr.readAny _ _ _

theorem sendPush (k : CmdPush) : LinkKept b (s.sendPush k) := by
  unfold State.sendPush
  split
  · exact h
  · refine same (sendBlock (foldl (sendBlock (h.pushBytes k) _ _ _ _) (fun u w hu => ?_) _) _ _ _ _) (by rfl)
    exact hu.sendBlock _ _ _ _

theorem tryPush : LinkKept b s.tryPush := by
  unfold State.tryPush
  split
  · exact ite h (h.sendPush _)
  · exact h

theorem launchPush : LinkKept b s.launchPush := by
  unfold State.launchPush
  split
  · exact tryPush (h.same (by rfl))
  · exact h

theorem dropLines : LinkKept b s.dropLines := by
  unfold State.dropLines
  exact h.foldl (fun u x hu => hu.same (by rfl)) _

theorem latchLane (p : Fin 4) (l : Fin 8) (r c : Nat) : LinkKept b (s.latchLane p l r c) := by
  have hcount (p : Fin 4) : (F.PANEL_UNDERRUN_COUNT p).addr / 0x10000 ≠ 4 := by
    revert p
    decide
  unfold State.latchLane
  extract_lets x fill t u
  have ht : LinkKept b t := h.same (by rfl)
  exact ite h (ite ht (same (ite (ht.put (F.PANEL_UNDERRUN_COUNT p) _ (hcount p)) ht) (by rfl)))

theorem latchLanes (r c : Nat) : LinkKept b (s.latchLanes r c) := h.foldl (fun _ _ hu => hu.latchLane _ _ _ _) _

/-! ## Content and bundles (R22, R25, R77, R79) -/

theorem countRepeat : LinkKept b s.countRepeat := (h.put _ _ (by decide)).raise _ (by decide)

theorem cutoff : LinkKept b s.cutoff := by
  unfold State.cutoff
  exact ite h (countRepeat (h.same (by rfl)))

theorem selectContent : LinkKept b s.selectContent := by
  unfold State.selectContent
  split
  · exact h
  · split
    · exact h
    · exact ite (h.same (by rfl)) h

theorem countLate (number slot c late : Nat) : LinkKept b (s.countLate number slot c late) := by
  unfold State.countLate
  extract_lets t u
  have hu : LinkKept b u := (((h.put _ _ (by decide)).put _ _ (by decide)).put _ _ (by decide)).put _ _ (by decide)
  exact ite h (ite hu (raise (hu.same (by rfl)) _ (by decide)))

theorem bandDrop (r : Nat) (c : Fin 64) : LinkKept b (s.bandDrop r c) := by
  unfold State.bandDrop
  dsimp only
  split
  · exact ite (countLate (h.same (by rfl)) _ _ _ _) (h.same (by rfl))
  · exact h.same (by rfl)

theorem darkFill : LinkKept b s.darkFill := by
  unfold State.darkFill
  refine h.foldl (fun u c hu => hu.foldl (fun t x ht => ?_) _) _
  exact ite (ht.same (by rfl)) ht

/-! ## Held work (R144, R305) -/

theorem startWork (cls : Nat) (arg : Word) (ticket : BitVec 16) : LinkKept b (s.startWork cls arg ticket) := by
  have hptr (r : Fin 4) : (F.RACK_RING_WPTR_WPTR r).addr / 0x10000 ≠ 4 := by
    revert r
    decide
  unfold State.startWork
  split
  · exact h.same (by rfl)
  · split
    · split
      · exact h.same (by rfl)
      · exact h.raise _ (by decide)
    · exact ite (h.put _ _ (hptr _)) h

theorem releaseLine (line : Nat) : LinkKept b (s.releaseLine line) := by
  unfold State.releaseLine
  exact foldl (h.same (by rfl)) (fun u k hu => hu.startWork _ _ _) _

/-! ## Launches (R18, R22, R29, R78) -/

theorem fired (c : Nat) : LinkKept b (s.fired c) :=
  (h.put (F.SEQ_LC_CFG_ARM c) 0 (by dsimp only; omega)).put (F.SEQ_LC_CFG_FIRED c) 1 (by dsimp only; omega)

theorem armed (c : Nat) (t : Word) : LinkKept b (s.armed c t) := by
  have hset : LinkKept b (s.setTarget c t) :=
    (h.setReg (a := F.SEQ_LC_TIME_addr c) t fun ha => absurd ha (by unfold F.SEQ_LC_TIME_addr; omega)).same (by rfl)
  exact hset.put (F.SEQ_LC_CFG_ARM c) 1 (by dsimp only; omega)

theorem enterHold (t : Word) : LinkKept b (s.enterHold t) := by
  unfold State.enterHold State.dropFrames
  exact tryWaveInHold (put (same (dropLines (h.same (by rfl))) (by rfl)) _ _ (by decide))

theorem applyHold : LinkKept b s.applyHold := by
  refine h.when _ fun u hu => ?_
  split
  · exact hu.enterHold _
  · exact hu.enterHold _

theorem applySet (set : List (Nat × Word)) : LinkKept b (s.applySet set) := by
  unfold State.applySet
  refine same (put (put (h.foldl (fun u x hu => ?_) set) F.SEQ_FRM_CTL_COMMIT 0 (by decide)) F.SEQ_FRM_CTL_WAIT_TRANSITION 0
    (by decide)) (by rfl)
  exact hu.same (by rfl)

theorem launchCommit : LinkKept b s.launchCommit := by
  unfold State.launchCommit
  split
  · exact h.applySet _
  · split
    · exact h
    · exact put (h.same (by rfl)) F.SEQ_FRM_CTL_WAIT_TRANSITION _ (by decide)

theorem cfgIfChanged (old : State) : LinkKept b (s.cfgIfChanged old) := ite h h.sendCfg

theorem dropFrom (r : Nat) : LinkKept b (s.dropFrom r) := h.same (by rfl)

theorem reblank : LinkKept b s.reblank := h.same (by rfl)

theorem linksDriven (old : State) (r : Nat) (t : Word) : LinkKept b (old.linksDriven s r t) :=
  launchPush (cfgIfChanged (blinkStep (reblank (selectBand (tryWave (h.dropFrom r) _))) true t) old)

theorem startFrame (t : Word) : LinkKept b (s.startFrame t) := by
  rw [startFrame_eq]
  have hchosen : LinkKept b s.contentChosen := by
    unfold State.contentChosen
    exact cutoff (selectContent (h.launchCommit.same (by rfl)))
  have hruns : LinkKept b (s.frameRuns s.contentChosen t) := by
    unfold State.frameRuns State.darkCounted
    exact same (ite hchosen.countRepeat hchosen) (by rfl)
  exact darkFill (selectContent (armed (linksDriven hruns s _ t) 1 t))

theorem holdLaunch (t : Word) : LinkKept b (s.holdLaunch t) := by
  unfold State.holdLaunch
  exact launchPush (blinkStep (selectBand (h.same (by rfl))) _ _)

theorem launchLine (t : Word) : LinkKept b (s.launchLine t) := by
  have hfired : LinkKept b s.cutoffsFired := by
    have hcut := ite (c := s.due 2 = true) (h.fired 2) h
    exact put (put (ite (hcut.fired 3) hcut) _ _ (by decide)) _ _ (by decide)
  have hnoted : LinkKept b (s.launchNoted t) := by
    unfold State.launchNoted
    exact same (raise (applyHold hfired) (srcSeq 24) (by decide)) (by rfl)
  rw [launchLine_eq]
  unfold State.launchedAt State.restartIdle
  exact same (ite (hnoted.startFrame t) (hnoted.holdLaunch t)) (by rfl)

/-! ## Comparators (R139) -/

theorem trainLine : LinkKept b s.trainLine := by
  unfold State.trainLine State.bandLatch
  split
  · exact h
  · exact ite (armed (darkFill (gateLatch (latchLanes (bandDrop (h.same (by rfl)) _ _) _ _) _ _ _ _ _ _ _)) _ _)
      (darkFill (gateLatch (latchLanes (bandDrop (h.same (by rfl)) _ _) _ _) _ _ _ _ _ _ _))

theorem fire (c : Nat) : LinkKept b (s.fire c) := by
  refine h.when _ fun u hu => ?_
  have hfired := hu.fired c
  unfold State.driveLine State.cutoffLine
  exact ite (hfired.launchLine _) (ite hfired.trainLine (ite (ite (darkFill hfired.cutoff) hfired)
    (ite hfired (ite (hfired.releaseLine _) hfired))))

/-! ## Measurements (R229, R230, R232, R235) -/

theorem setRate (r : Int) : LinkKept b (s.setRate r) :=
  raiseIf (put (h.put F.TB_RATE_RATE _ (by decide)) F.TB_STATE_SATURATED _ (by decide)) _ _ (by decide)

theorem enterTb (state : Nat) : LinkKept b (s.enterTb state) := setRate (h.put F.TB_STATE_STATE state (by decide)) _

theorem stepTime (e : Int) : LinkKept b (s.stepTime e) := by
  have hsrc (c : Bool) : srcTb (if c then 3 else 4) < 1024 := by cases c <;> decide
  unfold State.stepTime State.fireReached
  have hstep {v w : Nat} {u : State} (hu : LinkKept b u) :
      LinkKept b (((u.put F.TB_STEP_NS_NS v).put F.TB_STEP_AT_NS w).put F.TB_CTL_FORCE 0) :=
    ((hu.put _ _ (by decide)).put _ _ (by decide)).put _ _ (by decide)
  refine foldl (raise (foldl (enterTb (hstep (h.same (by rfl))) _) (fun u k hu => ite (hu.same (by rfl)) hu) _) _ (hsrc _))
    (fun u c hu => ?_) _
  exact hu.fire c

/-- A measurement of the time base. -/
theorem measure (e : Int) : LinkKept b (s.measure e) := by
  have herr := (h.put F.TB_ERR_NS_NS ((BitVec.ofInt 48 e).toNat / 65536) (by decide)).put F.TB_ERR_FRAC_FRAC
    ((BitVec.ofInt 48 e).toNat % 65536) (by decide)
  unfold State.measure
  refine ite (stepTime (herr.same (by rfl)) e) (ite (raise (count (enterTb (herr.same (by rfl)) _) _ (by decide)) _ (by decide))
    (ite (herr.same (by rfl)) ?_))
  exact raiseIf (setRate (same (put (herr.same (by rfl)) F.TB_STATE_STATE _ (by decide)) (by rfl)) _) _ _ (by decide)

end Sys2Proof.Machine.LinkKept
end

section
/-! The code and the message of a codeword: what is encoded decodes, and what is packed reads back (R192, R193, R195). -/

open Sys2Proof Sys2Proof.Machine

namespace Sys2Proof.Machine

/-! ## A number above another -/

theorem lor_shiftLeft_mod {a n : Nat} (h : a < 2 ^ n) (c : Nat) : (a ||| c <<< n) % 2 ^ n = a := by
  rw [Nat.or_comm, ← Nat.shiftLeft_add_eq_or_of_lt h, Nat.shiftLeft_eq, Nat.mul_comm, Nat.mul_add_mod, Nat.mod_eq_of_lt h]

theorem lor_shiftLeft_shiftRight {a n : Nat} (h : a < 2 ^ n) (c : Nat) : (a ||| c <<< n) >>> n = c := by
  rw [Nat.or_comm, ← Nat.shiftLeft_add_eq_or_of_lt h, Nat.shiftLeft_eq, Nat.mul_comm, Nat.shiftRight_eq_div_pow,
    Nat.mul_add_div (Nat.two_pow_pos n), Nat.div_eq_of_lt h, Nat.add_zero]

/-! ## RS(544,514) (R195) -/

theorem rsDifference_rsEncode {m : Nat} (h : m < 2 ^ 5140) : rsDifference (rsEncode m) = [] := by
  unfold rsDifference rsEncode
  rw [lor_shiftLeft_mod h, lor_shiftLeft_shiftRight h, Nat.xor_self]
  rfl

/-- A codeword decodes to its message, with no symbol corrected. -/
theorem rsDecode_rsEncode {m : Nat} (h : m < 2 ^ 5140) : rsDecode (rsEncode m) = some (m, []) := by
  have hmsg : rsEncode m % 2 ^ 5140 = m := lor_shiftLeft_mod h _
  unfold rsDecode
  rw [rsDifference_rsEncode h, hmsg]

/-! ## Cells (R193) -/

theorem cellBits_lt (c : Cell) : cellBits c < 2 ^ 512 := by
  have hpay := natOfBytes_lt (c.payload.take 62)
  have hlen : 256 ^ (c.payload.take 62).length ≤ 256 ^ 62 := Nat.pow_le_pow_right (by decide) (List.length_take_le _ _)
  have hsplit : 2 ^ 512 = 65536 * 256 ^ 62 := by
    rw [show 65536 = 2 ^ 16 by rfl, show 256 = 2 ^ 8 by rfl, ← pow_mul, ← pow_add]
  have hhdr := c.hdr.isLt
  unfold cellBits
  omega

theorem cellOf_cellBits {c : Cell} (h : c.payload.length = 62) : cellOf (cellBits c) = c := by
  have hhdr := c.hdr.isLt
  have hshift : cellBits c >>> 16 = natOfBytes c.payload := by
    rw [cellBits, List.take_of_length_le h.le, Nat.shiftRight_eq_div_pow]
    omega
  have hlow : BitVec.ofNat 16 (cellBits c) = c.hdr := by
    apply BitVec.eq_of_toNat_eq
    rw [BitVec.toNat_ofNat, cellBits]
    omega
  rw [cellOf, hshift, hlow, ← h, bytesOfNat_natOfBytes]

/-! ## Slots of equal width -/

/-- Bit `i` of slots of `w` bits packed from the lowest up. -/
theorem testBit_packed (f : Nat → Nat) {w : Nat} (hw : 0 < w) (n i : Nat) :
    ((List.range n).foldl (fun a k => a ||| (f k % 2 ^ w) <<< (w * k)) 0).testBit i =
      (decide (i < w * n) && (f (i / w)).testBit (i % w)) := by
  induction n with
  | zero => simp
  | succ n ih =>
    have hdm := Nat.div_add_mod i w
    have hmod := Nat.mod_lt i hw
    rw [List.range_succ, List.foldl_append, List.foldl_cons, List.foldl_nil, Nat.testBit_or, ih, Nat.testBit_shiftLeft,
      Nat.testBit_mod_two_pow, Nat.mul_succ]
    rcases Nat.lt_trichotomy (i / w) n with hlt | heq | hgt
    · have hin : i < w * n := by
        have := Nat.mul_le_mul_left w (Nat.succ_le_of_lt hlt)
        rw [Nat.mul_succ] at this
        omega
      simp [hin, show ¬w * n ≤ i by omega, show i < w * n + w by omega]
    · rw [heq] at hdm
      have hsub : i - w * n = i % w := by omega
      simp [heq, hsub, hmod, show ¬i < w * n by omega, show w * n ≤ i by omega, show i < w * n + w by omega]
    · have hout : w * n + w ≤ i := by
        have := Nat.mul_le_mul_left w (Nat.succ_le_of_lt hgt)
        rw [Nat.mul_succ] at this
        omega
      simp [show ¬i < w * n by omega, show ¬i < w * n + w by omega, show ¬i - w * n < w by omega]

/-- Slot `k` of packed slots. -/
theorem slot_packed (f : Nat → Nat) {w n k : Nat} (hw : 0 < w) (hk : k < n) :
    (((List.range n).foldl (fun a k => a ||| (f k % 2 ^ w) <<< (w * k)) 0) >>> (w * k)) % 2 ^ w = f k % 2 ^ w := by
  apply Nat.eq_of_testBit_eq
  intro i
  rw [Nat.testBit_mod_two_pow, Nat.testBit_shiftRight, testBit_packed f hw, Nat.testBit_mod_two_pow]
  rcases Nat.lt_or_ge i w with hi | hi
  · have hin : w * k + i < w * n := by
      have := Nat.mul_le_mul_left w (Nat.succ_le_of_lt hk)
      rw [Nat.mul_succ] at this
      omega
    rw [Nat.mul_add_div hw, Nat.div_eq_of_lt hi, Nat.mul_add_mod, Nat.mod_eq_of_lt hi, decide_eq_true hin]
    simp
  · simp [Nat.not_lt.2 hi]

/-! ## The message of a codeword (R192, R195) -/

theorem cwHeader_lt (c : Codeword) : cwHeader c < 2 ^ 20 := by
  have hseq := c.seq.isLt
  have hack := c.ack.isLt
  have h1 := Bool.toNat_le c.nak
  have h2 := Bool.toNat_le c.rpl
  have h3 := Bool.toNat_le c.echo
  have h4 := Bool.toNat_le c.retx
  unfold cwHeader
  omega

/-- The fields of a header are those of every number whose lowest 20 bits it is. -/
theorem fields_of_cwHeader {c : Codeword} {m : Nat} (h : m % 2 ^ 20 = cwHeader c) :
    BitVec.ofNat 8 m = c.seq ∧ BitVec.ofNat 8 (m >>> 8) = c.ack ∧ m.testBit 16 = c.nak ∧ m.testBit 17 = c.rpl ∧
      m.testBit 18 = c.echo ∧ m.testBit 19 = c.retx := by
  have hseq := c.seq.isLt
  have hack := c.ack.isLt
  have h1 := Bool.toNat_le c.nak
  have h2 := Bool.toNat_le c.rpl
  have h3 := Bool.toNat_le c.echo
  have h4 := Bool.toNat_le c.retx
  have hbit {i : Nat} {b : Bool} (hb : m / 2 ^ i % 2 = b.toNat) : m.testBit i = b := by
    rw [Nat.testBit_eq_decide_div_mod_eq, hb]
    cases b <;> rfl
  unfold cwHeader at h
  refine ⟨?_, ?_, hbit (by omega), hbit (by omega), hbit (by omega), hbit (by omega)⟩
  all_goals
    apply BitVec.eq_of_toNat_eq
    rw [BitVec.toNat_ofNat]
  · omega
  · rw [Nat.shiftRight_eq_div_pow]
    omega

/-- A codeword's message reads back as the codeword. -/
theorem parseCodeword_cwMessage {c : Codeword} (hcells : c.cells.length = 10) (hpay : ∀ x ∈ c.cells, x.payload.length = 62) :
    parseCodeword (cwMessage c) = c := by
  obtain ⟨hseq, hack, hnak, hrpl, hecho, hretx⟩ :=
    fields_of_cwHeader (c := c) (m := cwMessage c) (lor_shiftLeft_mod (cwHeader_lt c) _)
  unfold parseCodeword
  dsimp only
  rw [hseq, hack, hnak, hrpl, hecho, hretx, cwMessage, lor_shiftLeft_shiftRight (cwHeader_lt c), Nat.xor_assoc, Nat.xor_self,
    Nat.xor_zero]
  have hread : ((List.range 10).map fun k => cellOf ((((List.range 10).foldl (fun a k =>
      a ||| ((cellBits (c.cells.getD k ⟨0, []⟩) % 2 ^ 512) <<< (512 * k))) 0) >>> (512 * k)) % 2 ^ 512)) = c.cells := by
    refine List.ext_getElem (by rw [List.length_map, List.length_range, hcells]) fun k hk hk' => ?_
    have hslot := slot_packed (fun k => cellBits (c.cells.getD k ⟨0, []⟩)) (w := 512) (n := 10) (by decide) (hcells ▸ hk')
    rw [List.getElem_map, List.getElem_range, hslot, Nat.mod_eq_of_lt (cellBits_lt _), List.getD_eq_getElem _ _ hk',
      cellOf_cellBits (hpay _ (List.getElem_mem hk'))]
  rw [hread]

end Sys2Proof.Machine
end

section
/-! Ports of the link: commands that act where a condition holds, what a port puts on its lanes, and codewords sent, received and
acknowledged (R191–R195, R205–R208, R221, R222). -/

open Sys2Proof Sys2Proof.Machine

namespace Sys2Proof.Machine

/-! ## Commands that act where a condition holds -/

section When

variable {c : Instr} {s t : State} {g : State → Bool} {f : State → State} (hup : s.up = true)
  (hexec : exec c s = s.ifUp fun u => u.when (g u) f)
include hup hexec

theorem exec_when (hg : g s = true) (ht : f s = t) : exec c s = .next t :=
  exec_ifUp hup hexec (by rw [hg, State.when_true, ht])

theorem exec_when_not (hg : g s = false) : exec c s = .next s := exec_ifUp hup hexec (by rw [hg, State.when_false])

theorem answers_when {Q : State → Prop} (hg : g s = true) (hQ : Q (f s)) : Answers c s Q := ⟨f s, exec_when hup hexec hg rfl, hQ⟩

end When

/-! ## What leaves on the lanes -/

/-- What is sent of each item of a list joins what has left the device. -/
theorem foldl_emit {α : Type} (f : α → Out) (l : List α) (s : State) :
    l.foldl (fun u x => u.emit (f x)) s = { s with out := (l.map f).reverse ++ s.out } := by
  induction l generalizing s with
  | nil => rfl
  | cons x l ih => rw [List.foldl_cons, ih, List.map_cons, List.reverse_cons, List.append_assoc]; rfl

theorem onPort_onPort (s : State) (p : Fin 4) (f g : LinkPort → LinkPort) : (s.onPort p f).onPort p g = s.onPort p (g ∘ f) := by
  have hport := port_onPort s p f
  unfold State.onPort at hport ⊢
  dsimp only at hport ⊢
  rw [hport, Vector.set_set]
  rfl

/-- What a port sends of the codeword `cw` to its `n` lanes, `x` a lane with its place (R191, R195). -/
def LinkPort.laneOut (l : LinkPort) (p : Fin 4) (cw : Codeword) (n : Nat) (x : Nat × Nat) : Out :=
  .line p x.1 (lineLevels l.ver (laneBits (rsEncode (cwMessage cw)) l.tx.phase n x.2))

/-- The transmit direction one codeword on, over `n` lanes. -/
def LinkPort.striped (n : Nat) (l : LinkPort) : LinkPort := { l with tx := l.tx.next n }

theorem sendCodeword_eq (s : State) (p : Fin 4) (cw : Codeword) {lanes : List Nat}
    (hlanes : lanes = maskLanes (s.get (F.ZL_STATUS_TX_LANES p))) : s.sendCodeword p cw =
      State.onPort { s with out := (lanes.zipIdx.map (s.link.port[p].laneOut p cw lanes.length)).reverse ++ s.out } p
        (LinkPort.striped lanes.length) := by
  subst hlanes
  rw [← foldl_emit]
  rfl

/-! ## Codewords out (R192–R194, R205) -/

/-- What the cells of a codeword leave of a port: all but its queues, its credits and its tokens. -/
def LinkPort.unsent (l : LinkPort) : LinkPort := { l with q1 := [], q2 := [], q3 := [], credits := 0, tokenId := 0, tokens := [] }

theorem tokenCell_unsent (l : LinkPort) (t : BitVec 48) : (l.tokenCell t).2.unsent = l.unsent := by
  unfold LinkPort.tokenCell LinkPort.unsent
  cases l.gotToken <;> rfl

theorem takeCell_unsent {l : LinkPort} {r : Cell × LinkPort} (h : l.takeCell = some r) : r.2.unsent = l.unsent := by
  unfold LinkPort.takeCell at h
  split at h
  · cases h
    rfl
  · split at h
    · cases h
      rfl
    · obtain ⟨x, -, rfl⟩ := Option.map_eq_some_iff.1 h
      rfl

/-- The cells fill the slots given, and leave the port but for its traffic. -/
theorem fill_spec (t : BitVec 48) (cw : Nat) (ks : List Nat) (l : LinkPort) :
    (LinkPort.fill t cw ks l).1.length = ks.length ∧ (LinkPort.fill t cw ks l).2.unsent = l.unsent := by
  induction ks generalizing l with
  | nil => exact ⟨rfl, rfl⟩
  | cons k ks ih =>
    unfold LinkPort.fill
    generalize hr : (if (10 * cw + k) % 512 = 0 then l.tokenCell t else
      match l.takeCell with
      | some r => r
      | none => (emptyCell, l)) = r
    have hkeep : r.2.unsent = l.unsent := by
      rw [← hr]
      split
      · exact tokenCell_unsent l t
      · split
        · exact takeCell_unsent ‹_›
        · rfl
    obtain ⟨hlen, hrest⟩ := ih r.2
    exact ⟨congrArg (· + 1) hlen, hrest.trans hkeep⟩

theorem newCodeword_tx_ver (l : LinkPort) (t : BitVec 48) (now : Nat) :
    (l.newCodeword t now).2.tx = l.tx ∧ (l.newCodeword t now).2.ver = l.ver := by
  have hfill := (fill_spec t l.cwSeq.toNat (List.range 10) l).2
  exact ⟨(congrArg LinkPort.tx hfill :), (congrArg LinkPort.ver hfill :)⟩

theorem newCodeword_cells (l : LinkPort) (t : BitVec 48) (now : Nat) : (l.newCodeword t now).1.cells.length = 10 :=
  (fill_spec t l.cwSeq.toNat (List.range 10) l).1

/-- What holds once the codeword `cw` has gone out (R191, R195). -/
theorem sendCodeword_sends {s : State} {p : Fin 4} {l : LinkPort} {cw : Codeword} {lanes : List Nat}
    (hlanes : lanes = maskLanes (s.get (F.ZL_STATUS_TX_LANES p))) (htx : l.tx = s.link.port[p].tx) (hver : l.ver = s.link.port[p].ver) :
    let t := (s.onPort p fun _ => l).sendCodeword p cw
    (t.link.port[p].tx = s.link.port[p].tx.next lanes.length ∧ t.regs = s.regs ∧
      ∀ x ∈ lanes.zipIdx, s.link.port[p].laneOut p cw lanes.length x ∈ t.out) ∧
    t.link.port[p] = { l with tx := s.link.port[p].tx.next lanes.length } := by
  have hout : LinkPort.laneOut l p cw lanes.length = s.link.port[p].laneOut p cw lanes.length := by
    funext x
    unfold LinkPort.laneOut
    rw [htx, hver]
  dsimp only
  rw [sendCodeword_eq _ p cw (show lanes = maskLanes ((s.onPort p fun _ => l).get (F.ZL_STATUS_TX_LANES p)) from hlanes)]
  rw [port_onPort]
  dsimp only
  rw [port_onPort, hout]
  refine ⟨⟨congrArg (Stripe.next · _) htx, rfl, fun x hx => ?_⟩, by rw [LinkPort.striped, htx]⟩
  exact List.mem_append_left _ (List.mem_reverse.2 (List.mem_map_of_mem hx))

theorem mayTransmit_of {s : State} {p : Fin 4} (hp : s.portUp p = true) (hmap : s.link.port[p].txRemap = none)
    (hdue : s.link.port[p].tx.units < 672) : s.mayTransmit p = true := by
  have hnot : s.link.port[p].tx.due = false := decide_eq_false (Nat.not_le.2 hdue)
  unfold State.mayTransmit
  rw [hp, hmap, hnot]
  rfl

theorem codewordTx_of_send {s : State} {p : Fin 4} {cw : Codeword} {l : LinkPort}
    (h : s.link.port[p].send (s.departure p) s.clock = some (cw, l)) :
    s.codewordTx p = (s.onPort p fun _ => l).sendCodeword p cw := by
  unfold State.codewordTx
  rw [h]

end Sys2Proof.Machine
end

section
/-! Codewords received, time tokens, and the statement on codewords (R205–R207, R221, R222). -/

open Sys2Proof Sys2Proof.Machine

namespace Sys2Proof.Machine

/-! ## Time tokens (R222) -/

/-- The time port depends on the time base's source, the ports' states and TIME_UP alone (R231). -/
theorem timePort_congr {s t : State} (hsrc : t.reg F.TB_CTL_addr = s.reg F.TB_CTL_addr)
    (hcfg : ∀ q : Fin 4, t.reg (F.ZL_CFG_addr q) = s.reg (F.ZL_CFG_addr q))
    (hstatus : ∀ q : Fin 4, t.reg (F.ZL_STATUS_addr q) = s.reg (F.ZL_STATUS_addr q)) : t.timePort = s.timePort := by
  have hup (q : Fin 4) : t.portUp q = s.portUp q :=
    congrArg (fun w => (F.ZL_STATUS_STATE q).of w == 2 || (F.ZL_STATUS_STATE q).of w == 3) (hstatus q)
  have htime (q : Fin 4) : t.bit (F.ZL_CFG_TIME_UP q) = s.bit (F.ZL_CFG_TIME_UP q) :=
    congrArg (fun w => (F.ZL_CFG_TIME_UP q).of w != 0) (hcfg q)
  have hget : t.get F.TB_CTL_SRC = s.get F.TB_CTL_SRC := congrArg F.TB_CTL_SRC.of hsrc
  unfold State.timePort
  rw [hget]
  simp only [hup, htime]

theorem timePort_put {s : State} {f : Field} (v : Nat) (hsrc : F.TB_CTL_addr ≠ f.addr) (hcfg : ∀ q : Fin 4, F.ZL_CFG_addr q ≠ f.addr)
    (hstatus : ∀ q : Fin 4, F.ZL_STATUS_addr q ≠ f.addr) : (s.put f v).timePort = s.timePort :=
  timePort_congr (reg_put_other _ _ _ _ hsrc) (fun q => reg_put_other _ _ _ _ (hcfg q)) fun q => reg_put_other _ _ _ _ (hstatus q)

/-- The port with the partner's token `k` that arrived at `t4`. -/
def LinkPort.tokenGot (k : TimeToken) (t4 : BitVec 48) (l : LinkPort) : LinkPort :=
  { l with gotToken := some ⟨k.id, t4.extractLsb' 16 32, t4.extractLsb' 0 16⟩ }

/-- The state with the exchange of token `k` measured against the token `x` that it echoes, `t4` its arrival (R222). -/
def State.exchanged (s : State) (p : Fin 4) (k : TimeToken) (x : SentToken) (t4 : BitVec 48) : State :=
  (((s.onPort p (LinkPort.tokenGot k t4)).putS (F.ZL_TT_DELAY_DELAY p)
    (ttDelay (x.ns ++ x.frac) (k.rxNs ++ k.rxFrac) (k.txNs ++ k.txFrac) t4)).putS (F.ZL_TT_OFFSET_OFFSET p)
    (ttOffset (x.ns ++ x.frac) (k.rxNs ++ k.rxFrac) (k.txNs ++ k.txFrac) t4 (s.getS (F.ZL_TT_ASYM_ASYM p) * 256))).wrapCount
    (F.ZL_TT_COUNT_GOOD p)

section Token

variable {s : State} {p : Fin 4} {k : TimeToken} {t4 : BitVec 48}

theorem timeToken_retx (h : k.retx = true) : s.timeToken p k t4 = s.count (F.ZL_TT_COUNT_BAD p) := if_pos h

theorem timeToken_unknown (h : k.retx = false) (hnone : s.link.port[p].tokens.find? (fun x => x.id == k.echoId) = none) :
    s.timeToken p k t4 = (s.onPort p (LinkPort.tokenGot k t4)).count (F.ZL_TT_COUNT_BAD p) := by
  unfold State.timeToken
  rw [if_neg (Bool.eq_false_iff.1 h), hnone]
  rfl

theorem timeToken_known {x : SentToken} (h : k.retx = false)
    (hx : s.link.port[p].tokens.find? (fun x => x.id == k.echoId) = some x) : s.timeToken p k t4 =
      let t := s.exchanged p k x t4
      if t.timePort = some p then t.measure (t.getS (F.ZL_TT_OFFSET_OFFSET p)) else t := by
  unfold State.timeToken
  rw [if_neg (Bool.eq_false_iff.1 h), hx]
  rfl

theorem exchanged_timePort (x : SentToken) : (s.exchanged p k x t4).timePort = s.timePort := by
  unfold State.exchanged State.putS State.wrapCount
  have hput (u : State) {f : Field} (v : Nat) (hf : f.addr ∈ [F.ZL_TT_DELAY_addr p, F.ZL_TT_OFFSET_addr p, F.ZL_TT_COUNT_addr p]) :
      (u.put f v).timePort = u.timePort := by
    simp only [List.mem_cons, List.not_mem_nil, or_false] at hf
    unfold F.ZL_TT_DELAY_addr F.ZL_TT_OFFSET_addr F.ZL_TT_COUNT_addr at hf
    refine timePort_put v ?_ (fun q => ?_) (fun q => ?_)
    · unfold F.TB_CTL_addr
      omega
    · unfold F.ZL_CFG_addr
      omega
    · unfold F.ZL_STATUS_addr
      omega
  rw [hput _ _ (by simp), hput _ _ (by simp), hput _ _ (by simp)]
  rfl

end Token

/-! ## What the cells of a codeword leave of the exchange (R193, R205) -/

/-- What port `p` has received in order, what it answers, the errors it has noted and LANE_LIMIT are those of `s`. -/
structure ExchangeKept (p : Fin 4) (s t : State) : Prop where
  rxSeq : t.link.port[p].rxSeq = s.link.port[p].rxSeq
  nak : t.link.port[p].nak = s.link.port[p].nak
  echo : t.link.port[p].echo = s.link.port[p].echo
  acked : t.link.port[p].acked = s.link.port[p].acked
  corr : t.link.port[p].corr = s.link.port[p].corr
  limit : t.reg (F.ZL_LANE_LIMIT_addr p) = s.reg (F.ZL_LANE_LIMIT_addr p)

namespace ExchangeKept

variable {p : Fin 4} {s t u : State}

theorem refl (p : Fin 4) (s : State) : ExchangeKept p s s := ⟨rfl, rfl, rfl, rfl, rfl, rfl⟩

theorem trans (h : ExchangeKept p s t) (k : ExchangeKept p t u) : ExchangeKept p s u :=
  ⟨k.rxSeq.trans h.rxSeq, k.nak.trans h.nak, k.echo.trans h.echo, k.acked.trans h.acked, k.corr.trans h.corr, k.limit.trans h.limit⟩

theorem of_linkKept (h : LinkKept s t) : ExchangeKept p s t :=
  ⟨h.port p LinkPort.rxSeq fun _ => rfl, h.port p LinkPort.nak fun _ => rfl, h.port p LinkPort.echo fun _ => rfl,
    h.port p LinkPort.acked fun _ => rfl, h.port p LinkPort.corr fun _ => rfl,
    h.portReg p (by simp [portRegs])⟩

theorem onPort {f : LinkPort → LinkPort}
    (h : (f s.link.port[p]).rxSeq = s.link.port[p].rxSeq ∧ (f s.link.port[p]).nak = s.link.port[p].nak ∧
      (f s.link.port[p]).echo = s.link.port[p].echo ∧ (f s.link.port[p]).acked = s.link.port[p].acked ∧
      (f s.link.port[p]).corr = s.link.port[p].corr) : ExchangeKept p s (s.onPort p f) := by
  obtain ⟨hseq, hnak, hecho, hacked, hcorr⟩ := h
  rw [← port_onPort s p f] at hseq hnak hecho hacked hcorr
  exact ⟨hseq, hnak, hecho, hacked, hcorr, rfl⟩

theorem put {f : Field} (v : Nat) (h : F.ZL_LANE_LIMIT_addr p ≠ f.addr) : ExchangeKept p s (s.put f v) :=
  ⟨rfl, rfl, rfl, rfl, rfl, reg_put_other _ _ _ _ h⟩

theorem timeToken (k : TimeToken) (t4 : BitVec 48) : ExchangeKept p s (s.timeToken p k t4) := by
  have hcount (u : State) {f : Field} (v : Nat) (hf : f.addr = F.ZL_TT_COUNT_addr p) : ExchangeKept p u (u.put f v) :=
    put v (by rw [hf]; simp)
  have hgot : ExchangeKept p s (s.onPort p (LinkPort.tokenGot k t4)) := onPort ⟨rfl, rfl, rfl, rfl, rfl⟩
  cases h : k.retx with
  | true =>
    rw [timeToken_retx h]
    exact hcount _ _ rfl
  | false =>
    cases hx : s.link.port[p].tokens.find? (fun x => x.id == k.echoId) with
    | none =>
      rw [timeToken_unknown h hx]
      exact hgot.trans (hcount _ _ rfl)
    | some x =>
      have hexchanged : ExchangeKept p s (s.exchanged p k x t4) :=
        ((hgot.trans (put _ (by simp))).trans (put _ (by simp))).trans (hcount _ _ rfl)
      rw [timeToken_known h hx]
      dsimp only
      split
      · exact hexchanged.trans (of_linkKept ((LinkKept.refl _).measure _))
      · exact hexchanged

theorem badPackets (n : Nat) : ExchangeKept p s (s.badPackets p n) := by
  unfold State.badPackets
  split
  · exact refl p s
  · exact of_linkKept (((LinkKept.refl s).putDrop _ _ (drop_mem_raiseRegs p)).raise _ (by have := p.isLt; unfold srcLink; omega))

theorem cellIn (retx : Bool) (c : Cell) : ExchangeKept p s (s.cellIn p retx c) := by
  unfold State.cellIn
  split
  · exact timeToken _ _
  · refine trans (onPort ?_) (badPackets _)
    unfold LinkPort.takeIn
    dsimp only
    split
    · exact ⟨rfl, rfl, rfl, rfl, rfl⟩
    · split <;> exact ⟨rfl, rfl, rfl, rfl, rfl⟩

theorem cellsIn (retx : Bool) (l : List Cell) : ExchangeKept p s (l.foldl (fun u c => u.cellIn p retx c) s) :=
  foldl_rel (refl p) trans (fun _ c => cellIn retx c) l s

end ExchangeKept

end Sys2Proof.Machine
end

section
/-! Codewords received in and out of order, and the statement on codewords (R191–R195, R205–R207, R221, R222). -/

open Sys2Proof Sys2Proof.Machine

namespace Sys2Proof.Machine

/-! ## A port that hears a codeword (R196, R205, R206) -/

/-- A correction at `e` is not yet forgotten at `now` (R207). -/
def recent (now : Nat) (e : Nat × Nat × Nat) : Bool := decide (now ≤ e.2.1 + 10000)

/-- The port once it has decoded a codeword without errors on the receive lanes `lanes`, which acknowledges up to `a`. -/
def LinkPort.heard (now lanes : Nat) (a : BitVec 8) (l : LinkPort) : LinkPort :=
  let b := l.boundary lanes
  LinkPort.ackTo { b with rx := b.rx.next (maskLanes lanes).length, corr := b.corr.filter (recent now) } a

/-- The port with a codeword taken in order. -/
def LinkPort.inOrder (cw : Codeword) (l : LinkPort) : LinkPort := { l with rxSeq := cw.seq, echo := cw.rpl, nak := false }

/-- The port with a codeword out of order discarded. -/
def LinkPort.outOfOrder (l : LinkPort) : LinkPort := { l with nak := true }

theorem boundary_eq (l : LinkPort) (lanes : Nat) : ∃ rx missed, l.boundary lanes = { l with rx := rx, missed := missed } := by
  unfold LinkPort.boundary
  split
  · exact ⟨_, _, rfl⟩
  · exact ⟨l.rx, l.missed, rfl⟩

theorem ackTo_eq (l : LinkPort) (a : BitVec 8) :
    ∃ replay resend, l.ackTo a = { l with acked := a, replay := replay, resend := resend } := by
  unfold LinkPort.ackTo
  split
  · exact ⟨_, _, rfl⟩
  · exact ⟨l.replay, l.resend, rfl⟩

theorem heard_eq (now lanes : Nat) (a : BitVec 8) (l : LinkPort) : ∃ rx missed replay resend, l.heard now lanes a =
    { l with rx := rx, missed := missed, replay := replay, resend := resend, acked := a, corr := l.corr.filter (recent now) } := by
  unfold LinkPort.heard
  obtain ⟨rx, missed, hb⟩ := boundary_eq l lanes
  rw [hb]
  obtain ⟨replay, resend, ha⟩ := ackTo_eq { l with
    rx := rx.next (maskLanes lanes).length, missed := missed, corr := l.corr.filter (recent now) } a
  exact ⟨_, _, _, _, ha⟩

/-- No lane is bad while fewer errors are noted than before. -/
theorem badLane_none {s t : State} {p : Fin 4} (hlimit : t.reg (F.ZL_LANE_LIMIT_addr p) = s.reg (F.ZL_LANE_LIMIT_addr p))
    (hcorr : t.link.port[p].corr.Sublist s.link.port[p].corr) (h : s.badLane p = none) : t.badLane p = none := by
  have hget : t.get (F.ZL_LANE_LIMIT_LIMIT p) = s.get (F.ZL_LANE_LIMIT_LIMIT p) := congrArg (F.ZL_LANE_LIMIT_LIMIT p).of hlimit
  refine List.find?_eq_none.2 fun i hi => ?_
  have hle := List.find?_eq_none.1 h i hi
  rw [decide_eq_true_eq, Nat.not_lt] at hle ⊢
  rw [hget]
  exact ((hcorr.filter _).map _).sum_le_sum (fun _ _ => Nat.zero_le _) |>.trans hle

/-! ## What the lanes carry (R205) -/

theorem codewordRx_clean {u t : State} {p : Fin 4} {cw : Codeword} (hnak : cw.nak = false)
    (ht : t = if cw.seq = ((u.noteErrors p []).onPort p (·.ackTo cw.ack)).link.port[p].rxSeq + 1 then
        cw.cells.foldl (fun u c => u.cellIn p cw.retx c) (((u.noteErrors p []).onPort p (·.ackTo cw.ack)).onPort p (LinkPort.inOrder cw))
      else ((u.noteErrors p []).onPort p (·.ackTo cw.ack)).onPort p LinkPort.outOfOrder)
    (hbad : t.badLane p = none) : u.codewordRx p cw [] = t := by
  have hack : (u.noteErrors p []).ackNak p cw = (u.noteErrors p []).onPort p (·.ackTo cw.ack) := by
    unfold State.ackNak
    rw [hnak]
    rfl
  unfold State.codewordRx
  dsimp only
  rw [hack]
  unfold LinkPort.inOrder LinkPort.outOfOrder at ht
  rw [← ht, hbad]

section Line

variable {s : State} {p : Fin 4} {line : List (List (BitVec 2))}

theorem lineIn_lost {i : Fin 4} (hlost : (s.onPort p (·.boundary (s.get (F.ZL_STATUS_RX_LANES p)))).lostLane p = some i) :
    s.lineIn p line = (s.onPort p (·.boundary (s.get (F.ZL_STATUS_RX_LANES p)))).failLane p i := by
  unfold State.lineIn
  dsimp only
  rw [hlost]

variable (hlost : (s.onPort p (·.boundary (s.get (F.ZL_STATUS_RX_LANES p)))).lostLane p = none)
include hlost

theorem lineIn_undecoded (hdec : (s.onPort p (·.boundary (s.get (F.ZL_STATUS_RX_LANES p)))).decodeLine p line = none) :
    s.lineIn p line = (s.onPort p (·.boundary (s.get (F.ZL_STATUS_RX_LANES p)))).onPort p
      fun l => { l with rx := l.rx.next (maskLanes (s.get (F.ZL_STATUS_RX_LANES p))).length } := by
  unfold State.lineIn
  dsimp only
  rw [hlost, hdec]

variable {cw : Codeword}
  (hdec : (s.onPort p (·.boundary (s.get (F.ZL_STATUS_RX_LANES p)))).decodeLine p line = some (cw, [])) (hnak : cw.nak = false)
include hdec hnak

/-- A codeword without errors or NAK is heard, and taken in order or discarded, where no lane is bad then. -/
theorem lineIn_clean {t : State}
    (ht : t = if cw.seq = s.link.port[p].rxSeq + 1 then cw.cells.foldl (fun u c => u.cellIn p cw.retx c)
        (s.onPort p (LinkPort.inOrder cw ∘ LinkPort.heard s.clock (s.get (F.ZL_STATUS_RX_LANES p)) cw.ack))
      else s.onPort p (LinkPort.outOfOrder ∘ LinkPort.heard s.clock (s.get (F.ZL_STATUS_RX_LANES p)) cw.ack))
    (hbad : t.badLane p = none) : s.lineIn p line = t := by
  unfold State.lineIn
  dsimp only
  rw [hlost, hdec]
  dsimp only
  have hheard : (State.noteErrors ((s.onPort p (·.boundary (s.get (F.ZL_STATUS_RX_LANES p)))).onPort p
      fun l => { l with rx := l.rx.next (maskLanes (s.get (F.ZL_STATUS_RX_LANES p))).length }) p []).onPort p (·.ackTo cw.ack) =
      s.onPort p (LinkPort.heard s.clock (s.get (F.ZL_STATUS_RX_LANES p)) cw.ack) := by
    unfold State.noteErrors
    rw [onPort_onPort, onPort_onPort, onPort_onPort]
    congr 1
  refine codewordRx_clean hnak ?_ hbad
  rw [hheard, onPort_onPort, onPort_onPort, port_onPort, ht]
  obtain ⟨rx, missed, replay, resend, h⟩ := heard_eq s.clock (s.get (F.ZL_STATUS_RX_LANES p)) cw.ack s.link.port[p]
  rw [h]

variable (hok : s.badLane p = none)
include hok

theorem lineIn_inOrder (hseq : cw.seq = s.link.port[p].rxSeq + 1) :
    (s.lineIn p line).link.port[p].rxSeq = cw.seq ∧ (s.lineIn p line).link.port[p].nak = false ∧
      (s.lineIn p line).link.port[p].echo = cw.rpl ∧ (s.lineIn p line).link.port[p].acked = cw.ack := by
  obtain ⟨rx, missed, replay, resend, hheard⟩ := heard_eq s.clock (s.get (F.ZL_STATUS_RX_LANES p)) cw.ack s.link.port[p]
  have hport := port_onPort s p (LinkPort.inOrder cw ∘ LinkPort.heard s.clock (s.get (F.ZL_STATUS_RX_LANES p)) cw.ack)
  rw [Function.comp_apply, hheard] at hport
  have hkept := ExchangeKept.cellsIn (p := p)
    (s := s.onPort p (LinkPort.inOrder cw ∘ LinkPort.heard s.clock (s.get (F.ZL_STATUS_RX_LANES p)) cw.ack)) cw.retx cw.cells
  rw [lineIn_clean hlost hdec hnak (if_pos hseq).symm (badLane_none (s := s) hkept.limit ?_ hok)]
  · exact ⟨hkept.rxSeq.trans (congrArg LinkPort.rxSeq hport), hkept.nak.trans (congrArg LinkPort.nak hport),
      hkept.echo.trans (congrArg LinkPort.echo hport), hkept.acked.trans (congrArg LinkPort.acked hport)⟩
  · rw [hkept.corr, hport]
    exact List.filter_sublist

theorem lineIn_outOfOrder (hseq : cw.seq ≠ s.link.port[p].rxSeq + 1) :
    (s.lineIn p line).link.port[p].rxSeq = s.link.port[p].rxSeq ∧ (s.lineIn p line).link.port[p].nak = true ∧
      (s.lineIn p line).link.port[p].acked = cw.ack ∧ (s.lineIn p line).link.port[p].rxPkts = s.link.port[p].rxPkts := by
  obtain ⟨rx, missed, replay, resend, hheard⟩ := heard_eq s.clock (s.get (F.ZL_STATUS_RX_LANES p)) cw.ack s.link.port[p]
  have hport := port_onPort s p (LinkPort.outOfOrder ∘ LinkPort.heard s.clock (s.get (F.ZL_STATUS_RX_LANES p)) cw.ack)
  rw [Function.comp_apply, hheard] at hport
  rw [lineIn_clean hlost hdec hnak (if_neg hseq).symm (badLane_none (s := s) rfl ?_ hok)]
  · rw [hport]
    exact ⟨rfl, rfl, rfl, rfl⟩
  · rw [hport]
    exact List.filter_sublist

end Line

/-! ## The statement -/

/-- A new codeword: the next number, the fields of the present, and a place in the replay buffer (R194, R205). -/
theorem codewordTx_new {s : State} {p : Fin 4} (hresend : s.link.port[p].resend = []) (hroom : s.link.port[p].replay.length < 128) :
    s.codewordTx p = (s.onPort p fun _ => (s.link.port[p].newCodeword (s.departure p) s.clock).2).sendCodeword p
      (s.link.port[p].newCodeword (s.departure p) s.clock).1 := by
  refine codewordTx_of_send ?_
  unfold LinkPort.send
  rw [hresend]
  exact (if_pos hroom).trans (congrArg some (Prod.mk.eta).symm)

/-- The port with the codeword `q` sent again, `rest` still to send (R205). -/
def LinkPort.resent (q : BitVec 8) (rest : List (BitVec 8)) (l : LinkPort) : LinkPort :=
  { l with resend := rest, cwCount := l.cwCount + 1,
           replay := l.replay.map fun r => if r.cw.seq = q then { r with sends := r.sends + 1 } else r }

/-- A codeword of the replay buffer with the fields of the present and RETX (R205). -/
def LinkPort.renewed (l : LinkPort) (cw : Codeword) : Codeword :=
  { cw with ack := l.rxSeq, nak := l.nak, rpl := l.rpl, echo := l.echo, retx := true }

theorem codewordTx_replay {s : State} {p : Fin 4} {q : BitVec 8} {rest : List (BitVec 8)} {r : TxCodeword}
    (hresend : s.link.port[p].resend = q :: rest) (hfind : s.link.port[p].replay.find? (fun r => r.cw.seq == q) = some r) :
    s.codewordTx p = (s.onPort p fun _ => s.link.port[p].resent q rest).sendCodeword p (s.link.port[p].renewed r.cw) := by
  refine codewordTx_of_send ?_
  unfold LinkPort.send
  rw [hresend]
  dsimp only
  unfold LinkPort.sendAgain
  rw [hfind]
  rfl

theorem exec_codewordRx {s t : State} {p : Fin 4} {line : List (List (BitVec 2))} (hup : s.up = true) (hp : s.portUp p = true)
    (ht : s.lineIn p line = t) : exec (.codewordRx p line) s = .next t :=
  exec_when (g := (·.portUp p)) (f := (·.lineIn p line)) hup rfl hp ht

theorem exec_timeTokenRx {s t : State} {p : Fin 4} {k : TimeToken} (hup : s.up = true) (hp : s.portUp p = true)
    (ht : s.timeToken p k (s.arrival p) = t) : exec (.timeTokenRx p k) s = .next t :=
  exec_when (g := (·.portUp p)) (f := fun u => u.timeToken p k (u.arrival p)) hup rfl hp ht

/-- Settles O36: the code and the fields of a codeword read back; what is sent and received follows the port's exchange, and the
cells of a codeword leave the exchange as it is. -/
theorem codewordsInOrder : Obligations.CodewordsInOrder := by
  unfold Obligations.CodewordsInOrder
  refine ⟨fun m hm => rsDecode_rsEncode hm, fun cw hlen hpay => parseCodeword_cwMessage hlen hpay, ?_, ?_, ?_⟩
  · intro s p lanes sends hup hp hmap hdue hlanes hsends
    subst hsends
    have hmay := mayTransmit_of hp hmap hdue
    refine ⟨fun hresend hroom => ?_, fun q l r hresend hfind => ?_⟩
    · obtain ⟨htx, hver⟩ := newCodeword_tx_ver s.link.port[p] (s.departure p) s.clock
      obtain ⟨hsent, hport⟩ := sendCodeword_sends (cw := (s.link.port[p].newCodeword (s.departure p) s.clock).1) hlanes htx hver
      refine answers_when (g := (·.mayTransmit p)) (f := (·.codewordTx p)) hup rfl hmay ?_
      rw [codewordTx_new hresend hroom]
      refine ⟨_, hsent, rfl, rfl, rfl, rfl, rfl, rfl, newCodeword_cells _ _ _, ?_, ?_⟩
      · rw [hport]
        rfl
      · rw [hport]
        rfl
    · obtain ⟨hsent, hport⟩ := sendCodeword_sends (l := s.link.port[p].resent q l) (cw := s.link.port[p].renewed r.cw) hlanes rfl rfl
      refine answers_when (g := (·.mayTransmit p)) (f := (·.codewordTx p)) hup rfl hmay ?_
      rw [codewordTx_replay hresend hfind]
      refine ⟨_, hsent, ?_, rfl, rfl, rfl, ?_, ?_⟩
      · have hseq := List.find?_some hfind
        exact eq_of_beq hseq
      · rw [hport]
        rfl
      · rw [hport]
        rfl
  · intro s b p line cw hup hp hb
    subst hb
    refine ⟨fun i hlost => exec_codewordRx hup hp (lineIn_lost hlost),
      fun hlost hdec => exec_codewordRx hup hp (lineIn_undecoded hlost hdec), ?_⟩
    intro hlost hdec hok hnak
    exact ⟨fun hseq => ⟨_, exec_codewordRx hup hp rfl, lineIn_inOrder hlost hdec hnak hok hseq⟩,
      fun hseq => ⟨_, exec_codewordRx hup hp rfl, lineIn_outOfOrder hlost hdec hnak hok hseq⟩⟩
  · intro s p k t4 hup hp ht4
    subst ht4
    refine ⟨fun hretx => exec_timeTokenRx hup hp (timeToken_retx hretx),
      fun hretx hnone => exec_timeTokenRx hup hp (timeToken_unknown hretx hnone),
      fun x hretx hx hport => exec_timeTokenRx hup hp ?_⟩
    rw [timeToken_known hretx hx]
    dsimp only
    rw [exchanged_timePort, if_neg hport]
    rfl

end Sys2Proof.Machine
end

section
/-! A port that trains, goes down and comes up: what each of these steps does to the port and its registers (R197, R202, R207). -/

open Sys2Proof Sys2Proof.Machine

namespace Sys2Proof.Machine

/-! ## Onward: no status bit and nothing sent is taken back, within one instant and mode -/

/-- What has left the device in `s` has left it in `t`. -/
def OutsKept (s t : State) : Prop := ∀ o ∈ s.out, o ∈ t.out

theorem raiseRel_outsKept : RaiseRel OutsKept where
  refl _ _ h := h
  trans _ _ _ h k o ho := k o (h o ho)
  status s n _ := by
    unfold State.setStatus
    split <;> exact fun _ h => h
  drop _ _ _ h := h
  route _ _ h := h
  port _ _ _ _ h := h
  store s a w o h := by
    rw [storeWord_eq]
    exact h
  unit _ _ _ h := h
  ptr _ _ _ _ _ h := h
  pin _ _ h := h
  out _ _ _ h := List.mem_cons_of_mem _ h

/-- From `s` to `t` within one instant and mode, where no status bit is cleared and nothing sent is taken back. -/
structure Onward (s t : State) : Prop where
  mode : t.mode = s.mode
  clock : t.clock = s.clock
  status : StatusKept s t
  outs : OutsKept s t

namespace Onward

variable {b s t u : State}

theorem refl (s : State) : Onward s s := ⟨rfl, rfl, fun _ _ h => h, fun _ h => h⟩

theorem trans (h : Onward s t) (k : Onward t u) : Onward s u :=
  ⟨k.mode.trans h.mode, k.clock.trans h.clock, fun n hn hs => k.status n hn (h.status n hn hs), fun o ho => k.outs o (h.outs o ho)⟩

theorem setReg (h : Onward b s) (a : Nat) (w : Word) (ha : 0x20000 ≤ a) : Onward b (s.setReg a w) :=
  h.trans ⟨rfl, rfl, statusKept_setReg w fun g hg => by unfold F.EVT_STAT_addr; omega, fun _ ho => ho⟩

theorem put (h : Onward b s) (f : Field) (v : Nat) (hf : 0x20000 ≤ f.addr) : Onward b (s.put f v) := h.setReg _ _ hf

theorem onPort (h : Onward b s) (p : Fin 4) (f : LinkPort → LinkPort) : Onward b (s.onPort p f) :=
  h.trans ⟨rfl, rfl, fun _ _ hs => hs, fun _ ho => ho⟩

/-- An update that keeps the mode, the clock, the registers and what was sent. -/
theorem same (h : Onward b s) (hmode : t.mode = s.mode) (hclock : t.clock = s.clock) (hregs : t.regs = s.regs)
    (hout : ∀ o ∈ s.out, o ∈ t.out) : Onward b t :=
  h.trans ⟨hmode, hclock, fun n _ hs => (congrArg (fun r => (assocGet (RegMap.reset (F.EVT_STAT_addr (n / 32)))
    (F.EVT_STAT_addr (n / 32)) r).getLsbD (n % 32)) hregs).trans hs, hout⟩

theorem raise (h : Onward b s) (n : Nat) (hn : n < 1024) : Onward b (s.raise n) :=
  h.trans ⟨raise_mode hn, (congrArg State.clock (raise_frame hn) :), raise_statusKept hn, raiseRel_outsKept.raise hn⟩

theorem ite {c : Prop} [Decidable c] (hs : Onward b s) (ht : Onward b t) : Onward b (if c then s else t) := by
  split <;> assumption

theorem raiseIf (h : Onward b s) (c : Bool) (n : Nat) (hn : n < 1024) : Onward b (s.raiseIf c n) := ite (h.raise n hn) h

end Onward

/-- The events of a port. -/
theorem srcLink_lt (p : Fin 4) {k : Nat} (h : k < 48) : srcLink p k < 1024 := by
  have := p.isLt
  unfold srcLink
  omega

/-- The registers of a port lie above the event block. -/
theorem zl_ge (k p : Nat) : 0x20000 ≤ 0x40000 + k + 16384 * p := by omega

/-! ## Parts of going down -/

variable {s : State} {p : Fin 4}

theorem reg_of_regs {s t : State} (h : t.regs = s.regs) (a : Nat) : t.reg a = s.reg a := by
  unfold State.reg
  rw [h]

theorem reg_onPort (q : Fin 4) (f : LinkPort → LinkPort) (a : Nat) : (s.onPort q f).reg a = s.reg a :=
  reg_of_regs (State.onPort_regs ..) a

theorem get_onPort (q : Fin 4) (f : LinkPort → LinkPort) (g : Field) : (s.onPort q f).get g = s.get g :=
  congrArg g.of (reg_onPort q f g.addr)

theorem setLink_link (state lanes : Nat) : (s.setLink p state lanes).link = s.link := by
  unfold State.setLink
  rw [State.put_link, State.put_link, State.put_link]

theorem setLink_reg (state lanes : Nat) {a : Nat} (h : a ≠ F.ZL_STATUS_addr p) : (s.setLink p state lanes).reg a = s.reg a := by
  unfold State.setLink
  rw [reg_put_other _ _ _ _ h, reg_put_other _ _ _ _ h, reg_put_other _ _ _ _ h]

theorem setLink_state {state : Nat} (lanes : Nat) (h : state < 8) : (s.setLink p state lanes).get (F.ZL_STATUS_STATE p) = state := by
  unfold State.setLink
  rw [State.get_put_other _ _ _ _ (by simp) (by simp), State.get_put_other _ _ _ _ (by simp) (by simp), State.get_put _ _ _ (by simp)]
  exact Nat.mod_eq_of_lt h

theorem setLink_rx (state lanes : Nat) : (s.setLink p state lanes).get (F.ZL_STATUS_RX_LANES p) = lanes % 16 := by
  unfold State.setLink
  rw [State.get_put_other _ _ _ _ (by simp) (by simp), State.get_put _ _ _ (by simp)]
  rfl

theorem setLink_tx (state lanes : Nat) : (s.setLink p state lanes).get (F.ZL_STATUS_TX_LANES p) = lanes % 16 := by
  unfold State.setLink
  rw [State.get_put _ _ _ (by simp)]
  rfl

theorem setLink_onward (state lanes : Nat) : Onward s (s.setLink p state lanes) :=
  (((Onward.refl s).put _ _ (zl_ge 4 p)).put _ _ (zl_ge 4 p)).put _ _ (zl_ge 4 p)

theorem portUp_of_state {state : Nat} (h : s.get (F.ZL_STATUS_STATE p) = state) (hstate : state < 2) : s.portUp p = false := by
  unfold State.portUp
  rw [h]
  have h2 : (state == 2) = false := beq_eq_false_iff_ne.2 (by omega)
  have h3 : (state == 3) = false := beq_eq_false_iff_ne.2 (by omega)
  rw [h2, h3]
  rfl

theorem badPackets_kept (n : Nat) : LinkKept s (s.badPackets p n) ∧ Onward s (s.badPackets p n) := by
  unfold State.badPackets
  split
  · exact ⟨LinkKept.refl s, Onward.refl s⟩
  · exact ⟨((LinkKept.refl s).putDrop _ _ (drop_mem_raiseRegs p)).raise _ (srcLink_lt p (by decide)),
      ((Onward.refl s).put _ _ (zl_ge 24 p)).raise _ (srcLink_lt p (by decide))⟩

theorem discardQueues_kept : LinkKept (s.onPort p LinkPort.cleared) (s.discardQueues p) ∧ Onward s (s.discardQueues p) := by
  obtain ⟨hkept, honward⟩ := badPackets_kept (s := s.onPort p LinkPort.cleared) (p := p) s.link.port[p].broken
  have honward := ((Onward.refl s).onPort p LinkPort.cleared).trans honward
  unfold State.discardQueues
  dsimp only
  split
  · exact ⟨hkept, honward⟩
  · exact ⟨(hkept.putDrop _ _ (drop_mem_raiseRegs p)).raise _ (srcLink_lt p (by decide)),
      (honward.put _ _ (zl_ge 24 p)).raise _ (srcLink_lt p (by decide))⟩

theorem retimePort_kept (before : Option (Fin 4)) : LinkKept s (s.retimePort before) ∧ Onward s (s.retimePort before) := by
  have htime : LinkKept s { s with tb := { s.tb with lastMeas := s.clock } } := LinkKept.refl s
  have hnow : Onward s { s with tb := { s.tb with lastMeas := s.clock } } := (Onward.refl s).same rfl rfl rfl fun _ ho => ho
  unfold State.retimePort
  split
  · split
    · exact ⟨LinkKept.refl s, Onward.refl s⟩
    · exact ⟨(htime.put _ _ (by decide)).raise _ (by decide), (hnow.put _ _ (by simp)).raise _ (by decide)⟩
  · exact ⟨htime.put _ _ (by decide), hnow.put _ _ (by simp)⟩
  · exact ⟨LinkKept.refl s, Onward.refl s⟩

/-! ## A port leaves the up state (R207) -/

/-- The port with the results of its training kept: its version and `lanes` (R202). -/
def LinkPort.keeping (lanes : Nat) (l : LinkPort) : LinkPort := { l with kept := some (l.ver, lanes) }

/-- What holds of state `t` where port `p` of `s` has gone to `state`, `l` left of the port. -/
structure TakenDown (p : Fin 4) (state : Nat) (l : LinkPort) (s t : State) : Prop where
  onward : Onward s t
  state : t.get (F.ZL_STATUS_STATE p) = state
  reg : ∀ a ∈ portRegs p, a ≠ F.ZL_STATUS_addr p → t.reg a = s.reg a
  port : t.link.port[p] = l

theorem discardQueues_takenDown {state : Nat} (hstate : state < 2) :
    TakenDown p state s.link.port[p].cleared s ((s.setLink p state 0).discardQueues p) := by
  obtain ⟨hkept, honward⟩ := discardQueues_kept (s := s.setLink p state 0) (p := p)
  have hset : ((s.setLink p state 0).onPort p LinkPort.cleared).get (F.ZL_STATUS_STATE p) = state := by
    rw [get_onPort, setLink_state 0 (by omega)]
  refine ⟨(setLink_onward state 0).trans honward, ?_, fun a ha hs => ?_, ?_⟩
  · rw [hkept.state, hset]
  · rw [hkept.portReg p ha, reg_onPort, setLink_reg _ _ hs]
  · rw [hkept.portDown (portUp_of_state hset hstate), port_onPort, setLink_link]

/-- What holds of state `t` where port `p` of `s` has left the up state to `state`, `l` left of the port. -/
structure LeftUp (p : Fin 4) (state : Nat) (l : LinkPort) (s t : State) : Prop where
  onward : Onward s t
  state : t.get (F.ZL_STATUS_STATE p) = state
  cfg : t.reg (F.ZL_CFG_addr p) = s.reg (F.ZL_CFG_addr p)
  port : t.link.port[p] = l
  retrains : t.get (F.ZL_ERR_RETRAINS p) = min (s.get (F.ZL_ERR_RETRAINS p) + 1) (2 ^ (F.ZL_ERR_RETRAINS p).w - 1)
  event : t.evStatus (srcLink p 1) = true

/-- The retrain counted, event 1, and the time port chosen again. -/
theorem TakenDown.leftUp {state : Nat} {l : LinkPort} {d : State} (h : TakenDown p state l s d) (hstate : state < 2)
    (before : Option (Fin 4)) :
    LeftUp p state l s (((d.count (F.ZL_ERR_RETRAINS p)).raise (srcLink p 1)).retimePort before) := by
  have hlt : srcLink p 1 < 1024 := srcLink_lt p (by decide)
  have hcount : (d.count (F.ZL_ERR_RETRAINS p)).get (F.ZL_STATUS_STATE p) = state := by
    rw [State.count, State.countBy, State.get_put_other _ _ _ _ (by simp) (by simp), h.state]
  obtain ⟨htime, htnow⟩ := retimePort_kept (s := (d.count (F.ZL_ERR_RETRAINS p)).raise (srcLink p 1)) before
  have hkept := ((LinkKept.refl (d.count (F.ZL_ERR_RETRAINS p))).raise _ hlt).trans htime
  have hretrains : d.get (F.ZL_ERR_RETRAINS p) = s.get (F.ZL_ERR_RETRAINS p) :=
    congrArg (F.ZL_ERR_RETRAINS p).of (h.reg (F.ZL_ERR_addr p) (by simp [portRegs]) (by simp))
  constructor
  case onward => exact ((h.onward.put _ _ (zl_ge 20 p)).raise _ hlt).trans htnow
  case state => rw [hkept.state, hcount]
  case cfg =>
    rw [hkept.portReg p (by simp [portRegs]), State.count, State.countBy, reg_put_other _ _ _ _ (by simp)]
    exact h.reg _ (by simp [portRegs]) (by simp)
  case port => rw [hkept.portDown (portUp_of_state hcount hstate), State.count, State.countBy, State.put_link, h.port]
  case retrains => rw [hkept.get _ (p := p) (by simp [portRegs]), get_count _ _ (by simp), hretrains]
  case event => exact htnow.status _ hlt (raise_evStatus hlt)

theorem leaveUp_leftUp {state : Nat} (hstate : state < 2) : LeftUp p state
    (s.link.port[p].keeping (s.get (F.ZL_STATUS_RX_LANES p) &&& s.get (F.ZL_STATUS_TX_LANES p))).cleared s (s.leaveUp p state) := by
  have hdown := discardQueues_takenDown (s := s.onPort p (LinkPort.keeping
    (s.get (F.ZL_STATUS_RX_LANES p) &&& s.get (F.ZL_STATUS_TX_LANES p)))) (p := p) hstate
  rw [port_onPort] at hdown
  have hleft := hdown.leftUp hstate s.timePort
  exact ⟨((Onward.refl s).onPort p _).trans hleft.onward, hleft.state, hleft.cfg, hleft.port, hleft.retrains, hleft.event⟩

/-! ## Training starts (R197, R202, R204) -/

/-- The training of a port in full: at ZL1 on every lane offered. -/
def State.fullTraining (s : State) (p : Fin 4) : Training :=
  { Training.reset with mask := s.get (F.ZL_CFG_LANE_EN p), nextAt := s.clock * 2475, wakeReq := s.bit (F.ZL_CFG_WAKE p) }

/-- The training of a port with kept results: their version and lanes. -/
def State.quickTraining (s : State) (p : Fin 4) (k : Nat × Nat) : Training :=
  { s.fullTraining p with quick := true, ver := k.1, mask := k.2, lanes := Vector.replicate 4 { LaneTraining.reset with adapted := true } }

/-- The port in state 1 with the capability word offered and the training `x`. -/
def State.trainingAs (s : State) (p : Fin 4) (x : Training) : State :=
  ((s.setLink p 1 0).setReg (F.ZL_LCAP_addr p) (s.capOf p)).onPort p fun l => { l with train := x }

theorem startTraining_full {quick : Bool} (h : (if quick then s.keptFor p else none) = none) :
    s.startTraining p quick = s.trainingAs p (s.fullTraining p) := by
  unfold State.startTraining
  rw [h]
  rfl

theorem startTraining_quick {k : Nat × Nat} (h : s.keptFor p = some k) :
    s.startTraining p true = s.trainingAs p (s.quickTraining p k) := by
  unfold State.startTraining
  rw [if_pos rfl, h]
  rfl

theorem startTraining_cases (quick : Bool) : ∃ x, s.startTraining p quick = s.trainingAs p x := by
  cases h : (if quick then s.keptFor p else none) with
  | none => exact ⟨_, startTraining_full h⟩
  | some k =>
    cases quick
    · cases h
    · exact ⟨_, startTraining_quick h⟩

section TrainingAs

variable (x : Training)

theorem trainingAs_port : (s.trainingAs p x).link.port[p] = { s.link.port[p] with train := x } := by
  unfold State.trainingAs
  rw [port_onPort, State.setReg_link, setLink_link]

theorem trainingAs_regs : (s.trainingAs p x).regs = ((s.setLink p 1 0).setReg (F.ZL_LCAP_addr p) (s.capOf p)).regs := by
  unfold State.trainingAs
  rw [State.onPort_regs]

theorem trainingAs_status : (s.trainingAs p x).reg (F.ZL_STATUS_addr p) = (s.setLink p 1 0).reg (F.ZL_STATUS_addr p) := by
  rw [reg_of_regs (trainingAs_regs x), State.reg_setReg, if_neg (by simp)]

theorem trainingAs_state : (s.trainingAs p x).get (F.ZL_STATUS_STATE p) = 1 := by
  refine Eq.trans (congrArg (F.ZL_STATUS_STATE p).of (trainingAs_status x)) (setLink_state 0 (by decide))

theorem trainingAs_rx : (s.trainingAs p x).get (F.ZL_STATUS_RX_LANES p) = 0 := by
  refine Eq.trans (congrArg (F.ZL_STATUS_RX_LANES p).of (trainingAs_status x)) (setLink_rx 1 0)

theorem trainingAs_tx : (s.trainingAs p x).get (F.ZL_STATUS_TX_LANES p) = 0 := by
  refine Eq.trans (congrArg (F.ZL_STATUS_TX_LANES p).of (trainingAs_status x)) (setLink_tx 1 0)

theorem trainingAs_lcap : (s.trainingAs p x).reg (F.ZL_LCAP_addr p) = s.capOf p := by
  rw [reg_of_regs (trainingAs_regs x), State.reg_setReg, if_pos rfl]

theorem trainingAs_reg {a : Nat} (hs : a ≠ F.ZL_STATUS_addr p) (hl : a ≠ F.ZL_LCAP_addr p) : (s.trainingAs p x).reg a = s.reg a := by
  rw [reg_of_regs (trainingAs_regs x), State.reg_setReg, if_neg hl, setLink_reg 1 0 hs]

theorem trainingAs_onward : Onward s (s.trainingAs p x) := ((setLink_onward 1 0).setReg _ _ (zl_ge 8 p)).onPort p _

end TrainingAs

end Sys2Proof.Machine
end

section
/-! A port that is enabled, disabled or retrained, and one that goes down (R197, R202, R204, R206, R207, R224). -/

open Sys2Proof Sys2Proof.Machine

namespace Sys2Proof.Machine

variable {s u : State} {p : Fin 4}

/-! ## Training anew (R197, R202, R204) -/

theorem startTraining_anew (hclock : u.clock = s.clock) (hver : u.get (F.ZL_CFG_MAXVER p) = s.get (F.ZL_CFG_MAXVER p))
    (hlanes : u.get (F.ZL_CFG_LANE_EN p) = s.get (F.ZL_CFG_LANE_EN p)) (hwake : u.get (F.ZL_CFG_WAKE p) = s.get (F.ZL_CFG_WAKE p)) :
    trainsAnew p s (u.startTraining p false) := by
  have hcap : u.capOf p = s.capOf p := by
    unfold State.capOf
    rw [hver, hlanes]
  have hbit : u.bit (F.ZL_CFG_WAKE p) = s.bit (F.ZL_CFG_WAKE p) := congrArg (· != 0) hwake
  have htrain : u.fullTraining p = s.fullTraining p := by
    unfold State.fullTraining
    rw [hclock, hlanes, hbit]
  rw [startTraining_full (if_neg Bool.false_ne_true)]
  refine ⟨trainingAs_state _, trainingAs_rx _, trainingAs_tx _, (trainingAs_lcap _).trans hcap, ?_, ?_⟩
  · have hreg := trainingAs_reg (s := u) (u.fullTraining p) (p := p) (a := F.ZL_CFG_addr p) (by simp) (by simp)
    exact (congrArg (fun w => (F.ZL_CFG_WAKE p).of w != 0) hreg).trans hbit
  · rw [trainingAs_port]
    exact htrain

theorem startTraining_anew_of_cfg (hclock : u.clock = s.clock) (hcfg : u.reg (F.ZL_CFG_addr p) = s.reg (F.ZL_CFG_addr p)) :
    trainsAnew p s (u.startTraining p false) :=
  startTraining_anew hclock (congrArg (F.ZL_CFG_MAXVER p).of hcfg) (congrArg (F.ZL_CFG_LANE_EN p).of hcfg)
    (congrArg (F.ZL_CFG_WAKE p).of hcfg)

/-! ## Enabled, disabled, retrained (R224) -/

theorem portEnable_anew (h : s.bit (F.ZL_CFG_EN p) = false) :
    (s.portEnable p).bit (F.ZL_CFG_EN p) = true ∧ trainsAnew p s (s.portEnable p) := by
  have hput {f : Field} (hlo : 1 ≤ f.lo) (hw : f.lo + f.w ≤ 32) : (s.put (F.ZL_CFG_EN p) 1).get f = s.get f :=
    State.get_put_other _ _ _ _ hw (.inr (.inl hlo))
  unfold State.portEnable
  rw [h, if_neg Bool.false_ne_true]
  refine ⟨?_, startTraining_anew rfl (hput (by simp) (by simp)) (hput (by simp) (by simp)) (hput (by simp) (by simp))⟩
  rw [startTraining_full (if_neg Bool.false_ne_true)]
  have hreg := trainingAs_reg (s := s.put (F.ZL_CFG_EN p) 1) (p := p) (a := F.ZL_CFG_addr p)
    (State.fullTraining (s.put (F.ZL_CFG_EN p) 1) p) (by simp) (by simp)
  refine (congrArg (fun w => (F.ZL_CFG_EN p).of w != 0) hreg).trans ?_
  exact bit_put s (F.ZL_CFG_EN p) 1 (by simp)

theorem portRetrain_anew (h : s.bit (F.ZL_CFG_EN p) = true) : trainsAnew p s (s.portRetrain p) := by
  unfold State.portRetrain
  rw [h, if_neg (by decide)]
  split
  · have hleft := leaveUp_leftUp (s := s) (p := p) (state := 0) (by decide)
    exact startTraining_anew_of_cfg hleft.onward.clock hleft.cfg
  · exact startTraining_anew_of_cfg rfl rfl

/-- A port with EN 0 is down, its queues empty, whether it was up before or not. -/
theorem portDisable_down : (s.portDisable p).bit (F.ZL_CFG_EN p) = false ∧ (s.portDisable p).get (F.ZL_STATUS_STATE p) = 0 ∧
    (s.portDisable p).link.port[p].q1 = [] ∧ (s.portDisable p).link.port[p].q2 = [] ∧ (s.portDisable p).link.port[p].q3 = [] := by
  have hen : (s.put (F.ZL_CFG_EN p) 0).bit (F.ZL_CFG_EN p) = false := bit_put s (F.ZL_CFG_EN p) 0 (by simp)
  have hbit {t : State} (h : t.reg (F.ZL_CFG_addr p) = (s.put (F.ZL_CFG_EN p) 0).reg (F.ZL_CFG_addr p)) : t.bit (F.ZL_CFG_EN p) = false :=
    (congrArg (fun w => (F.ZL_CFG_EN p).of w != 0) h).trans hen
  unfold State.portDisable
  dsimp only
  split
  · have hleft := leaveUp_leftUp (s := s.put (F.ZL_CFG_EN p) 0) (p := p) (state := 0) (by decide)
    rw [hleft.port]
    exact ⟨hbit hleft.cfg, hleft.state, rfl, rfl, rfl⟩
  · have hdown := discardQueues_takenDown (s := s.put (F.ZL_CFG_EN p) 0) (p := p) (state := 0) (by decide)
    rw [hdown.port]
    exact ⟨hbit (hdown.reg _ (by simp [portRegs]) (by simp)), hdown.state, rfl, rfl, rfl⟩

/-! ## A port goes down (R202, R206, R207) -/

theorem keptFor_some {v lanes : Nat} (h : s.link.port[p].kept = some (v, lanes)) (hlanes : lanes ≠ 0) (hv : v ≤ capVer (s.capOf p))
    (hoffered : lanes &&& capLanes (s.capOf p) = lanes) : s.keptFor p = some (v, lanes) := by
  unfold State.keptFor
  rw [h, Option.filter_some, if_pos]
  rw [hoffered, decide_eq_true hv, bne_iff_ne.2 hlanes, beq_self_eq_true]
  rfl

theorem keptFor_none {v : Nat} (h : s.link.port[p].kept = some (v, 0)) : s.keptFor p = none := by
  unfold State.keptFor
  rw [h, Option.filter_some, if_neg]
  rw [bne_self_eq_false, Bool.false_and, Bool.false_and]
  exact Bool.false_ne_true

/-- What holds of `t` where port `p` has gone down from what it was in `s`, to train again. -/
structure WentDown (p : Fin 4) (s t : State) : Prop where
  status : StatusKept s t
  state : t.get (F.ZL_STATUS_STATE p) = 1
  port : ∃ k x, t.link.port[p] = { (s.link.port[p].keeping k).cleared with train := x }
  retrains : t.get (F.ZL_ERR_RETRAINS p) = min (s.get (F.ZL_ERR_RETRAINS p) + 1) (2 ^ (F.ZL_ERR_RETRAINS p).w - 1)
  event : t.evStatus (srcLink p 1) = true
  quick : ∀ lanes, lanes = s.get (F.ZL_STATUS_RX_LANES p) &&& s.get (F.ZL_STATUS_TX_LANES p) → lanes ≠ 0 →
    s.link.port[p].ver ≤ capVer (s.capOf p) → lanes &&& capLanes (s.capOf p) = lanes →
    t.link.port[p].train = s.quickTraining p (s.link.port[p].ver, lanes)
  full : s.get (F.ZL_STATUS_RX_LANES p) &&& s.get (F.ZL_STATUS_TX_LANES p) = 0 → t.link.port[p].train = s.fullTraining p

theorem portDown_wentDown (s : State) (p : Fin 4) : WentDown p s (s.portDown p) := by
  have hleft := leaveUp_leftUp (s := s) (p := p) (state := 0) (by decide)
  unfold State.portDown
  generalize s.leaveUp p 0 = d at hleft
  have hcap : d.capOf p = s.capOf p := by
    have hver : d.get (F.ZL_CFG_MAXVER p) = s.get (F.ZL_CFG_MAXVER p) := congrArg (F.ZL_CFG_MAXVER p).of hleft.cfg
    have hlanes : d.get (F.ZL_CFG_LANE_EN p) = s.get (F.ZL_CFG_LANE_EN p) := congrArg (F.ZL_CFG_LANE_EN p).of hleft.cfg
    unfold State.capOf
    rw [hver, hlanes]
  have hfull : d.fullTraining p = s.fullTraining p := by
    have hwake : d.bit (F.ZL_CFG_WAKE p) = s.bit (F.ZL_CFG_WAKE p) := congrArg (fun w => (F.ZL_CFG_WAKE p).of w != 0) hleft.cfg
    have hlanes : d.get (F.ZL_CFG_LANE_EN p) = s.get (F.ZL_CFG_LANE_EN p) := congrArg (F.ZL_CFG_LANE_EN p).of hleft.cfg
    unfold State.fullTraining
    rw [hleft.onward.clock, hwake, hlanes]
  have hkept : d.link.port[p].kept = some (s.link.port[p].ver, s.get (F.ZL_STATUS_RX_LANES p) &&& s.get (F.ZL_STATUS_TX_LANES p)) := by
    rw [hleft.port]
    rfl
  obtain ⟨x, hx⟩ := startTraining_cases (s := d) (p := p) true
  have hretrains : (d.trainingAs p x).get (F.ZL_ERR_RETRAINS p) = d.get (F.ZL_ERR_RETRAINS p) :=
    congrArg (F.ZL_ERR_RETRAINS p).of (trainingAs_reg x (a := F.ZL_ERR_addr p) (by simp) (by simp))
  constructor
  case status => rw [hx]; exact (hleft.onward.trans (trainingAs_onward x)).status
  case state => rw [hx, trainingAs_state]
  case port => exact ⟨_, x, by rw [hx, trainingAs_port, hleft.port]⟩
  case retrains => rw [hx, hretrains, hleft.retrains]
  case event => rw [hx]; exact (trainingAs_onward x).status _ (srcLink_lt p (by decide)) hleft.event
  case quick =>
    intro lanes hlanes hne hver hoffered
    rw [← hlanes] at hkept
    rw [← hcap] at hver hoffered
    rw [startTraining_quick (keptFor_some hkept hne hver hoffered), trainingAs_port]
    unfold State.quickTraining
    rw [hfull]
  case full =>
    intro hzero
    rw [hzero] at hkept
    rw [startTraining_full ((if_pos rfl).trans (keptFor_none hkept)), trainingAs_port, hfull]

/-- What an event before it leaves of a port going down. -/
theorem WentDown.after {t : State} (h : WentDown p u t) (hkept : LinkKept s u) (hnow : Onward s u) : WentDown p s t := by
  have hget (f : Field) (hf : f.addr ∈ portRegs p) : u.get f = s.get f := hkept.get f hf
  have hver : u.link.port[p].ver = s.link.port[p].ver := hkept.port p LinkPort.ver (fun _ => rfl)
  have hcap : u.capOf p = s.capOf p := by
    unfold State.capOf
    rw [hget _ (by simp [portRegs]), hget _ (by simp [portRegs])]
  have hfull : u.fullTraining p = s.fullTraining p := by
    unfold State.fullTraining
    rw [hnow.clock, hget _ (by simp [portRegs]), hkept.bit (p := p) _ (by simp [portRegs])]
  have hquick (k : Nat × Nat) : u.quickTraining p k = s.quickTraining p k := by
    unfold State.quickTraining
    rw [hfull]
  obtain ⟨hstatus, hstate, ⟨k, x, hport⟩, hretrains, hevent, htrain, hnone⟩ := h
  have hcleared : (u.link.port[p].keeping k).cleared = (s.link.port[p].keeping k).cleared :=
    hkept.port p (fun l => (l.keeping k).cleared) fun _ => rfl
  rw [hget _ (by simp [portRegs])] at hretrains
  rw [hget _ (by simp [portRegs]), hget _ (by simp [portRegs]), hver, hcap] at htrain
  rw [hget _ (by simp [portRegs]), hget _ (by simp [portRegs]), hfull] at hnone
  refine ⟨fun n hn hs => hstatus n hn (hnow.status n hn hs), hstate, ⟨k, x, by rw [hport, hcleared]⟩, hretrains, hevent, ?_, hnone⟩
  intro lanes hlanes hne hv hoffered
  rw [htrain lanes hlanes hne hv hoffered, hquick]

/-- A port that went down trains, and holds nothing of what it had to send. -/
theorem WentDown.emptied {t : State} (h : WentDown p s t) : t.get (F.ZL_STATUS_STATE p) = 1 ∧ t.link.port[p].q1 = [] ∧
    t.link.port[p].q2 = [] ∧ t.link.port[p].q3 = [] ∧ t.link.port[p].replay = [] ∧ t.link.port[p].cwSeq = 0 := by
  obtain ⟨k, x, hport⟩ := h.port
  rw [hport]
  exact ⟨h.state, rfl, rfl, rfl, rfl, rfl⟩

theorem WentDown.trained {t : State} (h : WentDown p s t) (lanes : Nat)
    (hlanes : lanes = s.get (F.ZL_STATUS_RX_LANES p) &&& s.get (F.ZL_STATUS_TX_LANES p)) :
    (lanes ≠ 0 → s.link.port[p].ver ≤ capVer (s.capOf p) → lanes &&& capLanes (s.capOf p) = lanes →
      t.link.port[p].train.quick = true ∧ t.link.port[p].train.ver = s.link.port[p].ver ∧
      t.link.port[p].train.mask = lanes ∧ ∀ i : Fin 4, t.link.port[p].train.lanes[i].adapted = true) ∧
    (lanes = 0 → t.link.port[p].train.quick = false ∧ t.link.port[p].train.ver = 0 ∧
      t.link.port[p].train.mask = s.get (F.ZL_CFG_LANE_EN p)) := by
  refine ⟨fun hne hver hoffered => ?_, fun hzero => ?_⟩
  · rw [h.quick lanes hlanes hne hver hoffered]
    refine ⟨rfl, rfl, rfl, fun i => ?_⟩
    exact congrArg LaneTraining.adapted (Vector.getElem_replicate i.isLt)
  · rw [h.full (hlanes.symm.trans hzero)]
    exact ⟨rfl, rfl, rfl⟩

theorem ackLate_of {r : TxCodeword} (hp : s.portUp p = true) (hr : r ∈ s.link.port[p].replay)
    (h : (s.link.port[p].paused = none ∧ r.firstAt + 2000 ≤ s.clock) ∨ 4 ≤ r.sends) : s.ackLate p = true := by
  unfold State.ackLate
  rw [hp, Bool.true_and, List.any_eq_true]
  refine ⟨r, hr, ?_⟩
  rcases h with ⟨hpaused, hat⟩ | hsends
  · rw [hpaused, decide_eq_true hat]
    rfl
  · rw [decide_eq_true hsends, Bool.or_true]

theorem remapLate_of {receive : Bool} {a : Nat} (hp : s.portUp p = true) (hr : s.link.port[p].remapAt receive = some a)
    (h : a + 8000 ≤ s.clock) : s.remapLate p = true := by
  unfold State.remapLate
  rw [hp, Bool.true_and, List.any_eq_true]
  refine ⟨receive, by cases receive <;> decide, ?_⟩
  rw [hr]
  exact decide_eq_true h

end Sys2Proof.Machine
end

section
/-! What a port puts on its lanes, a port that comes up, and training frames (R196–R198, R201). -/

open Sys2Proof Sys2Proof.Machine

namespace Sys2Proof.Machine

variable {s : State} {p lane : Fin 4}

/-! ## Lanes that have locked (R201) -/

/-- The mask of a set of lanes. -/
theorem testBit_laneSum (P : Fin 4 → Bool) (lane : Fin 4) :
    (((List.finRange 4).filter P).foldl (fun (a : Nat) (i : Fin 4) => a + 2 ^ i.val) 0).testBit lane = P lane := by
  revert P lane
  decide

theorem laneSum_lt (P : Fin 4 → Bool) : ((List.finRange 4).filter P).foldl (fun (a : Nat) (i : Fin 4) => a + 2 ^ i.val) 0 < 16 := by
  revert P
  decide

theorem lockedLanes_lt : s.lockedLanes p < 16 := laneSum_lt _

theorem testBit_lockedLanes (hoffered : ((s.lcap p &&& s.reg (F.ZL_PCAP_addr p)).toNat / 16).testBit lane = true)
    (hmask : s.link.port[p].train.mask.testBit lane = true) (hlocked : s.link.port[p].train.lanes[lane].locked = true) :
    (s.lockedLanes p).testBit lane = true := by
  have hcap : (capLanes (s.lcap p &&& s.reg (F.ZL_PCAP_addr p))).testBit lane = true := by
    unfold capLanes
    rw [show (16 : Nat) = 2 ^ 4 from rfl, Nat.testBit_mod_two_pow, decide_eq_true lane.isLt, Bool.true_and]
    exact hoffered
  unfold State.lockedLanes
  dsimp only
  rw [testBit_laneSum, Nat.testBit_and, hcap, hmask, hlocked]
  rfl

theorem mem_maskLanes {m : Nat} (h : m.testBit lane = true) : lane.val ∈ maskLanes m :=
  List.mem_filter.2 ⟨List.mem_range.2 lane.isLt, h⟩

/-! ## What a port puts on its lanes (R196, R198) -/

/-- An alignment block of port `p` on a lane. -/
def State.alignOut (s : State) (p : Fin 4) (oot : Bool) (lane : Nat) : Out :=
  .line p lane (lineLevels s.link.port[p].ver (alignBits (s.alignBlock p lane oot)))

theorem sendAligns_eq (oot : Bool) : s.sendAligns p oot =
    { s with out := ((maskLanes (s.get (F.ZL_STATUS_TX_LANES p))).map (s.alignOut p oot)).reverse ++ s.out } := by
  unfold State.sendAligns
  generalize maskLanes (s.get (F.ZL_STATUS_TX_LANES p)) = l
  induction l generalizing s with
  | nil => rfl
  | cons i l ih =>
    have hsame : (s.sendAlign p oot i).alignOut p oot = s.alignOut p oot := rfl
    rw [List.foldl_cons, ih, List.map_cons, List.reverse_cons, List.append_assoc, hsame]
    rfl

/-- A port that sends a training frame: its FILL sequence and its count of markers go on. -/
def LinkPort.framing (fill markers : Nat) (l : LinkPort) : LinkPort := { l with train := { l.train with fill := fill, markers := markers } }

/-- What a training frame sent leaves as it was. -/
theorem sendFrames_spec : (∃ fill markers, (s.sendFrames p).link.port[p] = s.link.port[p].framing fill markers) ∧
    (∀ a, a ≠ F.ZL_CFG_addr p → (s.sendFrames p).reg a = s.reg a) ∧ Onward s (s.sendFrames p) := by
  unfold State.sendFrames State.sendBits
  dsimp only
  rw [foldl_emit]
  generalize hout : List.reverse _ ++ s.out = out
  have hnow : Onward s { s with out := out } := by
    refine (Onward.refl s).same rfl rfl rfl fun o ho => ?_
    rw [← hout]
    exact List.mem_append_right _ ho
  generalize (s.link.port[p].train.wakeReq && s.link.port[p].train.lanes.toList.any (·.locked)) = wake
  generalize hu : ({ s with out := out } : State).onPort p _ = u
  have hport : ∃ fill markers, u.link.port[p] = s.link.port[p].framing fill markers := by
    rw [← hu, port_onPort]
    exact ⟨_, _, rfl⟩
  have hreg (a : Nat) : u.reg a = s.reg a := by
    rw [← hu, reg_onPort]
    rfl
  have hunow : Onward s u := by
    rw [← hu]
    exact hnow.onPort p _
  cases wake
  · exact ⟨hport, fun a _ => hreg a, hunow⟩
  · rw [State.when_true, State.put_link]
    exact ⟨hport, fun a ha => (reg_put_other _ _ _ _ ha).trans (hreg a), hunow.put _ _ (zl_ge 0 p)⟩

/-! ## A port comes up (R197, R201) -/

/-- The port with codeword exchange from CW_SEQ 0, at version `v`, with what both ends offer (R197, R201). -/
def LinkPort.comeUp (both : Word) (tv v : Nat) (l : LinkPort) : LinkPort :=
  { l.cleared with train := l.train, ver := v, dual := both.getLsbD 8, raw := both.getLsbD 9, timeVer := tv }

theorem portComesUp_eq (v : Nat) : s.portComesUp p v =
    ((((((((s.sendFrames p).setLink p 2 (s.lockedLanes p)).put (F.ZL_STATUS_VER p) v).onPort p
      (LinkPort.comeUp (s.lcap p &&& s.reg (F.ZL_PCAP_addr p))
        (min ((s.lcap p).toNat / 1024 % 4) ((s.reg (F.ZL_PCAP_addr p)).toNat / 1024 % 4)) v)).sendAligns p false).raise
      (srcLink p 0)).raiseIf (decide (v < capVer (s.lcap p)) || s.lockedLanes p != capLanes (s.lcap p)) (srcLink p 6)).retimePort
      s.timePort) := rfl

/-- What holds of state `t` where port `p` of `s` has come up at version `v`. -/
structure CameUp (p : Fin 4) (v : Nat) (s t : State) : Prop where
  onward : Onward s t
  event : t.evStatus (srcLink p 0) = true
  state : t.get (F.ZL_STATUS_STATE p) = 2
  rx : t.get (F.ZL_STATUS_RX_LANES p) = s.lockedLanes p
  reg : ∀ a ∈ portRegs p, a ≠ F.ZL_STATUS_addr p → a ≠ F.ZL_CFG_addr p → t.reg a = s.reg a
  port : ∃ fill markers both tv, t.link.port[p].emptied = (((s.link.port[p].framing fill markers).comeUp both tv v)).emptied
  outs : ∀ i : Fin 4, (s.lockedLanes p).testBit i = true →
    ∃ b, Out.line p i (lineLevels v (alignBits b)) ∈ t.out ∧ b.cwCount = 0 ∧ b.oot = false

theorem portComesUp_cameUp (s : State) (p : Fin 4) (v : Nat) : CameUp p v s (s.portComesUp p v) := by
  obtain ⟨⟨fill, markers, hport⟩, hreg, hnow⟩ := sendFrames_spec (s := s) (p := p)
  rw [portComesUp_eq]
  generalize s.sendFrames p = f at hport hreg hnow
  generalize s.lcap p &&& s.reg (F.ZL_PCAP_addr p) = both
  generalize min ((s.lcap p).toNat / 1024 % 4) ((s.reg (F.ZL_PCAP_addr p)).toNat / 1024 % 4) = tv
  generalize (decide (v < capVer (s.lcap p)) || s.lockedLanes p != capLanes (s.lcap p)) = short
  generalize hb : ((f.setLink p 2 (s.lockedLanes p)).put (F.ZL_STATUS_VER p) v).onPort p (LinkPort.comeUp both tv v) = b
  have hbport : b.link.port[p] = (s.link.port[p].framing fill markers).comeUp both tv v := by
    rw [← hb, port_onPort, State.put_link, setLink_link, hport]
  have hbget {g : Field} (ha : g.lo + g.w ≤ 32) (hd : g.addr ≠ (F.ZL_STATUS_VER p).addr ∨ 5 ≤ g.lo ∨ g.lo + g.w ≤ 3) :
      b.get g = (f.setLink p 2 (s.lockedLanes p)).get g := by
    rw [← hb, get_onPort, State.get_put_other _ _ _ _ ha hd]
  have hbstate : b.get (F.ZL_STATUS_STATE p) = 2 := (hbget (by simp) (by simp)).trans (setLink_state _ (by decide))
  have hbrx : b.get (F.ZL_STATUS_RX_LANES p) = s.lockedLanes p :=
    (hbget (by simp) (by simp)).trans ((setLink_rx _ _).trans (Nat.mod_eq_of_lt lockedLanes_lt))
  have hbtx : b.get (F.ZL_STATUS_TX_LANES p) = s.lockedLanes p :=
    (hbget (by simp) (by simp)).trans ((setLink_tx _ _).trans (Nat.mod_eq_of_lt lockedLanes_lt))
  have hbreg {a : Nat} (hs : a ≠ F.ZL_STATUS_addr p) (hc : a ≠ F.ZL_CFG_addr p) : b.reg a = s.reg a := by
    rw [← hb, reg_onPort, reg_put_other _ _ _ _ hs, setLink_reg _ _ hs, hreg a hc]
  have hbnow : Onward s b := by
    rw [← hb]
    exact ((hnow.trans (setLink_onward _ _)).put _ _ (zl_ge 4 p)).onPort p _
  have hcw : b.link.port[p].cwCount = 0 ∧ b.link.port[p].ver = v := by
    rw [hbport]
    exact ⟨rfl, rfl⟩
  rw [sendAligns_eq, hbtx]
  generalize hc : ({ b with out := _ } : State) = c
  have hckept : LinkKept b c := by
    rw [← hc]
    exact (LinkKept.refl b).same (by rfl)
  have hcnow : Onward b c := by
    rw [← hc]
    exact (Onward.refl b).same rfl rfl rfl fun o ho => List.mem_append_right _ ho
  obtain ⟨htime, htnow⟩ := retimePort_kept (s := (c.raise (srcLink p 0)).raiseIf short (srcLink p 6)) s.timePort
  have hafter : Onward (c.raise (srcLink p 0)) _ := ((Onward.refl _).raiseIf short _ (srcLink_lt p (by decide))).trans htnow
  have hkept := ((hckept.raise _ (srcLink_lt p (k := 0) (by decide))).raiseIf short _ (srcLink_lt p (by decide))).trans htime
  have honward : Onward c _ := ((Onward.refl c).raise _ (srcLink_lt p (k := 0) (by decide))).trans hafter
  constructor
  case onward => exact (hbnow.trans hcnow).trans honward
  case event => exact hafter.status _ (srcLink_lt p (by decide)) (raise_evStatus (srcLink_lt p (by decide)))
  case state => rw [hkept.state, hbstate]
  case rx => rw [hkept.get _ (p := p) (by simp [portRegs]), hbrx]
  case reg => exact fun a ha hs hcfg => (hkept.portReg p ha).trans (hbreg hs hcfg)
  case port => exact ⟨fill, markers, both, tv, (hkept.port p LinkPort.emptied (fun _ => rfl)).trans (congrArg LinkPort.emptied hbport)⟩
  case outs =>
    intro i hi
    refine ⟨b.alignBlock p i false, honward.outs _ ?_, ?_, rfl⟩
    · rw [← hc, ← hcw.2]
      exact List.mem_append_left _ (List.mem_reverse.2 (List.mem_map_of_mem (mem_maskLanes hi)))
    · exact congrArg (BitVec.ofNat 16) hcw.1

/-! ## A training frame (R197) -/

/-- The word pair of port `p`, what its lanes have found and that the pair is accepted stay. -/
structure PairKept (p : Fin 4) (s t : State) : Prop where
  onward : Onward s t
  pcap : t.reg (F.ZL_PCAP_addr p) = s.reg (F.ZL_PCAP_addr p)
  pid : t.reg (F.ZL_PID_addr p) = s.reg (F.ZL_PID_addr p)
  accepted : t.link.port[p].train.accepted = s.link.port[p].train.accepted
  lanes : t.link.port[p].train.lanes = s.link.port[p].train.lanes

theorem PairKept.refl (p : Fin 4) (s : State) : PairKept p s s := ⟨Onward.refl s, rfl, rfl, rfl, rfl⟩

theorem PairKept.of_cameUp {v : Nat} {t : State} (h : CameUp p v s t) : PairKept p s t := by
  obtain ⟨fill, markers, both, tv, hport⟩ := h.port
  exact ⟨h.onward, h.reg _ (by simp [portRegs]) (by simp) (by simp), h.reg _ (by simp [portRegs]) (by simp) (by simp),
    (congrArg (fun l : LinkPort => l.train.accepted) hport :), (congrArg (fun l : LinkPort => l.train.lanes) hport :)⟩

theorem tryUp_kept (s : State) (p : Fin 4) : PairKept p s (s.tryUp p) := by
  unfold State.tryUp
  dsimp only
  split
  · split
    · exact PairKept.of_cameUp (portComesUp_cameUp s p _)
    · exact PairKept.refl p s
  · exact PairKept.refl p s

theorem tryUp_up {v : Nat} (hv : s.resolved p = some v) (haccepted : s.link.port[p].train.accepted = true)
    (hgot : s.link.port[p].train.gotAccepted = true) (hadapted : s.link.port[p].train.gotAdapted = true)
    (hver : s.link.port[p].train.ver = v) (hlocked : s.lockedLanes p ≠ 0) (hlane : s.link.port[p].train.lanes[lane].adapted = true)
    (hstate : s.get (F.ZL_STATUS_STATE p) = 1) : s.tryUp p = s.portComesUp p v := by
  have hany : s.link.port[p].train.lanes.toList.any (·.adapted) = true :=
    List.any_eq_true.2 ⟨_, Vector.mem_toList_iff.2 (Vector.getElem_mem lane.isLt), hlane⟩
  unfold State.tryUp
  dsimp only
  rw [hv]
  dsimp only
  rw [haccepted, hgot, hadapted, hver, hany, hstate, bne_iff_ne.2 hlocked, beq_self_eq_true]
  rfl

/-- A port whose training has accepted the partner's word pair. -/
def LinkPort.accepting (l : LinkPort) : LinkPort := { l with train := { l.train with accepted := true } }

theorem acceptPair_spec (cap ident : Word) : Onward s (s.acceptPair p cap ident) ∧
    (s.acceptPair p cap ident).reg (F.ZL_PCAP_addr p) = cap ∧ (s.acceptPair p cap ident).reg (F.ZL_PID_addr p) = ident ∧
    (s.acceptPair p cap ident).link.port[p].train = s.link.port[p].accepting.train := by
  unfold State.acceptPair
  dsimp only
  generalize hb : ((s.setReg (F.ZL_PCAP_addr p) cap).setReg (F.ZL_PID_addr p) ident).onPort p _ = b
  have hbnow : Onward s b := by
    rw [← hb]
    exact (((Onward.refl s).setReg _ _ (zl_ge 12 p)).setReg _ _ (zl_ge 16 p)).onPort p _
  have hbcap : b.reg (F.ZL_PCAP_addr p) = cap := by
    rw [← hb, reg_onPort, State.reg_setReg, if_neg (by simp), State.reg_setReg, if_pos rfl]
  have hbid : b.reg (F.ZL_PID_addr p) = ident := by
    rw [← hb, reg_onPort, State.reg_setReg, if_pos rfl]
  have hbport : b.link.port[p].train = s.link.port[p].accepting.train := by
    rw [← hb, port_onPort, State.setReg_link, State.setReg_link]
    rfl
  generalize hc : (if ident.getLsbD 17 then (b.put (F.ZL_STATUS_STATE p) 4).onPort p _ else b) = c
  have hcnow : Onward s c := by
    rw [← hc]
    exact Onward.ite ((hbnow.put _ _ (zl_ge 4 p)).onPort p _) hbnow
  have hcreg {a : Nat} (ha : a ≠ F.ZL_STATUS_addr p) : c.reg a = b.reg a := by
    rw [← hc]
    split
    · rw [reg_onPort, reg_put_other _ _ _ _ ha]
    · rfl
  have hcport : c.link.port[p].train = b.link.port[p].train := by
    rw [← hc]
    split
    · rw [port_onPort, State.put_link]
    · rfl
  have hkept := (LinkKept.refl c).raiseIf (ident.getLsbD 17 || ident.getLsbD 18) (srcLink p 9) (srcLink_lt p (by decide))
  refine ⟨hcnow.raiseIf _ _ (srcLink_lt p (by decide)), ?_, ?_, ?_⟩
  · rw [hkept.portReg p (a := F.ZL_PCAP_addr p) (by simp [portRegs]), hcreg (by simp), hbcap]
  · rw [hkept.portReg p (a := F.ZL_PID_addr p) (by simp [portRegs]), hcreg (by simp), hbid]
  · rw [hkept.port p LinkPort.train fun _ => rfl, hcport, hbport]

/-- The lane after frame `f` with a correct status, `atRate` where the port trains at the resolved version after acceptance. -/
def LaneTraining.heard (f : TrainFrame) (atRate : Bool) (l : LaneTraining) : LaneTraining :=
  { l.frame f with adapted := (l.frame f).adapted || atRate }

/-- The port after frame `f` with a correct status on a lane. -/
def LinkPort.framed (lane : Fin 4) (f : TrainFrame) (atRate : Bool) (l : LinkPort) : LinkPort :=
  { l with train := { l.train with
      lanes := l.train.lanes.set lane (l.train.lanes[lane].heard f atRate)
      gotAccepted := l.train.gotAccepted || f.status.getLsbD 1
      gotAdapted := l.train.gotAdapted || f.status.getLsbD 2 } }

/-- The state after frame `f` with a correct status, before its port may come up. -/
def State.framedState (s : State) (p lane : Fin 4) (f : TrainFrame) : State :=
  let t := s.onPort p (LinkPort.framed lane f (s.resolved p == some s.link.port[p].train.ver && s.link.port[p].train.accepted))
  if 4 ≤ (s.link.port[p].train.lanes[lane].frame f).same ∧ !s.link.port[p].train.accepted then t.acceptPair p f.cap f.ident else t

section Frame

variable {f : TrainFrame}

theorem trainFrame_eq (hmarker : f.marker = 0xE4B17A2C#32) (hmask : s.link.port[p].train.mask.testBit lane = true)
    (hcrc : f.statusCrc = crc16Of 2 f.status.toNat) (hver : f.status.toNat / 8 % 4 = s.link.port[p].train.ver) :
    s.trainFrame p lane f = (s.framedState p lane f).tryUp p := by
  have hok : (f.statusCrc == crc16Of 2 f.status.toNat) = true := beq_iff_eq.2 hcrc
  unfold State.trainFrame
  extract_lets tr statusOk ln₀ atRate ln t₀ t
  have hstatus : statusOk = true := hok
  have hln : ln = s.link.port[p].train.lanes[lane].heard f atRate := by
    simp only [ln, hstatus, Bool.and_true]
    rfl
  have ht₀ : t₀ = s.onPort p (LinkPort.framed lane f atRate) := by
    simp only [t₀, hstatus, hln, Bool.true_and]
    rfl
  have ht : t = s.framedState p lane f := by
    simp only [t, ht₀, hln]
    rfl
  have htr : tr.mask.testBit lane = true := hmask
  rw [hmarker, htr, if_neg (by simp [hver, tr]), ht]

theorem lanes_framed (atRate : Bool) (l : LinkPort) : (l.framed lane f atRate).train.lanes[lane] = l.train.lanes[lane].heard f atRate :=
  Vector.getElem_set_self lane.isLt

theorem frame_same {l : LaneTraining} (hcap : f.capCrc = crc16Of 4 f.cap.toNat) (hid : f.identCrc = crc16Of 4 f.ident.toNat)
    (hne : f.cap ≠ 0) (hc : l.cap = f.cap) (hi : l.ident = f.ident) : (l.frame f).same = l.same + 1 := by
  have hne : f.cap ≠ 0#32 := hne
  unfold LaneTraining.frame
  simp [← hcap, ← hid, hne, hc, hi]

theorem exec_trainingFrameRx {t : State} (hmode : s.mode = .run) (ht : s.when (s.listens p) (·.trainFrame p lane f) = t)
    (htmode : t.mode = .run) : exec (.trainingFrameRx p lane f) s = .next t := by
  have hon : s.alwaysOn = true := by
    unfold State.alwaysOn State.up
    rw [hmode]
    rfl
  have hexec : exec (.trainingFrameRx p lane f) s = execTrainingFrameRx p lane f s := rfl
  rw [hexec]
  unfold execTrainingFrameRx
  rw [State.ifOn_on _ _ hon]
  dsimp only
  rw [if_neg (by rw [hmode]; decide), ht, htmode]
  rfl

theorem exec_trainingFrame (hmode : s.mode = .run) (hen : s.bit (F.ZL_CFG_EN p) = true) (hlock : s.bit (F.PLL_CTL_LOCK 5) = true)
    (hstate : s.get (F.ZL_STATUS_STATE p) = 1) (hnow : Onward s (s.trainFrame p lane f)) :
    exec (.trainingFrameRx p lane f) s = .next (s.trainFrame p lane f) := by
  have hlistens : s.listens p = true := by
    unfold State.listens State.linkClock
    rw [hen, hlock, hstate]
    rfl
  exact exec_trainingFrameRx hmode (by rw [hlistens, State.when_true]) (hnow.mode.trans hmode)

theorem exec_trainingFrame_noise (hmode : s.mode = .run) (hmarker : f.marker ≠ 0xE4B17A2C#32) :
    exec (.trainingFrameRx p lane f) s = .next s := by
  have hframe : s.trainFrame p lane f = s := by
    unfold State.trainFrame
    dsimp only
    rw [if_pos (.inl hmarker)]
  refine exec_trainingFrameRx hmode ?_ hmode
  unfold State.when
  exact (congrArg (ite _ · s) hframe).trans (ite_self s)

end Frame

end Sys2Proof.Machine
end

section
/-! The statement on the ports: training, coming up and going down (R197, R199, R202, R204, R206, R207, R224). -/

open Sys2Proof Sys2Proof.Machine

namespace Sys2Proof.Machine

variable {s : State} {p lane : Fin 4} {f : TrainFrame}

/-! ## The frame that accepts the word pair, and the frame that completes the exchange (R197) -/

/-- A frame at the version in force, with a correct STATUS, on a lane that trains (R197, R198). -/
structure FrameCounts (s : State) (p lane : Fin 4) (f : TrainFrame) : Prop where
  mode : s.mode = .run
  enabled : s.bit (F.ZL_CFG_EN p) = true
  locked : s.bit (F.PLL_CTL_LOCK 5) = true
  state : s.get (F.ZL_STATUS_STATE p) = 1
  marker : f.marker = 0xE4B17A2C#32
  mask : s.link.port[p].train.mask.testBit lane = true
  statusCrc : f.statusCrc = crc16Of 2 f.status.toNat
  ver : f.status.toNat / 8 % 4 = s.link.port[p].train.ver

theorem FrameCounts.exec (h : FrameCounts s p lane f) (hnow : Onward s ((s.framedState p lane f).tryUp p)) :
    Machine.exec (.trainingFrameRx p lane f) s = .next ((s.framedState p lane f).tryUp p) := by
  have heq := trainFrame_eq h.marker h.mask h.statusCrc h.ver
  rw [← heq] at hnow ⊢
  exact exec_trainingFrame h.mode h.enabled h.locked h.state hnow

/-- The fourth frame alike on a lane accepts the partner's word pair. -/
theorem framedState_accepts (hcap : f.capCrc = crc16Of 4 f.cap.toNat) (hid : f.identCrc = crc16Of 4 f.ident.toNat) (hne : f.cap ≠ 0)
    (hfirst : s.link.port[p].train.accepted = false) (hc : s.link.port[p].train.lanes[lane].cap = f.cap)
    (hi : s.link.port[p].train.lanes[lane].ident = f.ident) (hsame : 3 ≤ s.link.port[p].train.lanes[lane].same) :
    ∃ t₀ atRate, t₀ = s.onPort p (LinkPort.framed lane f atRate) ∧ s.framedState p lane f = t₀.acceptPair p f.cap f.ident := by
  refine ⟨_, _, rfl, if_pos ⟨?_, ?_⟩⟩
  · rw [frame_same hcap hid hne hc hi]
    omega
  · rw [hfirst]
    rfl

theorem frameCounts_accepts (h : FrameCounts s p lane f) (hcap : f.capCrc = crc16Of 4 f.cap.toNat)
    (hid : f.identCrc = crc16Of 4 f.ident.toNat) (hne : f.cap ≠ 0) (hfirst : s.link.port[p].train.accepted = false)
    (hc : s.link.port[p].train.lanes[lane].cap = f.cap) (hi : s.link.port[p].train.lanes[lane].ident = f.ident)
    (hsame : 3 ≤ s.link.port[p].train.lanes[lane].same) : Answers (.trainingFrameRx p lane f) s fun t =>
      t.reg (F.ZL_PCAP_addr p) = f.cap ∧ t.reg (F.ZL_PID_addr p) = f.ident ∧ t.link.port[p].train.accepted = true ∧
        t.link.port[p].train.lanes[lane].locked = true := by
  obtain ⟨t₀, atRate, ht₀, haccept⟩ := framedState_accepts hcap hid hne hfirst hc hi hsame
  obtain ⟨hnow, hpcap, hpid, htrain⟩ := acceptPair_spec (s := t₀) (p := p) f.cap f.ident
  have hkept := tryUp_kept (t₀.acceptPair p f.cap f.ident) p
  have hsnow : Onward s t₀ := by
    rw [ht₀]
    exact (Onward.refl s).onPort p _
  rw [← haccept] at hkept
  refine ⟨_, h.exec ((hsnow.trans (haccept ▸ hnow)).trans hkept.onward), ?_⟩
  dsimp only
  rw [hkept.pcap, hkept.pid, hkept.accepted, hkept.lanes, haccept, hpcap, hpid, htrain, ht₀, port_onPort]
  exact ⟨rfl, rfl, rfl, congrArg LaneTraining.locked (lanes_framed atRate s.link.port[p])⟩

/-- The frame that completes the exchange brings the port up. -/
theorem frameCounts_cameUp (h : FrameCounts s p lane f) (haccepted : s.link.port[p].train.accepted = true)
    (hgot : s.link.port[p].train.gotAccepted = true) (hadapted : f.status.getLsbD 2 = true)
    (hresolved : s.resolved p = some s.link.port[p].train.ver)
    (hoffered : ((s.reg (F.ZL_LCAP_addr p) &&& s.reg (F.ZL_PCAP_addr p)).toNat / 16).testBit lane = true) :
    ∃ t₀ t, Machine.exec (.trainingFrameRx p lane f) s = .next t ∧ CameUp p s.link.port[p].train.ver t₀ t ∧
      (t₀.lockedLanes p).testBit lane = true := by
  have hrate : (s.resolved p == some s.link.port[p].train.ver && s.link.port[p].train.accepted) = true := by
    rw [hresolved, haccepted, beq_self_eq_true]
    rfl
  have hframed : s.framedState p lane f = s.onPort p (LinkPort.framed lane f true) := by
    unfold State.framedState
    dsimp only
    rw [hrate, haccepted]
    exact if_neg fun hno => Bool.false_ne_true hno.2
  have hlane := lanes_framed (lane := lane) (f := f) true s.link.port[p]
  rw [← port_onPort s p (LinkPort.framed lane f true)] at hlane
  have hport := port_onPort s p (LinkPort.framed lane f true)
  have hlocked : ((s.onPort p (LinkPort.framed lane f true)).lockedLanes p).testBit lane = true := by
    refine testBit_lockedLanes hoffered ?_ ?_
    · rw [hport]
      exact h.mask
    · rw [hlane]
      rfl
  have hup : (s.onPort p (LinkPort.framed lane f true)).tryUp p =
      (s.onPort p (LinkPort.framed lane f true)).portComesUp p s.link.port[p].train.ver := by
    refine tryUp_up (lane := lane) hresolved ?_ ?_ ?_ ?_ ?_ ?_ ((get_onPort _ _ _).trans h.state)
    · rw [hport]
      exact haccepted
    · rw [hport]
      exact Bool.or_eq_true_iff.2 (.inl hgot)
    · rw [hport]
      exact Bool.or_eq_true_iff.2 (.inr hadapted)
    · rw [hport]
      rfl
    · intro hzero
      rw [hzero, Nat.zero_testBit] at hlocked
      cases hlocked
    · rw [hlane]
      exact Bool.or_true _
  have hcame := portComesUp_cameUp (s.onPort p (LinkPort.framed lane f true)) p s.link.port[p].train.ver
  rw [← hup, ← hframed] at hcame
  rw [← hframed] at hlocked
  refine ⟨s.framedState p lane f, _, h.exec ?_, hcame, hlocked⟩
  rw [hframed] at hcame ⊢
  exact ((Onward.refl s).onPort p _).trans hcame.onward

/-! ## The parts of the statement -/

theorem rateSwitch_eq {v : Nat} (hv : s.resolved p = some v) (hpos : 0 < v) (hstate : s.get (F.ZL_STATUS_STATE p) = 1)
    (haccepted : s.link.port[p].train.accepted = true) (hgot : s.link.port[p].train.gotAccepted = true)
    (hmarkers : 64 ≤ s.link.port[p].train.markers) (hver : s.link.port[p].train.ver = 0) :
    s.rateSwitch p = s.onPort p fun l => { l with train := { l.train with
      ver := v, lanes := Vector.replicate 4 LaneTraining.reset, gotAdapted := false } } := by
  unfold State.rateSwitch
  dsimp only
  rw [hv]
  exact if_pos ⟨hstate, haccepted, hgot, hmarkers, hver, hpos⟩

theorem trainingFails_quick (h : s.link.port[p].train.quick = true) : trainsAnew p s (s.trainingFails p) := by
  unfold State.trainingFails
  rw [if_pos h]
  exact startTraining_anew_of_cfg rfl rfl

theorem trainingFails_full (h : s.link.port[p].train.quick = false) : s.trainingFails p =
    ((s.put (F.ZL_STATUS_STATE p) 0).onPort p fun l => { l with failedAt := s.clock }).raise (srcLink p 2) := by
  unfold State.trainingFails
  exact if_neg (Bool.eq_false_iff.1 h)

/-- The commands with which a port that is up goes down, each with the event of its own that comes first. -/
theorem portLost_wentDown {c : Instr} (hup : s.up = true) (hp : s.portUp p = true)
    (hc : c = .portDown p ∨ (c = .ackTimeout p ∧ ∃ r ∈ s.link.port[p].replay,
        (s.link.port[p].paused = none ∧ r.firstAt + 2000 ≤ s.clock) ∨ 4 ≤ r.sends) ∨
      (c = .remapTimeout p ∧ ∃ receive a, s.link.port[p].remapAt receive = some a ∧ a + 8000 ≤ s.clock)) :
    Answers c s fun t => WentDown p s t ∧ (c = .ackTimeout p → t.evStatus (srcLink p 5) = true) ∧
      (c = .remapTimeout p → t.evStatus (srcLink p 4) = true) := by
  have hlater {n : Nat} (hn : n < 1024) : WentDown p s ((s.raise n).portDown p) ∧ ((s.raise n).portDown p).evStatus n = true := by
    have hdown := portDown_wentDown (s.raise n) p
    exact ⟨hdown.after ((LinkKept.refl s).raise n hn) ((Onward.refl s).raise n hn), hdown.status n hn (raise_evStatus hn)⟩
  rcases hc with rfl | ⟨rfl, r, hr, hlate⟩ | ⟨rfl, receive, a, ha, hlate⟩
  · exact answers_when (g := (·.portUp p)) (f := (·.portDown p)) hup rfl hp ⟨portDown_wentDown s p, nofun, nofun⟩
  · obtain ⟨hdown, hevent⟩ := hlater (srcLink_lt p (k := 5) (by decide))
    exact answers_when (g := (·.ackLate p)) (f := fun u => (u.raise (srcLink p 5)).portDown p) hup rfl (ackLate_of hp hr hlate)
      ⟨hdown, fun _ => hevent, nofun⟩
  · obtain ⟨hdown, hevent⟩ := hlater (srcLink_lt p (k := 4) (by decide))
    exact answers_when (g := (·.remapLate p)) (f := fun u => (u.raise (srcLink p 4)).portDown p) hup rfl (remapLate_of hp ha hlate)
      ⟨hdown, nofun, fun _ => hevent⟩

/-- Settles O34: training starts anew, the frames accept the word pair and bring the port up, and a port that loses lock goes
down to train again from what it kept. -/
theorem portsTrainAndGoDown : Obligations.PortsTrainAndGoDown := by
  unfold Obligations.PortsTrainAndGoDown
  refine ⟨⟨fun s p hup => ⟨?_, ?_, ?_, ?_, ?_, ?_⟩, ?_, ?_,
      fun s p lane f hmode hmarker => exec_trainingFrame_noise hmode hmarker⟩,
    ?_, fun s p hup => answers_ifUp (f := (·.portDisable p)) hup rfl portDisable_down,
    fun s p hup => exec_ifUp (f := (·.portClr p)) hup rfl rfl⟩
  · exact fun hen => answers_ifUp (f := (·.portEnable p)) hup rfl (portEnable_anew hen)
  · intro hen hstate hdue
    have hdown : (s.get (F.ZL_STATUS_STATE p) == 0 || s.get (F.ZL_STATUS_STATE p) == 4) = true := by
      rcases hstate with h | h <;> rw [h] <;> rfl
    refine answers_when (g := fun u => u.bit (F.ZL_CFG_EN p) && (u.get (F.ZL_STATUS_STATE p) == 0 ||
      u.get (F.ZL_STATUS_STATE p) == 4) && u.retryDue p) (f := (·.startTraining p false)) hup rfl ?_ (startTraining_anew_of_cfg rfl rfl)
    have hretry : s.retryDue p = true := decide_eq_true hdue
    rw [hen, hdown, hretry]
    rfl
  · exact fun hen => answers_ifUp (f := (·.portRetrain p)) hup rfl (portRetrain_anew hen)
  · exact fun hstate hquick => answers_when (g := fun u => u.get (F.ZL_STATUS_STATE p) == 1) (f := (·.trainingFails p)) hup rfl
      (beq_iff_eq.2 hstate) (trainingFails_quick hquick)
  · exact fun hstate hfull => exec_when (g := fun u => u.get (F.ZL_STATUS_STATE p) == 1) (f := (·.trainingFails p)) hup rfl
      (beq_iff_eq.2 hstate) (trainingFails_full hfull)
  · exact exec_ifUp (f := (·.put (F.ZL_CFG_WAKE p) 1)) hup rfl rfl
  · exact fun s p v hup hv hpos hstate haccepted hgot hmarkers hver =>
      exec_ifUp (f := (·.rateSwitch p)) hup rfl (rateSwitch_eq hv hpos hstate haccepted hgot hmarkers hver)
  · intro s p lane f hmode hen hlock hstate hmarker hmask hcap hid hstatus hver hne
    have hcounts : FrameCounts s p lane f := ⟨hmode, hen, hlock, hstate, hmarker, hmask, hstatus, hver⟩
    refine ⟨fun hfirst hc hi hsame => frameCounts_accepts hcounts hcap hid hne hfirst hc hi hsame, ?_⟩
    intro haccepted hgot hadapted hresolved hoffered
    obtain ⟨t₀, t, hexec, hcame, hlane⟩ := frameCounts_cameUp hcounts haccepted hgot hadapted hresolved hoffered
    obtain ⟨fill, markers, both, tv, hport⟩ := hcame.port
    exact ⟨t, hexec, hcame.state, hcame.event, (congrArg LinkPort.cwSeq hport :), (congrArg LinkPort.rxSeq hport :),
      (congrArg LinkPort.ver hport :), by rw [hcame.rx, hlane], hcame.outs lane hlane⟩
  · intro s p c hup hp hc
    obtain ⟨t, hexec, hdown, hack, hremap⟩ := portLost_wentDown hup hp hc
    obtain ⟨hstate, hq1, hq2, hq3, hreplay, hseq⟩ := hdown.emptied
    exact ⟨t, hexec, hstate, hq1, hq2, hq3, hreplay, hseq, hdown.retrains, hdown.event, hack, hremap, hdown.trained⟩

end Sys2Proof.Machine
end

section
/-! Lanes that fail, are remapped and deskewed, and the statement on them (R191, R196, R206, R207). -/

open Sys2Proof Sys2Proof.Machine

namespace Sys2Proof.Machine

variable {s : State} {p lane : Fin 4}

/-! ## Lane masks -/

theorem rxLanes_lt (s : State) (p : Fin 4) : s.get (F.ZL_STATUS_RX_LANES p) < 16 := Nat.mod_lt _ (Nat.two_pow_pos 4)

theorem txLanes_lt (s : State) (p : Fin 4) : s.get (F.ZL_STATUS_TX_LANES p) < 16 := Nat.mod_lt _ (Nat.two_pow_pos 4)

/-- A mask of lanes that is not 0 has a lane. -/
theorem exists_lane {m : Nat} (h : m < 16) (hne : m ≠ 0) : ∃ i : Fin 4, m.testBit i = true := by
  obtain ⟨i, hi⟩ := Nat.exists_testBit_of_ne_zero hne
  have hlt : i < 4 := by
    by_contra hge
    have hsmall : m < 2 ^ i := h.trans_le (Nat.pow_le_pow_right Nat.two_pos (Nat.not_lt.1 hge))
    rw [Nat.testBit_lt_two_pow hsmall] at hi
    cases hi
  exact ⟨⟨i, hlt⟩, hi⟩

/-! ## A remap starts (R206, R207) -/

/-- A port in which the remap of a direction goes on from `now`. -/
def LinkPort.remapping (now : Nat) (receive : Bool) (l : LinkPort) : LinkPort :=
  let l := { l with paused := some (l.paused.getD now) }
  if receive then { l with rxRemap := some (l.rxRemap.getD now) } else { l with txRemap := some (l.txRemap.getD now) }

theorem startRemap_eq (s : State) (p : Fin 4) (receive : Bool) :
    s.startRemap p receive = (s.put (F.ZL_STATUS_STATE p) 3).onPort p (LinkPort.remapping s.clock receive) := rfl

theorem startRemap_port (receive : Bool) : (s.startRemap p receive).link.port[p] = s.link.port[p].remapping s.clock receive := by
  rw [startRemap_eq, port_onPort, State.put_link]

theorem startRemap_state (receive : Bool) : (s.startRemap p receive).get (F.ZL_STATUS_STATE p) = 3 := by
  rw [startRemap_eq, get_onPort, State.get_put _ _ _ (by simp)]
  rfl

/-- The other fields of STATUS, and other registers. -/
theorem startRemap_get (receive : Bool) {f : Field} (hw : f.lo + f.w ≤ 32) (hf : f.addr ≠ F.ZL_STATUS_addr p ∨ 3 ≤ f.lo) :
    (s.startRemap p receive).get f = s.get f := by
  rw [startRemap_eq, get_onPort, State.get_put_other _ _ _ _ hw (hf.imp id .inl)]

/-! ## A lane that fails (R207) -/

/-- The receive direction on its lowest-numbered lane (R191). -/
def LinkPort.rxRestart (l : LinkPort) : LinkPort := { l with rx := { l.rx with phase := 0 } }

/-- The state with a lane out of the receive mask and the remap of the receive direction started. -/
def State.laneOut (s : State) (p lane : Fin 4) : State :=
  ((s.put (F.ZL_STATUS_RX_LANES p) (s.get (F.ZL_STATUS_RX_LANES p) - 2 ^ lane.val)).startRemap p true).onPort p LinkPort.rxRestart

theorem failLane_eq (hlane : (s.get (F.ZL_STATUS_RX_LANES p)).testBit lane = true)
    (hmore : s.get (F.ZL_STATUS_RX_LANES p) ≠ 2 ^ lane.val) : s.failLane p lane = (s.laneOut p lane).sendAligns p true := by
  have hle : 2 ^ lane.val ≤ s.get (F.ZL_STATUS_RX_LANES p) := Nat.ge_two_pow_of_testBit hlane
  unfold State.failLane
  dsimp only
  rw [hlane, if_neg (by decide), if_neg (by omega)]
  rfl

theorem laneOut_rx : (s.laneOut p lane).get (F.ZL_STATUS_RX_LANES p) = s.get (F.ZL_STATUS_RX_LANES p) - 2 ^ lane.val := by
  unfold State.laneOut
  rw [get_onPort, startRemap_get _ (by simp) (by simp), State.get_put _ _ _ (by simp)]
  exact Nat.mod_eq_of_lt ((Nat.sub_le _ _).trans_lt (rxLanes_lt s p))

theorem laneOut_tx : (s.laneOut p lane).get (F.ZL_STATUS_TX_LANES p) = s.get (F.ZL_STATUS_TX_LANES p) := by
  unfold State.laneOut
  rw [get_onPort, startRemap_get _ (by simp) (by simp), State.get_put_other _ _ _ _ (by simp) (by simp)]

theorem laneOut_state : (s.laneOut p lane).get (F.ZL_STATUS_STATE p) = 3 := by
  unfold State.laneOut
  rw [get_onPort, startRemap_state]

theorem laneOut_port : (s.laneOut p lane).link.port[p] = (s.link.port[p].remapping s.clock true).rxRestart := by
  unfold State.laneOut
  rw [port_onPort, startRemap_port, State.put_link]
  rfl

theorem get_sendAligns (oot : Bool) (f : Field) : (s.sendAligns p oot).get f = s.get f :=
  congrArg f.of (reg_of_regs (congrArg State.regs (sendAligns_eq oot)) f.addr)

theorem port_sendAligns (oot : Bool) : (s.sendAligns p oot).link.port[p] = s.link.port[p] := by
  rw [sendAligns_eq]

theorem mem_sendAligns (oot : Bool) {i : Fin 4} (hi : (s.get (F.ZL_STATUS_TX_LANES p)).testBit i = true) :
    s.alignOut p oot i ∈ (s.sendAligns p oot).out := by
  rw [sendAligns_eq]
  exact List.mem_append_left _ (List.mem_reverse.2 (List.mem_map_of_mem (mem_maskLanes hi)))

/-! ## Blocks received (R191, R196, R207) -/

theorem mapM_id_of_some {α β : Type} {f : α → Option β} {g : α → β} (l : List α) (h : ∀ x ∈ l, f x = some (g x)) :
    (l.map f).mapM id = some (l.map g) := by
  induction l with
  | nil => rfl
  | cons x l ih =>
    rw [List.map_cons, List.mapM_cons, ih fun y hy => h y (List.mem_cons_of_mem _ hy), h x List.mem_cons_self]
    rfl

/-- Lanes whose last blocks carry one count and came within 40 ns are aligned. -/
theorem aligned_of {marks : Vector (Option (BitVec 16 × Nat)) 4} {lanes now : Nat} {count : BitVec 16} (hlt : lanes < 16)
    (hne : lanes ≠ 0) (h : ∀ i : Fin 4, lanes.testBit i = true → ∃ a, marks[i] = some (count, a) ∧ a ≤ now ∧ now ≤ a + 40) :
    aligned marks lanes = some true := by
  have hmem {i : Fin 4} (hi : i ∈ (List.finRange 4).filter fun (i : Fin 4) => lanes.testBit i) : lanes.testBit i = true :=
    (List.mem_filter.1 hi).2
  have hmarks := mapM_id_of_some (f := fun i : Fin 4 => marks[i]) (g := fun i : Fin 4 => marks[i].getD (count, now))
    ((List.finRange 4).filter fun (i : Fin 4) => lanes.testBit i) fun i hi => by
      obtain ⟨a, ha, -⟩ := h i (hmem hi)
      rw [ha]
      rfl
  have hall : ∀ x ∈ ((List.finRange 4).filter fun (i : Fin 4) => lanes.testBit i).map fun i : Fin 4 => marks[i].getD (count, now),
      x.1 = count ∧ x.2 ≤ now ∧ now ≤ x.2 + 40 := by
    intro x hx
    obtain ⟨i, hi, rfl⟩ := List.mem_map.1 hx
    obtain ⟨a, ha, hrange⟩ := h i (hmem hi)
    rw [ha]
    exact ⟨rfl, hrange⟩
  have hsome : ((List.finRange 4).filter fun (i : Fin 4) => lanes.testBit i).map (fun i : Fin 4 => marks[i].getD (count, now)) ≠ [] := by
    obtain ⟨i, hi⟩ := exists_lane hlt hne
    exact List.ne_nil_of_mem (List.mem_map_of_mem (List.mem_filter.2 ⟨List.mem_finRange i, hi⟩))
  unfold aligned
  dsimp only
  rw [hmarks]
  generalize ((List.finRange 4).filter fun (i : Fin 4) => lanes.testBit i).map (fun i : Fin 4 => marks[i].getD (count, now)) = l
    at hall hsome ⊢
  match l, hsome with
  | x :: xs, _ =>
    have hcount : (xs.all fun y => y.1 == x.1) = true :=
      List.all_eq_true.2 fun y hy => beq_iff_eq.2 ((hall y (List.mem_cons_of_mem _ hy)).1.trans (hall x List.mem_cons_self).1.symm)
    have hskew : ((x :: xs).all fun a => (x :: xs).all fun b => decide (a.2 ≤ b.2 + 40)) = true :=
      List.all_eq_true.2 fun a ha => List.all_eq_true.2 fun b hb =>
        decide_eq_true ((hall a ha).2.1.trans (hall b hb).2.2)
    dsimp only
    rw [hcount, if_pos rfl, hskew]

/-- The port with a scheduled block of count `count` on a lane at `now`, on the receive lanes `lanes`. -/
def LinkPort.marked (lane : Fin 4) (count : BitVec 16) (now lanes : Nat) (l : LinkPort) : LinkPort :=
  { l with marks := l.marks.set lane (some (count, now))
           rx := { l.rx with units := 672, blocks := l.rx.blocks ||| 2 ^ lane.val }
           deskewed := (aligned (l.marks.set lane (some (count, now))) lanes).getD l.deskewed }

theorem markLane_eq (count : BitVec 16) :
    s.markLane p lane count = s.onPort p (LinkPort.marked lane count s.clock (s.get (F.ZL_STATUS_RX_LANES p))) := rfl

section Block

variable {b : AlignBlock} (ham : b.am = 0x3B5DC60E#32) (hcrc : b.crc = crc16Of 8 (alignValue b))
include ham hcrc

theorem alignRx_accepts : s.alignRx p lane b = if b.oot then s.restripe p b.rxMask.toNat else s.markLane p lane b.cwCount := by
  unfold State.alignRx
  exact if_neg fun h => h.elim (fun e => e ham) fun e => e hcrc

theorem alignRx_scheduled (hoot : b.oot = false) : s.alignRx p lane b = s.markLane p lane b.cwCount := by
  rw [alignRx_accepts ham hcrc, hoot]
  rfl

theorem alignRx_outOfTurn (hoot : b.oot = true) : s.alignRx p lane b = s.restripe p b.rxMask.toNat := by
  rw [alignRx_accepts ham hcrc, hoot]
  rfl

end Block

/-! ## Restriping (R205, R207) -/

/-- The transmit direction on its lowest-numbered lane, with its scheduled blocks to come (R191). -/
def LinkPort.txRestart (l : LinkPort) : LinkPort := { l with tx := { l.tx with phase := 0, blocks := 0 } }

/-- A port that sends again every codeword not acknowledged. -/
def LinkPort.resending (l : LinkPort) : LinkPort := { l with resend := l.replay.map (·.cw.seq), rpl := l.rpl != false }

/-- The state with the transmitter on lanes `lanes` and a replay to come. -/
def State.restriped (s : State) (p : Fin 4) (lanes : Nat) : State :=
  ((((s.put (F.ZL_STATUS_TX_LANES p) lanes).startRemap p false).onPort p LinkPort.txRestart).onPort p LinkPort.resending).count
    (F.ZL_ERR_REPLAYS p)

theorem restripe_inForce {mask : Nat} (h : s.get (F.ZL_STATUS_TX_LANES p) &&& mask = s.get (F.ZL_STATUS_TX_LANES p)) :
    s.restripe p mask = s := if_pos h

theorem restripe_lost {mask : Nat} (hne : s.get (F.ZL_STATUS_TX_LANES p) ≠ 0) (h : s.get (F.ZL_STATUS_TX_LANES p) &&& mask = 0) :
    s.restripe p mask = s.portDown p := by
  unfold State.restripe
  dsimp only
  rw [h, if_neg hne.symm, if_pos rfl]

theorem restripe_eq {mask : Nat} (hne : s.get (F.ZL_STATUS_TX_LANES p) &&& mask ≠ s.get (F.ZL_STATUS_TX_LANES p))
    (h : s.get (F.ZL_STATUS_TX_LANES p) &&& mask ≠ 0) :
    s.restripe p mask = s.restriped p (s.get (F.ZL_STATUS_TX_LANES p) &&& mask) := by
  unfold State.restripe
  dsimp only
  rw [if_neg hne, if_neg h]
  rfl

section Restriped

variable (lanes : Nat)

theorem restriped_get {f : Field} (hw : f.lo + f.w ≤ 32) (hf : f.addr ≠ F.ZL_ERR_addr p) :
    (s.restriped p lanes).get f = ((s.put (F.ZL_STATUS_TX_LANES p) lanes).startRemap p false).get f := by
  unfold State.restriped State.count State.countBy
  rw [State.get_put_other _ _ _ _ hw (.inl hf), get_onPort, get_onPort]

theorem restriped_tx (h : lanes < 16) : (s.restriped p lanes).get (F.ZL_STATUS_TX_LANES p) = lanes := by
  rw [restriped_get _ (by simp) (by simp), startRemap_get _ (by simp) (by simp), State.get_put _ _ _ (by simp)]
  exact Nat.mod_eq_of_lt h

theorem restriped_state : (s.restriped p lanes).get (F.ZL_STATUS_STATE p) = 3 := by
  rw [restriped_get _ (by simp) (by simp), startRemap_state]

theorem restriped_port :
    (s.restriped p lanes).link.port[p] = (s.link.port[p].remapping s.clock false).txRestart.resending := by
  unfold State.restriped State.count State.countBy
  rw [State.put_link, port_onPort, port_onPort, startRemap_port, State.put_link]
  rfl

theorem restriped_replays : (s.restriped p lanes).get (F.ZL_ERR_REPLAYS p) =
    min (s.get (F.ZL_ERR_REPLAYS p) + 1) (2 ^ (F.ZL_ERR_REPLAYS p).w - 1) := by
  unfold State.restriped
  rw [get_count _ _ (by simp), get_onPort, get_onPort, startRemap_get _ (by simp) (by simp),
    State.get_put_other _ _ _ _ (by simp) (by simp)]

end Restriped

end Sys2Proof.Machine
end

section
/-! A remap that completes, scheduled blocks sent, and the statement on the lanes (R191, R196, R206, R207). -/

open Sys2Proof Sys2Proof.Machine

namespace Sys2Proof.Machine

variable {s : State} {p lane : Fin 4}

/-! ## A remap completes (R206, R207) -/

/-- A codeword of the replay buffer whose waiting does not count from `a` to `now`. -/
def TxCodeword.waited (a now : Nat) (r : TxCodeword) : TxCodeword := { r with firstAt := r.firstAt + (now - max a r.firstAt) }

section Remapped

variable {l : LinkPort} {receive : Bool} {now a : Nat}

/-- A port in which the remap of a direction is over. -/
def LinkPort.remapEnded (receive : Bool) (l : LinkPort) : LinkPort :=
  if receive then { l with rxRemap := none } else { l with txRemap := none }

theorem remapped_eq : ∃ paused replay, l.remapped receive now = { l.remapEnded receive with paused := paused, replay := replay } := by
  unfold LinkPort.remapped
  dsimp only
  split
  · exact ⟨_, _, rfl⟩
  · exact ⟨(l.remapEnded receive).paused, (l.remapEnded receive).replay, rfl⟩

theorem remapped_remapAt : (l.remapped receive now).remapAt receive = none ∧
    (l.remapped receive now).remapAt (!receive) = l.remapAt (!receive) := by
  obtain ⟨paused, replay, h⟩ := remapped_eq (l := l) (receive := receive) (now := now)
  rw [h]
  cases receive <;> exact ⟨rfl, rfl⟩

/-- The other direction's remap goes on. -/
theorem remapped_going (hother : l.remapAt (!receive) ≠ none) :
    (l.remapped receive now).paused = l.paused ∧ (l.remapped receive now).replay = l.replay := by
  obtain ⟨b, hb⟩ := Option.ne_none_iff_exists'.1 hother
  cases receive
  · have hrx : l.rxRemap = some b := hb
    simp [LinkPort.remapped, hrx]
  · have htx : l.txRemap = some b := hb
    simp [LinkPort.remapped, htx]

/-- No remap goes on any more. -/
theorem remapped_done (hpaused : l.paused = some a) (hother : l.remapAt (!receive) = none) : l.remapped receive now =
    { l.remapEnded receive with paused := none, replay := l.replay.map (TxCodeword.waited a now) } := by
  cases receive
  · have hrx : l.rxRemap = none := hother
    simp only [LinkPort.remapped, LinkPort.remapEnded, Bool.false_eq_true, if_false, hrx, hpaused]
    rfl
  · have htx : l.txRemap = none := hother
    simp only [LinkPort.remapped, LinkPort.remapEnded, if_true, htx, hpaused]
    rfl

end Remapped

/-- The port with a direction remapped, its state, and the remap counted: what the events of a complete remap follow. -/
def State.remapOver (s : State) (p : Fin 4) (receive : Bool) : State :=
  ((s.onPort p fun l => l.remapped receive s.clock).put (F.ZL_STATUS_STATE p)
    (if (s.link.port[p].remapped receive s.clock).paused.isNone then 2 else 3)).count (F.ZL_ERR_REMAPS p)

theorem remapDone_eq (receive : Bool) : s.remapDone p receive = ((s.remapOver p receive).raise (srcLink p 3)).raiseIf
    (s.get (if receive then F.ZL_STATUS_RX_LANES p else F.ZL_STATUS_TX_LANES p) != capLanes (s.lcap p)) (srcLink p 6) := by
  unfold State.remapDone State.remapOver
  dsimp only
  rw [port_onPort]

theorem remapOver_port (receive : Bool) : (s.remapOver p receive).link.port[p] = s.link.port[p].remapped receive s.clock := by
  unfold State.remapOver State.count State.countBy
  rw [State.put_link, State.put_link, port_onPort]

theorem remapOver_state (receive : Bool) : (s.remapOver p receive).get (F.ZL_STATUS_STATE p) =
    if (s.link.port[p].remapped receive s.clock).paused.isNone then 2 else 3 := by
  unfold State.remapOver
  rw [State.count, State.countBy, State.get_put_other _ _ _ _ (by simp) (by simp), State.get_put _ _ _ (by simp)]
  split <;> rfl

theorem remapOver_remaps (receive : Bool) : (s.remapOver p receive).get (F.ZL_ERR_REMAPS p) =
    min (s.get (F.ZL_ERR_REMAPS p) + 1) (2 ^ (F.ZL_ERR_REMAPS p).w - 1) := by
  unfold State.remapOver
  rw [get_count _ _ (by simp), State.get_put_other _ _ _ _ (by simp) (by simp), get_onPort]

/-- The end of a remap: the port, its state and REMAPS as `remapOver` has them, with event 3, and event 6 below the offer. -/
theorem remapDone_spec (receive : Bool) : LinkKept (s.remapOver p receive) (s.remapDone p receive) ∧
    (s.remapDone p receive).evStatus (srcLink p 3) = true ∧
    (s.get (if receive then F.ZL_STATUS_RX_LANES p else F.ZL_STATUS_TX_LANES p) ≠ capLanes (s.lcap p) →
      (s.remapDone p receive).evStatus (srcLink p 6) = true) := by
  have h3 : srcLink p 3 < 1024 := srcLink_lt p (by decide)
  have h6 : srcLink p 6 < 1024 := srcLink_lt p (by decide)
  rw [remapDone_eq]
  refine ⟨((LinkKept.refl _).raise _ h3).raiseIf _ _ h6, ?_, fun hless => ?_⟩
  · exact ((Onward.refl _).raiseIf _ _ h6).status _ h3 (raise_evStatus h3)
  · rw [bne_iff_ne.2 hless]
    exact raise_evStatus h6

/-! ## Scheduled blocks sent (R191, R196) -/

/-- The port with its scheduled block on a lane sent, `tx` the lanes in force. -/
def LinkPort.blockSent (lane : Fin 4) (tx : Nat) (l : LinkPort) : LinkPort :=
  let sent := l.tx.blocks ||| 2 ^ lane.val
  { l with tx := if sent &&& tx = tx then Stripe.reset else { l.tx with blocks := sent } }

theorem scheduledAlign_eq : s.scheduledAlign p lane =
    State.onPort { s with out := s.alignOut p false lane :: s.out } p (LinkPort.blockSent lane (s.get (F.ZL_STATUS_TX_LANES p))) := rfl

theorem blockSent_tx (tx : Nat) (l : LinkPort) :
    (l.blockSent lane tx).tx = Stripe.reset ∨ (l.blockSent lane tx).tx.blocks.testBit lane = true := by
  unfold LinkPort.blockSent
  dsimp only
  split
  · exact .inl rfl
  · right
    rw [Nat.testBit_or, Nat.testBit_two_pow_self, Bool.or_true]

/-! ## The statement -/

/-- The condition of ALIGNMENT_BLOCK_TX. -/
def State.alignDue (s : State) (p lane : Fin 4) : Bool :=
  s.portUp p && (s.get (F.ZL_STATUS_TX_LANES p)).testBit lane && s.link.port[p].tx.due && !s.link.port[p].tx.blocks.testBit lane

theorem alignDue_eq (hp : s.portUp p = true) (hlane : (s.get (F.ZL_STATUS_TX_LANES p)).testBit lane = true) :
    s.alignDue p lane = (decide (672 ≤ s.link.port[p].tx.units) && !s.link.port[p].tx.blocks.testBit lane) := by
  unfold State.alignDue
  rw [hp, hlane]
  rfl

theorem exec_alignmentBlockTx : exec (.alignmentBlockTx p lane) s = s.ifUp fun u => u.when (u.alignDue p lane) (·.scheduledAlign p lane) :=
  rfl

theorem exec_alignmentBlockRx {b : AlignBlock} {t : State} (hup : s.up = true) (hp : s.portUp p = true)
    (ht : s.alignRx p lane b = t) : exec (.alignmentBlockRx p lane b) s = .next t :=
  exec_when (g := (·.portUp p)) (f := (·.alignRx p lane b)) hup rfl hp ht

/-- Settles O35: what a failed lane, the blocks received and sent, and the end of a remap do to the port. -/
theorem lanesRemap : Obligations.LanesRemap := by
  unfold Obligations.LanesRemap
  refine ⟨?_, ?_, ?_, ?_⟩
  · intro s p lane hup hp hlane hmore
    refine answers_when (g := (·.portUp p)) (f := (·.failLane p lane)) hup rfl hp ?_
    rw [failLane_eq hlane hmore, get_sendAligns, get_sendAligns, port_sendAligns, laneOut_rx, laneOut_state, laneOut_port]
    refine ⟨rfl, rfl, rfl, rfl, rfl, fun i hi => ⟨(s.laneOut p lane).alignBlock p i true, ?_, rfl, ?_⟩⟩
    · rw [← laneOut_tx (lane := lane)] at hi
      have hver : (s.laneOut p lane).link.port[p].ver = s.link.port[p].ver := by
        rw [laneOut_port]
        rfl
      rw [← hver]
      exact mem_sendAligns true hi
    · exact congrArg (BitVec.ofNat 4) laneOut_rx
  · intro s p lane b tx mask hup hp ham hcrc htx hmask
    subst htx hmask
    refine ⟨fun hoot => ?_, fun hoot hforce => ?_, fun hoot hless hleft => ?_, fun hoot hne hlost => ?_⟩
    · refine ⟨_, exec_alignmentBlockRx hup hp rfl, ?_⟩
      rw [alignRx_scheduled ham hcrc hoot, markLane_eq]
      refine ⟨rfl, rfl, ?_, ?_, fun hne hmarks => ?_⟩
      · rw [port_onPort]
        exact Vector.getElem_set_self lane.isLt
      · rw [port_onPort]
        unfold LinkPort.marked
        dsimp only
        rw [Nat.testBit_or, Nat.testBit_two_pow_self, Bool.or_true]
      · rw [port_onPort] at hmarks ⊢
        exact congrArg (Option.getD · s.link.port[p].deskewed) (aligned_of (rxLanes_lt s p) hne hmarks)
    · exact exec_alignmentBlockRx hup hp
        ((alignRx_outOfTurn ham hcrc hoot).trans (restripe_inForce hforce))
    · have hlt : s.get (F.ZL_STATUS_TX_LANES p) &&& b.rxMask.toNat < 16 := Nat.and_le_left.trans_lt (txLanes_lt s p)
      refine ⟨_, exec_alignmentBlockRx hup hp rfl, ?_⟩
      rw [alignRx_outOfTurn ham hcrc hoot, restripe_eq hless hleft]
      dsimp only
      rw [restriped_tx _ hlt, restriped_state, restriped_port, restriped_replays]
      exact ⟨rfl, rfl, rfl, rfl, rfl, rfl⟩
    · have hdown := portDown_wentDown s p
      refine ⟨_, exec_alignmentBlockRx hup hp rfl, ?_⟩
      rw [alignRx_outOfTurn ham hcrc hoot, restripe_lost hne hlost]
      exact ⟨hdown.state, hdown.event⟩
  · intro s p receive a hup hp hpaused hremap
    obtain ⟨hkept, hevent, hless⟩ := remapDone_spec (s := s) (p := p) receive
    have hat : ∀ d, (s.remapDone p receive).link.port[p].remapAt d = (s.link.port[p].remapped receive s.clock).remapAt d := fun d =>
      (hkept.port p (fun l => l.remapAt d) fun _ => rfl).trans (congrArg (LinkPort.remapAt · d) (remapOver_port receive))
    have hreplay := (hkept.port p LinkPort.replay fun _ => rfl).trans (congrArg LinkPort.replay (remapOver_port receive))
    have hpause := (hkept.port p LinkPort.paused fun _ => rfl).trans (congrArg LinkPort.paused (remapOver_port receive))
    have hstate := (hkept.state p).trans (remapOver_state receive)
    have hgo : (s.portUp p && (s.link.port[p].remapAt receive).isSome) = true := by
      rw [hp, Option.isSome_iff_ne_none.2 hremap]
      rfl
    refine answers_when (g := fun u => u.portUp p && (u.link.port[p].remapAt receive).isSome) (f := (·.remapDone p receive)) hup rfl
      hgo ⟨?_, ?_, ?_, hevent, hless, fun hother => ?_, fun hother => ?_⟩
    · rw [hat, remapped_remapAt.1]
    · rw [hat, remapped_remapAt.2]
    · rw [hkept.get _ (p := p) (by simp [portRegs]), remapOver_remaps]
    · obtain ⟨hgoing, hsame⟩ := remapped_going (receive := receive) (now := s.clock) hother
      rw [hgoing, hpaused] at hstate
      exact ⟨hstate, hreplay.trans hsame⟩
    · have hdone := remapped_done (receive := receive) (now := s.clock) hpaused hother
      rw [hdone] at hstate hpause hreplay
      exact ⟨hstate, hpause, hreplay⟩
  · intro s p lane hup hp hlane
    refine ⟨fun hdue hblock => ?_, fun hno => ?_⟩
    · refine answers_when (f := (·.scheduledAlign p lane)) hup exec_alignmentBlockTx ?_ ?_
      · rw [alignDue_eq hp hlane, decide_eq_true hdue, hblock]
        rfl
      · rw [scheduledAlign_eq, port_onPort]
        exact ⟨rfl, rfl, blockSent_tx _ _⟩
    · refine exec_when_not (f := (·.scheduledAlign p lane)) hup exec_alignmentBlockTx ?_
      rw [alignDue_eq hp hlane]
      rcases hno with hearly | hsent
      · rw [decide_eq_false (Nat.not_le.2 hearly), Bool.false_and]
      · rw [hsent, Bool.not_true, Bool.and_false]

end Sys2Proof.Machine
end

section
/-! Words in memory, transmit streams, the stream table, the raw ring, the Updraft ring, and the statement on them (R211, R213–R216,
R223, R225, R396). -/

open Sys2Proof Sys2Proof.Machine

namespace Sys2Proof.Machine

variable {s : State}

/-! ## Words in memory (R14) -/

/-- Bytes read where they were written. -/
theorem readBytes_writeBytes (m : Mem) (a : Nat) (bs : List Byte) : (m.writeBytes a bs).readBytes a bs.length = bs := by
  refine List.ext_getElem (by simp [Mem.readBytes]) fun i hi hlen => ?_
  simp [Mem.readBytes, Mem.readByte_writeBytes, hlen]

/-- Bytes read beside those written. -/
theorem readBytes_writeBytes_other (m : Mem) {a b n : Nat} {bs : List Byte} (h : b + n ≤ a ∨ a + bs.length ≤ b) :
    (m.writeBytes a bs).readBytes b n = m.readBytes b n := by
  refine List.map_congr_left fun i hi => ?_
  have hlt := List.mem_range.1 hi
  rw [Mem.readByte_writeBytes, if_neg (by omega)]

theorem storeWord_open {a : Nat} (h : meetsLedgers a 4 = false) (w : Word) :
    s.storeWord a w = { s with mem := s.mem.writeBytes a (bytesOfNat 4 w.toNat) } := by
  unfold State.storeWord State.store
  rw [bytesOfNat_length, h]
  rfl

theorem word_storeWord {a : Nat} (h : meetsLedgers a 4 = false) (w : Word) : (s.storeWord a w).word a = w := by
  have hread := readBytes_writeBytes s.mem a (bytesOfNat 4 w.toNat)
  rw [bytesOfNat_length] at hread
  rw [storeWord_open h]
  unfold State.word Mem.readWord Mem.readNat
  rw [hread, natOfBytes_bytesOfNat]
  exact BitVec.eq_of_toNat_eq (by rw [BitVec.toNat_ofNat]; have := w.isLt; omega)

theorem word_storeWord_other {a b : Nat} (h : meetsLedgers a 4 = false) (hd : b + 4 ≤ a ∨ a + 4 ≤ b) (w : Word) :
    (s.storeWord a w).word b = s.word b := by
  rw [storeWord_open h]
  unfold State.word Mem.readWord Mem.readNat
  rw [readBytes_writeBytes_other _ (by rwa [bytesOfNat_length])]

/-- A part of bytes clear of the ledger region is clear of it. -/
theorem clear_of_part {a n b k : Nat} (h : meetsLedgers a n = false) (hb : a ≤ b) (hk : b + k ≤ a + n) : meetsLedgers b k = false := by
  unfold meetsLedgers at h ⊢
  rw [decide_eq_false_iff_not] at h ⊢
  omega

/-! ## Transmit streams (R213) -/

/-- The state with the header of the next packet of transmit entry `k` drawn. -/
def State.txDrawn (s : State) (k : Nat) : State :=
  ((s.put (F.ZL_TXS_SESSION k) ((s.get (F.ZL_TXS_SESSION k) + (s.bit (F.ZL_TXS_SYNC k)).toNat) % 256)).put
    (F.ZL_TXS_SYNC k) 0).wrapCount (F.ZL_TXSSN_NEXT k)

theorem txPacket_kept (k : Nat) (ty : BitVec 4) (sos eos : Bool) (data : List Byte) :
    LinkKept (s.txDrawn k) (s.txPacket k ty sos eos data) :=
  (LinkKept.refl (s.txDrawn k)).foldl (fun _ _ hu => hu.forward _ _ _ _) _

theorem txs_block (k : Fin 64) : (F.ZL_TXS_addr k / 0x10000 = 4 ∧ F.ZL_TXS_addr k ∉ raiseRegs) ∧
    F.ZL_TXSSN_addr k / 0x10000 = 4 ∧ F.ZL_TXSSN_addr k ∉ raiseRegs := by
  revert k
  decide

theorem txDrawn_next (k : Nat) : (s.txDrawn k).get (F.ZL_TXSSN_NEXT k) = (s.get (F.ZL_TXSSN_NEXT k) + 1) % 2 ^ 32 := by
  unfold State.txDrawn State.wrapCount
  rw [State.get_put _ _ _ (by simp), State.get_put_other _ _ _ _ (by simp) (by simp), State.get_put_other _ _ _ _ (by simp) (by simp)]

theorem txDrawn_sync (k : Nat) : (s.txDrawn k).bit (F.ZL_TXS_SYNC k) = false := by
  unfold State.txDrawn State.wrapCount
  rw [bit_put_other _ _ _ _ (by simp) (by simp), bit_put _ _ _ (by simp)]
  rfl

theorem txDrawn_session (k : Nat) : (s.txDrawn k).get (F.ZL_TXS_SESSION k) =
    (s.get (F.ZL_TXS_SESSION k) + (s.bit (F.ZL_TXS_SYNC k)).toNat) % 256 := by
  unfold State.txDrawn State.wrapCount
  rw [State.get_put_other _ _ _ _ (by simp) (by simp), State.get_put_other _ _ _ _ (by simp) (by simp), State.get_put _ _ _ (by simp)]
  exact Nat.mod_mod _ _

/-- The stripes that wait after the next packet of stripe `e` (R213). -/
def txRest (l : List (Nat × List Byte × Bool)) (e : Nat × List Byte × Bool) : List (Nat × List Byte × Bool) :=
  if e.2.1.length ≤ 4096 then l.erase e else (e.1, e.2.1.drop 4096, true) :: l.erase e

theorem streamTx_spec {k : Fin 64} {e : Nat × List Byte × Bool} (h : s.link.tx.find? (fun e => e.1 == k.val) = some e) :
    ∃ t, LinkKept (s.txDrawn k) t ∧ s.streamTx k = { t with link := { t.link with tx := txRest s.link.tx e } } := by
  obtain ⟨i, bs, started⟩ := e
  have hkept := txPacket_kept (s := s) k 1 (!started) (decide (bs.length ≤ 4096)) (bs.take 4096)
  refine ⟨_, hkept, ?_⟩
  have htx : (s.txPacket k 1 (!started) (decide (bs.length ≤ 4096)) (bs.take 4096)).link.tx = s.link.tx :=
    (congrArg LinkUnit.tx hkept.rest :)
  unfold State.streamTx txRest
  rw [h]
  dsimp only
  rw [htx]
  simp only [decide_eq_true_eq]

/-! ## The raw ring (R223) -/

theorem rawArrives_full {data : List Byte} (h : s.rawUnits ≤ s.rawUsed + (data.length + 63) / 64) : s.rawArrives data = s.raise 41 :=
  if_pos h

/-- Where the ring's end cuts the data, the rest is written at its base. -/
theorem rawArrives_fits {data : List Byte} {u : State} (h : s.rawUsed + (data.length + 63) / 64 < s.rawUnits)
    (hu : u = if 64 * (s.rawUnits - s.get F.ZL_RAW_WPTR_WR_64B) < data.length then
        (s.requestWrite .rawRing (4096 * s.get F.ZL_RAW_BASE_BASE + 64 * s.get F.ZL_RAW_WPTR_WR_64B)
          (data.take (64 * (s.rawUnits - s.get F.ZL_RAW_WPTR_WR_64B)))).requestWrite .rawRing (4096 * s.get F.ZL_RAW_BASE_BASE)
          (data.drop (64 * (s.rawUnits - s.get F.ZL_RAW_WPTR_WR_64B)))
      else s.requestWrite .rawRing (4096 * s.get F.ZL_RAW_BASE_BASE + 64 * s.get F.ZL_RAW_WPTR_WR_64B) data) :
    s.rawArrives data = u.put F.ZL_RAW_WPTR_WR_64B ((s.get F.ZL_RAW_WPTR_WR_64B + (data.length + 63) / 64) % s.rawUnits) := by
  subst hu
  unfold State.rawArrives State.when
  dsimp only
  rw [if_neg (Nat.not_le.2 h)]
  by_cases hcut : 64 * (s.rawUnits - s.get F.ZL_RAW_WPTR_WR_64B) < data.length
  · rw [decide_eq_true hcut, if_pos rfl, if_pos hcut]
  · rw [decide_eq_false hcut, if_neg Bool.false_ne_true, if_neg hcut, List.take_of_length_le (Nat.not_lt.1 hcut)]

theorem rawPort_put_rptr (v : Nat) (p : Fin 4) : (s.put F.ZL_RAW_RPTR_RD_64B v).rawPort p = s.rawPort p := by
  have hcfg : F.ZL_CFG_addr p ≠ F.ZL_RAW_RPTR_addr := by
    revert p
    decide
  unfold State.rawPort
  rw [bit_put_other _ _ _ _ (by simp) (.inl hcfg), bit_put_other _ _ _ _ (by simp) (by simp), State.put_link]

theorem writeRawRptr_unused {value : Word} (h : ∀ p : Fin 4, s.rawPort p = false) :
    s.writeRawRptr value = s.put F.ZL_RAW_RPTR_RD_64B (F.ZL_RAW_RPTR_RD_64B.of value) := by
  have hnone : (List.finRange 4).find? (s.put F.ZL_RAW_RPTR_RD_64B (F.ZL_RAW_RPTR_RD_64B.of value)).rawPort = none :=
    List.find?_eq_none.2 fun p _ => by rw [rawPort_put_rptr, h p]; exact Bool.false_ne_true
  unfold State.writeRawRptr
  dsimp only
  rw [hnone]

theorem rawUnits_ne_zero {p : Fin 4} (h : s.rawPort p = true) : s.rawUnits ≠ 0 := by
  unfold State.rawPort at h
  have hsize : s.get F.ZL_RAW_SIZE_SIZE_4K ≠ 0 := bne_iff_ne.1 (Bool.and_eq_true_iff.1 h).2
  unfold State.rawUnits
  omega

theorem writeRawRptr_credits {value : Word} {p : Fin 4} (h : (List.finRange 4).find? s.rawPort = some p) :
    s.writeRawRptr value = (s.put F.ZL_RAW_RPTR_RD_64B (F.ZL_RAW_RPTR_RD_64B.of value)).onPort p fun l =>
      { l with credits := l.credits + (s.get F.ZL_RAW_RPTR_RD_64B % 64 +
        (F.ZL_RAW_RPTR_RD_64B.of value + s.rawUnits - s.get F.ZL_RAW_RPTR_RD_64B % s.rawUnits) % s.rawUnits) / 64 } := by
  have hports : (s.put F.ZL_RAW_RPTR_RD_64B (F.ZL_RAW_RPTR_RD_64B.of value)).rawPort = s.rawPort :=
    funext (rawPort_put_rptr _)
  unfold State.writeRawRptr
  dsimp only
  rw [hports, h, if_neg (rawUnits_ne_zero (List.find?_some h))]

/-! ## The stream table and the local streams (R211, R225) -/

theorem stabEntry_setStab (i j : Nat) (v : Byte) : (s.setStab i v).stabEntry j = if j = i then v else s.stabEntry j :=
  assocGet_set _ _ _ _ _

theorem stabNext_index : s.stabNext.get F.ZL_STAB_ADDR_INDEX = (s.get F.ZL_STAB_ADDR_INDEX + 1) % 4096 :=
  State.get_put _ _ _ (by simp)

theorem stabNext_link : s.stabNext.link = s.link := by
  unfold State.stabNext State.wrapCount
  rw [State.put_link]

/-- The state with the register of a local stream written. -/
def State.lstreamPut (s : State) (k : Fin 8) (value : Word) : State :=
  ((s.put (F.ZL_LSTREAM_STREAM k) ((F.ZL_LSTREAM_STREAM k).of value)).put (F.ZL_LSTREAM_EN k)
    ((F.ZL_LSTREAM_EN k).of value)).put (F.ZL_LSTREAM_SESSION k) 0

theorem get_withLink (t : State) (l : LinkUnit) (f : Field) : ({ t with link := l } : State).get f = t.get f := rfl

theorem lstreamWrite_eq (k : Fin 8) (value : Word) : s.lstreamWrite k value =
    { s.lstreamPut k value with link := { s.link with ls := s.link.ls.set k LocalStream.reset } } := rfl

theorem lstreamWrite_get (k : Fin 8) (value : Word) (f : Field) : (s.lstreamWrite k value).get f = (s.lstreamPut k value).get f := by
  rw [lstreamWrite_eq]
  exact get_withLink _ _ f

/-- A field's value fits the field. -/
theorem of_mod (f : Field) (w : Word) : f.of w % 2 ^ f.w = f.of w := Nat.mod_mod _ _

theorem lstreamPut_session (k : Fin 8) (value : Word) : (s.lstreamPut k value).get (F.ZL_LSTREAM_SESSION k) = 0 := by
  unfold State.lstreamPut
  rw [State.get_put _ _ _ (by simp), Nat.zero_mod]

theorem lstreamPut_stream (k : Fin 8) (value : Word) :
    (s.lstreamPut k value).get (F.ZL_LSTREAM_STREAM k) = (F.ZL_LSTREAM_STREAM k).of value := by
  unfold State.lstreamPut
  rw [State.get_put_other _ _ _ _ (by simp) (by simp), State.get_put_other _ _ _ _ (by simp) (by simp),
    State.get_put _ _ _ (by simp), of_mod]

theorem lstreamPut_en (k : Fin 8) (value : Word) : (s.lstreamPut k value).get (F.ZL_LSTREAM_EN k) = (F.ZL_LSTREAM_EN k).of value := by
  unfold State.lstreamPut
  rw [State.get_put_other _ _ _ _ (by simp) (by simp), State.get_put _ _ _ (by simp), of_mod]

/-! ## The Updraft ring (R396) -/

section Ring

variable {x y lost : Byte} {source : BitVec 10} {tb : Word} (hbase : s.bit F.EVT_UPD_BASE_BASE = true)

theorem eventRing_again (h : (x, y, source, tb) ∈ s.evt.recent) : s.eventRing x y source lost tb = s := if_pos (.inr h)

include hbase

theorem eventRing_base (hnew : (x, y, source, tb) ∉ s.evt.recent) :
    ¬(s.get F.EVT_UPD_BASE_BASE * 1024 = 0 ∨ (x, y, source, tb) ∈ s.evt.recent) := by
  have hne : s.get F.EVT_UPD_BASE_BASE ≠ 0 := bne_iff_ne.1 hbase
  rintro (h | h)
  · omega
  · exact hnew h

theorem eventRing_full (hnew : (x, y, source, tb) ∉ s.evt.recent)
    (hfull : (s.get F.EVT_UPD_PTR_WR + 1) % 64 = s.get F.EVT_UPD_PTR_RD) :
    s.eventRing x y source lost tb = s.put F.EVT_UPD_PTR_OVERFLOW 1 :=
  (if_neg (eventRing_base hbase hnew)).trans (if_pos hfull)

theorem eventRing_written {a : Nat} (ha : a = s.get F.EVT_UPD_BASE_BASE * 1024 + 16 * s.get F.EVT_UPD_PTR_WR)
    (hnew : (x, y, source, tb) ∉ s.evt.recent) (hroom : (s.get F.EVT_UPD_PTR_WR + 1) % 64 ≠ s.get F.EVT_UPD_PTR_RD)
    (hclear : meetsLedgers a 16 = false) {t : State} (ht : s.eventRing x y source lost tb = t) :
      t.get F.EVT_UPD_PTR_WR = (s.get F.EVT_UPD_PTR_WR + 1) % 64 ∧
      t.word a = BitVec.ofNat 32 (x.toNat + 256 * y.toNat + 65536 * source.toNat) ∧ t.word (a + 4) = lost.setWidth 32 ∧
      t.word (a + 8) = tb ∧ t.word (a + 12) = s.now ∧ (x, y, source, tb) ∈ t.evt.recent := by
  have h0 : meetsLedgers a 4 = false := clear_of_part hclear (by omega) (by omega)
  have h4 : meetsLedgers (a + 4) 4 = false := clear_of_part hclear (by omega) (by omega)
  have h8 : meetsLedgers (a + 8) 4 = false := clear_of_part hclear (by omega) (by omega)
  have h12 : meetsLedgers (a + 12) 4 = false := clear_of_part hclear (by omega) (by omega)
  subst ht
  unfold State.eventRing
  dsimp only
  rw [if_neg (eventRing_base hbase hnew), if_neg hroom, ← ha]
  generalize hu : (((s.storeWord a _).storeWord (a + 4) _).storeWord (a + 8) _).storeWord (a + 12) _ = u
  have hword (v : Nat) (e : EvtUnit) (b : Nat) : (({ u with evt := e } : State).put F.EVT_UPD_PTR_WR v).word b = u.word b := rfl
  rw [hword, hword, hword, hword, ← hu]
  refine ⟨State.get_put _ _ _ (by simp), ?_, ?_, ?_, word_storeWord h12 _, ?_⟩
  · rw [word_storeWord_other h12 (by omega), word_storeWord_other h8 (by omega), word_storeWord_other h4 (by omega), word_storeWord h0]
  · rw [word_storeWord_other h12 (by omega), word_storeWord_other h8 (by omega), word_storeWord h4]
  · rw [word_storeWord_other h12 (by omega), word_storeWord h8]
  · rw [State.put_evt]
    exact List.mem_cons_self

end Ring

/-! ## The statement -/

/-- The condition of RAW_PACKET_RX. -/
theorem rawPacketRx_open {p : Fin 4} (hraw : s.rawPort p = true) (hp : s.portUp p = true) : (s.rawPort p && s.portUp p) = true := by
  rw [hraw, hp]
  rfl

/-- Settles O38: the registers and waiting stripes of a transmit entry, the restart of a local stream, the stream table through
its index, the raw ring, and an event packet written to the Updraft ring once. -/
theorem streamsRingsAndTables : Obligations.StreamsRingsAndTables := by
  unfold Obligations.StreamsRingsAndTables
  refine ⟨fun s k hup => exec_ifUp (f := (·.put (F.ZL_TXS_SYNC k) 1)) hup rfl rfl, ?_, ?_, ?_, ?_, ?_, ?_⟩
  · intro s k e hup hen he
    obtain ⟨⟨hblock, hquiet⟩, hblock', hquiet'⟩ := txs_block k
    obtain ⟨t, hkept, ht⟩ := streamTx_spec he
    have htxs (f : Field) (hf : f.addr = F.ZL_TXS_addr k) : t.get f = (s.txDrawn k).get f :=
      congrArg f.of (by rw [hf]; exact hkept.reg hblock hquiet)
    refine answers_when (g := (·.bit (F.ZL_TXS_EN k))) (f := (·.streamTx k)) hup rfl hen ?_
    rw [ht]
    refine ⟨?_, ?_, ?_, rfl⟩
    · exact (get_withLink _ _ _).trans ((congrArg (F.ZL_TXSSN_NEXT k).of (hkept.reg hblock' hquiet')).trans (txDrawn_next _))
    · exact (congrArg (· != 0) ((get_withLink _ _ _).trans (htxs (F.ZL_TXS_SYNC k) rfl))).trans (txDrawn_sync _)
    · exact (get_withLink _ _ _).trans ((htxs (F.ZL_TXS_SESSION k) rfl).trans (txDrawn_session _))
  · intro s k value hup
    refine answers_ifUp (f := (·.lstreamWrite k value)) hup rfl ?_
    rw [lstreamWrite_get, lstreamWrite_get, lstreamWrite_get, lstreamPut_session, lstreamPut_stream, lstreamPut_en, lstreamWrite_eq]
    exact ⟨Vector.getElem_set_self k.isLt, rfl, rfl, rfl, fun j hj => Vector.getElem_set_ne k.isLt j.isLt fun h => hj (Fin.ext h.symm)⟩
  · intro s value hup
    refine ⟨answers_ifUp (f := (·.stabAccess (some value))) hup rfl ⟨stabNext_index, fun i => stabEntry_setStab _ i _⟩,
      answers_ifUp (f := (·.stabAccess none)) hup rfl ⟨stabNext_index, stabNext_link, rfl⟩⟩
  · intro s p data hup hraw hp
    have hopen := rawPacketRx_open hraw hp
    refine ⟨fun hfull => exec_when (g := fun u => u.rawPort p && u.portUp p) (f := (·.rawArrives data)) hup rfl hopen
      (rawArrives_full hfull), ?_⟩
    intro u base first hfits hbase hfirst hu
    subst hbase hfirst
    exact exec_when (g := fun u => u.rawPort p && u.portUp p) (f := (·.rawArrives data)) hup rfl hopen (rawArrives_fits hfits hu)
  · intro s value old new hup hold hnew
    subst hold hnew
    exact ⟨fun hnone => exec_ifUp (f := (·.writeRawRptr value)) hup rfl (writeRawRptr_unused hnone),
      fun p hfind => exec_ifUp (f := (·.writeRawRptr value)) hup rfl (writeRawRptr_credits hfind)⟩
  · intro s x y lost source tb a hup hbase ha
    refine ⟨fun hagain => exec_ifUp (f := (·.eventRing x y source lost tb)) hup rfl (eventRing_again hagain),
      fun hnew hfull => exec_ifUp (f := (·.eventRing x y source lost tb)) hup rfl (eventRing_full hbase hnew hfull), ?_⟩
    intro hnew hroom hclear
    exact answers_ifUp (f := (·.eventRing x y source lost tb)) hup rfl (eventRing_written hbase ha hnew hroom hclear rfl)

end Sys2Proof.Machine
end

section
/-! Packets received, management requests and responses, and the statement on them (R210, R212, R218–R220, R386). -/

open Sys2Proof Sys2Proof.Machine

namespace Sys2Proof.Machine

variable {s t : State} {p : Fin 4}

/-! ## The next hop (R212) -/

/-- What the next hop depends on: the tile's address, the ports that are up, and their partners' addresses. -/
theorem hop_congr (haddr : t.reg F.ZL_ADDR_addr = s.reg F.ZL_ADDR_addr)
    (hstatus : ∀ q : Fin 4, t.reg (F.ZL_STATUS_addr q) = s.reg (F.ZL_STATUS_addr q))
    (hid : ∀ q : Fin 4, t.reg (F.ZL_PID_addr q) = s.reg (F.ZL_PID_addr q)) : t.hop = s.hop := by
  have hup (q : Fin 4) : t.portUp q = s.portUp q :=
    congrArg (fun w => (F.ZL_STATUS_STATE q).of w == 2 || (F.ZL_STATUS_STATE q).of w == 3) (hstatus q)
  have hport : t.portTo = s.portTo := by
    funext x y
    unfold State.portTo
    simp only [hup, hid]
  have hx : t.get F.ZL_ADDR_X = s.get F.ZL_ADDR_X := congrArg F.ZL_ADDR_X.of haddr
  have hy : t.get F.ZL_ADDR_Y = s.get F.ZL_ADDR_Y := congrArg F.ZL_ADDR_Y.of haddr
  funext x y route
  unfold State.hop
  rw [hx, hy, hport]

theorem hop_onPort (f : LinkPort → LinkPort) : (s.onPort p f).hop = s.hop :=
  hop_congr (reg_onPort _ _ _) (fun _ => reg_onPort _ _ _) fun _ => reg_onPort _ _ _

theorem hop_put_send (v : Nat) : (s.put F.ZL_MTX_CTL_SEND v).hop = s.hop := by
  have hne (q : Fin 4) : F.ZL_STATUS_addr q ≠ F.ZL_MTX_CTL_addr ∧ F.ZL_PID_addr q ≠ F.ZL_MTX_CTL_addr := by
    revert q
    decide
  exact hop_congr (reg_put_other _ _ _ _ (by decide)) (fun q => reg_put_other _ _ _ _ (hne q).1) fun q =>
    reg_put_other _ _ _ _ (hne q).2

/-! ## Packets received (R193, R210, R212) -/

/-- A port with a packet no longer waiting. -/
def LinkPort.without (k : Packet) (l : LinkPort) : LinkPort := { l with rxPkts := l.rxPkts.erase k }

/-- A raise leaves BADPKT alone: it counts QFULL. -/
theorem raiseRel_badPkt (p : Fin 4) : RaiseRel fun s t => t.get (F.ZL_DROP_BADPKT p) = s.get (F.ZL_DROP_BADPKT p) where
  refl _ := rfl
  trans _ _ _ h k := k.trans h
  status s n hn := by
    have hne {a : Nat} (ha : a < 0x20000) (w : Word) : (s.setReg a w).reg (F.ZL_DROP_addr p) = s.reg (F.ZL_DROP_addr p) := by
      rw [State.reg_setReg, if_neg (by unfold F.ZL_DROP_addr; omega)]
    unfold State.setStatus
    split
    · exact congrArg (F.ZL_DROP_BADPKT p).of (hne (by unfold F.EVT_AGAIN_addr; omega) _)
    · exact congrArg (F.ZL_DROP_BADPKT p).of (hne (by unfold F.EVT_STAT_addr; omega) _)
  drop s q := State.get_put_other _ _ _ _ (by simp) (.inr (.inl (by simp)))
  route s := State.get_put_other _ _ _ _ (by simp) (.inl (by simp; omega))
  port s q f := get_onPort q f _
  store s a w := congrArg (F.ZL_DROP_BADPKT p).of (reg_storeWord a _ w)
  unit _ _ := rfl
  ptr s f v hf := State.get_put_other _ _ _ _ (by simp) (.inl (by rw [hf]; show 0x40018 + 16384 * p.val ≠ 0x10204; omega))
  pin _ := rfl
  out _ _ := rfl

theorem packetIn_bad {k : Packet} (hty : k.ty = 1 ∨ k.ty = 2 ∨ k.ty = 6) (hhead : streamHead k = none) :
    s.packetIn p k = ((s.onPort p (LinkPort.without k)).count (F.ZL_DROP_BADPKT p)).raise (srcLink p 8) := by
  unfold State.packetIn
  dsimp only
  rw [if_pos hty]
  unfold State.streamPacket
  rw [hhead]
  rfl

theorem packetIn_addressed {k : Packet} (hty : k.ty = 3 ∨ k.ty = 4 ∨ k.ty = 5) :
    s.packetIn p k = (s.onPort p (LinkPort.without k)).addressed k := by
  have hno : ¬(k.ty = 1 ∨ k.ty = 2 ∨ k.ty = 6) := by
    rcases hty with h | h | h <;> rw [h] <;> decide
  unfold State.packetIn
  dsimp only
  rw [if_neg hno, if_pos hty]
  rfl

section Addressed

variable {k : Packet}

theorem addressed_port {q : Fin 4}
    (h : s.hop (k.data.getD 0 0).toNat (k.data.getD 1 0).toNat ((k.data.getD 4 0).getLsbD 0) = .port q) :
    s.addressed k = s.enqueue State.raise q false k := by
  unfold State.addressed
  rw [h]

theorem addressed_here (h : s.hop (k.data.getD 0 0).toNat (k.data.getD 1 0).toNat ((k.data.getD 4 0).getLsbD 0) = .here)
    (hty : k.ty ≠ 3) : s.addressed k = s.updraftHere k := by
  unfold State.addressed
  rw [h]
  exact if_neg hty

end Addressed

/-! ## Routing management packets (R212, R218) -/

section Route

variable {here : State → List Byte → State} {up : Bool} {bs : List Byte}

theorem routeMgmt_port {q : Fin 4} (h : s.hop (bs.getD 0 0).toNat (bs.getD 1 0).toNat ((bs.getD 4 0).getLsbD 0) = .port q) :
    s.routeMgmt here up bs = s.enqueue State.raise q false ⟨3, up, bs⟩ := by
  unfold State.routeMgmt
  rw [h]

theorem routeMgmt_nowhere (h : s.hop (bs.getD 0 0).toNat (bs.getD 1 0).toNat ((bs.getD 4 0).getLsbD 0) = .nowhere) :
    s.routeMgmt here up bs = (s.count F.ZL_ROUTE_DROP_COUNT).raise 36 := by
  unfold State.routeMgmt
  rw [h]
  rfl

theorem routeMgmt_here (h : s.hop (bs.getD 0 0).toNat (bs.getD 1 0).toNat ((bs.getD 4 0).getLsbD 0) = .here) :
    s.routeMgmt here up bs = here s bs := by
  unfold State.routeMgmt
  rw [h]

end Route

/-! ## Requests (R218, R219, R386) -/

section Request

variable {req : MgmtReq}

theorem mgmtRead_refused (h : s.sessionOk req = false) : s.mgmtRead req = s.mgmtRefused := by
  unfold State.mgmtRead
  rw [h]
  rfl

theorem mgmtWrite_refused (write : State → Nat → Word → Option State) (answer : Bool) (h : s.sessionOk req = false) :
    s.mgmtWrite write answer req = s.mgmtRefused := by
  unfold State.mgmtWrite
  rw [h]
  rfl

/-- The bits of a response's error byte. -/
def errorBits (l : List Bool) : Nat := l.foldr (fun b n => b.toNat + 2 * n) 0

/-- The first 20 bytes of a response: addresses, OP and COUNT, TAG and EPOCH, errors, 8 bytes of 0, ADDR (R218). -/
def State.answerHead (s : State) (r : MgmtReq) (bad : List Bool) : List Byte :=
  [r.srcX, r.srcY, BitVec.ofNat 8 (s.get F.ZL_ADDR_X), BitVec.ofNat 8 (s.get F.ZL_ADDR_Y),
    BitVec.ofNat 8 (r.route.toNat + 6 + 16 * r.countM1.toNat)] ++ bytesOfNat 2 (r.tag.toNat + 1024 * r.epoch.toNat) ++
    [BitVec.ofNat 8 (errorBits bad)] ++ bytesOfNat 8 0 ++ bytesOfNat 4 r.addr.toNat

/-- A response: its first 20 bytes and its words, to 62 bytes. -/
def State.answerBytes (s : State) (r : MgmtReq) (bad : List Bool) (data : List Word) : List Byte :=
  s.answerHead r bad ++ data.flatMap (fun w => bytesOfNat 4 w.toNat) ++ List.replicate (32 - 4 * data.length) 0 ++ List.replicate 10 0

theorem mgmtAnswer_eq (r : MgmtReq) (bad : List Bool) (data : List Word) :
    s.mgmtAnswer r bad data = s.routeMgmt State.mgmtResponse true (s.answerBytes r bad data) := rfl

theorem answerHead_length (r : MgmtReq) (bad : List Bool) : (s.answerHead r bad).length = 20 := by simp [State.answerHead]

/-- A response names its receiver first and carries the errors in byte 7. -/
theorem answerBytes_fields (r : MgmtReq) (bad : List Bool) (data : List Word) :
    (s.answerBytes r bad data).take 2 = [r.srcX, r.srcY] ∧
      (s.answerBytes r bad data).getD 7 0 = BitVec.ofNat 8 (errorBits bad) := ⟨rfl, rfl⟩

/-- The first word of a response. -/
theorem answerBytes_word (r : MgmtReq) (bad : List Bool) (v : Word) : bytesWord (s.answerBytes r bad [v]) 20 = v := by
  unfold State.answerBytes
  rw [List.flatMap_singleton, List.append_assoc, List.append_assoc, bytesWord_at (answerHead_length r bad)]
  exact BitVec.eq_of_toNat_eq (by rw [BitVec.toNat_ofNat]; have := v.isLt; omega)

theorem mgmtAddrs_one (h : req.countM1 = 0) : mgmtAddrs req = [req.addr.toNat] := by
  unfold mgmtAddrs
  rw [h]
  rfl

variable (hok : s.sessionOk req = true) (hcount : req.countM1 = 0)
include hok hcount

theorem mgmtRead_one {v : Word} {u : State} (h : s.restartIdle.readReg req.addr.toNat = some (v, u)) :
    s.mgmtRead req = u.mgmtAnswer req [false] [v] := by
  unfold State.mgmtRead
  rw [hok, mgmtAddrs_one hcount]
  unfold State.mgmtReads
  rw [h]
  rfl

theorem mgmtWrite_one {w : Word} (hdata : req.data = [w]) :
    s.mgmtWrite State.writeReg false req = s.restartIdle.access req.addr.toNat w := by
  unfold State.mgmtWrite
  rw [hok, mgmtAddrs_one hcount, hdata]
  rfl

theorem mgmtWriteResp_one {w : Word} (hdata : req.data = [w]) : ∃ bad words, s.mgmtWrite State.writeReg true req =
    State.mgmtAnswer { s.restartIdle.access req.addr.toNat w with free := (s.restartIdle.access req.addr.toNat w).free + 8 }
      req bad words := by
  unfold State.mgmtWrite
  rw [hok, mgmtAddrs_one hcount, hdata]
  exact ⟨_, _, rfl⟩

end Request

/-! ## Responses (R220) -/

section Response

variable {bytes : List Byte}

theorem mgmtResponse_stale (h : (bytes.getD 6 0).toNat / 4 ≠ s.get F.ZL_MGMT_EPOCH_EPOCH) :
    s.mgmtResponse bytes = (s.count F.ZL_MGMT_STAT_STALE).raise 34 := if_pos h

variable (hepoch : (bytes.getD 6 0).toNat / 4 = s.get F.ZL_MGMT_EPOCH_EPOCH) (hbase : s.bit F.ZL_MRX_BASE_BASE = true)
include hepoch hbase

theorem mgmtResponse_fresh : s.mgmtResponse bytes = if (s.get F.ZL_MRX_PTR_WR + 1) % 64 = s.get F.ZL_MRX_PTR_RD then
      (s.put F.ZL_MRX_PTR_OVERFLOW 1).raise 33
    else ((s.store (4096 * s.get F.ZL_MRX_BASE_BASE + 64 * s.get F.ZL_MRX_PTR_WR) (bytes.take 62)).put F.ZL_MRX_PTR_WR
      (s.get F.ZL_MRX_PTR_WR + 1)).raise 32 := by
  have hne : s.get F.ZL_MRX_BASE_BASE ≠ 0 := bne_iff_ne.1 hbase
  unfold State.mgmtResponse
  dsimp only
  rw [if_neg (not_not_intro hepoch), if_neg (by omega)]
  rfl

end Response

/-! ## The request image (R218, R220) -/

theorem readBytes_length (m : Mem) (a n : Nat) : (m.readBytes a n).length = n := by simp [Mem.readBytes]

/-- The bytes of a request image, `m` the 62 bytes in memory. -/
theorem requestImage_eq {m : List Byte} (h : s.mem.readBytes (64 * s.get F.ZL_MTX_ADDR_ADDR) 62 = m) : s.requestImage =
    m.take 2 ++ [BitVec.ofNat 8 (s.get F.ZL_ADDR_X), BitVec.ofNat 8 (s.get F.ZL_ADDR_Y)] ++ (m.drop 4).take 2 ++
      [BitVec.ofNat 8 ((m.getD 6 0).toNat % 4 + 4 * s.get F.ZL_MGMT_EPOCH_EPOCH)] ++ m.drop 7 := by
  subst h
  rfl

theorem requestImage_fields : s.requestImage.length = 62 ∧ s.requestImage.getD 2 0 = BitVec.ofNat 8 (s.get F.ZL_ADDR_X) ∧
    s.requestImage.getD 3 0 = BitVec.ofNat 8 (s.get F.ZL_ADDR_Y) ∧
    (s.requestImage.getD 6 0).toNat / 4 = s.get F.ZL_MGMT_EPOCH_EPOCH % 64 := by
  have hlen := readBytes_length s.mem (64 * s.get F.ZL_MTX_ADDR_ADDR) 62
  generalize hm : s.mem.readBytes (64 * s.get F.ZL_MTX_ADDR_ADDR) 62 = m at hlen
  rw [requestImage_eq hm]
  match m, hlen with
  | a :: b :: c :: d :: e :: f :: g :: l, hlen =>
    refine ⟨?_, rfl, rfl, ?_⟩
    · simp only [List.length_cons] at hlen
      simp
      omega
    · show (BitVec.ofNat 8 (g.toNat % 4 + 4 * s.get F.ZL_MGMT_EPOCH_EPOCH)).toNat / 4 = _
      rw [BitVec.toNat_ofNat]
      omega

theorem sessionOk_put_send (v : Nat) (r : MgmtReq) : (s.put F.ZL_MTX_CTL_SEND v).sessionOk r = s.sessionOk r := by
  unfold State.sessionOk
  rw [bit_put_other _ _ _ _ (by simp) (by simp), reg_put_other _ _ _ _ (by decide), reg_put_other _ _ _ _ (by decide)]

/-- A request to this tile without the session tag is refused, whatever its OP but that of a response. -/
theorem mgmtHere_refused {write : State → Nat → Word → Option State} {bs : List Byte} (hok : s.sessionOk (parseMgmt bs).2 = false)
    (hop : (parseMgmt bs).1 ≠ 3) : s.mgmtHere write bs = s.mgmtRefused := by
  unfold State.mgmtHere
  split
  next r heq => exact mgmtRead_refused (by rwa [heq] at hok)
  next r heq => exact mgmtWrite_refused _ _ (by rwa [heq] at hok)
  next r heq => exact mgmtWrite_refused _ _ (by rwa [heq] at hok)
  next r heq => exact absurd (by rw [heq]) hop
  next => rfl

/-! ## The statement -/

theorem packetRx_of {k : Packet} (hup : s.up = true) (hp : s.portUp p = true) (ht : s.packetIn p k = t) :
    exec (.packetRx p k) s = .next t :=
  exec_when (g := fun u => u.portUp p || u.link.port[p].rxPkts.contains k) (f := (·.packetIn p k)) hup rfl
    (by rw [hp, Bool.true_or]) ht

/-- Settles O39: packets that break their format, packets for other tiles and for this one, requests with and without the
session tag, responses, and the tile's own request. -/
theorem managementIsGuardedByTheSession : Obligations.ManagementIsGuardedByTheSession := by
  unfold Obligations.ManagementIsGuardedByTheSession
  refine ⟨?_, ?_, ?_, ?_, ?_, ?_⟩
  · intro s p k hup hp hty hhead
    have h8 : srcLink p 8 < 1024 := srcLink_lt p (by decide)
    have hkept : LinkKept (s.onPort p (LinkPort.without k))
        (((s.onPort p (LinkPort.without k)).count (F.ZL_DROP_BADPKT p)).raise (srcLink p 8)) :=
      ((LinkKept.refl _).putDrop _ _ (drop_mem_raiseRegs p)).raise _ h8
    refine ⟨_, packetRx_of hup hp (packetIn_bad hty hhead), raise_evStatus h8, ?_, ?_⟩
    · rw [(raiseRel_badPkt p).raise h8, get_count _ _ (by simp), get_onPort]
    · refine (hkept.port p LinkPort.rxPkts fun _ => rfl).trans ?_
      rw [port_onPort]
      rfl
  · intro s u p k hup hp hty hu
    have hin := packetIn_addressed (s := s) (p := p) hty
    have hhop : u.hop = s.hop := hu ▸ hop_onPort _
    have huup : u.up = true := hu ▸ hup
    rw [show s.onPort p (LinkPort.without k) = u from hu.symm] at hin
    refine ⟨fun q hq => packetRx_of hup hp (hin.trans (addressed_port (hhop ▸ hq))), fun hhere => ⟨fun h4 => ?_, fun h5 => ?_⟩⟩
    · have hne : k.ty ≠ 3 := by rw [h4]; decide
      have hready : u.updraftHere k = u.reportArrives (k.data.getD 2 0) (k.data.getD 3 0) (bytesWord k.data 8) := if_pos h4
      rw [packetRx_of hup hp (hin.trans ((addressed_here (hhop ▸ hhere) hne).trans hready))]
      exact (exec_ifUp (f := (·.reportArrives (k.data.getD 2 0) (k.data.getD 3 0) (bytesWord k.data 8))) huup rfl rfl).symm
    · have hne : k.ty ≠ 3 := by rw [h5]; decide
      have hno : k.ty ≠ 4 := by rw [h5]; decide
      rw [packetRx_of hup hp (hin.trans ((addressed_here (hhop ▸ hhere) hne).trans (if_neg hno)))]
      exact (exec_ifUp (f := (·.eventRing (k.data.getD 2 0) (k.data.getD 3 0)
        (BitVec.ofNat 10 ((k.data.getD 8 0).toNat + 256 * (k.data.getD 9 0).toNat)) (k.data.getD 10 0) (bytesWord k.data 12)))
        huup rfl rfl).symm
  · intro s p req hup hp hok
    exact ⟨exec_when (g := (·.portUp p)) (f := (·.mgmtRead req)) hup rfl hp (mgmtRead_refused hok),
      exec_when (g := (·.portUp p)) (f := (·.mgmtWrite State.writeReg false req)) hup rfl hp (mgmtWrite_refused _ _ hok),
      exec_when (g := (·.portUp p)) (f := (·.mgmtWrite State.writeReg true req)) hup rfl hp (mgmtWrite_refused _ _ hok)⟩
  · intro s p req w hup hp hok hcount hdata
    refine ⟨exec_when (g := (·.portUp p)) (f := (·.mgmtWrite State.writeReg false req)) hup rfl hp (mgmtWrite_one hok hcount hdata),
      ?_, fun v u hread => ?_⟩
    · obtain ⟨bad, words, hresp⟩ := mgmtWriteResp_one hok hcount hdata
      refine answers_when (g := (·.portUp p)) (f := (·.mgmtWrite State.writeReg true req)) hup rfl hp ?_
      rw [hresp, mgmtAnswer_eq]
      exact ⟨_, rfl, (answerBytes_fields req bad words).1⟩
    · obtain ⟨htake, herr⟩ := answerBytes_fields (s := u) req [false] [v]
      refine answers_when (g := (·.portUp p)) (f := (·.mgmtRead req)) hup rfl hp ?_
      rw [mgmtRead_one hok hcount hread, mgmtAnswer_eq]
      exact ⟨_, rfl, htake, answerBytes_word req [false] v, herr⟩
  · intro s bytes hup
    refine ⟨fun hstale => exec_ifUp (f := (·.mgmtResponse bytes)) hup rfl (mgmtResponse_stale hstale), fun hepoch hbase => ?_⟩
    have hfresh := mgmtResponse_fresh hepoch hbase
    exact ⟨fun hfull => exec_ifUp (f := (·.mgmtResponse bytes)) hup rfl (hfresh.trans (if_pos hfull)),
      fun hroom => exec_ifUp (f := (·.mgmtResponse bytes)) hup rfl (hfresh.trans (if_neg hroom))⟩
  · intro s bs hup hbs
    subst hbs
    have hsend {t : State} (ht : (s.put F.ZL_MTX_CTL_SEND 0).routeMgmt (State.mgmtHere State.writeReg) false s.requestImage = t) :
        exec .mgmtSend s = .next t := exec_ifUp (f := State.sendRequest (State.mgmtHere State.writeReg)) hup rfl ht
    rw [← hop_put_send (s := s) 0]
    refine ⟨fun q hq => hsend (routeMgmt_port hq), fun hnowhere => hsend (routeMgmt_nowhere hnowhere), fun hhere hok hop => ?_,
      requestImage_fields⟩
    refine hsend ((routeMgmt_here hhere).trans (mgmtHere_refused ?_ hop))
    rw [sessionOk_put_send, hok]

end Sys2Proof.Machine
end

section
/-! The registers of the time base and of the Ethernet ports, and what sets the rate and the state of the time base (R229, R233). -/

open Sys2Proof Sys2Proof.Machine

namespace Sys2Proof.Machine

/-! ## Registers of blocks TB and ETH -/

/-- Blocks TB and ETH lie between the event block and the link block: a raise changes none of their registers. -/
theorem raise_reg_timing {s : State} {n a : Nat} (h : n < 1024) (ha : a / 0x20000 = 1) : (s.raise n).reg a = s.reg a := by
  have hall : ∀ b ∈ raiseRegs, b / 0x20000 ≠ 1 := by decide
  exact raise_regsKept h a fun hm => hall a hm ha

theorem raise_get_timing {s : State} {n : Nat} {f : Field} (h : n < 1024) (hf : f.addr / 0x20000 = 1) :
    (s.raise n).get f = s.get f := congrArg f.of (raise_reg_timing h hf)

theorem raiseIf_get_timing {s : State} {n : Nat} {f : Field} (c : Bool) (h : n < 1024) (hf : f.addr / 0x20000 = 1) :
    (s.raiseIf c n).get f = s.get f := by
  cases c with
  | false => rfl
  | true => exact raise_get_timing h hf

theorem raiseIf_tb (s : State) (c : Bool) {n : Nat} (h : n < 1024) : (s.raiseIf c n).tb = s.tb := by
  cases c with
  | false => rfl
  | true => exact raise_tb h

theorem bit_eq_of_get_eq {s t : State} {f : Field} (h : t.get f = s.get f) : t.bit f = s.bit f := congrArg (· != 0) h

theorem getS_eq_of_get_eq {s t : State} {f : Field} (h : t.get f = s.get f) : t.getS f = s.getS f :=
  congrArg (fun v => (BitVec.ofNat f.w v).toInt) h

theorem get_lt (s : State) (f : Field) : s.get f < 2 ^ f.w := Nat.mod_lt _ (Nat.two_pow_pos f.w)

theorem getS_putS (s : State) (f : Field) (v : Int) (h : f.lo + f.w ≤ 32) : (s.putS f v).getS f = (BitVec.ofInt f.w v).toInt := by
  rw [State.getS, State.putS, State.get_put _ _ _ h, Nat.mod_eq_of_lt (BitVec.isLt _), BitVec.ofNat_toNat, BitVec.setWidth_eq]

/-! ## The rate (R229) -/

/-- `r` within ±`lim`. -/
def clampTo (lim : Nat) (r : Int) : Int := max (-(lim : Int)) (min lim r)

theorem natAbs_clampTo_le (lim : Nat) (r : Int) : (clampTo lim r).natAbs ≤ lim := by
  unfold clampTo
  omega

theorem clampTo_eq_self {lim : Nat} {r : Int} (h : r.natAbs ≤ lim) : clampTo lim r = r := by
  unfold clampTo
  omega

/-- A limit of 19 bits leaves a rate that TB_RATE holds. -/
theorem toInt_ofInt_clampTo {lim : Nat} {r : Int} (h : lim < 2 ^ 19) :
    (BitVec.ofInt 32 (clampTo lim r)).toInt = clampTo lim r := by
  have habs := natAbs_clampTo_le lim r
  rw [BitVec.toInt_ofInt, Int.bmod_eq_of_le (by omega) (by omega)]

theorem rate_eq_of_reg_eq {s t : State} (h : t.reg F.TB_RATE_addr = s.reg F.TB_RATE_addr) : t.rate = s.rate :=
  congrArg (fun w => (BitVec.ofNat 32 (F.TB_RATE_RATE.of w)).toInt) h

section Rate

variable (s : State) (r : Int)

theorem setRate_tb : (s.setRate r).tb = s.tb := raiseIf_tb _ _ (by decide)

theorem setRate_get {f : Field} (hf : f.addr / 0x20000 = 1) (hw : f.lo + f.w ≤ 32) (hrate : f.addr ≠ F.TB_RATE_addr)
    (hsat : f.addr ≠ F.TB_STATE_addr ∨ f.lo + f.w ≤ 5) : (s.setRate r).get f = s.get f := by
  refine (raiseIf_get_timing _ (by decide) hf).trans ?_
  rw [State.putB, State.get_put_other _ _ _ _ hw (hsat.imp_right .inr), State.putS, State.get_put_other _ _ _ _ hw (.inl hrate)]

theorem setRate_rate : (s.setRate r).rate = clampTo (s.get F.TB_RATE_LIMIT_LIM) r := by
  have hlim : s.get F.TB_RATE_LIMIT_LIM < 2 ^ 19 := get_lt s F.TB_RATE_LIMIT_LIM
  have hput (u : State) (b : Bool) (v : Int) : ((u.putS F.TB_RATE_RATE v).putB F.TB_STATE_SATURATED b).rate =
      (BitVec.ofInt 32 v).toInt := by
    refine (rate_eq_of_reg_eq (reg_put_other _ _ _ _ (by decide))).trans (getS_putS u F.TB_RATE_RATE v (by decide))
  refine (getS_eq_of_get_eq (raiseIf_get_timing _ (by decide) (by decide))).trans ((hput _ _ _).trans ?_)
  exact toInt_ofInt_clampTo hlim

/-! ## The state (R233) -/

variable (st : Nat)

theorem enterTb_tb : (s.enterTb st).tb = s.tb := setRate_tb _ _

theorem enterTb_rate : (s.enterTb st).rate = clampTo (s.get F.TB_RATE_LIMIT_LIM) s.tb.integ := by
  rw [State.enterTb, setRate_rate, State.get_put_other _ _ _ _ (by decide) (by decide)]

theorem enterTb_state : (s.enterTb st).get F.TB_STATE_STATE = st % 4 :=
  (setRate_get _ _ (by decide) (by decide) (by decide) (by decide)).trans (State.get_put _ _ _ (by decide))

theorem enterTb_get {f : Field} (hf : f.addr / 0x20000 = 1) (hw : f.lo + f.w ≤ 32) (hrate : f.addr ≠ F.TB_RATE_addr)
    (hstate : f.addr ≠ F.TB_STATE_addr) : (s.enterTb st).get f = s.get f :=
  (setRate_get _ _ hf hw hrate (.inl hstate)).trans (State.get_put_other _ _ _ _ hw (.inl hstate))

end Rate

end Sys2Proof.Machine
end

section
/-! Measurements of the time base (R230–R235): what the loop, a Gust, a held state and a step make of one. -/

open Sys2Proof Sys2Proof.Machine

namespace Sys2Proof.Machine

variable {s : State} {e : Int}

/-! ## What every measurement notes -/

/-- The error of a measurement in its registers, the source heard of now. -/
def State.measured (s : State) (e : Int) : State :=
  { (s.put F.TB_ERR_NS_NS ((BitVec.ofInt 48 e).toNat / 65536)).put F.TB_ERR_FRAC_FRAC ((BitVec.ofInt 48 e).toNat % 65536) with
    tb := { s.tb with srcLost := false, lastMeas := s.clock } }

theorem measured_reg {a : Nat} (hns : a ≠ F.TB_ERR_NS_addr) (hfrac : a ≠ F.TB_ERR_FRAC_addr) :
    (s.measured e).reg a = s.reg a := by
  change ((s.put F.TB_ERR_NS_NS _).put F.TB_ERR_FRAC_FRAC _).reg a = s.reg a
  rw [reg_put_other _ _ _ _ hfrac, reg_put_other _ _ _ _ hns]

theorem measured_get {f : Field} (hns : f.addr ≠ F.TB_ERR_NS_addr) (hfrac : f.addr ≠ F.TB_ERR_FRAC_addr) :
    (s.measured e).get f = s.get f := congrArg f.of (measured_reg hns hfrac)

theorem measured_bit {f : Field} (hns : f.addr ≠ F.TB_ERR_NS_addr) (hfrac : f.addr ≠ F.TB_ERR_FRAC_addr) :
    (s.measured e).bit f = s.bit f := bit_eq_of_get_eq (measured_get hns hfrac)

theorem measured_error : (s.measured e).get F.TB_ERR_NS_NS = (BitVec.ofInt 48 e).toNat / 65536 ∧
    (s.measured e).get F.TB_ERR_FRAC_FRAC = (BitVec.ofInt 48 e).toNat % 65536 := by
  have hlt := (BitVec.ofInt 48 e).isLt
  have hread (f : Field) : (s.measured e).get f = ((s.put F.TB_ERR_NS_NS ((BitVec.ofInt 48 e).toNat / 65536)).put
      F.TB_ERR_FRAC_FRAC ((BitVec.ofInt 48 e).toNat % 65536)).get f := rfl
  rw [hread, hread, State.get_put_other _ _ _ _ (by decide) (by decide), State.get_put _ _ _ (by decide),
    State.get_put _ _ _ (by decide)]
  exact ⟨Nat.mod_eq_of_lt (b := 2 ^ 32) (by omega), Nat.mod_eq_of_lt (b := 2 ^ 16) (by omega)⟩

/-! ## The four outcomes of a measurement (R232) -/

/-- The integrator and the output that the loop gives for a measurement. -/
def State.loop (s : State) (e : Int) : Int × Int :=
  loopOutput s.tb.integ e (s.get F.TB_GAIN_KP) (s.get F.TB_GAIN_KI) (s.get F.TB_RATE_LIMIT_LIM)

/-- A measurement within the jump limit through the loop. -/
def State.looped (s : State) (e : Int) : State :=
  ((s.put F.TB_STATE_STATE 1).setInteg (s.loop e).1).setRate (s.loop e).2

theorem measured_loop : (s.measured e).loop e = s.loop e := by
  unfold State.loop
  rw [measured_get (by decide) (by decide), measured_get (by decide) (by decide), measured_get (by decide) (by decide)]
  rfl

theorem looped_tb (s : State) (e : Int) : (s.looped e).tb = { s.tb with integ := (s.loop e).1 } := by
  rw [State.looped, setRate_tb]
  rfl

theorem setInteg_get (s : State) (i : Int) (f : Field) : (s.setInteg i).get f = s.get f := rfl

theorem looped_rate (s : State) (e : Int) : (s.looped e).rate = clampTo (s.get F.TB_RATE_LIMIT_LIM) (s.loop e).2 := by
  rw [State.looped, setRate_rate, setInteg_get, State.get_put_other _ _ _ _ (by decide) (by decide)]

theorem looped_state (s : State) (e : Int) : (s.looped e).get F.TB_STATE_STATE = 1 := by
  rw [State.looped, setRate_get _ _ (by decide) (by decide) (by decide) (by decide), setInteg_get, State.get_put _ _ _ (by decide)]
  rfl

theorem looped_get (s : State) (e : Int) {f : Field} (hf : f.addr / 0x20000 = 1) (hw : f.lo + f.w ≤ 32)
    (hrate : f.addr ≠ F.TB_RATE_addr) (hstate : f.addr ≠ F.TB_STATE_addr) : (s.looped e).get f = s.get f := by
  rw [State.looped, setRate_get _ _ hf hw hrate (.inl hstate), setInteg_get, State.get_put_other _ _ _ _ hw (.inl hstate)]

/-- What a measurement that is noted does: a step, a Gust, nothing more, or the loop. -/
def State.judged (s : State) (e : Int) : State :=
  if s.get F.TB_STATE_STATE = 0 ∨ s.bit F.TB_CTL_FORCE = true then s.stepTime e
  else if s.get F.TB_JUMP_LIMIT_NS * 65536 < e.natAbs then ((s.enterTb 3).count F.TB_GUST_COUNT).raise 912
  else if s.get F.TB_STATE_STATE = 3 then s
  else (s.looped e).raiseIf (s.get F.TB_STATE_STATE == 2) 914

theorem measure_eq (s : State) (e : Int) : s.measure e = (s.measured e).judged e := rfl

theorem measure_step (h : s.get F.TB_STATE_STATE = 0 ∨ s.bit F.TB_CTL_FORCE = true) :
    s.measure e = (s.measured e).stepTime e := by
  rw [measure_eq, State.judged, measured_get (by decide) (by decide), measured_bit (by decide) (by decide), if_pos h]

theorem measure_unforced (hst : s.get F.TB_STATE_STATE ≠ 0) (hforce : s.bit F.TB_CTL_FORCE = false) :
    s.measure e =
      if s.get F.TB_JUMP_LIMIT_NS * 65536 < e.natAbs then (((s.measured e).enterTb 3).count F.TB_GUST_COUNT).raise 912
      else if s.get F.TB_STATE_STATE = 3 then s.measured e
      else ((s.measured e).looped e).raiseIf (s.get F.TB_STATE_STATE == 2) 914 := by
  have hstep : ¬(s.get F.TB_STATE_STATE = 0 ∨ s.bit F.TB_CTL_FORCE = true) := by simp [hst, hforce]
  rw [measure_eq, State.judged, measured_get (by decide) (by decide), measured_bit (by decide) (by decide), if_neg hstep,
    measured_get (by decide) (by decide)]

end Sys2Proof.Machine
end

section
/-! A step of the time base (R235, R236), the grids of genlock and of the pulse outputs (R242, R243), and a write of TB_CTL (R233). -/

open Sys2Proof Sys2Proof.Machine

namespace Sys2Proof.Machine

variable {s : State} {e : Int}

/-! ## The counter (R227) -/

/-- Whole turns of `n` bits are lost. -/
theorem ofInt_turns (n : Nat) (t d : Int) : BitVec.ofInt n (t * 2 ^ n + d) = BitVec.ofInt n d := by
  apply BitVec.eq_of_toInt_eq
  rw [BitVec.toInt_ofInt, BitVec.toInt_ofInt, add_comm]
  exact_mod_cast Int.add_mul_bmod_self_right d t (2 ^ n)

theorem timeBase_add_value (t : TimeBase) (d : Int) : (t.add d).ns ++ (t.add d).frac = (t.ns ++ t.frac) + BitVec.ofInt 64 d := by
  have hvalue : BitVec.ofInt 64 ((t.ns ++ t.frac).toNat : Int) = t.ns ++ t.frac :=
    (BitVec.ofInt_natCast _ _).trans (BitVec.ofNat_toNat _ _)
  calc (t.add d).ns ++ (t.add d).frac
      = BitVec.ofInt 64 (t.wraps * 2 ^ 64 + (t.ns ++ t.frac).toNat + d) := BitVec.extractLsb'_append_extractLsb'
    _ = BitVec.ofInt 64 ((t.ns ++ t.frac).toNat + d) := by rw [add_assoc, ofInt_turns]
    _ = (t.ns ++ t.frac) + BitVec.ofInt 64 d := by rw [BitVec.ofInt_add, hvalue]

/-! ## A step (R235, R236) -/

/-- The time base moved by `e`, the step recorded, FORCE cleared. -/
def State.moved (s : State) (e : Int) : State :=
  let t := { s with tb := s.tb.add (e * 65536) }
  ((t.putS F.TB_STEP_NS_NS ((e + 32768) / 65536)).put F.TB_STEP_AT_NS t.tb.ns.toNat).put F.TB_CTL_FORCE 0

/-- The enabled outputs placed on their grids again. -/
def State.outsPlaced (s : State) : State :=
  (List.finRange 4).foldl (fun (u : State) (k : Fin 4) => if u.bit (F.TB_OUT_CFG_EN k) then u.placeOut k else u) s

/-- The state after a step, before the comparators that it stepped over fire. -/
def State.stepped (s : State) (e : Int) : State :=
  ((s.moved e).enterTb 1).outsPlaced.raise (srcTb (if s.bit F.TB_CTL_FORCE then 3 else 4))

theorem stepTime_eq (s : State) (e : Int) : s.stepTime e = (s.stepped e).fireReached := rfl

/-- What does not look at the pulse outputs finds the state as it was before they were placed. -/
theorem outsPlaced_keeps {α : Type} (g : State → α) (hg : ∀ (u : State) o, g { u with tb := { u.tb with outs := o } } = g u) :
    g s.outsPlaced = g s :=
  foldl_keeps g (fun u k => by
    split
    · exact hg u _
    · rfl) _ s

theorem srcTb_step_lt (c : Bool) : srcTb (if c then 3 else 4) < 1024 := by cases c <;> decide

theorem stepped_tb {α : Type} (g : TimeBase → α) (hg : ∀ (t : TimeBase) o, g { t with outs := o } = g t) :
    g (s.stepped e).tb = g (s.tb.add (e * 65536)) := by
  rw [State.stepped, raise_tb (srcTb_step_lt _), outsPlaced_keeps (fun u => g u.tb) (fun u o => hg u.tb o), enterTb_tb]
  rfl

theorem stepped_get {f : Field} (hf : f.addr / 0x20000 = 1) :
    (s.stepped e).get f = ((s.moved e).enterTb 1).get f := by
  rw [State.stepped, raise_get_timing (srcTb_step_lt _) hf, outsPlaced_keeps (State.get · f) fun _ _ => rfl]

theorem moved_get {f : Field} (hw : f.lo + f.w ≤ 32) (hf : f.addr ∉ [F.TB_STEP_NS_addr, F.TB_STEP_AT_addr, F.TB_CTL_addr]) :
    (s.moved e).get f = s.get f := by
  simp only [List.mem_cons, List.not_mem_nil, or_false, not_or] at hf
  obtain ⟨hns, hat, hctl⟩ := hf
  rw [State.moved, State.get_put_other _ _ _ _ hw (.inl hctl), State.get_put_other _ _ _ _ hw (.inl hat), State.putS,
    State.get_put_other _ _ _ _ hw (.inl hns)]
  rfl

theorem stepped_state : (s.stepped e).get F.TB_STATE_STATE = 1 := (stepped_get (by decide)).trans (enterTb_state _ 1)

theorem stepped_force : (s.stepped e).bit F.TB_CTL_FORCE = false := by
  rw [State.bit, stepped_get (by decide), enterTb_get _ _ (by decide) (by decide) (by decide) (by decide), State.moved,
    State.get_put _ _ _ (by decide)]
  rfl

theorem stepped_at : (s.stepped e).get F.TB_STEP_AT_NS = (s.stepped e).tb.ns.toNat := by
  rw [stepped_tb (fun t => t.ns) fun _ _ => rfl, stepped_get (by decide),
    enterTb_get _ _ (by decide) (by decide) (by decide) (by decide), State.moved, State.get_put_other _ _ _ _ (by decide) (by decide),
    State.get_put _ _ _ (by decide)]
  exact Nat.mod_eq_of_lt (BitVec.isLt _)

theorem stepped_rate : (s.stepped e).rate = clampTo (s.get F.TB_RATE_LIMIT_LIM) s.tb.integ := by
  refine (getS_eq_of_get_eq (stepped_get (by decide))).trans ((enterTb_rate (s.moved e) 1).trans ?_)
  rw [moved_get (by decide) (by decide)]
  rfl

theorem stepped_evStatus : (s.stepped e).evStatus (if s.bit F.TB_CTL_FORCE then 915 else 916) = true := by
  have hraised := raise_evStatus (s := ((s.moved e).enterTb 1).outsPlaced) (srcTb_step_lt (s.bit F.TB_CTL_FORCE))
  unfold State.stepped
  revert hraised
  cases s.bit F.TB_CTL_FORCE <;> exact id

/-! ## Grids (R242, R243) -/

theorem gridFrom_ahead {start now : Int} (period : Nat) (h : now ≤ start) : gridFrom start period now = some start := if_pos h

theorem gridFrom_single {start now : Int} (h : start < now) : gridFrom start 0 now = none :=
  (if_neg (not_le.2 h)).trans (if_pos rfl)

/-- A grid that began in the past has its first coming point within a period of the present. -/
theorem gridFrom_passed {start now : Int} {period : Nat} (h : start < now) (hp : period ≠ 0) :
    ∃ t, gridFrom start period now = some t ∧ now ≤ t ∧ t < now + period ∧ (t - start) % period = 0 := by
  refine ⟨_, (if_neg (not_le.2 h)).trans (if_neg hp), ?_⟩
  have hpos : (0 : Int) < period := by omega
  have hrest := Int.emod_nonneg (now - start + period - 1) hpos.ne'
  have hsmall := Int.emod_lt_of_pos (now - start + period - 1) hpos
  have hdiv := Int.emod_add_mul_ediv (now - start + period - 1) period
  have hcomm := Int.mul_comm (period : Int) ((now - start + period - 1) / period)
  refine ⟨by omega, by omega, ?_⟩
  rw [add_sub_cancel_left]
  exact Int.mul_emod_left _ _

/-! ## A write of TB_CTL (R233) -/

/-- A write's fields in TB_CTL, FORCE set where it sets it. -/
def State.ctlWritten (s : State) (v : Word) : State :=
  let t := ((s.put F.TB_CTL_SRC (F.TB_CTL_SRC.of v)).put F.TB_CTL_GL_IN (F.TB_CTL_GL_IN.of v)).put F.TB_CTL_WAKE_STEP
    (F.TB_CTL_WAKE_STEP.of v)
  if F.TB_CTL_FORCE.of v = 1 then t.put F.TB_CTL_FORCE 1 else t

/-- A source newly selected: RATE = I, DOLDRUMS from every state but ACQUIRE. -/
def State.sourceTaken (s : State) : State :=
  let t := { s with tb := { s.tb with srcLost := false, lastMeas := s.clock } }
  if s.get F.TB_STATE_STATE = 0 then t.enterTb 0 else t.enterTb 2

/-- The port in use shown. -/
def State.portShown (s : State) : State :=
  match s.timePort with
  | some p => s.put F.TB_STATE_PORT p
  | none => s

section Ctl

variable (v : Word)

theorem writeTbCtl_same (h : F.TB_CTL_SRC.of v = s.get F.TB_CTL_SRC) : s.writeTbCtl v = s.ctlWritten v := if_pos h

theorem writeTbCtl_changed (h : F.TB_CTL_SRC.of v ≠ s.get F.TB_CTL_SRC) : s.writeTbCtl v =
    (if F.TB_CTL_SRC.of v = 2 then (s.ctlWritten v).sourceTaken.glRestart else (s.ctlWritten v).sourceTaken).portShown :=
  if_neg h

theorem ctlWritten_tb : (s.ctlWritten v).tb = s.tb := by
  unfold State.ctlWritten
  dsimp only
  split <;> rfl

theorem ctlWritten_onlyRegs : OnlyRegs [F.TB_CTL_addr] s (s.ctlWritten v) := by
  unfold State.ctlWritten
  dsimp only
  constructor
  · split <;> rfl
  · intro a ha
    have hctl : a ≠ F.TB_CTL_addr := List.ne_of_not_mem_cons ha
    split
    · rw [reg_put_other _ _ _ _ hctl, reg_put_other _ _ _ _ hctl, reg_put_other _ _ _ _ hctl, reg_put_other _ _ _ _ hctl]
    · rw [reg_put_other _ _ _ _ hctl, reg_put_other _ _ _ _ hctl, reg_put_other _ _ _ _ hctl]

theorem ctlWritten_get {f : Field} (hf : f.addr ≠ F.TB_CTL_addr) : (s.ctlWritten v).get f = s.get f :=
  congrArg f.of ((ctlWritten_onlyRegs v).2 _ (by simpa using hf))

/-- The three fields that a write sets whole. -/
theorem ctlWritten_fields : (s.ctlWritten v).get F.TB_CTL_SRC = F.TB_CTL_SRC.of v ∧
    (s.ctlWritten v).get F.TB_CTL_GL_IN = F.TB_CTL_GL_IN.of v ∧
    (s.ctlWritten v).get F.TB_CTL_WAKE_STEP = F.TB_CTL_WAKE_STEP.of v := by
  have hcut (f : Field) : f.of v % 2 ^ f.w = f.of v := Nat.mod_mod _ _
  unfold State.ctlWritten
  dsimp only
  split <;>
    simp (disch := decide) only [State.get_put_other, State.get_put, hcut, and_self]

theorem ctlWritten_force : (s.ctlWritten v).bit F.TB_CTL_FORCE = (s.bit F.TB_CTL_FORCE || F.TB_CTL_FORCE.of v == 1) := by
  unfold State.ctlWritten
  dsimp only
  split
  · rename_i h
    rw [bit_put _ _ _ (by decide), h, beq_self_eq_true, Bool.or_true]
    rfl
  · rename_i h
    rw [bit_put_other _ _ _ _ (by decide) (by decide), bit_put_other _ _ _ _ (by decide) (by decide),
      bit_put_other _ _ _ _ (by decide) (by decide), beq_false_of_ne h, Bool.or_false]

theorem sourceTaken_eq (s : State) : s.sourceTaken =
    ({ s with tb := { s.tb with srcLost := false, lastMeas := s.clock } } : State).enterTb
      (if s.get F.TB_STATE_STATE = 0 then 0 else 2) := by
  unfold State.sourceTaken
  dsimp only
  split <;> rfl

theorem portShown_reg {a : Nat} (ha : a ≠ F.TB_STATE_addr) : s.portShown.reg a = s.reg a := by
  unfold State.portShown
  split
  · exact reg_put_other _ _ _ _ ha
  · rfl

theorem portShown_tb : s.portShown.tb = s.tb := by
  unfold State.portShown
  split <;> rfl

theorem portShown_state : s.portShown.get F.TB_STATE_STATE = s.get F.TB_STATE_STATE := by
  unfold State.portShown
  split
  · exact State.get_put_other _ _ _ _ (by decide) (by decide)
  · rfl

end Ctl

end Sys2Proof.Machine
end

section
/-! The statement on the sources of the time base (R229–R235, R242). -/

open Sys2Proof Sys2Proof.Machine

namespace Sys2Proof.Machine

variable {s : State}

/-! ## A software measurement (R230, R232, R235) -/

theorem measure_looped {e : Int} (hforce : s.bit F.TB_CTL_FORCE = false)
    (hst : s.get F.TB_STATE_STATE = 1 ∨ s.get F.TB_STATE_STATE = 2) (hjump : e.natAbs ≤ s.get F.TB_JUMP_LIMIT_NS * 65536) :
    s.measure e = ((s.measured e).looped e).raiseIf (s.get F.TB_STATE_STATE == 2) 914 := by
  rw [measure_unforced (by omega) hforce, if_neg (Nat.not_lt.2 hjump), if_neg (by omega)]

theorem measure_gust {e : Int} (hforce : s.bit F.TB_CTL_FORCE = false) (hst : s.get F.TB_STATE_STATE ≠ 0)
    (hjump : s.get F.TB_JUMP_LIMIT_NS * 65536 < e.natAbs) :
    s.measure e = (((s.measured e).enterTb 3).count F.TB_GUST_COUNT).raise 912 := by
  rw [measure_unforced hst hforce, if_pos hjump]

theorem measure_held {e : Int} (hforce : s.bit F.TB_CTL_FORCE = false) (hst : s.get F.TB_STATE_STATE = 3)
    (hjump : e.natAbs ≤ s.get F.TB_JUMP_LIMIT_NS * 65536) : s.measure e = s.measured e := by
  rw [measure_unforced (by omega) hforce, if_neg (Nat.not_lt.2 hjump), if_pos hst]

theorem answers_tbSwErrWrite {value : Word} (hup : s.up = true) (hsrc : s.get F.TB_CTL_SRC = 3) {Q : State → Prop}
    (h : Q (s.measure (value.toInt * 65536 + s.tb.swFrac.toNat))) : Answers (.tbSwErrWrite value) s Q :=
  answers_when (g := fun u => u.get F.TB_CTL_SRC == 3) (f := fun u => u.measure (value.toInt * 65536 + u.tb.swFrac.toNat))
    hup rfl (beq_iff_eq.2 hsrc) h

/-- A measurement within the jump limit runs the loop (R232). -/
theorem measure_within {e : Int} (hforce : s.bit F.TB_CTL_FORCE = false)
    (hst : s.get F.TB_STATE_STATE = 1 ∨ s.get F.TB_STATE_STATE = 2) (hjump : e.natAbs ≤ s.get F.TB_JUMP_LIMIT_NS * 65536) :
    (s.measure e).get F.TB_STATE_STATE = 1 ∧ (s.measure e).tb.ns = s.tb.ns ∧ (s.measure e).tb.frac = s.tb.frac ∧
    (s.measure e).tb.integ = (s.loop e).1 ∧ (s.measure e).rate = clampTo (s.get F.TB_RATE_LIMIT_LIM) (s.loop e).2 ∧
    (s.get F.TB_STATE_STATE = 2 → (s.measure e).evStatus 914 = true) := by
  have hsrc : 914 < 1024 := by decide
  have htb : ((s.measured e).looped e).tb = { (s.measured e).tb with integ := (s.loop e).1 } := by rw [looped_tb, measured_loop]
  rw [measure_looped hforce hst hjump, raiseIf_tb _ _ hsrc, htb, raiseIf_get_timing _ hsrc (by decide)]
  refine ⟨looped_state _ _, rfl, rfl, rfl, ?_, fun h => ?_⟩
  · refine (getS_eq_of_get_eq (raiseIf_get_timing _ hsrc (by decide))).trans ((looped_rate _ _).trans ?_)
    rw [measured_loop, measured_get (by decide) (by decide)]
  · rw [h]
    exact raise_evStatus hsrc

/-- A measurement beyond the jump limit is refused (R232). -/
theorem measure_beyond {e : Int} (hforce : s.bit F.TB_CTL_FORCE = false) (hst : s.get F.TB_STATE_STATE ≠ 0)
    (hjump : s.get F.TB_JUMP_LIMIT_NS * 65536 < e.natAbs) :
    (s.measure e).get F.TB_STATE_STATE = 3 ∧ (s.measure e).tb.ns = s.tb.ns ∧ (s.measure e).tb.integ = s.tb.integ ∧
    (s.measure e).evStatus 912 = true ∧ (s.measure e).get F.TB_GUST_COUNT = min (s.get F.TB_GUST_COUNT + 1) 65535 := by
  have hsrc : 912 < 1024 := by decide
  have htb : (((s.measured e).enterTb 3).count F.TB_GUST_COUNT).tb = (s.measured e).tb := enterTb_tb _ _
  rw [measure_gust hforce hst hjump, raise_tb hsrc, htb, raise_get_timing hsrc (by decide), raise_get_timing hsrc (by decide)]
  refine ⟨?_, rfl, rfl, raise_evStatus hsrc, ?_⟩
  · rw [State.count, State.countBy, State.get_put_other _ _ _ _ (by decide) (by decide), enterTb_state]
  · rw [get_count _ _ (by decide), enterTb_get _ _ (by decide) (by decide) (by decide) (by decide),
      measured_get (by decide) (by decide)]
    rfl

/-- A measurement in ACQUIRE or with FORCE set is stepped (R235). -/
theorem measure_stepped {e : Int} (h : s.bit F.TB_CTL_FORCE = true ∨ s.get F.TB_STATE_STATE = 0) : ∃ u : State,
    s.measure e = u.fireReached ∧ u.get F.TB_STATE_STATE = 1 ∧ u.bit F.TB_CTL_FORCE = false ∧ u.tb.integ = s.tb.integ ∧
    u.tb.ns ++ u.tb.frac = (s.tb.ns ++ s.tb.frac) + BitVec.ofInt 64 (e * 65536) ∧ u.get F.TB_STEP_AT_NS = u.tb.ns.toNat ∧
    u.rate = clampTo (s.get F.TB_RATE_LIMIT_LIM) s.tb.integ ∧
    u.evStatus (if s.bit F.TB_CTL_FORCE then 915 else 916) = true := by
  refine ⟨(s.measured e).stepped e, (measure_step h.symm).trans (stepTime_eq _ _), stepped_state, stepped_force,
    stepped_tb TimeBase.integ fun _ _ => rfl, ?_, stepped_at, ?_, ?_⟩
  · exact (stepped_tb (fun t => t.ns ++ t.frac) fun _ _ => rfl).trans (timeBase_add_value _ _)
  · rw [stepped_rate, measured_get (by decide) (by decide)]
    rfl
  · have hraised := stepped_evStatus (s := s.measured e) (e := e)
    rwa [measured_bit (by decide) (by decide)] at hraised

/-! ## A lost source, and one newly selected (R233, R234) -/

theorem loseSource_spec (s : State) :
    s.loseSource.get F.TB_STATE_STATE = (if s.get F.TB_STATE_STATE = 1 then 2 else s.get F.TB_STATE_STATE) ∧
    s.loseSource.tb = { s.tb with srcLost := true } ∧ s.loseSource.evStatus 913 = true := by
  have hsrc : 913 < 1024 := by decide
  have hlost : s.loseSource = (if s.get F.TB_STATE_STATE = 1 then
    ({ s with tb := { s.tb with srcLost := true } } : State).enterTb 2 else { s with tb := { s.tb with srcLost := true } }).raise
      913 := rfl
  rw [hlost, raise_tb hsrc, raise_get_timing hsrc (by decide)]
  refine ⟨?_, ?_, raise_evStatus hsrc⟩
  · split
    · exact enterTb_state _ 2
    · rfl
  · split
    · exact enterTb_tb _ 2
    · rfl

theorem sourceGone_of (hlost : s.tb.srcLost = false)
    (h : (s.get F.TB_CTL_SRC = 3 ∧ s.tb.lastMeas + max 1 (s.get F.TB_SW_TIMEOUT_MS) * 1000000 ≤ s.clock) ∨
      (s.get F.TB_CTL_SRC = 2 ∧ 2 ≤ s.tb.glMissed) ∨
      (s.get F.TB_CTL_SRC = 1 ∧ (s.timePort = none ∨ s.tb.lastMeas + 20000 ≤ s.clock))) : s.sourceGone = true := by
  unfold State.sourceGone
  obtain ⟨hsrc, hlate⟩ | ⟨hsrc, hmissed⟩ | ⟨hsrc, hport⟩ := h
  · simp [hlost, hsrc, hlate]
  · simp [hlost, hsrc, hmissed]
  · simpa [hlost, hsrc] using hport

theorem sourceTaken_state (s : State) :
    s.sourceTaken.get F.TB_STATE_STATE = (if s.get F.TB_STATE_STATE = 0 then 0 else 2) := by
  rw [sourceTaken_eq, enterTb_state]
  split <;> rfl

theorem sourceTaken_rate (s : State) : s.sourceTaken.rate = clampTo (s.get F.TB_RATE_LIMIT_LIM) s.tb.integ := by
  rw [sourceTaken_eq, enterTb_rate]
  rfl

theorem sourceTaken_get (s : State) {f : Field} (hf : f.addr / 0x20000 = 1) (hw : f.lo + f.w ≤ 32)
    (hrate : f.addr ≠ F.TB_RATE_addr) (hstate : f.addr ≠ F.TB_STATE_addr) : s.sourceTaken.get f = s.get f := by
  rw [sourceTaken_eq, enterTb_get _ _ hf hw hrate hstate]
  rfl

theorem sourceTaken_tb (s : State) : s.sourceTaken.tb = { s.tb with srcLost := false, lastMeas := s.clock } := by
  rw [sourceTaken_eq, enterTb_tb]

/-- What a write of another source sets: the source, the state and the rate, the integrator and the time kept. -/
theorem writeTbCtl_newSource {v : Word} (h : F.TB_CTL_SRC.of v ≠ s.get F.TB_CTL_SRC) :
    (s.writeTbCtl v).get F.TB_CTL_SRC = F.TB_CTL_SRC.of v ∧ (s.writeTbCtl v).tb.integ = s.tb.integ ∧
    (s.writeTbCtl v).tb.ns = s.tb.ns ∧
    (s.writeTbCtl v).get F.TB_STATE_STATE = (if s.get F.TB_STATE_STATE = 0 then 0 else 2) ∧
    (s.writeTbCtl v).rate = clampTo (s.get F.TB_RATE_LIMIT_LIM) s.tb.integ := by
  have hkept {α : Type} (g : State → α) (hg : ∀ u : State, g u.glRestart = g u) (c : Prop) [Decidable c] (u : State) :
      g (if c then u.glRestart else u) = g u := by
    split
    · exact hg u
    · rfl
  rw [writeTbCtl_changed v h, portShown_tb, portShown_state]
  refine ⟨?_, ?_, ?_, ?_, ?_⟩
  · refine (congrArg F.TB_CTL_SRC.of (portShown_reg (by decide))).trans ?_
    refine (hkept (State.get · F.TB_CTL_SRC) (fun _ => rfl) _ _).trans ?_
    exact (sourceTaken_get _ (by decide) (by decide) (by decide) (by decide)).trans (ctlWritten_fields v).1
  · rw [hkept (fun u => u.tb.integ) fun _ => rfl, sourceTaken_tb, ctlWritten_tb]
  · rw [hkept (fun u => u.tb.ns) fun _ => rfl, sourceTaken_tb, ctlWritten_tb]
  · rw [hkept (State.get · F.TB_STATE_STATE) fun _ => rfl, sourceTaken_state, ctlWritten_get v (by decide)]
  · refine (rate_eq_of_reg_eq (portShown_reg (by decide))).trans ?_
    rw [hkept State.rate fun _ => rfl, sourceTaken_rate, ctlWritten_get v (by decide), ctlWritten_tb]

/-! ## The rate and its limit (R229, R250) -/

theorem writeRate_own {value : Word} (h : s.get F.TB_CTL_SRC = 0) :
    s.writeRate value = (s.setRate value.toInt).setInteg (s.setRate value.toInt).rate := by
  rw [State.writeRate, h]
  rfl

theorem writeRate_followed {value : Word} (h : s.get F.TB_CTL_SRC ≠ 0) : s.writeRate value = s := by
  rw [State.writeRate, beq_false_of_ne h, State.when_false]

/-- What a write of TB_RATE_LIMIT sets: the limit, and rate and integrator within it. -/
theorem writeRateLimit_spec (s : State) (value : Word) (lim : Nat) (h : lim = min 429496 (F.TB_RATE_LIMIT_LIM.of value)) :
    (s.writeRateLimit value).get F.TB_RATE_LIMIT_LIM = lim ∧ (s.writeRateLimit value).rate = clampTo lim s.rate ∧
    (s.writeRateLimit value).tb.integ = clampTo lim s.tb.integ := by
  have hlim : (s.put F.TB_RATE_LIMIT_LIM lim).get F.TB_RATE_LIMIT_LIM = lim :=
    (State.get_put _ _ _ (by decide)).trans (Nat.mod_eq_of_lt (b := 2 ^ 19) (by omega))
  have hrate : (s.put F.TB_RATE_LIMIT_LIM lim).rate = s.rate := rate_eq_of_reg_eq (reg_put_other _ _ _ _ (by decide))
  have hwrite : s.writeRateLimit value = ((s.put F.TB_RATE_LIMIT_LIM lim).setInteg (clampTo lim s.tb.integ)).setRate
      (s.put F.TB_RATE_LIMIT_LIM lim).rate := by
    rw [h]
    rfl
  rw [hwrite, setRate_get _ _ (by decide) (by decide) (by decide) (by decide), setRate_rate, setRate_tb, hrate]
  exact ⟨hlim, congrArg (clampTo · _) hlim, rfl⟩

/-! ## Genlock (R242) -/

theorem exec_genlockEdgeMissing (hup : s.up = true) (hsrc : s.get F.TB_CTL_SRC = 2)
    (hlate : (s.glPeriod : Int) < 2 * (s.nowWide - s.tb.glNext)) : exec .genlockEdgeMissing s = .next s.missEdge :=
  exec_when (g := fun u => u.get F.TB_CTL_SRC == 2 && decide ((u.glPeriod : Int) < 2 * (u.nowWide - u.tb.glNext)))
    (f := State.missEdge) hup rfl (Bool.and_eq_true_iff.2 ⟨beq_iff_eq.2 hsrc, decide_eq_true hlate⟩) rfl

theorem writeGlPhase_other {value : Word} (h : s.get F.TB_CTL_SRC ≠ 2) :
    s.writeGlPhase value = s.put F.TB_GL_PHASE_NS value.toNat := by
  unfold State.writeGlPhase
  dsimp only
  rw [State.get_put_other _ _ _ _ (by decide) (by decide), beq_false_of_ne h, State.when_false]

/-- With SRC 2 the expected edge is the first point of the new grid that is not in the past. -/
theorem writeGlPhase_restarts {value : Word} {start : Int} (hstart : start = s.wide (ns48 value.toNat 0))
    (h : s.get F.TB_CTL_SRC = 2) : s.writeGlPhase value = { s.put F.TB_GL_PHASE_NS value.toNat with
      tb := { s.tb with glNext := (gridFrom start s.glPeriod s.nowWide).getD start, glMissed := 0 } } := by
  have hphase : (s.put F.TB_GL_PHASE_NS value.toNat).get F.TB_GL_PHASE_NS = value.toNat :=
    (State.get_put _ _ _ (by decide)).trans (Nat.mod_eq_of_lt value.isLt)
  have hperiod : (s.put F.TB_GL_PHASE_NS value.toNat).glPeriod = s.glPeriod := by
    unfold State.glPeriod
    rw [State.get_put_other _ _ _ _ (by decide) (by decide), State.get_put_other _ _ _ _ (by decide) (by decide)]
  unfold State.writeGlPhase
  dsimp only
  rw [State.get_put_other _ _ _ _ (by decide) (by decide), h, beq_self_eq_true, State.when_true, State.glRestart, hphase, hperiod,
    hstart]
  rfl

/-! ## The statement -/

/-- Settles O40: a measurement by its three outcomes (`measure_within`, `measure_beyond`, `measure_stepped`), the sources by
`loseSource_spec` and `writeTbCtl_newSource`, the rate by `setRate_rate`, genlock by its grid. -/
theorem timeBaseFollowsItsSource : Obligations.TimeBaseFollowsItsSource := by
  unfold Obligations.TimeBaseFollowsItsSource
  refine ⟨?_, ?_, ?_, ?_, ?_, ?_, ?_⟩
  · rintro s value e p hup hsrc rfl rfl
    refine ⟨fun hforce hst hjump => answers_tbSwErrWrite hup hsrc ?_, fun hforce hst hjump => answers_tbSwErrWrite hup hsrc ?_,
      fun hforce hst hjump => answers_tbSwErrWrite hup hsrc ?_, fun hstep => answers_tbSwErrWrite hup hsrc ?_⟩
    · obtain ⟨hstate, hns, hfrac, hinteg, hrate, hevent⟩ := measure_within hforce hst hjump
      exact ⟨hstate, hns, hfrac, hinteg, hrate.trans (by rw [hinteg]; rfl), hevent⟩
    · exact measure_beyond hforce hst hjump
    · rw [measure_held hforce hst hjump]
      exact ⟨(measured_get (by decide) (by decide)).trans hst, rate_eq_of_reg_eq (measured_reg (by decide) (by decide)), rfl⟩
    · exact measure_stepped hstep
  · intro s hup hlost hgone
    obtain ⟨hstate, htb, hevent⟩ := loseSource_spec s
    refine answers_when (g := State.sourceGone) (f := State.loseSource) hup rfl (sourceGone_of hlost hgone) ?_
    rw [htb]
    exact ⟨hstate, rfl, rfl, rfl, rfl, hevent⟩
  · exact fun s hup => exec_ifUp (f := (·.put F.TB_CTL_FORCE 1)) hup rfl rfl
  · intro s value hup
    refine ⟨fun hsame => answers_ifUp (f := (·.writeTbCtl value)) hup rfl ?_,
      fun hnew => answers_ifUp (f := (·.writeTbCtl value)) hup rfl (writeTbCtl_newSource hnew)⟩
    rw [writeTbCtl_same value hsame]
    exact ⟨ctlWritten_onlyRegs value, (ctlWritten_fields value).2.1, (ctlWritten_fields value).2.2, ctlWritten_force value⟩
  · intro s value hup
    refine ⟨fun hown => answers_ifUp (f := (·.writeRate value)) hup rfl ?_,
      fun hother => exec_ifUp (f := (·.writeRate value)) hup rfl (writeRate_followed hother),
      answers_ifUp (f := (·.writeRateLimit value)) hup rfl ?_⟩
    · rw [writeRate_own hown]
      exact ⟨rfl, setRate_rate s value.toInt⟩
    · obtain ⟨hlim, hrate, hinteg⟩ := writeRateLimit_spec s value _ rfl
      rw [hlim, hrate, hinteg]
      exact ⟨rfl, natAbs_clampTo_le _ _, natAbs_clampTo_le _ _, clampTo_eq_self⟩
  · exact fun s hup hsrc hlate => exec_genlockEdgeMissing hup hsrc hlate
  · intro s value start hup hstart
    refine ⟨fun hother => exec_ifUp (f := (·.writeGlPhase value)) hup rfl (writeGlPhase_other hother), fun hsrc hahead => ?_,
      fun hsrc hpassed hperiod => answers_ifUp (f := (·.writeGlPhase value)) hup rfl ?_⟩
    · refine exec_ifUp (f := (·.writeGlPhase value)) hup rfl ?_
      rw [writeGlPhase_restarts hstart hsrc, gridFrom_ahead _ hahead]
      rfl
    · obtain ⟨t, hgrid, hnow, hnext, hpoint⟩ := gridFrom_passed hpassed hperiod
      rw [writeGlPhase_restarts hstart hsrc, hgrid]
      exact ⟨hnow, hnext, hpoint⟩

end Sys2Proof.Machine
end

section
/-! Captures and pulse outputs (R228, R241–R243). -/

open Sys2Proof Sys2Proof.Machine

namespace Sys2Proof.Machine

variable {s : State} {k : Fin 4}

/-! ## Registers of the inputs and outputs -/

theorem tbIn_timing (j : Nat) (k : Fin 4) (hj : j ≤ 8) : (0x20100 + j + 16 * k.val) / 0x20000 = 1 := by
  have := k.isLt
  omega

theorem tbOut_timing (j : Nat) (k : Fin 4) (hj : j ≤ 20) : (0x20200 + j + 32 * k.val) / 0x20000 = 1 := by
  have := k.isLt
  omega

theorem srcTb_lt {j : Nat} (h : j < 24) : srcTb j < 1024 := by
  unfold srcTb
  omega

/-! ## Captures (R241) -/

/-- A capture in its registers, with its event. -/
def State.captureNoted (s : State) (k : Fin 4) (c : BitVec 48) : State :=
  (((s.put (F.TB_IN_NS_NS k) (c.toNat / 65536)).put (F.TB_IN_FRAC_FRAC k) (c.toNat % 65536)).wrapCount
    (F.TB_IN_FRAC_COUNT k)).raise (srcTb (8 + k))

/-- A capture noted, with the overrun where the last one was not read. -/
def State.captureJudged (s : State) (k : Fin 4) (c : BitVec 48) : State :=
  if s.tb.unread.getLsbD k then ((s.captureNoted k c).put (F.TB_IN_CFG_OVERRUN k) 1).raise (srcTb (12 + k))
  else s.captureNoted k c

theorem capture_eq (s : State) (k : Fin 4) (c : BitVec 48) : s.capture k c = { s.captureJudged k c with
    tb := { (s.captureJudged k c).tb with unread := (s.captureJudged k c).tb.unread ||| (1#4 <<< k.val) } } := rfl

theorem captureNoted_tb (c : BitVec 48) : (s.captureNoted k c).tb = s.tb := raise_tb (srcTb_lt (by omega))

theorem captureJudged_tb (c : BitVec 48) : (s.captureJudged k c).tb = s.tb := by
  unfold State.captureJudged
  split
  · exact (raise_tb (srcTb_lt (by omega))).trans (captureNoted_tb c)
  · exact captureNoted_tb c

theorem capture_tb (c : BitVec 48) : (s.capture k c).tb = { s.tb with unread := s.tb.unread ||| (1#4 <<< k.val) } := by
  rw [capture_eq, captureJudged_tb]

theorem captureNoted_get (c : BitVec 48) {f : Field} (hf : f.addr / 0x20000 = 1) (hw : f.lo + f.w ≤ 32)
    (hns : f.addr ≠ F.TB_IN_NS_addr k) (hfrac : f.addr ≠ F.TB_IN_FRAC_addr k) : (s.captureNoted k c).get f = s.get f := by
  rw [State.captureNoted, raise_get_timing (srcTb_lt (by omega)) hf, State.wrapCount, State.get_put_other _ _ _ _ hw (.inl hfrac),
    State.get_put_other _ _ _ _ hw (.inl hfrac), State.get_put_other _ _ _ _ hw (.inl hns)]

theorem capture_get (c : BitVec 48) {f : Field} (hf : f.addr / 0x20000 = 1) (hw : f.lo + f.w ≤ 32)
    (hcfg : f.addr ≠ F.TB_IN_CFG_addr k) : (s.capture k c).get f = (s.captureNoted k c).get f := by
  change (s.captureJudged k c).get f = _
  unfold State.captureJudged
  split
  · rw [raise_get_timing (srcTb_lt (by omega)) hf, State.get_put_other _ _ _ _ hw (.inl hcfg)]
  · rfl

/-- A capture leaves every register of the time base below the inputs' as it was. -/
theorem capture_get_low (c : BitVec 48) {f : Field} (hf : f.addr / 0x20000 = 1) (hlow : f.addr < 0x20100) (hw : f.lo + f.w ≤ 32) :
    (s.capture k c).get f = s.get f := by
  rw [capture_get c hf hw (by simp only [F.TB_IN_CFG_addr]; omega), captureNoted_get c hf hw (by simp only [F.TB_IN_NS_addr]; omega)
    (by simp only [F.TB_IN_FRAC_addr]; omega)]

theorem capture_registers (c : BitVec 48) : (s.capture k c).get (F.TB_IN_NS_NS k) = c.toNat / 65536 ∧
    (s.capture k c).get (F.TB_IN_FRAC_FRAC k) = c.toNat % 65536 ∧
    (s.capture k c).get (F.TB_IN_FRAC_COUNT k) = (s.get (F.TB_IN_FRAC_COUNT k) + 1) % 65536 := by
  have hlt := c.isLt
  have hns := tbIn_timing 4 k (by decide)
  have hfrac := tbIn_timing 8 k (by decide)
  have hsrc : srcTb (8 + k) < 1024 := srcTb_lt (by omega)
  rw [capture_get c hns (by simp) (by simp), capture_get c hfrac (by simp) (by simp), capture_get c hfrac (by simp) (by simp)]
  unfold State.captureNoted State.wrapCount
  rw [raise_get_timing hsrc hns, raise_get_timing hsrc hfrac, raise_get_timing hsrc hfrac]
  rw [State.get_put_other _ _ _ _ (by simp) (by simp), State.get_put_other _ _ _ _ (by simp) (by simp), State.get_put _ _ _ (by simp),
    State.get_put_other _ _ _ _ (by simp) (by simp), State.get_put _ _ _ (by simp), State.get_put _ _ _ (by simp),
    State.get_put_other _ _ _ _ (by simp) (by simp), State.get_put_other _ _ _ _ (by simp) (by simp)]
  exact ⟨Nat.mod_eq_of_lt (b := 2 ^ 32) (by omega), Nat.mod_eq_of_lt (b := 2 ^ 16) (by omega), rfl⟩

theorem captureNoted_evStatus (c : BitVec 48) : (s.captureNoted k c).evStatus (920 + k) = true := by
  have hnumber : srcTb (8 + k) = 920 + k := by unfold srcTb; omega
  rw [State.captureNoted, hnumber]
  exact raise_evStatus (by omega)

theorem captureJudged_onward (c : BitVec 48) : Onward (s.captureNoted k c) (s.captureJudged k c) := by
  have hcfg : 0x20000 ≤ F.TB_IN_CFG_addr k := by simp only [F.TB_IN_CFG_addr]; omega
  exact Onward.ite (((Onward.refl _).put _ _ hcfg).raise _ (srcTb_lt (by omega))) (Onward.refl _)

theorem capture_evStatus (c : BitVec 48) : (s.capture k c).evStatus (920 + k) = true :=
  (captureJudged_onward c).status _ (by omega) (captureNoted_evStatus c)

/-- A capture that finds the last one unread. -/
theorem capture_overrun (c : BitVec 48) (h : s.tb.unread.getLsbD k = true) :
    (s.capture k c).bit (F.TB_IN_CFG_OVERRUN k) = true ∧ (s.capture k c).evStatus (924 + k) = true := by
  have hsrc : srcTb (12 + k) < 1024 := srcTb_lt (by omega)
  have hnumber : srcTb (12 + k) = 924 + k := by unfold srcTb; omega
  have hjudged : s.captureJudged k c = ((s.captureNoted k c).put (F.TB_IN_CFG_OVERRUN k) 1).raise (srcTb (12 + k)) := if_pos h
  change (s.captureJudged k c).bit _ = true ∧ (s.captureJudged k c).evStatus _ = true
  rw [hjudged]
  constructor
  · rw [bit_eq_of_get_eq (raise_get_timing hsrc (tbIn_timing 0 k (by decide))), bit_put _ _ _ (by simp)]
    rfl
  · rw [hnumber]
    exact raise_evStatus (by omega)

theorem getLsbD_mark (w : BitVec 4) (k : Fin 4) : (w ||| (1#4 <<< k.val)).getLsbD k = true := by
  revert w k
  decide

theorem captures_of {rising : Bool}
    (h : s.get (F.TB_IN_CFG_EDGE k) = 3 ∨ s.get (F.TB_IN_CFG_EDGE k) = (if rising then 1 else 2)) :
    s.captures k rising = true := by
  unfold State.captures
  obtain h | h := h
  · rw [h]
    rfl
  · rw [h]
    cases rising <;> rfl

theorem wide_of_tb {t : State} {x : BitVec 4} (h : t.tb = { s.tb with unread := x }) (c : BitVec 48) : t.wide c = s.wide c := by
  unfold State.wide State.nowWide State.now48
  rw [h]

/-- A capture that genlock does not take changes its input alone. -/
theorem captureIn_plain (c : BitVec 48) (h : s.get F.TB_CTL_SRC ≠ 2 ∨ s.get F.TB_CTL_GL_IN ≠ k) :
    s.captureIn k c = s.capture k c := by
  refine if_neg fun hgenlock => ?_
  rw [capture_get_low c (by decide) (by decide) (by decide), capture_get_low c (by decide) (by decide) (by decide)] at hgenlock
  exact h.elim (· hgenlock.1) (· hgenlock.2)

/-- A capture of the genlock input moves the expected edge on and measures (R242). -/
theorem captureIn_genlock (c : BitVec 48) (hsrc : s.get F.TB_CTL_SRC = 2) (hin : s.get F.TB_CTL_GL_IN = k) :
    s.captureIn k c = ({ s.capture k c with
      tb := { (s.capture k c).tb with glNext := s.tb.glNext + s.glPeriod, glMissed := 0 } } : State).measure
        (s.tb.glNext - s.wide c) := by
  have hperiod : (s.capture k c).glPeriod = s.glPeriod := by
    unfold State.glPeriod
    rw [capture_get_low c (by decide) (by decide) (by decide), capture_get_low c (by decide) (by decide) (by decide)]
  have hnext : (s.capture k c).tb.glNext = s.tb.glNext := by rw [capture_tb]
  rw [← hperiod, ← hnext, ← wide_of_tb (capture_tb c) c]
  refine if_pos ?_
  rw [capture_get_low c (by decide) (by decide) (by decide), capture_get_low c (by decide) (by decide) (by decide)]
  exact ⟨hsrc, hin⟩

/-- A measurement that is not stepped leaves its error in the registers (R232). -/
theorem measure_error {e : Int} (hst : s.get F.TB_STATE_STATE ≠ 0) (hforce : s.bit F.TB_CTL_FORCE = false) :
    (s.measure e).get F.TB_ERR_NS_NS = (BitVec.ofInt 48 e).toNat / 65536 ∧
    (s.measure e).get F.TB_ERR_FRAC_FRAC = (BitVec.ofInt 48 e).toNat % 65536 := by
  have hkept (f : Field) (hf : f = F.TB_ERR_NS_NS ∨ f = F.TB_ERR_FRAC_FRAC) : (s.measure e).get f = (s.measured e).get f := by
    have htiming : f.addr / 0x20000 = 1 := by obtain rfl | rfl := hf <;> decide
    have hw : f.lo + f.w ≤ 32 := by obtain rfl | rfl := hf <;> decide
    have hrate : f.addr ≠ F.TB_RATE_addr := by obtain rfl | rfl := hf <;> decide
    have hstate : f.addr ≠ F.TB_STATE_addr := by obtain rfl | rfl := hf <;> decide
    have hgust : f.addr ≠ F.TB_GUST_addr := by obtain rfl | rfl := hf <;> decide
    rw [measure_unforced hst hforce]
    split
    · rw [raise_get_timing (by decide) htiming, State.count, State.countBy, State.get_put_other _ _ _ _ hw (.inl hgust),
        enterTb_get _ _ htiming hw hrate hstate]
    · split
      · rfl
      · rw [raiseIf_get_timing _ (by decide) htiming, looped_get _ _ htiming hw hrate hstate]
  rw [hkept _ (.inl rfl), hkept _ (.inr rfl)]
  exact measured_error

/-! ## Pulse outputs (R243) -/

theorem outs_onOut (s : State) (k : Fin 4) (f : TbOut → TbOut) : (s.onOut k f).tb.outs[k] = f s.tb.outs[k] :=
  Vector.getElem_set_self k.isLt

theorem placeOut_of_point {t : Int} (h : gridFrom s.tb.outs[k].origin (s.outPeriod k) s.nowWide = some t) :
    (s.placeOut k).tb.outs[k] = { s.tb.outs[k] with next := t, armed := s.bit (F.TB_OUT_CFG_EN k) } := by
  rw [State.placeOut, outs_onOut, h]

theorem placeOut_of_none (h : gridFrom s.tb.outs[k].origin (s.outPeriod k) s.nowWide = none) :
    (s.placeOut k).tb.outs[k] = { s.tb.outs[k] with armed := false } := by
  rw [State.placeOut, outs_onOut, h]

theorem placeOut_keeps {α : Type} (g : TbOut → α) (hg : ∀ o next armed, g { o with next, armed } = g o) :
    g (s.placeOut k).tb.outs[k] = g s.tb.outs[k] := by
  cases h : gridFrom s.tb.outs[k].origin (s.outPeriod k) s.nowWide with
  | none => rw [placeOut_of_none h, hg _ s.tb.outs[k].next]
  | some t => rw [placeOut_of_point h, hg]

/-- Where the grid of TB_OUT[k] begins: at START, moved by a STEP that waits. -/
def State.outStart (s : State) (k : Fin 4) : Int :=
  s.wide (ns48 (s.get (F.TB_OUT_START_NS k)) 0) + s.getS (F.TB_OUT_STEP_STEP k) * 4096

/-- TB_OUT[k] enabled, its grid not yet placed. -/
def State.outStarted (s : State) (k : Fin 4) : State :=
  (s.put (F.TB_OUT_CFG_EN k) 1).onOut k fun o => { o with origin := s.outStart k, high := false }

theorem outEnable_eq (s : State) (k : Fin 4) : s.outEnable k =
    (((s.outStarted k).placeOut k).put (F.TB_OUT_STEP_STEP k) 0).raiseIf (s.getS (F.TB_OUT_STEP_STEP k) != 0) (srcTb (16 + k)) := rfl

theorem outEnable_out (s : State) (k : Fin 4) : (s.outEnable k).tb.outs[k] = ((s.outStarted k).placeOut k).tb.outs[k] := by
  rw [outEnable_eq, raiseIf_tb _ _ (srcTb_lt (by omega))]
  rfl

theorem outStarted_out (s : State) (k : Fin 4) :
    (s.outStarted k).tb.outs[k] = { s.tb.outs[k] with origin := s.outStart k, high := false } := outs_onOut _ _ _

theorem outStarted_period (s : State) (k : Fin 4) : (s.outStarted k).outPeriod k = s.outPeriod k := by
  unfold State.outPeriod
  have hget (f : Field) : (s.outStarted k).get f = (s.put (F.TB_OUT_CFG_EN k) 1).get f := rfl
  rw [hget, hget, State.get_put_other _ _ _ _ (by simp) (by simp), State.get_put_other _ _ _ _ (by simp) (by simp)]

theorem outStarted_enabled (s : State) (k : Fin 4) : (s.outStarted k).bit (F.TB_OUT_CFG_EN k) = true := by
  change (s.put (F.TB_OUT_CFG_EN k) 1).bit _ = true
  rw [bit_put _ _ _ (by simp)]
  rfl

theorem outStarted_grid (s : State) (k : Fin 4) : gridFrom (s.outStarted k).tb.outs[k].origin ((s.outStarted k).outPeriod k)
    (s.outStarted k).nowWide = gridFrom (s.outStart k) (s.outPeriod k) s.nowWide := by
  rw [outStarted_out, outStarted_period]
  rfl

theorem outEnable_origin (s : State) (k : Fin 4) : (s.outEnable k).tb.outs[k].origin = s.outStart k := by
  rw [outEnable_out, placeOut_keeps TbOut.origin fun _ _ _ => rfl, outStarted_out]

theorem outEnable_high (s : State) (k : Fin 4) : (s.outEnable k).tb.outs[k].high = false := by
  rw [outEnable_out, placeOut_keeps TbOut.high fun _ _ _ => rfl, outStarted_out]

/-- An enabled output waits for the first coming point of its grid. -/
theorem outEnable_of_point {t : Int} (h : gridFrom (s.outStart k) (s.outPeriod k) s.nowWide = some t) :
    (s.outEnable k).tb.outs[k].next = t ∧ (s.outEnable k).tb.outs[k].armed = true := by
  rw [outEnable_out, placeOut_of_point ((outStarted_grid s k).trans h)]
  exact ⟨rfl, outStarted_enabled s k⟩

theorem outEnable_of_none (h : gridFrom (s.outStart k) (s.outPeriod k) s.nowWide = none) :
    (s.outEnable k).tb.outs[k].armed = false := by
  rw [outEnable_out, placeOut_of_none ((outStarted_grid s k).trans h)]

theorem outEnable_bit (s : State) (k : Fin 4) : (s.outEnable k).bit (F.TB_OUT_CFG_EN k) = true := by
  have hsrc : srcTb (16 + k) < 1024 := srcTb_lt (by omega)
  rw [outEnable_eq, bit_eq_of_get_eq (raiseIf_get_timing _ hsrc (tbOut_timing 0 k (by decide))),
    bit_put_other _ _ _ _ (by simp) (by simp)]
  exact outStarted_enabled s k

theorem outEnable_step (s : State) (k : Fin 4) : (s.outEnable k).get (F.TB_OUT_STEP_STEP k) = 0 := by
  rw [outEnable_eq, raiseIf_get_timing _ (srcTb_lt (by omega)) (tbOut_timing 20 k (by decide)), State.get_put _ _ _ (by simp)]
  rfl

theorem srcTb_out (k : Fin 4) : srcTb (16 + k) = 928 + k := by
  unfold srcTb
  omega

theorem outEnable_evStatus (h : s.getS (F.TB_OUT_STEP_STEP k) ≠ 0) : (s.outEnable k).evStatus (928 + k) = true := by
  rw [outEnable_eq, srcTb_out, (bne_iff_ne.2 h : (s.getS (F.TB_OUT_STEP_STEP k) != 0) = true)]
  exact raise_evStatus (by omega)

theorem outStep_enabled {value : BitVec 16} (h : s.bit (F.TB_OUT_CFG_EN k) = true) : s.outStep k value =
    (s.onOut k fun o => { o with origin := o.origin + value.toInt * 4096, next := o.next + value.toInt * 4096 }).raise
      (928 + k) := by
  rw [State.outStep, if_pos h, srcTb_out]

theorem outStep_disabled {value : BitVec 16} (h : s.bit (F.TB_OUT_CFG_EN k) = false) :
    s.outStep k value = s.put (F.TB_OUT_STEP_STEP k) value.toNat := by
  rw [State.outStep, h, if_neg (by decide)]

/-! ## The statement -/

/-- Settles O41: a capture by its registers (`capture_registers`, `capture_overrun`) and by what genlock takes
(`captureIn_genlock`), an output by the grid on which `outEnable` places it. -/
theorem capturesAndPulsesFollowTheGrid : Obligations.CapturesAndPulsesFollowTheGrid := by
  unfold Obligations.CapturesAndPulsesFollowTheGrid
  refine ⟨fun s hup => exec_ifUp (f := State.readNow) hup rfl rfl, ?_, fun s e hst hforce => measure_error hst hforce, ?_⟩
  · rintro s k rising sixteenth c hup hedge rfl
    have hcaptures := captures_of hedge
    refine ⟨fun width hshort => ?_, s.capture k (s.captureTime sixteenth), ?_⟩
    · refine exec_when_not (g := fun u => u.captures k rising && decide (8 ≤ width))
        (f := fun u => u.captureIn k (u.captureTime sixteenth)) hup rfl ?_
      rw [decide_eq_false (Nat.not_le.2 hshort), Bool.and_false]
    · have hexec (width : Nat) (hlong : 8 ≤ width) {t : State} (ht : s.captureIn k (s.captureTime sixteenth) = t) :
          exec (.tbInCapture k rising sixteenth width) s = .next t :=
        exec_when (g := fun u => u.captures k rising && decide (8 ≤ width))
          (f := fun u => u.captureIn k (u.captureTime sixteenth)) hup rfl
          (Bool.and_eq_true_iff.2 ⟨hcaptures, decide_eq_true hlong⟩) ht
      obtain ⟨hns, hfrac, hcount⟩ := capture_registers (s := s) (k := k) (s.captureTime sixteenth)
      have htb := capture_tb (s := s) (k := k) (s.captureTime sixteenth)
      refine ⟨hns, hfrac, hcount, capture_evStatus _, ?_, ?_, capture_overrun _, fun width hlong =>
        ⟨fun hother => hexec width hlong (captureIn_plain _ hother),
          fun hsrc hin => hexec width hlong (captureIn_genlock _ hsrc hin)⟩⟩
      · rw [htb]
        exact getLsbD_mark _ k
      · rw [htb]
  · intro s k hup
    refine ⟨exec_ifUp (f := (·.readIn k)) hup rfl rfl, fun harmed hdue => ?_, fun hhigh hover => ?_, ?_, fun value => ⟨?_, ?_⟩⟩
    · exact exec_when (g := fun u => u.tb.outs[k].armed && decide (sixteenths u.tb.outs[k].next ≤ u.nowWide)) (f := (·.outEdge k))
        hup rfl (Bool.and_eq_true_iff.2 ⟨harmed, decide_eq_true hdue⟩) rfl
    · exact exec_when (g := fun u => u.tb.outs[k].high &&
          decide (u.tb.outs[k].since + u.get (F.TB_OUT_WIDTH_NS k) * 65536 ≤ u.nowWide))
        (f := fun u => u.onOut k fun o => { o with high := false }) hup rfl
        (Bool.and_eq_true_iff.2 ⟨hhigh, decide_eq_true hover⟩) rfl
    · rintro start rfl
      refine answers_ifUp (f := (·.outEnable k)) hup rfl ⟨outEnable_bit s k, outEnable_origin s k, outEnable_high s k,
        outEnable_step s k, outEnable_evStatus, fun hahead => outEnable_of_point (gridFrom_ahead _ hahead),
        fun hpast hsingle => outEnable_of_none (hsingle ▸ gridFrom_single hpast), fun hpast hmany => ?_⟩
      obtain ⟨t, hgrid, hnow, hnext, hpoint⟩ := gridFrom_passed hpast hmany
      obtain ⟨rfl, harmed⟩ := outEnable_of_point hgrid
      exact ⟨harmed, hnow, hnext, hpoint⟩
    · exact fun hon => exec_ifUp (f := (·.outStep k value)) hup rfl (outStep_enabled hon)
    · exact fun hoff => exec_ifUp (f := (·.outStep k value)) hup rfl (outStep_disabled hoff)

end Sys2Proof.Machine
end

section
/-! Ethernet rings, stamps and the PTP mapping (R244–R248, R251, R252). -/

open Sys2Proof Sys2Proof.Machine

namespace Sys2Proof.Machine

variable {s : State} {p : Fin 2}

theorem eth_timing (j : Nat) (p : Fin 2) (hj : j < 4096) : (0x30000 + j + 4096 * p.val) / 0x20000 = 1 := by
  have := p.isLt
  omega

/-- The events of a port, counted from its event `j`. -/
theorem srcEth_eq (p : Fin 2) (j : Nat) : srcEth p j = 720 + j + 24 * p := by
  unfold srcEth
  omega

theorem srcEth_lt (p : Fin 2) {j : Nat} (hj : j < 24) : srcEth p j < 1024 := by
  unfold srcEth
  omega

/-! ## Reception (R244–R246) -/

theorem exec_ethFrameRx {f : List Byte} {ok : Bool} {ns : Word} {frac : BitVec 16} {t : State} (hup : s.up = true)
    (hen : s.bit (F.ETH_CFG_EN p) = true) (hlink : s.bit (F.ETH_STATUS_LINK p) = true) (ht : s.ethRx p f ok ns frac = t) :
    exec (.ethFrameRx p f ok ns frac) s = .next t :=
  exec_when (g := fun u => u.bit (F.ETH_CFG_EN p) && u.bit (F.ETH_STATUS_LINK p)) (f := fun u => u.ethRx p f ok ns frac) hup rfl
    (Bool.and_eq_true_iff.2 ⟨hen, hlink⟩) ht

/-- The address of the receive descriptor that the port uses next, and the bytes that its buffer holds. -/
def State.rxDesc (s : State) (p : Fin 2) : Nat := s.get (F.ETH_RXR_BASE_BASE p) * 64 + 16 * s.get (F.ETH_RXR_PTR_DEV p)
def State.rxRoom (s : State) (p : Fin 2) : Nat := (s.word (s.rxDesc p + 4)).toNat % 16384

/-- The frame in its buffer, and its length and flags in the descriptor. -/
def State.frameStored (s : State) (p : Fin 2) (f : List Byte) (ok : Bool) : State :=
  (s.store (s.word (s.rxDesc p)).toNat (f.take (s.rxRoom p))).storeWord (s.rxDesc p + 4)
    (BitVec.ofNat 32 (min (s.rxRoom p) f.length + 65536 + 2 ^ 17 * (ptpEvent f).toNat +
      2 ^ 18 * (!ok || decide (s.rxRoom p < f.length)).toNat))

/-- The stamp of an arrival in the descriptor of a PTP event message. -/
def State.stampStored (s : State) (d : Nat) (st : BitVec 48) : State :=
  (s.storeWord (d + 8) (st.extractLsb' 16 32)).storeWord (d + 12) (BitVec.ofNat 32 (st.toNat % 65536))

section Rx

variable {f : List Byte} {ok : Bool} {ns : Word} {frac : BitVec 16} {n : Nat} (hn : n = s.get (F.ETH_RXR_SIZE_N p)) (hmin : 2 ≤ n)
  (hmax : n ≤ 256) (hus : s.ethForUs p f = true)
include hn hmin hmax hus

theorem ethRx_open : (!ringOk (s.get (F.ETH_RXR_SIZE_N p)) || !s.ethForUs p f) = false := by
  rw [← hn, hus, ringOk, decide_eq_true ⟨hmin, hmax⟩]
  rfl

theorem ethRx_full (hfull : (s.get (F.ETH_RXR_PTR_DEV p) + 1) % n = s.get (F.ETH_RXR_PTR_SW p)) :
    s.ethRx p f ok ns frac = s.raise (723 + 24 * p) := by
  unfold State.ethRx
  dsimp only
  rw [ethRx_open hn hmin hmax hus, if_neg (by decide), ← hn, if_pos hfull, srcEth_eq]

theorem ethRx_taken (hroom : (s.get (F.ETH_RXR_PTR_DEV p) + 1) % n ≠ s.get (F.ETH_RXR_PTR_SW p)) :
    s.ethRx p f ok ns frac = ((if ptpEvent f then (s.frameStored p f ok).stampStored (s.rxDesc p)
      (corrected ns frac (s.getS (F.ETH_RX_LAT_LAT p) - s.phyDelay (4 + p))) else s.frameStored p f ok).put (F.ETH_RXR_PTR_DEV p)
      ((s.get (F.ETH_RXR_PTR_DEV p) + 1) % n)).raise (722 + 24 * p) := by
  unfold State.ethRx
  dsimp only
  rw [ethRx_open hn hmin hmax hus, if_neg (by decide), ← hn, if_neg hroom, srcEth_eq, List.length_take]
  rfl

end Rx

/-! ## Transmission (R246–R248) -/

theorem ethFrameTx_guard (hen : s.bit (F.ETH_CFG_EN p) = true) (hlink : s.bit (F.ETH_STATUS_LINK p) = true) :
    (s.bit (F.ETH_CFG_EN p) && s.bit (F.ETH_STATUS_LINK p)) = true := Bool.and_eq_true_iff.2 ⟨hen, hlink⟩

/-- The frame of a descriptor whose words 1 and 2 are `w` and `x` as it leaves, and whether its one-step stamp is out of range. -/
def State.departing (s : State) (f : List Byte) (w x : Word) (st : BitVec 48) : List Byte × Bool :=
  if w.getLsbD 17 then s.oneStep f (x.toNat % 16384) st else (f, false)

/-- The frame `g` of the descriptor at `d` has left, the descriptor is done and the port goes on to entry `next`. -/
def State.frameSent (s : State) (p : Fin 2) (d next : Nat) (w : Word) (g : List Byte × Bool) : State :=
  ((((s.emit (.ethFrame p (g.1 ++ fcs g.1))).storeWord (d + 4) (w ||| 0x40000)).put (F.ETH_TXR_PTR_DEV p) next).raise
    (srcEth p 4)).raiseIf g.2 (srcEth p 8)

theorem ethTx_sent {ns : Word} {frac : BitVec 16} {n dev d : Nat} {w : Word} {f : List Byte} {st : BitVec 48}
    (hn : n = s.get (F.ETH_TXR_SIZE_N p)) (hmin : 2 ≤ n) (hmax : n ≤ 256) (hdev : dev = s.get (F.ETH_TXR_PTR_DEV p))
    (hposted : dev ≠ s.get (F.ETH_TXR_PTR_SW p)) (hd : d = s.get (F.ETH_TXR_BASE_BASE p) * 64 + 16 * dev) (hw : w = s.word (d + 4))
    (hf : f = s.mem.readBytes (s.word d).toNat (w.toNat % 16384))
    (hst : st = (ns ++ frac) + BitVec.ofInt 48 (s.getS (F.ETH_TX_LAT_LAT p) + s.phyDelay (4 + p))) :
    s.ethTx p ns frac = if w.getLsbD 16 then
      (s.frameSent p d ((dev + 1) % n) w (s.departing f w (s.word (d + 8)) st)).queueStamp p (w.extractLsb' 20 12) st
      else s.frameSent p d ((dev + 1) % n) w (s.departing f w (s.word (d + 8)) st) := by
  have hopen : (!ringOk n || dev == s.get (F.ETH_TXR_PTR_SW p)) = false := by
    rw [beq_false_of_ne hposted, ringOk, decide_eq_true ⟨hmin, hmax⟩]
    rfl
  rw [hn, hdev] at hopen
  subst hn hdev hd hw hf hst
  unfold State.ethTx
  dsimp only
  rw [hopen, if_neg (by decide)]
  rfl

section Sent

variable {d next : Nat} {w : Word} {g : List Byte × Bool}

theorem raise_tsq {n : Nat} (h : n < 1024) : (s.raise n).tsq = s.tsq := (congrArg State.tsq (raise_frame h) :)

theorem raiseIf_tsq (c : Bool) {n : Nat} (h : n < 1024) : (s.raiseIf c n).tsq = s.tsq := by
  cases c with
  | false => rfl
  | true => exact raise_tsq h

theorem frameSent_tsq : (s.frameSent p d next w g).tsq = s.tsq := by
  rw [State.frameSent, raiseIf_tsq _ (srcEth_lt p (by decide)), raise_tsq (srcEth_lt p (by decide)), State.put_tsq, storeWord_eq]
  rfl

theorem frameSent_get {f : Field} (hf : f.addr / 0x20000 = 1) :
    (s.frameSent p d next w g).get f = (s.put (F.ETH_TXR_PTR_DEV p) next).get f := by
  rw [State.frameSent, raiseIf_get_timing _ (srcEth_lt p (by decide)) hf, raise_get_timing (srcEth_lt p (by decide)) hf, storeWord_eq]
  rfl

theorem frameSent_get_other {f : Field} (hf : f.addr / 0x20000 = 1) (hw : f.lo + f.w ≤ 32) (hptr : f.addr ≠ F.ETH_TXR_PTR_addr p) :
    (s.frameSent p d next w g).get f = s.get f :=
  (frameSent_get hf).trans (State.get_put_other _ _ _ _ hw (.inl hptr))

theorem frameSent_dev (h : next < 256) : (s.frameSent p d next w g).get (F.ETH_TXR_PTR_DEV p) = next :=
  (frameSent_get (eth_timing 0x28 p (by decide))).trans ((State.get_put _ _ _ (by simp)).trans (Nat.mod_eq_of_lt h))

/-- What the second event leaves of a frame that is sent. -/
theorem frameSent_onward : Onward ((((s.emit (.ethFrame p (g.1 ++ fcs g.1))).storeWord (d + 4) (w ||| 0x40000)).put
    (F.ETH_TXR_PTR_DEV p) next).raise (srcEth p 4)) (s.frameSent p d next w g) :=
  (Onward.refl _).raiseIf _ _ (srcEth_lt p (by decide))

theorem frameSent_evStatus : (s.frameSent p d next w g).evStatus (724 + 24 * p) = true := by
  have hsrc := srcEth_lt p (j := 4) (by decide)
  have hraised := frameSent_onward.status _ hsrc (raise_evStatus (s := ((s.emit (.ethFrame p (g.1 ++ fcs g.1))).storeWord (d + 4)
    (w ||| 0x40000)).put (F.ETH_TXR_PTR_DEV p) next) hsrc)
  rwa [srcEth_eq] at hraised

theorem frameSent_range (h : g.2 = true) : (s.frameSent p d next w g).evStatus (728 + 24 * p) = true := by
  rw [State.frameSent, h, srcEth_eq p 8]
  exact raise_evStatus (by omega)

theorem frameSent_out : Out.ethFrame p (g.1 ++ fcs g.1) ∈ (s.frameSent p d next w g).out := by
  refine frameSent_onward.outs _ (raiseRel_outsKept.raise (srcEth_lt p (by decide)) _ ?_)
  rw [State.put_out, storeWord_eq]
  exact List.mem_cons_self

end Sent

/-! ## Stamp queues (R248) -/

section Queue

variable {id : BitVec 12} {st : BitVec 48}

/-- The next generation of an identifier in a queue. -/
def nextGen (q : List Stamp) (id : BitVec 12) : BitVec 4 :=
  match q.reverse.find? fun x => x.id == id with
  | some x => x.gen + 1
  | none => 0

/-- A stamp at the end of a port's queue, the older ones of its identifier superseded. -/
def State.stampAppended (s : State) (p : Fin 2) (id : BitVec 12) (st : BitVec 48) : State :=
  { s with tsq := s.tsq.set p ((s.tsq[p].map fun x => if x.id = id then { x with superseded := true } else x) ++
    [(⟨id, nextGen s.tsq[p] id, false, st.extractLsb' 16 32, st.extractLsb' 0 16⟩ : Stamp)]) }

theorem stampAppended_onward : Onward s (s.stampAppended p id st) := (Onward.refl s).same rfl rfl rfl fun _ ho => ho

theorem queueStamp_full (h : 16 ≤ s.tsq[p].length) : s.queueStamp p id st =
    ((s.put (F.ETH_TSQ_CTL_OVERFLOW p) 1).count (F.ETH_TSQ_CTL_DROPS p)).raise (srcEth p 6) := if_pos h

theorem queueStamp_room (h : s.tsq[p].length < 16) : s.queueStamp p id st =
    ((s.stampAppended p id st).raise (srcEth p 5)).raiseIf (s.tsq[p].any fun x => x.id == id && !x.superseded) (srcEth p 7) :=
  if_neg (Nat.not_le.2 h)

theorem queueStamp_onward : Onward s (s.queueStamp p id st) := by
  have hctl : 0x20000 ≤ F.ETH_TSQ_CTL_addr p := by simp only [F.ETH_TSQ_CTL_addr]; omega
  by_cases h : 16 ≤ s.tsq[p].length
  · rw [queueStamp_full h]
    exact (((Onward.refl s).put _ _ hctl).put _ _ hctl).raise _ (srcEth_lt p (by decide))
  · rw [queueStamp_room (Nat.not_le.1 h)]
    exact (stampAppended_onward.raise _ (srcEth_lt p (by decide))).raiseIf _ _ (srcEth_lt p (by decide))

theorem queueStamp_get {f : Field} (hf : f.addr / 0x20000 = 1) (hw : f.lo + f.w ≤ 32) (hctl : f.addr ≠ F.ETH_TSQ_CTL_addr p) :
    (s.queueStamp p id st).get f = s.get f := by
  by_cases h : 16 ≤ s.tsq[p].length
  · rw [queueStamp_full h, raise_get_timing (srcEth_lt p (by decide)) hf, State.count, State.countBy,
      State.get_put_other _ _ _ _ hw (.inl hctl), State.get_put_other _ _ _ _ hw (.inl hctl)]
  · rw [queueStamp_room (Nat.not_le.1 h), raiseIf_get_timing _ (srcEth_lt p (by decide)) hf,
      raise_get_timing (srcEth_lt p (by decide)) hf]
    rfl

/-- A stamp that finds room is the queue's last entry. -/
theorem queueStamp_appends (h : s.tsq[p].length < 16) : ∃ x : Stamp, (s.queueStamp p id st).tsq[p].getLast? = some x ∧ x.id = id ∧
    x.superseded = false ∧ x.ns = st.extractLsb' 16 32 ∧ x.frac = st.extractLsb' 0 16 ∧
    (s.queueStamp p id st).tsq[p].length = s.tsq[p].length + 1 ∧ (s.queueStamp p id st).evStatus (725 + 24 * p) = true := by
  have hsrc := srcEth_lt p (j := 5) (by decide)
  have hsup := srcEth_lt p (j := 7) (by decide)
  have hqueue : (s.stampAppended p id st).tsq[p] = (s.tsq[p].map fun x => if x.id = id then { x with superseded := true } else x) ++
      [(⟨id, nextGen s.tsq[p] id, false, st.extractLsb' 16 32, st.extractLsb' 0 16⟩ : Stamp)] := Vector.getElem_set_self p.isLt
  have hevent := ((Onward.refl ((s.stampAppended p id st).raise (srcEth p 5))).raiseIf
    (s.tsq[p].any fun x => x.id == id && !x.superseded) _ hsup).status _ hsrc (raise_evStatus hsrc)
  rw [queueStamp_room h, raiseIf_tsq _ hsup, raise_tsq hsrc, hqueue]
  refine ⟨_, List.getLast?_concat, rfl, rfl, rfl, rfl, ?_, ?_⟩
  · rw [List.length_append, List.length_map]
    rfl
  · rwa [srcEth_eq p 5] at hevent ⊢

/-- A stamp that finds the queue full is dropped and counted. -/
theorem queueStamp_drops (h : 16 ≤ s.tsq[p].length) : (s.queueStamp p id st).tsq = s.tsq ∧
    (s.queueStamp p id st).bit (F.ETH_TSQ_CTL_OVERFLOW p) = true ∧
    (s.queueStamp p id st).get (F.ETH_TSQ_CTL_DROPS p) = min (s.get (F.ETH_TSQ_CTL_DROPS p) + 1) 65535 ∧
    (s.queueStamp p id st).evStatus (726 + 24 * p) = true := by
  have hsrc := srcEth_lt p (j := 6) (by decide)
  have htiming := eth_timing 0x4C p (by decide)
  rw [queueStamp_full h, raise_tsq hsrc, bit_eq_of_get_eq (raise_get_timing hsrc htiming), raise_get_timing hsrc htiming]
  refine ⟨rfl, ?_, ?_, ?_⟩
  · rw [State.count, State.countBy, bit_put_other _ _ _ _ (by simp) (by simp), bit_put _ _ _ (by simp)]
    rfl
  · rw [get_count _ _ (by simp), State.get_put_other _ _ _ _ (by simp) (by simp)]
    rfl
  · rw [srcEth_eq p 6]
    exact raise_evStatus (by omega)

end Queue

/-! ## The PTP mapping (R247) -/

theorem ptpCommit_actReg (value : Word) {a : Nat} (h : a ∈ [F.ETH_PTP_MAP_NS_addr, F.ETH_PTP_MAP_SEC_LO_addr,
    F.ETH_PTP_MAP_SEC_HI_addr, F.ETH_PTP_MAP_TB_addr]) :
    (s.ptpCommit value).actReg a = (s.setReg F.ETH_PTP_MAP_TB_addr value).reg a := by
  unfold State.ptpCommit
  dsimp only
  rw [activate_actReg, if_pos h]
  rfl

theorem ptpCommit_frame (s : State) (value : Word) : s.ptpCommit value = { s.setReg F.ETH_PTP_MAP_TB_addr value with
    act := (s.ptpCommit value).act, tb := { s.tb with mapAt := s.wide (ns48 value.toNat 0) / 65536 } } := rfl

theorem oneStep_out_of_range {f : List Byte} {o : Nat} {st : BitVec 48} (h : s.ptpTime (st.extractLsb' 16 32) = none) :
    (s.oneStep f o st).2 = true := by
  unfold State.oneStep
  rw [h]

/-! ## The statement -/

/-- Settles O42: reception by `ethRx_full` and `ethRx_taken`, transmission by `ethTx_sent` with what a frame sent and a stamp
queued do, the mapping by `ptpCommit_frame`. -/
theorem ethernetRingsAndStamps : Obligations.EthernetRingsAndStamps := by
  unfold Obligations.EthernetRingsAndStamps
  refine ⟨?_, ?_, ?_, ?_, ?_, ?_⟩
  · intro s p f ok ns frac n dev d room hup hen hlink hn hmin hmax hus hdev hd hroom
    subst hdev hd hroom
    refine ⟨fun hfull => exec_ethFrameRx hup hen hlink (ethRx_full hn hmin hmax hus hfull),
      fun hfree hplain => exec_ethFrameRx hup hen hlink ?_, fun st hfree hevent hst => exec_ethFrameRx hup hen hlink ?_⟩
    · rw [ethRx_taken hn hmin hmax hus hfree, hplain, if_neg (by decide), State.frameStored, hplain]
      rfl
    · rw [ethRx_taken hn hmin hmax hus hfree, hevent, if_pos rfl, State.frameStored, hevent, hst]
      rfl
  · intro s p ns frac n dev d w f st hup hen hlink hn hmin hmax hdev hposted hd hw hf hst
    have hsent := ethTx_sent hn hmin hmax hdev hposted hd hw hf hst
    have hguard := ethFrameTx_guard hen hlink
    have hnext : (dev + 1) % n < 256 := (Nat.mod_lt _ (by omega)).trans_le hmax
    refine ⟨fun hplain hquiet => ?_, ?_⟩
    · refine exec_when (g := fun u => u.bit (F.ETH_CFG_EN p) && u.bit (F.ETH_STATUS_LINK p)) (f := fun u => u.ethTx p ns frac) hup rfl
        hguard (hsent.trans ?_)
      rw [hquiet, if_neg (by decide), State.departing, hplain, if_neg (by decide), State.frameSent, srcEth_eq]
      rfl
    · refine answers_when (g := fun u => u.bit (F.ETH_CFG_EN p) && u.bit (F.ETH_STATUS_LINK p)) (f := fun u => u.ethTx p ns frac) hup
        rfl hguard ?_
      generalize hu : s.frameSent p d ((dev + 1) % n) w (s.departing f w (s.word (d + 8)) st) = u at hsent
      have hptr : u.get (F.ETH_TXR_PTR_DEV p) = (dev + 1) % n := hu ▸ frameSent_dev hnext
      have hdrops : u.get (F.ETH_TSQ_CTL_DROPS p) = s.get (F.ETH_TSQ_CTL_DROPS p) :=
        hu ▸ frameSent_get_other (p := p) (eth_timing 0x4C p (by decide)) (by simp) (by simp)
      have htsq : u.tsq = s.tsq := hu ▸ frameSent_tsq
      have honward : Onward u (s.ethTx p ns frac) := hsent ▸ Onward.ite queueStamp_onward (Onward.refl u)
      have hout := honward.outs _ (hu ▸ frameSent_out)
      refine ⟨?_, honward.status _ (by omega) (hu ▸ frameSent_evStatus), fun hplain => ?_, fun hstep => ⟨?_, fun hrange => ?_⟩,
        fun hquiet => ?_, fun hasked hroom => ?_, fun hasked hfull => ?_⟩
      · rw [hsent]
        split
        · rw [queueStamp_get (eth_timing 0x28 p (by decide)) (by simp) (by simp), hptr]
        · exact hptr
      · rwa [State.departing, hplain, if_neg (by decide)] at hout
      · rintro g rfl
        rwa [State.departing, hstep, if_pos rfl] at hout
      · refine honward.status _ (by omega) (hu ▸ frameSent_range ?_)
        rw [State.departing, hstep, if_pos rfl]
        exact oneStep_out_of_range hrange
      · rw [hsent, hquiet, if_neg (by decide), htsq]
      · rw [← htsq] at hroom ⊢
        rw [hsent, hasked, if_pos rfl]
        exact queueStamp_appends hroom
      · rw [← htsq] at hfull ⊢
        rw [hsent, hasked, if_pos rfl, ← hdrops]
        exact queueStamp_drops hfull
  · rintro s ns d rfl
    rfl
  · exact fun s p hup => exec_ifUp (f := (·.tsqPop p)) hup rfl rfl
  · intro s value hup
    refine answers_ifUp (f := (·.ptpCommit value)) hup rfl ⟨ptpCommit_frame s value, ?_, ?_, ?_, ?_⟩
    · rw [ptpCommit_actReg value (by decide), State.reg_setReg, if_pos rfl]
    · rw [ptpCommit_actReg value (by decide), State.reg_setReg, if_neg (by decide)]
    · rw [ptpCommit_actReg value (by decide), State.reg_setReg, if_neg (by decide)]
    · rw [ptpCommit_actReg value (by decide), State.reg_setReg, if_neg (by decide)]
  · intro s p up hup hen hchange
    refine exec_when (g := fun u => u.bit (F.ETH_CFG_EN p) && u.bit (F.ETH_STATUS_LINK p) != up) (f := (·.ethLink p up)) hup rfl
      (by rw [hen, bne_iff_ne.2 hchange]; rfl) ?_
    rw [State.ethLink, srcEth_eq]
    cases up <;> rfl

end Sys2Proof.Machine
end

section
/-! One period of the time base (R227, R237): what passes with time alone moves the clock by the period and takes no command. -/

open Sys2Proof Sys2Proof.Machine

namespace Sys2Proof.Machine

/-- The clock and the queue of waiting commands. -/
def State.schedule (s : State) : Nat × List Instr := (s.clock, s.pending)

/-! ## Operations that leave clock and queue as they were -/

section Schedule

variable (s : State)

theorem raise_schedule {n : Nat} (h : n < 1024) : (s.raise n).schedule = s.schedule :=
  (congrArg State.schedule (raise_frame h) :)

theorem raiseIf_schedule (c : Bool) {n : Nat} (h : n < 1024) : (s.raiseIf c n).schedule = s.schedule := by
  cases c with
  | false => rfl
  | true => exact raise_schedule s h

theorem when_schedule (c : Bool) {f : State → State} (h : (f s).schedule = s.schedule) : (s.when c f).schedule = s.schedule := by
  cases c with
  | false => rfl
  | true => exact h

/-! ### Waiting requests (R322, R324, R325, R337) -/

theorem eccReport_schedule (h : EccHit) : (s.eccReport h).schedule = s.schedule := by
  unfold State.eccReport
  split
  · split
    · exact raise_schedule _ (by decide)
    · exact raise_schedule _ (by decide)
  · split
    · exact raise_schedule _ (by decide)
    · exact raise_schedule _ (by decide)

theorem eccReports_schedule (ecc : List EccHit) : (s.eccReports ecc).schedule = s.schedule :=
  foldl_keeps State.schedule eccReport_schedule ecc s

theorem readHits_schedule (a n : Nat) (ecc : List EccHit) : (s.readHits a n ecc).schedule = s.schedule := by
  have hreports := eccReports_schedule s (s.eccIn a n ecc)
  unfold State.readHits
  dsimp only
  split
  · exact hreports
  · exact hreports

theorem abortEntry_schedule : s.abortEntry.schedule = s.schedule := when_schedule s _ (raise_schedule _ (by decide))

theorem touch_schedule (a n : Nat) : (s.touch a n).schedule = s.schedule :=
  (foldl_keeps (f := fun (t : State) i => t.touchBurst (64 * ((a - dramBase) / 64 + i))) State.schedule (fun _ _ => rfl) _ _).trans
    (abortEntry_schedule s)

theorem dramRead_schedule (a n : Nat) (ecc : List EccHit) : (s.dramRead a n ecc).2.schedule = s.schedule :=
  (readHits_schedule _ a n ecc).trans ((raiseIf_schedule _ _ (by decide)).trans (touch_schedule s a n))

theorem readAny_schedule (a n : Nat) (ecc : List EccHit) : (s.readAny a n ecc).2.schedule = s.schedule := by
  unfold State.readAny
  split
  · exact dramRead_schedule s a n ecc
  · exact readHits_schedule s a n ecc

theorem dramPut_schedule (a : Nat) (bs : List Byte) : (s.dramPut a bs).schedule = s.schedule := by
  induction bs generalizing s a with
  | nil => rfl
  | cons b bs ih =>
    refine (ih _ _).trans ?_
    split <;> rfl

theorem dramWrite_schedule (a : Nat) (bs : List Byte) (ecc : List EccHit) : (s.dramWrite a bs ecc).schedule = s.schedule := by
  unfold State.dramWrite
  rw [eccReports_schedule, raiseIf_schedule _ _ (by decide), touch_schedule, dramPut_schedule]

theorem serve_schedule (ch : Fin 8) (q : DramReq) : (s.serve ch q).schedule = s.schedule := by
  unfold State.serve
  dsimp only
  split
  · exact dramRead_schedule _ _ _ _
  · exact dramWrite_schedule _ _ _ _

theorem drain_schedule (n : Nat) : (State.drain n s).schedule = s.schedule := by
  induction n generalizing s with
  | zero => rfl
  | succ n ih =>
    unfold State.drain
    split
    · exact (ih _).trans (serve_schedule s _ _)
    · rfl

theorem drainAll_schedule : s.drainAll.schedule = s.schedule := drain_schedule s _

/-! ### What the link and the panel ports send (R198, R258, R262, R275) -/

theorem sendBlock_schedule (p : Fin 4) (l : Fin 8) (control : Bool) (w : BitVec 64) :
    (s.sendBlock p l control w).schedule = s.schedule := by
  unfold State.sendBlock
  split <;> rfl

theorem pushBytes_schedule (k : CmdPush) : (s.pushBytes k).2.schedule = s.schedule :=
  foldl_keeps (f := fun (r : List Byte × State) j =>
    let (l, t) := r.2.readAny (k.src + j * k.pitch) (4 * k.w) k.ecc
    (r.1 ++ l, t)) (fun r => r.2.schedule) (fun r _ => readAny_schedule r.2 _ _ _) _ ([], s)

theorem sendPush_schedule (k : CmdPush) : (s.sendPush k).schedule = s.schedule := by
  unfold State.sendPush
  split
  · rfl
  · refine (sendBlock_schedule _ _ _ _ _).trans ?_
    rw [foldl_keeps State.schedule (fun u w => sendBlock_schedule u 3 _ false w), sendBlock_schedule, pushBytes_schedule]

theorem tryPush_schedule : s.tryPush.schedule = s.schedule := by
  unfold State.tryPush
  split
  · split
    · rfl
    · exact sendPush_schedule s _
  · rfl

theorem sendBits_schedule (p : Fin 4) (lane ver : Nat) (bits : List Bool) : (s.sendBits p lane ver bits).schedule = s.schedule := rfl

theorem onPort_schedule (p : Fin 4) (f : LinkPort → LinkPort) : (s.onPort p f).schedule = s.schedule := rfl

theorem sendFrames_schedule (p : Fin 4) : (s.sendFrames p).schedule = s.schedule := by
  unfold State.sendFrames
  dsimp only
  refine (when_schedule _ _ rfl).trans ((onPort_schedule _ p _).trans ?_)
  exact foldl_keeps State.schedule (fun u i => sendBits_schedule u p i _ _) _ s

theorem framesDue_schedule (p : Fin 4) (n : Nat) : (State.framesDue p n s).schedule = s.schedule := by
  induction n generalizing s with
  | zero => rfl
  | succ n ih =>
    unfold State.framesDue
    dsimp only
    split
    · exact (ih _).trans (sendFrames_schedule s p)
    · rfl

theorem sendTraining_schedule : s.sendTraining.schedule = s.schedule :=
  foldl_keeps State.schedule (fun u p => framesDue_schedule u p 2) _ s

theorem sendGroup_schedule (p : Fin 4) (lanes : List (Fin 8)) (countdown : Nat) :
    (s.sendGroup p lanes countdown).schedule = s.schedule :=
  foldl_keeps State.schedule (fun u l => (foldl_keeps State.schedule (fun v w => sendBlock_schedule v p l false w) _ _).trans
    (sendBlock_schedule u p l true _)) lanes s

theorem tryResolve_schedule (p : Fin 4) : (s.tryResolve p).schedule = s.schedule := by
  unfold State.tryResolve
  split
  · split <;> rfl
  · rfl

theorem trainPort_schedule (p : Fin 4) : (s.trainPort p).schedule = s.schedule := by
  refine Eq.trans ?_ (tryResolve_schedule s p)
  unfold State.trainPort
  dsimp only
  split
  · exact sendGroup_schedule _ p _ _
  · split
    · rfl
    · exact sendGroup_schedule _ p _ _

theorem trainPanel_schedule (p : Fin 4) : (s.trainPanel p).schedule = s.schedule := by
  unfold State.trainPanel
  split
  · rfl
  · split
    · exact trainPort_schedule s p
    · dsimp only
      split
      · exact sendGroup_schedule s p _ _
      · rfl

theorem drainLane_schedule (p : Fin 4) (l : Fin 8) (n : Nat) : (State.drainLane p l n s).schedule = s.schedule := by
  induction n generalizing s with
  | zero => rfl
  | succ n ih =>
    unfold State.drainLane
    dsimp only
    split
    · rfl
    · split
      · exact (ih _).trans (sendBlock_schedule _ p l true _)
      · rfl

theorem drainLanes_schedule : s.drainLanes.schedule = s.schedule := by
  unfold State.drainLanes
  refine when_schedule s _ ?_
  generalize allLanes = lanes
  exact foldl_keeps State.schedule (fun u x => drainLane_schedule u _ _ _) lanes s

theorem sendPanels_schedule : s.sendPanels.schedule = s.schedule :=
  (drainLanes_schedule _).trans (foldl_keeps State.schedule trainPanel_schedule _ s)

/-! ### The frame, the gate-on-array, the PLLs (R18, R265, R346) -/

theorem endFrame_schedule : s.endFrame.schedule = s.schedule := by
  unfold State.endFrame
  split
  · exact when_schedule s _ rfl
  · rfl

theorem setGoa_schedule (g : Goa) : (s.setGoa g).schedule = s.schedule := by
  unfold State.setGoa
  dsimp only
  split <;> rfl

theorem endPulses_schedule : s.endPulses.schedule = s.schedule := by
  unfold State.endPulses
  dsimp only
  split
  · rfl
  · exact setGoa_schedule s _

theorem onPll_schedule (n : Fin 6) (f : Pll → Pll) : (s.onPll n f).schedule = s.schedule := rfl

theorem putS_schedule (f : Field) (v : Int) : (s.putS f v).schedule = s.schedule := rfl

theorem stepOnce_schedule (n : Fin 6) : (s.stepOnce n).schedule = s.schedule := by
  unfold State.stepOnce
  exact when_schedule s _ ((onPll_schedule _ n _).trans (putS_schedule s _ _))

theorem stepPhases_schedule (old : Nat) : (s.stepPhases old).schedule = s.schedule := by
  unfold State.stepPhases
  exact when_schedule s _ (foldl_keeps State.schedule stepOnce_schedule _ s)

/-! ## The step -/

theorem advance_schedule :
    s.advance.schedule = (s.clock + (if s.bit F.TB_STATE_BACKUP then 40 else 1), s.pending) := by
  unfold State.advance
  refine (when_schedule _ _ rfl).trans ?_
  rw [stepPhases_schedule, sendPanels_schedule, endPulses_schedule, sendTraining_schedule, tryPush_schedule,
    when_schedule _ _ (drainAll_schedule _), endFrame_schedule]
  rfl

end Schedule

theorem step_empty {s : State} (h : s.pending = []) : step s = .next (if s.alwaysOn then s.advance else s) := by
  unfold step
  rw [h]

/-- Settles O2: an empty queue lets one period pass (`step_empty`), which moves the clock and takes no command
(`advance_schedule`). -/
theorem idleStepLetsTimePass : Obligations.IdleStepLetsTimePass := by
  intro s hidle
  rw [step_empty hidle]
  refine ⟨fun hoff => by rw [hoff]; rfl, fun hon => ⟨s.advance, by rw [hon]; rfl, ?_⟩⟩
  obtain ⟨hclock, hqueue⟩ := Prod.mk.inj (advance_schedule s)
  exact ⟨hclock, hqueue.trans hidle⟩

end Sys2Proof.Machine
end

section
/-! A balanced pair that starts over the ledger limit as its band goes dark (R265, R291, R300, R394). -/

open Sys2Proof Sys2Proof.Machine

namespace Sys2Proof.Machine

/-- The last slot of a frame ends in band 0, whose output of layer 0 is due a balanced pair while its ledger, 2,001 units, is over
LEDGER_LIMIT; Trellis event 6 is enabled and goes to MSI-X vector 0. The rails and the PCIe link are up. -/
def pairOverLimit : State :=
  let rails := ((State.reset.put F.HVPS_CTL_STATE 2).setReg (F.EVT_EN_addr 16) (evBit 518)).put (F.EVT_ROUTE_MSIX 518) 1
  let due := (rails.onTrlOut (outIx 0 0) fun x => { x with pair := true, acc := 200100000 }).onBand 0 fun d =>
    { d with final := true, darkAt := some 0 }
  { due with mode := .run, pcieUp := true, evt := { due.evt with mask := 0 } }

/-- The dark shift leaves the device, and the message of the event after it. -/
theorem pairOverLimit_finalDark_out : (pairOverLimit.finalDark 0).out = [.msi 0, .goa 0 .dark] := by decide +kernel

/-- Refutes O44: the pass after a frame's last slot starts the balanced pairs that are due, and one that starts over LEDGER_LIMIT
raises Trellis event 6, whose MSI-X message leaves the device after the dark shift; the statement has the dark shift followed by
the gate-on-array levels alone. -/
theorem not_bandLinesAndShiftsComeInTime : ¬ Obligations.BandLinesAndShiftsComeInTime := by
  unfold Obligations.BandLinesAndShiftsComeInTime
  rintro ⟨-, -, -, hdark, -⟩
  have hup : pairOverLimit.up = true := rfl
  have hreached : pairOverLimit.reached 0 = true := by decide +kernel
  have hdue : (pairOverLimit.trl.bands[(0 : Fin 64)]).darkAt = some 0 := by decide +kernel
  have hfinal : (pairOverLimit.trl.bands[(0 : Fin 64)]).final = true := by decide +kernel
  obtain ⟨t, hexec, -, hout, -⟩ :=
    hdark pairOverLimit 0 0 (.finalDarkPass 0) _ hup hreached rfl (.inl ⟨hdue, (if_pos hfinal).symm⟩)
  have hmodel : exec (.finalDarkPass 0) pairOverLimit = .next (pairOverLimit.finalDark 0) :=
    exec_ifUp (f := (·.finalDark 0)) hup rfl rfl
  obtain rfl : pairOverLimit.finalDark 0 = t := Host.Outcome.next.inj (hmodel.symm.trans hexec)
  rw [pairOverLimit_finalDark_out] at hout
  obtain hout | ⟨g, hout⟩ := hout
  · nomatch hout
  · nomatch hout

end Sys2Proof.Machine
end

section
/-! The panel ports and their lanes under the panel's operations, the panel's registers under a raise, and back-channel messages
(R254, R262, R263). -/

open Sys2Proof Sys2Proof.Machine

namespace Sys2Proof.Machine

/-! ## Ports and lanes -/

section Lanes

variable (s : State) (p : Fin 4) (l : Fin 8)

theorem port_onPanel (f : PanelPort → PanelPort) : (s.onPanel p f).panel.ports[p] = f s.panel.ports[p] :=
  Vector.getElem_set_self p.isLt

theorem panelLane_onPanel (f : PanelPort → PanelPort) : (s.onPanel p f).panelLane p l = (f s.panel.ports[p]).lanes[l] :=
  congrArg (fun q : PanelPort => q.lanes[l]) (port_onPanel s p f)

theorem panelLane_onPanel_keeps {f : PanelPort → PanelPort} (h : ∀ q, (f q).lanes = q.lanes) :
    (s.onPanel p f).panelLane p l = s.panelLane p l := by
  rw [panelLane_onPanel, h]
  rfl

theorem panelLane_onPanelLane (f : PanelLane → PanelLane) : (s.onPanelLane p l f).panelLane p l = f (s.panelLane p l) :=
  (panelLane_onPanel s p l _).trans (Vector.getElem_set_self l.isLt)

theorem panelLane_onPanelLane_other {k : Fin 8} (h : k ≠ l) (f : PanelLane → PanelLane) :
    (s.onPanelLane p l f).panelLane p k = s.panelLane p k :=
  (panelLane_onPanel s p k _).trans (Vector.getElem_set_ne l.isLt k.isLt fun e => h (Fin.ext e.symm))

theorem port_onPanelLane (f : PanelLane → PanelLane) : (s.onPanelLane p l f).panel.ports[p] =
    { s.panel.ports[p] with lanes := s.panel.ports[p].lanes.set l (f s.panel.ports[p].lanes[l]) } := port_onPanel s p _

/-- What every update of a lane leaves as it was on that lane, it leaves on every lane. -/
theorem panelLane_onPanelLane_keeps {α : Type} (g : PanelLane → α) {f : PanelLane → PanelLane} (h : ∀ x, g (f x) = g x)
    (k : Fin 8) : g ((s.onPanelLane p l f).panelLane p k) = g (s.panelLane p k) := by
  by_cases hk : k = l
  · subst hk
    rw [panelLane_onPanelLane, h]
  · rw [panelLane_onPanelLane_other s p l hk]

@[simp] theorem onPanel_get (f : PanelPort → PanelPort) (g : Field) : (s.onPanel p f).get g = s.get g := rfl
@[simp] theorem onPanelLane_get (f : PanelLane → PanelLane) (g : Field) : (s.onPanelLane p l f).get g = s.get g := rfl
@[simp] theorem onPanelLane_bit (f : PanelLane → PanelLane) (g : Field) : (s.onPanelLane p l f).bit g = s.bit g := rfl
@[simp] theorem onPanelLane_actGet (f : PanelLane → PanelLane) (g : Field) : (s.onPanelLane p l f).actGet g = s.actGet g := rfl

@[simp] theorem put_panelLane (f : Field) (v : Nat) : (s.put f v).panelLane p l = s.panelLane p l := rfl
@[simp] theorem emit_panelLane (o : Out) : (s.emit o).panelLane p l = s.panelLane p l := rfl

end Lanes

/-! ## The panel under a raise -/

section Raise

variable {s : State} {n : Nat} (h : n < 1024)
include h

theorem raise_panel : (s.raise n).panel = s.panel := (congrArg State.panel (raise_frame h) :)

theorem raise_panelLane (p : Fin 4) (l : Fin 8) : (s.raise n).panelLane p l = s.panelLane p l :=
  congrArg (fun u : PanelUnit => u.ports[p].lanes[l]) (raise_panel h)

end Raise

theorem srcPanel_eq (p k : Nat) : srcPanel p k = 576 + k + 16 * p := by
  unfold srcPanel
  omega

theorem srcPanel_lt (p : Fin 4) {k : Nat} (h : k < 16) : srcPanel p k < 1024 := by
  have := p.isLt
  unfold srcPanel
  omega

/-- The registers of a port lie above the event and link blocks. -/
theorem panel_high (p : Fin 4) {a : Nat} (h : 0x50000 ≤ a) : 0x50000 ≤ a + 4096 * p.val := Nat.le_add_right_of_le h

/-- A register above those of a port is none of them. -/
theorem ne_panel (p : Fin 4) {a b : Nat} (h : b + 0x3000 < a) : a ≠ b + 4096 * p.val := by omega

/-! ## Back-channel messages (R263) -/

/-- The message with its CRC-16 is taken as it was spelt. -/
theorem backMessage_spelt {ty src : Byte} {payload : List Byte} (h : backLength ty.toNat = some payload.length) :
    backMessage (ty :: src :: payload ++ bytesOfNat 2 (crc16 (ty :: src :: payload)).toNat) =
      some ⟨ty.toNat, src.toNat, payload⟩ := by
  have hlen : (payload ++ bytesOfNat 2 (crc16 (ty :: src :: payload)).toNat).length - 2 = payload.length := by
    rw [List.length_append, bytesOfNat_length, Nat.add_sub_cancel]
  unfold backMessage
  simp only [List.cons_append, hlen, List.take_left, List.drop_left, h, and_self, if_true]

/-- The state with the latest message of a port heard now. -/
def State.heard (s : State) (p : Fin 4) : State := s.onPanel p fun q => { q with heardAt := s.clock }

section Rx

variable {s : State} {p : Fin 4} {ty : Nat} {bytes : List Byte} {m : BackMessage}

theorem backRx_none (h : backMessage bytes = none) (f : BackMessage → State → State) : s.backRx p ty bytes f = s.heard p := by
  unfold State.backRx
  rw [h]
  rfl

theorem backRx_some (h : backMessage bytes = some m) (hty : m.ty = ty) (f : BackMessage → State → State) :
    s.backRx p ty bytes f = f m (s.heard p) := by
  unfold State.backRx
  rw [h]
  exact if_pos hty

theorem backRx_other (h : backMessage bytes = some m) (hty : m.ty ≠ ty) (f : BackMessage → State → State) :
    s.backRx p ty bytes f = s.heard p := by
  unfold State.backRx
  rw [h]
  exact if_neg hty

theorem lane_of_src {l : Fin 8} (h : m.src = l) : m.lane = some l := by
  unfold BackMessage.lane
  rw [dif_pos (h ▸ l.isLt)]
  exact congrArg some (Fin.ext h)

theorem driverRx_some {l : Fin 8} (h : backMessage bytes = some m) (hty : m.ty = ty) (hsrc : m.src = l)
    (f : Fin 8 → Nat → State → State) : s.driverRx p ty bytes f = f l m.value (s.heard p) := by
  unfold State.driverRx
  rw [backRx_some h hty, lane_of_src hsrc]

@[simp] theorem heard_panelLane (l : Fin 8) : (s.heard p).panelLane p l = s.panelLane p l :=
  panelLane_onPanel_keeps s p l fun _ => rfl

theorem port_heard : (s.heard p).panel.ports[p] = { s.panel.ports[p] with heardAt := s.clock } := port_onPanel s p _

end Rx

end Sys2Proof.Machine
end

section
/-! A panel port that negotiates: capability words, the version and rate resolved, the switch, and failures (R254, R255, R262,
R263, R279). -/

open Sys2Proof Sys2Proof.Machine

namespace Sys2Proof.Machine

variable {s : State} {p : Fin 4}

/-! ## Messages that do not count -/

theorem exec_badMessage {msg : List Byte} {c : Instr} (hup : s.up = true) (hbad : backMessage msg = none)
    (hc : c = .panelCapRx p msg ∨ c = .panelLockRx p msg ∨ c = .panelCrcErrRx p msg) : exec c s = .next (s.heard p) := by
  have hrx (ty : Nat) (f : Fin 8 → Nat → State → State) : s.driverRx p ty msg f = s.heard p := backRx_none hbad _
  obtain rfl | rfl | rfl := hc
  · exact exec_ifUp (f := (·.driverRx p 1 msg _)) hup rfl (hrx _ _)
  · exact exec_ifUp (f := (·.driverRx p 2 msg _)) hup rfl (hrx _ _)
  · exact exec_ifUp (f := (·.driverRx p 3 msg _)) hup rfl (hrx _ _)

/-! ## Capability words -/

theorem getLsbD_foldl_and {w : Nat} (caps : List (BitVec w)) (x : BitVec w) (i : Nat) :
    (caps.foldl (· &&& ·) x).getLsbD i = (x.getLsbD i && caps.all fun c => c.getLsbD i) := by
  induction caps generalizing x with
  | nil => simp
  | cons c caps ih => rw [List.foldl_cons, ih, BitVec.getLsbD_and, List.all_cons, Bool.and_assoc]

/-- The bits of the words that all drivers of a list report. -/
theorem getLsbD_common {w : Nat} (caps : List (BitVec w)) {i : Nat} (hi : i < w) :
    (caps.foldl (· &&& ·) (BitVec.allOnes w)).getLsbD i = caps.all fun c => c.getLsbD i := by
  rw [getLsbD_foldl_and, BitVec.getLsbD_allOnes, decide_eq_true hi, Bool.true_and]

/-- The state with a lane's capability word. -/
def State.capTaken (s : State) (p : Fin 4) (l : Fin 8) (cap : BitVec 13) : State :=
  (s.onPanelLane p l fun x => { x with cap := some cap }).put (F.PANEL_STATUS_BK_UP p) 1

theorem panelCap_eq {l : Fin 8} (cap : BitVec 13) (hstate : s.get (F.PANEL_STATUS_STATE p) = 1)
    (hopen : s.panel.ports[p].resolved = none) (hlane : (s.get (F.PANEL_CFG_LANE_EN p)).testBit l = true) :
    s.panelCap p l cap = (s.capTaken p l cap).put (F.PANEL_DRVCAP_CAP p)
      (((s.capTaken p l cap).reporting p).foldl (· &&& ·) (BitVec.allOnes 13)).toNat := by
  unfold State.panelCap
  rw [hstate, hopen, hlane]
  rfl

theorem reporting_putDrvcap (v : Nat) : (s.put (F.PANEL_DRVCAP_CAP p) v).reporting p = s.reporting p := by
  unfold State.reporting
  rw [State.get_put_other _ _ _ _ (by simp) (by simp)]
  rfl

theorem answers_panelCapRx {l : Fin 8} {msg : List Byte} {m : BackMessage} {cap : BitVec 13} (hup : s.up = true)
    (hmsg : backMessage msg = some m) (hty : m.ty = 1) (hsrc : m.src = l) (hcap : cap = BitVec.ofNat 13 m.value)
    (hstate : s.get (F.PANEL_STATUS_STATE p) = 1) (hopen : s.panel.ports[p].resolved = none)
    (hlane : (s.get (F.PANEL_CFG_LANE_EN p)).testBit l = true) :
    Answers (.panelCapRx p msg) s fun t =>
      (t.panelLane p l).cap = some cap ∧ t.bit (F.PANEL_STATUS_BK_UP p) = true ∧ t.panel.ports[p].heardAt = s.clock ∧
      (∀ k, k ≠ l → t.panelLane p k = s.panelLane p k) ∧
      ∀ i < 13, (t.get (F.PANEL_DRVCAP_CAP p)).testBit i = (t.reporting p).all fun c => c.getLsbD i := by
  refine answers_ifUp (f := (·.driverRx p 1 msg fun l v s => s.panelCap p l (BitVec.ofNat 13 v))) hup rfl ?_
  have hopen' : (s.heard p).panel.ports[p].resolved = none := by rw [port_heard]; exact hopen
  rw [driverRx_some hmsg hty hsrc, ← hcap, panelCap_eq cap (by exact hstate) hopen' (by exact hlane)]
  refine ⟨?_, ?_, ?_, fun k hk => ?_, fun i hi => ?_⟩
  · rw [put_panelLane, State.capTaken, put_panelLane, panelLane_onPanelLane]
  · rw [bit_put_other _ _ _ _ (by simp) (by simp)]
    exact bit_put _ _ _ (by simp)
  · rw [State.put_panel, State.capTaken, State.put_panel, port_onPanelLane, port_heard]
  · rw [put_panelLane, State.capTaken, put_panelLane, panelLane_onPanelLane_other _ p l hk, heard_panelLane]
  · rw [reporting_putDrvcap, State.get_put _ _ _ (by simp), Nat.testBit_mod_two_pow, decide_eq_true hi, Bool.true_and]
    exact getLsbD_common _ hi

/-! ## The version and rate resolved -/

theorem foldl_min_le (l : List Nat) (a : Nat) : l.foldl min a ≤ a ∧ ∀ x ∈ l, l.foldl min a ≤ x := by
  induction l generalizing a with
  | nil => exact ⟨Nat.le_refl a, nofun⟩
  | cons y l ih =>
    obtain ⟨hhead, htail⟩ := ih (min a y)
    refine ⟨hhead.trans (Nat.min_le_left a y), fun x hx => ?_⟩
    obtain rfl | hx := List.mem_cons.1 hx
    · exact hhead.trans (Nat.min_le_right a x)
    · exact htail x hx

/-- The version that a port resolves: the highest that its drivers have in common and that it allows. -/
def State.commonVer (s : State) (p : Fin 4) : Option Nat :=
  let both := (s.reporting p).foldl (· &&& ·) (BitVec.allOnes 13)
  if both.getLsbD 1 && s.bit (F.PANEL_CFG_MAXVER p) then some 1 else if both.getLsbD 0 then some 0 else none

/-- The highest rate that the drivers have in common and the port allows. -/
def State.commonRate (s : State) (p : Fin 4) : Nat :=
  ((s.reporting p).map fun c => min 2 (c.toNat / 4 % 4)).foldl min (min 2 (s.get (F.PANEL_CFG_MAXRATE p)))

theorem panelResolve_eq : s.panelResolve p = if (s.reporting p).isEmpty then none
    else (s.commonVer p).map fun v => (v, if v = 0 then min 1 (s.commonRate p) else s.commonRate p) := rfl

theorem commonVer_allowed {v : Nat} (h : s.commonVer p = some v) :
    v ≤ s.get (F.PANEL_CFG_MAXVER p) ∧ ∀ c ∈ s.reporting p, c.getLsbD v = true := by
  have hall {i : Nat} (hi : i < 13)
      (hboth : ((s.reporting p).foldl (· &&& ·) (BitVec.allOnes 13)).getLsbD i = true) : ∀ c ∈ s.reporting p, c.getLsbD i = true := by
    rw [getLsbD_common _ hi] at hboth
    exact List.all_eq_true.1 hboth
  unfold State.commonVer at h
  dsimp only at h
  split at h
  · rename_i hboth
    obtain ⟨hboth, hmax⟩ := Bool.and_eq_true_iff.1 hboth
    cases h
    exact ⟨Nat.one_le_iff_ne_zero.2 (bne_iff_ne.1 hmax), hall (by decide) hboth⟩
  · split at h
    · rename_i hboth
      cases h
      exact ⟨Nat.zero_le _, hall (by decide) hboth⟩
    · cases h

theorem commonRate_allowed :
    s.commonRate p ≤ s.get (F.PANEL_CFG_MAXRATE p) ∧ ∀ c ∈ s.reporting p, s.commonRate p ≤ c.toNat / 4 % 4 := by
  obtain ⟨hport, hdrivers⟩ := foldl_min_le ((s.reporting p).map fun c => min 2 (c.toNat / 4 % 4))
    (min 2 (s.get (F.PANEL_CFG_MAXRATE p)))
  exact ⟨hport.trans (Nat.min_le_right _ _), fun c hc =>
    (hdrivers _ (List.mem_map_of_mem hc)).trans (Nat.min_le_right _ _)⟩

theorem panelResolve_allowed {v r : Nat} (h : s.panelResolve p = some (v, r)) :
    v ≤ s.get (F.PANEL_CFG_MAXVER p) ∧ r ≤ s.get (F.PANEL_CFG_MAXRATE p) ∧ (v = 0 → r ≤ 1) ∧
      ∀ c ∈ s.reporting p, c.getLsbD v = true ∧ r ≤ c.toNat / 4 % 4 := by
  rw [panelResolve_eq] at h
  split at h
  · cases h
  · obtain ⟨v', hv, hpair⟩ := Option.map_eq_some_iff.1 h
    obtain ⟨rfl, rfl⟩ := Prod.mk.inj hpair
    obtain ⟨hver, hbits⟩ := commonVer_allowed hv
    obtain ⟨hport, hdrivers⟩ := commonRate_allowed (s := s) (p := p)
    have hle : (if v' = 0 then min 1 (s.commonRate p) else s.commonRate p) ≤ s.commonRate p := by
      split
      · exact Nat.min_le_right _ _
      · exact Nat.le_refl _
    refine ⟨hver, hle.trans hport, fun hv0 => ?_, fun c hc => ⟨hbits c hc, hle.trans (hdrivers c hc)⟩⟩
    rw [if_pos hv0]
    exact Nat.min_le_left _ _

/-! ## The switch -/

theorem exec_panelRateSwitch {v r : Nat} (hup : s.up = true) (hstate : s.get (F.PANEL_STATUS_STATE p) = 1)
    (hfirst : s.panel.ports[p].switched = false) (hres : s.panel.ports[p].resolved = some (v, r))
    (hleft : s.panel.ports[p].left = 0) (hdue : s.panel.ports[p].nextAt ≤ s.clock * 1000) : exec (.panelRateSwitch p) s =
      .next (((s.onPanel p fun q => { q with switched := true }).put (F.PANEL_STATUS_VER p) v).put (F.PANEL_STATUS_RATE p) r) := by
  refine exec_ifUp (f := (·.panelSwitch p)) hup rfl ?_
  have hover : s.countdownOver p = true := by
    unfold State.countdownOver
    rw [hres, hleft, decide_eq_true hdue]
    rfl
  unfold State.panelSwitch
  rw [hstate, hfirst]
  refine (State.when_true _ _).trans ?_
  rw [hres]
  dsimp only
  rw [hover, State.when_true]

/-! ## Failures -/

theorem panelDown_port (state : Nat) : (s.panelDown p state).panel.ports[p] = PanelPort.reset := by
  unfold State.panelDown
  simp only [State.put_panel]
  exact port_onPanel s p _

theorem panelDown_state {state : Nat} (h : state < 4) : (s.panelDown p state).get (F.PANEL_STATUS_STATE p) = state := by
  unfold State.panelDown
  dsimp only
  rw [State.get_put_other _ _ _ _ (by simp) (by simp), State.get_put_other _ _ _ _ (by simp) (by simp),
    State.get_put_other _ _ _ _ (by simp) (by simp), State.get_put_other _ _ _ _ (by simp) (by simp),
    State.get_put_other _ _ _ _ (by simp) (by simp), State.get_put _ _ _ (by simp)]
  exact Nat.mod_eq_of_lt h

theorem panelDown_lanesUp (state : Nat) : (s.panelDown p state).get (F.PANEL_STATUS_LANES_UP p) = 0 := by
  unfold State.panelDown
  dsimp only
  rw [State.get_put_other _ _ _ _ (by simp) (by simp), State.get_put_other _ _ _ _ (by simp) (by simp), State.get_put _ _ _ (by simp)]
  rfl

/-- Failed negotiation leaves the port down as after reset, RETRAIN clear, event 2 raised. -/
theorem panelFails_spec : (s.panelFails p).get (F.PANEL_STATUS_STATE p) = 0 ∧ (s.panelFails p).bit (F.PANEL_CFG_RETRAIN p) = false ∧
    (s.panelFails p).panel.ports[p] = PanelPort.reset ∧ (s.panelFails p).evStatus (578 + 16 * p) = true := by
  have hsrc := srcPanel_lt p (k := 2) (by decide)
  unfold State.panelFails
  refine ⟨?_, ?_, ?_, ?_⟩
  · rw [raise_get_high hsrc (panel_high p (by decide)), State.get_put_other _ _ _ _ (by simp) (by simp)]
    exact panelDown_state (by decide)
  · rw [raise_bit_high hsrc (panel_high p (by decide)), bit_put _ _ _ (by simp)]
    rfl
  · rw [raise_panel hsrc, State.put_panel]
    exact panelDown_port 0
  · rw [← srcPanel_eq p 2]
    exact raise_evStatus hsrc

theorem answers_panelRateSwitch_fails (hup : s.up = true) (hstate : s.get (F.PANEL_STATUS_STATE p) = 1)
    (hfirst : s.panel.ports[p].switched = false) (hopen : s.panel.ports[p].resolved = none) (hall : s.allReported p = true)
    (hnone : s.panelResolve p = none) : Answers (.panelRateSwitch p) s fun t =>
      t.get (F.PANEL_STATUS_STATE p) = 0 ∧ t.evStatus (578 + 16 * p) = true := by
  refine answers_ifUp (f := (·.panelSwitch p)) hup rfl ?_
  have hswitch : s.panelSwitch p = s.panelFails p := by
    unfold State.panelSwitch
    rw [hstate, hfirst]
    refine (State.when_true _ _).trans ?_
    rw [hopen]
    dsimp only
    rw [hall, hnone]
    rfl
  rw [hswitch]
  obtain ⟨hdown, -, -, hevent⟩ := panelFails_spec (s := s) (p := p)
  exact ⟨hdown, hevent⟩

theorem answers_panelNegotiationFailed (hup : s.up = true) (hstate : s.get (F.PANEL_STATUS_STATE p) = 1) :
    Answers (.panelNegotiationFailed p none) s fun t =>
      t.get (F.PANEL_STATUS_STATE p) = 0 ∧ t.bit (F.PANEL_CFG_RETRAIN p) = false ∧ t.panel.ports[p] = PanelPort.reset ∧
      t.evStatus (578 + 16 * p) = true := by
  refine answers_ifUp (f := (·.panelNegotiationFails p none)) hup rfl ?_
  unfold State.panelNegotiationFails
  rw [hstate]
  exact panelFails_spec

theorem exec_panelNegotiationFailed_lane {l : Fin 8} (hup : s.up = true) (hstate : s.get (F.PANEL_STATUS_STATE p) = 1)
    (hlane : (s.get (F.PANEL_CFG_LANE_EN p)).testBit l = true) (hsilent : (s.panelLane p l).cap = none) :
    exec (.panelNegotiationFailed p (some l)) s =
      .next ((s.onPanel p fun q => { q with out_ := q.out_ ||| (1#8 <<< l.val) }).raise (578 + 16 * p)) := by
  refine exec_ifUp (f := (·.panelNegotiationFails p (some l))) hup rfl ?_
  unfold State.panelNegotiationFails
  rw [hstate, ← srcPanel_eq p 2]
  refine (State.when_true _ _).trans ?_
  dsimp only
  rw [hlane, hsilent]
  rfl

/-! ## Retrain by command -/

/-- A lane's seeds leave what the port negotiates as it was. -/
theorem seedLane_keeps {α : Type} (g : PanelLane → α)
    (hg : ∀ x scr freeAt lockAt, g { x with scr := scr, freeAt := freeAt, lockAt := lockAt } = g x) (u : State) (l k : Fin 8) :
    g ((u.seedLane p l).panelLane p k) = g (u.panelLane p k) := by
  unfold State.seedLane
  exact panelLane_onPanelLane_keeps _ p l g (fun x => hg x _ _ _) k

/-- The lanes of a port seeded. -/
def State.seedLanes (s : State) (p : Fin 4) : State := (List.finRange 8).foldl (fun (u : State) (l : Fin 8) => u.seedLane p l) s

theorem seedLanes_keeps {α : Type} (g : PanelLane → α)
    (hg : ∀ x scr freeAt lockAt, g { x with scr := scr, freeAt := freeAt, lockAt := lockAt } = g x) (k : Fin 8) :
    g ((s.seedLanes p).panelLane p k) = g (s.panelLane p k) :=
  foldl_keeps (fun u : State => g (u.panelLane p k)) (fun u l => seedLane_keeps g hg u l k) _ s

theorem seedLane_reg (u : State) (l : Fin 8) (a : Nat) : (u.seedLane p l).reg a = u.reg a := by
  unfold State.seedLane
  rfl

theorem seedLanes_reg (a : Nat) : (s.seedLanes p).reg a = s.reg a :=
  foldl_keeps (fun u : State => u.reg a) (fun u l => seedLane_reg u l a) _ s

theorem seedLane_port {α : Type} (g : PanelPort → α) (hg : ∀ q lanes, g { q with lanes := lanes } = g q) (u : State) (l : Fin 8) :
    g (u.seedLane p l).panel.ports[p] = g u.panel.ports[p] := by
  unfold State.seedLane
  dsimp only
  rw [port_onPanelLane, hg]
  rfl

theorem seedLanes_port {α : Type} (g : PanelPort → α) (hg : ∀ q lanes, g { q with lanes := lanes } = g q) :
    g (s.seedLanes p).panel.ports[p] = g s.panel.ports[p] :=
  foldl_keeps (fun u : State => g u.panel.ports[p]) (fun u l => seedLane_port g hg u l) _ s

theorem seedLane_clock (u : State) (l : Fin 8) : (u.seedLane p l).clock = u.clock := by
  unfold State.seedLane
  rfl

theorem seedLanes_clock : (s.seedLanes p).clock = s.clock := foldl_keeps State.clock seedLane_clock _ s

theorem panelDown_reg (state : Nat) {a : Nat} (hs : a ≠ F.PANEL_STATUS_addr p) (hd : a ≠ F.PANEL_DRVCAP_addr p) :
    (s.panelDown p state).reg a = s.reg a := by
  unfold State.panelDown
  dsimp only
  rw [reg_put_other _ _ _ _ hd, reg_put_other _ _ _ _ hs, reg_put_other _ _ _ _ hs, reg_put_other _ _ _ _ hs,
    reg_put_other _ _ _ _ hs, reg_put_other _ _ _ _ hs]
  rfl

theorem panelDown_clock (state : Nat) : (s.panelDown p state).clock = s.clock := by
  unfold State.panelDown
  simp only [State.put_clock]
  rfl

theorem draw_clock : s.draw.2.clock = s.clock := rfl

theorem draw_panel : s.draw.2.panel = s.panel := rfl

theorem draw_reg (a : Nat) : s.draw.2.reg a = s.reg a := rfl

/-- The state of a port that starts to negotiate, its training pattern not placed in time yet. -/
def State.restarted (s : State) (p : Fin 4) : State := (s.panelDown p 1).draw.2.seedLanes p

theorem panelStart_eq (hen : s.bit (F.PANEL_CFG_EN p) = true) : ∃ fill, s.panelStart p =
    (s.restarted p).onPanel p fun q => { q with fill := fill, nextAt := s.clock * 1000, heardAt := s.clock } := by
  have hen' : (s.panelDown p 1).bit (F.PANEL_CFG_EN p) = true := by
    unfold State.bit State.get
    rw [panelDown_reg 1 (by simp) (by simp)]
    exact hen
  have hclock : (s.restarted p).clock = s.clock := by
    rw [State.restarted, seedLanes_clock, draw_clock, panelDown_clock]
  refine ⟨1 + (s.panelDown p 1).draw.1.toNat % (2 ^ 31 - 1), ?_⟩
  unfold State.panelStart
  rw [hen]
  dsimp only
  rw [if_pos rfl, hen', ← hclock]
  rfl

theorem restarted_get (f : Field) : (s.restarted p).get f = (s.panelDown p 1).get f := by
  unfold State.get
  rw [State.restarted, seedLanes_reg, draw_reg]

theorem restarted_port {α : Type} (g : PanelPort → α) (hg : ∀ q lanes, g { q with lanes := lanes } = g q) :
    g (s.restarted p).panel.ports[p] = g PanelPort.reset := by
  rw [State.restarted, seedLanes_port g hg, draw_panel, panelDown_port]

theorem restarted_lane {α : Type} (g : PanelLane → α)
    (hg : ∀ x scr freeAt lockAt, g { x with scr := scr, freeAt := freeAt, lockAt := lockAt } = g x) (k : Fin 8) :
    g ((s.restarted p).panelLane p k) = g PanelLane.reset := by
  rw [State.restarted, seedLanes_keeps g hg, State.panelLane, draw_panel, panelDown_port]
  exact congrArg g (Vector.getElem_replicate k.isLt)

theorem answers_panelRetrain (hup : s.up = true) (hen : s.bit (F.PANEL_CFG_EN p) = true) :
    Answers (.panelRetrain p) s fun t =>
      t.get (F.PANEL_STATUS_STATE p) = 1 ∧ t.get (F.PANEL_STATUS_LANES_UP p) = 0 ∧ t.bit (F.PANEL_CFG_RETRAIN p) = true ∧
      t.panel.ports[p].resolved = none ∧ t.panel.ports[p].switched = false ∧ t.panel.ports[p].out_ = 0 ∧
      t.panel.ports[p].nextAt = s.clock * 1000 ∧ ∀ l, (t.panelLane p l).cap = none ∧ (t.panelLane p l).locked = false := by
  refine answers_ifUp (f := (·.panelRetrain p)) hup rfl ?_
  obtain ⟨fill, hstart⟩ := panelStart_eq hen
  unfold State.panelRetrain
  rw [hen, State.when_true, hstart]
  have hlane (l : Fin 8) := panelLane_onPanel_keeps (s.restarted p) p l
    (f := fun q => { q with fill := fill, nextAt := s.clock * 1000, heardAt := s.clock }) fun _ => rfl
  simp only [State.put_panel, port_onPanel]
  refine ⟨?_, ?_, ?_, restarted_port (·.resolved) fun _ _ => rfl, restarted_port (·.switched) fun _ _ => rfl,
    restarted_port (·.out_) fun _ _ => rfl, trivial, fun l => ?_⟩
  · rw [State.get_put_other _ _ _ _ (by simp) (by simp), onPanel_get, restarted_get]
    exact panelDown_state (by decide)
  · rw [State.get_put_other _ _ _ _ (by simp) (by simp), onPanel_get, restarted_get]
    exact panelDown_lanesUp 1
  · exact bit_put _ _ _ (by simp)
  · rw [put_panelLane, hlane]
    exact ⟨restarted_lane (·.cap) (fun _ _ _ _ => rfl) l, restarted_lane (·.locked) (fun _ _ _ _ => rfl) l⟩

end Sys2Proof.Machine
end

section
/-! Lock on the lanes of a panel port: bring-up, a lane that loses lock, and one that returns with its catch-up LATCH blocks
(R254, R262, R263, R269, R270). -/

open Sys2Proof Sys2Proof.Machine

namespace Sys2Proof.Machine

variable {s : State} {p : Fin 4} {l : Fin 8}

/-! ## Blocks on a lane -/

/-- A block leaves with what the scrambler makes of it, or a shutdown stops it. -/
theorem sendBlock_cases (s : State) (p : Fin 4) (l : Fin 8) (control : Bool) (w : BitVec 64) :
    s.sendBlock p l control w = s ∨ ∃ line scr, s.sendBlock p l control w =
      (s.onPanelLane p l fun x => { x with scr := scr }).emit (.panel p l control w line) := by
  unfold State.sendBlock
  split
  · exact .inl rfl
  · exact .inr ⟨_, _, rfl⟩

theorem sendBlock_mem (hrun : s.bit F.TMON_SD_CAUSE_VALID = false) (control : Bool) (w : BitVec 64) :
    ∃ x, Out.panel p l control w x ∈ (s.sendBlock p l control w).out := by
  unfold State.sendBlock
  rw [hrun]
  exact ⟨_, List.mem_cons_self⟩

section Block

variable (s : State) (p : Fin 4) (l : Fin 8) (control : Bool) (w : BitVec 64)

theorem sendBlock_reg (a : Nat) : (s.sendBlock p l control w).reg a = s.reg a := by
  obtain h | ⟨line, scr, h⟩ := sendBlock_cases s p l control w
  · rw [h]
  · rw [h]
    rfl

theorem sendBlock_outsKept : OutsKept s (s.sendBlock p l control w) := by
  obtain h | ⟨line, scr, h⟩ := sendBlock_cases s p l control w
  · rw [h]
    exact fun _ ho => ho
  · rw [h]
    exact fun _ ho => List.mem_cons_of_mem _ ho

theorem sendBlock_lane_other {k : Fin 8} (hk : k ≠ l) : (s.sendBlock p l control w).panelLane p k = s.panelLane p k := by
  obtain h | ⟨line, scr, h⟩ := sendBlock_cases s p l control w
  · rw [h]
  · rw [h, emit_panelLane, panelLane_onPanelLane_other s p l hk]

/-- A block leaves all of its lane but the scrambler as it was. -/
theorem sendBlock_lane_keeps {α : Type} (g : PanelLane → α) (hg : ∀ x scr, g { x with scr := scr } = g x) (k : Fin 8) :
    g ((s.sendBlock p l control w).panelLane p k) = g (s.panelLane p k) := by
  obtain h | ⟨line, scr, h⟩ := sendBlock_cases s p l control w
  · rw [h]
  · rw [h, emit_panelLane]
    exact panelLane_onPanelLane_keeps s p l g (fun x => hg x scr) k

end Block

/-- What each block of a lane's queue keeps, and its emptying, the lane's flush keeps. -/
theorem flushLane_keeps {α : Type} (g : State → α) (hsend : ∀ u w, g (u.sendBlock p l true w) = g u)
    (hempty : g (s.onPanelLane p l fun x => { x with wait := [] }) = g s) : g (s.flushLane p l) = g s :=
  (foldl_keeps (f := fun (u : State) (y : Nat × BitVec 64) => u.sendBlock p l true y.2) g (fun u y => hsend u y.2) _ _).trans hempty

theorem flushLane_reg (a : Nat) : (s.flushLane p l).reg a = s.reg a :=
  flushLane_keeps (fun u => u.reg a) (fun u w => sendBlock_reg u p l true w a) rfl

theorem flushLane_other {k : Fin 8} (h : k ≠ l) : (s.flushLane p l).panelLane p k = s.panelLane p k :=
  flushLane_keeps (fun u => u.panelLane p k) (fun u w => sendBlock_lane_other u p l true w h)
    (panelLane_onPanelLane_other s p l h _)

theorem sendCfgTo_reg (a : Nat) : (s.sendCfgTo p).reg a = s.reg a :=
  foldl_keeps (fun u : State => u.reg a) (fun u _ => foldl_keeps (fun v : State => v.reg a) (fun v k => by
    split
    · exact sendBlock_reg v p k true _ a
    · rfl) _ u) _ s

theorem sendCfgTo_get (f : Field) : (s.sendCfgTo p).get f = s.get f := congrArg f.of (sendCfgTo_reg f.addr)

/-! ## The port comes up -/

/-- The mask of a set of lanes. -/
theorem testBit_laneMask (P : Fin 8 → Bool) (k : Fin 8) :
    ((((List.finRange 8).filter P).map fun l : Fin 8 => 2 ^ l.val).sum).testBit k = P k := by
  have hsorted : (((List.finRange 8).filter P).map Fin.val).SortedLT :=
    (((List.sortedLT_finRange 8).pairwise.filter P).map Fin.val fun _ _ h => h).sortedLT
  have hbits := Nat.bitIndices_sum_map_two_pow hsorted
  rw [List.map_map] at hbits
  rw [Bool.eq_iff_iff, ← Nat.mem_bitIndices]
  refine (iff_of_eq (congrArg (k.val ∈ ·) hbits)).trans ?_
  rw [List.mem_map_of_injective Fin.val_injective, List.mem_filter]
  exact and_iff_right (List.mem_finRange k)

theorem raiseIf_get_high (c : Bool) {n : Nat} {f : Field} (hn : n < 1024) (hf : 0x50000 ≤ f.addr) :
    (s.raiseIf c n).get f = s.get f := congrArg f.of (raiseIf_reg_high s c hn hf)

/-- The registers of a port that is up with the lanes of a mask. -/
def State.upWith (s : State) (p : Fin 4) (lanes : Nat) : State :=
  ((s.put (F.PANEL_STATUS_STATE p) 2).put (F.PANEL_STATUS_LANES_UP p) lanes).put (F.PANEL_CFG_RETRAIN p) 0

theorem upWith_state (lanes : Nat) : (s.upWith p lanes).get (F.PANEL_STATUS_STATE p) = 2 := by
  unfold State.upWith
  rw [State.get_put_other _ _ _ _ (by simp) (by simp), State.get_put_other _ _ _ _ (by simp) (by simp), State.get_put _ _ _ (by simp)]
  rfl

theorem upWith_lanesUp (lanes : Nat) : (s.upWith p lanes).get (F.PANEL_STATUS_LANES_UP p) = lanes % 2 ^ 8 := by
  unfold State.upWith
  rw [State.get_put_other _ _ _ _ (by simp) (by simp), State.get_put _ _ _ (by simp)]

theorem upWith_retrain (lanes : Nat) : (s.upWith p lanes).get (F.PANEL_CFG_RETRAIN p) = 0 := by
  unfold State.upWith
  rw [State.get_put _ _ _ (by simp)]
  rfl

/-- Where no lane's map is too wide for its driver, the port comes up with the lanes that take part. -/
theorem panelComesUp_eq (hwide : ∀ k, s.tooWide p k = false) : ∃ below, s.panelComesUp p =
    ((s.upWith p ((((List.finRange 8).filter (s.takesPart p)).map fun l : Fin 8 => 2 ^ l.val).sum)).raiseIf below
      (srcPanel p 3)).sendCfgTo p := by
  have hnone : ((List.finRange 8).filter fun l => s.takesPart p l && s.tooWide p l) = [] :=
    List.filter_eq_nil_iff.2 fun k _ => by simp [hwide k]
  have hall : ((List.finRange 8).filter fun l => s.takesPart p l && !([] : List (Fin 8)).contains l) =
      (List.finRange 8).filter (s.takesPart p) := by simp
  refine ⟨decide (s.get (F.PANEL_STATUS_VER p) < s.get (F.PANEL_CFG_MAXVER p)) ||
    decide (s.get (F.PANEL_STATUS_RATE p) < min 2 (s.get (F.PANEL_CFG_MAXRATE p))), ?_⟩
  unfold State.panelComesUp
  rw [hnone, ← hall]
  rfl

theorem panelComesUp_get (hwide : ∀ k, s.tooWide p k = false) {f : Field} (hf : 0x50000 ≤ f.addr) : (s.panelComesUp p).get f =
    (s.upWith p ((((List.finRange 8).filter (s.takesPart p)).map fun l : Fin 8 => 2 ^ l.val).sum)).get f := by
  obtain ⟨below, hup⟩ := panelComesUp_eq hwide
  rw [hup, sendCfgTo_get, raiseIf_get_high _ (srcPanel_lt p (by decide)) hf]

theorem takesPart_onPanelLane {f : PanelLane → PanelLane} (h : ∀ x, (f x).cap = x.cap) (k : Fin 8) :
    (s.onPanelLane p l f).takesPart p k = s.takesPart p k := by
  unfold State.takesPart
  rw [onPanelLane_get, port_onPanelLane, panelLane_onPanelLane_keeps s p l PanelLane.cap h]

theorem takesPart_heard (k : Fin 8) : (s.heard p).takesPart p k = s.takesPart p k := by
  unfold State.takesPart
  rw [port_heard, heard_panelLane]
  rfl

theorem tooWide_onPanelLane {f : PanelLane → PanelLane} (h : ∀ x, (f x).cap = x.cap) (k : Fin 8) :
    (s.onPanelLane p l f).tooWide p k = s.tooWide p k := by
  unfold State.tooWide
  rw [onPanelLane_actGet, panelLane_onPanelLane_keeps s p l PanelLane.cap h]

theorem tooWide_heard (k : Fin 8) : (s.heard p).tooWide p k = s.tooWide p k := by
  unfold State.tooWide
  rw [heard_panelLane]
  rfl

/-- A lane's LOCK message noted: its time, and lock. -/
def State.lockNoted (s : State) (p : Fin 4) (l : Fin 8) : State :=
  (s.onPanelLane p l fun x => { x with lockAt := s.clock }).onPanelLane p l fun x => { x with locked := true }

theorem lockNoted_takesPart (k : Fin 8) : (s.lockNoted p l).takesPart p k = s.takesPart p k :=
  (takesPart_onPanelLane (f := fun x => { x with locked := true }) (fun _ => rfl) k).trans
    (takesPart_onPanelLane (f := fun x => { x with lockAt := s.clock }) (fun _ => rfl) k)

theorem lockNoted_tooWide (k : Fin 8) : (s.lockNoted p l).tooWide p k = s.tooWide p k :=
  (tooWide_onPanelLane (f := fun x => { x with locked := true }) (fun _ => rfl) k).trans
    (tooWide_onPanelLane (f := fun x => { x with lockAt := s.clock }) (fun _ => rfl) k)

theorem lockNoted_locked (k : Fin 8) : ((s.lockNoted p l).panelLane p k).locked = (decide (k = l) || (s.panelLane p k).locked) := by
  unfold State.lockNoted
  by_cases hk : k = l
  · subst hk
    rw [panelLane_onPanelLane, decide_eq_true rfl, Bool.true_or]
  · rw [panelLane_onPanelLane_other _ p l hk, panelLane_onPanelLane_other s p l hk, decide_eq_false hk, Bool.false_or]

/-- Lock at the rate and version in force on the last lane that had none brings the port up. -/
theorem panelLock_comesUp {msg : BitVec 8} (hstate : s.get (F.PANEL_STATUS_STATE p) = 1) (hsw : s.panel.ports[p].switched = true)
    (hpart : s.takesPart p l = true) (hpll : s.bit (F.PLL_CTL_LOCK 1) = true) (hlock : msg.getLsbD 0 = true)
    (hrate : msg.toNat / 2 % 4 = s.get (F.PANEL_STATUS_RATE p)) (hver : msg.toNat / 8 % 2 = s.get (F.PANEL_STATUS_VER p))
    (hothers : ∀ k : Fin 8, k ≠ l → s.takesPart p k = true → (s.panelLane p k).locked = true) :
    s.panelLock p l msg = (s.lockNoted p l).panelComesUp p := by
  have hall : ((List.finRange 8).all fun k => !(s.lockNoted p l).takesPart p k || ((s.lockNoted p l).panelLane p k).locked) = true := by
    refine List.all_eq_true.2 fun k _ => ?_
    rw [lockNoted_takesPart, lockNoted_locked]
    by_cases hk : k = l
    · simp [hk]
    · cases hpk : s.takesPart p k with
      | false => rfl
      | true => simp [hothers k hk hpk]
  have hpart' : (s.onPanelLane p l fun x => { x with lockAt := s.clock }).takesPart p l = true :=
    (takesPart_onPanelLane (f := fun x => { x with lockAt := s.clock }) (fun _ => rfl) l).trans hpart
  have hsw' : (s.onPanelLane p l fun x => { x with lockAt := s.clock }).panel.ports[p].switched = true := by
    rw [port_onPanelLane]
    exact hsw
  unfold State.panelLock
  simp only [onPanelLane_get, hstate, if_true, hsw', hpart', Bool.and_self, hlock, hrate, hver, and_self, decide_true]
  refine if_pos ?_
  exact Bool.and_eq_true_iff.2 ⟨hpll, hall⟩

theorem answers_panelLockRx_up {msg : List Byte} {m : BackMessage} (hup : s.up = true) (hmsg : backMessage msg = some m)
    (hty : m.ty = 2) (hsrc : m.src = l) (hstate : s.get (F.PANEL_STATUS_STATE p) = 1) (hsw : s.panel.ports[p].switched = true)
    (hpart : s.takesPart p l = true) (hpll : s.bit (F.PLL_CTL_LOCK 1) = true) (hlock : m.value % 2 = 1)
    (hrate : m.value / 2 % 4 = s.get (F.PANEL_STATUS_RATE p)) (hver : m.value / 8 % 2 = s.get (F.PANEL_STATUS_VER p))
    (hothers : ∀ k : Fin 8, k ≠ l → s.takesPart p k = true → (s.panelLane p k).locked = true)
    (hwide : ∀ k : Fin 8, s.tooWide p k = false) : Answers (.panelLockRx p msg) s fun t =>
      t.get (F.PANEL_STATUS_STATE p) = 2 ∧ t.bit (F.PANEL_CFG_RETRAIN p) = false ∧
        ∀ k : Fin 8, (t.get (F.PANEL_STATUS_LANES_UP p)).testBit k = s.takesPart p k := by
  refine answers_ifUp (f := (·.driverRx p 2 msg fun l v s => s.panelLock p l (BitVec.ofNat 8 v))) hup rfl ?_
  have hpart' : (s.heard p).takesPart p l = true := (takesPart_heard l).trans hpart
  have hsw' : (s.heard p).panel.ports[p].switched = true := by
    rw [port_heard]
    exact hsw
  have hbit : (BitVec.ofNat 8 m.value).getLsbD 0 = true := by
    rw [BitVec.getLsbD_ofNat, Nat.testBit_zero, hlock]
    rfl
  have hval : (BitVec.ofNat 8 m.value).toNat = m.value % 256 := BitVec.toNat_ofNat _ _
  rw [driverRx_some hmsg hty hsrc, panelLock_comesUp (by exact hstate) hsw' hpart' (by exact hpll) hbit
    (by rw [hval]; exact (show m.value % 256 / 2 % 4 = m.value / 2 % 4 by omega).trans hrate)
    (by rw [hval]; exact (show m.value % 256 / 8 % 2 = m.value / 8 % 2 by omega).trans hver)
    (fun k hk hpk => by rw [heard_panelLane]; exact hothers k hk ((takesPart_heard k).symm.trans hpk))]
  have hnarrow (k : Fin 8) : ((s.heard p).lockNoted p l).tooWide p k = false :=
    (lockNoted_tooWide k).trans ((tooWide_heard k).trans (hwide k))
  refine ⟨?_, ?_, fun k => ?_⟩
  · rw [panelComesUp_get hnarrow (panel_high p (by decide)), upWith_state]
  · rw [State.bit, panelComesUp_get hnarrow (panel_high p (by decide)), upWith_retrain]
    rfl
  · rw [panelComesUp_get hnarrow (panel_high p (by decide)), upWith_lanesUp, Nat.testBit_mod_two_pow, decide_eq_true k.isLt,
      Bool.true_and, testBit_laneMask, lockNoted_takesPart, takesPart_heard]

end Sys2Proof.Machine
end

section
/-! A panel lane that loses lock and one that returns, and the back channel (R261, R263, R269, R270, R276, R277). -/

open Sys2Proof Sys2Proof.Machine

namespace Sys2Proof.Machine

variable {s : State} {p : Fin 4} {l : Fin 8}

/-! ## A lane without lock (R269) -/

/-- The state with what waits on a lane sent, and the lane out of traffic. -/
def State.laneDropped (s : State) (p : Fin 4) (l : Fin 8) : State :=
  (s.flushLane p l).onPanelLane p l fun x => { x with locked := false, down := true, line := none }

theorem laneDropped_get (f : Field) : (s.laneDropped p l).get f = s.get f := congrArg f.of (flushLane_reg f.addr)

theorem laneDropped_lane : (s.laneDropped p l).panelLane p l =
    { (s.flushLane p l).panelLane p l with locked := false, down := true, line := none } := panelLane_onPanelLane _ p l _

theorem laneDropped_other {k : Fin 8} (h : k ≠ l) : (s.laneDropped p l).panelLane p k = s.panelLane p k :=
  (panelLane_onPanelLane_other _ p l h _).trans (flushLane_other h)

/-- The registers and the lanes of a port once a lane of it is lost. -/
def LaneLost (p : Fin 4) (l : Fin 8) (s t : State) : Prop :=
  t.get (F.PANEL_STATUS_LANES_UP p) = s.get (F.PANEL_STATUS_LANES_UP p) - 2 ^ l.val ∧ t.get (F.PANEL_STATUS_STATE p) = 3 ∧
  (t.panelLane p l).down = true ∧ (t.panelLane p l).line = none ∧ (∀ k, k ≠ l → t.panelLane p k = s.panelLane p k) ∧
  t.get (F.PANEL_ERR_DOWNS p) = min (s.get (F.PANEL_ERR_DOWNS p) + 1) (2 ^ (F.PANEL_ERR_DOWNS p).w - 1) ∧
  t.evStatus (576 + 16 * p) = true

/-- The state of a port once a lane of it is out of `lanes`, before the event. -/
def State.laneCounted (s : State) (p : Fin 4) (lanes : Nat) : State :=
  ((s.put (F.PANEL_STATUS_LANES_UP p) lanes).put (F.PANEL_STATUS_STATE p) 3).count (F.PANEL_ERR_DOWNS p)

theorem laneLost_eq (hport : 2 ≤ s.get (F.PANEL_STATUS_STATE p)) (hlane : (s.get (F.PANEL_STATUS_LANES_UP p)).testBit l = true) :
    s.laneLost p l = ((s.laneDropped p l).laneCounted p (s.get (F.PANEL_STATUS_LANES_UP p) - 2 ^ l.val)).raise (srcPanel p 0) := by
  unfold State.laneLost State.panelUp
  rw [decide_eq_true hport, hlane, Bool.and_self, State.when_true, ← laneDropped_get (l := l) (F.PANEL_STATUS_LANES_UP p)]
  rfl

theorem laneLost_spec (hport : 2 ≤ s.get (F.PANEL_STATUS_STATE p)) (hlane : (s.get (F.PANEL_STATUS_LANES_UP p)).testBit l = true) :
    LaneLost p l s (s.laneLost p l) := by
  have hsrc := srcPanel_lt p (k := 0) (by decide)
  have hget {f : Field} (hf : 0x50000 ≤ f.addr) := congrArg (State.get · f) (laneLost_eq hport hlane) |>.trans (raise_get_high hsrc hf)
  have hlanes (k : Fin 8) : (s.laneLost p l).panelLane p k = (s.laneDropped p l).panelLane p k := by
    rw [laneLost_eq hport hlane, raise_panelLane hsrc]
    rfl
  have hlt : s.get (F.PANEL_STATUS_LANES_UP p) - 2 ^ l.val < 2 ^ 8 :=
    (Nat.sub_le _ _).trans_lt (get_lt s (F.PANEL_STATUS_LANES_UP p))
  refine ⟨?_, ?_, ?_, ?_, fun k hk => (hlanes k).trans (laneDropped_other hk), ?_, ?_⟩
  · rw [hget (panel_high p (by decide)), State.laneCounted, State.count, State.countBy, State.get_put_other _ _ _ _ (by simp) (by simp),
      State.get_put_other _ _ _ _ (by simp) (by simp), State.get_put _ _ _ (by simp), Nat.mod_eq_of_lt hlt]
  · rw [hget (panel_high p (by decide)), State.laneCounted, State.count, State.countBy, State.get_put_other _ _ _ _ (by simp) (by simp),
      State.get_put _ _ _ (by simp)]
    rfl
  · rw [hlanes, laneDropped_lane]
  · rw [hlanes, laneDropped_lane]
  · rw [hget (panel_high p (by decide)), State.laneCounted, get_count _ _ (by simp), State.get_put_other _ _ _ _ (by simp) (by simp),
      State.get_put_other _ _ _ _ (by simp) (by simp), laneDropped_get]
  · rw [laneLost_eq hport hlane]
    exact raise_evStatus hsrc

/-- The time of a message and of lock are not among what a loss looks at. -/
theorem LaneLost.of_noted {now : Nat} {t : State}
    (h : LaneLost p l ((s.heard p).onPanelLane p l fun x => { x with lockAt := now }) t) : LaneLost p l s t := by
  obtain ⟨hup, hstate, hdown, hline, hothers, hdowns, hevent⟩ := h
  exact ⟨hup, hstate, hdown, hline, fun k hk =>
    (hothers k hk).trans ((panelLane_onPanelLane_other _ p l hk _).trans (heard_panelLane k)), hdowns, hevent⟩

theorem laneSilent_eq (hbk : s.bit (F.PANEL_STATUS_BK_UP p) = true) (hlate : (s.panelLane p l).lockAt + 1500 ≤ s.clock) :
    s.laneSilent p l = s.laneLost p l := by
  unfold State.laneSilent
  rw [hbk, decide_eq_true hlate, Bool.and_self, State.when_true]

theorem panelLock_lost {msg : BitVec 8} (hport : 2 ≤ s.get (F.PANEL_STATUS_STATE p)) (hbk : s.bit (F.PANEL_STATUS_BK_UP p) = true)
    (hlost : msg.getLsbD 0 = false) :
    s.panelLock p l msg = (s.onPanelLane p l fun x => { x with lockAt := s.clock }).laneLost p l := by
  have hne : s.get (F.PANEL_STATUS_STATE p) ≠ 1 := by omega
  unfold State.panelLock
  simp only [onPanelLane_get, onPanelLane_bit, if_neg hne, hbk, hlost, Bool.not_false, Bool.and_self, if_true]

theorem answers_laneLost {c : Instr} (hup : s.up = true) (hbk : s.bit (F.PANEL_STATUS_BK_UP p) = true)
    (hport : 2 ≤ s.get (F.PANEL_STATUS_STATE p)) (hlane : (s.get (F.PANEL_STATUS_LANES_UP p)).testBit l = true)
    (hc : (c = .panelLaneLockLoss p l ∧ (s.panelLane p l).lockAt + 1500 ≤ s.clock) ∨
      (∃ msg m, c = .panelLockRx p msg ∧ backMessage msg = some m ∧ m.ty = 2 ∧ m.src = l ∧ m.value % 2 = 0)) :
    Answers c s (LaneLost p l s) := by
  obtain ⟨rfl, hlate⟩ | ⟨msg, m, rfl, hmsg, hty, hsrc, hlost⟩ := hc
  · refine answers_ifUp (f := (·.laneSilent p l)) hup rfl ?_
    rw [laneSilent_eq hbk hlate]
    exact laneLost_spec hport hlane
  · refine answers_ifUp (f := (·.driverRx p 2 msg fun l v s => s.panelLock p l (BitVec.ofNat 8 v))) hup rfl ?_
    have hbit : (BitVec.ofNat 8 m.value).getLsbD 0 = false := by
      rw [BitVec.getLsbD_ofNat, Nat.testBit_zero, hlost]
      rfl
    rw [driverRx_some hmsg hty hsrc, panelLock_lost (s := s.heard p) hport hbk hbit]
    exact LaneLost.of_noted (laneLost_spec (s := (s.heard p).onPanelLane p l fun x => { x with lockAt := s.clock }) hport hlane)

/-! ## A lane that returns (R270) -/

/-- A fold reaches what one of its elements brings about, where no later element takes it back. -/
theorem foldl_attains {σ α : Type} {I P : σ → Prop} {f : σ → α → σ} (hI : ∀ u x, I u → I (f u x)) (hP : ∀ u x, P u → P (f u x))
    {a : α} (ha : ∀ u, I u → P (f u a)) {l : List α} (hl : a ∈ l) {s : σ} (hs : I s) : P (l.foldl f s) := by
  have hkeep (l : List α) (s : σ) (h : P s) : P (l.foldl f s) := by
    induction l generalizing s with
    | nil => exact h
    | cons x l ih => exact ih _ (hP _ _ h)
  induction l generalizing s with
  | nil => cases hl
  | cons x l ih =>
    obtain rfl | hl := List.mem_cons.1 hl
    · exact hkeep l _ (ha s hs)
    · exact ih hl (hI _ _ hs)

/-- What a catch-up LATCH leaves as it was: registers but for the port's counters of such blocks, its lanes but for their
scramblers, and what has left the device. -/
structure CatchUpKept (p : Fin 4) (s t : State) : Prop where
  reg : ∀ a, 0x50000 ≤ a → a ≠ F.PANEL_CATCHUP_addr p → a ≠ F.PANEL_UNDERRUN_addr p → t.reg a = s.reg a
  lane : ∀ k, ∃ scr, t.panelLane p k = { s.panelLane p k with scr := scr }
  outs : OutsKept s t

namespace CatchUpKept

variable {t u : State}

theorem refl (s : State) : CatchUpKept p s s := ⟨fun _ _ _ _ => rfl, fun _ => ⟨_, rfl⟩, fun _ h => h⟩

theorem trans (h : CatchUpKept p s t) (k : CatchUpKept p t u) : CatchUpKept p s u where
  reg a ha hc hu := (k.reg a ha hc hu).trans (h.reg a ha hc hu)
  lane i := by
    obtain ⟨scr, hs⟩ := h.lane i
    obtain ⟨scr', hk⟩ := k.lane i
    exact ⟨scr', by rw [hk, hs]⟩
  outs o ho := k.outs o (h.outs o ho)

theorem get (h : CatchUpKept p s t) {f : Field} (hf : 0x50000 ≤ f.addr) (hc : f.addr ≠ F.PANEL_CATCHUP_addr p)
    (hu : f.addr ≠ F.PANEL_UNDERRUN_addr p) : t.get f = s.get f := congrArg f.of (h.reg _ hf hc hu)

theorem count (s : State) {f : Field} (hf : f.addr = F.PANEL_CATCHUP_addr p ∨ f.addr = F.PANEL_UNDERRUN_addr p) :
    CatchUpKept p s (s.count f) :=
  ⟨fun _ _ hc hu => reg_put_other s f _ _ fun e => hf.elim (fun h => hc (e.trans h)) fun h => hu (e.trans h),
    fun _ => ⟨_, rfl⟩, fun _ h => h⟩

theorem raise (s : State) {n : Nat} (h : n < 1024) : CatchUpKept p s (s.raise n) :=
  ⟨fun _ ha _ _ => raise_reg_high h ha, fun k => ⟨_, raise_panelLane h p k⟩, raiseRel_outsKept.raise h⟩

theorem sendBlock (s : State) (l : Fin 8) (control : Bool) (w : BitVec 64) : CatchUpKept p s (s.sendBlock p l control w) where
  reg a _ _ _ := sendBlock_reg s p l control w a
  lane k := ⟨((s.sendBlock p l control w).panelLane p k).scr, by
    have hrest := sendBlock_lane_keeps s p l control w (fun x => { x with scr := 0 }) (fun _ _ => rfl) k
    exact congrArg (fun x : PanelLane => { x with scr := ((s.sendBlock p l control w).panelLane p k).scr }) hrest⟩
  outs := sendBlock_outsKept s p l control w

theorem ite {c : Prop} [Decidable c] (ht : CatchUpKept p s t) (hu : CatchUpKept p s u) : CatchUpKept p s (if c then t else u) := by
  split <;> assumption

end CatchUpKept

/-- A catch-up LATCH that went out for band `b`, counted: with FILL or not, and late or not. -/
def State.catchUpCounted (s : State) (p : Fin 4) (b : Fin 64) (fill : Bool) : State :=
  let t := s.count (F.PANEL_CATCHUP_SENT p)
  let t := if fill then t.count (F.PANEL_UNDERRUN_COUNT p) else t
  if t.bandRows b != 0 && t.reached t.trl.bands[b].scanned then (t.count (F.PANEL_CATCHUP_MISS p)).raise (srcPanel p 6) else t

/-- The catch-up LATCH of a band. -/
def State.catchUpBand (p : Fin 4) (l : Fin 8) (missed : List (Nat × Bool)) (u : State) (b : Fin 64) : State :=
  match missed.find? fun m => m.1 == b.val with
  | none => u
  | some m => (u.sendBlock p l true (latchBlock b m.2 true)).catchUpCounted p b m.2

/-- The state with what a lane missed taken from it. -/
def State.missedTaken (s : State) (p : Fin 4) (l : Fin 8) : State := s.onPanelLane p l fun x => { x with missed := [] }

theorem catchUp_eq : s.catchUp p l =
    (List.finRange 64).foldl (State.catchUpBand p l (s.panelLane p l).missed) (s.missedTaken p l) := rfl

theorem catchUpCounted_kept (s : State) (b : Fin 64) (fill : Bool) : CatchUpKept p s (s.catchUpCounted p b fill) := by
  have hsent := CatchUpKept.count s (f := F.PANEL_CATCHUP_SENT p) (.inl rfl)
  have hfill : CatchUpKept p s (if fill then (s.count (F.PANEL_CATCHUP_SENT p)).count (F.PANEL_UNDERRUN_COUNT p)
      else s.count (F.PANEL_CATCHUP_SENT p)) := .ite (hsent.trans (.count _ (.inr rfl))) hsent
  exact .ite (hfill.trans ((CatchUpKept.count _ (.inl rfl)).trans (.raise _ (srcPanel_lt p (by decide))))) hfill

theorem catchUpBand_kept (missed : List (Nat × Bool)) (u : State) (b : Fin 64) :
    CatchUpKept p u (State.catchUpBand p l missed u b) := by
  unfold State.catchUpBand
  split
  · exact .refl u
  · exact (CatchUpKept.sendBlock u l true _).trans (catchUpCounted_kept _ b _)

theorem catchUp_kept : CatchUpKept p (s.missedTaken p l) (s.catchUp p l) := by
  rw [catchUp_eq]
  exact foldl_rel CatchUpKept.refl CatchUpKept.trans (catchUpBand_kept _) _ _

/-- Every LATCH that a lane missed goes out on it. -/
theorem catchUp_sends (hrun : s.bit F.TMON_SD_CAUSE_VALID = false) (b : Fin 64) {m : Nat × Bool}
    (hm : ((s.panelLane p l).missed.find? fun m => m.1 == b.val) = some m) :
    ∃ x, Out.panel p l true (latchBlock b m.2 true) x ∈ (s.catchUp p l).out := by
  rw [catchUp_eq]
  have hbit {u v : State} (h : CatchUpKept p u v) : v.bit F.TMON_SD_CAUSE_VALID = u.bit F.TMON_SD_CAUSE_VALID :=
    congrArg (· != 0) (h.get (by decide) (ne_panel p (by decide)) (ne_panel p (by decide)))
  refine foldl_attains (I := fun u => u.bit F.TMON_SD_CAUSE_VALID = false)
    (P := fun u => ∃ x, Out.panel p l true (latchBlock b m.2 true) x ∈ u.out)
    (fun u c hu => (hbit (catchUpBand_kept _ u c)).trans hu)
    (fun u c ⟨x, hx⟩ => ⟨x, (catchUpBand_kept _ u c).outs _ hx⟩) (fun u hu => ?_) (List.mem_finRange b) hrun
  obtain ⟨x, hx⟩ := sendBlock_mem (p := p) (l := l) hu true (latchBlock b m.2 true)
  refine ⟨x, ?_⟩
  unfold State.catchUpBand
  rw [hm]
  exact (catchUpCounted_kept _ b m.2).outs _ hx

/-- The state with lane `l` in traffic again. -/
def State.laneBack (s : State) (p : Fin 4) (l : Fin 8) : State :=
  (s.onPanelLane p l fun x => { x with locked := true, down := false, lockAt := s.clock }).put (F.PANEL_STATUS_LANES_UP p)
    (s.get (F.PANEL_STATUS_LANES_UP p) ||| 2 ^ l.val)

/-- The state with the port's state set once no lane is down. -/
def State.stateBack (s : State) (p : Fin 4) : State :=
  if (List.finRange 8).any fun k => (s.panelLane p k).down then s else s.put (F.PANEL_STATUS_STATE p) 2

theorem laneReturns_eq (hport : 2 ≤ s.get (F.PANEL_STATUS_STATE p)) (hdown : (s.panelLane p l).down = true)
    (hlock : (s.panelLane p l).locked = false) (hpll : s.bit (F.PLL_CTL_LOCK 1) = true) :
    s.laneReturns p l = (((s.laneBack p l).stateBack p).catchUp p l).raise (srcPanel p 1) := by
  unfold State.laneReturns State.panelUp State.panelClock
  rw [decide_eq_true hport, hdown, hlock, hpll]
  rfl

theorem laneBack_lane : (s.laneBack p l).panelLane p l =
    { s.panelLane p l with locked := true, down := false, lockAt := s.clock } := by
  rw [State.laneBack, put_panelLane, panelLane_onPanelLane]

theorem laneBack_other {k : Fin 8} (h : k ≠ l) : (s.laneBack p l).panelLane p k = s.panelLane p k := by
  rw [State.laneBack, put_panelLane, panelLane_onPanelLane_other s p l h]

theorem laneBack_lanesUp : ((s.laneBack p l).get (F.PANEL_STATUS_LANES_UP p)).testBit l = true := by
  rw [State.laneBack, State.get_put _ _ _ (by simp), Nat.testBit_mod_two_pow, decide_eq_true l.isLt, Nat.testBit_or,
    Nat.testBit_two_pow_self, Bool.or_true]
  rfl

theorem stateBack_lane (k : Fin 8) : (s.stateBack p).panelLane p k = s.panelLane p k := by
  unfold State.stateBack
  split
  · rfl
  · exact put_panelLane s p k _ _

theorem stateBack_get {f : Field} (hf : f.lo + f.w ≤ 32)
    (h : f.addr ≠ F.PANEL_STATUS_addr p ∨ 2 ≤ f.lo) : (s.stateBack p).get f = s.get f := by
  unfold State.stateBack
  split
  · rfl
  · exact State.get_put_other _ _ _ _ hf (h.imp_right .inl)

theorem stateBack_state (h : ∀ k, (s.panelLane p k).down = false) : (s.stateBack p).get (F.PANEL_STATUS_STATE p) = 2 := by
  have hany : ((List.finRange 8).any fun k => (s.panelLane p k).down) = false :=
    List.any_eq_false.2 fun k _ => by simp [h k]
  unfold State.stateBack
  rw [hany, if_neg Bool.false_ne_true, State.get_put _ _ _ (by simp)]
  rfl

theorem answers_panelLaneRetrainDone (hup : s.up = true) (hport : 2 ≤ s.get (F.PANEL_STATUS_STATE p))
    (hdown : (s.panelLane p l).down = true) (hlock : (s.panelLane p l).locked = false) (hpll : s.bit (F.PLL_CTL_LOCK 1) = true)
    (hrun : s.bit F.TMON_SD_CAUSE_VALID = false) : Answers (.panelLaneRetrainDone p l) s fun t =>
      (t.get (F.PANEL_STATUS_LANES_UP p)).testBit l = true ∧ (t.panelLane p l).down = false ∧ (t.panelLane p l).missed = [] ∧
      t.evStatus (577 + 16 * p) = true ∧
      ((∀ k : Fin 8, k ≠ l → (s.panelLane p k).down = false) → t.get (F.PANEL_STATUS_STATE p) = 2) ∧
      ∀ (b : Fin 64) (m : Nat × Bool), (s.panelLane p l).missed.find? (fun m => m.1 == b.val) = some m →
        ∃ x, Out.panel p l true (latchBlock b m.2 true) x ∈ t.out := by
  refine answers_ifUp (f := (·.laneReturns p l)) hup rfl ?_
  have hsrc := srcPanel_lt p (k := 1) (by decide)
  rw [laneReturns_eq hport hdown hlock hpll]
  generalize hu : (s.laneBack p l).stateBack p = u
  have hkept : CatchUpKept p (u.missedTaken p l) ((u.catchUp p l).raise (srcPanel p 1)) := catchUp_kept.trans (.raise _ hsrc)
  have hlane : u.panelLane p l = { s.panelLane p l with locked := true, down := false, lockAt := s.clock } := by
    rw [← hu, stateBack_lane, laneBack_lane]
  obtain ⟨scr, hscr⟩ := hkept.lane l
  rw [State.missedTaken, panelLane_onPanelLane, hlane] at hscr
  refine ⟨?_, ?_, ?_, ?_, fun hothers => ?_, fun b m hm => ?_⟩
  · rw [hkept.get (panel_high p (by decide)) (by simp) (by simp)]
    have hget : u.get (F.PANEL_STATUS_LANES_UP p) = (s.laneBack p l).get (F.PANEL_STATUS_LANES_UP p) := by
      rw [← hu]
      exact stateBack_get (by simp) (.inr (by simp))
    exact (congrArg (Nat.testBit · l.val) hget).trans laneBack_lanesUp
  · rw [hscr]
  · rw [hscr]
  · rw [← srcPanel_eq p 1]
    exact raise_evStatus hsrc
  · rw [hkept.get (panel_high p (by decide)) (by simp) (by simp)]
    refine Eq.trans ?_ (stateBack_state (s := s.laneBack p l) (p := p) fun k => ?_)
    · rw [← hu]
      rfl
    · by_cases hk : k = l
      · rw [hk, laneBack_lane]
      · rw [laneBack_other hk]
        exact hothers k hk
  · have hrun' : u.bit F.TMON_SD_CAUSE_VALID = false := by
      rw [State.bit, ← hu, stateBack_get (by decide) (.inl (ne_panel p (by decide))), State.laneBack,
        State.get_put_other _ _ _ _ (by decide) (.inl (ne_panel p (by decide)))]
      exact hrun
    obtain ⟨x, hx⟩ := catchUp_sends (s := u) (p := p) (l := l) hrun' b (m := m) (by rw [hlane]; exact hm)
    exact ⟨x, raiseRel_outsKept.raise hsrc _ hx⟩

/-! ## CRC errors and the back channel (R261, R263, R276, R277) -/

theorem exec_panelCrcErrRx {msg : List Byte} {m : BackMessage} (hup : s.up = true) (hmsg : backMessage msg = some m) (hty : m.ty = 3)
    (hsrc : m.src < 8) (hport : 2 ≤ s.get (F.PANEL_STATUS_STATE p)) (hver : s.bit (F.PANEL_STATUS_VER p) = true) :
    exec (.panelCrcErrRx p msg) s =
      .next (((s.onPanel p fun q => { q with heardAt := s.clock }).count (F.PANEL_ERR_CRC p)).raise (581 + 16 * p)) := by
  refine exec_ifUp (f := (·.driverRx p 3 msg fun _ _ s => s.panelCrcErr p)) hup rfl ?_
  rw [driverRx_some (l := ⟨m.src, hsrc⟩) hmsg hty rfl, ← srcPanel_eq p 5]
  have hcond : ((s.heard p).panelUp p && (s.heard p).bit (F.PANEL_STATUS_VER p)) = true :=
    Bool.and_eq_true_iff.2 ⟨decide_eq_true hport, hver⟩
  unfold State.panelCrcErr
  rw [hcond]
  rfl

theorem exec_backChannelLoss (hup : s.up = true) (hbk : s.bit (F.PANEL_STATUS_BK_UP p) = true)
    (hlate : s.panel.ports[p].heardAt + 2000 ≤ s.clock) :
    exec (.backChannelLoss p) s = .next ((s.put (F.PANEL_STATUS_BK_UP p) 0).raise (580 + 16 * p)) := by
  refine exec_ifUp (f := (·.backLost p)) hup rfl ?_
  unfold State.backLost
  rw [hbk, decide_eq_true hlate, Bool.and_self, State.when_true, srcPanel_eq]

theorem exec_backChannelRelock (hup : s.up = true) (hstate : s.get (F.PANEL_STATUS_STATE p) ≠ 0) :
    exec (.backChannelRelock p) s = .next ((s.onPanel p fun q =>
      { q with heardAt := s.clock, lanes := q.lanes.map fun x => { x with lockAt := s.clock } }).put (F.PANEL_STATUS_BK_UP p) 1) := by
  refine exec_ifUp (f := (·.backRelocks p)) hup rfl ?_
  unfold State.backRelocks
  rw [bne_iff_ne.2 hstate, State.when_true]

end Sys2Proof.Machine
end

section
/-! The command push to the auxiliary panel: its reads, its blocks, and its end (R275, R279). -/

open Sys2Proof Sys2Proof.Machine

namespace Sys2Proof.Machine

variable {s t u : State}

/-! ## Reads of memory (R322, R324, R337) -/

/-- What a read of memory leaves as it was: all but registers, memory (the Updraft ring), free values, the DRAM controller and what
an event may change; of the registers above the event and link blocks, all but the DRAM controller's. -/
structure ReadKept (s t : State) : Prop where
  frame : t = { s with
    regs := t.regs, mem := t.mem, free := t.free, out := t.out, eventN := t.eventN, evt := t.evt, link := t.link, dram := t.dram }
  reg : ∀ a, 0x50000 ≤ a → a / 0x10000 ≠ 0xC → t.reg a = s.reg a

namespace ReadKept

theorem refl (s : State) : ReadKept s s := ⟨rfl, fun _ _ _ => rfl⟩

theorem trans (h : ReadKept s t) (k : ReadKept t u) : ReadKept s u where
  frame := by rw [k.frame, h.frame]
  reg a ha hd := (k.reg a ha hd).trans (h.reg a ha hd)

theorem panel (h : ReadKept s t) : t.panel = s.panel := (congrArg State.panel h.frame :)

theorem tb (h : ReadKept s t) : t.tb = s.tb := (congrArg State.tb h.frame :)

theorem bit (h : ReadKept s t) {f : Field} (hf : 0x50000 ≤ f.addr) (hd : f.addr / 0x10000 ≠ 0xC) : t.bit f = s.bit f :=
  congrArg (fun w => f.of w != 0) (h.reg _ hf hd)

theorem put (h : ReadKept s t) {f : Field} (v : Nat) (hf : f.addr / 0x10000 = 0xC) : ReadKept s (t.put f v) :=
  h.trans ⟨rfl, fun _ _ hd => reg_put_other t f v _ fun e => hd (e ▸ hf)⟩

theorem raise (h : ReadKept s t) {n : Nat} (hn : n < 1024) : ReadKept s (t.raise n) :=
  h.trans ⟨by rw [raise_frame hn], fun _ ha _ => raise_reg_high hn ha⟩

theorem ite {c : Prop} [Decidable c] (ht : ReadKept s t) (hu : ReadKept s u) : ReadKept s (if c then t else u) := by
  split <;> assumption

theorem eccReport (s : State) (e : EccHit) : ReadKept s (s.eccReport e) := by
  have hreport {f : Field} (v : Nat) {n : Nat} (hf : f.addr / 0x10000 = 0xC) (hn : n < 1024) : ReadKept s ((s.put f v).raise n) :=
    ((refl s).put v hf).raise hn
  unfold State.eccReport
  exact .ite (.ite (hreport _ (by decide) (by decide)) ((((refl s).put _ (by decide)).put _ (by decide)).raise (by decide)))
    (.ite (hreport _ (by decide) (by decide)) (hreport _ (by decide) (by decide)))

theorem readHits (s : State) (a n : Nat) (ecc : List EccHit) : ReadKept s (s.readHits a n ecc) := by
  have hreports : ReadKept s (s.eccReports (s.eccIn a n ecc)) := foldl_rel refl trans eccReport _ s
  exact .ite (hreports.trans ⟨rfl, fun _ _ _ => rfl⟩) hreports

theorem abortEntry (s : State) : ReadKept s s.abortEntry := by
  have hleft : ReadKept s { s with dram := { s.dram with entering := false } } := ⟨rfl, fun _ _ _ => rfl⟩
  exact .ite (hleft.raise (by decide)) (refl s)

theorem touch (s : State) (a n : Nat) : ReadKept s (s.touch a n) :=
  (abortEntry s).trans (foldl_rel (f := fun t i => t.touchBurst (64 * ((a - dramBase) / 64 + i))) refl trans
    (fun _ _ => ⟨rfl, fun _ _ _ => rfl⟩) _ _)

theorem readAny (s : State) (a n : Nat) (ecc : List EccHit) : ReadKept s (s.readAny a n ecc).2 := by
  unfold State.readAny State.dramRead
  split
  · exact ((touch s a n).trans (.ite ((refl _).raise (by decide)) (refl _))).trans (readHits _ a n ecc)
  · exact readHits s a n ecc

end ReadKept

theorem pushBytes_kept (s : State) (k : CmdPush) : ReadKept s (s.pushBytes k).2 :=
  foldl_rel (R := fun r r' : List Byte × State => ReadKept r.2 r'.2) (f := fun r j =>
    let (l, t) := r.2.readAny (k.src + j * k.pitch) (4 * k.w) k.ecc
    (r.1 ++ l, t)) (fun r => .refl r.2) ReadKept.trans (fun r _ => ReadKept.readAny r.2 _ _ _) (List.range k.h) ([], s)

/-! ## The blocks of a push -/

/-- Blocks leave the time base, the registers and what has left the device as they were. -/
structure BlocksKept (s t : State) : Prop where
  tb : t.tb = s.tb
  reg : ∀ a, t.reg a = s.reg a
  outs : OutsKept s t

namespace BlocksKept

theorem refl (s : State) : BlocksKept s s := ⟨rfl, fun _ => rfl, fun _ h => h⟩

theorem trans (h : BlocksKept s t) (k : BlocksKept t u) : BlocksKept s u :=
  ⟨k.tb.trans h.tb, fun a => (k.reg a).trans (h.reg a), fun o ho => k.outs o (h.outs o ho)⟩

theorem bit (h : BlocksKept s t) (f : Field) : t.bit f = s.bit f := congrArg (fun w => f.of w != 0) (h.reg f.addr)

theorem sendBlock (s : State) (p : Fin 4) (l : Fin 8) (control : Bool) (w : BitVec 64) : BlocksKept s (s.sendBlock p l control w) where
  tb := by
    obtain h | ⟨line, scr, h⟩ := sendBlock_cases s p l control w
    · rw [h]
    · rw [h]
      rfl
  reg := sendBlock_reg s p l control w
  outs := sendBlock_outsKept s p l control w

end BlocksKept

/-- The data blocks of bytes sent. -/
def State.sendBytes (s : State) (n : Fin 8) (l : List Byte) : State :=
  (byteBlocks (l.length / 8 + 1) l).foldl (fun u w => u.sendBlock 3 n false w) s

theorem sendBytes_kept (s : State) (n : Fin 8) (l : List Byte) : BlocksKept s (s.sendBytes n l) :=
  foldl_rel BlocksKept.refl BlocksKept.trans (fun u w => .sendBlock u 3 n false w) _ s

/-- The first CMD block of a push, and the last with the CRC of its bytes. -/
def CmdPush.head (k : CmdPush) : BitVec 64 := blockOf [(0x87, 0), (k.x, 8), (k.y, 20), (k.w, 32), (k.h, 45)]
def pushTail (l : List Byte) : BitVec 64 := blockOf [(0x87, 0), ((crc32c l).toNat, 8), (63, 58)]

/-- The blocks of a push sent on a lane. -/
def State.pushBlocks (s : State) (k : CmdPush) (n : Fin 8) (l : List Byte) : State :=
  ((s.sendBlock 3 n true k.head).sendBytes n l).sendBlock 3 n true (pushTail l)

theorem pushBlocks_kept (s : State) (k : CmdPush) (n : Fin 8) (l : List Byte) : BlocksKept s (s.pushBlocks k n l) :=
  ((BlocksKept.sendBlock s 3 n true k.head).trans (sendBytes_kept _ n l)).trans (.sendBlock _ 3 n true _)

theorem pushBlocks_sends (hrun : s.bit F.TMON_SD_CAUSE_VALID = false) (k : CmdPush) (n : Fin 8) (l : List Byte) :
    (∃ x, Out.panel 3 n true k.head x ∈ (s.pushBlocks k n l).out) ∧
      ∃ x, Out.panel 3 n true (pushTail l) x ∈ (s.pushBlocks k n l).out := by
  have hbytes := (BlocksKept.sendBlock s 3 n true k.head).trans (sendBytes_kept _ n l)
  obtain ⟨x, hx⟩ := sendBlock_mem (p := 3) (l := n) hrun true k.head
  exact ⟨⟨x, (BlocksKept.sendBlock _ 3 n true _).outs _ ((sendBytes_kept _ n l).outs _ hx)⟩,
    sendBlock_mem ((hbytes.bit _).trans hrun) true _⟩

theorem sendPush_eq {k : CmdPush} (h : k.src < dramBase ∨ s.dramGrants .panelCmd = true) (v : State)
    (hv : v = (s.pushBytes k).2.pushBlocks k s.cmdLane (s.pushBytes k).1) :
    s.sendPush k = { v with panel := { v.panel with push := some { k with sent := some v.now } } } := by
  have hserved : ¬ (dramBase ≤ k.src ∧ (!s.dramGrants .panelCmd) = true) := by
    rintro ⟨hdram, hbusy⟩
    obtain h | h := h
    · exact Nat.not_le.2 h hdram
    · rw [h] at hbusy
      cases hbusy
  rw [hv]
  exact if_neg hserved

/-! ## A push starts -/

theorem cmdPush_bad {ecc : List EccHit} (hidle : s.bit F.PANEL_CMD_CTL_BUSY = false) (hmode : s.cmdMode 3 = true)
    (hport : s.panelUp 3 = true) (hbad : s.pushBad = true) :
    s.cmdPush ecc = (s.put F.PANEL_CMD_CTL_ERR 1).put F.PANEL_CMD_CTL_CAUSE 1 := by
  unfold State.cmdPush
  rw [hidle, hmode, hport, hbad]
  rfl

/-- The push that a GO latches. -/
def State.pushOf (s : State) (ecc : List EccHit) : CmdPush :=
  ⟨s.get F.PANEL_CMD_SRC_ADDR * 256, s.get F.PANEL_CMD_PITCH_PITCH, s.get F.PANEL_CMD_RECT_X, s.get F.PANEL_CMD_RECT_Y,
    s.get F.PANEL_CMD_SIZE_W, s.get F.PANEL_CMD_SIZE_H, ecc, s.bit F.PANEL_CMD_CTL_AT_LAUNCH, none⟩

/-- The state with a push latched. -/
def State.pushLatched (s : State) (k : CmdPush) : State :=
  { s.put F.PANEL_CMD_CTL_BUSY 1 with panel := { s.panel with push := some k } }

theorem cmdPush_good {ecc : List EccHit} (hidle : s.bit F.PANEL_CMD_CTL_BUSY = false) (hmode : s.cmdMode 3 = true)
    (hport : s.panelUp 3 = true) (hgood : s.pushBad = false) : s.cmdPush ecc =
      if s.bit F.PANEL_CMD_CTL_AT_LAUNCH then s.pushLatched (s.pushOf ecc)
      else (s.pushLatched (s.pushOf ecc)).sendPush (s.pushOf ecc) := by
  unfold State.cmdPush
  rw [hidle, hmode, hport, hgood]
  rfl

theorem pushLatched_bit {f : Field} (k : CmdPush) (h : f.addr ≠ F.PANEL_CMD_CTL_addr) : (s.pushLatched k).bit f = s.bit f :=
  congrArg (fun w => f.of w != 0) (reg_put_other s F.PANEL_CMD_CTL_BUSY 1 _ h)

theorem pushLatched_busy (k : CmdPush) : (s.pushLatched k).bit F.PANEL_CMD_CTL_BUSY = true := bit_put s _ 1 (by decide)

theorem pushLatched_cmdLane (k : CmdPush) : (s.pushLatched k).cmdLane = s.cmdLane := by
  have hlanes : (s.pushLatched k).get (F.PANEL_STATUS_LANES_UP 3) = s.get (F.PANEL_STATUS_LANES_UP 3) :=
    congrArg (F.PANEL_STATUS_LANES_UP 3).of (reg_put_other s F.PANEL_CMD_CTL_BUSY 1 _ (by decide))
  unfold State.cmdLane
  rw [hlanes]

/-- A push that nothing holds goes out at once. -/
theorem sendPush_latched {k : CmdPush} (hrun : s.bit F.TMON_SD_CAUSE_VALID = false)
    (hserved : k.src < dramBase ∨ (s.pushLatched k).dramGrants .panelCmd = true) :
    ((s.pushLatched k).sendPush k).panel.push = some { k with sent := some s.now } ∧
    ((s.pushLatched k).sendPush k).bit F.PANEL_CMD_CTL_BUSY = true ∧
    (∃ x, Out.panel 3 s.cmdLane true k.head x ∈ ((s.pushLatched k).sendPush k).out) ∧
    ∃ x, Out.panel 3 s.cmdLane true (pushTail ((s.pushLatched k).pushBytes k).1) x ∈ ((s.pushLatched k).sendPush k).out := by
  generalize hv : ((s.pushLatched k).pushBytes k).2.pushBlocks k (s.pushLatched k).cmdLane ((s.pushLatched k).pushBytes k).1 = v
  have hread := pushBytes_kept (s.pushLatched k) k
  have hsent := pushBlocks_kept ((s.pushLatched k).pushBytes k).2 k (s.pushLatched k).cmdLane ((s.pushLatched k).pushBytes k).1
  have hout := pushBlocks_sends (s := ((s.pushLatched k).pushBytes k).2)
    ((hread.bit (by decide) (by decide)).trans ((pushLatched_bit k (by decide)).trans hrun)) k (s.pushLatched k).cmdLane
    ((s.pushLatched k).pushBytes k).1
  rw [hv] at hsent hout
  rw [pushLatched_cmdLane] at hout
  have hnow : v.now = s.now := congrArg TimeBase.ns (hsent.tb.trans hread.tb)
  rw [sendPush_eq hserved v hv.symm, hnow]
  exact ⟨rfl, (hsent.bit _).trans ((hread.bit (by decide) (by decide)).trans (pushLatched_busy k)), hout⟩

/-! ## A push ends -/

theorem answers_cmdAckRx_ack {x : Word} {msg : List Byte} {m : BackMessage} (hup : s.up = true) (hsent : s.pushSent = some x)
    (hmsg : backMessage msg = some m) (hsrc : m.src = 15) (hty : m.ty = 4) : Answers (.cmdAckRx msg) s fun t =>
      t = { (s.put F.PANEL_CMD_CTL_BUSY 0).put F.PANEL_CMD_CTL_DONE 1 with
        panel := { s.panel with push := none, ports := t.panel.ports } } := by
  refine answers_ifUp (f := (·.cmdAck msg)) hup rfl ?_
  have hanswer : (m.src == 15 && (s.heard 3).pushSent.isSome) = true :=
    Bool.and_eq_true_iff.2 ⟨beq_iff_eq.2 hsrc, (congrArg Option.isSome hsent :)⟩
  unfold State.cmdAck
  dsimp only
  rw [backRx_some hmsg hty, hanswer, State.when_true, backRx_other hmsg (by omega)]
  rfl

theorem answers_cmdAckRx_nak {x : Word} {msg : List Byte} {m : BackMessage} (hup : s.up = true) (hsent : s.pushSent = some x)
    (hmsg : backMessage msg = some m) (hsrc : m.src = 15) (hty : m.ty = 5) : Answers (.cmdAckRx msg) s fun t =>
      t.bit F.PANEL_CMD_CTL_BUSY = false ∧ t.bit F.PANEL_CMD_CTL_ERR = true ∧ t.get F.PANEL_CMD_CTL_CAUSE = 2 ∧
      t.panel.push = none ∧ t.evStatus 631 = true := by
  refine answers_ifUp (f := (·.cmdAck msg)) hup rfl ?_
  have hanswer : (m.src == 15 && ((s.heard 3).heard 3).pushSent.isSome) = true :=
    Bool.and_eq_true_iff.2 ⟨beq_iff_eq.2 hsrc, (congrArg Option.isSome hsent :)⟩
  unfold State.cmdAck
  dsimp only
  rw [backRx_other (ty := 4) hmsg (by omega), backRx_some hmsg hty, hanswer, State.when_true]
  generalize (s.heard 3).heard 3 = u
  have hend : u.endPush 2 = ((((({ u.put F.PANEL_CMD_CTL_BUSY 0 with panel := { u.panel with push := none } } : State).put
    F.PANEL_CMD_CTL_ERR 1).put F.PANEL_CMD_CTL_CAUSE 2).raise 631)) := rfl
  have h631 : 631 < 1024 := by decide
  rw [hend]
  refine ⟨?_, ?_, ?_, ?_, raise_evStatus h631⟩
  · rw [raise_bit_high h631 (by decide), bit_put_other _ _ _ _ (by decide) (by decide), bit_put_other _ _ _ _ (by decide) (by decide)]
    exact bit_put u _ 0 (by decide)
  · rw [raise_bit_high h631 (by decide), bit_put_other _ _ _ _ (by decide) (by decide), bit_put _ _ _ (by decide)]
    rfl
  · rw [raise_get_high h631 (by decide), State.get_put _ _ _ (by decide)]
    rfl
  · rw [raise_panel h631, State.put_panel, State.put_panel]

theorem exec_cmdAckTimeout {x : Word} (hup : s.up = true) (hsent : s.pushSent = some x) (hlate : 10000 ≤ s.since x) :
    exec .cmdAckTimeout s =
      .next (({ s.put F.PANEL_CMD_CTL_BUSY 0 with panel := { s.panel with push := none } } : State).put F.PANEL_CMD_CTL_ERR 1
        |>.put F.PANEL_CMD_CTL_CAUSE 3 |>.raise 631) := by
  refine exec_ifUp (f := fun s => match s.pushSent with
    | some t => s.when (decide (10000 ≤ s.since t)) (·.endPush 3)
    | none => s) hup rfl ?_
  dsimp only
  rw [hsent]
  dsimp only
  rw [decide_eq_true hlate]
  rfl

/-! ## The obligation -/

/-- Settles O43, clause by clause: messages, negotiation and failures, lock and its loss, the back channel, and the push. -/
theorem panelPortsTrainAndPush : Obligations.PanelPortsTrainAndPush := by
  unfold Obligations.PanelPortsTrainAndPush
  refine ⟨⟨fun ty src payload => backMessage_spelt, fun s p msg hup hbad c => exec_badMessage hup hbad,
    fun s p l msg m cap => answers_panelCapRx, fun s p v r => panelResolve_allowed,
    fun s p hup hstate hfirst => ⟨fun v r => exec_panelRateSwitch hup hstate hfirst, answers_panelRateSwitch_fails hup hstate hfirst⟩,
    fun s p hup hstate => ⟨answers_panelNegotiationFailed hup hstate, fun l => exec_panelNegotiationFailed_lane hup hstate⟩,
    fun s p l msg m => answers_panelLockRx_up, fun s p l c => answers_laneLost, fun s p l => answers_panelLaneRetrainDone,
    fun s p msg m => exec_panelCrcErrRx,
    fun s p hup => ⟨exec_backChannelLoss hup, exec_backChannelRelock hup, answers_panelRetrain hup,
      exec_ifUp (f := (·.panelClr p)) hup rfl rfl⟩⟩,
    fun s ecc hup hidle hcmd hver hport => ?_, fun s x msg m hup hsent => ⟨answers_cmdAckRx_ack hup hsent,
      answers_cmdAckRx_nak hup hsent, exec_cmdAckTimeout hup hsent⟩⟩
  have hmode : s.cmdMode 3 = true := Bool.and_eq_true_iff.2 ⟨hcmd, hver⟩
  have hup3 : s.panelUp 3 = true := decide_eq_true hport
  have hexec {u : State} (h : s.cmdPush ecc = u) : exec (.cmdPush ecc) s = .next u := exec_ifUp (f := (·.cmdPush ecc)) hup rfl h
  refine ⟨fun hbad => hexec (cmdPush_bad hidle hmode hup3 hbad), fun hgood k u hk hu => ?_⟩
  have hpush := cmdPush_good (ecc := ecc) hidle hmode hup3 hgood
  obtain rfl : k = s.pushOf ecc := hk
  obtain rfl : u = s.pushLatched (s.pushOf ecc) := hu
  refine ⟨fun hheld => hexec ?_, fun hfree hserved hrun => ⟨_, hexec rfl, ?_⟩⟩
  · rw [hpush, if_pos hheld]
  · rw [hpush, hfree, if_neg Bool.false_ne_true]
    exact sendPush_latched hrun hserved

end Sys2Proof.Machine
end

section
/-! The outputs of the Trellis drive: what an update of one output leaves of the others, which operations change outputs alone, and
what the drive's shared operations leave of an output (R281–R283, R285, R289, R290). -/

open Sys2Proof Sys2Proof.Machine

namespace Sys2Proof.Machine

/-- In a fold over elements each of which stands once, one element alone changes what `g` shows, and does so in a state of which
`P` holds as it did at first. -/
theorem foldl_once {σ α β : Type} {P : σ → Prop} {g : σ → β} {f : σ → α → σ} {a : α} (hP : ∀ u x, P u → P (f u x))
    (hg : ∀ u x, x ≠ a → g (f u x) = g u) {l : List α} (hl : a ∈ l) (hnodup : l.Nodup) {s : σ} (hs : P s) :
    ∃ u, P u ∧ g u = g s ∧ g (l.foldl f s) = g (f u a) := by
  have hrest (l : List α) (s : σ) (hl : a ∉ l) : g (l.foldl f s) = g s := by
    induction l generalizing s with
    | nil => rfl
    | cons x l ih =>
      obtain ⟨hx, hl⟩ := List.ne_and_not_mem_of_not_mem_cons hl
      exact (ih _ hl).trans (hg s x hx.symm)
  induction l generalizing s with
  | nil => cases hl
  | cons x l ih =>
    obtain ⟨hx, hnodup⟩ := List.nodup_cons.1 hnodup
    obtain rfl | hl := List.mem_cons.1 hl
    · exact ⟨s, hs, rfl, hrest l _ hx⟩
    · obtain ⟨u, hu, hsame, hfold⟩ := ih hl hnodup (hP s x hs)
      exact ⟨u, hu, hsame.trans (hg s x fun e => hx (e ▸ hl)), hfold⟩

/-! ## Commands of the always-on island -/

theorem exec_ifOn {c : Instr} {s : State} {f : State → State} {t : State} (hon : s.alwaysOn = true)
    (hexec : exec c s = s.ifOn f) (ht : f s = t) : exec c s = .next t :=
  ht ▸ hexec.trans (s.ifOn_on f hon)

theorem answers_ifOn {c : Instr} {s : State} {f : State → State} {Q : State → Prop} (hon : s.alwaysOn = true)
    (hexec : exec c s = s.ifOn f) (hQ : Q (f s)) : Answers c s Q := ⟨f s, exec_ifOn hon hexec rfl, hQ⟩

theorem alwaysOn_of_up {s : State} (hup : s.up = true) : s.alwaysOn = true := by rw [State.alwaysOn, hup, Bool.true_or]

/-! ## The drive and the supplies under a raise -/

section Raise

variable {s : State} {n : Nat} (h : n < 1024)
include h

theorem raise_trl : (s.raise n).trl = s.trl := (congrArg State.trl (raise_frame h) :)
theorem raise_hv : (s.raise n).hv = s.hv := (congrArg State.hv (raise_frame h) :)

end Raise

/-! ## One output changed -/

section Outs

variable (s : State) (o k : Fin 384) (f : TrlOut → TrlOut)

@[simp] theorem outs_onTrlOut : (s.onTrlOut o f).trl.outs[o] = f s.trl.outs[o] := Vector.getElem_set_self o.isLt

theorem outs_onTrlOut_other {o k : Fin 384} (h : k ≠ o) : (s.onTrlOut o f).trl.outs[k] = s.trl.outs[k] :=
  Vector.getElem_set_ne o.isLt k.isLt fun e => h (Fin.ext e.symm)

/-- What every update of an output leaves as it was on that output, it leaves on every output. -/
theorem outs_onTrlOut_keeps {α : Type} (g : TrlOut → α) {f : TrlOut → TrlOut} (h : ∀ x, g (f x) = g x) :
    g (s.onTrlOut o f).trl.outs[k] = g s.trl.outs[k] := by
  by_cases hk : k = o
  · rw [hk, outs_onTrlOut, h]
  · rw [outs_onTrlOut_other s f hk]

end Outs

theorem outIx_inj {b c : Fin 64} {l k : Fin 6} : outIx b l = outIx c k ↔ b = c ∧ l = k := by
  simp only [outIx, Fin.ext_iff]
  omega

theorem outIx_ne_of_layer (b : Fin 64) {l k : Fin 6} (h : l ≠ k) : outIx b l ≠ outIx b k := fun e => h (outIx_inj.1 e).2

/-! ## Operations that change outputs alone -/

/-- An output's new state at a new LEDGER_LIMIT (R290). -/
def State.outJudged (s : State) (x : TrlOut) : TrlOut :=
  match (s.judge x).level with
  | .comp _ => if (s.judge x).inComp then s.judge x else { s.judge x with level := (s.judge x).rest }
  | _ => s.judge x

theorem judgeAllOuts_eq (s : State) :
    s.judgeAllOuts = ({ s with trl := { s.trl with outs := s.trl.outs.map s.outJudged } } : State).startComps := rfl

/-- Outputs of the Trellis drive changed, and nothing else. -/
def OutsOnly (s t : State) : Prop := t = { s with trl := { s.trl with outs := t.trl.outs } }

namespace OutsOnly

variable {s t u : State}

theorem refl (s : State) : OutsOnly s s := rfl

theorem trans (h : OutsOnly s t) (k : OutsOnly t u) : OutsOnly s u := by
  unfold OutsOnly at *
  rw [k, h]

/-- What does not look at the outputs is as it was. -/
theorem keeps {α : Type} (h : OutsOnly s t) (g : State → α)
    (hg : ∀ (u : State) outs, g { u with trl := { u.trl with outs := outs } } = g u) : g t = g s := by
  rw [h]
  exact hg s _

theorem reg (h : OutsOnly s t) (a : Nat) : t.reg a = s.reg a := h.keeps (·.reg a) fun _ _ => rfl
theorem actReg (h : OutsOnly s t) (a : Nat) : t.actReg a = s.actReg a := h.keeps (·.actReg a) fun _ _ => rfl
theorem hv (h : OutsOnly s t) : t.hv = s.hv := h.keeps State.hv fun _ _ => rfl
theorem pass (h : OutsOnly s t) : t.trl.pass = s.trl.pass := h.keeps (·.trl.pass) fun _ _ => rfl

theorem onTrlOut (s : State) (o : Fin 384) (f : TrlOut → TrlOut) : OutsOnly s (s.onTrlOut o f) := rfl

theorem foldl {α : Type} {f : State → α → State} (h : ∀ u x, OutsOnly u (f u x)) (l : List α) (s : State) :
    OutsOnly s (l.foldl f s) := foldl_rel refl trans h l s

theorem ite {c : Prop} [Decidable c] (ht : OutsOnly s t) (hu : OutsOnly s u) : OutsOnly s (if c then t else u) := by
  split <;> assumption

theorem flushRails (s : State) : OutsOnly s s.flushRails := rfl

theorem startComp (s : State) (b : Fin 64) (t : Word) : OutsOnly s (s.startComp b t) :=
  ite (refl s) (foldl (fun u _ => ite (onTrlOut u _ _) (refl u)) _ s)

theorem startComps (s : State) : OutsOnly s s.startComps := foldl (fun u b => startComp u b u.now) _ s

theorem judgeAllOuts (s : State) : OutsOnly s s.judgeAllOuts := by
  rw [judgeAllOuts_eq]
  exact trans (t := { s with trl := { s.trl with outs := s.trl.outs.map s.outJudged } }) rfl (startComps _)

theorem stopComp (s : State) (o : Fin 384) (t : Word) : OutsOnly s (s.stopComp o t) := by
  unfold State.stopComp
  split
  · exact onTrlOut s _ _
  · exact refl s

end OutsOnly

/-! ## What counting, judging and compensation leave of an output -/

/-- The phases of an output and the level at which it rests. -/
def TrlOut.course (x : TrlOut) : List (TrlLevel × Nat) × TrlLevel := (x.phases, x.rest)

section Course

variable (s : State) (x : TrlOut) (t : Word)

theorem upTo_course : (s.upTo x t).course = x.course := by
  unfold State.upTo
  split <;> rfl

/-- The judgement of a ledger changes whether an output compensates, and nothing else. -/
theorem judge_eq : s.judge x = { x with inComp := (s.judge x).inComp } := by
  unfold State.judge
  dsimp only
  split
  · rfl
  · split <;> rfl

theorem judge_course : (s.judge x).course = x.course := by rw [judge_eq]; rfl

@[simp] theorem judge_level : (s.judge x).level = x.level := by rw [judge_eq]

theorem startComp_course (b : Fin 64) (o : Fin 384) : ((s.startComp b t).trl.outs[o]).course = (s.trl.outs[o]).course := by
  unfold State.startComp
  split
  · rfl
  · refine foldl_keeps (fun u : State => (u.trl.outs[o]).course) (fun u l => ?_) _ s
    dsimp only
    split
    · exact outs_onTrlOut_keeps u _ o TrlOut.course fun x => upTo_course u x _
    · rfl

theorem startComps_course (o : Fin 384) : (s.startComps.trl.outs[o]).course = (s.trl.outs[o]).course := by
  unfold State.startComps
  generalize List.finRange 64 = bands
  exact foldl_keeps (fun u : State => (u.trl.outs[o]).course) (fun u b => startComp_course u u.now b o) bands s

/-- With no compensation stage nothing is compensated. -/
theorem startComp_of_vcomp {s : State} (h : s.vcomp = 0) (b : Fin 64) (t : Word) : s.startComp b t = s :=
  if_pos (by rw [decide_eq_true h, Bool.or_true]; rfl)

theorem startComps_of_vcomp {s : State} (h : s.vcomp = 0) : s.startComps = s := by
  unfold State.startComps
  generalize List.finRange 64 = bands
  have hnone (b : Fin 64) : s.startComp b s.now = s := startComp_of_vcomp h b s.now
  exact List.foldl_fixed' (f := fun (u : State) b => u.startComp b u.now) hnone bands

end Course

/-! ## A pending waveform set (R285) -/

/-- The state with the pending waveform set made active. -/
def State.waveTaken (s : State) : State := (((s.put F.TRL_WAVE_CTL_APPLY 0).flushRails).activate waveRegs).judgeAllOuts

/-- The state with the pending waveform set refused for a cause. -/
def State.waveRefused (s : State) (c : Nat) : State :=
  (((s.put F.TRL_WAVE_CTL_APPLY 0).put F.TRL_WAVE_CTL_BAD 1).put F.TRL_WAVE_CTL_CAUSE c).raise 524

section Wave

variable {s : State} {period : Nat}

theorem tryWave_taken (hpending : s.bit F.TRL_WAVE_CTL_APPLY = true) (hlegal : s.waveCause s.reg period = 0) :
    s.tryWave period = s.waveTaken := by
  unfold State.tryWave
  rw [hpending, hlegal]
  rfl

theorem tryWave_refused (hpending : s.bit F.TRL_WAVE_CTL_APPLY = true) (hcause : s.waveCause s.reg period ≠ 0) :
    s.tryWave period = s.waveRefused (s.waveCause s.reg period) := by
  unfold State.tryWave
  rw [hpending]
  exact if_neg hcause

theorem tryWaveInHold_ready (hhold : s.frm.hold = true) (hwave : s.noWave = true) (hpass : s.trl.pass = 0) :
    s.tryWaveInHold = s.tryWave s.slotPeriod := by
  unfold State.tryWaveInHold
  rw [hhold, hwave, hpass]
  rfl

theorem tryWaveInHold_busy (h : s.frm.hold = false ∨ s.noWave = false ∨ s.trl.pass ≠ 0) : s.tryWaveInHold = s := by
  refine if_neg fun hall => ?_
  simp only [Bool.and_eq_true, beq_iff_eq] at hall
  obtain ⟨⟨hhold, hwave⟩, hpass⟩ := hall
  obtain h | h | h := h
  · exact absurd hhold (by rw [h]; decide)
  · exact absurd hwave (by rw [h]; decide)
  · exact h hpass

/-- In HOLD a pending set is taken, refused, or still waits. -/
theorem tryWaveInHold_cases (s : State) :
    s.tryWaveInHold = s ∨ s.tryWaveInHold = s.waveTaken ∨ ∃ c, s.tryWaveInHold = s.waveRefused c := by
  by_cases hready : s.frm.hold = true ∧ s.noWave = true ∧ s.trl.pass = 0
  · obtain ⟨hhold, hwave, hpass⟩ := hready
    rw [tryWaveInHold_ready hhold hwave hpass]
    by_cases hpending : s.bit F.TRL_WAVE_CTL_APPLY = true
    · by_cases hcause : s.waveCause s.reg s.slotPeriod = 0
      · exact .inr (.inl (tryWave_taken hpending hcause))
      · exact .inr (.inr ⟨_, tryWave_refused hpending hcause⟩)
    · exact .inl (if_pos (by rw [Bool.not_eq_true _ |>.mp hpending]; rfl))
  · refine .inl (tryWaveInHold_busy ?_)
    rw [← Bool.not_eq_true, ← Bool.not_eq_true]
    tauto

theorem activate_trl (s : State) (l : List Nat) : (s.activate l).trl = s.trl :=
  foldl_keeps (f := fun t a => t.setAct a (t.reg a)) State.trl (fun _ _ => rfl) l s

theorem waveTaken_reg (s : State) (a : Nat) : s.waveTaken.reg a = (s.put F.TRL_WAVE_CTL_APPLY 0).reg a := by
  unfold State.waveTaken
  rw [(OutsOnly.judgeAllOuts _).reg, activate_reg]
  rfl

theorem waveTaken_pass (s : State) : s.waveTaken.trl.pass = s.trl.pass := by
  unfold State.waveTaken
  rw [(OutsOnly.judgeAllOuts _).pass, activate_trl]
  rfl

theorem waveRefused_trl (s : State) (c : Nat) : (s.waveRefused c).trl = s.trl := raise_trl (by decide)

theorem tryWaveInHold_pass (s : State) : s.tryWaveInHold.trl.pass = s.trl.pass := by
  obtain h | h | ⟨c, h⟩ := tryWaveInHold_cases s
  · rw [h]
  · rw [h, waveTaken_pass]
  · rw [h, waveRefused_trl]

theorem tryWaveInHold_statusKept (s : State) : StatusKept s s.tryWaveInHold := by
  intro n hn hs
  obtain h | h | ⟨c, h⟩ := tryWaveInHold_cases s
  · rw [h]
    exact hs
  · rw [h, State.evStatus, waveTaken_reg]
    exact (evStatus_put_high hn (by decide)).trans hs
  · rw [h]
    refine raise_statusKept (by decide) n hn ?_
    rw [evStatus_put_high hn (by decide), evStatus_put_high hn (by decide), evStatus_put_high hn (by decide)]
    exact hs

end Wave

end Sys2Proof.Machine
end

section
/-! The end of a phase, output faults, a waveform set that is applied, and the initialisation (R281–R283, R285, R290, R292, R300,
R301), with the drive's obligation. -/

open Sys2Proof Sys2Proof.Machine

namespace Sys2Proof.Machine

/-! ## The end of a phase (R281–R283) -/

/-- The state with the next phase of an output begun, at the end of the present one. -/
def State.phaseStarted (s : State) (o : Fin 384) (lv : TrlLevel) (d : Nat) (more : List (TrlLevel × Nat)) : State :=
  s.onTrlOut o fun x => { s.upTo x (s.edgeAt x.ends) with
    level := lv, phases := (lv, d) :: more, ends := x.ends + BitVec.ofNat 32 (100 * d), done := x.done + 1 }

/-- The state with the last phase of an output ended. -/
def State.phasesOver (s : State) (o : Fin 384) (lv : TrlLevel) : State :=
  s.onTrlOut o fun x => s.judge { s.upTo x (s.edgeAt x.ends) with level := lv, rest := lv, phases := [] }

section Phase

variable {s : State} {b : Fin 64} {l : Fin 6} {lv : TrlLevel} {d : Nat} {more : List (TrlLevel × Nat)}

theorem phaseEnd_due (hphases : s.trl.outs[outIx b l].phases ≠ []) (hends : s.reached s.trl.outs[outIx b l].ends = true)
    (charge : Nat) (limited : Bool) : s.phaseEnd b l charge limited =
      (if s.trl.outs[outIx b l].inPhase1 then s.measureCharge b l charge limited else s).nextPhase b l := by
  unfold State.phaseEnd
  dsimp only
  rw [hends, List.isEmpty_eq_false_iff.2 hphases]
  rfl

theorem nextPhase_none (h : s.trl.outs[outIx b l].phases = []) : s.nextPhase b l = s := by
  unfold State.nextPhase
  dsimp only
  rw [h]

theorem nextPhase_more {p : TrlLevel × Nat} (h : s.trl.outs[outIx b l].phases = p :: (lv, d) :: more) : s.nextPhase b l =
    if s.trl.outs[outIx b l].second ≠ 0 ∧ s.trl.outs[outIx b l].second = s.trl.outs[outIx b l].done + 1 then
      (s.phaseStarted (outIx b l) lv d more).overCheck (outIx b l) s.trl.outs[outIx b l].ends
    else s.phaseStarted (outIx b l) lv d more := by
  unfold State.nextPhase
  dsimp only
  rw [h]
  rfl

theorem nextPhase_last (h : s.trl.outs[outIx b l].phases = [(lv, d)]) : s.nextPhase b l =
    if s.hv.settle.isSome then (s.phasesOver (outIx b l) lv).onTrlOut (outIx b l) fun x =>
      { x with level := against (s.phasesOver (outIx b l) lv).settleMv x.acc }
    else ((s.phasesOver (outIx b l) lv).startComp b s.trl.outs[outIx b l].ends).tryWaveInHold := by
  unfold State.nextPhase
  dsimp only
  rw [h]
  rfl

end Phase

/-! ## An output at rest -/

/-- An output runs no waveform and rests at a level, at which it stands where there is no compensation stage. -/
structure RestsAt (o : Fin 384) (lv : TrlLevel) (s : State) : Prop where
  course : (s.trl.outs[o]).course = ([], lv)
  level : s.vcomp = 0 → (s.trl.outs[o]).level = lv

theorem vcomp_of_reg {s t : State} (h : t.reg F.TRL_COMP_addr = s.reg F.TRL_COMP_addr) : t.vcomp = s.vcomp :=
  congrArg (fun w => 50 * min 60 (F.TRL_COMP_VCOMP.of w)) h

theorem outJudged_course (s : State) (x : TrlOut) : (s.outJudged x).course = x.course := by
  rw [← judge_course s x]
  unfold State.outJudged
  split
  · split <;> rfl
  · rfl

theorem outJudged_level {s : State} {x : TrlOut} (h : x.level = x.rest) : (s.outJudged x).level = x.rest := by
  have hlevel := (judge_level s x).trans h
  unfold State.outJudged
  split
  · split
    · exact hlevel
    · exact congrArg Prod.snd (judge_course s x)
  · exact hlevel

namespace RestsAt

variable {o : Fin 384} {lv : TrlLevel} {s t : State}

theorem rest (h : RestsAt o lv s) : (s.trl.outs[o]).rest = lv := congrArg Prod.snd h.course

/-- An update that leaves the compensation stage as it is and keeps the output's course and a level at which it rests. -/
theorem step (h : RestsAt o lv s) (hvcomp : t.vcomp = s.vcomp) (hcourse : (t.trl.outs[o]).course = (s.trl.outs[o]).course)
    (hlevel : s.vcomp = 0 → (s.trl.outs[o]).level = (s.trl.outs[o]).rest → (t.trl.outs[o]).level = (s.trl.outs[o]).rest) :
    RestsAt o lv t where
  course := hcourse.trans h.course
  level h0 := by
    rw [hvcomp] at h0
    exact (hlevel h0 ((h.level h0).trans h.rest.symm)).trans h.rest

theorem of_trl (h : RestsAt o lv s) (hvcomp : t.vcomp = s.vcomp) (htrl : t.trl = s.trl) : RestsAt o lv t :=
  h.step hvcomp (by rw [htrl]) fun _ hl => by rw [htrl, hl]

theorem put (h : RestsAt o lv s) (f : Field) (v : Nat) (hf : F.TRL_COMP_addr ≠ f.addr) : RestsAt o lv (s.put f v) :=
  h.of_trl (vcomp_of_reg (reg_put_other s f v _ hf)) rfl

theorem map (h : RestsAt o lv s) {f : TrlOut → TrlOut} (hcourse : ∀ x, (f x).course = x.course)
    (hlevel : ∀ x, x.level = x.rest → (f x).level = x.rest) :
    RestsAt o lv { s with trl := { s.trl with outs := s.trl.outs.map f } } := by
  have hout : (s.trl.outs.map f)[o] = f s.trl.outs[o] := Vector.getElem_map f o.isLt
  exact h.step rfl ((congrArg TrlOut.course hout).trans (hcourse _)) fun _ hl => (congrArg TrlOut.level hout).trans (hlevel _ hl)

theorem startComp (h : RestsAt o lv s) (b : Fin 64) (t : Word) : RestsAt o lv (s.startComp b t) :=
  h.step (vcomp_of_reg (startComp_reg s b t _)) (startComp_course s t b o) fun h0 hl => by rw [startComp_of_vcomp h0, hl]

theorem startComps (h : RestsAt o lv s) : RestsAt o lv s.startComps :=
  h.step (vcomp_of_reg ((OutsOnly.startComps s).reg _)) (startComps_course s o) fun h0 hl => by rw [startComps_of_vcomp h0, hl]

theorem waveTaken (h : RestsAt o lv s) : RestsAt o lv s.waveTaken := by
  have hflushed : RestsAt o lv (s.put F.TRL_WAVE_CTL_APPLY 0).flushRails := (h.put _ _ (by decide)).map (fun _ => rfl) fun _ hl => hl
  have hactive := hflushed.of_trl (vcomp_of_reg (activate_reg _ waveRegs _)) (activate_trl _ waveRegs)
  unfold State.waveTaken
  rw [judgeAllOuts_eq]
  exact (hactive.map (outJudged_course _) fun _ => outJudged_level).startComps

theorem waveRefused (h : RestsAt o lv s) (c : Nat) : RestsAt o lv (s.waveRefused c) :=
  (((h.put _ _ (by decide)).put _ _ (by decide)).put _ _ (by decide)).of_trl
    (vcomp_of_reg (raise_reg_high (by decide) (by decide))) (raise_trl (by decide))

theorem tryWaveInHold (h : RestsAt o lv s) : RestsAt o lv s.tryWaveInHold := by
  obtain e | e | ⟨c, e⟩ := tryWaveInHold_cases s
  · rwa [e]
  · rw [e]
    exact h.waveTaken
  · rw [e]
    exact h.waveRefused c

/-- After its last phase an output rests at the level of that phase. -/
theorem phasesOver (s : State) (o : Fin 384) (lv : TrlLevel) : RestsAt o lv (s.phasesOver o lv) where
  course := by
    unfold State.phasesOver
    rw [outs_onTrlOut, judge_course]
    rfl
  level _ := by
    unfold State.phasesOver
    rw [outs_onTrlOut, judge_level]

end RestsAt

theorem nextPhase_last_course {s : State} {b : Fin 64} {l : Fin 6} {lv : TrlLevel} {d : Nat}
    (h : s.trl.outs[outIx b l].phases = [(lv, d)]) : ((s.nextPhase b l).trl.outs[outIx b l]).course = ([], lv) := by
  have hover := RestsAt.phasesOver s (outIx b l) lv
  rw [nextPhase_last h]
  split
  · rw [outs_onTrlOut]
    exact hover.course
  · exact (hover.startComp b _).tryWaveInHold.course

theorem nextPhase_last_rests {s : State} {b : Fin 64} {l : Fin 6} {lv : TrlLevel} {d : Nat}
    (h : s.trl.outs[outIx b l].phases = [(lv, d)]) (hsettle : s.hv.settle = none) : RestsAt (outIx b l) lv (s.nextPhase b l) := by
  rw [nextPhase_last h, hsettle]
  exact ((RestsAt.phasesOver s (outIx b l) lv).startComp b _).tryWaveInHold

/-! ## Output faults (R300) -/

theorem outFaulted_of_reg {s t : State} {b : Fin 64} (h : t.reg (F.TRL_FAULT_addr b) = s.reg (F.TRL_FAULT_addr b)) (l : Nat) :
    t.outFaulted b l = s.outFaulted b l :=
  congrArg (fun w => ((F.TRL_FAULT_OPEN b).of w ||| (F.TRL_FAULT_SHORT b).of w).testBit l) h

/-- The fault bits of an output set. -/
def State.faultMarked (s : State) (b : Fin 64) (l : Fin 6) (open_ short : Bool) : State :=
  let t := if open_ then s.put (F.TRL_FAULT_OPEN b) (s.get (F.TRL_FAULT_OPEN b) ||| 2 ^ l.val) else s
  if short then t.put (F.TRL_FAULT_SHORT b) (t.get (F.TRL_FAULT_SHORT b) ||| 2 ^ l.val) else t

/-- An output's waveform dropped, the output at high impedance. -/
def State.outDropped (s : State) (o : Fin 384) : State := s.onTrlOut o fun x =>
  { x with level := .hiz, rest := .hiz, phases := [], open_ := 0, short := 0, inComp := false }

/-- A band made dark for a fault where BLANK_ON_FAULT asks for it. -/
def State.bandBlanked (s : State) (b : Fin 64) : State :=
  if s.bit F.TRL_FAULT_CTL_BLANK_ON_FAULT then { s with trl := { s.trl with blanked := s.trl.blanked ||| (1#64 <<< b.val) } } else s

section Fault

variable (s : State) (b : Fin 64) (l : Fin 6)

theorem outFault_eq (open_ short : Bool) : s.outFault b l open_ short =
    (((s.faultMarked b l open_ short).outDropped (outIx b l)).bandBlanked b).raise (512 + l) := rfl

theorem faultMarked_trl (open_ short : Bool) : (s.faultMarked b l open_ short).trl = s.trl := by
  cases open_ <;> cases short <;> rfl

theorem faultMarked_reg_other (open_ short : Bool) {a : Nat} (ha : a ≠ F.TRL_FAULT_addr b) :
    (s.faultMarked b l open_ short).reg a = s.reg a := by
  unfold State.faultMarked
  cases open_ <;> cases short <;> simp [State.reg_put, ha]

/-- A bit joined to a field stands in it. -/
theorem testBit_put_join (s : State) {f : Field} {k : Nat} (hk : k < f.w) (hf : f.lo + f.w ≤ 32) :
    ((s.put f (s.get f ||| 2 ^ k)).get f).testBit k = true := by
  rw [State.get_put _ _ _ hf, Nat.testBit_mod_two_pow, Nat.testBit_or, Nat.testBit_two_pow_self, Bool.or_true, decide_eq_true hk]
  rfl

theorem faultMarked_open (short : Bool) : ((s.faultMarked b l true short).get (F.TRL_FAULT_OPEN b)).testBit l = true := by
  have hopen : ((s.put (F.TRL_FAULT_OPEN b) (s.get (F.TRL_FAULT_OPEN b) ||| 2 ^ l.val)).get (F.TRL_FAULT_OPEN b)).testBit l = true :=
    testBit_put_join s l.isLt (by simp)
  cases short with
  | false => exact hopen
  | true =>
    refine (congrArg (Nat.testBit · l.val) ?_).trans hopen
    exact State.get_put_other _ _ _ _ (by simp) (by simp)

theorem bandBlanked_reg (a : Nat) : (s.bandBlanked b).reg a = s.reg a := by
  unfold State.bandBlanked
  split <;> rfl

theorem bandBlanked_outs : (s.bandBlanked b).trl.outs = s.trl.outs := by
  unfold State.bandBlanked
  split <;> rfl

theorem bandBlanked_blanked (h : s.bit F.TRL_FAULT_CTL_BLANK_ON_FAULT = true) :
    (s.bandBlanked b).trl.blanked.getLsbD b = true := by
  unfold State.bandBlanked
  rw [if_pos h]
  simp

theorem srcTrl_lt {k : Nat} (h : k < 16) : 512 + k < 1024 := by omega

theorem fault_high (a : Nat) : 0x50000 ≤ F.TRL_FAULT_addr a := by
  unfold F.TRL_FAULT_addr
  omega

/-- A register below those of the faults is none of them. -/
theorem ne_fault (b : Nat) {a : Nat} (h : a < 0x90100) : a ≠ F.TRL_FAULT_addr b := by
  unfold F.TRL_FAULT_addr
  omega

theorem outFault_open (short : Bool) : ((s.outFault b l true short).get (F.TRL_FAULT_OPEN b)).testBit l = true := by
  rw [outFault_eq, raise_get_high (srcTrl_lt (by omega)) (fault_high b), State.get, bandBlanked_reg]
  exact faultMarked_open s b l short

theorem outFault_outs (open_ short : Bool) : (s.outFault b l open_ short).trl.outs = (s.outDropped (outIx b l)).trl.outs := by
  rw [outFault_eq, raise_trl (srcTrl_lt (by omega)), bandBlanked_outs]
  unfold State.outDropped State.onTrlOut
  rw [faultMarked_trl]

theorem outFault_out (open_ short : Bool) : (s.outFault b l open_ short).trl.outs[outIx b l] =
    { s.trl.outs[outIx b l] with level := .hiz, rest := .hiz, phases := [], open_ := 0, short := 0, inComp := false } := by
  rw [outFault_outs]
  exact outs_onTrlOut s _ _

theorem outFault_other (open_ short : Bool) {o : Fin 384} (h : o ≠ outIx b l) :
    (s.outFault b l open_ short).trl.outs[o] = s.trl.outs[o] := by
  rw [outFault_outs]
  exact outs_onTrlOut_other s _ h

theorem outFault_blanked (open_ short : Bool) (h : s.bit F.TRL_FAULT_CTL_BLANK_ON_FAULT = true) :
    (s.outFault b l open_ short).trl.blanked.getLsbD b = true := by
  rw [outFault_eq, raise_trl (srcTrl_lt (by omega))]
  refine bandBlanked_blanked _ b (Eq.trans ?_ h)
  exact congrArg (fun w => F.TRL_FAULT_CTL_BLANK_ON_FAULT.of w != 0) (faultMarked_reg_other s b l open_ short (ne_fault b (by decide)))

end Fault

/-- A charge below OPEN_PCT at the FAULT_COUNT-th waveform in a row marks the output open. -/
theorem measureCharge_open {s : State} {b : Fin 64} {l : Fin 6} {lv : TrlLevel} {d charge : Nat} {more : List (TrlLevel × Nat)}
    (hphases : s.trl.outs[outIx b l].phases = (lv, d) :: more)
    (hcount : max 1 (s.get F.TRL_FAULT_CTL_FAULT_COUNT) ≤ s.trl.outs[outIx b l].open_ + 1)
    (hlow : 100 * charge < s.get F.TRL_FAULT_CTL_OPEN_PCT * (s.get F.TRL_FAULT_CTL_C_NOM * (s.levelMv lv).natAbs)) (limited : Bool) :
    ∃ y short, s.measureCharge b l charge limited = (s.onTrlOut (outIx b l) fun _ => y).outFault b l true short := by
  obtain ⟨hi, hbad⟩ : ∃ hi, s.chargeBad s.trl.outs[outIx b l] charge limited = (true, hi) := by
    unfold State.chargeBad
    rw [hphases]
    dsimp only
    rw [decide_eq_true hlow]
    exact ⟨_, rfl⟩
  unfold State.measureCharge
  dsimp only
  rw [hbad, outs_onTrlOut]
  dsimp only
  rw [if_pos rfl, if_pos (.inl hcount), decide_eq_true hcount]
  exact ⟨_, _, rfl⟩

/-- The fault register with a clear written to it. -/
def State.faultWritten (s : State) (b : Fin 64) (value : Word) : State :=
  s.setReg (F.TRL_FAULT_addr b) (s.reg (F.TRL_FAULT_addr b) &&& ~~~value)

/-- An output that was faulted in `s` and is not in `t` is due a balanced pair. -/
def State.pairDue (s t : State) (b : Fin 64) (u : State) (l : Fin 6) : State :=
  if s.outFaulted b l && !t.outFaulted b l then u.onTrlOut (outIx b l) fun x => { x with pair := true } else u

theorem faultClear_eq (s : State) (b : Fin 64) (value : Word) : s.faultClear b value =
    (List.finRange 6).foldl (s.pairDue (s.faultWritten b value) b) (s.faultWritten b value) := rfl

theorem pairDue_outsOnly (s t : State) (b : Fin 64) (u : State) (l : Fin 6) : OutsOnly u (s.pairDue t b u l) :=
  .ite (.onTrlOut u _ _) (.refl u)

theorem pairDue_other (s t : State) (b : Fin 64) (u : State) {l k : Fin 6} (h : k ≠ l) :
    (s.pairDue t b u k).trl.outs[outIx b l] = u.trl.outs[outIx b l] := by
  unfold State.pairDue
  split
  · exact outs_onTrlOut_other u _ (outIx_ne_of_layer b h.symm)
  · rfl

theorem pairDue_pair (s t : State) (b : Fin 64) (u : State) (l : Fin 6) : (s.pairDue t b u l).trl.outs[outIx b l].pair =
    (u.trl.outs[outIx b l].pair || (s.outFaulted b l && !t.outFaulted b l)) := by
  unfold State.pairDue
  generalize (s.outFaulted b l && !t.outFaulted b l) = cleared
  cases cleared with
  | true => rw [if_pos rfl, Bool.or_true, outs_onTrlOut]
  | false => rw [if_neg Bool.false_ne_true, Bool.or_false]

/-- A cleared fault changes the fault register and which outputs of the band are due a balanced pair. -/
theorem faultClear_outsOnly (s : State) (b : Fin 64) (value : Word) : OutsOnly (s.faultWritten b value) (s.faultClear b value) := by
  rw [faultClear_eq]
  exact .foldl (pairDue_outsOnly s _ b) _ _

theorem faultClear_pair (s : State) (b : Fin 64) (value : Word) (l : Fin 6) : (s.faultClear b value).trl.outs[outIx b l].pair =
    (s.trl.outs[outIx b l].pair || (s.outFaulted b l && !(s.faultClear b value).outFaulted b l)) := by
  rw [(faultClear_outsOnly s b value).keeps (·.outFaulted b l) fun _ _ => rfl, faultClear_eq]
  generalize ht : s.faultWritten b value = t
  obtain ⟨u, -, hu, hclear⟩ := foldl_once (P := fun _ => True) (g := fun u : State => u.trl.outs[outIx b l]) (f := s.pairDue t b)
    (fun _ _ _ => trivial) (fun u k h => pairDue_other s t b u h) (List.mem_finRange l) (List.nodup_finRange 6) (s := t) trivial
  rw [hclear, pairDue_pair, hu, ← ht]
  rfl

/-! ## Compensation ends (R290) -/

theorem compEnd_done {s : State} {o : Fin 384} (hcomp : s.trl.outs[o].inComp = true) (hhalf : 2 * (s.ledger o).natAbs ≤ s.ledgerLimit) :
    s.compEnd o = (s.stopComp o s.now).onTrlOut o fun x => { x with inComp := false } := by
  unfold State.compEnd
  rw [hcomp, decide_eq_true hhalf]
  rfl

theorem stopComp_level {s : State} {o : Fin 384} {mv : Int} (h : s.trl.outs[o].level = .comp mv) (t : Word) :
    (s.stopComp o t).trl.outs[o].level = s.trl.outs[o].rest := by
  unfold State.stopComp
  rw [h]
  dsimp only
  rw [outs_onTrlOut]

theorem stopComp_other (s : State) {o k : Fin 384} (h : k ≠ o) (t : Word) : (s.stopComp o t).trl.outs[k] = s.trl.outs[k] := by
  unfold State.stopComp
  split
  · exact outs_onTrlOut_other s _ h
  · rfl

end Sys2Proof.Machine
end

section
/-! Waveforms on all layers of a band, and the initialisation that runs them (R282, R286, R288, R291, R292). -/

open Sys2Proof Sys2Proof.Machine

namespace Sys2Proof.Machine

/-! ## What the start of waveforms leaves as it was -/

/-- Waveforms that start or are cut change the drive's outputs, state words and record of R288, what an event may change, and of the
registers above the event and link blocks the two of R301 alone. -/
structure WaveKept (s t : State) : Prop where
  frame : t = { s with
    regs := t.regs, mem := t.mem, out := t.out, eventN := t.eventN, evt := t.evt, link := t.link,
    trl := { s.trl with outs := t.trl.outs, word := t.trl.word, truncEv := t.trl.truncEv } }
  reg : ∀ a, 0x50000 ≤ a → a ≠ F.TRL_STAT_addr → a ≠ F.TRL_STAT2_addr → t.reg a = s.reg a

/-- The state in which a layer is about to be driven: its bit in the state word set, its compensation over, its ledger checked. -/
def State.layerReady (b : Fin 64) (x : Nat) (t : Word) (u : State) (l : Fin 6) : State :=
  ((u.setWordBit b l (x == 0)).stopComp (outIx b l) t).overCheck (outIx b l) t

theorem layerStarted_eq (b : Fin 64) (x : Nat) (t : Word) (u : State) (l : Fin 6) : State.layerStarted b x t u l =
    if u.outFaulted b l then u.setWordBit b l (x == 0)
    else (State.layerReady b x t u l).drivePhases (outIx b l)
      (waveTable (State.layerReady b x t u l).actReg (State.layerReady b x t u l).trlBand x) t := rfl

theorem OutsOnly.drivePhases (s : State) (o : Fin 384) (l : List (Nat × Nat)) (t : Word) : OutsOnly s (s.drivePhases o l t) := by
  unfold State.drivePhases
  split
  · exact .refl s
  · exact .onTrlOut s _ _

theorem drivePhases_other (s : State) {o k : Fin 384} (h : k ≠ o) (l : List (Nat × Nat)) (t : Word) :
    (s.drivePhases o l t).trl.outs[k] = s.trl.outs[k] := by
  unfold State.drivePhases
  split
  · rfl
  · exact outs_onTrlOut_other s _ h

theorem drivePhases_phases (s : State) (o : Fin 384) {l : List (Nat × Nat)} (h : l ≠ []) (t : Word) :
    ((s.drivePhases o l t).trl.outs[o]).phases = l.map fun q => (levelOf q.1, q.2) := by
  unfold State.drivePhases
  split
  · exact absurd rfl h
  · rw [outs_onTrlOut]

namespace WaveKept

variable {s t u : State}

theorem refl (s : State) : WaveKept s s := ⟨rfl, fun _ _ _ _ => rfl⟩

theorem trans (h : WaveKept s t) (k : WaveKept t u) : WaveKept s u where
  frame := by rw [k.frame, h.frame]
  reg a ha h1 h2 := (k.reg a ha h1 h2).trans (h.reg a ha h1 h2)

theorem of_outsOnly (h : OutsOnly s t) : WaveKept s t where
  frame := by rw [h]
  reg a _ _ _ := h.reg a

theorem raise (s : State) {n : Nat} (h : n < 1024) : WaveKept s (s.raise n) :=
  ⟨by rw [raise_frame h], fun _ ha _ _ => raise_reg_high h ha⟩

theorem count (s : State) (f : Field) (hf : f.addr = F.TRL_STAT_addr ∨ f.addr = F.TRL_STAT2_addr) : WaveKept s (s.count f) :=
  ⟨rfl, fun _ _ h1 h2 => reg_put_other s f _ _ fun e => hf.elim (fun h => h1 (e.trans h)) fun h => h2 (e.trans h)⟩

theorem ite {c : Prop} [Decidable c] (ht : WaveKept s t) (hu : WaveKept s u) : WaveKept s (if c then t else u) := by
  split <;> assumption

theorem actReg (h : WaveKept s t) : t.actReg = s.actReg :=
  congrArg (fun act a => assocGet (RegMap.reset a) a act) (congrArg State.act h.frame :)

theorem pass (h : WaveKept s t) : t.trl.pass = s.trl.pass := (congrArg (·.trl.pass) h.frame :)

theorem passDue (h : WaveKept s t) : t.trl.passDue = s.trl.passDue := (congrArg (·.trl.passDue) h.frame :)

theorem passEnd (h : WaveKept s t) : t.trl.passEnd = s.trl.passEnd := (congrArg (·.trl.passEnd) h.frame :)

theorem trlBand (h : WaveKept s t) : t.trlBand = s.trlBand :=
  congrArg F.TRL_TSEL_STAT_BAND.of (h.reg F.TRL_TSEL_STAT_addr (by decide) (by decide) (by decide))

theorem outFaulted (h : WaveKept s t) (b : Fin 64) (l : Nat) : t.outFaulted b l = s.outFaulted b l :=
  outFaulted_of_reg (h.reg _ (fault_high b) (ne_fault b (by decide)).symm (ne_fault b (by decide)).symm) l

theorem overCheck (s : State) (o : Fin 384) (t : Word) : WaveKept s (s.overCheck o t) :=
  ite ((count s _ (.inr rfl)).trans (raise _ (by decide))) (refl s)

theorem layerReady (b : Fin 64) (x : Nat) (t : Word) (u : State) (l : Fin 6) : WaveKept u (State.layerReady b x t u l) := by
  have hword : WaveKept u (u.setWordBit b l (x == 0)) := ⟨rfl, fun _ _ _ _ => rfl⟩
  exact hword.trans ((of_outsOnly (.stopComp _ _ t)).trans (overCheck _ _ t))

theorem layerStarted (b : Fin 64) (x : Nat) (t : Word) (u : State) (l : Fin 6) : WaveKept u (State.layerStarted b x t u l) := by
  rw [layerStarted_eq]
  exact ite ⟨rfl, fun _ _ _ _ => rfl⟩ ((layerReady b x t u l).trans (of_outsOnly (.drivePhases _ _ _ _)))

theorem cutWave (s : State) (b : Fin 64) (t : Word) : WaveKept s (s.cutWave b t).2 := by
  rw [cutWave_eq]
  refine foldl_rel (R := fun r r' : Bool × State => WaveKept r.2 r'.2) (f := State.layerCut b t) (fun r => refl r.2) trans
    (fun r l => ?_) (List.finRange 6) (false, s)
  unfold State.layerCut
  dsimp only
  split
  · exact refl r.2
  · exact ⟨rfl, fun _ _ _ _ => rfl⟩

theorem cutCounted (r : Bool × State) : WaveKept r.2 (State.cutCounted r) := by
  have hcount : WaveKept r.2 (r.2.count F.TRL_STAT_TRUNC) := count _ _ (.inl rfl)
  have hnoted (u : State) : WaveKept u { u with trl := { u.trl with truncEv := true } } := ⟨rfl, fun _ _ _ _ => rfl⟩
  exact ite (refl _) (ite hcount (hcount.trans ((hnoted _).trans (raise _ (by decide)))))

/-- The cut of what runs on a band, and its count. -/
theorem cut (s : State) (b : Fin 64) (t : Word) : WaveKept s (State.cutCounted (s.cutWave b t)) :=
  (cutWave s b t).trans (cutCounted _)

theorem startWave (s : State) (b : Fin 64) (layers : List (Fin 6)) (x : Nat) (t : Word) : WaveKept s (s.startWave b layers x t) := by
  rw [startWave_eq]
  exact ite (refl s) ((cut s b t).trans (foldl_rel refl trans (layerStarted b x t) layers _))

end WaveKept

/-! ## The waveform of one layer -/

section Layer

variable (b : Fin 64) (x : Nat) (t : Word) (u : State)

theorem overCheck_trl (o : Fin 384) : (u.overCheck o t).trl = u.trl := by
  unfold State.overCheck
  dsimp only
  split
  · exact raise_trl (by decide)
  · rfl

theorem getLsbD_layerBit (l k : Fin 6) : (1#6 <<< l.val).getLsbD k = decide (k = l) := by
  revert l k
  decide

/-- The bit of a layer in the state word of its band. -/
theorem setWordBit_bit (l k : Fin 6) (v : Bool) :
    ((u.setWordBit b l v).trl.word[b]).getLsbD k = if k = l then v else (u.trl.word[b]).getLsbD k := by
  have hword : (u.setWordBit b l v).trl.word[b] =
      if v then u.trl.word[b] ||| (1#6 <<< l.val) else u.trl.word[b] &&& ~~~(1#6 <<< l.val) :=
    Vector.getElem_set_self b.isLt
  rw [hword]
  cases v with
  | true =>
    rw [if_pos rfl, BitVec.getLsbD_or, getLsbD_layerBit]
    by_cases hk : k = l <;> simp [hk]
  | false =>
    rw [if_neg Bool.false_ne_true, BitVec.getLsbD_and, BitVec.getLsbD_not, getLsbD_layerBit, decide_eq_true k.isLt]
    by_cases hk : k = l <;> simp [hk]

theorem layerReady_word (l : Fin 6) : (State.layerReady b x t u l).trl.word = (u.setWordBit b l (x == 0)).trl.word :=
  (congrArg TrellisUnit.word (overCheck_trl t _ _)).trans ((OutsOnly.stopComp _ _ t).keeps (·.trl.word) fun _ _ => rfl)

theorem layerStarted_word (l : Fin 6) : (State.layerStarted b x t u l).trl.word = (u.setWordBit b l (x == 0)).trl.word := by
  rw [layerStarted_eq]
  split
  · rfl
  · exact ((OutsOnly.drivePhases _ _ _ t).keeps (·.trl.word) fun _ _ => rfl).trans (layerReady_word b x t u l)

theorem layerReady_other {l k : Fin 6} (h : l ≠ k) : (State.layerReady b x t u k).trl.outs[outIx b l] = u.trl.outs[outIx b l] :=
  (congrArg (fun v : TrellisUnit => v.outs[outIx b l]) (overCheck_trl t _ _)).trans (stopComp_other _ (outIx_ne_of_layer b h) t)

theorem layerStarted_other {l k : Fin 6} (h : l ≠ k) :
    (State.layerStarted b x t u k).trl.outs[outIx b l] = u.trl.outs[outIx b l] := by
  rw [layerStarted_eq]
  split
  · rfl
  · exact (drivePhases_other _ (outIx_ne_of_layer b h) _ t).trans (layerReady_other b x t u h)

/-- An output without a fault runs the phases of the table. -/
theorem layerStarted_phases {l : Fin 6} (hsound : u.outFaulted b l = false) (hne : waveTable u.actReg u.trlBand x ≠ []) :
    ((State.layerStarted b x t u l).trl.outs[outIx b l]).phases =
      (waveTable u.actReg u.trlBand x).map fun q => (levelOf q.1, q.2) := by
  have hready := WaveKept.layerReady b x t u l
  rw [layerStarted_eq, hsound, if_neg Bool.false_ne_true, hready.actReg, hready.trlBand]
  exact drivePhases_phases _ _ hne t

/-- A waveform that starts on all six layers of a band sets each layer's bit, and runs its table on each output without a fault. -/
theorem startWave_layers {s : State} (hrun : s.wavesRun = true) (l : Fin 6) :
    ((s.startWave b (List.finRange 6) x t).trl.word[b]).getLsbD l = (x == 0) ∧
      (s.outFaulted b l = false → waveTable s.actReg s.trlBand x ≠ [] →
        ((s.startWave b (List.finRange 6) x t).trl.outs[outIx b l]).phases =
          (waveTable s.actReg s.trlBand x).map fun q => (levelOf q.1, q.2)) := by
  rw [startWave_eq, hrun, if_neg (by decide)]
  obtain ⟨u, hkept, -, hlayer⟩ := foldl_once (P := WaveKept s) (f := State.layerStarted b x t) (a := l)
    (g := fun u => ((u.trl.word[b]).getLsbD l, u.trl.outs[outIx b l])) (fun u k hu => hu.trans (.layerStarted b x t u k))
    (fun u k hk => Prod.ext (by rw [layerStarted_word, setWordBit_bit, if_neg hk.symm]) (layerStarted_other b x t u hk.symm))
    (List.mem_finRange l) (List.nodup_finRange 6) (WaveKept.cut s b t)
  obtain ⟨hword, hout⟩ := Prod.mk.inj hlayer
  refine ⟨?_, fun hsound hne => ?_⟩
  · rw [hword, layerStarted_word, setWordBit_bit, if_pos rfl]
  · rw [← hkept.actReg, ← hkept.trlBand] at hne ⊢
    rw [hout]
    exact layerStarted_phases b x t u ((hkept.outFaulted b l).trans hsound) hne

end Layer

/-! ## The band in force is selected (R286) -/

section Select

variable (s : State)

theorem tempRecorded_raiseFrame : RaiseFrame s s.tempRecorded := by
  unfold State.tempRecorded
  split
  · rfl
  · split
    · exact raiseRel_frame.trans _ (s.put F.TRL_TSEL_STAT_NO_SENSOR 1) _ rfl (raise_frame (by decide))
    · rfl

theorem selectBand_frame : RaiseFrame s s.selectBand := by
  have htemp := tempRecorded_raiseFrame s
  rw [selectBand_eq]
  split
  · exact htemp
  · have hput := raiseRel_frame.trans s _ ((s.tempRecorded.put F.TRL_TSEL_STAT_BAND s.chooseBand).wrapCount F.TRL_STAT2_BAND_CHANGES)
      htemp rfl
    exact raiseRel_frame.trans s _ _ hput (raise_frame (by decide))

theorem selectBand_trl : s.selectBand.trl = s.trl := (congrArg State.trl (selectBand_frame s) :)
theorem selectBand_tb : s.selectBand.tb = s.tb := (congrArg State.tb (selectBand_frame s) :)
theorem selectBand_hv : s.selectBand.hv = s.hv := (congrArg State.hv (selectBand_frame s) :)

theorem selectBand_reg_high {a : Nat} (ha : 0x50000 ≤ a) (hstat : a ≠ F.TRL_TSEL_STAT_addr) (hcount : a ≠ F.TRL_STAT2_addr) :
    s.selectBand.reg a = s.reg a := by
  have htemp : s.tempRecorded.reg a = s.reg a := by
    unfold State.tempRecorded
    split
    · rfl
    · split
      · rw [raise_reg_high (by decide) ha, reg_put_other _ _ _ _ hstat]
      · rw [State.putS, reg_put_other _ _ _ _ hstat, reg_put_other _ _ _ _ hstat]
  rw [selectBand_eq]
  split
  · exact htemp
  · rw [raise_reg_high (by decide) ha, State.wrapCount, reg_put_other _ _ _ _ hcount, reg_put_other _ _ _ _ hstat, htemp]

theorem selectBand_statusKept : StatusKept s s.selectBand := by
  intro n hn hs
  have hput (u : State) (f : Field) (v : Nat) (hf : 0x50000 ≤ f.addr) (hu : u.evStatus n = true) : (u.put f v).evStatus n = true :=
    (evStatus_put_high hn hf).trans hu
  have htemp : s.tempRecorded.evStatus n = true := by
    unfold State.tempRecorded
    split
    · exact hs
    · split
      · exact raise_statusKept (by decide) n hn (hput _ _ _ (by decide) hs)
      · exact hput _ _ _ (by decide) (hput _ _ _ (by decide) hs)
  rw [selectBand_eq]
  split
  · exact htemp
  · exact raise_statusKept (by decide) n hn (hput _ _ _ (by decide) (hput _ _ _ (by decide) htemp))

end Select

/-! ## The initialisation (R292) -/

section Init

variable (s : State)

theorem startInit_reg {a : Nat} (ha : 0x50000 ≤ a) (hctl : a ≠ F.TRL_CTL_addr) (hstat : a ≠ F.TRL_TSEL_STAT_addr)
    (hcount : a ≠ F.TRL_STAT2_addr) : s.startInit.reg a = s.reg a :=
  (selectBand_reg_high _ ha hstat hcount).trans ((reg_put_other _ _ _ _ hctl).trans (reg_put_other _ _ _ _ hctl))

theorem startInit_trl : s.startInit.trl = { s.trl with pass := 1, passAt := s.now, passDue := BitVec.allOnes 64 } := by
  unfold State.startInit State.now
  dsimp only
  rw [selectBand_trl, selectBand_tb]
  rfl

theorem startInit_hv : s.startInit.hv = s.hv := selectBand_hv _

theorem startInit_statusKept : StatusKept s s.startInit := by
  intro n hn hs
  refine selectBand_statusKept ((s.put F.TRL_CTL_INIT 1).put F.TRL_CTL_INIT_DONE 0) n hn ?_
  rw [evStatus_put_high hn (by decide), evStatus_put_high hn (by decide)]
  exact hs

theorem startInit_ctl (f : Field) (hf : f.addr = F.TRL_CTL_addr) :
    s.startInit.bit f = ((s.put F.TRL_CTL_INIT 1).put F.TRL_CTL_INIT_DONE 0).bit f :=
  congrArg (fun w => f.of w != 0) (selectBand_reg_high _ (by rw [hf]; decide) (by rw [hf]; decide) (by rw [hf]; decide))

theorem startInit_init : s.startInit.bit F.TRL_CTL_INIT = true := by
  rw [startInit_ctl s _ rfl, bit_put_other _ _ _ _ (by decide) (by decide)]
  exact bit_put s _ 1 (by decide)

theorem startInit_done : s.startInit.bit F.TRL_CTL_INIT_DONE = false := by
  rw [startInit_ctl s _ rfl]
  exact bit_put _ _ 0 (by decide)

/-- The state in which band `b`'s waveform of the pass in progress starts, at `t`. -/
def State.passTaken (s : State) (b : Fin 64) (t : Word) : State :=
  { s with trl := { s.trl with passDue := s.trl.passDue &&& ~~~(1#64 <<< b.val)
                               passEnd := if b.val = 63 then s.lastEnd t else s.trl.passEnd } }

theorem initWave_due {s : State} {b : Fin 64} {x : Nat} {t : Word} (hpass : s.trl.pass = x + 1) (hdue : s.trl.passDue.getLsbD b = true)
    (ht : t = s.trl.passAt + BitVec.ofNat 32 (4000 * b.val)) (hreached : s.reached t = true) (hrows : s.bandRows b ≠ 0) :
    s.initWave b = (s.passTaken b t).startWave b (List.finRange 6) x t := by
  have hsome : s.trl.passDue ≠ 0 := fun h => by simp [h] at hdue
  have hnext : s.nextPass = s := if_neg fun h => hsome h.2.1
  unfold State.initWave
  dsimp only
  have hstart : (s.trl.pass != 0 && s.trl.passDue.getLsbD b && s.reached t) = true := by
    rw [hpass, hdue, hreached]
    rfl
  rw [hnext, ← ht, hstart, State.when_true]
  refine (if_neg hrows).trans ?_
  change (s.passTaken b t).startWave b (List.finRange 6) (s.trl.pass - 1) t = _
  rw [hpass, Nat.add_sub_cancel]

end Init

end Sys2Proof.Machine
end

section
/-! The Trellis drive's obligation. -/

open Sys2Proof Sys2Proof.Machine

namespace Sys2Proof.Machine

/-- No register of a waveform set is the one of its commands. -/
theorem waveRegs_ne_ctl {a : Nat} (h : a ∈ waveRegs) : a ≠ F.TRL_WAVE_CTL_addr := by
  have hall : ∀ c ∈ waveRegs, c ≠ F.TRL_WAVE_CTL_addr := by decide +kernel
  exact hall a h

theorem waveTaken_actReg (s : State) {a : Nat} (h : a ∈ waveRegs) : s.waveTaken.actReg a = s.reg a := by
  refine ((OutsOnly.judgeAllOuts _).actReg a).trans ((activate_actReg _ waveRegs a).trans ?_)
  rw [if_pos h]
  exact reg_put_other s _ _ a (waveRegs_ne_ctl h)

theorem waveTaken_apply (s : State) : s.waveTaken.bit F.TRL_WAVE_CTL_APPLY = false :=
  (congrArg (fun w => F.TRL_WAVE_CTL_APPLY.of w != 0) (waveTaken_reg s _)).trans (bit_put s _ 0 (by decide))

/-! ## The clauses -/

section Clauses

variable {s : State} {b : Fin 64} {l : Fin 6}

theorem ne_nil_of_eq_cons {α : Type} {l r : List α} {x : α} (h : l = x :: r) : l ≠ [] := h ▸ List.cons_ne_nil x r

/-- The end of a phase other than phase 1, with others to come. -/
theorem exec_trellisPhaseEnd_more {charge : Nat} {limited : Bool} {x : TrlOut} (hon : s.alwaysOn = true)
    (hx : x = s.trl.outs[outIx b l]) (hends : s.reached x.ends = true) {p : TrlLevel × Nat} {lv : TrlLevel} {d : Nat}
    {more : List (TrlLevel × Nat)} (hphases : x.phases = p :: (lv, d) :: more) (hfirst : x.inPhase1 = false) :
    exec (.trellisPhaseEnd b l charge limited) s =
      .next (if x.second ≠ 0 ∧ x.second = x.done + 1 then (s.phaseStarted (outIx b l) lv d more).overCheck (outIx b l) x.ends
        else s.phaseStarted (outIx b l) lv d more) := by
  subst hx
  refine exec_ifOn (f := (·.phaseEnd b l charge limited)) hon rfl ?_
  rw [phaseEnd_due (ne_nil_of_eq_cons hphases) hends, hfirst, if_neg Bool.false_ne_true]
  exact nextPhase_more hphases

/-- The end of the last phase, where it is not phase 1. -/
theorem answers_trellisPhaseEnd_last {charge : Nat} {limited : Bool} {x : TrlOut} (hon : s.alwaysOn = true)
    (hx : x = s.trl.outs[outIx b l]) (hends : s.reached x.ends = true) {lv : TrlLevel} {d : Nat} (hphases : x.phases = [(lv, d)])
    (hfirst : x.inPhase1 = false) : Answers (.trellisPhaseEnd b l charge limited) s fun t =>
      t.trl.outs[outIx b l].phases = [] ∧ t.trl.outs[outIx b l].rest = lv ∧
      (s.hv.settle = none → s.vcomp = 0 → t.trl.outs[outIx b l].level = lv) := by
  subst hx
  refine answers_ifOn (f := (·.phaseEnd b l charge limited)) hon rfl ?_
  rw [phaseEnd_due (ne_nil_of_eq_cons hphases) hends, hfirst, if_neg Bool.false_ne_true]
  obtain ⟨hnone, hrest⟩ := Prod.mk.inj (nextPhase_last_course hphases)
  refine ⟨hnone, hrest, fun hsettle hvcomp => (nextPhase_last_rests hphases hsettle).level ?_⟩
  rw [nextPhase_last hphases, hsettle]
  exact (vcomp_of_reg ((tryWaveInHold_reg_high _ _ (by decide) (by decide)).trans (startComp_reg _ b _ _))).trans hvcomp

/-- The end of a phase 1 with too small a charge, for the last time that FAULT_COUNT allows. -/
theorem answers_trellisPhaseEnd_open {charge : Nat} {limited : Bool} {x : TrlOut} (hon : s.alwaysOn = true)
    (hx : x = s.trl.outs[outIx b l]) (hends : s.reached x.ends = true) {lv : TrlLevel} {d : Nat} {more : List (TrlLevel × Nat)}
    (hphases : x.phases = (lv, d) :: more) (hfirst : x.inPhase1 = true)
    (hcount : max 1 (s.get F.TRL_FAULT_CTL_FAULT_COUNT) ≤ x.open_ + 1)
    (hlow : 100 * charge < s.get F.TRL_FAULT_CTL_OPEN_PCT * (s.get F.TRL_FAULT_CTL_C_NOM * (s.levelMv lv).natAbs)) :
    Answers (.trellisPhaseEnd b l charge limited) s fun t =>
      (t.get (F.TRL_FAULT_OPEN b)).testBit l = true ∧ t.trl.outs[outIx b l].level = .hiz ∧
      t.trl.outs[outIx b l].phases = [] ∧ t.evStatus (512 + l) = true ∧
      (s.bit F.TRL_FAULT_CTL_BLANK_ON_FAULT = true → t.trl.blanked.getLsbD b = true) ∧
      ∀ o : Fin 384, o ≠ outIx b l → t.trl.outs[o] = s.trl.outs[o] := by
  subst hx
  obtain ⟨y, short, hfault⟩ := measureCharge_open hphases hcount hlow limited
  refine answers_ifOn (f := (·.phaseEnd b l charge limited)) hon rfl ?_
  have hout := outFault_out (s.onTrlOut (outIx b l) fun _ => y) b l true short
  have hnone := congrArg TrlOut.phases hout
  rw [phaseEnd_due (ne_nil_of_eq_cons hphases) hends, hfirst, if_pos rfl, hfault, nextPhase_none hnone]
  exact ⟨outFault_open _ b l short, congrArg TrlOut.level hout, hnone, raise_evStatus (srcTrl_lt (by omega)),
    outFault_blanked (s.onTrlOut _ fun _ => y) b l true short,
    fun o ho => (outFault_other _ b l true short ho).trans (outs_onTrlOut_other s _ ho)⟩

theorem answers_compensationEnd (hon : s.alwaysOn = true) (hcomp : s.trl.outs[outIx b l].inComp = true)
    (hhalf : 2 * (s.ledger (outIx b l)).natAbs ≤ s.ledgerLimit) :
    Answers (.compensationEnd b l) s fun t => t.trl.outs[outIx b l].inComp = false ∧
      (∀ mv, s.trl.outs[outIx b l].level = .comp mv → t.trl.outs[outIx b l].level = s.trl.outs[outIx b l].rest) ∧
      ∀ o : Fin 384, o ≠ outIx b l → t.trl.outs[o] = s.trl.outs[o] := by
  refine answers_ifOn (f := (·.compEnd (outIx b l))) hon rfl ?_
  rw [compEnd_done hcomp hhalf, outs_onTrlOut]
  exact ⟨rfl, fun mv hlevel => stopComp_level hlevel _, fun o ho => (outs_onTrlOut_other _ _ ho).trans (stopComp_other s ho _)⟩

theorem answers_trlFaultClear (value : Word) (hup : s.up = true) : Answers (.trlFaultClear b value) s fun t =>
    t.reg (F.TRL_FAULT_addr b) = s.reg (F.TRL_FAULT_addr b) &&& ~~~value ∧
    ∀ l : Fin 6, t.trl.outs[outIx b l].pair = (s.trl.outs[outIx b l].pair || (s.outFaulted b l && !t.outFaulted b l)) := by
  refine answers_ifUp (f := (·.faultClear b value)) hup rfl ⟨?_, faultClear_pair s b value⟩
  rw [(faultClear_outsOnly s b value).reg]
  exact (State.reg_setReg s _ _ _).trans (if_pos rfl)

/-- APPLY in HOLD with no waveform running and no pass: the set is taken, or refused for its cause. -/
theorem exec_waveApply_ready {u : State} (hup : s.up = true) (hu : u = s.put F.TRL_WAVE_CTL_APPLY 1) (hhold : s.frm.hold = true)
    (hwave : s.noWave = true) (hpass : s.trl.pass = 0) : exec .waveApply s = .next (u.tryWave u.slotPeriod) := by
  subst hu
  exact exec_ifUp (f := fun s => (s.put F.TRL_WAVE_CTL_APPLY 1).tryWaveInHold) hup rfl (tryWaveInHold_ready hhold hwave hpass)

theorem answers_trellisInit (hup : s.up = true) (hpass : s.trl.pass = 0) (hrails : s.get F.HVPS_CTL_STATE = 2) :
    Answers .trellisInit s fun t => t.bit F.TRL_CTL_INIT = true ∧ t.bit F.TRL_CTL_INIT_DONE = false ∧ t.trl.pass = 1 ∧
      t.trl.passAt = s.now ∧ t.trl.passDue = BitVec.allOnes 64 := by
  have hstart : s.requestInit = s.startInit := by
    unfold State.requestInit State.railsOn
    rw [hpass, hrails]
    rfl
  refine answers_ifUp (f := State.requestInit) hup rfl ?_
  rw [hstart, startInit_trl]
  exact ⟨startInit_init s, startInit_done s, rfl, rfl, rfl⟩

theorem answers_initPassWaveform {x : Nat} (hup : s.up = true) (hpass : s.trl.pass = x + 1) (hdue : s.trl.passDue.getLsbD b = true)
    (hreached : s.reached (s.trl.passAt + BitVec.ofNat 32 (4000 * b.val)) = true) (hrows : s.bandRows b ≠ 0)
    (hrails : s.get F.HVPS_CTL_STATE = 2) : Answers (.initPassWaveform b) s fun t =>
      t.trl.passDue = s.trl.passDue &&& ~~~(1#64 <<< b.val) ∧ t.trl.pass = s.trl.pass ∧
      (b.val = 63 → t.trl.passEnd = s.lastEnd (s.trl.passAt + BitVec.ofNat 32 (4000 * b.val))) ∧
      ∀ l : Fin 6, t.trl.word[b].getLsbD l = (x == 0) ∧
        (s.outFaulted b l = false → waveTable s.actReg s.trlBand x ≠ [] →
          t.trl.outs[outIx b l].phases = (waveTable s.actReg s.trlBand x).map fun q => (levelOf q.1, q.2)) := by
  generalize ht : s.trl.passAt + BitVec.ofNat 32 (4000 * b.val) = t at hreached ⊢
  have hrun : (s.passTaken b t).wavesRun = true := by
    unfold State.wavesRun State.railsOn
    rw [show (s.passTaken b t).get F.HVPS_CTL_STATE = s.get F.HVPS_CTL_STATE from rfl, hrails]
    rfl
  refine answers_ifUp (f := (·.initWave b)) hup rfl ?_
  rw [initWave_due hpass hdue ht.symm hreached hrows]
  have hkept := WaveKept.startWave (s.passTaken b t) b (List.finRange 6) x t
  exact ⟨hkept.passDue, hkept.pass, fun hlast => hkept.passEnd.trans (if_pos hlast), startWave_layers b x t hrun⟩

theorem answers_trellisInitDone (hup : s.up = true) (hpass : s.trl.pass = 2) (hdue : s.trl.passDue = 0)
    (hreached : s.reached s.trl.passEnd = true) : Answers .trellisInitDone s fun t =>
      t.bit F.TRL_CTL_INIT = false ∧ t.bit F.TRL_CTL_INIT_DONE = true ∧ t.trl.pass = 0 ∧ t.evStatus 525 = true := by
  have hend : (s.trl.pass == 2 && s.trl.passDue == 0 && s.reached s.passEnd) = true := by
    rw [hpass, hdue, State.passEnd, hreached]
    rfl
  refine answers_ifUp (f := State.initDone) hup rfl ?_
  unfold State.initDone
  rw [hend, State.when_true]
  have h525 : srcTrl 13 < 1024 := by decide
  have hbit (u : State) (f : Field) (hf : f.addr = F.TRL_CTL_addr) : (u.raise (srcTrl 13)).tryWaveInHold.bit f = u.bit f :=
    congrArg (fun w => f.of w != 0) ((tryWaveInHold_reg_high _ _ (by rw [hf]; decide) (by rw [hf]; decide)).trans
      (raise_reg_high h525 (by rw [hf]; decide)))
  refine ⟨?_, ?_, ?_, tryWaveInHold_statusKept _ _ (by decide) (raise_evStatus h525)⟩
  · rw [hbit _ _ rfl, bit_put_other _ _ _ _ (by decide) (by decide)]
    exact bit_put _ _ 0 (by decide)
  · rw [hbit _ _ rfl]
    exact bit_put _ _ 1 (by decide)
  · rw [tryWaveInHold_pass, raise_trl h525]
    rfl

end Clauses

/-- Settles O45, clause by clause: phases, compensation, faults and waveform sets; then the initialisation. -/
theorem trellisWaveformsAndInit : Obligations.TrellisWaveformsAndInit := by
  unfold Obligations.TrellisWaveformsAndInit
  refine ⟨⟨fun s b l charge limited x hon hx hends => ⟨fun p lv d more u hphases hfirst hu => ?_,
      fun lv d => answers_trellisPhaseEnd_last hon hx hends, fun lv d more => answers_trellisPhaseEnd_open hon hx hends⟩,
    fun s b l => answers_compensationEnd, fun s b value => answers_trlFaultClear value, fun s hup => ⟨fun hbusy => ?_,
      fun u hu hhold hwave hpass => ?_⟩, fun s hup => exec_ifUp hup rfl rfl⟩,
    fun s hup hpass => ⟨fun hrails => ?_, answers_trellisInit hup hpass⟩, fun s b x => answers_initPassWaveform,
    fun s => answers_trellisInitDone⟩
  · have hexec := exec_trellisPhaseEnd_more (charge := charge) (limited := limited) hon hx hends hphases hfirst
    subst hx
    obtain rfl : u = s.phaseStarted (outIx b l) lv d more := hu
    refine ⟨fun hnot => hexec.trans ?_, fun hpair hsecond => hexec.trans ?_⟩
    · rw [if_neg fun h => hnot.elim h.1 fun hne => hne h.2]
    · rw [if_pos ⟨hpair, hsecond⟩]
      rfl
  · exact exec_ifUp (f := fun s => (s.put F.TRL_WAVE_CTL_APPLY 1).tryWaveInHold) hup rfl (tryWaveInHold_busy hbusy)
  · have hexec := exec_waveApply_ready hup hu hhold hwave hpass
    have hpending : u.bit F.TRL_WAVE_CTL_APPLY = true := hu ▸ bit_put s _ 1 (by decide)
    refine ⟨fun hlegal => ⟨_, hexec, ?_⟩, fun hcause => hexec.trans (congrArg _ (tryWave_refused hpending hcause))⟩
    rw [tryWave_taken hpending hlegal]
    refine ⟨waveTaken_apply u, fun a ha => (waveTaken_actReg u ha).trans ?_⟩
    rw [hu]
    exact reg_put_other s _ _ a (waveRegs_ne_ctl ha)
  · refine exec_ifUp (f := State.requestInit) hup rfl ?_
    unfold State.requestInit State.railsOn
    rw [hpass, beq_eq_false_iff_ne.2 hrails]
    rfl

end Sys2Proof.Machine
end

section
/-! The sequences of the high-voltage supplies: the settle sequence, power-off, faults of the rails, and the steps of power-on
(R289, R293, R294, R298, R299). -/

open Sys2Proof Sys2Proof.Machine

namespace Sys2Proof.Machine

/-! ## Ledgers counted up to now (R289) -/

section Ledger

variable (s u : State) (x : TrlOut) (t : Word)

theorem driven_of_no_step (h : x.steps t = 0) : u.driven x t = 0 := by
  unfold State.driven
  rw [h]
  split <;> simp

theorem upTo_acc_of_no_step (h : x.steps t = 0) : (u.upTo x t).acc = x.acc := by
  unfold State.upTo
  split
  · exact (congrArg (x.acc + ·) (driven_of_no_step u x t h)).trans (Int.add_zero _)
  · rfl

/-- What is left of a difference once its whole hundreds are taken off is below a hundred. -/
theorem sdiff_steps_taken (now since : Word) :
    (sdiff now (since + BitVec.ofNat 32 (100 * ((sdiff now since).toNat / 100)))).toNat / 100 = 0 := by
  unfold sdiff
  generalize hd : now - since = d
  have hrest (k : Word) : now - (since + k) = d - k := by rw [← hd]; bv_omega
  rw [hrest, BitVec.toInt_eq_toNat_cond, BitVec.toInt_eq_toNat_cond, BitVec.toNat_sub, BitVec.toNat_ofNat]
  have := d.isLt
  split <;> split <;> omega

/-- An output whose whole steps are counted up to now has none left. -/
theorem steps_countSteps : (s.countSteps x).steps s.now = 0 := sdiff_steps_taken s.now x.since

theorem outs_flushRails (o : Fin 384) : s.flushRails.trl.outs[o] = s.countSteps s.trl.outs[o] :=
  Vector.getElem_map s.countSteps o.isLt

end Ledger

/-! ## Registers and the supplies' own state -/

@[simp] theorem onHv_reg (s : State) (g : Hvps → Hvps) (a : Nat) : (s.onHv g).reg a = s.reg a := rfl

@[simp] theorem onHv_get (s : State) (g : Hvps → Hvps) (f : Field) : (s.onHv g).get f = s.get f := rfl

/-! ## The settle sequence (R294) -/

/-- The registers of the supplies lie above those of the faults. -/
theorem ne_fault_supply (b : Fin 64) : F.HVPS_CTL_addr ≠ F.TRL_FAULT_addr b := by
  unfold F.HVPS_CTL_addr F.TRL_FAULT_addr
  omega

/-- The state in which the outputs are about to be settled: ledgers counted up to now, STATE 4, the start noted. -/
def State.settleBegun (s : State) : State :=
  (s.flushRails.put F.HVPS_CTL_STATE 4).onHv fun h => { h with settle := some s.now }

theorem startSettle_eq (s : State) : s.startSettle = (List.finRange 384).foldl (fun u o => u.settleOut o s.now) s.settleBegun := rfl

theorem settleOut_outsOnly (u : State) (o : Fin 384) (t : Word) : OutsOnly u (u.settleOut o t) := .ite (.onTrlOut u _ _) (.refl u)

theorem settleOut_other (u : State) {o k : Fin 384} (h : k ≠ o) (t : Word) : (u.settleOut o t).trl.outs[k] = u.trl.outs[k] := by
  unfold State.settleOut
  dsimp only
  split
  · exact outs_onTrlOut_other u _ h
  · rfl

theorem settleOut_level {u : State} {o : Fin 384} (hidle : u.trl.outs[o].phases = []) (hpart : u.settles o = true) (t : Word) :
    (u.settleOut o t).trl.outs[o].level = against u.settleMv (u.upTo u.trl.outs[o] t).acc := by
  unfold State.settleOut
  dsimp only
  have hturn : (u.trl.outs[o].phases.isEmpty && u.settles o) = true := by
    rw [hidle, hpart]
    rfl
  rw [if_pos hturn, outs_onTrlOut]

theorem startSettle_outsOnly (s : State) : OutsOnly s.settleBegun s.startSettle := by
  rw [startSettle_eq]
  generalize List.finRange 384 = outs
  exact .foldl (fun u o => settleOut_outsOnly u o s.now) outs _

theorem settleBegun_reg (s : State) {a : Nat} (h : a ≠ F.HVPS_CTL_addr) : s.settleBegun.reg a = s.reg a :=
  reg_put_other s.flushRails _ 4 a h

theorem settleBegun_settles (s : State) (o : Fin 384) : s.settleBegun.settles o = s.settles o := by
  unfold State.settles
  rw [outFaulted_of_reg (settleBegun_reg s (ne_fault_supply _).symm)]
  rfl

theorem settleBegun_settleMv (s : State) : s.settleBegun.settleMv = s.settleMv := by
  unfold State.settleMv
  rw [vcomp_of_reg (settleBegun_reg s (by decide))]

theorem settleBegun_state (s : State) : s.settleBegun.get F.HVPS_CTL_STATE = 4 := by
  unfold State.settleBegun
  rw [onHv_get, State.get_put _ _ _ (by decide)]
  rfl

theorem startSettle_state (s : State) : s.startSettle.get F.HVPS_CTL_STATE = 4 :=
  ((startSettle_outsOnly s).keeps (·.get F.HVPS_CTL_STATE) fun _ _ => rfl).trans (settleBegun_state s)

theorem startSettle_hv (s : State) : s.startSettle.hv = { s.hv with settle := some s.now } := (startSettle_outsOnly s).hv

/-- An output that takes part and runs no waveform is driven against its ledger as it stands. -/
theorem startSettle_level {s : State} {o : Fin 384} (hidle : s.trl.outs[o].phases = []) (hpart : s.settles o = true) :
    s.startSettle.trl.outs[o].level = against s.settleMv (s.trl.outs[o].acc + s.driven s.trl.outs[o] s.now) := by
  have hbegun : s.settleBegun.trl.outs[o] = s.countSteps s.trl.outs[o] := outs_flushRails s o
  have hmem := List.mem_finRange o
  have hnodup := List.nodup_finRange 384
  rw [startSettle_eq]
  generalize List.finRange 384 = outs at hmem hnodup ⊢
  obtain ⟨u, hu, hout, hsettle⟩ := foldl_once (P := OutsOnly s.settleBegun) (g := fun u : State => u.trl.outs[o])
    (f := fun u k => u.settleOut k s.now) (fun u k hu => hu.trans (settleOut_outsOnly u k s.now))
    (fun u k hk => settleOut_other u hk.symm s.now) hmem hnodup (.refl s.settleBegun)
  replace hout := hout.trans hbegun
  have hidle' : u.trl.outs[o].phases = [] := (congrArg TrlOut.phases hout).trans hidle
  have hpart' : u.settles o = true := ((hu.keeps (·.settles o) fun _ _ => rfl).trans (settleBegun_settles s o)).trans hpart
  refine (congrArg TrlOut.level hsettle).trans ((settleOut_level hidle' hpart' s.now).trans ?_)
  rw [hu.keeps State.settleMv fun _ _ => rfl, settleBegun_settleMv, hout, upTo_acc_of_no_step _ _ _ (steps_countSteps s _)]
  rfl

/-! ## Power-off (R298, R299) -/

/-- The state with every output at high impedance, no band lit and no pass of the initialisation. -/
def State.outsOff (s : State) : State :=
  { s with trl := { s.trl with outs := s.trl.outs.map s.toHiZ, bands := s.trl.bands.map BandDrive.unlit, pass := 0 } }

theorem powerOff_eq (s : State) : s.powerOff =
    (s.outsOff.put F.HVPS_CTL_STATE 3).onHv fun h => { h with start := s.now, step := 0, settle := none, dis := true } := rfl

theorem powerOff_state (s : State) : s.powerOff.get F.HVPS_CTL_STATE = 3 := by
  rw [powerOff_eq, onHv_get, State.get_put _ _ _ (by decide)]
  rfl

theorem powerOff_reg (s : State) {a : Nat} (h : a ≠ F.HVPS_CTL_addr) : s.powerOff.reg a = s.reg a := by
  rw [powerOff_eq, onHv_reg, reg_put_other _ _ _ _ h]
  rfl

theorem evStat_ne_supply {n : Nat} (h : n < 1024) : F.EVT_STAT_addr (n / 32) ≠ F.HVPS_CTL_addr := by
  unfold F.EVT_STAT_addr F.HVPS_CTL_addr
  omega

theorem powerOff_evStatus (s : State) {n : Nat} (h : n < 1024) : s.powerOff.evStatus n = s.evStatus n :=
  congrArg (fun w => w.getLsbD (n % 32)) (powerOff_reg s (evStat_ne_supply h))

theorem powerOff_out (s : State) (o : Fin 384) : s.powerOff.trl.outs[o] = s.toHiZ s.trl.outs[o] := Vector.getElem_map s.toHiZ o.isLt

theorem powerOff_hiz (s : State) (o : Fin 384) : s.powerOff.trl.outs[o].level = .hiz ∧ s.powerOff.trl.outs[o].phases = [] := by
  rw [powerOff_out]
  exact ⟨rfl, rfl⟩

theorem goaDis_of_dis {s : State} (h : s.hv.dis = true) : s.goaDis = true := by
  unfold State.goaDis
  rw [h, Bool.or_true]
  rfl

/-- The converters run in states 1, 2 and 4. -/
theorem converting_iff {s : State} : s.converting = true ↔
    s.get F.HVPS_CTL_STATE = 1 ∨ s.get F.HVPS_CTL_STATE = 2 ∨ s.get F.HVPS_CTL_STATE = 4 := by
  unfold State.converting State.hvState
  simp only [Bool.or_eq_true, beq_iff_eq, or_assoc]

theorem hvRuns_of_up {s : State} (h : s.up = true) : s.hvRuns = true := by
  unfold State.up at h
  unfold State.hvRuns
  cases hmode : s.mode <;> simp_all

/-- The power-off of a fault has started: STATE 3, to end in 5, GOA_DIS high. -/
structure FaultOff (t : State) : Prop where
  state : t.get F.HVPS_CTL_STATE = 3
  faulted : t.hv.faulted = true
  goaDis : t.goaDis = true

theorem faultOff_spec (s : State) : FaultOff s.faultOff := ⟨powerOff_state s, rfl, goaDis_of_dis (s := s.faultOff) rfl⟩

theorem faultNow_converting {s : State} (h : s.converting = true) : s.faultNow = s.faultOff := if_pos h

theorem faultNow_falling {s : State} (h : s.get F.HVPS_CTL_STATE = 3) : s.faultNow = s.onHv fun h => { h with faulted := true } := by
  unfold State.faultNow State.converting State.hvState
  rw [h]
  rfl

theorem faultNow_reg (s : State) {a : Nat} (h : a ≠ F.HVPS_CTL_addr) : s.faultNow.reg a = s.reg a := by
  unfold State.faultNow State.when
  split
  · exact powerOff_reg s h
  · split <;> rfl

theorem faultNow_evStatus (s : State) {n : Nat} (h : n < 1024) : s.faultNow.evStatus n = s.evStatus n :=
  congrArg (fun w => w.getLsbD (n % 32)) (faultNow_reg s (evStat_ne_supply h))

/-! ## Faults of the rails (R299, R303) -/

/-- The field of a kind of fault, and the source of its event for rail 0. -/
def railSource : RailFaultKind → Field × Nat
  | .uv => (F.HVPS_FAULT_UV, 880)
  | .ov => (F.HVPS_FAULT_OV, 884)
  | .oc => (F.HVPS_FAULT_OC, 888)
  | .noStart => (F.HVPS_FAULT_NOSTART, 892)

section Rail

variable {s : State} {kind : RailFaultKind} {f : Field} {n : Nat}

theorem railBit_eq (h : (f, n) = railSource kind) (s : State) (k : Fin 4) :
    s.railBit kind k = (s.put f (s.get f ||| 2 ^ k.val)).raise (n + k) := by
  have hsrc {m first : Nat} (h : 880 + m = first) : srcHvps (m + k) = first + k := by
    unfold srcHvps
    omega
  cases kind <;> obtain ⟨rfl, rfl⟩ := Prod.mk.inj h <;> exact congrArg (State.raise _) (hsrc rfl)

theorem railSource_field (h : (f, n) = railSource kind) : f.addr = F.HVPS_FAULT_addr ∧ f.w = 4 ∧ f.lo + f.w ≤ 32 ∧ n ≤ 892 := by
  cases kind <;> obtain ⟨rfl, rfl⟩ := Prod.mk.inj h <;> decide

theorem railBit_get (h : (f, n) = railSource kind) (s : State) (k : Fin 4) :
    (s.railBit kind k).get f = (s.get f ||| 2 ^ k.val) % 2 ^ f.w := by
  obtain ⟨haddr, -, hfit, hn⟩ := railSource_field h
  rw [railBit_eq h, raise_get_high (by omega) (by rw [haddr]; decide), State.get_put _ _ _ hfit]

theorem railBit_set (h : (f, n) = railSource kind) (s : State) (k : Fin 4) : ((s.railBit kind k).get f).testBit k = true := by
  obtain ⟨-, hw, -, -⟩ := railSource_field h
  rw [railBit_get h, Nat.testBit_mod_two_pow, Nat.testBit_or, Nat.testBit_two_pow_self, Bool.or_true, hw, decide_eq_true k.isLt]
  rfl

/-- A fault bit that is set stays set at the fault of another rail. -/
theorem railBit_keeps (h : (f, n) = railSource kind) (k j : Fin 4) (hset : (s.get f).testBit k = true) :
    ((s.railBit kind j).get f).testBit k = true := by
  obtain ⟨-, hw, -, -⟩ := railSource_field h
  rw [railBit_get h, Nat.testBit_mod_two_pow, Nat.testBit_or, hset, Bool.true_or, hw, decide_eq_true k.isLt]
  rfl

theorem railBit_evStatus (h : (f, n) = railSource kind) (s : State) (k : Fin 4) : (s.railBit kind k).evStatus (n + k) = true := by
  obtain ⟨-, -, -, hn⟩ := railSource_field h
  rw [railBit_eq h]
  exact raise_evStatus (by omega)

theorem railBit_statusKept (s : State) (kind : RailFaultKind) (k : Fin 4) : StatusKept s (s.railBit kind k) := by
  obtain ⟨haddr, -, -, hn⟩ := railSource_field (kind := kind) rfl
  intro m hm hs
  rw [railBit_eq rfl]
  exact raise_statusKept (by omega) m hm ((evStatus_put_high hm (by rw [haddr]; decide)).trans hs)

theorem railBit_hv (s : State) (kind : RailFaultKind) (k : Fin 4) : (s.railBit kind k).hv = s.hv := by
  obtain ⟨-, -, -, hn⟩ := railSource_field (kind := kind) rfl
  rw [railBit_eq rfl, raise_hv (by omega), State.put_hv]

theorem railBit_state (s : State) (kind : RailFaultKind) (k : Fin 4) :
    (s.railBit kind k).get F.HVPS_CTL_STATE = s.get F.HVPS_CTL_STATE := by
  obtain ⟨haddr, -, -, hn⟩ := railSource_field (kind := kind) rfl
  rw [railBit_eq rfl, raise_get_high (by omega) (by decide)]
  exact State.get_put_other _ _ _ _ (by decide) (.inl (by rw [haddr]; decide))

end Rail

/-! ## Power-on (R298) -/

/-- The output of a layer goes to 0 V, unless it is faulted. -/
def State.layerZeroed (s : State) (b : Fin 64) (u : State) (l : Fin 6) : State :=
  if u.outFaulted b l then u else u.onTrlOut (outIx b l) fun x => { x with since := s.now, level := .zero, rest := .zero }

/-- Every output that is not faulted goes to 0 V. -/
def State.outsZeroed (s u : State) : State :=
  (List.finRange 64).foldl (fun u b => (List.finRange 6).foldl (s.layerZeroed b) u) u

section PowerOn

variable {s : State}

theorem layerZeroed_outsOnly (s : State) (b : Fin 64) (u : State) (l : Fin 6) : OutsOnly u (s.layerZeroed b u l) :=
  .ite (.refl u) (.onTrlOut u _ _)

theorem layerZeroed_other (s : State) (b : Fin 64) (u : State) (l : Fin 6) {k : Fin 384} (h : k ≠ outIx b l) :
    (s.layerZeroed b u l).trl.outs[k] = u.trl.outs[k] := by
  unfold State.layerZeroed
  split
  · rfl
  · exact outs_onTrlOut_other u _ h

theorem bandZeroed_outsOnly (s : State) (b : Fin 64) (u : State) : OutsOnly u ((List.finRange 6).foldl (s.layerZeroed b) u) :=
  .foldl (layerZeroed_outsOnly s b) _ u

theorem outsZeroed_outsOnly (s u : State) : OutsOnly u (s.outsZeroed u) := by
  unfold State.outsZeroed
  generalize List.finRange 64 = bands
  exact .foldl (fun u b => bandZeroed_outsOnly s b u) bands u

theorem outsZeroed_level (s : State) {u : State} {b : Fin 64} {l : Fin 6} (hsound : u.outFaulted b l = false) :
    (s.outsZeroed u).trl.outs[outIx b l].level = .zero := by
  obtain ⟨v, hv, -, hband⟩ := foldl_once (P := OutsOnly u) (g := fun v : State => v.trl.outs[outIx b l])
    (f := fun v c => (List.finRange 6).foldl (s.layerZeroed c) v) (fun v c hv => hv.trans (bandZeroed_outsOnly s c v))
    (fun v c hc => foldl_keeps (fun v : State => v.trl.outs[outIx b l])
      (fun v k => layerZeroed_other s c v k fun e => hc (outIx_inj.1 e).1.symm) (List.finRange 6) v)
    (List.mem_finRange b) (List.nodup_finRange 64) (.refl u)
  obtain ⟨w, hw, -, hlayer⟩ := foldl_once (P := OutsOnly u) (g := fun v : State => v.trl.outs[outIx b l]) (f := s.layerZeroed b)
    (fun v k hv => hv.trans (layerZeroed_outsOnly s b v k)) (fun v k hk => layerZeroed_other s b v k (outIx_ne_of_layer b hk.symm))
    (List.mem_finRange l) (List.nodup_finRange 6) hv
  have hsound' : w.outFaulted b l = false := (hw.keeps (·.outFaulted b l) fun _ _ => rfl).trans hsound
  refine (congrArg TrlOut.level (hband.trans hlayer)).trans ?_
  unfold State.layerZeroed
  rw [hsound', if_neg Bool.false_ne_true, outs_onTrlOut]

/-- The state with the sequence at its next instant. -/
def State.railStepped (s : State) : State := s.onHv fun h => { h with step := h.step + 1 }

theorem onStep_fails {reached : BitVec 4} {ns : Nat} {rails : List (Fin 4)} (htable : onTable[s.hv.step]? = some (ns, rails))
    (hdue : s.reached (s.hv.start + BitVec.ofNat 32 ns) = true) {k : Fin 4} (hk : k ∈ rails) (hlow : reached.getLsbD k = false) :
    ∃ bad : List (Fin 4), k ∈ bad ∧ s.onStep reached = (bad.foldl (fun u j => u.railBit .noStart j) s).faultOff := by
  have hbad : k ∈ rails.filter fun j : Fin 4 => !reached.getLsbD j := List.mem_filter.2 ⟨hk, by rw [hlow]; rfl⟩
  refine ⟨_, hbad, ?_⟩
  unfold State.onStep
  rw [htable]
  dsimp only
  rw [hdue, State.when_true, List.isEmpty_eq_false_iff.2 (List.ne_nil_of_mem hbad)]
  rfl

theorem onStep_goes {reached : BitVec 4} {ns : Nat} {rails : List (Fin 4)} (htable : onTable[s.hv.step]? = some (ns, rails))
    (hdue : s.reached (s.hv.start + BitVec.ofNat 32 ns) = true) (hall : ∀ k ∈ rails, reached.getLsbD k.val = true) :
    s.onStep reached = if s.hv.step = 2 then s.outsZeroed s.railStepped
      else if s.hv.step = 3 then s.railStepped.powerOnDone else if s.hv.step = 0 then s.railStepped.powerGoa true else s.railStepped := by
  have hgood : (rails.filter fun j : Fin 4 => !reached.getLsbD j) = [] :=
    List.filter_eq_nil_iff.2 fun j hj => by rw [hall j hj]; decide
  unfold State.onStep
  rw [htable]
  dsimp only
  rw [hdue, State.when_true, hgood]
  rfl

end PowerOn

end Sys2Proof.Machine
end

section
/-! Commands of the high-voltage supplies (R289, R293, R294, R296, R298, R299, R302, R303), and the supplies' obligation. -/

open Sys2Proof Sys2Proof.Machine

namespace Sys2Proof.Machine

variable {s : State}

/-! ## A raise on a condition -/

section RaiseIf

variable (s : State) (c : Bool) {n : Nat} (h : n < 1024)
include h

theorem raiseIf_frame : RaiseFrame s (s.raiseIf c n) := by
  cases c with
  | false => rfl
  | true => exact raise_frame h

theorem raiseIf_statusKept : StatusKept s (s.raiseIf c n) := by
  cases c with
  | false => exact fun _ _ hs => hs
  | true => exact raise_statusKept h

theorem raiseIf_hv : (s.raiseIf c n).hv = s.hv := (congrArg State.hv (raiseIf_frame s c h) :)
theorem raiseIf_trl : (s.raiseIf c n).trl = s.trl := (congrArg State.trl (raiseIf_frame s c h) :)
theorem raiseIf_mode : (s.raiseIf c n).mode = s.mode := (congrArg State.mode (raiseIf_frame s c h) :)

end RaiseIf

/-! ## ON and OFF (R298, R293) -/

/-- The state with GOA_DIS held high. -/
def State.goaHeld (s : State) : State := s.onHv fun h => { h with dis := true }

theorem hvpsOff_eq (h : s.converting = true) : s.hvpsOff = s.goaHeld.settleDown := by
  unfold State.hvpsOff
  rw [h]
  rfl

/-- Outputs that are driven are settled first. -/
theorem hvpsOff_settles (h : s.get F.HVPS_CTL_STATE = 2 ∨ (s.get F.HVPS_CTL_STATE = 1 ∧ 3 ≤ s.hv.step)) :
    s.hvpsOff = s.goaHeld.startSettle := by
  rw [hvpsOff_eq (converting_iff.2 (h.elim (fun h => .inr (.inl h)) fun h => .inl h.1))]
  exact if_pos h

/-- Outputs that are not driven yet go off at once. -/
theorem hvpsOff_early (h : s.get F.HVPS_CTL_STATE = 1) (hstep : s.hv.step < 3) : s.hvpsOff = s.goaHeld.powerOff := by
  rw [hvpsOff_eq (converting_iff.2 (.inl h))]
  unfold State.settleDown State.hvState State.goaHeld
  rw [onHv_get, h]
  exact if_neg fun hor => hor.elim (by decide) fun hlate => Nat.not_le.2 hstep hlate.2

/-- OFF settles, powers off, or changes nothing but GOA_DIS. -/
theorem settleDown_cases (s : State) : s.settleDown = s.startSettle ∨ s.settleDown = s.powerOff ∨ s.settleDown = s := by
  unfold State.settleDown
  split
  · exact .inl rfl
  · split
    · exact .inr (.inl rfl)
    · exact .inr (.inr rfl)

theorem startSettle_reg (s : State) {a : Nat} (h : a ≠ F.HVPS_CTL_addr) : s.startSettle.reg a = s.reg a :=
  ((startSettle_outsOnly s).reg a).trans (settleBegun_reg s h)

theorem settleDown_reg (s : State) {a : Nat} (h : a ≠ F.HVPS_CTL_addr) : s.settleDown.reg a = s.reg a := by
  obtain e | e | e := settleDown_cases s
  · rw [e, startSettle_reg s h]
  · rw [e, powerOff_reg s h]
  · rw [e]

theorem settleDown_dis (s : State) (h : s.hv.dis = true) : s.settleDown.hv.dis = true := by
  obtain e | e | e := settleDown_cases s
  · rw [e, startSettle_hv]
    exact h
  · rw [e]
    rfl
  · rw [e, h]

theorem settleDown_brown (s : State) : s.settleDown.hv.brown = s.hv.brown := by
  obtain e | e | e := settleDown_cases s
  · rw [e, startSettle_hv]
  · rw [e]
    rfl
  · rw [e]

theorem exec_hvpsOn (hup : s.up = true) (h : s.get F.HVPS_CTL_STATE = 0 ∨ s.get F.HVPS_CTL_STATE = 5) :
    exec .hvpsOn s = .next ((s.onHv fun h => { h with restarts := 0 }).powerOn false) := by
  refine exec_when (g := fun u => u.hvState == 0 || u.hvState == 5) (f := fun u => (u.onHv fun h => { h with restarts := 0 }).powerOn false)
    hup rfl ?_ rfl
  exact Bool.or_eq_true_iff.2 (h.imp beq_iff_eq.2 beq_iff_eq.2)

theorem answers_hvpsOff_settles (hup : s.up = true)
    (h : s.get F.HVPS_CTL_STATE = 2 ∨ (s.get F.HVPS_CTL_STATE = 1 ∧ 3 ≤ s.hv.step)) : Answers .hvpsOff s fun t =>
      t.get F.HVPS_CTL_STATE = 4 ∧ t.hv = { s.hv with dis := true, settle := some s.now } ∧ t.goaDis = true ∧
      ∀ o : Fin 384, s.trl.outs[o].phases = [] → s.settles o = true →
        t.trl.outs[o].level = against s.settleMv (s.trl.outs[o].acc + s.driven s.trl.outs[o] s.now) := by
  refine answers_ifUp (f := State.hvpsOff) hup rfl ?_
  have hhv := startSettle_hv s.goaHeld
  rw [hvpsOff_settles h]
  exact ⟨startSettle_state _, hhv, goaDis_of_dis (by rw [hhv]; rfl), fun o => startSettle_level (s := s.goaHeld)⟩

theorem answers_hvpsOff_early (hup : s.up = true) (h : s.get F.HVPS_CTL_STATE = 1) (hstep : s.hv.step < 3) :
    Answers .hvpsOff s fun t => t.get F.HVPS_CTL_STATE = 3 ∧ t.hv.step = 0 ∧ t.hv.start = s.now ∧ t.goaDis = true ∧
      ∀ o : Fin 384, t.trl.outs[o].level = .hiz ∧ t.trl.outs[o].phases = [] := by
  refine answers_ifUp (f := State.hvpsOff) hup rfl ?_
  rw [hvpsOff_early h hstep]
  exact ⟨powerOff_state _, rfl, rfl, goaDis_of_dis (s := s.goaHeld.powerOff) rfl, powerOff_hiz _⟩

/-! ## Steps of the sequences (R298) -/

theorem exec_railSeqStep_on (reached : BitVec 4) (hup : s.up = true) (h : s.get F.HVPS_CTL_STATE = 1) :
    exec (.railSeqStep reached) s = .next (s.onStep reached) := by
  refine congrArg _ (?_ : s.railStep reached = _)
  unfold State.railStep State.hvState
  rw [hvRuns_of_up hup, h]
  rfl

theorem exec_railSeqStep_off (reached : BitVec 4) (hup : s.up = true) (h : s.get F.HVPS_CTL_STATE = 3) :
    exec (.railSeqStep reached) s = .next s.offStep := by
  refine congrArg _ (?_ : s.railStep reached = _)
  unfold State.railStep State.hvState
  rw [hvRuns_of_up hup, h]
  rfl

/-- Of the rails that do not reach 90 %, each has its NOSTART bit set and its event raised. -/
theorem railBits_noStart {bad : List (Fin 4)} {k : Fin 4} (hk : k ∈ bad) (s : State) :
    ((bad.foldl (fun u j => u.railBit .noStart j) s).get F.HVPS_FAULT_NOSTART).testBit k = true ∧
      (bad.foldl (fun u j => u.railBit .noStart j) s).evStatus (892 + k) = true :=
  foldl_attains (I := fun _ => True) (P := fun u : State => (u.get F.HVPS_FAULT_NOSTART).testBit k = true ∧ u.evStatus (892 + k) = true)
    (fun _ _ _ => trivial)
    (fun u j hu => ⟨railBit_keeps (kind := .noStart) rfl k j hu.1, railBit_statusKept u .noStart j _ (by omega) hu.2⟩)
    (fun u _ => ⟨railBit_set (kind := .noStart) rfl u k, railBit_evStatus (kind := .noStart) rfl u k⟩) hk trivial

theorem answers_railSeqStep_fails {reached : BitVec 4} {ns : Nat} {rails : List (Fin 4)} (hup : s.up = true)
    (hstate : s.get F.HVPS_CTL_STATE = 1) (htable : onTable[s.hv.step]? = some (ns, rails))
    (hdue : s.reached (s.hv.start + BitVec.ofNat 32 ns) = true) {k : Fin 4} (hk : k ∈ rails) (hlow : reached.getLsbD k = false) :
    Answers (.railSeqStep reached) s fun t =>
      (t.get F.HVPS_FAULT_NOSTART).testBit k = true ∧ t.evStatus (892 + k) = true ∧ t.get F.HVPS_CTL_STATE = 3 ∧
      t.hv.faulted = true ∧ t.goaDis = true := by
  obtain ⟨bad, hbad, hstep⟩ := onStep_fails htable hdue hk hlow
  refine ⟨_, exec_railSeqStep_on reached hup hstate, ?_⟩
  rw [hstep]
  obtain ⟨hset, hevent⟩ := railBits_noStart hbad s
  obtain ⟨hoff, hfaulted, hdis⟩ := faultOff_spec (bad.foldl (fun u j => u.railBit .noStart j) s)
  refine ⟨?_, (powerOff_evStatus _ (by omega)).trans hevent, hoff, hfaulted, hdis⟩
  exact (congrArg (fun w => (F.HVPS_FAULT_NOSTART.of w).testBit k) (powerOff_reg _ (by decide))).trans hset

@[simp] theorem setGoa_reg (s : State) (g : Goa) (a : Nat) : (s.setGoa g).reg a = s.reg a := by
  unfold State.setGoa
  dsimp only
  split <;> rfl

@[simp] theorem setGoa_goa (s : State) (g : Goa) : (s.setGoa g).trl.goa = g := by
  unfold State.setGoa
  dsimp only
  split <;> rfl

@[simp] theorem setGoa_hv (s : State) (g : Goa) : (s.setGoa g).hv = s.hv := by
  unfold State.setGoa
  dsimp only
  split <;> rfl

theorem answers_railSeqStep_goes {reached : BitVec 4} {ns : Nat} {rails : List (Fin 4)} (hup : s.up = true)
    (hstate : s.get F.HVPS_CTL_STATE = 1) (htable : onTable[s.hv.step]? = some (ns, rails))
    (hdue : s.reached (s.hv.start + BitVec.ofNat 32 ns) = true) (hall : ∀ k ∈ rails, reached.getLsbD k.val = true)
    (hstep : s.hv.step < 3) : Answers (.railSeqStep reached) s fun t =>
      t.hv = { s.hv with step := s.hv.step + 1 } ∧ t.get F.HVPS_CTL_STATE = 1 ∧ (s.hv.step = 0 → t.trl.goa.on = true) ∧
      (s.hv.step = 2 → ∀ (b : Fin 64) (l : Fin 6), s.outFaulted b l = false → t.trl.outs[outIx b l].level = .zero) := by
  refine ⟨_, exec_railSeqStep_on reached hup hstate, ?_⟩
  rw [onStep_goes htable hdue hall, if_neg (Nat.ne_of_lt hstep)]
  by_cases h2 : s.hv.step = 2
  · have hzeroed := outsZeroed_outsOnly s s.railStepped
    rw [if_pos h2]
    exact ⟨hzeroed.hv, (hzeroed.keeps (·.get F.HVPS_CTL_STATE) fun _ _ => rfl).trans hstate,
      fun h0 => absurd (h2.symm.trans h0) (by decide), fun _ b l hsound => outsZeroed_level s (u := s.railStepped) hsound⟩
  · rw [if_neg h2]
    by_cases h0 : s.hv.step = 0
    · rw [if_pos h0]
      unfold State.powerGoa
      refine ⟨setGoa_hv s.railStepped _, (congrArg F.HVPS_CTL_STATE.of (setGoa_reg s.railStepped _ _)).trans hstate,
        fun _ => ?_, fun h => absurd h h2⟩
      rw [setGoa_goa]
    · rw [if_neg h0]
      exact ⟨rfl, hstate, fun h => absurd h h0, fun h => absurd h h2⟩

/-- The state with the power-on sequence complete, before an initialisation that is due. -/
def State.railsUp (s : State) : State :=
  (((s.put F.HVPS_CTL_STATE 2).onHv fun h => { h with restarts := 0, dis := false }).startComps).raise 896

theorem powerOnDone_eq (s : State) : s.powerOnDone =
    if s.railsUp.bit F.TRL_CTL_INIT || (!s.railsUp.hv.noInit && s.railsUp.bit F.TRL_CTL_AUTO_INIT) then s.railsUp.startInit
    else s.railsUp := rfl

theorem railsUp_hv (s : State) : s.railsUp.hv = { s.hv with restarts := 0, dis := false } :=
  (raise_hv (by decide)).trans (OutsOnly.startComps _).hv

theorem railsUp_reg (s : State) {a : Nat} (ha : 0x50000 ≤ a) : s.railsUp.reg a = (s.put F.HVPS_CTL_STATE 2).reg a :=
  (raise_reg_high (by decide) ha).trans ((OutsOnly.startComps _).reg a)

theorem railsUp_ctl (s : State) (f : Field) (hf : f.addr = F.TRL_CTL_addr) : s.railsUp.bit f = s.bit f :=
  congrArg (fun w => f.of w != 0) ((railsUp_reg s (by rw [hf]; decide)).trans (reg_put_other _ _ _ _ (by rw [hf]; decide)))

theorem railsUp_state (s : State) : s.railsUp.get F.HVPS_CTL_STATE = 2 :=
  (congrArg F.HVPS_CTL_STATE.of (railsUp_reg s (by decide))).trans (State.get_put s _ 2 (by decide))

theorem powerOnDone_spec (s : State) : s.powerOnDone.get F.HVPS_CTL_STATE = 2 ∧
    s.powerOnDone.hv = { s.hv with restarts := 0, dis := false } ∧ s.powerOnDone.evStatus 896 = true := by
  have hevent : s.railsUp.evStatus 896 = true := raise_evStatus (by decide)
  rw [powerOnDone_eq]
  split
  · exact ⟨(congrArg F.HVPS_CTL_STATE.of (startInit_reg _ (by decide) (by decide) (by decide) (by decide))).trans (railsUp_state s),
      (startInit_hv _).trans (railsUp_hv s), startInit_statusKept _ _ (by decide) hevent⟩
  · exact ⟨railsUp_state s, railsUp_hv s, hevent⟩

/-- An initialisation that was asked for, or comes with power-on, starts. -/
theorem powerOnDone_pass (h : s.bit F.TRL_CTL_INIT = true ∨ (s.hv.noInit = false ∧ s.bit F.TRL_CTL_AUTO_INIT = true)) :
    s.powerOnDone.trl.pass = 1 := by
  rw [powerOnDone_eq, railsUp_hv, railsUp_ctl _ _ rfl, railsUp_ctl _ _ rfl, if_pos, startInit_trl]
  obtain h | ⟨hwake, hauto⟩ := h
  · rw [h, Bool.true_or]
  · rw [hwake, hauto, Bool.not_false, Bool.true_and, Bool.or_true]

theorem answers_railSeqStep_done {reached : BitVec 4} {ns : Nat} {rails : List (Fin 4)} (hup : s.up = true)
    (hstate : s.get F.HVPS_CTL_STATE = 1) (htable : onTable[s.hv.step]? = some (ns, rails))
    (hdue : s.reached (s.hv.start + BitVec.ofNat 32 ns) = true) (hstep : s.hv.step = 3) : Answers (.railSeqStep reached) s fun t =>
      t.get F.HVPS_CTL_STATE = 2 ∧ t.hv.restarts = 0 ∧ t.hv.dis = false ∧ t.evStatus 896 = true ∧
      (s.bit F.TRL_CTL_INIT = true ∨ (s.hv.noInit = false ∧ s.bit F.TRL_CTL_AUTO_INIT = true) → t.trl.pass = 1) := by
  have hnone : rails = [] := by
    rw [hstep] at htable
    exact (Prod.mk.inj (Option.some.inj htable)).2.symm
  refine ⟨_, exec_railSeqStep_on reached hup hstate, ?_⟩
  rw [onStep_goes htable hdue (by rw [hnone]; exact nofun), hstep]
  obtain ⟨hon, hhv, hevent⟩ := powerOnDone_spec s.railStepped
  exact ⟨hon, congrArg Hvps.restarts hhv, congrArg Hvps.dis hhv, hevent, powerOnDone_pass (s := s.railStepped)⟩

theorem offStep_due {ns : Nat} (htable : offTable[s.hv.step]? = some ns) (hdue : s.reached (s.hv.start + BitVec.ofNat 32 ns) = true) :
    s.offStep = if s.hv.step = 2 then s.powerOffDone else (if s.hv.step = 1 then s.powerGoa false else s).railStepped := by
  unfold State.offStep
  rw [htable]
  dsimp only
  rw [hdue]
  rfl

/-- The instants of power-off before its last. -/
theorem offTable_early {i : Nat} (h : i < 2) : offTable[i]? = some (1500000 * (i + 1)) := by
  obtain rfl | rfl : i = 0 ∨ i = 1 := by omega
  · rfl
  · rfl

/-- The state with the power-off sequence complete: event 17. -/
def State.railsOff (s : State) : State :=
  ((s.put F.HVPS_CTL_STATE (if s.hv.faulted then 5 else 0)).onHv fun h => { h with start := s.now, offAt := s.clock }).raise 897

/-- The same, with event 21 where no restart is left. -/
def State.railsGone (s : State) : State :=
  s.railsOff.raiseIf (s.railsOff.hv.faulted && s.railsOff.bit F.HVPS_CTL_AUTO_RESTART && decide (3 ≤ s.railsOff.hv.restarts)) 901

theorem powerOffDone_eq (s : State) : s.powerOffDone =
    if s.railsGone.bit F.TMON_SD_CAUSE_VALID then { s.railsGone with mode := .shutdown } else s.railsGone := rfl

theorem railsOff_hv (s : State) : s.railsOff.hv = { s.hv with start := s.now, offAt := s.clock } := raise_hv (by decide)

theorem railsGone_hv (s : State) : s.railsGone.hv = { s.hv with start := s.now, offAt := s.clock } :=
  (raiseIf_hv _ _ (by decide)).trans (railsOff_hv s)

theorem railsOff_reg (s : State) {a : Nat} (ha : 0x50000 ≤ a) :
    s.railsOff.reg a = (s.put F.HVPS_CTL_STATE (if s.hv.faulted then 5 else 0)).reg a := raise_reg_high (by decide) ha

theorem railsOff_restart (s : State) : s.railsOff.bit F.HVPS_CTL_AUTO_RESTART = s.bit F.HVPS_CTL_AUTO_RESTART :=
  (congrArg (fun w => F.HVPS_CTL_AUTO_RESTART.of w != 0) (railsOff_reg s (by decide))).trans
    (bit_put_other _ _ _ _ (by decide) (by decide))

theorem railsGone_reg (s : State) {a : Nat} (ha : 0x50000 ≤ a) :
    s.railsGone.reg a = (s.put F.HVPS_CTL_STATE (if s.hv.faulted then 5 else 0)).reg a :=
  (raiseIf_reg_high _ _ (by decide) ha).trans (railsOff_reg s ha)

theorem railsGone_state (s : State) : s.railsGone.get F.HVPS_CTL_STATE = if s.hv.faulted then 5 else 0 := by
  refine (congrArg F.HVPS_CTL_STATE.of (railsGone_reg s (by decide))).trans ((State.get_put _ _ _ (by decide)).trans ?_)
  cases s.hv.faulted <;> rfl

theorem railsGone_shutdown (s : State) : s.railsGone.bit F.TMON_SD_CAUSE_VALID = s.bit F.TMON_SD_CAUSE_VALID :=
  congrArg (fun w => F.TMON_SD_CAUSE_VALID.of w != 0) ((railsGone_reg s (by decide)).trans (reg_put_other _ _ _ _ (by decide)))

theorem railsGone_mode (s : State) : s.railsGone.mode = s.mode := (raiseIf_mode _ _ (by decide)).trans (raise_mode (by decide))

theorem railsGone_event (s : State) : s.railsGone.evStatus 897 = true :=
  raiseIf_statusKept _ _ (by decide) _ (by decide) (raise_evStatus (by decide))

theorem railsGone_spent (hfaulted : s.hv.faulted = true) (hauto : s.bit F.HVPS_CTL_AUTO_RESTART = true) (hspent : 3 ≤ s.hv.restarts) :
    s.railsGone.evStatus 901 = true := by
  unfold State.railsGone
  rw [railsOff_hv, railsOff_restart, hfaulted, hauto, decide_eq_true hspent]
  exact raise_evStatus (by decide)

/-- A latched shutdown stops the logic, and changes nothing else of what the end of power-off leaves. -/
theorem powerOffDone_frame (s : State) :
    s.powerOffDone = { s.railsGone with mode := if s.bit F.TMON_SD_CAUSE_VALID then .shutdown else s.mode } := by
  rw [powerOffDone_eq, railsGone_shutdown, ← railsGone_mode s]
  split <;> rfl

theorem answers_railSeqStep_off (reached : BitVec 4) (hup : s.up = true) (hstate : s.get F.HVPS_CTL_STATE = 3) (hstep : s.hv.step = 2)
    (hdue : s.reached (s.hv.start + 4500000) = true) : Answers (.railSeqStep reached) s fun t =>
      t.get F.HVPS_CTL_STATE = (if s.hv.faulted then 5 else 0) ∧ t.hv = { s.hv with start := s.now, offAt := s.clock } ∧
      t.evStatus 897 = true ∧
      (s.hv.faulted = true → s.bit F.HVPS_CTL_AUTO_RESTART = true → 3 ≤ s.hv.restarts → t.evStatus 901 = true) ∧
      t.mode = if s.bit F.TMON_SD_CAUSE_VALID then .shutdown else s.mode := by
  refine ⟨_, exec_railSeqStep_off reached hup hstate, ?_⟩
  have htable : offTable[s.hv.step]? = some 4500000 := by
    rw [hstep]
    rfl
  rw [offStep_due htable hdue, if_pos hstep, powerOffDone_frame]
  exact ⟨railsGone_state s, railsGone_hv s, railsGone_event s, railsGone_spent, rfl⟩

/-! ## Brown-outs (R294) -/

/-- The state with a brown-out noted: its bit, its event, GOA_DIS high. -/
def State.brownNoted (s : State) : State :=
  ((s.put F.HVPS_FAULT_BROWNOUT 1).raise 898).onHv fun h => { h with brown := true, dis := true }

theorem brownout_eq (s : State) : s.brownout = s.brownNoted.when (s.converting && s.hvState != 4) State.hvpsOff := rfl

theorem brownNoted_hv (s : State) : s.brownNoted.hv = { s.hv with brown := true, dis := true } := by
  have hhv : ((s.put F.HVPS_FAULT_BROWNOUT 1).raise 898).hv = s.hv := raise_hv (by decide)
  exact congrArg (fun h : Hvps => { h with brown := true, dis := true }) hhv

theorem brownNoted_state (s : State) : s.brownNoted.get F.HVPS_CTL_STATE = s.get F.HVPS_CTL_STATE :=
  (raise_get_high (by decide) (by decide)).trans (State.get_put_other _ _ _ _ (by decide) (by decide))

theorem brownNoted_now (s : State) : s.brownNoted.now = s.now := congrArg TimeBase.ns (raise_tb (by decide))

theorem brownNoted_bit (s : State) : s.brownNoted.bit F.HVPS_FAULT_BROWNOUT = true :=
  (raise_bit_high (by decide) (by decide)).trans (bit_put s _ 1 (by decide))

/-- A brown-out is noted, and then at most the supplies are switched off. -/
theorem brownout_cases (s : State) : s.brownout = s.brownNoted ∨ s.brownout = s.brownNoted.hvpsOff := by
  rw [brownout_eq]
  cases s.converting && s.hvState != 4 with
  | false => exact .inl rfl
  | true => exact .inr rfl

theorem hvpsOff_reg (s : State) {a : Nat} (h : a ≠ F.HVPS_CTL_addr) : s.hvpsOff.reg a = s.reg a := by
  unfold State.hvpsOff State.when
  rw [settleDown_reg _ h]
  split <;> rfl

theorem hvpsOff_dis (s : State) (h : s.hv.dis = true) : s.hvpsOff.hv.dis = true := by
  unfold State.hvpsOff State.when
  refine settleDown_dis _ ?_
  split
  · rfl
  · exact h

theorem hvpsOff_brown (s : State) : s.hvpsOff.hv.brown = s.hv.brown := by
  unfold State.hvpsOff State.when
  rw [settleDown_brown]
  split <;> rfl

theorem brownout_reg (s : State) {a : Nat} (h : a ≠ F.HVPS_CTL_addr) : s.brownout.reg a = s.brownNoted.reg a := by
  obtain e | e := brownout_cases s
  · rw [e]
  · rw [e, hvpsOff_reg _ h]

theorem brownout_hv (s : State) : s.brownout.hv.brown = true ∧ s.brownout.hv.dis = true := by
  have hdis : s.brownNoted.hv.dis = true := by rw [brownNoted_hv]
  obtain e | e := brownout_cases s
  · rw [e, brownNoted_hv]
    exact ⟨rfl, rfl⟩
  · rw [e, hvpsOff_brown, brownNoted_hv]
    exact ⟨rfl, hvpsOff_dis _ hdis⟩

theorem brownout_settles (h : s.get F.HVPS_CTL_STATE = 2) : s.brownout = s.brownNoted.goaHeld.startSettle := by
  rw [brownout_eq, converting_iff.2 (.inr (.inl h)), State.hvState, h]
  exact hvpsOff_settles (.inl ((brownNoted_state s).trans h))

theorem brownout_waits (h : s.get F.HVPS_CTL_STATE = 0 ∨ s.get F.HVPS_CTL_STATE = 3 ∨ s.get F.HVPS_CTL_STATE = 4 ∨
    s.get F.HVPS_CTL_STATE = 5) : s.brownout = s.brownNoted := by
  rw [brownout_eq, State.converting, State.hvState]
  obtain h | h | h | h := h <;> rw [h] <;> rfl

theorem answers_vhvBrownout (hup : s.up = true) : Answers .vhvBrownout s fun t =>
    t.bit F.HVPS_FAULT_BROWNOUT = true ∧ t.evStatus 898 = true ∧ t.hv.brown = true ∧ t.goaDis = true ∧
      (s.get F.HVPS_CTL_STATE = 2 → t.get F.HVPS_CTL_STATE = 4 ∧
        t.hv = { s.hv with brown := true, dis := true, settle := some s.now }) ∧
      (s.get F.HVPS_CTL_STATE = 0 ∨ s.get F.HVPS_CTL_STATE = 3 ∨ s.get F.HVPS_CTL_STATE = 4 ∨ s.get F.HVPS_CTL_STATE = 5 →
        t.get F.HVPS_CTL_STATE = s.get F.HVPS_CTL_STATE ∧ t.hv = { s.hv with brown := true, dis := true }) := by
  have hexec : exec .vhvBrownout s = .next s.brownout := congrArg _ (if_pos (hvRuns_of_up hup))
  obtain ⟨hbrown, hdis⟩ := brownout_hv s
  refine ⟨_, hexec, ?_, ?_, hbrown, goaDis_of_dis hdis, fun h => ?_, fun h => ?_⟩
  · exact (congrArg (fun w => F.HVPS_FAULT_BROWNOUT.of w != 0) (brownout_reg s (by decide))).trans (brownNoted_bit s)
  · have hevent : s.brownNoted.evStatus 898 = true := raise_evStatus (s := s.put F.HVPS_FAULT_BROWNOUT 1) (by decide)
    rw [State.evStatus, brownout_reg s (by decide)]
    exact hevent
  · rw [brownout_settles h, startSettle_hv]
    refine ⟨startSettle_state _, ?_⟩
    unfold State.goaHeld State.onHv
    dsimp only
    rw [brownNoted_hv]
    exact congrArg (fun x => { s.hv with brown := true, dis := true, settle := some x }) (brownNoted_now s)
  · rw [brownout_waits h]
    exact ⟨brownNoted_state s, brownNoted_hv s⟩

theorem settleEnd_due {x : Word} (hsettle : s.hv.settle = some x) (hstate : s.get F.HVPS_CTL_STATE = 4)
    (hend : s.reached (x + 2000000) = true ∨ s.settled = true) :
    s.settleEnd = s.powerOff.raiseIf (s.powerOff.trl.outs.toList.any s.residue) 526 := by
  have hdue : (s.hvState == 4 && (s.reached (x + 2000000) || s.settled)) = true := by
    rw [State.hvState, hstate, Bool.or_eq_true_iff.2 hend]
    rfl
  unfold State.settleEnd
  rw [hsettle]
  dsimp only
  rw [hdue]
  rfl

theorem answers_brownoutSettleEnd {x : Word} (hup : s.up = true) (hsettle : s.hv.settle = some x) (hstate : s.get F.HVPS_CTL_STATE = 4)
    (hend : s.reached (x + 2000000) = true ∨ s.settled = true) : Answers .brownoutSettleEnd s fun t =>
      t.get F.HVPS_CTL_STATE = 3 ∧ t.hv.step = 0 ∧ t.hv.start = s.now ∧ t.hv.dis = true ∧
        (∀ o : Fin 384, t.trl.outs[o].level = .hiz) ∧
        (t.trl.outs.toList.any (fun y => decide (100 * s.settleMv < y.acc.natAbs)) = true → t.evStatus 526 = true) := by
  have hexec : exec .brownoutSettleEnd s = .next s.settleEnd := congrArg _ (if_pos (hvRuns_of_up hup))
  have h526 : 526 < 1024 := by decide
  refine ⟨_, hexec, ?_⟩
  rw [settleEnd_due hsettle hstate hend]
  dsimp only
  rw [raiseIf_hv _ _ h526, raiseIf_trl _ _ h526]
  refine ⟨?_, rfl, rfl, rfl, fun o => (powerOff_hiz s o).1, fun hleft => ?_⟩
  · exact (congrArg F.HVPS_CTL_STATE.of (raiseIf_reg_high _ _ h526 (by decide))).trans (powerOff_state s)
  · rw [show s.powerOff.trl.outs.toList.any s.residue = true from hleft]
    exact raise_evStatus h526

theorem powerOn_state (s : State) (noInit : Bool) : (s.powerOn noInit).get F.HVPS_CTL_STATE = 1 := by
  unfold State.powerOn
  rw [onHv_get, State.get_put _ _ _ (by decide)]
  rfl

theorem powerOn_hv (s : State) (noInit : Bool) : (s.powerOn noInit).hv =
    { s.hv with start := s.now, step := 0, settle := none, faulted := false, noInit := noInit, dis := true } :=
  congrArg (fun h : Hvps => { h with start := s.now, step := 0, settle := none, faulted := false, noInit := noInit, dis := true })
    (setGoa_hv s _)

theorem answers_vhvRecovered (hup : s.up = true) (hbrown : s.hv.brown = true)
    (hstate : s.get F.HVPS_CTL_STATE = 0 ∨ s.get F.HVPS_CTL_STATE = 5) (hauto : s.bit F.HVPS_CTL_AUTO_RESTART = true) :
    Answers .vhvRecovered s fun t => t.get F.HVPS_CTL_STATE = 1 ∧ t.hv = { s.hv with
        brown := false, start := s.now, step := 0, settle := none, faulted := false, noInit := false, dis := true } ∧
        t.evStatus 899 = true := by
  have h899 : 899 < 1024 := by decide
  refine answers_when (g := fun u => u.hv.brown && (u.hvState == 0 || u.hvState == 5) && u.bit F.HVPS_CTL_AUTO_RESTART)
    (f := fun u => ((u.onHv fun h => { h with brown := false }).powerOn false).raise 899) hup rfl ?_
    ⟨?_, ?_, raise_evStatus h899⟩
  · rw [hbrown, hauto, Bool.true_and, Bool.and_true]
    exact Bool.or_eq_true_iff.2 (hstate.imp beq_iff_eq.2 beq_iff_eq.2)
  · rw [raise_get_high h899 (by decide), powerOn_state]
  · rw [raise_hv h899, powerOn_hv]
    rfl

/-! ## Overvoltage, faults of rails, restarts (R296, R299, R303) -/

theorem answers_vhvOvervoltage (hup : s.up = true) : Answers .vhvOvervoltage s fun t =>
    t.bit F.HVPS_FAULT_VHV_OV = true ∧ t.evStatus 900 = true ∧
      (s.get F.HVPS_CTL_STATE = 1 ∨ s.get F.HVPS_CTL_STATE = 2 ∨ s.get F.HVPS_CTL_STATE = 4 →
        t.get F.HVPS_CTL_STATE = 3 ∧ t.hv.faulted = true ∧ t.goaDis = true) ∧
      (s.get F.HVPS_CTL_STATE = 3 → t.get F.HVPS_CTL_STATE = 3 ∧ t.hv = { s.hv with faulted := true }) := by
  have h900 : 900 < 1024 := by decide
  refine answers_ifOn (f := fun u => ((u.put F.HVPS_FAULT_VHV_OV 1).raise 900).faultNow) (alwaysOn_of_up hup) rfl ?_
  generalize hu : (s.put F.HVPS_FAULT_VHV_OV 1).raise 900 = u
  have hstate : u.get F.HVPS_CTL_STATE = s.get F.HVPS_CTL_STATE := by
    rw [← hu, raise_get_high h900 (by decide)]
    exact State.get_put_other _ _ _ _ (by decide) (by decide)
  have hhv : u.hv = s.hv := by
    rw [← hu]
    exact raise_hv h900
  refine ⟨?_, ?_, fun h => ?_, fun h => ?_⟩
  · refine (congrArg (fun w => F.HVPS_FAULT_VHV_OV.of w != 0) (faultNow_reg u (by decide))).trans ?_
    rw [← hu]
    exact (raise_bit_high h900 (by decide)).trans (bit_put s _ 1 (by decide))
  · rw [faultNow_evStatus u h900, ← hu]
    exact raise_evStatus h900
  · rw [faultNow_converting (converting_iff.2 (by rwa [hstate]))]
    obtain ⟨hoff, hfaulted, hdis⟩ := faultOff_spec u
    exact ⟨hoff, hfaulted, hdis⟩
  · rw [faultNow_falling (hstate.trans h)]
    exact ⟨hstate.trans h, congrArg (fun h : Hvps => { h with faulted := true }) hhv⟩

section RailFault

variable {kind : RailFaultKind} {f : Field} {n : Nat} (hsource : (f, n) = railSource kind) (hup : s.up = true) (k : Fin 4)
include hsource hup

/-- A watched rail's fault sets its bit and raises its event, whatever the sequence then does. -/
theorem answers_railFault_watched (hwatched : s.railWatched kind k = true) {Q : State → Prop} (hQ : Q (s.railBit kind k).faultNow) :
    Answers (.railFault kind k) s fun t => (t.get f).testBit k = true ∧ t.evStatus (n + k) = true ∧ Q t := by
  obtain ⟨haddr, -, -, hn⟩ := railSource_field hsource
  refine answers_when (g := (·.railWatched kind k)) (f := fun u => (u.railBit kind k).faultNow) hup rfl hwatched ⟨?_, ?_, hQ⟩
  · refine (congrArg (fun w => (f.of w).testBit k) (faultNow_reg _ ?_)).trans (railBit_set hsource s k)
    rw [haddr]
    decide
  · exact (faultNow_evStatus _ (by omega)).trans (railBit_evStatus hsource s k)

/-- While converters run, a fault powers the rails off. -/
theorem answers_railFault_on (h : s.get F.HVPS_CTL_STATE = 2 ∨ s.get F.HVPS_CTL_STATE = 4 ∨
    (s.get F.HVPS_CTL_STATE = 1 ∧ (kind = .noStart ∨ min k.val 2 + (if kind = .uv then 1 else 0) ≤ s.hv.step))) :
    Answers (.railFault kind k) s fun t => (t.get f).testBit k = true ∧ t.evStatus (n + k) = true ∧
      t.get F.HVPS_CTL_STATE = 3 ∧ t.hv.faulted = true ∧ t.goaDis = true := by
  have hwatched : s.railWatched kind k = true := by
    unfold State.railWatched State.converting State.hvState
    obtain h | h | ⟨h, hwatch⟩ := h
    · rw [h]
      rfl
    · rw [h]
      rfl
    · rw [h, if_pos rfl]
      obtain hkind | hstep := hwatch
      · rw [hkind]
        exact Bool.or_true _
      · rw [decide_eq_true (show railFrom kind k ≤ s.hv.step from hstep), Bool.true_or]
  refine answers_railFault_watched hsource hup k hwatched ?_
  have hrun : (s.railBit kind k).converting = true := by
    rw [converting_iff, railBit_state]
    obtain h | h | ⟨h, -⟩ := h
    · exact .inr (.inl h)
    · exact .inr (.inr h)
    · exact .inl h
  obtain ⟨hoff, hfaulted, hdis⟩ := faultOff_spec (s.railBit kind k)
  rw [faultNow_converting hrun]
  exact ⟨hoff, hfaulted, hdis⟩

/-- While the rails fall, a fault of one that is still on makes the sequence end as one of a fault. -/
theorem answers_railFault_falling (h : s.get F.HVPS_CTL_STATE = 3) (hon : k.val + s.hv.step < 2) :
    Answers (.railFault kind k) s fun t => (t.get f).testBit k = true ∧ t.evStatus (n + k) = true ∧
      t.get F.HVPS_CTL_STATE = 3 ∧ t.hv = { s.hv with faulted := true } := by
  have hwatched : s.railWatched kind k = true := by
    unfold State.railWatched State.hvState
    rw [h]
    exact decide_eq_true hon
  have hfalling : (s.railBit kind k).get F.HVPS_CTL_STATE = 3 := (railBit_state s kind k).trans h
  refine answers_railFault_watched hsource hup k hwatched ?_
  rw [faultNow_falling hfalling]
  exact ⟨hfalling, congrArg (fun h : Hvps => { h with faulted := true }) (railBit_hv s kind k)⟩

end RailFault

theorem answers_railRestart (hup : s.up = true) (hstate : s.get F.HVPS_CTL_STATE = 5) (hauto : s.bit F.HVPS_CTL_AUTO_RESTART = true)
    (hleft : s.hv.restarts < 3) (hdue : s.reached (s.hv.start + 100000000) = true) : Answers .railRestart s fun t =>
      t.get F.HVPS_CTL_STATE = 1 ∧ t.hv.restarts = s.hv.restarts + 1 ∧ t.hv.start = s.now ∧ t.hv.step = 0 := by
  refine answers_when (g := fun u => u.hvState == 5 && u.bit F.HVPS_CTL_AUTO_RESTART && decide (u.hv.restarts < 3) &&
      u.reached (u.hv.start + 100000000)) (f := fun u => (u.onHv fun h => { h with restarts := h.restarts + 1 }).powerOn false)
    hup rfl ?_ ⟨powerOn_state _ _, ?_⟩
  · rw [State.hvState, hstate, hauto, decide_eq_true hleft, hdue]
    rfl
  · rw [powerOn_hv]
    exact ⟨rfl, rfl, rfl⟩

/-! ## Measurements (R289, R302) -/

theorem answers_hvpsMeasUpdate (hup : s.up = true) (k : Fin 4) (mv vhv : BitVec 16) (hoff : s.get F.HVPS_CTL_STATE ≠ 0)
    (hfault : s.get F.HVPS_CTL_STATE ≠ 5) : Answers (.hvpsMeasUpdate k mv vhv) s fun t =>
      t.get (F.HVPS_MEAS_MV k) = mv.toNat ∧ t.get F.HVPS_VHV_MV = vhv.toNat ∧
        ∀ o : Fin 384, t.trl.outs[o] = s.countSteps s.trl.outs[o] := by
  have hk := k.isLt
  refine answers_when (g := fun u => u.hvState != 0 && u.hvState != 5)
    (f := fun u => (u.flushRails.put (F.HVPS_MEAS_MV k) mv.toNat).put F.HVPS_VHV_MV vhv.toNat) hup rfl ?_ ⟨?_, ?_, outs_flushRails s⟩
  · exact Bool.and_eq_true_iff.2 ⟨bne_iff_ne.2 hoff, bne_iff_ne.2 hfault⟩
  · rw [State.get_put_other _ _ _ _ (by simp) (.inl (by simp; omega)), State.get_put _ _ _ (by simp)]
    exact Nat.mod_eq_of_lt mv.isLt
  · rw [State.get_put _ _ _ (by decide)]
    exact Nat.mod_eq_of_lt vhv.isLt

/-! ## The obligation -/

/-- Settles O46, clause by clause: ON and OFF, the steps of power-on and of power-off, brown-outs, faults, restarts, measurements. -/
theorem suppliesSequenceTheirRails : Obligations.SuppliesSequenceTheirRails := by
  unfold Obligations.SuppliesSequenceTheirRails
  refine ⟨fun s hup => ⟨exec_hvpsOn hup, answers_hvpsOff_settles hup, answers_hvpsOff_early hup⟩,
    fun s reached hup hstate ns rails htable hdue => ⟨fun k hk => answers_railSeqStep_fails hup hstate htable hdue hk,
      answers_railSeqStep_goes hup hstate htable hdue, answers_railSeqStep_done hup hstate htable hdue⟩,
    fun s reached hup hstate => ⟨fun hstep hdue => ?_, answers_railSeqStep_off reached hup hstate⟩,
    fun s hup => ⟨answers_vhvBrownout hup, fun x => answers_brownoutSettleEnd hup, answers_vhvRecovered hup,
      answers_vhvOvervoltage hup, fun kind k f n hmatch => ?_, answers_railRestart hup, answers_hvpsMeasUpdate hup⟩⟩
  · rw [exec_railSeqStep_off reached hup hstate, offStep_due (offTable_early hstep) hdue, if_neg (Nat.ne_of_lt hstep)]
    rfl
  · have hsource : (f, n) = railSource kind := hmatch.trans (by cases kind <;> rfl)
    exact ⟨answers_railFault_on hsource hup k, answers_railFault_falling hsource hup k⟩

end Sys2Proof.Machine
end
